-- ==== Sys2Proof/Word.lean ====
section
/-! DEFINITION. The word types of the EV2048 model and the sparse table type. -/

namespace Sys2Proof

/-- A BAR0 register word (R1). -/
abbrev Word := BitVec 32
/-- A byte of a frame, a plate or device memory. -/
abbrev Byte := BitVec 8
/-- A sample-frame number (R8). -/
abbrev Sfn := BitVec 48
/-- An error code of R539. -/
abbrev Code := BitVec 8
/-- A sparse table: keys strictly rising, no entry equal to what an unlisted key reads as. -/
abbrev Tab (α : Type) := List (Nat × α)

end Sys2Proof
end

