-- ==== Sys2Proof/Machine/TyBur.lean ====
section
/-! DEFINITION. Burin cores: instructions, registers, events, core state (chapter 10). -/

namespace Sys2Proof.Machine

/-- The second source of an RR instruction: `DB`, or `IMM16` (R272). -/
inductive BSrc where
  | reg (b : Fin 16)
  | imm (v : BitVec 16)
  deriving DecidableEq, Repr

/-- The two loads of a MAC-format instruction: address register and destination of each (R272). -/
structure BLoads where
  l1 : Option (Fin 8 × Fin 16) := none
  l2 : Option (Fin 8 × Fin 16) := none
  deriving DecidableEq, Repr

/-- COND of R272. -/
inductive BCond where
  | al | eq | ne | lt | ge | gt | le | cs | cc | vs | ss
  deriving DecidableEq, Repr

/-- The special registers of MVX (R273). -/
inductive BSpec where
  | a (i : Fin 8)
  | m (i : Fin 8)
  | lk | lc | ls | le | amode
  deriving DecidableEq, Repr

/-- The 16-bit operations that write DD. -/
inductive BAlu where
  | add | sub | adds | subs | and | or | xor | shl | shra | shrl | min | max | abs
  deriving DecidableEq, Repr

/-- The operations of ACCOP (R273). -/
inductive BAcc where
  | clr | neg | add | sub | abs
  | shift (k : Int)
  deriving DecidableEq, Repr

/-- The count of LOOP: a data register, or an immediate (R273). -/
inductive BCount where
  | reg (i : Fin 16)
  | imm (n : BitVec 8)
  deriving DecidableEq, Repr

/-- A decoded burin instruction (R272, R273). -/
inductive BOp where
  | nop
  | alu (op : BAlu) (dd da : Fin 16) (s : BSrc)
  | cmp (da : Fin 16) (s : BSrc)
  | mpy (ac : Bool) (da db : Fin 16) (l : BLoads)
  | mac (ac neg : Bool) (da db : Fin 16) (l : BLoads)
  | accop (ac : Bool) (op : BAcc)
  | mva (dd : Fin 16) (ac : Bool)
  | mvr (dd : Fin 16) (ac : Bool) (k : BitVec 5)
  | geta (dd : Fin 16) (ac : Bool) (part : Fin 3)
  | puta (ac : Bool) (da : Fin 16) (part : Fin 3)
  | ld (dd : Fin 16) (ai : Fin 8) (pm : Bool) (ofs : BitVec 16)
  | st (dd : Fin 16) (ai : Fin 8) (pm : Bool) (ofs : BitVec 16)
  | ldi (dd : Fin 16) (v : BitVec 16)
  | mvx (toSpec : Bool) (dd : Fin 16) (x : BSpec)
  | br (c : BCond) (ofs : BitVec 16)
  | call (ofs : BitVec 16)
  | ret
  | loop (n : BCount) (len : BitVec 16)
  | rti
  | wait
  | sig (i : Fin 16)
  | flag (clrV clrS clrFe : Bool)
  | brk
  deriving DecidableEq, Repr

/-- A register that R269's visibility rule covers. -/
inductive BReg where
  | d (i : Fin 16)
  | a (i : Fin 8)
  | m (i : Fin 8)
  deriving DecidableEq, Repr

/-- A register bank (R264). -/
structure Bank where
  dr    : Tab (BitVec 16) := []
  ar    : Tab (BitVec 16) := []
  mr    : Tab (BitVec 16) := []
  ac0   : BitVec 40 := 0
  ac1   : BitVec 40 := 0
  z     : Bool := false
  n     : Bool := false
  c     : Bool := false
  v     : Bool := false
  s     : Bool := false
  lk    : BitVec 16 := 0
  lc    : BitVec 16 := 0
  ls    : BitVec 16 := 0
  le    : BitVec 16 := 0
  amode : BitVec 32 := 0
  pc    : BitVec 13 := 0
  /-- A loop is active. -/
  loop  : Bool := false
  /-- The branch target that takes effect after the delay slot. -/
  delay : Option (BitVec 13) := none
  /-- Registers that the instruction just issued has written, not visible to the next one (R269). -/
  fresh : List BReg := []
  deriving DecidableEq, Repr

/-- `CSTAT.STATE` (R263). -/
inductive CoreState where
  | off | run | wait | halted | shed | fault | loading
  deriving DecidableEq, Repr

/-- A queued event (R277). -/
structure BEvent where
  task  : Nat
  kind  : Nat
  flags : Nat := 0
  stamp : Sfn := 0
  group : Nat := 0
  /-- Address of the record in data memory, and its words. -/
  addr  : Nat := 0
  words : Nat := 0
  deriving DecidableEq, Repr

/-- A task as placed on a core (R276, R283). -/
structure Placed where
  /-- Index of the entry in the BURIN section. -/
  entry : Nat
  /-- First instruction of its program, and first word of its data region. -/
  prog  : Nat
  data  : Nat
  /-- Words written to and words in use in its tap ring; an event of the task was lost. -/
  ringWr : Nat := 0
  ringUsed : Nat := 0
  loss  : Bool := false
  deriving DecidableEq, Repr

/-- The port block's words (R275). -/
structure Ports where
  localNow : BitVec 48 := 0
  cmtPage : BitVec 16 := 0
  cmtWhen : BitVec 16 := 0
  cmtSfn  : Sfn := 0
  cmtStat : BitVec 16 := 0
  swSfn   : Sfn := 0
  swBits  : Tab (BitVec 16) := []
  xfLocal : BitVec 16 := 0
  xfDev   : BitVec 48 := 0
  xfWords : BitVec 16 := 0
  xfDir   : Bool := false
  xfBusy  : Bool := false
  xfFe    : Bool := false
  fwBase  : BitVec 16 := 0
  tmInterval : BitVec 16 := 0
  deriving DecidableEq, Repr

/-- A burin core (R262 to R264). -/
structure Core where
  state  : CoreState := .off
  /-- The state that a halt or shedding interrupted. -/
  held   : CoreState := .off
  bank1  : Bool := false
  b0     : Bank := {}
  b1     : Bank := {}
  fe     : Bool := false
  loss   : Bool := false
  /-- The running task's index on the core. -/
  task   : Option Nat := none
  cmode  : Word := 0
  dbgsel : Word := 0
  halt   : Bool := false
  pmem   : Tab Word := []
  dmem   : Tab (BitVec 16) := []
  /-- S6 has lost the memories: index of the loss (R286). -/
  lost   : Option Nat := none
  /-- Events stamped at or before this are not for the tasks (R285, R286). -/
  since  : Sfn := 0
  /-- The state to which RTI returns. -/
  irqFrom : CoreState := .wait
  tasks  : List Placed := []
  queue  : List BEvent := []
  peak   : Nat := 0
  /-- Pending interrupts, kind and task. -/
  irqs   : List (Nat × Nat) := []
  mbxIn  : List (BitVec 16) := []
  mbxOut : List (BitVec 16) := []
  ports  : Ports := {}
  /-- LOCAL time at which the TIMER period began. -/
  timerAt : BitVec 64 := 0
  fault  : Word := 0
  cyc    : Nat := 0
  cycLast : Nat := 0
  /-- Tasks restart with RESUME: SFN of the restart. -/
  resumeAt : Option Sfn := none
  /-- The event being run, freed at WAIT. -/
  running : Option BEvent := none
  deriving DecidableEq, Repr

/-- The cluster. -/
structure BurSt where
  cores : Tab Core := []
  /-- Parameter words by core × 512 + word: shadow and active (R282). -/
  parSh : Tab (BitVec 16) := []
  par   : Tab (BitVec 16) := []
  /-- Events that wait for a reload (R285). -/
  hold  : List (Nat × BEvent × List (BitVec 16)) := []
  deriving DecidableEq, Repr

end Sys2Proof.Machine
end

