-- ==== Sys2Proof/Machine/TySys.lean ====
section
/-! DEFINITION. The state of the system manager: pages, tickets, commands, error log, boot, power, ESTOP and the
freeze snapshot (chapters 18 to 22). Every default value is the reset value. -/

namespace Sys2Proof.Machine

/-- `SYS.STATE`, encoded by R512. -/
inductive DevState where
  | off | imageWait | booting | ready | idle | running | draining | frozen | quiesced | selftest | recovery
  deriving DecidableEq, Repr

/-- `PERR` of a page (R522, R524). -/
structure Perr where
  code   : Code := 0
  word   : BitVec 16 := 0
  count  : BitVec 7 := 0
  sticky : Bool := false
  deriving DecidableEq, Repr

/-- An armed commit ticket (R32, R529): its number, its WHEN, and its boundary (none for NOW). -/
structure Ticket where
  num    : BitVec 16
  when   : Nat
  target : Sfn
  /-- A mirrored ticket of R467 is listed like any other. -/
  mirrored : Bool := false
  deriving DecidableEq, Repr

/-- The header state of one page (R522 to R525, R529, R530). -/
structure Page where
  perr     : Perr := {}
  pirq     : Word := 0
  pirqen   : Word := 0
  en       : Bool := false
  irqOnErr : Bool := false
  /-- The block is out of reset and started by bring-up (R521). -/
  started  : Bool := false
  pgen     : Word := 0
  armed    : Option Ticket := none
  locked   : Bool := false
  lastTicket : BitVec 16 := 0
  calStale : Bool := false
  /-- A message is owed that the page could not send when it became pending (R557). -/
  owed     : Bool := false
  deriving DecidableEq, Repr

/-- The pages that are in service without bring-up: SYS, AON, PWR, CLK and TIME (R14, R523). -/
def bootPages : Tab Page :=
  [(0, { en := true, started := true }), (1, { en := true, started := true }), (2, { en := true, started := true }),
   (4, { en := true, started := true }), (5, { en := true, started := true })]

/-- One entry of `SYS.ERRLOG` (R534). -/
structure ErrEnt where
  page  : Nat
  code  : Code
  word  : Nat
  event : Bool
  time  : BitVec 64
  deriving DecidableEq, Repr

/-- `SYS.CMDSTAT` (R535). -/
structure CmdStat where
  result : Code := 0
  cmd    : Code := 0
  ready  : Bool := false
  busy   : Bool := false
  gen    : BitVec 8 := 0
  deriving DecidableEq, Repr

/-- What the block sends or answers to the outside, newest first. -/
inductive Out where
  /-- An MSI-X message on a vector (R525, R556). -/
  | msi (vector : Nat)
  /-- An I3C in-band interrupt with its payload (R563). -/
  | ibi (payload : Byte)
  /-- The value a read returns. -/
  | data (w : Word)
  /-- The bytes a BAR2 read returns, and whether they are poisoned. -/
  | bytes (l : List Byte) (poison : Bool)
  /-- The access completes with Unsupported Request (R519). -/
  | unsupported
  /-- The access completes with Completer Abort. -/
  | abort
  /-- A Felt frame leaves on a logical lane. -/
  | frame (lane : Nat) (bytes : List Byte)
  /-- An alignment marker leaves on a physical lane. -/
  | marker (lane : Nat) (payload : List Byte)
  /-- A named land changes level. -/
  | land (name : String) (level : Bool)
  /-- An Ethernet frame leaves on a port. -/
  | eth (port : Nat) (bytes : List Byte)
  /-- Bytes are written to a host bus address. -/
  | hostWr (addr : Nat) (bytes : List Byte)
  /-- A slot word leaves a monitor slot port. -/
  | slot (port : Nat) (slot : Nat) (w : Word)
  deriving DecidableEq, Repr

/-- The SYS page's own state (R534, R535, R545). -/
structure SysSt where
  state    : DevState := .imageWait
  cmdstat  : CmdStat := {}
  /-- The command that waits for its judgement: its code, and the LOCAL time at which it was written. -/
  cmdPend  : Option (Code × BitVec 64) := none
  errlog   : List ErrEnt := []
  errlogDisc : Nat := 0
  errlogT  : BitVec 64 := 0
  sheetcnt : Word := 0
  reamcnt  : Word := 0
  /-- SFN[47:32] latched for each master by a read of SFN_NOW_LO (R545). -/
  sfnLatch : Tab (Option (BitVec 16)) := []
  /-- The state before SELFTEST (R511). -/
  before   : DevState := .off
  /-- LOCAL time at which SELFTEST was accepted. -/
  selfAt   : BitVec 64 := 0
  out      : List Out := []
  deriving DecidableEq, Repr

/-- Boot, reset and watchdog state (R502 to R518). -/
structure BootSt where
  step     : Nat := 0
  stepFail : BitVec 5 := 0
  refto    : Bool := false
  recov    : Bool := false
  fatal    : Bool := false
  memFail  : Nat := 0
  qFail    : Nat := 0
  path     : Bool := false
  imglen   : BitVec 26 := 0
  cause    : Nat := 0
  tries    : BitVec 8 := 0
  imgSvn   : BitVec 8 := 0
  /-- Bytes received on the stream path since CLR. -/
  stream   : List Byte := []
  /-- The boot window's bytes. -/
  window   : Tab Byte := []
  /-- An uncorrectable code error lies in the boot window. -/
  winPoison : Bool := false
  /-- The retained image of R508, with its entry data. -/
  retained : List Byte := []
  wdTimeout : BitVec 16 := 0x7D0
  wdEn     : Bool := false
  wdStage  : Bool := false
  /-- LOCAL time at which the count was last restarted. -/
  wdStart  : BitVec 64 := 0
  rstCause : Nat := 1
  rstRail  : Nat := 0
  rstCount : BitVec 8 := 0
  porstLow : Bool := false
  perstLow : Bool := true
  linkUp   : Bool := false
  /-- The supply hold of R482 is in force. -/
  hold     : Bool := false
  thermtrip : Bool := false
  /-- Step 5: LOCAL time at which the wait began. -/
  step5At  : BitVec 64 := 0
  deriving DecidableEq, Repr

/-- Rails, temperature and shed levels (R479 to R500). -/
structure PwrSt where
  /-- Last sampled voltage of each rail, mV; none: not sampled since reset. -/
  mv       : Tab (Option Nat) := []
  /-- Bit k - 1: the rail has reached Sk and not left it. -/
  reached  : Tab (BitVec 6) := []
  /-- Nanoseconds for which the rail's margin has stayed above 10 %; none while it is not above. -/
  lowNs    : Tab (Option Nat) := []
  level    : Nat := 0
  shedMax  : Nat := 0
  thermal  : Nat := 0
  host     : Nat := 0
  tj       : BitVec 8 := 0
  sensor   : BitVec 5 := 0
  warn     : Bool := false
  /-- LOCAL time since which the highest of the three levels has stayed below the effective level. -/
  belowAt  : Option (BitVec 64) := none
  /-- The sheet boundary at which the monitor slot ports restart after recovery to S0 (R449). -/
  portsAt  : Option Sfn := none
  /-- LOCAL time at which the present level began, for USLEVk. -/
  sinceAt  : BitVec 64 := 0
  deriving DecidableEq, Repr

/-- ESTOP (R564 to R568). -/
structure EstopSt where
  active  : Bool := false
  srcCmd  : Bool := false
  srcReg  : Bool := false
  srcI3c  : Bool := false
  srcLand : Bool := false
  landLow : Bool := false
  deriving DecidableEq, Repr

/-- One AON access port: the capability or I3C (R560, R562). -/
structure AonPort where
  cmd    : Word := 0
  addr   : Word := 0
  data   : Word := 0
  result : Code := 0
  deriving DecidableEq, Repr

/-- The AON island's own state: ESTOP, the freeze snapshot and the access ports. -/
structure AonSt where
  estop    : EstopSt := {}
  autoFrz  : Bool := true
  autoWdog : Bool := true
  valid    : Bool := false
  busy     : Bool := false
  cause    : Nat := 0
  missed   : BitVec 8 := 0
  /-- Snapshots since power-on reset (R570). -/
  taken    : Word := 0
  /-- The snapshot SRAM, one entry per 32-bit word. -/
  sram     : Tab Word := []
  cap      : AonPort := {}
  i3c      : AonPort := {}
  /-- The I3C register index of the last private write. -/
  i3cIdx   : Byte := 0
  /-- The dynamic address, if one is assigned. -/
  i3cDyn   : Option (BitVec 7) := none
  deriving DecidableEq, Repr

/-- Common commands of I3C (R563): assignment of a dynamic address by ENTDAA or SETDASA, RSTDAA, and the reads GETPID,
GETBCR, GETDCR and GETSTATUS, whose values the spec does not give. Any other command has no effect. -/
inductive Ccc where
  | entdaa (addr : BitVec 7)
  | setdasa (addr : BitVec 7)
  | rstdaa
  | getpid | getbcr | getdcr | getstatus
  | other (code : Byte)
  deriving DecidableEq, Repr

end Sys2Proof.Machine
end

