-- ==== Sys2Proof/Machine/TyTime.lean ====
section
/-! DEFINITION. Time bases, alarms, monitor slot ports and Ethernet timing ports (chapter 16). -/

namespace Sys2Proof.Machine

/-- `BASESTAT.STATE` (R451). -/
inductive BaseState where
  | invalid | tracking | hold | slewing | free
  deriving DecidableEq, Repr

/-- One time base's control state (R432 to R435, R451). -/
structure Base where
  /-- `BASECFG`. -/
  cfg      : Word := 0x1000
  state    : BaseState := .invalid
  mvalid   : Bool := false
  stepPend : Bool := false
  steps    : BitVec 16 := 0
  /-- The rate in force, units of 2^-40. -/
  rate     : Int := 0
  stepLast : BitVec 64 := 0
  setval   : BitVec 64 := 0
  /-- Qualified PPS edges since the selection. -/
  edges    : Nat := 0
  deriving DecidableEq, Repr

/-- One alarm unit (R437, R438, R451). -/
structure Alarm where
  ctl     : Word := 0
  val     : BitVec 64 := 0
  per     : BitVec 64 := 0
  fired   : Bool := false
  stepped : Bool := false
  late    : Bool := false
  missed  : BitVec 16 := 0
  deriving DecidableEq, Repr

/-- The SNAP registers (R436). -/
structure TimeSnap where
  gen   : BitVec 16 := 0
  ready : Bool := false
  arr   : BitVec 64 := 0
  frac  : BitVec 32 := 0
  sfn   : BitVec 48 := 0
  loc   : BitVec 64 := 0
  peer  : BitVec 64 := 0
  deriving DecidableEq, Repr

/-- The CLK/TIME island's bases (R431 to R438). -/
structure TimeSt where
  arr      : BitVec 64 := 0
  arrFrac  : BitVec 32 := 0
  sfn      : BitVec 48 := 0
  sfnFrac  : BitVec 32 := 0
  /-- The part of a 2^-32 period not yet in `sfnFrac`, in units of 10^-9 of it. -/
  sfnRes   : Nat := 0
  loc      : BitVec 64 := 0
  peer     : BitVec 64 := 0
  peerFrac : BitVec 32 := 0
  baseArr  : Base := {}
  baseSmp  : Base := {}
  baseLoc  : Base := { state := .free }
  basePeer : Base := {}
  sfnEpoch : BitVec 64 := 0
  fch      : BitVec 64 := 0
  tsmode   : BitVec 2 := 0
  baseIdx  : Nat := 0
  alarms   : Tab Alarm := []
  snap     : TimeSnap := {}
  deriving DecidableEq, Repr

/-- `MSTAT.STATE` of a monitor slot port (R454). -/
inductive MspState where
  | off | run | clkloss | shed
  deriving DecidableEq, Repr

/-- The masks of one port's bank (R445, R447). -/
structure MspBank where
  outMask : Word := 0
  inMask  : Word := 0
  src     : Tab (BitVec 8) := []
  deriving DecidableEq, Repr

/-- One monitor slot port (R443 to R449, R454). -/
structure MspPort where
  cfg      : BitVec 5 := 0
  geom     : Word := 0x31F
  framelen : BitVec 12 := 0x400
  sckinc   : Word := 0
  state    : MspState := .off
  bank     : MspBank := {}
  /-- A committed bank waits for the port's next frame start. -/
  next     : Option MspBank := none
  maskgen  : Word := 0
  ringwr   : BitVec 6 := 0
  ringrd   : BitVec 6 := 0
  /-- Filled entries of the ring. -/
  filled   : Nat := 0
  auxidx   : BitVec 5 := 0
  /-- The IN words of the last complete frame, by slot. -/
  aux      : Tab Word := []
  /-- Frames in the open block; 0: no block open. -/
  frame    : Nat := 0
  blocks   : Word := 0
  stampArr : BitVec 64 := 0
  stampFrac : BitVec 32 := 0
  stampSfn : Word := 0
  /-- ARRAY was not TRACKING at the stamp. -/
  stampInv : Bool := false
  /-- IN words of the open block, frame by frame, oldest first. -/
  words    : List (List Word) := []
  deriving DecidableEq, Repr

/-- One Ethernet timing port (R439 to R442, R453). -/
structure EthPort where
  ctl      : Word := 0x6
  link     : Bool := false
  ptpState : Nat := 0
  foreign_ : Nat := 0
  mac      : BitVec 48 := 0
  ipv4     : Word := 0
  asym     : Word := 0
  offset   : Word := 0
  delay    : Word := 0
  gmid     : BitVec 64 := 0
  gmqual   : Word := 0
  /-- Corrected stamps of the last receive and transmit event message, picoseconds of ARRAY. -/
  rxStamp  : Nat := 0
  txStamp  : Nat := 0
  /-- Sync messages since this was last cleared, for the lock of the servo. -/
  sync     : Nat := 0
  deriving DecidableEq, Repr

/-- What the port's protocol engine holds after a message (R439). -/
structure PtpResult where
  /-- Offset from the master as measured, 0.25 ns, before ASYM is taken off. -/
  offset  : Int
  /-- Mean path delay, 0.25 ns. -/
  delay   : Word
  /-- Frequency estimate, 2^-40. -/
  freq    : Int
  gmid    : BitVec 64
  gmqual  : Word
  state   : Fin 4
  foreign_ : Fin 9
  deriving DecidableEq, Repr

end Sys2Proof.Machine
end

