-- ==== Sys2Proof/Syntax.lean ====
section
/-! DEFINITION. The commands of the block: one constructor for each row of the opcode table, with its operands. What an
event carries beside its subject is what only the outside can know: a measurement, a received frame, which check failed.
An operand list is judged in `WellFormed`. -/

namespace Sys2Proof

/-- The commands of the block. -/
inductive Instr where
  /-- `START` (R26). START command: resolves S0, activates the armed plate and enters RUNNING, or in pair mode joins or
  claims ownership. Operands: `ownerAt`: S0 is one of the pair owner's ream boundaries (R473). -/
  | start (ownerAt : Bool)
  /-- `STOP` (R27). STOP command: fixes B_last at the first ream boundary at least W ahead, after which the run ends. -/
  | stop
  /-- `QUIESCE` (R513). QUIESCE command: stops the data path at once without waiting for a ream boundary and enters
  QUIESCED. -/
  | quiesce
  /-- `ESTOP` (R564). ESTOP command code 0x13 written to SYS.CMD puts ESTOP in force. -/
  | estop
  /-- `LATCH` (R538). LATCH command: performs a statistics latch in every page without a ream boundary. -/
  | latch
  /-- `BUILD` (R187). BUILD command: snapshots the fault map and starts building the request into the staged slot. -/
  | build
  /-- `PROOF` (R191). PROOF command: starts proofing the staged plate against the current fault map. -/
  | proof
  /-- `ARM` (R196). ARM command: arms the proofed staged plate for takeover at START or at a ream boundary. -/
  | arm
  /-- `SELFTEST` (R309). SELFTEST command: runs the quire, memory and lane self-test parts and enters SELFTEST. -/
  | selftest
  /-- `RETRAIN_MEM` (R356). RETRAIN_MEM command: retrains every memory channel in IDLE while preserving memory contents.
  -/
  | retrainMem
  /-- `THAW` (R359). THAW command: takes the channels out of self-refresh and starts the post-freeze check. -/
  | thaw
  /-- `HANDOVER` (R460). HANDOVER command: the owner stops publishing, sends HANDOFF and lowers OWN_OUT for an eligible
  partner. -/
  | handover
  /-- `RESYNC_TIME` (R435). RESYNC_TIME command: reselects the master of a time base, which permits one step. -/
  | resyncTime
  /-- `COMMAND_TIMEOUT` (R535). A command that firmware has not judged within 10 ms completes CMDSTAT with E_TIMEOUT. -/
  | commandTimeout
  /-- `REGISTER_WRITE` (R527). A host write to a register that has no row of its own: it is accepted, or rejected as a
  whole with a PERR code. Operands: byte offset `off` within the page. -/
  | registerWrite (page : Fin 256) (off : BitVec 16) (v : Word)
  /-- `MISALIGNED_ACCESS` (R1). A BAR0 access that is not a naturally aligned 32-bit access is rejected with E_ALIGN and
  changes nothing. Operands: `len` bytes at byte offset `off`. -/
  | misalignedAccess (page : Fin 256) (off : BitVec 16) (len : Fin 65) (write : Bool)
  /-- `RESERVED_PAGE_ACCESS` (R519). An access to a reserved BAR0 page completes with Unsupported Request and has no
  effect. -/
  | reservedPageAccess (page : Fin 256) (off : BitVec 16) (write : Bool)
  /-- `ERRLOG_POP` (R534). A read of SYS.ERRLOG returns and removes the oldest error-log entry. -/
  | errlogPop
  /-- `MBXOUT_POP` (R288). A read of a burin core's MBXOUT returns and removes the oldest outbound mailbox word. -/
  | mbxoutPop (core : Fin 64)
  /-- `FAULTLOG_POP` (R399). A read of MMU.FAULTLOG returns and removes the oldest MMU fault entry. -/
  | faultlogPop
  /-- `SFN_NOW_READ` (R545). A read of SFN_NOW_LO latches SFN[47:32] for the next SFN_NOW_HI read by the same master.
  Operands: master 0 the host, 1 the AON capability, 2 the I3C port; `hi`: the read is of SFN_NOW_HI. -/
  | sfnNowRead (master : Fin 3) (hi : Bool)
  /-- `PERRCLR_WRITE` (R522). Any write to PERRCLR clears the page's PERR to zero. -/
  | perrclrWrite (page : Fin 256)
  /-- `PIRQ_CLEAR` (R525). A W1C write to PIRQ clears bits and resends the page's message if the interrupt is still
  pending. -/
  | pirqClear (page : Fin 256) (v : Word)
  /-- `PIRQSET_WRITE` (R525). A write to PIRQSET sets PIRQ bits exactly as their events would. -/
  | pirqsetWrite (page : Fin 256) (v : Word)
  /-- `PCOMMIT` (R529). A write to PCOMMIT arms a commit ticket for the page's shadow bank, subject to the arming checks.
  Operands: ticket number and WHEN. -/
  | pcommit (page : Fin 256) (num : BitVec 16) (when : BitVec 4)
  /-- `COMMIT_APPLY` (R530). A ticket's boundary is reached: ARMED falls, LAST_TICKET takes the ticket number and the
  shadow bank swaps. -/
  | commitApply (page : Fin 256)
  /-- `SHADOW_UNLOCK` (R530). The last unit of a page has switched, or its longer hold has ended, so LOCKED falls. -/
  | shadowUnlock (page : Fin 256)
  /-- `PCTL_EN_WRITE` (R523). A write to PCTL.EN enables the block, or clock-gates it where that is allowed. -/
  | pctlEnWrite (page : Fin 256) (en irqOnErr : Bool)
  /-- `PCTL_SRST` (R523). A write to PCTL.SRST resets the page's island. Operands: EN and IRQ_ON_ERR are written as they
  are. -/
  | pctlSrst (page : Fin 256)
  /-- `MLADEF_ISLAND_RESET` (R515). A watchdog stage 1 expiry or SYS.PCTL.SRST resets the Mladef island, re-verifies the
  retained image and enters RECOVERY. Operands: by the watchdog's stage 1, or by SYS.PCTL.SRST. -/
  | mladefIslandReset (wdog : Bool)
  /-- `WATCHDOG_EXPIRE` (R515). The AON watchdog count expires (stage 1), or RECOVERY fails to reach READY in time (stage
  2). -/
  | watchdogExpire
  /-- `RECOVERY_COMPLETE` (R515). The RECOVERY steps complete and the state becomes READY. -/
  | recoveryComplete
  /-- `WDOG_FIRE` (R518). A write of WDOG.FIRE forces a stage 2 reset. Operands: TIMEOUT is written as it is. -/
  | wdogFire
  /-- `IRQMAP_WRITE` (R556). A write to an IRQMAP entry changes the page's vector and resends any pending message on the
  new vector. -/
  | irqmapWrite (entry vector : Fin 256)
  /-- `POWER_ON_RESET` (R502). PORST_N asserted or VAON lost: every island resets and the state is OFF. -/
  | powerOnReset
  /-- `PORST_RELEASE` (R504). PORST_N released, or the internal power-on reset ends: the boot ROM runs and the state
  becomes IMAGE_WAIT. -/
  | porstRelease
  /-- `LINK_RESET` (R503). PERST_N asserted, a hot reset, or link down: every island except AON and CLK/TIME resets.
  Operands: PERST_N falls, or the link resets. -/
  | linkReset (perst : Bool)
  /-- `PCIE_LINK_UP` (R401). The PCIe link finishes training and comes up, which updates LINKSTAT and raises LINKCHG. -/
  | pcieLinkUp (speed : BitVec 4) (width : BitVec 6) (flit : Bool)
  /-- `IMGDATA_WRITE` (R505). A write to IMGDATA appends one 32-bit word of a streamed image. -/
  | imgdataWrite (v : Word)
  /-- `IMGCTL_CLR` (R505). IMGCTL.CLR resets the stream position. Operands: PATH is written with it. -/
  | imgctlClr (path : Bool)
  /-- `IMGCTL_GO` (R506). IMGCTL.GO starts verification of the delivered Attine image. Operands: PATH is written with it.
  -/
  | imgctlGo (path : Bool)
  /-- `IMAGE_VERIFY_DONE` (R506). Image verification ends, either with an AUTHSTAT cause or with BOOTING and the Mladef
  cores started. Operands: an uncorrectable code error in the boot window; the system PLL does not lock (R510). -/
  | imageVerifyDone (poison pllFail : Bool)
  /-- `BRINGUP_COMPLETE` (R509). Bring-up step 5 completes and the state becomes READY. -/
  | bringupComplete
  /-- `BRINGUP_REF_TIMEOUT` (R509). Step 5 waits 30 s without a reference, so REFTO is set and the loop stays FREERUN. -/
  | bringupRefTimeout
  /-- `SUPPLY_SAMPLE` (R480). Each 200 ns rail sample updates margins and the supply level. Operands: a rail's millivolts,
  and the power averaged over 1 ms in 0.1 W. -/
  | supplySample (rail : Fin 10) (mv power : Nat)
  /-- `SHED_FALL` (R486). After 10 ms below the effective level, the effective level falls by one. -/
  | shedFall
  /-- `SUPPLY_RESET` (R482). A rail more than 10 % low for over 1 µs starts a SUPPLY reset that holds the islands. -/
  | supplyReset (rail : Fin 10)
  /-- `SUPPLY_HOLD_RELEASE` (R482). Every rail returns within its S1 threshold, so the islands are released into
  IMAGE_WAIT. -/
  | supplyHoldRelease
  /-- `TEMP_SAMPLE` (R491). Each 50 µs junction sensor sample updates the thermal level and the warning. Operands: signed
  °C of the hottest sensor, and its number. -/
  | tempSample (t : BitVec 8) (sensor : BitVec 5)
  /-- `SHEDREQ_WRITE` (R483). A write to PWR.SHEDREQ sets the host shed level. -/
  | shedreqWrite (v : Word)
  /-- `ESTOP_N_EDGE` (R564). A falling edge on ESTOP_N that passes the glitch filter puts ESTOP in force. -/
  | estopNEdge
  /-- `ESTOP_ASSERT` (R568). AON.ESTOP.ASSERT puts ESTOP in force. -/
  | estopAssert
  /-- `ESTOP_RELEASE` (R567). AON.ESTOP.RELEASE ends ESTOP and restarts the transmitters. -/
  | estopRelease
  /-- `AON_NOP` (R561). AONCMD operation NOP. Operands: over I3C, or over the PCIe capability. -/
  | aonNop (i3c : Bool)
  /-- `AON_READ` (R561). AONCMD READ reads one word of an always-on page into AONDATA. Operands: PAGE and AONADDR. -/
  | aonRead (i3c : Bool) (page : Byte) (word : BitVec 14)
  /-- `AON_ESTOP` (R561). AONCMD ESTOP puts ESTOP in force. Operands: over I3C, or over the PCIe capability. -/
  | aonEstop (i3c : Bool)
  /-- `AON_RELEASE` (R561). AONCMD RELEASE releases ESTOP. Operands: over I3C, or over the PCIe capability. -/
  | aonRelease (i3c : Bool)
  /-- `AON_SNAPTAKE` (R561). AONCMD SNAPTAKE takes a freeze snapshot. Operands: over I3C, or over the PCIe capability. -/
  | aonSnaptake (i3c : Bool)
  /-- `AON_SNAPCLR` (R561). AONCMD SNAPCLR discards the held snapshot. Operands: over I3C, or over the PCIe capability. -/
  | aonSnapclr (i3c : Bool)
  /-- `AON_WDRESET` (R561). AONCMD WDRESET, with the confirmation value, forces a stage 2 reset. Operands: CONFIRM. -/
  | aonWdreset (i3c : Bool) (confirm : Byte)
  /-- `AON_SETSHED` (R561). AONCMD SETSHED writes the host shed level. Operands: AONADDR[2:0]. -/
  | aonSetshed (i3c : Bool) (level : BitVec 3)
  /-- `AON_READSNAP` (R561). AONCMD READSNAP reads one snapshot word into AONDATA. Operands: AONADDR. -/
  | aonReadsnap (i3c : Bool) (word : BitVec 14)
  /-- `I3C_PRIVATE_WRITE` (R563). An I3C private write writes an AON-port register named by its index byte. Operands:
  index byte and data. -/
  | i3cPrivateWrite (idx : Byte) (v : Word)
  /-- `I3C_PRIVATE_READ` (R563). An I3C private read returns the register named by the last index. -/
  | i3cPrivateRead
  /-- `I3C_CCC` (R563). An I3C common command such as ENTDAA, SETDASA, RSTDAA or GETPID is handled by the target. -/
  | i3cCcc (code : Machine.Ccc)
  /-- `SNAP_TAKE` (R571). SNAPCTL.TAKE starts a freeze snapshot. Operands: the AUTO bits are written as they are. -/
  | snapTake
  /-- `SNAP_CLEAR` (R571). SNAPCTL.CLEAR discards the held snapshot. Operands: the AUTO bits are written as they are. -/
  | snapClear
  /-- `SNAPSHOT_DONE` (R569). A snapshot copy completes, sets VALID and raises SNAPDONE. -/
  | snapshotDone
  /-- `MEMORY_FREEZE` (R357). An uncorrectable codeword or a command-address parity alert freezes the memory controller
  and the state. Operands: the cause less 1 (UEREAD, UESCRUB, UERMW, CAPAR), the device address, and what FRZSYN
  shows. -/
  | memoryFreeze (cause : Fin 4) (addr : BitVec 38) (syn : Word)
  /-- `FRZFORCE` (R357). A write of MEMC.FRZFORCE forces a freeze. -/
  | frzforce (v : Word)
  /-- `THAW_CHECK_DONE` (R359). The post-THAW check ends: the controller returns to RUN, or freezes again with E_THAWCHK.
  Operands: a parity alert recurs, the failing location, and whether the access still fails. -/
  | thawCheckDone (recur : Bool) (addr : BitVec 38) (syn : Word) (still : Bool)
  /-- `PATROL_SCRUB` (R348). The patrol scrubber reads the next access of every channel and writes back corrections.
  Operands: channels with a CORRECTED (1) or UNCORRECTABLE (2) codeword. -/
  | patrolScrub (found : List (Fin 40 × Fin 3))
  /-- `REFRESH_RATE_POLL` (R352). Every 4 ms the device temperatures are read and the refresh rate is doubled or restored.
  Operands: each device's temperature and threshold. -/
  | refreshRatePoll (temps : List (BitVec 8 × BitVec 8))
  /-- `MEMORY_CHANNEL_STALE` (R355). A channel's tracked read-strobe or write-clock phase moves 16/64 UI or more from the
  trained value, so it sets STALE and raises the MEMG interrupt. Operands: the tracked phases of a channel, in 1/64
  UI. -/
  | memoryChannelStale (chan : Fin 40) (t0 t1 : BitVec 8)
  /-- `MEMORY_TRAINING_DONE` (R353). Memory training and the full-memory check complete and the calibration records are
  stored. Operands: channels that fail, device addresses in error, quires and lanes that fail their tests, an SRAM
  test failure (R353, R509, R510). -/
  | memoryTrainingDone (failed : List (Fin 40)) (bad : List (BitVec 38)) (quires : List (Fin 148)) (lanes : List (Fin 256)) (sram : Bool)
  /-- `RETRAIN_DONE` (R356). A memory retrain completes and TRAINDONE is raised. -/
  | retrainDone (failed : List (Fin 40))
  /-- `EXCLADD` (R349). A write to EXCLADD adds a row exclusion to the fault map. -/
  | excladd (v : Word)
  /-- `INJCTL_WRITE` (R361). A write to INJCTL arms a code-error injection for the next host write. -/
  | injctlWrite (v : Word)
  /-- `SELFTEST_DONE` (R514). All self-test parts complete and the state returns to what it was before. Operands: quires,
  device addresses and lanes that fail. -/
  | selftestDone (quires : List (Fin 148)) (bad : List (BitVec 38)) (lanes : List (Fin 256))
  /-- `QUIESCE_DONE` (R511). Every data-path unit has stopped and the due capture records are written, so the state
  becomes IDLE. -/
  | quiesceDone
  /-- `SIGNAL_DETECT` (R325). Signal detect asserts on a lane receiver and adaptation starts. -/
  | signalDetect (n : Fin 256)
  /-- `ELECTRICAL_IDLE` (R323). The receiver amplitude stays below threshold for 2 µs, so the lane returns to DETECT. -/
  | electricalIdle (n : Fin 256)
  /-- `LANE_BRINGUP_TIMEOUT` (R325). A bring-up bound expires and the lane returns to DETECT. -/
  | laneBringupTimeout (n : Fin 256)
  /-- `ADAPT_DONE` (R325). CDR lock and coarse adaptation complete, the calibration record is stored and the lane enters
  BLOCKHUNT. Operands: the equaliser settings that adaptation found. -/
  | adaptDone (n : Fin 256) (ctle : BitVec 4) (dfe0 dfe1 : Word)
  /-- `SYNC_HEADER` (R326). A received block's sync header is checked, which gains or loses block lock. -/
  | syncHeader (n : Fin 256) (hdr : BitVec 2)
  /-- `MARKER_RX` (R327). A block at a marker position is checked, which gains or loses marker lock, sets INVERT and maps
  the lane. -/
  | markerRx (n : Fin 256) (hdr : BitVec 2) (payload : List Byte)
  /-- `FRAME_DELINEATE` (R318). A DELIM ends a run of data blocks, and the run is passed to ingest or discarded. Operands:
  the blocks after a DELIM, as received; an empty list: the run is lost with the lock. -/
  | frameDelineate (n : Fin 256) (blks : List (BitVec 2 × BitVec 64))
  /-- `RETUNE` (R332). LCTL.RETUNE returns the lane to ADAPT to take a new calibration record. Operands: LCTL's other bits
  are written as they are. -/
  | retune (n : Fin 256)
  /-- `EYE_REFRESH` (R333). Every 1 ms the eye monitor refreshes and the stale conditions are evaluated. -/
  | eyeRefresh (n : Fin 256) (eyeH : BitVec 6) (eyeV off : BitVec 8) (ctle : BitVec 4)
  /-- `MARKER_SEND` (R317). Every 16,384 blocks the transmitter sends an alignment marker. -/
  | markerSend (n : Fin 256)
  /-- `IDLE_FRAME_SEND` (R330). The transmitter sends an IDLE frame at least every 50 µs when it has nothing else to send.
  -/
  | idleFrameSend (n : Fin 256)
  /-- `LANE_POWER_DOWN` (R314). A lane moving to OFF powers down when the old window closes at B + W. -/
  | lanePowerDown (n : Fin 256)
  /-- `SAMPLE_FRAME_RX` (R52). A SAMPLE frame is checked, then admitted (couched and summed into beams) or dropped into
  its class. Operands: the logical lane and the delineated frame. -/
  | sampleFrameRx (lane : Fin 256) (fr : List Byte)
  /-- `TRIG_FRAME_RX` (R245). A TRIG frame from a bound peer is checked and, if admitted, becomes a peer event. Operands:
  the logical lane and the delineated frame. -/
  | trigFrameRx (lane : Fin 256) (fr : List Byte)
  /-- `IDLE_FRAME_RX` (R52). A received IDLE frame is CRC-checked and counted. Operands: the logical lane and the
  delineated frame. -/
  | idleFrameRx (lane : Fin 256) (fr : List Byte)
  /-- `LANEQ_RELEASE` (R61). A W1C write to LANEQ releases a lane's quarantine. Operands: word `k` of LANEQ. -/
  | laneqRelease (k : Fin 8) (v : Word)
  /-- `BINDHI_WRITE` (R75). A write to BINDHI stores the shadow binding entry and advances BINDIDX. -/
  | bindhiWrite (v : Word)
  /-- `MACKEY_LOAD` (R76). MACKEYCTL.LOAD copies the staged key into a slot. -/
  | mackeyLoad (slot : Bool)
  /-- `MACKEY_CLEAR` (R76). MACKEYCTL.CLEAR zeroes a key slot and marks it not VALID. -/
  | mackeyClear (slot : Bool)
  /-- `FRAME_SET_CLOSE` (R65). A frame set closes, when its window closes or its last member arrives, and BMF, TRG and DKL
  are told. Operands: channel group and first SFN of the set; BMF has not finished it; BMF's latency in ns. -/
  | frameSetClose (group : Fin 1024) (sfn : Sfn) (overrun : Bool) (lat : Nat)
  /-- `SHEET_COMPLETE` (R25). At C_s the sheet's validity and dead flags are fixed, SHEETCNT increments and the corner
  turn starts. -/
  | sheetComplete
  /-- `STATISTICS_LATCH` (R30). At L every page latches statistics and increments PGEN, ACC swaps buffers and REAMCNT
  increments. -/
  | statisticsLatch
  /-- `STOP_BOUNDARY` (R27). B_last is reached and the state becomes DRAINING, or IDLE if the run holds no ream. -/
  | stopBoundary
  /-- `PLATE_TAKEOVER` (R197). An armed plate takes over at its boundary and the slots exchange roles. -/
  | plateTakeover
  /-- `PAGE_SLOT_ASSIGN` (R90). At the planned time a page is assigned its slot, substituting for a pinned slot if needed.
  Operands: first SFN, input index and group of the page. -/
  | pageSlotAssign (sfn : Sfn) (input : Fin 4096) (group : Fin 1024)
  /-- `PAGE_CONSUME` (R90). At a page's consume time its slot is freed. Operands: first SFN, input index and group of the
  page. -/
  | pageConsume (sfn : Sfn) (input : Fin 4096) (group : Fin 1024)
  /-- `CORNER_TURN_STAGE` (R86). DKL reads a sub-block's runs and stages them into the free staging half. Operands: inputs
  of the slice staged so far, runs that arrive marked poisoned, device addresses of CORRECTED codewords. -/
  | cornerTurnStage (upto : Nat) (poison : List (Nat × Nat)) (ces : List Nat)
  /-- `CAPTURE_RECORD_WRITE` (R99). DKL writes a capture record when the window has closed, the request is refused or the
  run ends. -/
  | captureRecordWrite (id : BitVec 16)
  /-- `DKL_RELEASE` (R100). A write to DKL.RELEASE releases a capture's pins by trigger ID. -/
  | dklRelease (v : Word)
  /-- `CAPRD_WRITE` (R108). A write to DKL.CAPRD advances the host's read index of the capture ring. -/
  | caprdWrite (v : Word)
  /-- `PASS_RUN` (R122). A 4,160-cycle pass run fills, accumulates and drains a quire pass over one staged sub-block.
  Operands: quires whose cells err physically. -/
  | passRun (bad : List (Fin 148))
  /-- `QMASK_SET` (R130). A W1S write to QMASK excludes quires. Operands: word `k` of QMASK. -/
  | qmaskSet (k : Fin 5) (v : Word)
  /-- `CHANNEL_ADD` (R147). ACC adds a handed-over channel into the long-term visibility store. Operands: entries whose
  long-term read is poisoned. -/
  | channelAdd (poison : List Nat)
  /-- `ADD_WINDOW_EXPIRE` (R144). A channel's add window ends before the add is done, so the add is cut short and flagged
  ADDLATE. Operands: entries added before the window ended. -/
  | addWindowExpire (done : Nat)
  /-- `SUSPECT_FLAGS_CLOSE` (R129). The checks of the ream's last sheet complete or time out, so suspect and unchecked
  flags close. -/
  | suspectFlagsClose
  /-- `RECORD_FINISHED` (R159). Record assembly completes: RECRDY is set, the watermark is loaded and the interrupt is
  raised. -/
  | recordFinished
  /-- `ACC_RELEASE` (R160). A write to ACC.RELEASE releases the finished record. -/
  | accRelease (v : Word)
  /-- `BEAM_FRAME_SEND` (R216). An EGRESS lane sends a beam block as a BEAM frame. Operands: `poison`: the ring read is
  poisoned. -/
  | beamFrameSend (lane : Fin 256) (poison : Bool)
  /-- `FORWARD_FRAME` (R303). An INGEST transmitter forwards an admitted SAMPLE frame. -/
  | forwardFrame (n : Fin 256)
  /-- `BMF_TABLE_WRITE` (R224). A BAR2 write into the beam-former tables is stored in the shadow or rejected. Operands:
  active or shadow copy, byte offset, bytes. -/
  | bmfTableWrite (shadow : Bool) (off : BitVec 24) (l : List Byte)
  /-- `STGRD_WRITE` (R225). A write to BMF.STGRD advances the DMA ring read index. -/
  | stgrdWrite (v : Word)
  /-- `TRIGGER_SAMPLE_EVAL` (R241). A trigger sample whose inputs are all present is evaluated, and it fires, is held or
  does nothing. Operands: ns from the last instant of R241 to the decision. -/
  | triggerSampleEval (lat : Nat)
  /-- `SW_DEADLINE` (R241). The software-source deadline passes, so the block's software sources count as zero and are
  marked SWLATE. -/
  | swDeadline
  /-- `TRIGIN_EDGE` (R246). A counted TRIGIN edge is stamped and becomes an event. Operands: land and direction. -/
  | triginEdge (n : Fin 4) (rise : Bool)
  /-- `TRIGOUT_PULSE_END` (R247). A TRIGOUT pulse width expires and the land returns low. -/
  | trigoutPulseEnd (n : Fin 4)
  /-- `LOG_ENTRY_WRITE` (R252). A trigger log entry moves from the FIFO into the log ring. -/
  | logEntryWrite
  /-- `TRG_TABLE_WRITE` (R255). A BAR2 write into the trigger tables is stored in the shadow or rejected. Operands: active
  or shadow copy, byte offset, bytes. -/
  | trgTableWrite (shadow : Bool) (off : BitVec 24) (l : List Byte)
  /-- `LOGRD_WRITE` (R257). A write to TRG.LOGRD advances the log ring read index. -/
  | logrdWrite (v : Word)
  /-- `BUILD_DONE` (R187). A build finishes, leaving the staged slot LOADED or EMPTY with the outcome in RESULT. -/
  | buildDone
  /-- `PROOF_DONE` (R191). A proof finishes, leaving the staged slot PROOFED or LOADED. -/
  | proofDone
  /-- `DISARM` (R198). SLOTCTL.DISARM returns an ARMED slot to PROOFED. -/
  | disarm
  /-- `PLATE_SLOT_WRITE` (R195). A host write to a plate slot window is stored or discarded. Operands: physical slot, byte
  offset, bytes. -/
  | plateSlotWrite (slot : Bool) (off : BitVec 26) (l : List Byte)
  /-- `BURIN_ACTIVATION` (R278). A task event starts an activation in bank 0 that runs to WAIT. -/
  | burinActivation (core : Fin 64)
  /-- `BURIN_TIMER` (R275). A core's TIMER period elapses and raises the TIMER interrupt. -/
  | burinTimer (core : Fin 64)
  /-- `BURIN_IRQ_TAKEN` (R271). A pending interrupt is taken at a bank 0 instruction boundary and runs in bank 1. -/
  | burinIrqTaken (core : Fin 64)
  /-- `CMT_GO` (R280). A task writes CMT_GO to arm a commit through the commit port. Operands: the ticket number written.
  -/
  | cmtGo (core : Fin 64) (num : BitVec 16)
  /-- `SW_POST` (R281). A task writes SW_POST to deliver one block of software sources to TRG. -/
  | swPost (core : Fin 64)
  /-- `XF_GO` (R275). A task writes XF_GO to start a transfer between data memory and the device. Operands: `dir`: towards
  the device. -/
  | xfGo (core : Fin 64) (dir : Bool)
  /-- `XF_DONE` (R275). A burin transfer completes and BUSY clears. -/
  | xfDone (core : Fin 64)
  /-- `MBXIN_PORT_READ` (R275). A core read of port MBXIN pops the inbound mailbox. -/
  | mbxinPortRead (core : Fin 64)
  /-- `BURIN_RELOAD_DONE` (R285). Cores reloaded at a takeover or at START finish loading and their tasks receive START.
  -/
  | burinReloadDone
  /-- `CCTL_HALT` (R290). CCTL.HALT halts or resumes a core, or takes a free core from OFF to HALTED. -/
  | cctlHalt (core : Fin 64) (halt : Bool)
  /-- `CCTL_STEP` (R289). CCTL.STEP executes one instruction on a halted core. Operands: HALT is written as it is. -/
  | cctlStep (core : Fin 64)
  /-- `CCTL_CRESET` (R287). CCTL.CRESET reloads a core's tasks and restarts them with RESUME. Operands: HALT is written as
  it is. -/
  | cctlCreset (core : Fin 64)
  /-- `MBXIN_WRITE` (R290). A host write to MBXIN pushes a word and raises MBOX. -/
  | mbxinWrite (core : Fin 64) (v : Word)
  /-- `NOP` (R273). Burin instruction NOP. -/
  | nopOp (core : Fin 64)
  /-- `ADD` (R273). Burin instruction ADD, wrapping. -/
  | addOp (core : Fin 64) (dd da : Fin 16) (src : Machine.BSrc)
  /-- `SUB` (R273). Burin instruction SUB, wrapping. -/
  | subOp (core : Fin 64) (dd da : Fin 16) (src : Machine.BSrc)
  /-- `ADDS` (R267). Burin instruction ADDS, saturating. -/
  | addsOp (core : Fin 64) (dd da : Fin 16) (src : Machine.BSrc)
  /-- `SUBS` (R267). Burin instruction SUBS, saturating. -/
  | subsOp (core : Fin 64) (dd da : Fin 16) (src : Machine.BSrc)
  /-- `AND` (R273). Burin instruction AND. -/
  | andOp (core : Fin 64) (dd da : Fin 16) (src : Machine.BSrc)
  /-- `OR` (R273). Burin instruction OR. -/
  | orOp (core : Fin 64) (dd da : Fin 16) (src : Machine.BSrc)
  /-- `XOR` (R273). Burin instruction XOR. -/
  | xorOp (core : Fin 64) (dd da : Fin 16) (src : Machine.BSrc)
  /-- `SHL` (R273). Burin instruction SHL, shift left. -/
  | shlOp (core : Fin 64) (dd da : Fin 16) (src : Machine.BSrc)
  /-- `SHRA` (R267). Burin instruction SHRA, arithmetic shift right. -/
  | shraOp (core : Fin 64) (dd da : Fin 16) (src : Machine.BSrc)
  /-- `SHRL` (R267). Burin instruction SHRL, logical shift right. -/
  | shrlOp (core : Fin 64) (dd da : Fin 16) (src : Machine.BSrc)
  /-- `CMP` (R273). Burin instruction CMP sets flags only. -/
  | cmpOp (core : Fin 64) (da : Fin 16) (src : Machine.BSrc)
  /-- `MIN` (R273). Burin instruction MIN, signed minimum. -/
  | minOp (core : Fin 64) (dd da : Fin 16) (src : Machine.BSrc)
  /-- `MAX` (R273). Burin instruction MAX, signed maximum. -/
  | maxOp (core : Fin 64) (dd da : Fin 16) (src : Machine.BSrc)
  /-- `ABS` (R273). Burin instruction ABS, saturating absolute value. -/
  | absOp (core : Fin 64) (dd da : Fin 16) (src : Machine.BSrc)
  /-- `MPY` (R265). Burin instruction MPY sets an accumulator to a product, with loads. -/
  | mpyOp (core : Fin 64) (ac : Bool) (da db : Fin 16) (l : Machine.BLoads)
  /-- `MAC` (R265). Burin instruction MAC adds or subtracts a product into an accumulator, with loads. -/
  | macOp (core : Fin 64) (ac neg : Bool) (da db : Fin 16) (l : Machine.BLoads)
  /-- `ACCOP` (R273). Burin instruction ACCOP performs an accumulator operation. -/
  | accopOp (core : Fin 64) (ac : Bool) (op : Machine.BAcc)
  /-- `MVA` (R266). Burin instruction MVA moves an accumulator to a data register with SCALE. -/
  | mvaOp (core : Fin 64) (dd : Fin 16) (ac : Bool)
  /-- `MVR` (R266). Burin instruction MVR moves an accumulator to a data register with an explicit shift. -/
  | mvrOp (core : Fin 64) (dd : Fin 16) (ac : Bool) (k : BitVec 5)
  /-- `GETA` (R273). Burin instruction GETA reads part of an accumulator. -/
  | getaOp (core : Fin 64) (dd : Fin 16) (ac : Bool) (part : Fin 3)
  /-- `PUTA` (R273). Burin instruction PUTA writes part of an accumulator. -/
  | putaOp (core : Fin 64) (ac : Bool) (da : Fin 16) (part : Fin 3)
  /-- `LD` (R268). Burin instruction LD loads from data memory, ports or the fabric window. -/
  | ldOp (core : Fin 64) (dd : Fin 16) (ai : Fin 8) (pm : Bool) (ofs : BitVec 16)
  /-- `ST` (R268). Burin instruction ST stores to data memory, ports or the fabric window. -/
  | stOp (core : Fin 64) (dd : Fin 16) (ai : Fin 8) (pm : Bool) (ofs : BitVec 16)
  /-- `LDI` (R273). Burin instruction LDI loads an immediate value. -/
  | ldiOp (core : Fin 64) (dd : Fin 16) (v : BitVec 16)
  /-- `MVX` (R273). Burin instruction MVX moves to or from a special register. -/
  | mvxOp (core : Fin 64) (toSpec : Bool) (dd : Fin 16) (x : Machine.BSpec)
  /-- `BR` (R270). Burin instruction BR, a conditional branch with one delay slot. -/
  | brOp (core : Fin 64) (cond : Machine.BCond) (ofs : BitVec 16)
  /-- `CALL` (R270). Burin instruction CALL sets LK and branches. -/
  | callOp (core : Fin 64) (ofs : BitVec 16)
  /-- `RET` (R270). Burin instruction RET branches to LK. -/
  | retOp (core : Fin 64)
  /-- `LOOP` (R270). Burin instruction LOOP sets up a zero-overhead loop. -/
  | loopOp (core : Fin 64) (n : Machine.BCount) (len : BitVec 16)
  /-- `RTI` (R271). Burin instruction RTI returns from an interrupt to bank 0. -/
  | rtiOp (core : Fin 64)
  /-- `WAIT` (R278). Burin instruction WAIT ends an activation. -/
  | waitOp (core : Fin 64)
  /-- `SIG` (R273). Burin instruction SIG pushes a word onto the outbound mailbox. -/
  | sigOp (core : Fin 64) (i : Fin 16)
  /-- `FLAG` (R273). Burin instruction FLAG clears sticky flags. -/
  | flagOp (core : Fin 64) (clrV clrS clrFe : Bool)
  /-- `BRK` (R273). Burin instruction BRK faults the core. -/
  | brkOp (core : Fin 64)
  /-- `DMA_START` (R402). CHCMD START queues a channel's chain. Operands: engine and channel. -/
  | dmaStart (k n : Fin 4)
  /-- `DMA_RESUME` (R392). CHCMD RESUME requeues a FAULTED channel. Operands: engine and channel. -/
  | dmaResume (k n : Fin 4)
  /-- `DMA_ABORT` (R392). CHCMD ABORT stops a channel and halts it with E_ABORT. Operands: engine and channel. -/
  | dmaAbort (k n : Fin 4)
  /-- `DESC_COPY` (R388). The engine executes a COPY descriptor. Operands: engine, bytes executed, host memory as read,
  host addresses whose flits are poisoned. -/
  | descCopy (k : Fin 4) (len : Nat) (host : Tab Byte) (pois : List Nat)
  /-- `DESC_FILL` (R388). The engine executes a FILL descriptor. Operands: engine, bytes executed, host memory as read,
  host addresses whose flits are poisoned. -/
  | descFill (k : Fin 4) (len : Nat) (host : Tab Byte) (pois : List Nat)
  /-- `DESC_COMPARE` (R388). The engine executes a COMPARE descriptor. Operands: engine, bytes executed, host memory as
  read, host addresses whose flits are poisoned. -/
  | descCompare (k : Fin 4) (len : Nat) (host : Tab Byte) (pois : List Nat)
  /-- `READBACK_DONE` (R389). A descriptor's read-back completes, so the completion record is written and the interrupt
  raised. -/
  | readbackDone (k : Fin 4)
  /-- `CHAIN_PREEMPT` (R386). A BULK chain reaches its next 4 KiB boundary while an URGENT chain waits and is suspended.
  Operands: engine, host memory as read, host addresses whose flits are poisoned. -/
  | chainPreempt (k : Fin 4) (host : Tab Byte) (pois : List Nat)
  /-- `INVALIDATE_CONTEXT` (R398). INVCMD invalidates one MMU context. -/
  | invalidateContext (ctx : Fin 64)
  /-- `INVALIDATE_PAGE` (R398). INVCMD invalidates one 4 KiB page of a context. Operands: the page is that of INVVA. -/
  | invalidatePage (ctx : Fin 64)
  /-- `INVALIDATE_ALL` (R398). INVCMD invalidates all contexts. -/
  | invalidateAll
  /-- `INVALIDATION_DONE` (R398). An invalidation completes, BUSY falls and INVDONE is raised. -/
  | invalidationDone
  /-- `HOST_INBOUND_READ` (R383). A host read through BAR2 is routed by the fabric and completed. Operands: BAR2 offset,
  bytes, codewords found CORRECTED and UNCORRECTABLE. -/
  | hostInboundRead (a : BitVec 38) (len : Fin 4097) (ce ue : List Nat)
  /-- `HOST_INBOUND_WRITE` (R383). A host write through BAR2 is routed by the fabric, or refused. Operands: BAR2 offset,
  bytes, a poisoned TLP. -/
  | hostInboundWrite (a : BitVec 38) (l : List Byte) (ep : Bool)
  /-- `ATOMIC_ADD` (R376). A Mladef atomic ADD performs a read-modify-write at the memory target. Operands: address, 8
  bytes or 4, operand. -/
  | atomicAdd (a : BitVec 38) (wide : Bool) (v : BitVec 64)
  /-- `ATOMIC_SWAP` (R376). A Mladef atomic SWAP performs a read-modify-write at the memory target. Operands: address, 8
  bytes or 4, operand. -/
  | atomicSwap (a : BitVec 38) (wide : Bool) (v : BitVec 64)
  /-- `FABRIC_TIMEOUT` (R379). A request has no response 16 µs after acceptance and ends with TIMEOUT. -/
  | fabricTimeout (master : Fin 14)
  /-- `LATE_RESPONSE` (R379). A response that arrives after its timeout is discarded and counted. -/
  | lateResponse
  /-- `PORT_DRAIN_TIMEOUT` (R381). A draining port reaches 16 µs, returns to IDLE and raises DRAINTO. -/
  | portDrainTimeout (master : Fin 14)
  /-- `PCIE_COMPLETION_TIMEOUT` (R393). An outbound PCIe read has no completion 50 µs after issue, so the descriptor ends
  with E_NORESP. Operands: engine and channel. -/
  | pcieCompletionTimeout (k n : Fin 4)
  /-- `REFERENCE_EDGE` (R407). A reference edge or measurement is monitored and, if good, feeds the loop. Operands: FOFFS
  against the yardstick and against the crystal, phase jump and loop phase, as measured. -/
  | referenceEdge (i : Fin 8) (foffs fxtal jump phase : Int)
  /-- `REFERENCE_EDGE_MISSING` (R407). An expected reference edge does not arrive, which can disqualify the reference. -/
  | referenceEdgeMissing (i : Fin 8)
  /-- `REFERENCE_QUALIFIED` (R409). A reference completes 10 s without a failure, becomes QUALIFIED and selection runs. -/
  | referenceQualified (i : Fin 8)
  /-- `SWITCH_COMPLETE` (R415). |e| has stayed below 1 ns for 1 s, so the loop is LOCKED and SWDONE is raised. -/
  | switchComplete
  /-- `DISAGREE_CHECK` (R413). The 1 s frequency averages of equal candidates are compared, and exclusions are set or
  cleared. Operands: two candidates and their 1 s averages. -/
  | disagreeCheck (i j : Fin 8) (fi fj : Int)
  /-- `LOOPCTL_SW_WRITE` (R419). A write of LOOPCTL.SW opens the loop under software control, or returns it to hardware.
  -/
  | loopctlSwWrite (v : Word)
  /-- `FREQADJ_WRITE` (R419). A write to FREQADJ sets the software loop frequency. -/
  | freqadjWrite (v : Word)
  /-- `PHSTEP_WRITE` (R420). A write to PHSTEP steps the output phase. -/
  | phstepWrite (v : Word)
  /-- `OUTALIGN_WRITE` (R424). A write to OUTALIGN starts the alignment of the named outputs. -/
  | outalignWrite (v : Word)
  /-- `ALIGNMENT_EDGE` (R424). A SYNCOUT reaches its alignment edge, starts its pulse and sets ALIGNED. -/
  | alignmentEdge (i : Fin 6)
  /-- `OUTCFG_WRITE` (R423). A write to OUTCFG or OUTPER takes effect at once and clears ALIGNED. Operands: OUTCFG,
  OUTPER_LO or OUTPER_HI. -/
  | outcfgWrite (field : Fin 3) (v : Word)
  /-- `SYNCOUT_PULSE` (R423). A SYNCOUT generator's period elapses and it emits a pulse. -/
  | syncoutPulse (i : Fin 6)
  /-- `SNAP` (R436). A write to TIME.SNAP latches all four time bases. -/
  | snap
  /-- `BASECFG_WRITE` (R432). A write of BASECFG.MASTER reselects a time base master. -/
  | basecfgWrite (v : Word)
  /-- `MASTER_MEASUREMENT` (R432). A time-base master measurement sets the rate and takes any permitted step. Operands:
  base, its master's value in ns and frequency in parts of 2^40. -/
  | masterMeasurement (i : Fin 4) (value : BitVec 64) (freq : Int)
  /-- `SAMPLE_SLEW_DONE` (R434). SAMPLE comes within 1 ns of S* and returns to TRACKING. -/
  | sampleSlewDone
  /-- `ALMCTL_WRITE` (R437). A write to ALMCTL arms an alarm and clears its status. -/
  | almctlWrite (n : Fin 8) (v : Word)
  /-- `ALARM_FIRE` (R437). An alarm's base reaches ALMVAL, so the alarm fires and reloads if PERIODIC. -/
  | alarmFire (n : Fin 8)
  /-- `PTP_MESSAGE_RX` (R441). A PTP event message is received, stamped and used by the servo. Operands: port, raw stamp
  in ps, and what the servo makes of the message. -/
  | ptpMessageRx (p : Fin 2) (raw : Nat) (res : Option Machine.PtpResult)
  /-- `ETH_FRAME_DROP` (R440). A non-accepted Ethernet frame is dropped and counted. -/
  | ethFrameDrop (p : Fin 2)
  /-- `PTP_EVENT_TX` (R441). The port transmits a PTP event message and stamps it. Operands: port, raw stamp in ps, the
  message. -/
  | ptpEventTx (p : Fin 2) (raw : Nat) (msg : List Byte)
  /-- `ETH_LINK_CHANGE` (R453). An Ethernet port's link changes state. -/
  | ethLinkChange (p : Fin 2) (up : Bool)
  /-- `MSP_FRAME_START` (R447). An FS edge starts a monitor slot frame, adopts a new bank and closes a block as due.
  Operands: port, and the words of the IN slots of the frame that ends. -/
  | mspFrameStart (n : Fin 4) (words : List Word)
  /-- `MSP_CLKLOSS` (R444). A slave port misses SCK or FS and declares CLKLOSS. -/
  | mspClkloss (n : Fin 4)
  /-- `MONWORD_WRITE` (R445). A write to a monitor word takes effect on the slot output. -/
  | monwordWrite (w : Fin 256) (v : Word)
  /-- `HEARTBEAT_SEND` (R466). Every 250 µs the module sends a HEARTBEAT CTRL message. -/
  | heartbeatSend
  /-- `GRANT_SEND` (R470). In lease mode a non-owner sends GRANT every 250 µs. -/
  | grantSend
  /-- `DIGEST_SEND` (R466). Every 100 ms the module sends its configuration DIGEST. -/
  | digestSend
  /-- `CTRL_RETRANSMIT` (R464). An unacknowledged CTRL message is repeated every 50 µs, and given up after 20 tries. -/
  | ctrlRetransmit
  /-- `HEARTBEAT_RX` (R467). A HEARTBEAT is received and plate identity, time digest and ownership are compared. Operands:
  the logical lane and the frame. -/
  | heartbeatRx (lane : Fin 256) (fr : List Byte)
  /-- `GRANT_RX` (R470). A GRANT is received and extends the owner's lease. Operands: the logical lane and the frame. -/
  | grantRx (lane : Fin 256) (fr : List Byte)
  /-- `HANDOFF_RX` (R460). A HANDOFF is received and an eligible partner takes ownership. Operands: the logical lane and
  the frame. -/
  | handoffRx (lane : Fin 256) (fr : List Byte)
  /-- `TICKET_RX` (R467). A mirrored TICKET is received and armed or refused. Operands: the logical lane and the frame. -/
  | ticketRx (lane : Fin 256) (fr : List Byte)
  /-- `COMMAND_RX` (R467). A mirrored STOP or ARM is received and applied or refused. Operands: the logical lane and the
  frame. -/
  | commandRx (lane : Fin 256) (fr : List Byte)
  /-- `THRESH_RX` (R467). A THRESH fragment is written into the shadow, and the ticket is armed when complete. Operands:
  the logical lane and the frame. -/
  | threshRx (lane : Fin 256) (fr : List Byte)
  /-- `WATERMARK_RX` (R472). A partner's watermark is received and compared with the module's own record. Operands: the
  logical lane and the frame. -/
  | watermarkRx (lane : Fin 256) (fr : List Byte)
  /-- `ACK_RX` (R464). An ACK stops retransmission of a mirrored message. Operands: the logical lane and the frame. -/
  | ackRx (lane : Fin 256) (fr : List Byte)
  /-- `DIGEST_RX` (R467). A DIGEST is received and CFGDIFF is updated. Operands: the logical lane and the frame. -/
  | digestRx (lane : Fin 256) (fr : List Byte)
  /-- `WATERMARK_COMPARE_TIMEOUT` (R472). A watermark comparison gives up after 1 s as NOCOMPARE. -/
  | watermarkCompareTimeout
  /-- `OWN_IN_CHANGE` (R458). The filtered OWN_IN level changes. -/
  | ownInChange (level : Bool)
  /-- `HANDOFF_TIMEOUT` (R460). OWN_IN fell and no HANDOFF arrives within 4 µs, so the event is treated as a lost owner.
  -/
  | handoffTimeout
  /-- `OWNER_SILENCE_TIMEOUT` (R462). 300 µs without a CTRL frame after OWN_IN fell: a ready standby takes ownership. -/
  | ownerSilenceTimeout
  /-- `PAIR_LINK_DOWN` (R465). 1 ms without an admitted CTRL frame: the link is down and LINKDOWN is raised. -/
  | pairLinkDown
  /-- `LEASE_EXPIRE` (R470). The owner's lease ends and it yields. -/
  | leaseExpire
  /-- `LEASE_SILENCE_TAKEOVER` (R470). 1 ms without a heartbeat in lease mode: an eligible non-owner takes ownership. -/
  | leaseSilenceTakeover
  /-- `INTERLOCK_FAULT` (R469). An interlock disagreement sets ILFAULT and enters lease mode. -/
  | interlockFault
  /-- `ILRESET` (R471). PAIRCTL.ILRESET starts an interlock recheck. -/
  | ilreset
  /-- `LEASE_MODE_EXIT` (R471). After 1 s of clean recheck the module leaves lease mode. -/
  | leaseModeExit
  /-- `PERST_N_RELEASE` (R503). PERST_N is deasserted, so the islands it held in reset are released and HIF brings up its
  configuration space. -/
  | perstNRelease
  /-- `TRIG_FRAME_SEND` (R244). A queued TRIG frame goes out on each PEER lane within 2 µs of the decision. -/
  | trigFrameSend
  /-- `RESUMING_BOUNDARY` (R486). SFN reaches the boundary at which functions stopped by shedding, a core reset or a thaw
  resume (monitor slot ports, burin tasks with RESUME, and others). -/
  | resumingBoundary
  /-- `HANDOFF_SEND` (R460). After a HANDOVER, the last frame in progress ends, so the owner sends HANDOFF, drives OWN_OUT
  low and becomes STANDBY_READY. -/
  | handoffSend
  /-- `ESTOP_N_RISE` (R568). ESTOP_N returns high, which clears LANDLOW and makes RELEASE legal. -/
  | estopNRise
  deriving DecidableEq, Repr

end Sys2Proof
end

