-- ==== Sys2Proof/Decode.lean ====
section
/-! DEFINITION. Table words. No row of the opcode table gives bits: a command is an event of the block's outside, and the
burin instructions' words are read by `Machine.burDecode` where a core fetches them. -/

namespace Sys2Proof

/-- The command that a table word spells: none, since no row of the table has an encoding. -/
def decodeTableWord (_nbits _w : Nat) : Option Instr := none

end Sys2Proof
end

