-- ==== Sys2Proof/Machine/Bits.lean ====
section
/-! DEFINITION. Bit fields, rounding, saturation, wrap-around comparison, sparse tables, byte order and the
checksums that the spec's rules use. -/

namespace Sys2Proof.Machine

/-! ### Sparse tables -/

/-- What key `k` holds, `d` where the table lists nothing. -/
def Tab.get {α : Type} (d : α) : Tab α → Nat → α
  | [], _ => d
  | (k', v) :: t, k => if k' = k then v else Tab.get d t k

/-- The table with key `k` dropped. -/
def Tab.drop {α : Type} : Tab α → Nat → Tab α
  | [], _ => []
  | (k', v) :: t, k => if k' = k then Tab.drop t k else (k', v) :: Tab.drop t k

/-- The table with `(k, v)` put at its place in the rising order. -/
def Tab.put {α : Type} : Tab α → Nat → α → Tab α
  | [], k, v => [(k, v)]
  | (k', v') :: t, k, v =>
    if k < k' then (k, v) :: (k', v') :: t
    else if k' = k then (k, v) :: t
    else (k', v') :: Tab.put t k v

/-- Key `k` takes `v`; writing what an unlisted key reads as removes the entry. -/
def Tab.set {α : Type} [DecidableEq α] (d : α) (t : Tab α) (k : Nat) (v : α) : Tab α :=
  if v = d then Tab.drop t k else Tab.put t k v

/-- Every key of the table is above `b`, and the keys rise strictly. -/
def Tab.above {α : Type} (b : Nat) : Tab α → Bool
  | [] => true
  | (k, _) :: t => decide (b < k) && Tab.above k t

/-- Keys rise strictly. -/
def Tab.sorted {α : Type} : Tab α → Bool
  | [] => true
  | (k, _) :: t => Tab.above k t

/-- The canonical form with respect to what unlisted keys read as. -/
def Tab.wf {α : Type} [DecidableEq α] (d : Nat → α) (t : Tab α) : Bool :=
  Tab.sorted t && t.all fun e => decide (e.2 ≠ d e.1)

/-- The table without the entries whose key satisfies `p`. -/
def Tab.clear {α : Type} (p : Nat → Bool) (t : Tab α) : Tab α :=
  t.filter (fun e => !p e.1)

/-! ### Bit fields -/

/-- Bits `[hi:lo]` of a word as a number. -/
def fld {n : Nat} (hi lo : Nat) (w : BitVec n) : Nat := (w.toNat >>> lo) % 2 ^ (hi + 1 - lo)

/-- Bit `i` of a word. -/
def bitAt {n : Nat} (i : Nat) (w : BitVec n) : Bool := w.getLsbD i

/-- A Bool as the number 0 or 1. -/
def b2n (b : Bool) : Nat := if b then 1 else 0

/-- A word whose field at `lo` holds `v`. -/
def at_ (lo v : Nat) : Word := BitVec.ofNat 32 (v <<< lo)

/-- The word with bits `[hi:lo]` replaced by `v`. -/
def setFld (hi lo : Nat) (w : Word) (v : Nat) : Word :=
  let m : Word := BitVec.ofNat 32 ((2 ^ (hi + 1 - lo) - 1) <<< lo)
  (w &&& ~~~m) ||| (BitVec.ofNat 32 (v <<< lo) &&& m)

/-- The mask of bits `[hi:lo]`. -/
def mask (hi lo : Nat) : Word := BitVec.ofNat 32 ((2 ^ (hi + 1 - lo) - 1) <<< lo)

/-- The low and the high word of a 64-bit value. -/
def lo32 (v : BitVec 64) : Word := v.setWidth 32
/-- The high word of a 64-bit value. -/
def hi32 (v : BitVec 64) : Word := (v >>> 32).setWidth 32
/-- A 64-bit value from its words. -/
def cat64 (hi lo : Word) : BitVec 64 := hi ++ lo

/-- A saturating count: `a + b`, at most `2^w - 1`. -/
def satAdd (w a b : Nat) : Nat := min (a + b) (2 ^ w - 1)

/-! ### R4 to R7 -/

/-- The whole number nearest to `n / d`, the even one on a tie. -/
def nearest (n d : Nat) : Nat :=
  let q := n / d
  if d < 2 * (n % d) ∨ (2 * (n % d) = d ∧ q % 2 = 1) then q + 1 else q

/-- Convergent rounding of `v / 2^k` (R4): nearest, a tie to the even value. -/
def conv (k : Nat) (v : Int) : Int :=
  let q := v / (2 ^ k : Int)
  let r := v % (2 ^ k : Int)
  if 2 * r < 2 ^ k then q
  else if 2 * r > 2 ^ k then q + 1
  else if k = 0 then q
  else if q % 2 = 0 then q else q + 1

/-- Saturation to a signed field of `w` bits (R5). -/
def sat (w : Nat) (v : Int) : Int :=
  if v > 2 ^ (w - 1) - 1 then 2 ^ (w - 1) - 1 else if v < -(2 ^ (w - 1)) then -(2 ^ (w - 1)) else v

/-- Whether saturation to `w` bits changes the value. -/
def satHits (w : Nat) (v : Int) : Bool := decide (sat w v ≠ v)

/-- The signed difference `a - b` modulo `2^w` (R6). -/
def wdiff {w : Nat} (a b : BitVec w) : Int := (a - b).toInt

/-- `a` is after `b` (R6). -/
def after {w : Nat} (a b : BitVec w) : Bool := decide (0 < wdiff a b)

/-- `a` is `b` or after `b` (R6). -/
def atOrAfter {w : Nat} (a b : BitVec w) : Bool := decide (0 ≤ wdiff a b)

/-- Widening of the low `w` bits against a 48-bit reference (R7). -/
def widenSfn {w : Nat} (ref : Sfn) (v : BitVec w) : Sfn :=
  ref + BitVec.ofInt 48 ((v - ref.setWidth w).toInt)

/-! ### Bytes -/

/-- The little-endian number of a byte list. -/
def leNat : List Byte → Nat
  | [] => 0
  | b :: t => b.toNat + 256 * leNat t

/-- The `n` bytes of a number, least significant first. -/
def leBytes : Nat → Nat → List Byte
  | 0, _ => []
  | n + 1, v => BitVec.ofNat 8 v :: leBytes n (v / 256)

/-- The big-endian number of a byte list. -/
def beNat (l : List Byte) : Nat := leNat l.reverse

/-- The `n` bytes of a number, most significant first. -/
def beBytes (n v : Nat) : List Byte := (leBytes n v).reverse

/-- `n` bytes of a list from offset `o`, zero past its end. -/
def slice (l : List Byte) (o n : Nat) : List Byte :=
  let t := (l.drop o).take n
  t ++ List.replicate (n - t.length) 0

/-- The little-endian field of `n` bytes at offset `o`. -/
def leAt (l : List Byte) (o n : Nat) : Nat := leNat (slice l o n)

/-- The list padded with zero bytes to length `n`. -/
def padTo (n : Nat) (l : List Byte) : List Byte := l ++ List.replicate (n - l.length) 0

/-- The list with the bytes `p` laid over it at offset `o`. -/
def overlay (l : List Byte) (o : Nat) (p : List Byte) : List Byte :=
  padTo o (l.take o) ++ p ++ l.drop (o + p.length)

/-- Rounding up to a multiple of `m`. -/
def roundUp (v m : Nat) : Nat := if m = 0 then v else (v + m - 1) / m * m

/-! ### Checksums -/

/-- One bit of a CRC of width `w`, most significant bit first. -/
def crcStep {w : Nat} (poly crc : BitVec w) : BitVec w :=
  if crc.msb then (crc <<< 1) ^^^ poly else crc <<< 1

/-- One byte of a CRC of width `w`, most significant bit first. -/
def crcByte {w : Nat} (poly : BitVec w) (crc : BitVec w) (b : Byte) : BitVec w :=
  (List.range 8).foldl (fun c _ => crcStep poly c) (crc ^^^ (b.setWidth w <<< (w - 8)))

/-- The CRC-64 of R42. -/
def crc64 (l : List Byte) : BitVec 64 := l.foldl (crcByte 0x42F0E1EBA9EA3693#64) 0

/-- One bit of a reflected CRC-32. -/
def crc32Step (crc : Word) : Word :=
  if crc.getLsbD 0 then (crc >>> 1) ^^^ 0x82F63B78#32 else crc >>> 1

/-- CRC-32C of R46: reflected, initial and final value all ones. -/
def crc32c (l : List Byte) : Word :=
  ~~~ (l.foldl (fun c b => (List.range 8).foldl (fun c _ => crc32Step c) (c ^^^ b.setWidth 32)) 0xFFFFFFFF#32)

/-- The CRC-16 of R319: polynomial 0x1021, initial value 0xFFFF. -/
def crc16 (l : List Byte) : BitVec 16 := l.foldl (crcByte 0x1021#16) 0xFFFF#16

end Sys2Proof.Machine
end

