-- ==== Sys2Proof/Config.lean ====
section
/-! DEFINITION. What an implementation fixes, and the free values: constants with no body, of which nothing can be
proved. -/

namespace Sys2Proof

/-- A value the spec leaves open; the step supplies a fresh index from `State.dev.free`. -/
opaque Config.freeBits : Nat → Nat

/-- A fresh byte the spec leaves open (R89, R144). -/
opaque Config.freeByte : Nat → BitVec 8

/-- The minimum security version in the fuses (R506, R518). -/
opaque Config.fuseSvn : BitVec 8

/-- The fused vendor key hash: whether a public key's SHA-384 digest equals it (R506). -/
opaque Config.keyHashOk : List (BitVec 8) → Bool

/-- Whether the last 96 bytes are an ECDSA P-384 signature of the others under the header's key (R506, R507). -/
opaque Config.signatureOk : List (BitVec 8) → Bool

/-- Values that bring-up firmware loads into read-only registers (reset `L` in R544 to R554), by BAR0 offset. -/
opaque Config.loaded : Nat → BitVec 32

/-- The bytes of section `t`, 0x03 to 0x0D, of the plate that the builder makes for a request and a fault map snapshot:
the spec fixes that they depend on nothing else (R190) and not their layout; empty where the section is absent (R183). -/
opaque Config.section : Nat → List (BitVec 8) → List (BitVec 8) → List (BitVec 8)

/-- Whether a host-written plate image's schedule sections and BUDGET are what the module's cycle model recomputes
(R191); 0 or the code of R192. -/
opaque Config.imageCheck : List (BitVec 8) → BitVec 8

/-- Predicted power in 0.1 W of row `k` of R22 for the plate of a request and a fault map snapshot (R181 gives the
full-load table of R22 and no scaling formula). -/
opaque Config.powerRow : List (BitVec 8) → List (BitVec 8) → Nat → Nat

/-- The quires that a host-written plate image's schedule avoids (R183: the QUIRES section's layout is not in the
spec). -/
opaque Config.imageQmask : List (BitVec 8) → BitVec 256

/-- The memory exclusions, as channel, bank, row and count, that a host-written plate image's slot queues avoid. -/
opaque Config.imageExcl : List (BitVec 8) → List (Nat × Nat × Nat × Nat)

/-- Whether C after a burin subtraction is the borrow (R267 says only that C is set by it). -/
opaque Config.carryIsBorrow : Bool

/-- The program image of a standard task (R284): carried in the Attine image, its words not in the spec. -/
opaque Config.stdTask : Nat → List (BitVec 32)

/-- BAR2 offset of the trigger unit's per-sheet beam-power table (R277 names it and gives no place). -/
opaque Config.bpowBase : Nat

/-- What a word of a burin core's memories reads as after S6 has lost it (R286), by loss and word. -/
opaque Config.lostCell : Nat → Nat → Nat

/-- Device byte offset at which burin cores see BAR0 (R274 gives "BAR2 and BAR0 terms" and no place). -/
opaque Config.bar0At : Nat

/-- Device byte offset of a task's RECW area, by entry of the BURIN section (R283 gives its size only). -/
opaque Config.recwAt : Nat → Nat

/-- Nanoseconds from the acceptance of SELFTEST to the first access of its memory part (0) and to the last (1): the part
follows the quire part and takes about 1.5 s (R362, R514). -/
opaque Config.selftestNs : Nat → Nat

end Sys2Proof
end

