-- ==== Sys2Proof/Machine/TyClk.lean ====
section
/-! DEFINITION. References, the disciplined loop and its outputs (chapter 15), and the serial lanes (chapter 12). -/

namespace Sys2Proof.Machine

/-- `REFMON.STATE` (R407). -/
inductive RefState where
  | disabled | disqualified | qualifying | qualified
  deriving DecidableEq, Repr

/-- One reference (R405 to R411, R427). -/
structure Ref where
  /-- `REFCFG`. -/
  cfg     : Word := 0
  state   : RefState := .disabled
  cause   : Nat := 0
  /-- LOCAL time of the last failure-free start. -/
  since   : BitVec 64 := 0
  /-- Consecutive missing edges. -/
  missing : Nat := 0
  /-- Frequency against the yardstick, 10^-12. -/
  foffs   : Int := 0
  /-- Phase against the loop output, 0.25 ns. -/
  phase   : Int := 0
  /-- In-band quality level. -/
  inband  : Nat := 0
  /-- The references with which it disagrees and which exclude it (R413). -/
  excl    : List Nat := []
  deriving DecidableEq, Repr

/-- `REFSTAT.LOOPSTATE` (R427). -/
inductive LoopState where
  | freerun | locked | switching | holdover | software
  deriving DecidableEq, Repr

/-- Where an output waits to be aligned (R424): ARRAY in 2^-16 ns, or an SFN. -/
inductive AlignAt where
  | array (t : Nat)
  | sfn (s : Sfn)
  deriving DecidableEq, Repr

/-- One SYNCOUT or CLKOUT (R422 to R424). -/
structure OutSt where
  cfg     : Word := 0
  per     : BitVec 64 := 0
  aligned : Bool := false
  wait    : Option AlignAt := none
  /-- Offset from the time base it marks, 0.25 ns. -/
  err     : Int := 0
  /-- Pulses emitted. -/
  pulses  : Nat := 0
  deriving DecidableEq, Repr

/-- The clock unit (R412 to R424). -/
structure ClkSt where
  refs     : Tab Ref := []
  refIdx   : Nat := 0
  loop     : LoopState := .freerun
  sel      : Option Nat := none
  /-- The frequency in force, offset from nominal in 2^-42. -/
  freq     : Int := 0
  holdFreq : Int := 0
  /-- Measurements that entered the loop within 1 s of the newest: LOCAL time and frequency, newest first (R417). -/
  meas     : List (BitVec 64 × Int) := []
  /-- The phase error e, 0.25 ns. -/
  err      : Int := 0
  /-- LOCAL time since which |e| has stayed below 1 ns. -/
  lowSince : Option (BitVec 64) := none
  disagree : Bool := false
  phGen    : BitVec 16 := 0
  phValid  : Bool := false
  /-- The loop record: temperature, load, VCORE deviation. -/
  recTemp  : BitVec 8 := 0
  recLoad  : BitVec 8 := 0
  recVcal  : BitVec 8 := 0
  /-- ARRAY time at which HOLDOVER was entered. -/
  holdAt   : Option (BitVec 64) := none
  outs     : Tab OutSt := []
  outIdx   : Nat := 0
  deriving DecidableEq, Repr

/-- `LSTAT.STATE` (R324). -/
inductive LaneState where
  | off | detect | adapt | blockhunt | markerhunt | up | failed | loopback
  deriving DecidableEq, Repr

/-- One physical lane: its receiver and its transmitter (R319 to R337). -/
structure Lane where
  state    : LaneState := .off
  sigdet   : Bool := false
  invert   : Bool := false
  logvalid : Bool := false
  remap    : Bool := false
  maperr   : Bool := false
  qidx     : BitVec 2 := 0
  stale    : Bool := false
  ql       : BitVec 4 := 0
  logic    : BitVec 8 := 0
  linkrx   : BitVec 16 := 0
  /-- MSEQ of the latest good marker since marker lock was lost. -/
  mseq     : Option (BitVec 8) := none
  /-- Consecutive good markers while hunting. -/
  good     : Nat := 0
  /-- Consecutive marker positions without a good marker while locked. -/
  missed   : Nat := 0
  /-- Consecutive valid sync headers while hunting. -/
  validRun : Nat := 0
  /-- Validity of the last 64 sync headers while locked, bit 0 the latest; a set bit is invalid. -/
  history  : BitVec 64 := 0
  /-- Bits by which the block boundary candidate has slipped. -/
  slips    : Nat := 0
  /-- LOCAL time of signal detect (R325). -/
  t0       : BitVec 64 := 0
  /-- The last block's 64 scrambled bits, for the descrambler (R316). -/
  prev     : BitVec 64 := 0
  /-- A run was discarded: delineation resumes at the next DELIM. -/
  resync   : Bool := false
  ctle     : BitVec 4 := 0
  dfe0     : Word := 0
  dfe1     : Word := 0
  eyeH     : BitVec 6 := 0
  eyeV     : BitVec 8 := 0
  eyeOff   : BitVec 8 := 0
  /-- The calibration record (R332). -/
  hasRec   : Bool := false
  recCtle  : BitVec 4 := 0
  recTemp  : BitVec 8 := 0
  recLoad  : BitVec 8 := 0
  recVcal  : BitVec 8 := 0
  /-- The transmitter is powered and sends. -/
  tx       : Bool := false
  txMseq   : BitVec 8 := 0
  /-- LOCAL time of the last IDLE frame or other frame sent. -/
  txAt     : BitVec 64 := 0
  /-- The lane powers down when SFN reaches this (R314). -/
  downAt   : Option Sfn := none
  deriving DecidableEq, Repr

/-- The lane bank. -/
structure LnbSt where
  lanes   : Tab Lane := []
  /-- Roles in force before the last change of a logical lane, and the boundary of the change (R314). -/
  oldRole : Tab (Option (Sfn × Word)) := []
  /-- SFN since which a logical lane's role in force has been OFF (R313). -/
  offAt   : Tab (Option Sfn) := []
  /-- Frames passed to ingest and not yet checked: logical lane and bytes. -/
  inbox   : List (Nat × List Byte) := []
  /-- Admitted SAMPLE frames that INGEST transmitters are to forward: lane and bytes, oldest first (R303). -/
  fwd     : List (Nat × List Byte) := []
  deriving DecidableEq, Repr

end Sys2Proof.Machine
end

