-- ==== Sys2Proof/Machine/TyIng.lean ====
section
/-! DEFINITION. The ingest unit's state (chapter 03). -/

namespace Sys2Proof.Machine

/-- One binding table entry (R49, R74): `BINDLO`, and VALID and SESSION of `BINDHI`. -/
structure BindEnt where
  lo    : Word := 0xFFFFFFFF
  valid : Bool := false
  tag   : BitVec 16 := 0
  deriving DecidableEq, Repr

/-- One bank of the shadowed ingest configuration (R33, R73). -/
structure IngBank where
  input : Tab BindEnt := []
  peer  : Tab BindEnt := []
  rate  : Tab (BitVec 24) := []
  depth : Tab (BitVec 16) := []
  deriving DecidableEq, Repr

/-- A lane's token bucket (R60): tokens in units of 1 / 25,600,000,000 frame, and the LOCAL time they hold for. -/
structure Bucket where
  tok : Nat := 0
  at_ : BitVec 64 := 0
  deriving DecidableEq, Repr

/-- One slot of the frame directory (R54, R59). -/
structure DirEnt where
  trig  : Bool
  src   : Nat
  chgrp : Nat
  f     : Sfn
  seq   : BitVec 16
  crc   : Word
  deriving DecidableEq, Repr

/-- What ING gathers for one input in one sheet (R55, R69, R71, R301). -/
structure InAcc where
  admitted : Nat := 0
  /-- Drops by class 8 to 15. -/
  drops    : Tab Nat := []
  ovf      : Nat := 0
  ndiode   : Nat := 0
  /-- Bitwise AND and OR of every admitted sample. -/
  andS     : BitVec 16 := 0xFFFF
  orS      : BitVec 16 := 0
  conflict : Bool := false
  /-- AND and OR of WALSH by span, as and × 4 + or; unlisted: no admitted frame. -/
  walsh    : Tab (Option Nat) := []
  deriving DecidableEq, Repr

/-- One sheet still open or completing in ING. -/
structure SheetAcc where
  at_    : Sfn
  inputs : Tab InAcc := []
  /-- The set bits of the validity bitmap (R67), rising. -/
  valid  : List Nat := []
  /-- Frame and drop counts by class over the sheet (R592). -/
  classes : Tab Nat := []
  deriving DecidableEq, Repr

/-- The flags of one input in a completed sheet (R69, R74), its counts, and its Walsh states by span. -/
structure InFlag where
  dead     : Bool := false
  absent   : Bool := false
  conflict : Bool := false
  acc      : InAcc := {}
  deriving DecidableEq, Repr

/-- A completed sheet as handed to DKL, HAT and ACC. -/
structure DoneSheet where
  at_   : Sfn
  /-- Sheet index within its ream. -/
  idx   : Nat
  /-- The ream's index in the run. -/
  ream  : Nat
  flags : Tab InFlag := []
  valid : List Nat := []
  classes : Tab Nat := []
  deriving DecidableEq, Repr

/-- The ingest unit. -/
structure IngSt where
  act      : IngBank := {}
  shadow   : IngBank := {}
  /-- During the overlap of R29: the retired bank and the first SFN judged by the new one. -/
  old      : Option (Sfn × IngBank) := none
  /-- The initial bank of a plate armed in RUNNING, for frames that come before its boundary (R29, R74). -/
  soon     : Option IngBank := none
  bindIdx  : BitVec 14 := 0
  bindLo   : Word := 0xFFFFFFFF
  rateIdx  : BitVec 8 := 0
  buckets  : Tab Bucket := []
  laneq    : BitVec 256 := 0
  /-- CRC failures of each lane by 62.5 µs sub-interval of LOCAL time. -/
  crcFails : Tab (List (Nat × Nat)) := []
  dir      : List DirEnt := []
  /-- By channel group: every frame set of the run before this SFN has closed; unlisted: none before S0. -/
  closedTo : Tab (Option Sfn) := []
  /-- Frame sets beyond those that have closed: channel group and first SFN. -/
  closed   : List (Nat × Sfn) := []
  sheets   : List SheetAcc := []
  /-- The highest SEQ admitted for each input. -/
  seqHigh  : Tab (Option (BitVec 16)) := []
  /-- The last completed sheet. -/
  last     : Option DoneSheet := none
  /-- Frames below this SFN are PRESTART: S0, or a restart boundary (R52). -/
  notBefore : Sfn := 0
  vbmBuf   : Bool := false
  vbmGen   : BitVec 16 := 0
  lstatIdx : BitVec 8 := 0
  inflagIdx : BitVec 13 := 0
  keys0    : Option (List Byte) := none
  keys1    : Option (List Byte) := none
  keyStage : Tab Word := []
  deriving DecidableEq, Repr

end Sys2Proof.Machine
end

