-- ==== Sys2Proof/Machine/TyPlt.lean ====
section
/-! DEFINITION. Plate requests, plates, plate slots and the run (chapters 02 and 07). -/

namespace Sys2Proof.Machine

/-- One entry of the INPUTS section (R170): input ID, session tag, lane set (empty: AUTO). -/
structure InputEnt where
  id    : Nat
  tag   : BitVec 16
  lanes : List Nat
  deriving DecidableEq, Repr

/-- A plate request, decoded (R169, R170). -/
structure Req where
  reqSize  : Nat := 128
  mode     : Nat := 1
  sfmt     : Nat := 0
  vfmt     : Nat := 0
  order    : Nat := 0
  sym      : Nat := 0
  nplane   : Nat := 1
  kslog    : Nat := 12
  earlyB   : Nat := 0
  nchan    : Nat := 64
  ninput   : Nat := 1
  tileA    : Nat := 0
  sheetOff : Nat := 0
  reamLen  : Nat := 1
  fch      : Nat := 1
  nbeam    : Nat := 0
  powercap : Nat := 450
  capgib   : Nat := 0
  capbw    : Nat := 0
  premax   : Nat := 0
  satmax   : Nat := 0
  fwd      : Nat := 0
  inputs   : List InputEnt := []
  /-- Role and rate of each logical lane. -/
  lanes    : List (Nat × Nat) := []
  chprio   : List Nat := []
  beamprio : List Nat := []
  beams    : List Byte := []
  trigger  : List Byte := []
  burin    : List Byte := []
  perm     : List Nat := []
  deriving DecidableEq, Repr

/-- A memory exclusion of the fault map (R186, R349). -/
structure Excl where
  chan  : Nat
  bank  : Nat
  row   : Nat
  count : Nat
  deriving DecidableEq, Repr

/-- A plate: the request it was built from, the fault map it was built against, its digests. -/
structure Plate where
  req    : Req := {}
  qmask  : BitVec 256 := 0
  excl   : List Excl := []
  hash   : BitVec 256 := 0
  bldver : Word := 0
  /-- Sheet-buffer size in GiB and guaranteed retention in samples (R90, R92). -/
  buf    : Nat := 1
  retain : Nat := 0
  /-- POWERTOT of the budget, 0.1 W. -/
  power  : Nat := 0
  deriving DecidableEq, Repr

/-- The staged slot's state (R194). -/
inductive SlotState where
  | empty | loaded | busy | proofed | armed | retiring
  deriving DecidableEq, Repr

/-- The plate unit (R186 to R203). -/
structure PltSt where
  actSlot  : Bool := false
  active   : Option Plate := none
  staged   : SlotState := .empty
  /-- The staged plate when the builder or a proof has decoded one. -/
  stagedP  : Option Plate := none
  /-- The request bytes the running build has read, and its fault map snapshot. -/
  snapReq  : List Byte := []
  snapQ    : BitVec 256 := 0
  snapExcl : List Excl := []
  armPend  : Bool := false
  /-- LROLE already holds the ARMED plate's roles (R315). -/
  rolesIn  : Bool := false
  armSfn   : Sfn := 0
  fmapGen  : Word := 0
  excl     : List Excl := []
  op       : Nat := 0
  phase    : Nat := 0
  pct      : Nat := 0
  busy     : Bool := false
  gen      : BitVec 8 := 0
  code     : Code := 0
  limqty   : Nat := 0
  resOp    : Nat := 0
  ready    : Bool := false
  resGen   : BitVec 8 := 0
  resVal   : Word := 0
  resOff   : Word := 0
  /-- The BUD registers show the staged plate's figures. -/
  budValid : Bool := false
  deriving DecidableEq, Repr

/-- A plate takeover or the segment of the run that a plate rules: its first SFN and the sheet and ream index there. -/
structure RunSt where
  /-- A run exists: START was accepted and the state has not returned to IDLE or READY. -/
  live    : Bool := false
  s0      : Sfn := 0
  /-- First SFN of the next sheet to complete. -/
  sheetAt : Sfn := 0
  /-- Sheets of the run completed so far. -/
  sheets  : Nat := 0
  /-- First SFN of the ream in progress at the completion side (the ream whose latch comes next). -/
  reamAt  : Sfn := 0
  /-- Reams of the run latched so far. -/
  reams   : Nat := 0
  bLast   : Option Sfn := none
  /-- The plate that judges data before the takeover boundary, until L (R35). -/
  outgoing : Option Plate := none
  /-- Pages whose shadow bank still owes a copy of the incoming plate's configuration (R35). -/
  copyDue  : List Nat := []
  /-- The takeover boundary of the latest takeover of the run, while the outgoing plate still runs. -/
  tookAt  : Option Sfn := none
  deriving DecidableEq, Repr

end Sys2Proof.Machine
end

