-- ==== Sys2Proof/Machine/TyDkl.lean ====
section
/-! DEFINITION. The deckle engine's, the hatch array's and the accumulator's state (chapters 04, 05 and 06). -/

namespace Sys2Proof.Machine

/-- A page that holds a slot (R80, R90): its key, its slot, the time blocks admitted into it. -/
structure PageIn where
  at_   : Sfn
  p     : Nat
  g     : Nat
  slot  : Nat
  /-- Bit j: time block j was admitted. -/
  valid : BitVec 8 := 0
  consumed : Bool := false
  /-- The page has left the choreography: its slot was substituted while pinned (R97). -/
  out   : Bool := false
  deriving DecidableEq, Repr

/-- A capture request as DKL holds it until its record is written (R95, R99, R306). -/
structure Cap where
  id     : BitVec 16
  t      : Sfn
  pre    : Nat
  post   : Nat
  /-- Input-set indexes and channel groups selected, rising. -/
  inputs : List Nat
  groups : List Nat
  /-- Start SFN of the first page span. -/
  first  : Sfn
  nspan  : Nat
  /-- The request was refused (R96). -/
  refused : Bool := false
  /-- STOP or QUIESCE ended couching at this SFN before the window closed. -/
  cut    : Option Sfn := none
  deriving DecidableEq, Repr

/-- A staged sub-block or slice: sheet, channel, sub-block, slice. -/
abbrev StageTag := Sfn × Nat × Nat × Nat

/-- A staging half (R117): what is being staged into it, the inputs staged so far, and its bytes; an unlisted byte has
not been written since reset. -/
structure Half where
  tag    : Option StageTag := none
  count  : Nat := 0
  full   : Bool := false
  bytes  : Tab (Option Byte) := []
  deriving DecidableEq, Repr

/-- The deckle engine. -/
structure DklSt where
  pages   : Tab (Option PageIn) := []
  /-- Slots taken so far from each memory channel's initial queue. -/
  taken   : Tab Nat := []
  /-- Trigger IDs that pin a page, by page key. -/
  pins    : Tab (List (BitVec 16)) := []
  /-- Substitution order of each channel; none: still the plate's reserve list. -/
  subst   : Tab (Option (List Nat)) := []
  /-- Requests whose record is not yet written. -/
  caps    : List Cap := []
  half0   : Half := {}
  half1   : Half := {}
  panic   : Bool := false
  capwr   : BitVec 12 := 0
  caprd   : BitVec 12 := 0
  /-- The next index of the list ring. -/
  listIdx : Nat := 0
  /-- List entries still held for each record in the ring that the host has not read, oldest first. -/
  unread  : List Nat := []
  rsvIdx  : BitVec 6 := 0
  /-- `RSVMIN` was below `RSVLOWMARK`. -/
  low     : Bool := false
  /-- The next stream ID in CAPTURE mode (R306). -/
  stream  : BitVec 16 := 0
  /-- Page spans for which stream requests have been issued end here. -/
  streamAt : Option Sfn := none
  deriving DecidableEq, Repr

/-- Why a quire is in QMASK (R138). -/
structure QCause where
  cause : Nat := 0
  peer  : Nat := 0
  ream  : BitVec 16 := 0
  deriving DecidableEq, Repr

/-- One checking quire (R125 to R128). -/
structure Checker where
  target    : Nat := 0
  dedicated : Bool := false
  disabled  : Bool := false
  idle      : Bool := false
  /-- Working quires it has mismatched, with the ream, of the last ream in which it did. -/
  hits      : List (Nat × Nat) := []
  deriving DecidableEq, Repr

/-- A comparison that completes during the next pass run (R126). -/
structure Cmp where
  checker : Nat
  quire   : Nat
  differ  : Bool
  /-- Reams and channels of the quire's runs since its last check, up to and including the run that is compared. -/
  held    : List (Nat × Nat)
  ream    : Nat
  deriving DecidableEq, Repr

/-- The hatch array. -/
structure HatSt where
  qmask   : BitVec 160 := 0
  qsusp   : BitVec 160 := 0
  qcause  : Tab QCause := []
  qcauseIdx : BitVec 8 := 0
  chkIdx  : BitVec 2 := 0
  /-- Completed sheets not yet begun, each with its channels in plate order (R133). -/
  queue   : List (DoneSheet × List Nat) := []
  /-- The sheet in correlation, and its channels still to run; the head is in progress. -/
  sheet   : Option DoneSheet := none
  chans   : List Nat := []
  sub     : Nat := 0
  pass    : Nat := 0
  /-- A pass run of the channel in progress has executed. -/
  begun   : Bool := false
  /-- The staging half of the sub-block in progress. -/
  useHalf : Bool := false
  half    : Bool := false
  /-- Stopped by shedding; the ream whose end lifts the stop (R132, R133). -/
  stopped : Option Nat := none
  rho     : Nat := 0
  checkers : Tab Checker := []
  /-- The accumulator store: two halves of entries (plane × N_bl + baseline), real and imaginary part. -/
  store0  : Tab (Int × Int) := []
  store1  : Tab (Int × Int) := []
  /-- The half of the accumulator store in use. -/
  which   : Bool := false
  /-- Runs not yet verified: by working quire, the reams and channels since its last matching check. -/
  unver   : Tab (List (Nat × Nat)) := []
  /-- Suspect quires without a checker: suspect for as long as the plate lasts. -/
  orphan  : List Nat := []
  /-- Working quires that became suspect, with the ream, of the last ream in which one did (R128). -/
  suspReam : List (Nat × Nat) := []
  /-- Comparisons of the last pass run, not yet completed (R126). -/
  due     : List Cmp := []
  deriving DecidableEq, Repr

/-- A channel of a sheet that waits for its slot in the long-term add (R143, R147). -/
structure AddItem where
  sheet : DoneSheet
  chan  : Nat
  /-- The half of the accumulator store that holds it; none: not correlated in the sheet. -/
  store : Option Bool
  deriving DecidableEq, Repr

/-- One entry of the saturation list (R155). -/
structure SatEnt where
  baseline : Nat
  chan  : Nat
  imag  : Bool
  neg   : Bool
  plane : Nat
  sheet : Nat
  deriving DecidableEq, Repr

/-- What ACC gathers for one ream (R153, R155, R156, R157). -/
structure Gather where
  /-- By sheet × 1024 + channel: bit 8 data delivered, the other bits as FLAGS of R156. -/
  marks   : Tab Nat := []
  /-- FLAGS bits of a channel that are no per-sheet count: SUSPECT, UNCHECKED, SATURATED. -/
  flags   : Tab Nat := []
  /-- DEADSHEETS, ABSENTSHEETS, OVFSUM and NDIODE by input × 4 + field. -/
  inputs  : Tab Nat := []
  /-- Sheet words by sheet × 8192 + input. -/
  words   : Tab Nat := []
  /-- Drop counts by input × 8 + class − 8. -/
  drops   : Tab Nat := []
  sats    : List SatEnt := []
  satCnt  : Nat := 0
  satUnl  : Nat := 0
  froze   : Bool := false
  /-- The ream gets no record (R162). -/
  norec   : Bool := false
  /-- Channels whose last-sheet bytes enter the watermark as zeros (R158). -/
  zeroed  : List Nat := []
  deriving DecidableEq, Repr

/-- A commit, shed, holdover or freeze entry of the metadata lists (R157). -/
structure CommitEnt where
  page   : Nat
  cancelled : Bool
  num    : BitVec 16
  when   : Nat
  target : Sfn
  deriving DecidableEq, Repr

/-- The metadata lists of the interval since the last latch, and their overflow counts (R157). -/
structure MetaLists where
  commits : List CommitEnt := []
  /-- Level, sheet index in the ream, ARRAY time. -/
  sheds   : List (Nat × Nat × BitVec 64) := []
  holds   : List (BitVec 64 × BitVec 64) := []
  freezes : List (BitVec 64 × BitVec 64) := []
  beamInv : Nat := 0
  deriving DecidableEq, Repr

/-- A ream whose record is being assembled or waits for THAW (R159, R161). -/
structure Closing where
  idx     : Nat
  first   : Sfn
  last    : Bool
  delayed : Bool
  buf     : Bool
  plate   : Plate
  g       : Gather
  lists   : MetaLists
  closeTime : BitVec 64
  pgen    : Word
  epoch   : Nat
  deriving DecidableEq, Repr

/-- The accumulator and ream assembler. -/
structure AccSt where
  gath    : Tab Gather := []
  adds    : List AddItem := []
  /-- The record buffer that accumulates. -/
  buf     : Bool := false
  /-- The record being assembled; a freeze may have interrupted its assembly. -/
  closing : Option Closing := none
  /-- The record whose close waits for THAW (R161). -/
  waits   : Option Closing := none
  recrdy  : Bool := false
  recbuf  : Bool := false
  recgen  : BitVec 8 := 0
  lost    : Nat := 0
  recream : Nat := 0
  wmark   : BitVec 64 := 0
  /-- Reams without a record since the last record finished. -/
  skipped : Nat := 0
  lists   : MetaLists := {}
  /-- The run's last record is finished, or the ream ending at B_last got none and its latch has passed. -/
  lastDone : Bool := false
  /-- ACC has interrupted for a saturation of the present ream. -/
  satRaised : Bool := false
  /-- What ADDSTAT shows while no add waits: CHAN, FIRST and LAST of the last add (R164). -/
  addLast : Word := 0
  deriving DecidableEq, Repr

end Sys2Proof.Machine
end

