-- ==== Sys2Proof/Machine/TyMem.lean ====
section
/-! DEFINITION. The state of the memory controller, the fabric, the PCIe endpoint, the DMA engines and the MMU
(chapters 13 and 14). -/

namespace Sys2Proof.Machine

/-- `MSTAT.STATE` (R364). -/
inductive MemState where
  | off | training | run | selfref | frozen | thawing | retrain | selftest
  deriving DecidableEq, Repr

/-- The encoding of `MSTAT.STATE` (R364). -/
def MemState.code : MemState → Nat
  | .off => 0 | .training => 1 | .run => 2 | .selfref => 3 | .frozen => 4 | .thawing => 5 | .retrain => 6 | .selftest => 7

/-- One memory channel (R367, R368). -/
structure MemChan where
  trained : Bool := false
  failed  : Bool := false
  stale   : Bool := false
  refdbl  : Bool := false
  temp    : BitVec 8 := 0
  thr     : BitVec 8 := 0
  track0  : BitVec 8 := 0
  track1  : BitVec 8 := 0
  /-- `TRAINREC`. -/
  record  : Word := 0
  cecnt   : Nat := 0
  ceBank  : BitVec 5 := 0
  ceRow   : BitVec 16 := 0
  /-- The second of ARRAY time, plus one, of the channel's latest `SYS.ERRLOG` entry for a CE (R347). -/
  ceSec   : Nat := 0
  deriving DecidableEq, Repr

/-- What a freeze records (R357, R363). -/
structure Frz where
  cause : Nat := 0
  multi : Bool := false
  addr  : BitVec 38 := 0
  loc   : Word := 0
  syn   : Word := 0
  time  : BitVec 64 := 0
  prev  : DevState := .off
  deriving DecidableEq, Repr

/-- An access whose codeword 0 the injection of R361 has made wrong: the symbols inverted. -/
structure BadAcc where
  nsym : Nat := 0
  symA : Nat := 0
  symB : Nat := 0
  deriving DecidableEq, Repr

/-- The memory controller. -/
structure MctlSt where
  mstat    : MemState := .off
  frz      : Frz := {}
  chans    : Tab MemChan := []
  exclOvf  : Bool := false
  /-- The scrubber's access number within a channel: row, column, bank and sub-channel. -/
  scrub    : Nat := 0
  /-- CE reports of each row in the present scrub period (R349). -/
  ceRows   : Tab Nat := []
  inj      : Word := 0
  armed    : Bool := false
  /-- Accesses made wrong by the injection, by access number (device address / 32). -/
  bad      : Tab BadAcc := []
  /-- The check of R359 waits for the shed level to fall below S5 (R360). -/
  thawWait : Bool := false
  /-- The restart boundary fixed at the acceptance of THAW (R359). -/
  restart  : Sfn := 0
  /-- The model's own: a freeze of the command in progress has its snapshot still to take (R569). -/
  snapDue  : Bool := false
  trainStep : Nat := 0
  trainPct  : Nat := 0
  deriving DecidableEq, Repr

/-- A fabric request that has had no response yet (R379). -/
structure FabReq where
  master : Nat
  target : Nat
  write  : Bool
  at_    : BitVec 64
  deriving DecidableEq, Repr

/-- The fabric. -/
structure FabSt where
  portsel  : BitVec 4 := 0
  /-- `PRIO` by master. -/
  prio     : Tab Word := []
  /-- LOCAL time at which a master's ports began to drain. -/
  draining : Tab (Option (BitVec 64)) := []
  waiting  : List FabReq := []
  /-- Requests whose TIMEOUT has been given and whose response could still come. -/
  late     : Nat := 0
  lasterr  : Word := 0
  deriving DecidableEq, Repr

/-- The PCIe link (R401). -/
structure HifSt where
  speed : BitVec 4 := 0
  width : BitVec 6 := 0
  flit  : Bool := false
  deriving DecidableEq, Repr

/-- The channel states of R384. -/
inductive ChState where
  | idle | queued | active | suspended | faulted | halted
  deriving DecidableEq, Repr

/-- The encoding of `CHSTAT.STATE` (R384). -/
def ChState.code : ChState → Nat
  | .idle => 0 | .queued => 1 | .active => 2 | .suspended => 3 | .faulted => 4 | .halted => 5

/-- A descriptor (R387). -/
structure Desc where
  op       : Nat := 0
  complete : Bool := false
  last     : Bool := false
  stopmis  : Bool := false
  len      : Nat := 0
  src      : BitVec 64 := 0
  dst      : BitVec 64 := 0
  pattern  : BitVec 64 := 0
  next     : BitVec 64 := 0
  user     : BitVec 64 := 0
  deriving DecidableEq, Repr

/-- One DMA channel (R384, R402, R403). -/
structure DmaChan where
  state     : ChState := .idle
  code      : Code := 0
  readback  : Bool := false
  descfetch : Bool := false
  missSeen  : Bool := false
  idx       : Nat := 0
  off       : Nat := 0
  fva       : BitVec 64 := 0
  /-- Virtual address of the descriptor at `idx`, and the descriptor once fetched. -/
  cur       : BitVec 64 := 0
  desc      : Option Desc := none
  /-- Offset of the first byte found to differ, and of the first poisoned byte. -/
  mis       : Option Nat := none
  pois      : Option Nat := none
  /-- A request of the channel waits for its response. -/
  stalled   : Bool := false
  /-- The bytes of the descriptor are done and its read-back is outstanding. -/
  reading   : Bool := false
  cmpwr     : Nat := 0
  /-- Records in the ring that the host has not read. -/
  unread    : Nat := 0
  deriving DecidableEq, Repr

/-- One DMA engine (R385). -/
structure DmaEng where
  chans  : Tab DmaChan := []
  urgent : List Nat := []
  bulk   : List Nat := []
  active : Option Nat := none
  susp   : Option Nat := none
  deriving DecidableEq, Repr

/-- A cached translation (R398): engine, context, virtual page; the page's base, its target and its permissions. -/
structure TlbEnt where
  eng   : Nat
  ctx   : Nat
  vpn   : Nat
  base  : Nat
  host  : Bool
  read  : Bool
  write : Bool
  deriving DecidableEq, Repr

/-- One entry of `MMU.FAULTLOG` (R399, R404). -/
structure MmuFault where
  ctx   : Nat
  chan  : Nat
  eng   : Nat
  cause : Nat
  write : Bool
  va    : BitVec 64
  deriving DecidableEq, Repr

/-- The MMU (R396 to R399). -/
structure MmuSt where
  sel   : BitVec 6 := 0
  en    : Tab Bool := []
  root  : Tab (BitVec 64) := []
  tlb   : List TlbEnt := []
  log   : List MmuFault := []
  lastVa : BitVec 64 := 0
  /-- The invalidation in progress: INVCMD, INVCTX, INVADDR. -/
  inv   : Option (Nat × Nat × BitVec 64) := none
  done  : BitVec 8 := 0
  deriving DecidableEq, Repr

end Sys2Proof.Machine
end

