-- ==== Sys2Proof/Machine/TyOut.lean ====
section
/-! DEFINITION. The state of the beam former, the trigger unit and pair operation (chapters 08, 09 and 17). -/

namespace Sys2Proof.Machine

/-- A frame of an open frame set as the beam former holds it: input index, payload, NDIODE. -/
structure Member where
  p      : Nat
  bytes  : List Byte
  ndiode : Bool
  deriving DecidableEq, Repr

/-- A frame set that the beam former has begun to sum (R211, R213). -/
structure OpenSet where
  g       : Nat
  f       : Sfn
  members : List Member := []
  /-- A frame of the set found the queue full (R213). -/
  lost    : Bool := false
  deriving DecidableEq, Repr

/-- A beam block that waits for its EGRESS lane (R215 to R217). -/
structure EgBlock where
  lane   : Nat
  beam   : Nat
  g      : Nat
  f      : Sfn
  seq    : BitVec 16
  ndiode : Bool
  osat   : Nat
  session : BitVec 16
  bytes  : List Byte
  deriving DecidableEq, Repr

/-- What the beam former uses for frame sets from an SFN on: the tables, the session of BEAM frames, and the blocks over
which weights ramp from the configuration before it (R220, R221). -/
structure BmEra where
  at_     : Sfn := 0
  tbl     : Tab Byte := []
  session : BitVec 16 := 0
  ramp    : Nat := 1
  deriving DecidableEq, Repr

/-- The beam former. -/
structure BmfSt where
  /-- The active and the shadow table image by byte offset (R224). -/
  tbl     : Tab Byte := []
  sh      : Tab Byte := []
  tblErr  : Nat := 0
  opens   : List OpenSet := []
  /-- Frame sets closed since START (R216). -/
  sets    : Nat := 0
  /-- LOCAL time at which the input queue runs empty, in units of 1/6 ns (R213). -/
  busy    : Nat := 0
  egress  : List EgBlock := []
  stgwr   : Nat := 0
  stgrd   : Nat := 0
  /-- Configurations of frame sets still open, newest first. -/
  eras    : List BmEra := []
  /-- Ramp: length, last closed block, in progress, first SFN (R221, R226). -/
  rampN   : Nat := 0
  rampR   : Nat := 0
  ramping : Bool := false
  rampAt  : Sfn := 0
  /-- The block with which the ramp ends: its last, or the last before a takeover (R222). -/
  rampLast : Nat := 0
  /-- Only the S4 list is computed, until the frame sets at this SFN (R223). -/
  limited : Bool := false
  fullAt  : Option Sfn := none
  stopped : Bool := false
  /-- While stopped: the boundary at which it resumes, once one is fixed (R223, R486). -/
  resumeAt : Option Sfn := none
  deriving DecidableEq, Repr

/-- A decimated value under construction: the sum of z, the powers summed, whether one is invalid (R232). -/
structure YSum where
  sum : Int := 0
  n   : Nat := 0
  bad : Bool := false
  deriving DecidableEq, Repr

/-- A source of coincidence (R237). -/
inductive Source where
  | beam (k : Nat)
  | peer (src cls : Nat)
  | tin (n : Nat)
  | sw (n : Nat)
  deriving DecidableEq, Repr

/-- An event with its tick, and for a beam event its candidate (R236). -/
structure Event where
  src    : Source
  tick   : Nat
  beam   : Nat := 0
  trial  : Nat := 0
  width  : Nat := 0
  excess : Int := 0
  sfn    : Sfn := 0
  invalid : Bool := false
  warmup : Bool := false
  deriving DecidableEq, Repr

/-- A TRIG frame that waits for the PEER lanes (R244). -/
structure TrigOut where
  seq  : BitVec 16
  sfn  : Sfn
  body : List Byte
  deriving DecidableEq, Repr

/-- The trigger unit. -/
structure TrgSt where
  /-- Table images in force, newest first, each from its SFN on; and the shadow (R255). -/
  tbls    : List (Sfn × Tab Byte) := []
  sh      : Tab Byte := []
  tblErr  : Nat := 0
  /-- Decimated values by ((tick × 256) + trigger beam) × 1024 + sub-band. -/
  y       : Tab YSum := []
  /-- Sums of P and counts of valid powers for the beam-power table (R277), by sheet, trigger beam and channel. -/
  pow     : Tab (Nat × Nat) := []
  /-- A takeover has changed the geometry (R253): its boundary and the a of the outgoing plate, until the samples before
  it are done; and the decimated values gathered for the incoming plate. -/
  geomAt  : Option (Sfn × Nat) := none
  yNew    : Tab YSum := []
  /-- First tick of the history; before it there are zeros (R235). -/
  hist    : Nat := 0
  /-- The next trigger sample to evaluate, and the last evaluated. -/
  next    : Nat := 0
  lastTick : Option Nat := none
  events  : List Event := []
  prevA   : Nat := 0
  lastFired : Option Nat := none
  nextId  : BitVec 16 := 0
  /-- Trigger decisions since START (R445). -/
  fires   : Nat := 0
  /-- Software sources delivered: block and its four-bit values by trigger sample; and blocks marked SWLATE. -/
  sw      : List (Sfn × List Nat) := []
  late    : List Sfn := []
  /-- LOCAL time at which each TRIGOUT pulse ends. -/
  outEnd  : Tab (Option Nat) := []
  tin     : BitVec 4 := 0
  txq     : List TrigOut := []
  txSeq   : BitVec 16 := 0
  fifo    : List (List Byte) := []
  logwr   : Nat := 0
  logrd   : Nat := 0
  limited : Bool := false
  fullAt  : Option Sfn := none
  stopped : Bool := false
  /-- While stopped: the boundary at which it resumes, once one is fixed (R253, R486). -/
  resumeAt : Option Sfn := none
  deriving DecidableEq, Repr

/-- `OWNSTAT.STATE` (R455). -/
inductive PairState where
  | solo | offline | matching | ready | owner
  deriving DecidableEq, Repr

/-- A message that waits for its ACK (R464). -/
structure Unacked where
  seq   : BitVec 16
  kind  : Nat
  body  : List Byte
  tries : Nat := 0
  at_   : BitVec 64
  deriving DecidableEq, Repr

/-- A record as the watermark comparison knows it (R472). -/
structure WmRec where
  first : Sfn
  wm    : BitVec 64
  bad   : Bool
  at_   : BitVec 64
  deriving DecidableEq, Repr

/-- Pair operation. -/
structure PairSt where
  state    : PairState := .solo
  ownOut   : Bool := false
  ownIn    : Bool := false
  /-- A HANDOVER is accepted and HANDOFF not yet sent: nothing new starts (R460). -/
  handing  : Bool := false
  lease    : Bool := false
  ilfault  : Bool := false
  linkUp   : Bool := false
  streak   : Nat := 0
  platediff : Bool := false
  timediff : Bool := false
  timeRun  : Nat := 0
  ilRun    : Nat := 0
  cfgdiff  : BitVec 5 := 0
  peerP    : BitVec 8 := 0
  peerS    : BitVec 8 := 0
  peerEpoch : Word := 0
  /-- First SFN of the partner's current ream. -/
  peerAnchor : Option Sfn := none
  /-- LOCAL times of the last admitted heartbeat and of the last admitted CTRL frame. -/
  hbAt     : Option (BitVec 64) := none
  ctrlAt   : Option (BitVec 64) := none
  /-- SEQ of the last heartbeat acted on: what a GRANT answers (R466). -/
  hbSeq    : BitVec 16 := 0
  /-- The owner's lease ends at this LOCAL time; ownership by silence (R470). -/
  leaseEnd : Option (BitVec 64) := none
  bySilence : Bool := false
  /-- LOCAL time at which OWN_IN fell without HANDOFF so far (R460, R462). -/
  fellAt   : Option (BitVec 64) := none
  handoffTimeout : Bool := false
  /-- LOCAL time since which an ILRESET recheck has been clean (R471). -/
  recheck  : Option (BitVec 64) := none
  txSeq    : BitVec 16 := 0
  rxSeq    : Option (BitVec 16) := none
  unacked  : List Unacked := []
  wmOutcome : Nat := 0
  wmCount  : BitVec 8 := 0
  own      : List WmRec := []
  peers    : List WmRec := []
  /-- THRESH fragments received: index and bytes; and the mirrored tickets that wait for them. -/
  frags    : Tab (List Byte) := []
  /-- The fragment count and ticket of `frags`, and the mirrored threshold ticket that waits for them: ticket, WHEN,
  boundary and shadow digest. -/
  fragCnt  : Nat := 0
  fragTkt  : BitVec 16 := 0
  thrWait  : Option (BitVec 16 × Sfn × BitVec 64) := none
  /-- A HANDOFF has been received and OWN_IN has not fallen yet (R460). -/
  handoffRx : Bool := false
  deriving DecidableEq, Repr

end Sys2Proof.Machine
end

