-- ==== Sys2Proof/Machine/State.lean ====
section
/-! DEFINITION. The state of the block, its state after reset, and the reasons a step can stop. -/

namespace Sys2Proof.Machine

/-- Everything the spec gives the block, without the queue. Every default value is the value after reset. -/
structure Dev where
  /-- Stored words of BAR0 registers by BAR0 offset; an unlisted word holds its reset value. For a shadowed register
  this is the shadow bank. -/
  regs   : Tab Word := []
  /-- Active bank of the shadowed words that `regs` holds. -/
  act    : Tab Word := []
  pages  : Tab Page := bootPages
  /-- Statistics counters by BAR0 offset of their low word: latched window, live set, next interval's set (R30, R31). -/
  stats  : Tab (BitVec 64) := []
  live   : Tab (BitVec 64) := []
  nextc  : Tab (BitVec 64) := []
  sys    : SysSt := {}
  boot   : BootSt := {}
  pwr    : PwrSt := {}
  aon    : AonSt := {}
  time   : TimeSt := {}
  msp    : Tab MspPort := []
  /-- Shadow banks of the monitor slot ports, and monitor words 0 to 223. -/
  mspSh  : Tab MspBank := []
  monword : Tab Word := []
  eth    : Tab EthPort := []
  clk    : ClkSt := {}
  lnb    : LnbSt := {}
  plt    : PltSt := {}
  run    : RunSt := {}
  ing    : IngSt := {}
  dkl    : DklSt := {}
  hat    : HatSt := {}
  acc    : AccSt := {}
  bmf    : BmfSt := {}
  trg    : TrgSt := {}
  pair   : PairSt := {}
  bur    : BurSt := {}
  mctl   : MctlSt := {}
  fab    : FabSt := {}
  hif    : HifSt := {}
  dma    : Tab DmaEng := []
  mmu    : MmuSt := {}
  /-- Device memory by BAR2 offset; an unlisted byte reads 0. -/
  mem    : Tab Byte := []
  /-- The model's own: the index of the next free value. -/
  free   : Nat := 0
  deriving DecidableEq, Repr

/-- The block: its state, and the commands that wait, first in, first out. -/
structure State where
  dev     : Dev := {}
  pending : List Instr := []
  deriving DecidableEq, Repr

/-- The block right after reset: PORST_N has risen, the state is IMAGE_WAIT, nothing is pending (R504; log entry 5). -/
def State.reset : State := {}

/-- Reasons a step stops with a fault. The model raises none: every command has an effect. -/
inductive Fault where
  /-- Raised by no meaning; kept because the interface asks for a type of faults. Safe. -/
  | unreachable
  deriving DecidableEq, Repr

/-- Reasons a step is refused. -/
inductive Refusal where
  /-- Raised by an arm of `exec` whose command has no meaning yet. Safe: the machine stops. -/
  | notModelled (mnemonic : String)
  deriving DecidableEq, Repr

end Sys2Proof.Machine
end

