-- ==== Sys2Proof/Machine/Ops.lean ====
section
/-! DEFINITION. The named operations every command is built from: registers, statistics, interrupts, rejections,
device memory, the device state, free values. -/

namespace Sys2Proof.Machine

/-! ### Commands -/

/-- A command's outcome: its effect on everything but the queue. -/
def State.run (s : State) (f : Dev → Dev) : Host.Outcome State Fault Refusal := .next { s with dev := f s.dev }

/-! ### Error codes (R539) -/

def eOK : Code := 0x00
def eRANGE : Code := 0x01
def eRSVD : Code := 0x02
def eSTATE : Code := 0x03
def eLOCK : Code := 0x04
def eBUSY : Code := 0x05
def ePERM : Code := 0x06
def eALIGN : Code := 0x07
def eCOMBO : Code := 0x08
def eNOTREADY : Code := 0x09
def eSEQ : Code := 0x0A
def eAUTH : Code := 0x0B
def eSHED : Code := 0x0C
def eRES : Code := 0x0D
def ePLATE : Code := 0x0E
def eTIMEOUT : Code := 0x0F

/-- The place of a code in the order of R528. -/
def codeRank (c : Code) : Nat :=
  if c = eALIGN then 0 else if c = eNOTREADY then 1 else if c = ePERM then 2 else if c = eRSVD then 3
  else if c = eRANGE then 4 else if c = eCOMBO then 5 else if c = eSTATE then 6 else if c = eSHED then 7
  else if c = eLOCK then 8 else if c = eBUSY then 9 else if c = eSEQ then 10 else 11 + c.toNat

/-- Of the codes that apply, the one R528 records; none where none applies. -/
def firstCode : List Code → Option Code
  | [] => none
  | c :: t =>
    match firstCode t with
    | none => some c
    | some c' => if codeRank c ≤ codeRank c' then some c else some c'

/-- The code `c` where `b` holds. -/
def when' (b : Bool) (c : Code) : List Code := if b then [c] else []

/-! ### Pages and their numbers (R541) -/

def pgSYS : Nat := 0x00
def pgAON : Nat := 0x01
def pgPWR : Nat := 0x02
def pgPAIR : Nat := 0x03
def pgCLK : Nat := 0x04
def pgTIME : Nat := 0x05
def pgMSP : Nat := 0x06
def pgHIF : Nat := 0x07
def pgMMU : Nat := 0x08
def pgDMA : Nat := 0x09
def pgFAB : Nat := 0x0D
def pgMEMC : Nat := 0x10
def pgMEMG : Nat := 0x11
def pgLNB : Nat := 0x18
def pgING : Nat := 0x28
def pgDKL : Nat := 0x29
def pgHAT : Nat := 0x2A
def pgACC : Nat := 0x2B
def pgBMF : Nat := 0x2C
def pgTRG : Nat := 0x2D
def pgPLT : Nat := 0x2E
def pgBUR : Nat := 0x30
def pgETH : Nat := 0x34

/-- The pages of R541; every other number is reserved. -/
def pageExists (p : Nat) : Bool :=
  p ≤ 0x0D || (0x10 ≤ p && p ≤ 0x14) || (0x18 ≤ p && p ≤ 0x2E) || (0x30 ≤ p && p ≤ 0x34)

/-- The pages of R541, rising. -/
def pageList : List Nat := (List.range 0x35).filter pageExists

/-- The always-on pages that AON and CLK/TIME serve (R14). -/
def pageAlwaysOn (p : Nat) : Bool := p == 0 || p == 1 || p == 2 || p == 4 || p == 5

/-- The BAR0 offset of a register. -/
def bar (p off : Nat) : Nat := p * 0x10000 + off

/-! ### Reset values of stored words -/

/-- The reset value of a stored BAR0 word (R545 to R554); 0 unless listed. -/
def regDefault (a : Nat) : Word :=
  let p := a / 0x10000
  let o := a % 0x10000
  if p = pgSYS then (if 0x1800 ≤ o ∧ o < 0x1C00 ∧ pageExists ((o - 0x1800) / 4) then BitVec.ofNat 32 ((o - 0x1800) / 4) else 0)
  else if p = pgPWR then
    (if o = 0x1014 then 0x372D2319 else if o = 0x1018 then 0x5A46 else if o = 0x1020 then 0x5F else 0)
  else if p = pgPAIR then (if o = 0x1000 then 0x4 else 0)
  else if p = pgCLK then (if o = 0x1040 then 0x32 else if o = 0x1044 then 0x2 else 0)
  else if p = pgHIF then
    (if o = 0x1004 then 0xC350 else if 0x4000 ≤ o ∧ o < 0x5000 ∧ o % 16 = 12 then 1 else 0)
  else if pgDMA ≤ p ∧ p < pgFAB then
    (if 0x1100 ≤ o ∧ o < 0x1300 ∧ o % 0x80 = 0x14 then 0x10000
     else if 0x1100 ≤ o ∧ o < 0x1300 ∧ o % 0x80 = 0x30 then 0x100 else 0)
  else if p = pgFAB then (if o = 0x100C then 0x3E80 else 0)
  else if p = pgMEMC then (if o = 0x1030 then 0x118 else if o = 0x1038 then 0x10 else 0)
  else if pgLNB ≤ p ∧ p < pgING then
    (if 0x1100 ≤ o ∧ o < 0x1500 ∧ o % 0x40 = 0x08 then 0x3 else 0)
  else if p = pgBMF then (if o = 0x8000 then 1 else 0)
  else if p = pgTRG then (if o = 0x105C then 0x32 else 0)
  else 0

/-- A stored BAR0 word. -/
def Dev.reg (d : Dev) (a : Nat) : Word := Tab.get (regDefault a) d.regs a

/-- A stored BAR0 word takes a value. -/
def Dev.setReg (d : Dev) (a : Nat) (v : Word) : Dev := { d with regs := Tab.set (regDefault a) d.regs a v }

/-- The active bank's copy of a shadowed word. -/
def Dev.actReg (d : Dev) (a : Nat) : Word := Tab.get (regDefault a) d.act a

/-- The active bank's word takes a value. -/
def Dev.setAct (d : Dev) (a : Nat) (v : Word) : Dev := { d with act := Tab.set (regDefault a) d.act a v }

/-- A page's header. -/
def Dev.page (d : Dev) (p : Nat) : Page := Tab.get {} d.pages p

/-- A page's header takes a value. -/
def Dev.setPage (d : Dev) (p : Nat) (v : Page) : Dev := { d with pages := Tab.set {} d.pages p v }

/-- A page's header is updated. -/
def Dev.modPage (d : Dev) (p : Nat) (f : Page → Page) : Dev := d.setPage p (f (d.page p))

/-- A free value of `w` bits, and the device with the next index. -/
def Dev.fresh (d : Dev) : Nat × Dev := (Config.freeBits d.free, { d with free := d.free + 1 })

/-- Something leaves the block. -/
def Dev.emit (d : Dev) (o : Out) : Dev := { d with sys.out := o :: d.sys.out }

/-! ### Statistics (R30, R31, R526) -/

/-- The live counter at an offset of a page. -/
def Dev.cnt (d : Dev) (p off : Nat) : BitVec 64 := Tab.get 0 d.live (bar p off)

/-- A live counter grows by `n`. -/
def Dev.bump (d : Dev) (p off : Nat) (n : Nat := 1) : Dev :=
  { d with live := Tab.set 0 d.live (bar p off) (d.cnt p off + BitVec.ofNat 64 n) }

/-- A live counter becomes at least `n`: a peak. -/
def Dev.peak (d : Dev) (p off n : Nat) : Dev :=
  { d with live := Tab.set 0 d.live (bar p off) (BitVec.ofNat 64 (max n (d.cnt p off).toNat)) }

/-- A counter of the next interval's set grows by `n` (R31). -/
def Dev.bumpNext (d : Dev) (p off : Nat) (n : Nat := 1) : Dev :=
  { d with nextc := Tab.set 0 d.nextc (bar p off) (Tab.get 0 d.nextc (bar p off) + BitVec.ofNat 64 n) }

/-! ### Interrupts (R525, R556, R557) -/

/-- The value whose change from zero to non-zero sends a page's message. -/
def Page.pendingBits (pg : Page) : Word := pg.pirq &&& pg.pirqen

/-- A page's interrupt is pending. -/
def Page.isPending (pg : Page) : Bool := decide (pg.pendingBits ≠ 0)

/-- The vector of a page. -/
def Dev.vector (d : Dev) (p : Nat) : Nat := (d.reg (bar pgSYS (0x1800 + 4 * p))).toNat % 256

/-- Whether a page can send its message now (R504, R557). -/
def Dev.canSend (d : Dev) (p : Nat) : Bool :=
  match d.sys.state with
  | .off | .imageWait => false
  | .recovery => pageAlwaysOn p
  | _ => d.pwr.level < 6 || pageAlwaysOn p

/-- A message on a vector, held in the PBA while the vector is masked (R549, PCIe). -/
def Dev.sendVector (d : Dev) (v : Nat) : Dev :=
  if bitAt 0 (d.reg (bar pgHIF (0x4000 + 16 * v + 12))) then
    let a := bar pgHIF (0x5000 + v / 32 * 4)
    d.setReg a (d.reg a ||| BitVec.ofNat 32 (2 ^ (v % 32)))
  else d.emit (.msi v)

/-- A page sends its message, or owes it while it cannot. -/
def Dev.sendIrq (d : Dev) (p : Nat) : Dev :=
  if d.canSend p then d.sendVector (d.vector p) else d.modPage p fun g => { g with owed := true }

/-- The in-band interrupt of R563 while an AON interrupt bit is set. -/
def Dev.ibi (d : Dev) (p : Nat) : Dev :=
  if p = pgAON then d.emit (.ibi ((d.page pgAON).pirq.setWidth 8)) else d

/-- Bits of a page's PIRQ are set, as by their events (R525). -/
def Dev.raise (d : Dev) (p : Nat) (bits : Word) : Dev :=
  let g := d.page p
  let g' := { g with pirq := g.pirq ||| bits }
  let d := (d.setPage p g').ibi p
  if !g.isPending && g'.isPending then d.sendIrq p else d

/-- Pages that owe a message and are still pending send it once they can (R557). -/
def Dev.payOwed (d : Dev) : Dev :=
  pageList.foldl (fun d p =>
    let g := d.page p
    if g.owed && d.canSend p then
      let d := d.setPage p { g with owed := false }
      if g.isPending then d.sendVector (d.vector p) else d
    else d) d

/-- The state of the device changes, and STATE is raised (R511, R538). -/
def Dev.setState (d : Dev) (s : DevState) : Dev :=
  if d.sys.state = s then d else ({ d with sys.state := s }).raise pgSYS 0x8

/-! ### The error log and rejections (R524, R527, R534) -/

/-- An entry joins the error log; when it is full the oldest is discarded and counted. -/
def Dev.logErr (d : Dev) (e : ErrEnt) : Dev :=
  if d.sys.errlog.length < 1024 then { d with sys.errlog := d.sys.errlog ++ [e] }
  else { d with sys.errlog := d.sys.errlog.drop 1 ++ [e], sys.errlogDisc := satAdd 16 d.sys.errlogDisc 1 }

/-- An event entry that names the word of a page register (R534). -/
def Dev.logEvent (d : Dev) (p word : Nat) : Dev :=
  d.logErr { page := p, code := 0, word := word, event := true, time := d.time.arr }

/-- `PERR` after one more rejection (R524). -/
def Perr.record (e : Perr) (c : Code) (word : Nat) : Perr :=
  { code := c, word := BitVec.ofNat 16 word, count := BitVec.ofNat 7 (min (e.count.toNat + 1) 127),
    sticky := e.sticky || decide (1 ≤ e.count.toNat) }

/-- `PERR` records a code that is no rejected write, and the log is left (R35, R506). -/
def Dev.perr (d : Dev) (p : Nat) (c : Code) (off : Nat) : Dev :=
  d.modPage p fun g => { g with perr := g.perr.record c (off / 4) }

/-- A write to offset `off` of page `p` is rejected with code `c`. -/
def Dev.reject (d : Dev) (p off : Nat) (c : Code) : Dev :=
  let d := d.perr p c off
  let d := d.logErr { page := p, code := c, word := off / 4, event := false, time := d.time.arr }
  if (d.page p).irqOnErr then d.raise pgSYS 0x4 else d

/-- The effect `f`, or the rejection with the first code that applies (R527, R528). -/
def Dev.guard (d : Dev) (p off : Nat) (errs : List Code) (f : Dev → Dev) : Dev :=
  match firstCode errs with
  | some c => d.reject p off c
  | none => f d

/-! ### Device memory -/

/-- Device memory is in its one canonical form: offsets strictly rising, none listed with the 0 that an unlisted byte
reads as. -/
def Memory.wf (m : Tab Byte) : Bool := Tab.wf (fun _ => 0) m

/-- Bytes of device memory: 160 GiB (R16). -/
def memBytes : Nat := 160 * 2 ^ 30

/-- One byte of device memory. -/
def Dev.byte (d : Dev) (a : Nat) : Byte := Tab.get 0 d.mem a

/-- One byte of device memory is written. -/
def Dev.setByte (d : Dev) (a : Nat) (b : Byte) : Dev := { d with mem := Tab.set 0 d.mem a b }

/-- `n` bytes of device memory from `a`. -/
def Dev.bytes (d : Dev) (a n : Nat) : List Byte := (List.range n).map fun i => d.byte (a + i)

/-- Memory with the bytes `l` written from `a`. -/
def memPut (m : Tab Byte) (a : Nat) : List Byte → Tab Byte
  | [] => m
  | b :: t => memPut (Tab.set 0 m a b) (a + 1) t

/-- The bytes `l` are written from `a`. -/
def Dev.putBytes (d : Dev) (a : Nat) (l : List Byte) : Dev := { d with mem := memPut d.mem a l }

/-- The blocks that wait for their BEAM frame are not sent: the next to go out is of a set that closes from now on
(R456, R567). -/
def Dev.egClear (d : Dev) : Dev := { d with bmf.egress := [] }

/-- The same at THAW, with their reads counted in EGDROP (R223). -/
def Dev.egLost (d : Dev) : Dev :=
  if d.bmf.egress = [] then d else (d.bump pgBMF 0x140 d.bmf.egress.length).egClear

/-! ### The device state and the run -/

/-- A run is open (R32); `frz` is the state `MEMC.FRZPREV` holds. -/
def runOpen (s frz : DevState) : Bool :=
  let o := fun t => t == DevState.running || t == DevState.draining || t == DevState.quiesced
  o s || (s == .frozen && o frz)

/-- Shed levels: the highest level any rail has reached and not left (R480). -/
def PwrSt.supply (p : PwrSt) : Nat :=
  (List.range 10).foldl (fun m r =>
    let b := Tab.get 0 p.reached r
    max m ((List.range 6).foldl (fun k i => if b.getLsbD i then i + 1 else k) 0)) 0

/-- The highest of the supply, thermal and host levels (R483). -/
def PwrSt.highest (p : PwrSt) : Nat := max p.supply (max p.thermal p.host)

/-- The encoding of `SYS.STATE` (R512). -/
def DevState.code : DevState → Nat
  | .off => 0 | .imageWait => 1 | .booting => 2 | .ready => 3 | .idle => 4 | .running => 5 | .draining => 6
  | .frozen => 7 | .quiesced => 8 | .selftest => 9 | .recovery => 10

end Sys2Proof.Machine
end

