-- ==== Sys2Proof/Machine/Operands.lean ====
section
/-! DEFINITION. How commands read their operands from the state: plates by data interval, windows and boundaries,
lane roles and lane numbers, Felt header fields. -/

namespace Sys2Proof.Machine

/-! ### The request's figures -/

/-- L_f: 64 samples at 4+4, 32 at 8+8 (R25). -/
def Req.lf (r : Req) : Nat := if r.sfmt = 0 then 64 else 32
/-- B_s: bytes of a sample. -/
def Req.bs (r : Req) : Nat := if r.sfmt = 0 then 1 else 2
/-- K_s. -/
def Req.ks (r : Req) : Nat := 2 ^ r.kslog
/-- G: channel groups. -/
def Req.groups (r : Req) : Nat := r.nchan / 64
/-- B: time blocks of a sheet. -/
def Req.blocks (r : Req) : Nat := r.ks / r.lf
/-- B_cap of R172. -/
def Req.bcap (r : Req) : Nat := 131072 / (r.ninput * r.groups)
/-- W of R172, in samples. -/
def Req.w (r : Req) : Nat := (r.bcap - r.earlyB) * r.lf
/-- Samples of a ream. -/
def Req.ream (r : Req) : Nat := r.ks * r.reamLen

/-- The input-set index of an input ID. -/
def Req.index (r : Req) (id : Nat) : Option Nat := r.inputs.findIdx? (·.id == id)

/-- First SFN of the sheet that contains `f` (R23): the sheet grid is fixed by SHEET_OFFSET. -/
def Req.sheetOf (r : Req) (f : Sfn) : Sfn := f - BitVec.ofNat 48 ((f - BitVec.ofNat 48 r.sheetOff).toNat % r.ks)

/-! ### The plate in force -/

/-- The active plate's request; the smallest request where none is active. -/
def Dev.req (d : Dev) : Req := (d.plt.active.getD {}).req

/-- The takeover boundary, if one is fixed and B_last does not come first (R35, R198). -/
def Dev.takeoverAt (d : Dev) : Option Sfn :=
  if !d.plt.armPend then none
  else match d.run.bLast with
    | none => some d.plt.armSfn
    | some b => if after b d.plt.armSfn then some d.plt.armSfn else none

/-- The plate that judges data at SFN `f` (R35): the outgoing plate below the takeover boundary, and before the takeover
the armed plate for frames that come early for its data. -/
def Dev.plateAt (d : Dev) (f : Sfn) : Option Plate :=
  match d.run.tookAt, d.run.outgoing with
  | some b, some p => if after b f then some p else d.plt.active
  | _, _ =>
    match d.takeoverAt with
    | some b => if atOrAfter f b then d.plt.stagedP else d.plt.active
    | none => d.plt.active

/-- The request of the plate that judges data at SFN `f`. -/
def Dev.reqAt (d : Dev) (f : Sfn) : Req := ((d.plateAt f).getD {}).req

/-- `W` ahead of SFN_NOW for boundaries (R32): that of the active plate. -/
def Dev.w (d : Dev) : Nat := d.req.w

/-- The window of an interval that ends at `e` (its last SFN plus one) is closed (R25). -/
def Dev.windowClosed (d : Dev) (r : Req) (e : Sfn) : Bool := atOrAfter d.time.sfn (e + BitVec.ofNat 48 r.w)

/-- The slots of the frame directory whose window is open (R59). -/
def Dev.openDir (d : Dev) : List DirEnt :=
  d.ing.dir.filter fun e => let r := d.reqAt e.f; !d.windowClosed r (e.f + BitVec.ofNat 48 r.lf)

/-- The first SFN at or after `s + w` that is congruent to `anchor` modulo `m`. -/
def nextGrid (s anchor : Sfn) (w m : Nat) : Sfn :=
  let t := s + BitVec.ofNat 48 w
  let r := (t - anchor).toNat % m
  if r = 0 then t else t + BitVec.ofNat 48 (m - r)

/-- SFN_NOW plus `w`, or S0 in a run whose S0 is later: the run's boundaries begin at S0 (R24). -/
def Dev.ahead (d : Dev) (w : Nat) : Sfn :=
  let t := d.time.sfn + BitVec.ofNat 48 w
  if d.run.live && after d.run.s0 t then d.run.s0 else t

/-- The run's first ream boundary at least W ahead of SFN_NOW (R24, R27): reams are counted from the takeover boundary
where a plate takes over or has taken over. -/
def Dev.reamBoundary (d : Dev) : Sfn :=
  let anchor := match d.run.tookAt, d.run.outgoing with
    | some b, some _ => b
    | _, _ => d.run.reamAt
  let b := nextGrid (d.ahead d.w) anchor 0 d.req.ream
  if d.plt.armPend && after b d.plt.armSfn then
    match d.plt.stagedP with
    | some q => nextGrid (d.ahead d.w) d.plt.armSfn 0 q.req.ream
    | none => b
  else b

/-- The run's next frame-set, sheet or ream boundary at least W ahead of SFN_NOW (R24, R32); `k` is WHEN. -/
def Dev.boundary (d : Dev) (k : Nat) : Sfn :=
  if k = 3 then d.reamBoundary else nextGrid (d.ahead d.w) d.run.s0 0 (if k = 1 then d.req.lf else d.req.ks)

/-! ### Lanes -/

/-- BAR0 offset of `LROLE` of a logical lane (R336). -/
def lroleAddr (l : Nat) : Nat := bar (pgLNB + l / 16) (0x8000 + 4 * (l % 16))

/-- BAR0 offset of register `off` of a physical lane (R336). -/
def laneAddr (n off : Nat) : Nat := bar (pgLNB + n / 16) (0x1100 + 0x40 * (n % 16) + off)

/-- Role in force of a logical lane (R312). -/
def Dev.role (d : Dev) (l : Nat) : Nat := fld 2 0 (d.actReg (lroleAddr l))

/-- Rate in force of a logical lane (R311). -/
def Dev.rate (d : Dev) (l : Nat) : Nat := fld 5 4 (d.actReg (lroleAddr l))

/-- The `LROLE` word a plate gives a lane. -/
def Req.laneWord (r : Req) (l : Nat) : Word :=
  let e := (r.lanes[l]?).getD (0, 0)
  at_ 0 e.1 ||| at_ 4 e.2

/-- The `LROLE` word for a frame at SFN `f` that comes before its boundary: that of the takeover or the armed ticket
whose boundary is at or before `f`, else the word in force (R29, R314). -/
def Dev.roleSoon (d : Dev) (l : Nat) (f : Sfn) : Word :=
  let tk := match d.takeoverAt with | some b => if atOrAfter f b then some b else none | none => none
  match tk with
  | some _ => ((d.plt.stagedP.getD {}).req).laneWord l
  | none =>
    match (d.page (pgLNB + l / 16)).armed with
    | some k => if k.when ≠ 0 ∧ atOrAfter f k.target then d.reg (lroleAddr l) else d.actReg (lroleAddr l)
    | none => d.actReg (lroleAddr l)

/-- Role of a logical lane for a frame at SFN `f` (R314). -/
def Dev.roleAt (d : Dev) (l : Nat) (f : Sfn) : Nat :=
  match Tab.get none d.lnb.oldRole l with
  | some (b, w) => if after b f then fld 2 0 w else d.role l
  | none => fld 2 0 (d.roleSoon l f)

/-- A physical lane. -/
def Dev.lane (d : Dev) (n : Nat) : Lane := Tab.get {} d.lnb.lanes n

/-- A physical lane takes a value. -/
def Dev.setLane (d : Dev) (n : Nat) (v : Lane) : Dev := { d with lnb.lanes := Tab.set {} d.lnb.lanes n v }

/-- The physical lane whose receiver serves logical lane `l` and is UP. -/
def Dev.servedBy (d : Dev) (l : Nat) : Option Nat :=
  (List.range 256).find? fun n => let x := d.lane n; x.state == .up && x.logvalid && x.logic.toNat == l

/-- The receiver of logical lane `l` is UP. -/
def Dev.laneUp (d : Dev) (l : Nat) : Bool := (d.servedBy l).isSome

/-- Line rate in bit/s (R311). -/
def lineRate (r : Nat) : Nat :=
  if r = 0 then 6250000000 else if r = 1 then 10312500000 else if r = 2 then 12500000000 else 16000000000

/-- Sample-frame capacity in frames per second, times 2^20 × 4144 (R174). -/
def capNum (r : Nat) : Nat := lineRate r * 64 * 16383
/-- The denominator of the sample-frame capacity (R174). -/
def capDen : Nat := 66 * 16384 * 4144 * 8

/-! ### Felt frames (R45, R46) -/

/-- TYPE of a frame. -/
def frType (f : List Byte) : Nat := leAt f 0 1 % 16
/-- SRC of a frame. -/
def frSrc (f : List Byte) : Nat := leAt f 2 2 % 8192
/-- CHGRP of a frame. -/
def frChgrp (f : List Byte) : Nat := leAt f 4 2
/-- SESSION of a frame. -/
def frSession (f : List Byte) : BitVec 16 := BitVec.ofNat 16 (leAt f 6 2)
/-- The SFN field of a frame. -/
def frSfn (f : List Byte) : BitVec 32 := BitVec.ofNat 32 (leAt f 8 4)
/-- SEQ of a frame. -/
def frSeq (f : List Byte) : BitVec 16 := BitVec.ofNat 16 (leAt f 12 2)
/-- WALSH of a frame. -/
def frWalsh (f : List Byte) : Nat := leAt f 14 1 % 4
/-- NDIODE of a frame. -/
def frNdiode (f : List Byte) : Bool := leAt f 14 1 / 4 % 2 == 1
/-- OVF of a frame. -/
def frOvf (f : List Byte) : Nat := leAt f 16 2
/-- EPOCH of a frame. -/
def frEpoch (f : List Byte) : Word := BitVec.ofNat 32 (leAt f 24 4)
/-- KEYID of a TRIG or CTRL frame. -/
def frKeyId (f : List Byte) : Nat := leAt f 1 1 % 2
/-- The trailer's CRC. -/
def frCrc (f : List Byte) : Word := BitVec.ofNat 32 (leAt f (f.length - 8) 4)

/-- The length in bytes of each frame type (R44); 0 for a reserved type. -/
def frLen (t : Nat) : Nat := if t = 1 ∨ t = 2 then 4136 else if t = 3 then 64 else if t = 4 then 128 else if t = 15 then 40 else 0

/-- LENCHK for a frame length (R46). -/
def lenchk (n : Nat) : Word := BitVec.ofNat 32 (n + (0xFFFF - n) * 65536)

/-- The reserved bits of a header are clear (R45). -/
def frReservedOk (f : List Byte) : Bool :=
  let t := frType f
  leAt f 2 2 / 8192 == 0 && leAt f 14 1 / 8 == 0 && leAt f 15 1 == 0 && leAt f 18 2 == 0 && leAt f 22 2 == 0
  && leAt f 28 4 == 0 && (t == 1 || t == 2 || (leAt f 1 1 ≤ (if t = 15 then 0 else 1)))

/-- A frame from its header fields, its body and its trailer (R45, R46). -/
structure FrameHdr where
  type    : Nat
  fmt     : Nat := 0
  src     : Nat := 0
  chgrp   : Nat := 0
  session : Nat := 0
  sfn     : Nat := 0
  seq     : Nat := 0
  link    : Nat := 0
  epoch   : Nat := 0
  deriving DecidableEq, Repr

/-- The 32 bytes of a header (R45), VER 1. -/
def FrameHdr.bytes (h : FrameHdr) : List Byte :=
  [BitVec.ofNat 8 (h.type + 16), BitVec.ofNat 8 h.fmt] ++ leBytes 2 h.src ++ leBytes 2 h.chgrp ++ leBytes 2 h.session
  ++ leBytes 4 h.sfn ++ leBytes 2 h.seq ++ [0, 0, 0, 0, 0, 0] ++ leBytes 2 h.link ++ [0, 0] ++ leBytes 4 h.epoch
  ++ [0, 0, 0, 0]

/-- A header and body with the trailer of R46. -/
def withTrailer (b : List Byte) : List Byte :=
  b ++ leBytes 4 (crc32c b).toNat ++ leBytes 4 (lenchk (b.length + 8)).toNat

end Sys2Proof.Machine
end

