-- ==== Sys2Proof/Machine/Time.lean ====
section
/-! DEFINITION. Time bases, snapshots and alarms (R431 to R438, R450 to R452). -/

namespace Sys2Proof.Machine

/-- The rate limit of R432, ±200 ppm in units of 2^-40. -/
def rateLimit : Int := 219902325

/-- A rate clamped to the limits. -/
def clampRate (r : Int) : Int := max (-rateLimit) (min rateLimit r)

/-- A time base by its index in `BASEIDX`. -/
def TimeSt.base (t : TimeSt) : Nat → Base
  | 0 => t.baseArr | 1 => t.baseSmp | 2 => t.baseLoc | _ => t.basePeer

/-- A time base by its index takes a value. -/
def TimeSt.setBase (t : TimeSt) (i : Nat) (b : Base) : TimeSt :=
  match i with
  | 0 => { t with baseArr := b } | 1 => { t with baseSmp := b } | 2 => { t with baseLoc := b }
  | _ => { t with basePeer := b }

/-- The present value of a base in its compare width, zero-extended. -/
def TimeSt.now (t : TimeSt) : Nat → BitVec 64
  | 0 => t.arr | 1 => t.sfn.setWidth 64 | 2 => t.loc | _ => t.peer

/-- `MASTER` of a base. -/
def Base.master (b : Base) : Nat := fld 2 0 b.cfg
/-- `TAU` of a base, as the servo uses it. -/
def Base.tau (b : Base) : Nat := max 1 (fld 18 8 b.cfg)
/-- `LANE` of a base. -/
def Base.lane (b : Base) : Nat := fld 31 24 b.cfg

/-- S* of R432 with its fraction, in units of 2^-32 period: ((ARRAY − SFNEPOCH) × FCH), the product taken signed. -/
def TimeSt.target (t : TimeSt) : Int :=
  let ns : Int := (t.arr - t.sfnEpoch).toInt * 2 ^ 32 + t.arrFrac.toNat
  ns * t.fch.toNat / (10 ^ 9 * 2 ^ 32)

/-- SAMPLE with its fraction, in units of 2^-32 period. -/
def TimeSt.sampleFix (t : TimeSt) : Int := (t.sfn.toNat : Int) * 2 ^ 32 + t.sfnFrac.toNat

/-- `S* − SAMPLE` as a signed 80-bit difference, in units of 2^-32 period. -/
def TimeSt.sampleErr (t : TimeSt) : Int := (BitVec.ofInt 80 (t.target - t.sampleFix)).toInt

/-- A difference in units of 2^-32 period as nanoseconds. -/
def TimeSt.periodsNs (t : TimeSt) (e : Int) : Int := if t.fch = 0 then 0 else e * 10 ^ 9 / t.fch.toNat

/-! ### Alarms (R437, R438) -/

/-- Whether base `i`, reading `now`, is at or after `val`, in the base's compare width. -/
def reached (i : Nat) (now val : BitVec 64) : Bool :=
  if i = 1 then atOrAfter (now.setWidth 48) (val.setWidth 48) else atOrAfter now val

/-- The least number of periods that puts `val` after `now`, and the value there. -/
def skipTo (i : Nat) (now val per : BitVec 64) : Nat × BitVec 64 :=
  if per = 0 then (0, val) else
    let gap := if i = 1 then ((now.setWidth 48 - val.setWidth 48 : BitVec 48)).toNat else (now - val).toNat
    let k := gap / per.toNat + 1
    (k, val + BitVec.ofNat 64 (k * per.toNat))

/-- An alarm fires; `step`: by a step of its base, which may skip periodic firings. -/
def Alarm.fire (a : Alarm) (now : BitVec 64) (step late : Bool) : Alarm :=
  let i := fld 1 0 a.ctl
  let a := { a with fired := true, stepped := a.stepped || step, late := a.late || late }
  if bitAt 5 a.ctl then
    if step then
      let (k, v) := skipTo i now a.val a.per
      { a with val := v, missed := BitVec.ofNat 16 (satAdd 16 a.missed.toNat (k - 1)) }
    else { a with val := a.val + a.per }
  else { a with ctl := setFld 4 4 a.ctl 0 }

/-- Alarm `n` fires: FIRED is set, ALARM raised and the firing counted. -/
def Dev.alarmFire (d : Dev) (n : Nat) (step late : Bool) : Dev :=
  let a := Tab.get {} d.time.alarms n
  let i := fld 1 0 a.ctl
  let d := { d with time.alarms := Tab.set {} d.time.alarms n (a.fire (d.time.now i) step late) }
  (d.bump pgTIME 0x108).raise pgTIME 0x4

/-- Alarms of base `i` that a step from `old` has carried past their value fire once, with STEPPED (R438). -/
def Dev.alarmsOnStep (d : Dev) (i : Nat) (old : BitVec 64) : Dev :=
  (List.range 8).foldl (fun d n =>
    let a := Tab.get {} d.time.alarms n
    if bitAt 4 a.ctl && fld 1 0 a.ctl == i && !reached i old a.val && reached i (d.time.now i) a.val
    then d.alarmFire n true false else d) d

/-! ### Steps and masters (R432 to R435) -/

/-- What every step of a base leaves: STEPLAST, STEPS, the counter, the interrupt and the alarms. -/
def Dev.stepped (d : Dev) (i : Nat) (old : BitVec 64) (ns : Int) : Dev :=
  let b := d.time.base i
  let b := { b with stepPend := false, steps := b.steps + 1, stepLast := BitVec.ofInt 64 ns, state := .tracking,
                    rate := if (i = 0 ∧ b.master = 5) ∨ (i = 3 ∧ b.master = 2) then 0 else b.rate, edges := 0 }
  let d := { d with time := d.time.setBase i b }
  ((d.bump pgTIME 0x100).raise pgTIME 0x1).alarmsOnStep i old

/-- SAMPLE steps to S*. -/
def Dev.sampleStep (d : Dev) : Dev :=
  let old := d.time.now 1
  let e := d.time.sampleErr
  let t := d.time.target
  let d := { d with time.sfn := BitVec.ofInt 48 (t / 2 ^ 32), time.sfnFrac := BitVec.ofInt 32 t, time.sfnRes := 0 }
  d.stepped 1 old (d.time.periodsNs e)

/-- SAMPLE may not be stepped (R434). -/
def noStepState (s : DevState) : Bool := s == .running || s == .draining

/-- SAMPLE slews at the full rate towards S*. -/
def Dev.sampleSlew (d : Dev) : Dev :=
  let r := if d.time.sampleErr < 0 then -rateLimit else rateLimit
  { d with time.baseSmp := { d.time.baseSmp with state := .slewing, rate := r, mvalid := true } }

/-- ARRAY has stepped, or SAMPLE's master has returned or been reselected (R434). -/
def Dev.sampleFollow (d : Dev) : Dev :=
  let b := d.time.baseSmp
  if b.master ≠ 1 then d
  else if noStepState d.sys.state then d.sampleSlew
  else ({ d with time.baseSmp := { b with mvalid := true } }).sampleStep

/-- ARRAY steps to `v` nanoseconds. -/
def Dev.arrayStep (d : Dev) (v : BitVec 64) : Dev :=
  let old := d.time.arr
  let ns := (v - old).toInt
  (({ d with time.arr := v, time.arrFrac := 0 }).stepped 0 old ns).sampleFollow

/-- PEER steps to `v` nanoseconds. -/
def Dev.peerStep (d : Dev) (v : BitVec 64) : Dev :=
  let old := d.time.peer
  let ns := (v - old).toInt
  ({ d with time.peer := v, time.peerFrac := 0 }).stepped 3 old ns

/-- A base's master vanishes: HOLD at the last rate (R433). ARRAY in HOLD is not INVALID, so SAMPLE keeps its master. -/
def Dev.baseVanish (d : Dev) (i : Nat) : Dev :=
  let b := d.time.base i
  if b.mvalid then
    let s := if b.state = .invalid then BaseState.invalid else .hold
    let d := { d with time := d.time.setBase i { b with mvalid := false, state := s } }
    if s = .hold then d.raise pgTIME 0x2 else d
  else d

/-- A base is (re)selected, or its master returns: one step is permitted (R432). HOST and LANE masters give their
value at acceptance; SAMPLE's is S* if ARRAY is valid. -/
def Dev.baseReselect (d : Dev) (i : Nat) (masterOk : Bool) : Dev :=
  let b := d.time.base i
  let d := { d with time := d.time.setBase i { b with mvalid := masterOk, stepPend := decide (b.master ≠ 0), edges := 0 } }
  let off := { b with mvalid := false, stepPend := false, state := if b.state = .slewing then .tracking else b.state }
  if b.master = 0 then { d with time := d.time.setBase i off }
  else if !masterOk then d
  else if i = 0 then (if b.master = 5 then d.arrayStep b.setval else d)
  else if i = 1 then (if noStepState d.sys.state then d.sampleSlew else d.sampleStep)
  else if i = 3 then d.peerStep b.setval
  else d

/-- One measurement of a base's master (R432): the permitted step, or the rate. `value` is the master's value in
nanoseconds (ARRAY by PTP), `freq` the frequency estimate in units of 2^-40. -/
def Dev.measure (d : Dev) (i : Nat) (value : BitVec 64) (freq : Int) : Dev :=
  let b := d.time.base i
  if !b.mvalid || b.master = 0 then d
  else
    let tau : Int := if i = 0 ∧ (b.master = 1 ∧ d.time.tsmode.getLsbD 0 ∨ b.master = 2 ∧ d.time.tsmode.getLsbD 1)
      then max 64 b.tau else b.tau
    let pps := i == 0 && (b.master == 3 || b.master == 4)
    let v := if pps then b.setval + BitVec.ofNat 64 (b.edges * 10 ^ 9) else value
    let set := fun (ns : Int) (d : Dev) =>
      let b' := d.time.base i
      let b' := { b' with
        rate := clampRate (freq + ns * 2 ^ 40 / (tau * 10 ^ 9))
        state := if b'.state = .slewing then .slewing else .tracking
        edges := if pps then b'.edges + 1 else b'.edges }
      { d with time := d.time.setBase i b' }
    if i = 0 then
      if b.master = 5 then d
      else if b.stepPend then
        let d := d.arrayStep v
        if pps then { d with time.baseArr := { d.time.baseArr with edges := 1 } } else d
      else set (v - d.time.arr).toInt d
    else if i = 1 then
      if d.time.baseArr.state = .invalid then d.baseVanish 1
      else if b.state = .slewing then d
      else if b.stepPend ∧ !noStepState d.sys.state then d.sampleStep
      else set (d.time.periodsNs d.time.sampleErr) d
    else if i = 3 then (if b.master = 1 then set 0 d else d)
    else d

/-! ### The bases advance (R431) -/

/-- `n` units of 2^-32 ns at a rate of `r` parts in 2^40. -/
def atRate (n : Nat) (r : Int) : Nat := ((n : Int) + (n : Int) * r / 2 ^ 40).toNat

/-- One step of LOCAL, 40 ns, by which every base advances at its rate. -/
def TimeSt.tick (t : TimeSt) : TimeSt :=
  let step := 40 * 2 ^ 32
  let a := t.arr.toNat * 2 ^ 32 + t.arrFrac.toNat + atRate step t.baseArr.rate
  let p := t.peer.toNat * 2 ^ 32 + t.peerFrac.toNat + atRate step t.basePeer.rate
  let u := t.sfnRes + atRate (t.fch.toNat * 40) t.baseSmp.rate
  let s := t.sfn.toNat * 2 ^ 32 + t.sfnFrac.toNat + u / 10 ^ 9
  { t with arr := BitVec.ofNat 64 (a / 2 ^ 32), arrFrac := BitVec.ofNat 32 a,
           peer := BitVec.ofNat 64 (p / 2 ^ 32), peerFrac := BitVec.ofNat 32 p,
           sfn := BitVec.ofNat 48 (s / 2 ^ 32), sfnFrac := BitVec.ofNat 32 s, sfnRes := u % 10 ^ 9,
           loc := t.loc + 40 }

/-- One tick of the device: the bases advance, `TIME.HOLDNS`, `TIME.SLEWNS` and `CLK.HOLDNS` count. -/
def Dev.tick (d : Dev) : Dev :=
  let t := d.time
  let holds := ([t.baseArr, t.baseSmp, t.basePeer].filter fun b => b.state == .hold).length
  let d := if holds = 0 then d else d.bump pgTIME 0x110 (40 * holds)
  let d := if t.baseSmp.state = .slewing then d.bump pgTIME 0x118 40 else d
  let d := if d.clk.loop = .holdover then d.bump pgCLK 0x120 40 else d
  { d with time := t.tick }

/-! ### Commands -/

/-- SNAP latches the four bases at once (R436). -/
def Dev.snapWrite (d : Dev) (v : Word) : Dev :=
  d.guard pgTIME 0x1000 (when' (v &&& ~~~1 ≠ 0) eRSVD) fun d =>
    if bitAt 0 v then
      let t := d.time
      { d with time.snap := { gen := t.snap.gen + 1, ready := true, arr := t.arr, frac := t.arrFrac, sfn := t.sfn,
                               loc := t.loc, peer := t.peer } }
    else d

/-- The MASTER values of a base (R432). -/
def masterOkFor : Nat → Nat → Bool
  | 0, m => m ≤ 5 | 1, m => m ≤ 1 | 2, m => m == 0 | _, m => m ≤ 2

/-- What breaks a `BASECFG` write for base `i` (R432, R434, R451). -/
def baseCfgErrs (d : Dev) (i : Nat) (v : Word) : List Code :=
  when' (v &&& 0x00F800F8 ≠ 0 || !masterOkFor i (fld 2 0 v) || (i != 3 && fld 31 24 v != 0)) eRSVD
  ++ when' (fld 18 8 v < 1 || fld 18 8 v > 1024) eRANGE
  ++ when' (i == 1 && noStepState d.sys.state) eSTATE

/-- A `BASECFG` write of the base named by `BASEIDX`; `masterOk` tells whether the new master is present. -/
def Dev.baseCfgWrite (d : Dev) (v : Word) (masterOk : Dev → Nat → Bool) : Dev :=
  let i := d.time.baseIdx
  d.guard pgTIME 0x1044 (baseCfgErrs d i v) fun d =>
    let d := { d with time := d.time.setBase i { d.time.base i with cfg := v } }
    if i = 2 then d else d.baseReselect i (masterOk d i)

/-- SAMPLE has come within 1 ns of S*: it tracks again (R434). -/
def Dev.slewDone (d : Dev) : Dev :=
  let t := d.time
  if t.baseSmp.state = .slewing ∧ (t.periodsNs t.sampleErr).natAbs < 1 then
    ({ d with time.baseSmp := { t.baseSmp with state := .tracking, rate := 0, stepPend := false } }).raise pgTIME 0x8
  else d

/-- A write of `ALMCTL` (R437, R451): EN arms the unit, clears its status, and fires it at once if it is late. -/
def Dev.almCtlWrite (d : Dev) (n : Nat) (v : Word) : Dev :=
  let a := Tab.get {} d.time.alarms n
  d.guard pgTIME (0x1100 + 0x20 * n)
    (when' (v &&& ~~~(0x33 : Word) ≠ 0) eRSVD ++ when' (bitAt 5 v && a.per == 0) eCOMBO) fun d =>
    if bitAt 4 v then
      let a := { a with ctl := v, fired := false, stepped := false, late := false, missed := 0 }
      let d := { d with time.alarms := Tab.set {} d.time.alarms n a }
      if reached (fld 1 0 v) (d.time.now (fld 1 0 v)) a.val then d.alarmFire n false true else d
    else { d with time.alarms := Tab.set {} d.time.alarms n { a with ctl := v } }

/-- An armed alarm whose base is at or after its value fires (R437). -/
def Dev.alarmDue (d : Dev) (n : Nat) : Dev :=
  let a := Tab.get {} d.time.alarms n
  if bitAt 4 a.ctl && reached (fld 1 0 a.ctl) (d.time.now (fld 1 0 a.ctl)) a.val then d.alarmFire n false false
  else d

end Sys2Proof.Machine
end

