-- ==== Sys2Proof/Machine/Clk.lean ====
section
/-! DEFINITION. References, selection, the loop and the output clocks (R405 to R430). -/

namespace Sys2Proof.Machine

/-- A reference. -/
def Dev.ref (d : Dev) (i : Nat) : Ref := Tab.get {} d.clk.refs i
/-- A reference takes a value. -/
def Dev.setRef (d : Dev) (i : Nat) (r : Ref) : Dev := { d with clk.refs := Tab.set {} d.clk.refs i r }
/-- An output. -/
def Dev.outp (d : Dev) (i : Nat) : OutSt := Tab.get {} d.clk.outs i
/-- An output takes a value. -/
def Dev.setOut (d : Dev) (i : Nat) (o : OutSt) : Dev := { d with clk.outs := Tab.set {} d.clk.outs i o }

/-- The reference is enabled. -/
def Ref.en (r : Ref) : Bool := bitAt 0 r.cfg
/-- PRIO of a reference. -/
def Ref.prio (r : Ref) : Nat := fld 11 8 r.cfg
/-- The quality level in force (R411). -/
def Ref.ql (r : Ref) : Nat := if bitAt 3 r.cfg then r.inband else fld 7 4 r.cfg

/-- HOX is the yardstick (R408). -/
def Dev.yardHox (d : Dev) : Bool := (d.ref 7).state == .qualified

/-- Die temperature, load and a rail's deviation as a calibration or loop record holds them (R332, R421). -/
def Dev.loadPct (d : Dev) : BitVec 8 := BitVec.ofNat 8 ((d.reg (bar pgPWR 0x1024)).toNat * 100 / 4500)

/-- A rail's deviation from nominal in 0.1 %, signed. -/
def Dev.railDev (d : Dev) (rail nominal : Nat) : BitVec 8 :=
  let mv : Nat := (Tab.get none d.pwr.mv rail).getD nominal
  BitVec.ofInt 8 (((mv : Int) - nominal) * 1000 / nominal)

/-! ### Which master of a base is present (R433) -/

/-- The master of base `i` is present. -/
def Dev.masterPresent (d : Dev) (i : Nat) : Bool :=
  let b := d.time.base i
  let m := b.master
  if i = 0 then
    if m = 1 then (d.ref 4).state == .qualified || d.time.tsmode.getLsbD 0
    else if m = 2 then (d.ref 5).state == .qualified || d.time.tsmode.getLsbD 1
    else if m = 3 then (d.ref 2).state == .qualified
    else if m = 4 then (d.ref 3).state == .qualified
    else m = 5
  else if i = 1 then m = 1 ∧ d.time.baseArr.state ≠ .invalid
  else if i = 3 then (if m = 1 then d.laneUp b.lane && (d.role b.lane == 3 || d.role b.lane == 4) else m = 2)
  else false

/-- Masters that have vanished put their base in HOLD; masters that have returned are reselected (R433). -/
def Dev.masters (d : Dev) : Dev :=
  [0, 1, 3].foldl (fun d i =>
    let b := d.time.base i
    if b.master = 0 then d
    else if b.mvalid ∧ !d.masterPresent i then d.baseVanish i
    else if !b.mvalid ∧ d.masterPresent i then d.baseReselect i true
    else d) d

/-! ### Selection (R411, R412, R415 to R418) -/

/-- The candidates of R412. -/
def Dev.candidate (d : Dev) (i : Nat) : Bool :=
  let r := d.ref i
  i < 7 && r.state == .qualified && r.prio != 0 && r.excl.isEmpty

/-- Whether candidate `i` is preferred to `j`: highest QL, then lowest PRIO, then lowest index. -/
def Dev.prefer (d : Dev) (i j : Nat) : Bool :=
  let a := d.ref i; let b := d.ref j
  decide (b.ql < a.ql) || (a.ql == b.ql && (decide (a.prio < b.prio) || (a.prio == b.prio && decide (i < j))))

/-- Step 2 of R412. -/
def Dev.best (d : Dev) : Option Nat :=
  (List.range 7).foldl (fun c i =>
    if d.candidate i then
      match c with
      | none => some i
      | some j => if d.prefer i j then some i else some j
    else c) none

/-- The choice of R412. -/
def Dev.choice (d : Dev) : Option Nat :=
  let rs := d.reg (bar pgCLK 0x1004)
  if bitAt 1 rs then (if d.candidate (fld 6 4 rs) then some (fld 6 4 rs) else none)
  else
    match d.best, d.clk.sel with
    | some c, some s =>
      if bitAt 0 rs && d.candidate s && decide ((d.ref c).ql ≤ (d.ref s).ql) then some s else some c
    | c, _ => c

/-- The frequency averaged over the last 1 s of admitted measurements; the one in force where there is none (R417). -/
def ClkSt.average (c : ClkSt) : Int :=
  if c.meas.isEmpty then c.freq else c.meas.foldl (fun s m => s + m.2) 0 / c.meas.length

/-- The loop enters HOLDOVER (R417): the averaged frequency is held, and the mark of R418 begins. -/
def Dev.enterHoldover (d : Dev) : Dev :=
  let f := d.clk.average
  let d := { d with clk.loop := .holdover, clk.freq := f, clk.holdFreq := f, clk.sel := none, clk.lowSince := none,
                    clk.holdAt := some d.time.arr }
  (d.bump pgCLK 0x118).raise pgCLK 0x4

/-- A HOLDOVER interval ends: the mark joins the ream's list (R418). -/
def Dev.leaveHoldover (d : Dev) : Dev :=
  match d.clk.holdAt with
  | none => d
  | some a => { d with clk.holdAt := none, acc.lists.holds := d.acc.lists.holds ++ [(a, d.time.arr)] }

/-- A switch to reference `i` starts, or redirects the one in progress (R415, R416). -/
def Dev.startSwitch (d : Dev) (i : Nat) : Dev :=
  let d := if d.clk.loop = .switching then d.bump pgCLK 0x110 else d.bump pgCLK 0x108
  let d := d.leaveHoldover
  { d with clk.loop := .switching, clk.sel := some i, clk.lowSince := none, clk.err := -(d.ref i).phase }

/-- Bring-up's first acquisition in BOOTING, and in RECOVERY, is a phase step (R420, R515): the output goes to the reference's phase. -/
def Dev.acquire (d : Dev) (i : Nat) : Dev :=
  if (d.sys.state = .booting ∨ d.sys.state = .recovery) ∧ d.clk.loop = .freerun then
    { (d.startSwitch i).bump pgCLK 0x138 with clk.err := 0 }
  else d.startSwitch i

/-- Selection runs (R412). -/
def Dev.select (d : Dev) : Dev :=
  let c := d.choice
  if c = d.clk.sel then d
  else
    let d := d.raise pgCLK 0x1
    if d.clk.loop = .software then { d with clk.sel := c, clk.phValid := c.isSome }
    else
      match c with
      | some i => d.acquire i
      | none => if d.clk.loop = .freerun then { d with clk.sel := none } else d.enterHoldover

/-! ### Monitors (R407 to R410) -/

/-- A reference fails a monitor: DISQUALIFIED at once, selection runs and masters vanish. -/
def Dev.disqualify (d : Dev) (i cause : Nat) : Dev :=
  let r := d.ref i
  let was := r.state == .qualifying || r.state == .qualified
  let d := d.setRef i { r with state := .disqualified, cause := cause, since := d.time.loc }
  let d := if was then (d.bump pgCLK 0x100).raise pgCLK 0x2 else d
  d.masters.select

/-- The first monitor of R407 that fails for a measurement: 0 for none. `foffs` is the frequency against the
yardstick and `fxtal` against the crystal, 10^-12; `jump` the phase jump in ps. -/
def Dev.monitor (d : Dev) (i : Nat) (foffs fxtal jump : Int) : Nat :=
  let gross := if fxtal.natAbs > 50000000 then 4 else 0
  if i = 7 then gross
  else
    let freq := (d.yardHox || d.clk.sel != some i) && decide (foffs.natAbs > 2000000)
    if freq then 2 else if jump.natAbs > 20000 then 3 else gross

/-- A reference's software stamps hold it DISQUALIFIED (R442). -/
def Dev.swStamped (d : Dev) (i : Nat) : Bool :=
  (i == 4 && d.time.tsmode.getLsbD 0) || (i == 5 && d.time.tsmode.getLsbD 1)

/-- A measurement of the selected reference enters the loop (R410, R414, R417, R419). The output follows the reference's
frequency, which is measured against HOX or, where that is no yardstick, against the output itself (R408); e is the
output phase minus the reference's. -/
def Dev.loopInput (d : Dev) (i : Nat) (foffs phase : Int) : Dev :=
  if d.clk.sel ≠ some i then d
  else if d.clk.loop = .software then { d with clk.err := -phase, clk.phGen := d.clk.phGen + 1, clk.phValid := true }
  else
    let f := (if d.yardHox then 0 else d.clk.freq) + foffs * 2 ^ 42 / 10 ^ 12
    { d with clk.err := -phase, clk.freq := f
             clk.lowSince := if phase.natAbs < 4 then some (d.clk.lowSince.getD d.time.loc) else none
             clk.meas := (d.time.loc, f) :: d.clk.meas.filter fun m => decide ((d.time.loc - m.1).toNat < 10 ^ 9) }

/-- An edge or measurement of reference `i` (R407, R409, R410). A PEER reference counts only while its lane is UP in a
PEER or PAIR role (R406). -/
def Dev.refEdge (d : Dev) (i : Nat) (foffs fxtal jump phase : Int) : Dev :=
  let r := d.ref i
  if !r.en || (i == 6 && !(d.laneUp (fld 23 16 r.cfg) && (d.role (fld 23 16 r.cfg) == 3 || d.role (fld 23 16 r.cfg) == 4)))
  then d
  else
    let d := d.setRef i { r with missing := 0, foffs := foffs, phase := phase }
    let m := if d.swStamped i then 3 else d.monitor i foffs fxtal jump
    if m ≠ 0 then
      let d := if d.clk.sel = some i then d.bump pgCLK 0x130 else d
      d.disqualify i m
    else
      let r := d.ref i
      if r.state = .disqualified then d.setRef i { r with state := .qualifying, since := d.time.loc }
      else d.loopInput i foffs phase

/-- An expected edge does not arrive: two in a row fail EDGES (R407). -/
def Dev.refMissing (d : Dev) (i : Nat) : Dev :=
  let r := d.ref i
  if !r.en then d
  else
    let d := if d.clk.sel = some i then d.bump pgCLK 0x130 else d
    let d := d.setRef i { r with missing := r.missing + 1 }
    if 2 ≤ r.missing + 1 then d.disqualify i 1 else d

/-- A QUALIFYING reference with 10 s free of failures becomes QUALIFIED; selection runs and masters return (R409). -/
def Dev.refQualified (d : Dev) (i : Nat) : Dev :=
  let r := d.ref i
  if r.state = .qualifying ∧ 10 * 10 ^ 9 ≤ (d.time.loc - r.since).toNat then
    (d.setRef i { r with state := .qualified }).masters.select
  else d

/-- Two candidates of equal QL and PRIO are compared by their 1 s averages against the yardstick, 10^-12 (R413). -/
def Dev.disagreeCheck (d : Dev) (i j : Nat) (fi fj : Int) : Dev :=
  let a := d.ref i; let b := d.ref j
  let ok := fun (r : Ref) => r.state == .qualified && r.prio != 0
  if i = j ∨ 7 ≤ i ∨ 7 ≤ j ∨ !ok a ∨ !ok b ∨ a.ql ≠ b.ql ∨ a.prio ≠ b.prio then d
  else if (fi - fj).natAbs > 2000000 then
    let inI := decide (fi.natAbs ≤ 2000000); let inJ := decide (fj.natAbs ≤ 2000000)
    let one := d.yardHox && (inI != inJ)
    let exI := !(one && inI); let exJ := !(one && inJ)
    let newI := exI && !a.excl.contains j; let newJ := exJ && !b.excl.contains i
    let mark := fun (r : Ref) (ex : Bool) (k : Nat) =>
      let l := r.excl.filter (· != k)
      { r with excl := if ex then k :: l else l }
    let d := (d.setRef i (mark a exI j)).setRef j (mark b exJ i)
    let d := if newI || newJ then d.bump pgCLK 0x128 (b2n newI + b2n newJ) else d
    let d := if one then d else
      let d := { d with clk.disagree := true }
      if newI || newJ then d.raise pgCLK 0x8 else d
    d.select
  else
    let d := (d.setRef i { a with excl := a.excl.filter (· != j) }).setRef j { b with excl := b.excl.filter (· != i) }
    let d := { d with clk.disagree := d.clk.disagree && (List.range 7).any fun k => !(d.ref k).excl.isEmpty }
    d.select

/-- |e| has stayed below 1 ns for 1 s: LOCKED, SWDONE, and the loop record of R421. -/
def Dev.switchComplete (d : Dev) : Dev :=
  match d.clk.loop, d.clk.lowSince with
  | .switching, some t =>
    if 10 ^ 9 ≤ (d.time.loc - t).toNat then
      let d := { d with clk.loop := .locked, clk.recTemp := d.pwr.tj, clk.recLoad := d.loadPct,
                        clk.recVcal := d.railDev 1 750 }
      let d := d.modPage pgCLK fun g => { g with calStale := false }
      d.raise pgCLK 0x10
    else d
  | _, _ => d

/-- The loop record goes stale in HOLDOVER when the die temperature has moved by more than 15 °C (R421). -/
def Dev.clkTemp (d : Dev) : Dev :=
  if d.clk.loop = .holdover ∧ 15 < (d.pwr.tj.toInt - d.clk.recTemp.toInt).natAbs ∧ !(d.page pgCLK).calStale then
    (d.modPage pgCLK fun g => { g with calStale := true }).raise pgCLK 0x20
  else d

/-! ### Writes -/

/-- A write of `REFCFG` of the reference named by `REFIDX` (R406, R427). -/
def Dev.refCfgWrite (d : Dev) (v : Word) : Dev :=
  let i := d.clk.refIdx
  let bad := v &&& 0xFF00F000 ≠ 0 || (bitAt 1 v && i != 0 && i != 1) || (bitAt 2 v && i != 2 && i != 3)
    || (i == 7 && fld 11 8 v != 0) || (i != 6 && fld 23 16 v != 0)
  d.guard pgCLK 0x100C (when' bad eRSVD) fun d =>
    let r := d.ref i
    let st := if !bitAt 0 v then RefState.disabled else if r.state = .disabled then .disqualified else r.state
    let d := d.setRef i { r with cfg := v, state := st, excl := if st = .disabled then [] else r.excl, missing := if r.state = .disabled then 0 else r.missing }
    d.masters.select

/-- A write of `REFSEL` (R412, R427). -/
def Dev.refSelWrite (d : Dev) (v : Word) : Dev :=
  d.guard pgCLK 0x1004 (when' (v &&& 0xFFFFFF8C ≠ 0) eRSVD ++ when' (fld 6 4 v == 7) eRANGE) fun d =>
    (d.setReg (bar pgCLK 0x1004) v).select

/-- `LOOPCTL.SW`. -/
def Dev.loopSw (d : Dev) : Bool := bitAt 0 (d.reg (bar pgCLK 0x1044))

/-- A write of `LOOPCTL` (R419). -/
def Dev.loopCtlWrite (d : Dev) (v : Word) : Dev :=
  d.guard pgCLK 0x1044 (when' (v &&& 0xFFFFFFF8 ≠ 0 || fld 2 1 v == 3) eRSVD) fun d =>
    let was := d.loopSw
    let d := d.setReg (bar pgCLK 0x1044) v
    if bitAt 0 v && !was then
      let d := d.leaveHoldover
      { d with clk.loop := .software, clk.phValid := d.clk.sel.isSome, clk.lowSince := none }
    else if !bitAt 0 v && was then
      match d.clk.sel with
      | some i => { d with clk.loop := .freerun }.startSwitch i
      | none => d.enterHoldover
    else d

/-- A write of `FREQADJ` (R419). -/
def Dev.freqAdjWrite (d : Dev) (v : Word) : Dev :=
  d.guard pgCLK 0x1048 (when' (decide (219902325 < v.toInt.natAbs)) eRANGE ++ when' (!d.loopSw) 0x10) fun d =>
    { d.setReg (bar pgCLK 0x1048) v with clk.freq := v.toInt }

/-- The states in which the output phase may be stepped (R420). -/
def phStepState (s : DevState) : Bool := s == .booting || s == .selftest || s == .recovery

/-- A write of `PHSTEP` (R420): every output generated from the loop moves by the same amount. -/
def Dev.phStepWrite (d : Dev) (v : Word) : Dev :=
  d.guard pgCLK 0x104C (when' (!phStepState d.sys.state) eSTATE) fun d =>
    let q := 4 * v.toInt
    let d := { d with clk.err := d.clk.err + q, clk.lowSince := none }
    let d := (List.range 4).foldl (fun d n => let o := d.outp n; d.setOut n { o with err := o.err + q }) d
    d.bump pgCLK 0x138

/-- MODE of an output. -/
def OutSt.mode (o : OutSt) : Nat := fld 2 0 o.cfg

/-- Period of a SYNCOUT in units of 2^-16 ns (R423); 0 where no plate gives it. -/
def Dev.outPeriod (d : Dev) (o : OutSt) : Nat :=
  let ns := fun (samples : Nat) => if d.req.fch = 0 then 0 else samples * 10 ^ 9 * 2 ^ 16 * 256 / d.req.fch
  if o.mode = 1 then 10 ^ 9 * 2 ^ 16 else if o.mode = 2 then ns d.req.ks else if o.mode = 3 then ns d.req.ream
  else o.per.toNat

/-- What breaks the configuration of output `i` (R423, R427). -/
def Dev.outErrs (d : Dev) (i : Nat) (o : OutSt) : List Code :=
  let sync := decide (i < 4)
  let w := fld 23 8 o.cfg
  when' (o.cfg &&& 0xFF0000F8 ≠ 0 || 4 < o.mode || (!sync && w != 0)) eRSVD
  ++ when' (sync && o.mode == 4 && decide (o.per.toNat < 100 * 2 ^ 16)) eRANGE
  ++ when' (sync && o.mode != 0 && (w == 0 || decide (d.outPeriod o ≠ 0 ∧ d.outPeriod o ≤ w * 8 * 2 ^ 16))) eCOMBO

/-- A write of `OUTCFG` (field 0), `OUTPER_LO` (1) or `OUTPER_HI` (2) of the output named by `OUTIDX` (R423). -/
def Dev.outCfgWrite (d : Dev) (field : Nat) (v : Word) : Dev :=
  let i := d.clk.outIdx
  let o := d.outp i
  let o' := if field = 0 then { o with cfg := v } else if field = 1 then { o with per := cat64 (hi32 o.per) v }
    else { o with per := cat64 v (lo32 o.per) }
  d.guard pgCLK (0x1074 + 4 * field) (d.outErrs i o') fun d => d.setOut i { o' with aligned := false, wait := none }

/-- The alignment edge of output `i` (R424). -/
def Dev.alignEdge (d : Dev) (i : Nat) : AlignAt :=
  let o := d.outp i
  let u := d.time.arr.toNat * 2 ^ 16
  let at' := fun (p : Nat) (ahead : Nat) => AlignAt.array (roundUp (u + ahead * 2 ^ 16) p)
  if 4 ≤ i then at' (10 ^ 9 * 2 ^ 16) 0
  else if o.mode = 1 then at' (10 ^ 9 * 2 ^ 16) (10 ^ 7)
  else if o.mode = 4 then at' o.per.toNat (10 ^ 7)
  else
    let ahead := (d.time.fch.toNat / 100 + 2 ^ 32 - 1) / 2 ^ 32
    .sfn (nextGrid (d.ahead ahead) d.run.s0 0 (if o.mode = 2 then d.req.ks else d.req.ream))

/-- Output `i` cannot be aligned (R424). -/
def Dev.noAlign (d : Dev) (i : Nat) : Bool :=
  let o := d.outp i
  let arrBad := d.time.baseArr.state == .invalid
  if o.mode = 0 then false
  else if 4 ≤ i ∨ o.mode = 1 ∨ o.mode = 4 then arrBad
  else d.plt.active.isNone || d.time.baseSmp.state == .invalid

/-- A write of `OUTALIGN` (R424). -/
def Dev.outAlignWrite (d : Dev) (v : Word) : Dev :=
  d.guard pgCLK 0x1050
    (when' (v &&& 0xFFFFFFC0 ≠ 0) eRSVD ++ when' ((List.range 6).any fun i => bitAt i v && d.noAlign i) 0x11) fun d =>
    (List.range 6).foldl (fun d i =>
      if bitAt i v ∧ (d.outp i).mode ≠ 0 then
        d.setOut i { d.outp i with aligned := false, wait := some (d.alignEdge i) } else d) d

/-- The name of an output's lands. -/
def outName (i : Nat) : String :=
  if i = 0 then "SYNCOUT0" else if i = 1 then "SYNCOUT1" else if i = 2 then "SYNCOUT2" else if i = 3 then "SYNCOUT3"
  else if i = 4 then "CLKOUT0" else "CLKOUT1"

/-- How far `x` lies from the nearest multiple of `p`. -/
def fromNearest (x p : Nat) : Int := if p = 0 then 0 else if 2 * (x % p) < p then (x % p : Nat) else ((x % p : Nat) : Int) - p

/-- Offset of a pulse that starts now from the nearest mark of the time base it marks, 0.25 ns (R423). -/
def Dev.outOffset (d : Dev) (i : Nat) : Int :=
  let o := d.outp i
  if o.mode = 2 ∨ o.mode = 3 then
    let r := fromNearest (d.time.sfn - d.run.s0).toNat (if o.mode = 2 then d.req.ks else d.req.ream)
    d.time.periodsNs (4 * (r * 2 ^ 32 + d.time.sfnFrac.toNat))
  else fromNearest (d.time.arr.toNat * 2 ^ 16 + d.time.arrFrac.toNat / 2 ^ 16) (d.outPeriod o) * 4 / 2 ^ 16

/-- One pulse of a SYNCOUT. -/
def Dev.pulse (d : Dev) (i : Nat) : Dev :=
  let d := d.setOut i { d.outp i with pulses := (d.outp i).pulses + 1, err := d.outOffset i }
  (d.emit (.land (outName i) true)).emit (.land (outName i) false)

/-- An output has reached its alignment edge (R424). -/
def Dev.alignReached (d : Dev) (i : Nat) : Dev :=
  let o := d.outp i
  let go := fun (d : Dev) =>
    let d := d.setOut i { o with aligned := true, wait := none, err := 0 }
    if i < 4 then d.pulse i else d
  match o.wait with
  | some (.array t) => if t ≤ d.time.arr.toNat * 2 ^ 16 then go d else d
  | some (.sfn s) => if atOrAfter d.time.sfn s then go d else d
  | none => d

/-- A SYNCOUT's period has elapsed (R423). -/
def Dev.syncPulse (d : Dev) (i : Nat) : Dev :=
  let o := d.outp i
  if i < 4 ∧ o.mode ≠ 0 ∧ o.wait = none then d.pulse i else d

end Sys2Proof.Machine
end

