-- ==== Sys2Proof/Machine/Lane.lean ====
section
/-! DEFINITION. The lane bank: bring-up, locks, markers, delineation, loopback, calibration, roles (R310 to R340). -/

namespace Sys2Proof.Machine

/-- The page of a physical or logical lane. -/
def lanePage (n : Nat) : Nat := pgLNB + n / 16

/-- A counter of a physical lane (R338). -/
def Dev.laneCnt (d : Dev) (n off : Nat) : Dev := d.bump (lanePage n) (0x100 + 0x40 * (n % 16) + off)

/-- The marker period of a rate, ns (R311). -/
def markerPeriod (r : Nat) : Nat := if r = 0 then 173015 else if r = 1 then 104858 else if r = 2 then 86508 else 67584

/-- The lane's receiver is powered. -/
def Lane.powered (x : Lane) : Bool :=
  match x.state with | .off | .failed | .loopback => false | _ => true

/-- Lanes of the same quad as `n`, other than `n`. -/
def quadMates (n : Nat) : List Nat := ((List.range 4).map (n / 4 * 4 + ·)).filter (· != n)

/-- Another receiver of the quad already serves index `j` (R328). -/
def Dev.quadTaken (d : Dev) (n j : Nat) : Bool :=
  (quadMates n).any fun m => let x := d.lane m; x.logvalid && x.logic.toNat % 4 == j

/-- MAPERR clears in the quad of `n` where the conflict has ended (R328). -/
def Dev.mapErrSweep (d : Dev) (n : Nat) : Dev :=
  (quadMates n).foldl (fun d m =>
    let x := d.lane m
    if x.maperr && !d.quadTaken m x.qidx.toNat then d.setLane m { x with maperr := false } else d) d

/-- A receiver leaves UP, or its hunt fails: LOCKLOSS, DOWN where it was UP, and masters on the lane vanish (R329, R433). -/
def Dev.laneDrop (d : Dev) (n : Nat) (x : Lane) : Dev :=
  let was := (d.lane n).state == .up
  let d := d.setLane n { x with logvalid := false, remap := false, maperr := false, good := 0, missed := 0,
                                 resync := false, mseq := none }
  if was then
    let d := ((d.laneCnt n 0x28).raise (lanePage n) 0x1).mapErrSweep n
    d.masters
  else d

/-- Signal detect asserts: adaptation starts from the calibration record, or from mid-range (R325). -/
def Dev.signalDetect (d : Dev) (n : Nat) : Dev :=
  let x := d.lane n
  if x.state = .detect then
    d.setLane n { x with sigdet := true, state := .adapt, t0 := d.time.loc,
                         ctle := if x.hasRec then x.recCtle else 8 }
  else if x.powered then d.setLane n { x with sigdet := true } else d

/-- Electrical idle: the receiver returns to DETECT and keeps its calibration record (R323, R329). -/
def Dev.electricalIdle (d : Dev) (n : Nat) : Dev :=
  let x := d.lane n
  if x.powered then d.laneDrop n { x with sigdet := false, state := .detect, invert := false } else d

/-- The bound of R325 for the step the receiver is in, ns after signal detect; a QIDX conflict holds it in MARKERHUNT
(R328). -/
def Dev.bringupBound (d : Dev) (n : Nat) : Option Nat :=
  match (d.lane n).state with
  | .adapt => some 2000000
  | .blockhunt => some 2100000
  | .markerhunt => if (d.lane n).maperr then none else some (2100000 + 3 * markerPeriod (d.rate n))
  | _ => none

/-- A bring-up bound expires: the lane returns to DETECT and counts a LOCKLOSS (R325). -/
def Dev.bringupTimeout (d : Dev) (n : Nat) : Dev :=
  let x := d.lane n
  match d.bringupBound n with
  | some b => if b < (d.time.loc - x.t0).toNat
      then (d.laneDrop n { x with state := .detect, invert := false }).laneCnt n 0x28 else d
  | none => d

/-- ADAPT ends: the calibration record is stored and STALE clears (R325, R332). -/
def Dev.adaptDone (d : Dev) (n : Nat) (ctle : BitVec 4) (dfe0 dfe1 : Word) : Dev :=
  let x := d.lane n
  if x.state = .adapt then
    let d := d.setLane n { x with
      state := .blockhunt, validRun := 0, ctle := ctle, dfe0 := dfe0, dfe1 := dfe1, hasRec := true, recCtle := ctle,
      recTemp := d.pwr.tj, recLoad := d.loadPct, recVcal := d.railDev 3 850, stale := false, eyeOff := 0 }
    let p := lanePage n
    d.modPage p fun g => { g with calStale := (List.range 16).any fun k => (d.lane (n / 16 * 16 + k)).stale }
  else d

/-- How many bits of a 64-bit history are set. -/
def popcount (v : BitVec 64) : Nat := (List.range 64).foldl (fun n i => n + b2n (v.getLsbD i)) 0

/-- A sync header is checked: block lock is gained after 64 valid ones, and lost at 16 invalid of 64 (R326). -/
def Dev.syncHeader (d : Dev) (n : Nat) (hdr : BitVec 2) : Dev :=
  let x := d.lane n
  let ok := hdr == 1 || hdr == 2
  match x.state with
  | .blockhunt =>
    if ok then
      if x.validRun + 1 < 64 then d.setLane n { x with validRun := x.validRun + 1 }
      else d.setLane n { x with state := .markerhunt, validRun := 0, history := 0, good := 0, mseq := none, invert := false }
    else d.setLane n { x with validRun := 0, slips := (x.slips + 1) % 66 }
  | .markerhunt | .up =>
    let h := (x.history <<< 1) ||| (if ok then 0 else 1)
    let d := if ok then d else d.laneCnt n 0x08
    let x := { x with history := h }
    if popcount h < 16 then d.setLane n x
    else d.laneDrop n { x with state := .blockhunt, validRun := 0, t0 := d.time.loc - 2000000 }
  | _ => d

/-! ### Markers (R319 to R321, R327, R328) -/

/-- The payload's LCHK is correct and its reserved bits are zero, with its TYPE a marker's (R320). -/
def markerBody (p : List Byte) : Bool :=
  p.length == 8 && leAt p 0 1 == 0xD2 && leAt p 3 1 < 4 && leAt p 4 1 < 16 && BitVec.ofNat 16 (leAt p 6 2) == crc16 (p.take 6)

/-- A good marker (R320), given the MSEQ it must follow, if any. -/
def goodMarker (hdr : BitVec 2) (p : List Byte) (last : Option (BitVec 8)) : Bool :=
  hdr == 2 && markerBody p
  && (match last with | none => true | some m => BitVec.ofNat 8 (leAt p 5 1) == m + 1)

/-- The 66 bits complemented. -/
def compl66 (hdr : BitVec 2) (p : List Byte) : BitVec 2 × List Byte := (~~~hdr, p.map (~~~ ·))

/-- The marker's fields as `LSTAT` and `LINKRX` show them. -/
def Lane.marked (x : Lane) (p : List Byte) : Lane :=
  { x with linkrx := BitVec.ofNat 16 (leAt p 1 2), qidx := BitVec.ofNat 2 (leAt p 3 1), ql := BitVec.ofNat 4 (leAt p 4 1),
           mseq := some (BitVec.ofNat 8 (leAt p 5 1)) }

/-- The QL of a PEER or PAIR lane's marker is offered to the clock unit (R321, R411). -/
def Dev.offerQl (d : Dev) (n : Nat) : Dev :=
  let x := d.lane n
  let l := x.logic.toNat
  let r := d.ref 6
  if x.state = .up ∧ (d.role l = 3 ∨ d.role l = 4) ∧ fld 23 16 r.cfg = l ∧ r.inband ≠ x.ql.toNat then
    (d.setRef 6 { r with inband := x.ql.toNat }).select
  else d

/-- Marker lock: the receiver serves the logical lane its markers name, unless another of the quad does (R328). -/
def Dev.markerLock (d : Dev) (n : Nat) (x : Lane) : Dev :=
  let j := x.qidx.toNat
  let p := lanePage n
  if d.quadTaken n j then
    let d' := d.setLane n { x with maperr := true }
    if x.maperr then d' else (d'.bump p 0x518).raise p 0x8
  else
    let rm := decide (j ≠ n % 4)
    let d := d.setLane n { x with state := .up, logvalid := true, logic := BitVec.ofNat 8 (n / 4 * 4 + j), remap := rm,
                                  maperr := false, missed := 0, resync := false }
    let d := if rm then d.bump p 0x508 else d
    (d.raise p 0x2).masters

/-- A block at a marker position is checked (R320, R327, R328). -/
def Dev.markerRx (d : Dev) (n : Nat) (hdr : BitVec 2) (raw : List Byte) : Dev :=
  let x := d.lane n
  let (h, p) := if x.invert then compl66 hdr raw else (hdr, raw)
  match x.state with
  | .markerhunt =>
    if goodMarker h p x.mseq then
      let x := { x.marked p with good := x.good + 1 }
      if x.good < 3 then d.setLane n x else (d.markerLock n x).offerQl n
    else
      let (h', p') := compl66 h p
      if goodMarker h' p' none then
        (d.setLane n { x.marked p' with invert := !x.invert, good := 1 }).bump (lanePage n) 0x500
      else d.setLane n { x with good := 0, mseq := none }
  | .up =>
    if goodMarker h p x.mseq && leAt p 3 1 == x.logic.toNat % 4 then
      (d.setLane n { x.marked p with missed := 0 }).offerQl n
    else
      let d := d.laneCnt n 0x10
      let d := if h = 2 then (d.laneCnt n 0x18).setLane n { x with resync := true } else d
      let x : Lane := { d.lane n with missed := x.missed + 1 }
      if x.missed < 4 then d.setLane n x
      else d.laneDrop n { x with state := .markerhunt, invert := false, t0 := d.time.loc - 2100000 }
  | _ => d

/-- The quality level that the disciplined loop claims: that of the selected reference. -/
def Dev.claimedQl (d : Dev) : Nat := match d.clk.sel with | some i => (d.ref i).ql | none => 0

/-- `LINKTX` of a lane. -/
def Dev.linkTx (d : Dev) (n : Nat) : Nat := (d.reg (laneAddr n 0x0C)).toNat % 65536

/-- The payload of a lane's next marker (R319, R321). -/
def Dev.markerBytes (d : Dev) (n : Nat) : List Byte :=
  let b := [0xD2] ++ leBytes 2 (d.linkTx n) ++ [BitVec.ofNat 8 (n % 4), BitVec.ofNat 8 d.claimedQl, (d.lane n).txMseq]
  b ++ leBytes 2 (crc16 b).toNat

/-- The transmitter sends: powered, not in near-end loopback, and no ESTOP in force (R330, R565). -/
def Dev.txOn (d : Dev) (n : Nat) : Bool :=
  let x := d.lane n
  x.tx && x.state != .loopback && !d.aon.estop.active

/-- A marker is sent and MSEQ counts (R317, R321). -/
def Dev.markerSend (d : Dev) (n : Nat) : Dev :=
  if d.txOn n then
    (d.setLane n { d.lane n with txMseq := (d.lane n).txMseq + 1 }).emit (.marker n (d.markerBytes n))
  else d

/-- A frame leaves on a lane. -/
def Dev.sendFrame (d : Dev) (n : Nat) (f : List Byte) : Dev :=
  if d.txOn n then
    ((d.setLane n { d.lane n with txAt := d.time.loc }).emit (.frame n f)).laneCnt n 0x38
  else d

/-- `PAIR.EPOCH`. -/
def Dev.epoch (d : Dev) : Nat := (d.reg (bar pgPAIR 0x100C)).toNat

/-- The IDLE frame of a lane (R330). -/
def Dev.idleFrame (d : Dev) (n : Nat) : List Byte :=
  withTrailer (FrameHdr.bytes { type := 15, link := d.linkTx n, epoch := d.epoch })

/-! ### Delineation (R316 to R318) -/

/-- One received block: sync header and the 64 payload bits as received, octet 0 in the low bits. -/
abbrev Blk := BitVec 2 × BitVec 64

/-- The self-synchronous descrambler x^58 + x^39 + 1, given the block before (R316). -/
def descramble (prev raw : BitVec 64) : BitVec 64 :=
  let w : BitVec 128 := raw ++ prev
  raw ^^^ (w >>> 25).setWidth 64 ^^^ (w >>> 6).setWidth 64

/-- How a run of data blocks ends. -/
inductive RunEnd where
  | delim | foreign | toolong | unfinished
  deriving DecidableEq, Repr

/-- The run that a list of blocks begins with: its bytes, how it ends, and the last raw block. `room` is how many data
blocks it may still take. -/
def delineate (inv : Bool) : Nat → BitVec 64 → List Byte → List Blk → List Byte × RunEnd × BitVec 64
  | _, prev, acc, [] => (acc, .unfinished, prev)
  | 0, prev, acc, _ => (acc, .toolong, prev)
  | room + 1, prev, acc, (h, w) :: t =>
    let h := if inv then ~~~h else h
    let w := if inv then ~~~w else w
    let p := descramble prev w
    if h = 1 then
      if room = 0 then (acc, .toolong, w) else delineate inv room w (acc ++ leBytes 8 p.toNat) t
    else if h = 2 ∧ p.toNat % 256 = 0x87 then (acc, .delim, w)
    else (acc, .foreign, w)

/-- A frame is passed to ingest, or counted in OFFRX while the role in force is OFF (R314, R318); far-end echo sends it
back (R334). -/
def Dev.passFrame (d : Dev) (n : Nat) (f : List Byte) : Dev :=
  let l := (d.lane n).logic.toNat
  let sfn := widenSfn d.time.sfn (frSfn f)
  let d := if bitAt 3 (d.reg (laneAddr n 0)) then d.sendFrame n f else d
  if d.roleAt l sfn = 0 then d.laneCnt n 0x30
  else { d.laneCnt n 0x00 with lnb.inbox := d.lnb.inbox ++ [(l, f)] }

/-- The blocks from one DELIM to what ends the run (R318). -/
def Dev.delineateRun (d : Dev) (n : Nat) (blks : List Blk) : Dev :=
  let x := d.lane n
  if x.state ≠ .up then (if blks = [] then d else d.laneCnt n 0x20)
  else
    let (f, e, prev) := delineate x.invert 518 x.prev [] blks
    let d := d.setLane n { x with prev := prev, resync := e == .foreign || e == .toolong || (x.resync && e != .delim) }
    match e with
    | .unfinished => d
    | .foreign | .toolong => d.laneCnt n 0x18
    | .delim => if x.resync || f.isEmpty then d else d.passFrame n f

/-! ### Control, calibration and power (R314, R332 to R335) -/

/-- The eye monitor refreshes and the stale conditions are evaluated (R332, R333). -/
def Dev.eyeRefresh (d : Dev) (n : Nat) (eyeH : BitVec 6) (eyeV off : BitVec 8) (ctle : BitVec 4) : Dev :=
  let x := d.lane n
  if x.state ≠ .up then d
  else
    let x := { x with eyeH := eyeH, eyeV := eyeV, eyeOff := off, ctle := ctle }
    let bad := 16 ≤ off.toInt.natAbs || 15 < (d.pwr.tj.toInt - x.recTemp.toInt).natAbs || ctle == 0 || ctle == 15
    let d' := d.setLane n { x with stale := x.stale || bad }
    if bad && !x.stale then
      let p := lanePage n
      ((d'.modPage p fun g => { g with calStale := true }).bump p 0x510).raise p 0x4
    else d'

/-- What breaks a write of `LCTL` (R332, R334). -/
def Dev.lctlErrs (d : Dev) (n : Nat) (v : Word) : List Code :=
  let x := d.lane n
  let old := d.reg (laneAddr n 0)
  let st := d.sys.state
  let l := if x.logvalid then x.logic.toNat else n
  let lb := (v ^^^ old) &&& 0xC ≠ 0 && !(st == .ready || st == .idle || st == .selftest)
  let rt := bitAt 0 v && noStepState st && d.role l != 0 && !bitAt 1 v
  when' (v &&& 0xFFFFFFF0 ≠ 0) eRSVD ++ when' (lb || rt) eSTATE

/-- A write of `LCTL` (R332, R334). -/
def Dev.lctlWrite (d : Dev) (n : Nat) (v : Word) : Dev :=
  d.guard (lanePage n) (0x1100 + 0x40 * (n % 16)) (d.lctlErrs n v) fun d =>
    let d := d.setReg (laneAddr n 0) (v &&& 0xE)
    let x := d.lane n
    let d :=
      if bitAt 2 v && x.state != .loopback && x.state != .failed then d.laneDrop n { x with state := .loopback, sigdet := false }
      else if !bitAt 2 v && x.state == .loopback then
        d.setLane n { x with state := if d.role n = 0 then .off else .detect }
      else d
    let x := d.lane n
    if bitAt 0 v && (x.state == .up || x.state == .blockhunt || x.state == .markerhunt || x.state == .adapt) then
      d.laneDrop n { x with state := .adapt, t0 := d.time.loc, invert := false }
    else d

/-- Leaving IDLE for RUNNING clears both loopbacks (R334). -/
def Dev.clearLoopbacks (d : Dev) : Dev :=
  (List.range 256).foldl (fun d n =>
    let c := d.reg (laneAddr n 0)
    if c &&& 0xC = 0 then d
    else
      let d := d.setReg (laneAddr n 0) (c &&& 0x2)
      let x := d.lane n
      if x.state = .loopback then d.setLane n { x with state := if d.role n = 0 then .off else .detect } else d) d

/-- What breaks a write of `LTXEQ` (R322). -/
def Dev.ltxeqErrs (d : Dev) (n : Nat) (v : Word) : List Code :=
  when' (v &&& 0xFFFFE000 ≠ 0) eRSVD
  ++ when' (bitAt 3 v && decide (31 < fld 7 4 v + fld 12 8 v)) eCOMBO
  ++ when' (noStepState d.sys.state && d.role n != 0) eSTATE

/-- A lane powers up: its receiver waits for signal and its transmitter counts MSEQ from 0. -/
def Dev.laneOn (d : Dev) (n : Nat) : Dev :=
  let x := d.lane n
  if x.state = .failed then d
  else d.setLane n { x with state := if x.state = .off then .detect else x.state, tx := true,
                            txMseq := if x.tx then x.txMseq else 0, downAt := none }

/-- A lane powers down and keeps its calibration record (R329, R330). -/
def Dev.laneOff (d : Dev) (n : Nat) : Dev :=
  let x := d.lane n
  if x.state = .failed then d
  else d.laneDrop n { x with state := .off, sigdet := false, invert := false, tx := false, downAt := none }

/-- The old window has closed on a lane that moves to OFF: it powers down (R314). -/
def Dev.lanePowerDown (d : Dev) (n : Nat) : Dev :=
  match (d.lane n).downAt with
  | some s => if atOrAfter d.time.sfn s then d.laneOff n else d
  | none => d

/-- Logical lane `l` takes the `LROLE` word `w` from boundary `b` on; `atOnce`: no old window is left to close. -/
def Dev.setRole (d : Dev) (l : Nat) (w : Word) (b : Sfn) (atOnce : Bool) : Dev :=
  let old := d.actReg (lroleAddr l)
  if old = w then d
  else
    let d := d.setAct (lroleAddr l) w
    let d := { d with lnb.oldRole := Tab.set none d.lnb.oldRole l (if atOnce then none else some (b, old)),
                      lnb.offAt := Tab.set none d.lnb.offAt l (if fld 2 0 w = 0 then some b else none) }
    if fld 2 0 w ≠ 0 then (if d.pwr.level < 6 then d.laneOn l else d)
    else if atOnce then d.laneOff l
    else d.setLane l { d.lane l with downAt := some (b + BitVec.ofNat 48 d.w) }

/-- S6: every lane goes to electrical idle and powers down (R330). -/
def Dev.lanesS6 (d : Dev) : Dev :=
  (List.range 256).foldl (fun d n => if (d.lane n).powered || (d.lane n).tx then d.laneOff n else d) d

/-- Recovery from S6: lanes whose role is not OFF restart from DETECT (R330). -/
def Dev.lanesRecover (d : Dev) : Dev :=
  (List.range 256).foldl (fun d n => if d.role n ≠ 0 then d.laneOn n else d) d

/-- A lane's self-test ends (R335): it was in near-end loopback, so its receiver has left UP; a failing lane goes to
FAILED, a passing one waits for signal in its role. -/
def Dev.laneTested (d : Dev) (n : Nat) (fail : Bool) : Dev :=
  let x := d.lane n
  if fail then (d.laneDrop n { x with state := .failed, tx := false, sigdet := false }).raise (lanePage n) 0x10
  else if x.state = .loopback then d
  else if d.role n = 0 ∨ 6 ≤ d.pwr.level then d.laneDrop n { x with state := .off, sigdet := false, invert := false, tx := false }
  else d.laneDrop n { x with state := .detect, sigdet := false, invert := false, tx := true
                             txMseq := if x.tx then x.txMseq else 0 }

end Sys2Proof.Machine
end

