-- ==== Sys2Proof/Machine/Ing.lean ====
section
/-! DEFINITION. The ingest unit: frame checks, attribution, admission, policing, binding, keys, frame sets and sheet
completion (R44 to R79, R592). -/

namespace Sys2Proof.Machine

/-! ### Binding (R49, R74, R75) -/

/-- The lanes of a `BINDLO` word. -/
def laneSet (w : Word) : List Nat := ([0, 8, 16, 24].map fun i => fld (i + 7) i w).filter (· != 255)

/-- The bank that judges a frame at SFN `f` (R29). -/
def Dev.bankAt (d : Dev) (f : Sfn) : IngBank :=
  match d.ing.old with
  | some (b, o) => if after b f then o else d.ing.act
  | none =>
    match (match d.takeoverAt with | some b => if atOrAfter f b then d.ing.soon else none | none => none) with
    | some k => { k with peer := d.ing.act.peer }
    | none =>
      match (d.page pgING).armed with
      | some k => if k.when ≠ 0 ∧ atOrAfter f k.target then d.ing.shadow else d.ing.act
      | none => d.ing.act

/-- The entry of an ID in a part of a bank; `peer`: the peer part. -/
def IngBank.entry (b : IngBank) (peer : Bool) (id : Nat) : BindEnt := Tab.get {} (if peer then b.peer else b.input) id

/-- N_b: the VALID entries of the input part in force (R50). -/
def Dev.nbound (d : Dev) : Nat := (d.ing.act.input.filter fun e => e.2.valid).length

/-! ### The run's sheets (R592) -/

/-- The ream in progress at the completion side ends here. -/
def Dev.reamEnd (d : Dev) : Sfn := d.run.reamAt + BitVec.ofNat 48 (d.reqAt d.run.reamAt).ream

/-- A sheet of the run remains to complete. -/
def Dev.sheetRemains (d : Dev) : Bool :=
  d.run.live && (match d.run.bLast with | none => true | some b => after b d.run.sheetAt)

/-- The sheet to which a frame of class `c` at widened SFN `f` is attributed (R592). -/
def Dev.attribute (d : Dev) (c : Nat) (sample : Bool) (f : Sfn) : Option Sfn :=
  if !d.sheetRemains then none
  else
    let s := (d.reqAt f).sheetOf f
    if sample && (c == 0 || c == 12 || c == 14 || c == 15) && atOrAfter s d.run.sheetAt then some s
    else some d.run.sheetAt

/-- A counter counts in the set of the ream that contains the sheet (R31, R592). -/
def Dev.ingCount (d : Dev) (sheet : Option Sfn) (off : Nat) (n : Nat := 1) : Dev :=
  match sheet with
  | some s => if atOrAfter s d.reamEnd then d.bumpNext pgING off n else d.bump pgING off n
  | none => d.bump pgING off n

/-- The offset at which the model keeps the class counters of a lane: 0x0200 + 8v is a view of them (R78). -/
def laneClassOff (l c : Nat) : Nat := 0x10000000 + l * 0x100 + 8 * c

/-- The gathering of a sheet, empty where none was begun. -/
def IngSt.sheet (g : IngSt) (s : Sfn) : SheetAcc := (g.sheets.find? (·.at_ == s)).getD { at_ := s }

/-- The gathering of a sheet takes a value. -/
def IngSt.setSheet (g : IngSt) (a : SheetAcc) : IngSt :=
  { g with sheets := if g.sheets.any (·.at_ == a.at_) then g.sheets.map fun x => if x.at_ = a.at_ then a else x
                     else g.sheets ++ [a] }

/-- The gathering of an input in a sheet is updated. -/
def SheetAcc.modInput (a : SheetAcc) (p : Nat) (f : InAcc → InAcc) : SheetAcc :=
  { a with inputs := Tab.set {} a.inputs p (f (Tab.get {} a.inputs p)) }

/-- A number joins a strictly rising list. -/
def insertSorted (n : Nat) : List Nat → List Nat
  | [] => [n]
  | m :: t => if n < m then n :: m :: t else if n = m then m :: t else m :: insertSorted n t

/-! ### Policing and quarantine (R60, R61) -/

/-- Units of a token in `Bucket.tok`. -/
def tokenUnit : Nat := 25600000000

/-- DEPTH in force of a lane (R60). -/
def Dev.depth (d : Dev) (l : Nat) : Nat := (Tab.get 0 d.ing.act.depth l).toNat

/-- A lane's bucket refilled to the present LOCAL time. -/
def Dev.refill (d : Dev) (l : Nat) : Bucket :=
  let b := Tab.get {} d.ing.buckets l
  let r := (Tab.get 0 d.ing.act.rate l).toNat
  { tok := min (d.depth l * tokenUnit) (b.tok + (d.time.loc - b.at_).toNat * r * 105), at_ := d.time.loc }

/-- A lane's bucket starts full. -/
def Dev.fillBucket (d : Dev) (l : Nat) : Dev :=
  { d with ing.buckets := Tab.set {} d.ing.buckets l { tok := d.depth l * tokenUnit, at_ := d.time.loc } }

/-- Every lane's bucket starts full (START). -/
def Dev.fillBuckets (d : Dev) : Dev := (List.range 256).foldl (fun d l => d.fillBucket l) d

/-- The lane's role has a bucket (R60). -/
def hasBucket (role : Nat) : Bool := role == 1 || role == 3 || role == 4

/-- The sub-interval of LOCAL time, 62.5 µs each. -/
def Dev.subInterval (d : Dev) : Nat := d.time.loc.toNat / 62500

/-- A CRC failure on a lane; more than 64 over 16 sub-intervals quarantine it (R61). -/
def Dev.crcFail (d : Dev) (l : Nat) : Dev :=
  let now := d.subInterval
  let old := (Tab.get [] d.ing.crcFails l).filter fun e => now ≤ e.1 + 15
  let new := if old.any (·.1 == now) then old.map fun e => if e.1 = now then (now, e.2 + 1) else e else old ++ [(now, 1)]
  let d := { d with ing.crcFails := Tab.set [] d.ing.crcFails l new }
  if 64 < (new.map (·.2)).sum ∧ !d.ing.laneq.getLsbD l then
    let d := { d with ing.laneq := d.ing.laneq ||| BitVec.ofNat 256 (2 ^ l) }
    (d.bump pgING 0x1A8).raise pgING 0x1
  else d

/-- The quarantines of lanes 32k to 32k + 31 that are written with 1 end, and their CRC counts restart (R61). -/
def Dev.laneqRelease (d : Dev) (k : Nat) (v : Word) : Dev :=
  let m : BitVec 256 := (v.setWidth 256) <<< (32 * k)
  { d with ing.laneq := d.ing.laneq &&& ~~~m,
           ing.crcFails := Tab.clear (fun l => m.getLsbD l) d.ing.crcFails }

/-! ### The checks (R52 to R57) -/

/-- The widened SFN of a frame (R53): against the first SFN of the sheet that contains SFN_NOW. -/
def Dev.frameSfn (d : Dev) (fr : List Byte) : Sfn :=
  widenSfn (if d.plt.active.isSome then d.req.sheetOf d.time.sfn else d.time.sfn) (frSfn fr)

/-- Whether a type is accepted on a role (R44). -/
def accepted (t role : Nat) : Bool :=
  (t == 1 && role == 1) || (t == 3 && role == 3) || (t == 4 && role == 4)

/-- Check 5 (R52): the frame is malformed. -/
def Dev.malformed (d : Dev) (fr : List Byte) (f : Sfn) : Bool :=
  let t := frType fr
  let r := d.reqAt f
  let plate := (d.plateAt f).isSome
  frLen t == 0 || fr.length != frLen t || BitVec.ofNat 32 (leAt fr (fr.length - 4) 4) != lenchk (frLen t)
  || leAt fr 0 1 / 16 != 1 || !frReservedOk fr
  || (t == 1 && plate && (leAt fr 1 1 != r.sfmt || decide (r.groups ≤ frChgrp fr)))
  || ((t == 3 || t == 4) && frChgrp fr != 0)
  || (d.run.live && (f - d.run.s0).toNat % r.lf != 0)

/-- The key slot's key, if it is VALID (R47). -/
def IngSt.key (g : IngSt) (i : Nat) : Option (List Byte) := if i = 0 then g.keys0 else g.keys1

/-- The MAC of a TRIG or CTRL frame matches (R47). -/
def Dev.macOk (d : Dev) (fr : List Byte) : Bool :=
  match d.ing.key (frKeyId fr) with
  | none => false
  | some k => mac8 k (fr.take (fr.length - 16)) == (fr.drop (fr.length - 16)).take 8

/-- The directory's entry for a frame's key (R54). -/
def DirEnt.same (e : DirEnt) (fr : List Byte) (f : Sfn) : Bool :=
  let trig := frType fr == 3
  e.trig == trig && e.src == frSrc fr && e.f == f && (if trig then e.seq == frSeq fr else e.chgrp == frChgrp fr)

/-- Checks 4 to 15 of R52 and the classes they give; 0 admits. `l` is the logical lane. -/
def Dev.checkFrame (d : Dev) (l : Nat) (fr : List Byte) (f : Sfn) : Nat :=
  let t := frType fr
  let r := d.reqAt f
  let role := d.roleAt l f
  let ent := (d.bankAt f).entry (t != 1) (frSrc fr)
  let e := f + BitVec.ofNat 48 r.lf
  if crc32c (fr.take (fr.length - 8)) ≠ frCrc fr then 4
  else if t = 15 then 16
  else if d.malformed fr f then 5
  else if !accepted t role then 6
  else if !ent.valid || !(laneSet ent.lo).contains l then 7
  else if frSession fr ≠ ent.tag then 8
  else if t ≠ 1 && !d.macOk fr then 9
  else if !noStepState d.sys.state || after d.ing.notBefore f then 10
  else if t ≠ 4 && (match d.run.bLast with | some b => atOrAfter f b | none => false) then 11
  else if d.windowClosed r e then 12
  else if decide ((r.earlyB * r.lf : Int) < wdiff e d.time.sfn) then 13
  else if t = 4 then 0
  else
    match d.ing.dir.find? (·.same fr f) with
    | some x => if x.crc = frCrc fr then 14 else 15
    | none => 0

/-- Checks 1 to 3 and the rest: the class, and the device with the token taken (R52, R60). -/
def Dev.classify (d : Dev) (l : Nat) (fr : List Byte) (f : Sfn) : Nat × Dev :=
  if d.ing.laneq.getLsbD l then (1, d)
  else if d.sys.state = .frozen ∨ 5 ≤ d.pwr.level then (2, d)
  else if fr.length < 40 then (5, d)
  else if frType fr ≠ 15 ∧ hasBucket (d.roleAt l f) then
    let b := d.refill l
    if b.tok < tokenUnit then (3, { d with ing.buckets := Tab.set {} d.ing.buckets l b })
    else
      let d := { d with ing.buckets := Tab.set {} d.ing.buckets l { b with tok := b.tok - tokenUnit } }
      (d.checkFrame l fr f, d)
  else (d.checkFrame l fr f, d)

/-! ### Accounting and admission (R55, R56, R64, R66, R71) -/

/-- A value's samples: bytes at 4+4, 16-bit pairs at 8+8. -/
def samples (bs : Nat) : List Byte → List Nat
  | [] => []
  | [a] => [a.toNat]
  | a :: b :: t => if bs = 1 then a.toNat :: b.toNat :: samples bs t else (a.toNat + 256 * b.toNat) :: samples bs t

/-- An input's gathering after one more admitted frame. -/
def InAcc.join (a : InAcc) (r : Req) (fr : List Byte) (span : Nat) : InAcc :=
  let v := (samples r.bs ((fr.drop 32).take 4096)).map (BitVec.ofNat 16 ·)
  let m : BitVec 16 := if r.bs = 1 then 0xFF else 0xFFFF
  let w := frWalsh fr
  let ws := match Tab.get none a.walsh span with
    | none => w * 4 + w
    | some x => (x / 4 &&& w) * 4 + (x % 4 ||| w)
  { a with admitted := a.admitted + 1, ovf := satAdd 32 a.ovf (frOvf fr), ndiode := a.ndiode + b2n (frNdiode fr),
           andS := v.foldl (· &&& ·) (a.andS &&& m), orS := v.foldl (· ||| ·) a.orS,
           walsh := Tab.set none a.walsh span (some ws) }

/-- SEQ statistics of an input (R55). -/
def Dev.seqStat (d : Dev) (sheet : Option Sfn) (id : Nat) (q : BitVec 16) : Dev :=
  match Tab.get none d.ing.seqHigh id with
  | none => { d with ing.seqHigh := Tab.set none d.ing.seqHigh id (some q) }
  | some h =>
    let k := wdiff q h
    if 0 < k then
      let d := { d with ing.seqHigh := Tab.set none d.ing.seqHigh id (some q) }
      if 1 < k then d.ingCount sheet 0x188 (k - 1).toNat else d
    else if k < 0 then d.ingCount sheet 0x190 else d

/-- The directory frees the slots whose window has closed (R59). -/
def Dev.purgeDir (d : Dev) : Dev := { d with ing.dir := d.openDir }

/-- A frame takes a slot of the directory (R54, R59). -/
def Dev.enterDir (d : Dev) (fr : List Byte) (f : Sfn) : Dev :=
  let e : DirEnt := { trig := frType fr == 3, src := frSrc fr, chgrp := frChgrp fr, f := f, seq := frSeq fr, crc := frCrc fr }
  let d := { d with ing.dir := d.ing.dir ++ [e] }
  d.peak pgING 0x1AC d.ing.dir.length

/-- The counters of class `c`, the sheet's and the input's drop counts (R52, R56, R71). -/
def Dev.account (d : Dev) (l : Nat) (fr : List Byte) (f : Sfn) (c : Nat) : Dev :=
  let sample := frType fr == 1 && 40 ≤ fr.length
  let sh := d.attribute c sample f
  let d := (d.ingCount sh (0x100 + 8 * c)).ingCount sh (laneClassOff l c)
  match sh with
  | none => d
  | some s =>
    let a := d.ing.sheet s
    let a := { a with classes := Tab.set 0 a.classes c (Tab.get 0 a.classes c + 1) }
    let a := match (if sample && 8 ≤ c && c ≤ 15 then (d.reqAt f).index (frSrc fr) else none) with
      | some p => a.modInput p fun i => { i with drops := Tab.set 0 i.drops c (Tab.get 0 i.drops c + 1) }
      | none => a
    { d with ing := d.ing.setSheet a }

/-- A DUPCONFLICT marks the input dead for the sheet that contains `f` and raises CONFLICT (R66). -/
def Dev.conflictMark (d : Dev) (fr : List Byte) (f : Sfn) : Dev :=
  let r := d.reqAt f
  let s := r.sheetOf f
  let d := match (if frType fr == 1 && atOrAfter s d.run.sheetAt then r.index (frSrc fr) else none) with
    | some p => { d with ing := d.ing.setSheet ((d.ing.sheet s).modInput p fun i => { i with conflict := true }) }
    | none => d
  if frType fr = 1 then d.raise pgING 0x4 else d

/-- Bit number of a frame in its sheet's validity bitmap (R67). -/
def Req.bitmapBit (r : Req) (p g : Nat) (s f : Sfn) : Nat := (p * r.groups + g) * r.blocks + (f - s).toNat / r.lf

/-- An admitted SAMPLE frame joins its sheet (R55, R67, R69, R71). -/
def Dev.admitSample (d : Dev) (fr : List Byte) (f : Sfn) : Dev :=
  let r := d.reqAt f
  let s := r.sheetOf f
  let d := (d.seqStat (some s) (frSrc fr) (frSeq fr)).enterDir fr f
  match r.index (frSrc fr) with
  | none => d
  | some p =>
    let a := (d.ing.sheet s).modInput p fun i => i.join r fr ((f - s).toNat / 4096)
    { d with ing := d.ing.setSheet { a with valid := insertSorted (r.bitmapBit p (frChgrp fr) s f) a.valid } }

/-- The checks of R52 on one frame, with their counts: the class, the frame's widened SFN and the device. An admitted
frame is handed on by the caller. The frame leaves the inbox where lanes have put it. -/
def Dev.ingest (d : Dev) (l : Nat) (fr : List Byte) : Nat × Sfn × Dev :=
  let d := { d with lnb.inbox := d.lnb.inbox.erase (l, fr) }.purgeDir
  let f := d.frameSfn fr
  let (c, d) := d.classify l fr f
  let d := d.account l fr f c
  let d := if c = 4 then d.crcFail l
    else if c = 9 then (if bitAt 3 (d.page pgING).pirq then d else d.raise pgING 0x8)
    else if c = 15 then d.conflictMark fr f
    else d
  (c, f, d)

/-! ### Frame sets and sheets (R65, R67, R69, R301) -/

/-- Every member's frame of a frame set has been admitted. -/
def Dev.setFull (d : Dev) (g : Nat) (f : Sfn) : Bool :=
  (d.bankAt f).input.all fun e =>
    !e.2.valid || d.ing.dir.any fun x => !x.trig && x.src == e.1 && x.chgrp == g && x.f == f

/-- Every frame set of a group before this SFN has closed. -/
def Dev.closedTo (d : Dev) (g : Nat) : Sfn := (Tab.get none d.ing.closedTo g).getD d.run.s0

/-- A frame set has closed. -/
def Dev.setClosed (d : Dev) (g : Nat) (f : Sfn) : Bool := after (d.closedTo g) f || d.ing.closed.contains (g, f)

/-- Out-of-order closings that have become contiguous join `closedTo`, `fuel` at most. -/
def Dev.closedSweep (d : Dev) (g lf : Nat) : Nat → Dev
  | 0 => d
  | fuel + 1 =>
    let f := d.closedTo g
    if d.ing.closed.contains (g, f) then
      ({ d with ing.closed := d.ing.closed.erase (g, f)
                ing.closedTo := Tab.set none d.ing.closedTo g (some (f + BitVec.ofNat 48 lf)) }).closedSweep g lf fuel
    else d

/-- A frame set may close now: it is full, or its window has closed; it has not closed before. -/
def Dev.setCloses (d : Dev) (g : Nat) (f : Sfn) : Bool :=
  let r := d.reqAt f
  d.run.live && decide (g < r.groups) && (f - d.run.s0).toNat % r.lf == 0 && !d.setClosed g f
  && atOrAfter f d.run.s0 && (match d.run.bLast with | some b => after b f | none => true)
  && (d.setFull g f || d.windowClosed r (f + BitVec.ofNat 48 r.lf))

/-- ING's part of a frame set's closing (R65). -/
def Dev.closeSet (d : Dev) (g : Nat) (f : Sfn) : Dev :=
  let s := (d.reqAt f).sheetOf f
  let d := d.ingCount (some s) (if d.setFull g f then 0x198 else 0x1A0)
  let d := { d with ing.closed := d.ing.closed ++ [(g, f)] }
  d.closedSweep g (d.reqAt f).lf (d.ing.closed.length + 1)

/-- The Walsh field of an input changed within a span (R301). -/
def InAcc.walshMixed (a : InAcc) : Bool :=
  a.walsh.any fun e => match e.2 with | some x => x / 4 != x % 4 | none => false

/-- The flags of an input at its sheet's completion (R69, R301). -/
def InAcc.flags (a : InAcc) (r : Req) : InFlag :=
  let m : BitVec 16 := if r.bs = 1 then 0xFF else 0xFFFF
  let cf := a.conflict || (r.mode == 10 && a.walshMixed)
  let absent := a.admitted == 0
  { absent := absent, conflict := cf, dead := absent || cf || (a.andS &&& m) == (a.orS &&& m), acc := a }

/-- The bytes of a bitmap from its set bits (R67). -/
def bitmapBytes (n : Nat) (bits : List Nat) : List Byte :=
  (List.range n).map fun i =>
    BitVec.ofNat 8 ((bits.filter fun b => b / 8 == i).foldl (fun s b => s + 2 ^ (b % 8)) 0)

/-- Bytes of one validity bitmap. -/
def Req.bitmapSize (r : Req) : Nat := (r.ninput * r.groups * r.blocks + 7) / 8

/-- `VBMSIZE`: bytes of one bitmap buffer. -/
def Req.vbmSize (r : Req) : Nat := roundUp r.bitmapSize 4096

/-- A loaded 48-bit BAR2 offset held in two read-only words (R544). -/
def loadedAddr (p off : Nat) : Nat :=
  (Config.loaded (bar p off)).toNat + (Config.loaded (bar p (off + 4))).toNat % 65536 * 2 ^ 32

/-- A sheet completes (R25, R67, R69, R71): its bitmap and flags are fixed, SHEETCNT increments. -/
def Dev.completeSheet (d : Dev) : Dev :=
  let s := d.run.sheetAt
  let r := d.reqAt s
  let a := d.ing.sheet s
  let flags := (List.range r.ninput).foldl (fun t p => Tab.put t p ((Tab.get {} a.inputs p).flags r)) ([] : Tab InFlag)
  let buf := !d.ing.vbmBuf
  let buf := if d.run.sheets = 0 then false else buf
  let base := loadedAddr pgING 0x1050 + (if buf then r.vbmSize else 0)
  let d := if d.mctl.mstat = .run ∨ d.mctl.mstat = .selftest then d.putBytes base (bitmapBytes r.vbmSize a.valid) else d
  let was := if d.run.sheets = 0 then [] else
    match d.ing.last with | some l => l.flags.filterMap (fun e => if e.2.dead then some e.1 else none) | none => []
  let now := flags.filterMap fun e => if e.2.dead then some e.1 else none
  let done : DoneSheet :=
    { at_ := s, idx := (s - d.run.reamAt).toNat / r.ks % r.reamLen, ream := d.run.reams + (if atOrAfter s d.reamEnd then 1 else 0),
      flags := flags, valid := a.valid, classes := a.classes }
  let d := { d with
    ing.last := some done, ing.vbmBuf := buf, ing.vbmGen := (d.sys.sheetcnt + 1).setWidth 16
    ing.sheets := d.ing.sheets.filter (·.at_ != s)
    sys.sheetcnt := d.sys.sheetcnt + 1
    run.sheets := d.run.sheets + 1
    run.sheetAt := s + BitVec.ofNat 48 r.ks }
  if was = now then d else d.raise pgING 0x2

/-- A sheet may complete now: one remains and its window has closed (R25). -/
def Dev.sheetDue (d : Dev) : Bool :=
  let r := d.reqAt d.run.sheetAt
  d.sheetRemains && d.windowClosed r (d.run.sheetAt + BitVec.ofNat 48 r.ks)

/-! ### Keys and the shadow binding table (R75 to R77) -/

/-- The plate whose input set a `BINDHI` write is checked against (R77): the active plate, else the ARMED one. -/
def Dev.bindPlate (d : Dev) : Option Plate :=
  match d.plt.active with
  | some p => some p
  | none => if d.plt.staged = .armed then d.plt.stagedP else none

/-- What breaks a write of `BINDHI` (R75, R77). -/
def Dev.bindHiErrs (d : Dev) (v : Word) : List Code :=
  let valid := bitAt 31 v
  let set := laneSet d.ing.bindLo
  let id := d.ing.bindIdx.toNat % 8192
  let inPlate := match d.bindPlate with | some p => (p.req.index id).isSome | none => false
  when' (v &&& 0x7FFF0000 ≠ 0) eRSVD
  ++ when' ((valid && set.isEmpty) || !decide (set.Nodup)) eCOMBO
  ++ when' ((d.page pgING).locked) eLOCK
  ++ when' (valid && !bitAt 13 d.ing.bindIdx && !inPlate) 0x11

/-- A write of `BINDHI` stores the shadow entry and advances `BINDIDX` within its part (R75). -/
def Dev.bindHiWrite (d : Dev) (v : Word) : Dev :=
  d.guard pgING 0x8008 (d.bindHiErrs v) fun d =>
    let i := d.ing.bindIdx
    let id := i.toNat % 8192
    let e : BindEnt := { lo := d.ing.bindLo, valid := bitAt 31 v, tag := v.setWidth 16 }
    let nxt : BitVec 14 := (i &&& 0x2000) ||| ((i + 1) &&& 0x1FFF)
    if bitAt 13 i then { d with ing.shadow.peer := Tab.set {} d.ing.shadow.peer id e, ing.bindIdx := nxt }
    else { d with ing.shadow.input := Tab.set {} d.ing.shadow.input id e, ing.bindIdx := nxt }

/-- The 32 bytes of the staged key words (R73). -/
def IngSt.stagedKey (g : IngSt) : List Byte := (List.range 8).flatMap fun i => leBytes 4 (Tab.get 0 g.keyStage i).toNat

/-- A write of `MACKEYCTL` (R74, R76). -/
def Dev.macKeyCtl (d : Dev) (v : Word) : Dev :=
  d.guard pgING 0x10A0 (when' (v &&& ~~~(0x301 : Word) ≠ 0) eRSVD ++ when' (bitAt 8 v && bitAt 9 v) eCOMBO) fun d =>
    let put := fun (k : Option (List Byte)) (d : Dev) =>
      if bitAt 0 v then { d with ing.keys1 := k } else { d with ing.keys0 := k }
    if bitAt 8 v then { put (some d.ing.stagedKey) d with ing.keyStage := [] }
    else if bitAt 9 v then put none d else d

/-- What breaks an ING ticket whose target is `b`, given the roles and rates there and the input set there (R51, R77). -/
def Dev.ingTicketErrs (d : Dev) (role rate : Nat → Nat) (plate : Option Plate) : List Code :=
  let sh := d.ing.shadow
  let badIn := sh.input.any fun e => e.2.valid && (laneSet e.2.lo).any fun l => role l != 1
  let badPeer := sh.peer.any fun e => e.2.valid &&
    (let rs := (laneSet e.2.lo).map role
     rs.any (fun r => r != 3 && r != 4) || (rs.contains 3 && rs.contains 4))
  let notIn := sh.input.any fun e => e.2.valid &&
    (match plate with | some p => (p.req.index e.1).isNone | none => true)
  let load := (List.range 256).any fun l =>
    let r := (Tab.get 0 sh.rate l).toNat
    decide (96 * capNum (rate l) * 256 < r * 1000 * 100 * capDen)
  when' (badIn || badPeer) 0x10 ++ when' notIn 0x11 ++ when' load 0x12

end Sys2Proof.Machine
end

