-- ==== Sys2Proof/Machine/Plan.lean ====
section
/-! DEFINITION. What a plate fixes for the data path: memory regions, page channels and slots, quire-units and passes,
hatch time, baselines, consume times (R80, R90, R119 to R123, R134, R135, R146, R175 to R177, R180). -/

namespace Sys2Proof.Machine

/-! ### The fault map (R186) -/

/-- The fault map image: quire mask and memory exclusions. -/
def fmapImage (gen : Word) (qmask : BitVec 160) (excl : List Excl) : List Byte :=
  leBytes 4 1 ++ leBytes 4 gen.toNat ++ leBytes 24 0 ++ leBytes 32 qmask.toNat ++ leBytes 4 excl.length
  ++ excl.flatMap fun e => leBytes 1 e.chan ++ leBytes 1 e.bank ++ leBytes 2 0 ++ leBytes 4 e.row ++ leBytes 4 e.count ++ leBytes 4 0

/-- BAR2 offset of the fault map image. -/
def fmapAddr : Nat := (Config.loaded (bar pgPLT 0x1004)).toNat * 4096

/-- Firmware rewrites the image and increments `FMAPGEN`. -/
def Dev.fmapChanged (d : Dev) : Dev :=
  let g := d.plt.fmapGen + 1
  let d := { d with plt.fmapGen := g }
  d.putBytes fmapAddr (fmapImage g d.hat.qmask d.plt.excl)

/-- `FMAPGEN` comes to be `gen` + 1, and the image is rewritten with the masks as they now are. -/
def Dev.fmapOnce (d : Dev) (gen : Word) : Dev := ({ d with plt.fmapGen := gen } : Dev).fmapChanged

/-- The changes that one event makes to `QMASK` and the exclusions count as one: `FMAPGEN` grows by one if there are any
(R186). -/
def Dev.fmapStep (d : Dev) (f : Dev → Dev) : Dev :=
  let e := f d
  if e.plt.fmapGen = d.plt.fmapGen then e else e.fmapOnce d.plt.fmapGen

/-! ### Baselines and quire-units -/

/-- S: inputs of a quire's side (R119). -/
def Req.side (r : Req) : Nat := if r.sfmt = 0 then 32 else 16
/-- Whether the mode is a TILE mode. -/
def Req.tile (r : Req) : Bool := r.mode == 6 || r.mode == 7
/-- Whether the mode correlates (R296). -/
def Req.corr (r : Req) : Bool := [1, 2, 3, 4, 6, 7, 8, 10].contains r.mode
/-- Whether BMF and TRG run (R296). -/
def Req.beamMode (r : Req) : Bool := ([3, 4, 5, 11].contains r.mode || r.tile) && decide (0 < r.nbeam)
/-- Whether frames are forwarded (R303). -/
def Req.forwards (r : Req) : Bool := r.tile || r.fwd == 1
/-- Groups of `n` inputs. -/
def Req.groupsOf (r : Req) (n : Nat) : Nat := (n + r.side - 1) / r.side
/-- N_bl (R145, R296). -/
def Req.nbl (r : Req) : Nat :=
  if !r.corr then 0
  else if r.tile then r.tileA * (r.ninput - r.tileA)
  else if r.mode = 8 then r.ninput
  else r.ninput * (r.ninput + 1) / 2

/-- Bytes of a visibility entry. -/
def Req.visBytes (r : Req) : Nat := if r.vfmt = 0 then 8 else 16

/-- A quire-unit (R120, R134, R135). -/
inductive QUnit where
  | cross (g h : Nat)
  | fold (g : Nat)
  | diag (g : Nat)
  | tile (g h : Nat)
  | auto (u : Nat)
  deriving DecidableEq, Repr

/-- Inputs an AUTO unit covers (R135). -/
def Req.autoSpan (r : Req) : Nat := if r.sfmt = 0 then 64 else 32
/-- Inputs of a slice (R118). -/
def Req.sliceSpan (r : Req) : Nat := if r.sfmt = 0 then 2048 else 1024
/-- Slices of a sub-block. -/
def Req.slices (r : Req) : Nat := if r.mode = 8 then max 1 ((r.ninput + r.sliceSpan - 1) / r.sliceSpan) else 1

/-- The units of a plate in the builder's order (R121, R134, R135). -/
def Req.units (r : Req) : List QUnit :=
  if !r.corr then []
  else if r.tile then
    (List.range (r.groupsOf (r.ninput - r.tileA))).flatMap fun h =>
      (List.range (r.groupsOf r.tileA)).map fun g => .tile g h
  else if r.mode = 8 then (List.range ((r.ninput + r.autoSpan - 1) / r.autoSpan)).map .auto
  else
    let g := r.groupsOf r.ninput
    (List.range (g / 2)).map .fold ++ (if g % 2 = 1 then [.diag (g - 1)] else [])
    ++ (List.range g).flatMap fun h => (List.range h).map fun i => .cross i h

/-- The usable working quires, rising (R121). -/
def Plate.usable (p : Plate) : List Nat := (List.range 144).filter fun q => !p.qmask.getLsbD q

/-- P: passes of a sub-block (R121, R135). -/
def Plate.passes (p : Plate) : Nat :=
  if p.req.mode = 8 then p.req.slices
  else
    let q := p.usable.length
    let u := p.req.units.length
    if q = 0 then 0 else (u + q - 1) / q

/-- The units of pass `k` with the quires that run them. -/
def Plate.passUnits (p : Plate) (k : Nat) : List (Nat × QUnit) :=
  let q := if p.req.mode = 8 then 32 else p.usable.length
  p.usable.zip ((p.req.units.drop (k * q)).take q)

/-- Sub-blocks of a channel. -/
def Req.subs (r : Req) : Nat := r.ks / 4096
/-- Planned hatch cycles of a channel (R123). -/
def Plate.chCyc (p : Plate) : Nat := p.req.subs * p.passes * 4160
/-- Planned hatch cycles of a sheet (R123). -/
def Plate.sheetCyc (p : Plate) : Nat := p.req.nchan * p.chCyc
/-- Hatch time as a share of sheet time, 0.01 %. -/
def Plate.load (p : Plate) : Nat := nearest (p.sheetCyc * p.req.fch * 10000) (p.req.ks * 3 * 10 ^ 9 * 256)

/-- A baseline's canonical index (R146): i ≤ j, or row a and column b of a tile, or the input of AUTO. -/
def Req.baseline (r : Req) (i j : Nat) : Nat :=
  if r.tile then i * (r.ninput - r.tileA) + (j - r.tileA)
  else if r.mode = 8 then i
  else j * (j + 1) / 2 + i

/-- The baselines (i, j) of a unit, below N_p (R120, R134, R135). -/
def Req.unitBaselines (r : Req) (u : QUnit) : List (Nat × Nat) :=
  let s := r.side
  let n := r.ninput
  let tri := fun g => (List.range s).flatMap fun c => (List.range (c + 1)).map fun k => (s * g + k, s * g + c)
  let l := match u with
    | .cross g h => (List.range s).flatMap fun c => (List.range s).map fun k => (s * g + k, s * h + c)
    | .fold f => tri (2 * f) ++ tri (2 * f + 1)
    | .diag g => tri g
    | .tile g h =>
      ((List.range s).flatMap fun c => (List.range s).map fun k => (s * g + k, r.tileA + s * h + c)).filter
        fun e => e.1 < r.tileA
    | .auto x => (List.range r.autoSpan).map fun k => (r.autoSpan * x + k, r.autoSpan * x + k)
  l.filter fun e => e.1 < n && e.2 < n

/-- The inputs a unit's feeds carry, below N_p. -/
def Req.unitInputs (r : Req) (u : QUnit) : List Nat :=
  ((r.unitBaselines u).flatMap fun e => [e.1, e.2]).dedup

/-! ### Channel lists (R131, R180) -/

/-- The channel priority list (R170). -/
def Req.priority (r : Req) : List Nat := if r.chprio = [] then List.range r.nchan else r.chprio

/-- The list of channels keeps the S2 condition: every channel ends before its pages' consume time at half rate (R180). -/
def s2Fits (r : Req) (l : List Nat) : Bool :=
  l.all fun c =>
    let before := (l.filter (· ≤ c)).length
    decide ((before + 1) * 2 ≤ min (c / 64 * 64 + 63) (r.nchan - 1) + 1)

/-- The S2 channel list, in plate order (R180). -/
def Req.s2List (r : Req) : List Nat :=
  let l := r.priority.foldl (fun l c => if s2Fits r (c :: l) then c :: l else l) []
  (List.range r.nchan).filter l.contains

/-! ### Pages, slots and channels (R80, R82, R92, R98, R176, R177) -/

/-- P_t: samples of a page. -/
def Req.pt (r : Req) : Nat := 8 * r.lf
/-- Pages per input and group in a sheet. -/
def Req.pagesPer (r : Req) : Nat := r.ks / r.pt
/-- Pages of a sheet. -/
def Req.sheetPages (r : Req) : Nat := r.ninput * r.groups * r.pagesPer
/-- P_s: pages per input that one sub-block reads. -/
def Req.ps (r : Req) : Nat := 4096 / r.pt
/-- GiB. -/
def gib : Nat := 2 ^ 30

/-- Start SFN of the page span that contains `f`. -/
def Req.pageOf (r : Req) (f : Sfn) : Sfn :=
  let s := r.sheetOf f
  s + BitVec.ofNat 48 ((f - s).toNat / r.pt * r.pt)

/-- Index k of a page in its sheet, from its start SFN. -/
def Req.pageIdx (r : Req) (a : Sfn) : Nat := (a - r.sheetOf a).toNat / r.pt

/-- Memory channel of page (p, g, k) (R177). -/
def Req.pageChan (r : Req) (p g k : Nat) : Nat := (r.ps * p + k + 5 * g) % 40

/-- The page's key as one number. -/
def pageKey (a : Sfn) (p g : Nat) : Nat := (a.toNat * 8192 + p) * 16 + g

/-- Sheet-buffer size in GiB: 1.125 sheets, rounded up (R92). -/
def Req.bufGiB0 (r : Req) : Nat := (r.sheetPages * 32768 * 9 + 8 * gib - 1) / (8 * gib)

/-- Capture reserve: slots per memory channel (R98). -/
def Req.rsvSlots (r : Req) : Nat := r.capgib * gib / 32768 / 40

/-- Hatch cycles after the first sub-block starts at which channel number `n` of the order has ended sub-block `m`. -/
def Plate.runEnd (p : Plate) (n m : Nat) : Nat := (n * p.req.subs + m + 1) * p.passes * 4160

/-- Samples from a sheet's completion to the end of the run that reads page k of group g last (R90), the first sub-block
being staged in 22 µs (R86). -/
def Plate.consumeLag (p : Plate) (g k : Nat) : Nat :=
  let n := min (64 * g + 63) (p.req.nchan - 1)
  let ns := 22000 + (p.runEnd n (k * p.req.pt / 4096) + 2) / 3
  (ns * p.req.fch + 256 * 10 ^ 9 - 1) / (256 * 10 ^ 9)

/-- Consume time of page k of group g of the sheet at `s` (R90, R297). -/
def Plate.consumeAt (p : Plate) (s : Sfn) (g k : Nat) : Sfn :=
  let r := p.req
  if r.corr then s + BitVec.ofNat 48 (r.ks + r.w + p.consumeLag g k)
  else s + BitVec.ofNat 48 ((k + 1) * r.pt + r.w)

/-- Assignment time of page k of the sheet at `s` (R85). -/
def Req.assignAt (r : Req) (s : Sfn) (k : Nat) : Sfn :=
  s + BitVec.ofNat 48 (k * r.pt) - BitVec.ofNat 48 (r.earlyB * r.lf)

/-- Guaranteed retention of a buffer of `slots` page indexes per group (R90), by one sheet of the periodic schedule:
when index k of the sheet at 0 is assigned, the consumed chunks (one group, one index) still held are the oldest data
that the buffer has room for; the chunk overwritten is the oldest of them. Times in samples, sheet starts at 0; the sheet
before starts at −K_s. -/
def Plate.retention (p : Plate) (chunks : Nat) : Int :=
  let r := p.req
  let ks : Int := r.ks
  let pt : Int := r.pt
  let per := r.pagesPer
  let consumed := fun (sheet : Int) (g k : Nat) (t : Int) =>
    let e : Int := if r.corr then sheet + ks + r.w + p.consumeLag g k else sheet + ((k : Int) + 1) * pt + r.w
    decide (e ≤ t)
  (List.range per).foldl (fun (best : Int) kn =>
    let t : Int := kn * pt - r.earlyB * r.lf
    -- chunks not yet consumed at t, of the two sheets before and of this one
    let live := [-(2 * ks), -ks, 0].foldl (fun n s =>
      n + ((List.range r.groups).map fun g => ((List.range per).filter fun (k : Nat) =>
        decide (s + (k : Int) * pt - r.earlyB * r.lf < t) && !consumed s g k t).length).sum) 0
    -- consumed chunks still held, newest data first: `room` of them; the next newest has just been overwritten
    let room := chunks - live - r.groups
    let held := [0, -ks, -(2 * ks)].flatMap fun s => (List.range per).reverse.flatMap fun (k : Nat) =>
      (List.range r.groups).reverse.filterMap fun (g : Nat) =>
        if decide (s + (k : Int) * pt < t) && consumed s g k t then some (s + ((k : Int) + 1) * pt) else none
    match held[room]? with
    | some endT => min best (t - endT)
    | none => best) (3 * ks)

/-- The sheet buffer in GiB after R92: enlarged until the retention holds `need` samples, `room` times at most. -/
def Plate.bufGiB (p : Plate) (need : Nat) : Nat → Nat → Nat
  | 0, n => n
  | room + 1, n =>
    let chunks := n * gib / 32768 / p.req.ninput
    if (need : Int) ≤ p.retention chunks then n else Plate.bufGiB p need room (n + 1)

/-- Bytes of the visibility data of one record buffer (R145). -/
def Req.visData (r : Req) : Nat := r.nplane * r.nchan * r.nbl * r.visBytes

/-- The visibility region in GiB: two buffers, to the nearest GiB and at least one; what exceeds it counts against the
records region (R152, R176). -/
def Req.visGiB (r : Req) : Nat := if r.nbl = 0 then 0 else max 1 ((2 * r.visData + gib / 2) / gib)

/-- The plates-and-tables region and the records-and-staging region in GiB. -/
def tablesGiB : Nat := 2
/-- The records-and-staging region in GiB. -/
def recordsGiB : Nat := 4

/-! ### The record buffer (R152, R155, R157, R179) -/

/-- SATMAX in force (R179, R298). -/
def Req.satMax (r : Req) : Nat :=
  if r.nbl = 0 then 0 else if r.satmax = 0 ∧ r.vfmt = 0 then 65536 else r.satmax

/-- META_SIZE. -/
def Req.metaSize (r : Req) : Nat := roundUp (0x2000 + 32 * r.ninput) 4096
/-- VIS_OFF. -/
def Req.visOff (r : Req) : Nat := 4096 + r.metaSize
/-- VIS_SIZE. -/
def Req.visSize (r : Req) : Nat := roundUp r.visData 4096
/-- FLAG_OFF. -/
def Req.flagOff (r : Req) : Nat := r.visOff + r.visSize
/-- Bytes of the channel table. -/
def Req.chanTable (r : Req) : Nat := if r.nbl = 0 then 0 else 16 * r.nchan
/-- FLAG_SIZE. -/
def Req.flagSize (r : Req) : Nat :=
  roundUp (r.chanTable + 16 * r.ninput + roundUp (4 * r.reamLen * r.ninput) 16 + 16 * r.satMax) 4096
/-- Bytes of a record buffer. -/
def Req.recSize (r : Req) : Nat := r.flagOff + r.flagSize

/-- Index of a canonical baseline in the visibility section (R146, R170). -/
def Req.visIndex (r : Req) (b : Nat) : Nat := if r.order = 1 then (r.perm[b]?).getD b else b

end Sys2Proof.Machine
end

