-- ==== Sys2Proof/Machine/Dkl.lean ====
section
/-! DEFINITION. The deckle engine: page slots, couching, the corner turn, capture pins and records (R80 to R108, R306,
R307). -/

namespace Sys2Proof.Machine

/-! ### Slots (R82, R176, R177) -/

/-- Memory channel of a 32 KiB block (R343). -/
def blockChan (n : Nat) : Nat := n % 40
/-- Row of a 32 KiB block in every bank of its channel (R343). -/
def blockRow (n : Nat) : Nat := n / 40 / 2

/-- A block meets a row range that the plate's fault map excludes. -/
def Plate.excluded (p : Plate) (n : Nat) : Bool :=
  p.excl.any fun e => e.chan == blockChan n && decide (e.row ≤ blockRow n ∧ blockRow n < e.row + e.count)

/-- The slots of channel `c` among the blocks `[lo, hi)`, in ascending address (R176). -/
def Plate.chanBlocks (p : Plate) (lo hi c : Nat) : List Nat :=
  ((List.range ((hi - lo) / 40 + 2)).map fun j => (lo / 40 + j) * 40 + c).filter fun n =>
    decide (lo ≤ n ∧ n < hi) && !p.excluded n

/-- Blocks of the sheet buffer. -/
def Plate.bufBlocks (p : Plate) : Nat := p.buf * 32768
/-- The initial queue of a channel. -/
def Plate.queue (p : Plate) (c : Nat) : List Nat := p.chanBlocks 0 p.bufBlocks c
/-- The reserve list of a channel (R97, R98). -/
def Plate.reserve (p : Plate) (c : Nat) : List Nat :=
  (p.chanBlocks p.bufBlocks (p.bufBlocks + p.req.capgib * 32768) c).take p.req.rsvSlots
/-- `BUFSLOTS`. -/
def Plate.bufSlots (p : Plate) : Nat := ((List.range 40).map fun c => (p.queue c).length).sum

/-- Memory channel of a page. -/
def Req.chanOf (r : Req) (a : Sfn) (p g : Nat) : Nat := r.pageChan p g (r.pageIdx a)

/-- The page at a key. -/
def Dev.pageAt (d : Dev) (a : Sfn) (p g : Nat) : Option PageIn := Tab.get none d.dkl.pages (pageKey a p g)

/-- The page takes a value. -/
def Dev.setPageIn (d : Dev) (x : PageIn) : Dev :=
  { d with dkl.pages := Tab.set none d.dkl.pages (pageKey x.at_ x.p x.g) (some x) }

/-- Trigger IDs that pin a page. -/
def Dev.pinsOf (d : Dev) (key : Nat) : List (BitVec 16) := Tab.get [] d.dkl.pins key

/-- The active plate, or the smallest plate. -/
def Dev.plate (d : Dev) : Plate := d.plt.active.getD {}

/-- The plate of the sheet that contains `f`. -/
def Dev.plateOf (d : Dev) (f : Sfn) : Plate := (d.plateAt f).getD {}

/-- Of two consumed pages, the one whose slot is reused first: the oldest data, then the lower input, then the lower
group (R90). -/
def PageIn.before (x y : PageIn) : Bool :=
  after y.at_ x.at_ || (x.at_ == y.at_ && (decide (x.p < y.p) || (x.p == y.p && decide (x.g < y.g))))

/-- The consumed page whose slot channel `c` reuses next. -/
def Dev.oldest (d : Dev) (r : Req) (c : Nat) : Option PageIn :=
  (d.dkl.pages.filterMap (·.2)).foldl (fun best x =>
    if x.consumed && !x.out && r.chanOf x.at_ x.p x.g == c then
      match best with
      | some b => if x.before b then some x else best
      | none => some x
    else best) none

/-- The substitution order of a channel (R97). -/
def Dev.substOrder (d : Dev) (pl : Plate) (c : Nat) : List Nat := (Tab.get none d.dkl.subst c).getD (pl.reserve c)

/-- The substitution order of a channel takes a value. -/
def Dev.setSubst (d : Dev) (c : Nat) (l : List Nat) : Dev := { d with dkl.subst := Tab.set none d.dkl.subst c (some l) }

/-- The slot the choreography gives the next page of channel `c` (R90, R97). -/
def Dev.takeSlot (d : Dev) (pl : Plate) (c : Nat) : Option (Nat × Dev) :=
  let q := pl.queue c
  let n := Tab.get 0 d.dkl.taken c
  match q[n]? with
  | some s => some (s, { d with dkl.taken := Tab.set 0 d.dkl.taken c (n + 1) })
  | none =>
    match d.oldest pl.req c with
    | none => none
    | some x =>
      let key := pageKey x.at_ x.p x.g
      if (d.pinsOf key).isEmpty then
        some (x.slot, { d with dkl.pages := Tab.set none d.dkl.pages key none })
      else
        match d.substOrder pl c with
        | [] => none
        | s :: t => some (s, (d.setPageIn { x with out := true }).setSubst c t)

/-- The page (p, g) that starts at `a` is assigned its slot (R85, R90). -/
def Dev.assignPage (d : Dev) (a : Sfn) (p g : Nat) : Dev :=
  let pl := d.plateOf a
  match d.pageAt a p g with
  | some _ => d
  | none =>
    match d.takeSlot pl (pl.req.chanOf a p g) with
    | some (s, d) => d.setPageIn { at_ := a, p := p, g := g, slot := s }
    | none => d

/-- A page of the run that starts at `a`: on the page grid, at or after S0, before B_last. -/
def Dev.pageInRun (d : Dev) (a : Sfn) (p g : Nat) : Bool :=
  let r := d.reqAt a
  d.run.live && decide (p < r.ninput ∧ g < r.groups) && atOrAfter a d.run.s0 && (a - d.run.s0).toNat % r.pt == 0
  && (match d.run.bLast with | some b => after b a | none => true)

/-- PAGE_SLOT_ASSIGN: at its assignment time a page of the run is assigned its slot. -/
def Dev.pageSlotAssign (d : Dev) (a : Sfn) (p g : Nat) : Dev :=
  let r := d.reqAt a
  if d.pageInRun a p g && atOrAfter d.time.sfn (a - BitVec.ofNat 48 (r.earlyB * r.lf)) then d.assignPage a p g else d

/-- PAGE_CONSUME: at its consume time a page's slot is freed (R90). -/
def Dev.pageConsume (d : Dev) (a : Sfn) (p g : Nat) : Dev :=
  match d.pageAt a p g with
  | none => d
  | some x =>
    let pl := d.plateOf a
    if atOrAfter d.time.sfn (pl.consumeAt (pl.req.sheetOf a) g (pl.req.pageIdx a)) then
      d.setPageIn { x with consumed := true }
    else d

/-! ### Couching (R83, R84) -/

/-- The 64 bytes of channel `c` in a frame's payload (R48, R83). -/
def strip (bs : Nat) (payload : List Byte) (c : Nat) : List Byte :=
  if bs = 1 then (List.range 64).map fun t => (payload[64 * t + c]?).getD 0
  else (List.range 32).flatMap fun t => [(payload[128 * t + 2 * c]?).getD 0, (payload[128 * t + 2 * c + 1]?).getD 0]

/-- An admitted frame of input index `p`, group `g` and SFN `f` is couched. -/
def Dev.couch (d : Dev) (p g : Nat) (f : Sfn) (fr : List Byte) : Dev :=
  let r := d.reqAt f
  let a := r.pageOf f
  let d := d.assignPage a p g
  match d.pageAt a p g with
  | none => d
  | some x =>
    let j := (f - a).toNat / r.lf
    let pay := (fr.drop 32).take 4096
    let d := if x.valid = 0 then d.bump pgDKL 0x100 else d
    let d := d.setPageIn { x with valid := x.valid ||| BitVec.ofNat 8 (2 ^ j) }
    (List.range 64).foldl (fun d c => d.putBytes (x.slot * 32768 + 512 * c + 64 * j) (strip r.bs pay c)) d

/-! ### The corner turn (R86, R87, R117, R118) -/

/-- Passes of one staged half: P, or one for each slice of AUTO (R135). -/
def Plate.halfPasses (p : Plate) : Nat := if p.req.mode = 8 then 1 else p.passes

/-- The sub-block or slice that the hatch array is at: its tag and its sheet. -/
def Dev.hatTag (d : Dev) : Option (StageTag × DoneSheet) :=
  match d.hat.sheet, d.hat.chans with
  | some s, c :: _ => some ((s.at_, c, d.hat.sub, if (d.plateOf s.at_).req.mode = 8 then d.hat.pass else 0), s)
  | _, _ => none

/-- What follows a sub-block or slice in the corner-turn program. -/
def Dev.nextTag (d : Dev) (t : StageTag) (s : DoneSheet) : Option (StageTag × DoneSheet) :=
  let r := (d.plateOf s.at_).req
  let (_, c, m, k) := t
  if k + 1 < r.slices then some ((s.at_, c, m, k + 1), s)
  else if m + 1 < r.subs then some ((s.at_, c, m + 1, 0), s)
  else
    match d.hat.chans.drop 1 with
    | c' :: _ => some ((s.at_, c', 0, 0), s)
    | [] => (d.hat.queue.find? fun q => !q.2.isEmpty).bind fun q => q.2.head?.map fun c' => ((q.1.at_, c', 0, 0), q.1)

/-- The first sub-block of a sheet that the hatch array has not begun. -/
def Dev.firstTag (d : Dev) : Option (StageTag × DoneSheet) :=
  (d.hat.queue.find? fun q => !q.2.isEmpty).bind fun q => q.2.head?.map fun c => ((q.1.at_, c, 0, 0), q.1)

/-- A staging half. -/
def DklSt.halfOf (k : DklSt) (b : Bool) : Half := if b then k.half1 else k.half0
/-- A staging half takes a value. -/
def DklSt.setHalf (k : DklSt) (b : Bool) (h : Half) : DklSt := if b then { k with half1 := h } else { k with half0 := h }

/-- The half that DKL stages into now, and what it stages: the hatch array's sub-block until it has been started, then
the one after it. -/
def Dev.stageTarget (d : Dev) : Option (Bool × StageTag × DoneSheet) :=
  let u := d.hat.useHalf
  match d.hatTag with
  | none => d.firstTag.map fun x => (u, x.1, x.2)
  | some (t, s) =>
    let h := d.dkl.halfOf u
    let begun := d.hat.pass % (d.plateOf s.at_).halfPasses != 0
    if !begun && !(h.tag == some t && h.full) then some (u, t, s)
    else (d.nextTag t s).map fun x => (!u, x.1, x.2)

/-- Inputs of a slice of a sub-block. -/
def Req.sliceInputs (r : Req) (k : Nat) : Nat := min r.sliceSpan (r.ninput - k * r.sliceSpan)

/-- Position of the byte `o` of sample `t` of the `i`-th input of a half (R117). -/
def Req.halfPos (r : Req) (n i t o : Nat) : Nat := (t * n + i) * r.bs + o

/-- What staging makes of one run of an input: its position list and bytes, and its parts staged as zero. A part is 64
bytes of the run (R87). -/
def Dev.stageRun (d : Dev) (r : Req) (s : DoneSheet) (c m p run : Nat) (poison : Bool) :
    List Byte × Nat × Nat :=
  let g := c / 64
  let k := m * r.ps + run
  let a := s.at_ + BitVec.ofNat 48 (k * r.pt)
  let dead := (Tab.get {} s.flags p).dead
  if dead then (List.replicate 512 0, 0, 1)
  else
    let bits := (List.range 8).map fun j => s.valid.contains (r.bitmapBit p g s.at_ (a + BitVec.ofNat 48 (j * r.lf)))
    let zeros := (bits.filter fun b => !b).length
    if poison then (List.replicate 512 0, zeros, 0)
    else
      let part := fun (j : Nat) (b : Bool) =>
        if !b then List.replicate 64 (0 : Byte)
        else match d.pageAt a p g with
          | some x => d.bytes (x.slot * 32768 + 512 * (c % 64) + 64 * j) 64
          | none => (List.range 64).map fun i => Config.freeByte i
      ((List.range 8).flatMap fun j => part j ((bits[j]?).getD false), zeros, 0)

/-- Input `i` of a slice is staged into a half: R87 for each of its runs. -/
def Dev.stageInput (d : Dev) (b : Bool) (r : Req) (s : DoneSheet) (c m k i : Nat) (poison : List (Nat × Nat)) : Dev :=
  let n := r.sliceInputs k
  let p := k * r.sliceSpan + i
  (List.range r.ps).foldl (fun d run =>
    let bad := poison.contains (p, run)
    let (l, zeros, dead) := d.stageRun r s c m p run bad
    let d := if zeros = 0 then d else d.bump pgDKL 0x108 zeros
    let d := if dead = 0 then d else d.bump pgDKL 0x110 dead
    let d := if bad && dead == 0 then d.bump pgDKL 0x118 else d
    let h := d.dkl.halfOf b
    let bytes := (l.zipIdx).foldl (fun t e =>
      Tab.set none t (r.halfPos n i (run * r.pt + e.2 / r.bs) (e.2 % r.bs)) (some e.1)) h.bytes
    { d with dkl := d.dkl.setHalf b { h with bytes := bytes } }) d

/-- A byte of a staging half; one never written since reset is unspecified (R89). -/
def Half.byte (h : Half) (b : Bool) (i : Nat) : Byte :=
  match Tab.get none h.bytes i with
  | some x => x
  | none => Config.freeByte (2 * i + b2n b)

/-! ### The lead and panic (R88) -/

/-- `DKL.PANICMARK`, KiB: a quarter of a sub-block (R177). -/
def Req.panicMark (r : Req) : Nat := if r.corr then 4096 * r.ninput * r.bs / 4 / 1024 else 0

/-- The lead of the corner-turn port after `k` passes of the current sub-block, in bytes. -/
def Dev.lead (d : Dev) (pl : Plate) (k : Nat) : Int :=
  let r := pl.req
  let size : Nat := 4096 * min r.ninput r.sliceSpan * r.bs
  let h := d.dkl.halfOf (!d.hat.useHalf)
  let want := (d.hatTag.bind fun x => d.nextTag x.1 x.2).map (·.1)
  let have' : Nat := if want.isNone then size
    else if h.tag = want then (if h.full then size else 4096 * h.count * r.bs) else 0
  (have' : Int) - (size * k / max 1 pl.halfPasses : Nat)

/-- Panic is raised below the mark and withdrawn at twice the mark. -/
def Dev.panicCheck (d : Dev) (pl : Plate) (k : Nat) : Dev :=
  let m : Int := pl.req.panicMark * 1024
  let l := d.lead pl k
  { d with dkl.panic := if l < m then true else if 2 * m ≤ l then false else d.dkl.panic }

/-- A record that closes is that of ream `k`. -/
def Closing.of (k : Nat) (o : Option Closing) : Bool := match o with | some c => c.idx == k | none => false

/-- The gathering of a ream: in the record that closes or waits, else among the open reams. -/
def Dev.gather (d : Dev) (ream : Nat) : Gather :=
  match d.acc.closing.filter (·.idx == ream), d.acc.waits.filter (·.idx == ream) with
  | some c, _ => c.g
  | none, some c => c.g
  | none, none => Tab.get {} d.acc.gath ream

/-- The gathering of a ream is updated, wherever it is. -/
def Dev.modGather (d : Dev) (ream : Nat) (f : Gather → Gather) : Dev :=
  if Closing.of ream d.acc.closing || Closing.of ream d.acc.waits then
    let upd := fun (c : Closing) => if c.idx = ream then { c with g := f c.g } else c
    { d with acc.closing := d.acc.closing.map upd, acc.waits := d.acc.waits.map upd }
  else { d with acc.gath := Tab.set {} d.acc.gath ream (f (Tab.get {} d.acc.gath ream)) }

/-- ACC's account of a channel in a sheet gains bits of R156 (bit 8: data delivered). -/
def Dev.markChan (d : Dev) (ream idx chan bits : Nat) : Dev :=
  let key := idx * 1024 + chan
  d.modGather ream fun g => { g with marks := Tab.set 0 g.marks key (Tab.get 0 g.marks key ||| bits) }

/-- CORNER_TURN_STAGE: the inputs of the present slice up to `upto` are staged; `poison` names the runs that arrive
marked poisoned. -/
def Dev.cornerTurnStage (d : Dev) (upto : Nat) (poison : List (Nat × Nat)) : Dev :=
  if d.sys.state = .frozen ∨ 3 ≤ d.pwr.level then d
  else
    match d.stageTarget with
    | none => d
    | some (b, t, s) =>
      let pl := d.plateOf s.at_
      let r := pl.req
      let (_, c, m, k) := t
      let n := r.sliceInputs k
      let h := d.dkl.halfOf b
      let have' := if h.tag = some t then h.count else 0
      let upper := max have' (min upto n)
      let d := { d with dkl := d.dkl.setHalf b { h with tag := some t, count := have', full := false } }
      let d := (List.range (upper - have')).foldl (fun d i => d.stageInput b r s c m k (have' + i) poison) d
      let h := d.dkl.halfOf b
      let d := { d with dkl := d.dkl.setHalf b { h with count := upper, full := decide (upper = n) } }
      let hit := poison.any fun e => !(Tab.get {} s.flags e.1).dead && decide (k * r.sliceSpan + have' ≤ e.1 ∧ e.1 < k * r.sliceSpan + upper)
      let d := if hit then d.markChan s.ream s.idx c 0x10 else d
      d.panicCheck pl (d.hat.pass % max 1 pl.halfPasses)

/-! ### Capture (R95 to R100, R306, R307) -/

/-- Start SFNs of the page spans of a request. -/
def Cap.spans (c : Cap) (r : Req) : List Sfn := (List.range c.nspan).map fun i => c.first + BitVec.ofNat 48 (i * r.pt)

/-- The pages of a request in list order: span, input, group (R99). -/
def Cap.pages (c : Cap) (r : Req) : List (Sfn × Nat × Nat) :=
  (c.spans r).flatMap fun a => c.inputs.flatMap fun p => c.groups.map fun g => (a, p, g)

/-- Pages pinned in memory channel `c`, each charged once (R98). -/
def Dev.charged (d : Dev) (r : Req) (c : Nat) : Nat :=
  (d.dkl.pins.filter fun e =>
    let a : Sfn := BitVec.ofNat 48 (e.1 / 131072)
    r.chanOf a (e.1 / 16 % 8192) (e.1 % 16) == c).length

/-- `RSVFREE` of a channel. -/
def Dev.rsvFree (d : Dev) (c : Nat) : Nat := d.req.rsvSlots - d.charged d.req c

/-- `RSVMIN`. -/
def Dev.rsvMin (d : Dev) : Nat := (List.range 40).foldl (fun m c => min m (d.rsvFree c)) d.req.rsvSlots

/-- RSVLOW is raised when `RSVMIN` falls below `RSVLOWMARK` (R107). -/
def Dev.rsvCheck (d : Dev) : Dev :=
  let low := decide (d.rsvMin < (d.reg (bar pgDKL 0x1054)).toNat % 65536)
  let d' := { d with dkl.low := low }
  if low && !d.dkl.low then d'.raise pgDKL 0x8 else d'

/-- A request can be admitted: the reserve of every channel holds its new pages, no page gains a 16th pin, and in
CAPTURE its stream ID pins nothing (R96, R98, R307). -/
def Dev.capFits (d : Dev) (r : Req) (c : Cap) : Bool :=
  let pages := c.pages r
  let key := fun (x : Sfn × Nat × Nat) => pageKey x.1 x.2.1 x.2.2
  let fresh := pages.filter fun x => (d.pinsOf (key x)).isEmpty
  ((List.range 40).all fun ch =>
    decide ((fresh.filter fun x => r.chanOf x.1 x.2.1 x.2.2 == ch).length + d.charged r ch ≤ r.rsvSlots))
  && (pages.all fun x => decide ((d.pinsOf (key x)).length < 15))
  && !(r.mode == 9 && d.dkl.pins.any fun e => e.2.contains c.id)

/-- A capture request is admitted or refused as a whole (R96); the answer tells which. -/
def Dev.capRequest (d : Dev) (r : Req) (c : Cap) : Bool × Dev :=
  if d.capFits r c then
    let keys := (c.pages r).map fun x => pageKey x.1 x.2.1 x.2.2
    let new := (keys.filter fun k => (d.pinsOf k).isEmpty).length
    let pins := keys.foldl (fun t k => Tab.put t k (Tab.get [] t k ++ [c.id])) d.dkl.pins
    let d := { d with dkl.pins := pins, dkl.caps := d.dkl.caps ++ [c] }
    (true, ((if new = 0 then d else d.bump pgDKL 0x130 new)).rsvCheck)
  else
    let d := { d with dkl.caps := d.dkl.caps ++ [{ c with refused := true }] }
    (false, (d.bump pgDKL 0x138).raise pgDKL 0x2)

/-- First page span, and page spans, of the window `t − pre` to `t + post − 1` (R95). -/
def Req.spanOf (r : Req) (t : Sfn) (pre post : Nat) : Sfn × Nat :=
  let first := r.pageOf (t - BitVec.ofNat 48 pre)
  let n := if pre + post = 0 then 0
    else (r.pageOf (t + BitVec.ofNat 48 post - 1) - first).toNat / r.pt + 1
  (first, n)

/-- A request's record may be written: it was refused, its last page's window has closed, or the run has ended. -/
def Dev.capDue (d : Dev) (r : Req) (c : Cap) : Bool :=
  c.refused || !d.run.live || c.cut.isSome || d.windowClosed r (c.first + BitVec.ofNat 48 (c.nspan * r.pt))

/-- One list entry (R99). -/
def Dev.listEntry (d : Dev) (groups : List Nat) (x : Sfn × Nat × Nat) : List Byte :=
  let y := d.pageAt x.1 x.2.1 x.2.2
  let slot := match y with | some p => p.slot | none => 0
  let v := match y with | some p => p.valid.toNat | none => 0
  let gi := (groups.findIdx? (· == x.2.2)).getD 0
  leBytes 8 (slot + x.2.1 * 2 ^ 24 + gi * 2 ^ 37 + v * 2 ^ 41)

/-- The 64 bytes of a capture record (R99). A refused request lists no page span. -/
def Cap.record (c : Cap) (r : Req) (status listIdx : Nat) : List Byte :=
  let ns := if c.refused then 0 else c.nspan
  padTo 64 (leBytes 2 c.id.toNat ++ [BitVec.ofNat 8 status, BitVec.ofNat 8 r.sfmt] ++ leBytes 6 c.t.toNat
    ++ leBytes 6 c.first.toNat ++ leBytes 2 c.inputs.length ++ leBytes 2 c.groups.length ++ leBytes 4 ns
    ++ leBytes 4 listIdx ++ leBytes 4 (c.inputs.length * c.groups.length * ns) ++ leBytes 4 c.pre ++ leBytes 4 c.post)

/-- Entries in the list ring. -/
def listRing : Nat := 2 ^ 18

/-- Of the unread records' entries, oldest first, the `n` oldest are overwritten in the list ring (R105). -/
def dropEntries : Nat → List Nat → List Nat
  | _, [] => []
  | n, k :: t => (k - n) :: dropEntries (n - k) t

/-- CAPTURE_RECORD_WRITE: the record of request `id` is written into the ring (R99, R105). -/
def Dev.captureRecordWrite (d : Dev) (id : BitVec 16) : Dev :=
  match d.dkl.caps.find? (·.id == id) with
  | none => d
  | some c =>
    let r := d.reqAt c.first
    if d.sys.state = .frozen ∨ 5 ≤ d.pwr.level ∨ !d.capDue r c then d
    else
      let e := c.first + BitVec.ofNat 48 (c.nspan * r.pt)
      let trunc := !c.refused && (match c.cut with | some s => after e s | none => !d.run.live && !d.windowClosed r e)
      let pages := if c.refused then [] else c.pages r
      let li := d.dkl.listIdx
      let d := (pages.zipIdx).foldl (fun d x =>
        d.putBytes (loadedAddr pgDKL 0x1048 + (li + x.2) % listRing * 8) (d.listEntry c.groups x.1)) d
      let d := d.putBytes (loadedAddr pgDKL 0x1038 + 64 * d.dkl.capwr.toNat)
        (c.record r (if c.refused then 1 else if trunc then 2 else 0) li)
      let unread := d.dkl.unread ++ [pages.length]
      let wr := d.dkl.capwr + 1
      -- the ring was full: the oldest unread record is discarded
      let full := wr == d.dkl.caprd
      let lostE := unread.sum - listRing
      let d := { d with
        dkl.capwr := wr, dkl.caprd := if full then d.dkl.caprd + 1 else d.dkl.caprd
        dkl.unread := (dropEntries lostE unread).drop (b2n full)
        dkl.listIdx := (li + pages.length) % listRing
        dkl.caps := d.dkl.caps.erase c }
      let lost := b2n full + lostE
      let d := if lost = 0 then d else d.bump pgDKL 0x148 lost
      d.raise pgDKL 0x1

/-- Page spans that couching has finished when STOP or QUIESCE ends it at `s`: requests are cut there (R99). -/
def Dev.cutCaptures (d : Dev) (s : Sfn) : Dev :=
  { d with dkl.caps := d.dkl.caps.map fun c => if c.refused then c else { c with cut := some (c.cut.getD s) } }

/-- What breaks a write of `RELEASE` (R100, R108). -/
def Dev.dklReleaseErrs (d : Dev) (v : Word) : List Code :=
  let id : BitVec 16 := v.setWidth 16
  when' (v >>> 16 ≠ 0) eRSVD
  ++ (if d.dkl.caps.any (·.id == id) then [eBUSY]
      else when' (!d.dkl.pins.any fun e => e.2.contains id) 0x10)

/-- DKL_RELEASE: a capture's charge comes off every page (R100). -/
def Dev.dklRelease (d : Dev) (v : Word) : Dev :=
  d.guard pgDKL 0x1050 (d.dklReleaseErrs v) fun d =>
    let id : BitVec 16 := v.setWidth 16
    let keys := (d.dkl.pins.filter fun e => e.2.contains id).map (·.1)
    let d := keys.foldl (fun d k =>
      let rest := (d.pinsOf k).filter (· != id)
      let d := { d with dkl.pins := Tab.set [] d.dkl.pins k rest }
      if !rest.isEmpty then d
      else
        let d := d.bump pgDKL 0x140
        match Tab.get none d.dkl.pages k with
        | some x =>
          if x.out then
            let c := d.req.chanOf x.at_ x.p x.g
            ({ d with dkl.pages := Tab.set none d.dkl.pages k none }).setSubst c (d.substOrder d.plate c ++ [x.slot])
          else d
        | none => d) d
    { d with dkl.low := decide (d.rsvMin < (d.reg (bar pgDKL 0x1054)).toNat % 65536) }

/-- CAPRD_WRITE: the host's read index advances to an index between `CAPRD` and `CAPWR` (R108). -/
def Dev.caprdWrite (d : Dev) (v : Word) : Dev :=
  let n : BitVec 12 := v.setWidth 12
  let bad := decide ((d.dkl.capwr - d.dkl.caprd).toNat < (n - d.dkl.caprd).toNat)
  d.guard pgDKL 0x1044 (when' (v >>> 12 ≠ 0) eRSVD ++ when' bad 0x11) fun d =>
    { d with dkl.caprd := n, dkl.unread := d.dkl.unread.drop (n - d.dkl.caprd).toNat }

/-- In CAPTURE, the stream request of a page index whose last time block's window has closed (R306), with its record;
`a` is the page's first SFN. -/
def Dev.streamRequest (d : Dev) (a : Sfn) : Dev :=
  let r := d.reqAt a
  let c : Cap := { id := d.dkl.stream, t := a, pre := 0, post := r.pt, inputs := List.range r.ninput,
                   groups := List.range r.groups, first := a, nspan := 1 }
  let id := d.dkl.stream
  let d := ({ d with dkl.stream := id + 1, dkl.streamAt := some (a + BitVec.ofNat 48 r.pt) }).capRequest r c |>.2
  d.captureRecordWrite id

/-- The stream requests due now, `fuel` at most. -/
def Dev.streamDue (d : Dev) : Nat → Dev
  | 0 => d
  | fuel + 1 =>
    let a := d.dkl.streamAt.getD d.run.s0
    let r := d.reqAt a
    if d.run.live && r.mode == 9 && (match d.run.bLast with | some b => after b a | none => true)
        && d.windowClosed r (a + BitVec.ofNat 48 r.pt)
    then (d.streamRequest a).streamDue fuel else d

/-- At a START the pages of an earlier run are all consumed, and pins, reservations and substitutions are kept (R103);
under a new buffer layout the slots start afresh (R94). -/
def Dev.dklStart (d : Dev) (sameLayout : Bool) : Dev :=
  let d := { d with dkl.stream := 0, dkl.streamAt := none, dkl.half0.tag := none, dkl.half0.full := false,
                    dkl.half1.tag := none, dkl.half1.full := false, dkl.panic := false }
  if sameLayout then
    { d with dkl.pages := d.dkl.pages.map fun e => (e.1, e.2.map fun x => { x with consumed := true }) }
  else { d with dkl.pages := [], dkl.taken := [], dkl.subst := [] }

end Sys2Proof.Machine
end

