-- ==== Sys2Proof/Machine/Acc.lean ====
section
/-! DEFINITION. The accumulator: the long-term add, the ream record, closing, release and loss (R142 to R167). -/

namespace Sys2Proof.Machine

/-! ### The add (R145, R147, R148) -/

/-- The extremes of a component of `w` bits. -/
def compMax (w : Nat) : Int := 2 ^ (w - 1) - 1
/-- The lower extreme of a component of `w` bits. -/
def compMin (w : Nat) : Int := -(2 ^ (w - 1))

/-- The add of one component (R147): `old` is the long-term value, `s` the sheet's sum; the new value, and whether a
saturation is recorded. -/
def addComp (w : Nat) (first corr : Bool) (old s : Int) : Int × Bool :=
  if !first && (old == compMax w || old == compMin w) then (old, false)
  else
    let v := (if first then 0 else old) + (if corr then s else 0)
    if compMax w ≤ v then (compMax w, true) else if v ≤ compMin w then (compMin w, true) else (v, false)

/-- Bits of a component of the long-term store. -/
def Req.compBits (r : Req) : Nat := if r.vfmt = 0 then 32 else 64

/-- Base of a record buffer (R152, R163). -/
def recBase (b : Bool) : Nat := if b then loadedAddr pgACC 0x1018 else loadedAddr pgACC 0x1010

/-- Address of an entry of the visibility section: plane `pl`, channel `c`, index `b` (R145). -/
def Req.visAddr (r : Req) (buf : Bool) (pl c b : Nat) : Nat :=
  recBase buf + r.visOff + ((pl * r.nchan + c) * r.nbl + b) * r.visBytes

/-- A signed little-endian component in device memory. -/
def Dev.readInt (d : Dev) (a n : Nat) : Int := (BitVec.ofNat (8 * n) (leNat (d.bytes a n))).toInt

/-- A signed little-endian component is written. -/
def Dev.writeInt (d : Dev) (a n : Nat) (v : Int) : Dev := d.putBytes a (leBytes n (BitVec.ofInt (8 * n) v).toNat)

/-- A component has become saturated (R150). -/
def Dev.saturate (d : Dev) (r : Req) (s : DoneSheet) (e : SatEnt) : Dev :=
  let d := (d.modGather s.ream fun g =>
    let g := { g with satCnt := g.satCnt + 1, flags := Tab.set 0 g.flags e.chan (Tab.get 0 g.flags e.chan ||| 0x80) }
    if g.sats.length < r.satMax then { g with sats := g.sats ++ [e] } else { g with satUnl := g.satUnl + 1 }).bump pgACC 0x100
  let d := if (d.gather s.ream).satUnl = 0 then d else
    { d with live := Tab.set 0 d.live (bar pgACC 0x108) (BitVec.ofNat 64 (d.gather s.ream).satUnl) }
  if d.acc.satRaised then d else ({ d with acc.satRaised := true }).raise pgACC 0x4

/-- A half of the accumulator store. -/
def HatSt.store (h : HatSt) (b : Bool) : Tab (Int × Int) := if b then h.store1 else h.store0

/-- One component of one entry of a channel's add. -/
def Dev.addOne (d : Dev) (r : Req) (x : AddItem) (pl b : Nat) (imag poisoned : Bool) : Dev :=
  let e := match x.store with | some h => Tab.get (0, 0) (d.hat.store h) (pl * r.nbl + b) | none => (0, 0)
  let n := r.visBytes / 2
  let a := r.visAddr d.acc.buf pl x.chan b + (if imag then n else 0)
  let first := x.sheet.idx == 0
  let (v, satd) := addComp r.compBits first x.store.isSome (if first || poisoned then 0 else d.readInt a n)
    (if imag then e.2 else e.1)
  let d := d.writeInt a n v
  if satd then d.saturate r x.sheet { baseline := b, chan := x.chan, imag := imag, neg := decide (v < 0), plane := pl,
                                      sheet := x.sheet.idx }
  else d

/-- The first `upto` entries of a channel are added, in the order of R147; `poison` names the entries whose long-term
read is poisoned. -/
def Dev.addEntries (d : Dev) (r : Req) (x : AddItem) (upto : Nat) (poison : List Nat) : Dev :=
  if x.store.isNone && x.sheet.idx != 0 then d
  else (List.range (min upto (r.nplane * r.nbl))).foldl (fun d i =>
    let bad := poison.contains i
    (d.addOne r x (i / r.nbl) (i % r.nbl) false bad).addOne r x (i / r.nbl) (i % r.nbl) true bad) d

/-- CHAN, FIRST and LAST of ADDSTAT for an add (R164). -/
def Dev.addWord (d : Dev) (x : AddItem) : Word :=
  at_ 0 x.chan ||| at_ 17 (b2n (x.sheet.idx == 0)) ||| at_ 18 (b2n (x.sheet.idx + 1 == (d.reqAt x.sheet.at_).reamLen))

/-- The item leaves the queue of adds, and data has reached the sheet's account where there was any. -/
def Dev.addDone (d : Dev) (x : AddItem) (bits : Nat) : Dev :=
  let d := { d with acc.adds := d.acc.adds.drop 1
                    acc.addLast := if x.store.isNone then d.acc.addLast else d.addWord x }
  if x.store.isNone then d else d.markChan x.sheet.ream x.sheet.idx x.chan (0x100 ||| bits)

/-- CHANNEL_ADD: the next channel in plate order is added into the long-term store (R147, R148). -/
def Dev.channelAdd (d : Dev) (poison : List Nat) : Dev :=
  match d.acc.adds with
  | [] => d
  | x :: _ =>
    if d.sys.state = .frozen then d
    else
      let r := (d.plateOf x.sheet.at_).req
      let bad := x.store.isSome && x.sheet.idx != 0 && poison.any fun i => decide (i < r.nplane * r.nbl)
      let d := d.addEntries r x (r.nplane * r.nbl) poison
      let d := d.addDone x (if bad then 0x10 else 0)
      let d := if x.store.isSome then d.bump pgACC 0x110 else d
      if bad then d.bump pgACC 0x120 else d

/-- A channel's add ends late: ADDLATE (R144). -/
def Dev.addLate (d : Dev) (x : AddItem) : Dev := ((d.addDone x 0x40).bump pgACC 0x118).raise pgACC 0x8

/-- ADD_WINDOW_EXPIRE: the add of the next channel is cut short after `done` entries (R144); while FROZEN none is added,
and a last sheet's bytes enter the watermark as zeros (R158). -/
def Dev.addWindowExpire (d : Dev) (done : Nat) : Dev :=
  match d.acc.adds with
  | [] => d
  | x :: _ =>
    let r := (d.plateOf x.sheet.at_).req
    let frozen := d.sys.state == .frozen
    let d := if frozen then
        (if x.sheet.idx + 1 = r.reamLen then d.modGather x.sheet.ream fun g => { g with zeroed := g.zeroed ++ [x.chan] } else d)
      else d.addEntries r x (min done (r.nplane * r.nbl - 1)) []
    if x.store.isSome then d.addLate x else d.addDone x 0

/-- The add window of every waiting channel that lies in half `h` of the accumulator store has ended. -/
def Dev.expireHalf (d : Dev) (h : Bool) : Nat → Dev
  | 0 => d
  | fuel + 1 => if d.acc.adds.any (·.store == some h) then (d.addWindowExpire 0).expireHalf h fuel else d

/-! ### What a sheet leaves in the ream's record (R155, R157) -/

/-- A saturating 32-bit field of a table. -/
def tabAdd (t : Tab Nat) (k n : Nat) : Tab Nat := Tab.set 0 t k (satAdd 32 (Tab.get 0 t k) n)

/-- A completed sheet's words, input summary and drop counts join its ream's record. -/
def Dev.accSheet (d : Dev) (s : DoneSheet) : Dev :=
  let n := (d.plateOf s.at_).req.ninput
  d.modGather s.ream fun g =>
    (List.range n).foldl (fun g p =>
      let f := Tab.get {} s.flags p
      let w := f.acc.admitted % 65536 + 2 ^ 16 * b2n f.absent + 2 ^ 17 * b2n f.dead + 2 ^ 18 * b2n f.conflict
      let inp := tabAdd (tabAdd (tabAdd (tabAdd g.inputs (p * 4) (b2n f.dead)) (p * 4 + 1) (b2n f.absent))
        (p * 4 + 2) f.acc.ovf) (p * 4 + 3) f.acc.ndiode
      let drops := (List.range 8).foldl (fun t c => tabAdd t (p * 8 + c) (Tab.get 0 f.acc.drops (c + 8))) g.drops
      { g with words := Tab.set 0 g.words (s.idx * 8192 + p) w, inputs := inp, drops := drops }) g

/-! ### The record's bytes (R153 to R157) -/

/-- FLAGS, SHEETSFULL, SHEETSPART and SHEETSNOT of a channel (R156). -/
def Gather.chanEntry (g : Gather) (r : Req) (c : Nat) : Nat × Nat × Nat × Nat :=
  let ms := (List.range r.reamLen).map fun s => Tab.get 0 g.marks (s * 1024 + c)
  let got := ms.filter fun m => m &&& 0x100 != 0
  let part := got.filter fun m => m &&& 0x72 != 0
  let not' := ms.length - got.length
  let fl := got.foldl (fun a m => a ||| (m &&& 0x72)) (Tab.get 0 g.flags c ||| b2n (decide (0 < not')))
  (fl, got.length - part.length, part.length, not')

/-- The bytes of a saturation list entry. -/
def SatEnt.bytes (e : SatEnt) : List Byte :=
  padTo 16 (leBytes 4 e.baseline ++ leBytes 2 e.chan ++ [BitVec.ofNat 8 (b2n e.imag + 2 * b2n e.neg + 4 * e.plane), 0]
    ++ leBytes 4 e.sheet)

/-- The flag section (R155). -/
def Gather.flagBytes (g : Gather) (r : Req) : List Byte :=
  let chans := if r.nbl = 0 then [] else (List.range r.nchan).flatMap fun c =>
    let (f, a, b, n) := g.chanEntry r c
    leBytes 4 f ++ leBytes 4 a ++ leBytes 4 b ++ leBytes 4 n
  let inps := (List.range r.ninput).flatMap fun p => (List.range 4).flatMap fun k => leBytes 4 (Tab.get 0 g.inputs (p * 4 + k))
  let words := (List.range r.reamLen).flatMap fun s => (List.range r.ninput).flatMap fun p =>
    leBytes 4 (Tab.get 0 g.words (s * 8192 + p))
  let sats := padTo (16 * r.satMax) (g.sats.flatMap SatEnt.bytes)
  padTo r.flagSize (chans ++ inps ++ padTo (roundUp (4 * r.reamLen * r.ninput) 16) words ++ sats)

/-- The metadata section (R157). -/
def MetaLists.bytes (m : MetaLists) (g : Gather) (r : Req) : List Byte :=
  let cm := (m.commits.take 256).flatMap fun e =>
    padTo 16 ([BitVec.ofNat 8 e.page, BitVec.ofNat 8 (b2n e.cancelled)] ++ leBytes 2 e.num.toNat
      ++ [BitVec.ofNat 8 e.when, 0, 0, 0] ++ leBytes 6 e.target.toNat)
  let sh := (m.sheds.take 64).flatMap fun e =>
    [BitVec.ofNat 8 e.1, 0, 0, 0] ++ leBytes 4 e.2.1 ++ leBytes 8 e.2.2.toNat
  let span := fun (l : List (BitVec 64 × BitVec 64)) => l.flatMap fun e => leBytes 8 e.1.toNat ++ leBytes 8 e.2.toNat
  let head := leBytes 4 (min 256 m.commits.length) ++ leBytes 4 (min 64 m.sheds.length) ++ leBytes 4 (min 64 m.holds.length)
    ++ leBytes 4 (min 8 m.freezes.length) ++ leBytes 4 (m.commits.length - 256) ++ leBytes 4 (m.sheds.length - 64)
    ++ leBytes 4 (m.holds.length - 64) ++ leBytes 4 0 ++ leBytes 8 m.beamInv
  let drops := (List.range r.ninput).flatMap fun p => (List.range 8).flatMap fun c => leBytes 4 (Tab.get 0 g.drops (p * 8 + c))
  padTo r.metaSize (padTo 0x40 head ++ padTo 0x1000 cm ++ padTo 0x400 sh ++ padTo 0x400 (span (m.holds.take 64))
    ++ padTo 0x7C0 (span (m.freezes.take 8)) ++ drops)

/-- STATUS of a record header (R153). -/
def Closing.status (c : Closing) (wmPartial : Bool) : Nat :=
  b2n c.g.froze + 2 * b2n c.g.froze + 4 * b2n wmPartial + 8 * b2n (decide (0 < c.g.satUnl)) + 16 * b2n (!c.lists.sheds.isEmpty)
  + 32 * b2n (!c.lists.holds.isEmpty) + 64 * b2n c.last + 128 * b2n c.delayed

/-- The header (R153). -/
def Closing.header (c : Closing) (wm : BitVec 64) (skipped lost : Nat) : List Byte :=
  let r := c.plate.req
  padTo 4096 (leBytes 4 1 ++ leBytes 4 c.idx ++ leBytes 4 (c.status (!c.g.zeroed.isEmpty)) ++ leBytes 6 c.first.toNat ++ [0, 0]
    ++ leBytes 4 r.reamLen ++ beBytes 32 c.plate.hash.toNat
    ++ [BitVec.ofNat 8 r.mode, BitVec.ofNat 8 r.vfmt, BitVec.ofNat 8 r.order, BitVec.ofNat 8 r.nplane, BitVec.ofNat 8 r.sfmt,
        BitVec.ofNat 8 r.sym, 0, 0]
    ++ leBytes 4 r.ninput ++ leBytes 4 (if r.tile then r.tileA else 0) ++ leBytes 4 (if r.tile then r.ninput - r.tileA else 0)
    ++ leBytes 4 r.nchan ++ leBytes 4 r.ks ++ leBytes 4 r.nbl ++ leBytes 4 r.visBytes ++ leBytes 4 r.satMax
    ++ leBytes 8 4096 ++ leBytes 8 r.metaSize ++ leBytes 8 r.visOff ++ leBytes 8 r.visSize ++ leBytes 8 r.flagOff
    ++ leBytes 8 r.flagSize ++ leBytes 8 wm.toNat ++ leBytes 4 c.g.satCnt ++ leBytes 4 c.g.sats.length ++ leBytes 4 skipped
    ++ leBytes 4 lost ++ leBytes 8 c.closeTime.toNat ++ leBytes 4 c.pgen.toNat ++ leBytes 4 c.epoch)

/-- The visibility bytes as they enter the watermark: the channels of `zeroed` as zeros (R158). -/
def Dev.visBytesFor (d : Dev) (c : Closing) : List Byte :=
  let r := c.plate.req
  padTo r.visSize ((List.range (r.nplane * r.nchan)).flatMap fun i =>
    if c.g.zeroed.contains (i % r.nchan) then List.replicate (r.nbl * r.visBytes) 0
    else d.bytes (r.visAddr c.buf (i / r.nchan) (i % r.nchan) 0) (r.nbl * r.visBytes))

/-! ### Closing, release and loss (R159 to R162) -/

/-- The oldest finished record that is unreleased is discarded (R159). -/
def Dev.loseRecord (d : Dev) : Dev :=
  if d.acc.recrdy then ({ d with acc.recrdy := false, acc.lost := satAdd 16 d.acc.lost 1 }).raise pgACC 0x2 else d

/-- The ream's buffer becomes the finished one and assembly starts (R159); a record whose assembly the latch overtakes is
skipped. -/
def Dev.startClose (d : Dev) (c : Closing) : Dev :=
  let d := d.loseRecord
  { d with acc.skipped := d.acc.skipped + b2n d.acc.closing.isSome
           acc.closing := some { c with buf := d.acc.buf }, acc.buf := !d.acc.buf, acc.waits := none }

/-- ACC's part of a statistics latch: channels of the ream still waiting are discarded as ADDLATE (R144); the record
closes, waits for THAW, or is skipped (R159, R161, R162). `open_` is a holdover that persists. -/
def Dev.accLatch (d : Dev) (c : Closing) (open_ : Option (BitVec 64)) : Dev :=
  let d := (d.acc.adds.filter (·.sheet.ream == c.idx)).foldl (fun d x =>
    let d := { d with acc.adds := x :: d.acc.adds.erase x }
    if x.store.isSome then d.addLate x else d.addDone x 0) d
  let g := d.gather c.idx
  let lists := match open_ with
    | some t => { d.acc.lists with holds := d.acc.lists.holds ++ [(t, BitVec.ofNat 64 (2 ^ 64 - 1))] }
    | none => d.acc.lists
  let c := { c with g := g, lists := lists, buf := d.acc.buf }
  let d := { d with acc.gath := Tab.set {} d.acc.gath c.idx {}, acc.lists := {}, acc.satRaised := false }
  let d := { d with live := Tab.set 0 d.live (bar pgACC 0x108) 0 }
  if g.norec then { d with acc.skipped := d.acc.skipped + 1, acc.lastDone := d.acc.lastDone || c.last }
  else if d.sys.state = .frozen then
    if d.acc.waits.isSome then { d with acc.skipped := d.acc.skipped + 1, acc.lastDone := d.acc.lastDone || c.last }
    else { d with acc.waits := some { c with delayed := true } }
  else d.startClose c

/-- The record that waits closes, once no assembly is in progress (R161). -/
def Dev.closeWaiting (d : Dev) : Dev :=
  match d.acc.closing, d.acc.waits with
  | none, some c => d.startClose c
  | _, _ => d

/-- At THAW the freeze joins the metadata of the record that waits, and that record closes, after one whose assembly the
freeze interrupted (R161). -/
def Dev.accThaw (d : Dev) (freeze : BitVec 64 × BitVec 64) : Dev :=
  let d := { d with acc.waits := d.acc.waits.map fun (c : Closing) => { c with lists.freezes := c.lists.freezes ++ [freeze] } }
  d.closeWaiting

/-- A freeze, or a restart, makes the reams invalid whose index is in the list; the record it interrupts is DELAYED
(R161). -/
def Dev.accFroze (d : Dev) (reams : List Nat) : Dev :=
  reams.foldl (fun d k => d.modGather k fun g => { g with froze := true })
    { d with acc.closing := d.acc.closing.map fun (c : Closing) => { c with delayed := true } }

/-- Assembly completes: the record is written, RECRDY set, the watermark loaded, the interrupt raised (R158, R159). -/
def Dev.finishRecord (d : Dev) : Dev :=
  match d.acc.closing with
  | none => d
  | some c =>
    let r := c.plate.req
    let base := recBase c.buf
    let flag := c.g.flagBytes r
    let wm := crc64 (d.visBytesFor c ++ flag)
    let d := (d.putBytes base (c.header wm d.acc.skipped d.acc.lost)).putBytes (base + 4096) (c.lists.bytes c.g r)
    let d := (d.putBytes (base + r.visOff + r.visData) (List.replicate (r.visSize - r.visData) 0)).putBytes (base + r.flagOff) flag
    let d := { d with acc.closing := none, acc.recrdy := true, acc.recbuf := c.buf, acc.recgen := d.acc.recgen + 1
                      acc.recream := c.idx, acc.wmark := wm, acc.skipped := 0
                      acc.lastDone := d.acc.lastDone || c.last }
    d.raise pgACC 0x1

/-- What breaks a write of `RELEASE` (R160). -/
def Dev.accReleaseErrs (d : Dev) (v : Word) : List Code :=
  if d.acc.closing.isSome then [eBUSY]
  else if !d.acc.recrdy then [0x10]
  else when' (v.toNat != d.acc.recream) eSEQ

/-- ACC_RELEASE: the host releases the finished record (R160). -/
def Dev.accRelease (d : Dev) (v : Word) : Dev :=
  d.guard pgACC 0x100C (d.accReleaseErrs v) fun d => { d with acc.recrdy := false }

end Sys2Proof.Machine
end

