-- ==== Sys2Proof/Machine/Mem.lean ====
section
/-! DEFINITION. The memory controller: address map, correctable errors, row exclusions, refresh, training records, error
injection (R341 to R356, R361 to R371). -/

namespace Sys2Proof.Machine

/-! ### Address map (R343) -/

/-- Memory channel of a device address. -/
def memChan (a : Nat) : Nat := a / 32768 % 40
/-- Channel-local byte address. -/
def memLocal (a : Nat) : Nat := a / 32768 / 40 * 32768 + a % 32768
/-- Bank of a channel-local address, 16 × sub-channel + bank. -/
def memBank (l : Nat) : Nat := l / 32 % 2 * 16 + l / 64 % 16
/-- Row of a channel-local address. -/
def memRow (l : Nat) : Nat := l / 65536
/-- The device address of a channel-local address. -/
def memDevAddr (c l : Nat) : Nat := (l / 32768 * 40 + c) * 32768 + l % 32768
/-- `FRZLOC` of a device address. -/
def memLoc (a : Nat) : Word :=
  let l := memLocal a
  at_ 0 (memChan a) ||| at_ 8 (memBank l) ||| at_ 16 (memRow l)

/-- A memory channel. -/
def Dev.mchan (d : Dev) (c : Nat) : MemChan := Tab.get {} d.mctl.chans c
/-- A memory channel takes a value. -/
def Dev.setMchan (d : Dev) (c : Nat) (x : MemChan) : Dev := { d with mctl.chans := Tab.set {} d.mctl.chans c x }

/-- The memory part of SELFTEST runs now (R362). -/
def Dev.memPart (d : Dev) : Bool :=
  d.sys.state == .selftest && d.mctl.mstat == .run
  && (let t := (d.time.loc - d.sys.selfAt).toNat
      decide (Config.selftestNs 0 ≤ t) && decide (t < Config.selftestNs 1))

/-- The controller serves accesses of the data path and the fabric (R358, R360). -/
def Dev.memServes (d : Dev) : Bool := d.mctl.mstat == .run || d.mctl.mstat == .selftest

/-! ### Row exclusions (R349) -/

/-- Two runs of rows overlap or touch. -/
def Excl.touches (a b : Excl) : Bool :=
  a.chan == b.chan && a.bank == b.bank && a.row ≤ b.row + b.count && b.row ≤ a.row + a.count

/-- The run of rows that covers both. -/
def Excl.join (a b : Excl) : Excl :=
  let lo := min a.row b.row
  { a with row := lo, count := max (a.row + a.count) (b.row + b.count) - lo }

/-- `a` comes before `b` in the image's order. -/
def Excl.le (a b : Excl) : Bool := (a.chan * 32 + a.bank) * 65536 + a.row ≤ (b.chan * 32 + b.bank) * 65536 + b.row

/-- An entry put at its place. -/
def insertExcl (e : Excl) : List Excl → List Excl
  | [] => [e]
  | x :: t => if e.le x then e :: x :: t else x :: insertExcl e t

/-- The list with an entry added: adjacent rows of one bank merge. -/
def mergeExcl (l : List Excl) (e : Excl) : List Excl :=
  let e' := (l.filter (·.touches e)).foldl Excl.join e
  insertExcl e' (l.filter fun x => !x.touches e)

/-- Firmware adds an exclusion, or reports that the list is full; `EXCL` is raised. -/
def Dev.exclude (d : Dev) (e : Excl) : Dev :=
  let l := mergeExcl d.plt.excl e
  if l = d.plt.excl then d
  else if 1024 < l.length then
    (({ d with mctl.exclOvf := true } : Dev).logEvent pgMEMC (0x103C / 4)).raise pgMEMC 0x4
  else (({ d with plt.excl := l } : Dev).fmapChanged).raise pgMEMC 0x4

/-- The row of a device address is excluded. -/
def Dev.excludeAt (d : Dev) (a : Nat) : Dev :=
  d.exclude { chan := memChan a, bank := memBank (memLocal a), row := memRow (memLocal a), count := 1 }

/-- What breaks an `EXCLADD` write. -/
def Dev.exclAddErrs (d : Dev) (v : Word) : List Code :=
  let loc := d.reg (bar pgMEMC 0x1040)
  let e : Excl := { chan := fld 5 0 loc, bank := fld 12 8 loc, row := fld 31 16 loc, count := v.toNat }
  when' (v &&& 0xFFFE0000 ≠ 0) eRSVD
  ++ when' (v.toNat < 1 || 65536 < v.toNat) eRANGE
  ++ when' (65536 < e.row + e.count || 40 ≤ e.chan || 32 ≤ e.bank) eCOMBO
  ++ when' (decide (1024 < (mergeExcl d.plt.excl e).length)) 0x11

/-- EXCLADD (R349, R363). -/
def Dev.exclAddWrite (d : Dev) (v : Word) : Dev :=
  let loc := d.reg (bar pgMEMC 0x1040)
  let e : Excl := { chan := fld 5 0 loc, bank := fld 12 8 loc, row := fld 31 16 loc, count := v.toNat }
  match firstCode (d.exclAddErrs v) with
  | some c => (if c = 0x11 then d.exclude e else d).reject pgMEMC 0x1044 c
  | none => d.exclude e

/-! ### Correctable errors (R347) -/

/-- A CORRECTED codeword at a device address; `lost` tells that the report FIFO was full. -/
def Dev.corrected (d : Dev) (scrub : Bool) (a : Nat) (lost : Bool := false) : Dev :=
  let c := memChan a
  let l := memLocal a
  let x := d.mchan c
  let sec : Nat := d.time.arr.toNat / 10 ^ 9 + 1
  let log := x.ceSec != sec
  let d := d.setMchan c { x with cecnt := satAdd 32 x.cecnt 1, ceBank := BitVec.ofNat 5 (memBank l),
                                 ceRow := BitVec.ofNat 16 (memRow l), ceSec := sec }
  let d := (d.bump pgMEMC 0x100).bump (pgMEMG + c / 10) (0x100 + 0x20 * (c % 10) + 0x18)
  let d := if scrub then d.bump pgMEMC 0x108 else d
  let d := if log then d.logEvent (pgMEMG + c / 10) ((0x1114 + 0x40 * (c % 10)) / 4) else d
  let d := d.raise pgMEMC 0x2
  if lost then d.bump pgMEMC 0x130
  else
    let key := (c * 32 + memBank l) * 65536 + memRow l
    let n := Tab.get 0 d.mctl.ceRows key + 1
    let d := { d with mctl.ceRows := Tab.set 0 d.mctl.ceRows key n }
    if n = fld 7 0 (d.reg (bar pgMEMC 0x1038)) then d.excludeAt a else d

/-! ### Refresh and calibration records (R352 to R355) -/

/-- A channel goes stale (R355, R370). -/
def Dev.memStale (d : Dev) (c : Nat) : Dev :=
  let x := d.mchan c
  if x.stale || !x.trained then d
  else
    let p := pgMEMG + c / 10
    let d := d.setMchan c { x with stale := true }
    (d.modPage p fun g => { g with calStale := true }).raise p 0x1

/-- The temperature conditions of R355. -/
def Dev.memTemps (d : Dev) : Dev :=
  (List.range 40).foldl (fun d c =>
    let x := d.mchan c
    let die : BitVec 8 := x.record.setWidth 8
    let dev : BitVec 8 := (x.record >>> 8).setWidth 8
    if x.trained && (decide (15 < (d.pwr.tj.toInt - die.toInt).natAbs) || decide (15 < (x.temp.toInt - dev.toInt).natAbs)) then
      d.memStale c else d) d

/-- The tracked phases of a channel move (R355). -/
def Dev.memTrack (d : Dev) (c : Nat) (t0 t1 : BitVec 8) : Dev :=
  if !(d.mctl.mstat == .run) then d
  else
    let d := d.setMchan c { d.mchan c with track0 := t0, track1 := t1 }
    if 16 ≤ t0.toInt.natAbs ∨ 16 ≤ t1.toInt.natAbs then d.memStale c else d

/-- One device's poll: temperature and threshold; true where the refresh rate of its channels changes (R352). -/
def Dev.refreshPoll1 (d : Dev) (dev : Nat) (temp thr : BitVec 8) : Bool × Dev :=
  let was := (d.mchan (4 * dev)).refdbl
  let now := if thr.toInt ≤ temp.toInt then true else if temp.toInt ≤ thr.toInt - 3 then false else was
  (was != now, (List.range 4).foldl (fun d k =>
    d.setMchan (4 * dev + k) { d.mchan (4 * dev + k) with temp := temp, thr := thr, refdbl := now }) d)

/-- REFRESH_RATE_POLL: the ten devices' temperatures and thresholds (R352). -/
def Dev.refreshPoll (d : Dev) (l : List (BitVec 8 × BitVec 8)) : Dev :=
  if !(d.mctl.mstat == .run || d.mctl.mstat == .thawing || d.mctl.mstat == .retrain) then d
  else
    let any := (List.range 40).any fun c => (d.mchan c).refdbl
    let d := if any then d.bump pgMEMC 0x128 4000 else d
    let r := ((l.take 10).zipIdx).foldl (fun (s : Bool × Dev) e =>
      let q := s.2.refreshPoll1 e.2 e.1.1 e.1.2
      (s.1 || q.1, q.2)) (false, d)
    let d := if r.1 then r.2.raise pgMEMC 0x8 else r.2
    d.memTemps

/-- The calibration record of a channel, taken now (R355). -/
def Dev.trainRecord (d : Dev) (c : Nat) : Word :=
  d.pwr.tj.setWidth 32 ||| ((d.mchan c).temp.setWidth 32 <<< 8) ||| ((d.railDev 6 1050).setWidth 32 <<< 16)
  ||| (d.loadPct.setWidth 32 <<< 24)

/-- Training of every channel ends: those of `failed` fail and are excluded whole (R353, R354). -/
def Dev.trained (d : Dev) (failed : List Nat) : Dev :=
  let d := (List.range 40).foldl (fun d c =>
    let x := d.mchan c
    if failed.contains c then
      let d := d.setMchan c { x with failed := true, trained := false, stale := false }
      (List.range 32).foldl (fun d b => d.exclude { chan := c, bank := b, row := 0, count := 65536 }) d
    else d.setMchan c { x with trained := true, failed := false, stale := false, track0 := 0, track1 := 0,
                                record := d.trainRecord c }) d
  let d := (List.range 4).foldl (fun d k => d.modPage (pgMEMG + k) fun g => { g with calStale := false }) d
  { d with boot.memFail := ((List.range 40).filter fun c => (d.mchan c).failed).length
           mctl.trainStep := 0, mctl.trainPct := 0 }

/-- MEMORY_TRAINING_DONE: training and the full-memory check end; `bad` lists the device addresses in error (R353). -/
def Dev.trainingDone (d : Dev) (failed bad : List Nat) : Dev :=
  if !(d.mctl.mstat == .training) then d
  else
    let d := d.trained failed
    let d := bad.foldl Dev.excludeAt d
    { d with mctl.mstat := .run }

/-- RETRAIN_DONE (R356). -/
def Dev.retrainDone (d : Dev) (failed : List Nat) : Dev :=
  if !(d.mctl.mstat == .retrain) then d
  else
    let d := d.trained failed
    ({ d with mctl.mstat := if 5 ≤ d.pwr.level then .selfref else .run } : Dev).raise pgMEMC 0x10

/-! ### Error injection (R361) -/

/-- What breaks an `INJCTL` write. -/
def Dev.injErrs (d : Dev) (v : Word) : List Code :=
  when' (v &&& 0xFEC0C0FC ≠ 0 || fld 1 0 v == 3) eRSVD
  ++ when' (35 < fld 13 8 v || 35 < fld 21 16 v) eRANGE
  ++ when' (fld 1 0 v == 2 && fld 13 8 v == fld 21 16 v) eCOMBO
  ++ when' (!(d.sys.state == .ready || d.sys.state == .idle || d.sys.state == .selftest)) eSTATE

/-- INJCTL_WRITE. -/
def Dev.injWrite (d : Dev) (v : Word) : Dev :=
  d.guard pgMEMC 0x1048 (d.injErrs v) fun d =>
    { d with mctl.inj := v &&& 0x003F3F03, mctl.armed := fld 1 0 v != 0 }

/-- What an injection leaves in an access: nothing, one or two wrong symbols. -/
def Dev.badAcc (d : Dev) (k : Nat) : BadAcc := Tab.get {} d.mctl.bad k

/-- Accesses, by number, that a byte range touches. -/
def accesses (a n : Nat) : List Nat := if n = 0 then [] else (List.range ((a + n - 1) / 32 + 1 - a / 32)).map (a / 32 + ·)

/-- The access `k` is written in part by `n` bytes at `a`. -/
def partAccess (a n k : Nat) : Bool := decide (k * 32 < a ∨ a + n < k * 32 + 32)

/-- Whole accesses of a range are encoded anew by a write; partial ones are read, merged and written (R346). Those of
`skip` are read and not written. -/
def Dev.memWritten (d : Dev) (a n : Nat) (skip : List Nat) : Dev :=
  let l := (accesses a n).filter fun k => !skip.contains k
  let part := (accesses a n).filter (partAccess a n)
  let d := { d with mctl.bad := Tab.clear (fun k => l.contains k) d.mctl.bad }
  let d := l.foldl (fun d k => let c := memChan (32 * k); d.bump (pgMEMG + c / 10) (0x108 + 0x20 * (c % 10))) d
  let d := part.foldl (fun d k => let c := memChan (32 * k); d.bump (pgMEMG + c / 10) (0x100 + 0x20 * (c % 10))) d
  if part.isEmpty then d else d.bump pgMEMC 0x118 part.length

/-- The armed injection is made in the first access of a host write (R361). -/
def Dev.injectAt (d : Dev) (a : Nat) : Dev :=
  if d.mctl.armed then
    let v := d.mctl.inj
    { d with mctl.armed := false
             mctl.bad := Tab.set {} d.mctl.bad (a / 32) { nsym := fld 1 0 v, symA := fld 13 8 v, symB := fld 21 16 v } }
  else d

/-! ### Register views (R363, R364, R367, R368) -/

/-- `MSTAT`. -/
def Dev.mstatWord (d : Dev) : Word :=
  at_ 0 (if d.memPart then MemState.selftest else d.mctl.mstat).code ||| at_ 3 (b2n d.dkl.panic)
/-- `CHSTAT` of a channel; the devices are in self-refresh in FROZEN, THAWING's wait and SELFREF. -/
def Dev.chstatWord (d : Dev) (c : Nat) : Word :=
  let x := d.mchan c
  let sr := d.mctl.mstat == .frozen || d.mctl.mstat == .selfref || (d.mctl.mstat == .thawing && d.mctl.thawWait)
  at_ 0 (b2n x.trained) ||| at_ 1 (b2n x.failed) ||| at_ 2 (b2n x.stale) ||| at_ 3 (b2n x.refdbl) ||| at_ 4 (b2n sr)

/-- A live register of the MEMC page that is no stored word. -/
def Dev.readMemc (d : Dev) (o : Nat) : Option Word :=
  let f := d.mctl.frz
  let s := 32 * d.mctl.scrub
  if o = 0x1000 then some d.mstatWord
  else if o = 0x1004 then some 0x3840
  else if o = 0x1008 then some (at_ 0 40 ||| at_ 8 16 ||| at_ 16 16 ||| at_ 24 64)
  else if o = 0x100C then some (at_ 0 f.cause ||| at_ 3 (b2n f.multi))
  else if o = 0x1010 then some (f.addr.setWidth 32)
  else if o = 0x1014 then some ((f.addr >>> 32).setWidth 32)
  else if o = 0x1018 then some f.loc
  else if o = 0x101C then some f.syn
  else if o = 0x1020 then some (lo32 f.time)
  else if o = 0x1024 then some (hi32 f.time)
  else if o = 0x1028 then some (at_ 0 f.prev.code)
  else if o = 0x1034 then some (at_ 0 (memRow s) ||| at_ 16 (memBank s))
  else if o = 0x103C then some (at_ 0 d.plt.excl.length ||| at_ 31 (b2n d.mctl.exclOvf))
  else if o = 0x1048 then some (d.mctl.inj ||| at_ 24 (b2n d.mctl.armed))
  else if o = 0x104C then some (at_ 0 ((List.range 40).filter fun c => (d.mchan c).refdbl).length)
  else if o = 0x1050 then some (at_ 0 d.mctl.trainStep ||| at_ 8 d.mctl.trainPct)
  else none

/-- A live register of page `MEMGk`. -/
def Dev.readMemg (d : Dev) (k o : Nat) : Option Word :=
  let m := fun (f : MemChan → Bool) =>
    (List.range 10).foldl (fun w n => if f (d.mchan (10 * k + n)) then w ||| at_ n 1 else w) (0 : Word)
  if o = 0x1000 then some (m (·.stale))
  else if o = 0x1004 then some (m (·.refdbl))
  else if o = 0x1008 then some (m (·.failed))
  else if 0x1100 ≤ o ∧ o < 0x1380 then
    let c := 10 * k + (o - 0x1100) / 0x40
    let x := d.mchan c
    let r := (o - 0x1100) % 0x40
    if r = 0 then some (d.chstatWord c)
    else if r = 4 then some (x.temp.setWidth 32 ||| (x.thr.setWidth 32 <<< 8))
    else if r = 8 then some (x.track0.setWidth 32 ||| (x.track1.setWidth 32 <<< 8))
    else if r = 12 then some x.record
    else if r = 16 then some (BitVec.ofNat 32 x.cecnt)
    else if r = 20 then some (x.ceBank.setWidth 32 ||| (x.ceRow.setWidth 32 <<< 16))
    else none
  else none

end Sys2Proof.Machine
end

