-- ==== Sys2Proof/Machine/Hat.lean ====
section
/-! DEFINITION. The hatch array: cell arithmetic, pass runs, gating, checking quires, the fault map, shedding (R109 to
R141, R301, R302). -/

namespace Sys2Proof.Machine

/-! ### Cell arithmetic (R112, R114, R115) -/

/-- The signed value of the low `w` bits of a number. -/
def signed (w v : Nat) : Int := (BitVec.ofNat w v).toInt

/-- The components of a 4+4 sample (R48). -/
def samp4 (b : Byte) : Int × Int := (signed 4 (b.toNat / 16), signed 4 (b.toNat % 16))

/-- The product `a · conj(b)` (R112). -/
def cmac (a b : Int × Int) : Int × Int := (a.1 * b.1 + a.2 * b.2, a.2 * b.1 - a.1 * b.2)

/-- The sum of two pairs. -/
def addPair (a b : Int × Int) : Int × Int := (a.1 + b.1, a.2 + b.2)

/-- The sum over samples 0 to `n − 1` of `a t · conj(b t)` (R112, R113). -/
def cellSum (a b : Nat → Int × Int) : Nat → Int × Int
  | 0 => (0, 0)
  | n + 1 => addPair (cellSum a b n) (cmac (a n) (b n))

/-- The high nibble of an 8-bit component, signed (R114). -/
def nibH (v : Int) : Int := v / 16
/-- The low nibble of an 8-bit component, unsigned (R114). -/
def nibL (v : Int) : Int := v % 16

/-- High nibbles of a sample. -/
def sampH (a : Int × Int) : Int × Int := (nibH a.1, nibH a.2)
/-- Low nibbles of a sample. -/
def sampL (a : Int × Int) : Int × Int := (nibL a.1, nibL a.2)

/-- Pooling of the four cells of a CMAC at drain (R115). -/
def pool (hh hl lh ll : Int × Int) : Int × Int :=
  (256 * hh.1 + 16 * (hl.1 + lh.1) + ll.1, 256 * hh.2 + 16 * (hl.2 + lh.2) + ll.2)

/-- The pooled sum of a CMAC over `n` samples (R114, R115). -/
def pooledSum (a b : Nat → Int × Int) (n : Nat) : Int × Int :=
  pool (cellSum (fun t => sampH (a t)) (fun t => sampH (b t)) n) (cellSum (fun t => sampH (a t)) (fun t => sampL (b t)) n)
    (cellSum (fun t => sampL (a t)) (fun t => sampH (b t)) n) (cellSum (fun t => sampL (a t)) (fun t => sampL (b t)) n)

/-- Sample `t` of input index `i` of a staged half (R117). -/
def Half.sample (h : Half) (b : Bool) (r : Req) (n i t : Nat) : Int × Int :=
  if r.sfmt = 0 then samp4 (h.byte b (r.halfPos n i t 0))
  else ((h.byte b (r.halfPos n i t 0)).toInt, (h.byte b (r.halfPos n i t 1)).toInt)

/-- The sum a run drains for baseline (i, j); an autocorrelation has no imaginary part (R120, R142). -/
def Half.drain (h : Half) (b : Bool) (r : Req) (n base i j : Nat) : Int × Int :=
  let x := fun t => h.sample b r n (i - base) t
  let y := fun t => h.sample b r n (j - base) t
  let v := if r.sfmt = 0 then cellSum x y 4096 else pooledSum x y 4096
  if i = j then (v.1, 0) else v

/-- The Walsh state of an input in a span: 0 where no frame was admitted (R302). -/
def DoneSheet.walsh (s : DoneSheet) (p m : Nat) : Nat :=
  match Tab.get none (Tab.get {} s.flags p).acc.walsh m with
  | some x => x / 4
  | none => 0

/-- The plane of a baseline in the sub-block of span `m` (R302). -/
def DoneSheet.plane (s : DoneSheet) (r : Req) (i j m : Nat) : Nat :=
  if r.mode = 10 then (s.walsh i m ^^^ s.walsh j m) &&& (r.nplane - 1) else 0

/-! ### The fault map (R130, R138) -/

/-- A quire joins QMASK with its cause, unless it is in it already (R130, R138). The fault map's generation grows. -/
def Dev.qmaskSet (d : Dev) (q cause peer : Nat) : Dev :=
  if d.hat.qmask.getLsbD q then d
  else ({ d with
    hat.qmask := d.hat.qmask ||| BitVec.ofNat 160 (2 ^ q)
    hat.qcause := Tab.set {} d.hat.qcause q { cause := cause, peer := peer, ream := d.sys.reamcnt.setWidth 16 } } : Dev).fmapChanged

/-- One checking quire. -/
def HatSt.checker (h : HatSt) (k : Nat) : Checker := Tab.get {} h.checkers k

/-- A checking quire leaves service. -/
def Dev.chkOff (d : Dev) (k : Nat) : Dev :=
  let c := d.hat.checker k
  { d with hat.checkers := Tab.set {} d.hat.checkers k { c with disabled := true, dedicated := false } }

/-- QMASK_SET: the host excludes the quires of word `k` that it writes with 1 (R130). A checking quire so excluded while a
plate is active leaves service (R136). -/
def Dev.qmaskWrite (d : Dev) (k : Nat) (v : Word) : Dev :=
  d.guard pgHAT (0x1000 + 4 * k) (when' (k == 4 && v >>> 20 ≠ 0) eRSVD) fun d => d.fmapStep fun d =>
    (List.range 32).foldl (fun d i =>
      let q := 32 * k + i
      if bitAt i v && decide (q < 148) then
        let d := d.qmaskSet q 4 0
        if 144 ≤ q ∧ d.plt.active.isSome then d.chkOff (q - 144) else d
      else d) d

/-! ### Checking (R125 to R129) -/

/-- ACC's flags of a channel gain a bit, counted once (R128, R129). -/
def Dev.flagChan (d : Dev) (ream chan bit stat : Nat) : Dev :=
  let g := d.gather ream
  if Tab.get 0 g.flags chan &&& bit ≠ 0 then d
  else (d.modGather ream fun g => { g with flags := Tab.set 0 g.flags chan (Tab.get 0 g.flags chan ||| bit) }).bump pgHAT stat

/-- A channel of a ream is reported suspect. -/
def Dev.suspect (d : Dev) (ream chan : Nat) : Dev := d.flagChan ream chan 0x4 0x120

/-- The checking quires in rotation, rising. -/
def HatSt.rotating (h : HatSt) : List Nat :=
  (List.range 4).filter fun k => let c := h.checker k; !c.dedicated && !c.disabled

/-- A working quire becomes suspect in a ream (R127). `mask`: it joins QMASK. -/
def Dev.becomeSuspect (d : Dev) (q peer ream : Nat) (mask : Bool) : Dev :=
  if d.hat.qsusp.getLsbD q then d
  else
    let d := { d with hat.qsusp := d.hat.qsusp ||| BitVec.ofNat 160 (2 ^ q)
                      hat.suspReam := (ream, q) :: d.hat.suspReam.filter (·.1 == ream) }
    let d := if mask then d.qmaskSet q 2 peer else d
    let d := d.raise pgHAT 0x1
    match d.hat.rotating with
    | k :: _ =>
      let c := d.hat.checker k
      { d with hat.checkers := Tab.set {} d.hat.checkers k { c with dedicated := true, target := q } }
    | [] => ({ d with hat.orphan := q :: d.hat.orphan }).raise pgHAT 0x8

/-- A comparison ends in a mismatch (R127, R128). A checker that mismatches a second quire in the ream is out of service
before a checker is dedicated. -/
def Dev.mismatch (d : Dev) (x : Cmp) : Dev :=
  let k := x.checker
  let q := x.quire
  let d := d.bump pgHAT 0x118
  let d := x.held.foldl (fun d e => d.suspect e.1 e.2) d
  let c := d.hat.checker k
  if c.hits.any fun e => e.1 == x.ream && e.2 != q then
    (((d.qmaskSet (144 + k) 3 q).chkOff k).raise pgHAT 0x2).becomeSuspect q (144 + k) x.ream false
  else
    let d := { d with hat.checkers := Tab.set {} d.hat.checkers k { c with
      hits := (x.ream, q) :: c.hits.filter fun e => e.1 == x.ream && e.2 != q } }
    d.becomeSuspect q (144 + k) x.ream true

/-- A comparison completes (R126, R140). -/
def Dev.compareDone (d : Dev) (x : Cmp) : Dev :=
  let d := d.bump pgHAT 0x110
  if x.differ then d.mismatch x else d

/-- The comparisons of the last pass run complete, and take effect (R126, R127). -/
def Dev.checksDone (d : Dev) : Dev := d.hat.due.foldl Dev.compareDone { d with hat.due := [] }

/-- Checker `k` has shadowed `q` in a run; `differ`: the drains are not equal in every value (R126). -/
def Dev.compare (d : Dev) (k q ream : Nat) (differ : Bool) : Dev :=
  { d with
    hat.due := d.hat.due ++ [{ checker := k, quire := q, differ := differ, held := Tab.get [] d.hat.unver q, ream := ream }]
    hat.unver := Tab.set [] d.hat.unver q [] }

/-- The targets of the checkers in a run over the usable quires `w` (R125, R127). -/
def HatSt.targets (h : HatSt) (w : List Nat) : List (Nat × Nat) :=
  let rot := h.rotating
  (rot.zipIdx.filterMap fun e => (w[(h.rho + e.2) % max 1 w.length]?).map fun q => (e.1, q))
  ++ ((List.range 4).filterMap fun k =>
      let c := h.checker k
      if c.dedicated && !c.disabled then some (k, c.target) else none)

/-! ### The pass run (R122 to R124) -/

/-- A quire's unit is clock-gated for dead inputs (R124). -/
def Req.deadUnit (r : Req) (s : DoneSheet) (u : QUnit) : Bool :=
  (r.unitInputs u).all fun p => (Tab.get {} s.flags p).dead

/-- An entry of the accumulator store takes its drain add; the first run of a channel writes (R122). -/
def Dev.drainAdd (d : Dev) (key : Nat) (v : Int × Int) : Dev :=
  if d.hat.which then { d with hat.store1 := Tab.set (0, 0) d.hat.store1 key (addPair (Tab.get (0, 0) d.hat.store1 key) v) }
  else { d with hat.store0 := Tab.set (0, 0) d.hat.store0 key (addPair (Tab.get (0, 0) d.hat.store0 key) v) }

/-- A free component of `w` bits: what a faulty quire drains. -/
def Dev.freeInt (d : Dev) (w : Nat) : Int × Dev :=
  let (n, d) := d.fresh
  (signed w n, d)

/-- One quire's unit drains into the store; a quire of `bad` drains free values (R122, R127). -/
def Dev.drainUnit (d : Dev) (r : Req) (s : DoneSheet) (h : Half) (hb : Bool) (m k q : Nat) (u : QUnit) (bad : List Nat) : Dev :=
  if r.deadUnit s u then d
  else
    (r.unitBaselines u).foldl (fun d e =>
      let key := s.plane r e.1 e.2 m * r.nbl + r.visIndex (r.baseline e.1 e.2)
      if bad.contains q then
        let w := if r.sfmt = 0 then 24 else 48
        let (x, d) := d.freeInt w
        let (y, d) := if e.1 = e.2 then ((0 : Int), d) else d.freeInt w
        d.drainAdd key (x, y)
      else d.drainAdd key (h.drain hb r (r.sliceInputs k) (k * r.sliceSpan) e.1 e.2)) d

/-- The sheet that HAT takes up next: the head of its queue, when none is in correlation. Channels that the schedule of
its completion instant leaves out are not correlated (R131, R133). -/
def Dev.nextSheet (d : Dev) : Dev :=
  match d.hat.sheet, d.hat.queue with
  | none, (s, l) :: t =>
    let r := (d.plateOf s.at_).req
    let skip := if r.corr then (List.range r.nchan).filter fun c => !l.contains c else []
    let d := { d with
      hat.queue := t, hat.sheet := some s, hat.chans := l, hat.sub := 0, hat.pass := 0, hat.begun := false
      acc.adds := d.acc.adds ++ skip.map fun c => { sheet := s, chan := c, store := none } }
    let d := if skip.isEmpty then d else d.bump pgHAT 0x130 skip.length
    if l.isEmpty then { d with hat.sheet := none } else d
  | _, _ => d

/-- The channel in progress is handed to ACC with the half that holds it, and the next one begins in the other half;
`bits` as in R156 (R123, R132). -/
def Dev.handOver (d : Dev) (bits : Nat) : Dev :=
  match d.hat.sheet, d.hat.chans with
  | some s, c :: t =>
    let d := if bits = 0 then d else d.markChan s.ream s.idx c bits
    { d with acc.adds := d.acc.adds ++ [{ sheet := s, chan := c, store := some d.hat.which }]
             hat.which := !d.hat.which, hat.chans := t, hat.sub := 0, hat.pass := 0, hat.begun := false
             hat.sheet := if t.isEmpty then none else some s }
  | _, _ => d

/-- After a pass run: the next pass, sub-block, channel or sheet; a half that has been used is free (R117, R123). -/
def Dev.advance (d : Dev) (pl : Plate) : Dev :=
  let r := pl.req
  let p := d.hat.pass + 1
  let d := if p % max 1 pl.halfPasses = 0 then
      let h := d.dkl.halfOf d.hat.useHalf
      { d with dkl := d.dkl.setHalf d.hat.useHalf { h with tag := none, full := false, count := 0 }
               hat.useHalf := !d.hat.useHalf }
    else d
  if p < pl.passes then { d with hat.pass := p }
  else if d.hat.sub + 1 < r.subs then { d with hat.sub := d.hat.sub + 1, hat.pass := 0 }
  else d.handOver 0

/-- The checks of one pass run (R125 to R128); `w` are the usable quires, `units` the ungated units of the run. The targets
stand when the run starts; the comparisons of the run before complete during it. -/
def Dev.checkRun (d : Dev) (w : List Nat) (units : List (Nat × QUnit)) (ream chan : Nat) (bad : List Nat) : Dev :=
  let active := units.map (·.1)
  let ts := d.hat.targets w
  let d := d.checksDone
  let d := active.foldl (fun d q =>
    { d with hat.unver := Tab.set [] d.hat.unver q (Tab.get [] d.hat.unver q ++ [(ream, chan)]) }) d
  let m := d.hat.rotating.length
  let d := { d with hat.checkers := ts.foldl (fun (t : Tab Checker) (e : Nat × Nat) =>
      let c : Checker := Tab.get {} t e.1
      Tab.set {} t e.1 { c with target := if c.dedicated then c.target else e.2, idle := !active.contains e.2 }) d.hat.checkers }
  let d := { d with hat.rho := (d.hat.rho + m) % max 1 w.length }
  let d := ts.foldl (fun d e =>
    if active.contains e.2 && !(d.hat.checker e.1).disabled then
      d.compare e.1 e.2 ream (bad.contains e.2 || bad.contains (144 + e.1))
    else d) d
  -- every later channel of the ream in which a suspect quire has an ungated unit, and orphans for good (R128)
  if active.any fun q => d.hat.suspReam.contains (ream, q) || d.hat.orphan.contains q then d.suspect ream chan else d

/-- PASS_RUN: one pass over the staged sub-block: fill, accumulation, drain, drain adds and checks (R122). `bad` names
the quires whose cells err physically in this run. -/
def Dev.passRun (d : Dev) (bad : List Nat) : Dev :=
  if d.hat.stopped.isSome || 3 ≤ d.pwr.level then d
  else
    let d := d.nextSheet
    match d.hatTag with
    | none => d
    | some (t, s) =>
      let pl := d.plateOf s.at_
      let r := pl.req
      let (_, c, m, k) := t
      let hb := d.hat.useHalf
      let h := d.dkl.halfOf hb
      let starts := d.hat.pass % max 1 pl.halfPasses = 0
      -- the half of the accumulator store is overwritten: its add window has ended (R144)
      let d := if d.hat.begun then d else
        let d := d.expireHalf d.hat.which (d.acc.adds.length + 1)
        if d.hat.which then { d with hat.store1 := [] } else { d with hat.store0 := [] }
      let d := if starts && !(h.tag == some t && h.full) then
          ((d.bump pgDKL 0x120).raise pgDKL 0x4).markChan s.ream s.idx c 0x20
        else d
      let d := { d with hat.begun := true }.panicCheck pl (d.hat.pass % max 1 pl.halfPasses)
      let d := if d.dkl.panic then (d.bump pgDKL 0x128 (if d.hat.half then 4160 else 2080)).bump pgMEMC 0x120
          (if d.hat.half then 4992 else 2496) else d
      let units := pl.passUnits d.hat.pass
      let live := units.filter fun e => !r.deadUnit s e.2
      let d := if units.length = live.length then d else d.bump pgHAT 0x108 (units.length - live.length)
      let d := live.foldl (fun d e => d.drainUnit r s h hb m k e.1 e.2 bad) d
      let d := d.bump pgHAT 0x100
      let d := if d.hat.half then d.bump pgHAT 0x140 4160 else d
      let d := ((d.checkRun pl.usable live s.ream c bad).advance pl).nextSheet
      -- no pass run follows at once
      if d.hat.sheet.isNone then d.checksDone else d

/-- SUSPECT_FLAGS_CLOSE: the suspect flags of the ream whose record is being assembled close; channels with a run still
unverified are unchecked (R129). -/
def Dev.suspectFlagsClose (d : Dev) : Dev :=
  let d := d.checksDone
  match d.acc.closing with
  | none => d
  | some c =>
    let left := d.hat.unver.flatMap fun e => (e.2.filter (·.1 == c.idx)).map (·.2)
    let d := left.foldl (fun d ch => d.flagChan c.idx ch 0x8 0x128) d
    { d with hat.unver := (d.hat.unver.map fun e => (e.1, e.2.filter (·.1 != c.idx))).filter fun e => !e.2.isEmpty }

/-! ### Sheets, shedding and takeover (R125, R131 to R133) -/

/-- The channels that the schedule of a shed level correlates (R131, R180). -/
def Req.schedule (r : Req) (level : Nat) : List Nat :=
  if !r.corr then [] else if level ≤ 1 then List.range r.nchan else if level = 2 then r.s2List else []

/-- A completed sheet joins HAT's queue with the schedule of the level in force (R86, R133). -/
def Dev.hatSheet (d : Dev) (s : DoneSheet) : Dev :=
  let r := (d.plateOf s.at_).req
  let stop := match d.hat.stopped with | some k => decide (s.ream ≤ k) | none => false
  let d := if stop then d else { d with hat.stopped := none }
  let lvl := if stop then 6 else d.pwr.level
  let d := { d with hat.queue := d.hat.queue ++ [(s, r.schedule lvl)] }
  let d := if d.hat.sheet.isNone then { d with hat.half := lvl == 2 } else d
  d.nextSheet

/-- Channels that HAT leaves out are not correlated. -/
def Dev.skipChans (d : Dev) (s : DoneSheet) (l : List Nat) : Dev :=
  let d := { d with acc.adds := d.acc.adds ++ l.map fun c => { sheet := s, chan := c, store := none } }
  if l.isEmpty then d else d.bump pgHAT 0x130 l.length

/-- Entry to S2: half rate; after the channel in progress only the S2 list runs (R131). -/
def Dev.hatS2 (d : Dev) : Dev :=
  let d := { d with hat.half := true, hat.queue := d.hat.queue.map fun (q : DoneSheet × List Nat) =>
    (q.1, q.2.filter ((d.plateOf q.1.at_).req.s2List.contains ·)) }
  match d.hat.sheet with
  | some s =>
    let l2 := (d.plateOf s.at_).req.s2List
    let n := b2n d.hat.begun
    let keep := d.hat.chans.take n ++ (d.hat.chans.drop n).filter (l2.contains ·)
    let d := d.skipChans s ((d.hat.chans.drop n).filter fun x => !l2.contains x)
    { d with hat.chans := keep, hat.sheet := if keep.isEmpty then none else some s }
  | none => d

/-- Entry to S3 or higher: the channel in progress is correlated in part, the rest of the ream not at all (R132). -/
def Dev.hatS3 (d : Dev) : Dev :=
  match d.hat.sheet with
  | some s =>
    let d := if d.hat.begun then (d.handOver 0x2).bump pgHAT 0x138 else d
    let d := d.skipChans s d.hat.chans
    { d with hat.sheet := none, hat.chans := [], hat.sub := 0, hat.pass := 0, hat.begun := false, hat.half := false
             hat.stopped := some s.ream
             hat.queue := d.hat.queue.map fun q => if q.1.ream ≤ s.ream then (q.1, []) else q }
  | none =>
    let k := match d.hat.queue with
      | q :: _ => q.1.ream
      | [] => d.run.reams + (if atOrAfter d.run.sheetAt d.reamEnd then 1 else 0)
    if d.req.corr && d.run.live then
      { d with hat.stopped := some k, hat.half := false
               hat.queue := d.hat.queue.map fun q => if q.1.ream ≤ k then (q.1, []) else q }
    else d

/-- The checkers at a plate takeover: all in service that QMASK does not exclude; marks, dedications and the rotation
pointer start afresh (R125, R128). -/
def Dev.hatTakeover (d : Dev) : Dev :=
  { d with hat.qsusp := 0, hat.suspReam := [], hat.orphan := [], hat.rho := 0, hat.unver := [], hat.due := []
           hat.checkers := (List.range 4).foldl (fun t k =>
             Tab.set {} t k { ({} : Checker) with disabled := d.hat.qmask.getLsbD (144 + k) }) [] }

/-- HAT at START: the run numbering and the rotation pointer start at zero (R125). -/
def Dev.hatStart (d : Dev) : Dev :=
  { d with hat.rho := 0, hat.sheet := none, hat.chans := [], hat.queue := [], hat.sub := 0, hat.pass := 0
           hat.begun := false, hat.useHalf := false, hat.half := d.pwr.level == 2, hat.stopped := none
           hat.unver := [], hat.suspReam := [], hat.due := [] }

/-- A quire fails a pattern of the self-test: its bit is set with cause SELFTEST, and a checking quire is out of service
while a plate stays active (R136). -/
def Dev.quireFails (d : Dev) (q : Nat) : Dev :=
  let d := d.qmaskSet q 1 0
  let d := { d with hat.qcause := Tab.set {} d.hat.qcause q { cause := 1, ream := d.sys.reamcnt.setWidth 16 } }
  if 144 ≤ q ∧ d.plt.active.isSome then d.chkOff (q - 144) else d

/-- The quire part of SELFTEST: the quires of `fail` fail a pattern; every other quire's bit clears (R136). -/
def Dev.hatSelftest (d : Dev) (fail : List Nat) : Dev :=
  let d := (List.range 148).foldl (fun d q =>
    if fail.contains q then d.quireFails q
    else if d.hat.qmask.getLsbD q then
      ({ d with hat.qmask := d.hat.qmask &&& ~~~(BitVec.ofNat 160 (2 ^ q)), hat.qcause := Tab.set {} d.hat.qcause q {} } : Dev).fmapChanged
    else d) d
  if fail.any (· < 148) then d.raise pgHAT 0x4 else d

end Sys2Proof.Machine
end

