-- ==== Sys2Proof/Machine/Bmf.lean ====
section
/-! DEFINITION. The right to publish, and the beam former: weights, sums, blocks, rings, ramps, table writes (R205 to
R229, R456). -/

namespace Sys2Proof.Machine

/-! ### The right to publish (R456) -/

/-- The owner's lease is held (R470). -/
def Dev.leaseHeld (d : Dev) : Bool :=
  d.pair.bySilence || (match d.pair.leaseEnd with | some t => after t d.time.loc | none => false)

/-- The module may publish now (R456); between a HANDOVER and its HANDOFF nothing new starts (R460). -/
def Dev.mayPublish (d : Dev) : Bool :=
  !d.aon.estop.active &&
  (match d.pair.state with
   | .solo => true
   | .owner => !d.pair.handing && (if d.pair.lease then d.leaseHeld else d.pair.ownOut && !d.pair.ownIn)
   | _ => false)

/-! ### Table images -/

/-- A little-endian field of a table image. -/
def tblLe (t : Tab Byte) (o n : Nat) : Nat := leNat ((List.range n).map fun i => Tab.get 0 t (o + i))

/-- A table image from its bytes. -/
def tblOf (l : List Byte) : Tab Byte := (l.zipIdx).foldl (fun t e => Tab.set 0 t e.2 e.1) []

/-- A table image with bytes written from an offset. -/
def tblPut (t : Tab Byte) (o : Nat) (l : List Byte) : Tab Byte := (l.zipIdx).foldl (fun t e => Tab.set 0 t (o + e.2) e.1) t

/-- OFMT of a beam. -/
def bmOfmt (t : Tab Byte) (b : Nat) : Nat := tblLe t (16 * b) 1
/-- Route of a beam: bit 0 EGRESS, bit 1 DMA, bit 2 TRIG (R206). -/
def bmRoute (t : Tab Byte) (b : Nat) : BitVec 3 := BitVec.ofNat 3 (tblLe t (16 * b + 1) 1)
/-- SHIFT of a beam. -/
def bmShift (t : Tab Byte) (b : Nat) : Nat := tblLe t (16 * b + 2) 1
/-- TSHIFT of a beam. -/
def bmTshift (t : Tab Byte) (b : Nat) : Nat := tblLe t (16 * b + 3) 1
/-- EPOCH of a beam. -/
def bmEpoch (t : Tab Byte) (b : Nat) : Sfn := BitVec.ofNat 48 (tblLe t (16 * b + 4) 6)
/-- Frequency of a channel. -/
def bmFreq (t : Tab Byte) (nb c : Nat) : Nat := tblLe t (16 * nb + 4 * c) 3
/-- Gain of an input in a channel. -/
def bmGain (r : Req) (t : Tab Byte) (p c : Nat) : Int × Int :=
  let o := 16 * r.nbeam + 4 * r.nchan + 2 * (p * r.nchan + c)
  (signed 8 (tblLe t o 1), signed 8 (tblLe t (o + 1) 1))
/-- Offset of a delay entry. -/
def bmDelayOff (r : Req) (b p : Nat) : Nat :=
  16 * r.nbeam + 4 * r.nchan + 2 * (r.ninput * r.nchan) + 16 * (b * r.ninput + p)
/-- Delay and rate of a beam's input. -/
def bmDelay (r : Req) (t : Tab Byte) (b p : Nat) : Int × Int :=
  let o := bmDelayOff r b p
  (signed 48 (tblLe t o 6), signed 32 (tblLe t (o + 8) 4))

/-- `TBLSIZE`: bytes of a table copy (R224). -/
def Req.bmTblSize (r : Req) : Nat :=
  16 * r.nbeam + 4 * r.nchan + 2 * (r.ninput * r.nchan) + 16 * (r.nbeam * r.ninput)

/-- The table image of a request: its BEAMS section without the header. -/
def Req.bmTbl (r : Req) : Tab Byte := tblOf (r.beams.drop 16)

/-! ### Weights (R208 to R210, R221) -/

/-- 2^60 times pi, rounded. -/
def pi60 : Nat := 3622009729038561421

/-- `2^60 cos(x / 2^60)` by the series, `n` terms from the `i`-th. -/
def cosSeries (x : Nat) : Nat → Nat → Int → Int → Int
  | 0, _, _, s => s
  | n + 1, i, t, s =>
    let t := t * x / 2 ^ 60 * x / 2 ^ 60 / ((2 * i + 1) * (2 * i + 2) : Nat)
    cosSeries x n (i + 1) t (if i % 2 = 0 then s - t else s + t)

/-- C_k of the first quadrant, k from 0 to 1,024 (R209). -/
def cosQ (k : Nat) : Int := conv 60 (32767 * cosSeries (k * pi60 / 2048) 14 0 (2 ^ 60) (2 ^ 60))

/-- C_k of the phasor table (R209). -/
def phasorCos (k : Nat) : Int :=
  let k := k % 4096
  if k ≤ 1024 then cosQ k else if k ≤ 2048 then -cosQ (2048 - k) else if k ≤ 3072 then -cosQ (k - 2048) else cosQ (4096 - k)

/-- P(k) = C_k + j·S_k (R209). -/
def phasor (k : Nat) : Int × Int := (phasorCos k, phasorCos (k + 3072))

/-- The 12-bit phase of R208. -/
def phase (freq : Nat) (delay rate dt : Int) : Nat :=
  (conv 44 (freq * (delay * 65536 + rate * dt)) % 4096).toNat

/-- W8 from a gain and a phase, and its saturated components (R210). -/
def weight (g : Int × Int) (k : Nat) : (Int × Int) × Nat :=
  let p := phasor k
  let x := conv 15 (g.1 * p.1 - g.2 * p.2)
  let y := conv 15 (g.1 * p.2 + g.2 * p.1)
  ((sat 8 x, sat 8 y), b2n (satHits 8 x) + b2n (satHits 8 y))

/-- The weight of beam `b` on input `p` in channel `c` from a table, at a block's reference SFN (R207). -/
def bmWeight (r : Req) (t : Tab Byte) (b p c : Nat) (ref : Sfn) : (Int × Int) × Nat :=
  let (dl, rt) := bmDelay r t b p
  weight (bmGain r t p c) (phase (bmFreq t r.nbeam c) dl rt (wdiff ref (bmEpoch t b)))

/-- One component of a ramp (R221). -/
def rampComp (old new : Int) (n r : Nat) : Int :=
  let v := old * (n - r : Nat) + new * r
  -- conv of a quotient by n
  let q := v / n
  let m := v % n
  if 2 * m < n then q else if 2 * m > n then q + 1 else if q % 2 = 0 then q else q + 1

/-! ### Frame sets (R211 to R214) -/

/-- The configuration for a frame set at `f`, and the tables of the one before it. -/
def Dev.eraAt (d : Dev) (f : Sfn) : BmEra × Tab Byte :=
  match d.bmf.eras.dropWhile fun e => after e.at_ f with
  | e :: o :: _ => (e, o.tbl)
  | [e] => (e, e.tbl)
  | [] => ({ tbl := d.bmf.tbl }, d.bmf.tbl)

/-- The table in force for a frame set at `f`. -/
def Dev.bmTblAt (d : Dev) (f : Sfn) : Tab Byte := (d.eraAt f).1.tbl

/-- Number of the block at `f`, counted from 1 at `b`. -/
def Dev.blockFrom (d : Dev) (b f : Sfn) : Nat := (f - b).toNat / (d.reqAt f).lf + 1

/-- The weight used for a frame set, and its saturated components (R210, R221). -/
def Dev.weightAt (d : Dev) (r : Req) (f : Sfn) (b p c : Nat) : (Int × Int) × Nat :=
  let ref := f + BitVec.ofNat 48 (r.lf / 2)
  let (e, old) := d.eraAt f
  let (w, n) := bmWeight r e.tbl b p c ref
  let k := d.blockFrom e.at_ f
  if e.ramp ≤ 1 ∨ e.ramp < k then (w, n)
  else
    let (o, m) := bmWeight r old b p c ref
    ((rampComp o.1 w.1 e.ramp k, rampComp o.2 w.2 e.ramp k), n + m)

/-- Sample `t` of channel `c` of a frame's payload (R48). -/
def paySample (r : Req) (l : List Byte) (c t : Nat) : Int × Int :=
  if r.sfmt = 0 then samp4 ((l[64 * t + c]?).getD 0)
  else (((l[128 * t + 2 * c]?).getD 0).toInt, ((l[128 * t + 2 * c + 1]?).getD 0).toInt)

/-- The product of a weight and a sample, not conjugated (R211). -/
def cmul (a b : Int × Int) : Int × Int := (a.1 * b.1 - a.2 * b.2, a.1 * b.2 + a.2 * b.1)

/-- B of R211 for one beam, channel and sample. -/
def beamSum (r : Req) (w : Nat → Int × Int) (ms : List Member) (c t : Nat) : Int × Int :=
  ms.foldl (fun s m => addPair s (cmul (w m.p) (paySample r m.bytes c t))) (0, 0)

/-- Beams of the S4 list: the beam priority list, or beams 0 to 15 (R170, R180). -/
def Req.s4List (r : Req) : List Nat :=
  (if r.beamprio = [] then List.range 16 else r.beamprio).filter (· < r.nbeam)

/-- The S4 list limits the frame sets at `f` (R223). -/
def limitedAt (limited : Bool) (full : Option Sfn) (f : Sfn) : Bool :=
  limited && (match full with | some b => after b f | none => true)

/-- The beams computed for a frame set at `f` (R206, R223). -/
def Dev.beamsAt (d : Dev) (f : Sfn) : List Nat :=
  let r := d.reqAt f
  let lim := limitedAt d.bmf.limited d.bmf.fullAt f
  (List.range r.nbeam).filter fun b => bmRoute (d.bmTblAt f) b != 0 && (!lim || r.s4List.contains b)

/-- The units of 1/6 ns that a frame takes in the input queue (R213). -/
def Req.tf (r : Req) : Nat := r.nbeam * (if r.sfmt = 0 then 1 else 2)

/-- `QOCC`: frames in the input queue. -/
def Dev.qocc (d : Dev) : Nat :=
  let tf := max 1 d.req.tf
  (d.bmf.busy - d.time.loc.toNat * 6 + tf - 1) / tf

/-- A unit that shedding has stopped is stopped for data at `f` (R223, R253). -/
def stoppedAt (stopped : Bool) (resume : Option Sfn) (f : Sfn) : Bool :=
  stopped && (match resume with | some b => after b f | none => true)

/-- An admitted SAMPLE frame reaches the beam former (R213). -/
def Dev.bmfFrame (d : Dev) (p g : Nat) (f : Sfn) (fr : List Byte) : Dev :=
  let r := d.reqAt f
  if !r.beamMode || stoppedAt d.bmf.stopped d.bmf.resumeAt f then d
  else
    let o := (d.bmf.opens.find? fun x => x.g == g && x.f == f).getD { g := g, f := f }
    let others := d.bmf.opens.filter fun x => !(x.g == g && x.f == f)
    if 1024 ≤ d.qocc then
      ({ d with bmf.opens := others ++ [{ o with lost := true }] }.bump pgBMF 0x118).raise pgBMF 0x1
    else
      let now := d.time.loc.toNat * 6
      let m : Member := { p := p, bytes := (fr.drop 32).take 4096, ndiode := frNdiode fr }
      let d := { d with bmf.opens := others ++ [{ o with members := o.members ++ [m] }],
                        bmf.busy := max now d.bmf.busy + r.tf }
      d.peak pgBMF 0x150 d.qocc

/-- Samples of a beam block: 32 at 8+8, 16 at 16+16 (R215). -/
def blockLen (ofmt : Nat) : Nat := if ofmt = 0 then 32 else 16

/-- Lanes of the EGRESS role in a request, rising, and the lane of each beam routed to EGRESS (R174). -/
def Req.beamLane (r : Req) (tbl : Tab Byte) (b : Nat) : Option Nat :=
  let lanes := (List.range 256).filter fun l => match r.lanes[l]? with | some (role, _) => role == 2 | none => false
  let beams := (List.range r.nbeam).filter fun b => (bmRoute tbl b).getLsbD 0
  let ne := beams.length
  let le := lanes.length
  match beams.findIdx? (· == b) with
  | none => none
  | some i =>
    if le = 0 then none
    else
      let big := ne % le
      let hi := ne / le + 1
      let k := if i < big * hi then i / hi else big + (i - big * hi) / max 1 (ne / le)
      lanes[k]?

/-- The payload of block `j` of a beam's outputs, and its saturated components (R214, R215). -/
def blockBytes (ofmt shift : Nat) (y : Nat → Nat → Int × Int) (j : Nat) : List Byte × Nat :=
  let w := if ofmt = 0 then 8 else 16
  (List.range (blockLen ofmt)).foldl (fun acc t =>
    (List.range 64).foldl (fun (acc : List Byte × Nat) c =>
      let v := y c (j * blockLen ofmt + t)
      let a := conv shift v.1
      let b := conv shift v.2
      (acc.1 ++ leBytes (w / 8) (BitVec.ofInt w (sat w a)).toNat ++ leBytes (w / 8) (BitVec.ofInt w (sat w b)).toNat,
       acc.2 + b2n (satHits w a) + b2n (satHits w b))) acc) ([], 0)

/-- The DMA ring's blocks (R217, R224). -/
def Req.stgBlocks (r : Req) : Nat := leAt r.beams 4 4 * 256

/-- Unread blocks of the DMA ring. -/
def Dev.stgOcc (d : Dev) : Nat :=
  let n := d.req.stgBlocks
  if n = 0 then 0 else (d.bmf.stgwr + n - d.bmf.stgrd) % n

/-- A block is discarded at a ring (R218, R223). -/
def Dev.stgDrop (d : Dev) : Dev := (d.bump pgBMF 0x148).raise pgBMF 0x2

/-- A block and its descriptor join the DMA ring (R217, R218). -/
def Dev.dmaBlock (d : Dev) (r : Req) (desc bytes : List Byte) : Dev :=
  let n := r.stgBlocks
  if d.sys.state = .frozen ∨ n = 0 ∨ (d.bmf.stgwr + 1) % max 1 n = d.bmf.stgrd then d.stgDrop
  else
    let i := d.bmf.stgwr
    let d := (d.putBytes (loadedAddr pgBMF 0x1028 + i * 4096) bytes).putBytes (loadedAddr pgBMF 0x1030 + i * 32) desc
    let d := { d with bmf.stgwr := (i + 1) % n }
    let mark := (d.reg (bar pgBMF 0x1044)).toNat % 2 ^ 24
    if mark != 0 && d.stgOcc == mark then d.raise pgBMF 0x4 else d

/-- A DMA descriptor (R218). -/
def stgDesc (b g : Nat) (f : Sfn) (ofmt : Nat) (inv part : Bool) (nm os sq : Nat) : List Byte :=
  padTo 32 (leBytes 2 b ++ leBytes 2 g ++ leBytes 6 f.toNat ++ [BitVec.ofNat 8 (ofmt + 1), BitVec.ofNat 8 (b2n inv + 2 * b2n part)]
    ++ leBytes 2 nm ++ leBytes 2 (min os 65535) ++ leBytes 4 sq)

/-- One computed beam of a closed frame set: its blocks, and its T values where it is routed to TRIG (R214 to R218). -/
def Dev.beamOut (d : Dev) (r : Req) (o : OpenSet) (inv : Bool) (b : Nat) : Dev :=
  let tbl := d.bmTblAt o.f
  let route := bmRoute tbl b
  let ofmt := bmOfmt tbl b
  let len := blockLen ofmt
  let nblk := r.lf / len
  let y := fun (c t : Nat) => if inv then ((0 : Int), (0 : Int)) else
    beamSum r (fun p => (d.weightAt r o.f b p (64 * o.g + c)).1) o.members c t
  let first := d.bmf.sets * nblk
  let part := decide (o.members.length < r.ninput)
  let session := (d.eraAt o.f).1.session
  (List.range nblk).foldl (fun d j =>
    let (bytes, os) := blockBytes ofmt (bmShift tbl b) y j
    let f := o.f + BitVec.ofNat 48 (j * len)
    let d := if os = 0 then d else d.bump pgBMF 0x128 os
    let d := if route.getLsbD 1 then
        d.dmaBlock r (stgDesc b o.g f ofmt inv part o.members.length os ((first + j) % 2 ^ 32)) bytes
      else d
    if route.getLsbD 0 && !inv && !limitedAt d.bmf.limited d.bmf.fullAt o.f && d.mayPublish then
      if d.sys.state = .frozen then d.stgDrop.bump pgBMF 0x140
      else match r.beamLane tbl b with
        | some l => { d with bmf.egress := d.bmf.egress ++ [{
            lane := l, beam := b, g := o.g, f := f, seq := BitVec.ofNat 16 (first + j)
            ndiode := o.members.any (·.ndiode), osat := min os 65535, session := session, bytes := bytes }] }
        | none => d
    else d) d

/-- T of R214 for a closed frame set's beam: channel in the group, sample. -/
def Dev.trigVal (d : Dev) (r : Req) (o : OpenSet) (b c t : Nat) : Int × Int :=
  let s := beamSum r (fun p => (d.weightAt r o.f b p (64 * o.g + c)).1) o.members c t
  let k := bmTshift (d.bmTblAt o.f) b
  (conv k s.1, conv k s.2)

/-- Saturated components of all T values of a beam. -/
def Dev.tsatCount (d : Dev) (r : Req) (o : OpenSet) (b : Nat) : Nat :=
  ((List.range 64).map fun c => ((List.range r.lf).map fun t =>
    let v := d.trigVal r o b c t
    b2n (satHits 16 v.1) + b2n (satHits 16 v.2)).sum).sum

/-- Weight components saturated for a frame set's beam. -/
def Dev.wsatCount (d : Dev) (r : Req) (o : OpenSet) (b : Nat) : Nat :=
  ((List.range r.ninput).map fun p => ((List.range 64).map fun c => (d.weightAt r o.f b p (64 * o.g + c)).2).sum).sum

/-- The ramp ends with its last block (R222, R226). -/
def Dev.rampEnd (d : Dev) : Dev :=
  if d.bmf.ramping then ({ d with bmf.ramping := false, bmf.rampR := d.bmf.rampLast }).raise pgBMF 0x8 else d

/-- A ramp's block has closed in every channel group: R advances, and the ramp ends with its last block (R221, R226). -/
def Dev.rampClose (d : Dev) (f : Sfn) : Dev :=
  if d.bmf.ramping && !after d.bmf.rampAt f && (List.range (d.reqAt f).groups).all fun g => d.setClosed g f then
    let k := d.blockFrom d.bmf.rampAt f
    if k < d.bmf.rampLast then { d with bmf.rampR := max k d.bmf.rampR }
    else if k = d.bmf.rampLast then d.rampEnd else d
  else d

/-- The beam former's part of a frame set's closing. `overrun`: it has not finished the set by the end of its window
(R11); `lat`: nanoseconds from closure to hand-off. The set as it was summed, and whether it is invalid, go to TRG. -/
def Dev.bmfClose (d : Dev) (g : Nat) (f : Sfn) (overrun : Bool) (lat : Nat) : Option (OpenSet × Bool) × Dev :=
  let r := d.reqAt f
  if !r.beamMode then (none, d)
  else if stoppedAt d.bmf.stopped d.bmf.resumeAt f then (none, ({ d with bmf.sets := d.bmf.sets + 1 } : Dev).rampClose f)
  else
    let o := (d.bmf.opens.find? fun x => x.g == g && x.f == f).getD { g := g, f := f }
    let inv := o.lost || overrun
    let beams := d.beamsAt f
    let d := { d with bmf.opens := d.bmf.opens.filter fun x => !(x.g == g && x.f == f) }
    let w : Nat := (beams.map fun b => d.wsatCount r o b).sum
    let d := if w = 0 then d else d.bump pgBMF 0x120 w
    let d := beams.foldl (fun d b => d.beamOut r o inv b) d
    let ts : Nat := if inv then 0 else (beams.map fun b => if (bmRoute (d.bmTblAt f) b).getLsbD 2 then d.tsatCount r o b else 0).sum
    let d := if ts = 0 then d else d.bump pgBMF 0x130 ts
    let d := if inv then { d.bump pgBMF 0x110 with acc.lists.beamInv := d.acc.lists.beamInv + 1 }
      else
        let d := d.bump pgBMF 0x100
        if o.members.length < r.ninput then d.bump pgBMF 0x108 else d
    let d := { d with bmf.sets := d.bmf.sets + 1 }
    let d := (d.peak pgBMF 0x158 lat).rampClose f
    (some (o, inv), d)

/-! ### Egress (R216, R217, R223) -/

/-- A BEAM frame (R216). -/
def Dev.beamFrame (d : Dev) (x : EgBlock) : List Byte :=
  let h : FrameHdr := { type := 2, fmt := 1, src := x.beam, chgrp := x.g, session := x.session.toNat, sfn := x.f.toNat
                        seq := x.seq.toNat, link := d.linkTx x.lane, epoch := d.epoch }
  let hb := h.bytes
  let hb := overlay hb 14 [BitVec.ofNat 8 (4 * b2n x.ndiode)]
  let hb := overlay hb 16 (leBytes 2 x.osat)
  withTrailer (hb ++ x.bytes)

/-- BEAM_FRAME_SEND: an EGRESS lane takes its next block; `poison`: its ring read is poisoned. -/
def Dev.beamFrameSend (d : Dev) (lane : Nat) (poison : Bool) : Dev :=
  match d.bmf.egress.find? (·.lane == lane) with
  | none => d
  | some x =>
    let d' := { d with bmf.egress := d.bmf.egress.erase x }
    if d.role lane ≠ 2 then d
    else if d.sys.state = .frozen ∨ poison then d'.bump pgBMF 0x140
    else if !d.mayPublish || 4 ≤ d.pwr.level then d'
    else (d'.sendFrame lane (d'.beamFrame x)).bump pgBMF 0x138

/-! ### Table writes, ring index, commits (R220 to R225) -/

/-- What is wrong with byte `i` of a table copy taking `v`, apart from the fixed fields (R224). -/
def bmByteErr (r : Req) (i : Nat) (v : Byte) : Option Code :=
  let k := i % 16
  let fr := 16 * r.nbeam
  let ga := fr + 4 * r.nchan
  let de := ga + 2 * (r.ninput * r.nchan)
  let maxShift := if r.sfmt = 0 then 24 else 28
  if i < fr then
    if k = 0 then (if v.toNat ≤ 1 then none else some eRSVD)
    else if k = 1 then (if v.toNat ≤ 7 then none else some eRSVD)
    else if k = 2 ∨ k = 3 then (if v.toNat ≤ maxShift then none else some eRANGE)
    else if 10 ≤ k then (if v = 0 then none else some eRSVD) else none
  else if i < ga then (if (i - fr) % 4 = 3 ∧ v ≠ 0 then some eRSVD else none)
  else if i < de then none
  else
    let k := (i - de) % 16
    if (k = 6 ∨ k = 7 ∨ 12 ≤ k) ∧ v ≠ 0 then some eRSVD else none

/-- Byte `i` taking `v` would change OFMT or the EGRESS route bit (R220). -/
def bmFixed (r : Req) (act : Tab Byte) (i : Nat) (v : Byte) : Bool :=
  decide (i < 16 * r.nbeam) &&
  ((i % 16 == 0 && v != Tab.get 0 act i) || (i % 16 == 1 && v.getLsbD 0 != (Tab.get 0 act i).getLsbD 0))

/-- A rejected BAR2 write of a unit's tables: PERR names the register that gives the copy's base (R524). -/
def Dev.tblReject (d : Dev) (p : Nat) (shadow : Bool) (c : Code) : Dev :=
  d.reject p ((if p = pgBMF then 0x1010 else 0x1020) + (if shadow then 8 else 0)) c

/-- BMF_TABLE_WRITE: a BAR2 write at byte `o` of the active or the shadow copy (R220, R222, R224). -/
def Dev.bmfTableWrite (d : Dev) (shadow : Bool) (o : Nat) (l : List Byte) : Dev :=
  let r := d.req
  let rej := fun (c : Code) (i : Nat) => { d with bmf.tblErr := i }.tblReject pgBMF shadow c
  if !shadow then rej ePERM o
  else if r.bmTblSize < o + l.length then rej ePERM o
  else
    match (l.zipIdx).findSome? fun e => (bmByteErr r (o + e.2) e.1).map fun c => (c, o + e.2) with
    | some (c, i) => rej c i
    | none =>
      if (d.page pgBMF).locked then rej eLOCK o
      else match (l.zipIdx).find? fun e => bmFixed r d.bmf.tbl (o + e.2) e.1 with
        | some e => rej 0x10 (o + e.2)
        | none => { d with bmf.sh := tblPut d.bmf.sh o l }

/-- STGRD_WRITE: the host's read index advances within the filled part (R225, R229). -/
def Dev.stgrdWrite (d : Dev) (v : Word) : Dev :=
  let n := d.req.stgBlocks
  let i := v.toNat % 2 ^ 24
  let bad := if n = 0 then decide (i ≠ 0) else decide (n ≤ i ∨ d.stgOcc < (i + n - d.bmf.stgrd) % n)
  d.guard pgBMF 0x1040 (when' (v >>> 24 ≠ 0) eRSVD ++ when' bad 0x11) fun d => { d with bmf.stgrd := i }

/-- A configuration joins those in use; no more than four are in use at once. -/
def BmfSt.addEra (b : BmfSt) (e : BmEra) : BmfSt := { b with tbl := e.tbl, eras := (e :: b.eras).take 4 }

/-- The beam former's shadow swaps for boundary `b`; `now`: WHEN = 0, without a ramp (R220, R221). -/
def Dev.bmfCommit (d : Dev) (b : Sfn) (now : Bool) : Dev :=
  let n := if now then 1 else fld 6 0 (d.reg (bar pgBMF 0x8000))
  let e : BmEra := { at_ := b, tbl := d.bmf.sh, session := (d.reg (bar pgBMF 0x8004)).setWidth 16, ramp := n }
  { d with bmf := { d.bmf.addEra e with rampAt := b, rampN := n, rampLast := n, rampR := 0, ramping := !now } }

/-- A plate's beam tables take over for frame sets from `b`, and a ramp in progress ends with the last block before `b`;
`keep`: the shadow keeps its contents (R35, R222). -/
def Dev.bmfTakeover (d : Dev) (r : Req) (session : BitVec 16) (b : Sfn) (keep : Bool) : Dev :=
  let e : BmEra := { at_ := b, tbl := r.bmTbl, session := session }
  let last := min d.bmf.rampLast (d.blockFrom d.bmf.rampAt (b - 1))
  { d with bmf := { d.bmf.addEra e with sh := if keep then d.bmf.sh else e.tbl, rampLast := last } }

/-- SFN from which every block of the ramp has closed: the last block's window close (R65, R489). -/
def Dev.rampDue (d : Dev) : Sfn :=
  let r := d.reqAt d.bmf.rampAt
  d.bmf.rampAt + BitVec.ofNat 48 (d.bmf.rampLast * r.lf + r.w)

/-- The beam former at START. -/
def Dev.bmfStart (d : Dev) : Dev :=
  { d with bmf.opens := [], bmf.sets := 0, bmf.egress := [], bmf.ramping := false
           bmf.eras := [{ at_ := d.run.s0, tbl := d.bmf.tbl, session := (d.actReg (bar pgBMF 0x8004)).setWidth 16 }]
           bmf.limited := d.pwr.level == 4, bmf.fullAt := none, bmf.stopped := decide (5 ≤ d.pwr.level)
           bmf.resumeAt := none }

end Sys2Proof.Machine
end

