-- ==== Sys2Proof/Machine/Trg.lean ====
section
/-! DEFINITION. The trigger unit: powers, decimation, dedispersion, boxcars, coincidence, decisions, the log, peers, lands
and table writes (R230 to R261). -/

namespace Sys2Proof.Machine

/-! ### The TRIGGER section (R254) -/

/-- a. -/
def Req.tA (r : Req) : Nat := leAt r.trigger 0 1
/-- q. -/
def Req.tQ (r : Req) : Nat := leAt r.trigger 1 1
/-- DMAX. -/
def Req.tDmax (r : Req) : Nat := leAt r.trigger 2 2
/-- WMAX. -/
def Req.tWmax (r : Req) : Nat := leAt r.trigger 4 2
/-- DSHIFT. -/
def Req.tDshift (r : Req) : Nat := leAt r.trigger 6 1
/-- NWID. -/
def Req.tNwid (r : Req) : Nat := leAt r.trigger 7 1
/-- CWIN. -/
def Req.tCwin (r : Req) : Nat := leAt r.trigger 8 2
/-- HOLDOFF. -/
def Req.tHoldoff (r : Req) : Nat := leAt r.trigger 10 2
/-- SWLAG. -/
def Req.tSwlag (r : Req) : Nat := leAt r.trigger 12 1
/-- NSEL. -/
def Req.tNsel (r : Req) : Nat := leAt r.trigger 13 1
/-- Entries of the log ring. -/
def Req.tLogEnts (r : Req) : Nat := leAt r.trigger 14 2 * 16384
/-- NSUB. -/
def Req.tNsub (r : Req) : Nat := r.nchan / 2 ^ r.tQ
/-- The trigger beams, rising (R230). -/
def Req.tBeams (r : Req) : List Nat := (List.range r.nbeam).filter fun b => (leAt r.beams (16 + 16 * b + 1) 1) / 4 % 2 == 1
/-- NTB. -/
def Req.ntb (r : Req) : Nat := r.tBeams.length
/-- Whether TRG runs: some beam is a trigger beam. -/
def Req.trigMode (r : Req) : Bool := r.beamMode && !r.trigger.isEmpty

/-- Offsets of the parts in the table image (R254, R255). -/
def Req.oMask (_ : Req) : Nat := 48
/-- Offset of the normalisation. -/
def Req.oNorm (r : Req) : Nat := r.oMask + 2 * r.ntb
/-- Offset of the delays. -/
def Req.oDelay (r : Req) : Nat := r.oNorm + 8 * (r.ntb * r.nchan)
/-- Offset of the thresholds. -/
def Req.oThr (r : Req) : Nat := r.oDelay + 2 * (16 * r.tNsub)
/-- Offset of the coincidence table. -/
def Req.oCoin (r : Req) : Nat := r.oThr + 1024
/-- Offset of the capture selections. -/
def Req.oSel (r : Req) : Nat := r.oCoin + 8192
/-- Bytes of a capture selection. -/
def Req.selSize (r : Req) : Nat := 16 + (r.ninput + 63) / 64 * 8
/-- `TBLSIZE`. -/
def Req.tTblSize (r : Req) : Nat := r.oSel + r.tNsel * r.selSize

/-- The table image of a request. -/
def Req.tTbl (r : Req) : Tab Byte := tblOf (r.trigger.drop 16)

/-- Width `n`. -/
def tWidth (t : Tab Byte) (n : Nat) : Nat := tblLe t (2 * n) 2
/-- TINMAP of a land. -/
def tTinMap (t : Tab Byte) (n : Nat) : Nat := tblLe t (16 + 2 * n) 2
/-- PEERMAP of a CLASS bit. -/
def tPeerMap (t : Tab Byte) (n : Nat) : Nat := tblLe t (24 + 2 * n) 2 % 4096
/-- SWMAP of a software source. -/
def tSwMap (t : Tab Byte) (n : Nat) : Nat := tblLe t (36 + 2 * n) 2 % 4096
/-- Beam mask. -/
def tMask (r : Req) (t : Tab Byte) (k : Nat) : Nat := tblLe t (r.oMask + 2 * k) 2 % 4096
/-- MU and GN. -/
def tNorm (r : Req) (t : Tab Byte) (k c : Nat) : Nat × Nat :=
  let o := r.oNorm + 8 * (k * r.nchan + c)
  (tblLe t o 4, tblLe t (o + 4) 2)
/-- d[m][s]. -/
def tDelay (r : Req) (t : Tab Byte) (m s : Nat) : Nat := tblLe t (r.oDelay + 2 * (m * r.tNsub + s)) 2
/-- THR[m][n]. -/
def tThr (r : Req) (t : Tab Byte) (m n : Nat) : Nat := tblLe t (r.oThr + 8 * (m * 8 + n)) 8 % 2 ^ 38
/-- Coincidence entry. -/
def tCoin (r : Req) (t : Tab Byte) (a : Nat) : BitVec 16 := BitVec.ofNat 16 (tblLe t (r.oCoin + 2 * a) 2)
/-- Capture selection: PRE, POST, groups, inputs. -/
def tSel (r : Req) (t : Tab Byte) (k : Nat) : Nat × Nat × List Nat × List Nat :=
  let o := r.oSel + k * r.selSize
  let gm := tblLe t (o + 8) 2
  (tblLe t o 4, tblLe t (o + 4) 4, (List.range r.groups).filter fun g => gm / 2 ^ g % 2 == 1,
   (List.range r.ninput).filter fun p => (Tab.get 0 t (o + 16 + p / 8)).getLsbD (p % 8))

/-- The table image in force at an SFN. -/
def Dev.trgTblAt (d : Dev) (f : Sfn) : Tab Byte :=
  match d.trg.tbls.find? fun e => atOrAfter f e.1 with
  | some e => e.2
  | none => []

/-- DECBOUND (R243), from the request's own table. -/
def Req.decBound (r : Req) : Nat :=
  if !r.trigMode then 0
  else
    let num := (1024 * r.tf + 255000) * r.fch
    let den := 6 * 256 * 10 ^ 9
    2 ^ r.tA * (r.tCwin + r.tWmax + r.tDmax) + r.lf + (num + den - 1) / den
    + (if (List.range 4).any fun n => tSwMap r.tTbl n != 0 then r.tSwlag * r.lf else 0)

/-! ### Powers and decimated values (R230 to R232) -/

/-- z of R231, and whether it saturates. -/
def normPower (mu gn : Nat) (t : Int × Int) : Int × Bool :=
  let v := conv 16 ((t.1 * t.1 + t.2 * t.2 - mu) * gn)
  (sat 16 v, satHits 16 v)

/-- y′ of a decimated value (R232). -/
def YSum.value (y : YSum) (dshift : Nat) : Int := sat 16 (conv dshift y.sum)

/-- Trigger sample that contains an SFN. -/
def Dev.tickOf (d : Dev) (f : Sfn) : Nat := (f - d.run.s0).toNat / 2 ^ (d.reqAt f).tA
/-- The a by which trigger samples are counted now: the outgoing plate's until a change of geometry has reached them. -/
def Dev.trgA (d : Dev) : Nat := match d.trg.geomAt with | some (_, a) => a | none => d.req.tA
/-- Trigger sample, as counted now, that contains an SFN. -/
def Dev.tickNum (d : Dev) (f : Sfn) : Nat := (f - d.run.s0).toNat / 2 ^ d.trgA
/-- First SFN of a trigger sample. -/
def Dev.tickSfn (d : Dev) (a i : Nat) : Sfn := d.run.s0 + BitVec.ofNat 48 (i * 2 ^ a)

/-- Key of a decimated value. -/
def yKey (i k s : Nat) : Nat := (i * 256 + k) * 1024 + s

/-- Key of a beam power. -/
def powKey (s : Sfn) (k c : Nat) : Nat := (s.toNat * 256 + k) * 1024 + c

/-- The history restarts at trigger sample `i` of the incoming plate: beam events of the outgoing one are gone, the
others keep their instants. -/
def Dev.trgRestart (d : Dev) (b : Sfn) (old new : Nat) : Dev :=
  let i := (b - d.run.s0).toNat / 2 ^ new
  let evs := d.trg.events.filterMap fun e =>
    match e.src with | .beam _ => none | _ => some { e with tick := e.tick * 2 ^ old / 2 ^ new }
  { d with trg.geomAt := none, trg.y := d.trg.yNew, trg.yNew := [], trg.hist := i, trg.next := i, trg.events := evs }

/-- A change of geometry takes effect once every trigger sample before its boundary is evaluated (R253). -/
def Dev.trgGeom (d : Dev) : Dev :=
  match d.trg.geomAt with
  | some (b, a) => if atOrAfter (d.tickSfn a d.trg.next) b then d.trgRestart b a d.req.tA else d
  | none => d

/-- A frame set's T values join the decimated values (R231, R232). -/
def Dev.trgTake (d : Dev) (o : OpenSet) (inv : Bool) : Dev :=
  let r := d.reqAt o.f
  if !r.trigMode || stoppedAt d.trg.stopped d.trg.resumeAt o.f then d
  else
    let tbl := d.trgTblAt o.f
    let bt := d.bmTblAt o.f
    let comp := d.beamsAt o.f
    let full := 2 ^ (r.tA + r.tQ)
    (r.tBeams.zipIdx).foldl (fun d bk =>
      if !(bmRoute bt bk.1).getLsbD 2 || !comp.contains bk.1 then d
      else (List.range 64).foldl (fun d c =>
        let ch := 64 * o.g + c
        let (mu, gn) := tNorm r tbl bk.2 ch
        (List.range r.lf).foldl (fun d t =>
          let v := d.trigVal r o bk.1 c t
          let (z, hit) := if inv then (0, false) else normPower mu gn (sat 16 v.1, sat 16 v.2)
          let key := yKey (d.tickOf (o.f + BitVec.ofNat 48 t)) bk.2 (ch / 2 ^ r.tQ)
          let late := match d.trg.geomAt with | some (b, _) => atOrAfter o.f b | none => false
          let y : YSum := Tab.get {} (if late then d.trg.yNew else d.trg.y) key
          let y : YSum := { sum := y.sum + z, n := y.n + 1, bad := y.bad || inv }
          let pk := powKey (r.sheetOf o.f) bk.2 ch
          let pw : Nat × Nat := Tab.get (0, 0) d.trg.pow pk
          let p := (sat 16 v.1).natAbs ^ 2 + (sat 16 v.2).natAbs ^ 2
          let d := { d with trg.y := if late then d.trg.y else Tab.set {} d.trg.y key y
                            trg.yNew := if late then Tab.set {} d.trg.yNew key y else d.trg.yNew
                            trg.pow := if inv then d.trg.pow else Tab.set (0, 0) d.trg.pow pk (pw.1 + p, pw.2 + 1) }
          let d := if hit then d.bump pgTRG 0x158 else d
          if y.n = full ∧ satHits 16 (conv r.tDshift y.sum) then d.bump pgTRG 0x160 else d) d) d) d

/-! ### Dedispersion, boxcars, beam events (R233 to R236) -/

/-- First tick of a trigger beam's history (R235, R253). -/
def Dev.histOf (d : Dev) (r : Req) (b : Nat) : Nat :=
  match d.trg.fullAt with
  | some f => if r.s4List.contains b then d.trg.hist else max d.trg.hist (d.tickOf f)
  | none => d.trg.hist

/-- y′[s][j] of a trigger beam, zero before its history. -/
def Dev.yAt (d : Dev) (r : Req) (h k s : Nat) (j : Int) : Int :=
  if j < h then 0 else (Tab.get {} d.trg.y (yKey j.toNat k s)).value r.tDshift

/-- S_m[j] (R233); `j` may lie before the run. -/
def Dev.trial (d : Dev) (r : Req) (h k m : Nat) (j : Int) : Int :=
  let tbl := d.trgTblAt (d.tickSfn r.tA j.toNat)
  ((List.range r.tNsub).map fun s => d.yAt r h k s (j + tDelay r tbl m s)).sum

/-- B_{m,n}[i] (R234). -/
def Dev.boxcar (d : Dev) (r : Req) (h k m w i : Nat) : Int :=
  ((List.range w).map fun (x : Nat) => d.trial r h k m ((i : Int) - x)).sum

/-- Whether some term of a candidate satisfies `p`: its tick, and its sub-band. -/
def Dev.anyTerm (d : Dev) (r : Req) (m w i : Nat) (p : Int → Nat → Bool) : Bool :=
  (List.range w).any fun (x : Nat) =>
    let j : Int := (i : Int) - x
    let tbl := d.trgTblAt (d.tickSfn r.tA j.toNat)
    (List.range r.tNsub).any fun s => p (j + tDelay r tbl m s) s

/-- The beam event of trigger beam `k` at trigger sample `i`, if any (R236). -/
def Dev.beamEvent (d : Dev) (r : Req) (k b i : Nat) : Option Event :=
  let h := d.histOf r b
  let tbl := d.trgTblAt (d.tickSfn r.tA i)
  let cands := (List.range 16).flatMap fun m => (List.range r.tNwid).filterMap fun n =>
    let w := tWidth tbl n
    let e := d.boxcar r h k m w i - tThr r tbl m n
    if 0 ≤ e then some (m, w, e) else none
  let best := cands.foldl (fun (x : Option (Nat × Nat × Int)) c =>
    match x with | some y => if y.2.2 < c.2.2 then some c else x | none => some c) none
  best.map fun (m, w, e) =>
    { src := .beam k, tick := i, beam := b, trial := m, width := w, excess := e
      sfn := d.tickSfn r.tA i - BitVec.ofNat 48 ((w - 1) * 2 ^ r.tA)
      invalid := d.anyTerm r m w i fun j s => decide (h ≤ j) && (Tab.get {} d.trg.y (yKey j.toNat k s)).bad
      warmup := d.anyTerm r m w i fun j _ => decide (j < h) }

/-! ### Coincidence and decisions (R237 to R241, R250, R251) -/

/-- The address bits of a source. -/
def sourceMask (r : Req) (t : Tab Byte) : Source → Nat
  | .beam k => tMask r t k
  | .peer _ c => tPeerMap t c
  | .tin n => tTinMap t n % 4096
  | .sw n => tSwMap t n

/-- Events whose tick lies in the window of trigger sample `i`. -/
def windowEvents (cwin i : Nat) (l : List Event) : List Event :=
  l.filter fun e => decide (e.tick ≤ i ∧ i < e.tick + cwin)

/-- A_i. -/
def coinAddr (r : Req) (t : Tab Byte) (l : List Event) : Nat := l.foldl (fun a e => a ||| sourceMask r t e.src) 0

/-- The best beam event of a window (R240). -/
def bestEvent (l : List Event) : Option Event :=
  l.foldl (fun x e =>
    match e.src with
    | .beam _ => (match x with
      | some y => if y.excess < e.excess ∨ (y.excess = e.excess ∧ e.beam < y.beam) then some e else x
      | none => some e)
    | _ => x) none

/-- An entry joins the log FIFO; when it is full the oldest entry is lost (R252). -/
def Dev.logFifo (d : Dev) (l : List Byte) : Dev :=
  let d := if 256 ≤ d.trg.fifo.length then ({ d with trg.fifo := d.trg.fifo.drop 1 }.bump pgTRG 0x170).raise pgTRG 0x4 else d
  ({ d with trg.fifo := d.trg.fifo ++ [l] }).raise pgTRG 0x1

/-- The outcome of a decision besides its event: what its log entry says of it. -/
structure Outcome where
  nocap : Bool := false
  busy  : Bool := false
  supp  : Bool := false
  deriving DecidableEq, Repr

/-- A log entry (R251). -/
def Dev.logEntry (d : Dev) (id : BitVec 16) (fired late : Bool) (oc : Outcome) (a : Nat) (ent : BitVec 16) (i : Nat)
    (r : Req) (best : Option Event) (win : List Event) : List Byte :=
  let t := tickMask
  let tin := win.any fun e => match e.src with | .tin _ => t r e | _ => false
  let peers := win.filterMap fun e => match e.src with | .peer s _ => if t r e then some s else none | _ => none
  let flags := b2n fired + 2 * b2n (!fired) + 4 * b2n oc.nocap + 8 * b2n oc.busy
    + 16 * b2n (match best with | some e => e.invalid | none => false)
    + 32 * b2n (match best with | some e => e.warmup | none => false)
    + 64 * b2n late + 128 * b2n tin + 256 * b2n (!peers.isEmpty) + 512 * b2n oc.supp
  let s := d.tickSfn r.tA i
  padTo 64 (leBytes 2 id.toNat ++ leBytes 2 flags ++ leBytes 2 a ++ leBytes 2 ent.toNat ++ leBytes 6 s.toNat ++ ([0, 0] : List Byte)
    ++ leBytes 6 (match best with | some e => e.sfn | none => s).toNat
    ++ leBytes 2 (match best with | some e => e.beam | none => 0xFFFF)
    ++ [BitVec.ofNat 8 (match best with | some e => e.trial | none => 0xFF), 0]
    ++ leBytes 2 (match best with | some e => e.width | none => 0)
    ++ leBytes 8 (BitVec.ofInt 64 (match best with | some e => e.excess | none => 0)).toNat
    ++ leBytes 8 d.time.arr.toNat ++ [BitVec.ofNat 8 (ent.toNat / 128 % 8), 0]
    ++ leBytes 2 (peers.foldl min 0xFFFF))
where
  /-- The source is mapped to some address bit. -/
  tickMask (r : Req) (e : Event) : Bool := sourceMask r (d.trgTblAt (d.tickSfn r.tA i)) e.src != 0

/-- The capture request of a decision (R250). -/
def Dev.decCapture (d : Dev) (r : Req) (tbl : Tab Byte) (sel : Nat) (id : BitVec 16) (t : Sfn) : Outcome × Dev :=
  if d.dkl.pins.any fun e => e.2.contains id then
    ({ nocap := true, busy := true }, d.bump pgTRG 0x128)
  else
    let (pre, post, groups, inputs) := tSel r tbl sel
    let (first, n) := r.spanOf t pre post
    let c : Cap := { id := id, t := t, pre := pre, post := post, inputs := inputs, groups := groups, first := first, nspan := n }
    let (ok, d) := (d.bump pgTRG 0x120).capRequest r c
    ({ nocap := !ok }, if ok then d else d.bump pgTRG 0x128)

/-- The pulses of a decision's OUTMASK (R247). -/
def Dev.trigOut (d : Dev) (mask : Nat) : Dev :=
  let w := (d.reg (bar pgTRG 0x105C)).toNat % 65536
  (List.range 4).foldl (fun d n =>
    if mask / 2 ^ n % 2 = 1 then
      ({ d with trg.outEnd := Tab.set none d.trg.outEnd n (some (d.time.loc.toNat + 2 * w)) }).emit
        (.land ("TRIGOUT" ++ toString n) true)
    else d) d

/-- The body of a TRIG frame (R244). -/
def trigBody (id : BitVec 16) (cls : Nat) (best : Option Event) (eoff toff : Nat) : List Byte :=
  let e32 := match best with
    | some e => (BitVec.ofInt 32 (sat 32 e.excess)).toNat
    | none => 0
  leBytes 2 id.toNat ++ [BitVec.ofNat 8 cls, BitVec.ofNat 8 (match best with | some e => e.trial | none => 0xFF)]
  ++ leBytes 2 (match best with | some e => e.beam | none => 0xFFFF)
  ++ leBytes 2 (match best with | some e => e.width | none => 0) ++ leBytes 4 e32
  ++ leBytes 4 (eoff + 256 * min toff (2 ^ 24 - 1))

/-- The TRIG frame of a decision is queued, or counted as not sent (R244, R247). -/
def Dev.decPeer (d : Dev) (r : Req) (i : Nat) (id : BitVec 16) (cls : Nat) (best : Option Event) : Dev :=
  let ctl := d.reg (bar pgTRG 0x1058)
  let ok := bitAt 1 ctl && (d.ing.key (fld 0 0 ctl)).isSome
  if !ok then d.bump pgTRG 0x138
  else
    let s := d.tickSfn r.tA i
    let blk := d.run.s0 + BitVec.ofNat 48 ((s - d.run.s0).toNat / r.lf * r.lf)
    let t := match best with | some e => e.sfn | none => s
    let q := d.trg.txSeq
    let d := { d with trg.txSeq := q + 1 }
    if d.mayPublish then
      { d with trg.txq := d.trg.txq ++ [{ seq := q, sfn := blk, body := trigBody id cls best (s - blk).toNat (s - t).toNat }] }
    else d.bump pgTRG 0x138

/-- Every frame set that trigger sample `i` needs has closed (R241). -/
def Dev.tickData (d : Dev) (r : Req) (i : Nat) : Bool :=
  let e := d.tickSfn r.tA (i + r.tDmax + 1)
  (List.range r.groups).all fun g => atOrAfter (d.closedTo g) e

/-- The time block that holds the last SFN of a trigger sample. -/
def Dev.tickBlock (d : Dev) (r : Req) (i : Nat) : Sfn :=
  d.run.s0 + BitVec.ofNat 48 (((i + 1) * 2 ^ r.tA - 1) / r.lf * r.lf)

/-- Some SWMAP is non-zero. -/
def usesSw (t : Tab Byte) : Bool := (List.range 4).any fun n => tSwMap t n != 0
/-- Some PEERMAP is non-zero. -/
def usesPeer (t : Tab Byte) : Bool := (List.range 6).any fun n => tPeerMap t n != 0

/-- The next trigger sample may be evaluated (R241, R253). -/
def Dev.tickDue (d : Dev) : Bool :=
  let i := d.trg.next
  let s := d.run.s0 + BitVec.ofNat 48 (i * 2 ^ d.trgA)
  let r := d.reqAt s
  let tbl := d.trgTblAt s
  let blk := d.tickBlock r i
  d.run.live && r.trigMode && !stoppedAt d.trg.stopped d.trg.resumeAt s
  && (match d.run.bLast with | some b => atOrAfter b (d.tickSfn r.tA (i + r.tDmax + 1)) | none => true)
  && d.tickData r i
  && (!usesPeer tbl || d.windowClosed r (blk + BitVec.ofNat 48 r.lf))
  && (!usesSw tbl || d.trg.sw.any (·.1 == blk) || d.trg.late.contains blk)

/-- The software events of a trigger sample (R248). -/
def Dev.swEvents (d : Dev) (r : Req) (i : Nat) : List Event :=
  let blk := d.tickBlock r i
  match d.trg.sw.find? (·.1 == blk) with
  | none => []
  | some (_, l) =>
    let j := if 2 ^ r.tA ≤ r.lf then i % (r.lf / 2 ^ r.tA) else 0
    let v := (l[j]?).getD 0
    (List.range 4).filterMap fun n => if v / 2 ^ n % 2 = 1 then some { src := .sw n, tick := i } else none

/-- The next trigger sample is evaluated; `lat`: nanoseconds from the last instant of R241 to the
decision. -/
def Dev.tickDecide (d : Dev) (lat : Nat) : Dev :=
  if !d.tickDue then d
  else
    let i := d.trg.next
    let s := d.run.s0 + BitVec.ofNat 48 (i * 2 ^ d.trgA)
    let r := d.reqAt s
    let tbl := d.trgTblAt s
    let lim := limitedAt d.trg.limited d.trg.fullAt s
    let evs := (r.tBeams.zipIdx).filterMap fun bk =>
      if lim && !r.s4List.contains bk.1 then none else d.beamEvent r bk.2 bk.1 i
    let all := (d.trg.events.filter fun e => decide (i < e.tick + 256)) ++ evs ++ d.swEvents r i
    let win := windowEvents r.tCwin i all
    let a := coinAddr r tbl win
    let ent := tCoin r tbl a
    let late := usesSw tbl && d.trg.late.contains (d.tickBlock r i)
    let isBad := (List.range r.ntb).any fun k => (List.range r.tNsub).any fun b => (Tab.get {} d.trg.y (yKey i k b)).bad
    let hit := ent.getLsbD 0 && a != d.trg.prevA
    let held := match d.trg.lastFired with | some j => decide (i ≤ j + r.tHoldoff) | none => false
    let best := bestEvent win
    let d := { d with trg.next := i + 1, trg.lastTick := some i, trg.events := all, trg.prevA := a }
    let d := (d.bump pgTRG 0x100).peak pgTRG 0x178 lat
    let d := if evs.isEmpty then d else d.bump pgTRG 0x108 evs.length
    let d := if isBad then d.bump pgTRG 0x168 else d
    if !hit then d
    else
      let id := d.trg.nextId
      if held then (d.bump pgTRG 0x118).logFifo (d.logEntry id false late {} a ent i r best win)
      else
        let d := { d with trg.nextId := id + 1, trg.fires := d.trg.fires + 1, trg.lastFired := some i }.bump pgTRG 0x110
        let t := match best with | some e => e.sfn | none => s
        let (oc, d) := if ent.getLsbD 1 then d.decCapture r tbl (ent.toNat / 128 % 8) id t else (({} : Outcome), d)
        let pub := d.mayPublish
        let d := if pub then d.trigOut (ent.toNat / 8 % 16) else d
        let d := if ent.getLsbD 2 then d.decPeer r i id (ent.toNat / 1024) best else d
        d.logFifo (d.logEntry id true late { oc with supp := !pub } a ent i r best win)

/-- TRIGGER_SAMPLE_EVAL: the next trigger sample is evaluated. -/
def Dev.tickEval (d : Dev) (lat : Nat) : Dev := (d.tickDecide lat).trgGeom

/-- SW_DEADLINE: the software sources of the block of the next trigger sample have missed their deadline (R241). -/
def Dev.swDeadline (d : Dev) : Dev :=
  let i := d.trg.next
  let s := d.run.s0 + BitVec.ofNat 48 (i * 2 ^ d.trgA)
  let r := d.reqAt s
  let blk := d.tickBlock r i
  if d.run.live && r.trigMode && usesSw (d.trgTblAt s) && !d.trg.sw.any (·.1 == blk) && !d.trg.late.contains blk
      && d.windowClosed r (blk + BitVec.ofNat 48 ((1 + r.tSwlag) * r.lf))
  then (({ d with trg.late := d.trg.late ++ [blk] }).bump pgTRG 0x150).raise pgTRG 0x8 else d

/-! ### Peers, lands, the log ring (R244 to R247, R252) -/

/-- An admitted TRIG frame becomes peer events, one for each CLASS bit (R245). -/
def Dev.peerEvent (d : Dev) (fr : List Byte) (f : Sfn) : Dev :=
  let d := d.enterDir fr f
  if !(d.reqAt f).trigMode then d
  else
    let e := f + BitVec.ofNat 48 (leAt fr 44 1)
    let cls := leAt fr 34 1
    let evs := (List.range 6).filterMap fun c =>
      if cls / 2 ^ c % 2 = 1 then some { src := .peer (frSrc fr) c, tick := d.tickNum e : Event } else none
    ({ d with trg.events := d.trg.events ++ evs }).bump pgTRG 0x140

/-- TRIGIN_EDGE: an edge of a land, held long enough to count (R246). -/
def Dev.triginEdge (d : Dev) (n : Nat) (rise : Bool) : Dev :=
  let d := { d with trg.tin := if rise then d.trg.tin ||| BitVec.ofNat 4 (2 ^ n) else d.trg.tin &&& ~~~(BitVec.ofNat 4 (2 ^ n)) }
  let r := d.reqAt d.time.sfn
  let m := tTinMap (d.trgTblAt d.time.sfn) n
  if d.run.live && r.trigMode && !stoppedAt d.trg.stopped d.trg.resumeAt d.time.sfn && m / (if rise then 4096 else 8192) % 2 == 1 then
    let t := d.tickNum d.time.sfn
    let d := d.bump pgTRG 0x148
    if d.trg.events.any fun e => e.src == .tin n && e.tick == t then d
    else { d with trg.events := d.trg.events ++ [{ src := .tin n, tick := t }] }
  else d

/-- TRIGOUT_PULSE_END: a pulse's width has passed (R247). -/
def Dev.trigoutEnd (d : Dev) (n : Nat) : Dev :=
  match Tab.get none d.trg.outEnd n with
  | some t =>
    if t ≤ d.time.loc.toNat then
      ({ d with trg.outEnd := Tab.set none d.trg.outEnd n none }).emit (.land ("TRIGOUT" ++ toString n) false)
    else d
  | none => d

/-- A TRIG frame for a lane (R244). -/
def Dev.trigFrame (d : Dev) (lane : Nat) (x : TrigOut) : List Byte :=
  let ctl := d.reg (bar pgTRG 0x1058)
  let h : FrameHdr := { type := 3, fmt := fld 0 0 ctl, src := (d.reg (bar pgTRG 0x1050)).toNat % 8192
                        session := (d.reg (bar pgTRG 0x1054)).toNat % 65536, sfn := x.sfn.toNat, seq := x.seq.toNat
                        link := d.linkTx lane, epoch := d.epoch }
  let b := h.bytes ++ x.body
  withTrailer (b ++ mac8 ((d.ing.key (fld 0 0 ctl)).getD []) b)

/-- Lanes whose role in force is `k`, rising. -/
def Dev.lanesOf (d : Dev) (k : Nat) : List Nat := (List.range 256).filter fun l => d.role l == k

/-- TRIG_FRAME_SEND: the next queued TRIG frame goes out once on each PEER lane (R244, R247). -/
def Dev.trigFrameSend (d : Dev) : Dev :=
  match d.trg.txq with
  | [] => d
  | x :: t =>
    let d := { d with trg.txq := t }
    if !d.mayPublish then d.bump pgTRG 0x138
    else ((d.lanesOf 3).foldl (fun d l => d.sendFrame l (d.trigFrame l x)) d).bump pgTRG 0x130

/-- Unread entries of the log ring. -/
def Dev.logOcc (d : Dev) : Nat :=
  let n := d.req.tLogEnts
  if n = 0 then 0 else (d.trg.logwr + n - d.trg.logrd) % n

/-- LOG_ENTRY_WRITE: the oldest FIFO entry moves into the log ring (R252). -/
def Dev.logEntryWrite (d : Dev) : Dev :=
  let n := d.req.tLogEnts
  match d.trg.fifo with
  | [] => d
  | l :: t =>
    if d.sys.state = .frozen ∨ n = 0 then d
    else
      let i := d.trg.logwr
      let d := ({ d with trg.fifo := t }).putBytes (loadedAddr pgTRG 0x1038 + 64 * i) l
      let full := (i + 1) % n == d.trg.logrd
      let d := { d with trg.logwr := (i + 1) % n, trg.logrd := if full then (d.trg.logrd + 1) % n else d.trg.logrd }
      let d := if full then (d.bump pgTRG 0x170).raise pgTRG 0x4 else d
      let mark := (d.reg (bar pgTRG 0x104C)).toNat % 2 ^ 24
      if mark != 0 && d.logOcc == mark && !full then d.raise pgTRG 0x2 else d

/-- LOGRD_WRITE: the host's read index advances within the filled part (R257, R261). -/
def Dev.logrdWrite (d : Dev) (v : Word) : Dev :=
  let n := d.req.tLogEnts
  let i := v.toNat % 2 ^ 24
  let bad := if n = 0 then decide (i ≠ 0) else decide (n ≤ i ∨ d.logOcc < (i + n - d.trg.logrd) % n)
  d.guard pgTRG 0x1048 (when' (v >>> 24 ≠ 0) eRSVD ++ when' bad 0x10) fun d => { d with trg.logrd := i }

/-! ### Table writes and commits (R238, R254, R255) -/

/-- What is wrong with the field of a new image that holds byte `o` (R238, R254). -/
def trgFieldErr (r : Req) (t : Tab Byte) (o : Nat) : Option Code :=
  let u16 := fun (a : Nat) => tblLe t a 2
  if o < 16 then
    let j := o / 2
    if r.tNwid ≤ j then (if u16 (2 * j) ≠ 0 then some 0x11 else none)
    else if u16 (2 * j) < 1 ∨ r.tWmax < u16 (2 * j) then some eRANGE
    else if j ≠ 0 ∧ u16 (2 * j) ≤ u16 (2 * j - 2) then some eCOMBO else none
  else if o < 24 then (if 0x4000 ≤ u16 (o / 2 * 2) then some eRSVD else none)
  else if o < 44 then (if 0x1000 ≤ u16 (o / 2 * 2) then some eRSVD else none)
  else if o < 48 then (if Tab.get 0 t o ≠ 0 then some eRSVD else none)
  else if o < r.oNorm then
    let v := u16 (o / 2 * 2)
    if 0x1000 ≤ v then some eRSVD else if v = 0 then some eCOMBO else none
  else if o < r.oDelay then (if 6 ≤ (o - r.oNorm) % 8 ∧ Tab.get 0 t o ≠ 0 then some eRSVD else none)
  else if o < r.oThr then
    let b := r.oDelay + (o - r.oDelay) / 2 * 2
    if r.tDmax < u16 b then some eRANGE else none
  else if o < r.oCoin then
    let b := r.oThr + (o - r.oThr) / 8 * 8
    let n := (o - r.oThr) / 8 % 8
    let v := tblLe t b 8
    if r.tNwid ≤ n ∧ v ≠ 0 then some 0x11 else if 2 ^ 38 ≤ v then some eRSVD else none
  else if o < r.oSel then
    let b := r.oCoin + (o - r.oCoin) / 2 * 2
    let e := u16 b
    if b = r.oCoin ∧ e % 2 = 1 then some eRANGE
    else if e / 2 % 2 = 1 ∧ r.tNsel ≤ e / 128 % 8 then some eRANGE else none
  else
    let k := (o - r.oSel) % r.selSize
    let base := r.oSel + (o - r.oSel) / r.selSize * r.selSize
    if k < 8 then (if r.premax < tblLe t (base + k / 4 * 4) 4 then some eCOMBO else none)
    else if k < 10 then (if 2 ^ r.groups ≤ u16 (base + 8) then some eRSVD else none)
    else if k < 16 then (if Tab.get 0 t o ≠ 0 then some eRSVD else none)
    else
      let p0 := (k - 16) * 8
      if (List.range 8).any fun i => decide (r.ninput ≤ p0 + i) && (Tab.get 0 t o).getLsbD i then some eRSVD else none

/-- A write touches the threshold part. -/
def Req.touchesThr (r : Req) (o n : Nat) : Bool := decide (o < r.oCoin ∧ r.oThr < o + n)

/-- TRG_TABLE_WRITE: a BAR2 write at byte `o` of the active or the shadow copy (R255, R468). -/
def Dev.trgTableWrite (d : Dev) (shadow : Bool) (o : Nat) (l : List Byte) : Dev :=
  let r := d.req
  let rej := fun (c : Code) (i : Nat) => { d with trg.tblErr := i }.tblReject pgTRG shadow c
  if !shadow || decide (r.tTblSize < o + l.length) then rej ePERM o
  else
    let new := tblPut d.trg.sh o l
    let errs := (List.range l.length).filterMap fun i => (trgFieldErr r new (o + i)).map fun c => (c, o + i)
    match errs.find? fun e => e.1 != 0x11 with
    | some (c, i) => rej c i
    | none =>
      if (d.pair.state == .matching || d.pair.state == .ready) && r.touchesThr o l.length then rej eSTATE o
      else if (d.page pgTRG).locked then rej eLOCK o
      else match errs with
        | e :: _ => rej e.1 e.2
        | [] => { d with trg.sh := new }

/-- The shadow differs from the active copy outside the threshold part (R255). -/
def Dev.trgOnlyThr (d : Dev) : Bool :=
  let r := d.req
  let act := match d.trg.tbls with | e :: _ => e.2 | [] => []
  let strip := fun (t : Tab Byte) => t.filter fun e => !decide (r.oThr ≤ e.1 ∧ e.1 < r.oCoin)
  strip act == strip d.trg.sh

/-- The trigger unit's shadow swaps for data from `b`. -/
def Dev.trgCommit (d : Dev) (b : Sfn) : Dev := { d with trg.tbls := (b, d.trg.sh) :: d.trg.tbls }

/-- A plate's trigger tables take over for trigger samples from `b`; a change of geometry restarts the history there
(R253). -/
def Dev.trgTakeover (d : Dev) (old new : Req) (b : Sfn) (keep : Bool) : Dev :=
  let t := new.tTbl
  let same := old.tA == new.tA && old.tQ == new.tQ && old.tNsub == new.tNsub && old.tDmax == new.tDmax
    && old.tWmax == new.tWmax && old.tNwid == new.tNwid && old.tBeams == new.tBeams
  let d := { d with trg.tbls := (b, t) :: d.trg.tbls, trg.sh := if keep then d.trg.sh else t }
  if same then d else ({ d with trg.geomAt := some (b, old.tA), trg.yNew := [] }).trgGeom

/-- The trigger unit at START. -/
def Dev.trgStart (d : Dev) : Dev :=
  let t := match d.trg.tbls with | e :: _ => e.2 | [] => []
  { d with trg.tbls := [(d.run.s0, t)], trg.y := [], trg.hist := 0, trg.next := 0, trg.lastTick := none, trg.events := []
           trg.pow := [], trg.prevA := 0, trg.lastFired := none, trg.nextId := 0, trg.fires := 0, trg.sw := [], trg.late := [], trg.txSeq := 0
           trg.limited := d.pwr.level == 4, trg.fullAt := none, trg.stopped := decide (5 ≤ d.pwr.level)
           trg.resumeAt := none, trg.geomAt := none, trg.yNew := [] }

/-- Evaluation is to resume with ingest at boundary `b` after a stop: history is empty (R235, R253). -/
def Dev.trgResume (d : Dev) (b : Sfn) : Dev :=
  let i := (b - d.run.s0).toNat / 2 ^ d.req.tA
  { d with trg.resumeAt := some b, trg.y := [], trg.yNew := [], trg.geomAt := none, trg.hist := i, trg.next := i
           trg.events := [] }

end Sys2Proof.Machine
end

