-- ==== Sys2Proof/Machine/ReqCheck.lean ====
section
/-! DEFINITION. Plate requests: decoding, the checks of R171, R299 and R300, task placement, and the budget (R168 to
R181, R283). -/

namespace Sys2Proof.Machine

/-! ### Decoding (R168 to R170) -/

/-- Offset and size of section `i` of a request. -/
def reqSect (l : List Byte) (i : Nat) : Nat × Nat := (leAt l (64 + 8 * i) 4, leAt l (68 + 8 * i) 4)

/-- The bytes of section `i`. -/
def reqBytes (l : List Byte) (i : Nat) : List Byte := let s := reqSect l i; slice l s.1 s.2

/-- The u16 entries of a section. -/
def u16s (b : List Byte) : List Nat := (List.range (b.length / 2)).map fun i => leAt b (2 * i) 2

/-- A lane set: the bytes other than 0xFF. -/
def laneBytes (b : List Byte) : List Nat := (b.map (·.toNat)).filter (· ≠ 255)

/-- An entry of the INPUTS section. -/
def inputEnt (b : List Byte) (i : Nat) : InputEnt :=
  { id := leAt b (8 * i) 2, tag := BitVec.ofNat 16 (leAt b (8 * i + 2) 2), lanes := laneBytes (slice b (8 * i + 4) 4) }

/-- A request decoded, whatever it holds. -/
def Req.parse (l : List Byte) : Req :=
  let n := leAt l 18 2
  let ins := reqBytes l 0
  let lan := reqBytes l 1
  { reqSize := leAt l 4 4, mode := leAt l 8 1, sfmt := leAt l 9 1, vfmt := leAt l 10 1, order := leAt l 11 1
    sym := leAt l 12 1, nplane := leAt l 13 1, kslog := leAt l 14 1, earlyB := leAt l 15 1, nchan := leAt l 16 2
    ninput := n, tileA := leAt l 20 2, sheetOff := leAt l 22 2, reamLen := leAt l 24 4, fch := leAt l 28 4
    nbeam := leAt l 32 2, powercap := leAt l 34 2, capgib := leAt l 36 2, capbw := leAt l 38 2, premax := leAt l 40 4
    satmax := leAt l 44 4, fwd := leAt l 48 1 % 2
    inputs := (List.range n).map (inputEnt ins)
    lanes := (List.range 256).map fun i => (leAt lan (2 * i) 1, leAt lan (2 * i + 1) 1)
    chprio := u16s (reqBytes l 2), beamprio := u16s (reqBytes l 3), beams := reqBytes l 4, trigger := reqBytes l 5
    burin := reqBytes l 6
    perm := let p := reqBytes l 7; (List.range (p.length / 4)).map fun i => leAt p (4 * i) 4 }

/-! ### The BURIN section (R276, R283) -/

/-- A field of task `i`. -/
def Req.task (r : Req) (i o n : Nat) : Nat := leAt r.burin (16 + 64 * i + o) n
/-- NTASK. -/
def Req.ntask (r : Req) : Nat := leAt r.burin 0 2
/-- CRITICAL. -/
def Req.tkCritical (r : Req) (i : Nat) : Bool := r.task i 2 1 % 2 == 1
/-- ORDERED. -/
def Req.tkOrdered (r : Req) (i : Nat) : Bool := r.task i 2 1 / 2 % 2 == 1
/-- The task's program. -/
def Req.tkProg (r : Req) (i : Nat) : List Word :=
  if r.task i 0 2 = 0 then
    (List.range (r.task i 12 4 / 4)).map fun k => BitVec.ofNat 32 (leAt r.burin (r.task i 8 4 + 4 * k) 4)
  else Config.stdTask (r.task i 0 2)
/-- SCALE. -/
def Req.tkScale (r : Req) (i : Nat) : Int := signed 8 (r.task i 46 1)

/-- GRANTS bit `k` (R283). -/
def Req.tkGrant (r : Req) (i k : Nat) : Bool := r.task i 3 1 / 2 ^ k % 2 == 1

/-- A task of the active plate holds grant `k` of R283: 0 BMF, 1 TRGNORM, 2 TRGSW, 3 MSP, 4 RECW. -/
def Dev.grantHeld (d : Dev) (k : Nat) : Bool :=
  match d.plt.active with
  | some p => (List.range p.req.ntask).any fun i => p.req.tkGrant i k
  | none => false

/-- What a core holds while tasks are placed: entries, instructions, data words, cycles. -/
structure CoreLoad where
  tasks  : List Nat := []
  prog   : Nat := 0
  data   : Nat := 0
  cyc    : Nat := 0
  deriving DecidableEq, Repr

/-- A core has room for task `i` (R178, R283). -/
def Req.coreTakes (r : Req) (c : CoreLoad) (i : Nat) : Bool :=
  decide (c.tasks.length < 8)
  && decide (c.prog + (r.tkProg i).length ≤ 8192)
  && decide (c.data + r.task i 24 2 ≤ 32768)
  && decide ((c.cyc + r.task i 4 4) * r.fch ≤ 1350000000 * r.ks * 256)
  && (r.tkCritical i || !c.tasks.any r.tkCritical)
  && c.tasks.all fun k => r.tkScale k == r.tkScale i && r.task k 47 1 == r.task i 47 1

/-- A core with task `i` added. -/
def Req.coreAdd (r : Req) (c : CoreLoad) (i : Nat) : CoreLoad :=
  { tasks := c.tasks ++ [i], prog := c.prog + (r.tkProg i).length, data := c.data + r.task i 24 2, cyc := c.cyc + r.task i 4 4 }

/-- The tasks in placement order: CRITICAL ones first (R178). -/
def Req.taskOrder (r : Req) : List Nat :=
  let l := List.range r.ntask
  l.filter r.tkCritical ++ l.filter fun i => !r.tkCritical i

/-- The placement of R178: the 64 cores' loads, or none where a task fits no core. -/
def Req.placement (r : Req) : Option (List CoreLoad) :=
  r.taskOrder.foldl (fun s i => s.bind fun cs =>
    (cs.findIdx? fun c => r.coreTakes c i).map fun k => cs.modify k fun c => r.coreAdd c i)
    (some (List.replicate 64 {}))

/-! ### Field checks: D_FORMAT (R169 to R171, R224, R254, R283) -/

/-- A check: byte offset of the field, and whether the field is right. -/
abbrev FieldCheck := Nat × Bool

/-- The header's checks, in ascending byte order. -/
def headerChecks (l : List Byte) : List FieldCheck :=
  let r := Req.parse l
  let zero := fun o n => (slice l o n).all (· == 0)
  [(0, leAt l 0 2 == 1), (2, zero 2 2), (4, 128 ≤ r.reqSize && r.reqSize ≤ 16777216), (8, 1 ≤ r.mode && r.mode ≤ 12),
   (9, decide (r.sfmt ≤ 1)), (10, decide (r.vfmt ≤ 1)), (11, decide (r.order ≤ 1)), (12, decide (r.sym ≤ 1)), (13, 1 ≤ r.nplane && r.nplane ≤ 4),
   (14, 12 ≤ r.kslog && r.kslog ≤ 16), (15, decide (r.earlyB ≤ 15)),
   (16, 64 ≤ r.nchan && r.nchan ≤ 1024 && r.nchan % 64 == 0), (18, 1 ≤ r.ninput && r.ninput ≤ 8192),
   (20, decide (r.tileA < 8192)), (22, decide (r.sheetOff < r.ks)), (24, 1 ≤ r.reamLen && r.reamLen ≤ 65536),
   (28, decide (1 ≤ r.fch))]
  ++ [(32, decide (r.nbeam ≤ 256)), (34, 100 ≤ r.powercap && r.powercap ≤ 450), (36, decide (r.capgib ≤ 64)), (38, decide (r.capbw ≤ 64)),
   (44, decide (r.satmax ≤ 16777215)), (48, decide (leAt l 48 1 ≤ 1)), (49, zero 49 15)]

/-- Section `i` lies within the request, past the header, and overlaps no section before it. -/
def sectOk (l : List Byte) (i : Nat) : Bool :=
  let s := reqSect l i
  s.2 == 0 || (128 ≤ s.1 && s.1 + s.2 ≤ leAt l 4 4
    && (List.range i).all fun j => let t := reqSect l j; t.2 == 0 || s.1 + s.2 ≤ t.1 || t.1 + t.2 ≤ s.1)

/-- The descriptors' checks. -/
def descChecks (l : List Byte) : List FieldCheck := (List.range 8).map fun i => (64 + 8 * i, sectOk l i)

/-- The checks of the task entries of a BURIN section at offset `o`. -/
def burinChecks (r : Req) (o : Nat) : List FieldCheck :=
  let b := r.burin
  if b.isEmpty then []
  else
    [(o, r.ntask ≤ 512 && 16 + 64 * r.ntask ≤ b.length), (o + 2, (slice b 2 14).all (· == 0))]
    ++ (List.range (min r.ntask 512)).flatMap fun i =>
      let e := o + 16 + 64 * i
      let f := r.task i
      let std := f 0 2 != 0
      [(e, decide (f 0 2 ≤ 6)), (e + 2, decide (f 2 1 < 4)), (e + 3, decide (f 3 1 < 32)),
       (e + 8, if std then f 8 4 == 0 else decide (f 8 4 + f 12 4 ≤ b.length)),
       (e + 12, std || (f 12 4 % 4 == 0 && f 12 4 ≤ 32768)),
       (e + 16, f 16 4 == 0 || decide (f 16 4 + f 20 4 ≤ b.length)), (e + 20, f 20 4 % 2 == 0),
       (e + 32, decide (f 32 2 < 512)), (e + 42, 1 ≤ f 42 1 && f 42 1 ≤ 32), (e + 43, 1 ≤ f 43 1 && f 43 1 ≤ 16),
       (e + 46, -8 ≤ r.tkScale i && r.tkScale i ≤ 8), (e + 47, decide (f 47 1 ≤ 1)), (e + 50, decide (f 48 2 + f 50 2 ≤ 512)),
       (e + 58, (slice b (16 + 64 * i + 58) 6).all (· == 0))]

/-- The first wrong byte of a part of a table image: the check of byte `i` answers a code. -/
def firstByte (n : Nat) (f : Nat → Option Code) : List FieldCheck :=
  match (List.range n).find? fun i => (f i).isSome with
  | some i => [(i, false)]
  | none => []

/-- The checks of the sections, in descriptor order. -/
def sectionChecks (l : List Byte) : List FieldCheck :=
  let r := Req.parse l
  let o := fun i => (reqSect l i).1
  let bt := r.bmTbl
  ((List.range r.ninput).map fun i => (o 0 + 8 * i, decide (leAt l (o 0 + 8 * i) 2 < 8192)))
  ++ ((List.range 256).flatMap fun i =>
      [(o 1 + 2 * i, decide (leAt l (o 1 + 2 * i) 1 ≤ 4)), (o 1 + 2 * i + 1, decide (leAt l (o 1 + 2 * i + 1) 1 ≤ 3))])
  ++ [(84, (reqSect l 2).2 % 2 == 0)]
  ++ ((r.chprio.zipIdx).map fun e => (o 2 + 2 * e.2, decide (e.1 < r.nchan)))
  ++ [(92, (reqSect l 3).2 % 2 == 0 && (reqSect l 3).2 ≤ 32)]
  ++ (if r.beams.isEmpty then [] else
      [(100, r.beams.length == 16 + r.bmTblSize), (o 4 + 2, (slice r.beams 2 2).all (· == 0)),
       (o 4 + 12, (slice r.beams 12 4).all (· == 0))]
      ++ (firstByte (if r.beams.length = 16 + r.bmTblSize then r.bmTblSize else 0) fun i => bmByteErr r i (Tab.get 0 bt i)).map
          fun e => (o 4 + 16 + e.1, e.2))
  ++ (if r.trigger.isEmpty then [] else
      [(108, r.trigger.length == 16 + r.tTblSize), (o 5, decide (r.tA ≤ 8)), (o 5 + 1, decide (r.tQ ≤ 6)), (o 5 + 2, decide (r.tDmax ≤ 4095)),
       (o 5 + 4, 1 ≤ r.tWmax && r.tWmax ≤ 256), (o 5 + 6, decide (r.tDshift ≤ 14)), (o 5 + 7, 1 ≤ r.tNwid && r.tNwid ≤ 8),
       (o 5 + 8, 1 ≤ r.tCwin && r.tCwin ≤ 256), (o 5 + 12, decide (r.tSwlag ≤ 15)), (o 5 + 13, decide (r.tNsel ≤ 8)),
       (o 5 + 14, 1 ≤ leAt r.trigger 14 2 && leAt r.trigger 14 2 ≤ 64)]
      ++ (firstByte (if r.trigger.length = 16 + r.tTblSize then r.tTblSize else 0) fun i =>
          match trgFieldErr r r.tTbl i with | some c => if c = eCOMBO then none else some c | none => none).map
          fun e => (o 5 + 16 + e.1, e.2))
  ++ burinChecks r (o 6)

/-! ### Disagreements: D_COMBO (R151, R170, R171, R205, R215, R254, R299, R300) -/

/-- The values of R299 for a mode. -/
def Req.modeOk (r : Req) : List FieldCheck :=
  let n := r.ninput
  let m := r.mode
  let f8 := r.sfmt == 1
  let big := m == 8 || m == 9
  let top := if m = 10 then (if r.nplane = 4 then 1023 else 1448) else if big then (if f8 then 4096 else 8192) else (if f8 then 1024 else 2048)
  let sfmtOk := if [1, 3, 6, 10].contains m then !f8 else if [2, 4, 7].contains m then f8 else true
  let vfmtOk := if [5, 9, 11].contains m then r.vfmt == 0 else if f8 && [2, 4, 7].contains m then r.vfmt == 1 else true
  let beamOk := if m = 3 ∨ m = 4 ∨ m = 11 then 1 ≤ r.nbeam && r.nbeam ≤ 64 else if m = 5 then 1 ≤ r.nbeam else if r.tile then r.nbeam ≤ 64 else r.nbeam == 0
  [(8, m != 12), (9, sfmtOk), (10, vfmtOk), (11, r.order == 0 || decide (0 < r.nbl)),
   (13, if m = 10 then r.nplane == 2 || r.nplane == 4 else r.nplane == 1),
   (18, n ≤ top && (!r.tile || 2 ≤ n)), (20, if r.tile then 1 ≤ r.tileA && r.tileA < n else r.tileA == 0), (32, beamOk)]

/-- The first index at which a list repeats an earlier element. -/
def repeatAt (l : List Nat) : Option Nat :=
  (List.range l.length).find? fun i => (l.take i).contains ((l[i]?).getD 0)

/-- The first INPUTS entry out of order within its set. -/
def Req.unordered (r : Req) : Option Nat :=
  (List.range r.ninput).find? fun i =>
    i != 0 && !(r.tile && i == r.tileA) && decide (((r.inputs[i]?).map (·.id)).getD 0 ≤ ((r.inputs[i - 1]?).map (·.id)).getD 0)

/-- The beam load of R205 does not exceed 100 %. -/
def Req.beamLoadOk (r : Req) : Bool :=
  decide (r.nbeam * r.ninput * r.nchan * r.fch * (r.sfmt + 1) ≤ 24576 * 10 ^ 9 * 256)

/-- Ingest bytes per second, times 256. -/
def Req.ingest256 (r : Req) : Nat := r.ninput * r.nchan * r.fch * r.bs

/-- Some beam is routed as bit `k` says. -/
def Req.routed (r : Req) (k : Nat) : List Nat :=
  (List.range r.nbeam).filter fun b => (bmRoute r.bmTbl b).getLsbD k

/-- The disagreements, as offsets of the later field. -/
def comboChecks (l : List Byte) : List FieldCheck :=
  let r := Req.parse l
  let o := fun i => (reqSect l i).1
  let sz := fun i => (reqSect l i).2
  let rep := fun (x : List Nat) (at_ : Nat → Nat) => match repeatAt x with | some i => [(at_ i, false)] | none => []
  let permOk := decide (r.perm.length = r.nbl) && sz 7 == 4 * r.nbl
    && (r.perm.mergeSort (· ≤ ·)) == List.range r.nbl
  r.modeOk
  ++ [(12, !(r.sym == 1 && r.sfmt == 1)), (10, !(r.vfmt == 0 && r.sfmt == 1 && r.corr)),
      (40, decide (r.premax * 256 * 1000 ≤ 160 * r.fch)), (28, decide (r.ingest256 ≤ 384 * 10 ^ 9 * 256)),
      (32, r.beamLoadOk), (68, sz 0 == 8 * r.ninput), (76, sz 1 == 512),
      (48, r.fwd == 0 || [1, 2, 3, 4, 6, 7].contains r.mode),
      (36, r.mode != 9 || decide (1 ≤ r.capgib)),
      (38, r.mode != 9 || (1 ≤ r.capbw && decide (r.ingest256 ≤ r.capbw * 10 ^ 9 * 256)))]
  ++ (if r.order = 1 then [(124, permOk)] else [])
  ++ (match r.unordered with | some i => [(o 0 + 8 * i, false)] | none => [])
  ++ rep (r.inputs.map (·.id)) (fun i => o 0 + 8 * i)
  ++ (r.inputs.zipIdx.flatMap fun e => if e.1.lanes.Nodup then [] else [(o 0 + 8 * e.2 + 4, false)])
  ++ rep r.chprio (fun i => o 2 + 2 * i)
  ++ rep r.beamprio (fun i => o 3 + 2 * i)
  ++ ((r.beamprio.zipIdx).map fun e => (o 3 + 2 * e.2, decide (e.1 < r.nbeam)))
  ++ (if r.nbeam = 0 then [(92, sz 3 == 0), (100, sz 4 == 0), (108, sz 5 == 0)]
      else
        [(100, sz 4 != 0), (108, (sz 5 != 0) == !(r.routed 2).isEmpty)]
        ++ ((List.range r.nbeam).map fun b => (o 4 + 16 + 16 * b + 1,
              !((bmRoute r.bmTbl b).getLsbD 0 && (bmOfmt r.bmTbl b == 1 || r.mode == 11))))
        ++ (if r.mode = 11 then (r.lanes.zipIdx).map fun e => (o 1 + 2 * e.2, e.1.1 != 2) else []))
  ++ (if r.trigger.isEmpty then [] else
      ((firstByte (if r.trigger.length = 16 + r.tTblSize then r.tTblSize else 0) fun i =>
          match trgFieldErr r r.tTbl i with | some c => if c = eCOMBO then some c else none | none => none).map
          fun e => (o 5 + 16 + e.1, e.2))
      ++ [(o 5, r.tA != 0 || decide (2 ≤ ((List.range r.ntb).filter fun k => tMask r r.tTbl k != 0).length))])

/-- The disagreements of the BURIN section: a second TRGSW grant, and records beyond the limits (R277, R281). -/
def Req.burinCombo (r : Req) (o : Nat) : List FieldCheck :=
  let sw := (List.range r.ntask).filter fun i => r.task i 3 1 / 4 % 2 == 1
  (match sw with | _ :: i :: _ => [(o + 16 + 64 * i + 3, false)] | _ => [])
  ++ (List.range r.ntask).filterMap fun i =>
    let words := 8 + r.task i 43 1 * r.tNsub * (r.lf / 2 ^ r.tA)
    if r.task i 32 2 / 2 % 2 == 1 && decide (8192 < words) then some (o + 16 + 64 * i + 43, false) else none

/-- The offset of the first wrong field, if any. -/
def firstWrong (l : List FieldCheck) : Option Nat := (l.find? fun e => !e.2).map (·.1)

/-- The least offset of a wrong field, if any. -/
def leastWrong (l : List FieldCheck) : Option Nat := ((l.filter fun e => !e.2).map (·.1)).min?

/-- What R171 finds wrong with a request: D_FORMAT or D_COMBO, and the offset. -/
def reqRefused (l : List Byte) : Option (Code × Nat) :=
  match firstWrong (headerChecks l ++ descChecks l) with
  | some o => some (0x32, o)
  | none =>
    match leastWrong [(68, (reqSect l 0).2 == 8 * leAt l 18 2), (76, (reqSect l 1).2 == 512)] with
    | some o => some (0x33, o)
    | none =>
      match firstWrong (sectionChecks l) with
      | some o => some (0x32, o)
      | none => (leastWrong (comboChecks l ++ (Req.parse l).burinCombo (reqSect l 6).1)).map fun o => (0x33, o)

/-! ### Lanes (R173, R174) -/

/-- Logical lanes of a role. -/
def Req.lanesOf (r : Req) (role : Nat) : List Nat := (List.range 256).filter fun i => ((r.lanes[i]?).getD (0, 0)).1 == role
/-- Rate of a logical lane. -/
def Req.laneRate (r : Req) (i : Nat) : Nat := ((r.lanes[i]?).getD (0, 0)).2
/-- Lanes that explicit sets name. -/
def Req.explicitLanes (r : Req) : List Nat := (r.inputs.flatMap (·.lanes)).dedup
/-- The lanes AUTO units are dealt onto. -/
def Req.autoLanes (r : Req) : List Nat := (r.lanesOf 1).filter fun i => !r.explicitLanes.contains i

/-- Position of unit `u` of `n` dealt in consecutive runs onto `k` lanes (R173). -/
def dealPos (n k u : Nat) : Nat :=
  let big := n % k
  let s := n / k
  if u < big * (s + 1) then u / (s + 1) else big + (u - big * (s + 1)) / max 1 s

/-- The group map: the lane of channel group `g` of the `i`-th input (R173). -/
def Req.groupLane (r : Req) (i g : Nat) : Nat :=
  let e := (r.inputs[i]?).getD ⟨0, 0, []⟩
  if e.lanes.isEmpty then
    let before := ((r.inputs.take i).filter (·.lanes.isEmpty)).length
    let ua := (r.inputs.filter (·.lanes.isEmpty)).length * r.groups
    let al := r.autoLanes
    (al[dealPos ua (max 1 al.length) (before * r.groups + g)]?).getD 255
  else (e.lanes[g % e.lanes.length]?).getD 255

/-- The lane set of the `i`-th input as the plate binds it (R172, R173). -/
def Req.boundLanes (r : Req) (i : Nat) : List Nat :=
  let e := (r.inputs[i]?).getD ⟨0, 0, []⟩
  if e.lanes.isEmpty then (((List.range r.groups).map (r.groupLane i)).filter (· ≠ 255)).dedup else e.lanes

/-- Units on each lane, for the group maps of the first `n` inputs. -/
def Req.laneUnits (r : Req) : Tab Nat :=
  (List.range r.ninput).foldl (fun t i => (List.range r.groups).foldl (fun t g =>
    let k := r.groupLane i g; Tab.set 0 t k (Tab.get 0 t k + 1)) t) []

/-- Load of an INGEST lane with `u` units, in 0.01 % (R174). -/
def Req.inLoad (r : Req) (lane u : Nat) : Nat :=
  nearest (u * r.fch * 10000 * capDen) (256 * r.lf * capNum (r.laneRate lane))

/-- `RATE` of a lane with `u` units: frames per ms in 1/256, to the nearest (R60, R73, R173). -/
def Req.rateOf (r : Req) (u : Nat) : Nat := nearest (u * r.fch) (r.lf * 1000)

/-- Beams routed to EGRESS with the lane each is dealt to (R174). -/
def Req.beamDeal (r : Req) : List (Nat × Nat) := (r.routed 0).map fun b => (b, (r.beamLane r.bmTbl b).getD 255)

/-- Load of an EGRESS lane with `n` beams, as a fraction. -/
def Req.egShare (r : Req) (lane n : Nat) : Nat × Nat :=
  (n * r.nchan * r.fch * 2 * capDen, 4096 * 256 * capNum (r.laneRate lane))
/-- The same in 0.01 %. -/
def Req.egLoad (r : Req) (lane n : Nat) : Nat :=
  let x := r.egShare lane n
  nearest (x.1 * 10000) x.2

/-- INLANE and EGLANE of the budget (R185). -/
def Req.inLane (r : Req) : Nat := (r.laneUnits.map fun e => r.inLoad e.1 e.2).foldl max 0
/-- EGLANE. -/
def Req.egLane (r : Req) : Nat :=
  ((r.lanesOf 2).map fun k => r.egLoad k ((r.beamDeal.filter (·.2 == k)).length)).foldl max 0

/-- The lane checks of R174; `failed` tells which lanes are in `FAILMAP` (R315). -/
def Req.lanesOk (r : Req) (failed : Nat → Bool) : Bool :=
  (r.laneUnits.all fun e => e.1 < 256 && decide (e.2 * r.fch * capDen * 100 ≤ 96 * 256 * r.lf * capNum (r.laneRate e.1)))
  && ((r.lanesOf 2).all fun k =>
    let x := r.egShare k ((r.beamDeal.filter (·.2 == k)).length)
    decide (x.1 * 100 ≤ 99 * x.2))
  && (!r.autoLanes.isEmpty || r.inputs.all fun e => !e.lanes.isEmpty)
  && (r.explicitLanes.all fun k => (r.lanesOf 1).contains k)
  && ((r.routed 0).isEmpty || !(r.lanesOf 2).isEmpty)
  && ((List.range r.ninput).all fun i => (r.boundLanes i).length ≤ 4)
  && (List.range 256).all fun k => ((r.lanes[k]?).getD (0, 0)).1 == 0 || !failed k

/-! ### The budget (R181, R185) -/

/-- The six traffic figures in B/s, times 256 and K_s × REAMLEN where they share it (R185). -/
def Req.traffic (r : Req) : List Nat :=
  let ing := r.ingest256 / 256
  let lta := (if r.reamLen = 1 then 1 else 2) * r.visData * r.fch / (r.ks * 256)
  let beam := fun (b : Nat) =>
    let rt := bmRoute r.bmTbl b
    (b2n (rt.getLsbD 0) + b2n (rt.getLsbD 1)) * 2 * (r.nchan * r.fch * (if bmOfmt r.bmTbl b = 0 then 2 else 4) / 256)
  [ing, if r.corr then ing else 0, lta, ((List.range r.nbeam).map beam).sum, r.recSize * r.fch / (r.ream * 256),
   r.capbw * 10 ^ 9]

/-- MEMBW: share of 1.536 TB/s, 0.01 %. -/
def Req.membw (r : Req) : Nat := nearest (r.traffic.sum * 10000) (1536 * 10 ^ 9)
/-- The traffic keeps the ceiling of R21. -/
def Req.membwOk (r : Req) : Bool := decide (r.traffic.sum * 100 ≤ 85 * 1536 * 10 ^ 9)
/-- The regions in GiB, with the sheet buffer's size. -/
def Req.regions (r : Req) (buf : Nat) : List Nat := [buf, r.capgib, r.visGiB, tablesGiB, recordsGiB]
/-- On-die capacity for beam and trigger tables and tasks (R178, R224, R256). -/
def Req.onDieOk (r : Req) : Bool :=
  decide (2 * (r.bmTblSize - 6 * (r.nbeam * r.ninput)) ≤ 14 * 2 ^ 20)
  && (r.trigger.isEmpty || decide (6 * r.ntb * r.nchan + 2 * r.ntb * r.tNsub * (r.tDmax + 1) + 80 * r.ntb * r.tWmax + 65536 ≤ 4194304))
  && r.placement.isSome
/-- The record sections fit the region: what exceeds the visibility region counts against the records region (R152). -/
def Req.recordOk (r : Req) : Bool := decide (2 * r.recSize ≤ r.visGiB * gib + recordsGiB * gib)

/-- The largest candidate for which a check passes; 0 where none does (R193). -/
def largest (l : List Nat) (p : Nat → Bool) : Nat := (l.filter p).foldl max 0

end Sys2Proof.Machine
end

