-- ==== Sys2Proof/Machine/Plt.lean ====
section
/-! DEFINITION. The plate unit: building, proofing, arming, slots, the mode (R172 to R204, R294, R295, R299). -/

namespace Sys2Proof.Machine

/-! ### Slots -/

/-- BAR2 offset of a physical slot (R194). -/
def slotBase (s : Bool) : Nat := (Config.loaded (bar pgPLT (if s then 0x1034 else 0x1030))).toNat * 4096
/-- Bytes of a slot. -/
def slotSize : Nat := 64 * 2 ^ 20
/-- The staged physical slot. -/
def PltSt.stagedSlot (p : PltSt) : Bool := !p.actSlot

/-! ### The image (R182, R183, R186, R190) -/

/-- A digest as a 256-bit number, first byte highest. -/
def digest (l : List Byte) : BitVec 256 := BitVec.ofNat 256 (beNat (sha256 l))

/-- The fault map snapshot image with GEN zero, as FMAPHASH covers it (R182). -/
def fmapBytes (qmask : BitVec 256) (excl : List Excl) : List Byte := fmapImage 0 (qmask.setWidth 160) excl

/-- The twelve power figures of a plate (R181, R185). -/
def powerRows (req fmap : List Byte) : List Nat := (List.range 12).map (Config.powerRow req fmap)

/-- The BUDGET section (R185). -/
def Plate.budget (p : Plate) (req fmap : List Byte) : List Byte :=
  let r := p.req
  let w := powerRows req fmap
  (([p.sheetCyc, p.load, r.s2List.length] ++ r.traffic.map (· / 10 ^ 6) ++ [r.membw] ++ (r.regions p.buf).map (· * 1024)
    ++ [r.inLane, r.egLane] ++ w ++ [w.sum, p.retain, r.w]).map (leBytes 4)).flatten

/-- The sections of a built image that are not empty, in ascending type (R183). -/
def Plate.sections (p : Plate) (req fmap : List Byte) : List (Nat × List Byte) :=
  [(1, req), (2, p.budget req fmap)]
  ++ (((List.range 11).map fun i => (i + 3, Config.section (i + 3) req fmap)).filter fun e => !e.2.isEmpty)

/-- Type, offset and size of sections laid out from byte `at_` on 4 KiB boundaries (R183). -/
def layout (at_ : Nat) : List (Nat × List Byte) → List (Nat × Nat × Nat)
  | [] => []
  | e :: l => (e.1, roundUp at_ 4096, e.2.length) :: layout (roundUp at_ 4096 + e.2.length) l

/-- A section is RESIDENT (R183). -/
def residentType (t : Nat) : Bool := t == 5 || t == 7 || t == 12

/-- A directory entry (R183). -/
def dirEntry (e : Nat × Nat × Nat) : List Byte :=
  leBytes 2 e.1 ++ leBytes 2 (b2n (residentType e.1)) ++ leBytes 4 0 ++ leBytes 8 e.2.1 ++ leBytes 8 e.2.2 ++ leBytes 8 0

/-- The image header with HASH zero (R182). -/
def imageHeader (bldver : Word) (req fmap : List Byte) (size nsect : Nat) : List Byte :=
  leBytes 4 1 ++ leBytes 4 bldver.toNat ++ leBytes 8 size ++ leBytes 4 nsect
  ++ List.replicate 44 0 ++ sha256 req ++ sha256 fmap

/-- The image of the plate that the builder makes (R182, R183). -/
def buildImage (p : Plate) (req fmap : List Byte) : List Byte :=
  let l := p.sections req fmap
  let dir := layout (128 + 32 * l.length) l
  let size := (dir.map fun e => e.2.1 + e.2.2).foldl max 0
  let h := imageHeader p.bldver req fmap size l.length ++ (dir.map dirEntry).flatten
  let img := l.foldl (fun b e => padTo (roundUp b.length 4096) b ++ e.2) h
  overlay img 32 (sha256 img)

/-- Bytes of a plate's resident sections (R184). -/
def Plate.resident (p : Plate) (req fmap : List Byte) : Nat :=
  (((p.sections req fmap).filter fun e => residentType e.1).map fun e => e.2.length).sum

/-! ### The planned quantities -/

/-- Pages assigned and not consumed at any instant of the periodic schedule stay within the buffer, and no page is
overwritten before it is consumed (conditions 1 and 2 of R91). -/
def Plate.choreo (p : Plate) (chunks : Nat) : Bool :=
  let r := p.req
  let ks : Int := r.ks
  let pt : Int := r.pt
  let per := r.pagesPer
  (List.range per).all fun kn =>
    let t : Int := kn * pt - r.earlyB * r.lf
    let live := [-(2 * ks), -ks, 0].foldl (fun n s =>
      n + ((List.range r.groups).map fun g => ((List.range per).filter fun (k : Nat) =>
        let e : Int := if r.corr then s + ks + r.w + p.consumeLag g k else s + ((k : Int) + 1) * pt + r.w
        decide (s + (k : Int) * pt - r.earlyB * r.lf < t) && !decide (e ≤ t)).length).sum) 0
    decide (live + r.groups ≤ chunks)

/-- The longest capture pre-time plus W plus the decision bound (condition 4 of R91); 0 where nothing is captured. -/
def Req.needRetain (r : Req) (premax : Nat) : Nat := if r.trigMode then premax + r.w + r.decBound else 0

/-- GiB left for the sheet buffer once the other regions are placed. -/
def Req.bufRoom (r : Req) : Nat := 160 - (r.capgib + r.visGiB + tablesGiB + recordsGiB)

/-- Slots of a buffer of `n` GiB in units of one channel group at one page index of every input. -/
def Plate.chunks (p : Plate) : Nat := p.bufSlots / max 1 p.req.ninput

/-- The plate for a request and a fault map: buffer sized by R92, retention of R90. -/
def mkPlate (r : Req) (qmask : BitVec 256) (excl : List Excl) (bldver : Word) : Plate :=
  let p : Plate := { req := r, qmask := qmask, excl := excl, bldver := bldver }
  let b0 := max 1 r.bufGiB0
  let b := p.bufGiB (r.needRetain r.premax) (r.bufRoom - b0) b0
  let p := { p with buf := b }
  { p with retain := (p.retention p.chunks).toNat }

/-! ### Checks of R192 with the limits of R193 -/

/-- A refusal: code, quantity, its largest feasible value, and RESULTOFF. -/
structure Refused where
  code : Code
  qty  : Nat := 0
  val  : Nat := 0
  off  : Nat := 0
  deriving DecidableEq, Repr

/-- Channel counts a request can name, and whether a check holds at each (R193). -/
def limChannels (r : Req) (p : Req → Bool) : Nat :=
  largest ((List.range 17).map (64 * ·)) fun c => c != 0 && p { r with nchan := c }

/-- A request with its first `n` inputs. -/
def Req.firstInputs (r : Req) (n : Nat) : Req := { r with ninput := n, inputs := r.inputs.take n }

/-- D_WINDOW (R172). -/
def chkWindow (r : Req) : List Refused :=
  if r.earlyB < r.bcap then []
  else if r.earlyB = 0 then
    [{ code := 0x38, qty := 2, val := largest (List.range (r.ninput + 1)) fun n => n != 0 && decide (1 ≤ (r.firstInputs n).bcap) }]
  else [{ code := 0x38, qty := 5, val := largest (List.range 16) fun e => decide (e < r.bcap) }]

/-- D_LANES (R173, R174). -/
def chkLanes (r : Req) (failed : Nat → Bool) : List Refused :=
  if r.lanesOk failed then []
  else [{ code := 0x39, qty := 2, val := largest (List.range (r.ninput + 1)) fun n => n != 0 && (r.firstInputs n).lanesOk failed }]

/-- D_MEMCAP (R176). -/
def chkMemcap (r : Req) : List Refused :=
  let fits := fun (c : Nat) => decide (r.bufGiB0 + c + r.visGiB + tablesGiB + recordsGiB ≤ 160)
  if fits r.capgib then [] else [{ code := 0x36, qty := 3, val := largest (List.range 65) fits }]

/-- The largest value in `[lo, hi)` for which a check that fails from some value on holds, `lo` where none above does. -/
def bisect (p : Nat → Bool) : Nat → Nat → Nat → Nat
  | 0, lo, _ => lo
  | n + 1, lo, hi =>
    if hi ≤ lo + 1 then lo
    else if p ((lo + hi) / 2) then bisect p n ((lo + hi) / 2) hi else bisect p n lo ((lo + hi) / 2)

/-- D_RECORD (R152). -/
def chkRecord (r : Req) : List Refused :=
  if r.recordOk then []
  else
    [{ code := 0x37, qty := 6, val := bisect (fun s => ({ r with satmax := s } : Req).recordOk) 25 0 (2 ^ 24) }]

/-- D_HATTIME (R20, R121). -/
def chkHattime (p : Plate) : List Refused :=
  let ok := fun (r : Req) =>
    let q := { p with req := r }
    r.units.isEmpty || (q.passes != 0 && decide (q.sheetCyc * r.fch * 100 ≤ 97 * (r.ks * 3 * 10 ^ 9 * 256)))
  if ok p.req then [] else [{ code := 0x3C, qty := 1, val := limChannels p.req ok }]

/-- D_MEMBW (R21). -/
def chkMembw (r : Req) : List Refused :=
  if r.membwOk then [] else [{ code := 0x3D, qty := 1, val := limChannels r Req.membwOk }]

/-- D_POWER (R181). -/
def chkPower (r : Req) (req fmap : List Byte) : List Refused :=
  let ok := fun (c : Nat) => decide ((powerRows (overlay req 16 (leBytes 2 c)) fmap).sum ≤ 10 * r.powercap)
  if ok r.nchan then [] else [{ code := 0x3E, qty := 1, val := largest ((List.range 17).map (64 * ·)) fun c => c != 0 && ok c }]

/-- D_RETAIN (R91, R92). -/
def chkRetain (p : Plate) : List Refused :=
  let r := p.req
  if r.needRetain r.premax ≤ p.retain then []
  else
    let most := { p with buf := max p.buf r.bufRoom }
    let have_ : Nat := (most.retention most.chunks).toNat
    [{ code := 0x3B, qty := 4, val := min (160 * r.fch / 256000) (have_ - r.w - r.decBound) }]

/-- D_CHOREO (R91, R180). -/
def chkChoreo (p : Plate) : List Refused := if p.choreo p.chunks then [] else [{ code := 0x3A }]

/-- D_ONDIE. -/
def chkOndie (p : Plate) (req fmap : List Byte) : List Refused :=
  if p.req.onDieOk && decide (p.resident req fmap ≤ 4 * 2 ^ 20) then [] else [{ code := 0x35 }]

/-- A row that an exclusion names lies in a region of the plate that its slot queues do not skip (R176, R349). -/
def Plate.usesExcl (p : Plate) (e : Excl) : Bool :=
  let slots := p.buf + p.req.capgib
  let top := (p.req.regions p.buf).sum
  -- channel-local rows of a region end: 40 channels of blocks, two blocks to a row
  let rowsTo := fun (g : Nat) => (g * gib / 32768 / 40 + 1) / 2
  let known := p.excl.any fun x => x.chan == e.chan && x.bank == e.bank && decide (x.row ≤ e.row) && decide (e.row + e.count ≤ x.row + x.count)
  (decide (e.row < rowsTo slots) && !known) || (decide (e.row < rowsTo top) && decide (rowsTo slots < e.row + e.count))

/-- D_FAULTMAP: a quire in use, or a row in use, is excluded by the fault map (R192). -/
def chkFaultmap (p : Plate) (qmask : BitVec 256) (excl : List Excl) (failed : Bool) : List Refused :=
  let used := (List.range p.passes).flatMap fun k => (p.passUnits k).map (·.1)
  if failed || used.any (fun q => qmask.getLsbD q) || excl.any p.usesExcl then [{ code := 0x34 }] else []

/-- The sheet-buffer size, reserve and slots of two plates are equal, with the fields of R36 (R36, R94). -/
def sameRun (a b : Plate) : Bool :=
  a.req.mode == b.req.mode && a.req.ninput == b.req.ninput && a.req.nchan == b.req.nchan && a.req.kslog == b.req.kslog
  && a.req.sfmt == b.req.sfmt && a.req.vfmt == b.req.vfmt && a.req.capgib == b.req.capgib

/-- The memory layout of two plates is equal (R94). -/
def sameLayout (a b : Plate) : Bool := a.buf == b.buf && a.req.capgib == b.req.capgib && a.bufBlocks == b.bufBlocks
  && (List.range 40).all fun c => a.queue c == b.queue c && a.reserve c == b.reserve c

/-- The lanes of `FAILMAP` (R315). -/
def Dev.laneFailed (d : Dev) (n : Nat) : Bool := (d.lane n).state == .failed

/-- Some memory channel is FAILED (R354). -/
def Dev.chanFailed (d : Dev) : Bool := (List.range 40).any fun c => (d.mchan c).failed

/-- What the builder finds, phase by phase (R188, R192). -/
def buildRefused (d : Dev) (req : List Byte) (p : Plate) : Option Refused :=
  match reqRefused req with
  | some (c, o) => some { code := c, off := o }
  | none =>
    let r := p.req
    let fm := fmapBytes p.qmask p.excl
    (chkWindow r ++ chkLanes r d.laneFailed
      ++ (if r.units.isEmpty || p.passes != 0 then [] else chkHattime p)
      ++ chkFaultmap p p.qmask p.excl d.chanFailed ++ chkMemcap r ++ chkChoreo p ++ chkRetain p
      ++ chkRecord r ++ chkOndie p req fm ++ chkHattime p ++ chkMembw r ++ chkPower r req fm).head?

/-- What proofing finds in a decoded plate, in the order of R192 from D_FAULTMAP on. -/
def Dev.proofRefused (d : Dev) (req : List Byte) (p : Plate) : Option Refused :=
  let r := p.req
  let fm := fmapBytes p.qmask p.excl
  let swap := match d.plt.active with
    | some a => if (d.sys.state = .running ∨ d.sys.state = .draining) ∧ !(sameRun a p && sameLayout a p) then [{ code := 0x3F }] else []
    | none => []
  (chkFaultmap p (d.hat.qmask.setWidth 256) d.plt.excl d.chanFailed ++ chkOndie p req fm ++ chkMemcap r ++ chkRecord r
    ++ chkWindow r ++ chkLanes r d.laneFailed ++ chkChoreo p ++ chkRetain p ++ chkHattime p ++ chkMembw r
    ++ chkPower r req fm ++ (swap : List Refused)).head?

/-! ### BUILD and PROOF (R187 to R193) -/

/-- The loaded Attine image's builder version. -/
def bldver : Word := Config.loaded (bar pgPLT 0x1020)

/-- What refuses BUILD or PROOF (R187, R191, R356, R487). -/
def Dev.buildErrs (d : Dev) (proof : Bool) : List Code :=
  let p := d.plt
  when' (!(d.sys.state == .ready || d.sys.state == .idle || d.sys.state == .running || d.sys.state == .draining)) eSTATE
  ++ when' (decide (5 ≤ d.pwr.level)) eSHED
  ++ when' (p.busy || p.staged == .armed || p.staged == .retiring || d.mctl.mstat == .retrain) eBUSY
  ++ when' (proof && p.staged == .empty) 0x10

/-- BUILD is accepted. -/
def Dev.build (d : Dev) : Dev :=
  let a := (d.reg (bar pgPLT 0x1000)).toNat * 4096
  let n := max 128 (min 16777216 (leNat (d.bytes (a + 4) 4)))
  { d with plt.staged := .busy, plt.stagedP := none, plt.budValid := false, plt.op := 1, plt.phase := 1, plt.pct := 0
           plt.busy := true, plt.ready := false, plt.snapReq := d.bytes a n, plt.snapQ := d.hat.qmask.setWidth 256
           plt.snapExcl := d.plt.excl }

/-- PROOF is accepted. -/
def Dev.proof (d : Dev) : Dev :=
  { d with plt.staged := .busy, plt.op := 2, plt.phase := 0, plt.pct := 0, plt.busy := true, plt.ready := false }

/-- A build or proof ends with a result; the slot takes a state. -/
def Dev.pltEnd (d : Dev) (s : SlotState) (x : Refused) : Dev :=
  let p := d.plt
  let g := p.gen + 1
  let d := { d with plt.staged := s, plt.resOp := p.op, plt.op := 0, plt.phase := 0, plt.pct := 100, plt.busy := false
                    plt.gen := g, plt.code := x.code, plt.limqty := x.qty, plt.ready := true, plt.resGen := g
                    plt.resVal := BitVec.ofNat 32 x.val, plt.resOff := BitVec.ofNat 32 x.off
                    plt.snapReq := [], plt.snapExcl := [], plt.snapQ := 0 }
  let d := d.bump pgPLT (if p.op = 1 then 0x100 else 0x108)
  let d := if x.code = 0 then d else d.bump pgPLT 0x110
  d.raise pgPLT 0x1

/-- A build or proof in progress is ended: the memory controller freezes, S5 is reached, or the Mladef island resets
(R189, R487, R516). -/
def Dev.pltAbort (d : Dev) (c : Code) : Dev :=
  if !d.plt.busy then d else d.pltEnd (if d.plt.op = 1 then .empty else .loaded) { code := c }

/-- BUILD_DONE. -/
def Dev.buildDone (d : Dev) : Dev :=
  if !(d.plt.busy && d.plt.op == 1) then d
  else
    let req := d.plt.snapReq
    let p := mkPlate (Req.parse req) d.plt.snapQ d.plt.snapExcl bldver
    match buildRefused d req p with
    | some x => d.pltEnd .empty x
    | none =>
      let img := buildImage p req (fmapBytes d.plt.snapQ d.plt.snapExcl)
      let p := { p with hash := BitVec.ofNat 256 (beNat (slice img 32 32))
                        power := (powerRows req (fmapBytes p.qmask p.excl)).sum }
      let d := d.putBytes (slotBase d.plt.stagedSlot) img
      { d.pltEnd .loaded { code := 0 } with plt.stagedP := some p, plt.budValid := true }

/-- The directory of an image: entries of type, flags, offset and size (R183). -/
def imageDir (img : List Byte) : List (Nat × Nat × Nat × Nat) :=
  (List.range (leAt img 16 4)).map fun i =>
    let o := 128 + 32 * i
    (leAt img o 2, leAt img (o + 2) 2, leAt img (o + 8) 8, leAt img (o + 16) 8)

/-- The size of the image is what its directory says: it ends with its last section. -/
def imageSizeOk (img : List Byte) : Bool :=
  let n := leAt img 8 8
  decide (n ≤ slotSize) && (imageDir img).all fun e => decide (e.2.2.1 + e.2.2.2 ≤ n)

/-- The directory keeps the rules of R183. -/
def imageDirOk (img : List Byte) : Bool :=
  let dr := imageDir img
  leAt img 20 4 == 0 && leAt img 24 8 == 0
  && (dr.all fun e => decide (1 ≤ e.1 ∧ e.1 ≤ 13 ∧ e.2.1 < 2 ∧ e.2.2.1 % 4096 = 0))
  && ((List.range (dr.length - 1)).all fun i =>
    match dr[i]?, dr[i + 1]? with
    | some a, some b => decide (a.1 < b.1 ∧ a.2.2.1 + a.2.2.2 ≤ b.2.2.1)
    | _, _ => true)

/-- The plate that the module has built into the staged slot, where the image there has still its digest (R190). -/
def Dev.ownBuild (d : Dev) (hash : Nat) : Option Plate :=
  d.plt.stagedP.filter fun p => p.hash == BitVec.ofNat 256 hash

/-- The staged image as proofing decodes it: its plate and its request bytes, or what is wrong with it. -/
def Dev.decodeImage (d : Dev) : (Plate × List Byte) ⊕ Refused :=
  let base := slotBase d.plt.stagedSlot
  let h := d.bytes base 16
  let n := min slotSize (leAt h 8 8)
  let img := d.bytes base n
  let hash := slice img 32 32
  if leAt h 8 8 < 128 ∨ slotSize < leAt h 8 8 ∨ sha256 (overlay img 32 (List.replicate 32 0)) ≠ hash ∨ !imageSizeOk img then
    .inr { code := 0x30 }
  else
    let fm := Config.loaded (bar pgPLT 0x1024)
    if leAt img 0 4 < fld 7 0 fm ∨ fld 15 8 fm < leAt img 0 4 then .inr { code := 0x31 }
    else if !imageDirOk img then .inr { code := 0x32 }
    else
      match (imageDir img).find? fun e => e.1 == 1 with
      | none => .inr { code := 0x32 }
      | some e =>
        let req := slice img e.2.2.1 e.2.2.2
        match reqRefused req with
        | some (c, o) => .inr { code := c, off := o }
        | none =>
          if sha256 req ≠ slice img 64 32 then .inr { code := 0x32 }
          else if let some p := d.ownBuild (beNat hash) then .inl (p, req)
          else
            let q := Config.imageQmask img
            let x := (Config.imageExcl img).map fun e => ({ chan := e.1, bank := e.2.1, row := e.2.2.1, count := e.2.2.2 } : Excl)
            let p := mkPlate (Req.parse req) q x (BitVec.ofNat 32 (leAt img 4 4))
            let c := Config.imageCheck img
            if c ≠ 0 then .inr { code := c }
            else .inl ({ p with hash := BitVec.ofNat 256 (beNat hash), power := (powerRows req (fmapBytes q x)).sum }, req)

/-- PROOF_DONE. -/
def Dev.proofDone (d : Dev) : Dev :=
  if !(d.plt.busy && d.plt.op == 2) then d
  else
    match d.decodeImage with
    | .inr x => { d.pltEnd .loaded x with plt.budValid := false }
    | .inl (p, req) =>
      match d.proofRefused req p with
      | some x => { d.pltEnd .loaded x with plt.budValid := false }
      | none => { d.pltEnd .proofed { code := 0 } with plt.stagedP := some p, plt.budValid := true }

/-! ### ARM, DISARM, slot writes (R194 to R198) -/

/-- The low 32 bits of a plate's HASH (R182). -/
def Plate.low (p : Plate) : Word := p.hash.setWidth 32

/-- Pages are pinned. -/
def Dev.anyPinned (d : Dev) : Bool := d.dkl.pins.any fun e => !e.2.isEmpty

/-- What refuses ARM, and whether the refusal leaves the slot LOADED (R94, R196). -/
def Dev.armErrs (d : Dev) (arg : Word) : List Code × Bool :=
  let p := d.plt
  let run := d.sys.state == .running
  let st := when' (!(d.sys.state == .ready || d.sys.state == .idle || run) || (run && d.run.bLast.isSome)) eSTATE
    ++ when' (decide (5 ≤ d.pwr.level)) eSHED
  let slot := match p.staged with
    | .empty => [0x10] | .loaded => [0x11] | .proofed => [] | _ => [eBUSY]
  match p.stagedP with
  | none => (st ++ slot, false)
  | some q =>
    let id := when' (p.staged == .proofed && arg != q.low) ePLATE
    let first := st ++ slot ++ id
    if !first.isEmpty then (first, false)
    else
      let fm := when' (!(chkFaultmap q (d.hat.qmask.setWidth 256) p.excl d.chanFailed).isEmpty) ePLATE
      let sw := match p.active with
        | some a => when' (run && !(sameRun a q && sameLayout a q)) eSTATE
        | none => []
      let pin := match p.active with
        | some a => when' (d.sys.state == .idle && !sameLayout a q && d.anyPinned) eBUSY
        | none => []
      (fm ++ sw ++ pin, !(fm ++ sw).isEmpty)

/-- ARM is accepted (R35, R196, R511). -/
def Dev.arm (d : Dev) : Dev :=
  let d := { d with plt.staged := .armed }
  if d.sys.state = .running then { d with plt.armPend := true, plt.armSfn := d.boundary 3 }
  else if d.sys.state = .ready then d.setState .idle
  else d

/-- DISARM (R198, R511). -/
def Dev.disarm (d : Dev) (v : Word) : Dev :=
  d.guard pgPLT 0x1028
    (when' (v &&& ~~~1 ≠ 0) eRSVD
     ++ when' (bitAt 0 v && !((d.sys.state == .ready || d.sys.state == .idle) && d.plt.staged == .armed)) eSTATE) fun d =>
    if bitAt 0 v then
      let d := { d with plt.staged := .proofed, plt.armPend := false }
      if d.sys.state = .idle ∧ d.plt.active.isNone then d.setState .ready else d
    else d

/-- PLATE_SLOT_WRITE: a host write into a slot window (R195). -/
def Dev.slotWrite (d : Dev) (slot : Bool) (o : Nat) (l : List Byte) : Dev :=
  if slot = d.plt.actSlot then d.reject pgPLT (if slot then 0x1034 else 0x1030) ePERM
  else match d.plt.staged with
    | .empty | .loaded | .proofed =>
      { d.putBytes (slotBase slot + o) l with plt.staged := .loaded, plt.stagedP := none, plt.budValid := false }
    | _ => d.reject pgPLT (if slot then 0x1034 else 0x1030) eLOCK

/-! ### The mode (R294, R295) and the PLT page (R200, R201) -/

/-- `SYS.MODE`. -/
def Dev.mode (d : Dev) : Nat :=
  let act := match d.plt.active with | some p => p.req.mode | none => 0
  match d.sys.state with
  | .running | .draining | .frozen | .quiesced => act
  | .ready | .idle => if d.plt.staged = .armed then (match d.plt.stagedP with | some p => p.req.mode | none => act) else act
  | .selftest => 12
  | _ => 0

/-- The encoding of R194. -/
def SlotState.code : SlotState → Nat
  | .empty => 0 | .loaded => 1 | .busy => 2 | .proofed => 3 | .armed => 4 | .retiring => 5

/-- Digest word `k` of ACTHASH or STGHASH: digest bytes 28 − 4k to 31 − 4k. -/
def hashWord (p : Option Plate) (k : Nat) : Word := match p with | some p => (p.hash >>> (32 * k)).setWidth 32 | none => 0

/-- The staged slot holds an image: its HASH field is what STGHASH shows. -/
def Dev.stagedHash (d : Dev) : BitVec 256 :=
  if d.plt.staged = .empty ∨ (d.plt.busy ∧ d.plt.op = 1) then 0
  else BitVec.ofNat 256 (beNat (d.bytes (slotBase d.plt.stagedSlot + 32) 32))

/-- A live register of the PLT page that is no stored word. -/
def Dev.readPlt (d : Dev) (o : Nat) : Option Word :=
  let p := d.plt
  let bud := fun (f : Plate → Nat) => match p.stagedP with | some q => if p.budValid then at_ 0 (f q) else 0 | none => (0 : Word)
  if o = 0x1004 ∨ o = 0x1020 ∨ o = 0x1024 ∨ o = 0x1030 ∨ o = 0x1034 then some (Config.loaded (bar pgPLT o))
  else if o = 0x1008 then some p.fmapGen
  else if o = 0x100C then
    some (at_ 0 p.staged.code ||| at_ 3 (b2n p.actSlot) ||| at_ 4 (b2n p.active.isSome) ||| at_ 5 (b2n p.armPend))
  else if o = 0x1010 then
    some (at_ 0 p.op ||| at_ 4 p.phase ||| at_ 8 p.pct ||| at_ 16 (b2n p.busy) ||| at_ 24 p.gen.toNat)
  else if o = 0x1014 then
    some (at_ 0 p.code.toNat ||| at_ 8 p.limqty ||| at_ 12 p.resOp ||| at_ 16 (b2n p.ready) ||| at_ 24 p.resGen.toNat)
  else if o = 0x1018 then some p.resVal
  else if o = 0x101C then some p.resOff
  else if 0x1040 ≤ o ∧ o < 0x1060 then some (hashWord p.active ((o - 0x1040) / 4))
  else if 0x1060 ≤ o ∧ o < 0x1080 then some (((d.stagedHash >>> (32 * ((o - 0x1060) / 4))).setWidth 32))
  else if o = 0x1080 then some (bud Plate.load)
  else if o = 0x1084 then some (bud fun q => q.req.membw)
  else if o = 0x1088 then some (bud fun q => (q.req.regions q.buf).sum * 1024)
  else if o = 0x108C then some (bud fun q => q.req.inLane + q.req.egLane * 65536)
  else if o = 0x1090 then some (bud Plate.power)
  else if o = 0x1094 then some (bud fun q => q.req.s2List.length)
  else if o = 0x1098 then some (p.armSfn.setWidth 32)
  else if o = 0x109C then some ((p.armSfn >>> 32).setWidth 32)
  else none

end Sys2Proof.Machine
end

