-- ==== Sys2Proof/Machine/Freeze.lean ====
section
/-! DEFINITION. The memory freeze, THAW and its check, the patrol scrubber (R41, R161, R189, R348, R357 to R360). -/

namespace Sys2Proof.Machine

/-- The states in which a freeze can arise (R357). -/
def freezeState (s : DevState) : Bool :=
  s == .ready || s == .idle || s == .running || s == .draining || s == .quiesced || s == .selftest || s == .recovery

/-- Indexes of the run's reams whose first SFN is not after `f` and whose latch is to come. -/
def Dev.reamsTo (d : Dev) (f : Sfn) : List Nat :=
  let r := d.reqAt d.run.reamAt
  let f := match d.run.bLast with | some b => if atOrAfter f b then b - 1 else f | none => f
  if !runOpen d.sys.state d.mctl.frz.prev ∨ after d.run.reamAt f then []
  else (List.range ((f - d.run.reamAt).toNat / max 1 r.ream + 1)).map (d.run.reams + ·)

/-- What a freeze writes: the FRZ registers, FREEZES, FROZEN; the snapshot follows at the end of the command. -/
def Dev.freezeRecord (d : Dev) (cause : Nat) (addr : BitVec 38) (loc syn : Word) (multi : Bool) : Dev :=
  let d := { d with mctl.mstat := .frozen, mctl.snapDue := true, mctl.thawWait := false
                    mctl.frz := { d.mctl.frz with cause := cause, multi := multi, addr := addr, loc := loc, syn := syn
                                                  time := d.time.arr } }
  (d.bump pgMEMC 0x138).raise pgMEMC 0x1

/-- The memory controller freezes (R357); a further error while it is frozen sets FRZMULTI only, and during the memory
patterns of SELFTEST only FRZFORCE freezes it. -/
def Dev.freeze (d : Dev) (cause : Nat) (addr : BitVec 38) (loc syn : Word) (multi : Bool := false) : Dev :=
  if d.mctl.mstat = .frozen then { d with mctl.frz.multi := true }
  else if !freezeState d.sys.state || !(d.mctl.mstat == .run || d.mctl.mstat == .selfref) || (d.memPart && cause != 5) then d
  else
    let s := d.sys.state
    let d := d.freezeRecord cause addr loc syn multi
    let d := { d with mctl.frz.prev := s }
    let d := (d.pltAbort eSTATE).accFroze (d.reamsTo d.time.sfn)
    if s = .recovery then d else d.setState .frozen

/-- `FRZSYN` of an access made wrong by the injection: codeword 0 and its symbols. -/
def badSyn (b : BadAcc) : Word := at_ 8 b.symA ||| at_ 16 (if b.nsym = 2 then b.symB else 0x3F)

/-- A freeze by an uncorrectable codeword at a device address. -/
def Dev.freezeAt (d : Dev) (cause a : Nat) (syn : Word) : Dev := d.freeze cause (BitVec.ofNat 38 a) (memLoc a) syn

/-- FRZFORCE (R357): legal in READY, IDLE and SELFTEST; where it freezes no access failed. -/
def Dev.frzForce (d : Dev) (v : Word) : Dev :=
  d.guard pgMEMC 0x102C
    (when' (v &&& ~~~1 ≠ 0) eRSVD
     ++ when' (!(d.sys.state == .ready || d.sys.state == .idle || d.sys.state == .selftest)) eSTATE) fun d =>
    if !bitAt 0 v then d
    else
      let (a, d) := d.fresh
      let (l, d) := d.fresh
      let (s, d) := d.fresh
      d.freeze 5 (BitVec.ofNat 38 a) (BitVec.ofNat 32 l &&& 0xFFFF1F3F) (BitVec.ofNat 32 s &&& 0x003F3F01)

/-! ### THAW (R359, R360) -/

/-- What refuses THAW. -/
def Dev.thawErrs (d : Dev) : List Code :=
  when' (d.sys.state != .frozen) eSTATE ++ when' (d.mctl.mstat == .thawing) eBUSY

/-- The first sheet boundary at least W ahead. -/
def Dev.sheetAhead (d : Dev) : Sfn :=
  let r := d.req
  nextGrid d.time.sfn (BitVec.ofNat 48 r.sheetOff) r.w r.ks

/-- THAW is accepted: the restart boundary is fixed, and the check waits where the level is S5 or S6. -/
def Dev.thaw (d : Dev) : Dev :=
  { d with mctl.mstat := .thawing, mctl.restart := d.sheetAhead, mctl.thawWait := decide (5 ≤ d.pwr.level) }

/-- The run's state after a freeze (R359): DRAINING or IDLE where B_last has passed. -/
def Dev.afterFreeze (d : Dev) (prev : DevState) : DevState :=
  if prev = .running ∨ prev = .draining then
    match d.run.bLast with
    | some b =>
      if after b d.time.sfn then prev
      else if (d.acc.lastDone && d.acc.closing.isNone && d.acc.waits.isNone) || b == d.run.s0 then .idle else .draining
    | none => prev
  else prev

/-- THAW_CHECK_DONE. `recur`: a parity alert recurs, with the location given; `still`: the failing access is still
uncorrectable. -/
def Dev.thawCheckDone (d : Dev) (recur : Bool) (addr : BitVec 38) (syn : Word) (still : Bool) : Dev :=
  if !(d.mctl.mstat == .thawing) || decide (5 ≤ d.pwr.level) then d
  else if recur then
    let d := d.freezeRecord 4 addr (memLoc addr.toNat) syn false
    (d.perr pgMEMC 0x10 0x100C).logErr { page := pgMEMC, code := 0x10, word := 0x100C / 4, event := false, time := d.time.arr }
  else
    let f := d.mctl.frz
    let a := f.addr.toNat
    let ue := 1 ≤ f.cause ∧ f.cause ≤ 3
    let d := if ue ∧ (still || (d.badAcc (a / 32)).nsym == 2) then d.excludeAt a else d
    let d := { d with mctl.mstat := .run, mctl.thawWait := false, ing.notBefore := if after d.mctl.restart d.ing.notBefore then d.mctl.restart
                                       else d.ing.notBefore
                      acc.lists.freezes := d.acc.lists.freezes ++ [(f.time, d.time.arr)] }
    let open_ := runOpen .frozen f.prev
    let d := if open_ then d.accFroze (d.reamsTo (d.mctl.restart - 1)) else d
    let d := d.setState (d.afterFreeze f.prev)
    if open_ then d.egLost.accThaw (f.time, d.time.arr) else d.egLost

/-! ### The patrol scrubber (R348) -/

/-- Accesses of a channel: the scrubber's walk. -/
def scrubLen : Nat := 2 ^ 27

/-- What the scrubber finds in one channel: `found` as its codeword classes say (1 CORRECTED, 2 UNCORRECTABLE), or what
the injection left. -/
def Dev.scrubChan (d : Dev) (c found : Nat) : Dev :=
  let a := memDevAddr c (32 * d.mctl.scrub)
  let b := d.badAcc (a / 32)
  let k := max found (if b.nsym = 0 then 0 else b.nsym)
  if k = 0 then d
  else if k = 1 then { d.corrected true a with mctl.bad := Tab.set {} d.mctl.bad (a / 32) {} }
  else d.freezeAt 2 a (if b.nsym = 2 then badSyn b else at_ 8 0x3F ||| at_ 16 0x3F)

/-- PATROL_SCRUB: the next access of every channel; `found` lists the channels whose codewords are not clean. -/
def Dev.patrolScrub (d : Dev) (found : List (Nat × Nat)) : Dev :=
  if !(d.mctl.mstat == .run) || d.memPart || !bitAt 8 (d.reg (bar pgMEMC 0x1030)) then d
  else
    let d := (List.range 40).foldl (fun d c => d.scrubChan c (((found.find? (·.1 == c)).map (·.2)).getD 0)) d
    if d.mctl.mstat = .frozen then d
    else
      let n := d.mctl.scrub + 1
      let d := if n % 2048 = 0 then d.bump pgMEMC 0x110 1280 else d
      if n = scrubLen then { d with mctl.scrub := 0, mctl.ceRows := [] } else { d with mctl.scrub := n }

/-! ### Training and retraining (R356) -/

/-- What refuses RETRAIN_MEM (R356, R487). -/
def Dev.retrainErrs (d : Dev) : List Code :=
  when' (d.sys.state != .idle) eSTATE ++ when' (decide (5 ≤ d.pwr.level)) eSHED
  ++ when' (d.mctl.mstat == .retrain) eBUSY

/-- RETRAIN_MEM is accepted. -/
def Dev.retrain (d : Dev) : Dev := { d with mctl.mstat := .retrain, mctl.trainStep := 1, mctl.trainPct := 0 }

end Sys2Proof.Machine
end

