-- ==== Sys2Proof/Machine/Fab.lean ====
section
/-! DEFINITION. The fabric: targets, responses, poison, refusals, timeouts, and host accesses through BAR2 (R372 to R383,
R400, R401, R488, R504). -/

namespace Sys2Proof.Machine

/-! ### Targets (R372, R383) -/

/-- What lies at a BAR2 offset. -/
inductive Where where
  | mem
  | bmf (shadow : Bool) (o : Nat)
  | trg (shadow : Bool) (o : Nat)
  | slot (s : Bool) (o : Nat)
  | pmem (core o : Nat)
  | dmem (core o : Nat)
  | boot (o : Nat)
  | nothing
  deriving DecidableEq, Repr

/-- Bytes of a table window: room for the largest copy that the on-die SRAM admits (R224, R256). -/
def tblWindow : Nat := 2 ^ 24

/-- `a` lies in the window of `n` bytes at `b`. -/
def inWin (a b n : Nat) : Bool := decide (b ≤ a ∧ a < b + n)

/-- Base of the boot window (R504). -/
def bootBase : Nat := (Config.loaded (bar pgAON 0x1010)).toNat * 4096
/-- Bytes of the boot window. -/
def bootBytes : Nat := 48 * 2 ^ 20

/-- The on-die window at an offset at or above 192 GiB (R383). -/
def onDie (a : Nat) : Where :=
  let bm := loadedAddr pgBMF 0x1010
  let bs := loadedAddr pgBMF 0x1018
  let tm := loadedAddr pgTRG 0x1020
  let ts := loadedAddr pgTRG 0x1028
  if a < 192 * gib then .nothing
  else if inWin a bm tblWindow then .bmf false (a - bm)
  else if inWin a bs tblWindow then .bmf true (a - bs)
  else if inWin a tm tblWindow then .trg false (a - tm)
  else if inWin a ts tblWindow then .trg true (a - ts)
  else
    match (List.range 4).find? fun k => inWin a (loadedAddr (pgBUR + k) 0x1010) (16 * 32768) with
    | some k => let o := a - loadedAddr (pgBUR + k) 0x1010; .pmem (16 * k + o / 32768) (o % 32768)
    | none =>
      match (List.range 4).find? fun k => inWin a (loadedAddr (pgBUR + k) 0x1018) (16 * 65536) with
      | some k => let o := a - loadedAddr (pgBUR + k) 0x1018; .dmem (16 * k + o / 65536) (o % 65536)
      | none => .nothing

/-- What lies at a BAR2 offset once the state is past IMAGE_WAIT. -/
def whereIs (a : Nat) : Where :=
  if a < memBytes then
    if inWin a (slotBase false) slotSize then .slot false (a - slotBase false)
    else if inWin a (slotBase true) slotSize then .slot true (a - slotBase true)
    else .mem
  else onDie a

/-! ### Responses (R377, R379, R400) -/

/-- A response other than DONE: 1 POISON, 2 NOROUTE, 3 TIMEOUT. -/
def Dev.fabErr (d : Dev) (master target code : Nat) : Dev :=
  let d := { d with fab.lasterr := at_ 0 master ||| at_ 4 target ||| at_ 6 code }
  let d := if code = 3 then d.bump pgFAB 0x108 else if code = 2 then d.bump pgFAB 0x128 else d
  d.raise pgFAB (if code = 3 then 0x1 else if code = 1 then 0x2 else 0x4)

/-- Segments of a burst: at most 256 B, none across a 256-byte boundary (R373). -/
def segments (a n : Nat) : Nat := if n = 0 then 0 else (a + n - 1) / 256 + 1 - a / 256

/-- The fabric accepts a request's segments. -/
def Dev.fabAccept (d : Dev) (a n : Nat) : Dev := d.bump pgFAB 0x100 (segments a n)

/-- A request that device memory does not answer now waits for its timeout (R358, R379). -/
def Dev.fabWait (d : Dev) (master target : Nat) (write : Bool) : Dev :=
  { d with fab.waiting := d.fab.waiting ++ [{ master := master, target := target, write := write, at_ := d.time.loc }] }

/-! ### Device memory as a target -/

/-- An access of the memory range with an injected error that a read finds: its address and what was inverted. -/
def Dev.badIn (d : Dev) (a n : Nat) : List (Nat × BadAcc) :=
  (d.mctl.bad.filter fun e => decide (a / 32 ≤ e.1 ∧ 32 * e.1 < a + n)).map fun e => (32 * e.1, e.2)

/-- A read of device memory that is served: bytes, poison, and what the code in the accesses makes of it. `ce` and `ue`
are addresses of codewords found CORRECTED and UNCORRECTABLE (R345, R347, R357). -/
def Dev.memRead (d : Dev) (a n : Nat) (ce ue : List Nat) : List Byte × Bool × Dev :=
  let bad := d.badIn a n
  let l := d.bytes a n
  let d := (accesses a n).foldl (fun d k => let c := memChan (32 * k); d.bump (pgMEMG + c / 10) (0x100 + 0x20 * (c % 10))) d
  let d := ce.foldl (fun d x => d.corrected false x) d
  let d := (bad.filter (·.2.nsym == 1)).foldl (fun d x => d.corrected false x.1) d
  let us := (bad.filter (·.2.nsym == 2)).map (fun x => (x.1, badSyn x.2)) ++ ue.map fun x => (x, at_ 8 0x3F ||| at_ 16 0x3F)
  let d := us.foldl (fun d x => d.freezeAt 1 x.1 x.2) d
  (l, !us.isEmpty, d)

/-- A write of device memory that is served: whole accesses are written; a partial access is read first, and an
uncorrectable one freezes the controller and is not written (R346). -/
def Dev.memWrite (d : Dev) (a : Nat) (l : List Byte) : Dev :=
  let n := l.length
  let bad := (d.badIn a n).filter fun x => partAccess a n (x.1 / 32)
  let dead := bad.filter (·.2.nsym == 2)
  let d := (bad.filter (·.2.nsym == 1)).foldl (fun d x => d.corrected false x.1) d
  let keep := dead.map fun x => x.1 / 32
  if keep.isEmpty then (d.putBytes a l).memWritten a n []
  else
    let d := (l.zipIdx).foldl (fun d e => if keep.contains ((a + e.2) / 32) then d else d.setByte (a + e.2) e.1) d
    dead.foldl (fun d x => d.freezeAt 3 x.1 (badSyn x.2)) (d.memWritten a n keep)

/-! ### Refused writes (R380) -/

/-- The page that owns a protected region, the word of its base register, or none where a write of `n` bytes at `a` by a
master is not refused. -/
def Dev.refusedAt (d : Dev) (master a n : Nat) : Option (Nat × Nat) :=
  let hits := fun (b m : Nat) => decide (0 < m ∧ a < b + m ∧ b < a + n)
  let busy := d.sys.state == .running || d.sys.state == .draining || d.sys.state == .frozen
  let act := d.plate
  let on := busy && d.plt.active.isSome
  if on && hits 0 ((act.buf + act.req.capgib) * gib) then some (pgDKL, 0x1030)
  else if on && hits (recBase false + act.req.visOff) act.req.visSize then some (pgACC, 0x1010)
  else if on && hits (recBase true + act.req.visOff) act.req.visSize then some (pgACC, 0x1018)
  else if master ≠ 5 ∧ hits fmapAddr (68 + 16 * 1024) then some (pgPLT, 0x1004)
  else if hits (loadedAddr pgING 0x1050) (2 * d.req.vbmSize) then some (pgING, 0x1050)
  else none

/-! ### Burin memories (R290) -/

/-- A core. -/
def Dev.core (d : Dev) (c : Nat) : Core := Tab.get {} d.bur.cores c
/-- A core takes a value. -/
def Dev.setCore (d : Dev) (c : Nat) (x : Core) : Dev := { d with bur.cores := Tab.set {} d.bur.cores c x }

/-- What a program memory word reads as before anything has been written: zero, or a free value once S6 has lost the
memory (R286). -/
def Core.pNone (c : Core) (a : Nat) : Word :=
  match c.lost with | none => 0 | some k => BitVec.ofNat 32 (Config.lostCell k a)
/-- The same of a data memory word. -/
def Core.dNone (c : Core) (a : Nat) : BitVec 16 :=
  match c.lost with | none => 0 | some k => BitVec.ofNat 16 (Config.lostCell k (8192 + a))
/-- An instruction word. -/
def Core.pWord (c : Core) (a : Nat) : Word := Tab.get (c.pNone a) c.pmem a
/-- A data memory word. -/
def Core.dWord (c : Core) (a : Nat) : BitVec 16 := Tab.get (c.dNone a) c.dmem a
/-- An instruction word is written. -/
def Core.setP (c : Core) (a : Nat) (w : Word) : Core := { c with pmem := Tab.set (c.pNone a) c.pmem a w }
/-- A data memory word is written. -/
def Core.setD (c : Core) (a : Nat) (w : BitVec 16) : Core := { c with dmem := Tab.set (c.dNone a) c.dmem a w }

/-- A byte of a core's program memory. -/
def Core.pByte (c : Core) (o : Nat) : Byte := (c.pWord (o / 4) >>> (8 * (o % 4))).setWidth 8
/-- A byte of a core's data memory. -/
def Core.dByte (c : Core) (o : Nat) : Byte := (c.dWord (o / 2) >>> (8 * (o % 2))).setWidth 8

/-- Program memory takes a byte. -/
def Core.putP (c : Core) (o : Nat) (b : Byte) : Core :=
  c.setP (o / 4) (setFld (8 * (o % 4) + 7) (8 * (o % 4)) (c.pWord (o / 4)) b.toNat)
/-- Data memory takes a byte. -/
def Core.putD (c : Core) (o : Nat) (b : Byte) : Core :=
  let w := c.dWord (o / 2)
  let v : Nat := if o % 2 = 0 then w.toNat / 256 * 256 + b.toNat else w.toNat % 256 + 256 * b.toNat
  c.setD (o / 2) (BitVec.ofNat 16 v)

/-- What refuses host control of a core (R290, R293). -/
def Dev.coreErrs (d : Dev) (c : Nat) (haltOnly : Bool) : List Code :=
  let x := d.core c
  when' (!x.tasks.isEmpty && noStepState d.sys.state) 0x10 ++ when' (!haltOnly && x.state != .halted) eSTATE

/-- A host write into a core's memory. -/
def Dev.coreMemWrite (d : Dev) (prog : Bool) (c o : Nat) (l : List Byte) : Dev :=
  d.guard (pgBUR + c / 16) (if prog then 0x1010 else 0x1018) (d.coreErrs c false) fun d =>
    let x := d.core c
    d.setCore c ((l.zipIdx).foldl (fun x e => if prog then x.putP (o + e.2) e.1 else x.putD (o + e.2) e.1) x)

/-! ### Host accesses (R378, R380, R383, R488, R504, R505) -/

/-- The bytes of an on-die window. -/
def Dev.onDieBytes (d : Dev) (w : Where) (n : Nat) : List Byte :=
  match w with
  | .bmf sh o => (List.range n).map fun i => Tab.get 0 (if sh then d.bmf.sh else d.bmf.tbl) (o + i)
  | .trg sh o =>
    let t : Tab Byte := if sh then d.trg.sh else ((d.trg.tbls.head?).map (·.2)).getD []
    (List.range n).map fun i => Tab.get 0 t (o + i)
  | .pmem c o => (List.range n).map fun i => (d.core c).pByte (o + i)
  | .dmem c o => (List.range n).map fun i => (d.core c).dByte (o + i)
  | .boot o => (List.range n).map fun i => Tab.get 0 d.boot.window (o + i)
  | _ => List.replicate n 0

/-- An inbound read ends with a status other than success. -/
def Dev.readFails (d : Dev) (unsupported : Bool) : Dev :=
  ((d.bump pgHIF 0x108).raise pgHIF 0x2).emit (if unsupported then .unsupported else .abort)

/-- A posted inbound write is lost. -/
def Dev.writeLost (d : Dev) : Dev := (d.bump pgHIF 0x100).raise pgHIF 0x2

/-- HOST_INBOUND_READ: `n` bytes at a BAR2 offset; `ce`, `ue`: codewords found wrong on the way. -/
def Dev.hostRead (d : Dev) (a n : Nat) (ce ue : List Nat) : Dev :=
  if !d.boot.linkUp || d.sys.state == .off then d
  else if d.sys.state = .imageWait then
    if inWin a bootBase bootBytes && decide (a + n ≤ bootBase + bootBytes) then
      d.emit (.bytes (d.onDieBytes (.boot (a - bootBase)) n) d.boot.winPoison)
    else d.emit .unsupported
  else if 6 ≤ d.pwr.level then d.readFails false
  else
    let d := d.fabAccept a n
    match whereIs a with
    | .nothing => d.readFails true
    | .mem | .slot _ _ =>
      if memBytes < a + n then d.readFails true
      else if !d.memServes then d.fabWait 0 0 false
      else
        let (l, p, d) := d.memRead a n ce ue
        let d := if p then (d.bump pgHIF 0x118).fabErr 0 0 1 else d
        d.emit (.bytes l p)
    | w => d.emit (.bytes (d.onDieBytes w n) false)

/-- BMF_TABLE_WRITE by the host: refused while a task holds the BMF grant (R280). -/
def Dev.bmfHostWrite (d : Dev) (shadow : Bool) (o : Nat) (l : List Byte) : Dev :=
  if shadow && d.grantHeld 0 then ({ d with bmf.tblErr := o } : Dev).tblReject pgBMF true ePERM else d.bmfTableWrite shadow o l

/-- TRG_TABLE_WRITE by the host: refused while a task holds the TRGNORM grant (R280). -/
def Dev.trgHostWrite (d : Dev) (shadow : Bool) (o : Nat) (l : List Byte) : Dev :=
  if shadow && d.grantHeld 1 then ({ d with trg.tblErr := o } : Dev).tblReject pgTRG true ePERM else d.trgTableWrite shadow o l

/-- HOST_INBOUND_WRITE: bytes at a BAR2 offset; `ep`: the TLP is poisoned. -/
def Dev.hostWrite (d : Dev) (a : Nat) (l : List Byte) (ep : Bool) : Dev :=
  let n := l.length
  if !d.boot.linkUp || d.sys.state == .off || n == 0 then d
  else if d.sys.state = .imageWait then
    if inWin a bootBase bootBytes && decide (a + n ≤ bootBase + bootBytes) then
      if d.boot.cause = 1 then d.reject pgAON 0x1010 eBUSY
      else if ep then { d with boot.winPoison := true }
      else { d with boot.window := (l.zipIdx).foldl (fun t e => Tab.set 0 t (a - bootBase + e.2) e.1) d.boot.window }
    else d.emit .unsupported
  else if 6 ≤ d.pwr.level then d.writeLost
  else
    let d := if ep then d.bump pgHIF 0x110 else d
    let d := d.fabAccept a n
    match whereIs a with
    | .nothing => d.writeLost
    | .mem =>
      if memBytes < a + n then d.writeLost
      else if ep then (d.fabErr 0 0 1).writeLost
      else match d.refusedAt 0 a n with
        | some (p, o) => ((d.fabErr 0 0 2).writeLost).reject p o ePERM
        | none =>
          if !d.memServes then d.fabWait 0 0 true
          else (d.memWrite a l).injectAt a
    | .slot s o =>
      if ep then (d.fabErr 0 0 1).writeLost
      else if !d.memServes then d.fabWait 0 0 true
      else d.slotWrite s o l
    | .bmf sh o => if ep then (d.fabErr 0 1 1).writeLost else d.bmfHostWrite sh o l
    | .trg sh o => if ep then (d.fabErr 0 1 1).writeLost else d.trgHostWrite sh o l
    | .pmem c o => if ep then (d.fabErr 0 1 1).writeLost else d.coreMemWrite true c o l
    | .dmem c o => if ep then (d.fabErr 0 1 1).writeLost else d.coreMemWrite false c o l
    | .boot _ => d.writeLost

/-! ### Atomics (R376) -/

/-- An atomic of the Mladef port on `w` bytes: `f` makes the stored value from the old one; the old value is returned. -/
def Dev.atomic (d : Dev) (a w : Nat) (f : Nat → Nat) : Dev :=
  let d := d.fabAccept a w
  let tgt := if a < memBytes then 0 else 1
  if a % w ≠ 0 ∨ memBytes < a + w then d.fabErr 5 tgt 2
  else match d.refusedAt 5 a w with
    | some (p, o) => (d.fabErr 5 0 2).reject p o ePERM
    | none =>
      if !d.memServes then d.fabWait 5 0 true
      else
        let l := d.bytes a w
        let ue := (d.badIn a w).any (·.2.nsym == 2)
        let d := d.memWrite a (leBytes w (f (leNat l)))
        if ue then d.fabErr 5 0 1 else (d.bump pgFAB 0x130).emit (.bytes l false)

/-- ATOMIC_ADD: old + operand modulo 2^w. -/
def Dev.atomicAdd (d : Dev) (a : Nat) (wide : Bool) (v : BitVec 64) : Dev :=
  let w := if wide then 8 else 4
  d.atomic a w fun old => (old + v.toNat) % 2 ^ (8 * w)

/-- ATOMIC_SWAP. -/
def Dev.atomicSwap (d : Dev) (a : Nat) (wide : Bool) (v : BitVec 64) : Dev :=
  let w := if wide then 8 else 4
  d.atomic a w fun _ => v.toNat % 2 ^ (8 * w)

/-! ### Timeouts, drains (R379, R381) -/

/-- 16 µs have passed on LOCAL since `t`. -/
def Dev.fabLate (d : Dev) (t : BitVec 64) : Bool := decide (16000 ≤ (d.time.loc - t).toNat)

/-- A master's ports drain after a reset. -/
def Dev.fabDrains (d : Dev) (master : Nat) : Bool := (Tab.get none d.fab.draining master).isSome

/-- A request of a master has retired: while its ports drain, the response is discarded, and the last one returns them to
IDLE; otherwise the response can still come late (R379, R381). -/
def Dev.fabRetired (d : Dev) (master : Nat) : Dev :=
  if d.fabDrains master then
    let d := d.bump pgFAB 0x118
    if d.fab.waiting.any (·.master == master) then d else { d with fab.draining := Tab.set none d.fab.draining master none }
  else { d with fab.late := d.fab.late + 1 }

/-- The oldest request of a master that has waited 16 µs ends with TIMEOUT; the request, and the device. -/
def Dev.fabTimeout (d : Dev) (master : Nat) : Option FabReq × Dev :=
  match d.fab.waiting.find? fun q => q.master == master && d.fabLate q.at_ with
  | none => (none, d)
  | some q =>
    let d := ({ d with fab.waiting := d.fab.waiting.erase q } : Dev).fabErr master q.target 3
    let d := d.fabRetired master
    (some q, if master ≠ 0 then d else if q.write then d.writeLost else d.readFails false)

/-- LATE_RESPONSE. -/
def Dev.lateResponse (d : Dev) : Dev :=
  if d.fab.late = 0 then d else { d with fab.late := d.fab.late - 1 }.bump pgFAB 0x110

/-- A master's ports are reset in mid-burst: they drain while IDs are outstanding (R381). -/
def Dev.portReset (d : Dev) (master : Nat) : Dev :=
  if d.fab.waiting.any (·.master == master) then
    { d with fab.draining := Tab.set none d.fab.draining master (some d.time.loc) }
  else d

/-- PORT_DRAIN_TIMEOUT: 16 µs after the reset the port returns to IDLE; the responses of its IDs are discarded. -/
def Dev.drainTimeout (d : Dev) (master : Nat) : Dev :=
  match Tab.get none d.fab.draining master with
  | some t =>
    if d.fabLate t then
      let n := (d.fab.waiting.filter (·.master == master)).length
      let d := { d with fab.draining := Tab.set none d.fab.draining master none
                        fab.waiting := d.fab.waiting.filter (·.master != master) }
      (d.bump pgFAB 0x118 n).raise pgFAB 0x8
    else d
  | none => d

/-! ### The FAB and HIF pages (R400, R401) -/

/-- `PRIO` of a master: its reset value by R400, and 7 towards MEM for masters 7 to 13 (R375). -/
def prioReset (m : Nat) : Word :=
  if m = 0 then 0x4444 else if m ≤ 4 then 0x3333 else if m = 5 then 0x5555 else if m = 6 then 0x2222
  else if m ≤ 13 then 0x7 else 0

/-- What refuses a `PRIO` write. -/
def Dev.prioErrs (d : Dev) (v : Word) : List Code :=
  when' (v &&& 0xFFFF8888 ≠ 0) eRSVD ++ when' (decide (7 ≤ d.fab.portsel.toNat)) ePERM

/-- A write of `PRIO`. -/
def Dev.prioWrite (d : Dev) (v : Word) : Dev :=
  d.guard pgFAB 0x1008 (d.prioErrs v) fun d =>
    let m := d.fab.portsel.toNat
    { d with fab.prio := Tab.set (prioReset m) d.fab.prio m v }

/-- A live register of the FAB page. -/
def Dev.readFab (d : Dev) (o : Nat) : Option Word :=
  let m := d.fab.portsel.toNat
  let n := (d.fab.waiting.filter (·.master == m)).length
  if o = 0x1000 then some (d.fab.portsel.setWidth 32)
  else if o = 0x1004 then
    some (at_ 0 (if (Tab.get none d.fab.draining m).isSome then 2 else if n = 0 then 0 else 1) ||| at_ 8 n)
  else if o = 0x1008 then some (Tab.get (prioReset m) d.fab.prio m)
  else if o = 0x1010 then some d.fab.lasterr
  else none

/-- A live register of the HIF page. -/
def Dev.readHif (d : Dev) (o : Nat) : Option Word :=
  if o = 0x1000 then
    some (if d.boot.linkUp then d.hif.speed.setWidth 32 ||| (d.hif.width.setWidth 32 <<< 4) ||| at_ 10 (b2n d.hif.flit) ||| at_ 11 1 else 0)
  else none

end Sys2Proof.Machine
end

