-- ==== Sys2Proof/Machine/Mmu.lean ====
section
/-! DEFINITION. The device MMU: page tables, translation, faults, invalidation (R396 to R399, R404). -/

namespace Sys2Proof.Machine

/-- What a translation gives: an address with its target, or the cause of R397. -/
inductive Trans where
  | ok (addr : Nat) (host : Bool)
  | fault (cause : Nat)
  deriving DecidableEq, Repr

/-- A fault is logged (R399). -/
def Dev.mmuFault (d : Dev) (f : MmuFault) : Dev :=
  let d := (d.bump pgMMU 0x110).raise pgMMU 0x1
  if d.mmu.log.length < 64 then { d with mmu.log := d.mmu.log ++ [f] }
  else (d.bump pgMMU 0x118).raise pgMMU 0x4

/-- What is wrong with an entry at a level, as a cause of R397; none for a good one (R396). -/
def pteErr (lvl : Nat) (e : BitVec 64) : Option Nat :=
  let leaf := bitAt 1 e
  if !bitAt 0 e then some 3
  else if fld 11 5 e ≠ 0 ∨ fld 63 52 e ≠ 0 ∨ (leaf ∧ lvl = 3) ∨ (!leaf ∧ lvl = 0)
      ∨ (leaf ∧ lvl = 2 ∧ fld 29 12 e ≠ 0) ∨ (leaf ∧ lvl = 1 ∧ fld 20 12 e ≠ 0) then some 4
  else none

/-- The walk of R396 from the table at `tbl`, `lvl + 1` levels to go: the leaf and its level, or a cause. -/
def Dev.walk (d : Dev) (va : Nat) : Nat → Nat → (Nat ⊕ (BitVec 64 × Nat)) × Dev
  | lvl, tbl =>
    let a := tbl + 8 * (va / 2 ^ (12 + 9 * lvl) % 512)
    if memBytes < a + 8 ∨ !d.memServes then (.inl 7, d)
    else
      let (l, p, d) := d.memRead a 8 [] []
      let e : BitVec 64 := BitVec.ofNat 64 (leNat l)
      if p then (.inl 7, d)
      else match pteErr lvl e with
        | some c => (.inl c, d)
        | none =>
          if bitAt 1 e then (.inr (e, lvl), d)
          else match lvl with
            | 0 => (.inl 4, d)
            | n + 1 => d.walk va n (fld 51 12 e * 4096)

/-- The permission of a mapping for an access, as a cause of R397. -/
def permErr (rd wr write : Bool) : Option Nat := if write then (if wr then none else some 6) else if rd then none else some 5

/-- A virtual address of a context translated for an engine, with the fault logged where there is one (R396 to R399). -/
def Dev.translate (d : Dev) (eng chan ctx : Nat) (va : BitVec 64) (write : Bool) : Trans × Dev :=
  let v := va.toNat
  let flt := fun (d : Dev) (c : Nat) =>
    (Trans.fault c, d.mmuFault { ctx := ctx, chan := chan, eng := eng, cause := c, write := write, va := va })
  if !Tab.get false d.mmu.en ctx then flt d 1
  else if 2 ^ 48 ≤ v then flt d 2
  else
    match d.mmu.tlb.find? fun t => t.eng == eng && t.ctx == ctx && t.vpn == v / 4096 with
    | some t =>
      match permErr t.read t.write write with
      | some c => flt d c
      | none => (.ok (t.base + v % 4096) t.host, d)
    | none =>
      let d := (d.bump pgMMU 0x108).bump pgMMU 0x100
      let (r, d) := d.walk v 3 (Tab.get 0 d.mmu.root ctx).toNat
      match r with
      | .inl c => flt d c
      | .inr (e, lvl) =>
        let size := 2 ^ (12 + 9 * lvl)
        let base := fld 51 12 e * 4096 + v % size / 4096 * 4096
        let t : TlbEnt := { eng := eng, ctx := ctx, vpn := v / 4096, base := base, host := bitAt 4 e, read := bitAt 2 e, write := bitAt 3 e }
        match permErr t.read t.write write with
        | some c => flt d c
        | none => (.ok (base + v % 4096) t.host, { d with mmu.tlb := t :: d.mmu.tlb })

/-! ### Contexts and invalidation (R398, R404) -/

/-- BAR0 offset of register `off` of channel `n` of engine `k` (R402). -/
def chAddr (k n off : Nat) : Nat := bar (pgDMA + k) (0x1100 + 0x80 * n + off)
/-- An engine. -/
def Dev.eng (d : Dev) (k : Nat) : DmaEng := Tab.get {} d.dma k
/-- A channel. -/
def Dev.dch (d : Dev) (k n : Nat) : DmaChan := Tab.get {} (d.eng k).chans n
/-- Context of a channel. -/
def Dev.chCtx (d : Dev) (k n : Nat) : Nat := fld 13 8 (d.reg (chAddr k n 0))

/-- A channel is queued, active or suspended. -/
def DmaChan.inUse (c : DmaChan) : Bool := c.state == .queued || c.state == .active || c.state == .suspended

/-- A context is bound to a channel in use (R398). -/
def Dev.ctxBusy (d : Dev) (ctx : Nat) : Bool :=
  (List.range 4).any fun k => (List.range 4).any fun n => d.chCtx k n == ctx && (d.dch k n).inUse

/-- A write of `CTXCFG` (`hi` none) or of a half of `CTXROOT`. -/
def Dev.ctxWrite (d : Dev) (off : Nat) (v : Word) : Dev :=
  let c := d.mmu.sel.toNat
  let rsvd := if off = 0x1004 then v &&& ~~~1 ≠ 0 else if off = 0x1008 then v &&& 0xFFF ≠ 0 else false
  d.guard pgMMU off (when' rsvd eRSVD ++ when' (d.ctxBusy c) eBUSY) fun d =>
    let r := Tab.get 0 d.mmu.root c
    if off = 0x1004 then { d with mmu.en := Tab.set false d.mmu.en c (bitAt 0 v) }
    else { d with mmu.root := Tab.set 0 d.mmu.root c (if off = 0x1008 then cat64 (hi32 r) v else cat64 v (lo32 r)) }

/-- An invalidation command: 1 context, 2 page, 3 all (R398, R404). -/
def Dev.invalidate (d : Dev) (cmd ctx : Nat) : Dev :=
  d.guard pgMMU 0x1010 (when' d.mmu.inv.isSome eBUSY) fun d =>
    { d with mmu.inv := some (cmd, ctx, cat64 (d.reg (bar pgMMU 0x1018)) (d.reg (bar pgMMU 0x1014))) }

/-- A write of `INVCMD`. -/
def Dev.invWrite (d : Dev) (v : Word) : Dev :=
  if v &&& 0xFFFFC0FC ≠ 0 ∨ fld 1 0 v = 0 then d.reject pgMMU 0x1010 eRSVD else d.invalidate (fld 1 0 v) (fld 13 8 v)

/-- INVALIDATION_DONE: no translation uses the invalidated entries any more. -/
def Dev.invalidationDone (d : Dev) : Dev :=
  match d.mmu.inv with
  | none => d
  | some (cmd, ctx, va) =>
    let hit := fun (t : TlbEnt) => if cmd = 3 then true else if cmd = 1 then t.ctx == ctx else t.ctx == ctx && t.vpn == va.toNat / 4096
    let d := { d with mmu.tlb := d.mmu.tlb.filter fun t => !hit t, mmu.inv := none, mmu.done := d.mmu.done + 1 }
    (d.bump pgMMU 0x120).raise pgMMU 0x2

/-- FAULTLOG_POP: the oldest entry is returned and removed (R399, R404); an empty log reads 0. -/
def Dev.faultlogPop (d : Dev) : Dev :=
  match d.mmu.log with
  | [] => d.emit (.data 0)
  | f :: t =>
    let w := at_ 0 f.ctx ||| at_ 6 f.chan ||| at_ 8 f.eng ||| at_ 10 f.cause ||| at_ 14 (b2n f.write) ||| at_ 31 1
    { d with mmu.log := t, mmu.lastVa := f.va }.emit (.data w)

/-- A live register of the MMU page that is no stored word. -/
def Dev.readMmu (d : Dev) (o : Nat) : Option Word :=
  let c := d.mmu.sel.toNat
  if o = 0x1000 then some (d.mmu.sel.setWidth 32)
  else if o = 0x1004 then some (at_ 0 (b2n (Tab.get false d.mmu.en c)))
  else if o = 0x1008 then some (lo32 (Tab.get 0 d.mmu.root c))
  else if o = 0x100C then some (hi32 (Tab.get 0 d.mmu.root c))
  else if o = 0x101C then some (at_ 0 (b2n d.mmu.inv.isSome) ||| at_ 8 d.mmu.done.toNat)
  else if o = 0x1024 then some (lo32 d.mmu.lastVa)
  else if o = 0x1028 then some (hi32 d.mmu.lastVa)
  else none

end Sys2Proof.Machine
end

