-- ==== Sys2Proof/Machine/Dma.lean ====
section
/-! DEFINITION. The DMA engines: chains, descriptors, completion records, pre-emption, faults (R384 to R395, R402, R403). -/

namespace Sys2Proof.Machine

/-! ### Channels -/

/-- A channel takes a value. -/
def Dev.setDch (d : Dev) (k n : Nat) (c : DmaChan) : Dev :=
  { d with dma := Tab.set {} d.dma k { d.eng k with chans := Tab.set {} (d.eng k).chans n c } }
/-- An engine takes a value. -/
def Dev.setEng (d : Dev) (k : Nat) (e : DmaEng) : Dev := { d with dma := Tab.set {} d.dma k e }
/-- A channel is URGENT. -/
def Dev.chUrgent (d : Dev) (k n : Nat) : Bool := bitAt 0 (d.reg (chAddr k n 0))

/-- The engine chooses its next chain when none is ACTIVE (R385). -/
def Dev.dmaPick (d : Dev) (k : Nat) : Dev :=
  let e := d.eng k
  let go := fun (e : DmaEng) (n : Nat) =>
    d.setEng k { e with active := some n, chans := Tab.set {} e.chans n { (Tab.get {} e.chans n : DmaChan) with state := .active, stalled := false } }
  if e.active.isSome then d
  else match e.urgent with
    | n :: t => go { e with urgent := t } n
    | [] =>
      match e.susp with
      | some n => go { e with susp := none } n
      | none => match e.bulk with
        | n :: t => go { e with bulk := t } n
        | [] => d

/-- The engine lets a channel go: it is in no queue, neither ACTIVE nor SUSPENDED. -/
def DmaEng.release (e : DmaEng) (n : Nat) : DmaEng :=
  { e with urgent := e.urgent.filter (· != n), bulk := e.bulk.filter (· != n)
           active := if e.active = some n then none else e.active, susp := if e.susp = some n then none else e.susp }

/-! ### Virtual reads and writes -/

/-- How an access ended: its bytes and the offsets of poisoned ones; a fault at a virtual address; no response. -/
inductive VRes where
  | data (l : List Byte) (poison : List Nat)
  | fault (va : BitVec 64) (done : Nat)
  | wait (target : Nat) (done : Nat)
  deriving DecidableEq, Repr

/-- Bytes that a chunk at a virtual address can take without crossing a 4 KiB page. -/
def pageRoom (va : Nat) : Nat := 4096 - va % 4096

/-- One physical read of an engine; `host` is what host memory holds and `pois` its poisoned addresses. -/
def Dev.physRead (d : Dev) (host : Tab Byte) (pois : List Nat) (a n : Nat) (h : Bool) : Option (List Byte × List Nat) × Nat × Dev :=
  if h then
    (some ((List.range n).map fun i => Tab.get 0 host (a + i), (List.range n).filter fun i => pois.contains ((a + i) / 64 * 64)), 0, d)
  else match whereIs a with
    | .nothing | .boot _ => (none, 2, d)
    | .mem | .slot _ _ =>
      if memBytes < a + n then (none, 2, d)
      else if !d.memServes then (none, 3, d)
      else
        let bad := (d.badIn a n).filter (·.2.nsym == 2)
        let (l, _, d) := d.memRead a n [] []
        (some (l, (List.range n).filter fun i => bad.any fun b => b.1 / 64 == (a + i) / 64), 0, d)
    | w => (some (d.onDieBytes w n, []), 0, d)

/-- One physical write of an engine: the fabric's code. -/
def Dev.physWrite (d : Dev) (k a : Nat) (l : List Byte) (h : Bool) : Nat × Dev :=
  if h then (0, d.emit (.hostWr a l))
  else match whereIs a with
    | .nothing | .boot _ => (2, d)
    | .mem =>
      if memBytes < a + l.length then (2, d)
      else match d.refusedAt (1 + k) a l.length with
        | some (p, o) => (2, d.reject p o ePERM)
        | none => if !d.memServes then (3, d) else (0, d.memWrite a l)
    | .slot s o => if !d.memServes then (3, d) else (0, d.slotWrite s o l)
    | .bmf sh o => (0, d.bmfTableWrite sh o l)
    | .trg sh o => (0, d.trgTableWrite sh o l)
    | .pmem c o => (0, d.coreMemWrite true c o l)
    | .dmem c o => (0, d.coreMemWrite false c o l)

/-- A translated access that received NOROUTE is logged as cause 8 (R397). -/
def Dev.norouteFault (d : Dev) (k n : Nat) (va : BitVec 64) (write : Bool) : Dev :=
  (d.fabErr (1 + k) 0 2).mmuFault { ctx := d.chCtx k n, chan := n, eng := k, cause := 8, write := write, va := va }

/-- A virtual read of `len` bytes, page by page. -/
def Dev.vread (d : Dev) (k n : Nat) (host : Tab Byte) (pois : List Nat) : Nat → BitVec 64 → Nat → List Byte → List Nat → VRes × Dev
  | 0, _, _, acc, ps => (.data acc ps, d)
  | fuel + 1, va, len, acc, ps =>
    if len = 0 then (.data acc ps, d)
    else
      let m := min len (pageRoom va.toNat)
      match d.translate k n (d.chCtx k n) va false with
      | (.fault _, d) => (.fault va acc.length, d)
      | (.ok a h, d) =>
        let d := if h then d else d.fabAccept a m
        match d.physRead host pois a m h with
        | (some (l, p), _, d) =>
          (d.bump (pgDMA + k) 0x100 m).vread k n host pois fuel (va + BitVec.ofNat 64 m) (len - m) (acc ++ l) (ps ++ p.map (acc.length + ·))
        | (none, c, d) => if c = 3 then (.wait 0 acc.length, d.fabWait (1 + k) 0 false) else (.fault va acc.length, d.norouteFault k n va false)

/-- A virtual write, page by page; `skip` are offsets whose flits are poisoned and not written. -/
def Dev.vwrite (d : Dev) (k n : Nat) (skip : List Nat) : Nat → BitVec 64 → List Byte → Nat → VRes × Dev
  | 0, _, _, _ => (.data [] [], d)
  | fuel + 1, va, l, done =>
    if l.isEmpty then (.data [] [], d)
    else
      let m := min l.length (pageRoom va.toNat)
      match d.translate k n (d.chCtx k n) va true with
      | (.fault _, d) => (.fault va done, d)
      | (.ok a h, d) =>
        let d := if h then d else d.fabAccept a m
        let runs := if skip.any fun s => decide (done ≤ s ∧ s < done + m) then
            ((l.take m).zipIdx).filterMap fun e => if skip.contains (done + e.2) then none else some (e.2, [e.1])
          else [(0, l.take m)]
        let (c, d) := runs.foldl (fun (s : Nat × Dev) x => if s.1 = 0 then s.2.physWrite k (a + x.1) x.2 h else s) (0, d)
        if c = 3 then (.wait 0 done, d.fabWait (1 + k) 0 true)
        else if c = 2 then (.fault va done, d.norouteFault k n va true)
        else (d.bump (pgDMA + k) 0x108 m).vwrite k n skip fuel (va + BitVec.ofNat 64 m) (l.drop m) (done + m)

/-- Pages that `len` bytes can touch, as fuel. -/
def vpages (len : Nat) : Nat := len / 4096 + 2

/-! ### Completion records (R390, R395, R403) -/

/-- `CMPSIZE`, at least 1. -/
def Dev.cmpSize (d : Dev) (k n : Nat) : Nat := max 1 (fld 15 0 (d.reg (chAddr k n 0x30)))

/-- A completion record is written; where the ring is full the oldest unread one is lost. -/
def Dev.cmpRecord (d : Dev) (k n : Nat) (idx : Nat) (code : Code) (rb df : Bool) (user : BitVec 64) (off : Nat) : Dev :=
  let c := d.dch k n
  let size := d.cmpSize k n
  let base := cat64 (d.reg (chAddr k n 0x2C)) (d.reg (chAddr k n 0x28))
  let src := n + 4 * k + 16 * b2n rb + 32 * b2n df
  let rec_ := leBytes 4 idx ++ [BitVec.ofNat 8 code.toNat, BitVec.ofNat 8 src, 0, 0] ++ leBytes 8 user.toNat ++ leBytes 8 off
    ++ leBytes 8 d.time.arr.toNat
  let d := match d.vwrite k n [] 3 (base + BitVec.ofNat 64 (32 * c.cmpwr)) rec_ 0 with
    | (.data _ _, d) =>
      let c := d.dch k n
      let full := decide (size ≤ c.unread)
      let d := if full then
          (d.setReg (chAddr k n 0x38) (BitVec.ofNat 32 (((d.reg (chAddr k n 0x38)).toNat + 1) % size))).bump (pgDMA + k) 0x138
        else d
      d.setDch k n { d.dch k n with cmpwr := (c.cmpwr + 1) % size, unread := if full then size else c.unread + 1 }
    | (.fault _ _, d) => d.bump (pgDMA + k) 0x138
    | (.wait _ _, d) => d.bump (pgDMA + k) 0x138
  let bit := if code = 0 then n else if code = 0x20 then 8 + n else if code = 0x23 then 12 + n else 4 + n
  d.raise (pgDMA + k) (at_ bit 1)

/-- A chain ends with a code other than OK: a record, HALTED, the engine goes on (R391 to R394). -/
def Dev.dmaHalt (d : Dev) (k n : Nat) (code : Code) (off : Nat) : Dev :=
  let c := d.dch k n
  let d := d.cmpRecord k n c.idx code c.reading false ((c.desc.map (·.user)).getD 0) off
  let d := d.setDch k n { d.dch k n with state := .halted, code := code, stalled := false, reading := false }
  (d.setEng k ((d.eng k).release n)).dmaPick k

/-- The length below which every write of a descriptor has completed, in whole 64-byte destination flits (R391). -/
def flitFloor (dst : BitVec 64) (off : Nat) (done : Nat) : Nat :=
  let e := (dst.toNat + done) / 64 * 64
  if e ≤ dst.toNat + off then off else e - dst.toNat

/-- A fault parks the channel (R391). -/
def Dev.dmaFault (d : Dev) (k n : Nat) (va : BitVec 64) (off : Nat) (rb df : Bool) : Dev :=
  let c := d.dch k n
  let d := d.cmpRecord k n c.idx 0x20 rb df ((c.desc.map (·.user)).getD 0) off
  let d := d.setDch k n { d.dch k n with state := .faulted, code := 0x20, readback := rb, descfetch := df, off := off, fva := va, stalled := false }
  ((d.bump (pgDMA + k) 0x120).setEng k ((d.eng k).release n)).dmaPick k

/-! ### Descriptors (R387) -/

/-- A descriptor from its 64 bytes. -/
def Desc.parse (b : List Byte) : Desc :=
  let f := leAt b 1 1
  { op := leAt b 0 1 % 16, complete := f % 2 == 1, last := f / 2 % 2 == 1, stopmis := f / 4 % 2 == 1, len := leAt b 8 4
    src := BitVec.ofNat 64 (leAt b 16 8), dst := BitVec.ofNat 64 (leAt b 24 8), pattern := BitVec.ofNat 64 (leAt b 32 8)
    next := BitVec.ofNat 64 (leAt b 40 8), user := BitVec.ofNat 64 (leAt b 48 8) }

/-- The bytes keep every rule of R387; PATTERN is FILL's alone, and any value of it is good elsewhere. -/
def descOk (b : List Byte) : Bool :=
  let x := Desc.parse b
  decide (leAt b 0 1 ≤ 2 ∧ leAt b 1 1 < 8 ∧ leAt b 2 6 = 0 ∧ 1 ≤ x.len ∧ leAt b 12 4 = 0 ∧ leAt b 56 8 = 0)
  && (x.op != 1 || x.src == 0) && (x.last || x.next.toNat % 64 == 0)

/-- `CHBUDGET`. -/
def Dev.chBudget (d : Dev) (k n : Nat) : Nat := fld 24 0 (d.reg (chAddr k n 0x14))

/-- The active chain's descriptor is fetched if it is not held; none where the fetch ended or stalled the chain. -/
def Dev.dmaFetch (d : Dev) (k n : Nat) (host : Tab Byte) (pois : List Nat) : Option Desc × Dev :=
  let c := d.dch k n
  match c.desc with
  | some x => (some x, d)
  | none =>
    if d.chBudget k n ≤ c.idx then (none, d.dmaHalt k n 0x22 0)
    else match d.vread k n host pois 3 c.cur 64 [] [] with
      | (.fault va _, d) => (none, d.dmaFault k n va 0 false true)
      | (.wait _ _, d) => (none, d.setDch k n { d.dch k n with stalled := true, descfetch := true })
      | (.data b p, d) =>
        if !p.isEmpty then (none, ((d.fabErr (1 + k) 0 1).bump (pgDMA + k) 0x130).dmaHalt k n 0x25 (p.headD 0))
        else if !descOk b then (none, (d.setDch k n { d.dch k n with desc := some (Desc.parse b) }).dmaHalt k n 0x26 0)
        else
          let x := Desc.parse b
          (some x, d.setDch k n { d.dch k n with desc := some x, off := 0, mis := none, pois := none, descfetch := false, readback := false })

/-- A descriptor is over with a code: its record, the next descriptor, or the end of the chain (R388 to R390, R393). -/
def Dev.descOver (d : Dev) (k n : Nat) (x : Desc) : Dev :=
  let c := d.dch k n
  let d := d.bump (pgDMA + k) 0x110
  match c.pois with
  | some o => ((d.bump (pgDMA + k) 0x130).setDch k n { c with reading := false }).dmaHalt k n 0x25 o
  | none =>
    let code : Code := if c.mis.isSome then 0x23 else 0
    let d := d.setDch k n { c with reading := false, code := code, missSeen := c.missSeen || c.mis.isSome }
    let d := if x.complete || code ≠ 0 then d.cmpRecord k n c.idx code false false x.user (c.mis.getD 0) else d
    let c := d.dch k n
    if code ≠ 0 ∧ x.stopmis then
      ((d.setDch k n { c with state := .halted }).setEng k (((d.setDch k n { c with state := .halted }).eng k).release n)).dmaPick k
    else if x.last then
      let d := d.setDch k n { c with state := .idle, desc := none }
      (d.setEng k ((d.eng k).release n)).dmaPick k
    else d.setDch k n { c with idx := c.idx + 1, off := 0, cur := x.next, desc := none, mis := none, pois := none }

/-- The descriptor's bytes are all done: it is over, or its read-back is issued (R389). -/
def Dev.descDone (d : Dev) (k n : Nat) (x : Desc) : Dev :=
  if x.complete && x.op != 2 then d.setDch k n { d.dch k n with reading := true } else d.descOver k n x

/-- The bytes that FILL writes at a virtual address (R387). -/
def fillBytes (x : Desc) (off len : Nat) : List Byte :=
  (List.range len).map fun i => (x.pattern >>> (8 * ((x.dst.toNat + off + i) % 8))).setWidth 8

/-- `len` more bytes of the descriptor are executed from the saved offset. -/
def Dev.descRun (d : Dev) (k n : Nat) (x : Desc) (host : Tab Byte) (pois : List Nat) (len : Nat) : Dev :=
  let c := d.dch k n
  let off := c.off
  let len := min len (x.len - off)
  let at' := fun (v : BitVec 64) => v + BitVec.ofNat 64 off
  let stop := fun (r : VRes) (d : Dev) =>
    match r with
    | .fault va dn => d.dmaFault k n va (flitFloor x.dst off (off + dn)) false false
    | .wait _ dn => d.setDch k n { d.dch k n with stalled := true, off := flitFloor x.dst off (off + dn) }
    | .data _ _ => d
  let end_ := fun (d : Dev) (mis ps : Option Nat) =>
    let c := d.dch k n
    let c := { c with off := off + len, mis := c.mis.or (mis.map (off + ·)), pois := c.pois.or (ps.map (off + ·)) }
    let d := d.setDch k n c
    if off + len < x.len then d else d.descDone k n x
  let put := fun (d : Dev) (l : List Byte) (ps : List Nat) =>
    match d.vwrite k n ps (vpages len) (at' x.dst) l 0 with
    | (.data _ _, d) => end_ d none ps.head?
    | (r, d) => stop r d
  if x.op = 1 then put d (fillBytes x off len) []
  else match d.vread k n host pois (vpages len) (at' x.src) len [] [] with
    | (.data l ps, d) =>
      let d := if ps.isEmpty then d else d.fabErr (1 + k) 0 1
      if x.op = 0 then put d l ps
      else match d.vread k n host pois (vpages len) (at' x.dst) len [] [] with
        | (.data m qs, d) =>
          let d := if qs.isEmpty then d else d.fabErr (1 + k) 0 1
          end_ d ((List.range len).find? fun i => l[i]? != m[i]?) ((ps ++ qs).min?)
        | (r, d) => stop r d
    | (.fault va _, d) => stop (.fault va 0) d
    | (.wait t _, d) => stop (.wait t 0) d

/-- Bytes to the next 4 KiB boundary of the destination, or the end of the descriptor (R386). -/
def toBoundary (x : Desc) (off : Nat) : Nat :=
  let a := (x.dst.toNat + off) % 4096
  min (x.len - off) (if a = 0 then 0 else 4096 - a)

/-- The ACTIVE chain that could execute now. -/
def Dev.dmaActive (d : Dev) (k : Nat) : Option Nat :=
  match (d.eng k).active with
  | some n =>
    let c := d.dch k n
    if c.stalled || c.reading || d.fabDrains (1 + k) || 6 ≤ d.pwr.level then none else some n
  | none => none

/-- DESC_COPY, DESC_FILL, DESC_COMPARE: engine `k` executes up to `len` bytes of the ACTIVE chain's descriptor, whose OP
is `op`. While an URGENT chain waits, a BULK chain is not taken past its next 4 KiB boundary (R386). -/
def Dev.descStep (d : Dev) (k op len : Nat) (host : Tab Byte) (pois : List Nat) : Dev :=
  match d.dmaActive k with
  | none => d
  | some n =>
    match d.dmaFetch k n host pois with
    | (none, d') => d'
    | (some x, d') =>
      if x.op ≠ op then d
      else
        let c := d'.dch k n
        let lim := if !d'.chUrgent k n && !(d'.eng k).urgent.isEmpty then
            min len (if (x.dst.toNat + c.off) % 4096 = 0 then 0 else toBoundary x c.off) else len
        if lim = 0 then d' else d'.descRun k n x host pois lim

/-- CHAIN_PREEMPT: a BULK chain reaches its next 4 KiB boundary while an URGENT chain waits (R386). -/
def Dev.chainPreempt (d : Dev) (k : Nat) (host : Tab Byte) (pois : List Nat) : Dev :=
  match d.dmaActive k with
  | none => d
  | some n =>
    if d.chUrgent k n || (d.eng k).urgent.isEmpty then d
    else
      let d := match (d.dch k n).desc with
        | some x => let m := toBoundary x (d.dch k n).off; if m = 0 then d else d.descRun k n x host pois m
        | none => d
      let c := d.dch k n
      if c.state ≠ .active ∨ c.stalled then d
      else
        let d := d.setDch k n { c with state := .suspended }
        let d := d.setEng k { d.eng k with active := none, susp := some n }
        (d.bump (pgDMA + k) 0x118).dmaPick k

/-- READBACK_DONE: the read-back of the ACTIVE chain's descriptor completes or faults (R389, R391). -/
def Dev.readbackDone (d : Dev) (k : Nat) : Dev :=
  match (d.eng k).active with
  | none => d
  | some n =>
    let c := d.dch k n
    match c.desc with
    | none => d
    | some x =>
      if !c.reading || c.stalled || d.fabDrains (1 + k) then d
      else
        let last := (x.dst + BitVec.ofNat 64 (x.len - 1)) &&& ~~~3
        match d.vread k n [] [] 2 last 4 [] [] with
        | (.fault va _, d) => d.dmaFault k n va x.len true false
        | (.wait _ _, d) => d.setDch k n { d.dch k n with stalled := true, off := x.len }
        | (.data _ _, d) => (d.setDch k n { d.dch k n with readback := false }).descOver k n x

/-! ### Commands (R392, R394, R402) -/

/-- A channel joins the end of its class queue. -/
def Dev.dmaQueue (d : Dev) (k n : Nat) : Dev :=
  let e := d.eng k
  let e := if d.chUrgent k n then { e with urgent := e.urgent ++ [n] } else { e with bulk := e.bulk ++ [n] }
  (d.setEng k e).dmaPick k

/-- DMA_START. -/
def Dev.dmaStart (d : Dev) (k n : Nat) : Dev :=
  let c := d.dch k n
  d.guard (pgDMA + k) (0x1104 + 0x80 * n)
    (when' (!(c.state == .idle || c.state == .halted)) eBUSY ++ when' (decide (6 ≤ d.pwr.level)) eSHED) fun d =>
    let d := d.setDch k n { c with state := .queued, idx := 0, off := 0, desc := none, missSeen := false, readback := false
                                   descfetch := false, stalled := false, reading := false, mis := none, pois := none
                                   cur := cat64 (d.reg (chAddr k n 0x10)) (d.reg (chAddr k n 0x0C)) }
    d.dmaQueue k n

/-- DMA_RESUME. -/
def Dev.dmaResume (d : Dev) (k n : Nat) : Dev :=
  let c := d.dch k n
  d.guard (pgDMA + k) (0x1104 + 0x80 * n) (when' (c.state != .faulted) eSTATE) fun d =>
    (d.setDch k n { c with state := .queued, stalled := false }).dmaQueue k n

/-- DMA_ABORT. -/
def Dev.dmaAbort (d : Dev) (k n : Nat) : Dev :=
  let c := d.dch k n
  d.guard (pgDMA + k) (0x1104 + 0x80 * n) (when' (!(c.inUse || c.state == .faulted)) eSTATE) fun d => d.dmaHalt k n 0x24 c.off

/-- Entry to S6: every channel in use ends with E_SHED (R394). -/
def Dev.dmaS6 (d : Dev) : Dev :=
  (List.range 4).foldl (fun d k => (List.range 4).foldl (fun d n =>
    if (d.dch k n).inUse then d.dmaHalt k n eSHED (d.dch k n).off else d) d) d

/-- FABRIC_TIMEOUT of a DMA master: the stalled channel's descriptor ends with E_NORESP (R393). -/
def Dev.dmaNoResp (d : Dev) (k : Nat) : Dev :=
  match (List.range 4).find? fun n => (d.dch k n).stalled with
  | some n => (d.bump (pgDMA + k) 0x128).dmaHalt k n 0x21 (d.dch k n).off
  | none => d

/-- FABRIC_TIMEOUT. -/
def Dev.fabricTimeout (d : Dev) (master : Nat) : Dev :=
  let (q, d) := d.fabTimeout master
  if q.isSome && 1 ≤ master && master ≤ 4 then d.dmaNoResp (master - 1) else d

/-- PCIE_COMPLETION_TIMEOUT of a channel's outbound read (R393). -/
def Dev.pcieTimeout (d : Dev) (k n : Nat) : Dev :=
  let c := d.dch k n
  if c.state = .active ∨ c.state = .suspended then
    ((d.bump pgHIF 0x120).bump (pgDMA + k) 0x128).dmaHalt k n 0x21 c.off
  else d

/-- An engine's reset makes every channel IDLE and drains its ports (R381, R394). -/
def Dev.dmaReset (d : Dev) (k : Nat) : Dev := (d.setEng k {}).portReset (1 + k)

/-- `ENGSTAT`. -/
def DmaEng.stat (e : DmaEng) : Word :=
  at_ 0 (e.active.getD 0) ||| at_ 2 (b2n e.active.isSome) ||| at_ 4 (e.susp.getD 0) ||| at_ 6 (b2n e.susp.isSome)

/-- A live register of page `DMAk` that is no stored word. -/
def Dev.readDma (d : Dev) (k o : Nat) : Option Word :=
  if o = 0x1000 then some (d.eng k).stat
  else if 0x1100 ≤ o ∧ o < 0x1300 then
    let n := (o - 0x1100) / 0x80
    let r := (o - 0x1100) % 0x80
    let c := d.dch k n
    if r = 8 then
      some (at_ 0 c.state.code ||| at_ 8 c.code.toNat ||| at_ 16 (b2n c.readback) ||| at_ 17 (b2n c.descfetch) ||| at_ 18 (b2n c.missSeen))
    else if r = 0x18 then some (BitVec.ofNat 32 (c.idx % 2 ^ 24))
    else if r = 0x1C then some (BitVec.ofNat 32 c.off)
    else if r = 0x20 then some (lo32 c.fva)
    else if r = 0x24 then some (hi32 c.fva)
    else if r = 0x34 then some (BitVec.ofNat 32 c.cmpwr)
    else none
  else none

/-- A write of a channel register that is refused while the channel is in use (R398, R402). -/
def Dev.chRegErrs (d : Dev) (k n r : Nat) (v : Word) : List Code :=
  let c := d.dch k n
  if r = 0 then when' (v &&& 0xFFFFC0FE ≠ 0) eRSVD ++ when' c.inUse eBUSY
  else if r = 0x38 then when' (v >>> 16 ≠ 0) eRSVD ++ when' (decide (d.cmpSize k n ≤ v.toNat)) eRANGE
  else
    (if r = 0x14 then when' (v >>> 25 ≠ 0) eRSVD ++ when' (v.toNat < 1 || 2 ^ 24 < v.toNat) eRANGE
     else if r = 0x28 then when' (v &&& 0x1F ≠ 0) eRSVD
     else if r = 0x30 then when' (v >>> 16 ≠ 0) eRSVD ++ when' (v == 0) eRANGE else [])
    ++ when' (c.inUse || c.state == .faulted) eBUSY

/-- A write of a channel register other than `CHCMD`. -/
def Dev.chRegWrite (d : Dev) (k n r : Nat) (v : Word) : Dev :=
  d.guard (pgDMA + k) (0x1100 + 0x80 * n + r) (d.chRegErrs k n r v) fun d =>
    let d := d.setReg (chAddr k n r) v
    if r = 0x38 then
      let c := d.dch k n
      let s := d.cmpSize k n
      d.setDch k n { c with unread := (c.cmpwr + s - v.toNat % s) % s }
    else d

end Sys2Proof.Machine
end

