-- ==== Sys2Proof/Machine/Eth.lean ====
section
/-! DEFINITION. The Ethernet timing ports (R439 to R442, R453). -/

namespace Sys2Proof.Machine

/-- An Ethernet timing port. -/
def Dev.eport (d : Dev) (p : Nat) : EthPort := Tab.get {} d.eth p

/-- An Ethernet timing port takes a value. -/
def Dev.setEport (d : Dev) (p : Nat) (e : EthPort) : Dev := { d with eth := Tab.set {} d.eth p e }

/-- The port takes software stamps (R442). -/
def Dev.swts (d : Dev) (p : Nat) : Bool := d.time.tsmode.getLsbD p

/-- TXCORR and RXCORR in picoseconds (R441). -/
def EthPort.txcorr (e : EthPort) : Nat := if bitAt 1 e.ctl then 24600 else 58200
def EthPort.rxcorr (e : EthPort) : Nat := if bitAt 1 e.ctl then 31700 else 75900

/-- The QL of a grandmaster's clockClass (R411). -/
def clockClassQl (c : Nat) : Nat :=
  match c with
  | 6 => 15 | 7 => 13 | 13 => 12 | 14 => 10 | 52 => 8 | 58 => 8 | 135 => 6 | 140 => 5 | 150 => 4 | 160 => 3
  | 187 => 2 | 193 => 2 | 248 => 1 | _ => 0

/-- The QL that the grandmaster of port `p` gives its reference; a change takes effect in selection at once (R411). -/
def Dev.ptpQl (d : Dev) (p : Nat) : Dev :=
  let r := d.ref (4 + p)
  let q := clockClassQl (fld 7 0 (d.eport p).gmqual)
  if r.inband = q then d else (d.setRef (4 + p) { r with inband := q }).select

/-- PTP_MESSAGE_RX (R439 to R442, R453): an event message is received at raw stamp `raw`, picoseconds of ARRAY; `res`
is what the protocol makes of it, none where the message is bad. -/
def Dev.ptpRx (d : Dev) (p : Nat) (raw : Nat) (res : Option PtpResult) : Dev :=
  let e := d.eport p
  if !bitAt 0 e.ctl || !e.link then d
  else
    let base := 0x100 + 0x40 * p
    let e := { e with rxStamp := if d.swts p then raw else raw - e.rxcorr }
    let d := (d.setEport p e).bump pgETH base
    match res with
    | none => d.bump pgETH (base + 0x18)
    | some x =>
      let off := x.offset - (e.asym.toInt) / 250
      let moved := e.gmid ≠ x.gmid
      let e := { e with offset := BitVec.ofInt 32 off, delay := x.delay, gmid := x.gmid, gmqual := x.gmqual,
                        ptpState := x.state, foreign_ := x.foreign_, sync := e.sync + 1 }
      let d := (d.setEport p e).ptpQl p
      let d := if moved then (d.bump pgETH (base + 0x20)).raise pgETH (BitVec.ofNat 32 (2 ^ (2 + p))) else d
      if d.time.baseArr.master = 1 + p then d.measure 0 (d.time.arr - BitVec.ofInt 64 (off / 4)) x.freq else d

/-- PTP_EVENT_TX (R441, R453): the port sends an event message with raw stamp `raw`. -/
def Dev.ptpTx (d : Dev) (p : Nat) (raw : Nat) (l : List Byte) : Dev :=
  let e := d.eport p
  if !bitAt 0 e.ctl || !e.link then d
  else
    ((d.setEport p { e with txStamp := if d.swts p then raw else raw + e.txcorr }).bump pgETH (0x108 + 0x40 * p)).emit
      (.eth p l)

/-- ETH_FRAME_DROP (R440). -/
def Dev.ethDrop (d : Dev) (p : Nat) : Dev :=
  if bitAt 0 (d.eport p).ctl && (d.eport p).link then d.bump pgETH (0x110 + 0x40 * p) else d

/-- ETH_LINK_CHANGE (R453). -/
def Dev.ethLink (d : Dev) (p : Nat) (up : Bool) : Dev :=
  if !bitAt 0 (d.eport p).ctl || (d.eport p).link == up then d
  else (d.setEport p { d.eport p with link := up }).raise pgETH (BitVec.ofNat 32 (2 ^ p))

def ePORTUP : Code := 0x10

/-- What breaks a write to register `r` of a port (R453). -/
def Dev.ethErrs (d : Dev) (p r : Nat) (v : Word) : List Code :=
  match r with
  | 0x00 => when' (v &&& ~~~(0x0FFF7F1F : Word) ≠ 0 || fld 3 2 v == 3) eRSVD
      ++ when' (bitAt 0 (d.eport p).ctl && bitAt 0 v) ePORTUP
  | 0x0C => when' (fld 31 16 v ≠ 0) eRSVD
  | _ => []

/-- A write to register `r` of a port (R453). A port that is disabled has no link. -/
def Dev.ethRegWrite (d : Dev) (p r : Nat) (v : Word) : Dev :=
  d.guard pgETH (0x1000 + 0x100 * p + r) (d.ethErrs p r v) fun d =>
    let e := d.eport p
    match r with
    | 0x00 =>
      let down := e.link && !bitAt 0 v
      let d := d.setEport p { e with ctl := v, link := e.link && bitAt 0 v }
      if down then d.raise pgETH (BitVec.ofNat 32 (2 ^ p)) else d
    | 0x08 => d.setEport p { e with mac := (e.mac >>> 32 <<< 32) ||| v.setWidth 48 }
    | 0x0C => d.setEport p { e with mac := (v.setWidth 48 <<< 32) ||| (e.mac.setWidth 32).setWidth 48 }
    | 0x10 => d.setEport p { e with ipv4 := v }
    | _ => d.setEport p { e with asym := v }

/-- The ETH page's live registers. -/
def Dev.readEth (d : Dev) (o : Nat) : Option Word :=
  if 0x1000 ≤ o ∧ o < 0x1200 then
    let p := (o - 0x1000) / 0x100
    let e := d.eport p
    match o % 0x100 with
    | 0x00 => some e.ctl
    | 0x04 => some (at_ 0 (b2n e.link) ||| at_ 1 e.ptpState ||| at_ 4 (b2n (d.swts p)) ||| at_ 8 e.foreign_)
    | 0x08 => some (e.mac.setWidth 32)
    | 0x0C => some ((e.mac >>> 32).setWidth 32)
    | 0x10 => some e.ipv4
    | 0x14 => some (BitVec.ofNat 32 e.txcorr)
    | 0x18 => some (BitVec.ofNat 32 e.rxcorr)
    | 0x1C => some e.asym
    | 0x20 => some e.offset
    | 0x24 => some e.delay
    | 0x28 => some (lo32 e.gmid)
    | 0x2C => some (hi32 e.gmid)
    | 0x30 => some e.gmqual
    | _ => none
  else none

/-! ### The TIME page's live registers (R450, R451) -/

/-- The encoding of BASESTAT.STATE. -/
def BaseState.code : BaseState → Nat
  | .invalid => 0 | .tracking => 1 | .hold => 2 | .slewing => 3 | .free => 4

/-- A 48-bit value's words, and a write to one of a 64-bit value's words. -/
def setLo (x : BitVec 64) (v : Word) : BitVec 64 := cat64 (hi32 x) v
def setHi (x : BitVec 64) (v : Word) : BitVec 64 := cat64 v (lo32 x)

def Dev.readTime (d : Dev) (o : Nat) : Option Word :=
  let t := d.time
  let b := t.base t.baseIdx
  match o with
  | 0x1000 => some 0
  | 0x1004 => some (at_ 0 t.snap.gen.toNat ||| at_ 16 (b2n t.snap.ready))
  | 0x1008 => some (lo32 t.snap.arr)
  | 0x100C => some (hi32 t.snap.arr)
  | 0x1010 => some t.snap.frac
  | 0x1014 => some (t.snap.sfn.setWidth 32)
  | 0x1018 => some ((t.snap.sfn >>> 32).setWidth 32)
  | 0x101C => some (lo32 t.snap.loc)
  | 0x1020 => some (hi32 t.snap.loc)
  | 0x1024 => some (lo32 t.snap.peer)
  | 0x1028 => some (hi32 t.snap.peer)
  | 0x1040 => some (BitVec.ofNat 32 t.baseIdx)
  | 0x1044 => some b.cfg
  | 0x1048 => some (at_ 0 b.state.code ||| at_ 3 (b2n b.mvalid) ||| at_ 4 (b2n b.stepPend) ||| at_ 16 b.steps.toNat)
  | 0x104C => some (BitVec.ofInt 32 b.rate)
  | 0x1050 => some (lo32 b.stepLast)
  | 0x1054 => some (hi32 b.stepLast)
  | 0x1058 => some (lo32 b.setval)
  | 0x105C => some (hi32 b.setval)
  | 0x1060 => some (lo32 t.sfnEpoch)
  | 0x1064 => some (hi32 t.sfnEpoch)
  | 0x1068 => some (lo32 t.fch)
  | 0x106C => some (hi32 t.fch)
  | 0x1070 => some (t.tsmode.setWidth 32)
  | _ =>
    if 0x1100 ≤ o ∧ o < 0x1200 then
      let a := Tab.get {} t.alarms ((o - 0x1100) / 0x20)
      match o % 0x20 with
      | 0x00 => some a.ctl
      | 0x04 => some (lo32 a.val)
      | 0x08 => some (hi32 a.val)
      | 0x0C => some (lo32 a.per)
      | 0x10 => some (hi32 a.per)
      | 0x14 => some (at_ 0 (b2n a.fired) ||| at_ 1 (b2n a.stepped) ||| at_ 2 (b2n a.late) ||| at_ 16 a.missed.toNat)
      | _ => none
    else none

/-- A PTP reference whose port takes software stamps is DISQUALIFIED with cause PHASE (R442). -/
def Dev.heldStamped (d : Dev) (i : Nat) : Dev := if d.swStamped i && (d.ref i).en then d.disqualify i 3 else d

/-- A write to a TIME register that has no row of its own (R434, R442, R450). -/
def Dev.timeRegWrite (d : Dev) (o : Nat) (v : Word) : Dev :=
  let t := d.time
  let busy := when' (noStepState d.sys.state) eSTATE
  match o with
  | 0x1040 => d.guard pgTIME o (when' (fld 31 2 v ≠ 0) eRSVD) fun d => { d with time.baseIdx := v.toNat % 4 }
  | 0x1058 => { d with time := t.setBase t.baseIdx { t.base t.baseIdx with setval := setLo (t.base t.baseIdx).setval v } }
  | 0x105C => { d with time := t.setBase t.baseIdx { t.base t.baseIdx with setval := setHi (t.base t.baseIdx).setval v } }
  | 0x1060 => d.guard pgTIME o busy fun d => { d with time.sfnEpoch := setLo d.time.sfnEpoch v }
  | 0x1064 => d.guard pgTIME o busy fun d => { d with time.sfnEpoch := setHi d.time.sfnEpoch v }
  | 0x1068 => d.guard pgTIME o busy fun d => { d with time.fch := setLo d.time.fch v }
  | 0x106C => d.guard pgTIME o busy fun d => { d with time.fch := setHi d.time.fch v }
  | 0x1070 => d.guard pgTIME o (when' (fld 31 2 v ≠ 0) eRSVD ++ busy) fun d =>
    ([4, 5].foldl Dev.heldStamped ({ d with time.tsmode := v.setWidth 2 } : Dev)).masters
  | _ =>
    let n := (o - 0x1100) / 0x20
    let a := Tab.get {} t.alarms n
    let put := fun (a : Alarm) => { d with time.alarms := Tab.set {} t.alarms n a }
    match o % 0x20 with
    | 0x04 => put { a with val := setLo a.val v }
    | 0x08 => put { a with val := setHi a.val v }
    | 0x0C => put { a with per := setLo a.per v }
    | _ => put { a with per := setHi a.per v }

end Sys2Proof.Machine
end

