-- ==== Sys2Proof/Machine/Msp.lean ====
section
/-! DEFINITION. The monitor slot ports (R443 to R449, R454). -/

namespace Sys2Proof.Machine

/-- A monitor slot port. -/
def Dev.mport (d : Dev) (n : Nat) : MspPort := Tab.get {} d.msp n

/-- A monitor slot port takes a value. -/
def Dev.setMport (d : Dev) (n : Nat) (p : MspPort) : Dev := { d with msp := Tab.set {} d.msp n p }

/-- EN of `MCFG`. -/
def MspPort.en (p : MspPort) : Bool := bitAt 0 p.cfg
/-- The slots of a frame. -/
def MspPort.slots (p : MspPort) : Nat := fld 4 0 p.geom + 1
/-- Bits of a slot. -/
def MspPort.width (p : MspPort) : Nat := 8 * (fld 9 8 p.geom + 1)

/-- The slots a mask selects, rising. -/
def maskSlots (m : Word) : List Nat := (List.range 32).filter fun s => m.getLsbD s

/-- The encoding of LOOPSTATE (R427). -/
def LoopState.code : LoopState → Nat
  | .freerun => 0 | .locked => 1 | .switching => 2 | .holdover => 3 | .software => 4

/-- A monitor word as the slot output takes it (R445). -/
def Dev.monitorWord (d : Dev) (w : Nat) : Word :=
  if w < 224 then Tab.get 0 d.monword w
  else if w = 224 then lo32 d.time.arr
  else if w = 225 then hi32 d.time.arr
  else if w = 226 then d.time.sfn.setWidth 32
  else if w = 227 then BitVec.ofNat 32 (d.time.sfn.toNat / 2 ^ 32)
  else if w = 228 then at_ 0 d.sys.state.code ||| at_ 8 d.pwr.level ||| at_ 16 d.clk.loop.code
  else if w = 229 then d.sys.reamcnt
  else if w = 230 then d.sys.sheetcnt
  else if w = 231 then BitVec.ofNat 32 d.trg.fires
  else if w = 232 then d.pwr.tj.signExtend 32
  else if w = 233 then d.reg (bar pgPWR 0x1024)
  else 0

/-- The stamp record of a block that ends (R448). -/
def MspPort.record (p : MspPort) (n : Nat) (flags : Nat) : List Byte :=
  leBytes 1 n ++ leBytes 1 flags ++ leBytes 2 p.words.length ++ leBytes 4 p.maskgen.toNat
    ++ leBytes 4 (p.blocks.toNat + 1) ++ leBytes 4 0
    ++ leBytes 8 p.stampArr.toNat ++ leBytes 4 p.stampFrac.toNat ++ leBytes 4 p.stampSfn.toNat

/-- The bytes of an entry: the record, and the IN words at 128 bytes a frame. -/
def MspPort.entry (p : MspPort) (n : Nat) (flags : Nat) : List (Nat × List Byte) :=
  (0, p.record n flags)
    :: p.words.zipIdx.map fun e => (32 + 128 * e.2, e.1.flatMap fun w => leBytes 4 w.toNat)

/-- Address of ring entry `i` of port `n`. -/
def mspEntry (n i : Nat) : Nat := loadedAddr pgMSP (0x1018 + 0x40 * n) + 32800 * i

/-- The port's open block closes with flags beside ARRAYINV (R448): one entry, or none where it holds no complete
frame. -/
def Dev.mspClose (d : Dev) (n flags : Nat) : Dev :=
  let p := d.mport n
  let shut := { p with frame := 0, words := [] }
  if p.words = [] then d.setMport n shut
  else
    let flags := flags ||| (8 * b2n p.stampInv)
    let full := decide (p.filled = 64)
    let d := if d.memServes then
        (p.entry n flags).foldl (fun d e => (d.putBytes (mspEntry n p.ringwr.toNat + e.1) e.2)) d
      else d
    let q := { shut with ringwr := p.ringwr + 1, blocks := p.blocks + 1, filled := if full then 64 else p.filled + 1,
                         ringrd := if full then p.ringrd + 1 else p.ringrd }
    let d := ((d.setMport n q).bump pgMSP (0x108 + 0x20 * n)).raise pgMSP (BitVec.ofNat 32 (2 ^ n))
    if full then (d.bump pgMSP (0x118 + 0x20 * n)).raise pgMSP 0x100 else d

/-- The port adopts the bank that waits for it (R447). -/
def Dev.mspAdopt (d : Dev) (n : Nat) : Dev :=
  let p := d.mport n
  match p.next with
  | none => d
  | some b =>
    let d := d.mspClose n 1
    let p := d.mport n
    let d := d.setMport n { p with bank := b, next := none, maskgen := p.maskgen + 1 }
    if (List.range 4).all (fun k => (d.mport k).next.isNone) then d.modPage pgMSP fun g => { g with locked := false }
    else d

/-- A frame in progress ends: its IN words join the open block and `AUXLAST` (R446, R448). -/
def Dev.mspFrameEnd (d : Dev) (n : Nat) (ws : List Word) : Dev :=
  let p := d.mport n
  if p.frame = 0 then d
  else
    let m : Word := BitVec.ofNat 32 (2 ^ p.width - 1)
    let slots := (maskSlots p.bank.inMask).filter (decide <| · < p.slots)
    let ws := (List.range slots.length).map fun k => (ws[k]?).getD 0 &&& m
    let aux := (slots.zip ws).foldl (fun t e => Tab.set 0 t e.1 e.2) []
    (d.setMport n { p with words := p.words ++ [ws], aux := aux }).bump pgMSP (0x100 + 0x20 * n)

/-- MSP_FRAME_START (R447, R448): an FS edge. `ws` are the words captured in the IN slots of the frame that ends. -/
def Dev.mspFrameStart (d : Dev) (n : Nat) (ws : List Word) : Dev :=
  let p := d.mport n
  if !p.en || p.state == .off || p.state == .shed then d
  else
    let d := if p.state = .run then d.mspFrameEnd n ws else d
    let d := d.setMport n { d.mport n with state := .run }
    let d := if (d.mport n).words.length = 256 then d.mspClose n 0 else d
    let d := d.mspAdopt n
    let p := d.mport n
    let p := if p.frame = 0 then
        { p with frame := 1, stampArr := d.time.arr, stampFrac := d.time.arrFrac, stampSfn := d.time.sfn.setWidth 32,
                 stampInv := d.time.baseArr.state != .tracking }
      else { p with frame := p.frame + 1 }
    let d := d.setMport n p
    if d.aon.estop.active then d
    else
      let m : Word := BitVec.ofNat 32 (2 ^ p.width - 1)
      ((maskSlots p.bank.outMask).filter (decide <| · < p.slots)).foldl (fun d s =>
        d.emit (.slot n s (d.monitorWord (Tab.get 0 p.bank.src s).toNat &&& m))) d

/-- MSP_CLKLOSS (R444): a slave port waits for the next FS; its block closes and a waiting bank is adopted. -/
def Dev.mspClkloss (d : Dev) (n : Nat) : Dev :=
  let p := d.mport n
  if !p.en || !bitAt 1 p.cfg || p.state != .run then d
  else
    let d := d.mspClose n 3
    let d := d.setMport n { d.mport n with state := .clkloss }
    ((d.mspAdopt n).bump pgMSP (0x110 + 0x20 * n)).raise pgMSP (BitVec.ofNat 32 (2 ^ (4 + n)))

/-- Shedding to S1 stops every port (R449). -/
def Dev.mspShed (d : Dev) : Dev :=
  (List.range 4).foldl (fun d n =>
    if (d.mport n).en then
      let d := d.mspClose n 5
      d.setMport n { d.mport n with state := .shed }
    else d) d

/-- The ports restart at the first sheet boundary after recovery to S0 (R449). -/
def Dev.mspResume (d : Dev) : Dev :=
  (List.range 4).foldl (fun d n =>
    if (d.mport n).state = .shed then d.setMport n { d.mport n with state := .run } else d) d

/-! ### Registers (R454) -/

/-- The geometry fits the frame (R443). -/
def mspFits (geom : Word) (len : Nat) : Bool :=
  decide (fld 20 16 geom + (fld 4 0 geom + 1) * (8 * (fld 9 8 geom + 1)) ≤ len)

def eSLOTFIT : Code := 0x10
def eRINGIDX : Code := 0x11

/-- What breaks a write to register `r` of port `n` (R443, R444, R454). -/
def Dev.mspErrs (d : Dev) (n r : Nat) (v : Word) : List Code :=
  let p := d.mport n
  let busy := when' (p.en && !(r == 0 && !bitAt 0 v)) eBUSY
  match r with
  | 0x00 => when' (fld 31 5 v ≠ 0) eRSVD ++ busy
  | 0x04 => when' (v &&& ~~~(0x001F031F : Word) ≠ 0) eRSVD
      ++ when' (!mspFits v p.framelen.toNat) eSLOTFIT ++ busy
  | 0x08 => when' (fld 31 12 v ≠ 0) eRSVD ++ when' (v.toNat < 8 || v.toNat > 2048) eRANGE
      ++ when' (!mspFits p.geom v.toNat) eSLOTFIT ++ busy
  | 0x0C => when' (v.toNat > 422212465) eRANGE ++ busy
  | 0x24 => when' (fld 31 6 v ≠ 0) eRSVD
      ++ when' ((BitVec.ofNat 6 v.toNat - p.ringrd).toNat > p.filled) eRINGIDX
  | _ => when' (fld 31 5 v ≠ 0) eRSVD

/-- A write to register `r` of port `n` (R454). -/
def Dev.mspRegWrite (d : Dev) (n r : Nat) (v : Word) : Dev :=
  d.guard pgMSP (0x1000 + 0x40 * n + r) (d.mspErrs n r v) fun d =>
    let p := d.mport n
    match r with
    | 0x00 =>
      let q := { p with cfg := v.setWidth 5 }
      if bitAt 0 v && !p.en then
        d.setMport n { q with state := if d.pwr.level = 0 then .run else .shed, blocks := 0 }
      else if !bitAt 0 v && p.en then
        let d := d.mspClose n 1
        (d.setMport n { d.mport n with cfg := v.setWidth 5, state := .off }).mspAdopt n
      else d.setMport n q
    | 0x04 => d.setMport n { p with geom := v }
    | 0x08 => d.setMport n { p with framelen := v.setWidth 12 }
    | 0x0C => d.setMport n { p with sckinc := v }
    | 0x24 =>
      let i := BitVec.ofNat 6 v.toNat
      d.setMport n { p with ringrd := i, filled := p.filled - (i - p.ringrd).toNat }
    | _ => d.setMport n { p with auxidx := v.setWidth 5 }

/-- MONWORD_WRITE by the host (R445). -/
def Dev.monwordWrite (d : Dev) (w : Nat) (v : Word) : Dev :=
  d.guard pgMSP (0xC000 + 4 * w) (when' (224 ≤ w || d.grantHeld 3) ePERM) fun d =>
    { d with monword := Tab.set 0 d.monword w v }

/-- A shadow bank of the ports. -/
def Dev.mspShadow (d : Dev) (n : Nat) : MspBank := Tab.get {} d.mspSh n

/-- A write into the shadow masks of a port; `o` counts from 0x8000 + 0x100 n (R454). -/
def Dev.mspShadowWrite (d : Dev) (n o : Nat) (v : Word) : Dev :=
  let b := d.mspShadow n
  d.guard pgMSP (0x8000 + 0x100 * n + o)
    (when' (o ≥ 0x80 && fld 31 8 v ≠ 0) eRSVD ++ when' ((d.page pgMSP).locked) eLOCK) fun d =>
    let b := if o = 0 then { b with outMask := v } else if o = 4 then { b with inMask := v }
      else { b with src := Tab.set 0 b.src ((o - 0x80) / 4) (v.setWidth 8) }
    { d with mspSh := Tab.set {} d.mspSh n b }

/-- What a ticket for the MSP page needs (R454): no mask bit at or above SLOTS. -/
def Dev.mspTicketErrs (d : Dev) : List Code :=
  when' ((List.range 4).any fun n =>
    let b := d.mspShadow n
    (maskSlots (b.outMask ||| b.inMask)).any fun s => decide ((d.mport n).slots ≤ s)) eSLOTFIT

/-- The MSP page's swap (R447): every port gets the new bank; one that is off or in CLKLOSS adopts it at once. -/
def Dev.mspCommit (d : Dev) : Dev :=
  (List.range 4).foldl (fun d n =>
    let p := d.mport n
    let d := d.setMport n { p with next := some (d.mspShadow n) }
    if p.en && p.state != .clkloss then d else d.mspAdopt n) d

/-- The encoding of MSTAT.STATE. -/
def MspState.code : MspState → Nat
  | .off => 0 | .run => 1 | .clkloss => 2 | .shed => 3

/-- The MSP page's live registers and words. -/
def Dev.readMsp (d : Dev) (o : Nat) : Option Word :=
  if 0x1000 ≤ o ∧ o < 0x1100 then
    let p := d.mport ((o - 0x1000) / 0x40)
    match o % 0x40 with
    | 0x00 => some (p.cfg.setWidth 32)
    | 0x04 => some p.geom
    | 0x08 => some (p.framelen.setWidth 32)
    | 0x0C => some p.sckinc
    | 0x10 => some (at_ 0 p.state.code ||| at_ 2 (b2n d.aon.estop.active) ||| at_ 8 ((p.frame - 1) % 256)
        ||| at_ 16 (p.blocks.toNat % 65536))
    | 0x14 => some p.maskgen
    | 0x18 => some (Config.loaded (bar pgMSP o))
    | 0x1C => some (Config.loaded (bar pgMSP o) &&& 0xFFFF)
    | 0x20 => some (p.ringwr.setWidth 32)
    | 0x24 => some (p.ringrd.setWidth 32)
    | 0x28 => some (p.auxidx.setWidth 32)
    | 0x2C => some (Tab.get 0 p.aux p.auxidx.toNat)
    | _ => none
  else if 0xC000 ≤ o ∧ o < 0xC400 then some (d.monitorWord ((o - 0xC000) / 4))
  else if 0x8000 ≤ o ∧ o < 0x8400 then
    let b := d.mspShadow ((o - 0x8000) / 0x100)
    let k := o % 0x100
    if k = 0 then some b.outMask else if k = 4 then some b.inMask
    else if 0x80 ≤ k then some ((Tab.get 0 b.src ((k - 0x80) / 4)).setWidth 32) else none
  else none

end Sys2Proof.Machine
end

