-- ==== Sys2Proof/Machine/BurQ.lean ====
section
/-! DEFINITION. Burin tasks, their events, queues and tap rings, loading and shedding of cores (R276 to R279, R282, R285
to R289). -/

namespace Sys2Proof.Machine

/-! ### Tasks -/

/-- The plate whose tasks the cores run: the outgoing one until the statistics latch of a takeover (R285). -/
def Dev.burReq (d : Dev) : Req := match d.run.outgoing with | some p => p.req | none => d.req

/-- The page of a core. -/
def burPage (c : Nat) : Nat := pgBUR + c / 16

/-- A counter of a core's page grows. -/
def Dev.burCnt (d : Dev) (c off : Nat) (n : Nat := 1) : Dev := d.bump (burPage c) off n

/-- Task `t` of a core. -/
def Core.tk (x : Core) (t : Nat) : Option Placed := x.tasks[t]?

/-- SUBS of an entry: event kind `k` is subscribed. -/
def Req.tkSubs (r : Req) (i k : Nat) : Bool := r.task i 32 2 / 2 ^ (k - 1) % 2 == 1

/-- A core holds a CRITICAL task: every task on it is CRITICAL then (R178). -/
def Core.critical (x : Core) (r : Req) : Bool := !x.tasks.isEmpty && x.tasks.all fun p => r.tkCritical p.entry

/-- Shedding stops the core at a level: S1 where it holds a task that is not CRITICAL, S5 always (R286, R486). -/
def Core.stops (x : Core) (r : Req) (level : Nat) : Bool :=
  decide (5 ≤ level) || (decide (1 ≤ level) && !x.tasks.isEmpty && !x.critical r)

/-- Where the tasks of a core's load lie: program and data are laid out in placement order. -/
def Req.layTasks (r : Req) : Nat → Nat → List Nat → List Placed
  | _, _, [] => []
  | p, q, i :: t =>
    { entry := i, prog := p, data := q } :: r.layTasks (p + (r.tkProg i).length) (q + r.task i 24 2) t

/-- The tasks a plate puts on core `c`. -/
def Req.tasksOn (r : Req) (c : Nat) : List Placed :=
  match r.placement with
  | some l => r.layTasks 0 0 ((l[c]?).getD {}).tasks
  | none => []

/-! ### Events (R277 to R279) -/

/-- Event kinds. -/
def evFSPOW : Nat := 1
def evTRGY : Nat := 2
def evSHEET : Nat := 3
def evLATCH : Nat := 4
def evBPOW : Nat := 5
def evPARAM : Nat := 6
def evSTART : Nat := 7
def evMBOX : Nat := 8
def evTIMER : Nat := 9

/-- The words of a 48-bit value, least significant first. -/
def words48 (v : Nat) : List (BitVec 16) := [BitVec.ofNat 16 v, BitVec.ofNat 16 (v / 65536), BitVec.ofNat 16 (v / 2 ^ 32)]
/-- The words of a 32-bit value. -/
def words32 (v : Nat) : List (BitVec 16) := [BitVec.ofNat 16 v, BitVec.ofNat 16 (v / 65536)]

/-- An event of a task is lost: counted, flagged for its next event, TAPDROP raised (R279). -/
def Dev.tapDrop (d : Dev) (c t : Nat) : Dev :=
  let x := d.core c
  let x := { x with loss := true, tasks := x.tasks.modify t fun p => { p with loss := true } }
  ((d.setCore c x).burCnt c 0x110).raise (burPage c) 0x4

/-- The record's words are laid into the task's tap ring, wrapping at its end. -/
def Core.ringPut (x : Core) (base size wr : Nat) : List (BitVec 16) → Core
  | [] => x
  | w :: t => (x.setD (base + wr % size) w).ringPut base size (wr + 1) t

/-- An event reaches its core's queue, with its record in the tap ring, or is lost (R277, R279, R286). -/
def Dev.burPost (d : Dev) (c : Nat) (e : BEvent) (rec_ : List (BitVec 16)) : Dev :=
  let x := d.core c
  let r := d.burReq
  if x.state = .shed then d.burCnt c 0x118
  else if x.state = .off ∨ x.state = .fault then d
  else if x.state = .loading then
    if x.resumeAt.isSome then d
    else if d.bur.hold.length < 64 then { d with bur.hold := d.bur.hold ++ [(c, e, rec_)] }
    else d.tapDrop c e.task
  else
    match x.tk e.task with
    | none => d
    | some p =>
      let size := r.task p.entry 36 2
      let n := rec_.length
      if e.kind ≠ evSTART ∧ !after e.stamp x.since then d
      else if 32 ≤ x.queue.length ∨ size < p.ringUsed + n then d.tapDrop c e.task
      else
        let base := p.data + r.task p.entry 34 2
        let e := { e with flags := e.flags ||| (if p.loss then 2 else 0), addr := base + p.ringWr % max 1 size, words := n }
        let hd := match rec_ with | [] => [] | w :: t => (w ||| BitVec.ofNat 16 (e.flags * 256)) :: t
        let x := x.ringPut base (max 1 size) p.ringWr hd
        let x := { x with
          queue := x.queue ++ [e], peak := max x.peak (x.queue.length + 1)
          tasks := x.tasks.set e.task { p with ringWr := (p.ringWr + n) % max 1 size, ringUsed := p.ringUsed + n, loss := false } }
        d.setCore c x

/-- Events of the interval after a takeover's last outgoing sheet wait for the incoming tasks (R285). -/
def Dev.burLater (d : Dev) (stamp : Sfn) : Bool :=
  match d.run.tookAt, d.run.outgoing with
  | some b, some p => after stamp (b + BitVec.ofNat 48 p.req.ks)
  | _, _ => false

/-- An event goes to every task that subscribes its kind; `recFor` gives a task's record, none where the task does not
get the event. -/
def Dev.burEvent (d : Dev) (kind : Nat) (stamp : Sfn) (group flags : Nat)
    (recFor : Req → Nat → Option (List (BitVec 16))) : Dev :=
  let later := d.burLater stamp
  let r := if later then d.req else d.burReq
  (List.range 64).foldl (fun d c =>
    let ts := if later then r.tasksOn c else (d.core c).tasks
    (ts.zipIdx).foldl (fun d pt =>
      if !r.tkSubs pt.1.entry kind then d
      else match recFor r pt.1.entry with
        | none => d
        | some rec_ =>
          let e : BEvent := { task := pt.2, kind := kind, flags := flags, stamp := stamp, group := group }
          if later then
            if d.bur.hold.length < 64 then { d with bur.hold := d.bur.hold ++ [(c, e, rec_)] } else d.tapDrop c pt.2
          else d.burPost c e rec_) d) d

/-- No plate in the run has tasks: nothing subscribes. -/
def Dev.noTasks (d : Dev) : Bool := d.req.ntask == 0 && d.burReq.ntask == 0

/-- The eight header words of FSPOW and TRGY records. -/
def tapHeader (kind : Nat) (stamp : Sfn) (group members : Nat) (valid : Nat) : List (BitVec 16) :=
  [BitVec.ofNat 16 kind] ++ words48 stamp.toNat ++ [BitVec.ofNat 16 group, BitVec.ofNat 16 members] ++ words32 valid

/-- FSPOW of a closed frame set (R277): its members with their payloads; `inv`: the set is invalid. -/
def Dev.burFspow (d : Dev) (g : Nat) (f : Sfn) (ms : List Member) (inv : Bool) : Dev :=
  if d.noTasks then d
  else
    let rf := d.reqAt f
    let stamp := f + BitVec.ofNat 48 rf.lf
    d.burEvent evFSPOW stamp g (if inv then 4 else 0) fun r i =>
      if r.task i 38 2 / 2 ^ g % 2 = 0 then none
      else
        let ins := (List.range (r.task i 42 1)).map (r.task i 40 2 + ·)
        let mem := fun p => ms.find? (·.p == p)
        let valid := (ins.zipIdx).foldl (fun v e => if (mem e.1).isSome then v + 2 ^ e.2 else v) 0
        some (tapHeader evFSPOW stamp g ms.length valid ++ ins.flatMap fun p => (List.range 64).flatMap fun c =>
          match mem p with
          | none => words32 0
          | some m => words32 ((List.range rf.lf).foldl (fun s t =>
              let v := paySample rf m.bytes c t
              s + v.1.natAbs ^ 2 + v.2.natAbs ^ 2) 0))

/-- TRGY of a time block whose trigger samples are evaluated (R277). -/
def Dev.burTrgy (d : Dev) (s : Sfn) (inv : Bool) : Dev :=
  if d.noTasks then d
  else
    let rf := d.reqAt s
    let stamp := s + BitVec.ofNat 48 rf.lf
    d.burEvent evTRGY stamp 0 (if inv then 4 else 0) fun r i =>
      let k0 := r.task i 44 2
      some (tapHeader evTRGY stamp 0 0 0 ++ (List.range (r.task i 43 1)).flatMap fun k =>
        (List.range rf.tNsub).flatMap fun sb => (List.range (rf.lf / 2 ^ rf.tA)).map fun j =>
          BitVec.ofInt 16 ((Tab.get ({} : YSum) d.trg.y (yKey (d.tickOf s + j) (k0 + k) sb)).value rf.tDshift))

/-- SHEET and BPOW at a sheet's completion (R277): the beam-power table is written first. -/
def Dev.burSheet (d : Dev) (s : DoneSheet) : Dev :=
  let rf := d.reqAt s.at_
  let stamp := s.at_ + BitVec.ofNat 48 rf.ks
  let put := fun (d : Dev) => (List.range rf.ntb).foldl (fun d k => (List.range rf.nchan).foldl (fun d c =>
      let v : Nat × Nat := Tab.get (0, 0) d.trg.pow (powKey s.at_ k c)
      d.putBytes (Config.bpowBase + 12 * (k * rf.nchan + c)) (leBytes 8 v.1 ++ leBytes 4 v.2)) d) d
  let d := if rf.trigMode then put d else d
  let d := { d with trg.pow := d.trg.pow.filter fun e => !decide (e.1 / 262144 = s.at_.toNat) }
  if d.noTasks then d
  else
    let dead := (s.flags.filter fun e => e.2.dead).length
    let absent := (s.flags.filter fun e => e.2.absent).length
    let vbm := loadedAddr pgING 0x1050 + (if d.ing.vbmBuf then rf.vbmSize else 0)
    let d := d.burEvent evSHEET stamp 0 0 fun _ _ =>
      some (words32 s.idx ++ [BitVec.ofNat 16 dead, BitVec.ofNat 16 absent] ++ words48 vbm)
    d.burEvent evBPOW stamp 0 0 fun _ _ => some (words48 Config.bpowBase)

/-- LATCH at a statistics latch (R277). -/
def Dev.burLatch (d : Dev) (stamp : Sfn) : Dev :=
  if d.noTasks then d
  else
    d.burEvent evLATCH stamp 0 0 fun _ _ =>
      some (words32 (d.page pgBUR).pgen.toNat ++ [d.sys.reamcnt.setWidth 16])

/-- A core's cycles of the sheet that ends (R279, R288). -/
def Dev.burCycles (d : Dev) : Dev :=
  (List.range 64).foldl (fun d c =>
    let x := d.core c
    let bound := (x.tasks.map fun p => d.burReq.task p.entry 4 4).sum
    let past := !x.tasks.isEmpty && decide (bound < x.cyc)
    let d := d.setCore c { x with cycLast := x.cyc, cyc := 0 }
    if past then (d.burCnt c 0x150).raise (burPage c) 0x10 else d) d

/-! ### Parameters (R282) -/

/-- BUR_k's parameters swap at boundary `b`: each task's slice is copied, and PARAM is posted. -/
def Dev.burCommit (d : Dev) (k : Nat) (b : Sfn) : Dev :=
  let lo := 16 * k * 512
  let hi := lo + 16 * 512
  let keep := d.bur.par.filter fun e => !decide (lo ≤ e.1 ∧ e.1 < hi)
  let new := d.bur.parSh.filter fun e => decide (lo ≤ e.1 ∧ e.1 < hi)
  let d := { d with bur.par := new.foldl (fun t e => Tab.set 0 t e.1 e.2) keep }
  let r := d.burReq
  (List.range 16).foldl (fun d n =>
    let c := 16 * k + n
    ((d.core c).tasks.zipIdx).foldl (fun d pt =>
      let i := pt.1.entry
      let x := (List.range (r.task i 50 2)).foldl (fun (x : Core) w =>
        x.setD (pt.1.data + r.task i 52 2 + w) (Tab.get 0 d.bur.par (c * 512 + r.task i 48 2 + w))) (d.core c)
      let d := d.setCore c x
      if r.tkSubs i evPARAM then d.burPost c { task := pt.2, kind := evPARAM, stamp := b } [] else d) d) d

/-! ### Loading, starting and stopping (R285 to R287) -/

/-- A bank with every register at zero. -/
def Core.fresh (x : Core) : Core :=
  { x with bank1 := false, b0 := {}, b1 := {}, fe := false, loss := false, task := none, running := none, queue := [], irqs := [],
           mbxIn := [], mbxOut := [], ports := {} }

/-- The core's images are loaded from a plate (R283, R285): programs, initial data, SCALE and SAT. -/
def Core.load (x : Core) (r : Req) : Core :=
  let x := x.tasks.foldl (fun (x : Core) p =>
    let x := ((r.tkProg p.entry).zipIdx).foldl (fun (x : Core) e => x.setP (p.prog + e.2) e.1) x
    let o := r.task p.entry 16 4
    if o = 0 then x
    else (List.range (r.task p.entry 20 4 / 2)).foldl (fun (x : Core) w =>
      x.setD (p.data + w) (BitVec.ofNat 16 (leAt r.burin (o + 2 * w) 2))) x) x
  match x.tasks with
  | [] => x
  | p :: _ => { x with cmode := at_ 0 (r.task p.entry 46 1 % 32) ||| at_ 8 (r.task p.entry 47 1) }

/-- Cores that hold tasks of plate `r` go to LOADING; the others that held tasks go to OFF (R285). -/
def Dev.burAssign (d : Dev) (r : Req) : Dev :=
  (List.range 64).foldl (fun d c =>
    let x := d.core c
    match r.tasksOn c with
    | [] => if x.tasks.isEmpty then d else d.setCore c { x.fresh with tasks := [], state := .off, resumeAt := none }
    | l => d.setCore c { x.fresh with tasks := l, state := .loading, resumeAt := none, halt := false }) d

/-- START puts the plate's tasks on the cores; nothing is held (R285). -/
def Dev.burStart (d : Dev) : Dev := { d with bur.hold := [] }.burAssign d.req

/-- At L of a takeover the outgoing tasks stop and the cores are reloaded (R285). -/
def Dev.burTakeover (d : Dev) : Dev := d.burAssign d.req

/-- START for each task of a core. -/
def Dev.burStartEvents (d : Dev) (c : Nat) (stamp since : Sfn) (resume : Bool) : Dev :=
  let d := d.setCore c { d.core c with since := since }
  ((d.core c).tasks.zipIdx).foldl (fun d pt =>
    d.burPost c { task := pt.2, kind := evSTART, flags := b2n resume, stamp := stamp } []) d

/-- BURIN_RELOAD_DONE: the loading cores' images are in place; each task receives START and then its held events.
`b`: SFN after which a takeover's data belong to the incoming tasks; none at START. -/
def Dev.burReloadDone (d : Dev) : Dev :=
  let (stamp, since) := match d.run.tookAt with
    | some b => (b + BitVec.ofNat 48 (d.req.ks + d.req.w), b + BitVec.ofNat 48 d.req.ks)
    | none => (d.run.s0, d.run.s0)
  let waiting := d.bur.hold
  let cs := (List.range 64).filter fun c => (d.core c).state == .loading && (d.core c).resumeAt.isNone
  if cs = [] ∨ d.run.outgoing.isSome then d
  else
    let d := { d with bur.hold := [] }
    let d := cs.foldl (fun d c =>
      let x := (d.core c).load d.req
      let shed := x.stops d.req d.pwr.level
      let d := d.setCore c { x with state := .wait, lost := x.lost }
      let d := d.burStartEvents c stamp since false
      if shed then d.setCore c { d.core c with state := .shed, queue := [] } else d) d
    waiting.foldl (fun d e => if cs.contains e.1 then d.burPost e.1 e.2.1 e.2.2 else d) d

/-- A core goes to SHED: its activation and its events are lost, its memories stay (R286). A core that is loading sheds
when its images are in place. -/
def Dev.burShedCore (d : Dev) (c : Nat) : Dev :=
  let x := d.core c
  if x.state = .off ∨ x.state = .fault ∨ (x.state = .loading ∧ x.resumeAt.isNone) then d
  else if x.state = .shed then d.setCore c { x with resumeAt := none }
  else if x.tasks.isEmpty then d.setCore c { x with state := .shed, held := x.state }
  else
    let d := d.burCnt c 0x118 x.queue.length
    d.setCore c { x with state := .shed, queue := [], running := none, task := none, bank1 := false, irqs := []
                         resumeAt := none, tasks := x.tasks.map fun p => { p with ringUsed := 0 } }

/-- S1: every core with a task that is not CRITICAL stops; S5 (`all`): every core (R286). -/
def Dev.burShed (d : Dev) (all : Bool) : Dev :=
  (List.range 64).foldl (fun d c => if (d.core c).stops d.burReq (if all then 5 else 1) then d.burShedCore c else d) d

/-- S6: the core memories are lost (R286). -/
def Dev.burLose (d : Dev) : Dev :=
  (List.range 64).foldl (fun d c =>
    let x := d.core c
    { d.setCore c { x with pmem := [], dmem := [], lost := some d.free } with free := d.free + 1 }) d

/-- The shed cores that may run at the level in force are to restart at boundary `b` (R286, R486). -/
def Dev.burRecover (d : Dev) (b : Sfn) : Dev :=
  (List.range 64).foldl (fun d c =>
    let x := d.core c
    if x.state = .shed && !x.stops d.burReq d.pwr.level && x.resumeAt.isNone then
      d.setCore c { x with resumeAt := some b }
    else d) d

/-- A core restarts its tasks at its boundary, with START and RESUME (R286, R287). -/
def Dev.burResume (d : Dev) (c : Nat) : Dev :=
  let x := d.core c
  match x.resumeAt with
  | none => d
  | some b =>
    if !atOrAfter d.time.sfn b then d
    else if x.tasks.isEmpty then
      d.setCore c { x with resumeAt := none, state := if x.state = .shed then (if x.halt then .halted else x.held) else x.state }
    else
      let x := if x.lost.isSome && x.pmem.isEmpty then { x.fresh with tasks := x.tasks }.load d.burReq else x
      (d.setCore c { x with state := .wait, resumeAt := none, queue := [] }).burStartEvents c b b true

/-- CCTL.CRESET: the core's tasks are reloaded and restart at the next sheet boundary at least W ahead (R287). -/
def Dev.burCreset (d : Dev) (c : Nat) : Dev :=
  let x := d.core c
  if x.tasks.isEmpty then d
  else
    let ts := x.tasks.map fun p => { p with ringWr := 0, ringUsed := 0, loss := false }
    d.setCore c ({ x.fresh with tasks := ts, state := .loading, resumeAt := some (d.boundary 2), fault := 0 }.load d.burReq)

/-- A core faults (R287). -/
def Dev.burFault (d : Dev) (c code : Nat) : Dev :=
  let x := d.core c
  let pc := if x.bank1 then x.b1.pc else x.b0.pc
  let t := match x.task with | some t => t | none => 0x1F
  ((d.setCore c { x with state := .fault, fault := at_ 0 code ||| at_ 8 pc.toNat ||| at_ 24 t, queue := [], irqs := []
                         running := none }).burCnt c 0x140).raise (burPage c) 0x1

/-! ### Registers (R288, R289) -/

/-- The encoding of CSTAT.STATE. -/
def CoreState.code : CoreState → Nat
  | .off => 0 | .run => 1 | .wait => 2 | .halted => 3 | .shed => 4 | .fault => 5 | .loading => 6

/-- A map over the sixteen cores of a page. -/
def Dev.coreMap (d : Dev) (k : Nat) (p : Core → Bool) : Word :=
  (List.range 16).foldl (fun w n => if p (d.core (16 * k + n)) then w ||| BitVec.ofNat 32 (2 ^ n) else w) 0

/-- The core's current bank. -/
def Core.bank (x : Core) : Bank := if x.bank1 then x.b1 else x.b0
/-- The current bank takes a value. -/
def Core.setBank (x : Core) (b : Bank) : Core := if x.bank1 then { x with b1 := b } else { x with b0 := b }
/-- Bank 1 or bank 0 by number. -/
def Core.bankOf (x : Core) (one : Bool) : Bank := if one then x.b1 else x.b0
/-- A bank by number takes a value. -/
def Core.setBankOf (x : Core) (one : Bool) (b : Bank) : Core := if one then { x with b1 := b } else { x with b0 := b }

/-- The register DBGSEL names (R289). -/
def Core.dbgRead (x : Core) : Word :=
  let b := x.bankOf (bitAt 8 x.dbgsel)
  let k := fld 5 0 x.dbgsel
  let part := fun (a : BitVec 40) (i : Nat) =>
    if i = 0 then (a.setWidth 16 : BitVec 16).setWidth 32 else if i = 1 then ((a >>> 16).setWidth 16 : BitVec 16).setWidth 32
    else ((a >>> 32).setWidth 8 : BitVec 8).setWidth 32
  if k < 16 then (Tab.get 0 b.dr k).setWidth 32
  else if k < 24 then (Tab.get 0 b.ar (k - 16)).setWidth 32
  else if k < 32 then (Tab.get 0 b.mr (k - 24)).setWidth 32
  else if k < 35 then part b.ac0 (k - 32)
  else if k < 38 then part b.ac1 (k - 35)
  else if k = 38 then b.lk.setWidth 32
  else if k = 39 then b.lc.setWidth 32
  else if k = 40 then b.ls.setWidth 32
  else if k = 41 then b.le.setWidth 32
  else if k = 42 then b.amode
  else if k = 43 then b.pc.setWidth 32
  else 0

/-- The BURk page's live registers, and its parameter window's shadow. -/
def Dev.readBur (d : Dev) (k o : Nat) : Option Word :=
  if o = 0x1000 then some (d.coreMap k fun x => x.state == .run || x.state == .wait)
  else if o = 0x1004 then some (d.coreMap k fun x => !x.tasks.isEmpty)
  else if o = 0x1008 then some (d.coreMap k fun x => x.state == .fault)
  else if o = 0x100C then some (d.coreMap k fun x => !x.mbxOut.isEmpty)
  else if 0x1100 ≤ o ∧ o < 0x1500 then
    let x := d.core (16 * k + (o - 0x1100) / 0x40)
    let crit := match x.task.bind x.tk with | some p => d.burReq.tkCritical p.entry | none => false
    match o % 0x40 with
    | 0x00 => some (at_ 0 (b2n x.halt))
    | 0x04 => some (at_ 0 x.state.code ||| at_ 3 (b2n x.bank1) ||| at_ 4 (b2n x.b0.v) ||| at_ 5 (b2n x.b0.s) ||| at_ 6 (b2n x.fe)
        ||| at_ 7 (b2n x.loss) ||| at_ 8 (x.task.getD 0x1F) ||| at_ 16 (b2n crit))
    | 0x08 => some (at_ 0 x.b0.pc.toNat ||| at_ 16 x.b1.pc.toNat)
    | 0x0C => some x.cmode
    | 0x10 => some x.dbgsel
    | 0x14 => some x.dbgRead
    | 0x18 => some 0
    | 0x1C => some 0
    | 0x20 => some (at_ 0 x.queue.length ||| at_ 8 x.peak)
    | 0x24 => some x.fault
    | 0x28 => some (BitVec.ofNat 32 x.cycLast)
    | _ => none
  else if 0x8000 ≤ o then
    let n := (o - 0x8000) / 0x800
    some ((Tab.get 0 d.bur.parSh ((16 * k + n) * 512 + (o - 0x8000) % 0x800 / 4)).setWidth 32)
  else none

end Sys2Proof.Machine
end

