-- ==== Sys2Proof/Machine/Commit.lean ====
section
/-! DEFINITION. Commit tickets (R32 to R35, R313 to R315, R529 to R531). -/

namespace Sys2Proof.Machine

/-- The pages with shadowed configuration (R529). -/
def hasShadow (p : Nat) : Bool :=
  p == pgING || (pgLNB ≤ p && p < pgING) || p == pgBMF || p == pgTRG || (pgBUR ≤ p && p < pgBUR + 4) || p == pgMSP

/-- An LNB page. -/
def isLnb (p : Nat) : Bool := pgLNB ≤ p && p < pgING
/-- A BUR page. -/
def isBur (p : Nat) : Bool := pgBUR ≤ p && p < pgBUR + 4

/-- The pages whose tickets a pair mirrors (R467). -/
def mirrors (p : Nat) : Bool := hasShadow p && p != pgMSP

/-- WHEN is allowed for the page (R33, R447). -/
def Dev.whenOk (d : Dev) (p w : Nat) : Bool :=
  if p = pgING ∨ isLnb p then w == 0 || w == 3
  else if p = pgBMF then true
  else if p = pgTRG then w != 1 || d.trgOnlyThr
  else w != 1

/-- A run is open (R32). -/
def Dev.isOpen (d : Dev) : Bool := runOpen d.sys.state d.mctl.frz.prev

/-! ### Roles at a boundary -/

/-- The `LROLE` word of a lane that will be in force at boundary `t` (R315): as changed by the LNB tickets and the
takeover that apply by then. -/
def Dev.roleWordAt (d : Dev) (l : Nat) (t : Sfn) : Word :=
  let tk := match d.takeoverAt with | some b => if atOrAfter t b then some b else none | none => none
  let base := match tk with
    | some _ => ((d.plt.stagedP.getD {}).req).laneWord l
    | none => d.actReg (lroleAddr l)
  match (d.page (pgLNB + l / 16)).armed with
  | none => base
  | some k =>
    let due := atOrAfter t k.target
    let kept := match tk with | some b => after k.target b | none => true
    if due && kept then d.reg (lroleAddr l) else base

/-- The plate in force at a boundary (R77). -/
def Dev.plateInForce (d : Dev) (t : Sfn) : Option Plate :=
  match d.takeoverAt with
  | some b => if atOrAfter t b then d.plt.stagedP else d.plt.active
  | none => d.plt.active

/-- The lane is drained for a change at `t` (R313): it moves to OFF, or it has been OFF for K_s. -/
def Dev.drained (d : Dev) (l : Nat) (w : Word) (t : Sfn) : Bool :=
  if fld 2 0 w = 0 then true
  else if d.role l ≠ 0 then false
  else match Tab.get none d.lnb.offAt l with
    | none => true
    | some s => atOrAfter t (s + BitVec.ofNat 48 d.req.ks)

/-- An ING ticket of the shadow now written, judged for boundary `t` (R51, R77); `role` gives the lanes' words. -/
def Dev.ingErrsAt (d : Dev) (t : Sfn) (word : Nat → Word) : List Code :=
  d.ingTicketErrs (fun l => fld 2 0 (word l)) (fun l => fld 5 4 (word l)) (d.plateInForce t)

/-- What refuses an LNB ticket for boundary `t` (R313). -/
def Dev.lnbTicketErrs (d : Dev) (g : Nat) (t : Sfn) : List Code :=
  let ls := ((List.range 16).map (16 * g + ·)).filter fun l => d.reg (lroleAddr l) ≠ d.roleWordAt l t
  let run := noStepState d.sys.state
  let acts := fun l => ((d.plt.active.getD {}).req.lanes[l]?).getD (0, 0)
  let breaks := match (d.page pgING).armed with
    | none => false
    | some k =>
      atOrAfter k.target t &&
        (d.ingErrsAt k.target fun l => if l / 16 = g then d.reg (lroleAddr l) else d.roleWordAt l k.target).contains 0x10
  when' (run && ls.any fun l => !d.drained l (d.reg (lroleAddr l)) t) eSTATE
    ++ when' (run && ls.any fun l => (acts l).1 == 2 || (acts l).1 == 4) 0x11
    ++ when' breaks eCOMBO

/-- The checks that a block applies at arming (R529), for boundary `t`. -/
def Dev.blockErrs (d : Dev) (p : Nat) (t : Sfn) : List Code :=
  if p = pgING then d.ingErrsAt t fun l => d.roleWordAt l t
  else if isLnb p then d.lnbTicketErrs (p - pgLNB) t
  else if p = pgMSP then d.mspTicketErrs
  else []

/-- The boundary a ticket of WHEN `w` targets now; NOW targets SFN_NOW. -/
def Dev.ticketTarget (d : Dev) (w : Nat) : Sfn := if w = 0 then d.time.sfn else d.boundary w

/-- Everything that refuses a ticket, but for who sends it (R32, R33, R529). -/
def Dev.ticketErrs (d : Dev) (p : Nat) (num : BitVec 16) (w : Nat) (t : Sfn) : List Code :=
  let g := d.page p
  when' (4 ≤ w) eRSVD
    ++ when' (!d.whenOk p w) eCOMBO
    ++ when' (if w = 0 then d.isOpen else !d.run.live) eSTATE
    ++ when' (g.armed.isSome || g.locked) eLOCK
    ++ when' (num != g.lastTicket + 1) eSEQ
    ++ d.blockErrs p t

/-! ### Swapping (R28, R29, R530) -/

/-- Buckets that a change of rate, depth or role fills (R60): `old` and `new` by lane. -/
def Dev.refillChanged (d : Dev) (same : Nat → Bool) : Dev :=
  (List.range 256).foldl (fun d l => if same l then d else d.fillBucket l) d

/-- ING's tables swap for frames from `b`; `now`: no old window remains. -/
def Dev.ingSwap (d : Dev) (new : IngBank) (b : Sfn) (now : Bool) : Dev :=
  let was := d.ing.act
  let d := { d with ing.act := new, ing.old := if now then none else some (b, was) }
  d.refillChanged fun l => Tab.get 0 was.rate l == Tab.get 0 new.rate l && Tab.get 0 was.depth l == Tab.get 0 new.depth l

/-- Lanes take new words from `b`. -/
def Dev.lanesSwap (d : Dev) (ls : List Nat) (word : Nat → Word) (b : Sfn) (now : Bool) : Dev :=
  let was := ls.map fun l => d.role l
  let d := ls.foldl (fun d l => d.setRole l (word l) b now) d
  (ls.zip was).foldl (fun d e => if hasBucket (d.role e.1) && d.role e.1 != e.2 then d.fillBucket e.1 else d) d

/-- The page's shadow becomes active at boundary `b`. -/
def Dev.swap (d : Dev) (p : Nat) (b : Sfn) (now : Bool) : Dev :=
  if p = pgING then d.ingSwap d.ing.shadow b now
  else if isLnb p then
    let g := p - pgLNB
    d.lanesSwap ((List.range 16).map (16 * g + ·)) (fun l => d.reg (lroleAddr l)) b now
  else if p = pgBMF then
    let d := (d.setAct (bar pgBMF 0x8000) (d.reg (bar pgBMF 0x8000))).bmfCommit b now
    d.setAct (bar pgBMF 0x8004) (d.reg (bar pgBMF 0x8004))
  else if p = pgTRG then d.trgCommit b
  else if isBur p then d.burCommit (p - pgBUR) b
  else if p = pgMSP then d.mspCommit
  else d

/-- When the last unit of a page has switched by itself (R29, R34): ING and LNB at B + W, TRG and BUR at the boundary;
a ream commit by its statistics latch. BMF: when its ramp's last block has closed, or would have (R222, R489). -/
def Dev.switched (d : Dev) (p : Nat) : Bool :=
  if p = pgING then
    match d.ing.old with
    | some (b, _) => atOrAfter d.time.sfn (b + BitVec.ofNat 48 d.w)
    | none => true
  else if isLnb p then
    (List.range 16).all fun m =>
      match Tab.get none d.lnb.oldRole (16 * (p - pgLNB) + m) with
      | some (b, _) => atOrAfter d.time.sfn (b + BitVec.ofNat 48 d.w)
      | none => true
  else if p = pgBMF then !d.bmf.ramping || atOrAfter d.time.sfn d.rampDue
  else if p = pgMSP then (List.range 4).all fun n => (d.mport n).next.isNone
  else true

/-- A commit list entry (R34, R157). -/
def Dev.listCommit (d : Dev) (p : Nat) (cancelled : Bool) (k : Ticket) : Dev :=
  { d with acc.lists.commits := d.acc.lists.commits
             ++ [{ page := p, cancelled := cancelled, num := k.num, when := k.when, target := k.target }] }

/-- The shadow bank of ING or of an LNB page takes a copy of what is in force after a takeover (R35, R315). -/
def Dev.copyShadow (d : Dev) (p : Nat) : Dev :=
  let d := { d with run.copyDue := d.run.copyDue.erase p }
  if p = pgING then { d with ing.shadow := { d.ing.act with peer := d.ing.shadow.peer } }
  else if isLnb p then (List.range 16).foldl (fun d m =>
    let a := lroleAddr (16 * (p - pgLNB) + m)
    d.setReg a (d.actReg a)) d
  else d

/-- SHADOW_UNLOCK: the page's last unit has switched (R34, R530). -/
def Dev.unlock (d : Dev) (p : Nat) : Dev :=
  let g := d.page p
  if (g.locked || d.run.copyDue.contains p) && g.armed.isNone && d.switched p then
    let d := if d.run.copyDue.contains p then d.copyShadow p else d
    let d := if p = pgING then { d with ing.old := none } else d
    let d := if isLnb p then
        (List.range 16).foldl (fun d m => { d with lnb.oldRole := Tab.set none d.lnb.oldRole (16 * (p - pgLNB) + m) none }) d
      else d
    let d := d.modPage p fun g => { g with locked := false }
    if p = pgBMF then d.rampEnd else d
  else d

/-- A ticket is cancelled at its boundary: contents intact, shadow unlocked (R35, R77, R530). -/
def Dev.cancelTicket (d : Dev) (p : Nat) (c : Code) : Dev :=
  match (d.page p).armed with
  | none => d
  | some k =>
    let d := (d.modPage p fun g => { g with armed := none, locked := false, lastTicket := k.num }).perr p c 0x28
    d.listCommit p true k

/-- A ticket takes effect (R530). -/
def Dev.applyTicket (d : Dev) (p : Nat) (k : Ticket) : Dev :=
  let now := k.when == 0
  let d := d.modPage p fun g => { g with armed := none, lastTicket := k.num }
  ((d.swap p k.target now).listCommit p false k).unlock p

/-- COMMIT_APPLY: the boundary of the page's armed ticket is reached. A ticket for a takeover's boundary is cancelled
(R35). -/
def Dev.commitApply (d : Dev) (p : Nat) : Dev :=
  match (d.page p).armed with
  | none => d
  | some k =>
    if !atOrAfter d.time.sfn k.target then d
    else if d.takeoverAt == some k.target then d.cancelTicket p ePLATE
    else d.applyTicket p k

/-- A ticket is armed: it is listed as armed and the bank is locked; NOW applies at once (R529). -/
def Dev.armTicket (d : Dev) (p : Nat) (k : Ticket) : Dev :=
  let d := d.modPage p fun g => { g with armed := some k, locked := true }
  if k.when = 0 then d.applyTicket p k
  else if isLnb p then
    (List.range 16).foldl (fun d m =>
      let l := 16 * (p - pgLNB) + m
      if fld 2 0 (d.reg (lroleAddr l)) ≠ 0 ∧ d.role l = 0 ∧ d.pwr.level < 6 then d.laneOn l else d) d
  else d

/-! ### Digests of the shadow and active banks (R466, R467) -/

/-- The bytes of a binding table part: entries in rising ID, ID, lane set, tag. -/
def bindBytes (t : Tab BindEnt) : List Byte :=
  (t.filter fun e => e.2.valid).flatMap fun e => leBytes 4 e.1 ++ leBytes 4 e.2.lo.toNat ++ leBytes 2 e.2.tag.toNat

/-- The bytes of ING's bank, without the peer part (R467). -/
def IngBank.digestBytes (b : IngBank) : List Byte :=
  bindBytes b.input ++ (List.range 256).flatMap fun l =>
    leBytes 3 (Tab.get 0 b.rate l).toNat ++ leBytes 2 (Tab.get 0 b.depth l).toNat

/-- The bytes of a table image. -/
def tblBytes (n : Nat) (t : Tab Byte) : List Byte := (List.range n).map fun i => Tab.get 0 t i

/-- The bytes of a page's bank; `sh`: the shadow. -/
def Dev.bankBytes (d : Dev) (sh : Bool) (p : Nat) : List Byte :=
  let w := fun a => if sh then d.reg a else d.actReg a
  if p = pgING then (if sh then d.ing.shadow else d.ing.act).digestBytes
  else if isLnb p then (List.range 16).flatMap fun m => leBytes 4 (w (lroleAddr (16 * (p - pgLNB) + m))).toNat
  else if p = pgBMF then
    tblBytes d.req.bmTblSize (if sh then d.bmf.sh else d.bmf.tbl) ++ leBytes 4 (w (bar pgBMF 0x8000)).toNat
      ++ leBytes 4 (w (bar pgBMF 0x8004)).toNat
  else if p = pgTRG then
    tblBytes d.req.tTblSize (if sh then d.trg.sh else ((d.trg.tbls.head?).map (·.2)).getD [])
  else if isBur p then
    (List.range 8192).flatMap fun i =>
      leBytes 2 (Tab.get 0 (if sh then d.bur.parSh else d.bur.par) ((p - pgBUR) * 8192 + i)).toNat
  else []

/-- The digest of a page's shadow bank, CRC-64 by R42 (R467). -/
def Dev.shadowDigest (d : Dev) (p : Nat) : BitVec 64 := crc64 (d.bankBytes true p)

/-- The five pages' active configurations of a DIGEST message, by CFGDIFF bit (R466): ING, LNB, BMF, TRG, BUR. -/
def cfgPages : Nat → List Nat
  | 0 => [pgING]
  | 1 => (List.range 16).map (pgLNB + ·)
  | 2 => [pgBMF]
  | 3 => [pgTRG]
  | _ => (List.range 4).map (pgBUR + ·)

/-- LAST_TICKET of a group of pages: of its only page, or the sum over its pages. -/
def Dev.cfgTicket (d : Dev) (i : Nat) : BitVec 16 := (cfgPages i).foldl (fun n p => n + (d.page p).lastTicket) 0

/-- CRC-64 of a group's active configuration. -/
def Dev.cfgCrc (d : Dev) (i : Nat) : BitVec 64 := crc64 ((cfgPages i).flatMap (d.bankBytes false))

end Sys2Proof.Machine
end

