-- ==== Sys2Proof/Machine/Roles.lean ====
section
/-! DEFINITION. What a plate gives the pages it configures: lane roles at ARM and DISARM (R315), the initial binding
bank (R74, R172, R173), and the takeover of an armed plate (R35, R197, R198). -/

namespace Sys2Proof.Machine

/-! ### The plate's configuration -/

/-- A lane set as `BINDLO` holds it: 0xFF where there is no lane. -/
def laneSetWord (l : List Nat) : Word :=
  BitVec.ofNat 32 (leNat ((padTo 0 (l.map (BitVec.ofNat 8 ·)) ++ List.replicate 4 (0xFF : Byte)).take 4))

/-- The input part, RATE and DEPTH that a plate gives ING (R74, R172, R173). -/
def Req.ingBank (r : Req) : IngBank :=
  let u := r.laneUnits
  { input := (r.inputs.zipIdx).foldl (fun t e =>
      Tab.set {} t e.1.id { lo := laneSetWord (r.boundLanes e.2), valid := true, tag := e.1.tag }) []
    rate := (List.range 256).foldl (fun t l => Tab.set 0 t l (BitVec.ofNat 24 (r.rateOf (Tab.get 0 u l)))) []
    depth := (List.range 256).foldl (fun t l => Tab.set 0 t l (256 : BitVec 16)) [] }

/-- EGSESSION of a plate (R224). -/
def Req.egSession (r : Req) : Word := BitVec.ofNat 32 (leAt r.beams 0 2)

/-! ### Lane roles at ARM and DISARM (R315) -/

/-- The `LROLE` words become those of a request at once, or OFF for every lane; the shadow holds a copy. -/
def Dev.rolesNow (d : Dev) (r : Option Req) : Dev :=
  let w := fun l => match r with | some q => q.laneWord l | none => (0 : Word)
  let d := d.lanesSwap (List.range 256) w d.time.sfn true
  (List.range 256).foldl (fun d l => d.setReg (lroleAddr l) (w l)) d

/-- The `LROLE` word in force at a takeover boundary `t`, as changed by the tickets that apply before it (R315). -/
def Dev.roleWordBefore (d : Dev) (l : Nat) (t : Sfn) : Word × Option Sfn :=
  match (d.page (pgLNB + l / 16)).armed with
  | some k => if after t k.target then (d.reg (lroleAddr l), some k.target) else (d.actReg (lroleAddr l), none)
  | none => (d.actReg (lroleAddr l), none)

/-- The takeover of request `r` at `t` would change a lane that is not drained (R313, R315). -/
def Dev.rolesUndrained (d : Dev) (r : Req) (t : Sfn) : Bool :=
  (List.range 256).any fun l =>
    let (w, k) := d.roleWordBefore l t
    let new := r.laneWord l
    if new = w ∨ fld 2 0 new = 0 then false
    else if fld 2 0 w ≠ 0 then true
    else
      match (match k with | some s => some s | none => Tab.get none d.lnb.offAt l) with
      | some s => !atOrAfter t (s + BitVec.ofNat 48 d.req.ks)
      | none => false

/-- What refuses ARM beside the plate unit's checks: in RUNNING, lanes that are not drained (R315). -/
def Dev.armRoleErrs (d : Dev) : List Code :=
  match d.plt.stagedP with
  | some q => when' (d.sys.state == .running && d.rolesUndrained q.req d.reamBoundary) eSTATE
  | none => []

/-- ARM accepted, with what it does to the lanes and to ING (R196, R314, R315). -/
def Dev.armAll (d : Dev) : Dev :=
  let run := d.sys.state == .running
  let d := d.arm
  match d.plt.stagedP with
  | none => d
  | some q =>
    if run then
      let d := { d with ing.soon := some q.req.ingBank, plt.rolesIn := false }
      (List.range 256).foldl (fun d l =>
        if fld 2 0 (q.req.laneWord l) ≠ 0 ∧ d.role l = 0 ∧ d.pwr.level < 6 then d.laneOn l else d) d
    else ({ d with plt.rolesIn := true }).rolesNow (some q.req)

/-- A write of `SLOTCTL`: DISARM gives back the active plate's roles, or OFF (R198, R315). -/
def Dev.slotCtlWrite (d : Dev) (v : Word) : Dev :=
  let was := d.plt.staged
  let d := d.disarm v
  if was = .armed ∧ d.plt.staged = .proofed then d.rolesNow (d.plt.active.map (·.req)) else d

/-! ### Takeover (R35, R197) -/

/-- Pages whose armed ticket is for boundary `b`. -/
def Dev.ticketsAt (d : Dev) (b : Sfn) : List Nat :=
  pageList.filter fun p => match (d.page p).armed with | some k => k.target == b | none => false

/-- ING's armed ticket names an input outside a request's set (R77). -/
def Dev.ingTicketOutside (d : Dev) (r : Req) : Bool :=
  (d.page pgING).armed.isSome && d.ing.shadow.input.any fun e => e.2.valid && (r.index e.1).isNone

/-- The pages that take configuration from a plate (R35). -/
def plateFed : List Nat := pgING :: pgBMF :: pgTRG :: (List.range 16).map (pgLNB + ·)

/-- The slots exchange roles and the staged plate becomes active (R197). -/
def Dev.exchange (d : Dev) (after_ : SlotState) : Dev :=
  let d := { d with plt.active := d.plt.stagedP, plt.actSlot := !d.plt.actSlot, plt.staged := after_, plt.stagedP := none
                    plt.armPend := false, plt.budValid := false, ing.soon := none }
  (d.bump pgPLT 0x118).raise pgPLT 0x2

/-- The beam former and the trigger unit adopt a plate's tables from `b` (R222, R253); `kb`, `kt`: their shadows keep
their contents. -/
def Dev.tablesTakeover (d : Dev) (old new : Req) (b : Sfn) (kb kt : Bool) : Dev :=
  let d := if new.beamMode then
      let d := (d.bmfTakeover new (new.egSession.setWidth 16) b kb).setAct (bar pgBMF 0x8004) new.egSession
      if kb then d else d.setReg (bar pgBMF 0x8004) new.egSession
    else d
  if new.trigMode then d.trgTakeover old new b kt else d

/-- PLATE_TAKEOVER: the boundary of an armed plate is reached in a run (R35, R197). -/
def Dev.plateTakeover (d : Dev) : Dev :=
  match d.takeoverAt, d.plt.stagedP, d.plt.active with
  | some b, some q, some old =>
    if !d.run.live || !atOrAfter d.time.sfn b then d
    else
      let cut := d.ticketsAt b
      let d := cut.foldl (fun d p => d.cancelTicket p ePLATE) d
      let out := d.ingTicketOutside q.req
      let d := if out then d.cancelTicket pgING 0x11 else d
      let keep := fun p => cut.contains p || (p == pgING && out) || (d.page p).armed.isSome
      let d := { d with run.outgoing := some old, run.tookAt := some b
                        run.copyDue := plateFed.filter fun p => !keep p && p != pgBMF && p != pgTRG }
      let d := d.exchange .retiring
      let d := d.ingSwap { q.req.ingBank with peer := d.ing.act.peer } b false
      let d := d.lanesSwap (List.range 256) q.req.laneWord b false
      d.tablesTakeover old.req q.req b (keep pgBMF) (keep pgTRG)
  | _, _, _ => d

/-- The armed plate takes over at START (R26, R35, R197); lane roles were applied at ARM, unless it was armed in RUNNING
(R315). -/
def Dev.startTakeover (d : Dev) (s0 : Sfn) : Dev :=
  match d.plt.stagedP with
  | none => d
  | some q =>
    let old := d.plt.active
    let held := fun p => (d.page p).armed.isSome
    let d := d.exchange (if old.isSome then .loaded else .empty)
    let bank := { q.req.ingBank with peer := d.ing.act.peer }
    let d := d.ingSwap bank s0 true
    let d := if held pgING then d else { d with ing.shadow := { bank with peer := d.ing.shadow.peer } }
    let d := if d.plt.rolesIn then d else d.rolesNow (some q.req)
    d.tablesTakeover (old.getD q).req q.req s0 (held pgBMF) (held pgTRG)

/-- The outgoing plate is done at the statistics latch L: its slot is LOADED, and HAT and the cores adopt the incoming
plate (R125, R197, R285). -/
def Dev.retireOutgoing (d : Dev) : Dev :=
  if d.run.outgoing.isNone then d
  else
    let st := if d.plt.staged = .retiring then SlotState.loaded else d.plt.staged
    ({ d with run.outgoing := none, plt.staged := st }).hatTakeover.burTakeover

end Sys2Proof.Machine
end

