-- ==== Sys2Proof/Machine/Pair.lean ====
section
/-! DEFINITION. Pair operation and fail-over (R455 to R478). -/

namespace Sys2Proof.Machine

def eNOPEER : Code := 0x10
def eJOIN : Code := 0x11

/-! ### State and eligibility (R455, R459) -/

/-- `ROLE` and its bits. -/
def Dev.pairRole (d : Dev) : Word := d.reg (bar pgPAIR 0x1000)
def Dev.paired (d : Dev) : Bool := bitAt 0 d.pairRole
def Dev.pairAuto (d : Dev) : Bool := bitAt 2 d.pairRole

/-- The encoding of OWNSTAT.STATE. -/
def PairState.code : PairState → Nat
  | .solo => 0 | .offline => 1 | .matching => 2 | .ready => 3 | .owner => 4

/-- A non-owner of a running pair. -/
def PairState.standby (s : PairState) : Bool := s == .matching || s == .ready

/-- None of PLATEDIFF, TIMEDIFF and CFGDIFF is set (R459, R473). -/
def Dev.sameAsPeer (d : Dev) : Bool := !d.pair.platediff && !d.pair.timediff && d.pair.cfgdiff == 0

/-- Every condition of eligibility but the link (R459, R470). -/
def Dev.eligibleNoLink (d : Dev) : Bool :=
  d.pair.state == .ready && d.sys.state == .running && decide (d.pwr.level ≤ 3) && !d.aon.estop.active && d.sameAsPeer

/-- The module is eligible for ownership (R459). -/
def Dev.eligible (d : Dev) : Bool := d.eligibleNoLink && d.pair.linkUp

/-- Nanoseconds of LOCAL since an instant. -/
def Dev.since (d : Dev) (t : BitVec 64) : Nat := (d.time.loc - t).toNat

/-- An instant lies at most `ns` back. -/
def Dev.within (d : Dev) (t : Option (BitVec 64)) (ns : Nat) : Bool :=
  match t with | some t => decide (d.since t ≤ ns) | none => false

/-- A STANDBY_READY module returns to MATCHING with a streak of zero (R468). -/
def Dev.rematch (d : Dev) : Dev :=
  if d.pair.state = .ready then { d with pair.state := .matching, pair.streak := 0 } else d

/-- A MATCHING module with three matched reams and no difference becomes STANDBY_READY (R455, R472, R473). -/
def Dev.promote (d : Dev) : Dev :=
  if d.pair.state == .matching && decide (3 ≤ d.pair.streak) && d.sameAsPeer then
    ({ d with pair.state := .ready } : Dev).raise pgPAIR 0x10
  else d

/-! ### Messages (R463 to R466) -/

/-- The lanes of the pair link that are UP. -/
def Dev.pairLanes (d : Dev) : List Nat := (d.lanesOf 4).filter d.laneUp

/-- First SFN of the last completed time block (R463). -/
def Dev.lastBlock (d : Dev) : Sfn :=
  let lf := d.req.lf
  let k := (d.time.sfn - d.run.s0).toNat / lf
  d.run.s0 + BitVec.ofNat 48 ((k - 1) * lf)

/-- The bytes of a CTRL message with sequence number `q` on a lane (R45 to R47, R463). -/
def Dev.ctrlFrame (d : Dev) (lane : Nat) (q : BitVec 16) (body : List Byte) : List Byte :=
  let id := d.reg (bar pgPAIR 0x1008)
  let key := fld 3 3 d.pairRole
  let h : FrameHdr := { type := 4, fmt := key, src := fld 12 0 id, session := fld 31 16 id, sfn := d.lastBlock.toNat % 2 ^ 32
                        seq := q.toNat, link := d.linkTx lane, epoch := d.epoch }
  let b := h.bytes ++ padTo 80 body
  withTrailer (b ++ mac8 ((d.ing.key key).getD []) b)

/-- A CTRL message leaves on every PAIR lane that is UP. -/
def Dev.ctrlOut (d : Dev) (q : BitVec 16) (body : List Byte) : Dev :=
  d.pairLanes.foldl (fun d l => d.sendFrame l (d.ctrlFrame l q body)) d

/-- Bytes 0 to 7 of a body (R466). -/
def Dev.ctrlHead (d : Dev) (kind ref : Nat) : List Byte :=
  let p := d.pair
  let ps := p.state.code + 8 * b2n p.ownOut + 16 * b2n p.ownIn + 32 * b2n d.eligible + 64 * b2n p.lease + 128 * b2n p.ilfault
  let ss := d.sys.state.code + 16 * d.pwr.level + 128 * b2n (bitAt 1 d.pairRole)
  leBytes 1 kind ++ leBytes 1 ps ++ leBytes 1 ss ++ [0] ++ leBytes 4 ref

/-- A message is sent and takes the next SEQ. -/
def Dev.ctrlSend (d : Dev) (kind ref : Nat) (rest : List Byte) : Dev :=
  let q := d.pair.txSeq
  let d := { d with pair.txSeq := q + 1 }
  d.ctrlOut q (d.ctrlHead kind ref ++ rest)

/-- A message that waits for its ACK is sent (R464). -/
def Dev.ctrlSendAck (d : Dev) (kind : Nat) (rest : List Byte) : Dev :=
  let q := d.pair.txSeq
  let body := d.ctrlHead kind 0 ++ rest
  let d := { d with pair.txSeq := q + 1, pair.unacked := d.pair.unacked ++ [({ seq := q, kind := kind, body := body, at_ := d.time.loc } : Unacked)] }
  d.ctrlOut q body

/-- First SFN of the current ream's first sheet (R474). -/
def Dev.anchor (d : Dev) : Sfn :=
  if d.run.live && atOrAfter d.time.sfn d.reamEnd then d.reamEnd else d.run.reamAt

/-- The time digest of R467. -/
def Dev.timeDigest (d : Dev) : BitVec 64 :=
  crc64 (leBytes 8 d.time.sfnEpoch.toNat ++ leBytes 8 d.time.fch.toNat ++ leBytes 4 d.time.baseArr.cfg.toNat
    ++ leBytes 4 d.time.baseSmp.cfg.toNat)

/-- Bytes 8 on of a HEARTBEAT (R466). -/
def Dev.hbBody (d : Dev) : List Byte :=
  let hash := match d.plt.active with | some p => p.hash.toNat | none => 0
  let armed := match d.plt.staged, d.plt.stagedP with | .armed, some p => p.low.toNat | _, _ => 0
  beBytes 32 hash ++ leBytes 4 armed ++ leBytes 6 d.plt.armSfn.toNat ++ leBytes 6 d.anchor.toNat
    ++ leBytes 8 d.time.arr.toNat ++ leBytes 8 d.timeDigest.toNat ++ leBytes 6 d.time.sfn.toNat

/-- HEARTBEAT_SEND. -/
def Dev.heartbeatSend (d : Dev) : Dev := if d.paired then d.ctrlSend 1 0 d.hbBody else d

/-- GRANT_SEND: a non-owner in lease mode that has admitted a heartbeat within 1 ms (R470). -/
def Dev.grantSend (d : Dev) : Dev :=
  if d.pair.lease && d.pair.state.standby && d.within d.pair.hbAt 1000000 then
    d.ctrlSend 2 d.pair.hbSeq.toNat []
  else d

/-- DIGEST_SEND. -/
def Dev.digestSend (d : Dev) : Dev :=
  if d.paired then
    d.ctrlSend 9 0 ((List.range 5).flatMap fun i => leBytes 2 (d.cfgTicket i).toNat ++ leBytes 8 (d.cfgCrc i).toNat)
  else d

/-- CTRL_RETRANSMIT: the messages unacknowledged for 50 µs are repeated, or given up after 20 tries (R464, R468). -/
def Dev.ctrlRetransmit (d : Dev) : Dev :=
  d.pair.unacked.foldl (fun d m =>
    if d.since m.at_ < 50000 then d
    else if m.tries < 20 then
      let d := d.ctrlOut m.seq m.body
      ({ d with pair.unacked := d.pair.unacked.map fun x =>
          if x.seq = m.seq then { x with tries := x.tries + 1, at_ := d.time.loc } else x } : Dev).bump pgPAIR 0x108
    else
      ((({ d with pair.unacked := d.pair.unacked.filter (·.seq != m.seq) } : Dev).bump pgPAIR 0x110).rematch)) d

/-! ### Ownership (R457, R460 to R462) -/

/-- The module becomes OWNER with a new EPOCH (R457, R458). -/
def Dev.takeOwn (d : Dev) (counter : Option Nat) (silence : Bool) : Dev :=
  let e := max d.epoch d.pair.peerEpoch.toNat + 1
  let d := d.setReg (bar pgPAIR 0x100C) (BitVec.ofNat 32 e)
  let d := { d with pair.state := .owner, pair.ownOut := true, pair.bySilence := silence, pair.handing := false
                    pair.fellAt := none, pair.handoffTimeout := false, pair.handoffRx := false, pair.leaseEnd := none }
  let d := match counter with | some o => d.bump pgPAIR o | none => d
  (d.egClear.raise pgPAIR 0x1).emit (.land "OWN_OUT" true)

/-- Ownership ends: OWN_OUT falls, the state follows R455, HANDOFF goes out where it can (R460, R461). -/
def Dev.giveUp (d : Dev) (handoff : Bool) : Dev :=
  if d.pair.state ≠ .owner then d
  else
    let d := if handoff then d.ctrlSend 3 0 (leBytes 4 d.epoch) else d
    let s := if noStepState d.sys.state then PairState.ready else .offline
    let d := { d with pair.state := s, pair.ownOut := false, pair.handing := false, pair.bySilence := false, pair.leaseEnd := none }
    ((d.bump pgPAIR 0x130).raise pgPAIR 0x1).emit (.land "OWN_OUT" false)

/-- The module's state against SYS.STATE (R455). -/
def Dev.pairSync (d : Dev) : Dev :=
  if !d.paired then d
  else if noStepState d.sys.state then
    if d.pair.state = .offline then
      { d with pair.state := if decide (3 ≤ d.pair.streak) && d.sameAsPeer then .ready else .matching }
    else d
  else
    let d := d.giveUp (!d.aon.estop.active)
    { d with pair.state := .offline }

/-- Yields that shedding calls for (R461): at S5 and S6 always, at S4 only to an eligible partner. -/
def Dev.pairShed (d : Dev) : Dev :=
  if 5 ≤ d.pwr.level ∨ (d.pwr.level = 4 ∧ d.pair.peerP.getLsbD 5) then d.giveUp true else d

/-- What refuses HANDOVER (R460). -/
def Dev.handoverErrs (d : Dev) : List Code :=
  when' (d.pair.state != .owner) eSTATE
    ++ when' (!(d.within d.pair.hbAt 250000 && d.pair.peerP.getLsbD 5)) eNOPEER

/-- HANDOVER is accepted: nothing new starts. -/
def Dev.handover (d : Dev) : Dev := { d with pair.handing := true }

/-- HANDOFF_SEND: the last frame in progress has ended (R460). -/
def Dev.handoffSend (d : Dev) : Dev := if d.pair.handing then d.giveUp true else d

/-- A standby that may take ownership after a HANDOFF does so once OWN_IN has fallen (R460). -/
def Dev.takeAfterHandoff (d : Dev) : Dev :=
  if d.pair.handoffRx && d.eligible && (d.pair.lease || !d.pair.ownIn) then d.takeOwn (some 0x130) false else d

/-- A lost owner's standby takes ownership (R462). -/
def Dev.takeLost (d : Dev) : Dev :=
  if d.eligible && d.pairAuto && !d.pair.lease && !d.pair.ownIn then d.takeOwn (some 0x138) false else d

/-- OWN_IN_CHANGE: the filtered level of OWN_IN (R458, R460). -/
def Dev.ownInChange (d : Dev) (level : Bool) : Dev :=
  if d.pair.ownIn = level then d
  else
    let d := { d with pair.ownIn := level }
    if level then { d with pair.fellAt := none, pair.handoffTimeout := false, pair.handoffRx := false }
    else if d.pair.state.standby then
      ({ d with pair.fellAt := some d.time.loc, pair.handoffTimeout := false } : Dev).takeAfterHandoff
    else d

/-- HANDOFF_TIMEOUT: no HANDOFF within 4 µs of the fall of OWN_IN (R460). -/
def Dev.handoffLate (d : Dev) : Dev :=
  match d.pair.fellAt with
  | some t => if 4000 ≤ d.since t && !d.pair.handoffRx then { d with pair.handoffTimeout := true } else d
  | none => d

/-- OWNER_SILENCE_TIMEOUT: OWN_IN has fallen and 300 µs have passed without a CTRL frame (R462). -/
def Dev.ownerSilence (d : Dev) : Dev :=
  match d.pair.fellAt with
  | some t => if 300000 ≤ d.since t && !d.within d.pair.ctrlAt 299999 && !d.pair.handoffRx then d.takeLost else d
  | none => d

/-! ### The lease fallback (R469 to R471) -/

/-- The module enters lease mode; an owner holds a lease for 1 ms. -/
def Dev.enterLease (d : Dev) : Dev :=
  if d.pair.lease then d
  else { d with pair.lease := true
                pair.leaseEnd := if d.pair.state = .owner then some (d.time.loc + 1000000) else none }

/-- An interlock disagreement (R469); it restarts a recheck's second (R471). -/
def Dev.ilFault (d : Dev) : Dev :=
  let d := if d.pair.ilfault then d else ({ d with pair.ilfault := true } : Dev).raise pgPAIR 0x4
  let d := d.enterLease
  { d with pair.recheck := d.pair.recheck.map fun _ => d.time.loc }

/-- INTERLOCK_FAULT: the sensed OWN_OUT has differed from the driven value for more than 1 µs. -/
def Dev.interlockFault (d : Dev) : Dev := if d.paired then d.ilFault else d

/-- ILRESET: a write to PAIRCTL (R471). -/
def Dev.ilReset (d : Dev) (v : Word) : Dev :=
  d.guard pgPAIR 0x1010 (when' (v &&& ~~~1 ≠ 0) eRSVD) fun d =>
    if bitAt 0 v && d.pair.lease then { d with pair.recheck := some d.time.loc } else d

/-- LEASE_MODE_EXIT: a second of clean recheck (R471). -/
def Dev.leaseExit (d : Dev) : Dev :=
  match d.pair.recheck with
  | some t =>
    if d.pair.lease && decide (1000000000 ≤ d.since t) then
      { d with pair.lease := false, pair.ilfault := false, pair.recheck := none, pair.leaseEnd := none, pair.ilRun := 0 }
    else d
  | none => d

/-- LEASE_EXPIRE: the owner's lease ends and it yields (R470). -/
def Dev.leaseExpire (d : Dev) : Dev :=
  if d.pair.state == .owner && d.pair.lease && !d.leaseHeld then (d.bump pgPAIR 0x140).giveUp true else d

/-- LEASE_SILENCE_TAKEOVER: 1 ms without a heartbeat in lease mode (R470). -/
def Dev.leaseSilence (d : Dev) : Dev :=
  if d.pair.lease && d.pairAuto && d.eligibleNoLink && !d.within d.pair.hbAt 999999 then d.takeOwn (some 0x138) true else d

/-- PAIR_LINK_DOWN: 1 ms without an admitted CTRL frame; the silence rule is decided first (R465, R468). -/
def Dev.linkDown (d : Dev) : Dev :=
  if d.pair.linkUp && !d.within d.pair.ctrlAt 999999 then
    let d := d.leaseSilence
    (({ d with pair.linkUp := false } : Dev).raise pgPAIR 0x8).rematch
  else d

/-! ### Receiving (R464, R465, R467) -/

/-- A field of a CTRL body. -/
def ctrlAt (fr : List Byte) (o n : Nat) : Nat := leAt fr (32 + o) n

/-- The answer to a message (R464). -/
def Dev.ack (d : Dev) (fr : List Byte) (c : Code) : Dev := d.ctrlSend 8 (frSeq fr).toNat (leBytes 1 c.toNat)

/-- A mirrored item is refused: reported, counted, MIRROR raised, the streak lost (R467, R468). -/
def Dev.mirrorRefused (d : Dev) (fr : List Byte) (c : Code) : Dev :=
  (((d.ack fr c).bump pgPAIR 0x148).raise pgPAIR 0x20).rematch

/-- A CTRL frame of kind `k` arrives on a logical lane: the checks of R52, the link, and the first copy's action. -/
def Dev.ctrlRx (d : Dev) (l : Nat) (fr : List Byte) (k : Nat) (act : Dev → Dev) : Dev :=
  if frType fr ≠ 4 ∨ ctrlAt fr 0 1 ≠ k then d
  else
    let (c, _, d) := d.ingest l fr
    if c ≠ 0 ∨ !d.paired then d
    else
      let d := { d with pair.ctrlAt := some d.time.loc, pair.linkUp := true
                        pair.peerEpoch := if d.pair.peerEpoch.toNat < (frEpoch fr).toNat then frEpoch fr else d.pair.peerEpoch }
      let first := match d.pair.rxSeq with | some q => after (frSeq fr) q | none => true
      if first then act { d with pair.rxSeq := some (frSeq fr) } else d

/-- The partner's SAMPLE value, corrected for send time, against this module's (R467). -/
def Dev.sampleGap (d : Dev) (fr : List Byte) : Int :=
  let ns := (d.time.arr - BitVec.ofNat 64 (ctrlAt fr 56 8)).toInt
  let theirs := BitVec.ofNat 48 (ctrlAt fr 72 6) + BitVec.ofInt 48 (ns * d.time.fch.toNat / (10 ^ 9 * 2 ^ 32))
  wdiff d.time.sfn theirs

/-- What a HEARTBEAT tells of plate and time (R467). -/
def Dev.hbCompare (d : Dev) (fr : List Byte) : Dev :=
  let hash := match d.plt.active with | some p => p.hash.toNat | none => 0
  let pd := decide (hash ≠ beNat (slice fr 40 32))
  let far := decide ((d.req.w : Int) < 4 * (d.sampleGap fr).natAbs)
  let run := if far then d.pair.timeRun + 1 else 0
  let td := decide (d.timeDigest.toNat ≠ ctrlAt fr 64 8) || decide (3 ≤ run)
  let was := d.pair.timediff
  let d := { d with pair.platediff := pd, pair.timediff := td, pair.timeRun := run }
  let d := if td && !was then d.raise pgPAIR 0x40 else d
  if pd then d.rematch else d.promote

/-- What a HEARTBEAT tells of the interlock (R469, R471). -/
def Dev.hbInterlock (d : Dev) (ps : Nat) : Dev :=
  let p : BitVec 8 := BitVec.ofNat 8 ps
  let differ := p.getLsbD 3 != d.pair.ownIn
  let run := if differ then d.pair.ilRun + 1 else 0
  let d := { d with pair.ilRun := run, pair.recheck := if p.getLsbD 7 then d.pair.recheck.map fun _ => d.time.loc else d.pair.recheck }
  let d := if 3 ≤ run then d.ilFault else d
  if p.getLsbD 6 then d.enterLease
  else if d.pair.lease && !d.pair.ilfault then { d with pair.lease := false, pair.leaseEnd := none } else d

/-- HEARTBEAT_RX (R461, R462, R467, R469, R470). -/
def Dev.heartbeatRx (d : Dev) (l : Nat) (fr : List Byte) : Dev :=
  d.ctrlRx l fr 1 fun d =>
    let ps := ctrlAt fr 1 1
    let d := { d with pair.hbAt := some d.time.loc, pair.hbSeq := frSeq fr, pair.peerP := BitVec.ofNat 8 ps, pair.peerS := BitVec.ofNat 8 (ctrlAt fr 2 1)
                      pair.peerAnchor := some (BitVec.ofNat 48 (ctrlAt fr 50 6)), pair.bySilence := false }
    let d := ((d.bump pgPAIR 0x100).hbCompare fr).hbInterlock ps
    let peerOwner := ps % 8 == 4
    let e := (frEpoch fr).toNat
    if d.pair.state == .owner && peerOwner && (decide (d.epoch < e) || (d.epoch == e && !bitAt 1 d.pairRole)) then d.giveUp true
    else if !peerOwner && d.pair.handoffTimeout then d.takeLost
    else d.pairShed

/-- GRANT_RX: the owner's lease runs to 1 ms from now (R470). -/
def Dev.grantRx (d : Dev) (l : Nat) (fr : List Byte) : Dev :=
  d.ctrlRx l fr 2 fun d =>
    if d.pair.state == .owner && d.pair.lease then { d with pair.leaseEnd := some (d.time.loc + 1000000) } else d

/-- HANDOFF_RX (R460). -/
def Dev.handoffArrives (d : Dev) (l : Nat) (fr : List Byte) : Dev :=
  d.ctrlRx l fr 3 fun d =>
    if d.pair.state.standby then ({ d with pair.handoffRx := true } : Dev).takeAfterHandoff else d

/-- What refuses a mirrored ticket beside a differing digest (R467). -/
def Dev.mirrorErrs (d : Dev) (p : Nat) (num : BitVec 16) (w : Nat) (t : Sfn) (crc : BitVec 64) : List Code :=
  when' (!mirrors p || w == 0) ePERM
    ++ (if mirrors p then
          when' (!atOrAfter t (d.time.sfn + BitVec.ofNat 48 d.w)) eRANGE ++ when' (d.shadowDigest p != crc) eCOMBO
            ++ d.ticketErrs p num w t
        else [])
    ++ when' (!d.pair.state.standby) eSTATE

/-- A mirrored ticket is armed or refused. -/
def Dev.mirrorTicket (d : Dev) (fr : List Byte) (p : Nat) (num : BitVec 16) (w : Nat) (t : Sfn) (crc : BitVec 64) : Dev :=
  match firstCode (d.mirrorErrs p num w t crc) with
  | some c => d.mirrorRefused fr c
  | none => (d.armTicket p { num := num, when := w, target := t, mirrored := true }).ack fr 0

/-- Every fragment of the threshold part for ticket `num` has come. -/
def Dev.fragsDone (d : Dev) (num : BitVec 16) : Bool :=
  d.pair.fragTkt == num && decide (0 < d.pair.fragCnt) && decide (d.pair.frags.length = d.pair.fragCnt)

/-- TICKET_RX. A threshold ticket of WHEN = 1 waits for its fragments. -/
def Dev.ticketRx (d : Dev) (l : Nat) (fr : List Byte) : Dev :=
  d.ctrlRx l fr 4 fun d =>
    let p := ctrlAt fr 8 1
    let w := ctrlAt fr 9 1
    let num := BitVec.ofNat 16 (ctrlAt fr 10 2)
    let t := BitVec.ofNat 48 (ctrlAt fr 12 6)
    let crc := BitVec.ofNat 64 (ctrlAt fr 24 8)
    if p = pgTRG ∧ w = 1 ∧ !d.fragsDone num then { d with pair.thrWait := some (num, t, crc) }.ack fr 0
    else d.mirrorTicket fr p num w t crc

/-- THRESH_RX: a fragment of the threshold part goes into the shadow; the last one arms its ticket (R467). -/
def Dev.threshRx (d : Dev) (l : Nat) (fr : List Byte) : Dev :=
  d.ctrlRx l fr 6 fun d =>
    let i := ctrlAt fr 8 2
    let num := BitVec.ofNat 16 (ctrlAt fr 12 2)
    if !d.pair.state.standby then d.mirrorRefused fr eSTATE
    else if (d.page pgTRG).locked then d.mirrorRefused fr eLOCK
    else if 16 ≤ i then d.mirrorRefused fr eRANGE
    else
      let b := slice fr 48 64
      let old := if d.pair.fragTkt = num then d.pair.frags else []
      let d := { d with pair.frags := Tab.put old i b, pair.fragCnt := ctrlAt fr 10 2, pair.fragTkt := num
                        trg.sh := tblPut d.trg.sh (d.req.oThr + 64 * i) b }
      match d.pair.thrWait with
      | some (n, t, crc) =>
        if n = num ∧ d.fragsDone num then
          ({ d with pair.thrWait := none, pair.frags := [], pair.fragCnt := 0 } : Dev).mirrorTicket fr pgTRG num 1 t crc
        else d.ack fr 0
      | none => d.ack fr 0

/-- STOP fixes B_last (R27). -/
def Dev.stopAt (d : Dev) (b : Sfn) : Dev := { d with run.bLast := some b }

/-- COMMAND_RX: a mirrored STOP or ARM (R467). STOP carries B_last in CMDARG0 and CMDARG1, ARM its hash in CMDARG0 and
the takeover SFN in CMDARG1 and CMDARG2. -/
def Dev.commandRx (d : Dev) (l : Nat) (fr : List Byte) : Dev :=
  d.ctrlRx l fr 5 fun d =>
    let code := ctrlAt fr 8 1
    let arg := fun i => ctrlAt fr (12 + 4 * i) 4
    if !d.pair.state.standby then d.mirrorRefused fr eSTATE
    else if code = 0x11 then
      let b := BitVec.ofNat 48 (arg 0 + 2 ^ 32 * (arg 1 % 65536))
      if d.sys.state ≠ .running then d.mirrorRefused fr eSTATE
      else if d.run.bLast.isSome then d.mirrorRefused fr eBUSY
      else if !after b d.time.sfn then d.mirrorRefused fr eRANGE
      else (d.stopAt b).ack fr 0
    else if code = 0x32 then
      let b := BitVec.ofNat 48 (arg 1 + 2 ^ 32 * (arg 2 % 65536))
      let (errs, unload) := d.armErrs (BitVec.ofNat 32 (arg 0))
      match (errs ++ d.armRoleErrs ++ when' (d.sys.state == .running && d.boundary 3 != b) eRANGE).head? with
      | some c => ((if unload then { d with plt.staged := .loaded } else d) : Dev).mirrorRefused fr c
      | none => d.armAll.ack fr 0
    else d.mirrorRefused fr eRSVD

/-- ACK_RX (R464). -/
def Dev.ackRx (d : Dev) (l : Nat) (fr : List Byte) : Dev :=
  d.ctrlRx l fr 8 fun d =>
    { d with pair.unacked := d.pair.unacked.filter fun m => m.seq.toNat != ctrlAt fr 4 2 }

/-- DIGEST_RX: CFGDIFF of each group whose tickets are equal and whose CRC differs (R467). -/
def Dev.digestRx (d : Dev) (l : Nat) (fr : List Byte) : Dev :=
  d.ctrlRx l fr 9 fun d =>
    let v := (List.range 5).foldl (fun v i =>
      if (d.cfgTicket i).toNat = ctrlAt fr (8 + 10 * i) 2 ∧ (d.cfgCrc i).toNat ≠ ctrlAt fr (10 + 10 * i) 8 then v + 2 ^ i else v) 0
    let d := { d with pair.cfgdiff := BitVec.ofNat 5 v }
    if v ≠ 0 then d.rematch else d.promote

/-! ### Watermarks (R472) -/

/-- A comparison ends: 0 MATCH, 1 MISMATCH, 2 NOCOMPARE; `ours`: the INVALID or missing record is the module's own. -/
def Dev.wmOutcome (d : Dev) (o : Nat) (ours : Bool) : Dev :=
  let d := { d with pair.wmOutcome := o, pair.wmCount := d.pair.wmCount + 1 }
  if o = 0 then
    (({ d with pair.streak := min 3 (d.pair.streak + 1) } : Dev).bump pgPAIR 0x118).promote
  else if o = 1 then (({ d.rematch with pair.streak := 0 } : Dev).bump pgPAIR 0x120).raise pgPAIR 0x2
  else
    let d := d.bump pgPAIR 0x128
    if !d.pair.state.standby then d
    else
      let d := if ours then d.rematch else d
      { d with pair.streak := 0 }

/-- Records of one FIRSTSFN that both modules now have are compared. -/
def Dev.wmCompare (d : Dev) (first : Sfn) : Dev :=
  match d.pair.own.find? (·.first == first), d.pair.peers.find? (·.first == first) with
  | some a, some b =>
    let d := { d with pair.own := d.pair.own.filter (·.first != first), pair.peers := d.pair.peers.filter (·.first != first) }
    if a.bad || b.bad then d.wmOutcome 2 a.bad else if a.wm = b.wm then d.wmOutcome 0 false else d.wmOutcome 1 false
  | _, _ => d

/-- WATERMARK_RX. -/
def Dev.watermarkRx (d : Dev) (l : Nat) (fr : List Byte) : Dev :=
  d.ctrlRx l fr 7 fun d =>
    let first := BitVec.ofNat 48 (ctrlAt fr 8 6)
    let w : WmRec := { first := first, wm := BitVec.ofNat 64 (ctrlAt fr 16 8), bad := ctrlAt fr 14 1 % 2 == 1, at_ := d.time.loc }
    (({ d with pair.peers := d.pair.peers ++ [w] } : Dev).ack fr 0).wmCompare first

/-- A record of the module has finished: its watermark is sent and compared (R472). -/
def Dev.wmOwn (d : Dev) (first : Sfn) (wm : BitVec 64) (status : Nat) : Dev :=
  if !d.paired || d.pair.state == .offline then d
  else
    let d := d.ctrlSendAck 7 (leBytes 6 first.toNat ++ leBytes 1 status ++ [0] ++ leBytes 8 wm.toNat)
    let w : WmRec := { first := first, wm := wm, bad := status % 2 == 1, at_ := d.time.loc }
    ({ d with pair.own := d.pair.own ++ [w] } : Dev).wmCompare first

/-- WATERMARK_COMPARE_TIMEOUT: a record has waited 1 s for its counterpart (R472). -/
def Dev.wmTimeout (d : Dev) : Dev :=
  let old := fun (w : WmRec) => decide (1000000000 ≤ d.since w.at_)
  match d.pair.own.find? old with
  | some w => ({ d with pair.own := d.pair.own.filter (·.first != w.first) } : Dev).wmOutcome 2 w.bad
  | none =>
    match d.pair.peers.find? old with
    | some w => ({ d with pair.peers := d.pair.peers.filter (·.first != w.first) } : Dev).wmOutcome 2 true
    | none => d

/-! ### The owner's side of mirroring (R467) -/

/-- A ticket that the owner arms goes to the partner; a threshold ticket takes its part along. -/
def Dev.mirrorOut (d : Dev) (p : Nat) (k : Ticket) : Dev :=
  if d.pair.state ≠ .owner ∨ !mirrors p ∨ k.when = 0 then d
  else
    let d := d.ctrlSendAck 4 (leBytes 1 p ++ leBytes 1 k.when ++ leBytes 2 k.num.toNat ++ leBytes 6 k.target.toNat
      ++ List.replicate 6 0 ++ leBytes 8 (d.shadowDigest p).toNat)
    if p = pgTRG ∧ k.when = 1 then
      (List.range 16).foldl (fun d i =>
        d.ctrlSendAck 6 (leBytes 2 i ++ leBytes 2 16 ++ leBytes 2 k.num.toNat ++ [0, 0]
          ++ (List.range 64).map fun j => Tab.get 0 d.trg.sh (d.req.oThr + 64 * i + j))) d
    else d

/-- A STOP or ARM that the owner accepts goes to the partner. -/
def Dev.mirrorCmd (d : Dev) (code : Nat) (args : List Nat) : Dev :=
  if d.pair.state ≠ .owner then d
  else d.ctrlSendAck 5 (leBytes 1 code ++ [0, 0, 0] ++ args.flatMap fun a => leBytes 4 a)

/-- PCOMMIT by the host (R280, R468, R529). -/
def Dev.pcommit (d : Dev) (p : Nat) (v : Word) : Dev :=
  let w := fld 3 0 v
  let num : BitVec 16 := BitVec.ofNat 16 (fld 31 16 v)
  let t := d.ticketTarget w
  let perm := !hasShadow p || (p == pgBMF && d.grantHeld 0) || (p == pgTRG && d.grantHeld 1)
  d.guard p 0x28
    (when' perm ePERM ++ when' (fld 15 4 v ≠ 0) eRSVD
      ++ (if hasShadow p then when' (mirrors p && d.pair.state.standby) eSTATE ++ d.ticketErrs p num w t else [])) fun d =>
    let k : Ticket := { num := num, when := w, target := t }
    (d.mirrorOut p k).armTicket p k

/-! ### Registers (R474, R475) -/

/-- What refuses a write to the PAIR page. -/
def Dev.pairErrs (d : Dev) (o : Nat) (v : Word) : List Code :=
  let idle := d.pair.state == .solo || d.pair.state == .offline
  let rest := d.sys.state == .ready || d.sys.state == .idle
  match o with
  | 0x1000 => when' (fld 31 4 v ≠ 0) eRSVD
      ++ when' ((bitAt 0 v != d.paired && !rest) || (bitAt 1 v != bitAt 1 d.pairRole && !idle)) eSTATE
  | 0x1008 => when' (fld 15 13 v ≠ 0) eRSVD ++ when' (!idle) eSTATE
  | _ => when' (!idle) eSTATE

/-- A write of ROLE, CTRLID or EPOCH. -/
def Dev.pairRegWrite (d : Dev) (o : Nat) (v : Word) : Dev :=
  d.guard pgPAIR o (d.pairErrs o v) fun d =>
    let was := d.paired
    let d := d.setReg (bar pgPAIR o) v
    if o = 0x1000 ∧ was ≠ d.paired then
      { d with pair.state := if d.paired then .offline else .solo, pair.streak := 0, pair.handing := false, pair.lease := false
               pair.ilfault := false, pair.recheck := none, pair.leaseEnd := none, pair.fellAt := none, pair.unacked := [] }
    else d

/-- The PAIR page's live registers that are not stored words. -/
def Dev.readPair (d : Dev) (o : Nat) : Option Word :=
  let p := d.pair
  let age := match p.hbAt with | some t => min 65535 (d.since t / 1000) | none => 65535
  let lease := match p.leaseEnd with
    | some t => if p.lease && p.state == .owner && after t d.time.loc then min 65535 ((t - d.time.loc).toNat / 1000) else 0
    | none => 0
  match o with
  | 0x1004 => some (at_ 0 p.state.code ||| at_ 3 (b2n d.mayPublish) ||| at_ 4 (b2n p.ownOut) ||| at_ 5 (b2n p.ownIn)
      ||| at_ 6 (b2n p.lease) ||| at_ 7 (b2n p.ilfault) ||| at_ 8 (b2n p.linkUp) ||| at_ 9 (b2n d.eligible)
      ||| at_ 10 p.streak ||| at_ 12 (b2n p.platediff) ||| at_ 13 (b2n p.timediff))
  | 0x1010 => some 0
  | 0x1014 => some (p.peerP.setWidth 32 ||| at_ 8 p.peerS.toNat ||| at_ 16 (if p.hbAt.isSome then age else 0))
  | 0x1018 => some p.peerEpoch
  | 0x101C => some (BitVec.ofNat 32 lease)
  | 0x1020 => some (d.anchor.setWidth 32)
  | 0x1024 => some ((d.anchor >>> 32).setWidth 32)
  | 0x1028 => some (p.cfgdiff.setWidth 32)
  | 0x102C => some (at_ 0 p.wmOutcome ||| at_ 8 p.wmCount.toNat)
  | _ => none

end Sys2Proof.Machine
end

