-- ==== Sys2Proof/Machine/View.lean ====
section
/-! DEFINITION. What a read of each BAR0 register returns: the page header, the statistics windows, and the live
registers of the pages whose chapters keep them in structured state (chapters 20 and 21). -/

namespace Sys2Proof.Machine

/-- The word whose bit `i` below `n` is `p i`. -/
def bitMap (n : Nat) (p : Nat → Bool) : Word := (List.range n).foldl (fun w i => if p i then w ||| at_ i 1 else w) 0

/-! ### The page header (R522, R541 to R543) -/

/-- Block type and instance of a page (R541). -/
def pageType (p : Nat) : Nat × Nat :=
  if pgDMA ≤ p ∧ p ≤ 0x0C then (0x0109, p - pgDMA)
  else if pgMEMG ≤ p ∧ p ≤ 0x14 then (0x0111, p - pgMEMG)
  else if isLnb p then (0x0118, p - pgLNB)
  else if isBur p then (0x0130, p - pgBUR)
  else (0x0100 + p, 0)

/-- `PCAP` of a page (R541). -/
def pageCap (p : Nat) : Nat :=
  if p = pgSYS then 0x0400 else if p = pgAON then 0x0200 else if p = pgPWR then 0x0402 else if p = pgPAIR then 0x0702
  else if p = pgCLK then 0x0602 else if p = pgTIME then 0x0402 else if p = pgMSP then 0x0903
  else if p = pgHIF then 0x0202 else if p = pgMMU then 0x0302 else if p ≤ 0x0C then 0x1002 else if p = pgFAB then 0x0402
  else if p = pgMEMC then 0x0502 else if p ≤ 0x14 then 0x0102 else if isLnb p then 0x0503 else if p = pgING then 0x0403
  else if p = pgDKL then 0x0402 else if p = pgHAT then 0x0402 else if p = pgACC then 0x0402
  else if p = pgBMF then 0x0403 else if p = pgTRG then 0x0402 else if p = pgPLT then 0x0202
  else if isBur p then 0x0503 else 0x0402

/-- The interrupt bits that a page defines (R542, R558). -/
def pageIrqs (p : Nat) : Nat := pageCap p / 256

/-- The page has a statistics window (R542). -/
def hasStats (p : Nat) : Bool := pageCap p / 2 % 2 == 1

/-- `PID` of a page on EV2048-160-L (R542). -/
def pageId (p : Nat) : Word := let t := pageType p; at_ 16 t.1 ||| at_ 8 t.2 ||| at_ 0 1

/-- The pages that execute a plate (R543). -/
def dataPath (p : Nat) : Bool := isLnb p || isBur p || (pgING ≤ p && p ≤ pgTRG)

/-- The effective level from which a page's functions are shed (R484); none for the pages served at every level. -/
def shedFrom (p : Nat) : Option Nat :=
  if pageAlwaysOn p ∨ p = pgPAIR then none
  else if p = pgMSP ∨ isBur p then some 1
  else if p = pgHAT then some 2
  else if p = pgDKL then some 3
  else if p = pgBMF ∨ p = pgTRG then some 4
  else if p = pgING ∨ p = pgACC ∨ p = pgPLT ∨ (pgMEMC ≤ p ∧ p ≤ 0x14) then some 5
  else some 6

/-- `HAT.PSTAT`[3:0] (R139). -/
def Dev.hatState (d : Dev) : Nat :=
  match d.sys.state with
  | .selftest => 4
  | .running | .draining =>
    if !d.req.corr then 0 else if d.hat.stopped.isSome then 3 else if d.hat.half then 2 else 1
  | _ => 0

/-- `PSTAT`[3:0] (R543). -/
def Dev.blockState (d : Dev) (p : Nat) : Nat :=
  let g := d.page p
  if !g.started || !g.en then 0
  else if p = pgHAT then d.hatState
  else if dataPath p && (d.sys.state == .running || d.sys.state == .draining) then 2
  else 1

/-- `PSTAT`. -/
def Dev.pstat (d : Dev) (p : Nat) : Word :=
  let shed := match shedFrom p with | some k => decide (k ≤ d.pwr.level) | none => false
  at_ 0 (d.blockState p) ||| at_ 8 (b2n shed) ||| at_ 9 (b2n (d.mctl.mstat == .frozen))
  ||| at_ 10 (b2n (d.page p).calStale)

/-- `PERR` as a word (R522). -/
def Perr.word32 (e : Perr) : Word :=
  at_ 0 e.code.toNat ||| at_ 8 e.word.toNat ||| at_ 24 e.count.toNat ||| at_ 31 (b2n e.sticky)

/-- A header register (R522). -/
def Dev.readHeader (d : Dev) (p o : Nat) : Word :=
  let g := d.page p
  if o = 0x00 then pageId p
  else if o = 0x04 then BitVec.ofNat 32 (pageCap p)
  else if o = 0x08 then at_ 0 (b2n (g.en || pageAlwaysOn p)) ||| at_ 2 (b2n g.irqOnErr)
  else if o = 0x0C then d.pstat p
  else if o = 0x10 then g.perr.word32
  else if o = 0x18 then g.pirq
  else if o = 0x1C then g.pirqen
  else if o = 0x24 then g.pgen
  else if o = 0x2C then at_ 0 (b2n g.armed.isSome) ||| at_ 1 (b2n g.locked) ||| at_ 16 g.lastTicket.toNat
  else if o = 0x30 then (match d.plt.active with | some q => q.low | none => 0)
  else 0

/-- A statistics word (R526); ING keeps two 32-bit counts and a lane window (R78). -/
def Dev.readStats (d : Dev) (p o : Nat) : Word :=
  if !hasStats p then 0
  else if p = pgING ∧ (o = 0x1A8 ∨ o = 0x1AC) then lo32 (Tab.get 0 d.stats (bar p o))
  else
    let key := if p = pgING ∧ 0x200 ≤ o ∧ o < 0x288 then laneClassOff d.ing.lstatIdx.toNat ((o - 0x200) / 8) else o / 8 * 8
    let v := Tab.get 0 d.stats (bar p key)
    if o % 8 = 0 then lo32 v else hi32 v

/-! ### SYS and AON (R545, R546) -/

/-- `SYS.CMDSTAT`. -/
def CmdStat.word (c : CmdStat) : Word :=
  at_ 0 c.result.toNat ||| at_ 8 c.cmd.toNat ||| at_ 16 (b2n c.ready) ||| at_ 17 (b2n c.busy) ||| at_ 24 c.gen.toNat

/-- `SYS.STATE` as it reads: OFF while the supply hold lasts or power-on reset is asserted (R482, R502). -/
def Dev.stateCode (d : Dev) : Nat := d.sys.state.code

/-- A live register of the SYS page that is no stored word, as master `m` reads it. -/
def Dev.readSys (d : Dev) (m o : Nat) : Option Word :=
  if o = 0x1000 then some (at_ 0 d.stateCode)
  else if o = 0x1004 then some (at_ 0 d.mode)
  else if o = 0x101C then some d.sys.cmdstat.word
  else if o = 0x1024 then some (at_ 0 d.sys.errlog.length ||| at_ 16 d.sys.errlogDisc)
  else if o = 0x1028 then some (lo32 d.sys.errlogT)
  else if o = 0x102C then some (hi32 d.sys.errlogT)
  else if o = 0x1400 then some (d.time.sfn.setWidth 32)
  else if o = 0x1404 then
    some (((Tab.get none d.sys.sfnLatch m).getD ((d.time.sfn >>> 32).setWidth 16)).setWidth 32)
  else if o = 0x1408 then some d.sys.sheetcnt
  else if o = 0x140C then some d.sys.reamcnt
  else if 0x1C00 ≤ o ∧ o < 0x1C20 then
    some (bitMap 32 fun i => let p := (o - 0x1C00) / 4 * 32 + i; pageExists p && (d.page p).isPending)
  else none

/-- A read of `SFN_NOW_LO` by master `m` latches SFN[47:32] for its next read of `SFN_NOW_HI` (R545). -/
def Dev.sfnLatch (d : Dev) (m : Nat) : Dev :=
  { d with sys.sfnLatch := Tab.set none d.sys.sfnLatch m (some ((d.time.sfn >>> 32).setWidth 16)) }

/-- What a read of offset `o` of the SYS page by master `m` does to the latch: `SFN_NOW_LO` fills it, `SFN_NOW_HI` uses it
up. -/
def Dev.sfnRead (d : Dev) (m o : Nat) : Dev :=
  if o = 0x1400 then d.sfnLatch m
  else if o = 0x1404 then { d with sys.sfnLatch := Tab.set none d.sys.sfnLatch m none }
  else d

/-- `AON.BOOTSTAT`. -/
def BootSt.stat (b : BootSt) : Word :=
  at_ 0 b.step ||| at_ 4 b.stepFail.toNat ||| at_ 9 (b2n b.refto) ||| at_ 10 (b2n b.recov) ||| at_ 15 (b2n b.fatal)
  ||| at_ 16 (b.memFail % 64) ||| at_ 24 (b.qFail % 256)

/-- `AON.ESTOP`. -/
def EstopSt.word (e : EstopSt) : Word :=
  at_ 8 (b2n e.active) ||| at_ 9 (b2n e.srcCmd) ||| at_ 10 (b2n e.srcReg) ||| at_ 11 (b2n e.srcI3c)
  ||| at_ 12 (b2n e.srcLand) ||| at_ 13 (b2n e.landLow)

/-- `AON.SNAPCTL`. -/
def AonSt.snapctl (a : AonSt) : Word :=
  at_ 2 (b2n a.autoFrz) ||| at_ 3 (b2n a.autoWdog) ||| at_ 8 (b2n a.valid) ||| at_ 9 (b2n a.busy) ||| at_ 10 a.cause
  ||| at_ 16 a.missed.toNat

/-- `AON.WDOG`. -/
def BootSt.wdog (b : BootSt) : Word := at_ 0 b.wdTimeout.toNat ||| at_ 16 (b2n b.wdEn) ||| at_ 17 (b2n b.wdStage)

/-- `AON.RSTCAUSE`. -/
def BootSt.rst (b : BootSt) : Word := at_ 0 b.rstCause ||| at_ 4 b.rstRail ||| at_ 8 b.rstCount.toNat

/-- A live register of the AON page (R518, R568, R571). -/
def Dev.readAon (d : Dev) (o : Nat) : Option Word :=
  let b := d.boot
  if o = 0x1000 then some b.stat
  else if o = 0x1004 then some (at_ 1 (b2n b.path))
  else if o = 0x1008 then some (b.imglen.setWidth 32)
  else if o = 0x1010 then some (Config.loaded (bar pgAON 0x1010))
  else if o = 0x1014 then
    some (at_ 0 b.cause ||| at_ 8 b.tries.toNat ||| at_ 16 Config.fuseSvn.toNat ||| at_ 24 b.imgSvn.toNat)
  else if o = 0x1018 then some b.wdog
  else if o = 0x101C then some d.aon.estop.word
  else if o = 0x1020 then some d.aon.snapctl
  else if o = 0x1024 then some b.rst
  else none

/-! ### PWR (R479 to R481, R497, R498) -/

/-- Nominal voltage of a rail, mV (R479). -/
def railNominal (r : Nat) : Nat := ([700, 750, 800, 850, 1200, 1800, 1050, 500, 800, 1800][r]?).getD 0

/-- Threshold of level `k`, 1 to 6, in 0.1 % (R481). -/
def Dev.thr (d : Dev) (k : Nat) : Nat :=
  if k ≤ 4 then fld (8 * k - 1) (8 * k - 8) (d.reg (bar pgPWR 0x1014))
  else fld (8 * (k - 4) - 1) (8 * (k - 4) - 8) (d.reg (bar pgPWR 0x1018))

/-- How far a rail lies below nominal, in mV (R480); 0 above nominal and before the first sample. -/
def Dev.railLow (d : Dev) (r : Nat) : Nat := railNominal r - (Tab.get none d.pwr.mv r).getD (railNominal r)

/-- Whether a rail's margin is above `t` tenths of a percent. -/
def Dev.marginAbove (d : Dev) (r t : Nat) : Bool := decide (t * railNominal r < d.railLow r * 1000)

/-- Whether a rail's margin is below `t` tenths of a percent. -/
def Dev.marginBelow (d : Dev) (r t : Nat) : Bool := decide (d.railLow r * 1000 < t * railNominal r)

/-- A rail's margin in 0.1 % as `RAILSTAT` shows it. -/
def Dev.margin (d : Dev) (r : Nat) : Nat := d.railLow r * 1000 / max 1 (railNominal r)

/-- The level a rail has reached and not left (R480). -/
def PwrSt.railLevel (p : PwrSt) (r : Nat) : Nat :=
  let b := Tab.get 0 p.reached r
  (List.range 6).foldl (fun k i => if b.getLsbD i then i + 1 else k) 0

/-- The rail with the largest margin, the lowest index among equals. -/
def Dev.worstRail (d : Dev) : Nat :=
  (List.range 10).foldl (fun w r =>
    if d.railLow w * railNominal r < d.railLow r * railNominal w then r else w) 0

/-- `RAILSTAT` of a rail. -/
def Dev.railStat (d : Dev) (r : Nat) : Word :=
  at_ 0 ((Tab.get none d.pwr.mv r).getD 0 % 65536) ||| at_ 16 (min 255 (d.margin r)) ||| at_ 24 (d.pwr.railLevel r)

/-- A live register of the PWR page that is no stored word. -/
def Dev.readPwr (d : Dev) (o : Nat) : Option Word :=
  let p := d.pwr
  if o = 0x1000 then
    some (at_ 0 p.level ||| at_ 4 p.supply ||| at_ 8 p.thermal ||| at_ 12 p.host ||| at_ 16 (b2n p.belowAt.isSome)
      ||| at_ 20 d.worstRail)
  else if o = 0x1004 then some (at_ 0 p.shedMax)
  else if o = 0x1008 then some (at_ 0 p.host)
  else if o = 0x1010 then some (d.railStat (fld 3 0 (d.reg (bar pgPWR 0x100C))))
  else if o = 0x101C then
    some (at_ 0 p.tj.toNat ||| at_ 8 p.sensor.toNat ||| at_ 16 p.thermal ||| at_ 19 (b2n p.warn))
  else none

/-! ### CLK (R426, R427) -/

/-- The encoding of `REFMON.STATE`. -/
def RefState.code : RefState → Nat
  | .disabled => 0 | .disqualified => 1 | .qualifying => 2 | .qualified => 3

/-- Seconds without a failure of a reference: since its last failure-free start. -/
def Dev.cleanSec (d : Dev) (r : Ref) : Nat :=
  match r.state with
  | .qualifying | .qualified => min 65535 ((d.time.loc - r.since).toNat / 10 ^ 9)
  | _ => 0

/-- A live register of the CLK page that is no stored word. -/
def Dev.readClk (d : Dev) (o : Nat) : Option Word :=
  let c := d.clk
  let r := d.ref c.refIdx
  let out := d.outp c.outIdx
  if o = 0x1000 then
    some (at_ 0 c.loop.code ||| at_ 4 (c.sel.getD 0) ||| at_ 7 (b2n c.sel.isSome)
      ||| (bitMap 8 fun i => (d.ref i).state == .qualified) <<< 8 ||| at_ 16 (b2n c.disagree) ||| at_ 17 (b2n d.yardHox)
      ||| at_ 20 (match c.sel with | some i => (d.ref i).ql | none => 0))
  else if o = 0x1008 then some (at_ 0 c.refIdx)
  else if o = 0x100C then some r.cfg
  else if o = 0x1010 then some (at_ 0 r.state.code ||| at_ 4 r.cause ||| at_ 8 r.ql ||| at_ 16 (d.cleanSec r))
  else if o = 0x1014 then some (BitVec.ofInt 32 r.foffs)
  else if o = 0x1018 then some (BitVec.ofInt 32 r.phase)
  else if o = 0x1048 then some (BitVec.ofInt 32 c.freq)
  else if o = 0x1054 then some (BitVec.ofInt 32 c.err)
  else if o = 0x1058 then some (at_ 0 c.phGen.toNat ||| at_ 16 (b2n c.phValid))
  else if o = 0x105C then some (BitVec.ofInt 32 c.holdFreq)
  else if o = 0x1060 then
    some (at_ 0 c.recTemp.toNat ||| at_ 8 d.pwr.tj.toNat ||| at_ 16 c.recLoad.toNat ||| at_ 24 c.recVcal.toNat)
  else if o = 0x1070 then some (at_ 0 c.outIdx)
  else if o = 0x1074 then some out.cfg
  else if o = 0x1078 then some (lo32 out.per)
  else if o = 0x107C then some (hi32 out.per)
  else if o = 0x1080 then some (if c.outIdx < 4 then BitVec.ofInt 32 out.err else 0)
  else if o = 0x1084 then some (bitMap 6 fun i => (d.outp i).aligned)
  else none

/-! ### LNB (R336, R337) -/

/-- The encoding of `LSTAT.STATE` (R324). -/
def LaneState.code : LaneState → Nat
  | .off => 0 | .detect => 1 | .adapt => 2 | .blockhunt => 3 | .markerhunt => 4 | .up => 5 | .failed => 6
  | .loopback => 7

/-- `LSTAT` of a physical lane. -/
def Lane.stat (x : Lane) : Word :=
  at_ 0 x.state.code ||| at_ 3 (b2n x.sigdet) ||| at_ 4 (b2n x.invert) ||| at_ 5 (b2n x.logvalid)
  ||| at_ 6 (b2n x.remap) ||| at_ 7 (b2n x.maperr) ||| at_ 8 x.qidx.toNat ||| at_ 10 (b2n x.stale) ||| at_ 12 x.ql.toNat
  ||| at_ 24 x.logic.toNat

/-- A live register of page LNBg that is no stored word. -/
def Dev.readLnb (d : Dev) (g o : Nat) : Option Word :=
  let m := fun (f : Lane → Bool) => some (bitMap 16 fun n => f (d.lane (16 * g + n)))
  if o = 0x1000 then m (·.state == .up)
  else if o = 0x1004 then m (·.state == .failed)
  else if o = 0x1008 then m (·.stale)
  else if o = 0x100C then m (·.maperr)
  else if 0x1100 ≤ o ∧ o < 0x1500 then
    let x := d.lane (16 * g + (o - 0x1100) / 0x40)
    match (o - 0x1100) % 0x40 with
    | 0x04 => some x.stat
    | 0x10 => some (x.linkrx.setWidth 32)
    | 0x14 => some (at_ 0 x.ctle.toNat ||| at_ 8 x.recCtle.toNat)
    | 0x18 => some x.dfe0
    | 0x1C => some x.dfe1
    | 0x20 => some (at_ 0 x.eyeH.toNat ||| at_ 8 x.eyeV.toNat ||| at_ 16 x.eyeOff.toNat)
    | 0x24 => some (at_ 0 x.recTemp.toNat ||| at_ 8 d.pwr.tj.toNat ||| at_ 16 x.recLoad.toNat ||| at_ 24 x.recVcal.toNat)
    | _ => none
  else none

/-! ### ING (R73, R74) -/

/-- A figure of the active plate, 0 with none. -/
def Dev.fig (d : Dev) (f : Plate → Nat) : Word := match d.plt.active with | some p => BitVec.ofNat 32 (f p) | none => 0

/-- A base register that a plate loads: 0 with no active plate (R544). -/
def Dev.base (d : Dev) (p o : Nat) : Word := if d.plt.active.isSome then Config.loaded (bar p o) else 0

/-- First SFN of the sheet that contains SFN_NOW; 0 with no active plate. -/
def Dev.sheetSfn (d : Dev) : Sfn := if d.plt.active.isSome then d.req.sheetOf d.time.sfn else 0

/-- The flags of an input in the last completed sheet. -/
def Dev.inFlag (d : Dev) (p : Nat) : InFlag := match d.ing.last with | some s => Tab.get {} s.flags p | none => {}

/-- Inputs of the last completed sheet that have a flag. -/
def Dev.flagCount (d : Dev) (f : InFlag → Bool) : Nat :=
  match d.ing.last with
  | some s => ((List.range (d.reqAt s.at_).ninput).filter fun p => f (Tab.get {} s.flags p)).length
  | none => 0

/-- Word `k` of a wide bit vector. -/
def wordOf {n : Nat} (v : BitVec n) (k : Nat) : Word := (v >>> (32 * k)).setWidth 32

/-- A live or shadow register of the ING page. -/
def Dev.readIng (d : Dev) (o : Nat) : Option Word :=
  let g := d.ing
  if o = 0x1000 then some (d.fig (·.req.w))
  else if o = 0x1004 then some (d.fig (·.req.earlyB))
  else if o = 0x1008 then some (BitVec.ofNat 32 d.nbound)
  else if o = 0x100C then some (d.sheetSfn.setWidth 32)
  else if o = 0x1010 then some ((d.sheetSfn >>> 32).setWidth 32)
  else if o = 0x1014 then some (BitVec.ofNat 32 d.openDir.length)
  else if o = 0x1018 then some (g.lstatIdx.setWidth 32)
  else if 0x1020 ≤ o ∧ o < 0x1040 then some (wordOf g.laneq ((o - 0x1020) / 4))
  else if o = 0x1040 then some (g.inflagIdx.setWidth 32)
  else if o = 0x1044 then
    let f := d.inFlag g.inflagIdx.toNat
    some (at_ 0 (b2n f.dead) ||| at_ 1 (b2n f.absent) ||| at_ 2 (b2n f.conflict))
  else if o = 0x1048 then some (at_ 0 (d.flagCount (·.dead)) ||| at_ 16 (d.flagCount (·.absent)))
  else if o = 0x104C then some (at_ 0 g.vbmGen.toNat ||| at_ 16 (b2n g.vbmBuf))
  else if o = 0x1050 ∨ o = 0x1054 then some (d.base pgING o)
  else if o = 0x1058 then some (d.fig (·.req.vbmSize))
  else if o = 0x10A4 then some (at_ 0 (b2n g.keys0.isSome) ||| at_ 1 (b2n g.keys1.isSome))
  else if o = 0x8000 then some (g.bindIdx.setWidth 32)
  else if o = 0x8004 ∨ o = 0x8008 then
    let e := g.shadow.entry (bitAt 13 g.bindIdx) (g.bindIdx.toNat % 8192)
    some (if o = 0x8004 then e.lo else at_ 0 e.tag.toNat ||| at_ 31 (b2n e.valid))
  else if o = 0x800C then some (g.rateIdx.setWidth 32)
  else if o = 0x8010 then some ((Tab.get 0 g.shadow.rate g.rateIdx.toNat).setWidth 32)
  else if o = 0x8014 then some ((Tab.get 0 g.shadow.depth g.rateIdx.toNat).setWidth 32)
  else none

/-! ### DKL, HAT, ACC (R104, R137, R138, R163, R164) -/

/-- `DKL.PINNED`: pages pinned now. -/
def Dev.pinned (d : Dev) : Nat := (d.dkl.pins.filter fun e => !e.2.isEmpty).length

/-- `DKL.CTSTAT`: the channel and sub-block being staged. -/
def Dev.ctstat (d : Dev) : Word :=
  let t := match d.stageTarget with | some (_, (_, c, m, _), _) => at_ 0 c ||| at_ 10 m ||| at_ 16 1 | none => 0
  t ||| at_ 17 (b2n d.dkl.panic)

/-- A live register of the DKL page that is no stored word. -/
def Dev.readDkl (d : Dev) (o : Nat) : Option Word :=
  let k := d.dkl
  if o = 0x1000 then some (d.fig (·.bufSlots))
  else if o = 0x1004 then some (d.fig (·.req.sheetPages))
  else if o = 0x1008 then some (d.fig (·.req.rsvSlots))
  else if o = 0x100C then some (k.rsvIdx.setWidth 32)
  else if o = 0x1010 then some (d.fig fun _ => d.rsvFree k.rsvIdx.toNat)
  else if o = 0x1014 then some (d.fig fun _ => d.rsvMin)
  else if o = 0x1018 then some (d.fig (·.retain))
  else if o = 0x101C then some (d.fig (·.req.premax))
  else if o = 0x1020 then some (d.fig (·.req.panicMark))
  else if o = 0x1024 then some d.ctstat
  else if o = 0x1028 then some (BitVec.ofNat 32 d.pinned)
  else if o = 0x1030 ∨ o = 0x1034 then some 0
  else if [0x1038, 0x103C, 0x1048, 0x104C].contains o then some (d.base pgDKL o)
  else if o = 0x1040 then some (k.capwr.setWidth 32)
  else if o = 0x1044 then some (k.caprd.setWidth 32)
  else none

/-- `HAT.HSTAT`: the pass run in progress. -/
def Dev.hstat (d : Dev) : Word :=
  let h := d.hat
  let at0 := match h.sheet, h.chans with
    | some _, c :: _ => at_ 0 c ||| at_ 10 h.sub ||| at_ 14 h.pass ||| at_ 24 (b2n h.stopped.isNone)
    | _, _ => 0
  at0 ||| at_ 25 (b2n h.half) ||| at_ 26 (b2n h.stopped.isSome)

/-- `PASSCFG.KIND` (R137). -/
def Req.kind (r : Req) : Nat := if !r.corr then 7 else if r.tile then 3 else if r.mode = 8 then 4 else 0

/-- A checking quire's `CHKSTAT`. -/
def Checker.stat (c : Checker) : Word :=
  at_ 0 (if c.idle then 0 else c.target) ||| at_ 8 (b2n c.dedicated) ||| at_ 9 (b2n c.disabled) ||| at_ 10 (b2n c.idle)

/-- A live register of the HAT page. -/
def Dev.readHat (d : Dev) (o : Nat) : Option Word :=
  let h := d.hat
  if 0x1000 ≤ o ∧ o < 0x1014 then some (wordOf h.qmask ((o - 0x1000) / 4))
  else if 0x1020 ≤ o ∧ o < 0x1034 then some (wordOf h.qsusp ((o - 0x1020) / 4))
  else if o = 0x1040 then some (h.qcauseIdx.setWidth 32)
  else if o = 0x1044 then
    let c := Tab.get ({} : QCause) h.qcause h.qcauseIdx.toNat
    some (at_ 0 c.cause ||| at_ 8 c.peer ||| at_ 16 c.ream.toNat)
  else if o = 0x1050 then
    some (d.fig fun p => p.passes % 256 + p.usable.length % 256 * 256 + p.req.kind * 65536 + p.req.sfmt * 2 ^ 24)
  else if o = 0x1054 then some (d.fig (·.req.units.length))
  else if o = 0x1058 then some (d.fig Plate.chCyc)
  else if o = 0x105C then some (d.fig Plate.sheetCyc)
  else if o = 0x1060 then some (d.fig Plate.load)
  else if o = 0x1064 then some d.hstat
  else if o = 0x1068 then some (at_ 0 h.rho ||| at_ 8 h.rotating.length)
  else if o = 0x106C then some (h.chkIdx.setWidth 32)
  else if o = 0x1070 then some (h.checker h.chkIdx.toNat).stat
  else none

/-- `ACC.GUARDLIM` of a plate (R149). -/
def Req.guardLim (r : Req) : Nat := if r.vfmt = 1 then 2 ^ 31 else if r.sym = 1 then 21913098 else 2 ^ 24

/-- `ACC.ADDSTAT`: the channel that waits first for its add, or the last that was added. -/
def Dev.addstat (d : Dev) : Word :=
  match d.acc.adds with
  | x :: _ => d.addWord x ||| at_ 16 1
  | [] => d.acc.addLast

/-- `ACC.REAMSTAT`. -/
def AccSt.reamstat (a : AccSt) : Word :=
  at_ 0 (b2n a.recrdy) ||| at_ 1 (b2n a.recbuf) ||| at_ 2 (b2n a.closing.isSome)
  ||| at_ 3 (b2n a.waits.isSome) ||| at_ 8 a.recgen.toNat ||| at_ 16 a.lost

/-- A live register of the ACC page. -/
def Dev.readAcc (d : Dev) (o : Nat) : Option Word :=
  let a := d.acc
  let r := d.req
  if o = 0x1000 then some (at_ 0 r.vfmt ||| at_ 1 r.nplane ||| at_ 4 r.order ||| at_ 5 r.sym)
  else if o = 0x1004 then some a.reamstat
  else if o = 0x1008 then some (BitVec.ofNat 32 a.recream)
  else if 0x1010 ≤ o ∧ o < 0x1020 then some (d.base pgACC o)
  else if o = 0x1020 then some (d.fig (·.req.recSize / 4096))
  else if o = 0x1024 then some (d.fig (·.req.nbl))
  else if o = 0x1028 then some (d.fig (·.req.reamLen))
  else if o = 0x102C then some (d.fig (·.req.guardLim))
  else if o = 0x1030 then some (BitVec.ofNat 32 (d.gather d.run.reams).satCnt)
  else if o = 0x1034 then some (d.fig (·.req.satMax))
  else if o = 0x1038 then some d.addstat
  else if o = 0x1040 then some (lo32 a.wmark)
  else if o = 0x1044 then some (hi32 a.wmark)
  else none

/-! ### BMF and TRG (R205, R225, R226, R257, R258) -/

/-- The beam load in 0.01 % (R205). -/
def Req.beamLoad (r : Req) : Nat :=
  nearest (r.nbeam * r.ninput * r.nchan * r.fch * (if r.sfmt = 0 then 1 else 2) * 10000) (256 * 24576 * 10 ^ 9)

/-- The number of beams computed for a frame set that begins now. -/
def Dev.beamsNow (d : Dev) : Nat :=
  if d.plt.active.isSome ∧ !stoppedAt d.bmf.stopped d.bmf.resumeAt d.time.sfn ∧ d.req.beamMode then (d.beamsAt d.time.sfn).length else 0

/-- The trigger beams that produce events now (R253). -/
def Dev.tBeamsNow (d : Dev) : Nat :=
  if stoppedAt d.trg.stopped d.trg.resumeAt d.time.sfn ∨ !d.req.trigMode then 0
  else if limitedAt d.trg.limited d.trg.fullAt d.time.sfn then (d.req.tBeams.filter d.req.s4List.contains).length
  else d.req.ntb

/-- `BMF.RAMPSTAT`. -/
def BmfSt.rampstat (b : BmfSt) : Word := at_ 0 b.rampN ||| at_ 8 b.rampR ||| at_ 16 (b2n b.ramping)

/-- A live register of the BMF page that is no stored word. -/
def Dev.readBmf (d : Dev) (o : Nat) : Option Word :=
  let b := d.bmf
  if o = 0x1000 then some (d.fig fun p => p.req.nbeam + d.beamsNow * 65536)
  else if o = 0x1004 then some (d.fig (·.req.beamLoad))
  else if o = 0x1008 then some (d.fig fun _ => d.qocc)
  else if o = 0x100C then some (at_ 0 b.opens.length)
  else if o = 0x1020 then some (d.fig fun p => if p.req.nbeam = 0 then 0 else p.req.bmTblSize)
  else if o = 0x1024 then some (BitVec.ofNat 32 b.tblErr)
  else if (0x1010 ≤ o ∧ o < 0x1020) ∨ (0x1028 ≤ o ∧ o < 0x1038) then some (d.base pgBMF o)
  else if o = 0x1038 then some (d.fig (·.req.stgBlocks))
  else if o = 0x103C then some (BitVec.ofNat 32 b.stgwr)
  else if o = 0x1040 then some (BitVec.ofNat 32 b.stgrd)
  else if o = 0x1048 then some b.rampstat
  else none

/-- `TRG.GEOM` of a request (R258). -/
def Req.geom (r : Req) : Nat :=
  r.tA % 16 + r.tQ % 8 * 16 + r.tNsub % 2048 * 256 + r.tNwid % 16 * 2 ^ 20 + r.tNsel % 16 * 2 ^ 24 + r.tSwlag % 16 * 2 ^ 28

/-- First SFN of the last evaluated trigger sample. -/
def Dev.tickNow (d : Dev) : Sfn := match d.trg.lastTick with | some i => d.tickSfn d.trgA i | none => 0

/-- A figure of the active plate's trigger section, 0 without one. -/
def Dev.tfig (d : Dev) (f : Req → Nat) : Word := d.fig fun p => if p.req.trigMode then f p.req else 0

/-- A live register of the TRG page that is no stored word. -/
def Dev.readTrg (d : Dev) (o : Nat) : Option Word :=
  let t := d.trg
  if o = 0x1000 then some (d.tfig fun r => r.ntb + d.tBeamsNow * 65536)
  else if o = 0x1004 then some (d.tfig Req.geom)
  else if o = 0x1008 then some (d.tfig Req.tDmax)
  else if o = 0x100C then some (d.tfig Req.tWmax)
  else if o = 0x1010 then some (d.tfig Req.decBound)
  else if o = 0x1014 then some (t.nextId.setWidth 32)
  else if o = 0x1018 then some (d.tickNow.setWidth 32)
  else if o = 0x101C then some ((d.tickNow >>> 32).setWidth 32)
  else if (0x1020 ≤ o ∧ o < 0x1030) ∨ o = 0x1038 ∨ o = 0x103C then some (d.base pgTRG o)
  else if o = 0x1030 then some (d.tfig Req.tTblSize)
  else if o = 0x1034 then some (BitVec.ofNat 32 t.tblErr)
  else if o = 0x1040 then some (d.tfig Req.tLogEnts)
  else if o = 0x1044 then some (BitVec.ofNat 32 t.logwr)
  else if o = 0x1048 then some (BitVec.ofNat 32 t.logrd)
  else if o = 0x1060 then some (t.tin.setWidth 32)
  else none

/-! ### Every page -/

/-- A live or shadow register of a page that is held in structured state. -/
def Dev.readLive (d : Dev) (m p o : Nat) : Option Word :=
  if p = pgSYS then d.readSys m o
  else if p = pgAON then d.readAon o
  else if p = pgPWR then d.readPwr o
  else if p = pgPAIR then d.readPair o
  else if p = pgCLK then d.readClk o
  else if p = pgTIME then d.readTime o
  else if p = pgMSP then d.readMsp o
  else if p = pgHIF then d.readHif o
  else if p = pgMMU then d.readMmu o
  else if pgDMA ≤ p ∧ p < pgFAB then d.readDma (p - pgDMA) o
  else if p = pgFAB then d.readFab o
  else if p = pgMEMC then d.readMemc o
  else if pgMEMG ≤ p ∧ p < pgLNB then d.readMemg (p - pgMEMG) o
  else if isLnb p then d.readLnb (p - pgLNB) o
  else if p = pgING then d.readIng o
  else if p = pgDKL then d.readDkl o
  else if p = pgHAT then d.readHat o
  else if p = pgACC then d.readAcc o
  else if p = pgBMF then d.readBmf o
  else if p = pgTRG then d.readTrg o
  else if p = pgPLT then d.readPlt o
  else if isBur p then d.readBur (p - pgBUR) o
  else if p = pgETH then d.readEth o
  else none

/-- The value that master `m` reads at offset `o` of page `p`, without the effect of a POP (R520, R521, R526). -/
def Dev.readReg (d : Dev) (m p o : Nat) : Word :=
  if o < 0x100 then d.readHeader p o
  else if !(d.page p).started && decide (o < 0x8000) then 0
  else if o < 0x1000 then d.readStats p o
  else match d.readLive m p o with
    | some w => w
    | none => d.reg (bar p o)

end Sys2Proof.Machine
end

