-- ==== Sys2Proof/Machine/Aon.lean ====
section
/-! DEFINITION. The AON island: ESTOP, the freeze snapshot, the AON capability and the I3C port's operations
(R559 to R571). -/

namespace Sys2Proof.Machine

/-! ### ESTOP (R564 to R568) -/

/-- Where an ESTOP request comes from (R564, R568). -/
inductive EstopSrc where
  | cmd | reg | i3c | land
  deriving DecidableEq, Repr

/-- The source bit of a request is set. -/
def EstopSt.mark (e : EstopSt) : EstopSrc → EstopSt
  | .cmd => { e with srcCmd := true }
  | .reg => { e with srcReg := true }
  | .i3c => { e with srcI3c := true }
  | .land => { e with srcLand := true }

/-- Every TRIGOUT land that is high is driven low (R565). -/
def Dev.trigoutsLow (d : Dev) : Dev :=
  (List.range 4).foldl (fun d n =>
    if (Tab.get none d.trg.outEnd n).isSome then
      ({ d with trg.outEnd := Tab.set none d.trg.outEnd n none }).emit (.land ("TRIGOUT" ++ toString n) false)
    else d) d

/-- ESTOP comes into force, or a further request adds its source bit (R564, R565). -/
def Dev.estop (d : Dev) (src : EstopSrc) : Dev :=
  if d.sys.state = .off then d
  else
    let was := d.aon.estop.active
    let d := { d with aon.estop := { d.aon.estop.mark src with active := true } }
    if was then d else (d.trigoutsLow.giveUp false).raise pgAON 0x1

/-- Every transmitter that may send restarts its block stream (R567). -/
def Dev.txRestart (d : Dev) : Dev :=
  (List.range 256).foldl (fun d n =>
    if (d.lane n).tx then d.setLane n { d.lane n with txMseq := 0, txAt := d.time.loc } else d) d

/-- ESTOP is released (R567); the caller has checked that ESTOP_N is high. -/
def Dev.estopEnd (d : Dev) : Dev :=
  if d.aon.estop.active then
    ({ d with aon.estop := { d.aon.estop with active := false, srcCmd := false, srcReg := false, srcI3c := false
                                              srcLand := false } } : Dev).egClear.txRestart
  else d

/-- What breaks a write of `AON.ESTOP` (R567, R568). -/
def Dev.estopErrs (d : Dev) (v : Word) : List Code :=
  when' (v &&& 0xFFFFC0FC ≠ 0) eRSVD ++ when' (bitAt 0 v && bitAt 1 v) eCOMBO
  ++ when' (bitAt 1 v && d.aon.estop.landLow) eSTATE

/-- A write of `AON.ESTOP` (R568). -/
def Dev.estopWrite (d : Dev) (v : Word) : Dev :=
  d.guard pgAON 0x101C (d.estopErrs v) fun d =>
    if bitAt 0 v then d.estop .reg else if bitAt 1 v then d.estopEnd else d

/-- ESTOP_N_EDGE: the land has fallen for longer than the glitch filter (R564). -/
def Dev.estopNFall (d : Dev) : Dev := ({ d with aon.estop.landLow := true }).estop .land

/-- ESTOP_N_RISE: the land is high again (R568). -/
def Dev.estopNRise (d : Dev) : Dev := { d with aon.estop.landLow := false }

/-! ### The freeze snapshot (R569 to R571) -/

/-- A page whose registers the scan path can read: its block is out of reset and clocked. -/
def Dev.scanOk (d : Dev) (p : Nat) : Bool := (d.page p).started && ((d.page p).en || pageAlwaysOn p)

/-- A register as the snapshot stores it. -/
def Dev.scan (d : Dev) (p o : Nat) : Word := if d.scanOk p then d.readReg 0 p o else 0

/-- Registers of one page at the given offsets. -/
def Dev.scans (d : Dev) (p : Nat) (l : List Nat) : List Word := l.map (d.scan p)

/-- `n` registers of a page at a stride. -/
def Dev.scanEach (d : Dev) (p base stride n : Nat) : List Word := (List.range n).map fun i => d.scan p (base + stride * i)

/-- The pages of each region of R570, counted from 0. -/
def snapPages : List (List Nat) :=
  [[], [pgSYS, pgPWR, pgAON], [pgMEMC, 0x11, 0x12, 0x13, 0x14], [pgMEMC], [pgDKL], [pgHAT], [pgACC, pgING],
   [pgBMF, pgTRG, pgPLT, pgPAIR, pgCLK, pgTIME], [pgFAB], [0x09, 0x0A, 0x0B, 0x0C],
   (List.range 16).map (pgLNB + ·), (List.range 4).map (pgBUR + ·), [pgSYS]]

/-- `UNREAD` of R570. -/
def Dev.snapUnread (d : Dev) : Word :=
  bitMap 13 fun r => ((snapPages[r]?).getD []).any fun p => !d.scanOk p

/-- The words of the regions of R570, each with its byte offset; `fw` are the program counters and exception causes of
the Mladef cores. -/
def Dev.snapRegions (d : Dev) (cause : Nat) (fw : List Word) : List (Nat × List Word) :=
  let base := fun i => ({ d with time.baseIdx := i } : Dev).scan pgTIME 0x1048
  [(0x0000, [0x50414E53, at_ 0 1 ||| at_ 16 cause, lo32 d.time.arr, hi32 d.time.arr, d.time.sfn.setWidth 32,
             (d.time.sfn >>> 32).setWidth 32, d.aon.taken + 1, 0, d.snapUnread]),
   (0x0100, d.scans pgSYS [0x1000, 0x1004, 0x101C, 0x1400] ++ [(d.time.sfn >>> 32).setWidth 32]
             ++ d.scans pgSYS [0x1408, 0x140C] ++ d.scans pgPWR [0x1000, 0x101C, 0x1024]
             ++ (List.range 10).map (fun r => if d.scanOk pgPWR then d.railStat r else 0)
             ++ d.scans pgAON [0x1000, 0x1024, 0x1018]),
   (0x0200, d.scans pgMEMC [0x1000, 0x100C, 0x1010, 0x1014, 0x1018, 0x101C, 0x1020, 0x1024, 0x1028, 0x103C]
             ++ (List.range 40).map fun c => d.scan (pgMEMG + c / 10) (0x1100 + 0x40 * (c % 10))),
   (0x5300, d.scans pgDKL [0x1024, 0x1028, 0x1014]
             ++ (List.range 40).map fun c => ({ d with dkl.rsvIdx := BitVec.ofNat 6 c } : Dev).scan pgDKL 0x1010),
   (0x5400, d.scans pgHAT [0x1064, 0x1068] ++ d.scanEach pgHAT 0x1000 4 5 ++ d.scanEach pgHAT 0x1020 4 5
             ++ (List.range 4).map fun k => ({ d with hat.chkIdx := BitVec.ofNat 2 k } : Dev).scan pgHAT 0x1070),
   (0x5480, d.scans pgACC [0x1004, 0x1038, 0x1008, 0x1030] ++ d.scans pgING [0x1014, 0x100C, 0x1010, 0x1048]
             ++ d.scanEach pgING 0x1020 4 8),
   (0x5500, d.scans pgBMF [0x1008, 0x100C, 0x1048, 0x103C] ++ d.scans pgTRG [0x1014, 0x1018, 0x101C, 0x1044]
             ++ d.scans pgPLT [0x100C, 0x1010, 0x1040] ++ d.scans pgPAIR [0x1004, 0x100C, 0x1014]
             ++ d.scans pgCLK [0x1000] ++ [base 0, base 1, base 3]),
   (0x5580, (List.range 14).map fun m => ({ d with fab.portsel := BitVec.ofNat 4 m } : Dev).scan pgFAB 0x1004),
   (0x5600, (List.range 4).map (fun k => d.scan (pgDMA + k) 0x1000)
             ++ (List.range 16).flatMap fun i => d.scans (pgDMA + i / 4) ([0x08, 0x18, 0x1C].map (0x1100 + 0x80 * (i % 4) + ·))),
   (0x5700, (List.range 256).map fun n => d.scan (lanePage n) (0x1104 + 0x40 * (n % 16))),
   (0x5B00, (List.range 64).flatMap fun c => d.scans (burPage c) ([0x04, 0x08].map (0x1100 + 0x40 * (c % 16) + ·))),
   (0x5D00, fw)]

/-- The snapshot SRAM after the words are laid out. -/
def snapTab (l : List (Nat × List Word)) : Tab Word :=
  l.foldl (fun t e => (e.2.zipIdx).foldl (fun t x => Tab.set 0 t (e.1 / 4 + x.2) x.1) t) []

/-- `n` free words. -/
def Dev.freshWords (d : Dev) : Nat → List Word × Dev
  | 0 => ([], d)
  | n + 1 =>
    let (v, d) := d.fresh
    let (l, d) := d.freshWords n
    (BitVec.ofNat 32 v :: l, d)

/-- A trigger for a snapshot with its CAUSE (R569, R571): 1 FREEZE, 2 WDOG1, 3 HOST. -/
def Dev.snapTake (d : Dev) (cause : Nat) : Dev :=
  if d.aon.valid || d.aon.busy then { d with aon.missed := BitVec.ofNat 8 (min 255 (d.aon.missed.toNat + 1)) }
  else
    let (fw, d) := d.freshWords 8
    { d with aon.sram := snapTab (d.snapRegions cause fw), aon.busy := true, aon.cause := cause
             aon.taken := d.aon.taken + 1 }

/-- SNAPSHOT_DONE (R569). -/
def Dev.snapDone (d : Dev) : Dev :=
  if d.aon.busy then ({ d with aon.busy := false, aon.valid := true }).raise pgAON 0x2 else d

/-- What refuses TAKE and CLEAR (R571). -/
def Dev.snapErrs (d : Dev) (take clear : Bool) : List Code :=
  when' ((take && (d.aon.valid || d.aon.busy)) || (clear && d.aon.busy)) eBUSY

/-- The held snapshot is discarded (R571). -/
def Dev.snapClear (d : Dev) : Dev :=
  { d with aon.valid := false, aon.missed := 0, aon.cause := 0, aon.sram := [] }

/-- A write of `AON.SNAPCTL` (R571). -/
def Dev.snapctlWrite (d : Dev) (v : Word) : Dev :=
  d.guard pgAON 0x1020 (when' (v &&& 0xFF00E0F0 ≠ 0) eRSVD ++ d.snapErrs (bitAt 0 v) (bitAt 1 v)) fun d =>
    let d := { d with aon.autoFrz := bitAt 2 v, aon.autoWdog := bitAt 3 v }
    let d := if bitAt 1 v then d.snapClear else d
    if bitAt 0 v then d.snapTake 3 else d

/-- What follows a command that may have frozen memory or changed the device state: the snapshot of a freeze (R569),
and the pair state (R455, R461). -/
def Dev.settle (d : Dev) : Dev :=
  let d := if d.mctl.snapDue then
      let d := { d with mctl.snapDue := false }
      if d.aon.autoFrz then d.snapTake 1 else d
    else d
  d.pairSync

/-! ### The access ports (R560 to R562) -/

/-- The AON capability, or the I3C port. -/
def Dev.aonPort (d : Dev) (i3c : Bool) : AonPort := if i3c then d.aon.i3c else d.aon.cap

/-- An access port takes a value. -/
def Dev.setAonPort (d : Dev) (i3c : Bool) (p : AonPort) : Dev :=
  if i3c then { d with aon.i3c := p } else { d with aon.cap := p }

/-- A path can reach the AON island (R559): I3C in every state but OFF, the capability with the link up. -/
def Dev.aonReach (d : Dev) (i3c : Bool) : Bool := d.sys.state != .off && (i3c || d.boot.linkUp)

/-- An operation ends with a RESULT. -/
def Dev.aonResult (d : Dev) (i3c : Bool) (c : Code) : Dev := d.setAonPort i3c { d.aonPort i3c with result := c }

/-- An operation that checks `errs` and then has the effect `f`. -/
def Dev.aonOp (d : Dev) (i3c : Bool) (errs : List Code) (f : Dev → Dev) : Dev :=
  match firstCode errs with
  | some c => d.aonResult i3c c
  | none => (f d).aonResult i3c eOK

/-- AONCMD and AONADDR are written, and the operation acts where the path reaches the island. -/
def Dev.aonStart (d : Dev) (i3c : Bool) (cmd addr : Word) (f : Dev → Dev) : Dev :=
  if d.aonReach i3c then f (d.setAonPort i3c { d.aonPort i3c with cmd := cmd, addr := addr &&& 0x3FFF }) else d

/-- The master number of a port, for SFN_NOW (R545). -/
def portMaster (i3c : Bool) : Nat := if i3c then 2 else 1

/-- READ (R561): a word of an always-on page; a POP register reads as zero. -/
def Dev.aonRead (d : Dev) (i3c : Bool) (page : Nat) : Dev :=
  d.aonOp i3c (when' (!pageAlwaysOn page) ePERM) fun d =>
    let o := (d.aonPort i3c).addr.toNat * 4
    let v := d.readReg (portMaster i3c) page o
    let d := if page = pgSYS then d.sfnRead (portMaster i3c) o else d
    d.setAonPort i3c { d.aonPort i3c with data := v }

/-- ESTOP (R561). -/
def Dev.aonEstop (d : Dev) (i3c : Bool) : Dev := d.aonOp i3c [] fun d => d.estop (if i3c then .i3c else .reg)

/-- RELEASE (R561, R567). -/
def Dev.aonRelease (d : Dev) (i3c : Bool) : Dev := d.aonOp i3c (when' d.aon.estop.landLow eSTATE) Dev.estopEnd

/-- SNAPTAKE (R561). -/
def Dev.aonSnapTake (d : Dev) (i3c : Bool) : Dev := d.aonOp i3c (d.snapErrs true false) fun d => d.snapTake 3

/-- SNAPCLR (R561). -/
def Dev.aonSnapClear (d : Dev) (i3c : Bool) : Dev := d.aonOp i3c (d.snapErrs false true) Dev.snapClear

/-- READSNAP (R561): a word of the held snapshot. -/
def Dev.aonReadSnap (d : Dev) (i3c : Bool) : Dev :=
  d.aonOp i3c [] fun d =>
    d.setAonPort i3c { d.aonPort i3c with data := Tab.get 0 d.aon.sram (d.aonPort i3c).addr.toNat }

/-- AONSTAT (R560): an operation completes at once, so BUSY reads 0. -/
def Dev.aonStat (d : Dev) (i3c : Bool) : Word :=
  at_ 8 (d.aonPort i3c).result.toNat ||| at_ 16 (b2n d.aon.estop.active) ||| at_ 20 d.stateCode ||| at_ 24 d.pwr.level

end Sys2Proof.Machine
end

