-- ==== Sys2Proof/Machine/Flags.lean ====
section
/-! DEFINITION. Burin arithmetic: the 16-bit operations with their flags, the 40-bit accumulators, the moves, addressing,
conditions (R265 to R268, R272, R273). -/

namespace Sys2Proof.Machine

/-- The result of a 16-bit operation: value, whether it saturated, and C where the spec gives it. -/
structure AluOut where
  val : BitVec 16
  sat : Bool := false
  c   : Option Bool := none
  deriving DecidableEq, Repr

/-- C of a subtraction: the borrow, or its complement (the spec does not say which; a free constant). -/
def subCarry (a b : BitVec 16) : Bool := if Config.carryIsBorrow then decide (a.toNat < b.toNat) else decide (b.toNat ≤ a.toNat)

/-- A saturating 16-bit result (R267). -/
def satOut (v : Int) : AluOut := { val := BitVec.ofInt 16 (sat 16 v), sat := satHits 16 v }

/-- The 16-bit operations (R267, R273). -/
def aluRun (op : BAlu) (a b : BitVec 16) : AluOut :=
  match op with
  | .add => { val := a + b, c := some (decide (65536 ≤ a.toNat + b.toNat)) }
  | .sub => { val := a - b, c := some (subCarry a b) }
  | .adds => satOut (a.toInt + b.toInt)
  | .subs => satOut (a.toInt - b.toInt)
  | .and => { val := a &&& b }
  | .or => { val := a ||| b }
  | .xor => { val := a ^^^ b }
  | .shl => { val := a <<< (b.toNat % 16) }
  | .shra => { val := a.sshiftRight (b.toNat % 16) }
  | .shrl => { val := a >>> (b.toNat % 16) }
  | .min => { val := if a.toInt ≤ b.toInt then a else b }
  | .max => { val := if a.toInt ≤ b.toInt then b else a }
  | .abs => satOut (if a.toInt < 0 then -a.toInt else a.toInt)

/-- An exact accumulator result in 40 bits: wrapped or clamped, and whether V is set (R265). -/
def acc40 (satMode : Bool) (v : Int) : BitVec 40 × Bool :=
  (BitVec.ofInt 40 (if satMode then sat 40 v else v), satHits 40 v)

/-- The exact result of an ACCOP; `o` is the other accumulator (R273). -/
def accRun (op : BAcc) (a o : Int) : Int :=
  match op with
  | .clr => 0
  | .neg => -a
  | .add => a + o
  | .sub => a - o
  | .abs => if a < 0 then -a else a
  | .shift k => if 0 ≤ k then a * 2 ^ k.toNat else conv (-k).toNat a

/-- A move from an accumulator by 2^k: value and whether it saturates (R266). -/
def accMove (k : Nat) (a : BitVec 40) : BitVec 16 × Bool :=
  let v := conv k a.toInt
  (BitVec.ofInt 16 (sat 16 v), satHits 16 v)

/-- SCALE of `CMODE`. -/
def cmScale (w : Word) : Int := signed5 w
where
  /-- Bits [4:0] in two's complement. -/
  signed5 (w : Word) : Int := ((w.setWidth 5 : BitVec 5)).toInt

/-- The shift of MVA: 15 − SCALE (R266). -/
def mvaShift (w : Word) : Nat := (15 - cmScale w).toNat

/-- Part `k` of an accumulator (GETA). -/
def accPart (a : BitVec 40) (k : Nat) : BitVec 16 :=
  if k = 0 then a.setWidth 16 else if k = 1 then (a >>> 16).setWidth 16
  else ((a >>> 32).setWidth 8 : BitVec 8).signExtend 16

/-- An accumulator with part `k` replaced (PUTA). -/
def accPut (a : BitVec 40) (k : Nat) (v : BitVec 16) : BitVec 40 :=
  if k = 0 then (a &&& 0xFFFFFF0000) ||| v.setWidth 40
  else if k = 1 then (a &&& 0xFF0000FFFF) ||| (v.setWidth 40 <<< 16)
  else (a &&& 0x00FFFFFFFF) ||| ((v.setWidth 8 : BitVec 8).setWidth 40 <<< 32)

/-- Post-modification of Ai by Mi under AMODE's field (R268). -/
def postMod (z : Nat) (a m : BitVec 16) : BitVec 16 :=
  if z = 0 then a + m
  else
    let k : BitVec 16 := BitVec.ofNat 16 (2 ^ z - 1)
    (a &&& ~~~k) ||| ((a + m) &&& k)

/-- Whether a condition holds (R272). -/
def condHolds (b : Bank) : BCond → Bool
  | .al => true | .eq => b.z | .ne => !b.z | .lt => b.n | .ge => !b.n | .gt => !b.n && !b.z | .le => b.n || b.z
  | .cs => b.c | .cc => !b.c | .vs => b.v | .ss => b.s

/-! ### Decoding (R272, R273) -/

/-- A field as a register number. -/
def reg16 (w : Word) (lo : Nat) : Fin 16 := ⟨fld (lo + 3) lo w % 16, Nat.mod_lt _ (by decide)⟩
/-- A field as an address register number. -/
def reg8 (w : Word) (lo : Nat) : Fin 8 := ⟨fld (lo + 2) lo w % 8, Nat.mod_lt _ (by decide)⟩

/-- COND. -/
def condOf : Nat → Option BCond
  | 0 => some .al | 1 => some .eq | 2 => some .ne | 3 => some .lt | 4 => some .ge | 5 => some .gt | 6 => some .le
  | 7 => some .cs | 8 => some .cc | 9 => some .vs | 10 => some .ss | _ => none

/-- The second source of the RR format; none where a reserved bit is set. -/
def rrSrc (w : Word) : Option BSrc :=
  if bitAt 17 w then (if bitAt 16 w then none else some (.imm (w.setWidth 16)))
  else if fld 12 0 w = 0 then some (.reg (reg16 w 13)) else none

/-- IMM16 of an RR word; a word with I = 0 carries none, and 0 stands for it. -/
def rrImm (w : Word) : BitVec 16 := if bitAt 17 w then w.setWidth 16 else 0

/-- An RR instruction that takes no second source; none where a reserved bit of the format is set. -/
def rrOnly (w : Word) (o : Option BOp) : Option BOp := (rrSrc w).bind fun _ => o

/-- The loads of the MAC format. -/
def macLoads (w : Word) : BLoads :=
  { l1 := if bitAt 15 w then some (reg8 w 12, reg16 w 8) else none
    l2 := if bitAt 7 w then some (reg8 w 4, reg16 w 0) else none }

/-- The 16-bit operation of an OP. -/
def aluOf : Nat → Option BAlu
  | 0x01 => some .add | 0x02 => some .sub | 0x03 => some .adds | 0x04 => some .subs | 0x05 => some .and | 0x06 => some .or
  | 0x07 => some .xor | 0x08 => some .shl | 0x09 => some .shra | 0x0A => some .shrl | 0x0C => some .min | 0x0D => some .max
  | 0x0E => some .abs | _ => none

/-- An accumulator part; 3 is no part. -/
def partOf (n : Nat) : Option (Fin 3) := if h : n < 3 then some ⟨n, h⟩ else none

/-- The operation of ACCOP. -/
def accOf (da : Nat) (imm : BitVec 16) : Option BAcc :=
  match da with
  | 0 => some .clr | 1 => some .neg | 2 => some .add | 3 => some .sub
  | 4 => if -40 ≤ imm.toInt ∧ imm.toInt ≤ 40 then some (.shift imm.toInt) else none
  | 5 => some .abs
  | _ => none

/-- The special register of MVX. -/
def specOf (alt : Bool) (w : Word) : Option BSpec :=
  if alt then
    match fld 21 18 w with
    | 0 => some .lk | 1 => some .lc | 2 => some .ls | 3 => some .le | 4 => some .amode | _ => none
  else if fld 21 18 w < 8 then some (.a (reg8 w 18)) else some (.m (reg8 w 18))

/-- A burin instruction word decoded; none faults the core with ILLEGAL (R273). -/
def burDecode (w : Word) : Option BOp :=
  let op := fld 31 26 w
  let imm : BitVec 16 := w.setWidth 16
  match aluOf op with
  | some a => (rrSrc w).map fun s => .alu a (reg16 w 22) (reg16 w 18) s
  | none =>
    if op = 0x00 then some .nop
    else if op = 0x0B then (rrSrc w).map fun s => .cmp (reg16 w 18) s
    else if op = 0x10 then some (.mpy (bitAt 25 w) (reg16 w 20) (reg16 w 16) (macLoads w))
    else if op = 0x11 then some (.mac (bitAt 25 w) (bitAt 24 w) (reg16 w 20) (reg16 w 16) (macLoads w))
    else if op = 0x13 then rrOnly w ((accOf (fld 21 18 w) (rrImm w)).map fun o => .accop (bitAt 22 w) o)
    else if op = 0x14 then rrOnly w (some (.mva (reg16 w 22) (bitAt 18 w)))
    else if op = 0x15 then rrOnly w (some (.mvr (reg16 w 22) (bitAt 18 w) ((rrImm w).setWidth 5)))
    else if op = 0x16 then rrOnly w ((partOf ((rrImm w).toNat % 4)).map fun k => .geta (reg16 w 22) (bitAt 18 w) k)
    else if op = 0x17 then rrOnly w ((partOf ((rrImm w).toNat % 4)).map fun k => .puta (bitAt 22 w) (reg16 w 18) k)
    else if op = 0x18 ∨ op = 0x19 then
      if fld 17 16 w ≠ 0 then none
      else if op = 0x18 then some (.ld (reg16 w 22) (reg8 w 19) (bitAt 18 w) imm)
      else some (.st (reg16 w 22) (reg8 w 19) (bitAt 18 w) imm)
    else if op = 0x1A then rrOnly w (some (.ldi (reg16 w 22) (rrImm w)))
    else if op = 0x1B then
      if fld 15 0 w ≠ 0 then none else (specOf (bitAt 16 w) w).map fun x => .mvx (bitAt 17 w) (reg16 w 22) x
    else
      match condOf (fld 25 22 w) with
      | none => none
      | some c =>
        if op = 0x1C then some (.br c imm)
        else if op = 0x1D then some (.call imm)
        else if op = 0x1E then some .ret
        else if op = 0x1F then
          if c ≠ .al ∨ bitAt 21 w then none
          else if bitAt 20 w then some (.loop (.imm ((w >>> 8).setWidth 8)) (BitVec.ofNat 16 (fld 7 0 w)))
          else some (.loop (.reg (reg16 w 16)) imm)
        else if op = 0x20 then some .rti
        else if op = 0x21 then some .wait
        else if op = 0x22 then some (.sig (reg16 w 16))
        else if op = 0x23 then some (.flag (bitAt 16 w) (bitAt 17 w) (bitAt 18 w))
        else if op = 0x3F then some .brk
        else none

end Sys2Proof.Machine
end

