-- ==== Sys2Proof/Machine/Bur.lean ====
section
/-! DEFINITION. Burin cores at work: registers under R269, the address map and its ports, instructions, activations,
interrupts, the commit port, software sources, transfers, and host control of a core (R263 to R290). -/

namespace Sys2Proof.Machine

/-! ### Grants of the running task (R274, R283) -/

/-- The entry of the task that runs on a core. -/
def Dev.runEntry (d : Dev) (c : Nat) : Option Nat := let x := d.core c; (x.task.bind x.tk).map (·.entry)

/-- The running task holds grant `k` of R283. -/
def Dev.hasGrant (d : Dev) (c k : Nat) : Bool := match d.runEntry c with | some i => d.burReq.tkGrant i k | none => false

/-- The address lies in the running task's RECW area. -/
def Dev.inRecw (d : Dev) (c a : Nat) : Bool :=
  match d.runEntry c with
  | some i => d.burReq.tkGrant i 4 && inWin a (Config.recwAt i) (d.burReq.task i 54 4)
  | none => false

/-- A region that a delivered event names (R277): a validity bitmap, or the beam-power table. -/
def Dev.inNamed (d : Dev) (a : Nat) : Bool :=
  inWin a (loadedAddr pgING 0x1050) (2 * d.burReq.vbmSize)
  || inWin a Config.bpowBase (12 * (d.burReq.ntb * d.burReq.nchan))

/-! ### The fabric window (R274) -/

/-- The 16-bit half of a word at byte offset `o`. -/
def halfOf (w : Word) (o : Nat) : BitVec 16 := (w >>> (8 * (o % 4 / 2 * 2))).setWidth 16

/-- A word with the half at byte offset `o` replaced. -/
def putHalf (w : Word) (o : Nat) (v : BitVec 16) : Word := setFld (8 * (o % 4 / 2 * 2) + 15) (8 * (o % 4 / 2 * 2)) w v.toNat

/-- A read by a core at a device byte address: none where R274 does not allow it; else the word, whether the access
failed (data zero, FE), and the device. -/
def Dev.burDevRead (d : Dev) (c a : Nat) : Option (BitVec 16 × Bool × Dev) :=
  if inWin a Config.bar0At (2 ^ 24) then
    let o := a - Config.bar0At
    if pageExists (o / 0x10000) && decide (o % 0x10000 < 0x1000) then
      some (halfOf (d.readReg 6 (o / 0x10000) (o % 0x10000 / 4 * 4)) o, false, d)
    else none
  else if d.inNamed a || d.inRecw c a then
    match whereIs a with
    | .mem | .slot _ _ =>
      if !d.memServes then some (0, true, d.fabErr 6 0 3)
      else
        let (l, p, d) := (d.fabAccept a 2).memRead a 2 [] []
        if p then some (0, true, d.fabErr 6 0 1) else some (BitVec.ofNat 16 (leNat l), false, d)
    | w => some (BitVec.ofNat 16 (leNat (d.onDieBytes w 2)), false, d)
  else none

/-- What breaks a write of the shadow registers `RAMP` and `EGSESSION` (R220, R221, R225). -/
def Dev.bmfShadowErrs (d : Dev) (o : Nat) (v : Word) : List Code :=
  (if o = 0x8000 then when' (v >>> 7 ≠ 0) eRSVD ++ when' (fld 6 0 v < 1 || 64 < fld 6 0 v) eRANGE
   else when' (v >>> 16 ≠ 0) eRSVD)
  ++ when' ((d.page pgBMF).locked) eLOCK

/-- A write of a BMF shadow register. -/
def Dev.bmfShadowWrite (d : Dev) (o : Nat) (v : Word) : Dev :=
  d.guard pgBMF o (d.bmfShadowErrs o v) fun d => d.setReg (bar pgBMF o) v

/-- A write by a core at a device byte address: none where R274 does not allow it; else whether the access failed. -/
def Dev.burDevWrite (d : Dev) (c a : Nat) (v : BitVec 16) : Option (Bool × Dev) :=
  let bytes := leBytes 2 v.toNat
  if inWin a Config.bar0At (2 ^ 24) then
    let o := a - Config.bar0At
    let p := o / 0x10000
    let r := o % 0x10000 / 4 * 4
    if p = pgMSP && decide (0xC000 ≤ r ∧ r < 0xC380) && d.hasGrant c 3 then
      let w := (r - 0xC000) / 4
      some (false, { d with monword := Tab.set 0 d.monword w (putHalf (Tab.get 0 d.monword w) o v) })
    else if p = pgBMF && (r == 0x8000 || r == 0x8004) && d.hasGrant c 0 then
      some (false, d.bmfShadowWrite r (putHalf (d.reg (bar pgBMF r)) o v))
    else none
  else if d.inRecw c a then
    if !d.memServes then some (true, d.fabErr 6 0 3) else some (false, (d.fabAccept a 2).memWrite a bytes)
  else match whereIs a with
    | .bmf true o => if d.hasGrant c 0 then some (false, d.bmfTableWrite true o bytes) else none
    | .trg true o => if d.hasGrant c 1 then some (false, d.trgTableWrite true o bytes) else none
    | _ => none

/-- FE is set (R274). -/
def Dev.setFe (d : Dev) (c : Nat) (b : Bool) : Dev := if b then d.setCore c { d.core c with fe := true } else d

/-! ### The commit port and software sources (R280, R281) -/

/-- A core's ports take a value. -/
def Dev.setPorts (d : Dev) (c : Nat) (p : Ports) : Dev := d.setCore c { d.core c with ports := p }

/-- The boundary is one of WHEN's kind (R24). -/
def Dev.onBoundary (d : Dev) (k : Nat) (t : Sfn) : Bool :=
  let r := d.req
  let m := if k = 1 then r.lf else if k = 2 then r.ks else r.ream
  let anchor := if k = 3 then d.run.reamAt else d.run.s0
  decide ((t - anchor).toNat % max 1 m = 0)

/-- What refuses the commit that a core's port describes (R280, R529). -/
def Dev.cmtErrs (d : Dev) (c : Nat) (num : BitVec 16) : List Code :=
  let q := (d.core c).ports
  let p := q.cmtPage.toNat
  let w := q.cmtWhen.toNat
  let grant := (p == pgBMF && d.hasGrant c 0) || (p == pgTRG && d.hasGrant c 1)
  when' (!grant) ePERM
  ++ when' (w < 1 || 3 < w || !d.whenOk p w) eCOMBO
  ++ when' (!d.onBoundary w q.cmtSfn || !atOrAfter q.cmtSfn (d.time.sfn + BitVec.ofNat 48 d.w)) eRANGE
  ++ when' (!d.run.live) eSTATE
  ++ when' ((d.page p).armed.isSome || (d.page p).locked) eLOCK
  ++ when' (num != (d.page p).lastTicket + 1) eSEQ

/-- CMT_GO: a task arms a commit (R280). -/
def Dev.cmtGo (d : Dev) (c : Nat) (num : BitVec 16) : Dev :=
  let q := (d.core c).ports
  match firstCode (d.cmtErrs c num) with
  | some e =>
    let d := d.setPorts c { q with cmtStat := e.setWidth 16 ||| 0x100 }
    (d.burCnt c 0x128).raise (burPage c) 0x2
  | none =>
    let d := d.setPorts c { q with cmtStat := 0x100 }
    (d.burCnt c 0x120).armTicket q.cmtPage.toNat { num := num, when := q.cmtWhen.toNat, target := q.cmtSfn }

/-- The next time block whose software sources TRG expects (R248, R281). -/
def Dev.swExpected (d : Dev) : Sfn :=
  let i := d.trg.next
  let r := d.reqAt (d.run.s0 + BitVec.ofNat 48 (i * 2 ^ d.trgA))
  let past := fun (b : Sfn) => d.trg.sw.any (·.1 == b) || d.trg.late.contains b
  (List.range (d.trg.sw.length + d.trg.late.length)).foldl
    (fun b _ => if past b then b + BitVec.ofNat 48 r.lf else b) (d.tickBlock r i)

/-- SW_POST: a block of software sources is delivered, or discarded (R281). -/
def Dev.swPost (d : Dev) (c : Nat) : Dev :=
  let q := (d.core c).ports
  let r := d.reqAt q.swSfn
  if d.run.live && r.trigMode && usesSw (d.trgTblAt q.swSfn) && d.hasGrant c 2 && q.swSfn == d.swExpected then
    let n := r.lf / 2 ^ r.tA
    let v := (List.range n).map fun j => (Tab.get (0 : BitVec 16) q.swBits (j / 4)).toNat / 16 ^ (j % 4) % 16
    ({ d with trg.sw := d.trg.sw ++ [(q.swSfn, v)] }).burCnt c 0x130
  else d.burCnt c 0x138

/-! ### Transfers (R275) -/

/-- The words of a transfer are admitted (R275). -/
def Dev.xfOk (d : Dev) (c : Nat) (dir : Bool) : Bool :=
  let q := (d.core c).ports
  let n := q.xfWords.toNat
  decide (1 ≤ n ∧ n ≤ 16384 ∧ q.xfLocal.toNat + n ≤ 32768) && q.xfDev.toNat % 2 == 0
  && (List.range n).all fun i =>
      let a := q.xfDev.toNat + 2 * i
      if dir then (d.burDevWrite c a 0).isSome else (d.burDevRead c a).isSome

/-- XF_GO: a transfer starts; while one is busy it is ignored (R275). -/
def Dev.xfGo (d : Dev) (c : Nat) (dir : Bool) : Dev :=
  let q := (d.core c).ports
  if q.xfBusy || !d.xfOk c dir then d.burCnt c 0x138
  else d.setPorts c { q with xfDir := dir, xfBusy := true, xfFe := false }

/-- One word of a transfer. -/
def Dev.xfWord (d : Dev) (c i : Nat) : Dev :=
  let q := (d.core c).ports
  let a := q.xfDev.toNat + 2 * i
  let fail := fun (d : Dev) => d.setPorts c { (d.core c).ports with xfFe := true }
  if q.xfDir then
    match d.burDevWrite c a ((d.core c).dWord (q.xfLocal.toNat + i)) with
    | some (bad, d) => if bad then fail d else d
    | none => fail d
  else
    let put := fun (v : BitVec 16) (d : Dev) => d.setCore c ((d.core c).setD (q.xfLocal.toNat + i) v)
    match d.burDevRead c a with
    | some (v, bad, d) => if bad then fail (put 0 d) else put v d
    | none => fail (put 0 d)

/-- XF_DONE: the transfer completes and BUSY clears (R275). -/
def Dev.xfDone (d : Dev) (c : Nat) : Dev :=
  let q := (d.core c).ports
  if q.xfBusy then
    let d := (List.range q.xfWords.toNat).foldl (fun d i => d.xfWord c i) d
    let fe := (d.core c).ports.xfFe
    (d.setPorts c { (d.core c).ports with xfBusy := false }).setFe c fe
  else d

/-! ### The port block (R275) -/

/-- The oldest inbound mailbox word leaves; an empty mailbox reads as 0. -/
def Dev.mbxPop (d : Dev) (c : Nat) : BitVec 16 × Dev :=
  let x := d.core c
  match x.mbxIn with
  | [] => (0, d)
  | w :: t => (w, d.setCore c { x with mbxIn := t })

/-- A 16-bit part of a 48-bit port value. -/
def part48 (v : BitVec 48) (i : Nat) : BitVec 16 := (v >>> (16 * i)).setWidth 16
/-- A 48-bit port value with a part replaced. -/
def put48 (v : BitVec 48) (i : Nat) (w : BitVec 16) : BitVec 48 :=
  (v &&& ~~~(BitVec.ofNat 48 (0xFFFF <<< (16 * i)))) ||| (w.setWidth 48 <<< (16 * i))

/-- A read of a port word; a word R275 does not list reads as a free value. -/
def Dev.portRead (d : Dev) (c a : Nat) : BitVec 16 × Dev :=
  let x := d.core c
  let q := x.ports
  if a = 0x8000 then d.mbxPop c
  else if a = 0x8001 then (BitVec.ofNat 16 (x.mbxIn.length + x.mbxOut.length * 256), d)
  else if a = 0x8002 then
    let t : BitVec 48 := d.time.loc.setWidth 48
    (part48 t 0, d.setPorts c { q with localNow := t })
  else if a = 0x8003 ∨ a = 0x8004 then (part48 q.localNow (a - 0x8002), d)
  else if a = 0x8010 then (q.cmtPage, d)
  else if a = 0x8011 then (q.cmtWhen, d)
  else if 0x8012 ≤ a ∧ a ≤ 0x8014 then (part48 q.cmtSfn (a - 0x8012), d)
  else if a = 0x8016 then (q.cmtStat, d)
  else if 0x8020 ≤ a ∧ a ≤ 0x8022 then (part48 q.swSfn (a - 0x8020), d)
  else if 0x8023 ≤ a ∧ a ≤ 0x8032 then (Tab.get 0 q.swBits (a - 0x8023), d)
  else if a = 0x8040 then (q.xfLocal, d)
  else if 0x8041 ≤ a ∧ a ≤ 0x8043 then (part48 q.xfDev (a - 0x8041), d)
  else if a = 0x8044 then (q.xfWords, d)
  else if a = 0x8046 then (BitVec.ofNat 16 (b2n q.xfBusy + 2 * b2n q.xfFe), d)
  else if a = 0x8050 then (q.fwBase, d)
  else if a = 0x8060 then (q.tmInterval, d)
  else
    let (v, d) := d.fresh
    (BitVec.ofNat 16 v, d)

/-- A write of a port word; words that cannot be written keep their content. -/
def Dev.portWrite (d : Dev) (c a : Nat) (v : BitVec 16) : Dev :=
  let q := (d.core c).ports
  let put := fun (q : Ports) => d.setPorts c q
  if a = 0x8010 then put { q with cmtPage := v }
  else if a = 0x8011 then put { q with cmtWhen := v }
  else if 0x8012 ≤ a ∧ a ≤ 0x8014 then put { q with cmtSfn := put48 q.cmtSfn (a - 0x8012) v }
  else if a = 0x8015 then d.cmtGo c v
  else if 0x8020 ≤ a ∧ a ≤ 0x8022 then put { q with swSfn := put48 q.swSfn (a - 0x8020) v }
  else if 0x8023 ≤ a ∧ a ≤ 0x8032 then put { q with swBits := Tab.set 0 q.swBits (a - 0x8023) v }
  else if a = 0x8033 then d.swPost c
  else if a = 0x8040 then put { q with xfLocal := v }
  else if 0x8041 ≤ a ∧ a ≤ 0x8043 then put { q with xfDev := put48 q.xfDev (a - 0x8041) v }
  else if a = 0x8044 then put { q with xfWords := v }
  else if a = 0x8045 then d.xfGo c (v != 0)
  else if a = 0x8050 then put { q with fwBase := v }
  else if a = 0x8060 then
    let d := put { q with tmInterval := v }
    d.setCore c { d.core c with timerAt := d.time.loc }
  else d

/-! ### Loads and stores (R268, R274) -/

/-- The device byte address of a fabric-window word. -/
def Dev.fwAddr (d : Dev) (c a : Nat) : Nat := (d.core c).ports.fwBase.toNat * 32768 + (a - 0xC000) * 2

/-- A load at a word address: the word, or the fault code of R287. -/
def Dev.burLoad (d : Dev) (c a : Nat) : (BitVec 16 ⊕ Nat) × Dev :=
  if a < 0x8000 then (.inl ((d.core c).dWord a), d)
  else if a < 0x8100 then let (v, d) := d.portRead c a; (.inl v, d)
  else if a < 0xC000 then (.inr 2, d)
  else match d.burDevRead c (d.fwAddr c a) with
    | some (v, bad, d) => (.inl v, d.setFe c bad)
    | none => (.inr 3, d)

/-- A store at a word address: a fault code, or none. -/
def Dev.burStore (d : Dev) (c a : Nat) (v : BitVec 16) : Option Nat × Dev :=
  if a < 0x8000 then (none, d.setCore c ((d.core c).setD a v))
  else if a < 0x8100 then (none, d.portWrite c a v)
  else if a < 0xC000 then (some 2, d)
  else match d.burDevWrite c (d.fwAddr c a) v with
    | some (bad, d) => (none, d.setFe c bad)
    | none => (some 3, d)

/-! ### Registers (R264, R269) -/

/-- A free 16-bit value. -/
def Dev.free16 (d : Dev) : BitVec 16 × Dev := let (v, d) := d.fresh; (BitVec.ofNat 16 v, d)

/-- A data register as an instruction reads it: a free value where the instruction before has just written it (R269). -/
def Dev.rdD (d : Dev) (b : Bank) (i : Fin 16) : BitVec 16 × Dev :=
  if b.fresh.contains (.d i) then d.free16 else (Tab.get 0 b.dr i, d)
/-- An address register as an instruction reads it. -/
def Dev.rdA (d : Dev) (b : Bank) (i : Fin 8) : BitVec 16 × Dev :=
  if b.fresh.contains (.a i) then d.free16 else (Tab.get 0 b.ar i, d)
/-- An offset register as an instruction reads it. -/
def Dev.rdM (d : Dev) (b : Bank) (i : Fin 8) : BitVec 16 × Dev :=
  if b.fresh.contains (.m i) then d.free16 else (Tab.get 0 b.mr i, d)

/-- The second source of an RR instruction. -/
def Dev.rdS (d : Dev) (b : Bank) : BSrc → BitVec 16 × Dev
  | .reg i => d.rdD b i
  | .imm v => (v, d)

/-- A data register is written. -/
def Bank.wrD (b : Bank) (i : Fin 16) (v : BitVec 16) : Bank := { b with dr := Tab.set 0 b.dr i v }
/-- An address register is written. -/
def Bank.wrA (b : Bank) (i : Fin 8) (v : BitVec 16) : Bank := { b with ar := Tab.set 0 b.ar i v }
/-- An offset register is written. -/
def Bank.wrM (b : Bank) (i : Fin 8) (v : BitVec 16) : Bank := { b with mr := Tab.set 0 b.mr i v }
/-- An accumulator. -/
def Bank.acc (b : Bank) (one : Bool) : BitVec 40 := if one then b.ac1 else b.ac0
/-- An accumulator is written. -/
def Bank.wrAcc (b : Bank) (one : Bool) (v : BitVec 40) : Bank := if one then { b with ac1 := v } else { b with ac0 := v }
/-- An accumulator takes an exact result; V is set where it lies outside 40 bits (R265). -/
def Bank.putAcc (b : Bank) (satMode one : Bool) (v : Int) : Bank :=
  let (a, o) := acc40 satMode v
  { b.wrAcc one a with v := b.v || o }
/-- The AMODE field of an address register (R268). -/
def Bank.amodeOf (b : Bank) (i : Fin 8) : Nat := fld (4 * i + 3) (4 * i) b.amode
/-- Z and N of a result. -/
def Bank.zn (b : Bank) (v : BitVec 16) : Bank := { b with z := v == 0, n := v.msb }

/-- What an instruction leaves: a fault; or its bank, the registers it has written, its branch target, and the place
where a LOOP of no iterations continues. -/
inductive BRes where
  | fault (code : Nat)
  | done (b : Bank) (w : List BReg) (tgt : Option (BitVec 13)) (jump : Option (BitVec 13))
  | wait
  | rti
  deriving DecidableEq, Repr

/-- SAT of `CMODE`. -/
def Core.sat (x : Core) : Bool := bitAt 8 x.cmode

/-- A 16-bit operation: flags by R267; C is a free value where the spec gives none. -/
def Dev.aluOp (d : Dev) (b : Bank) (op : BAlu) (dd da : Fin 16) (s : BSrc) : BRes × Dev :=
  let (x, d) := d.rdD b da
  let (y, d) := d.rdS b s
  let o := aluRun op x y
  let (cf, d) := match o.c with
    | some v => (v, d)
    | none => let (v, d) := d.fresh; (v % 2 == 1, d)
  (.done { (b.zn o.val).wrD dd o.val with c := cf, s := b.s || o.sat } [.d dd] none none, d)

/-- One load of the MAC format: the loaded word and the post-modified address (R268, R272). -/
def Dev.macLoad (d : Dev) (c : Nat) (b : Bank) (l : Option (Fin 8 × Fin 16)) :
    (Option (Fin 8 × Fin 16 × BitVec 16 × BitVec 16) ⊕ Nat) × Dev :=
  match l with
  | none => (.inl none, d)
  | some (ai, dp) =>
    let (a, d) := d.rdA b ai
    let (m, d) := d.rdM b ai
    match d.burLoad c a.toNat with
    | (.inl v, d) => (.inl (some (ai, dp, v, postMod (b.amodeOf ai) a m)), d)
    | (.inr k, d) => (.inr k, d)

/-- A MAC-format instruction: the accumulator from the product, and the loads. Two loads of one destination leave a free
value in it. -/
def Dev.macOp (d : Dev) (c : Nat) (b : Bank) (one : Bool) (da db : Fin 16) (l : BLoads) (f : Int → Int) : BRes × Dev :=
  let (x, d) := d.rdD b da
  let (y, d) := d.rdD b db
  match d.macLoad c b l.l1 with
  | (.inr k, d) => (.fault k, d)
  | (.inl r1, d) =>
    match d.macLoad c b l.l2 with
    | (.inr k, d) => (.fault k, d)
    | (.inl r2, d) =>
      let b := b.putAcc (d.core c).sat one (f (x.toInt * y.toInt))
      let put := fun (r : Option (Fin 8 × Fin 16 × BitVec 16 × BitVec 16)) (b : Bank) =>
        match r with | some (ai, dp, v, a) => (b.wrD dp v).wrA ai a | none => b
      let regs := fun (r : Option (Fin 8 × Fin 16 × BitVec 16 × BitVec 16)) =>
        match r with | some (ai, dp, _, _) => [BReg.d dp, BReg.a ai] | none => []
      let b := put r2 (put r1 b)
      match l.l1, l.l2 with
      | some (_, p), some (_, q) =>
        if p = q then
          let (v, d) := d.free16
          (.done (b.wrD p v) (regs r1 ++ regs r2) none none, d)
        else (.done b (regs r1 ++ regs r2) none none, d)
      | _, _ => (.done b (regs r1 ++ regs r2) none none, d)

/-- A scaled move to a data register (R266). -/
def movOp (b : Bank) (dd : Fin 16) (ac : Bool) (k : Nat) : BRes :=
  let (v, o) := accMove k (b.acc ac)
  .done { b.wrD dd v with s := b.s || o } [.d dd] none none

/-- The address of an LD or ST, and the bank with Ai post-modified where PM asks for it (R268). -/
def Dev.memAddr (d : Dev) (b : Bank) (ai : Fin 8) (pm : Bool) (ofs : BitVec 16) : Nat × Bank × List BReg × Dev :=
  let (a, d) := d.rdA b ai
  if pm then
    let (m, d) := d.rdM b ai
    (a.toNat, b.wrA ai (postMod (b.amodeOf ai) a m), [.a ai], d)
  else ((a + ofs).toNat, b, [], d)

/-- A special register as MVX reads it (R273). -/
def Dev.rdSpec (d : Dev) (b : Bank) : BSpec → BitVec 16 × Dev
  | .a i => d.rdA b i
  | .m i => d.rdM b i
  | .lk => (b.lk, d)
  | .lc => (b.lc, d)
  | .ls => (b.ls, d)
  | .le => (b.le, d)
  | .amode => (b.amode.setWidth 16, d)

/-- MVX to a special register. AMODE is wider than the word: its upper half takes a free value. -/
def Dev.wrSpec (d : Dev) (b : Bank) (v : BitVec 16) : BSpec → Bank × List BReg × Dev
  | .a i => (b.wrA i v, [.a i], d)
  | .m i => (b.wrM i v, [.m i], d)
  | .lk => ({ b with lk := v }, [], d)
  | .lc => ({ b with lc := v }, [], d)
  | .ls => ({ b with ls := v }, [], d)
  | .le => ({ b with le := v }, [], d)
  | .amode => let (h, d) := d.free16; ({ b with amode := h ++ v }, [], d)

/-- A branch target: OFS from the instruction after the branch. -/
def branchTo (b : Bank) (ofs : BitVec 16) : BitVec 13 := b.pc + 1 + ofs.setWidth 13

/-- LOOP (R270, R273). -/
def Dev.loopOp (d : Dev) (b : Bank) (n : BCount) (len : BitVec 16) : BRes × Dev :=
  if b.loop then (.fault 5, d)
  else
    let (k, d) := match n with
      | .reg i => d.rdD b i
      | .imm v => (v.setWidth 16, d)
    let ls : BitVec 13 := b.pc + 1
    let le := ls + len.setWidth 13
    let b := { b with lc := k, ls := ls.setWidth 16, le := le.setWidth 16, loop := k != 0 }
    (.done b [] none (if k = 0 then some (le + 1) else none), d)

/-- SIG: a word enters the outbound mailbox, or is dropped when it is full (R273, R291, R292). -/
def Dev.sigOp (d : Dev) (c : Nat) (w : BitVec 16) : Dev :=
  let x := d.core c
  if 16 ≤ x.mbxOut.length then d.burCnt c 0x148
  else
    let d := d.setCore c { x with mbxOut := x.mbxOut ++ [w] }
    if x.mbxOut.isEmpty then d.raise (burPage c) 0x8 else d

/-- What one instruction does, before the program counter moves (R265 to R273). -/
def Dev.burEffect (d : Dev) (c : Nat) (op : BOp) : BRes × Dev :=
  let x := d.core c
  let b := x.bank
  let same := fun (b : Bank) => (BRes.done b [] none none, d)
  match op with
  | .nop => same b
  | .alu op dd da s => d.aluOp b op dd da s
  | .cmp da s =>
    let (p, d) := d.rdD b da
    let (q, d) := d.rdS b s
    (.done { b.zn (p - q) with c := subCarry p q } [] none none, d)
  | .mpy ac da db l => d.macOp c b ac da db l fun p => p
  | .mac ac neg da db l => d.macOp c b ac da db l fun p => (b.acc ac).toInt + (if neg then -p else p)
  | .accop ac op => same (b.putAcc x.sat ac (accRun op (b.acc ac).toInt (b.acc (!ac)).toInt))
  | .mva dd ac => (movOp b dd ac (mvaShift x.cmode), d)
  | .mvr dd ac k => (movOp b dd ac k.toNat, d)
  | .geta dd ac k => (.done (b.wrD dd (accPart (b.acc ac) k)) [.d dd] none none, d)
  | .puta ac da k =>
    let (v, d) := d.rdD b da
    (.done (b.wrAcc ac (accPut (b.acc ac) k v)) [] none none, d)
  | .ld dd ai pm ofs =>
    let (a, b, w, d) := d.memAddr b ai pm ofs
    match d.burLoad c a with
    | (.inl v, d) => (.done (b.wrD dd v) (.d dd :: w) none none, d)
    | (.inr k, d) => (.fault k, d)
  | .st dd ai pm ofs =>
    let (v, d) := d.rdD b dd
    let (a, b, w, d) := d.memAddr b ai pm ofs
    match d.burStore c a v with
    | (none, d) => (.done b w none none, d)
    | (some k, d) => (.fault k, d)
  | .ldi dd v => (.done (b.wrD dd v) [.d dd] none none, d)
  | .mvx toSpec dd sp =>
    if toSpec then
      let (v, d) := d.rdD b dd
      let (b, w, d) := d.wrSpec b v sp
      (.done b w none none, d)
    else
      let (v, d) := d.rdSpec b sp
      (.done (b.wrD dd v) [.d dd] none none, d)
  | .br cnd ofs => (.done b [] (if condHolds b cnd then some (branchTo b ofs) else none) none, d)
  | .call ofs => (.done { b with lk := (b.pc + 2).setWidth 16 } [] (some (branchTo b ofs)) none, d)
  | .ret => (.done b [] (some (b.lk.setWidth 13)) none, d)
  | .loop n len => d.loopOp b n len
  | .rti => (if x.bank1 then .rti else .fault 6, d)
  | .wait => (if x.bank1 then .fault 6 else .wait, d)
  | .sig i =>
    let (v, d) := d.rdD b i
    (.done b [] none none, d.sigOp c v)
  | .flag cv cs cf =>
    let d := if cf then d.setCore c { x with fe := false } else d
    (.done { b with v := b.v && !cv, s := b.s && !cs } [] none none, d)
  | .brk => (.fault 7, d)

/-! ### Sequencing (R270, R271) -/

/-- Where a bank goes after an instruction: the delayed branch target, the loop's start, or the next instruction. -/
def Bank.advance (b : Bank) (w : List BReg) (tgt jump : Option (BitVec 13)) : Bank :=
  let inBody := fun (t : BitVec 13) => decide (b.ls.toNat ≤ t.toNat ∧ t.toNat ≤ b.le.toNat)
  let b := { b with fresh := w }
  match b.delay with
  | some t => { b with pc := t, delay := tgt, loop := b.loop && inBody t }
  | none =>
    match jump with
    | some t => { b with pc := t, delay := tgt }
    | none =>
      if b.loop && b.pc.toNat == b.le.toNat then
        if b.lc.toNat ≤ 1 then { b with pc := b.pc + 1, delay := tgt, lc := 0, loop := false }
        else { b with pc := b.ls.setWidth 13, delay := tgt, lc := b.lc - 1 }
      else { b with pc := b.pc + 1, delay := tgt }

/-- The bank after an instruction that does not branch. -/
def Bank.step (b : Bank) : Bank := b.advance [] none none

/-- The core halts where `CCTL.HALT` asks for it: at a boundary in bank 0 that is not a delay slot (R271, R289). -/
def Core.haltDue (x : Core) : Core :=
  if x.halt && x.state == .run && !x.bank1 && x.b0.delay.isNone then { x with state := .halted, held := .run } else x

/-- The record of a delivered event is freed in its task's ring. -/
def Core.freeRec (x : Core) (e : BEvent) : Core :=
  { x with tasks := x.tasks.modify e.task fun p => { p with ringUsed := p.ringUsed - e.words } }

/-- WAIT ends the activation (R278). -/
def Dev.burWait (d : Dev) (c : Nat) : Dev :=
  let x0 : Core := d.core c
  let x : Core := match x0.running with | some e => x0.freeRec e | none => x0
  let done := x0.running.isSome
  let st := if x.halt then { x with state := .halted, held := .wait } else { x with state := .wait }
  let d := d.setCore c { st with b0 := x.b0.step, running := none, task := none }
  if done then d.burCnt c 0x100 else d

/-- RTI returns to bank 0 (R271). -/
def Dev.burRti (d : Dev) (c : Nat) : Dev :=
  let x := d.core c
  let x : Core := { x with b1 := x.b1.step, bank1 := false, state := x.irqFrom
                           task := x.running.map fun (e : BEvent) => e.task }
  d.setCore c (if x.halt && x.state == .wait then { x with state := .halted, held := .wait } else x.haltDue)

/-- Cycles of an instruction: a second one where two loads of one MAC meet in one data memory bank (R268). -/
def Core.cyclesOf (x : Core) (op : BOp) : Nat :=
  let two := fun (l : BLoads) =>
    match l.l1, l.l2 with
    | some (i, _), some (j, _) =>
      b2n (decide ((Tab.get (0 : BitVec 16) x.bank.ar i).toNat % 4 = (Tab.get (0 : BitVec 16) x.bank.ar j).toNat % 4))
    | _, _ => 0
  match op with
  | .mpy _ _ _ l => 1 + two l
  | .mac _ _ _ _ l => 1 + two l
  | _ => 1

/-- One instruction of a core that runs. -/
def Dev.burRun (d : Dev) (c : Nat) (op : BOp) : Dev :=
  let n := (d.core c).cyclesOf op
  let d := d.setCore c { d.core c with cyc := (d.core c).cyc + n }
  let (r, d) := d.burEffect c op
  match r with
  | .fault k => d.burFault c k
  | .wait => d.burWait c
  | .rti => d.burRti c
  | .done b w tgt jump => d.setCore c ((d.core c).setBank (b.advance w tgt jump)).haltDue

/-- A core in RUN issues the instruction at its program counter, which is `op`; a reserved word there faults the core
(R273, R287). A core in any other state issues nothing, and a core issues no other instruction than the one there. -/
def Dev.burExec (d : Dev) (c : Nat) (op : BOp) : Dev :=
  let x := d.core c
  if x.state = .run then
    match burDecode (x.pWord x.bank.pc.toNat) with
    | none => d.burFault c 1
    | some o => if o = op then d.burRun c o else d
  else d

/-- A core that STEP left in RUN or WAIT is HALTED again, and resumes into that state. -/
def Core.rehalt (y : Core) : Core :=
  if y.state == .run || y.state == .wait then { y with state := .halted, held := y.state } else y

/-- CCTL.STEP: one instruction from HALTED, fetched from program memory (R289). -/
def Dev.burSingle (d : Dev) (c : Nat) : Dev :=
  if (d.core c).state == .halted then
    let e := d.setCore c { d.core c with state := .run }
    let e := match burDecode ((d.core c).pWord (d.core c).bank.pc.toNat) with
      | some op => e.burRun c op
      | none => e.burFault c 1
    e.setCore c (e.core c).rehalt
  else d

/-! ### Activations and interrupts (R271, R277, R278) -/

/-- The key of R278, as a number of its order: stamp relative to S0, kind, channel group. -/
def Dev.evKey (d : Dev) (stamp : Sfn) (kind group : Nat) : Nat :=
  (((stamp - d.run.s0).toInt + 2 ^ 47).toNat * 16 + kind) * 64 + group

/-- The least keys that events of an ORDERED task's subscriptions can still have (R65, R241, R25, R30, R282). -/
def Dev.keysToCome (d : Dev) (c i : Nat) : List Nat :=
  let r := d.burReq
  if !d.run.live then []
  else
    let ended := fun (s : Sfn) => match d.run.bLast with | some b => after s b | none => false
    let key := fun (k g : Nat) (s : Sfn) => if r.tkSubs i k && !ended s then [d.evKey s k g] else []
    let lf := BitVec.ofNat 48 r.lf
    ((List.range 16).flatMap fun g => if r.task i 38 2 / 2 ^ g % 2 = 1 then key evFSPOW g (d.closedTo g + lf) else [])
    ++ (if r.trigMode then key evTRGY 0 (d.tickBlock r d.trg.next + lf) else [])
    ++ key evSHEET 0 (d.run.sheetAt + BitVec.ofNat 48 r.ks)
    ++ key evBPOW 0 (d.run.sheetAt + BitVec.ofNat 48 r.ks)
    ++ (if r.tkSubs i evLATCH then [d.evKey (d.reamEnd + BitVec.ofNat 48 r.ks) evLATCH 0] else [])
    ++ (match (d.page (burPage c)).armed with | some k => key evPARAM 0 k.target | none => [])

/-- A queued event may be delivered now: at once to a PROMPT task, and by R278's order to an ORDERED one. -/
def Dev.evReady (d : Dev) (c : Nat) (e : BEvent) : Bool :=
  let x := d.core c
  match x.tk e.task with
  | none => false
  | some p =>
    let r := d.burReq
    if !r.tkOrdered p.entry || e.kind == evSTART then true
    else
      let k := d.evKey e.stamp e.kind e.group
      let key := fun (q : BEvent) => d.evKey q.stamp q.kind q.group
      (x.queue.all fun q => q.task != e.task || decide (k ≤ key q)) && (d.keysToCome c p.entry).all fun j => decide (k ≤ j)

/-- BURIN_ACTIVATION: a core in WAIT begins the first event that may be delivered (R278). -/
def Dev.burActivate (d : Dev) (c : Nat) : Dev :=
  let x := d.core c
  if x.state ≠ .wait ∨ x.bank1 then d
  else
    match x.queue.find? fun e => d.evReady c e with
    | none => d
    | some e =>
      match x.tk e.task with
      | none => d
      | some p =>
        let r := d.burReq
        let (a0, d) := if e.words = 0 then d.free16 else (BitVec.ofNat 16 e.addr, d)
        let ent := if e.kind = evSTART ∧ e.flags % 2 = 1 then r.task p.entry 28 2 else r.task p.entry 26 2
        let b := ((x.b0.wrD 0 (BitVec.ofNat 16 (e.kind + e.flags * 256))).wrD 1 (BitVec.ofNat 16 e.task)).wrA 0 a0
        let b := { b.wrA 7 (BitVec.ofNat 16 p.data) with
          pc := BitVec.ofNat 13 (p.prog + ent), delay := none, fresh := [], loop := false }
        d.setCore c { x with b0 := b, queue := x.queue.erase e, running := some e, task := some e.task, state := .run
                             loss := false }

/-- An interrupt becomes pending on a core that is clocked. -/
def Core.irq (x : Core) (kind task : Nat) : Core :=
  if x.irqs.contains (kind, task) then x else { x with irqs := x.irqs ++ [(kind, task)] }

/-- The tasks that an interrupt kind reaches: those that subscribe it; a free core takes it as task 0 (R277, R290). -/
def Dev.irqTasks (d : Dev) (c kind : Nat) : List Nat :=
  let x := d.core c
  if x.tasks.isEmpty then [0]
  else (List.range x.tasks.length).filter fun t =>
    match x.tk t with | some p => d.burReq.tkSubs p.entry kind | none => false

/-- The core is clocked: it can take an interrupt. -/
def Core.clocked (x : Core) : Bool := x.state == .run || x.state == .wait || x.state == .halted

/-- The pending interrupt of the lowest source. -/
def Core.nextIrq (x : Core) : Option (Nat × Nat) :=
  x.irqs.foldl (fun m e => match m with
    | none => some e
    | some b => if e.1 < b.1 ∨ (e.1 = b.1 ∧ e.2 < b.2) then some e else some b) none

/-- BURIN_IRQ_TAKEN: a pending interrupt is taken at a boundary in bank 0 that is not a delay slot (R271). -/
def Dev.burIrq (d : Dev) (c : Nat) : Dev :=
  let x := d.core c
  if x.bank1 ∨ !(x.state == .run || x.state == .wait) ∨ x.b0.delay.isSome then d
  else
    match x.nextIrq with
    | none => d
    | some q =>
      let pc := match x.tk q.2 with
        | some p => BitVec.ofNat 13 (p.prog + d.burReq.task p.entry 30 2)
        | none => x.b1.pc
      let x := { x with irqs := x.irqs.erase q, bank1 := true, irqFrom := x.state, state := .run
                        b0 := { x.b0 with fresh := [] }, b1 := { x.b1 with pc := pc, delay := none, fresh := [] }
                        task := if x.tasks.isEmpty then none else some q.2 }
      (d.setCore c x).burCnt c 0x108

/-- BURIN_TIMER: a core's TIMER period has elapsed (R275, R277). -/
def Dev.burTimer (d : Dev) (c : Nat) : Dev :=
  let x := d.core c
  let n := x.ports.tmInterval.toNat * 1000
  if n = 0 ∨ !x.clocked ∨ (d.time.loc - x.timerAt).toNat < n then d
  else
    let x := (d.irqTasks c evTIMER).foldl (fun x t => x.irq evTIMER t) x
    d.setCore c { x with timerAt := x.timerAt + BitVec.ofNat 64 n }

/-! ### Host control (R287 to R290) -/

/-- MBXIN_WRITE: the host pushes a word, and MBOX becomes pending for its task (R278, R290). -/
def Dev.mbxinWrite (d : Dev) (c : Nat) (v : Word) : Dev :=
  let x := d.core c
  d.guard (burPage c) (0x1118 + 0x40 * (c % 16))
    (when' (v >>> 16 ≠ 0) eRSVD ++ when' (!x.tasks.isEmpty && noStepState d.sys.state) 0x10
      ++ when' (16 ≤ x.mbxIn.length) eBUSY) fun d =>
    let t := fld 15 13 v
    let x := { x with mbxIn := x.mbxIn ++ [v.setWidth 16] }
    let on := x.clocked && (x.tasks.isEmpty || (d.irqTasks c evMBOX).contains t)
    d.setCore c (if on then x.irq evMBOX (if x.tasks.isEmpty then 0 else t) else x)

/-- `CCTL.HALT` = 1 (R289, R290). -/
def Core.haltOn (x : Core) : Core :=
  let x := { x with halt := true }
  if x.state = .off ∧ x.tasks.isEmpty then { x.fresh with state := .halted, held := .run, halt := true }
  else if x.state = .wait then { x with state := .halted, held := .wait }
  else x.haltDue

/-- `CCTL.HALT` = 0 (R290). -/
def Core.haltOff (x : Core) : Core :=
  let x := { x with halt := false }
  if x.state = .halted then { x with state := x.held } else x

/-- What breaks a write of CCTL (R289, R290). -/
def Dev.cctlErrs (d : Dev) (c : Nat) (v : Word) : List Code :=
  let x := d.core c
  when' (v >>> 3 ≠ 0) eRSVD
  ++ when' (bitAt 0 v != x.halt && !x.tasks.isEmpty && noStepState d.sys.state) 0x10

/-- A write of a core's CCTL: HALT, then CRESET, then STEP (R287, R289, R290). -/
def Dev.cctlWrite (d : Dev) (c : Nat) (v : Word) : Dev :=
  d.guard (burPage c) (0x1100 + 0x40 * (c % 16)) (d.cctlErrs c v) fun d =>
    let x := d.core c
    let d := if bitAt 0 v = x.halt then d else d.setCore c (if bitAt 0 v then x.haltOn else x.haltOff)
    let d := if bitAt 2 v then d.burCreset c else d
    if bitAt 1 v then d.burSingle c else d

/-- The register that DBGSEL names takes a value (R289). -/
def Core.dbgWrite (x : Core) (v : Word) : Core :=
  let one := bitAt 8 x.dbgsel
  let b := x.bankOf one
  let k := fld 5 0 x.dbgsel
  let h : BitVec 16 := v.setWidth 16
  let part := fun (a : BitVec 40) (i : Nat) => accPut a i h
  let b := if k < 16 then { b with dr := Tab.set 0 b.dr k h }
    else if k < 24 then { b with ar := Tab.set 0 b.ar (k - 16) h }
    else if k < 32 then { b with mr := Tab.set 0 b.mr (k - 24) h }
    else if k < 35 then { b with ac0 := part b.ac0 (k - 32) }
    else if k < 38 then { b with ac1 := part b.ac1 (k - 35) }
    else if k = 38 then { b with lk := h }
    else if k = 39 then { b with lc := h }
    else if k = 40 then { b with ls := h }
    else if k = 41 then { b with le := h }
    else if k = 42 then { b with amode := v }
    else { b with pc := v.setWidth 13 }
  x.setBankOf one b

/-- What breaks a write of CMODE, DBGSEL or DBGDATA (R289, R290). -/
def Dev.coreRegErrs (d : Dev) (c r : Nat) (v : Word) : List Code :=
  match r with
  | 0x0C => when' (v &&& 0xFFFFFEE0 ≠ 0) eRSVD ++ when' (decide (cmScale v < -8 ∨ 8 < cmScale v)) eRANGE ++ d.coreErrs c false
  | 0x10 => when' (v &&& 0xFFFFFEC0 ≠ 0 || 43 < fld 5 0 v) eRSVD
  | _ => d.coreErrs c false

/-- A write of CMODE, DBGSEL or DBGDATA. -/
def Dev.coreRegWrite (d : Dev) (c r : Nat) (v : Word) : Dev :=
  d.guard (burPage c) (0x1100 + 0x40 * (c % 16) + r) (d.coreRegErrs c r v) fun d =>
    let x := d.core c
    match r with
    | 0x0C => d.setCore c { x with cmode := v }
    | 0x10 => d.setCore c { x with dbgsel := v }
    | _ => d.setCore c (x.dbgWrite v)

/-- MBXOUT_POP: the oldest outbound word is returned and removed (R288). -/
def Dev.mbxoutPop (d : Dev) (c : Nat) : Dev :=
  let x := d.core c
  match x.mbxOut with
  | [] => d.emit (.data 0)
  | w :: t => (d.setCore c { x with mbxOut := t }).emit (.data (w.setWidth 32 ||| at_ 16 t.length ||| at_ 31 1))

/-- A write of a parameter word in the shadow (R282). -/
def Dev.paramWrite (d : Dev) (k o : Nat) (v : Word) : Dev :=
  d.guard (pgBUR + k) o (when' (v >>> 16 ≠ 0) eRSVD ++ when' ((d.page (pgBUR + k)).locked) eLOCK) fun d =>
    { d with bur.parSh := Tab.set 0 d.bur.parSh (k * 8192 + (o - 0x8000) / 4) (v.setWidth 16) }

end Sys2Proof.Machine
end

