-- ==== Sys2Proof/Machine/Shed.lean ====
section
/-! DEFINITION. The effective shed level, what a rise stops and what a fall lets resume (R223, R253, R286, R330, R449,
R479 to R490), and the boundary at which functions resume. -/

namespace Sys2Proof.Machine

/-! ### Accounting of the level (R157, R483, R499) -/

/-- Index within its ream of the next sheet to complete; 0 outside a run (R157). -/
def Dev.shedIndex (d : Dev) : Nat :=
  let r := d.reqAt d.run.reamAt
  if d.run.live then (d.run.sheetAt - d.run.reamAt).toNat / r.ks % max 1 r.reamLen else 0

/-- Microseconds at the level in force since its count was last taken join USLEVk (R499). -/
def Dev.usLevel (d : Dev) : Dev :=
  let us := (d.time.loc - d.pwr.sinceAt).toNat / 1000
  let k := d.pwr.level
  let d := if k = 0 ∨ us = 0 then d else d.bump pgPWR (0x110 + 8 * (k - 1)) us
  { d with pwr.sinceAt := d.pwr.sinceAt + BitVec.ofNat 64 (1000 * us) }

/-- The effective level takes a value: USLEVk, SHEDMAX and the shed history follow (R157, R483). -/
def Dev.setLevel (d : Dev) (k : Nat) : Dev :=
  let d := d.usLevel
  let at' := d.shedIndex
  { d with pwr.level := k, pwr.shedMax := max d.pwr.shedMax k, pwr.sinceAt := d.time.loc
           acc.lists.sheds := d.acc.lists.sheds ++ [(k, at', d.time.arr)] }

/-! ### What a rise stops (R484, R485) -/

/-- The first ream boundary at least W ahead, at which recovery from S4, S5 and S6 resumes (R484, R486). -/
def Dev.recoveryAt (d : Dev) : Sfn := d.boundary 3

/-- S4: only the S4 list of beams goes on (R223, R253). -/
def Dev.beamsS4 (d : Dev) : Dev :=
  { d with bmf.limited := true, bmf.fullAt := none, trg.limited := true, trg.fullAt := none }

/-- S5: the beam former and the trigger unit stop; open sums, the input queue and the history are lost (R223, R253). -/
def Dev.beamsS5 (d : Dev) : Dev :=
  { d with bmf.stopped := true, bmf.resumeAt := none, bmf.opens := [], bmf.busy := 0
           trg.stopped := true, trg.resumeAt := none, trg.y := [], trg.yNew := [], trg.pow := [], trg.events := [] }

/-- S5: memory enters self-refresh; a THAW check in progress waits (R102, R360). -/
def Dev.memS5 (d : Dev) : Dev :=
  match d.mctl.mstat with
  | .run => { d with mctl.mstat := .selfref }
  | .thawing => { d with mctl.thawWait := true }
  | _ => d

/-- Reams that have begun and whose latch is to come get no record (R162). -/
def Dev.noRecord (d : Dev) (upTo : Sfn) : Dev :=
  (d.reamsTo upTo).foldl (fun d k => d.modGather k fun g => { g with norec := true }) d

/-- Captures whose window is still open end here: ingest admits nothing more (R99, R490). -/
def Dev.cutOpenCaptures (d : Dev) : Dev := d.cutCaptures (d.time.sfn - BitVec.ofNat 48 d.w)

/-- What level S5 stops. -/
def Dev.enterS5 (d : Dev) : Dev :=
  let d := ((d.noRecord d.time.sfn).cutOpenCaptures.beamsS5).burShed true
  (d.pltAbort eSHED).memS5

/-- What level S6 stops (R330, R394). -/
def Dev.enterS6 (d : Dev) : Dev := (d.lanesS6.dmaS6).burLose

/-- The actions of a rise from level `a` to level `b`, a higher one superseding a lower (R485). -/
def Dev.enterLevels (d : Dev) (a b : Nat) : Dev :=
  let d := if a < 1 ∧ 1 ≤ b then ({ d with pwr.portsAt := none }).mspShed.burShed false else d
  let d := if a < 3 ∧ 3 ≤ b then d.hatS3 else if a < 2 ∧ b = 2 then d.hatS2 else d
  let d := if a < 4 ∧ 4 ≤ b then d.beamsS4 else d
  let d := if a < 5 ∧ 5 ≤ b then d.enterS5 else d
  let d := if a < 6 ∧ 6 ≤ b then d.enterS6 else d
  if 4 ≤ b then d.pairShed else d

/-- The effective level rises (R483, R485). -/
def Dev.levelRise (d : Dev) (k : Nat) : Dev :=
  let a := d.pwr.level
  let d := ((d.setLevel k).bump pgPWR 0x100).enterLevels a k
  ({ d with pwr.belowAt := none }).raise pgPWR 0x1

/-- The highest of the three levels has changed or been sampled again: the effective level rises at once, or the count of
10 ms runs or is restarted (R483, R486). -/
def Dev.levelNow (d : Dev) : Dev :=
  let h := d.pwr.highest
  if d.pwr.level < h then d.levelRise h
  else if h = d.pwr.level then { d with pwr.belowAt := none }
  else if d.pwr.belowAt.isNone then { d with pwr.belowAt := some d.time.loc } else d

/-! ### What a fall lets resume (R486) -/

/-- Below S6: lanes restart, and pages send the messages they owe (R330, R557). -/
def Dev.leaveS6 (d : Dev) : Dev := d.lanesRecover.payOwed

/-- Below S5: memory leaves self-refresh, a waiting THAW check runs, a bring-up step restarts, and ingest, the beam
former and the trigger unit are to resume at a ream boundary (R102, R360, R486, R510). -/
def Dev.leaveS5 (d : Dev) : Dev :=
  let d := if d.mctl.mstat = .selfref then { d with mctl.mstat := .run } else d
  let d := { d with mctl.thawWait := false, boot.step5At := d.time.loc }
  if !d.isOpen then { d with bmf.stopped := false, trg.stopped := false }
  else
    let b := d.recoveryAt
    let d := d.noRecord (b - 1)
    let d := if d.mctl.mstat = .thawing then
        { d with mctl.restart := if after b d.mctl.restart then b else d.mctl.restart }
      else { d with ing.notBefore := if after b d.ing.notBefore then b else d.ing.notBefore }
    ({ d with bmf.resumeAt := some b }).trgResume b

/-- Below S4: full beams are to resume at a ream boundary (R223, R253, R484). -/
def Dev.leaveS4 (d : Dev) : Dev :=
  if d.isOpen then { d with bmf.fullAt := some d.recoveryAt, trg.fullAt := some d.recoveryAt }
  else { d with bmf.limited := false, trg.limited := false }

/-- The shed cores that may run again do so at a sheet boundary at least W ahead, after S5 at the ream boundary; outside
a run at once (R286, R484). -/
def Dev.coresRecover (d : Dev) : Dev :=
  d.burRecover (if !d.run.live then d.time.sfn else if d.pwr.level = 4 then d.recoveryAt else d.boundary 2)

/-- The first sheet boundary after SFN_NOW (R449): of the run, or of the active plate's grid; with neither, SFN_NOW. -/
def Dev.nextSheetAt (d : Dev) : Sfn :=
  if d.plt.active.isNone then d.time.sfn
  else nextGrid (d.ahead 1) (if d.run.live then d.run.s0 else BitVec.ofNat 48 d.req.sheetOff) 0 d.req.ks

/-- SHED_FALL: the level falls by one after 10 ms (R486). -/
def Dev.shedFall (d : Dev) : Dev :=
  let k := d.pwr.level - 1
  match d.pwr.belowAt with
  | none => d
  | some t =>
    if (d.time.loc - t).toNat < 10000000 ∨ d.pwr.level = 0 then d
    else
      let d := (d.setLevel k).bump pgPWR 0x108
      let d := { d with pwr.belowAt := if d.pwr.highest < k then some d.time.loc else none }
      let d := if k = 5 then d.leaveS6 else if k = 4 then d.leaveS5 else if k = 3 then d.leaveS4 else d
      let d := if k = 0 ∨ k = 4 then d.coresRecover else d
      let d := if k = 0 then { d with pwr.portsAt := some d.nextSheetAt } else d
      d.raise pgPWR 0x2

/-! ### RESUMING_BOUNDARY (R286, R287, R449, R486) -/

/-- The beam former and the trigger unit are no longer stopped once their boundary has passed. -/
def Dev.beamsBack (d : Dev) : Dev :=
  let past := fun (o : Option Sfn) => match o with | some b => atOrAfter d.time.sfn b | none => false
  let d := if d.bmf.stopped && past d.bmf.resumeAt then { d with bmf.stopped := false, bmf.resumeAt := none } else d
  let d := if d.trg.stopped && past d.trg.resumeAt then { d with trg.stopped := false, trg.resumeAt := none } else d
  let d := if d.bmf.limited && past d.bmf.fullAt then { d with bmf.limited := false } else d
  if d.trg.limited && past d.trg.fullAt then { d with trg.limited := false } else d

/-- RESUMING_BOUNDARY: the functions whose boundary SFN has reached resume: monitor slot ports at S0, burin tasks with
RESUME, the beam former and the trigger unit. -/
def Dev.resumingBoundary (d : Dev) : Dev :=
  let d := d.beamsBack
  let d := match d.pwr.portsAt with
    | some b => if atOrAfter d.time.sfn b then ({ d with pwr.portsAt := none }).mspResume else d
    | none => d
  (List.range 64).foldl (fun d c => d.burResume c) d

/-! ### Samples (R480, R482, R491 to R494) -/

/-- A rail's sample moves its levels: it reaches Sk above threshold k and leaves it 0.5 % below (R480). -/
def Dev.railLevels (d : Dev) (r : Nat) : BitVec 6 :=
  (List.range 6).foldl (fun m i =>
    let up := d.marginAbove r (d.thr (i + 1))
    let down := d.marginBelow r (d.thr (i + 1) - 5)
    if up then m ||| BitVec.ofNat 6 (2 ^ i) else if down then m &&& ~~~(BitVec.ofNat 6 (2 ^ i)) else m)
    (Tab.get 0 d.pwr.reached r)

/-- SUPPLY_SAMPLE: a rail's 200 ns sample in mV, and the module power averaged over 1 ms in 0.1 W. -/
def Dev.supplySample (d : Dev) (r mv power : Nat) : Dev :=
  if d.boot.porstLow || d.boot.thermtrip then d
  else
    let d := { d with pwr.mv := Tab.set none d.pwr.mv r (some mv) }
    let d := { d with pwr.reached := Tab.set 0 d.pwr.reached r (d.railLevels r) }
    let low := if d.marginAbove r 100 then some ((Tab.get none d.pwr.lowNs r).elim 0 (· + 200)) else none
    let d := { d with pwr.lowNs := Tab.set none d.pwr.lowNs r low }
    let d := (d.setReg (bar pgPWR 0x1024) (BitVec.ofNat 32 (power % 65536))).peak pgPWR 0x148 (power % 65536)
    d.levelNow

/-- The thermal level for a junction temperature (R492). -/
def thermalLevel (was : Nat) (t : Int) : Nat :=
  if 110 < t then 5
  else if 5 ≤ was ∧ 105 < t then 5
  else if 100 < t then 2
  else if 2 ≤ was ∧ 95 < t then 2
  else 0

/-- The warning of R494: set at or above TWARN, kept until 2 °C below it. -/
def warnNow (was : Bool) (t w : Int) : Bool := decide (w ≤ t) || (was && decide (w - 2 < t))

/-- A sample of the junction temperature short of THERMTRIP_N (R491, R492, R494). -/
def Dev.tempLevels (d : Dev) (t : BitVec 8) (sensor : BitVec 5) : Dev :=
  let th := thermalLevel d.pwr.thermal t.toInt
  let w := warnNow d.pwr.warn t.toInt (fld 7 0 (d.reg (bar pgPWR 0x1020)))
  let rise := decide (d.pwr.thermal < th)
  let cross := w && !d.pwr.warn
  let d := { d with pwr.tj := t, pwr.sensor := sensor, pwr.thermal := th, pwr.warn := w }
  let d := d.peak pgPWR 0x140 t.toInt.toNat
  let d := if rise then d.raise pgPWR 0x8 else d
  let d := if cross then d.raise pgPWR 0x4 else d
  d.memTemps.clkTemp.levelNow

/-! ### Host requests and settings (R481, R483, R494, R497) -/

/-- The host level takes a value. -/
def Dev.hostLevel (d : Dev) (k : Nat) : Dev := ({ d with pwr.host := k }).levelNow

/-- A write of `PWR.SHEDREQ` (R483, R497). -/
def Dev.shedreqWrite (d : Dev) (v : Word) : Dev :=
  d.guard pgPWR 0x1008 (when' (v >>> 3 ≠ 0) eRSVD ++ when' (v &&& 7 = 7) eRANGE) fun d => d.hostLevel v.toNat

/-- The thresholds rise strictly within their bounds (R481). -/
def thrOk (t0 t1 : Word) : Bool :=
  let l := [fld 7 0 t0, fld 15 8 t0, fld 23 16 t0, fld 31 24 t0, fld 7 0 t1, fld 15 8 t1]
  (l.zip (l.drop 1)).all (fun e => decide (e.1 < e.2)) && decide (10 ≤ l.headD 0) && decide (l.getLastD 0 ≤ 95)

/-- A write of `THR0` or `THR1` (R481). -/
def Dev.thrWrite (d : Dev) (o : Nat) (v : Word) : Dev :=
  let t0 := if o = 0x1014 then v else d.reg (bar pgPWR 0x1014)
  let t1 := if o = 0x1018 then v else d.reg (bar pgPWR 0x1018)
  d.guard pgPWR o (when' (o == 0x1018 && v >>> 16 != 0) eRSVD ++ when' (!thrOk t0 t1) eCOMBO
    ++ when' (noStepState d.sys.state) eSTATE) fun d => d.setReg (bar pgPWR o) v

end Sys2Proof.Machine
end

