-- ==== Sys2Proof/Machine/Run.lean ====
section
/-! DEFINITION. The run: START, STOP, QUIESCE, the statistics latch, sheets and reams, the frames of the data path, and
the end of a run (chapters 02, 06, 07, 08 and 21). -/

namespace Sys2Proof.Machine

/-! ### The statistics latch (R30, R31, R538) -/

/-- Counters of the next interval join the live counters: the interval they wait for will not come. -/
def Dev.mergeNext (d : Dev) : Dev :=
  let l := d.nextc.foldl (fun t e => Tab.set 0 t e.1 (Tab.get 0 t e.1 + e.2)) d.live
  { d with live := l, nextc := [] }

/-- Every page latches its statistics and counts `PGEN`; `ream`: a ream's latch, at which the counters of data at or
after its end become the live ones. Peaks restart from their present values. -/
def Dev.statsLatch (d : Dev) (ream : Bool) : Dev :=
  let d := d.usLevel
  let d := { d with stats := d.live, live := if ream then d.nextc else [], nextc := if ream then [] else d.nextc
                    pwr.shedMax := d.pwr.level }
  let d := pageList.foldl (fun d p => d.modPage p fun g => { g with pgen := g.pgen + 1 }) d
  (List.range 64).foldl (fun d c => let x := d.core c; d.setCore c { x with peak := x.queue.length }) d

/-! ### The end of a run (R27, R129, R198, R511, R513) -/

/-- What remains of a run when it ends: nothing of it is in progress, an outgoing plate's slot is LOADED, an armed plate
waits for the next START. -/
def Dev.runOver (d : Dev) : Dev :=
  let st := if d.plt.staged = .retiring then SlotState.loaded else d.plt.staged
  ({ d with run.live := false, run.bLast := none, run.outgoing := none, plt.staged := st, plt.armPend := false }).mergeNext

/-- The run has ended: IDLE, and a module that owned the pair yields. -/
def Dev.endRun (d : Dev) : Dev := (d.runOver.setState .idle).pairSync

/-- DRAINING ends where the last ream gets no record and no other record of the run is owed (R27). -/
def Dev.drainCheck (d : Dev) : Dev :=
  if d.sys.state = .draining ∧ d.acc.lastDone ∧ d.acc.closing.isNone ∧ d.acc.waits.isNone ∧ d.pwr.level < 5 then d.endRun else d

/-- The data path stops at once (R513): reams begun and not latched get no record, open captures end, the hatch array
stops with the runs it has not had checked. -/
def Dev.dataStop (d : Dev) : Dev :=
  let n := (d.reamsTo d.time.sfn).length
  let d := d.cutOpenCaptures.suspectFlagsClose
  let d := { d with acc.skipped := d.acc.skipped + n, acc.adds := [], acc.gath := []
                    hat.sheet := none, hat.queue := [], hat.chans := [], hat.sub := 0, hat.pass := 0, hat.begun := false
                    bmf.opens := [], bmf.egress := [], bmf.ramping := false
                    trg.y := [], trg.yNew := [], trg.geomAt := none, trg.events := [], trg.txq := []
                    dkl.panic := false, ing.sheets := [], ing.dir := [] }
  d.runOver

/-! ### START (R23, R26, R459, R473) -/

/-- The request that START runs: the armed plate's, else the active plate's. -/
def Dev.startReq (d : Dev) : Req :=
  if d.plt.staged = .armed then (d.plt.stagedP.getD {}).req else d.req

/-- The SFN that START requests in `CMDARG0` and `CMDARG1`. -/
def Dev.startArg (d : Dev) : Sfn :=
  BitVec.ofNat 48 ((d.reg (bar pgSYS 0x100C)).toNat + (d.reg (bar pgSYS 0x1010)).toNat % 65536 * 2 ^ 32)

/-- S0: the first SFN at or after the requested one on the plate's sheet grid (R23). -/
def Dev.startS0 (d : Dev) : Sfn :=
  let r := d.startReq
  nextGrid d.startArg (BitVec.ofNat 48 r.sheetOff) 0 r.ks

/-- START's own checks in order (R26, R356, R459, R473); `ownerAt`: S0 is one of the owner's ream boundaries. -/
def Dev.startErrs (d : Dev) (ownerAt : Bool) : List Code :=
  let join := bitAt 0 (d.reg (bar pgSYS 0x1014))
  when' (d.mctl.mstat == .retrain) eBUSY
  ++ when' (d.time.baseSmp.state == .invalid) eSTATE
  ++ when' (decide (wdiff d.startArg d.time.sfn < d.startReq.w)) eRANGE
  ++ (if join then when' (!(d.paired && d.pair.ownIn && ownerAt)) eJOIN
      else when' (d.paired && d.pair.ownIn) eSTATE)

/-- The units at START: ingest, deckle, hatch array, accumulator, beam former, trigger unit, cores. -/
def Dev.startUnits (d : Dev) (took same : Bool) : Dev :=
  let d := { d with ing.dir := [], ing.closedTo := [], ing.closed := [], ing.sheets := [], ing.seqHigh := []
                    ing.notBefore := d.run.s0, acc.gath := [], acc.adds := [], acc.lastDone := false, lnb.fwd := [] }
  let d := (d.fillBuckets.dklStart same).hatStart
  let d := if took then d.hatTakeover else d
  ((d.bmfStart.trgStart).burStart).clearLoopbacks

/-- START is accepted (R26, R459). -/
def Dev.start (d : Dev) : Dev :=
  let s0 := d.startS0
  let join := bitAt 0 (d.reg (bar pgSYS 0x1014))
  let took := d.plt.staged == .armed
  let old := d.plt.active
  let d := if took then d.startTakeover s0 else d
  let same := match old, d.plt.active with | some a, some b => sameLayout a b | _, _ => false
  let d := { d with run := { live := true, s0 := s0, sheetAt := s0, reamAt := s0, copyDue := d.run.copyDue }
                    sys.sheetcnt := 0, sys.reamcnt := 0 }
  let d := (d.setReg (bar pgSYS 0x100C) (s0.setWidth 32)).setReg (bar pgSYS 0x1010) ((s0 >>> 32).setWidth 32)
  let d := (d.startUnits took same).setState .running
  if !d.paired then d
  else if join then { d with pair.state := .matching, pair.streak := 0 }
  else d.takeOwn none false

/-! ### STOP and QUIESCE (R27, R468, R513) -/

/-- STOP's own checks. -/
def Dev.stopErrs (d : Dev) : List Code :=
  when' d.pair.state.standby eSTATE ++ when' d.run.bLast.isSome eBUSY

/-- STOP is accepted: B_last is fixed, and the partner is told. -/
def Dev.stop (d : Dev) : Dev :=
  let b := d.reamBoundary
  (d.stopAt b).mirrorCmd 0x11 [b.toNat % 2 ^ 32, b.toNat / 2 ^ 32]

/-- STOP_BOUNDARY: B_last is reached (R27, R99, R198). -/
def Dev.stopBoundary (d : Dev) : Dev :=
  match d.run.bLast with
  | none => d
  | some b =>
    if d.sys.state ≠ .running ∨ !atOrAfter d.time.sfn b then d
    else
      let d := d.cutCaptures b
      if b = d.run.s0 then d.endRun
      else (({ d with plt.armPend := d.plt.armPend && after b d.plt.armSfn }).setState .draining).drainCheck

/-- QUIESCE is accepted. -/
def Dev.quiesce (d : Dev) : Dev := ((d.dataStop).setState .quiesced).pairSync

/-- QUIESCE_DONE: every unit has stopped, and the due capture records are written (R511, R513). -/
def Dev.quiesceDone (d : Dev) : Dev :=
  if d.sys.state = .quiesced ∧ d.dkl.caps = [] then (d.setState .idle).pairSync else d

/-! ### ARM (R196, R468) -/

/-- ARM judged: its checks in order, with the re-checks that leave the slot LOADED. -/
def Dev.armCmd (d : Dev) (arg : Word) : Code × Dev :=
  let (e, unload) := d.armErrs arg
  match (when' d.pair.state.standby eSTATE ++ e ++ d.armRoleErrs).head? with
  | some c => (c, if unload && !d.pair.state.standby then { d with plt.staged := .loaded } else d)
  | none =>
    let d := d.armAll
    let b := d.plt.armSfn
    (0, d.mirrorCmd 0x32 [arg.toNat, b.toNat % 2 ^ 32, b.toNat / 2 ^ 32])

/-! ### LATCH, RESYNC_TIME, SELFTEST (R136, R309, R362, R435, R514) -/

/-- LATCH is accepted. -/
def Dev.latch (d : Dev) : Dev := d.statsLatch false

/-- RESYNC_TIME's own checks for base `i`. -/
def Dev.resyncErrs (d : Dev) (i : Nat) : List Code :=
  when' (i == 1 && noStepState d.sys.state) eSTATE ++ when' (i == 2) eRANGE ++ when' ((d.time.base i).master == 0) 0x10

/-- RESYNC_TIME is accepted: the base's master is reselected, which permits one step. -/
def Dev.resync (d : Dev) (i : Nat) : Dev := d.baseReselect i (d.masterPresent i)

/-- SELFTEST's own checks. -/
def Dev.selftestErrs (d : Dev) : List Code := when' (d.mctl.mstat == .retrain) eBUSY

/-- SELFTEST is accepted. -/
def Dev.selftest (d : Dev) : Dev := ({ d with sys.before := d.sys.state, sys.selfAt := d.time.loc }).setState .selftest

/-- Byte ranges whose rows the memory part only reads: the plate slots, the fault map image, pinned slots, a finished
record (R362). -/
def Dev.selftestKeeps (d : Dev) : List (Nat × Nat) :=
  let pins := d.dkl.pins.filterMap fun e =>
    if e.2.isEmpty then none else (Tab.get none d.dkl.pages e.1).map fun x => (x.slot * 32768, 32768)
  let rec_ := if d.acc.recrdy then [(recBase d.acc.recbuf, d.req.recSize)] else []
  [(slotBase false, slotSize), (slotBase true, slotSize), (fmapAddr, 4096)] ++ pins ++ rec_

/-- A row of a channel, in every bank, holds a byte of one of the ranges: a row holds blocks `80 r + c` and `80 r + 40 + c`
(R343). -/
def rowKept (l : List (Nat × Nat)) (c r : Nat) : Bool :=
  l.any fun e =>
    let has := fun n => decide (e.1 / 32768 ≤ n ∧ n ≤ (e.1 + e.2 - 1) / 32768)
    has (80 * r + c) || has (80 * r + 40 + c)

/-- A byte lies in a row that holds a byte of one of the ranges. -/
def inRows (l : List (Nat × Nat)) (a : Nat) : Bool := rowKept l (memChan a) (memRow (memLocal a))

/-- The memory part: bytes outside the kept rows no longer hold what was written; exclusions whose rows all pass leave
the list, and rows of `bad` addresses join it. -/
def Dev.memSelftest (d : Dev) (bad : List Nat) : Dev :=
  let keep := d.selftestKeeps
  let hit := fun (e : Excl) => bad.any fun a => memChan a == e.chan && memBank (memLocal a) == e.bank
    && decide (e.row ≤ memRow (memLocal a) ∧ memRow (memLocal a) < e.row + e.count)
  let readOnly := fun (e : Excl) => (List.range e.count).any fun i => rowKept keep e.chan (e.row + i)
  let stays := fun (e : Excl) => (d.mchan e.chan).failed || hit e || readOnly e
  let l := d.plt.excl.filter stays
  let d := { d with mem := Tab.clear (fun a => !inRows keep a) d.mem }
  let d := if l = d.plt.excl then d else ({ d with plt.excl := l } : Dev).fmapChanged
  bad.foldl Dev.excludeAt d

/-- SELFTEST_DONE: quires that fail a pattern, device addresses that fail, lanes that fail; the state is what it was. -/
def Dev.selftestDone (d : Dev) (quires bad lanes : List Nat) : Dev :=
  if d.sys.state ≠ .selftest then d
  else
    let d := d.fmapStep fun d => (d.hatSelftest quires).memSelftest bad
    let d := (List.range 256).foldl (fun d n => d.laneTested n (lanes.contains n)) d
    d.setState d.sys.before

/-! ### Frames of the data path (R52, R64, R245, R303) -/

/-- An admitted frame's payload is kept for tasks where no beam former holds it. -/
def Dev.tapFrame (d : Dev) (p g : Nat) (f : Sfn) (fr : List Byte) : Dev :=
  let r := d.reqAt f
  if r.beamMode || r.burin.isEmpty then d
  else
    let o := (d.bmf.opens.find? fun x => x.g == g && x.f == f).getD { g := g, f := f }
    let m : Member := { p := p, bytes := (fr.drop 32).take 4096, ndiode := frNdiode fr }
    { d with bmf.opens := (d.bmf.opens.filter fun x => !(x.g == g && x.f == f)) ++ [{ o with members := o.members ++ [m] }] }

/-- SAMPLE_FRAME_RX: any frame without a row of its own is checked (a CTRL frame only where its kind is reserved, and
then it does no more than keep the link up); an admitted SAMPLE frame is couched, summed into beams and, where the plate
forwards, queued for its lane's transmitter. -/
def Dev.sampleFrame (d : Dev) (l : Nat) (fr : List Byte) : Dev :=
  if d.role l = 0 ∨ frType fr = 3 ∨ frType fr = 15 then d
  else if frType fr = 4 then
    if 1 ≤ ctrlAt fr 0 1 ∧ ctrlAt fr 0 1 ≤ 9 then d else d.ctrlRx l fr (ctrlAt fr 0 1) id
  else
    let (c, f, d) := d.ingest l fr
    if c ≠ 0 then d
    else
      let d := d.admitSample fr f
      let r := d.reqAt f
      let d := match r.index (frSrc fr) with
        | none => d
        | some p => ((d.couch p (frChgrp fr) f fr).bmfFrame p (frChgrp fr) f fr).tapFrame p (frChgrp fr) f fr
      if r.forwards then { d with lnb.fwd := d.lnb.fwd ++ [(l, fr)] } else d

/-- TRIG_FRAME_RX. -/
def Dev.trigFrameRx (d : Dev) (l : Nat) (fr : List Byte) : Dev :=
  if d.role l = 0 ∨ frType fr ≠ 3 then d
  else
    let (c, f, d) := d.ingest l fr
    if c ≠ 0 then d else d.peerEvent fr f

/-- IDLE_FRAME_RX. -/
def Dev.idleFrameRx (d : Dev) (l : Nat) (fr : List Byte) : Dev :=
  if d.role l = 0 ∨ frType fr ≠ 15 then d else (d.ingest l fr).2.2

/-- FORWARD_FRAME: the next frame of a lane leaves with the lane's link ID and a new CRC (R303, R304). -/
def Dev.forwardFrame (d : Dev) (l : Nat) : Dev :=
  match d.lnb.fwd.find? (·.1 == l) with
  | none => d
  | some e =>
    let d := { d with lnb.fwd := d.lnb.fwd.erase e }
    if d.role l ≠ 1 || !d.mayPublish || decide (5 ≤ d.pwr.level) || d.sys.state == .frozen || d.ing.laneq.getLsbD l then d
    else d.sendFrame l (withTrailer (overlay (e.2.take (e.2.length - 8)) 20 (leBytes 2 (d.linkTx l))))

/-- IDLE_FRAME_SEND: a lane's transmitter sends an IDLE frame (R330). -/
def Dev.idleSend (d : Dev) (n : Nat) : Dev := if d.role n = 0 then d else d.sendFrame n (d.idleFrame n)

/-! ### Frame sets, sheets and reams (R25, R27, R30, R65, R241) -/

/-- A commit of beam or trigger tables, or a takeover, for a boundary at or before `f` has yet to apply. -/
def Dev.tablesPending (d : Dev) (f : Sfn) : Bool :=
  let tk := fun p => match (d.page p).armed with | some k => k.when != 0 && atOrAfter f k.target | none => false
  tk pgBMF || tk pgTRG || (match d.takeoverAt with | some b => atOrAfter f b | none => false)

/-- FRAME_SET_CLOSE: a frame set closes, and BMF, TRG and the tasks take it; `overrun`: the beam former outlasts the
window (R11), `lat`: nanoseconds from the last member to the hand-over. -/
def Dev.frameSetClose (d : Dev) (g : Nat) (f : Sfn) (overrun : Bool) (lat : Nat) : Dev :=
  if !d.setCloses g f || d.tablesPending f then d
  else
    let d := d.closeSet g f
    let beams := (d.reqAt f).beamMode
    let tap := (d.bmf.opens.find? fun x => x.g == g && x.f == f).getD { g := g, f := f }
    let (o, d) := d.bmfClose g f overrun lat
    let d := match o with
      | some (o, inv) => (d.trgTake o inv).burFspow g f o.members inv
      | none =>
        ({ d with bmf.opens := d.bmf.opens.filter fun x => !(x.g == g && x.f == f) } : Dev).burFspow g f
          (if beams then [] else tap.members) beams
    d.streamDue (d.reqAt f).sheetPages

/-- Time blocks whose last trigger sample is sample `i` of length 2^a. -/
def blocksEnded (lf a i : Nat) : List Nat :=
  let lo := i * 2 ^ a / lf
  (List.range ((i + 1) * 2 ^ a / lf - lo)).map (lo + ·)

/-- TRIGGER_SAMPLE_EVAL: the next trigger sample is decided, and the tasks are told of the time blocks it ends. -/
def Dev.triggerEval (d : Dev) (lat : Nat) : Dev :=
  if !d.tickDue then d
  else
    let i := d.trg.next
    let a := d.trgA
    let r := d.reqAt (d.tickSfn a i)
    let bad := d.trg.y.any fun e => e.2.bad && decide (e.1 / 262144 * 2 ^ a / r.lf = i * 2 ^ a / r.lf)
    let d := (blocksEnded r.lf a i).foldl (fun d b => d.burTrgy (d.run.s0 + BitVec.ofNat 48 (b * r.lf)) bad) (d.tickDecide lat)
    d.trgGeom

/-- SHEET_COMPLETE: at C_s the sheet's flags are fixed, and ACC, HAT, DKL and the tasks take it up. -/
def Dev.sheetComplete (d : Dev) : Dev :=
  if !d.sheetDue || after d.run.sheetAt d.reamEnd then d
  else
    let d := d.completeSheet
    match d.ing.last with
    | none => d
    | some s => (((d.accSheet s).hatSheet s).burCycles.burSheet s).streamDue (d.reqAt s.at_).sheetPages

/-- The statistics latch of the ream in progress is due (R30): its first SFN after the end is K_s + W behind, and the
sheet that starts there is complete where the run has one. -/
def Dev.latchDue (d : Dev) : Bool :=
  let e := d.reamEnd
  let r := d.reqAt e
  d.run.live && atOrAfter d.time.sfn (e + BitVec.ofNat 48 (r.ks + r.w))
  && (match d.run.bLast with
      | some b => b == e || (after b e && after d.run.sheetAt e)
      | none => after d.run.sheetAt e)

/-- STATISTICS_LATCH. -/
def Dev.statisticsLatch (d : Dev) : Dev :=
  if !d.latchDue then d
  else
    let e := d.reamEnd
    let k := d.run.reams
    let ks := (d.reqAt e).ks
    let d := if d.sys.state = .frozen then d.accFroze [k] else d
    let d := if 5 ≤ d.pwr.level then d.modGather k fun g => { g with norec := true } else d
    let d := d.statsLatch true
    let c : Closing := { idx := k, first := d.run.reamAt, last := d.run.bLast == some e, delayed := false, buf := d.acc.buf
                         plate := d.plateOf d.run.reamAt, g := {}, lists := {}, closeTime := d.time.arr
                         pgen := (d.page pgACC).pgen, epoch := d.epoch }
    let d := d.accLatch c d.clk.holdAt
    let d := { d with run.reams := k + 1, run.reamAt := e, sys.reamcnt := d.sys.reamcnt + 1 }
    (d.burLatch (e + BitVec.ofNat 48 ks)).retireOutgoing.drainCheck

/-- RECORD_FINISHED: assembly completes, the partner is told, and a last record ends the run (R27, R159, R472). -/
def Dev.recordFinished (d : Dev) : Dev :=
  match d.acc.closing with
  | none => d
  | some c =>
    if !d.memServes then d
    else
      let st := c.status (!c.g.zeroed.isEmpty)
      let d := d.suspectFlagsClose.finishRecord
      let d := (d.wmOwn c.first d.acc.wmark st).closeWaiting
      if c.last ∧ d.sys.state = DevState.draining then d.endRun else d.drainCheck

/-- THAW_CHECK_DONE, and what follows for a run that ended during the freeze (R27, R359). -/
def Dev.thawDone (d : Dev) (recur : Bool) (addr : BitVec 38) (syn : Word) (still : Bool) : Dev :=
  let d := d.thawCheckDone recur addr syn still
  let d := match d.run.bLast with
    | some b => if d.sys.state = DevState.draining then d.cutCaptures b else d
    | none => d
  if d.sys.state = DevState.idle ∧ d.run.live then d.endRun else d.drainCheck

/-- SHED_FALL, after which a run that waited for it may end (R27). -/
def Dev.shedFallAll (d : Dev) : Dev := d.shedFall.drainCheck

end Sys2Proof.Machine
end

