-- ==== Sys2Proof/Machine/Reset.lean ====
section
/-! DEFINITION. Resets, the image download, bring-up and recovery, the watchdog (R482, R491 to R494, R502 to R518,
R523). -/

namespace Sys2Proof.Machine

/-! ### Resets (R482, R493, R502, R503, R516) -/

/-- Entries of the given pages of a table that is keyed by BAR0 offset. -/
def keepPages {α : Type} (ps : List Nat) (t : Tab α) : Tab α := t.filter fun e => ps.contains (e.1 / 0x10000)

/-- The pages that a module reset leaves: those of AON, and those of CLK/TIME where it keeps running (R516). -/
def keptPages (keepClk : Bool) : List Nat := if keepClk then [0, 1, 2, 4, 5] else [0, 1, 2]

/-- The boot state after a reset that leaves AON: its cause, its rail, one more in `COUNT`; the download and bring-up
start again, and the registers that the host sets stay. -/
def BootSt.afterReset (b : BootSt) (cause rail : Nat) : BootSt :=
  { rstCause := cause, rstRail := rail, rstCount := BitVec.ofNat 8 (min 255 (b.rstCount.toNat + 1))
    porstLow := b.porstLow, perstLow := b.perstLow, hold := b.hold, thermtrip := b.thermtrip, wdTimeout := b.wdTimeout
    path := b.path, imglen := b.imglen }

/-- Lands that a reset of the islands drives low. -/
def Dev.landsLow (d : Dev) : Dev :=
  let d := d.trigoutsLow
  if d.pair.ownOut then d.emit (.land "OWN_OUT" false) else d

/-- What is left once every island except AON, and except CLK/TIME with `keepClk`, has been reset (R516). LOCAL is never
stepped (R431). -/
def Dev.islandsLost (d : Dev) (cause rail : Nat) (keepClk : Bool) : Dev :=
  let ps := keptPages keepClk
  let d := d.landsLow
  let pages := if keepClk then keepPages ps d.pages
    else Tab.put (Tab.put (keepPages ps d.pages) pgCLK (Tab.get {} bootPages pgCLK)) pgTIME (Tab.get {} bootPages pgTIME)
  { regs := keepPages ps d.regs, act := keepPages ps d.act, pages := pages
    stats := keepPages ps d.stats, live := keepPages ps d.live, nextc := keepPages ps d.nextc
    sys := d.sys, boot := d.boot.afterReset cause rail, pwr := d.pwr, aon := d.aon
    time := if keepClk then d.time else { loc := d.time.loc }
    clk := if keepClk then d.clk else {}
    pair := { ownIn := d.pair.ownIn }, trg := { tin := d.trg.tin }, free := d.free }

/-- A module reset: a new Attine image is needed, and the state becomes IMAGE_WAIT (R511, R516). -/
def Dev.moduleReset (d : Dev) (cause : Nat) : Dev :=
  ((d.islandsLost cause 0 true).setState .imageWait).masters

/-- LINK_RESET (R503): PERST_N falls (`perst`), or the host's port resets the link. In OFF only the pin changes. -/
def Dev.linkReset (d : Dev) (perst : Bool) : Dev :=
  let d := { d with boot.perstLow := d.boot.perstLow || perst, boot.linkUp := false }
  if d.sys.state = .off then d else d.moduleReset (if perst then 4 else 5)

/-- PERST_N_RELEASE: the link may come up (R503). -/
def Dev.perstRelease (d : Dev) : Dev := { d with boot.perstLow := false }

/-- PCIE_LINK_UP (R401): link training ends at a speed and a width. -/
def Dev.linkUp (d : Dev) (speed : BitVec 4) (width : BitVec 6) (flit : Bool) : Dev :=
  if d.boot.perstLow || d.boot.porstLow || d.boot.linkUp || d.sys.state == .off then d
  else ({ d with boot.linkUp := true, hif := { speed := speed, width := width, flit := flit } } : Dev).raise pgHIF 0x1

/-- Everything is lost but the levels of input lands (R502, R516). -/
def Dev.allLost (d : Dev) (porst : Bool) : Dev :=
  let d := d.landsLow
  { sys := { state := .off, out := d.sys.out }, boot := { porstLow := porst, perstLow := d.boot.perstLow, hold := !porst }
    aon := { estop := { landLow := d.aon.estop.landLow } }, pair := { ownIn := d.pair.ownIn }, trg := { tin := d.trg.tin }
    free := d.free }

/-- POWER_ON_RESET: PORST_N falls, which releases THERMTRIP_N (R502). -/
def Dev.powerOnReset (d : Dev) : Dev :=
  (if d.boot.thermtrip then d.emit (.land "THERMTRIP_N" true) else d).allLost true

/-- IMAGE_WAIT begins at the end of a power-on reset; ESTOP is in force where ESTOP_N is low (R504, R566). -/
def Dev.romStart (d : Dev) : Dev :=
  let d : Dev := { d with boot.porstLow := false, boot.hold := false, sys.state := .imageWait }
  if d.aon.estop.landLow then d.estop .land else d

/-- PORST_RELEASE (R504). -/
def Dev.porstRelease (d : Dev) : Dev := if d.boot.porstLow then d.romStart else d

/-- SUPPLY_RESET (R482): rail `r` has been more than 10 % low for over 1 µs. VAON is rail 8. -/
def Dev.supplyReset (d : Dev) (r : Nat) : Dev :=
  if d.boot.porstLow || d.boot.thermtrip || decide ((Tab.get none d.pwr.lowNs r).getD 0 ≤ 1000) then d
  else if r = 8 then { (d.allLost false) with pwr.mv := d.pwr.mv }
  else if d.sys.state = .off then d
  else (({ d with boot.hold := true } : Dev).islandsLost 2 r false).setState .off

/-- Every rail is within its S1 threshold. -/
def Dev.railsGood (d : Dev) : Bool := (List.range 10).all fun r => !d.marginAbove r (d.thr 1)

/-- SUPPLY_HOLD_RELEASE (R482): the islands are released. After an internal power-on reset nothing is recorded of the
state before it. -/
def Dev.holdRelease (d : Dev) : Dev :=
  if !d.boot.hold || d.boot.porstLow || d.boot.thermtrip || !d.railsGood then d
  else if d.boot.rstCause = 1 then d.romStart
  else ({ d with boot.hold := false } : Dev).setState .imageWait

/-- TEMP_SAMPLE (R491 to R494): the junction temperature, signed °C, and the hottest sensor. -/
def Dev.tempSample (d : Dev) (t : BitVec 8) (sensor : BitVec 5) : Dev :=
  if d.boot.porstLow || d.boot.thermtrip then d
  else if 115 < t.toInt then
    let d := { d with boot.thermtrip := true, boot.hold := false }
    let d := (d.islandsLost 3 0 false).setState .off
    let a := d.aon
    ({ d with aon := { a with valid := false, busy := false, cause := 0, missed := 0, sram := [] } } : Dev).emit
      (.land "THERMTRIP_N" false)
  else d.tempLevels t sensor

/-! ### The image (R505 to R507) -/

/-- The delivered image: the stream's bytes, or `IMGLEN` bytes of the boot window. -/
def BootSt.image (b : BootSt) : List Byte :=
  if b.path then b.stream else (List.range b.imglen.toNat).map fun i => Tab.get 0 b.window i

/-- The checks of R506 on an image of `len` bytes; 0: it passes. -/
def imageCause (img : List Byte) (len : Nat) (poison : Bool) : Nat :=
  let size := leAt img 8 4
  if leAt img 0 4 ≠ 0x4E545441 ∨ leAt img 4 4 ≠ 1 then 2
  else if len ≠ size ∨ 50331648 < size ∨ size % 4096 ≠ 0 ∨ img.length ≠ size then 3
  else if !Config.keyHashOk (slice img 288 96) then 4
  else if !Config.signatureOk img then 5
  else if leAt img 12 4 < Config.fuseSvn.toNat then 6
  else if poison then 7
  else 0

/-- What refuses a write of `IMGCTL`, `IMGLEN` or `IMGDATA` (R505, R518). -/
def Dev.imgErrs (d : Dev) : List Code :=
  when' (d.sys.state != .imageWait) eSTATE ++ when' (d.boot.cause == 1) eBUSY

/-- IMGDATA_WRITE: a streamed word, least significant byte first. -/
def Dev.imgData (d : Dev) (v : Word) : Dev :=
  d.guard pgAON 0x100C d.imgErrs fun d => { d with boot.stream := d.boot.stream ++ leBytes 4 v.toNat }

/-- A write of `IMGLEN`. -/
def Dev.imgLen (d : Dev) (v : Word) : Dev :=
  d.guard pgAON 0x1008 (when' (fld 31 26 v != 0) eRSVD ++ d.imgErrs) fun d => { d with boot.imglen := v.setWidth 26 }

/-- A write of `IMGCTL`: PATH, then CLR, then GO (R505, R506). -/
def Dev.imgCtl (d : Dev) (v : Word) : Dev :=
  d.guard pgAON 0x1004 (when' (v &&& 0xFFFFFFF8 ≠ 0) eRSVD ++ d.imgErrs) fun d =>
    let d := { d with boot.path := bitAt 1 v }
    let d := if bitAt 2 v then { d with boot.stream := [] } else d
    if bitAt 0 v then { d with boot.cause := 1, boot.tries := d.boot.tries + 1 } else d

/-- A page comes out of reset and is enabled. -/
def Dev.startPage (d : Dev) (p : Nat) : Dev := d.modPage p fun g => { g with started := true, en := true }

/-- The pages served from the start of BOOTING beside the always-on ones. -/
def bootingPages : List Nat := [pgPAIR, pgMSP, pgHIF, pgMMU, pgDMA, 0x0A, 0x0B, 0x0C, pgFAB, pgPLT, pgETH]

/-- BOOTING begins: firmware arms the watchdog, clocks start, memory trains (R509, R515). -/
def Dev.booting (d : Dev) (pllFail : Bool) : Dev :=
  let d := { d with boot.wdEn := true, boot.wdStart := d.time.loc, boot.step := if pllFail then 1 else 2
                    boot.fatal := pllFail, boot.stepFail := if pllFail then 1 else 0 }
  let d := d.setState .booting
  let d := if pllFail then d else { bootingPages.foldl Dev.startPage d with mctl.mstat := .training, mctl.trainStep := 1 }
  d.payOwed

/-- IMAGE_VERIFY_DONE. `poison`: an uncorrectable code error lies in the boot window; `pllFail`: the system PLL does not
lock once the image has passed. -/
def Dev.imageVerifyDone (d : Dev) (poison pllFail : Bool) : Dev :=
  if d.sys.state ≠ .imageWait ∨ d.boot.cause ≠ 1 then d
  else
    let img := d.boot.image
    let c := imageCause img d.boot.imglen.toNat ((poison || d.boot.winPoison) && !d.boot.path)
    let d := { d with boot.cause := c, boot.imgSvn := BitVec.ofNat 8 (leAt img 12 1) }
    if c ≠ 0 then d.perr pgAON eAUTH 0x1004 else d.booting pllFail

/-! ### Bring-up (R509, R510) -/

/-- MEMORY_TRAINING_DONE: steps 2 to 4 end. `failed` are the channels that fail training, `bad` the addresses in error in
the full-memory check, `quires` and `lanes` those that fail self-test; `sram`: an SRAM fault leaves a store unusable. While PERST_N is low the
islands are in reset and no step ends (R503). -/
def Dev.memoryTrainingDone (d : Dev) (failed bad quires lanes : List Nat) (sram : Bool) : Dev :=
  if d.sys.state ≠ .booting ∨ d.boot.step ≠ 2 ∨ d.boot.fatal ∨ 5 ≤ d.pwr.level ∨ d.boot.perstLow then d
  else
    let gen := d.plt.fmapGen
    let d := pageList.foldl (fun d p => if (d.page p).started then d else d.startPage p) d
    let d := (d.trainingDone failed bad).hatSelftest quires
    let d := d.fmapOnce gen
    let d := (List.range 256).foldl (fun d n => d.laneTested n (lanes.contains n)) d
    let q := ((List.range 148).filter fun i => d.hat.qmask.getLsbD i).length
    let fails : BitVec 5 := (if failed.isEmpty && bad.isEmpty then 0 else 2)
      ||| (if sram || quires.any (· < 148) then 4 else 0) ||| (if lanes.isEmpty then 0 else 8)
    let b := d.boot
    { d with boot := { b with retained := b.image, qFail := q, fatal := sram, stepFail := b.stepFail ||| fails
                              step := if sram then 3 else 5, step5At := d.time.loc } }

/-- Step 5 of R509 is in progress. -/
def Dev.inStep5 (d : Dev) : Bool :=
  (d.sys.state == .booting || d.sys.state == .recovery) && d.boot.step == 5 && !d.boot.fatal

/-- BRINGUP_REF_TIMEOUT: no reference has been selected within 30 s of the start of step 5. -/
def Dev.refTimeout (d : Dev) : Dev :=
  if d.inStep5 ∧ d.clk.sel.isNone ∧ 30 * 10 ^ 9 ≤ d.since d.boot.step5At then
    { d with boot.refto := true, boot.stepFail := d.boot.stepFail ||| 0x10 }
  else d

/-- Step 5 can end: selection has yielded a reference and |e| has stayed below 1 ns for 1 s, or REFTO is set. -/
def Dev.timeReady (d : Dev) : Bool :=
  d.boot.refto
  || (d.clk.sel.isSome && (d.clk.loop == .locked
      || (match d.clk.lowSince with | some t => decide (10 ^ 9 ≤ d.since t) | none => false)))

/-- Bring-up is over: READY. -/
def Dev.broughtUp (d : Dev) : Dev :=
  let d := { d with boot.step := 6, boot.wdStage := false, boot.wdStart := d.time.loc }
  ((d.setState .ready).raise pgSYS 0x1).payOwed

/-- BRINGUP_COMPLETE: step 5 ends in BOOTING. -/
def Dev.bringupComplete (d : Dev) : Dev :=
  if d.sys.state = .booting ∧ d.inStep5 ∧ d.timeReady ∧ d.pwr.level < 5 then d.broughtUp else d

/-- RECOVERY_COMPLETE: step 5 ends in RECOVERY (R515). -/
def Dev.recoveryComplete (d : Dev) : Dev :=
  if d.sys.state = .recovery ∧ d.inStep5 ∧ d.timeReady then d.broughtUp else d

/-! ### The watchdog and the Mladef island reset (R515, R516) -/

/-- The states from BOOTING onwards. -/
def DevState.booted : DevState → Bool
  | .off | .imageWait => false
  | _ => true

/-- A lane's receiver starts again from DETECT, without loopback (R325). -/
def Dev.relight (d : Dev) (n : Nat) : Dev :=
  let x := d.lane n
  if x.state = .off ∨ x.state = .failed then d
  else d.laneDrop n { x with state := if d.role n = 0 then .off else .detect, sigdet := false, invert := false }

/-- The Mladef cores restart in RECOVERY (R515). -/
def Dev.recover (d : Dev) : Dev :=
  let wasOpen := runOpen d.sys.state d.mctl.frz.prev || d.run.live
  let d := if wasOpen then d.dataStop else d
  let d := d.pltAbort eSTATE
  let d := if d.plt.staged = .armed then
      ({ d with plt.staged := .proofed, plt.armPend := false } : Dev).rolesNow (d.plt.active.map (·.req))
    else d
  let d := (List.range 64).foldl (fun d c =>
    let x := d.core c
    if x.mbxIn.isEmpty && x.mbxOut.isEmpty then d else d.setCore c { x with mbxIn := [], mbxOut := [] }) d
  let d := (List.range 256).foldl (fun d n => d.setReg (laneAddr n 0) (d.reg (laneAddr n 0) &&& ~~~(0xC : Word))) d
  let d := ((List.range 256).foldl Dev.relight d).portReset 5
  let b := d.boot
  let d := { d with boot := { b with step := 5, step5At := d.time.loc, recov := true, refto := false
                                     stepFail := b.stepFail &&& 0xF, wdStart := d.time.loc, wdEn := true } }
  (d.setState .recovery).pairSync

/-- The retained image can be read and passes the checks of R506. -/
def Dev.retainedOk (d : Dev) : Bool :=
  d.memServes && !d.boot.retained.isEmpty && imageCause d.boot.retained d.boot.retained.length false == 0

/-- MLADEF_ISLAND_RESET with its cause: 6 WDOG1, 9 SRST (R515). -/
def Dev.mladefReset (d : Dev) (cause : Nat) : Dev :=
  if !d.sys.state.booted then d
  else if !d.retainedOk then d.moduleReset 7
  else
    let b := d.boot
    let d := { d with boot := { b with rstCause := cause, rstRail := 0
                                       rstCount := BitVec.ofNat 8 (min 255 (b.rstCount.toNat + 1))
                                       wdStage := b.wdStage || cause == 6 } }
    d.recover

/-- The watchdog's period has elapsed since its count was last restarted. -/
def Dev.wdDue (d : Dev) : Bool := d.boot.wdEn && decide (d.boot.wdTimeout.toNat * 10 ^ 6 ≤ d.since d.boot.wdStart)

/-- WATCHDOG_EXPIRE: stage 1, with its snapshot; in RECOVERY stage 2 (R515, R569). -/
def Dev.watchdogExpire (d : Dev) : Dev :=
  if !d.wdDue || !d.sys.state.booted then d
  else if d.sys.state = .recovery then d.moduleReset 7
  else (if d.aon.autoWdog then d.snapTake 2 else d).mladefReset 6

/-- A write of `AON.WDOG`: TIMEOUT, and FIRE forces a stage 2 reset (R518). -/
def Dev.wdogWrite (d : Dev) (v : Word) : Dev :=
  d.guard pgAON 0x1018
    (when' (fld 30 18 v != 0) eRSVD ++ when' (fld 15 0 v < 100 || 60000 < fld 15 0 v) eRANGE) fun d =>
    let d := { d with boot.wdTimeout := v.setWidth 16 }
    if bitAt 31 v then d.moduleReset 8 else d

/-! ### The rest of the access ports (R561 to R563) -/

/-- WDRESET (R561). -/
def Dev.aonWdReset (d : Dev) (i3c : Bool) (confirm : Byte) : Dev :=
  d.aonOp i3c (when' (confirm != 0xA5) eCOMBO) fun d => d.moduleReset 8

/-- SETSHED (R561). -/
def Dev.aonSetShed (d : Dev) (i3c : Bool) : Dev :=
  let k := fld 2 0 (d.aonPort i3c).addr
  d.aonOp i3c (when' (k == 7) eRANGE) fun d => d.hostLevel k

/-- AONCMD is written: its operation runs (R560, R561). -/
def Dev.aonCmd (d : Dev) (i3c : Bool) (v : Word) : Dev :=
  let d := d.setAonPort i3c { d.aonPort i3c with cmd := v }
  match fld 3 0 v with
  | 0 => d.aonOp i3c [] fun d => d
  | 1 => d.aonRead i3c (fld 15 8 v)
  | 2 => d.aonEstop i3c
  | 3 => d.aonRelease i3c
  | 4 => d.aonSnapTake i3c
  | 5 => d.aonSnapClear i3c
  | 6 => d.aonWdReset i3c (BitVec.ofNat 8 (fld 23 16 v))
  | 7 => d.aonSetShed i3c
  | 8 => d.aonReadSnap i3c
  | _ => d.aonOp i3c [eRSVD] fun d => d

/-- An operation of the AON capability or of the I3C port: AONADDR, where the operation takes one, and AONCMD are
written, where the path reaches the island (R559, R560). -/
def Dev.aonDo (d : Dev) (i3c : Bool) (addr : Option (BitVec 14)) (cmd : Word) : Dev :=
  if d.aonReach i3c then
    let p := d.aonPort i3c
    (d.setAonPort i3c { p with addr := match addr with | some a => a.setWidth 32 | none => p.addr }).aonCmd i3c cmd
  else d

/-- I3C_PRIVATE_WRITE: the index byte and the value (R563). An index that names no register changes nothing. -/
def Dev.i3cWrite (d : Dev) (idx : Byte) (v : Word) : Dev :=
  if !d.aonReach true then d
  else
    let d := { d with aon.i3cIdx := idx }
    match idx.toNat with
    | 0x08 => d.aonCmd true v
    | 0x0C => d.setAonPort true { d.aon.i3c with addr := v &&& 0x3FFF }
    | 0x40 => d.imgData v
    | 0x44 => d.imgLen v
    | 0x48 => d.imgCtl v
    | _ => d

/-- The register that an I3C index names, as it reads. -/
def Dev.i3cReg (d : Dev) (idx : Byte) : Word :=
  match idx.toNat with
  | 0x08 => d.aon.i3c.cmd
  | 0x0C => d.aon.i3c.addr
  | 0x10 => d.aon.i3c.data
  | 0x14 => d.aonStat true
  | 0x44 => d.readReg 2 pgAON 0x1008
  | 0x48 => d.readReg 2 pgAON 0x1004
  | _ => 0

/-- I3C_PRIVATE_READ: the register named by the last index. -/
def Dev.i3cRead (d : Dev) : Dev := if d.aonReach true then d.emit (.data (d.i3cReg d.aon.i3cIdx)) else d

/-- A common-command read answers a free value. -/
def Dev.cccGet (d : Dev) : Dev := let (v, d) := d.fresh; d.emit (.data (BitVec.ofNat 32 v))

/-- I3C_CCC. -/
def Dev.i3cCcc (d : Dev) (c : Ccc) : Dev :=
  if !d.aonReach true then d
  else match c with
    | .entdaa a => if d.aon.i3cDyn.isNone then { d with aon.i3cDyn := some a } else d
    | .setdasa a => if d.aon.i3cDyn.isNone then { d with aon.i3cDyn := some a } else d
    | .rstdaa => { d with aon.i3cDyn := none }
    | .getpid | .getbcr | .getdcr | .getstatus => d.cccGet
    | .other _ => d

/-! ### Page island resets (R381, R516, R523) -/

/-- The header after an island reset: PERR, PIRQ, tickets and their like are gone. -/
def Page.islandReset (g : Page) : Page := { en := g.en, started := g.started, pgen := g.pgen }

/-- A page's stored words, its counters and its header lose what they hold. -/
def Dev.pageCleared (d : Dev) (p : Nat) : Dev :=
  let f := fun k => k / 0x10000 == p
  ({ d with regs := Tab.clear f d.regs, act := Tab.clear f d.act, stats := Tab.clear f d.stats
            live := Tab.clear f d.live, nextc := Tab.clear f d.nextc } : Dev).modPage p Page.islandReset

/-- The lanes of an LNB page: receivers, transmitters, calibration records and roles are lost. -/
def Dev.lnbReset (d : Dev) (g : Nat) : Dev :=
  ((List.range 16).foldl (fun d i =>
    let n := 16 * g + i
    { d.setLane n {} with lnb.oldRole := Tab.set none d.lnb.oldRole n none, lnb.offAt := Tab.set none d.lnb.offAt n none }) d).masters

/-- The structured state of a block after its island's reset. -/
def Dev.blockReset (d : Dev) (p : Nat) : Dev :=
  if p = pgPWR then ({ d with pwr.host := 0, pwr.shedMax := d.pwr.level } : Dev).levelNow
  else if p = pgPAIR then { (if d.pair.ownOut then d.emit (.land "OWN_OUT" false) else d) with pair := { ownIn := d.pair.ownIn } }
  else if p = pgCLK then ({ d with clk := {} } : Dev).masters
  else if p = pgTIME then { d with time := { loc := d.time.loc } }
  else if p = pgMSP then { d with msp := [], mspSh := [], monword := [] }
  else if p = pgMMU then { d with mmu := {} }
  else if pgDMA ≤ p ∧ p < pgFAB then d.dmaReset (p - pgDMA)
  else if p = pgFAB then { ((List.range 14).foldl Dev.portReset d) with fab.portsel := 0, fab.prio := [], fab.late := 0, fab.lasterr := 0 }
  else if p = pgMEMC then
    let m := d.mctl
    { d with mctl := { m with frz := if m.mstat == .frozen || m.mstat == .thawing then m.frz else {}, exclOvf := false
                              scrub := 0, ceRows := [], inj := 0, armed := false } }
  else if pgMEMG ≤ p ∧ p < pgLNB then
    (List.range 10).foldl (fun d i =>
      let c := 10 * (p - pgMEMG) + i
      d.setMchan c { d.mchan c with cecnt := 0, ceBank := 0, ceRow := 0, ceSec := 0 }) d
  else if isLnb p then d.lnbReset (p - pgLNB)
  else if p = pgING then { d with ing := {}, lnb.inbox := [], lnb.fwd := [] }
  else if p = pgDKL then { d with dkl := {} }
  else if p = pgHAT then { d with hat := {} }
  else if p = pgACC then { d with acc := {} }
  else if p = pgBMF then { d with bmf := {} }
  else if p = pgTRG then { d.trigoutsLow with trg := { tin := d.trg.tin } }
  else if p = pgPLT then
    let d := d.pltAbort eSTATE
    let l := d.plt
    { d with plt := { l with gen := 0, code := 0, limqty := 0, resOp := 0, ready := false, resGen := 0, resVal := 0, resOff := 0
                             pct := 0, budValid := false } }
  else if isBur p then
    let k := p - pgBUR
    let d := d.portReset 6
    { (List.range 16).foldl (fun d i => d.setCore (16 * k + i) {}) d with
      bur.parSh := Tab.clear (fun j => j / 0x2000 == k) d.bur.parSh, bur.par := Tab.clear (fun j => j / 0x2000 == k) d.bur.par
      bur.hold := d.bur.hold.filter fun e => e.1 / 16 != k }
  else if p = pgETH then ({ d with eth := [] } : Dev).masters
  else d

/-- The pages whose SRST is refused in RUNNING and DRAINING (R523). -/
def srstGuarded (p : Nat) : Bool :=
  isLnb p || (pgING ≤ p && p ≤ pgTRG) || (pgMEMC ≤ p && p ≤ 0x14)

/-- What refuses a write of a page's `PCTL` (R420, R523). -/
def Dev.pctlErrs (d : Dev) (p : Nat) (v : Word) : List Code :=
  let run := d.sys.state == .running || d.sys.state == .draining
  when' (v &&& 0xFFFFFFF8 ≠ 0) eRSVD
  ++ when' ((!bitAt 0 v && pageAlwaysOn p) || (bitAt 1 v && p == pgAON)) ePERM
  ++ when' ((!bitAt 0 v && !pageAlwaysOn p && !(d.sys.state == .ready || d.sys.state == .idle))
      || (bitAt 1 v && srstGuarded p && run) || (bitAt 1 v && p == pgCLK && !phStepState d.sys.state)) eSTATE

/-- A write of `PCTL`: EN, IRQ_ON_ERR, and SRST (R522, R523). -/
def Dev.pctlWrite (d : Dev) (p : Nat) (v : Word) : Dev :=
  d.guard p 0x8 (d.pctlErrs p v) fun d =>
    let d := d.modPage p fun g => { g with en := bitAt 0 v || pageAlwaysOn p, irqOnErr := bitAt 2 v }
    if !bitAt 1 v then d
    else if p = pgSYS then d.mladefReset 9
    else (d.pageCleared p).blockReset p

end Sys2Proof.Machine
end

