-- ==== Sys2Proof/Machine/Regs.lean ====
section
/-! DEFINITION. BAR0 as the host sees it: which accesses a page answers, the judgement of SYS commands, and writes of
every register (R488, R504, R519 to R531, R535 to R538, R545 to R557). -/

namespace Sys2Proof.Machine

/-! ### Access to BAR0 -/

/-- Writes that the AON island serves at S6 (R488). -/
def s6Write (p o : Nat) : Bool :=
  (p == pgSYS && (decide (0x1008 ≤ o ∧ o ≤ 0x1018) || decide (0x1800 ≤ o ∧ o < 0x1C00)))
  || (p == pgAON && (o == 0x101C || o == 0x1020 || o == 0x1018)) || (p == pgPWR && o == 0x1008)

/-- An access that the host's path answers: the link is up and the device is out of reset (R559). -/
def Dev.hostUp (d : Dev) : Bool := d.boot.linkUp && d.sys.state != .off

/-- What a BAR0 access to offset `o` of page `p` meets before the register: it goes nowhere, ends with a status of its
own, or reaches the page (R488, R504, R519). -/
def Dev.hostBar0 (d : Dev) (p o : Nat) (write : Bool) (f : Dev → Dev) : Dev :=
  if !d.hostUp then d
  else if !pageExists p then d.emit .unsupported
  else if d.sys.state == .imageWait && !(p == pgSYS || p == pgAON) then d.emit .unsupported
  else if decide (6 ≤ d.pwr.level) && !(if write then s6Write p o else pageAlwaysOn p) then d.emit .abort
  else f d

/-- A page whose block is in reset or not started refuses every write outside its header (R521). -/
def Dev.notReady (d : Dev) (p o : Nat) : Bool := !(d.page p).started && decide (0x100 ≤ o)

/-- A host write to a register: the path, then E_NOTREADY, then the register's own effect; a freeze or a change of state
that it brings is settled. -/
def Dev.hostWr (d : Dev) (p o : Nat) (f : Dev → Dev) : Dev :=
  d.hostBar0 p o true fun d => (if d.notReady p o then d.reject p o eNOTREADY else f d).settle

/-- MISALIGNED_ACCESS (R1): a BAR0 access that is not a naturally aligned 32-bit one, at byte offset `o` of page `p`. -/
def Dev.misaligned (d : Dev) (p o : Nat) (write : Bool) : Dev :=
  d.hostBar0 p (o / 4 * 4) write fun d =>
    if write then d.reject p o eALIGN
    else
      let d := d.perr p eALIGN o
      (d.logErr { page := p, code := eALIGN, word := o / 4, event := false, time := d.time.arr }).emit (.data 0)

/-- RESERVED_PAGE_ACCESS (R519). -/
def Dev.reservedPage (d : Dev) (p o : Nat) (write : Bool) : Dev :=
  if pageExists p then d else d.hostBar0 p o write fun d => d

/-! ### SYS commands (R535 to R538) -/

/-- The commands of R537. -/
def cmdListed (c : Nat) : Bool := [0x10, 0x11, 0x12, 0x13, 0x20, 0x30, 0x31, 0x32, 0x40, 0x50, 0x60, 0x70, 0x71].contains c

/-- The states in which a command is legal (R537). -/
def cmdLegal (c : Nat) (s : DevState) : Bool :=
  let l : List DevState :=
    if c = 0x10 ∨ c = 0x50 then [.idle]
    else if c = 0x11 then [.running]
    else if c = 0x12 ∨ c = 0x70 then [.running, .draining]
    else if c = 0x20 then [.ready, .idle, .frozen, .selftest]
    else if c = 0x30 ∨ c = 0x31 then [.ready, .idle, .running, .draining]
    else if c = 0x32 then [.ready, .idle, .running]
    else if c = 0x40 then [.ready, .idle]
    else if c = 0x60 then [.frozen]
    else [.booting, .ready, .idle, .running, .draining, .frozen, .quiesced, .selftest, .recovery]
  c == 0x13 || l.contains s

/-- The commands that S5 refuses (R487). -/
def cmdShed (c : Nat) : Bool := [0x10, 0x30, 0x31, 0x32, 0x40, 0x50].contains c

/-- A command argument. -/
def Dev.cmdArg (d : Dev) (i : Nat) : Word := d.reg (bar pgSYS (0x100C + 4 * i))

/-- A reserved bit is set in an argument that the command uses (R537). -/
def Dev.cmdRsvd (d : Dev) (c : Nat) : Bool :=
  if c = 0x10 then fld 31 16 (d.cmdArg 1) != 0 || fld 31 1 (d.cmdArg 2) != 0
  else if c = 0x71 then fld 31 2 (d.cmdArg 0) != 0
  else false

/-- The checks of R536 that precede a command's own; none where it passes them. -/
def Dev.cmdRefused (d : Dev) (c : Nat) : Option Code :=
  if !cmdListed c then some eRSVD
  else if d.sys.state == .imageWait && c != 0x13 then some eSTATE
  else if decide (6 ≤ d.pwr.level) && c != 0x13 then some eSHED
  else if decide (5 ≤ d.pwr.level) && cmdShed c then some eSHED
  else if !cmdLegal c d.sys.state then some eSTATE
  else if d.cmdRsvd c then some eRSVD
  else none

/-- A command with its own checks in order: the first that fails gives RESULT, or the effect happens. -/
def Dev.cmdDo (d : Dev) (errs : List Code) (f : Dev → Dev) : Code × Dev :=
  match errs.head? with
  | some c => (c, d)
  | none => (eOK, f d)

/-- A command's own checks and effect. `ownerAt`: S0 is one of the pair owner's ream boundaries (R473). -/
def Dev.cmdOwn (d : Dev) (c : Nat) (ownerAt : Bool) : Code × Dev :=
  match c with
  | 0x10 => d.cmdDo (d.startErrs ownerAt) Dev.start
  | 0x11 => d.cmdDo d.stopErrs Dev.stop
  | 0x12 => d.cmdDo [] Dev.quiesce
  | 0x13 => d.cmdDo [] fun d => d.estop .cmd
  | 0x20 => d.cmdDo [] Dev.latch
  | 0x30 => d.cmdDo (d.buildErrs false) Dev.build
  | 0x31 => d.cmdDo (d.buildErrs true) Dev.proof
  | 0x32 => d.armCmd (d.cmdArg 0)
  | 0x40 => d.cmdDo d.selftestErrs Dev.selftest
  | 0x50 => d.cmdDo d.retrainErrs Dev.retrain
  | 0x60 => d.cmdDo d.thawErrs Dev.thaw
  | 0x70 => d.cmdDo d.handoverErrs Dev.handover
  | _ => d.cmdDo (d.resyncErrs (d.cmdArg 0).toNat) fun d => d.resync (d.cmdArg 0).toNat

/-- `CMDSTAT` completes with a result (R532, R535); a refused command joins the error log (R534). -/
def Dev.cmdEnd (d : Dev) (code : Nat) (r : Code) : Dev :=
  let g := d.sys.cmdstat.gen + 1
  let d := { d with sys.cmdstat := { result := r, cmd := BitVec.ofNat 8 code, ready := true, busy := false, gen := g }
                    sys.cmdPend := none }
  let d := if r = eOK then d
    else d.logErr { page := pgSYS, code := r, word := 0x402, event := false, time := d.time.arr }
  d.raise pgSYS 0x2

/-- A command is judged (R536). -/
def Dev.cmdJudge (d : Dev) (code : Nat) (ownerAt : Bool) : Dev :=
  let (r, d) := match d.cmdRefused code with
    | some r => (r, d)
    | none => d.cmdOwn code ownerAt
  (d.cmdEnd code r).settle

/-- A code is written to `CMD` and waits for its judgement (R535). -/
def Dev.cmdPut (d : Dev) (code : Nat) : Dev :=
  { d with sys.cmdPend := some (BitVec.ofNat 8 code, d.time.loc)
           sys.cmdstat := { d.sys.cmdstat with ready := false, busy := true } }

/-- A host write of `SYS.CMD`: an ESTOP and an unlisted code are judged at once (R535, R536). -/
def Dev.cmdWrite (d : Dev) (v : Word) : Dev :=
  let c := fld 7 0 v
  d.guard pgSYS 0x1008 (when' (v >>> 8 ≠ 0) eRSVD ++ when' (d.sys.cmdstat.busy && c != 0x13) eBUSY) fun d =>
    if c = 0x13 ∧ d.sys.cmdstat.busy then d.estop .cmd
    else if c = 0x13 ∨ !cmdListed c then d.cmdJudge c false
    else d.cmdPut c

/-- The rows of R537: the code is written and judged; where it already waits, it is judged. -/
def Dev.cmdRow (d : Dev) (code : Nat) (ownerAt : Bool) : Dev :=
  match d.sys.cmdPend with
  | some (c, _) =>
    if c.toNat = code then d.cmdJudge code ownerAt
    else d.hostWr pgSYS 0x1008 fun d => d.cmdWrite (BitVec.ofNat 32 code)
  | none => d.hostWr pgSYS 0x1008 fun d => d.cmdJudge code ownerAt

/-- COMMAND_TIMEOUT (R535). -/
def Dev.cmdTimeout (d : Dev) : Dev :=
  match d.sys.cmdPend with
  | some (c, t) => if 10 ^ 7 ≤ d.since t then d.cmdEnd c.toNat eTIMEOUT else d
  | none => d

/-! ### The common header (R522, R525, R556) -/

/-- The `PIRQ` bits that a page reserves. -/
def pirqRsvd (p : Nat) : Word := ~~~(mask (pageIrqs p - 1) 0)

/-- PIRQ_CLEAR (R525): the bits written with 1 clear; a value left non-zero sends the message again. -/
def Dev.pirqClear (d : Dev) (p : Nat) (v : Word) : Dev :=
  d.guard p 0x18 (when' (v &&& pirqRsvd p ≠ 0) eRSVD) fun d =>
    let d := d.modPage p fun g => { g with pirq := g.pirq &&& ~~~v }
    if (d.page p).isPending then d.sendIrq p else d

/-- A write of `PIRQEN`: a value that becomes non-zero sends the message. -/
def Dev.pirqenWrite (d : Dev) (p : Nat) (v : Word) : Dev :=
  d.guard p 0x1C (when' (v &&& pirqRsvd p ≠ 0) eRSVD) fun d =>
    let was := (d.page p).isPending
    let d := d.modPage p fun g => { g with pirqen := v }
    if !was && (d.page p).isPending then d.sendIrq p else d

/-- PIRQSET_WRITE (R525). -/
def Dev.pirqsetWrite (d : Dev) (p : Nat) (v : Word) : Dev :=
  d.guard p 0x20 (when' (v &&& pirqRsvd p ≠ 0) eRSVD) fun d => d.raise p v

/-- PERRCLR_WRITE (R522). -/
def Dev.perrclr (d : Dev) (p : Nat) : Dev := d.modPage p fun g => { g with perr := {} }

/-- A header register is written. -/
def Dev.headerWrite (d : Dev) (p o : Nat) (v : Word) : Dev :=
  match o with
  | 0x08 => d.pctlWrite p v
  | 0x14 => d.perrclr p
  | 0x18 => d.pirqClear p v
  | 0x1C => d.pirqenWrite p v
  | 0x20 => d.pirqsetWrite p v
  | 0x28 => d.pcommit p v
  | _ => d.reject p o ePERM

/-- IRQMAP_WRITE (R556): entry `q`. -/
def Dev.irqmapWrite (d : Dev) (q : Nat) (v : Word) : Dev :=
  let o := 0x1800 + 4 * q
  d.guard pgSYS o (when' (!pageExists q) ePERM ++ when' (v >>> 8 ≠ 0) eRSVD) fun d =>
    let new := v.toNat % 256 != d.vector q
    let d := d.setReg (bar pgSYS o) v
    if new && (d.page q).isPending then d.sendIrq q else d

/-! ### Stored registers -/

/-- A write of a register that is a stored word: bits outside `m` are reserved. -/
def Dev.plainWrite (d : Dev) (p o : Nat) (m : Word) (errs : List Code) (v : Word) : Dev :=
  d.guard p o (when' (v &&& ~~~m ≠ 0) eRSVD ++ errs) fun d => d.setReg (bar p o) v

/-- A write of a register that is a field of the structured state. -/
def Dev.fieldWrite (d : Dev) (p o : Nat) (m : Word) (errs : List Code) (v : Word) (f : Dev → Dev) : Dev :=
  d.guard p o (when' (v &&& ~~~m ≠ 0) eRSVD ++ errs) f

/-- The state is RUNNING or DRAINING. -/
def Dev.inRun (d : Dev) : Bool := d.sys.state == .running || d.sys.state == .draining

/-- The page's shadow bank is locked (R531). -/
def Dev.lockErr (d : Dev) (p : Nat) : List Code := when' (d.page p).locked eLOCK

/-- A write to the SYS page past its header. -/
def Dev.sysWrite (d : Dev) (o : Nat) (v : Word) : Dev :=
  if o = 0x1008 then d.cmdWrite v
  else if 0x100C ≤ o ∧ o ≤ 0x1018 then d.plainWrite pgSYS o 0xFFFFFFFF (when' d.sys.cmdstat.busy eBUSY) v
  else if 0x1800 ≤ o ∧ o < 0x1C00 then d.irqmapWrite ((o - 0x1800) / 4) v
  else d.reject pgSYS o ePERM

/-- A write to the AON page past its header. -/
def Dev.aonWrite (d : Dev) (o : Nat) (v : Word) : Dev :=
  match o with
  | 0x1004 => d.imgCtl v
  | 0x1008 => d.imgLen v
  | 0x100C => d.imgData v
  | 0x1018 => d.wdogWrite v
  | 0x101C => d.estopWrite v
  | 0x1020 => d.snapctlWrite v
  | _ => d.reject pgAON o ePERM

/-- A write to the PWR page past its header (R481, R494, R497). -/
def Dev.pwrWrite (d : Dev) (o : Nat) (v : Word) : Dev :=
  match o with
  | 0x1008 => d.shedreqWrite v
  | 0x100C => d.plainWrite pgPWR o 0xF (when' (9 < v.toNat) eRANGE) v
  | 0x1014 => d.thrWrite o v
  | 0x1018 => d.thrWrite o v
  | 0x1020 => d.plainWrite pgPWR o 0xFF (when' (v.toNat < 60 || 100 < v.toNat) eRANGE) v
  | _ => d.reject pgPWR o ePERM

/-- A write to the PAIR page past its header. -/
def Dev.pairWrite (d : Dev) (o : Nat) (v : Word) : Dev :=
  match o with
  | 0x1000 => d.pairRegWrite o v
  | 0x1008 => d.pairRegWrite o v
  | 0x100C => d.pairRegWrite o v
  | 0x1010 => d.ilReset v
  | _ => d.reject pgPAIR o ePERM

/-- A write to the CLK page past its header (R426). -/
def Dev.clkWrite (d : Dev) (o : Nat) (v : Word) : Dev :=
  match o with
  | 0x1004 => d.refSelWrite v
  | 0x1008 => d.fieldWrite pgCLK o 7 [] v fun d => { d with clk.refIdx := v.toNat }
  | 0x100C => d.refCfgWrite v
  | 0x1040 => d.plainWrite pgCLK o 0x3FF (when' (v.toNat < 1 || 500 < v.toNat) eRANGE) v
  | 0x1044 => d.loopCtlWrite v
  | 0x1048 => d.freqAdjWrite v
  | 0x104C => d.phStepWrite v
  | 0x1050 => d.outAlignWrite v
  | 0x1070 => d.fieldWrite pgCLK o 7 (when' (5 < v.toNat) eRSVD) v fun d => { d with clk.outIdx := v.toNat }
  | 0x1074 => d.outCfgWrite 0 v
  | 0x1078 => d.outCfgWrite 1 v
  | 0x107C => d.outCfgWrite 2 v
  | _ => d.reject pgCLK o ePERM

/-- A write to the TIME page past its header (R450). -/
def Dev.timeWrite (d : Dev) (o : Nat) (v : Word) : Dev :=
  if o = 0x1000 then d.snapWrite v
  else if o = 0x1044 then d.baseCfgWrite v Dev.masterPresent
  else if o = 0x1040 ∨ (0x1058 ≤ o ∧ o ≤ 0x1070) then d.timeRegWrite o v
  else if 0x1100 ≤ o ∧ o < 0x1200 ∧ o % 0x20 < 0x14 then
    if o % 0x20 = 0 then d.almCtlWrite ((o - 0x1100) / 0x20) v else d.timeRegWrite o v
  else d.reject pgTIME o ePERM

/-- A write to the MSP page past its header (R454). -/
def Dev.mspWrite (d : Dev) (o : Nat) (v : Word) : Dev :=
  if 0x1000 ≤ o ∧ o < 0x1100 ∧ [0x00, 0x04, 0x08, 0x0C, 0x24, 0x28].contains (o % 0x40) then
    d.mspRegWrite ((o - 0x1000) / 0x40) (o % 0x40) v
  else if 0x8000 ≤ o ∧ o < 0x8400 ∧ (o % 0x100 < 8 ∨ 0x80 ≤ o % 0x100) then
    d.mspShadowWrite ((o - 0x8000) / 0x100) (o % 0x100) v
  else if 0xC000 ≤ o ∧ o < 0xC400 then d.monwordWrite ((o - 0xC000) / 4) v
  else d.reject pgMSP o ePERM

/-- A write of a word of the MSI-X table; a vector that is unmasked sends the message its PBA bit holds (R382, R549). The
PBA is read-only. -/
def Dev.msixWrite (d : Dev) (o : Nat) (v : Word) : Dev :=
  let i := (o - 0x4000) / 16
  if o % 16 = 12 then
    let d := d.setReg (bar pgHIF o) (v &&& 1)
    let a := bar pgHIF (0x5000 + i / 32 * 4)
    if !bitAt 0 v && (d.reg a).getLsbD (i % 32) then
      (d.setReg a (d.reg a &&& ~~~(BitVec.ofNat 32 (2 ^ (i % 32))))).emit (.msi i)
    else d
  else d.setReg (bar pgHIF o) (if o % 16 = 0 then v &&& ~~~3 else v)

/-- A write to the HIF page past its header. -/
def Dev.hifWrite (d : Dev) (o : Nat) (v : Word) : Dev :=
  if 0x4000 ≤ o ∧ o < 0x5000 then d.msixWrite o v
  else if 0x5000 ≤ o ∧ o < 0x5020 then d
  else d.reject pgHIF o ePERM

/-- A write to the MMU page past its header (R404). -/
def Dev.mmuWrite (d : Dev) (o : Nat) (v : Word) : Dev :=
  match o with
  | 0x1000 => d.fieldWrite pgMMU o 0x3F [] v fun d => { d with mmu.sel := v.setWidth 6 }
  | 0x1004 => d.ctxWrite o v
  | 0x1008 => d.ctxWrite o v
  | 0x100C => d.ctxWrite o v
  | 0x1010 => d.invWrite v
  | 0x1014 => d.plainWrite pgMMU o 0xFFFFFFFF [] v
  | 0x1018 => d.plainWrite pgMMU o 0xFFFFFFFF [] v
  | _ => d.reject pgMMU o ePERM

/-- A write of `CHCMD` (R392, R402). -/
def Dev.chCmdWrite (d : Dev) (k n : Nat) (v : Word) : Dev :=
  if v >>> 2 ≠ 0 ∨ v = 0 then d.reject (pgDMA + k) (0x1104 + 0x80 * n) eRSVD
  else if v = 1 then d.dmaStart k n
  else if v = 2 then d.dmaResume k n
  else d.dmaAbort k n

/-- A write to a DMA page past its header. -/
def Dev.dmaWrite (d : Dev) (k o : Nat) (v : Word) : Dev :=
  let n := (o - 0x1100) / 0x80
  let r := o % 0x80
  if !decide (0x1100 ≤ o ∧ o < 0x1300) then d.reject (pgDMA + k) o ePERM
  else if r = 4 then d.chCmdWrite k n v
  else if [0x00, 0x0C, 0x10, 0x14, 0x28, 0x2C, 0x30, 0x38].contains r then d.chRegWrite k n r v
  else d.reject (pgDMA + k) o ePERM

/-- A write to the FAB page past its header. -/
def Dev.fabWrite (d : Dev) (o : Nat) (v : Word) : Dev :=
  match o with
  | 0x1000 => d.fieldWrite pgFAB o 0xF (when' (13 < v.toNat) eRANGE) v fun d => { d with fab.portsel := v.setWidth 4 }
  | 0x1008 => d.prioWrite v
  | _ => d.reject pgFAB o ePERM

/-- A write to the MEMC page past its header (R363). -/
def Dev.memcWrite (d : Dev) (o : Nat) (v : Word) : Dev :=
  match o with
  | 0x102C => d.frzForce v
  | 0x1030 => d.plainWrite pgMEMC o 0x1FF (when' (fld 7 0 v < 1 || 168 < fld 7 0 v) eRANGE) v
  | 0x1038 => d.plainWrite pgMEMC o 0xFF (when' (v.toNat < 1) eRANGE) v
  | 0x1040 => d.plainWrite pgMEMC o 0xFFFF1F3F [] v
  | 0x1044 => d.exclAddWrite v
  | 0x1048 => d.injWrite v
  | _ => d.reject pgMEMC o ePERM

/-- A write of `LROLE` of logical lane `l` (R311 to R313, R340). -/
def Dev.lroleWrite (d : Dev) (l : Nat) (v : Word) : Dev :=
  let p := lanePage l
  d.guard p (0x8000 + 4 * (l % 16))
    (when' (v &&& 0xFFFFFFC8 ≠ 0 || 4 < fld 2 0 v) eRSVD ++ d.lockErr p
      ++ when' (fld 2 0 v != 0 && (d.lane l).state == .failed) 0x10) fun d => d.setReg (lroleAddr l) v

/-- A write to an LNB page past its header. -/
def Dev.lnbWrite (d : Dev) (g o : Nat) (v : Word) : Dev :=
  let p := pgLNB + g
  if 0x1100 ≤ o ∧ o < 0x1500 then
    let n := 16 * g + (o - 0x1100) / 0x40
    match o % 0x40 with
    | 0x00 => d.lctlWrite n v
    | 0x08 => d.guard p o (d.ltxeqErrs n v) fun d => d.setReg (bar p o) v
    | 0x0C => d.plainWrite p o 0xFFFF [] v
    | _ => d.reject p o ePERM
  else if 0x8000 ≤ o ∧ o < 0x8040 then d.lroleWrite (16 * g + (o - 0x8000) / 4) v
  else d.reject p o ePERM

/-- A write to the ING page past its header (R73 to R76). -/
def Dev.ingWrite (d : Dev) (o : Nat) (v : Word) : Dev :=
  let p := pgING
  let lock := d.lockErr p
  if 0x1020 ≤ o ∧ o < 0x1040 then d.laneqRelease ((o - 0x1020) / 4) v
  else if 0x1080 ≤ o ∧ o < 0x10A0 then { d with ing.keyStage := Tab.set 0 d.ing.keyStage ((o - 0x1080) / 4) v }
  else match o with
    | 0x1018 => d.fieldWrite p o 0xFF [] v fun d => { d with ing.lstatIdx := v.setWidth 8 }
    | 0x1040 => d.fieldWrite p o 0x1FFF [] v fun d => { d with ing.inflagIdx := v.setWidth 13 }
    | 0x10A0 => d.macKeyCtl v
    | 0x8000 => d.fieldWrite p o 0x3FFF lock v fun d => { d with ing.bindIdx := v.setWidth 14 }
    | 0x8004 => d.fieldWrite p o 0xFFFFFFFF lock v fun d => { d with ing.bindLo := v }
    | 0x8008 => d.bindHiWrite v
    | 0x800C => d.fieldWrite p o 0xFF lock v fun d => { d with ing.rateIdx := v.setWidth 8 }
    | 0x8010 => d.fieldWrite p o 0xFFFFFF lock v fun d =>
        { d with ing.shadow.rate := Tab.set 0 d.ing.shadow.rate d.ing.rateIdx.toNat (v.setWidth 24) }
    | 0x8014 => d.fieldWrite p o 0xFFFF (when' (v.setWidth 16 == (0 : BitVec 16)) eRANGE ++ lock) v fun d =>
        { d with ing.shadow.depth := Tab.set 0 d.ing.shadow.depth d.ing.rateIdx.toNat (v.setWidth 16) }
    | _ => d.reject p o ePERM

/-- A write to the DKL page past its header (R104). -/
def Dev.dklWrite (d : Dev) (o : Nat) (v : Word) : Dev :=
  match o with
  | 0x100C => d.fieldWrite pgDKL o 0x3F (when' (39 < v.toNat) eRANGE) v fun d => { d with dkl.rsvIdx := v.setWidth 6 }
  | 0x1044 => d.caprdWrite v
  | 0x1050 => d.dklRelease v
  | 0x1054 => d.plainWrite pgDKL o 0xFFFF [] v
  | _ => d.reject pgDKL o ePERM

/-- A write to the HAT page past its header (R137). -/
def Dev.hatWrite (d : Dev) (o : Nat) (v : Word) : Dev :=
  if 0x1000 ≤ o ∧ o < 0x1014 then d.qmaskWrite ((o - 0x1000) / 4) v
  else if o = 0x1040 then
    d.fieldWrite pgHAT o 0xFF (when' (147 < v.toNat) eRANGE) v fun d => { d with hat.qcauseIdx := v.setWidth 8 }
  else if o = 0x106C then d.fieldWrite pgHAT o 3 [] v fun d => { d with hat.chkIdx := v.setWidth 2 }
  else d.reject pgHAT o ePERM

/-- A write to the BMF page past its header (R225). -/
def Dev.bmfWrite (d : Dev) (o : Nat) (v : Word) : Dev :=
  match o with
  | 0x1040 => d.stgrdWrite v
  | 0x1044 => d.plainWrite pgBMF o 0xFFFFFF [] v
  | 0x8000 => d.bmfShadowWrite o v
  | 0x8004 => d.bmfShadowWrite o v
  | _ => d.reject pgBMF o ePERM

/-- A write to the TRG page past its header (R257, R258). -/
def Dev.trgWrite (d : Dev) (o : Nat) (v : Word) : Dev :=
  let run := when' d.inRun eSTATE
  match o with
  | 0x1048 => d.logrdWrite v
  | 0x104C => d.plainWrite pgTRG o 0xFFFFFF [] v
  | 0x1050 => d.plainWrite pgTRG o 0x1FFF run v
  | 0x1054 => d.plainWrite pgTRG o 0xFFFF run v
  | 0x1058 => d.plainWrite pgTRG o 3 run v
  | 0x105C => d.plainWrite pgTRG o 0xFFFF (when' (v.setWidth 16 == (0 : BitVec 16)) eRANGE) v
  | _ => d.reject pgTRG o ePERM

/-- A write to the PLT page past its header (R200). -/
def Dev.pltWrite (d : Dev) (o : Nat) (v : Word) : Dev :=
  match o with
  | 0x1000 => d.plainWrite pgPLT o 0xFFFFFFFF [] v
  | 0x1028 => d.slotCtlWrite v
  | _ => d.reject pgPLT o ePERM

/-- A write to a BUR page past its header (R288 to R290). -/
def Dev.burWrite (d : Dev) (k o : Nat) (v : Word) : Dev :=
  if 0x1100 ≤ o ∧ o < 0x1500 then
    let c := 16 * k + (o - 0x1100) / 0x40
    match o % 0x40 with
    | 0x00 => d.cctlWrite c v
    | 0x0C => d.coreRegWrite c 0x0C v
    | 0x10 => d.coreRegWrite c 0x10 v
    | 0x14 => d.coreRegWrite c 0x14 v
    | 0x18 => d.mbxinWrite c v
    | _ => d.reject (pgBUR + k) o ePERM
  else if 0x8000 ≤ o then d.paramWrite k o v
  else d.reject (pgBUR + k) o ePERM

/-- A write to the ETH page past its header (R453). -/
def Dev.ethWrite (d : Dev) (o : Nat) (v : Word) : Dev :=
  if 0x1000 ≤ o ∧ o < 0x1200 ∧ [0x00, 0x08, 0x0C, 0x10, 0x1C].contains (o % 0x100) then
    d.ethRegWrite ((o - 0x1000) / 0x100) (o % 0x100) v
  else d.reject pgETH o ePERM

/-! ### Every page -/

/-- A write that has reached page `p` (R521, R527). -/
def Dev.regWrite (d : Dev) (p o : Nat) (v : Word) : Dev :=
  if o < 0x100 then d.headerWrite p o v
  else if o < 0x1000 then d.reject p o ePERM
  else if p = pgSYS then d.sysWrite o v
  else if p = pgAON then d.aonWrite o v
  else if p = pgPWR then d.pwrWrite o v
  else if p = pgPAIR then d.pairWrite o v
  else if p = pgCLK then d.clkWrite o v
  else if p = pgTIME then d.timeWrite o v
  else if p = pgMSP then d.mspWrite o v
  else if p = pgHIF then d.hifWrite o v
  else if p = pgMMU then d.mmuWrite o v
  else if pgDMA ≤ p ∧ p < pgFAB then d.dmaWrite (p - pgDMA) o v
  else if p = pgFAB then d.fabWrite o v
  else if p = pgMEMC then d.memcWrite o v
  else if isLnb p then d.lnbWrite (p - pgLNB) o v
  else if p = pgING then d.ingWrite o v
  else if p = pgDKL then d.dklWrite o v
  else if p = pgHAT then d.hatWrite o v
  else if p = pgACC then (if o = 0x100C then d.accRelease v else d.reject p o ePERM)
  else if p = pgBMF then d.bmfWrite o v
  else if p = pgTRG then d.trgWrite o v
  else if p = pgPLT then d.pltWrite o v
  else if isBur p then d.burWrite (p - pgBUR) o v
  else if p = pgETH then d.ethWrite o v
  else d.reject p o ePERM

/-- REGISTER_WRITE: a host write of a word to offset `o` of page `p`. -/
def Dev.registerWrite (d : Dev) (p o : Nat) (v : Word) : Dev :=
  if o % 4 = 0 then d.hostWr p o fun d => d.regWrite p o v else d.misaligned p o true

/-! ### POP registers and the SFN latch (R399, R533, R534, R545) -/

/-- A host read of a POP register at offset `o` of page `p`, whose effect on a page in service is `f`. -/
def Dev.hostPop (d : Dev) (p o : Nat) (f : Dev → Dev) : Dev :=
  d.hostBar0 p o false fun d => if (d.page p).started then f d else d.emit (.data 0)

/-- ERRLOG_POP (R534): the oldest entry is returned and removed; an empty log reads 0. -/
def Dev.errlogPop (d : Dev) : Dev :=
  match d.sys.errlog with
  | [] => d.emit (.data 0)
  | e :: t =>
    ({ d with sys.errlog := t, sys.errlogT := e.time } : Dev).emit
      (.data (at_ 0 e.page ||| at_ 8 e.code.toNat ||| at_ 16 (e.word % 16384) ||| at_ 30 (b2n e.event) ||| at_ 31 1))

/-- SFN_NOW_READ (R545): master `m` reads `SFN_NOW_LO`, or with `hi` `SFN_NOW_HI`; the host is master 0. -/
def Dev.sfnNowRead (d : Dev) (m : Nat) (hi : Bool) : Dev :=
  let o := if hi then 0x1404 else 0x1400
  let f := fun (d : Dev) => (d.emit (.data (d.readReg m pgSYS o))).sfnRead m o
  if m = 0 then d.hostBar0 pgSYS o false f else if d.sys.state = .off then d else f d

end Sys2Proof.Machine
end

