-- ==== Sys2Proof/Machine/CmdBase.lean ====
section
/-! DEFINITION. What the meanings of the commands share: which events a page can have, the host's path through BAR2, and
operand forms. -/

namespace Sys2Proof.Machine

/-- A command's outcome where it may have frozen memory or changed the device state: what follows is settled. -/
def State.settled (s : State) (f : Dev → Dev) : Host.Outcome State Fault Refusal := s.run fun d => (f d).settle

/-- An event of a unit happens only while its page is out of reset, started and clocked (R521, R523). -/
def Dev.unitOn (d : Dev) (p : Nat) : Bool := d.sys.state != .off && (d.page p).started && (d.page p).en

/-- An event `f` of the unit behind page `p`. -/
def Dev.onPage (d : Dev) (p : Nat) (f : Dev → Dev) : Dev := if d.unitOn p then f d else d

/-- A host write through BAR2 to `n` bytes at offset `o` of a window that lies on a 256-byte boundary: it goes nowhere,
is unsupported before an image runs, is lost at S6, or is accepted by the fabric (R373, R383, R488, R504). -/
def Dev.hostBar2 (d : Dev) (o n : Nat) (f : Dev → Dev) : Dev :=
  if !d.hostUp then d
  else if d.sys.state = .imageWait then d.emit .unsupported
  else if 6 ≤ d.pwr.level then d.writeLost
  else f (d.fabAccept o n)

/-- TRIGIN_EDGE: the land's level is seen whatever its unit does; the edge counts where the unit is on. -/
def Dev.triginAt (d : Dev) (n : Nat) (rise : Bool) : Dev :=
  if d.unitOn pgTRG then d.triginEdge n rise
  else { d with trg.tin := if rise then d.trg.tin ||| BitVec.ofNat 4 (2 ^ n) else d.trg.tin &&& ~~~(BitVec.ofNat 4 (2 ^ n)) }

/-- OWN_IN_CHANGE: the land's level is seen whatever its unit does. -/
def Dev.ownInAt (d : Dev) (level : Bool) : Dev :=
  if d.unitOn pgPAIR then (d.ownInChange level).settle else { d with pair.ownIn := level }

/-- Bit `i` of a word that is written, where `b` holds. -/
def bit (i : Nat) (b : Bool) : Word := at_ i (b2n b)

/-- The numbers that a list of bounded operands names. -/
def vals {n : Nat} (l : List (Fin n)) : List Nat := l.map Fin.val

end Sys2Proof.Machine
end

