-- ==== Sys2Proof/Machine/CmdBeam.lean ====
section
/-! DEFINITION. Meanings: beam former, trigger unit and plates (chapters 7 to 9). -/

namespace Sys2Proof.Machine

/-- `BEAM_FRAME_SEND` (R216). -/
def execBeamFrameSend (lane : Fin 256) (poison : Bool) (s : State) : Host.Outcome State Fault Refusal :=
  s.run fun d => d.onPage pgBMF fun d => d.beamFrameSend lane poison

/-- `BMF_TABLE_WRITE` (R224). -/
def execBmfTableWrite (shadow : Bool) (off : BitVec 24) (l : List Byte)
    (s : State) : Host.Outcome State Fault Refusal :=
  s.run fun d => d.hostBar2 off.toNat l.length fun d => d.bmfHostWrite shadow off.toNat l

/-- `STGRD_WRITE` (R225). -/
def execStgrdWrite (v : Word) (s : State) : Host.Outcome State Fault Refusal :=
  s.run fun d => d.hostWr pgBMF 0x1040 fun d => d.stgrdWrite v

/-- `TRIGGER_SAMPLE_EVAL` (R241). -/
def execTriggerSampleEval (lat : Nat) (s : State) : Host.Outcome State Fault Refusal :=
  s.run fun d => d.onPage pgTRG fun d => d.triggerEval lat

/-- `SW_DEADLINE` (R241). -/
def execSwDeadline (s : State) : Host.Outcome State Fault Refusal :=
  s.run fun d => d.onPage pgTRG fun d => d.swDeadline

/-- `TRIGIN_EDGE` (R246). -/
def execTriginEdge (n : Fin 4) (rise : Bool) (s : State) : Host.Outcome State Fault Refusal :=
  s.run fun d => d.triginAt n rise

/-- `TRIGOUT_PULSE_END` (R247). -/
def execTrigoutPulseEnd (n : Fin 4) (s : State) : Host.Outcome State Fault Refusal :=
  s.run fun d => d.onPage pgTRG fun d => d.trigoutEnd n

/-- `LOG_ENTRY_WRITE` (R252). -/
def execLogEntryWrite (s : State) : Host.Outcome State Fault Refusal :=
  s.run fun d => d.onPage pgTRG fun d => d.logEntryWrite

/-- `TRG_TABLE_WRITE` (R255). -/
def execTrgTableWrite (shadow : Bool) (off : BitVec 24) (l : List Byte)
    (s : State) : Host.Outcome State Fault Refusal :=
  s.run fun d => d.hostBar2 off.toNat l.length fun d => d.trgHostWrite shadow off.toNat l

/-- `LOGRD_WRITE` (R257). -/
def execLogrdWrite (v : Word) (s : State) : Host.Outcome State Fault Refusal :=
  s.run fun d => d.hostWr pgTRG 0x1048 fun d => d.logrdWrite v

/-- `BUILD_DONE` (R187). -/
def execBuildDone (s : State) : Host.Outcome State Fault Refusal :=
  s.settled fun d => d.onPage pgPLT fun d => d.buildDone

/-- `PROOF_DONE` (R191). -/
def execProofDone (s : State) : Host.Outcome State Fault Refusal :=
  s.settled fun d => d.onPage pgPLT fun d => d.proofDone

/-- `DISARM` (R198). -/
def execDisarm (s : State) : Host.Outcome State Fault Refusal :=
  s.run fun d => d.hostWr pgPLT 0x1028 fun d => d.slotCtlWrite 1

/-- `PLATE_SLOT_WRITE` (R195). -/
def execPlateSlotWrite (slot : Bool) (off : BitVec 26) (l : List Byte)
    (s : State) : Host.Outcome State Fault Refusal :=
  s.settled fun d => d.hostBar2 off.toNat l.length fun d =>
    if d.memServes then d.slotWrite slot off.toNat l else d.fabWait 0 0 true

/-- `TRIG_FRAME_SEND` (R244). -/
def execTrigFrameSend (s : State) : Host.Outcome State Fault Refusal :=
  s.run fun d => d.onPage pgTRG fun d => d.trigFrameSend

end Sys2Proof.Machine
end

