-- ==== Sys2Proof/Machine/CmdBoot.lean ====
section
/-! DEFINITION. Meanings: resets, boot, the access ports, ESTOP and the snapshot (chapters 19 and 22). -/

namespace Sys2Proof.Machine

/-- `MLADEF_ISLAND_RESET` (R515). -/
def execMladefIslandReset (wdog : Bool) (s : State) : Host.Outcome State Fault Refusal :=
  s.settled fun d =>
    if wdog then (if d.sys.state = .recovery then d else d.watchdogExpire) else d.hostWr pgSYS 0x08 fun d => d.pctlWrite pgSYS (3 ||| bit 2 (d.page pgSYS).irqOnErr)

/-- `WATCHDOG_EXPIRE` (R515). -/
def execWatchdogExpire (s : State) : Host.Outcome State Fault Refusal :=
  s.settled Dev.watchdogExpire

/-- `RECOVERY_COMPLETE` (R515). -/
def execRecoveryComplete (s : State) : Host.Outcome State Fault Refusal :=
  s.settled Dev.recoveryComplete

/-- `WDOG_FIRE` (R518). -/
def execWdogFire (s : State) : Host.Outcome State Fault Refusal :=
  s.run fun d => d.hostWr pgAON 0x1018 fun d => d.wdogWrite (bit 31 true ||| d.boot.wdTimeout.setWidth 32)

/-- `POWER_ON_RESET` (R502). -/
def execPowerOnReset (s : State) : Host.Outcome State Fault Refusal :=
  s.run Dev.powerOnReset

/-- `PORST_RELEASE` (R504). -/
def execPorstRelease (s : State) : Host.Outcome State Fault Refusal :=
  s.run Dev.porstRelease

/-- `LINK_RESET` (R503). -/
def execLinkReset (perst : Bool) (s : State) : Host.Outcome State Fault Refusal :=
  s.settled fun d => d.linkReset perst

/-- `PCIE_LINK_UP` (R401). -/
def execPcieLinkUp (speed : BitVec 4) (width : BitVec 6) (flit : Bool)
    (s : State) : Host.Outcome State Fault Refusal :=
  s.run fun d => d.linkUp speed width flit

/-- `IMGDATA_WRITE` (R505). -/
def execImgdataWrite (v : Word) (s : State) : Host.Outcome State Fault Refusal :=
  s.run fun d => d.hostWr pgAON 0x100C fun d => d.imgData v

/-- `IMGCTL_CLR` (R505). -/
def execImgctlClr (path : Bool) (s : State) : Host.Outcome State Fault Refusal :=
  s.run fun d => d.hostWr pgAON 0x1004 fun d => d.imgCtl (4 ||| bit 1 path)

/-- `IMGCTL_GO` (R506). -/
def execImgctlGo (path : Bool) (s : State) : Host.Outcome State Fault Refusal :=
  s.run fun d => d.hostWr pgAON 0x1004 fun d => d.imgCtl (1 ||| bit 1 path)

/-- `IMAGE_VERIFY_DONE` (R506). -/
def execImageVerifyDone (poison pllFail : Bool) (s : State) : Host.Outcome State Fault Refusal :=
  s.settled fun d => d.imageVerifyDone poison pllFail

/-- `BRINGUP_COMPLETE` (R509). -/
def execBringupComplete (s : State) : Host.Outcome State Fault Refusal :=
  s.settled Dev.bringupComplete

/-- `BRINGUP_REF_TIMEOUT` (R509). -/
def execBringupRefTimeout (s : State) : Host.Outcome State Fault Refusal :=
  s.run Dev.refTimeout

/-- `ESTOP_N_EDGE` (R564). -/
def execEstopNEdge (s : State) : Host.Outcome State Fault Refusal :=
  s.settled Dev.estopNFall

/-- `ESTOP_ASSERT` (R568). -/
def execEstopAssert (s : State) : Host.Outcome State Fault Refusal :=
  s.run fun d => d.hostWr pgAON 0x101C fun d => d.estopWrite 1

/-- `ESTOP_RELEASE` (R567). -/
def execEstopRelease (s : State) : Host.Outcome State Fault Refusal :=
  s.run fun d => d.hostWr pgAON 0x101C fun d => d.estopWrite 2

/-- `AON_NOP` (R561). -/
def execAonNop (i3c : Bool) (s : State) : Host.Outcome State Fault Refusal :=
  s.settled fun d => d.aonDo i3c none 0

/-- `AON_READ` (R561). -/
def execAonRead (i3c : Bool) (page : Byte) (word : BitVec 14) (s : State) : Host.Outcome State Fault Refusal :=
  s.run fun d => d.aonDo i3c (some word) (1 ||| page.setWidth 32 <<< 8)

/-- `AON_ESTOP` (R561). -/
def execAonEstop (i3c : Bool) (s : State) : Host.Outcome State Fault Refusal :=
  s.settled fun d => d.aonDo i3c none 2

/-- `AON_RELEASE` (R561). -/
def execAonRelease (i3c : Bool) (s : State) : Host.Outcome State Fault Refusal :=
  s.settled fun d => d.aonDo i3c none 3

/-- `AON_SNAPTAKE` (R561). -/
def execAonSnaptake (i3c : Bool) (s : State) : Host.Outcome State Fault Refusal :=
  s.settled fun d => d.aonDo i3c none 4

/-- `AON_SNAPCLR` (R561). -/
def execAonSnapclr (i3c : Bool) (s : State) : Host.Outcome State Fault Refusal :=
  s.settled fun d => d.aonDo i3c none 5

/-- `AON_WDRESET` (R561). -/
def execAonWdreset (i3c : Bool) (confirm : Byte) (s : State) : Host.Outcome State Fault Refusal :=
  s.settled fun d => d.aonDo i3c none (6 ||| confirm.setWidth 32 <<< 16)

/-- `AON_SETSHED` (R561). -/
def execAonSetshed (i3c : Bool) (level : BitVec 3) (s : State) : Host.Outcome State Fault Refusal :=
  s.settled fun d => d.aonDo i3c (some (level.setWidth 14)) 7

/-- `AON_READSNAP` (R561). -/
def execAonReadsnap (i3c : Bool) (word : BitVec 14) (s : State) : Host.Outcome State Fault Refusal :=
  s.run fun d => d.aonDo i3c (some word) 8

/-- `I3C_PRIVATE_WRITE` (R563). -/
def execI3cPrivateWrite (idx : Byte) (v : Word) (s : State) : Host.Outcome State Fault Refusal :=
  s.settled fun d => d.i3cWrite idx v

/-- `I3C_PRIVATE_READ` (R563). -/
def execI3cPrivateRead (s : State) : Host.Outcome State Fault Refusal :=
  s.run Dev.i3cRead

/-- `I3C_CCC` (R563). -/
def execI3cCcc (code : Ccc) (s : State) : Host.Outcome State Fault Refusal :=
  s.run fun d => d.i3cCcc code

/-- `SNAP_TAKE` (R571). -/
def execSnapTake (s : State) : Host.Outcome State Fault Refusal :=
  s.run fun d => d.hostWr pgAON 0x1020 fun d => d.snapctlWrite (1 ||| bit 2 d.aon.autoFrz ||| bit 3 d.aon.autoWdog)

/-- `SNAP_CLEAR` (R571). -/
def execSnapClear (s : State) : Host.Outcome State Fault Refusal :=
  s.run fun d => d.hostWr pgAON 0x1020 fun d => d.snapctlWrite (2 ||| bit 2 d.aon.autoFrz ||| bit 3 d.aon.autoWdog)

/-- `SNAPSHOT_DONE` (R569). -/
def execSnapshotDone (s : State) : Host.Outcome State Fault Refusal :=
  s.run Dev.snapDone

/-- `MEMORY_TRAINING_DONE` (R353). -/
def execMemoryTrainingDone (failed : List (Fin 40)) (bad : List (BitVec 38)) (quires : List (Fin 148)) (lanes : List (Fin 256)) (sram : Bool)
    (s : State) : Host.Outcome State Fault Refusal :=
  s.settled fun d => d.memoryTrainingDone (vals failed) (bad.map BitVec.toNat) (vals quires) (vals lanes) sram

/-- `PERST_N_RELEASE` (R503). -/
def execPerstNRelease (s : State) : Host.Outcome State Fault Refusal :=
  s.run Dev.perstRelease

/-- `ESTOP_N_RISE` (R568). -/
def execEstopNRise (s : State) : Host.Outcome State Fault Refusal :=
  s.run Dev.estopNRise

end Sys2Proof.Machine
end

