-- ==== Sys2Proof/Machine/CmdBur.lean ====
section
/-! DEFINITION. Meanings: burin cores (chapter 10). -/

namespace Sys2Proof.Machine

/-- `BURIN_ACTIVATION` (R278). -/
def execBurinActivation (core : Fin 64) (s : State) : Host.Outcome State Fault Refusal :=
  s.run fun d => d.onPage (burPage core) fun d => d.burActivate core

/-- `BURIN_TIMER` (R275). -/
def execBurinTimer (core : Fin 64) (s : State) : Host.Outcome State Fault Refusal :=
  s.run fun d => d.onPage (burPage core) fun d => d.burTimer core

/-- `BURIN_IRQ_TAKEN` (R271). -/
def execBurinIrqTaken (core : Fin 64) (s : State) : Host.Outcome State Fault Refusal :=
  s.run fun d => d.onPage (burPage core) fun d => d.burIrq core

/-- `CMT_GO` (R280). -/
def execCmtGo (core : Fin 64) (num : BitVec 16) (s : State) : Host.Outcome State Fault Refusal :=
  s.run fun d => d.onPage (burPage core) fun d => d.cmtGo core num

/-- `SW_POST` (R281). -/
def execSwPost (core : Fin 64) (s : State) : Host.Outcome State Fault Refusal :=
  s.run fun d => d.onPage (burPage core) fun d => d.swPost core

/-- `XF_GO` (R275). -/
def execXfGo (core : Fin 64) (dir : Bool) (s : State) : Host.Outcome State Fault Refusal :=
  s.settled fun d => d.onPage (burPage core) fun d => d.xfGo core dir

/-- `XF_DONE` (R275). -/
def execXfDone (core : Fin 64) (s : State) : Host.Outcome State Fault Refusal :=
  s.settled fun d => d.onPage (burPage core) fun d => d.xfDone core

/-- `MBXIN_PORT_READ` (R275). -/
def execMbxinPortRead (core : Fin 64) (s : State) : Host.Outcome State Fault Refusal :=
  s.run fun d => d.onPage (burPage core) fun d => let (w, d) := d.mbxPop core; d.emit (.data (w.setWidth 32))

/-- `BURIN_RELOAD_DONE` (R285). -/
def execBurinReloadDone (s : State) : Host.Outcome State Fault Refusal :=
  s.run fun d => if d.sys.state = .off then d else d.burReloadDone

/-- `CCTL_HALT` (R290). -/
def execCctlHalt (core : Fin 64) (halt : Bool) (s : State) : Host.Outcome State Fault Refusal :=
  s.run fun d => d.hostWr (burPage core) (0x1100 + 0x40 * (core % 16)) fun d => d.cctlWrite core (bit 0 halt)

/-- `CCTL_STEP` (R289). -/
def execCctlStep (core : Fin 64) (s : State) : Host.Outcome State Fault Refusal :=
  s.run fun d => d.hostWr (burPage core) (0x1100 + 0x40 * (core % 16)) fun d =>
    d.cctlWrite core (2 ||| bit 0 (d.core core).halt)

/-- `CCTL_CRESET` (R287). -/
def execCctlCreset (core : Fin 64) (s : State) : Host.Outcome State Fault Refusal :=
  s.run fun d => d.hostWr (burPage core) (0x1100 + 0x40 * (core % 16)) fun d =>
    d.cctlWrite core (4 ||| bit 0 (d.core core).halt)

/-- `MBXIN_WRITE` (R290). -/
def execMbxinWrite (core : Fin 64) (v : Word) (s : State) : Host.Outcome State Fault Refusal :=
  s.run fun d => d.hostWr (burPage core) (0x1118 + 0x40 * (core % 16)) fun d => d.mbxinWrite core v

end Sys2Proof.Machine
end

