-- ==== Sys2Proof/Machine/CmdClk.lean ====
section
/-! DEFINITION. Meanings: references, loop and outputs (chapter 15). -/

namespace Sys2Proof.Machine

/-- `REFERENCE_EDGE` (R407). -/
def execReferenceEdge (i : Fin 8) (foffs fxtal jump phase : Int) (s : State) : Host.Outcome State Fault Refusal :=
  s.run fun d => d.onPage pgCLK fun d => d.refEdge i foffs fxtal jump phase

/-- `REFERENCE_EDGE_MISSING` (R407). -/
def execReferenceEdgeMissing (i : Fin 8) (s : State) : Host.Outcome State Fault Refusal :=
  s.run fun d => d.onPage pgCLK fun d => d.refMissing i

/-- `REFERENCE_QUALIFIED` (R409). -/
def execReferenceQualified (i : Fin 8) (s : State) : Host.Outcome State Fault Refusal :=
  s.run fun d => d.onPage pgCLK fun d => d.refQualified i

/-- `SWITCH_COMPLETE` (R415). -/
def execSwitchComplete (s : State) : Host.Outcome State Fault Refusal :=
  s.run fun d => d.onPage pgCLK fun d => d.switchComplete

/-- `DISAGREE_CHECK` (R413). -/
def execDisagreeCheck (i j : Fin 8) (fi fj : Int) (s : State) : Host.Outcome State Fault Refusal :=
  s.run fun d => d.onPage pgCLK fun d => d.disagreeCheck i j fi fj

/-- `LOOPCTL_SW_WRITE` (R419). -/
def execLoopctlSwWrite (v : Word) (s : State) : Host.Outcome State Fault Refusal :=
  s.run fun d => d.hostWr pgCLK 0x1044 fun d => d.loopCtlWrite v

/-- `FREQADJ_WRITE` (R419). -/
def execFreqadjWrite (v : Word) (s : State) : Host.Outcome State Fault Refusal :=
  s.run fun d => d.hostWr pgCLK 0x1048 fun d => d.freqAdjWrite v

/-- `PHSTEP_WRITE` (R420). -/
def execPhstepWrite (v : Word) (s : State) : Host.Outcome State Fault Refusal :=
  s.run fun d => d.hostWr pgCLK 0x104C fun d => d.phStepWrite v

/-- `OUTALIGN_WRITE` (R424). -/
def execOutalignWrite (v : Word) (s : State) : Host.Outcome State Fault Refusal :=
  s.run fun d => d.hostWr pgCLK 0x1050 fun d => d.outAlignWrite v

/-- `ALIGNMENT_EDGE` (R424). -/
def execAlignmentEdge (i : Fin 6) (s : State) : Host.Outcome State Fault Refusal :=
  s.run fun d => d.onPage pgCLK fun d => d.alignReached i

/-- `OUTCFG_WRITE` (R423). -/
def execOutcfgWrite (field : Fin 3) (v : Word) (s : State) : Host.Outcome State Fault Refusal :=
  s.run fun d => d.hostWr pgCLK (0x1074 + 4 * field) fun d => d.outCfgWrite field v

/-- `SYNCOUT_PULSE` (R423). -/
def execSyncoutPulse (i : Fin 6) (s : State) : Host.Outcome State Fault Refusal :=
  s.run fun d => d.onPage pgCLK fun d => d.syncPulse i

end Sys2Proof.Machine
end

