-- ==== Sys2Proof/Machine/CmdDkl.lean ====
section
/-! DEFINITION. Meanings: deckle, hatch array and accumulator (chapters 5 to 7). -/

namespace Sys2Proof.Machine

/-- `PAGE_SLOT_ASSIGN` (R90). -/
def execPageSlotAssign (sfn : Sfn) (input : Fin 4096) (group : Fin 1024)
    (s : State) : Host.Outcome State Fault Refusal :=
  s.run fun d => d.onPage pgDKL fun d => (d.pageSlotAssign sfn input group).streamDue 64

/-- `PAGE_CONSUME` (R90). -/
def execPageConsume (sfn : Sfn) (input : Fin 4096) (group : Fin 1024)
    (s : State) : Host.Outcome State Fault Refusal :=
  s.run fun d => d.onPage pgDKL fun d => d.pageConsume sfn input group

/-- `CORNER_TURN_STAGE` (R86). -/
def execCornerTurnStage (upto : Nat) (poison : List (Nat × Nat)) (ces : List Nat)
    (s : State) : Host.Outcome State Fault Refusal :=
  s.run fun d => d.onPage pgDKL fun d => ces.foldl (fun d a => d.corrected false a) (d.cornerTurnStage upto poison)

/-- `CAPTURE_RECORD_WRITE` (R99). -/
def execCaptureRecordWrite (id : BitVec 16) (s : State) : Host.Outcome State Fault Refusal :=
  s.run fun d => d.onPage pgDKL fun d => d.captureRecordWrite id

/-- `DKL_RELEASE` (R100). -/
def execDklRelease (v : Word) (s : State) : Host.Outcome State Fault Refusal :=
  s.run fun d => d.hostWr pgDKL 0x1050 fun d => d.dklRelease v

/-- `CAPRD_WRITE` (R108). -/
def execCaprdWrite (v : Word) (s : State) : Host.Outcome State Fault Refusal :=
  s.run fun d => d.hostWr pgDKL 0x1044 fun d => d.caprdWrite v

/-- `PASS_RUN` (R122). -/
def execPassRun (bad : List (Fin 148)) (s : State) : Host.Outcome State Fault Refusal :=
  s.run fun d => d.onPage pgHAT fun d => d.passRun (vals bad)

/-- `QMASK_SET` (R130). -/
def execQmaskSet (k : Fin 5) (v : Word) (s : State) : Host.Outcome State Fault Refusal :=
  s.run fun d => d.hostWr pgHAT (0x1000 + 4 * k) fun d => d.qmaskWrite k v

/-- `CHANNEL_ADD` (R147). -/
def execChannelAdd (poison : List Nat) (s : State) : Host.Outcome State Fault Refusal :=
  s.run fun d => d.onPage pgACC fun d => d.channelAdd poison

/-- `ADD_WINDOW_EXPIRE` (R144). -/
def execAddWindowExpire (done : Nat) (s : State) : Host.Outcome State Fault Refusal :=
  s.run fun d => d.onPage pgACC fun d => d.addWindowExpire done

/-- `SUSPECT_FLAGS_CLOSE` (R129). -/
def execSuspectFlagsClose (s : State) : Host.Outcome State Fault Refusal :=
  s.run fun d => d.onPage pgHAT fun d => d.suspectFlagsClose

/-- `RECORD_FINISHED` (R159). -/
def execRecordFinished (s : State) : Host.Outcome State Fault Refusal :=
  s.settled fun d => d.onPage pgACC fun d => d.recordFinished

/-- `ACC_RELEASE` (R160). -/
def execAccRelease (v : Word) (s : State) : Host.Outcome State Fault Refusal :=
  s.run fun d => d.hostWr pgACC 0x100C fun d => d.accRelease v

end Sys2Proof.Machine
end

