-- ==== Sys2Proof/Machine/CmdHost.lean ====
section
/-! DEFINITION. Meanings: DMA, MMU and fabric (chapter 14). -/

namespace Sys2Proof.Machine

/-- `DMA_START` (R402). -/
def execDmaStart (k n : Fin 4) (s : State) : Host.Outcome State Fault Refusal :=
  s.run fun d => d.hostWr (pgDMA + k) (0x1104 + 0x80 * n) fun d => d.dmaStart k n

/-- `DMA_RESUME` (R392). -/
def execDmaResume (k n : Fin 4) (s : State) : Host.Outcome State Fault Refusal :=
  s.run fun d => d.hostWr (pgDMA + k) (0x1104 + 0x80 * n) fun d => d.dmaResume k n

/-- `DMA_ABORT` (R392). -/
def execDmaAbort (k n : Fin 4) (s : State) : Host.Outcome State Fault Refusal :=
  s.run fun d => d.hostWr (pgDMA + k) (0x1104 + 0x80 * n) fun d => d.dmaAbort k n

/-- `DESC_COPY` (R388). -/
def execDescCopy (k : Fin 4) (len : Nat) (host : Tab Byte) (pois : List Nat)
    (s : State) : Host.Outcome State Fault Refusal :=
  s.settled fun d => d.onPage (pgDMA + k) fun d => d.descStep k 0 len host pois

/-- `DESC_FILL` (R388). -/
def execDescFill (k : Fin 4) (len : Nat) (host : Tab Byte) (pois : List Nat)
    (s : State) : Host.Outcome State Fault Refusal :=
  s.settled fun d => d.onPage (pgDMA + k) fun d => d.descStep k 1 len host pois

/-- `DESC_COMPARE` (R388). -/
def execDescCompare (k : Fin 4) (len : Nat) (host : Tab Byte) (pois : List Nat)
    (s : State) : Host.Outcome State Fault Refusal :=
  s.settled fun d => d.onPage (pgDMA + k) fun d => d.descStep k 2 len host pois

/-- `READBACK_DONE` (R389). -/
def execReadbackDone (k : Fin 4) (s : State) : Host.Outcome State Fault Refusal :=
  s.settled fun d => d.onPage (pgDMA + k) fun d => d.readbackDone k

/-- `CHAIN_PREEMPT` (R386). -/
def execChainPreempt (k : Fin 4) (host : Tab Byte) (pois : List Nat) (s : State) : Host.Outcome State Fault Refusal :=
  s.settled fun d => d.onPage (pgDMA + k) fun d => d.chainPreempt k host pois

/-- `INVALIDATE_CONTEXT` (R398). -/
def execInvalidateContext (ctx : Fin 64) (s : State) : Host.Outcome State Fault Refusal :=
  s.run fun d => d.hostWr pgMMU 0x1010 fun d => d.invalidate 1 ctx

/-- `INVALIDATE_PAGE` (R398). -/
def execInvalidatePage (ctx : Fin 64) (s : State) : Host.Outcome State Fault Refusal :=
  s.run fun d => d.hostWr pgMMU 0x1010 fun d => d.invalidate 2 ctx

/-- `INVALIDATE_ALL` (R398). -/
def execInvalidateAll (s : State) : Host.Outcome State Fault Refusal :=
  s.run fun d => d.hostWr pgMMU 0x1010 fun d => d.invalidate 3 0

/-- `INVALIDATION_DONE` (R398). -/
def execInvalidationDone (s : State) : Host.Outcome State Fault Refusal :=
  s.run fun d => d.onPage pgMMU fun d => d.invalidationDone

/-- `HOST_INBOUND_READ` (R383). -/
def execHostInboundRead (a : BitVec 38) (len : Fin 4097) (ce ue : List Nat)
    (s : State) : Host.Outcome State Fault Refusal :=
  s.settled fun d => d.hostRead a.toNat len ce ue

/-- `HOST_INBOUND_WRITE` (R383). -/
def execHostInboundWrite (a : BitVec 38) (l : List Byte) (ep : Bool) (s : State) : Host.Outcome State Fault Refusal :=
  s.settled fun d => d.hostWrite a.toNat l ep

/-- `ATOMIC_ADD` (R376). -/
def execAtomicAdd (a : BitVec 38) (wide : Bool) (v : BitVec 64) (s : State) : Host.Outcome State Fault Refusal :=
  s.settled fun d => d.onPage pgFAB fun d => d.atomicAdd a.toNat wide v

/-- `ATOMIC_SWAP` (R376). -/
def execAtomicSwap (a : BitVec 38) (wide : Bool) (v : BitVec 64) (s : State) : Host.Outcome State Fault Refusal :=
  s.settled fun d => d.onPage pgFAB fun d => d.atomicSwap a.toNat wide v

/-- `FABRIC_TIMEOUT` (R379). -/
def execFabricTimeout (master : Fin 14) (s : State) : Host.Outcome State Fault Refusal :=
  s.settled fun d => d.onPage pgFAB fun d => d.fabricTimeout master

/-- `LATE_RESPONSE` (R379). -/
def execLateResponse (s : State) : Host.Outcome State Fault Refusal :=
  s.run fun d => d.onPage pgFAB fun d => d.lateResponse

/-- `PORT_DRAIN_TIMEOUT` (R381). -/
def execPortDrainTimeout (master : Fin 14) (s : State) : Host.Outcome State Fault Refusal :=
  s.run fun d => d.onPage pgFAB fun d => d.drainTimeout master

/-- `PCIE_COMPLETION_TIMEOUT` (R393). -/
def execPcieCompletionTimeout (k n : Fin 4) (s : State) : Host.Outcome State Fault Refusal :=
  s.settled fun d => d.onPage (pgDMA + k) fun d => d.pcieTimeout k n

end Sys2Proof.Machine
end

