-- ==== Sys2Proof/Machine/CmdIng.lean ====
section
/-! DEFINITION. Meanings: frames, sheets, reams and the run (chapters 3, 4 and 11). -/

namespace Sys2Proof.Machine

/-- `QUIESCE_DONE` (R511). -/
def execQuiesceDone (s : State) : Host.Outcome State Fault Refusal :=
  s.settled Dev.quiesceDone

/-- `SAMPLE_FRAME_RX` (R52). -/
def execSampleFrameRx (lane : Fin 256) (fr : List Byte) (s : State) : Host.Outcome State Fault Refusal :=
  s.run fun d => d.onPage pgING fun d => d.sampleFrame lane fr

/-- `TRIG_FRAME_RX` (R245). -/
def execTrigFrameRx (lane : Fin 256) (fr : List Byte) (s : State) : Host.Outcome State Fault Refusal :=
  s.run fun d => d.onPage pgING fun d => d.trigFrameRx lane fr

/-- `IDLE_FRAME_RX` (R52). -/
def execIdleFrameRx (lane : Fin 256) (fr : List Byte) (s : State) : Host.Outcome State Fault Refusal :=
  s.run fun d => d.onPage pgING fun d => d.idleFrameRx lane fr

/-- `LANEQ_RELEASE` (R61). -/
def execLaneqRelease (k : Fin 8) (v : Word) (s : State) : Host.Outcome State Fault Refusal :=
  s.run fun d => d.hostWr pgING (0x1020 + 4 * k) fun d => d.laneqRelease k v

/-- `BINDHI_WRITE` (R75). -/
def execBindhiWrite (v : Word) (s : State) : Host.Outcome State Fault Refusal :=
  s.run fun d => d.hostWr pgING 0x8008 fun d => d.bindHiWrite v

/-- `MACKEY_LOAD` (R76). -/
def execMackeyLoad (slot : Bool) (s : State) : Host.Outcome State Fault Refusal :=
  s.run fun d => d.hostWr pgING 0x10A0 fun d => d.macKeyCtl (0x100 ||| bit 0 slot)

/-- `MACKEY_CLEAR` (R76). -/
def execMackeyClear (slot : Bool) (s : State) : Host.Outcome State Fault Refusal :=
  s.run fun d => d.hostWr pgING 0x10A0 fun d => d.macKeyCtl (0x200 ||| bit 0 slot)

/-- `FRAME_SET_CLOSE` (R65). -/
def execFrameSetClose (group : Fin 1024) (sfn : Sfn) (overrun : Bool) (lat : Nat)
    (s : State) : Host.Outcome State Fault Refusal :=
  s.run fun d => d.onPage pgING fun d => d.frameSetClose group sfn overrun lat

/-- `SHEET_COMPLETE` (R25). -/
def execSheetComplete (s : State) : Host.Outcome State Fault Refusal :=
  s.run fun d => d.onPage pgING fun d => d.sheetComplete

/-- `STATISTICS_LATCH` (R30). -/
def execStatisticsLatch (s : State) : Host.Outcome State Fault Refusal :=
  s.settled Dev.statisticsLatch

/-- `STOP_BOUNDARY` (R27). -/
def execStopBoundary (s : State) : Host.Outcome State Fault Refusal :=
  s.settled Dev.stopBoundary

/-- `PLATE_TAKEOVER` (R197). -/
def execPlateTakeover (s : State) : Host.Outcome State Fault Refusal :=
  s.settled Dev.plateTakeover

end Sys2Proof.Machine
end

