-- ==== Sys2Proof/Machine/CmdLane.lean ====
section
/-! DEFINITION. Meanings: lanes and their transmitters (chapter 12). -/

namespace Sys2Proof.Machine

/-- `SIGNAL_DETECT` (R325). -/
def execSignalDetect (n : Fin 256) (s : State) : Host.Outcome State Fault Refusal :=
  s.run fun d => d.onPage (lanePage n) fun d => d.signalDetect n

/-- `ELECTRICAL_IDLE` (R323). -/
def execElectricalIdle (n : Fin 256) (s : State) : Host.Outcome State Fault Refusal :=
  s.run fun d => d.onPage (lanePage n) fun d => d.electricalIdle n

/-- `LANE_BRINGUP_TIMEOUT` (R325). -/
def execLaneBringupTimeout (n : Fin 256) (s : State) : Host.Outcome State Fault Refusal :=
  s.run fun d => d.onPage (lanePage n) fun d => d.bringupTimeout n

/-- `ADAPT_DONE` (R325). -/
def execAdaptDone (n : Fin 256) (ctle : BitVec 4) (dfe0 dfe1 : Word) (s : State) : Host.Outcome State Fault Refusal :=
  s.run fun d => d.onPage (lanePage n) fun d => d.adaptDone n ctle dfe0 dfe1

/-- `SYNC_HEADER` (R326). -/
def execSyncHeader (n : Fin 256) (hdr : BitVec 2) (s : State) : Host.Outcome State Fault Refusal :=
  s.run fun d => d.onPage (lanePage n) fun d => d.syncHeader n hdr

/-- `MARKER_RX` (R327). -/
def execMarkerRx (n : Fin 256) (hdr : BitVec 2) (payload : List Byte)
    (s : State) : Host.Outcome State Fault Refusal :=
  s.run fun d => d.onPage (lanePage n) fun d => d.markerRx n hdr payload

/-- `FRAME_DELINEATE` (R318). -/
def execFrameDelineate (n : Fin 256) (blks : List (BitVec 2 × BitVec 64))
    (s : State) : Host.Outcome State Fault Refusal :=
  s.run fun d => d.onPage (lanePage n) fun d => d.delineateRun n blks

/-- `RETUNE` (R332). -/
def execRetune (n : Fin 256) (s : State) : Host.Outcome State Fault Refusal :=
  s.run fun d => d.hostWr (lanePage n) (0x1100 + 0x40 * (n % 16)) fun d => d.lctlWrite n (1 ||| d.reg (laneAddr n 0))

/-- `EYE_REFRESH` (R333). -/
def execEyeRefresh (n : Fin 256) (eyeH : BitVec 6) (eyeV off : BitVec 8) (ctle : BitVec 4)
    (s : State) : Host.Outcome State Fault Refusal :=
  s.run fun d => d.onPage (lanePage n) fun d => d.eyeRefresh n eyeH eyeV off ctle

/-- `MARKER_SEND` (R317). -/
def execMarkerSend (n : Fin 256) (s : State) : Host.Outcome State Fault Refusal :=
  s.run fun d => d.onPage (lanePage n) fun d => d.markerSend n

/-- `IDLE_FRAME_SEND` (R330). -/
def execIdleFrameSend (n : Fin 256) (s : State) : Host.Outcome State Fault Refusal :=
  s.run fun d => d.onPage (lanePage n) fun d => d.idleSend n

/-- `LANE_POWER_DOWN` (R314). -/
def execLanePowerDown (n : Fin 256) (s : State) : Host.Outcome State Fault Refusal :=
  s.run fun d => d.onPage (lanePage n) fun d => d.lanePowerDown n

/-- `FORWARD_FRAME` (R303). -/
def execForwardFrame (n : Fin 256) (s : State) : Host.Outcome State Fault Refusal :=
  s.run fun d => d.onPage (lanePage n) fun d => d.forwardFrame n

end Sys2Proof.Machine
end

