-- ==== Sys2Proof/Machine/CmdMem.lean ====
section
/-! DEFINITION. Meanings: the memory controller and self-test (chapter 13). -/

namespace Sys2Proof.Machine

/-- `MEMORY_FREEZE` (R357). -/
def execMemoryFreeze (cause : Fin 4) (addr : BitVec 38) (syn : Word) (s : State) : Host.Outcome State Fault Refusal :=
  s.settled fun d => d.onPage pgMEMC fun d => d.freezeAt (cause.val + 1) addr.toNat syn

/-- `FRZFORCE` (R357). -/
def execFrzforce (v : Word) (s : State) : Host.Outcome State Fault Refusal :=
  s.run fun d => d.hostWr pgMEMC 0x102C fun d => d.frzForce v

/-- `THAW_CHECK_DONE` (R359). -/
def execThawCheckDone (recur : Bool) (addr : BitVec 38) (syn : Word) (still : Bool)
    (s : State) : Host.Outcome State Fault Refusal :=
  s.settled fun d => d.onPage pgMEMC fun d => d.thawDone recur addr syn still

/-- `PATROL_SCRUB` (R348). -/
def execPatrolScrub (found : List (Fin 40 × Fin 3)) (s : State) : Host.Outcome State Fault Refusal :=
  s.settled fun d => d.onPage pgMEMC fun d => d.patrolScrub (found.map fun x => (x.1.val, x.2.val))

/-- `REFRESH_RATE_POLL` (R352). -/
def execRefreshRatePoll (temps : List (BitVec 8 × BitVec 8)) (s : State) : Host.Outcome State Fault Refusal :=
  s.run fun d => d.onPage pgMEMC fun d => d.refreshPoll temps

/-- `MEMORY_CHANNEL_STALE` (R355). -/
def execMemoryChannelStale (chan : Fin 40) (t0 t1 : BitVec 8) (s : State) : Host.Outcome State Fault Refusal :=
  s.run fun d => d.onPage pgMEMC fun d => d.memTrack chan t0 t1

/-- `RETRAIN_DONE` (R356). -/
def execRetrainDone (failed : List (Fin 40)) (s : State) : Host.Outcome State Fault Refusal :=
  s.settled fun d => d.onPage pgMEMC fun d => d.retrainDone (vals failed)

/-- `EXCLADD` (R349). -/
def execExcladd (v : Word) (s : State) : Host.Outcome State Fault Refusal :=
  s.run fun d => d.hostWr pgMEMC 0x1044 fun d => d.exclAddWrite v

/-- `INJCTL_WRITE` (R361). -/
def execInjctlWrite (v : Word) (s : State) : Host.Outcome State Fault Refusal :=
  s.run fun d => d.hostWr pgMEMC 0x1048 fun d => d.injWrite v

/-- `SELFTEST_DONE` (R514). -/
def execSelftestDone (quires : List (Fin 148)) (bad : List (BitVec 38)) (lanes : List (Fin 256))
    (s : State) : Host.Outcome State Fault Refusal :=
  s.settled fun d => d.selftestDone (vals quires) (bad.map BitVec.toNat) (vals lanes)

end Sys2Proof.Machine
end

