-- ==== Sys2Proof/Machine/CmdOp.lean ====
section
/-! DEFINITION. Meanings: burin instructions (chapter 10). -/

namespace Sys2Proof.Machine

/-- `NOP` (R273). -/
def execNopOp (core : Fin 64) (s : State) : Host.Outcome State Fault Refusal :=
  s.settled fun d => d.onPage (burPage core) fun d => d.burExec core (.nop)

/-- `ADD` (R273). -/
def execAddOp (core : Fin 64) (dd da : Fin 16) (src : BSrc) (s : State) : Host.Outcome State Fault Refusal :=
  s.settled fun d => d.onPage (burPage core) fun d => d.burExec core (.alu .add dd da src)

/-- `SUB` (R273). -/
def execSubOp (core : Fin 64) (dd da : Fin 16) (src : BSrc) (s : State) : Host.Outcome State Fault Refusal :=
  s.settled fun d => d.onPage (burPage core) fun d => d.burExec core (.alu .sub dd da src)

/-- `ADDS` (R267). -/
def execAddsOp (core : Fin 64) (dd da : Fin 16) (src : BSrc) (s : State) : Host.Outcome State Fault Refusal :=
  s.settled fun d => d.onPage (burPage core) fun d => d.burExec core (.alu .adds dd da src)

/-- `SUBS` (R267). -/
def execSubsOp (core : Fin 64) (dd da : Fin 16) (src : BSrc) (s : State) : Host.Outcome State Fault Refusal :=
  s.settled fun d => d.onPage (burPage core) fun d => d.burExec core (.alu .subs dd da src)

/-- `AND` (R273). -/
def execAndOp (core : Fin 64) (dd da : Fin 16) (src : BSrc) (s : State) : Host.Outcome State Fault Refusal :=
  s.settled fun d => d.onPage (burPage core) fun d => d.burExec core (.alu .and dd da src)

/-- `OR` (R273). -/
def execOrOp (core : Fin 64) (dd da : Fin 16) (src : BSrc) (s : State) : Host.Outcome State Fault Refusal :=
  s.settled fun d => d.onPage (burPage core) fun d => d.burExec core (.alu .or dd da src)

/-- `XOR` (R273). -/
def execXorOp (core : Fin 64) (dd da : Fin 16) (src : BSrc) (s : State) : Host.Outcome State Fault Refusal :=
  s.settled fun d => d.onPage (burPage core) fun d => d.burExec core (.alu .xor dd da src)

/-- `SHL` (R273). -/
def execShlOp (core : Fin 64) (dd da : Fin 16) (src : BSrc) (s : State) : Host.Outcome State Fault Refusal :=
  s.settled fun d => d.onPage (burPage core) fun d => d.burExec core (.alu .shl dd da src)

/-- `SHRA` (R267). -/
def execShraOp (core : Fin 64) (dd da : Fin 16) (src : BSrc) (s : State) : Host.Outcome State Fault Refusal :=
  s.settled fun d => d.onPage (burPage core) fun d => d.burExec core (.alu .shra dd da src)

/-- `SHRL` (R267). -/
def execShrlOp (core : Fin 64) (dd da : Fin 16) (src : BSrc) (s : State) : Host.Outcome State Fault Refusal :=
  s.settled fun d => d.onPage (burPage core) fun d => d.burExec core (.alu .shrl dd da src)

/-- `CMP` (R273). -/
def execCmpOp (core : Fin 64) (da : Fin 16) (src : BSrc) (s : State) : Host.Outcome State Fault Refusal :=
  s.settled fun d => d.onPage (burPage core) fun d => d.burExec core (.cmp da src)

/-- `MIN` (R273). -/
def execMinOp (core : Fin 64) (dd da : Fin 16) (src : BSrc) (s : State) : Host.Outcome State Fault Refusal :=
  s.settled fun d => d.onPage (burPage core) fun d => d.burExec core (.alu .min dd da src)

/-- `MAX` (R273). -/
def execMaxOp (core : Fin 64) (dd da : Fin 16) (src : BSrc) (s : State) : Host.Outcome State Fault Refusal :=
  s.settled fun d => d.onPage (burPage core) fun d => d.burExec core (.alu .max dd da src)

/-- `ABS` (R273). -/
def execAbsOp (core : Fin 64) (dd da : Fin 16) (src : BSrc) (s : State) : Host.Outcome State Fault Refusal :=
  s.settled fun d => d.onPage (burPage core) fun d => d.burExec core (.alu .abs dd da src)

/-- `MPY` (R265). -/
def execMpyOp (core : Fin 64) (ac : Bool) (da db : Fin 16) (l : BLoads)
    (s : State) : Host.Outcome State Fault Refusal :=
  s.settled fun d => d.onPage (burPage core) fun d => d.burExec core (.mpy ac da db l)

/-- `MAC` (R265). -/
def execMacOp (core : Fin 64) (ac neg : Bool) (da db : Fin 16) (l : BLoads)
    (s : State) : Host.Outcome State Fault Refusal :=
  s.settled fun d => d.onPage (burPage core) fun d => d.burExec core (.mac ac neg da db l)

/-- `ACCOP` (R273). -/
def execAccopOp (core : Fin 64) (ac : Bool) (op : BAcc) (s : State) : Host.Outcome State Fault Refusal :=
  s.settled fun d => d.onPage (burPage core) fun d => d.burExec core (.accop ac op)

/-- `MVA` (R266). -/
def execMvaOp (core : Fin 64) (dd : Fin 16) (ac : Bool) (s : State) : Host.Outcome State Fault Refusal :=
  s.settled fun d => d.onPage (burPage core) fun d => d.burExec core (.mva dd ac)

/-- `MVR` (R266). -/
def execMvrOp (core : Fin 64) (dd : Fin 16) (ac : Bool) (k : BitVec 5)
    (s : State) : Host.Outcome State Fault Refusal :=
  s.settled fun d => d.onPage (burPage core) fun d => d.burExec core (.mvr dd ac k)

/-- `GETA` (R273). -/
def execGetaOp (core : Fin 64) (dd : Fin 16) (ac : Bool) (part : Fin 3)
    (s : State) : Host.Outcome State Fault Refusal :=
  s.settled fun d => d.onPage (burPage core) fun d => d.burExec core (.geta dd ac part)

/-- `PUTA` (R273). -/
def execPutaOp (core : Fin 64) (ac : Bool) (da : Fin 16) (part : Fin 3)
    (s : State) : Host.Outcome State Fault Refusal :=
  s.settled fun d => d.onPage (burPage core) fun d => d.burExec core (.puta ac da part)

/-- `LD` (R268). -/
def execLdOp (core : Fin 64) (dd : Fin 16) (ai : Fin 8) (pm : Bool) (ofs : BitVec 16)
    (s : State) : Host.Outcome State Fault Refusal :=
  s.settled fun d => d.onPage (burPage core) fun d => d.burExec core (.ld dd ai pm ofs)

/-- `ST` (R268). -/
def execStOp (core : Fin 64) (dd : Fin 16) (ai : Fin 8) (pm : Bool) (ofs : BitVec 16)
    (s : State) : Host.Outcome State Fault Refusal :=
  s.settled fun d => d.onPage (burPage core) fun d => d.burExec core (.st dd ai pm ofs)

/-- `LDI` (R273). -/
def execLdiOp (core : Fin 64) (dd : Fin 16) (v : BitVec 16) (s : State) : Host.Outcome State Fault Refusal :=
  s.settled fun d => d.onPage (burPage core) fun d => d.burExec core (.ldi dd v)

/-- `MVX` (R273). -/
def execMvxOp (core : Fin 64) (toSpec : Bool) (dd : Fin 16) (x : BSpec)
    (s : State) : Host.Outcome State Fault Refusal :=
  s.settled fun d => d.onPage (burPage core) fun d => d.burExec core (.mvx toSpec dd x)

/-- `BR` (R270). -/
def execBrOp (core : Fin 64) (cond : BCond) (ofs : BitVec 16) (s : State) : Host.Outcome State Fault Refusal :=
  s.settled fun d => d.onPage (burPage core) fun d => d.burExec core (.br cond ofs)

/-- `CALL` (R270). -/
def execCallOp (core : Fin 64) (ofs : BitVec 16) (s : State) : Host.Outcome State Fault Refusal :=
  s.settled fun d => d.onPage (burPage core) fun d => d.burExec core (.call ofs)

/-- `RET` (R270). -/
def execRetOp (core : Fin 64) (s : State) : Host.Outcome State Fault Refusal :=
  s.settled fun d => d.onPage (burPage core) fun d => d.burExec core (.ret)

/-- `LOOP` (R270). -/
def execLoopOp (core : Fin 64) (n : BCount) (len : BitVec 16) (s : State) : Host.Outcome State Fault Refusal :=
  s.settled fun d => d.onPage (burPage core) fun d => d.burExec core (.loop n len)

/-- `RTI` (R271). -/
def execRtiOp (core : Fin 64) (s : State) : Host.Outcome State Fault Refusal :=
  s.settled fun d => d.onPage (burPage core) fun d => d.burExec core (.rti)

/-- `WAIT` (R278). -/
def execWaitOp (core : Fin 64) (s : State) : Host.Outcome State Fault Refusal :=
  s.settled fun d => d.onPage (burPage core) fun d => d.burExec core (.wait)

/-- `SIG` (R273). -/
def execSigOp (core : Fin 64) (i : Fin 16) (s : State) : Host.Outcome State Fault Refusal :=
  s.settled fun d => d.onPage (burPage core) fun d => d.burExec core (.sig i)

/-- `FLAG` (R273). -/
def execFlagOp (core : Fin 64) (clrV clrS clrFe : Bool) (s : State) : Host.Outcome State Fault Refusal :=
  s.settled fun d => d.onPage (burPage core) fun d => d.burExec core (.flag clrV clrS clrFe)

/-- `BRK` (R273). -/
def execBrkOp (core : Fin 64) (s : State) : Host.Outcome State Fault Refusal :=
  s.settled fun d => d.onPage (burPage core) fun d => d.burExec core (.brk)

end Sys2Proof.Machine
end

