-- ==== Sys2Proof/Machine/CmdPair.lean ====
section
/-! DEFINITION. Meanings: pair operation (chapter 17). -/

namespace Sys2Proof.Machine

/-- `HEARTBEAT_SEND` (R466). -/
def execHeartbeatSend (s : State) : Host.Outcome State Fault Refusal :=
  s.run fun d => d.onPage pgPAIR fun d => d.heartbeatSend

/-- `GRANT_SEND` (R470). -/
def execGrantSend (s : State) : Host.Outcome State Fault Refusal :=
  s.run fun d => d.onPage pgPAIR fun d => d.grantSend

/-- `DIGEST_SEND` (R466). -/
def execDigestSend (s : State) : Host.Outcome State Fault Refusal :=
  s.run fun d => d.onPage pgPAIR fun d => d.digestSend

/-- `CTRL_RETRANSMIT` (R464). -/
def execCtrlRetransmit (s : State) : Host.Outcome State Fault Refusal :=
  s.run fun d => d.onPage pgPAIR fun d => d.ctrlRetransmit

/-- `HEARTBEAT_RX` (R467). -/
def execHeartbeatRx (lane : Fin 256) (fr : List Byte) (s : State) : Host.Outcome State Fault Refusal :=
  s.settled fun d => d.onPage pgPAIR fun d => d.heartbeatRx lane fr

/-- `GRANT_RX` (R470). -/
def execGrantRx (lane : Fin 256) (fr : List Byte) (s : State) : Host.Outcome State Fault Refusal :=
  s.settled fun d => d.onPage pgPAIR fun d => d.grantRx lane fr

/-- `HANDOFF_RX` (R460). -/
def execHandoffRx (lane : Fin 256) (fr : List Byte) (s : State) : Host.Outcome State Fault Refusal :=
  s.settled fun d => d.onPage pgPAIR fun d => d.handoffArrives lane fr

/-- `TICKET_RX` (R467). -/
def execTicketRx (lane : Fin 256) (fr : List Byte) (s : State) : Host.Outcome State Fault Refusal :=
  s.settled fun d => d.onPage pgPAIR fun d => d.ticketRx lane fr

/-- `COMMAND_RX` (R467). -/
def execCommandRx (lane : Fin 256) (fr : List Byte) (s : State) : Host.Outcome State Fault Refusal :=
  s.settled fun d => d.onPage pgPAIR fun d => d.commandRx lane fr

/-- `THRESH_RX` (R467). -/
def execThreshRx (lane : Fin 256) (fr : List Byte) (s : State) : Host.Outcome State Fault Refusal :=
  s.settled fun d => d.onPage pgPAIR fun d => d.threshRx lane fr

/-- `WATERMARK_RX` (R472). -/
def execWatermarkRx (lane : Fin 256) (fr : List Byte) (s : State) : Host.Outcome State Fault Refusal :=
  s.settled fun d => d.onPage pgPAIR fun d => d.watermarkRx lane fr

/-- `ACK_RX` (R464). -/
def execAckRx (lane : Fin 256) (fr : List Byte) (s : State) : Host.Outcome State Fault Refusal :=
  s.settled fun d => d.onPage pgPAIR fun d => d.ackRx lane fr

/-- `DIGEST_RX` (R467). -/
def execDigestRx (lane : Fin 256) (fr : List Byte) (s : State) : Host.Outcome State Fault Refusal :=
  s.settled fun d => d.onPage pgPAIR fun d => d.digestRx lane fr

/-- `WATERMARK_COMPARE_TIMEOUT` (R472). -/
def execWatermarkCompareTimeout (s : State) : Host.Outcome State Fault Refusal :=
  s.run fun d => d.onPage pgPAIR fun d => d.wmTimeout

/-- `OWN_IN_CHANGE` (R458). -/
def execOwnInChange (level : Bool) (s : State) : Host.Outcome State Fault Refusal :=
  s.run fun d => d.ownInAt level

/-- `HANDOFF_TIMEOUT` (R460). -/
def execHandoffTimeout (s : State) : Host.Outcome State Fault Refusal :=
  s.settled fun d => d.onPage pgPAIR fun d => d.handoffLate

/-- `OWNER_SILENCE_TIMEOUT` (R462). -/
def execOwnerSilenceTimeout (s : State) : Host.Outcome State Fault Refusal :=
  s.settled fun d => d.onPage pgPAIR fun d => d.ownerSilence

/-- `PAIR_LINK_DOWN` (R465). -/
def execPairLinkDown (s : State) : Host.Outcome State Fault Refusal :=
  s.settled fun d => d.onPage pgPAIR fun d => d.linkDown

/-- `LEASE_EXPIRE` (R470). -/
def execLeaseExpire (s : State) : Host.Outcome State Fault Refusal :=
  s.settled fun d => d.onPage pgPAIR fun d => d.leaseExpire

/-- `LEASE_SILENCE_TAKEOVER` (R470). -/
def execLeaseSilenceTakeover (s : State) : Host.Outcome State Fault Refusal :=
  s.settled fun d => d.onPage pgPAIR fun d => d.leaseSilence

/-- `INTERLOCK_FAULT` (R469). -/
def execInterlockFault (s : State) : Host.Outcome State Fault Refusal :=
  s.settled fun d => d.onPage pgPAIR fun d => d.interlockFault

/-- `ILRESET` (R471). -/
def execIlreset (s : State) : Host.Outcome State Fault Refusal :=
  s.run fun d => d.hostWr pgPAIR 0x1010 fun d => d.ilReset 1

/-- `LEASE_MODE_EXIT` (R471). -/
def execLeaseModeExit (s : State) : Host.Outcome State Fault Refusal :=
  s.settled fun d => d.onPage pgPAIR fun d => d.leaseExit

/-- `HANDOFF_SEND` (R460). -/
def execHandoffSend (s : State) : Host.Outcome State Fault Refusal :=
  s.settled fun d => d.onPage pgPAIR fun d => d.handoffSend

end Sys2Proof.Machine
end

