-- ==== Sys2Proof/Machine/CmdPwr.lean ====
section
/-! DEFINITION. Meanings: supply, temperature and shedding (chapter 18). -/

namespace Sys2Proof.Machine

/-- `SUPPLY_SAMPLE` (R480). -/
def execSupplySample (rail : Fin 10) (mv power : Nat) (s : State) : Host.Outcome State Fault Refusal :=
  s.settled fun d => d.supplySample rail mv power

/-- `SHED_FALL` (R486). -/
def execShedFall (s : State) : Host.Outcome State Fault Refusal :=
  s.settled Dev.shedFallAll

/-- `SUPPLY_RESET` (R482). -/
def execSupplyReset (rail : Fin 10) (s : State) : Host.Outcome State Fault Refusal :=
  s.settled fun d => d.supplyReset rail

/-- `SUPPLY_HOLD_RELEASE` (R482). -/
def execSupplyHoldRelease (s : State) : Host.Outcome State Fault Refusal :=
  s.run Dev.holdRelease

/-- `TEMP_SAMPLE` (R491). -/
def execTempSample (t : BitVec 8) (sensor : BitVec 5) (s : State) : Host.Outcome State Fault Refusal :=
  s.settled fun d => d.tempSample t sensor

/-- `SHEDREQ_WRITE` (R483). -/
def execShedreqWrite (v : Word) (s : State) : Host.Outcome State Fault Refusal :=
  s.run fun d => d.hostWr pgPWR 0x1008 fun d => d.shedreqWrite v

/-- `RESUMING_BOUNDARY` (R486). -/
def execResumingBoundary (s : State) : Host.Outcome State Fault Refusal :=
  s.settled Dev.resumingBoundary

end Sys2Proof.Machine
end

