-- ==== Sys2Proof/Machine/CmdReg.lean ====
section
/-! DEFINITION. Meanings: register accesses, pages, tickets and interrupts (R519 to R534, R556). -/

namespace Sys2Proof.Machine

/-- `REGISTER_WRITE` (R527). -/
def execRegisterWrite (page : Fin 256) (off : BitVec 16) (v : Word) (s : State) : Host.Outcome State Fault Refusal :=
  s.run fun d => d.registerWrite page off.toNat v

/-- `MISALIGNED_ACCESS` (R1). -/
def execMisalignedAccess (page : Fin 256) (off : BitVec 16) (len : Fin 65) (write : Bool)
    (s : State) : Host.Outcome State Fault Refusal :=
  s.run fun d => if off.toNat % 4 = 0 ∧ len.val = 4 then d else d.misaligned page off.toNat write

/-- `RESERVED_PAGE_ACCESS` (R519). -/
def execReservedPageAccess (page : Fin 256) (off : BitVec 16) (write : Bool)
    (s : State) : Host.Outcome State Fault Refusal :=
  s.run fun d => d.reservedPage page off.toNat write

/-- `ERRLOG_POP` (R534). -/
def execErrlogPop (s : State) : Host.Outcome State Fault Refusal :=
  s.run fun d => d.hostPop pgSYS 0x1020 Dev.errlogPop

/-- `MBXOUT_POP` (R288). -/
def execMbxoutPop (core : Fin 64) (s : State) : Host.Outcome State Fault Refusal :=
  s.run fun d => d.hostPop (burPage core) (0x111C + 0x40 * (core % 16)) fun d => d.mbxoutPop core

/-- `FAULTLOG_POP` (R399). -/
def execFaultlogPop (s : State) : Host.Outcome State Fault Refusal :=
  s.run fun d => d.hostPop pgMMU 0x1020 Dev.faultlogPop

/-- `SFN_NOW_READ` (R545). -/
def execSfnNowRead (master : Fin 3) (hi : Bool) (s : State) : Host.Outcome State Fault Refusal :=
  s.run fun d => d.sfnNowRead master hi

/-- `PERRCLR_WRITE` (R522). -/
def execPerrclrWrite (page : Fin 256) (s : State) : Host.Outcome State Fault Refusal :=
  s.run fun d => d.hostWr page 0x14 fun d => d.perrclr page

/-- `PIRQ_CLEAR` (R525). -/
def execPirqClear (page : Fin 256) (v : Word) (s : State) : Host.Outcome State Fault Refusal :=
  s.run fun d => d.hostWr page 0x18 fun d => d.pirqClear page v

/-- `PIRQSET_WRITE` (R525). -/
def execPirqsetWrite (page : Fin 256) (v : Word) (s : State) : Host.Outcome State Fault Refusal :=
  s.run fun d => d.hostWr page 0x20 fun d => d.pirqsetWrite page v

/-- `PCOMMIT` (R529). -/
def execPcommit (page : Fin 256) (num : BitVec 16) (when : BitVec 4) (s : State) : Host.Outcome State Fault Refusal :=
  s.run fun d => d.hostWr page 0x28 fun d => d.pcommit page (BitVec.ofNat 32 (num.toNat * 65536 + when.toNat))

/-- `COMMIT_APPLY` (R530). -/
def execCommitApply (page : Fin 256) (s : State) : Host.Outcome State Fault Refusal :=
  s.settled fun d => d.onPage page fun d => d.commitApply page

/-- `SHADOW_UNLOCK` (R530). -/
def execShadowUnlock (page : Fin 256) (s : State) : Host.Outcome State Fault Refusal :=
  s.run fun d => d.onPage page fun d => d.unlock page

/-- `PCTL_EN_WRITE` (R523). -/
def execPctlEnWrite (page : Fin 256) (en irqOnErr : Bool) (s : State) : Host.Outcome State Fault Refusal :=
  s.run fun d => d.hostWr page 0x08 fun d => d.pctlWrite page (bit 0 en ||| bit 2 irqOnErr)

/-- `PCTL_SRST` (R523). -/
def execPctlSrst (page : Fin 256) (s : State) : Host.Outcome State Fault Refusal :=
  s.run fun d => d.hostWr page 0x08 fun d =>
    d.pctlWrite page (2 ||| bit 0 (d.page page).en ||| bit 2 (d.page page).irqOnErr)

/-- `IRQMAP_WRITE` (R556). -/
def execIrqmapWrite (entry vector : Fin 256) (s : State) : Host.Outcome State Fault Refusal :=
  s.run fun d => d.hostWr pgSYS (0x1800 + 4 * entry) fun d => d.irqmapWrite entry (BitVec.ofNat 32 vector)

end Sys2Proof.Machine
end

