-- ==== Sys2Proof/Machine/CmdSys.lean ====
section
/-! DEFINITION. Meanings: the commands of `SYS.CMD` (R537). -/

namespace Sys2Proof.Machine

/-- `START` (R26). -/
def execStart (ownerAt : Bool) (s : State) : Host.Outcome State Fault Refusal :=
  s.run fun d => d.cmdRow 0x10 ownerAt

/-- `STOP` (R27). -/
def execStop (s : State) : Host.Outcome State Fault Refusal :=
  s.run fun d => d.cmdRow 0x11 false

/-- `QUIESCE` (R513). -/
def execQuiesce (s : State) : Host.Outcome State Fault Refusal :=
  s.run fun d => d.cmdRow 0x12 false

/-- `ESTOP` (R564). -/
def execEstop (s : State) : Host.Outcome State Fault Refusal :=
  s.run fun d => d.cmdRow 0x13 false

/-- `LATCH` (R538). -/
def execLatch (s : State) : Host.Outcome State Fault Refusal :=
  s.run fun d => d.cmdRow 0x20 false

/-- `BUILD` (R187). -/
def execBuild (s : State) : Host.Outcome State Fault Refusal :=
  s.run fun d => d.cmdRow 0x30 false

/-- `PROOF` (R191). -/
def execProof (s : State) : Host.Outcome State Fault Refusal :=
  s.run fun d => d.cmdRow 0x31 false

/-- `ARM` (R196). -/
def execArm (s : State) : Host.Outcome State Fault Refusal :=
  s.run fun d => d.cmdRow 0x32 false

/-- `SELFTEST` (R309). -/
def execSelftest (s : State) : Host.Outcome State Fault Refusal :=
  s.run fun d => d.cmdRow 0x40 false

/-- `RETRAIN_MEM` (R356). -/
def execRetrainMem (s : State) : Host.Outcome State Fault Refusal :=
  s.run fun d => d.cmdRow 0x50 false

/-- `THAW` (R359). -/
def execThaw (s : State) : Host.Outcome State Fault Refusal :=
  s.run fun d => d.cmdRow 0x60 false

/-- `HANDOVER` (R460). -/
def execHandover (s : State) : Host.Outcome State Fault Refusal :=
  s.run fun d => d.cmdRow 0x70 false

/-- `RESYNC_TIME` (R435). -/
def execResyncTime (s : State) : Host.Outcome State Fault Refusal :=
  s.run fun d => d.cmdRow 0x71 false

/-- `COMMAND_TIMEOUT` (R535). -/
def execCommandTimeout (s : State) : Host.Outcome State Fault Refusal :=
  s.run Dev.cmdTimeout

end Sys2Proof.Machine
end

