-- ==== Sys2Proof/Machine/CmdTime.lean ====
section
/-! DEFINITION. Meanings: time bases, alarms, Ethernet timing and monitor slots (chapter 16). -/

namespace Sys2Proof.Machine

/-- `SNAP` (R436). -/
def execSnap (s : State) : Host.Outcome State Fault Refusal :=
  s.run fun d => d.hostWr pgTIME 0x1000 fun d => d.snapWrite 1

/-- `BASECFG_WRITE` (R432). -/
def execBasecfgWrite (v : Word) (s : State) : Host.Outcome State Fault Refusal :=
  s.run fun d => d.hostWr pgTIME 0x1044 fun d => d.baseCfgWrite v Dev.masterPresent

/-- `MASTER_MEASUREMENT` (R432). -/
def execMasterMeasurement (i : Fin 4) (value : BitVec 64) (freq : Int)
    (s : State) : Host.Outcome State Fault Refusal :=
  s.run fun d => d.onPage pgTIME fun d => d.measure i value freq

/-- `SAMPLE_SLEW_DONE` (R434). -/
def execSampleSlewDone (s : State) : Host.Outcome State Fault Refusal :=
  s.run fun d => d.onPage pgTIME fun d => d.slewDone

/-- `ALMCTL_WRITE` (R437). -/
def execAlmctlWrite (n : Fin 8) (v : Word) (s : State) : Host.Outcome State Fault Refusal :=
  s.run fun d => d.hostWr pgTIME (0x1100 + 0x20 * n) fun d => d.almCtlWrite n v

/-- `ALARM_FIRE` (R437). -/
def execAlarmFire (n : Fin 8) (s : State) : Host.Outcome State Fault Refusal :=
  s.run fun d => d.onPage pgTIME fun d => d.alarmDue n

/-- `PTP_MESSAGE_RX` (R441). -/
def execPtpMessageRx (p : Fin 2) (raw : Nat) (res : Option PtpResult)
    (s : State) : Host.Outcome State Fault Refusal :=
  s.run fun d => d.onPage pgETH fun d => d.ptpRx p raw res

/-- `ETH_FRAME_DROP` (R440). -/
def execEthFrameDrop (p : Fin 2) (s : State) : Host.Outcome State Fault Refusal :=
  s.run fun d => d.onPage pgETH fun d => d.ethDrop p

/-- `PTP_EVENT_TX` (R441). -/
def execPtpEventTx (p : Fin 2) (raw : Nat) (msg : List Byte) (s : State) : Host.Outcome State Fault Refusal :=
  s.run fun d => d.onPage pgETH fun d => d.ptpTx p raw msg

/-- `ETH_LINK_CHANGE` (R453). -/
def execEthLinkChange (p : Fin 2) (up : Bool) (s : State) : Host.Outcome State Fault Refusal :=
  s.run fun d => d.onPage pgETH fun d => d.ethLink p up

/-- `MSP_FRAME_START` (R447). -/
def execMspFrameStart (n : Fin 4) (words : List Word) (s : State) : Host.Outcome State Fault Refusal :=
  s.run fun d => d.onPage pgMSP fun d => d.mspFrameStart n words

/-- `MSP_CLKLOSS` (R444). -/
def execMspClkloss (n : Fin 4) (s : State) : Host.Outcome State Fault Refusal :=
  s.run fun d => d.onPage pgMSP fun d => d.mspClkloss n

/-- `MONWORD_WRITE` (R445). -/
def execMonwordWrite (w : Fin 256) (v : Word) (s : State) : Host.Outcome State Fault Refusal :=
  s.run fun d => d.hostWr pgMSP (0xC000 + 4 * w) fun d => d.monwordWrite w v

end Sys2Proof.Machine
end

