-- ==== Sys2Proof/Machine/Dispatch.lean ====
section
/-! DEFINITION. One arm for each command. -/

namespace Sys2Proof.Machine

/-- A command's effect on everything but the queue. -/
def exec (i : Instr) (s : State) : Host.Outcome State Fault Refusal :=
  match i with
  | .start ownerAt => Sys2Proof.Machine.execStart ownerAt s
  | .stop => Sys2Proof.Machine.execStop s
  | .quiesce => Sys2Proof.Machine.execQuiesce s
  | .estop => Sys2Proof.Machine.execEstop s
  | .latch => Sys2Proof.Machine.execLatch s
  | .build => Sys2Proof.Machine.execBuild s
  | .proof => Sys2Proof.Machine.execProof s
  | .arm => Sys2Proof.Machine.execArm s
  | .selftest => Sys2Proof.Machine.execSelftest s
  | .retrainMem => Sys2Proof.Machine.execRetrainMem s
  | .thaw => Sys2Proof.Machine.execThaw s
  | .handover => Sys2Proof.Machine.execHandover s
  | .resyncTime => Sys2Proof.Machine.execResyncTime s
  | .commandTimeout => Sys2Proof.Machine.execCommandTimeout s
  | .registerWrite page off v => Sys2Proof.Machine.execRegisterWrite page off v s
  | .misalignedAccess page off len write => Sys2Proof.Machine.execMisalignedAccess page off len write s
  | .reservedPageAccess page off write => Sys2Proof.Machine.execReservedPageAccess page off write s
  | .errlogPop => Sys2Proof.Machine.execErrlogPop s
  | .mbxoutPop core => Sys2Proof.Machine.execMbxoutPop core s
  | .faultlogPop => Sys2Proof.Machine.execFaultlogPop s
  | .sfnNowRead master hi => Sys2Proof.Machine.execSfnNowRead master hi s
  | .perrclrWrite page => Sys2Proof.Machine.execPerrclrWrite page s
  | .pirqClear page v => Sys2Proof.Machine.execPirqClear page v s
  | .pirqsetWrite page v => Sys2Proof.Machine.execPirqsetWrite page v s
  | .pcommit page num when => Sys2Proof.Machine.execPcommit page num when s
  | .commitApply page => Sys2Proof.Machine.execCommitApply page s
  | .shadowUnlock page => Sys2Proof.Machine.execShadowUnlock page s
  | .pctlEnWrite page en irqOnErr => Sys2Proof.Machine.execPctlEnWrite page en irqOnErr s
  | .pctlSrst page => Sys2Proof.Machine.execPctlSrst page s
  | .mladefIslandReset wdog => Sys2Proof.Machine.execMladefIslandReset wdog s
  | .watchdogExpire => Sys2Proof.Machine.execWatchdogExpire s
  | .recoveryComplete => Sys2Proof.Machine.execRecoveryComplete s
  | .wdogFire => Sys2Proof.Machine.execWdogFire s
  | .irqmapWrite entry vector => Sys2Proof.Machine.execIrqmapWrite entry vector s
  | .powerOnReset => Sys2Proof.Machine.execPowerOnReset s
  | .porstRelease => Sys2Proof.Machine.execPorstRelease s
  | .linkReset perst => Sys2Proof.Machine.execLinkReset perst s
  | .pcieLinkUp speed width flit => Sys2Proof.Machine.execPcieLinkUp speed width flit s
  | .imgdataWrite v => Sys2Proof.Machine.execImgdataWrite v s
  | .imgctlClr path => Sys2Proof.Machine.execImgctlClr path s
  | .imgctlGo path => Sys2Proof.Machine.execImgctlGo path s
  | .imageVerifyDone poison pllFail => Sys2Proof.Machine.execImageVerifyDone poison pllFail s
  | .bringupComplete => Sys2Proof.Machine.execBringupComplete s
  | .bringupRefTimeout => Sys2Proof.Machine.execBringupRefTimeout s
  | .supplySample rail mv power => Sys2Proof.Machine.execSupplySample rail mv power s
  | .shedFall => Sys2Proof.Machine.execShedFall s
  | .supplyReset rail => Sys2Proof.Machine.execSupplyReset rail s
  | .supplyHoldRelease => Sys2Proof.Machine.execSupplyHoldRelease s
  | .tempSample t sensor => Sys2Proof.Machine.execTempSample t sensor s
  | .shedreqWrite v => Sys2Proof.Machine.execShedreqWrite v s
  | .estopNEdge => Sys2Proof.Machine.execEstopNEdge s
  | .estopAssert => Sys2Proof.Machine.execEstopAssert s
  | .estopRelease => Sys2Proof.Machine.execEstopRelease s
  | .aonNop i3c => Sys2Proof.Machine.execAonNop i3c s
  | .aonRead i3c page word => Sys2Proof.Machine.execAonRead i3c page word s
  | .aonEstop i3c => Sys2Proof.Machine.execAonEstop i3c s
  | .aonRelease i3c => Sys2Proof.Machine.execAonRelease i3c s
  | .aonSnaptake i3c => Sys2Proof.Machine.execAonSnaptake i3c s
  | .aonSnapclr i3c => Sys2Proof.Machine.execAonSnapclr i3c s
  | .aonWdreset i3c confirm => Sys2Proof.Machine.execAonWdreset i3c confirm s
  | .aonSetshed i3c level => Sys2Proof.Machine.execAonSetshed i3c level s
  | .aonReadsnap i3c word => Sys2Proof.Machine.execAonReadsnap i3c word s
  | .i3cPrivateWrite idx v => Sys2Proof.Machine.execI3cPrivateWrite idx v s
  | .i3cPrivateRead => Sys2Proof.Machine.execI3cPrivateRead s
  | .i3cCcc code => Sys2Proof.Machine.execI3cCcc code s
  | .snapTake => Sys2Proof.Machine.execSnapTake s
  | .snapClear => Sys2Proof.Machine.execSnapClear s
  | .snapshotDone => Sys2Proof.Machine.execSnapshotDone s
  | .memoryFreeze cause addr syn => Sys2Proof.Machine.execMemoryFreeze cause addr syn s
  | .frzforce v => Sys2Proof.Machine.execFrzforce v s
  | .thawCheckDone recur addr syn still => Sys2Proof.Machine.execThawCheckDone recur addr syn still s
  | .patrolScrub found => Sys2Proof.Machine.execPatrolScrub found s
  | .refreshRatePoll temps => Sys2Proof.Machine.execRefreshRatePoll temps s
  | .memoryChannelStale chan t0 t1 => Sys2Proof.Machine.execMemoryChannelStale chan t0 t1 s
  | .memoryTrainingDone failed bad quires lanes sram => Sys2Proof.Machine.execMemoryTrainingDone failed bad quires lanes sram s
  | .retrainDone failed => Sys2Proof.Machine.execRetrainDone failed s
  | .excladd v => Sys2Proof.Machine.execExcladd v s
  | .injctlWrite v => Sys2Proof.Machine.execInjctlWrite v s
  | .selftestDone quires bad lanes => Sys2Proof.Machine.execSelftestDone quires bad lanes s
  | .quiesceDone => Sys2Proof.Machine.execQuiesceDone s
  | .signalDetect n => Sys2Proof.Machine.execSignalDetect n s
  | .electricalIdle n => Sys2Proof.Machine.execElectricalIdle n s
  | .laneBringupTimeout n => Sys2Proof.Machine.execLaneBringupTimeout n s
  | .adaptDone n ctle dfe0 dfe1 => Sys2Proof.Machine.execAdaptDone n ctle dfe0 dfe1 s
  | .syncHeader n hdr => Sys2Proof.Machine.execSyncHeader n hdr s
  | .markerRx n hdr payload => Sys2Proof.Machine.execMarkerRx n hdr payload s
  | .frameDelineate n blks => Sys2Proof.Machine.execFrameDelineate n blks s
  | .retune n => Sys2Proof.Machine.execRetune n s
  | .eyeRefresh n eyeH eyeV off ctle => Sys2Proof.Machine.execEyeRefresh n eyeH eyeV off ctle s
  | .markerSend n => Sys2Proof.Machine.execMarkerSend n s
  | .idleFrameSend n => Sys2Proof.Machine.execIdleFrameSend n s
  | .lanePowerDown n => Sys2Proof.Machine.execLanePowerDown n s
  | .sampleFrameRx lane fr => Sys2Proof.Machine.execSampleFrameRx lane fr s
  | .trigFrameRx lane fr => Sys2Proof.Machine.execTrigFrameRx lane fr s
  | .idleFrameRx lane fr => Sys2Proof.Machine.execIdleFrameRx lane fr s
  | .laneqRelease k v => Sys2Proof.Machine.execLaneqRelease k v s
  | .bindhiWrite v => Sys2Proof.Machine.execBindhiWrite v s
  | .mackeyLoad slot => Sys2Proof.Machine.execMackeyLoad slot s
  | .mackeyClear slot => Sys2Proof.Machine.execMackeyClear slot s
  | .frameSetClose group sfn overrun lat => Sys2Proof.Machine.execFrameSetClose group sfn overrun lat s
  | .sheetComplete => Sys2Proof.Machine.execSheetComplete s
  | .statisticsLatch => Sys2Proof.Machine.execStatisticsLatch s
  | .stopBoundary => Sys2Proof.Machine.execStopBoundary s
  | .plateTakeover => Sys2Proof.Machine.execPlateTakeover s
  | .pageSlotAssign sfn input group => Sys2Proof.Machine.execPageSlotAssign sfn input group s
  | .pageConsume sfn input group => Sys2Proof.Machine.execPageConsume sfn input group s
  | .cornerTurnStage upto poison ces => Sys2Proof.Machine.execCornerTurnStage upto poison ces s
  | .captureRecordWrite id => Sys2Proof.Machine.execCaptureRecordWrite id s
  | .dklRelease v => Sys2Proof.Machine.execDklRelease v s
  | .caprdWrite v => Sys2Proof.Machine.execCaprdWrite v s
  | .passRun bad => Sys2Proof.Machine.execPassRun bad s
  | .qmaskSet k v => Sys2Proof.Machine.execQmaskSet k v s
  | .channelAdd poison => Sys2Proof.Machine.execChannelAdd poison s
  | .addWindowExpire done => Sys2Proof.Machine.execAddWindowExpire done s
  | .suspectFlagsClose => Sys2Proof.Machine.execSuspectFlagsClose s
  | .recordFinished => Sys2Proof.Machine.execRecordFinished s
  | .accRelease v => Sys2Proof.Machine.execAccRelease v s
  | .beamFrameSend lane poison => Sys2Proof.Machine.execBeamFrameSend lane poison s
  | .forwardFrame n => Sys2Proof.Machine.execForwardFrame n s
  | .bmfTableWrite shadow off l => Sys2Proof.Machine.execBmfTableWrite shadow off l s
  | .stgrdWrite v => Sys2Proof.Machine.execStgrdWrite v s
  | .triggerSampleEval lat => Sys2Proof.Machine.execTriggerSampleEval lat s
  | .swDeadline => Sys2Proof.Machine.execSwDeadline s
  | .triginEdge n rise => Sys2Proof.Machine.execTriginEdge n rise s
  | .trigoutPulseEnd n => Sys2Proof.Machine.execTrigoutPulseEnd n s
  | .logEntryWrite => Sys2Proof.Machine.execLogEntryWrite s
  | .trgTableWrite shadow off l => Sys2Proof.Machine.execTrgTableWrite shadow off l s
  | .logrdWrite v => Sys2Proof.Machine.execLogrdWrite v s
  | .buildDone => Sys2Proof.Machine.execBuildDone s
  | .proofDone => Sys2Proof.Machine.execProofDone s
  | .disarm => Sys2Proof.Machine.execDisarm s
  | .plateSlotWrite slot off l => Sys2Proof.Machine.execPlateSlotWrite slot off l s
  | .burinActivation core => Sys2Proof.Machine.execBurinActivation core s
  | .burinTimer core => Sys2Proof.Machine.execBurinTimer core s
  | .burinIrqTaken core => Sys2Proof.Machine.execBurinIrqTaken core s
  | .cmtGo core num => Sys2Proof.Machine.execCmtGo core num s
  | .swPost core => Sys2Proof.Machine.execSwPost core s
  | .xfGo core dir => Sys2Proof.Machine.execXfGo core dir s
  | .xfDone core => Sys2Proof.Machine.execXfDone core s
  | .mbxinPortRead core => Sys2Proof.Machine.execMbxinPortRead core s
  | .burinReloadDone => Sys2Proof.Machine.execBurinReloadDone s
  | .cctlHalt core halt => Sys2Proof.Machine.execCctlHalt core halt s
  | .cctlStep core => Sys2Proof.Machine.execCctlStep core s
  | .cctlCreset core => Sys2Proof.Machine.execCctlCreset core s
  | .mbxinWrite core v => Sys2Proof.Machine.execMbxinWrite core v s
  | .nopOp core => Sys2Proof.Machine.execNopOp core s
  | .addOp core dd da src => Sys2Proof.Machine.execAddOp core dd da src s
  | .subOp core dd da src => Sys2Proof.Machine.execSubOp core dd da src s
  | .addsOp core dd da src => Sys2Proof.Machine.execAddsOp core dd da src s
  | .subsOp core dd da src => Sys2Proof.Machine.execSubsOp core dd da src s
  | .andOp core dd da src => Sys2Proof.Machine.execAndOp core dd da src s
  | .orOp core dd da src => Sys2Proof.Machine.execOrOp core dd da src s
  | .xorOp core dd da src => Sys2Proof.Machine.execXorOp core dd da src s
  | .shlOp core dd da src => Sys2Proof.Machine.execShlOp core dd da src s
  | .shraOp core dd da src => Sys2Proof.Machine.execShraOp core dd da src s
  | .shrlOp core dd da src => Sys2Proof.Machine.execShrlOp core dd da src s
  | .cmpOp core da src => Sys2Proof.Machine.execCmpOp core da src s
  | .minOp core dd da src => Sys2Proof.Machine.execMinOp core dd da src s
  | .maxOp core dd da src => Sys2Proof.Machine.execMaxOp core dd da src s
  | .absOp core dd da src => Sys2Proof.Machine.execAbsOp core dd da src s
  | .mpyOp core ac da db l => Sys2Proof.Machine.execMpyOp core ac da db l s
  | .macOp core ac neg da db l => Sys2Proof.Machine.execMacOp core ac neg da db l s
  | .accopOp core ac op => Sys2Proof.Machine.execAccopOp core ac op s
  | .mvaOp core dd ac => Sys2Proof.Machine.execMvaOp core dd ac s
  | .mvrOp core dd ac k => Sys2Proof.Machine.execMvrOp core dd ac k s
  | .getaOp core dd ac part => Sys2Proof.Machine.execGetaOp core dd ac part s
  | .putaOp core ac da part => Sys2Proof.Machine.execPutaOp core ac da part s
  | .ldOp core dd ai pm ofs => Sys2Proof.Machine.execLdOp core dd ai pm ofs s
  | .stOp core dd ai pm ofs => Sys2Proof.Machine.execStOp core dd ai pm ofs s
  | .ldiOp core dd v => Sys2Proof.Machine.execLdiOp core dd v s
  | .mvxOp core toSpec dd x => Sys2Proof.Machine.execMvxOp core toSpec dd x s
  | .brOp core cond ofs => Sys2Proof.Machine.execBrOp core cond ofs s
  | .callOp core ofs => Sys2Proof.Machine.execCallOp core ofs s
  | .retOp core => Sys2Proof.Machine.execRetOp core s
  | .loopOp core n len => Sys2Proof.Machine.execLoopOp core n len s
  | .rtiOp core => Sys2Proof.Machine.execRtiOp core s
  | .waitOp core => Sys2Proof.Machine.execWaitOp core s
  | .sigOp core idx => Sys2Proof.Machine.execSigOp core idx s
  | .flagOp core clrV clrS clrFe => Sys2Proof.Machine.execFlagOp core clrV clrS clrFe s
  | .brkOp core => Sys2Proof.Machine.execBrkOp core s
  | .dmaStart k n => Sys2Proof.Machine.execDmaStart k n s
  | .dmaResume k n => Sys2Proof.Machine.execDmaResume k n s
  | .dmaAbort k n => Sys2Proof.Machine.execDmaAbort k n s
  | .descCopy k len host pois => Sys2Proof.Machine.execDescCopy k len host pois s
  | .descFill k len host pois => Sys2Proof.Machine.execDescFill k len host pois s
  | .descCompare k len host pois => Sys2Proof.Machine.execDescCompare k len host pois s
  | .readbackDone k => Sys2Proof.Machine.execReadbackDone k s
  | .chainPreempt k host pois => Sys2Proof.Machine.execChainPreempt k host pois s
  | .invalidateContext ctx => Sys2Proof.Machine.execInvalidateContext ctx s
  | .invalidatePage ctx => Sys2Proof.Machine.execInvalidatePage ctx s
  | .invalidateAll => Sys2Proof.Machine.execInvalidateAll s
  | .invalidationDone => Sys2Proof.Machine.execInvalidationDone s
  | .hostInboundRead a len ce ue => Sys2Proof.Machine.execHostInboundRead a len ce ue s
  | .hostInboundWrite a l ep => Sys2Proof.Machine.execHostInboundWrite a l ep s
  | .atomicAdd a wide v => Sys2Proof.Machine.execAtomicAdd a wide v s
  | .atomicSwap a wide v => Sys2Proof.Machine.execAtomicSwap a wide v s
  | .fabricTimeout master => Sys2Proof.Machine.execFabricTimeout master s
  | .lateResponse => Sys2Proof.Machine.execLateResponse s
  | .portDrainTimeout master => Sys2Proof.Machine.execPortDrainTimeout master s
  | .pcieCompletionTimeout k n => Sys2Proof.Machine.execPcieCompletionTimeout k n s
  | .referenceEdge idx foffs fxtal jump phase => Sys2Proof.Machine.execReferenceEdge idx foffs fxtal jump phase s
  | .referenceEdgeMissing idx => Sys2Proof.Machine.execReferenceEdgeMissing idx s
  | .referenceQualified idx => Sys2Proof.Machine.execReferenceQualified idx s
  | .switchComplete => Sys2Proof.Machine.execSwitchComplete s
  | .disagreeCheck idx j fi fj => Sys2Proof.Machine.execDisagreeCheck idx j fi fj s
  | .loopctlSwWrite v => Sys2Proof.Machine.execLoopctlSwWrite v s
  | .freqadjWrite v => Sys2Proof.Machine.execFreqadjWrite v s
  | .phstepWrite v => Sys2Proof.Machine.execPhstepWrite v s
  | .outalignWrite v => Sys2Proof.Machine.execOutalignWrite v s
  | .alignmentEdge idx => Sys2Proof.Machine.execAlignmentEdge idx s
  | .outcfgWrite field v => Sys2Proof.Machine.execOutcfgWrite field v s
  | .syncoutPulse idx => Sys2Proof.Machine.execSyncoutPulse idx s
  | .snap => Sys2Proof.Machine.execSnap s
  | .basecfgWrite v => Sys2Proof.Machine.execBasecfgWrite v s
  | .masterMeasurement idx value freq => Sys2Proof.Machine.execMasterMeasurement idx value freq s
  | .sampleSlewDone => Sys2Proof.Machine.execSampleSlewDone s
  | .almctlWrite n v => Sys2Proof.Machine.execAlmctlWrite n v s
  | .alarmFire n => Sys2Proof.Machine.execAlarmFire n s
  | .ptpMessageRx p raw res => Sys2Proof.Machine.execPtpMessageRx p raw res s
  | .ethFrameDrop p => Sys2Proof.Machine.execEthFrameDrop p s
  | .ptpEventTx p raw msg => Sys2Proof.Machine.execPtpEventTx p raw msg s
  | .ethLinkChange p up => Sys2Proof.Machine.execEthLinkChange p up s
  | .mspFrameStart n words => Sys2Proof.Machine.execMspFrameStart n words s
  | .mspClkloss n => Sys2Proof.Machine.execMspClkloss n s
  | .monwordWrite w v => Sys2Proof.Machine.execMonwordWrite w v s
  | .heartbeatSend => Sys2Proof.Machine.execHeartbeatSend s
  | .grantSend => Sys2Proof.Machine.execGrantSend s
  | .digestSend => Sys2Proof.Machine.execDigestSend s
  | .ctrlRetransmit => Sys2Proof.Machine.execCtrlRetransmit s
  | .heartbeatRx lane fr => Sys2Proof.Machine.execHeartbeatRx lane fr s
  | .grantRx lane fr => Sys2Proof.Machine.execGrantRx lane fr s
  | .handoffRx lane fr => Sys2Proof.Machine.execHandoffRx lane fr s
  | .ticketRx lane fr => Sys2Proof.Machine.execTicketRx lane fr s
  | .commandRx lane fr => Sys2Proof.Machine.execCommandRx lane fr s
  | .threshRx lane fr => Sys2Proof.Machine.execThreshRx lane fr s
  | .watermarkRx lane fr => Sys2Proof.Machine.execWatermarkRx lane fr s
  | .ackRx lane fr => Sys2Proof.Machine.execAckRx lane fr s
  | .digestRx lane fr => Sys2Proof.Machine.execDigestRx lane fr s
  | .watermarkCompareTimeout => Sys2Proof.Machine.execWatermarkCompareTimeout s
  | .ownInChange level => Sys2Proof.Machine.execOwnInChange level s
  | .handoffTimeout => Sys2Proof.Machine.execHandoffTimeout s
  | .ownerSilenceTimeout => Sys2Proof.Machine.execOwnerSilenceTimeout s
  | .pairLinkDown => Sys2Proof.Machine.execPairLinkDown s
  | .leaseExpire => Sys2Proof.Machine.execLeaseExpire s
  | .leaseSilenceTakeover => Sys2Proof.Machine.execLeaseSilenceTakeover s
  | .interlockFault => Sys2Proof.Machine.execInterlockFault s
  | .ilreset => Sys2Proof.Machine.execIlreset s
  | .leaseModeExit => Sys2Proof.Machine.execLeaseModeExit s
  | .perstNRelease => Sys2Proof.Machine.execPerstNRelease s
  | .trigFrameSend => Sys2Proof.Machine.execTrigFrameSend s
  | .resumingBoundary => Sys2Proof.Machine.execResumingBoundary s
  | .handoffSend => Sys2Proof.Machine.execHandoffSend s
  | .estopNRise => Sys2Proof.Machine.execEstopNRise s

end Sys2Proof.Machine
end

