-- ==== Sys2Proof/Safety.lean ====
section
/-! DEFINITION. The terms in which claims are made: when a unit serves, what a command completes with, what it leaves
alone, and what holds in every state that a step keeps. -/

namespace Sys2Proof.Machine

/-- The pieces of state that a frame names. -/
inductive Part where
  /-- Stored BAR0 words but the MSI-X pending array. -/
  | regs
  /-- The MSI-X pending array. -/
  | pba
  | act
  /-- Page headers but `PERR` and `PIRQ`. -/
  | hdr
  | perr
  /-- `PIRQ`, and the message a page owes. -/
  | pirq
  | stats | live | nextc
  /-- `SYS.STATE`. -/
  | state
  /-- The commands of `SYS.CMD`. -/
  | cmd
  | errlog
  /-- What has left the block. -/
  | out
  /-- The other fields of the SYS page. -/
  | sys
  | boot | pwr | estop
  /-- The AON island but ESTOP. -/
  | aon
  /-- LOCAL. -/
  | loc
  /-- The CLK/TIME island's bases but LOCAL. -/
  | time
  | msp | mspSh | monword | eth | clk | lnb | plt | run | ing | dkl | hat | acc | bmf | trg | pair | bur | mctl | fab | hif
  | dma | mmu | mem
  /-- The model's own index of free values. -/
  | free
  deriving DecidableEq, Repr

/-- A word of the MSI-X pending array (R549). -/
def isPba (a : Nat) : Bool := decide (bar pgHIF 0x5000 ≤ a) && decide (a < bar pgHIF 0x5020)

/-- A page header without `PERR`, `PIRQ` and the owed message. -/
def Page.hdr (g : Page) : Page := { g with perr := {}, pirq := 0, owed := false }

/-- Two devices agree on a piece of state. -/
def Part.same : Part → Dev → Dev → Prop
  | .regs, d, e => ∀ a, isPba a = false → d.reg a = e.reg a
  | .pba, d, e => ∀ a, isPba a = true → d.reg a = e.reg a
  | .act, d, e => ∀ a, d.actReg a = e.actReg a
  | .hdr, d, e => ∀ p, (d.page p).hdr = (e.page p).hdr
  | .perr, d, e => ∀ p, (d.page p).perr = (e.page p).perr
  | .pirq, d, e => ∀ p, (d.page p).pirq = (e.page p).pirq ∧ (d.page p).owed = (e.page p).owed
  | .stats, d, e => d.stats = e.stats
  | .live, d, e => d.live = e.live
  | .nextc, d, e => d.nextc = e.nextc
  | .state, d, e => d.sys.state = e.sys.state
  | .cmd, d, e => d.sys.cmdstat = e.sys.cmdstat ∧ d.sys.cmdPend = e.sys.cmdPend
  | .errlog, d, e =>
    d.sys.errlog = e.sys.errlog ∧ d.sys.errlogDisc = e.sys.errlogDisc ∧ d.sys.errlogT = e.sys.errlogT
  | .out, d, e => d.sys.out = e.sys.out
  | .sys, d, e =>
    d.sys.sheetcnt = e.sys.sheetcnt ∧ d.sys.reamcnt = e.sys.reamcnt ∧ d.sys.sfnLatch = e.sys.sfnLatch ∧
      d.sys.before = e.sys.before
  | .boot, d, e => d.boot = e.boot
  | .pwr, d, e => d.pwr = e.pwr
  | .estop, d, e => d.aon.estop = e.aon.estop
  | .aon, d, e => { d.aon with estop := {} } = { e.aon with estop := {} }
  | .loc, d, e => d.time.loc = e.time.loc
  | .time, d, e => { d.time with loc := 0 } = { e.time with loc := 0 }
  | .msp, d, e => d.msp = e.msp
  | .mspSh, d, e => d.mspSh = e.mspSh
  | .monword, d, e => d.monword = e.monword
  | .eth, d, e => d.eth = e.eth
  | .clk, d, e => d.clk = e.clk
  | .lnb, d, e => d.lnb = e.lnb
  | .plt, d, e => d.plt = e.plt
  | .run, d, e => d.run = e.run
  | .ing, d, e => d.ing = e.ing
  | .dkl, d, e => d.dkl = e.dkl
  | .hat, d, e => d.hat = e.hat
  | .acc, d, e => d.acc = e.acc
  | .bmf, d, e => d.bmf = e.bmf
  | .trg, d, e => d.trg = e.trg
  | .pair, d, e => d.pair = e.pair
  | .bur, d, e => d.bur = e.bur
  | .mctl, d, e => d.mctl = e.mctl
  | .fab, d, e => d.fab = e.fab
  | .hif, d, e => d.hif = e.hif
  | .dma, d, e => d.dma = e.dma
  | .mmu, d, e => d.mmu = e.mmu
  | .mem, d, e => d.mem = e.mem
  | .free, d, e => d.free = e.free

/-- From `d` to `e` nothing changes but the listed pieces of state. -/
def Frame (T : List Part) (d e : Dev) : Prop := ∀ p, p ∉ T → p.same d e

/-- Every piece of state. -/
def allParts : List Part :=
  [.regs, .pba, .act, .hdr, .perr, .pirq, .stats, .live, .nextc, .state, .cmd, .errlog, .out, .sys,
    .boot, .pwr, .estop, .aon, .loc, .time, .msp, .mspSh, .monword, .eth, .clk, .lnb, .plt, .run,
    .ing, .dkl, .hat, .acc, .bmf, .trg, .pair, .bur, .mctl, .fab, .hif, .dma, .mmu, .mem,
    .free]

/-- Every piece of state but the listed ones. -/
def allBut (l : List Part) : List Part := allParts.filter fun p => !l.contains p

/-- What settling after a command may touch: the link to the peer with its interrupts, what leaves the block, the
automatic freeze snapshot. -/
def settles : List Part := [.pba, .pirq, .live, .out, .aon, .lnb, .pair, .mctl, .free]

/-- What a host write may touch beside its own effect: its rejection and what settling may touch. -/
def hostWrites : List Part := [.perr, .errlog] ++ settles

/-- What a command may touch. -/
def footprint : Instr → List Part
  | .start .. =>
    hostWrites ++ [.regs, .act, .state, .cmd, .sys, .time, .plt, .run, .ing, .dkl, .hat, .acc, .bmf, .trg, .bur]
  | .stop => hostWrites ++ [.cmd, .run]
  | .quiesce => hostWrites ++ [.nextc, .state, .cmd, .plt, .run, .ing, .dkl, .hat, .acc, .bmf, .trg, .mem]
  | .estop => hostWrites ++ [.cmd, .estop, .trg]
  | .latch => hostWrites ++ [.hdr, .stats, .nextc, .cmd, .pwr, .bur]
  | .build | .proof => hostWrites ++ [.cmd, .plt]
  | .arm => hostWrites ++ [.regs, .act, .state, .cmd, .time, .plt, .ing]
  | .selftest => hostWrites ++ [.state, .cmd, .sys]
  | .retrainMem | .thaw | .handover => hostWrites ++ [.cmd]
  | .resyncTime => hostWrites ++ [.cmd, .time]
  | .commandTimeout => [.pba, .pirq, .cmd, .errlog, .out]
  | .registerWrite .. => allBut [.loc]
  | .misalignedAccess .. => [.pba, .perr, .pirq, .errlog, .out]
  | .reservedPageAccess .. | .i3cPrivateRead => [.out]
  | .errlogPop => [.errlog, .out]
  | .mbxoutPop .. | .mbxinPortRead .. => [.out, .bur]
  | .faultlogPop => [.out, .mmu]
  | .sfnNowRead .. => [.out, .sys]
  | .perrclrWrite .. | .pirqClear .. | .pirqsetWrite .. | .snapTake | .snapClear | .injctlWrite .. | .ilreset =>
    hostWrites
  | .pcommit .. => hostWrites ++ [.regs, .act, .hdr, .time, .msp, .run, .ing, .acc, .bmf, .trg, .bur, .mem]
  | .commitApply .. => settles ++ [.regs, .act, .hdr, .perr, .time, .msp, .run, .ing, .acc, .bmf, .trg, .bur, .mem]
  | .shadowUnlock .. => [.regs, .pba, .hdr, .pirq, .out, .lnb, .run, .ing, .bmf]
  | .pctlEnWrite .. | .pctlSrst .. | .mladefIslandReset .. | .tempSample .. => allBut [.cmd, .sys, .estop, .loc]
  | .watchdogExpire | .linkReset .. => allBut [.cmd, .errlog, .sys, .pwr, .estop, .loc]
  | .recoveryComplete | .bringupComplete => settles ++ [.state, .boot]
  | .wdogFire => allBut [.cmd, .sys, .pwr, .estop, .loc]
  | .irqmapWrite .. => hostWrites ++ [.regs]
  | .powerOnReset => allBut [.free]
  | .porstRelease | .supplyHoldRelease => [.pba, .pirq, .live, .state, .out, .boot, .estop, .lnb, .trg, .pair]
  | .pcieLinkUp .. => [.pba, .pirq, .out, .boot, .hif]
  | .imgdataWrite .. | .imgctlClr .. | .imgctlGo .. => hostWrites ++ [.boot]
  | .imageVerifyDone .. => settles ++ [.hdr, .perr, .state, .boot]
  | .bringupRefTimeout | .perstNRelease => [.boot]
  | .supplySample .. | .shedreqWrite .. =>
    hostWrites ++ [.regs, .hdr, .state, .pwr, .time, .msp, .plt, .dkl, .hat, .acc, .bmf, .trg, .bur, .fab, .dma,
      .mmu, .mem]
  | .shedFall => settles ++ [.nextc, .state, .boot, .pwr, .plt, .run, .ing, .acc, .bmf, .trg, .bur]
  | .supplyReset .. => allBut []
  | .estopNEdge | .aonEstop .. => settles ++ [.estop, .trg]
  | .estopAssert | .estopRelease => hostWrites ++ [.estop, .bmf, .trg]
  | .aonNop .. | .aonSnaptake .. | .aonSnapclr .. | .handoffTimeout | .leaseExpire | .interlockFault
  | .leaseModeExit | .handoffSend => settles
  | .aonRead .. => [.sys, .aon]
  | .aonRelease .. => settles ++ [.estop, .bmf]
  | .aonWdreset .. | .aonSetshed .. | .i3cPrivateWrite .. => allBut [.cmd, .loc]
  | .aonReadsnap .. => [.aon]
  | .i3cCcc .. => [.out, .aon, .free]
  | .snapshotDone => [.pba, .pirq, .out, .aon]
  | .memoryFreeze .. => settles ++ [.state, .plt, .acc]
  | .frzforce .. => hostWrites ++ [.state, .plt, .acc]
  | .thawCheckDone .. => hostWrites ++ [.nextc, .state, .plt, .run, .ing, .dkl, .acc, .bmf, .mem]
  | .patrolScrub .. => settles ++ [.state, .errlog, .plt, .acc, .mem]
  | .refreshRatePoll .. => [.pba, .hdr, .pirq, .live, .out, .mctl]
  | .memoryChannelStale .. => [.pba, .hdr, .pirq, .out, .mctl]
  | .memoryTrainingDone .. => settles ++ [.hdr, .errlog, .boot, .time, .plt, .hat, .mem]
  | .retrainDone .. => settles ++ [.hdr, .errlog, .boot, .plt, .mem]
  | .excladd .. => hostWrites ++ [.plt, .mem]
  | .selftestDone .. => settles ++ [.state, .errlog, .time, .plt, .hat, .mem]
  | .quiesceDone => settles ++ [.state]
  | .signalDetect .. => [.lnb]
  | .electricalIdle .. | .laneBringupTimeout .. | .syncHeader .. | .lanePowerDown .. =>
    [.pba, .pirq, .live, .out, .time, .lnb]
  | .adaptDone .. => [.hdr, .lnb]
  | .markerRx .. => [.pba, .pirq, .live, .out, .time, .clk, .lnb, .acc]
  | .frameDelineate .. | .idleFrameSend .. | .forwardFrame .. => [.live, .out, .lnb]
  | .retune .. => hostWrites ++ [.regs, .time]
  | .eyeRefresh .. => [.pba, .hdr, .pirq, .live, .out, .lnb]
  | .markerSend .. => [.out, .lnb]
  | .sampleFrameRx .. => [.pba, .pirq, .live, .nextc, .out, .lnb, .ing, .dkl, .bmf, .pair, .mem]
  | .trigFrameRx .. => [.pba, .pirq, .live, .nextc, .out, .lnb, .ing, .trg]
  | .idleFrameRx .. => [.pba, .pirq, .live, .nextc, .out, .lnb, .ing]
  | .laneqRelease .. | .bindhiWrite .. | .mackeyLoad .. | .mackeyClear .. => hostWrites ++ [.ing]
  | .frameSetClose .. => [.pba, .pirq, .live, .nextc, .out, .ing, .dkl, .acc, .bmf, .trg, .bur, .mem]
  | .sheetComplete => [.pba, .pirq, .live, .out, .sys, .run, .ing, .dkl, .hat, .acc, .trg, .bur, .mem]
  | .statisticsLatch => settles ++ [.hdr, .stats, .nextc, .state, .sys, .pwr, .plt, .run, .hat, .acc, .bur]
  | .stopBoundary => settles ++ [.nextc, .state, .plt, .run, .dkl]
  | .plateTakeover => settles ++ [.regs, .act, .hdr, .perr, .time, .plt, .run, .ing, .acc, .bmf, .trg]
  | .pageSlotAssign .. | .captureRecordWrite .. => [.pba, .pirq, .live, .out, .dkl, .mem]
  | .pageConsume .. => [.dkl]
  | .cornerTurnStage .. => [.pba, .pirq, .live, .errlog, .out, .plt, .dkl, .acc, .mctl, .mem]
  | .dklRelease .. | .caprdWrite .. => hostWrites ++ [.dkl]
  | .passRun .. => [.pba, .pirq, .live, .out, .plt, .dkl, .hat, .acc, .mem, .free]
  | .qmaskSet .. => hostWrites ++ [.plt, .hat, .mem]
  | .channelAdd .. | .addWindowExpire .. => [.pba, .pirq, .live, .out, .acc, .mem]
  | .suspectFlagsClose => [.pba, .pirq, .live, .out, .plt, .hat, .acc, .mem]
  | .recordFinished => settles ++ [.nextc, .state, .plt, .run, .hat, .acc, .mem]
  | .accRelease .. => hostWrites ++ [.acc]
  | .beamFrameSend .. => [.live, .out, .lnb, .bmf]
  | .bmfTableWrite .. => [.pba, .perr, .pirq, .live, .errlog, .out, .bmf]
  | .stgrdWrite .. => hostWrites ++ [.bmf]
  | .triggerSampleEval .. => [.pba, .pirq, .live, .out, .dkl, .trg, .bur]
  | .swDeadline => [.pba, .pirq, .live, .out, .trg]
  | .triginEdge .. | .swPost .. => [.live, .trg]
  | .trigoutPulseEnd .. => [.out, .trg]
  | .logEntryWrite => [.pba, .pirq, .live, .out, .trg, .mem]
  | .trgTableWrite .. => [.pba, .perr, .pirq, .live, .errlog, .out, .trg]
  | .logrdWrite .. => hostWrites ++ [.trg]
  | .buildDone => settles ++ [.plt, .mem]
  | .proofDone => settles ++ [.plt]
  | .disarm => hostWrites ++ [.regs, .act, .state, .time, .plt, .ing]
  | .plateSlotWrite .. => hostWrites ++ [.plt, .fab, .mem]
  | .burinActivation .. => [.bur, .free]
  | .burinTimer .. => [.bur]
  | .burinIrqTaken .. => [.live, .bur]
  | .cmtGo .. =>
    [.regs, .pba, .act, .hdr, .pirq, .live, .out, .time, .msp, .lnb, .run, .ing, .acc, .bmf, .trg, .bur, .mem]
  | .xfGo .. | .nopOp .. | .addOp .. | .subOp .. | .addsOp .. | .subsOp .. | .andOp .. | .orOp .. | .xorOp ..
  | .shlOp .. | .shraOp .. | .shrlOp .. | .cmpOp .. | .minOp .. | .maxOp .. | .absOp .. | .accopOp ..
  | .mvaOp .. | .mvrOp .. | .getaOp .. | .putaOp .. | .ldiOp .. | .mvxOp .. | .brOp .. | .callOp .. | .retOp ..
  | .loopOp .. | .rtiOp .. | .waitOp .. | .sigOp .. | .flagOp .. | .brkOp .. => settles ++ [.bur]
  | .xfDone .. => hostWrites ++ [.regs, .state, .monword, .plt, .acc, .bmf, .trg, .bur, .fab, .mem]
  | .burinReloadDone => [.pba, .pirq, .live, .out, .bur]
  | .cctlHalt .. | .cctlStep .. | .cctlCreset .. | .stOp .. =>
    hostWrites ++ [.regs, .act, .hdr, .state, .time, .msp, .monword, .plt, .run, .ing, .acc, .bmf, .trg, .bur,
      .fab, .mem]
  | .mbxinWrite .. => hostWrites ++ [.bur]
  | .mpyOp .. | .macOp .. | .ldOp .. => settles ++ [.state, .errlog, .plt, .acc, .bur, .fab, .mem]
  | .dmaStart .. | .dmaResume .. => hostWrites ++ [.dma]
  | .dmaAbort .. | .descCopy .. | .descFill .. | .descCompare .. | .readbackDone .. | .chainPreempt ..
  | .fabricTimeout .. | .pcieCompletionTimeout .. =>
    hostWrites ++ [.regs, .state, .plt, .acc, .bmf, .trg, .bur, .fab, .dma, .mmu, .mem]
  | .invalidateContext .. | .invalidatePage .. | .invalidateAll => hostWrites ++ [.mmu]
  | .invalidationDone => [.pba, .pirq, .live, .out, .mmu]
  | .hostInboundRead .. => settles ++ [.state, .errlog, .plt, .acc, .fab, .mem]
  | .atomicAdd .. | .atomicSwap .. => hostWrites ++ [.state, .plt, .acc, .fab, .mem]
  | .hostInboundWrite .. => hostWrites ++ [.state, .boot, .plt, .acc, .bmf, .trg, .bur, .fab, .mem]
  | .lateResponse => [.live, .fab]
  | .portDrainTimeout .. => [.pba, .pirq, .live, .out, .fab]
  | .referenceEdge .. | .referenceEdgeMissing .. | .referenceQualified .. =>
    [.pba, .pirq, .live, .out, .time, .clk, .acc]
  | .switchComplete => [.pba, .hdr, .pirq, .out, .clk]
  | .disagreeCheck .. => [.pba, .pirq, .live, .out, .clk, .acc]
  | .loopctlSwWrite .. => hostWrites ++ [.regs, .clk, .acc]
  | .freqadjWrite .. => hostWrites ++ [.regs, .clk]
  | .phstepWrite .. | .outalignWrite .. | .outcfgWrite .. => hostWrites ++ [.clk]
  | .alignmentEdge .. | .syncoutPulse .. => [.out, .clk]
  | .snap | .basecfgWrite .. | .almctlWrite .. => hostWrites ++ [.time]
  | .masterMeasurement .. | .alarmFire .. => [.pba, .pirq, .live, .out, .time]
  | .sampleSlewDone => [.pba, .pirq, .out, .time]
  | .ptpMessageRx .. => [.pba, .pirq, .live, .out, .time, .clk, .eth, .acc]
  | .ethFrameDrop .. => [.live]
  | .ptpEventTx .. => [.live, .out, .eth]
  | .ethLinkChange .. => [.pba, .pirq, .out, .eth]
  | .mspFrameStart .. | .mspClkloss .. => [.pba, .hdr, .pirq, .live, .out, .msp, .mem]
  | .monwordWrite .. => hostWrites ++ [.monword]
  | .heartbeatSend | .grantSend | .digestSend | .ctrlRetransmit => [.live, .out, .lnb, .pair]
  | .heartbeatRx .. | .handoffRx .. => settles ++ [.regs, .nextc, .ing, .bmf]
  | .grantRx .. | .watermarkRx .. | .ackRx .. | .digestRx .. => settles ++ [.nextc, .ing]
  | .ticketRx .. | .threshRx .. =>
    settles ++ [.regs, .act, .hdr, .nextc, .time, .msp, .run, .ing, .acc, .bmf, .trg, .bur, .mem]
  | .commandRx .. => settles ++ [.regs, .act, .nextc, .state, .time, .plt, .run, .ing]
  | .watermarkCompareTimeout => [.pba, .pirq, .live, .out, .pair]
  | .ownInChange .. | .ownerSilenceTimeout | .pairLinkDown | .leaseSilenceTakeover => settles ++ [.regs, .bmf]
  | .trigFrameSend => [.live, .out, .lnb, .trg]
  | .resumingBoundary => settles ++ [.pwr, .msp, .bmf, .trg, .bur]
  | .estopNRise => [.estop]

/-- The command answers a next state with the queue as it was and the device as `P` says. -/
def Completes (c : Instr) (s : State) (P : Dev → Prop) : Prop :=
  ∃ t, exec c s = .next t ∧ t.pending = s.pending ∧ P t.dev

/-- A host access to offset `o` of page `p` through BAR0 reaches the page (R488, R504, R519). -/
def Dev.reaches (d : Dev) (p o : Nat) (write : Bool) : Bool :=
  d.hostUp && pageExists p && !(d.sys.state == .imageWait && !(p == pgSYS || p == pgAON))
    && !(decide (6 ≤ d.pwr.level) && !(if write then s6Write p o else pageAlwaysOn p))

/-- A host write to the register at offset `o` of page `p` reaches the register (R521). -/
def Dev.takes (d : Dev) (p o : Nat) : Bool := d.reaches p o true && !d.notReady p o

/-- A host read of a register of page `p` reaches the page, and its block is started (R521). -/
def Dev.reads (d : Dev) (p : Nat) : Bool := d.reaches p 0 false && (d.page p).started

/-- Nothing is left to settle: no snapshot is owed, and in a pair this module is offline exactly outside a run. -/
def Dev.calm (d : Dev) : Bool :=
  !d.mctl.snapDue && (!d.paired || ((d.pair.state == .offline) != noStepState d.sys.state))

/-- The access is recorded as rejected: `PERR` of the page takes the code and the word, and the entry is the newest of the
error log (R524, R527, R534). -/
def Dev.rejected (d e : Dev) (p off : Nat) (c : Code) : Prop :=
  (e.page p).perr = (d.page p).perr.record c (off / 4) ∧
    e.sys.errlog.getLast? = some { page := p, code := c, word := off / 4, event := false, time := d.time.arr }

/-- A host access through BAR2 reaches the fabric (R383, R488, R504). -/
def Dev.takes2 (d : Dev) : Bool := d.hostUp && d.sys.state != .imageWait && decide (d.pwr.level < 6)

/-- The code of a command of `SYS.CMD` (R537). -/
def sysCode : Instr → Option Nat
  | .start .. => some 0x10
  | .stop => some 0x11
  | .quiesce => some 0x12
  | .estop => some 0x13
  | .latch => some 0x20
  | .build => some 0x30
  | .proof => some 0x31
  | .arm => some 0x32
  | .selftest => some 0x40
  | .retrainMem => some 0x50
  | .thaw => some 0x60
  | .handover => some 0x70
  | .resyncTime => some 0x71
  | _ => none

/-- No command of `SYS.CMD` waits, `CMD` can be written, and command `code` passes the checks of R536. -/
def Dev.cmdPasses (d : Dev) (code : Nat) : Prop :=
  d.sys.cmdPend = none ∧ d.takes pgSYS 0x1008 = true ∧ d.cmdRefused code = none

/-- `CMDSTAT` says that command `code` has completed with result `r` (R532, R535). -/
def Dev.cmdDone (d e : Dev) (code : Nat) (r : Code) : Prop :=
  e.sys.cmdstat = { result := r, cmd := BitVec.ofNat 8 code, ready := true, busy := false, gen := d.sys.cmdstat.gen + 1 }
    ∧ e.sys.cmdPend = none

/-- Core `c` runs, and the instruction at its program counter is `op` (R263, R273). -/
def Dev.issues (d : Dev) (c : Nat) (op : BOp) : Bool :=
  d.unitOn (burPage c) && (d.core c).state == .run && burDecode ((d.core c).pWord (d.core c).bank.pc.toNat) == some op

/-- A data register holds `v`, and the instruction before has not just written it (R269). -/
def Bank.seesD (b : Bank) (i : Fin 16) (v : BitVec 16) : Prop := BReg.d i ∉ b.fresh ∧ Tab.get 0 b.dr i.val = v

/-- An address register holds `v`, and the instruction before has not just written it (R269). -/
def Bank.seesA (b : Bank) (i : Fin 8) (v : BitVec 16) : Prop := BReg.a i ∉ b.fresh ∧ Tab.get 0 b.ar i.val = v

/-- An offset register holds `v`, and the instruction before has not just written it (R269). -/
def Bank.seesM (b : Bank) (i : Fin 8) (v : BitVec 16) : Prop := BReg.m i ∉ b.fresh ∧ Tab.get 0 b.mr i.val = v

/-- The second source of an instruction is `v`. -/
def Bank.seesS (b : Bank) (s : BSrc) (v : BitVec 16) : Prop :=
  match s with
  | .reg i => b.seesD i v
  | .imm k => k = v

/-- A load of a MAC-format instruction reads data memory, and the instruction before has written neither of its
registers (R268, R269). -/
def Core.loadReady (x : Core) (l : Option (Fin 8 × Fin 16)) : Prop := ∀ i p, l = some (i, p) →
  BReg.a i ∉ x.bank.fresh ∧ BReg.m i ∉ x.bank.fresh ∧ (Tab.get (0 : BitVec 16) x.bank.ar i).toNat < 0x8000

/-- A bank after a load of a MAC-format instruction: the word of data memory, and the post-modified address (R268, R272). -/
def Core.loadPut (x : Core) (l : Option (Fin 8 × Fin 16)) (b : Bank) : Bank :=
  match l with
  | none => b
  | some (i, p) =>
    let a := Tab.get (0 : BitVec 16) x.bank.ar i
    (b.wrD p (x.dWord a.toNat)).wrA i (postMod (x.bank.amodeOf i) a (Tab.get 0 x.bank.mr i))

/-- The registers that a load of a MAC-format instruction writes. -/
def loadRegs (l : Option (Fin 8 × Fin 16)) : List BReg := match l with | none => [] | some (i, p) => [.d p, .a i]

/-- Of the burin cores none but `c` has changed. -/
def Dev.onlyCore (d e : Dev) (c : Nat) : Prop := ∀ n, n ≠ c → e.core n = d.core n

/-- Core `c` has run one instruction of `n` cycles that left its bank as `b`, wrote the registers `w`, and branches to `tgt`
or jumps to `jump`; nothing else of any core has changed. -/
def Dev.ran (d e : Dev) (c n : Nat) (b : Bank) (w : List BReg) (tgt jump : Option (BitVec 13)) : Prop :=
  e.core c = ({ d.core c with cyc := (d.core c).cyc + n }.setBank (b.advance w tgt jump)).haltDue ∧ d.onlyCore e c

/-- Core `c` has run a 16-bit operation in one cycle: `v` in `Dd`, Z and N from it, S set besides where `st`, C as `C` says. -/
def Dev.aluDone (d e : Dev) (c : Nat) (dd : Fin 16) (v : BitVec 16) (st : Bool) (C : Bool → Prop) : Prop :=
  let b := (d.core c).bank
  ∃ k, C k ∧ d.ran e c 1 { b.wrD dd v with z := v == 0, n := v.msb, c := k, s := b.s || st } [.d dd] none none

/-- An exact accumulator result `v` in a bank: wrapped or clamped, V set besides where it lies outside 40 bits (R265). -/
def Bank.accDone (b : Bank) (st ac : Bool) (v : Int) : Bank :=
  { b.wrAcc ac (BitVec.ofInt 40 (if st then max (-2 ^ 39) (min (2 ^ 39 - 1) v) else v)) with
    v := b.v || decide (v < -2 ^ 39 ∨ 2 ^ 39 - 1 < v) }

/-- A move of the scaled value `v` to `Dd`: saturated, S set besides where it saturates (R266). -/
def Bank.movDone (b : Bank) (dd : Fin 16) (v : Int) : Bank :=
  { b.wrD dd (BitVec.ofInt 16 (max (-32768) (min 32767 v))) with s := b.s || decide (v < -32768 ∨ 32767 < v) }

/-- A special register holds `v`, as MVX reads it; the low half of AMODE (R273). -/
def Bank.seesX (b : Bank) (x : BSpec) (v : BitVec 16) : Prop :=
  match x with
  | .a i => b.seesA i v
  | .m i => b.seesM i v
  | .lk => b.lk = v
  | .lc => b.lc = v
  | .ls => b.ls = v
  | .le => b.le = v
  | .amode => b.amode.setWidth 16 = v

/-- An address register after post-modification: `a + m` in the bits that AMODE lets change, the others kept (R268). -/
def Bank.postModded (b : Bank) (i : Fin 8) (a m a' : BitVec 16) : Prop :=
  ∀ j, a'.getLsbD j = if b.amodeOf i = 0 ∨ j < b.amodeOf i then (a + m).getLsbD j else a.getLsbD j

/-- Core `c` has faulted on code `k` of R287 after `n` cycles: it has stopped, and `CFAULTINFO` holds the code, the program
counter and the task. Nothing of any other core has changed. -/
def Dev.faulted (d e : Dev) (c n k : Nat) : Prop :=
  let x := d.core c
  e.core c = { x with cyc := x.cyc + n, state := .fault, queue := [], irqs := [], running := none
                      fault := at_ 0 k ||| at_ 8 x.bank.pc.toNat ||| at_ 24 (match x.task with | some t => t | none => 0x1F) }
    ∧ d.onlyCore e c

/-- Engine `k` holds a translation of virtual address `va` for channel `n`: to address `a` of host memory or of the device,
and the mapping permits the access (R396, R398). -/
def Dev.maps (d : Dev) (k n : Nat) (va : BitVec 64) (write : Bool) (a : Nat) (host : Bool) : Prop :=
  Tab.get false d.mmu.en (d.chCtx k n) = true ∧ va.toNat < 2 ^ 48 ∧
    ∃ t, (d.mmu.tlb.find? fun t => t.eng == k && t.ctx == d.chCtx k n && t.vpn == va.toNat / 4096) = some t ∧
      permErr t.read t.write write = none ∧ t.base + va.toNat % 4096 = a ∧ t.host = host

/-- Channel `n` of engine `k` is ACTIVE in the middle of descriptor `x`, and the engine may execute `len` more bytes of it
at once: no URGENT chain waits to pre-empt it, and the bytes reach no further than the descriptor (R385, R386). -/
def Dev.executes (d : Dev) (k n : Nat) (x : Desc) (len : Nat) : Prop :=
  d.unitOn (pgDMA + k) = true ∧ d.dmaActive k = some n ∧ (d.dch k n).desc = some x ∧
    (d.chUrgent k n = true ∨ (d.eng k).urgent = []) ∧ 0 < len ∧ (d.dch k n).off + len ≤ x.len

/-- Engine `k` reads the bytes `l` for channel `n` at virtual address `va`, within one page: from host memory, in flits that
are not poisoned, or from device memory that serves and holds no code error there (R388, R393, R396). -/
def Dev.engReads (d : Dev) (k n : Nat) (host : Tab Byte) (pois : List Nat) (va : BitVec 64) (l : List Byte) : Prop :=
  va.toNat % 4096 + l.length ≤ 4096 ∧ ∃ a h, d.maps k n va false a h ∧
    (∀ i < l.length, l[i]? = some (if h then Tab.get 0 host (a + i) else d.byte (a + i))) ∧
    (h = true → ∀ i < l.length, (a + i) / 64 * 64 ∉ pois) ∧
    (h = false → whereIs a = .mem ∧ a + l.length ≤ memBytes ∧ d.memServes = true ∧ d.badIn a l.length = [])

/-- Engine `k` may write `len` bytes for channel `n` at `va`, within one page: at `a` of host memory or of device memory that
serves, refuses no write there and holds no code error there (R380, R388, R396). -/
def Dev.engWrites (d : Dev) (k n : Nat) (va : BitVec 64) (len a : Nat) (host : Bool) : Prop :=
  va.toNat % 4096 + len ≤ 4096 ∧ d.maps k n va true a host ∧
    (host = false → whereIs a = .mem ∧ a + len ≤ memBytes ∧ d.memServes = true ∧ d.badIn a len = [] ∧
      d.refusedAt (1 + k) a len = none)

/-- The bytes `l` are in device memory from `a`, and no other byte has changed. -/
def Dev.stored (d e : Dev) (a : Nat) (l : List Byte) : Prop :=
  (∀ i < l.length, e.byte (a + i) = (l[i]?).getD 0) ∧ ∀ x, x < a ∨ a + l.length ≤ x → e.byte x = d.byte x

/-- A CTRL message of a kind leaves with the next SEQ: on the one PAIR lane that is UP, if there is one and it sends (R463). -/
def Dev.sendsCtrl (d e : Dev) (kind ref : Nat) (rest : List Byte) : Prop :=
  e.pair.txSeq = d.pair.txSeq + 1 ∧ ∀ l, d.pairLanes = [l] → d.txOn l = true →
    e.sys.out = .frame l (d.ctrlFrame l d.pair.txSeq (d.ctrlHead kind ref ++ rest)) :: d.sys.out

/-- A CTRL frame of kind `k` on logical lane `l` passes the checks of R52 and is the first copy of its message (R464). -/
def Dev.hearsCtrl (d : Dev) (l : Nat) (fr : List Byte) (k : Nat) : Prop :=
  d.unitOn pgPAIR = true ∧ d.paired = true ∧ frType fr = 4 ∧ ctrlAt fr 0 1 = k ∧ (d.ingest l fr).1 = 0 ∧
    ∀ q, d.pair.rxSeq = some q → after (frSeq fr) q = true

/-- The module has become OWNER: OWN_OUT is high and EPOCH is `n` (R457, R458). -/
def Dev.owns (e : Dev) (n : Nat) : Prop := e.pair.state = .owner ∧ e.pair.ownOut = true ∧ e.epoch = n % 2 ^ 32

/-- Device memory is in its canonical form after, if it was before. -/
def MemKept (d e : Dev) : Prop := Memory.wf d.mem = true → Memory.wf e.mem = true

end Sys2Proof.Machine
end

