-- ==== Sys2Proof/Certificates/Slice0/Obligations.lean ====
section
/-! DEFINITION. The statements for the provers: what the specification says of the commands, of the block's state and of a step. -/

open Sys2Proof Sys2Proof.Machine

/-- A step runs the command at the front of the queue with the rest of the queue left waiting; on an empty queue LOCAL goes
on by 40 ns and the queue stays empty (the model's choice, log entry 2). -/
def Obligations.StepRunsTheFrontCommand : Prop :=
  (∀ (c : Instr) (rest : List Instr) (d : Dev), step { dev := d, pending := c :: rest } = exec c { dev := d, pending := rest }) ∧
    ∀ d : Dev, ∃ t, step { dev := d, pending := [] } = .next t ∧ t.pending = [] ∧ t.dev.time.loc = d.time.loc + 40

/-- Every command answers a next state, leaves the queue as it is, and changes no piece of state outside its footprint. -/
def Obligations.EveryCommandKeepsItsFrame : Prop := ∀ (c : Instr) (s : State),
  ∃ t, exec c s = .next t ∧ t.pending = s.pending ∧ Frame (footprint c) s.dev t.dev

/-- Every step keeps device memory in its canonical form: addresses strictly rising, no entry equal to what an unlisted
address reads as. -/
def Obligations.EveryStepKeepsMemoryForm : Prop := ∀ s t : State,
  step s = .next t → Memory.wf s.dev.mem = true → Memory.wf t.dev.mem = true

/-- Device memory has its canonical form at reset. -/
def Obligations.MemoryFormHoldsAtReset : Prop := Memory.wf State.reset.dev.mem = true

/-- What reset leaves, as the spec gives it: `SYS.STATE` reads IMAGE_WAIT (R545), no command has completed, the error log and
every PERR and PIRQ are empty, LAST_TICKET is zero and no ticket is armed (R529), IRQMAP entry p reads p (R556), WDOG.TIMEOUT
is 2,000 ms (R518), CHBUDGET is 65,536 (R394), ESTOP is not in force, nothing is pinned and no plate is active. -/
def Obligations.ResetLeavesTheSpecsValues : Prop :=
  let d := State.reset.dev
  State.reset.pending = [] ∧ d.sys.state = .imageWait ∧ d.sys.cmdstat = {} ∧ d.sys.errlog = [] ∧ d.sys.sheetcnt = 0 ∧
    d.sys.reamcnt = 0 ∧ d.aon.estop.active = false ∧ d.plt.active = none ∧ d.plt.staged = .empty ∧ d.boot.wdTimeout = 2000 ∧
    d.pwr.level = 0 ∧
    (∀ p : Fin 256, (d.page p).perr = {} ∧ (d.page p).pirq = 0 ∧ (d.page p).pirqen = 0 ∧ (d.page p).armed = none ∧
      (d.page p).locked = false ∧ (d.page p).lastTicket = 0) ∧
    (∀ p : Fin 256, pageExists p = true → d.reg (bar pgSYS (0x1800 + 4 * p.val)) = BitVec.ofNat 32 p.val)

/-- ESTOP, once in force, stays in force through every command but a release, a power-on reset, and a write that names
`AON.ESTOP` or an operation of the I3C port's command register (R566, R567). -/
def Obligations.EstopStaysInForce : Prop := ∀ (c : Instr) (s t : State), exec c s = .next t → s.dev.aon.estop.active = true →
  (c = .estopRelease ∨ (∃ i, c = .aonRelease i) ∨ c = .powerOnReset ∨ c = .supplyReset 8 ∨
    (∃ v, c = .registerWrite 1 0x101C v) ∨ (∃ v, c = .i3cPrivateWrite 8 v)) ∨ t.dev.aon.estop.active = true

/-- No command but a power-on reset (PORST_N, or VAON lost) changes LOCAL, and a step with nothing pending takes it forward
(log entry 2, the model's choice):
it is never stepped (R431). -/
def Obligations.LocalTimeIsNeverStepped : Prop :=
  (∀ (c : Instr) (s t : State), exec c s = .next t → c ≠ .powerOnReset → (∀ r, c ≠ .supplyReset r) → t.dev.time.loc = s.dev.time.loc) ∧
    (∀ (s t : State) (r : Fin 10), exec (.supplyReset r) s = .next t → r ≠ 8 → t.dev.time.loc = s.dev.time.loc) ∧
    ∀ (d : Dev) (t : State), step { dev := d, pending := [] } = .next t → t.dev.time.loc = d.time.loc + 40

/-- START, where R536 and its own checks pass (R26, R459, R473): the state becomes RUNNING, S0 is the first SFN at or after the
requested one with S0 ≡ SHEET_OFFSET modulo K_s (R23), CMDARG0 and CMDARG1 read S0, SHEETCNT and REAMCNT are zero, and the
first sheet and ream begin at S0. -/
def Obligations.StartEntersRunning : Prop := ∀ (own : Bool) (s : State), s.dev.cmdPasses 0x10 → s.dev.startErrs own = [] →
  Completes (.start own) s fun e => s.dev.cmdDone e 0x10 eOK ∧ e.sys.state = .running ∧ e.sys.sheetcnt = 0 ∧
    e.sys.reamcnt = 0 ∧ e.run.live = true ∧ e.run.sheetAt = e.run.s0 ∧ e.run.reamAt = e.run.s0 ∧ e.run.bLast = none ∧
    e.reg (bar pgSYS 0x100C) = e.run.s0.setWidth 32 ∧ e.reg (bar pgSYS 0x1010) = (e.run.s0 >>> 32).setWidth 32 ∧
    (s.dev.startReq.kslog ≤ 48 →
      (e.run.s0 - BitVec.ofNat 48 s.dev.startReq.sheetOff).toNat % s.dev.startReq.ks = 0 ∧
      (e.run.s0 - s.dev.startArg).toNat < s.dev.startReq.ks)

/-- STOP, where its checks pass, fixes B_last at the first ream boundary at least W ahead and stays RUNNING (R27). QUIESCE
stops the data path at once: the state is QUIESCED, no run is live, and no sheet is left to correlate (R513). -/
def Obligations.StopAndQuiesceEndTheRun : Prop :=
  (∀ s : State, s.dev.cmdPasses 0x11 → s.dev.stopErrs = [] → Completes .stop s fun e =>
    s.dev.cmdDone e 0x11 eOK ∧ e.run.bLast = some s.dev.reamBoundary ∧ e.sys.state = .running) ∧
  ∀ s : State, s.dev.cmdPasses 0x12 → Completes .quiesce s fun e =>
    s.dev.cmdDone e 0x12 eOK ∧ e.sys.state = .quiesced ∧ e.run.live = false ∧ e.run.bLast = none ∧ e.hat.sheet = none ∧
      e.hat.queue = []

/-- LATCH (R538): every statistics window latches, every PGEN increments by one, the live counters of the data in hand restart
from zero, REAMCNT is unchanged, no visibility buffer swaps and no record closes. -/
def Obligations.LatchPerformsTheStatisticsLatch : Prop := ∀ s : State, s.dev.cmdPasses 0x20 →
  Completes .latch s fun e => s.dev.cmdDone e 0x20 eOK ∧ e.stats = s.dev.usLevel.live ∧
    (∀ p, pageExists p = true → (e.page p).pgen = (s.dev.page p).pgen + 1) ∧ e.sys.reamcnt = s.dev.sys.reamcnt ∧
    e.acc = s.dev.acc ∧ e.run = s.dev.run

/-- BUILD and PROOF start, where their checks pass: the staged slot is BUSY; a build takes the fault map snapshot and drops
the slot's contents (R187, R191). ARM, where its checks pass, makes the staged plate ARMED; in READY and IDLE the state is
IDLE, in RUNNING the takeover waits for the first ream boundary at least W ahead (R196, R35). DISARM returns an ARMED slot to
PROOFED in READY and IDLE (R198). -/
def Obligations.PlateCommandsMoveTheStagedSlot : Prop :=
  (∀ s : State, s.dev.cmdPasses 0x30 → s.dev.buildErrs false = [] → Completes .build s fun e =>
    s.dev.cmdDone e 0x30 eOK ∧ e.plt.staged = .busy ∧ e.plt.stagedP = none ∧ e.plt.busy = true ∧ e.plt.ready = false ∧
      e.plt.snapQ = s.dev.hat.qmask.setWidth 256 ∧ e.plt.snapExcl = s.dev.plt.excl) ∧
  (∀ s : State, s.dev.cmdPasses 0x31 → s.dev.buildErrs true = [] → Completes .proof s fun e =>
    s.dev.cmdDone e 0x31 eOK ∧ e.plt.staged = .busy ∧ e.plt.stagedP = s.dev.plt.stagedP ∧ e.plt.busy = true ∧
      e.plt.ready = false) ∧
  (∀ (s : State) (q : Plate), s.dev.cmdPasses 0x32 → s.dev.pair.state.standby = false →
    (s.dev.armErrs (s.dev.cmdArg 0)).1 = [] → s.dev.armRoleErrs = [] → s.dev.plt.stagedP = some q →
    Completes .arm s fun e => s.dev.cmdDone e 0x32 eOK ∧ e.plt.staged = .armed ∧ e.plt.stagedP = some q ∧
      (s.dev.sys.state = .ready ∨ s.dev.sys.state = .idle → e.sys.state = .idle) ∧
      (s.dev.sys.state = .running → e.sys.state = .running ∧ e.plt.armPend = true ∧ e.plt.armSfn = s.dev.reamBoundary)) ∧
  ∀ s : State, s.dev.takes pgPLT 0x1028 = true → (s.dev.sys.state = .ready ∨ s.dev.sys.state = .idle) →
    s.dev.plt.staged = .armed → Completes .disarm s fun e => e.plt.staged = .proofed ∧ e.plt.armPend = false

/-- SELFTEST enters SELFTEST and remembers the state it came from (R514); RETRAIN_MEM takes the controller to RETRAIN (R356);
THAW takes it to THAWING (R359); HANDOVER of an OWNER whose partner is eligible begins the hand-over (R460); RESYNC_TIME of
ARRAY or PEER reselects the base's master (R435). -/
def Obligations.OtherSysCommandsTakeEffect : Prop :=
  (∀ s : State, s.dev.cmdPasses 0x40 → s.dev.selftestErrs = [] → Completes .selftest s fun e =>
    s.dev.cmdDone e 0x40 eOK ∧ e.sys.state = .selftest ∧ e.sys.before = s.dev.sys.state) ∧
  (∀ s : State, s.dev.cmdPasses 0x50 → s.dev.retrainErrs = [] → Completes .retrainMem s fun e =>
    s.dev.cmdDone e 0x50 eOK ∧ e.mctl.mstat = .retrain ∧ e.mem = s.dev.mem) ∧
  (∀ s : State, s.dev.cmdPasses 0x60 → s.dev.thawErrs = [] → Completes .thaw s fun e =>
    s.dev.cmdDone e 0x60 eOK ∧ e.mctl.mstat = .thawing ∧ e.sys.state = .frozen ∧ e.mem = s.dev.mem) ∧
  (∀ s : State, s.dev.cmdPasses 0x70 → s.dev.handoverErrs = [] → Completes .handover s fun e =>
    s.dev.cmdDone e 0x70 eOK ∧ e.pair.handing = true ∧ e.pair.state = .owner) ∧
  ∀ (s : State) (i : Nat), s.dev.cmdPasses 0x71 → (s.dev.cmdArg 0).toNat = i → s.dev.resyncErrs i = [] →
    Completes .resyncTime s fun e => s.dev.cmdDone e 0x71 eOK ∧ (e.time.base i).mvalid = s.dev.masterPresent i

/-- A command whose checks of R536 fail completes CMDSTAT with the first failing code, joins the error log with PAGE 0x00 and
WORD 0x0402, and does nothing else (R534, R536). A command that waits longer than 10 ms completes with E_TIMEOUT, and nothing
else changes (R535). -/
def Obligations.RefusedAndTimedOutCommands : Prop :=
  (∀ (c : Instr) (code : Nat) (s : State) (r : Code), sysCode c = some code → s.dev.sys.cmdPend = none →
    s.dev.takes pgSYS 0x1008 = true → s.dev.cmdRefused code = some r → r ≠ eOK →
    Completes c s fun e => s.dev.cmdDone e code r ∧ Frame ([.cmd, .errlog] ++ settles) s.dev e ∧
      e.sys.errlog.getLast? = some { page := 0, code := r, word := 0x402, event := false, time := s.dev.time.arr }) ∧
  ∀ (s : State) (c : Code) (t : BitVec 64), s.dev.sys.cmdPend = some (c, t) → 10 ^ 7 ≤ (s.dev.time.loc - t).toNat →
    Completes .commandTimeout s fun e => s.dev.cmdDone e c.toNat eTIMEOUT ∧ e.sys.state = s.dev.sys.state ∧
      e.sys.errlog.getLast? = some { page := 0, code := eTIMEOUT, word := 0x402, event := false, time := s.dev.time.arr } ∧
      Frame [.cmd, .errlog, .pba, .pirq, .out] s.dev e

/-- ESTOP comes into force by each of its sources: the command, a falling edge on ESTOP_N, ESTOP.ASSERT, and OP 2 of either
access port (R564). `SYS.STATE` stays as it is (R511), and the source's bit is set (R568). It ends on a RELEASE by the register
or by OP 3 of either port while ESTOP_N is high, and every source bit falls; the rise of ESTOP_N alone does not end it (R567,
R568). -/
def Obligations.EstopComesAndEnds : Prop :=
  (∀ s : State, s.dev.cmdPasses 0x13 → s.dev.sys.state ≠ .off → Completes .estop s fun e =>
    s.dev.cmdDone e 0x13 eOK ∧ e.aon.estop.active = true ∧ e.aon.estop.srcCmd = true ∧ e.sys.state = s.dev.sys.state) ∧
  (∀ s : State, s.dev.sys.state ≠ .off → Completes .estopNEdge s fun e =>
    e.aon.estop.active = true ∧ e.aon.estop.srcLand = true ∧ e.aon.estop.landLow = true ∧ e.sys.state = s.dev.sys.state) ∧
  (∀ s : State, s.dev.takes pgAON 0x101C = true → s.dev.sys.state ≠ .off → Completes .estopAssert s fun e =>
    e.aon.estop.active = true ∧ e.aon.estop.srcReg = true ∧ e.sys.state = s.dev.sys.state) ∧
  (∀ (s : State) (i : Bool), s.dev.aonReach i = true → s.dev.sys.state ≠ .off → Completes (.aonEstop i) s fun e =>
    e.aon.estop.active = true ∧ (if i then e.aon.estop.srcI3c else e.aon.estop.srcReg) = true ∧
      e.sys.state = s.dev.sys.state) ∧
  (∀ s : State, s.dev.takes pgAON 0x101C = true → s.dev.aon.estop.landLow = false → s.dev.aon.estop.active = true →
    Completes .estopRelease s fun e => e.aon.estop = {}) ∧
  (∀ (s : State) (i : Bool), s.dev.aonReach i = true → s.dev.aon.estop.landLow = false → s.dev.aon.estop.active = true →
    Completes (.aonRelease i) s fun e => e.aon.estop = {}) ∧
  ∀ s : State, Completes .estopNRise s fun e =>
    e.aon.estop.landLow = false ∧ e.aon.estop.active = s.dev.aon.estop.active

/-- A legal write of a register takes its value: CMDARG0 to CMDARG3 while no command is judged (R535), and PIRQEN of every page
(R522). A write that reaches a page out of service is rejected with E_NOTREADY (R521), and one into the statistics window with
E_PERM; neither changes a register (R527). -/
def Obligations.RegisterWritesTakeOrAreRejected : Prop :=
  (∀ (s : State) (k : Fin 4) (v : Word), s.dev.takes pgSYS (0x100C + 4 * k.val) = true → s.dev.sys.cmdstat.busy = false →
    Completes (.registerWrite 0 (BitVec.ofNat 16 (0x100C + 4 * k.val)) v) s fun e => e.reg (bar pgSYS (0x100C + 4 * k.val)) = v) ∧
  (∀ (s : State) (p : Fin 256) (v : Word), s.dev.takes p 0x1C = true → v &&& pirqRsvd p = 0 →
    Completes (.registerWrite p 0x1C v) s fun e => (e.page p).pirqen = v) ∧
  (∀ (s : State) (p : Fin 256) (o : BitVec 16) (v : Word), o.toNat % 4 = 0 → 0x100 ≤ o.toNat →
    s.dev.reaches p o.toNat true = true → (s.dev.page p).started = false →
    Completes (.registerWrite p o v) s fun e => s.dev.rejected e p o.toNat eNOTREADY ∧
      ∀ a, isPba a = false → e.reg a = s.dev.reg a) ∧
  ∀ (s : State) (p : Fin 256) (o : BitVec 16) (v : Word), o.toNat % 4 = 0 → 0x100 ≤ o.toNat → o.toNat < 0x1000 →
    s.dev.takes p o.toNat = true →
    Completes (.registerWrite p o v) s fun e => s.dev.rejected e p o.toNat ePERM ∧ ∀ a, isPba a = false → e.reg a = s.dev.reg a

/-- An access of another width or alignment is rejected with E_ALIGN in PERR and the error log and changes nothing else; a
rejected read returns zero (R1). An access to a reserved page completes with Unsupported Request and has no effect (R519). -/
def Obligations.MisalignedAndReservedAccesses : Prop :=
  (∀ (s : State) (p : Fin 256) (o : BitVec 16) (len : Fin 65), ¬ (o.toNat % 4 = 0 ∧ len.val = 4) →
    s.dev.reaches p (o.toNat / 4 * 4) true = true → Completes (.misalignedAccess p o len true) s fun e =>
      s.dev.rejected e p o.toNat eALIGN ∧ Frame [.perr, .errlog, .pba, .pirq, .out] s.dev e) ∧
  (∀ (s : State) (p : Fin 256) (o : BitVec 16) (len : Fin 65), ¬ (o.toNat % 4 = 0 ∧ len.val = 4) →
    s.dev.reaches p (o.toNat / 4 * 4) false = true → Completes (.misalignedAccess p o len false) s fun e =>
      s.dev.rejected e p o.toNat eALIGN ∧ e.sys.out = .data 0 :: s.dev.sys.out ∧ Frame [.perr, .errlog, .out] s.dev e) ∧
  ∀ (s : State) (p : Fin 256) (o : BitVec 16) (w : Bool), pageExists p = false → s.dev.hostUp = true →
    Completes (.reservedPageAccess p o w) s fun e => e = { s.dev with sys.out := .unsupported :: s.dev.sys.out }

/-- A POP register gives up its oldest entry with VALID set and keeps the others in order; empty, it reads zero (R3, R533):
ERRLOG (R534), MBXOUT (R288) and FAULTLOG (R399). A read of SFN_NOW_LO returns SFN[31:0] and latches SFN[47:32] for the same
master's next read of SFN_NOW_HI, which returns it (R545). -/
def Obligations.PopsAndSfnReads : Prop :=
  (∀ (s : State) (x : ErrEnt) (t : List ErrEnt), s.dev.reads pgSYS = true → s.dev.sys.errlog = x :: t →
    Completes .errlogPop s fun e => e.sys.errlog = t ∧ e.sys.errlogT = x.time ∧
      e.sys.out = .data (at_ 0 x.page ||| at_ 8 x.code.toNat ||| at_ 16 (x.word % 16384) ||| at_ 30 (b2n x.event) ||| at_ 31 1)
        :: s.dev.sys.out) ∧
  (∀ s : State, s.dev.reads pgSYS = true → s.dev.sys.errlog = [] → Completes .errlogPop s fun e =>
    e.sys.errlog = [] ∧ e.sys.out = .data 0 :: s.dev.sys.out) ∧
  (∀ (s : State) (c : Fin 64) (x : BitVec 16) (t : List (BitVec 16)), s.dev.reads (burPage c) = true →
    (s.dev.core c).mbxOut = x :: t → Completes (.mbxoutPop c) s fun e => (e.core c).mbxOut = t ∧
      e.sys.out = .data (x.setWidth 32 ||| at_ 16 t.length ||| at_ 31 1) :: s.dev.sys.out) ∧
  (∀ (s : State) (x : MmuFault) (t : List MmuFault), s.dev.reads pgMMU = true → s.dev.mmu.log = x :: t →
    Completes .faultlogPop s fun e => e.mmu.log = t ∧ e.mmu.lastVa = x.va ∧
      e.sys.out = .data (at_ 0 x.ctx ||| at_ 6 x.chan ||| at_ 8 x.eng ||| at_ 10 x.cause ||| at_ 14 (b2n x.write) ||| at_ 31 1)
        :: s.dev.sys.out) ∧
  (∀ (s : State) (m : Fin 3), s.dev.reads pgSYS = true → Completes (.sfnNowRead m false) s fun e =>
    e.sys.out = .data (s.dev.time.sfn.setWidth 32) :: s.dev.sys.out ∧
      Tab.get none e.sys.sfnLatch m = some ((s.dev.time.sfn >>> 32).setWidth 16)) ∧
  ∀ (s : State) (m : Fin 3) (x : BitVec 16), s.dev.reads pgSYS = true → Tab.get none s.dev.sys.sfnLatch m = some x →
    Completes (.sfnNowRead m true) s fun e => e.sys.out = .data (x.setWidth 32) :: s.dev.sys.out

/-- PERRCLR clears PERR (R522). PIRQ is cleared where ones are written, and PIRQSET sets bits as their events do (R525). A
write of IRQMAP entry q changes the vector of page q, and where the page's interrupt is pending, can be sent and is not masked,
one message goes out on the new vector at once (R556). -/
def Obligations.InterruptRegisterWrites : Prop :=
  (∀ (s : State) (p : Fin 256), s.dev.takes p 0x14 = true → Completes (.perrclrWrite p) s fun e => (e.page p).perr = {}) ∧
  (∀ (s : State) (p : Fin 256) (v : Word), s.dev.takes p 0x18 = true → s.dev.calm = true → v &&& pirqRsvd p = 0 →
    Completes (.pirqClear p v) s fun e => (e.page p).pirq = (s.dev.page p).pirq &&& ~~~v) ∧
  (∀ (s : State) (p : Fin 256) (v : Word), s.dev.takes p 0x20 = true → s.dev.calm = true → v &&& pirqRsvd p = 0 →
    Completes (.pirqsetWrite p v) s fun e => (e.page p).pirq = (s.dev.page p).pirq ||| v) ∧
  ∀ (s : State) (q v : Fin 256), s.dev.takes pgSYS (0x1800 + 4 * q.val) = true → s.dev.calm = true → pageExists q = true →
    Completes (.irqmapWrite q v) s fun e => e.vector q = v.val ∧
      (v.val ≠ s.dev.vector q → (s.dev.page q).isPending = true → s.dev.canSend q = true →
        bitAt 0 (s.dev.reg (bar pgHIF (0x4000 + 16 * v.val + 12))) = false → e.sys.out = .msi v.val :: s.dev.sys.out)

/-- A write to PCOMMIT that passes the checks of R529 arms the ticket: ARMED and LOCKED become 1 and LAST_TICKET stays, or,
with WHEN 0, the ticket applies at once (R32, R529). At its boundary ARMED falls and LAST_TICKET takes its number (R530).
LOCKED falls once the last unit of the page has switched (R34, R530). -/
def Obligations.TicketsArmApplyAndUnlock : Prop :=
  (∀ (s : State) (p : Fin 256) (num : BitVec 16) (w : BitVec 4), s.dev.takes p 0x28 = true → hasShadow p = true →
    (p.val = pgBMF → s.dev.grantHeld 0 = false) → (p.val = pgTRG → s.dev.grantHeld 1 = false) →
    (mirrors p && s.dev.pair.state.standby) = false →
    s.dev.ticketErrs p num w.toNat (s.dev.ticketTarget w.toNat) = [] → Completes (.pcommit p num w) s fun e =>
      if w = 0 then (e.page p).armed = none ∧ (e.page p).lastTicket = num
      else (e.page p).armed = some { num := num, when := w.toNat, target := s.dev.ticketTarget w.toNat } ∧
        (e.page p).locked = true ∧ (e.page p).lastTicket = (s.dev.page p).lastTicket) ∧
  (∀ (s : State) (p : Fin 256) (k : Ticket), s.dev.unitOn p = true → (s.dev.page p).armed = some k →
    atOrAfter s.dev.time.sfn k.target = true → Completes (.commitApply p) s fun e =>
      (e.page p).armed = none ∧ (e.page p).lastTicket = k.num) ∧
  ∀ (s : State) (p : Fin 256), s.dev.unitOn p = true → (s.dev.page p).locked = true → (s.dev.page p).armed = none →
    s.dev.switched p = true → Completes (.shadowUnlock p) s fun e => (e.page p).locked = false ∧
      (e.page p).armed = none ∧ (e.page p).lastTicket = (s.dev.page p).lastTicket

/-- A legal write of PCTL.EN sets EN and IRQ_ON_ERR (R523; EN reads 1 on the pages that are always on). SRST resets the page's
island: tickets, PERR and the block's state start again from their reset values (R516, R523). -/
def Obligations.PageControlEnablesAndResets : Prop :=
  (∀ (s : State) (p : Fin 256) (en i : Bool), s.dev.takes p 8 = true →
    s.dev.pctlErrs p (bit 0 en ||| bit 2 i) = [] → Completes (.pctlEnWrite p en i) s fun e =>
      (e.page p).en = (en || pageAlwaysOn p) ∧ (e.page p).irqOnErr = i) ∧
  ∀ (s : State) (p : Fin 256), s.dev.takes p 8 = true →
    s.dev.pctlErrs p (2 ||| bit 0 (s.dev.page p).en ||| bit 2 (s.dev.page p).irqOnErr) = [] →
    Completes (.pctlSrst p) s fun e =>
      (p.val = pgING → e.ing = {}) ∧ (p.val = pgDKL → e.dkl = {}) ∧ (p.val = pgHAT → e.hat = {}) ∧
      (p.val = pgACC → e.acc = {}) ∧ (p.val = pgBMF → e.bmf = {}) ∧ (p.val = pgMMU → e.mmu = {}) ∧
      (p.val = pgMSP → e.msp = [] ∧ e.mspSh = [] ∧ e.monword = []) ∧
      (p.val = pgTIME → e.time = { loc := s.dev.time.loc }) ∧ (p.val = pgTRG → e.trg = { tin := s.dev.trg.tin }) ∧
      (p.val = pgSYS → s.dev.sys.state.booted = true → s.dev.retainedOk = true → e.sys.state = .recovery ∧ e.boot.rstCause = 9)

/-- A link reset, AONCMD WDRESET with its confirmation, and WDOG.FIRE each reset every island but AON and CLK/TIME: the state
is IMAGE_WAIT, device memory and plates are lost, the loop, LOCAL and the AON island are kept, and RSTCAUSE takes the cause
(R503, R516, R518, R561). -/
def Obligations.ModuleResetsKeepAonAndClk : Prop :=
  let after := fun (d e : Dev) (cause : Nat) => e.sys.state = .imageWait ∧ e.boot.rstCause = cause ∧ e.boot.linkUp = false ∧
    e.mem = [] ∧ e.plt = {} ∧ e.mctl = {} ∧ e.clk = d.clk ∧ e.time.loc = d.time.loc ∧ e.aon.estop = d.aon.estop ∧
    e.aon.sram = d.aon.sram
  (∀ (s : State) (perst : Bool), s.dev.sys.state ≠ .off → Completes (.linkReset perst) s fun e =>
    after s.dev e (if perst then 4 else 5) ∧ (perst = true → e.boot.perstLow = true)) ∧
  (∀ s : State, s.dev.takes pgAON 0x1018 = true → 100 ≤ s.dev.boot.wdTimeout.toNat → s.dev.boot.wdTimeout.toNat ≤ 60000 →
    Completes .wdogFire s fun e => after s.dev e 8 ∧ e.boot.wdTimeout = s.dev.boot.wdTimeout) ∧
  ∀ (s : State) (i : Bool), s.dev.aonReach i = true → Completes (.aonWdreset i 0xA5) s fun e => after s.dev e 8

/-- A power-on reset loses everything and the state is OFF (R502, R516); the release of PORST_N leads to IMAGE_WAIT (R504),
with ESTOP in force where ESTOP_N is low (R566). A rail other than VAON more than 10 % low for over 1 µs holds the islands in
reset with the state OFF and RSTCAUSE SUPPLY with the rail, VAON performs a power-on reset, and the islands are released into
IMAGE_WAIT when every rail is within its S1 threshold (R482). The rise of PERST_N ends the PCIe reset (R503). -/
def Obligations.PowerOnAndSupplyResets : Prop :=
  (∀ s : State, Completes .powerOnReset s fun e => e.sys.state = .off ∧ e.boot.porstLow = true ∧ e.mem = [] ∧ e.plt = {} ∧
    e.run = {} ∧ e.time = {} ∧ e.clk = {} ∧ e.aon.estop.active = false ∧ e.aon.valid = false ∧ e.boot.rstCause = 1) ∧
  (∀ s : State, s.dev.boot.porstLow = true → Completes .porstRelease s fun e => e.sys.state = .imageWait ∧
    e.boot.porstLow = false ∧ (s.dev.aon.estop.landLow = true → e.aon.estop.active = true)) ∧
  (∀ (s : State) (r : Fin 10), r.val ≠ 8 → s.dev.sys.state ≠ .off → s.dev.boot.porstLow = false → s.dev.boot.thermtrip = false →
    (∃ t, Tab.get none s.dev.pwr.lowNs r = some t ∧ 1000 < t) → Completes (.supplyReset r) s fun e =>
      e.sys.state = .off ∧ e.boot.hold = true ∧ e.boot.rstCause = 2 ∧ e.boot.rstRail = r.val ∧ e.mem = [] ∧ e.clk = {} ∧
        e.time.loc = s.dev.time.loc) ∧
  (∀ s : State, s.dev.boot.porstLow = false → s.dev.boot.thermtrip = false →
    (∃ t, Tab.get none s.dev.pwr.lowNs 8 = some t ∧ 1000 < t) → Completes (.supplyReset 8) s fun e =>
      e.sys.state = .off ∧ e.boot.rstCause = 1 ∧ e.mem = [] ∧ e.aon.estop.active = false) ∧
  (∀ s : State, s.dev.boot.hold = true → s.dev.boot.porstLow = false → s.dev.boot.thermtrip = false → s.dev.railsGood = true →
    Completes .supplyHoldRelease s fun e => e.sys.state = .imageWait ∧ e.boot.hold = false) ∧
  ∀ s : State, Completes .perstNRelease s fun e => e.boot.perstLow = false ∧ Frame [.boot] s.dev e

/-- A Mladef island reset, by SYS.PCTL.SRST or by the watchdog's stage 1, re-verifies the retained image: verified, the state is
RECOVERY and device memory is kept, where no comparison of the checking quires completes with the reset (the model's choice, log
entry 20); otherwise, and where RECOVERY overruns its time (stage 2), the reset escalates to a module
reset and the state is IMAGE_WAIT (R515, R516). -/
def Obligations.MladefResetsRecoverOrEscalate : Prop :=
  let after := fun (d e : Dev) (cause : Nat) =>
    (d.retainedOk = true → e.sys.state = .recovery ∧ e.boot.rstCause = cause ∧ (d.hat.due = [] → e.mem = d.mem)) ∧
    (d.retainedOk = false → e.sys.state = .imageWait ∧ e.boot.rstCause = 7 ∧ e.mem = [] ∧ e.clk = d.clk)
  (∀ s : State, s.dev.takes pgSYS 8 = true → s.dev.sys.state.booted = true → Completes (.mladefIslandReset false) s fun e =>
    after s.dev e 9) ∧
  (∀ s : State, s.dev.wdDue = true → s.dev.sys.state.booted = true → s.dev.sys.state ≠ .recovery →
    Completes (.mladefIslandReset true) s (fun e => after s.dev e 6) ∧ Completes .watchdogExpire s fun e => after s.dev e 6) ∧
  ∀ s : State, s.dev.wdDue = true → s.dev.sys.state = .recovery → Completes .watchdogExpire s fun e =>
    e.sys.state = .imageWait ∧ e.boot.rstCause = 7

/-- Bring-up ends READY, in BOOTING below S5 and in RECOVERY, once step 5 has its time (R509, R515). Step 5 gives up waiting
for a reference after 30 s and sets REFTO (R509). The PCIe link comes up with its speed, width and mode (R401). -/
def Obligations.BringUpCompletes : Prop :=
  (∀ s : State, s.dev.sys.state = .booting → s.dev.inStep5 = true → s.dev.timeReady = true → s.dev.pwr.level < 5 →
    Completes .bringupComplete s fun e => e.sys.state = .ready ∧ e.boot.step = 6) ∧
  (∀ s : State, s.dev.sys.state = .recovery → s.dev.inStep5 = true → s.dev.timeReady = true →
    Completes .recoveryComplete s fun e => e.sys.state = .ready ∧ e.boot.step = 6 ∧ e.boot.wdStage = false) ∧
  (∀ s : State, s.dev.inStep5 = true → s.dev.clk.sel = none → 30 * 10 ^ 9 ≤ (s.dev.time.loc - s.dev.boot.step5At).toNat →
    Completes .bringupRefTimeout s fun e => e.boot.refto = true ∧ e.clk = s.dev.clk ∧ e.sys.state = s.dev.sys.state) ∧
  ∀ (s : State) (v : BitVec 4) (w : BitVec 6) (f : Bool), s.dev.boot.perstLow = false → s.dev.boot.porstLow = false →
    s.dev.boot.linkUp = false → s.dev.sys.state ≠ .off → Completes (.pcieLinkUp v w f) s fun e =>
      e.boot.linkUp = true ∧ e.hif.speed = v ∧ e.hif.width = w ∧ e.hif.flit = f ∧ bitAt 0 (e.page pgHIF).pirq = true

/-- In IMAGE_WAIT, while no verification runs, IMGDATA appends its word to the stream, CLR resets the stream, and GO starts
the verification of the image on the path that is written (R505, R506). When verification ends, AUTHSTAT holds the cause of the
first check that failed, with E_AUTH in AON.PERR and the state as it was, or the state is BOOTING with the watchdog armed
(R506, R515). -/
def Obligations.ImagesAreDeliveredAndVerified : Prop :=
  (∀ (s : State) (v : Word), s.dev.takes pgAON 0x100C = true → s.dev.imgErrs = [] → Completes (.imgdataWrite v) s fun e =>
    e.boot.stream = s.dev.boot.stream ++ leBytes 4 v.toNat) ∧
  (∀ (s : State) (p : Bool), s.dev.takes pgAON 0x1004 = true → s.dev.imgErrs = [] → Completes (.imgctlClr p) s fun e =>
    e.boot.stream = [] ∧ e.boot.path = p ∧ e.boot.cause = s.dev.boot.cause) ∧
  (∀ (s : State) (p : Bool), s.dev.takes pgAON 0x1004 = true → s.dev.imgErrs = [] → Completes (.imgctlGo p) s fun e =>
    e.boot.cause = 1 ∧ e.boot.tries = s.dev.boot.tries + 1 ∧ e.boot.path = p ∧ e.boot.stream = s.dev.boot.stream) ∧
  ∀ (s : State) (poison pll : Bool), s.dev.sys.state = .imageWait → s.dev.boot.cause = 1 →
    Completes (.imageVerifyDone poison pll) s fun e =>
      e.boot.cause = imageCause s.dev.boot.image s.dev.boot.imglen.toNat ((poison || s.dev.boot.winPoison) && !s.dev.boot.path) ∧
      (e.boot.cause = 0 → e.sys.state = .booting ∧ e.boot.wdEn = true ∧ e.boot.wdStart = s.dev.time.loc) ∧
      (e.boot.cause ≠ 0 → e.sys.state = .imageWait ∧ (e.page pgAON).perr = (s.dev.page pgAON).perr.record eAUTH 0x401)

/-- Each access port takes its operation and answers (R560, R561): NOP changes only the port, READ of an always-on page gives
the word, SETSHED sets the host level, which takes effect at once where it is the highest (R483), READSNAP gives a word of the
snapshot. An I3C private write names its register and, at index 0x0C, sets the port's address; a private read returns the
register of the last index; a common command assigns or drops the dynamic address (R563). -/
def Obligations.AccessPortsActAndAnswer : Prop :=
  (∀ (s : State) (i : Bool), s.dev.aonReach i = true → s.dev.calm = true → Completes (.aonNop i) s fun e =>
    (e.aonPort i).result = eOK ∧ (e.aonPort i).cmd = 0 ∧ (e.aonPort i).addr = (s.dev.aonPort i).addr ∧ Frame [.aon] s.dev e) ∧
  (∀ (s : State) (i : Bool) (p : Byte) (w : BitVec 14), s.dev.aonReach i = true → pageAlwaysOn p.toNat = true →
    Completes (.aonRead i p w) s fun e => (e.aonPort i).result = eOK ∧
      ∃ d, Frame [.aon] s.dev d ∧ (e.aonPort i).data = d.readReg (portMaster i) p.toNat (w.toNat * 4)) ∧
  (∀ (s : State) (i : Bool) (p : Byte) (w : BitVec 14), s.dev.aonReach i = true → pageAlwaysOn p.toNat = false →
    Completes (.aonRead i p w) s fun e => (e.aonPort i).result = ePERM ∧ Frame [.aon] s.dev e) ∧
  (∀ (s : State) (i : Bool) (k : BitVec 3), s.dev.aonReach i = true → k ≠ 7 → Completes (.aonSetshed i k) s fun e =>
    e.pwr.host = k.toNat ∧ k.toNat ≤ e.pwr.level) ∧
  (∀ (s : State) (i : Bool) (w : BitVec 14), s.dev.aonReach i = true → Completes (.aonReadsnap i w) s fun e =>
    (e.aonPort i).result = eOK ∧ (e.aonPort i).data = Tab.get 0 s.dev.aon.sram w.toNat ∧ Frame [.aon] s.dev e) ∧
  (∀ (s : State) (v : Word), s.dev.aonReach true = true → s.dev.calm = true → Completes (.i3cPrivateWrite 0x0C v) s fun e =>
    e.aon.i3cIdx = 0x0C ∧ e.aon.i3c.addr = v &&& 0x3FFF ∧ Frame [.aon] s.dev e) ∧
  (∀ s : State, s.dev.aonReach true = true → s.dev.aon.i3cIdx = 0x10 → Completes .i3cPrivateRead s fun e =>
    e = { s.dev with sys.out := .data s.dev.aon.i3c.data :: s.dev.sys.out }) ∧
  (∀ (s : State) (a : BitVec 7), s.dev.aonReach true = true → s.dev.aon.i3cDyn = none →
    Completes (.i3cCcc (.setdasa a)) s (fun e => e.aon.i3cDyn = some a) ∧
      Completes (.i3cCcc (.entdaa a)) s fun e => e.aon.i3cDyn = some a) ∧
  ∀ s : State, s.dev.aonReach true = true → Completes (.i3cCcc .rstdaa) s fun e => e.aon.i3cDyn = none

/-- TAKE, by the register or by OP 4 of either port, starts a snapshot with cause HOST where none is held or being taken; its
end sets VALID and raises SNAPDONE; CLEAR, by the register or by OP 5, drops the held snapshot, its cause and its count of
missed ones (R561, R569, R571). -/
def Obligations.SnapshotsAreTakenAndCleared : Prop :=
  (∀ (s : State) (i : Bool), s.dev.aonReach i = true → s.dev.calm = true → s.dev.aon.valid = false → s.dev.aon.busy = false →
    Completes (.aonSnaptake i) s fun e => e.aon.busy = true ∧ e.aon.valid = false ∧ e.aon.cause = 3 ∧
      e.aon.taken = s.dev.aon.taken + 1 ∧ (e.aonPort i).result = eOK) ∧
  (∀ (s : State) (i : Bool), s.dev.aonReach i = true → s.dev.calm = true → s.dev.aon.busy = false →
    Completes (.aonSnapclr i) s fun e => e.aon.valid = false ∧ e.aon.cause = 0 ∧ e.aon.missed = 0 ∧ (e.aonPort i).result = eOK) ∧
  (∀ s : State, s.dev.takes pgAON 0x1020 = true → s.dev.calm = true → s.dev.aon.valid = false → s.dev.aon.busy = false →
    Completes .snapTake s fun e => e.aon.busy = true ∧ e.aon.cause = 3 ∧ e.aon.taken = s.dev.aon.taken + 1 ∧
      e.aon.autoFrz = s.dev.aon.autoFrz ∧ e.aon.autoWdog = s.dev.aon.autoWdog) ∧
  (∀ s : State, s.dev.takes pgAON 0x1020 = true → s.dev.calm = true → s.dev.aon.busy = false → Completes .snapClear s fun e =>
    e.aon.valid = false ∧ e.aon.cause = 0 ∧ e.aon.missed = 0 ∧ e.aon.autoFrz = s.dev.aon.autoFrz) ∧
  (∀ s : State, s.dev.aon.busy = true → Completes .snapshotDone s fun e =>
    e.aon.busy = false ∧ e.aon.valid = true ∧ bitAt 1 (e.page pgAON).pirq = true ∧ e.aon.sram = s.dev.aon.sram) ∧
  ∀ s : State, s.dev.takes pgAON 0x1020 = true → (s.dev.aon.valid = true ∨ s.dev.aon.busy = true) → Completes .snapTake s fun e =>
    s.dev.rejected e pgAON 0x1020 eBUSY

/-- A rail's sample is kept, and the effective level is at once at least the highest of the supply, thermal and host levels
(R480, R483). The level falls by one after 10 ms below it (R486). A temperature sample shows in TEMPNOW and moves the thermal
level by R492. A write of SHEDREQ sets the host level (R483); the value 7 is rejected with E_RANGE. What shedding stopped
resumes at its boundary (R484, R486). -/
def Obligations.PowerFollowsItsSamples : Prop :=
  (∀ (s : State) (r : Fin 10) (mv power : Nat), s.dev.boot.porstLow = false → s.dev.boot.thermtrip = false →
    Completes (.supplySample r mv power) s fun e => Tab.get none e.pwr.mv r = some mv ∧ e.pwr.highest ≤ e.pwr.level ∧
      s.dev.pwr.level ≤ e.pwr.level ∧ e.pwr.host = s.dev.pwr.host ∧ e.pwr.thermal = s.dev.pwr.thermal) ∧
  (∀ (s : State) (t : BitVec 64) (k : Nat), s.dev.pwr.belowAt = some t → 10000000 ≤ (s.dev.time.loc - t).toNat →
    s.dev.pwr.level = k + 1 → Completes .shedFall s fun e => e.pwr.level = k ∧ e.pwr.supply = s.dev.pwr.supply) ∧
  (∀ (s : State) (t : BitVec 8) (n : BitVec 5), s.dev.boot.porstLow = false → s.dev.boot.thermtrip = false → t.toInt ≤ 115 →
    Completes (.tempSample t n) s fun e => e.pwr.tj = t ∧ e.pwr.sensor = n ∧
      (110 < t.toInt → e.pwr.thermal = 5) ∧ (100 < t.toInt → 2 ≤ e.pwr.thermal) ∧ (t.toInt ≤ 95 → e.pwr.thermal = 0) ∧
      e.pwr.highest ≤ e.pwr.level) ∧
  (∀ (s : State) (v : Word), s.dev.takes pgPWR 0x1008 = true → v.toNat < 7 → Completes (.shedreqWrite v) s fun e =>
    e.pwr.host = v.toNat ∧ v.toNat ≤ e.pwr.level) ∧
  (∀ s : State, s.dev.takes pgPWR 0x1008 = true → Completes (.shedreqWrite 7) s fun e =>
    s.dev.rejected e pgPWR 0x1008 eRANGE ∧ e.pwr = s.dev.pwr) ∧
  ∀ (s : State) (b : Sfn), s.dev.bmf.stopped = true → s.dev.bmf.resumeAt = some b → s.dev.pwr.portsAt = some b →
    atOrAfter s.dev.time.sfn b = true → Completes .resumingBoundary s fun e =>
      e.bmf.stopped = false ∧ e.bmf.resumeAt = none ∧ e.pwr.portsAt = none

/-- What a temperature above 115 °C does (R493): every island but AON is lost, THERMTRIP_N falls, the freeze snapshot is lost,
the state is OFF and RSTCAUSE reads THERMAL. -/
def Obligations.ThermalTripTurnsTheModuleOff : Prop := ∀ (s : State) (t : BitVec 8) (n : BitVec 5),
  s.dev.boot.porstLow = false → s.dev.boot.thermtrip = false → 115 < t.toInt → Completes (.tempSample t n) s fun e =>
    e.sys.state = .off ∧ e.boot.thermtrip = true ∧ e.boot.rstCause = 3 ∧ e.mem = [] ∧ e.aon.valid = false ∧
      e.sys.out.head? = some (.land "THERMTRIP_N" false)

/-- The first error freezes the memory controller: MSTAT is FROZEN, the state is FROZEN (in RECOVERY it stays), and the FRZ
registers hold the cause, the place, the time and the state before; a further error sets FRZMULTI and changes no other FRZ
register (R357). FRZFORCE does the same with cause FORCE in READY and IDLE. -/
def Obligations.FreezesStopTheController : Prop :=
  (∀ (s : State) (c : Fin 4) (a : BitVec 38) (y : Word), s.dev.unitOn pgMEMC = true → freezeState s.dev.sys.state = true →
    s.dev.mctl.mstat = .run → s.dev.memPart = false → Completes (.memoryFreeze c a y) s fun e =>
      e.sys.state = (if s.dev.sys.state = .recovery then .recovery else .frozen) ∧ e.mctl.mstat = .frozen ∧
      e.mctl.frz = { cause := c.val + 1, multi := false, addr := a, loc := memLoc a.toNat, syn := y, time := s.dev.time.arr
                     prev := s.dev.sys.state }) ∧
  (∀ (s : State) (c : Fin 4) (a : BitVec 38) (y : Word), s.dev.unitOn pgMEMC = true → s.dev.mctl.mstat = .frozen →
    Completes (.memoryFreeze c a y) s fun e => e.sys.state = s.dev.sys.state ∧ e.mctl.mstat = .frozen ∧
      e.mctl.frz = { s.dev.mctl.frz with multi := true }) ∧
  ∀ s : State, s.dev.takes pgMEMC 0x102C = true → (s.dev.sys.state = .ready ∨ s.dev.sys.state = .idle) →
    s.dev.mctl.mstat = .run → Completes (.frzforce 1) s fun e =>
      e.sys.state = .frozen ∧ e.mctl.mstat = .frozen ∧ e.mctl.frz.cause = 5 ∧ e.mctl.frz.multi = false ∧
        e.mctl.frz.time = s.dev.time.arr ∧ e.mctl.frz.prev = s.dev.sys.state

/-- The check after THAW ends, below S5: where a parity alert recurs the controller freezes again with cause CAPAR and E_THAWCHK
in PERR; else the controller serves and, from a freeze in IDLE, the state is IDLE again (R359, R360). -/
def Obligations.ThawEndsInRunOrFreezesAgain : Prop :=
  (∀ (s : State) (a : BitVec 38) (y : Word) (still : Bool), s.dev.unitOn pgMEMC = true → s.dev.mctl.mstat = .thawing →
    s.dev.pwr.level < 5 → s.dev.mctl.frz.prev = .idle → s.dev.run.live = false →
    Completes (.thawCheckDone false a y still) s fun e => e.sys.state = .idle ∧ e.mctl.mstat = .run ∧
      e.mctl.frz = s.dev.mctl.frz) ∧
  ∀ (s : State) (a : BitVec 38) (y : Word) (still : Bool), s.dev.unitOn pgMEMC = true → s.dev.mctl.mstat = .thawing →
    s.dev.pwr.level < 5 → s.dev.sys.state = .frozen → Completes (.thawCheckDone true a y still) s fun e =>
      e.sys.state = .frozen ∧ e.mctl.mstat = .frozen ∧ e.mctl.frz.cause = 4 ∧
        (e.page pgMEMC).perr = (s.dev.page pgMEMC).perr.record 0x10 (0x100C / 4)

/-- In RUN: the scrubber that finds nothing goes on to its next access and changes no byte (R348); a poll of the devices'
temperatures sets and clears REFDBL of all four channels of a device (R352); a channel whose tracked phase has moved 16/64 UI
is STALE (R355). EXCLADD merges its rows into the fault map (R349, R361), and INJCTL arms an injection (R361). -/
def Obligations.MemoryIsKeptUp : Prop :=
  (∀ s : State, s.dev.unitOn pgMEMC = true → s.dev.mctl.mstat = .run → bitAt 8 (s.dev.reg (bar pgMEMC 0x1030)) = true →
    s.dev.mctl.bad = [] → s.dev.mctl.scrub + 1 < scrubLen → s.dev.memPart = false → Completes (.patrolScrub []) s fun e =>
      e.mctl.scrub = s.dev.mctl.scrub + 1 ∧ e.mctl.mstat = .run ∧ e.mem = s.dev.mem ∧ e.plt = s.dev.plt) ∧
  (∀ (s : State) (l : List (BitVec 8 × BitVec 8)) (n : Nat) (t h : BitVec 8) (k : Nat), s.dev.unitOn pgMEMC = true →
    s.dev.mctl.mstat = .run → n < 10 → l[n]? = some (t, h) → k < 4 → Completes (.refreshRatePoll l) s fun e =>
      (e.mchan (4 * n + k)).temp = t ∧ (e.mchan (4 * n + k)).thr = h ∧
      (h.toInt ≤ t.toInt → (e.mchan (4 * n + k)).refdbl = true) ∧
      (t.toInt ≤ h.toInt - 3 → (e.mchan (4 * n + k)).refdbl = false)) ∧
  (∀ (s : State) (c : Fin 40) (t0 t1 : BitVec 8), s.dev.unitOn pgMEMC = true → s.dev.mctl.mstat = .run →
    Completes (.memoryChannelStale c t0 t1) s fun e => (e.mchan c).track0 = t0 ∧ (e.mchan c).track1 = t1 ∧
      ((s.dev.mchan c).trained = true → 16 ≤ t0.toInt.natAbs → (e.mchan c).stale = true)) ∧
  (∀ (s : State) (v : Word), s.dev.takes pgMEMC 0x1044 = true → s.dev.exclAddErrs v = [] → Completes (.excladd v) s fun e =>
    let loc := s.dev.reg (bar pgMEMC 0x1040)
    e.plt.excl = mergeExcl s.dev.plt.excl { chan := fld 5 0 loc, bank := fld 12 8 loc, row := fld 31 16 loc, count := v.toNat }) ∧
  ∀ (s : State) (v : Word), s.dev.takes pgMEMC 0x1048 = true → s.dev.injErrs v = [] → Completes (.injctlWrite v) s fun e =>
    e.mctl.inj = v &&& 0x003F3F03 ∧ (e.mctl.armed = true ↔ fld 1 0 v ≠ 0) ∧ e.mem = s.dev.mem

/-- Memory training in BOOTING ends step 2: step 5 follows, or FATAL where the staging SRAM fails (R353, R509, R510). A retrain
that no channel fails ends in RUN with memory as it was (R356). SELFTEST returns to the state before (R514). QUIESCED becomes
IDLE once every due capture record is written (R511, R513). -/
def Obligations.LongOperationsComplete : Prop :=
  (∀ (s : State) (failed : List (Fin 40)) (bad : List (BitVec 38)) (quires : List (Fin 148)) (lanes : List (Fin 256)) (sram : Bool),
    s.dev.sys.state = .booting → s.dev.boot.step = 2 → s.dev.boot.fatal = false → s.dev.pwr.level < 5 → s.dev.boot.perstLow = false →
    Completes (.memoryTrainingDone failed bad quires lanes sram) s fun e => e.boot.step = (if sram then 3 else 5) ∧
      e.boot.fatal = sram ∧ e.boot.step5At = s.dev.time.loc) ∧
  (∀ s : State, s.dev.unitOn pgMEMC = true → s.dev.mctl.mstat = .retrain → s.dev.pwr.level < 5 →
    Completes (.retrainDone []) s fun e => e.mctl.mstat = .run ∧ e.boot.memFail = 0 ∧ e.mem = s.dev.mem) ∧
  (∀ (s : State) (quires : List (Fin 148)) (bad : List (BitVec 38)) (lanes : List (Fin 256)), s.dev.sys.state = .selftest →
    Completes (.selftestDone quires bad lanes) s fun e => e.sys.state = s.dev.sys.before) ∧
  ∀ s : State, s.dev.sys.state = .quiesced → s.dev.dkl.caps = [] → Completes .quiesceDone s fun e => e.sys.state = .idle

/-- Bring-up of a lane (R325 to R328). Signal detect in DETECT starts ADAPT; its end stores the calibration record and enters
BLOCKHUNT; 64 valid sync headers in a row gain block lock, an invalid one slips the boundary by a bit; the third good marker
gains marker lock, and the receiver serves the logical lane of its quad that the markers name, unless another of the quad does.
-/
def Obligations.LanesComeUp : Prop :=
  (∀ (s : State) (n : Fin 256), s.dev.unitOn (lanePage n) = true → (s.dev.lane n).state = .detect →
    Completes (.signalDetect n) s fun e => (e.lane n).state = .adapt ∧ (e.lane n).sigdet = true ∧ (e.lane n).t0 = s.dev.time.loc ∧
      ((s.dev.lane n).hasRec = true → (e.lane n).ctle = (s.dev.lane n).recCtle)) ∧
  (∀ (s : State) (n : Fin 256) (ctle : BitVec 4) (f0 f1 : Word), s.dev.unitOn (lanePage n) = true → (s.dev.lane n).state = .adapt →
    Completes (.adaptDone n ctle f0 f1) s fun e => (e.lane n).state = .blockhunt ∧ (e.lane n).ctle = ctle ∧ (e.lane n).dfe0 = f0 ∧
      (e.lane n).dfe1 = f1 ∧ (e.lane n).hasRec = true ∧ (e.lane n).recCtle = ctle ∧ (e.lane n).recTemp = s.dev.pwr.tj ∧
      (e.lane n).stale = false) ∧
  (∀ (s : State) (n : Fin 256) (hdr : BitVec 2), s.dev.unitOn (lanePage n) = true → (s.dev.lane n).state = .blockhunt →
    Completes (.syncHeader n hdr) s fun e =>
      if hdr = 1 ∨ hdr = 2 then
        if (s.dev.lane n).validRun + 1 < 64 then (e.lane n).state = .blockhunt ∧ (e.lane n).validRun = (s.dev.lane n).validRun + 1
        else (e.lane n).state = .markerhunt ∧ (e.lane n).invert = false
      else (e.lane n).state = .blockhunt ∧ (e.lane n).validRun = 0 ∧ (e.lane n).slips = ((s.dev.lane n).slips + 1) % 66) ∧
  ∀ (s : State) (n : Fin 256) (p : List Byte), s.dev.unitOn (lanePage n) = true → (s.dev.lane n).state = .markerhunt →
    (s.dev.lane n).invert = false → (s.dev.lane n).good = 2 → goodMarker 2 p (s.dev.lane n).mseq = true →
    s.dev.quadTaken n (leAt p 3 1) = false → Completes (.markerRx n 2 p) s fun e => (e.lane n).state = .up ∧
      (e.lane n).logvalid = true ∧ (e.lane n).logic = BitVec.ofNat 8 (n.val / 4 * 4 + leAt p 3 1) ∧
      (e.lane n).remap = decide (leAt p 3 1 ≠ n.val % 4) ∧ (e.lane n).maperr = false

/-- What takes a lane down: electrical idle returns a powered receiver to DETECT (R323), a bring-up bound that expires does too
(R325), 16 invalid sync headers of 64 lose block lock (R326), a fourth marker position without a good marker loses marker lock
and clears INVERT (R327), RETUNE returns to ADAPT (R332), and a lane whose role has moved to OFF powers down (R314, R329). Each
keeps the calibration record. -/
def Obligations.LanesGoDown : Prop :=
  (∀ (s : State) (n : Fin 256), s.dev.unitOn (lanePage n) = true → (s.dev.lane n).powered = true →
    Completes (.electricalIdle n) s fun e => (e.lane n).state = .detect ∧ (e.lane n).sigdet = false ∧ (e.lane n).logvalid = false ∧
      (e.lane n).hasRec = (s.dev.lane n).hasRec ∧ (e.lane n).recCtle = (s.dev.lane n).recCtle) ∧
  (∀ (s : State) (n : Fin 256) (b : Nat), s.dev.unitOn (lanePage n) = true → s.dev.bringupBound n = some b →
    b < (s.dev.time.loc - (s.dev.lane n).t0).toNat → Completes (.laneBringupTimeout n) s fun e => (e.lane n).state = .detect ∧
      (e.lane n).invert = false ∧ (e.lane n).hasRec = (s.dev.lane n).hasRec) ∧
  (∀ (s : State) (n : Fin 256), s.dev.unitOn (lanePage n) = true → (s.dev.lane n).state = .up →
    16 ≤ popcount ((s.dev.lane n).history <<< 1 ||| 1) → Completes (.syncHeader n 0) s fun e =>
      (e.lane n).state = .blockhunt ∧ (e.lane n).logvalid = false ∧ (e.lane n).ctle = (s.dev.lane n).ctle) ∧
  (∀ (s : State) (n : Fin 256) (hdr : BitVec 2) (p : List Byte), s.dev.unitOn (lanePage n) = true → (s.dev.lane n).state = .up →
    (s.dev.lane n).invert = false → (s.dev.lane n).missed = 3 → goodMarker hdr p (s.dev.lane n).mseq = false →
    Completes (.markerRx n hdr p) s fun e => (e.lane n).state = .markerhunt ∧ (e.lane n).invert = false ∧
      (e.lane n).logvalid = false) ∧
  (∀ (s : State) (n : Fin 256), s.dev.takes (lanePage n) (0x1100 + 0x40 * (n.val % 16)) = true → s.dev.calm = true →
    (s.dev.lane n).state = .up → s.dev.reg (laneAddr n 0) = 0 → s.dev.lctlErrs n 1 = [] → Completes (.retune n) s fun e =>
      (e.lane n).state = .adapt ∧ (e.lane n).t0 = s.dev.time.loc ∧ (e.lane n).logvalid = false) ∧
  ∀ (s : State) (n : Fin 256) (b : Sfn), s.dev.unitOn (lanePage n) = true → (s.dev.lane n).downAt = some b →
    atOrAfter s.dev.time.sfn b = true → (s.dev.lane n).state ≠ .failed → Completes (.lanePowerDown n) s fun e =>
      (e.lane n).state = .off ∧ (e.lane n).tx = false ∧ (e.lane n).downAt = none ∧ (e.lane n).hasRec = (s.dev.lane n).hasRec

/-- A run of data blocks between two DELIMs becomes a frame for ingest under its logical lane, unless the role there is OFF
(R314, R318). The eye monitor refreshes its results, and an offset of 16 or more sets STALE (R333). A marker goes out and MSEQ
counts (R319, R321); an IDLE frame goes out on a lane with a role (R330); a frame of the forwarding queue goes out on its lane
with that lane's LINKTX and a new trailer (R51, R312). -/
def Obligations.LanesCarryFrames : Prop :=
  (∀ (s : State) (n : Fin 256) (l : List (BitVec 2 × BitVec 64)) (f : List Byte) (w : BitVec 64), s.dev.unitOn (lanePage n) = true →
    (s.dev.lane n).state = .up → (s.dev.lane n).resync = false → bitAt 3 (s.dev.reg (laneAddr n 0)) = false →
    delineate (s.dev.lane n).invert 518 (s.dev.lane n).prev [] l = (f, .delim, w) → f ≠ [] →
    Completes (.frameDelineate n l) s fun e => (e.lane n).prev = w ∧ e.lnb.inbox =
      if s.dev.roleAt (s.dev.lane n).logic.toNat (widenSfn s.dev.time.sfn (frSfn f)) = 0 then s.dev.lnb.inbox
      else s.dev.lnb.inbox ++ [((s.dev.lane n).logic.toNat, f)]) ∧
  (∀ (s : State) (n : Fin 256) (h : BitVec 6) (v off : BitVec 8) (ctle : BitVec 4), s.dev.unitOn (lanePage n) = true →
    (s.dev.lane n).state = .up → Completes (.eyeRefresh n h v off ctle) s fun e => (e.lane n).eyeH = h ∧ (e.lane n).eyeV = v ∧
      (e.lane n).ctle = ctle ∧ (16 ≤ off.toInt.natAbs → (e.lane n).stale = true)) ∧
  (∀ (s : State) (n : Fin 256), s.dev.unitOn (lanePage n) = true → s.dev.txOn n = true → Completes (.markerSend n) s fun e =>
    e.sys.out = .marker n (s.dev.markerBytes n) :: s.dev.sys.out ∧ (e.lane n).txMseq = (s.dev.lane n).txMseq + 1) ∧
  (∀ (s : State) (n : Fin 256), s.dev.unitOn (lanePage n) = true → s.dev.txOn n = true → s.dev.role n ≠ 0 →
    Completes (.idleFrameSend n) s fun e => e.sys.out = .frame n (s.dev.idleFrame n) :: s.dev.sys.out ∧
      (e.lane n).txAt = s.dev.time.loc) ∧
  ∀ (s : State) (n : Fin 256) (fr : List Byte) (rest : List (Nat × List Byte)), s.dev.unitOn (lanePage n) = true →
    s.dev.lnb.fwd = (n.val, fr) :: rest → s.dev.role n = 1 → s.dev.mayPublish = true → s.dev.pwr.level < 5 →
    s.dev.sys.state ≠ .frozen → s.dev.ing.laneq.getLsbD n = false → s.dev.txOn n = true → Completes (.forwardFrame n) s fun e =>
      e.lnb.fwd = rest ∧ e.sys.out =
        .frame n (withTrailer (overlay (fr.take (fr.length - 8)) 20 (leBytes 2 (s.dev.linkTx n)))) :: s.dev.sys.out

/-- A SAMPLE or TRIG frame that passes every check of R52 takes a slot of the duplicate directory with its key and its CRC
(R54). An IDLE frame outside a run counts in class 16, takes no slot, and leaves the inbox (R52). A frame on a quarantined lane
counts in class 1 and takes no slot (R52, R61). -/
def Obligations.FramesAreJudgedByIngest : Prop :=
  (∀ (s : State) (l : Fin 256) (fr : List Byte), s.dev.unitOn pgING = true → s.dev.role l ≠ 0 → frType fr = 1 →
    (s.dev.ingest l fr).1 = 0 → Completes (.sampleFrameRx l fr) s fun e => ∃ t, e.ing.dir = t ++
      [{ trig := false, src := frSrc fr, chgrp := frChgrp fr, f := s.dev.frameSfn fr, seq := frSeq fr, crc := frCrc fr }] ∧
      ∀ x ∈ t, x ∈ s.dev.ing.dir) ∧
  (∀ (s : State) (l : Fin 256) (fr : List Byte), s.dev.unitOn pgING = true → s.dev.role l ≠ 0 → frType fr = 3 →
    (s.dev.ingest l fr).1 = 0 → Completes (.trigFrameRx l fr) s fun e => ∃ t, e.ing.dir = t ++
      [{ trig := true, src := frSrc fr, chgrp := frChgrp fr, f := s.dev.frameSfn fr, seq := frSeq fr, crc := frCrc fr }] ∧
      ∀ x ∈ t, x ∈ s.dev.ing.dir) ∧
  (∀ (s : State) (l : Fin 256) (fr : List Byte), s.dev.unitOn pgING = true → s.dev.role l ≠ 0 → frType fr = 15 →
    s.dev.ing.laneq.getLsbD l = false → s.dev.sys.state ≠ .frozen → s.dev.pwr.level < 5 → 40 ≤ fr.length →
    crc32c (fr.take (fr.length - 8)) = frCrc fr → s.dev.run.live = false → Completes (.idleFrameRx l fr) s fun e =>
      e.cnt pgING 0x180 = s.dev.cnt pgING 0x180 + 1 ∧ e.lnb.inbox = s.dev.lnb.inbox.erase (l.val, fr)) ∧
  ∀ (s : State) (l : Fin 256) (fr : List Byte), s.dev.unitOn pgING = true → s.dev.role l ≠ 0 → frType fr = 1 →
    s.dev.ing.laneq.getLsbD l = true → s.dev.run.live = false → Completes (.sampleFrameRx l fr) s fun e =>
      e.cnt pgING 0x108 = s.dev.cnt pgING 0x108 + 1 ∧ ∀ x ∈ e.ing.dir, x ∈ s.dev.ing.dir

/-- A write of LANEQ ends the quarantines it names and no other (R61). BINDHI stores the staged entry of the shadow binding
table and advances BINDIDX within its part (R75). MACKEYCTL loads the staged key into its slot, or clears the slot (R74, R76).
-/
def Obligations.IngestRegistersTakeEffect : Prop :=
  (∀ (s : State) (k : Fin 8) (v : Word), s.dev.takes pgING (0x1020 + 4 * k.val) = true → Completes (.laneqRelease k v) s fun e =>
    ∀ l, l < 256 → e.ing.laneq.getLsbD l =
      (s.dev.ing.laneq.getLsbD l && !(decide (l / 32 = k.val) && v.getLsbD (l % 32)))) ∧
  (∀ (s : State) (v : Word), s.dev.takes pgING 0x8008 = true → s.dev.bindHiErrs v = [] → Completes (.bindhiWrite v) s fun e =>
    e.ing.shadow.entry (bitAt 13 s.dev.ing.bindIdx) (s.dev.ing.bindIdx.toNat % 8192) =
        { lo := s.dev.ing.bindLo, valid := bitAt 31 v, tag := v.setWidth 16 } ∧
      e.ing.bindIdx = (s.dev.ing.bindIdx &&& 0x2000) ||| ((s.dev.ing.bindIdx + 1) &&& 0x1FFF) ∧ e.ing.act = s.dev.ing.act) ∧
  (∀ (s : State) (slot : Bool), s.dev.takes pgING 0x10A0 = true → Completes (.mackeyLoad slot) s fun e =>
    e.ing.key (b2n slot) = some s.dev.ing.stagedKey ∧ e.ing.key (b2n (!slot)) = s.dev.ing.key (b2n (!slot)) ∧ e.ing.keyStage = []) ∧
  ∀ (s : State) (slot : Bool), s.dev.takes pgING 0x10A0 = true → Completes (.mackeyClear slot) s fun e =>
    e.ing.key (b2n slot) = none ∧ e.ing.key (b2n (!slot)) = s.dev.ing.key (b2n (!slot))

/-- In a run: a frame set that may close closes, and the frame sets of its group that are closed without a gap move on (R65). A
sheet whose window has closed completes: SHEETCNT increments and the next sheet follows (R25, R71). A ream whose latch is due
latches: REAMCNT increments and the next ream begins at its end (R25, R538). At B_last the state becomes DRAINING, or IDLE where
the run has no sheet (R27, R511). A takeover exchanges the plates at its boundary (R35, R197). -/
def Obligations.RunBoundariesTakeEffect : Prop :=
  (∀ (s : State) (g : Fin 1024) (f : Sfn) (ov : Bool) (lat : Nat), s.dev.unitOn pgING = true → s.dev.setCloses g f = true →
    s.dev.tablesPending f = false → Completes (.frameSetClose g f ov lat) s fun e =>
      (s.dev.ing.closed = [] → f = s.dev.closedTo g → e.ing.closed = [] ∧ e.closedTo g = f + BitVec.ofNat 48 (s.dev.reqAt f).lf) ∧
      (s.dev.ing.closed.contains (g.val, s.dev.closedTo g) = false → f ≠ s.dev.closedTo g →
        e.ing.closed = s.dev.ing.closed ++ [(g.val, f)])) ∧
  (∀ s : State, s.dev.unitOn pgING = true → s.dev.sheetDue = true → after s.dev.run.sheetAt s.dev.reamEnd = false →
    Completes .sheetComplete s fun e => e.sys.sheetcnt = s.dev.sys.sheetcnt + 1 ∧ e.run.sheets = s.dev.run.sheets + 1 ∧
      e.run.sheetAt = s.dev.run.sheetAt + BitVec.ofNat 48 (s.dev.reqAt s.dev.run.sheetAt).ks) ∧
  (∀ s : State, s.dev.latchDue = true → s.dev.sys.state ≠ .draining → Completes .statisticsLatch s fun e =>
    e.run.reams = s.dev.run.reams + 1 ∧ e.run.reamAt = s.dev.reamEnd ∧ e.sys.reamcnt = s.dev.sys.reamcnt + 1 ∧
      e.sys.state = s.dev.sys.state) ∧
  (∀ (s : State) (b : Sfn), s.dev.run.bLast = some b → s.dev.sys.state = .running → atOrAfter s.dev.time.sfn b = true →
    (b ≠ s.dev.run.s0 → s.dev.acc.lastDone = false) → Completes .stopBoundary s fun e =>
      if b = s.dev.run.s0 then e.sys.state = .idle ∧ e.run.live = false ∧ e.run.bLast = none
      else e.sys.state = .draining ∧ e.run = s.dev.run) ∧
  ∀ (s : State) (b : Sfn) (q old : Plate), s.dev.takeoverAt = some b → s.dev.plt.stagedP = some q → s.dev.plt.active = some old →
    s.dev.run.live = true → atOrAfter s.dev.time.sfn b = true → Completes .plateTakeover s fun e =>
      e.plt.active = some q ∧ e.plt.staged = .retiring ∧ e.plt.stagedP = none ∧ e.plt.actSlot = (!s.dev.plt.actSlot) ∧
        e.run.outgoing = some old ∧ e.run.tookAt = some b

/-- The sheet buffer: a page of the run takes a slot (R85, R90), outside streaming mode; a page whose consume time has come is
consumed (R90); the corner turn stages the channel that correlates next, and its half is full when every input is there (R86,
R118); a due capture record goes to its ring (R99, R105); RELEASE unpins every page of its capture (R100); CAPRD takes the
host's read index up to the write index (R104). -/
def Obligations.SheetBufferServesPagesAndCaptures : Prop :=
  (∀ (s : State) (a : Sfn) (p : Fin 4096) (g : Fin 1024) (slot : Nat) (x : Dev), s.dev.unitOn pgDKL = true →
    s.dev.pageInRun a p g = true →
    atOrAfter s.dev.time.sfn (a - BitVec.ofNat 48 ((s.dev.reqAt a).earlyB * (s.dev.reqAt a).lf)) = true → s.dev.pageAt a p g = none →
    s.dev.takeSlot (s.dev.plateOf a) ((s.dev.plateOf a).req.chanOf a p g) = some (slot, x) → (∀ a, (s.dev.reqAt a).mode ≠ 9) →
    Completes (.pageSlotAssign a p g) s fun e => e.pageAt a p g = some { at_ := a, p := p.val, g := g.val, slot := slot }) ∧
  (∀ (s : State) (a : Sfn) (p : Fin 4096) (g : Fin 1024) (x : PageIn), s.dev.unitOn pgDKL = true → s.dev.pageAt a p g = some x →
    atOrAfter s.dev.time.sfn ((s.dev.plateOf a).consumeAt ((s.dev.plateOf a).req.sheetOf a) g ((s.dev.plateOf a).req.pageIdx a)) = true →
    Completes (.pageConsume a p g) s fun e => e.pageAt x.at_ x.p x.g = some { x with consumed := true }) ∧
  (∀ (s : State) (n : Nat) (poison : List (Nat × Nat)) (b : Bool) (t : StageTag) (h : DoneSheet), s.dev.unitOn pgDKL = true →
    s.dev.sys.state ≠ .frozen → s.dev.pwr.level < 3 → s.dev.stageTarget = some (b, t, h) → (s.dev.dkl.halfOf b).tag ≠ some t →
    Completes (.cornerTurnStage n poison []) s fun e => (e.dkl.halfOf b).tag = some t ∧
      (e.dkl.halfOf b).count = min n ((s.dev.plateOf h.at_).req.sliceInputs t.2.2.2) ∧
      (e.dkl.halfOf b).full = decide ((s.dev.plateOf h.at_).req.sliceInputs t.2.2.2 ≤ n)) ∧
  (∀ (s : State) (id : BitVec 16) (c : Cap), s.dev.unitOn pgDKL = true → s.dev.dkl.caps.find? (·.id == id) = some c →
    s.dev.sys.state ≠ .frozen → s.dev.pwr.level < 5 → s.dev.capDue (s.dev.reqAt c.first) c = true →
    Completes (.captureRecordWrite id) s fun e => e.dkl.capwr = s.dev.dkl.capwr + 1 ∧ e.dkl.caps = s.dev.dkl.caps.erase c ∧
      e.dkl.caprd = if s.dev.dkl.capwr + 1 = s.dev.dkl.caprd then s.dev.dkl.caprd + 1 else s.dev.dkl.caprd) ∧
  (∀ (s : State) (v : Word), s.dev.takes pgDKL 0x1050 = true → s.dev.dklReleaseErrs v = [] → Completes (.dklRelease v) s fun e =>
    ∀ k, v.setWidth 16 ∉ e.pinsOf k) ∧
  ∀ (s : State) (n : BitVec 12), s.dev.takes pgDKL 0x1044 = true →
    (n - s.dev.dkl.caprd).toNat ≤ (s.dev.dkl.capwr - s.dev.dkl.caprd).toNat → Completes (.caprdWrite (n.setWidth 32)) s fun e =>
      e.dkl.caprd = n ∧ e.dkl.capwr = s.dev.dkl.capwr ∧ e.dkl.pins = s.dev.dkl.pins

/-- The hatch array: one pass of a sub-block runs, and the next pass, sub-block or channel follows in the plan's order (R122). QMASK
bits are set by a write and never cleared by it (R130). At the close of a ream's suspect flags none of its channels is left
unverified, and the record goes on (R129). -/
def Obligations.HatchArrayRunsPasses : Prop :=
  let place := fun d : Dev => (d.hat.sheet, d.hat.chans, d.hat.sub, d.hat.pass, d.hat.which)
  (∀ (s : State) (bad : List (Fin 148)) (h : DoneSheet) (c : Nat) (rest : List Nat), s.dev.unitOn pgHAT = true →
    s.dev.hat.stopped = none → s.dev.pwr.level < 3 → s.dev.hat.sheet = some h → s.dev.hat.chans = c :: rest →
    Completes (.passRun bad) s fun e =>
      (s.dev.hat.pass + 1 < (s.dev.plateOf h.at_).passes →
        place e = (some h, c :: rest, s.dev.hat.sub, s.dev.hat.pass + 1, s.dev.hat.which)) ∧
      ((s.dev.plateOf h.at_).passes ≤ s.dev.hat.pass + 1 → s.dev.hat.sub + 1 < (s.dev.plateOf h.at_).req.subs →
        place e = (some h, c :: rest, s.dev.hat.sub + 1, 0, s.dev.hat.which)) ∧
      ((s.dev.plateOf h.at_).passes ≤ s.dev.hat.pass + 1 → (s.dev.plateOf h.at_).req.subs ≤ s.dev.hat.sub + 1 → rest ≠ [] →
        place e = (some h, rest, 0, 0, !s.dev.hat.which))) ∧
  (∀ (s : State) (k : Fin 5) (v : Word), s.dev.takes pgHAT (0x1000 + 4 * k.val) = true → (k.val = 4 → v >>> 20 = 0) →
    Completes (.qmaskSet k v) s fun e => ∀ j, e.hat.qmask.getLsbD j = (s.dev.hat.qmask.getLsbD j ||
      (decide (32 * k.val ≤ j) && decide (j < 32 * k.val + 32) && decide (j < 148) && bitAt (j - 32 * k.val) v))) ∧
  ∀ (s : State) (c : Closing), s.dev.unitOn pgHAT = true → s.dev.acc.closing = some c → Completes .suspectFlagsClose s fun e =>
    (∀ q ∈ e.hat.unver, ∀ x ∈ q.2, x.1 ≠ c.idx) ∧ ∃ c', e.acc.closing = some c' ∧ c'.idx = c.idx ∧ c'.buf = c.buf

/-- The accumulator: a channel's additions are made, or given up at the end of their window, and leave the queue (R143,
R144). A record that has been assembled is finished: RECRDY is set and the record registers name its ream and buffer (R158,
R159). RELEASE gives the buffer back (R160). -/
def Obligations.AccumulatorFinishesRecords : Prop :=
  (∀ (s : State) (poison : List Nat) (x : AddItem) (rest : List AddItem), s.dev.unitOn pgACC = true →
    s.dev.acc.adds = x :: rest → s.dev.sys.state ≠ .frozen → Completes (.channelAdd poison) s fun e => e.acc.adds = rest) ∧
  (∀ (s : State) (n : Nat) (x : AddItem) (rest : List AddItem), s.dev.unitOn pgACC = true → s.dev.acc.adds = x :: rest →
    Completes (.addWindowExpire n) s fun e => e.acc.adds = rest) ∧
  (∀ (s : State) (c : Closing), s.dev.unitOn pgACC = true → s.dev.acc.closing = some c → s.dev.acc.waits = none →
    s.dev.memServes = true → Completes .recordFinished s fun e => e.acc.closing = none ∧ e.acc.recrdy = true ∧
      e.acc.recream = c.idx ∧ e.acc.recbuf = c.buf ∧ e.acc.recgen = s.dev.acc.recgen + 1) ∧
  ∀ (s : State) (v : Word), s.dev.takes pgACC 0x100C = true → s.dev.accReleaseErrs v = [] → Completes (.accRelease v) s fun e =>
    e.acc.recrdy = false ∧ e.acc.recgen = s.dev.acc.recgen ∧ e.mem = s.dev.mem

/-- A BEAM frame of the egress queue goes out on its lane while the module may publish, and leaves the queue (R216, R223). A
legal write of the shadow beam table through BAR2 takes its bytes and leaves the active table as it was (R220, R224). STGRD takes the
host's read index (R218). -/
def Obligations.BeamformerSendsAndTakesTables : Prop :=
  (∀ (s : State) (n : Fin 256) (x : EgBlock), s.dev.unitOn pgBMF = true → s.dev.bmf.egress.find? (·.lane == n.val) = some x →
    s.dev.role n = 2 → s.dev.sys.state ≠ .frozen → s.dev.mayPublish = true → s.dev.pwr.level < 4 → s.dev.txOn n = true →
    Completes (.beamFrameSend n false) s fun e => e.bmf.egress = s.dev.bmf.egress.erase x ∧
      e.sys.out = .frame n (s.dev.beamFrame x) :: s.dev.sys.out ∧ e.cnt pgBMF 0x138 = s.dev.cnt pgBMF 0x138 + 1) ∧
  (∀ (s : State) (o : BitVec 24) (l : List Byte), s.dev.takes2 = true → s.dev.grantHeld 0 = false →
    o.toNat + l.length ≤ s.dev.req.bmTblSize → (∀ e ∈ l.zipIdx, bmByteErr s.dev.req (o.toNat + e.2) e.1 = none) →
    (s.dev.page pgBMF).locked = false → (∀ e ∈ l.zipIdx, bmFixed s.dev.req s.dev.bmf.tbl (o.toNat + e.2) e.1 = false) →
    Completes (.bmfTableWrite true o l) s fun e => e.bmf = { s.dev.bmf with sh := tblPut s.dev.bmf.sh o.toNat l }) ∧
  ∀ (s : State) (i : BitVec 24), s.dev.takes pgBMF 0x1040 = true → i.toNat < s.dev.req.stgBlocks →
    (i.toNat + s.dev.req.stgBlocks - s.dev.bmf.stgrd) % s.dev.req.stgBlocks ≤ s.dev.stgOcc →
    Completes (.stgrdWrite (i.setWidth 32)) s fun e => e.bmf.stgrd = i.toNat ∧ e.bmf.stgwr = s.dev.bmf.stgwr

/-- The trigger engine: a trigger sample that is due is evaluated and the next follows (R241); a block whose software values do
not come in time is marked SWLATE (R248); an edge on TRIGIN changes its bit of the state and no other (R246); a TRIGOUT pulse
ends low (R247); a TRIG frame goes out on a PEER lane, or is dropped and counted while the module may not publish (R244, R247). -/
def Obligations.TriggerEngineEvaluatesAndSignals : Prop :=
  (∀ (s : State) (lat : Nat), s.dev.unitOn pgTRG = true → s.dev.tickDue = true → s.dev.trg.geomAt = none →
    Completes (.triggerSampleEval lat) s fun e => e.trg.next = s.dev.trg.next + 1 ∧ e.trg.lastTick = some s.dev.trg.next) ∧
  (∀ (s : State) (r : Req) (b : Sfn), s.dev.unitOn pgTRG = true → s.dev.run.live = true →
    r = s.dev.reqAt (s.dev.run.s0 + BitVec.ofNat 48 (s.dev.trg.next * 2 ^ s.dev.trgA)) → b = s.dev.tickBlock r s.dev.trg.next →
    r.trigMode = true → usesSw (s.dev.trgTblAt (s.dev.run.s0 + BitVec.ofNat 48 (s.dev.trg.next * 2 ^ s.dev.trgA))) = true →
    s.dev.trg.sw.any (·.1 == b) = false → s.dev.trg.late.contains b = false →
    s.dev.windowClosed r (b + BitVec.ofNat 48 ((1 + r.tSwlag) * r.lf)) = true → Completes .swDeadline s fun e =>
      e.trg.late = s.dev.trg.late ++ [b] ∧ bitAt 3 (e.page pgTRG).pirq = true) ∧
  (∀ (s : State) (n : Fin 4) (rise : Bool), Completes (.triginEdge n rise) s fun e => e.trg.tin.getLsbD n = rise ∧
    ∀ j, j ≠ n.val → e.trg.tin.getLsbD j = s.dev.trg.tin.getLsbD j) ∧
  (∀ (s : State) (n : Fin 4) (t : Nat), s.dev.unitOn pgTRG = true → Tab.get none s.dev.trg.outEnd n = some t →
    t ≤ s.dev.time.loc.toNat → Completes (.trigoutPulseEnd n) s fun e => Tab.get none e.trg.outEnd n = none ∧
      e.sys.out = .land ("TRIGOUT" ++ toString n.val) false :: s.dev.sys.out) ∧
  ∀ (s : State) (x : TrigOut) (t : List TrigOut) (n : Nat), s.dev.unitOn pgTRG = true → s.dev.trg.txq = x :: t →
    s.dev.lanesOf 3 = [n] → s.dev.txOn n = true → Completes .trigFrameSend s fun e => e.trg.txq = t ∧
      if s.dev.mayPublish then e.sys.out = .frame n (s.dev.trigFrame n x) :: s.dev.sys.out
      else e.sys.out = s.dev.sys.out ∧ e.cnt pgTRG 0x138 = s.dev.cnt pgTRG 0x138 + 1

/-- The trigger log and tables: a log entry goes to the slot of the ring that LOGWR names, and no byte outside its 64 bytes
changes (R252); LOGRD takes the host's read index (R252); a legal write of the shadow trigger table takes its bytes and
leaves the tables in force as they were (R255). -/
def Obligations.TriggerLogAndTables : Prop :=
  (∀ (s : State) (l : List Byte) (t : List (List Byte)), s.dev.unitOn pgTRG = true → s.dev.trg.fifo = l :: t →
    s.dev.sys.state ≠ .frozen → s.dev.req.tLogEnts ≠ 0 → Completes .logEntryWrite s fun e => e.trg.fifo = t ∧
      e.trg.logwr = (s.dev.trg.logwr + 1) % s.dev.req.tLogEnts ∧
      (let at_ := loadedAddr pgTRG 0x1038 + 64 * s.dev.trg.logwr
       (∀ i, i < l.length → e.byte (at_ + i) = (l[i]?).getD 0) ∧
       ∀ a, a < at_ ∨ at_ + l.length ≤ a → e.byte a = s.dev.byte a)) ∧
  (∀ (s : State) (i : BitVec 24), s.dev.takes pgTRG 0x1048 = true → i.toNat < s.dev.req.tLogEnts →
    (i.toNat + s.dev.req.tLogEnts - s.dev.trg.logrd) % s.dev.req.tLogEnts ≤ s.dev.logOcc →
    Completes (.logrdWrite (i.setWidth 32)) s fun e => e.trg.logrd = i.toNat ∧ e.trg.logwr = s.dev.trg.logwr) ∧
  ∀ (s : State) (o : BitVec 24) (l : List Byte), s.dev.takes2 = true → s.dev.grantHeld 1 = false →
    o.toNat + l.length ≤ s.dev.req.tTblSize →
    (∀ i < l.length, trgFieldErr s.dev.req (tblPut s.dev.trg.sh o.toNat l) (o.toNat + i) = none) →
    s.dev.pair.state ≠ .matching → s.dev.pair.state ≠ .ready → (s.dev.page pgTRG).locked = false →
    Completes (.trgTableWrite true o l) s fun e => e.trg = { s.dev.trg with sh := tblPut s.dev.trg.sh o.toNat l }

/-- A build or proof ends: BUSY falls, the result registers are READY with the next generation and the code of the first
constraint that refuses (R188, R192); a build that passes writes its image into the staged slot, which is LOADED, and a
refused one leaves it EMPTY; a proof that passes leaves it PROOFED, a refused one LOADED (R189, R191). -/
def Obligations.BuildAndProofEnd : Prop :=
  (∀ s : State, s.dev.unitOn pgPLT = true → s.dev.plt.busy = true → s.dev.plt.op = 1 → Completes .buildDone s fun e =>
    let p := mkPlate (Req.parse s.dev.plt.snapReq) s.dev.plt.snapQ s.dev.plt.snapExcl bldver
    let img := buildImage p s.dev.plt.snapReq (fmapBytes s.dev.plt.snapQ s.dev.plt.snapExcl)
    e.plt.busy = false ∧ e.plt.ready = true ∧ e.plt.gen = s.dev.plt.gen + 1 ∧ e.plt.op = 0 ∧
      (∀ x, buildRefused s.dev s.dev.plt.snapReq p = some x → e.plt.staged = .empty ∧ e.plt.code = x.code ∧ e.mem = s.dev.mem) ∧
      (buildRefused s.dev s.dev.plt.snapReq p = none → e.plt.staged = .loaded ∧ e.plt.code = 0 ∧ e.plt.stagedP ≠ none ∧
        e.mem = memPut s.dev.mem (slotBase s.dev.plt.stagedSlot) img)) ∧
  ∀ s : State, s.dev.unitOn pgPLT = true → s.dev.plt.busy = true → s.dev.plt.op = 2 → Completes .proofDone s fun e =>
    e.plt.busy = false ∧ e.plt.ready = true ∧ e.plt.gen = s.dev.plt.gen + 1 ∧ e.plt.op = 0 ∧ e.mem = s.dev.mem ∧
      (∀ x, s.dev.decodeImage = .inr x → e.plt.staged = .loaded ∧ e.plt.code = x.code) ∧
      ∀ p req, s.dev.decodeImage = .inl (p, req) →
        (∀ x, s.dev.proofRefused req p = some x → e.plt.staged = .loaded ∧ e.plt.code = x.code) ∧
        (s.dev.proofRefused req p = none → e.plt.staged = .proofed ∧ e.plt.code = 0 ∧ e.plt.stagedP = some p)

/-- A host write into the staged plate slot stores its bytes there and no other, and the slot is LOADED and must be proofed
again (R195). A write into the active slot is rejected with E_PERM and stores nothing (R195). -/
def Obligations.PlateSlotWrites : Prop :=
  (∀ (s : State) (b : Bool) (o : BitVec 26) (l : List Byte), s.dev.takes2 = true → s.dev.memServes = true → b ≠ s.dev.plt.actSlot →
    (s.dev.plt.staged = .empty ∨ s.dev.plt.staged = .loaded ∨ s.dev.plt.staged = .proofed) →
    Completes (.plateSlotWrite b o l) s fun e => e.plt.staged = .loaded ∧ e.plt.stagedP = none ∧ e.plt.active = s.dev.plt.active ∧
      (∀ i, i < l.length → e.byte (slotBase b + o.toNat + i) = (l[i]?).getD 0) ∧
      ∀ a, a < slotBase b + o.toNat ∨ slotBase b + o.toNat + l.length ≤ a → e.byte a = s.dev.byte a) ∧
  ∀ (s : State) (o : BitVec 26) (l : List Byte), s.dev.takes2 = true → s.dev.memServes = true →
    Completes (.plateSlotWrite s.dev.plt.actSlot o l) s fun e => e.mem = s.dev.mem ∧ e.plt = s.dev.plt ∧
      s.dev.rejected e pgPLT (if s.dev.plt.actSlot then 0x1034 else 0x1030) ePERM

/-- The 16-bit operations on a running core whose sources are visible (R267, R269, R273): each writes its result to DD and Z
and N from it in one cycle. ADD and SUB wrap and give C; where R267 does not say what C becomes, nothing is said of it. ADDS,
SUBS and ABS saturate and set S when they do. Shifts take the low four bits of their count. CMP sets the flags of DA − source
and writes nothing. No other bank, core or register changes. -/
def Obligations.BurinAluOperations : Prop :=
  ∀ (s : State) (c : Fin 64) (dd da : Fin 16) (src : BSrc) (x y : BitVec 16),
    (s.dev.core c).bank.seesD da x → (s.dev.core c).bank.seesS src y →
    (s.dev.issues c (.alu .add dd da src) = true → Completes (.addOp c dd da src) s fun e =>
      s.dev.aluDone e c dd (x + y) false fun k => k = decide (2 ^ 16 ≤ x.toNat + y.toNat)) ∧
    (s.dev.issues c (.alu .sub dd da src) = true → Completes (.subOp c dd da src) s fun e =>
      s.dev.aluDone e c dd (x - y) false fun k => k = subCarry x y) ∧
    (s.dev.issues c (.alu .adds dd da src) = true → Completes (.addsOp c dd da src) s fun e =>
      let v := x.toInt + y.toInt
      s.dev.aluDone e c dd (BitVec.ofInt 16 (max (-32768) (min 32767 v))) (decide (v < -32768 ∨ 32767 < v)) fun _ => True) ∧
    (s.dev.issues c (.alu .subs dd da src) = true → Completes (.subsOp c dd da src) s fun e =>
      let v := x.toInt - y.toInt
      s.dev.aluDone e c dd (BitVec.ofInt 16 (max (-32768) (min 32767 v))) (decide (v < -32768 ∨ 32767 < v)) fun _ => True) ∧
    (s.dev.issues c (.alu .and dd da src) = true → Completes (.andOp c dd da src) s fun e =>
      s.dev.aluDone e c dd (x &&& y) false fun _ => True) ∧
    (s.dev.issues c (.alu .or dd da src) = true → Completes (.orOp c dd da src) s fun e =>
      s.dev.aluDone e c dd (x ||| y) false fun _ => True) ∧
    (s.dev.issues c (.alu .xor dd da src) = true → Completes (.xorOp c dd da src) s fun e =>
      s.dev.aluDone e c dd (x ^^^ y) false fun _ => True) ∧
    (s.dev.issues c (.alu .shl dd da src) = true → Completes (.shlOp c dd da src) s fun e =>
      s.dev.aluDone e c dd (x <<< (y.toNat % 16)) false fun _ => True) ∧
    (s.dev.issues c (.alu .shra dd da src) = true → Completes (.shraOp c dd da src) s fun e =>
      s.dev.aluDone e c dd (x.sshiftRight (y.toNat % 16)) false fun _ => True) ∧
    (s.dev.issues c (.alu .shrl dd da src) = true → Completes (.shrlOp c dd da src) s fun e =>
      s.dev.aluDone e c dd (x >>> (y.toNat % 16)) false fun _ => True) ∧
    (s.dev.issues c (.alu .min dd da src) = true → Completes (.minOp c dd da src) s fun e =>
      s.dev.aluDone e c dd (BitVec.ofInt 16 (min x.toInt y.toInt)) false fun _ => True) ∧
    (s.dev.issues c (.alu .max dd da src) = true → Completes (.maxOp c dd da src) s fun e =>
      s.dev.aluDone e c dd (BitVec.ofInt 16 (max x.toInt y.toInt)) false fun _ => True) ∧
    (s.dev.issues c (.alu .abs dd da src) = true → Completes (.absOp c dd da src) s fun e =>
      s.dev.aluDone e c dd (BitVec.ofInt 16 (min 32767 |x.toInt|)) (decide (x.toInt = -32768)) fun _ => True) ∧
    (s.dev.issues c (.cmp da src) = true → Completes (.cmpOp c da src) s fun e =>
      s.dev.ran e c 1 { (s.dev.core c).bank with z := x == y, n := (x - y).msb, c := subCarry x y } [] none none)

/-- The accumulators (R265, R266, R268, R273). MPY sets an accumulator to the exact product of two data registers; MAC adds or
subtracts it; a result outside 40 bits sets V and wraps, or clamps with SAT = 1. Both do up to two loads from data memory, each
with post-modification, and take a second cycle where both loads meet in one bank. ACCOP's operations are exact before the
same rule. MVA and MVR scale, round by R4 and saturate, and a move that saturates sets S. GETA reads a part of an accumulator,
PUTA writes one and keeps the others. -/
def Obligations.BurinAccumulators : Prop :=
  (∀ (s : State) (c : Fin 64) (ac : Bool) (da db : Fin 16) (l : BLoads) (x y : BitVec 16),
    (s.dev.core c).bank.seesD da x → (s.dev.core c).bank.seesD db y →
    (s.dev.core c).loadReady l.l1 → (s.dev.core c).loadReady l.l2 →
    (∀ i p j q, l.l1 = some (i, p) → l.l2 = some (j, q) → p ≠ q) →
    (s.dev.issues c (.mpy ac da db l) = true → Completes (.mpyOp c ac da db l) s fun e =>
      let q := s.dev.core c
      s.dev.ran e c (q.cyclesOf (.mpy ac da db l))
        (q.loadPut l.l2 (q.loadPut l.l1 (q.bank.accDone q.sat ac (x.toInt * y.toInt)))) (loadRegs l.l1 ++ loadRegs l.l2) none none) ∧
    ∀ neg, s.dev.issues c (.mac ac neg da db l) = true → Completes (.macOp c ac neg da db l) s fun e =>
      let q := s.dev.core c
      let a := (q.bank.acc ac).toInt
      s.dev.ran e c (q.cyclesOf (.mac ac neg da db l))
        (q.loadPut l.l2 (q.loadPut l.l1 (q.bank.accDone q.sat ac
          (if neg then a - x.toInt * y.toInt else a + x.toInt * y.toInt)))) (loadRegs l.l1 ++ loadRegs l.l2) none none) ∧
  (∀ (s : State) (c : Fin 64) (ac : Bool) (op : BAcc), s.dev.issues c (.accop ac op) = true →
    Completes (.accopOp c ac op) s fun e =>
      let b := (s.dev.core c).bank
      let a := (b.acc ac).toInt
      s.dev.ran e c 1 (b.accDone (s.dev.core c).sat ac (match op with
        | .clr => 0
        | .neg => -a
        | .add => a + (b.acc (!ac)).toInt
        | .sub => a - (b.acc (!ac)).toInt
        | .abs => |a|
        | .shift k => if 0 ≤ k then a * 2 ^ k.toNat else conv (-k).toNat a)) [] none none) ∧
  (∀ (s : State) (c : Fin 64) (dd : Fin 16) (ac : Bool), s.dev.issues c (.mva dd ac) = true →
    Completes (.mvaOp c dd ac) s fun e => s.dev.ran e c 1 ((s.dev.core c).bank.movDone dd
      (conv (15 - cmScale (s.dev.core c).cmode).toNat ((s.dev.core c).bank.acc ac).toInt)) [.d dd] none none) ∧
  (∀ (s : State) (c : Fin 64) (dd : Fin 16) (ac : Bool) (k : BitVec 5), s.dev.issues c (.mvr dd ac k) = true →
    Completes (.mvrOp c dd ac k) s fun e => s.dev.ran e c 1 ((s.dev.core c).bank.movDone dd
      (conv k.toNat ((s.dev.core c).bank.acc ac).toInt)) [.d dd] none none) ∧
  (∀ (s : State) (c : Fin 64) (dd : Fin 16) (ac : Bool) (k : Fin 3), s.dev.issues c (.geta dd ac k) = true →
    Completes (.getaOp c dd ac k) s fun e =>
      let a := (s.dev.core c).bank.acc ac
      ∃ v : BitVec 16, (∀ j < 16, v.getLsbD j = if k = 2 ∧ 8 ≤ j then a.msb else a.getLsbD (16 * k.val + j)) ∧
        s.dev.ran e c 1 ((s.dev.core c).bank.wrD dd v) [.d dd] none none) ∧
  ∀ (s : State) (c : Fin 64) (ac : Bool) (da : Fin 16) (k : Fin 3) (x : BitVec 16), s.dev.issues c (.puta ac da k) = true →
    (s.dev.core c).bank.seesD da x → Completes (.putaOp c ac da k) s fun e =>
      ∃ a : BitVec 40, (∀ j < 40, a.getLsbD j = if j / 16 = k.val then x.getLsbD (j - 16 * k.val)
          else ((s.dev.core c).bank.acc ac).getLsbD j) ∧
        s.dev.ran e c 1 ((s.dev.core c).bank.wrAcc ac a) [] none none

/-- Loads, stores and moves (R268, R269, R273, R274, R275). LD and ST address Ai + OFS, or Ai alone with post-modification by
Mi within the window of AMODE. In data memory LD takes the word and ST stores it, and no other word changes. A load of MBXIN
takes the oldest inbound word. An address from 0x8100 to 0xBFFF faults the core with ADDRESS. LDI takes its immediate; MVX
copies a special register; of AMODE, which is wider than the word, only the low half is said. -/
def Obligations.BurinLoadsStoresAndMoves : Prop :=
  (∀ (s : State) (c : Fin 64) (dd : Fin 16) (ai : Fin 8) (pm : Bool) (ofs a m : BitVec 16),
    (s.dev.core c).bank.seesA ai a → (s.dev.core c).bank.seesM ai m →
    let x := s.dev.core c
    let at_ := (if pm then a else a + ofs).toNat
    (s.dev.issues c (.ld dd ai pm ofs) = true →
      (at_ < 0x8000 → Completes (.ldOp c dd ai pm ofs) s fun e => ∃ a', x.bank.postModded ai a m a' ∧
        s.dev.ran e c 1 ((if pm then x.bank.wrA ai a' else x.bank).wrD dd (x.dWord at_)) (.d dd :: if pm then [.a ai] else [])
          none none) ∧
      (at_ = 0x8000 → ∀ w t, x.mbxIn = w :: t → Completes (.ldOp c dd ai pm ofs) s fun e =>
        (e.core c).mbxIn = t ∧ Tab.get 0 (e.core c).bank.dr dd.val = w ∧ s.dev.onlyCore e c) ∧
      (0x8100 ≤ at_ → at_ < 0xC000 → Completes (.ldOp c dd ai pm ofs) s fun e => s.dev.faulted e c 1 2)) ∧
    ∀ v, s.dev.issues c (.st dd ai pm ofs) = true → x.bank.seesD dd v →
      (at_ < 0x8000 → Completes (.stOp c dd ai pm ofs) s fun e => ∃ a', x.bank.postModded ai a m a' ∧
        (e.core c).dWord at_ = v ∧ (∀ k, k ≠ at_ → (e.core c).dWord k = x.dWord k) ∧
        e.core c = ({ x with cyc := x.cyc + 1, dmem := (e.core c).dmem }.setBank
          ((if pm then x.bank.wrA ai a' else x.bank).advance (if pm then [.a ai] else []) none none)).haltDue ∧
        s.dev.onlyCore e c) ∧
      (0x8100 ≤ at_ → at_ < 0xC000 → Completes (.stOp c dd ai pm ofs) s fun e => s.dev.faulted e c 1 2)) ∧
  (∀ (s : State) (c : Fin 64) (dd : Fin 16) (v : BitVec 16), s.dev.issues c (.ldi dd v) = true →
    Completes (.ldiOp c dd v) s fun e => s.dev.ran e c 1 ((s.dev.core c).bank.wrD dd v) [.d dd] none none) ∧
  (∀ (s : State) (c : Fin 64) (dd : Fin 16) (x : BSpec) (v : BitVec 16), s.dev.issues c (.mvx false dd x) = true →
    (s.dev.core c).bank.seesX x v → Completes (.mvxOp c false dd x) s fun e =>
      s.dev.ran e c 1 ((s.dev.core c).bank.wrD dd v) [.d dd] none none) ∧
  ∀ (s : State) (c : Fin 64) (dd : Fin 16) (x : BSpec) (v : BitVec 16), s.dev.issues c (.mvx true dd x) = true →
    (s.dev.core c).bank.seesD dd v → Completes (.mvxOp c true dd x) s fun e =>
      let b := (s.dev.core c).bank
      match x with
      | .a i => s.dev.ran e c 1 (b.wrA i v) [.a i] none none
      | .m i => s.dev.ran e c 1 (b.wrM i v) [.m i] none none
      | .lk => s.dev.ran e c 1 { b with lk := v } [] none none
      | .lc => s.dev.ran e c 1 { b with lc := v } [] none none
      | .ls => s.dev.ran e c 1 { b with ls := v } [] none none
      | .le => s.dev.ran e c 1 { b with le := v } [] none none
      | .amode => ∃ h : BitVec 16, s.dev.ran e c 1 { b with amode := h ++ v } [] none none

/-- Control flow (R270, R271, R273, R278, R287). A branch that holds, CALL and RET take effect after the instruction in their
delay slot; CALL sets LK to the instruction after the slot. LOOP sets LC, LS and LE, a count of zero continues after LE, and a
LOOP in an active loop faults with NESTLOOP; at LE an active loop with iterations left goes back to LS. RTI returns to bank 0
and WAIT ends the activation; in the other bank each faults with WAITIRQ. SIG pushes a word onto the outbound mailbox and
raises MBX where it was empty; a full one drops it. FLAG clears the flags it names. BRK faults with BRK, a reserved word at the program counter
with ILLEGAL. -/
def Obligations.BurinControlFlow : Prop :=
  (∀ (s : State) (c : Fin 64), s.dev.issues c .nop = true → Completes (.nopOp c) s fun e =>
    let b := (s.dev.core c).bank
    s.dev.ran e c 1 b [] none none ∧
      (∀ t, b.delay = some t → (e.core c).bank.pc = t ∧ (e.core c).bank.delay = none) ∧
      (b.delay = none → b.loop = false → (e.core c).bank.pc = b.pc + 1) ∧
      (b.delay = none → b.loop = true → b.pc.toNat = b.le.toNat → 1 < b.lc.toNat →
        (e.core c).bank.pc = b.ls.setWidth 13 ∧ (e.core c).bank.lc = b.lc - 1)) ∧
  (∀ (s : State) (c : Fin 64) (cond : BCond) (ofs : BitVec 16), s.dev.issues c (.br cond ofs) = true →
    Completes (.brOp c cond ofs) s fun e => let b := (s.dev.core c).bank
      s.dev.ran e c 1 b [] (if condHolds b cond then some (b.pc + 1 + ofs.setWidth 13) else none) none) ∧
  (∀ (s : State) (c : Fin 64) (ofs : BitVec 16), s.dev.issues c (.call ofs) = true →
    Completes (.callOp c ofs) s fun e => let b := (s.dev.core c).bank
      s.dev.ran e c 1 { b with lk := (b.pc + 2).setWidth 16 } [] (some (b.pc + 1 + ofs.setWidth 13)) none) ∧
  (∀ (s : State) (c : Fin 64), s.dev.issues c .ret = true → Completes (.retOp c) s fun e => let b := (s.dev.core c).bank
    s.dev.ran e c 1 b [] (some (b.lk.setWidth 13)) none) ∧
  (∀ (s : State) (c : Fin 64) (n : BCount) (len k : BitVec 16), s.dev.issues c (.loop n len) = true →
    (match n with | .reg i => (s.dev.core c).bank.seesD i k | .imm v => v.setWidth 16 = k) →
    ((s.dev.core c).bank.loop = false → Completes (.loopOp c n len) s fun e => let b := (s.dev.core c).bank
      let ls : BitVec 13 := b.pc + 1
      let le : BitVec 13 := ls + len.setWidth 13
      s.dev.ran e c 1 { b with lc := k, ls := ls.setWidth 16, le := le.setWidth 16, loop := k != 0 } [] none (if k = 0 then some (le + 1) else none)) ∧
    ((s.dev.core c).bank.loop = true → Completes (.loopOp c n len) s fun e => s.dev.faulted e c 1 5)) ∧
  (∀ (s : State) (c : Fin 64), s.dev.issues c .rti = true →
    ((s.dev.core c).bank1 = true → (s.dev.core c).halt = false → Completes (.rtiOp c) s fun e =>
      (e.core c).bank1 = false ∧ (e.core c).state = (s.dev.core c).irqFrom ∧ (e.core c).b0 = (s.dev.core c).b0 ∧
        s.dev.onlyCore e c) ∧
    ((s.dev.core c).bank1 = false → Completes (.rtiOp c) s fun e => s.dev.faulted e c 1 6)) ∧
  (∀ (s : State) (c : Fin 64), s.dev.issues c .wait = true →
    ((s.dev.core c).bank1 = false → (s.dev.core c).halt = false → Completes (.waitOp c) s fun e =>
      (e.core c).state = .wait ∧ (e.core c).running = none ∧ (e.core c).task = none ∧ s.dev.onlyCore e c) ∧
    ((s.dev.core c).bank1 = true → Completes (.waitOp c) s fun e => s.dev.faulted e c 1 6)) ∧
  (∀ (s : State) (c : Fin 64) (i : Fin 16) (v : BitVec 16), s.dev.issues c (.sig i) = true → (s.dev.core c).bank.seesD i v →
    Completes (.sigOp c i) s fun e => s.dev.onlyCore e c ∧
      ((s.dev.core c).mbxOut.length < 16 → (e.core c).mbxOut = (s.dev.core c).mbxOut ++ [v]) ∧
      ((s.dev.core c).mbxOut = [] → bitAt 3 (e.page (burPage c)).pirq = true) ∧
      (16 ≤ (s.dev.core c).mbxOut.length → (e.core c).mbxOut = (s.dev.core c).mbxOut)) ∧
  (∀ (s : State) (c : Fin 64) (cv cs cf : Bool), s.dev.issues c (.flag cv cs cf) = true →
    Completes (.flagOp c cv cs cf) s fun e => let x := s.dev.core c
      e.core c = ({ x with cyc := x.cyc + 1, fe := x.fe && !cf }.setBank
        ({ x.bank with v := x.bank.v && !cv, s := x.bank.s && !cs }.advance [] none none)).haltDue ∧ s.dev.onlyCore e c) ∧
  (∀ (s : State) (c : Fin 64), s.dev.issues c .brk = true → Completes (.brkOp c) s fun e => s.dev.faulted e c 1 7) ∧
  ∀ (s : State) (c : Fin 64), s.dev.unitOn (burPage c) = true → (s.dev.core c).state = .run →
    burDecode ((s.dev.core c).pWord (s.dev.core c).bank.pc.toNat) = none →
    Completes (.nopOp c) s fun e => s.dev.faulted e c 0 1

/-- The events and ports of the burin cores. A core in WAIT begins the first event that may be delivered: D0 holds kind and flags, D1 the
task, A0 the record, A7 the data base, and the other registers keep their values (R278). A TIMER period that has elapsed makes
TIMER pending (R275, R277). A pending interrupt is taken in bank 1 at a boundary of bank 0 that is no delay slot (R271). When
the images are in place a loading core waits for events (R285); here for an unshed device, as shedding has rules of its own.
A commit that passes R280's checks arms its ticket and locks the page's shadow; a refused one
leaves the code in CMT_STAT and raises MISS (R280). A post of the block that TRG expects delivers its samples, four bits each;
any other is counted in SWERR (R281). XF_GO starts a transfer, and one while a transfer is busy is ignored and counted; when
a transfer is done BUSY falls (R275). A read of MBXIN pops the oldest inbound word (R275). -/
def Obligations.CoresTakeEventsAndUsePorts : Prop :=
  (∀ (s : State) (c : Fin 64) (q : BEvent) (p : Placed), s.dev.unitOn (burPage c) = true → (s.dev.core c).state = .wait →
    (s.dev.core c).bank1 = false → ((s.dev.core c).queue.find? fun q => s.dev.evReady c q) = some q →
    (s.dev.core c).tk q.task = some p → q.words ≠ 0 → Completes (.burinActivation c) s fun e =>
      let x := s.dev.core c
      let y := e.core c
      y.state = .run ∧ y.task = some q.task ∧ y.running = some q ∧ y.queue = x.queue.erase q ∧
        Tab.get 0 y.b0.dr 0 = BitVec.ofNat 16 (q.kind + q.flags * 256) ∧ Tab.get 0 y.b0.dr 1 = BitVec.ofNat 16 q.task ∧
        Tab.get 0 y.b0.ar 0 = BitVec.ofNat 16 q.addr ∧ Tab.get 0 y.b0.ar 7 = BitVec.ofNat 16 p.data ∧
        (∀ j, j ≠ 0 → j ≠ 1 → Tab.get 0 y.b0.dr j = Tab.get 0 x.b0.dr j) ∧
        (∀ j, j ≠ 0 → j ≠ 7 → Tab.get 0 y.b0.ar j = Tab.get 0 x.b0.ar j) ∧ y.b0.mr = x.b0.mr ∧ y.b0.ac0 = x.b0.ac0 ∧
        y.b0.ac1 = x.b0.ac1 ∧ y.b0.amode = x.b0.amode ∧ y.b0.lk = x.b0.lk ∧ y.b1 = x.b1 ∧ s.dev.onlyCore e c) ∧
  (∀ (s : State) (c : Fin 64) (n : Nat), s.dev.unitOn (burPage c) = true → (s.dev.core c).ports.tmInterval.toNat * 1000 = n →
    n ≠ 0 → (s.dev.core c).clocked = true → n ≤ (s.dev.time.loc - (s.dev.core c).timerAt).toNat →
    Completes (.burinTimer c) s fun e => (∀ t ∈ s.dev.irqTasks c evTIMER, (evTIMER, t) ∈ (e.core c).irqs) ∧
      (e.core c).timerAt = (s.dev.core c).timerAt + BitVec.ofNat 64 n ∧ s.dev.onlyCore e c) ∧
  (∀ (s : State) (c : Fin 64) (q : Nat × Nat), s.dev.unitOn (burPage c) = true →
    ((s.dev.core c).state = .run ∨ (s.dev.core c).state = .wait) → (s.dev.core c).bank1 = false →
    (s.dev.core c).b0.delay = none → (s.dev.core c).nextIrq = some q → Completes (.burinIrqTaken c) s fun e =>
      let x := s.dev.core c
      let y := e.core c
      y.bank1 = true ∧ y.state = .run ∧ y.irqFrom = x.state ∧ y.irqs = x.irqs.erase q ∧ y.b0 = { x.b0 with fresh := [] } ∧
        y.b1.dr = x.b1.dr ∧ y.b1.ar = x.b1.ar ∧ y.b1.mr = x.b1.mr ∧ y.b1.ac0 = x.b1.ac0 ∧ y.b1.ac1 = x.b1.ac1 ∧
        e.cnt (burPage c) 0x108 = s.dev.cnt (burPage c) 0x108 + 1 ∧ s.dev.onlyCore e c) ∧
  (∀ (s : State) (c : Fin 64), s.dev.sys.state ≠ .off → (s.dev.core c).state = .loading → (s.dev.core c).resumeAt = none →
    s.dev.run.outgoing = none → s.dev.pwr.level = 0 → Completes .burinReloadDone s fun e => (e.core c).state = .wait) ∧

  (∀ (s : State) (c : Fin 64) (num : BitVec 16), s.dev.unitOn (burPage c) = true →
    let q := (s.dev.core c).ports
    (s.dev.cmtErrs c num = [] → q.cmtPage.toNat ∈ [pgBMF, pgTRG] → q.cmtWhen ≠ 0 → Completes (.cmtGo c num) s fun e =>
      (e.page q.cmtPage.toNat).armed = some { num := num, when := q.cmtWhen.toNat, target := q.cmtSfn } ∧
        (e.page q.cmtPage.toNat).locked = true ∧ (e.core c).ports.cmtStat = 0x100) ∧
    ∀ x, firstCode (s.dev.cmtErrs c num) = some x → Completes (.cmtGo c num) s fun e =>
      (e.core c).ports.cmtStat = x.setWidth 16 ||| 0x100 ∧ bitAt 1 (e.page (burPage c)).pirq = true ∧
        e.cnt (burPage c) 0x128 = s.dev.cnt (burPage c) 0x128 + 1 ∧ ∀ p, (e.page p).armed = (s.dev.page p).armed ∧ (e.page p).locked = (s.dev.page p).locked) ∧
  (∀ (s : State) (c : Fin 64), s.dev.unitOn (burPage c) = true →
    let q := (s.dev.core c).ports
    let good := s.dev.run.live = true ∧ (s.dev.reqAt q.swSfn).trigMode = true ∧ usesSw (s.dev.trgTblAt q.swSfn) = true ∧
      s.dev.hasGrant c 2 = true ∧ q.swSfn = s.dev.swExpected
    (good → Completes (.swPost c) s fun e => ∃ v, e.trg.sw = s.dev.trg.sw ++ [(q.swSfn, v)] ∧
      ∀ j < (s.dev.reqAt q.swSfn).lf / 2 ^ (s.dev.reqAt q.swSfn).tA,
        v[j]? = some ((Tab.get (0 : BitVec 16) q.swBits (j / 4)).toNat / 16 ^ (j % 4) % 16)) ∧
    (¬ good → Completes (.swPost c) s fun e => e.trg = s.dev.trg ∧
      e.cnt (burPage c) 0x138 = s.dev.cnt (burPage c) 0x138 + 1)) ∧
  (∀ (s : State) (c : Fin 64) (dir : Bool), s.dev.unitOn (burPage c) = true →
    ((s.dev.core c).ports.xfBusy = false → s.dev.xfOk c dir = true → Completes (.xfGo c dir) s fun e =>
      e.core c = { s.dev.core c with ports := { (s.dev.core c).ports with xfDir := dir, xfBusy := true, xfFe := false } }) ∧
    ((s.dev.core c).ports.xfBusy = true → Completes (.xfGo c dir) s fun e =>
      e.core c = s.dev.core c ∧ e.cnt (burPage c) 0x138 = s.dev.cnt (burPage c) 0x138 + 1)) ∧
  (∀ (s : State) (c : Fin 64), s.dev.unitOn (burPage c) = true → (s.dev.core c).ports.xfBusy = true →
    Completes (.xfDone c) s fun e => (e.core c).ports.xfBusy = false) ∧
  ∀ (s : State) (c : Fin 64) (w : BitVec 16) (t : List (BitVec 16)), s.dev.unitOn (burPage c) = true →
    (s.dev.core c).mbxIn = w :: t → Completes (.mbxinPortRead c) s fun e => (e.core c).mbxIn = t ∧
      e.sys.out = .data (w.setWidth 32) :: s.dev.sys.out ∧ s.dev.onlyCore e c

/-- Host control of a core (R287, R289, R290). HALT takes a core without tasks from OFF to HALTED with every register of both
banks at zero, halts a core in WAIT, and halts one in bank 0 of RUN that is not in a delay slot; HALT = 0 resumes a HALTED core. STEP executes one instruction
and leaves the core HALTED. CRESET loads the core's tasks again, to restart at a boundary. A word for the inbound mailbox is
pushed, and a write to a full one is rejected with E_BUSY. While the device is RUNNING or DRAINING a core with tasks refuses
HALT and MBXIN with E_TASKCORE, and nothing changes. -/
def Obligations.HostControlsTheCores : Prop :=
  ∀ (s : State) (c : Fin 64),
    let x := s.dev.core c
    let o := 0x1100 + 0x40 * (c.val % 16)
    let mine := x.tasks.isEmpty || !noStepState s.dev.sys.state
    (s.dev.takes (burPage c) o = true → mine = true →
      (x.halt = false → x.state = .off → x.tasks = [] → Completes (.cctlHalt c true) s fun e =>
        (e.core c).state = .halted ∧ (e.core c).b0 = {} ∧ (e.core c).b1 = {} ∧ (e.core c).halt = true ∧ s.dev.onlyCore e c) ∧
      (x.halt = false → x.state = .wait ∨ (x.state = .run ∧ x.bank1 = false ∧ x.b0.delay = none) →
        Completes (.cctlHalt c true) s fun e => e.core c = { x with state := .halted, held := x.state, halt := true } ∧
          s.dev.onlyCore e c) ∧
      (x.halt = true → x.state = .halted → Completes (.cctlHalt c false) s fun e =>
        e.core c = { x with state := x.held, halt := false } ∧ s.dev.onlyCore e c)) ∧
    (s.dev.takes (burPage c) o = true → noStepState s.dev.sys.state = true → x.tasks ≠ [] →
      Completes (.cctlHalt c (!x.halt)) s fun e => s.dev.rejected e (burPage c) o 0x10 ∧ e.bur = s.dev.bur) ∧
    (s.dev.takes (burPage c) o = true → x.state = .halted → x.bank1 = false →
      burDecode (x.pWord x.bank.pc.toNat) = some .nop → Completes (.cctlStep c) s fun e =>
        (e.core c).state = .halted ∧ (e.core c).b0 = x.b0.step ∧ s.dev.onlyCore e c) ∧
    (s.dev.takes (burPage c) o = true → x.tasks ≠ [] → Completes (.cctlCreset c) s fun e =>
      (e.core c).state = .loading ∧ (e.core c).fault = 0 ∧ (e.core c).queue = [] ∧
        (e.core c).resumeAt = some (s.dev.boundary 2) ∧ s.dev.onlyCore e c) ∧
    ∀ v : BitVec 16, s.dev.takes (burPage c) (o + 0x18) = true →
      (mine = true → x.mbxIn.length < 16 → Completes (.mbxinWrite c (v.setWidth 32)) s fun e =>
        (e.core c).mbxIn = x.mbxIn ++ [v] ∧ s.dev.onlyCore e c) ∧
      (mine = true → x.mbxIn.length = 16 → Completes (.mbxinWrite c (v.setWidth 32)) s fun e =>
        s.dev.rejected e (burPage c) (o + 0x18) eBUSY ∧ e.bur = s.dev.bur) ∧
      (mine = false → Completes (.mbxinWrite c (v.setWidth 32)) s fun e =>
        s.dev.rejected e (burPage c) (o + 0x18) 0x10 ∧ e.bur = s.dev.bur)

/-- The DMA engines. START queues a channel that is IDLE or HALTED from its first descriptor, and it is ACTIVE at once where the
engine has nothing else (R385, R402); RESUME queues a FAULTED one where it stopped, ABORT halts a channel in use with E_ABORT
(R392); in any other state they are rejected. COPY, FILL and COMPARE execute bytes of the ACTIVE chain's descriptor: COPY's
bytes and FILL's pattern are stored at the destination and nowhere else, and COMPARE keeps the first offset that differs and
stores nothing (R387, R388). A read-back that completes ends its descriptor: the chain goes on with the next, or is IDLE after
the last (R389). A BULK chain at a 4 KiB boundary gives way to an URGENT one (R386). A missing PCIe completion, or a response
of the fabric, ends the chain with E_NORESP (R393). -/
def Obligations.DmaEnginesRunChains : Prop :=
  (∀ (s : State) (k n : Fin 4), s.dev.takes (pgDMA + k) (0x1104 + 0x80 * n.val) = true →
    let c := s.dev.dch k n
    let o := 0x1104 + 0x80 * n.val
    (c.state = .idle ∨ c.state = .halted → s.dev.pwr.level < 6 → Completes (.dmaStart k n) s fun e =>
      let x := e.dch k n
      (x.state = .queued ∨ x.state = .active) ∧ x.idx = 0 ∧ x.off = 0 ∧ x.desc = none ∧
        x.cur = cat64 (s.dev.reg (chAddr k n 0x10)) (s.dev.reg (chAddr k n 0x0C)) ∧
        ((s.dev.eng k).active = none → (s.dev.eng k).urgent = [] → (s.dev.eng k).susp = none → (s.dev.eng k).bulk = [] →
          x.state = .active ∧ (e.eng k).active = some n.val)) ∧
    (c.state ≠ .idle → c.state ≠ .halted → s.dev.pwr.level < 6 → Completes (.dmaStart k n) s fun e =>
      s.dev.rejected e (pgDMA + k) o eBUSY ∧ e.dma = s.dev.dma) ∧
    (c.state = .faulted → Completes (.dmaResume k n) s fun e =>
      let x := e.dch k n
      (x.state = .queued ∨ x.state = .active) ∧ x.idx = c.idx ∧ x.off = c.off ∧ x.desc = c.desc ∧ x.cur = c.cur) ∧
    (c.state ≠ .faulted → Completes (.dmaResume k n) s fun e =>
      s.dev.rejected e (pgDMA + k) o eSTATE ∧ e.dma = s.dev.dma) ∧
    (c.inUse = true ∨ c.state = .faulted → Completes (.dmaAbort k n) s fun e =>
      (e.dch k n).state = .halted ∧ (e.dch k n).code = 0x24 ∧ (e.eng k).active ≠ some n.val) ∧
    (c.state = .idle ∨ c.state = .halted → Completes (.dmaAbort k n) s fun e =>
      s.dev.rejected e (pgDMA + k) o eSTATE ∧ e.dma = s.dev.dma)) ∧
  (∀ (s : State) (k : Fin 4) (n len : Nat) (x : Desc) (host : Tab Byte) (pois : List Nat) (a : Nat) (h : Bool),
    s.dev.executes k n x len → s.dev.chBudget k n ≠ 0 → (s.dev.dch k n).off + len < x.len →
    let c := s.dev.dch k n
    let va := fun (v : BitVec 64) => v + BitVec.ofNat 64 c.off
    (∀ l : List Byte, x.op = 0 → l.length = len → s.dev.engReads k n host pois (va x.src) l →
      s.dev.engWrites k n (va x.dst) len a h → Completes (.descCopy k len host pois) s fun e =>
        (e.dch k n).off = c.off + len ∧ (e.dch k n).state = c.state ∧
          if h then .hostWr a l ∈ e.sys.out ∧ e.mem = s.dev.mem else s.dev.stored e a l) ∧
    (x.op = 1 → s.dev.engWrites k n (va x.dst) len a h → Completes (.descFill k len host pois) s fun e =>
      ∃ l : List Byte, l.length = len ∧ (∀ i < len, l[i]? = some (BitVec.ofNat 8 (x.pattern.toNat / 2 ^ (8 * ((x.dst.toNat + c.off + i) % 8))))) ∧
        (e.dch k n).off = c.off + len ∧ (e.dch k n).state = c.state ∧
        if h then .hostWr a l ∈ e.sys.out ∧ e.mem = s.dev.mem else s.dev.stored e a l) ∧
    ∀ l m : List Byte, x.op = 2 → l.length = len → m.length = len → s.dev.engReads k n host pois (va x.src) l →
      s.dev.engReads k n host pois (va x.dst) m → Completes (.descCompare k len host pois) s fun e =>
        (e.dch k n).off = c.off + len ∧ e.mem = s.dev.mem ∧
          (l = m → (e.dch k n).mis = c.mis) ∧
          ∀ i < len, l.take i = m.take i → l[i]? ≠ m[i]? → c.mis = none → (e.dch k n).mis = some (c.off + i)) ∧
  (∀ (s : State) (k : Fin 4) (n : Nat) (x : Desc) (l : List Byte), s.dev.unitOn (pgDMA + k) = true →
    (s.dev.eng k).active = some n → (s.dev.dch k n).desc = some x → (s.dev.dch k n).reading = true →
    (s.dev.dch k n).stalled = false → s.dev.fabDrains (1 + k) = false → (s.dev.dch k n).pois = none → (s.dev.dch k n).mis = none →
    l.length = 4 → s.dev.engReads k n [] [] ((x.dst + BitVec.ofNat 64 (x.len - 1)) &&& ~~~3) l → Completes (.readbackDone k) s fun e =>
      let c := s.dev.dch k n
      (x.last = false → (e.dch k n).idx = c.idx + 1 ∧ (e.dch k n).cur = x.next ∧ (e.dch k n).off = 0 ∧ (e.dch k n).desc = none ∧
        (e.dch k n).reading = false) ∧
      (x.last = true → (s.dev.eng k).urgent = [] → (s.dev.eng k).susp = none → (s.dev.eng k).bulk = [] →
        (e.dch k n).state = .idle ∧ (e.dch k n).code = 0 ∧ (e.eng k).active = none)) ∧
  (∀ (s : State) (k : Fin 4) (n u : Nat) (t : List Nat) (host : Tab Byte) (pois : List Nat), s.dev.unitOn (pgDMA + k) = true →
    s.dev.dmaActive k = some n → (s.dev.dch k n).state = .active → s.dev.chUrgent k n = false → (s.dev.eng k).urgent = u :: t → u ≠ n →
    (∀ x, (s.dev.dch k n).desc = some x → toBoundary x (s.dev.dch k n).off = 0) → Completes (.chainPreempt k host pois) s fun e =>
      (e.dch k n).state = .suspended ∧ (e.eng k).susp = some n ∧ (e.eng k).active = some u ∧ (e.dch k u).state = .active ∧
        (e.eng k).urgent = t) ∧
  (∀ (s : State) (k n : Fin 4), s.dev.unitOn (pgDMA + k) = true →
    (s.dev.dch k n).state = .active ∨ (s.dev.dch k n).state = .suspended → Completes (.pcieCompletionTimeout k n) s fun e =>
      (e.dch k n).state = .halted ∧ (e.dch k n).code = 0x21) ∧
  ∀ (s : State) (m : Fin 14) (q : FabReq), s.dev.unitOn pgFAB = true →
    (s.dev.fab.waiting.find? fun q => q.master == m.val && s.dev.fabLate q.at_) = some q →
    (m.val = 0 ∨ 4 < m.val → Completes (.fabricTimeout m) s fun e => e.fab.waiting = s.dev.fab.waiting.erase q ∧
      e.fab.lasterr = at_ 0 m.val ||| at_ 4 q.target ||| at_ 6 3) ∧
    ∀ n, 1 ≤ m.val → m.val ≤ 4 → ((List.range 4).find? fun n => (s.dev.dch (m.val - 1) n).stalled) = some n →
      Completes (.fabricTimeout m) s fun e => (e.dch (m.val - 1) n).state = .halted ∧ (e.dch (m.val - 1) n).code = 0x21

/-- The MMU and the fabric. An invalidation is taken while none is busy, else it is rejected with E_BUSY; when it is done no
translation that it covers is left, BUSY falls and INVDONE is raised (R398, R404). A host read through BAR2 returns the bytes of device memory, a
host write stores its bytes there and nowhere else (R383). An atomic stores old + operand, or the operand, modulo the size,
returns the old bytes and changes no other byte (R376). A late response is discarded and counted (R379); a port that drains for 16 µs returns
to IDLE and raises DRAINTO (R381). -/
def Obligations.MmuAndFabricServe : Prop :=
  (∀ s : State, s.dev.takes pgMMU 0x1010 = true →
    let va := cat64 (s.dev.reg (bar pgMMU 0x1018)) (s.dev.reg (bar pgMMU 0x1014))
    (s.dev.mmu.inv = none → ∀ ctx : Fin 64,
      Completes (.invalidateContext ctx) s (fun e => e.mmu = { s.dev.mmu with inv := some (1, ctx.val, va) }) ∧
      Completes (.invalidatePage ctx) s (fun e => e.mmu = { s.dev.mmu with inv := some (2, ctx.val, va) }) ∧
      Completes .invalidateAll s fun e => e.mmu = { s.dev.mmu with inv := some (3, 0, va) }) ∧
    (s.dev.mmu.inv ≠ none → Completes .invalidateAll s fun e => s.dev.rejected e pgMMU 0x1010 eBUSY ∧ e.mmu = s.dev.mmu)) ∧
  (∀ (s : State) (cmd ctx : Nat) (va : BitVec 64), s.dev.unitOn pgMMU = true → s.dev.mmu.inv = some (cmd, ctx, va) →
    Completes .invalidationDone s fun e => e.mmu.inv = none ∧ e.mmu.done = s.dev.mmu.done + 1 ∧
      bitAt 1 (e.page pgMMU).pirq = true ∧
      (∀ t ∈ e.mmu.tlb, cmd ≠ 3 ∧ ¬ (cmd = 1 ∧ t.ctx = ctx) ∧ ¬ (t.ctx = ctx ∧ t.vpn = va.toNat / 4096)) ∧
      ∀ t ∈ s.dev.mmu.tlb, cmd ≠ 3 → t.ctx ≠ ctx → t ∈ e.mmu.tlb) ∧
  (∀ (s : State) (a : BitVec 38) (len : Fin 4097), s.dev.takes2 = true → whereIs a.toNat = .mem → a.toNat + len ≤ memBytes →
    s.dev.memServes = true → s.dev.badIn a.toNat len = [] → Completes (.hostInboundRead a len [] []) s fun e =>
      .bytes (s.dev.bytes a.toNat len) false ∈ e.sys.out ∧ e.mem = s.dev.mem) ∧
  (∀ (s : State) (a : BitVec 38) (l : List Byte), s.dev.takes2 = true → l ≠ [] → whereIs a.toNat = .mem →
    a.toNat + l.length ≤ memBytes → s.dev.memServes = true → s.dev.badIn a.toNat l.length = [] →
    s.dev.refusedAt 0 a.toNat l.length = none → Completes (.hostInboundWrite a l false) s fun e => s.dev.stored e a.toNat l) ∧
  (∀ (s : State) (a : BitVec 38) (wide : Bool) (v : BitVec 64), s.dev.unitOn pgFAB = true →
    let w := if wide then 8 else 4
    let old := leNat (s.dev.bytes a.toNat w)
    a.toNat % w = 0 → a.toNat + w ≤ memBytes → s.dev.memServes = true → s.dev.badIn a.toNat w = [] →
    s.dev.refusedAt 5 a.toNat w = none →
    Completes (.atomicAdd a wide v) s (fun e => s.dev.stored e a.toNat (leBytes w ((old + v.toNat) % 2 ^ (8 * w))) ∧
      .bytes (s.dev.bytes a.toNat w) false ∈ e.sys.out) ∧
    Completes (.atomicSwap a wide v) s fun e => s.dev.stored e a.toNat (leBytes w (v.toNat % 2 ^ (8 * w))) ∧
      .bytes (s.dev.bytes a.toNat w) false ∈ e.sys.out) ∧
  (∀ (s : State) (k : Nat), s.dev.unitOn pgFAB = true → s.dev.fab.late = k + 1 → Completes .lateResponse s fun e =>
    e.fab.late = k ∧ e.cnt pgFAB 0x110 = s.dev.cnt pgFAB 0x110 + 1) ∧
  ∀ (s : State) (m : Fin 14) (t : BitVec 64), s.dev.unitOn pgFAB = true → Tab.get none s.dev.fab.draining m = some t →
    16000 ≤ (s.dev.time.loc - t).toNat → Completes (.portDrainTimeout m) s fun e =>
      Tab.get none e.fab.draining m = none ∧ bitAt 3 (e.page pgFAB).pirq = true ∧
        e.fab.waiting = s.dev.fab.waiting.filter (·.master != m.val)

/-- References, the loop and its outputs. A good edge of a DISQUALIFIED reference makes it QUALIFYING, a failing monitor
disqualifies at once, and a good edge of the selected one gives the loop its phase error (R407, R409, R410). The second missing edge in
a row disqualifies (R407). After 10 s without a failure a reference is QUALIFIED (R409). A switch is complete when |e| has
stayed below 1 ns for 1 s: LOCKED, SWDONE (R415). Equal candidates that disagree are excluded, both where the yardstick does
not tell them apart, until they agree again (R413). LOOPCTL.SW opens the loop, and FREQADJ then sets its frequency (R419). PHSTEP moves
the output and every SYNCOUT, and only where R420 allows it. OUTALIGN makes an output wait for its edge, where it is aligned; a
write of OUTCFG takes effect and clears ALIGNED; a SYNCOUT emits its pulses (R423, R424). -/
def Obligations.ClockUnitFollowsItsReferences : Prop :=
  (∀ (s : State) (i : Fin 8) (f x j p : Int), s.dev.unitOn pgCLK = true → (s.dev.ref i).en = true → i ≠ 6 →
    s.dev.swStamped i = false →
    let r := s.dev.ref i
    (50000000 < x.natAbs → Completes (.referenceEdge i f x j p) s fun e => (e.ref i).state = .disqualified) ∧
    (i ≠ 7 → 20000 < j.natAbs → Completes (.referenceEdge i f x j p) s fun e => (e.ref i).state = .disqualified) ∧
    (f.natAbs ≤ 2000000 → x.natAbs ≤ 50000000 → j.natAbs ≤ 20000 →
      (r.state = .disqualified → Completes (.referenceEdge i f x j p) s fun e =>
        (e.ref i).state = .qualifying ∧ (e.ref i).since = s.dev.time.loc ∧ (e.ref i).missing = 0) ∧
      (r.state = .qualified → s.dev.clk.sel = some i.val → Completes (.referenceEdge i f x j p) s fun e =>
        e.clk.err = -p ∧ (e.ref i).state = .qualified))) ∧
  (∀ (s : State) (i : Fin 8), s.dev.unitOn pgCLK = true → (s.dev.ref i).en = true →
    ((s.dev.ref i).missing = 0 → Completes (.referenceEdgeMissing i) s fun e =>
      (e.ref i).missing = 1 ∧ (e.ref i).state = (s.dev.ref i).state) ∧
    (0 < (s.dev.ref i).missing → Completes (.referenceEdgeMissing i) s fun e =>
      (e.ref i).state = .disqualified ∧ (e.ref i).cause = 1)) ∧
  (∀ (s : State) (i : Fin 8), s.dev.unitOn pgCLK = true → (s.dev.ref i).state = .qualifying →
    10 * 10 ^ 9 ≤ (s.dev.time.loc - (s.dev.ref i).since).toNat → Completes (.referenceQualified i) s fun e =>
      (e.ref i).state = .qualified) ∧
  (∀ (s : State) (t : BitVec 64), s.dev.unitOn pgCLK = true → s.dev.clk.loop = .switching → s.dev.clk.lowSince = some t →
    10 ^ 9 ≤ (s.dev.time.loc - t).toNat → Completes .switchComplete s fun e =>
      e.clk.loop = .locked ∧ bitAt 4 (e.page pgCLK).pirq = true ∧ e.clk.recTemp = s.dev.pwr.tj) ∧
  (∀ (s : State) (i j : Fin 8) (fi fj : Int), s.dev.unitOn pgCLK = true → i ≠ j → i ≠ 7 → j ≠ 7 →
    (s.dev.ref i).state = .qualified → (s.dev.ref j).state = .qualified → (s.dev.ref i).prio ≠ 0 →
    (s.dev.ref i).prio = (s.dev.ref j).prio → (s.dev.ref i).ql = (s.dev.ref j).ql →
    (2000000 < (fi - fj).natAbs → s.dev.yardHox = false → Completes (.disagreeCheck i j fi fj) s fun e =>
      j.val ∈ (e.ref i).excl ∧ i.val ∈ (e.ref j).excl ∧ e.clk.disagree = true) ∧
    (2000000 < (fi - fj).natAbs → s.dev.yardHox = true → fi.natAbs ≤ 2000000 → 2000000 < fj.natAbs →
      Completes (.disagreeCheck i j fi fj) s fun e => j.val ∉ (e.ref i).excl ∧ i.val ∈ (e.ref j).excl) ∧
    ((fi - fj).natAbs ≤ 2000000 → Completes (.disagreeCheck i j fi fj) s fun e =>
      j.val ∉ (e.ref i).excl ∧ i.val ∉ (e.ref j).excl)) ∧
  (∀ s : State, s.dev.takes pgCLK 0x1044 = true →
    (s.dev.loopSw = false → Completes (.loopctlSwWrite 1) s fun e => e.clk.loop = .software ∧ e.clk.freq = s.dev.clk.freq) ∧
    (s.dev.loopSw = true → s.dev.clk.sel = none → Completes (.loopctlSwWrite 0) s fun e => e.clk.loop = .holdover) ∧
    (∀ i, s.dev.loopSw = true → s.dev.clk.sel = some i → Completes (.loopctlSwWrite 0) s fun e =>
      e.clk.loop = .switching ∧ e.clk.sel = some i)) ∧
  (∀ (s : State) (v : Word), s.dev.takes pgCLK 0x1048 = true →
    (s.dev.loopSw = true → v.toInt.natAbs ≤ 219902325 → Completes (.freqadjWrite v) s fun e => e.clk.freq = v.toInt) ∧
    (219902325 < v.toInt.natAbs → Completes (.freqadjWrite v) s fun e =>
      s.dev.rejected e pgCLK 0x1048 eRANGE ∧ e.clk = s.dev.clk)) ∧
  (∀ (s : State) (v : Word), s.dev.takes pgCLK 0x104C = true →
    (s.dev.sys.state = .booting ∨ s.dev.sys.state = .selftest ∨ s.dev.sys.state = .recovery → Completes (.phstepWrite v) s fun e =>
      e.clk.err = s.dev.clk.err + 4 * v.toInt ∧ e.clk.loop = s.dev.clk.loop ∧
        ∀ n, n < 4 → (e.outp n).err = (s.dev.outp n).err + 4 * v.toInt) ∧
    (s.dev.sys.state ≠ .booting → s.dev.sys.state ≠ .selftest → s.dev.sys.state ≠ .recovery → Completes (.phstepWrite v) s fun e =>
      s.dev.rejected e pgCLK 0x104C eSTATE ∧ e.clk = s.dev.clk)) ∧
  (∀ (s : State) (v : BitVec 6), s.dev.takes pgCLK 0x1050 = true →
    (∀ i, i < 6 → v.getLsbD i = true → s.dev.noAlign i = false) → Completes (.outalignWrite (v.setWidth 32)) s fun e =>
      ∀ i, i < 6 → if v.getLsbD i = true ∧ (s.dev.outp i).mode ≠ 0 then (e.outp i).aligned = false ∧ (e.outp i).wait = some (s.dev.alignEdge i)
        else e.outp i = s.dev.outp i) ∧
  (∀ (s : State) (i : Fin 6), s.dev.unitOn pgCLK = true →
    ((∃ t, (s.dev.outp i).wait = some (.array t) ∧ t ≤ s.dev.time.arr.toNat * 2 ^ 16) ∨
      (∃ f, (s.dev.outp i).wait = some (.sfn f) ∧ atOrAfter s.dev.time.sfn f = true)) → Completes (.alignmentEdge i) s fun e =>
        (e.outp i).aligned = true ∧ (e.outp i).wait = none ∧
          (i.val < 4 → (e.outp i).pulses = (s.dev.outp i).pulses + 1)) ∧
  (∀ (s : State) (v : Word), s.dev.takes pgCLK 0x1074 = true → s.dev.outErrs s.dev.clk.outIdx { s.dev.outp s.dev.clk.outIdx with cfg := v } = [] →
    Completes (.outcfgWrite 0 v) s fun e => (e.outp s.dev.clk.outIdx).cfg = v ∧ (e.outp s.dev.clk.outIdx).aligned = false ∧
      ∀ i, i ≠ s.dev.clk.outIdx → e.outp i = s.dev.outp i) ∧
  ∀ (s : State) (i : Fin 6), s.dev.unitOn pgCLK = true → i.val < 4 → (s.dev.outp i).mode ≠ 0 → (s.dev.outp i).wait = none →
    Completes (.syncoutPulse i) s fun e => (e.outp i).pulses = (s.dev.outp i).pulses + 1 ∧
      e.sys.out = .land (outName i) false :: .land (outName i) true :: s.dev.sys.out

/-- A write of 1 to `TIME.SNAP` latches all four bases in the same cycle into the SNAP registers; SNAPGEN increments and READY is
set; nothing else of the time bases changes (R436). -/
def Obligations.SnapLatchesTheTimeBases : Prop := ∀ s : State, s.dev.takes pgTIME 0x1000 = true → Completes .snap s fun e =>
  let t := s.dev.time
  e.time = { t with snap := { gen := t.snap.gen + 1, ready := true, arr := t.arr, frac := t.arrFrac, sfn := t.sfn, loc := t.loc
                              peer := t.peer } }

/-- The time bases. A legal write of BASECFG takes its value, and one of SAMPLE's is rejected
with E_STATE in a run (R432, R434). A measurement of ARRAY's PTP master takes the permitted step, or sets the rate within ±200 ppm and steps nothing
(R432). SAMPLE within 1 ns of S* tracks again (R434). Arming an alarm clears its status, and it fires at once where its value
is past; an armed alarm that is due fires, and reloads where it is periodic (R437). The timing ports keep what the servo makes of a message,
stamp what they send, drop and count what they do not accept, and show the link (R440, R441, R453). A monitor slot port starts
a frame on an FS edge and a slave that loses its clock waits in CLKLOSS (R444, R447); a monitor word takes the host's value, but
a read-only one rejects it (R445). -/
def Obligations.TimeAndPortsAdvance : Prop :=
  (∀ (s : State) (v : Word), s.dev.takes pgTIME 0x1044 = true →
    (baseCfgErrs s.dev s.dev.time.baseIdx v = [] → s.dev.time.baseIdx < 4 → Completes (.basecfgWrite v) s fun e =>
      (e.time.base s.dev.time.baseIdx).cfg = v ∧ e.time.loc = s.dev.time.loc) ∧
    (s.dev.time.baseIdx = 1 → noStepState s.dev.sys.state = true → v &&& 0xFFF800F8 = 0 → fld 2 0 v ≤ 1 → 1 ≤ fld 18 8 v →
      fld 18 8 v ≤ 1024 → Completes (.basecfgWrite v) s fun e => s.dev.rejected e pgTIME 0x1044 eSTATE ∧ e.time = s.dev.time)) ∧
  (∀ (s : State) (v : BitVec 64) (f : Int), s.dev.unitOn pgTIME = true → s.dev.time.baseArr.mvalid = true →
    s.dev.time.baseArr.master = 1 ∨ s.dev.time.baseArr.master = 2 →
    (s.dev.time.baseArr.stepPend = true → Completes (.masterMeasurement 0 v f) s fun e =>
      e.time.arr = v ∧ e.time.baseArr.stepPend = false ∧ e.time.baseArr.steps = s.dev.time.baseArr.steps + 1 ∧
        e.time.baseArr.state = .tracking) ∧
    (s.dev.time.baseArr.stepPend = false → Completes (.masterMeasurement 0 v f) s fun e =>
      e.time.arr = s.dev.time.arr ∧ -219902325 ≤ e.time.baseArr.rate ∧ e.time.baseArr.rate ≤ 219902325 ∧
        (v = s.dev.time.arr → -219902325 ≤ f → f ≤ 219902325 → e.time.baseArr.rate = f))) ∧
  (∀ s : State, s.dev.unitOn pgTIME = true → s.dev.time.baseSmp.state = .slewing →
    (s.dev.time.periodsNs s.dev.time.sampleErr).natAbs < 1 → Completes .sampleSlewDone s fun e =>
      e.time.baseSmp.state = .tracking ∧ bitAt 3 (e.page pgTIME).pirq = true ∧ e.time.sfn = s.dev.time.sfn) ∧
  (∀ (s : State) (n : Fin 8) (v : Word), s.dev.takes pgTIME (0x1100 + 0x20 * n.val) = true → v &&& ~~~(0x33 : Word) = 0 →
    bitAt 4 v = true →
    let a := Tab.get ({} : Alarm) s.dev.time.alarms n
    let late := reached (fld 1 0 v) (s.dev.time.now (fld 1 0 v)) a.val
    (late = false → bitAt 5 v = false ∨ a.per ≠ 0 → Completes (.almctlWrite n v) s fun e =>
      Tab.get {} e.time.alarms n = { a with ctl := v, fired := false, stepped := false, late := false, missed := 0 }) ∧
    (late = true → bitAt 5 v = false → Completes (.almctlWrite n v) s fun e =>
      (Tab.get ({} : Alarm) e.time.alarms n).fired = true ∧ (Tab.get ({} : Alarm) e.time.alarms n).late = true ∧
        bitAt 2 (e.page pgTIME).pirq = true)) ∧
  (∀ (s : State) (n : Fin 8), s.dev.unitOn pgTIME = true →
    let a := Tab.get ({} : Alarm) s.dev.time.alarms n
    bitAt 4 a.ctl = true → reached (fld 1 0 a.ctl) (s.dev.time.now (fld 1 0 a.ctl)) a.val = true → Completes (.alarmFire n) s fun e =>
      let b := Tab.get ({} : Alarm) e.time.alarms n
      b.fired = true ∧ bitAt 2 (e.page pgTIME).pirq = true ∧ (bitAt 5 a.ctl = true → b.val = a.val + a.per ∧ b.ctl = a.ctl) ∧
        ∀ k, k ≠ n.val → Tab.get ({} : Alarm) e.time.alarms k = Tab.get {} s.dev.time.alarms k) ∧
  (∀ (s : State) (p : Fin 2) (raw : Nat), s.dev.unitOn pgETH = true → bitAt 0 (s.dev.eport p).ctl = true →
    (s.dev.eport p).link = true →
    (∀ x : PtpResult, Completes (.ptpMessageRx p raw (some x)) s fun e =>
      (e.eport p).delay = x.delay ∧ (e.eport p).gmid = x.gmid ∧ (e.eport p).gmqual = x.gmqual ∧
        (e.eport p).offset = BitVec.ofInt 32 (x.offset - (s.dev.eport p).asym.toInt / 250) ∧
        ((s.dev.eport p).gmid ≠ x.gmid → bitAt (2 + p.val) (e.page pgETH).pirq = true)) ∧
    Completes (.ptpMessageRx p raw none) s (fun e => (e.eport p).offset = (s.dev.eport p).offset ∧ (e.eport p).gmid = (s.dev.eport p).gmid ∧
      e.cnt pgETH (0x118 + 0x40 * p.val) = s.dev.cnt pgETH (0x118 + 0x40 * p.val) + 1) ∧
    Completes (.ethFrameDrop p) s (fun e => e.eth = s.dev.eth ∧
      e.cnt pgETH (0x110 + 0x40 * p.val) = s.dev.cnt pgETH (0x110 + 0x40 * p.val) + 1) ∧
    (∀ l, Completes (.ptpEventTx p raw l) s fun e => e.sys.out = .eth p l :: s.dev.sys.out ∧
      (s.dev.swts p = false → (e.eport p).txStamp = raw + (if bitAt 1 (s.dev.eport p).ctl then 24600 else 58200))) ∧
    Completes (.ethLinkChange p false) s fun e => (e.eport p).link = false ∧ bitAt p.val (e.page pgETH).pirq = true) ∧
  (∀ (s : State) (n : Fin 4) (ws : List Word), s.dev.unitOn pgMSP = true → (s.dev.mport n).en = true →
    ((s.dev.mport n).state = .run → (s.dev.mport n).next = none → (s.dev.mport n).words.length < 255 → 0 < (s.dev.mport n).frame →
      Completes (.mspFrameStart n ws) s fun e => (e.mport n).state = .run ∧ (e.mport n).frame = (s.dev.mport n).frame + 1 ∧
        (e.mport n).words.length = (s.dev.mport n).words.length + 1) ∧
    ((s.dev.mport n).state = .clkloss → (s.dev.mport n).words.length < 256 → Completes (.mspFrameStart n ws) s fun e => (e.mport n).state = .run) ∧
    (bitAt 1 (s.dev.mport n).cfg = true → (s.dev.mport n).state = .run → Completes (.mspClkloss n) s fun e =>
      (e.mport n).state = .clkloss ∧ bitAt (4 + n.val) (e.page pgMSP).pirq = true ∧ (e.mport n).words = [])) ∧
  ∀ (s : State) (w : Fin 256) (v : Word), s.dev.takes pgMSP (0xC000 + 4 * w.val) = true →
    (w.val < 224 → s.dev.grantHeld 3 = false → Completes (.monwordWrite w v) s fun e => Tab.get 0 e.monword w = v ∧
      ∀ k, k ≠ w.val → Tab.get 0 e.monword k = Tab.get 0 s.dev.monword k) ∧
    (224 ≤ w.val → Completes (.monwordWrite w v) s fun e =>
      s.dev.rejected e pgMSP (0xC000 + 4 * w.val) ePERM ∧ e.monword = s.dev.monword)

/-- The pair's messages. HEARTBEAT, GRANT and DIGEST leave with the next SEQ (R463, R466, R470); a message unacknowledged for 50 µs
is repeated, and after 20 tries given up (R464). The first copy of an admitted message acts: a HEARTBEAT tells the partner's
state and is compared (R467), a GRANT extends an owner's lease (R470), a mirrored TICKET is armed or refused with MIRROR, a STOP fixes B_last, a
THRESH fragment goes into the shadow (R467), a WATERMARK that meets the module's own record gives MATCH or MISMATCH (R472), an
ACK ends the repetition (R464), a DIGEST sets CFGDIFF (R467). A HANDOFF gives an eligible standby ownership when OWN_IN is low (R460). A record that waits 1 s for its counterpart
is given up as NOCOMPARE (R472). -/
def Obligations.PairMessagesAreSentAndTaken : Prop :=
  (∀ s : State, s.dev.unitOn pgPAIR = true →
    (s.dev.paired = true → Completes .heartbeatSend s (fun e => s.dev.sendsCtrl e 1 0 s.dev.hbBody) ∧
      Completes .digestSend s fun e => s.dev.sendsCtrl e 9 0
        ((List.range 5).flatMap fun i => leBytes 2 (s.dev.cfgTicket i).toNat ++ leBytes 8 (s.dev.cfgCrc i).toNat)) ∧
    (s.dev.pair.lease = true → s.dev.pair.state.standby = true → s.dev.within s.dev.pair.hbAt 1000000 = true →
      Completes .grantSend s fun e => s.dev.sendsCtrl e 2 s.dev.pair.hbSeq.toNat []) ∧
    ∀ m : Unacked, s.dev.pair.unacked = [m] → 50000 ≤ s.dev.since m.at_ →
      (m.tries < 20 → Completes .ctrlRetransmit s fun e =>
        e.pair.unacked = [{ m with tries := m.tries + 1, at_ := s.dev.time.loc }] ∧
          ∀ l, s.dev.pairLanes = [l] → s.dev.txOn l = true → e.sys.out = .frame l (s.dev.ctrlFrame l m.seq m.body) :: s.dev.sys.out) ∧
      (20 ≤ m.tries → Completes .ctrlRetransmit s fun e => e.pair.unacked = [] ∧ e.sys.out = s.dev.sys.out ∧
        (s.dev.pair.state = .ready → e.pair.state = .matching ∧ e.pair.streak = 0))) ∧
  (∀ (s : State) (l : Fin 256) (fr : List Byte), s.dev.hearsCtrl l fr 1 → Completes (.heartbeatRx l fr) s fun e =>
    e.pair.hbAt = some s.dev.time.loc ∧ e.pair.hbSeq = frSeq fr ∧ e.pair.linkUp = true ∧
      e.pair.peerP = BitVec.ofNat 8 (ctrlAt fr 1 1) ∧ e.pair.peerS = BitVec.ofNat 8 (ctrlAt fr 2 1) ∧
      (∀ p, s.dev.plt.active = some p → e.pair.platediff = decide (p.hash.toNat ≠ beNat (slice fr 40 32)))) ∧
  (∀ (s : State) (l : Fin 256) (fr : List Byte), s.dev.hearsCtrl l fr 2 → s.dev.pair.state = .owner → s.dev.pair.lease = true →
    Completes (.grantRx l fr) s fun e => e.pair.leaseEnd = some (s.dev.time.loc + 1000000) ∧ e.pair.state = .owner) ∧
  (∀ (s : State) (l : Fin 256) (fr : List Byte), s.dev.hearsCtrl l fr 3 → s.dev.eligibleNoLink = true →
    (s.dev.pair.ownIn = false → Completes (.handoffRx l fr) s fun e =>
      e.owns (max (max s.dev.epoch s.dev.pair.peerEpoch.toNat) (frEpoch fr).toNat + 1)) ∧
    (s.dev.pair.ownIn = true → s.dev.pair.lease = false → Completes (.handoffRx l fr) s fun e =>
      e.pair.state = .ready ∧ e.pair.handoffRx = true)) ∧
  (∀ (s : State) (l : Fin 256) (fr : List Byte), s.dev.hearsCtrl l fr 4 →
    let p := ctrlAt fr 8 1
    let w := ctrlAt fr 9 1
    let num := BitVec.ofNat 16 (ctrlAt fr 10 2)
    let t := BitVec.ofNat 48 (ctrlAt fr 12 6)
    let errs := s.dev.mirrorErrs p num w t (BitVec.ofNat 64 (ctrlAt fr 24 8))
    ¬ (p = pgTRG ∧ w = 1) → isLnb p = false →
    (errs = [] → Completes (.ticketRx l fr) s fun e =>
      (e.page p).armed = some { num := num, when := w, target := t, mirrored := true } ∧ e.pair.txSeq = s.dev.pair.txSeq + 1) ∧
    (errs ≠ [] → Completes (.ticketRx l fr) s fun e => (e.page p).armed = (s.dev.page p).armed ∧ bitAt 5 (e.page pgPAIR).pirq = true ∧
      (s.dev.pair.state = .ready → e.pair.state = .matching))) ∧
  (∀ (s : State) (l : Fin 256) (fr : List Byte), s.dev.hearsCtrl l fr 5 → ctrlAt fr 8 1 = 0x11 → s.dev.pair.state.standby = true →
    s.dev.sys.state = .running → s.dev.run.bLast = none →
    let b := BitVec.ofNat 48 (ctrlAt fr 12 4 + 2 ^ 32 * (ctrlAt fr 16 4 % 65536))
    after b s.dev.time.sfn = true → Completes (.commandRx l fr) s fun e => e.run.bLast = some b) ∧
  (∀ (s : State) (l : Fin 256) (fr : List Byte), s.dev.hearsCtrl l fr 6 → s.dev.pair.state.standby = true →
    (s.dev.page pgTRG).locked = false → ctrlAt fr 8 2 < 16 → s.dev.pair.thrWait = none → Completes (.threshRx l fr) s fun e =>
      e.trg.sh = tblPut s.dev.trg.sh (s.dev.req.oThr + 64 * ctrlAt fr 8 2) (slice fr 48 64) ∧ e.trg.tbls = s.dev.trg.tbls) ∧
  (∀ (s : State) (l : Fin 256) (fr : List Byte) (a : WmRec), s.dev.hearsCtrl l fr 7 → ctrlAt fr 14 1 % 2 = 0 → a.bad = false →
    s.dev.pair.own.find? (·.first == BitVec.ofNat 48 (ctrlAt fr 8 6)) = some a → s.dev.pair.peers = [] →
    Completes (.watermarkRx l fr) s fun e => e.pair.wmCount = s.dev.pair.wmCount + 1 ∧ e.pair.peers = [] ∧
      if a.wm = BitVec.ofNat 64 (ctrlAt fr 16 8) then e.pair.wmOutcome = 0 ∧ e.pair.streak = min 3 (s.dev.pair.streak + 1)
      else e.pair.wmOutcome = 1 ∧ e.pair.streak = 0 ∧ bitAt 1 (e.page pgPAIR).pirq = true) ∧
  (∀ (s : State) (l : Fin 256) (fr : List Byte), s.dev.hearsCtrl l fr 8 → Completes (.ackRx l fr) s fun e =>
    e.pair.unacked = s.dev.pair.unacked.filter fun m => m.seq.toNat != ctrlAt fr 4 2) ∧
  (∀ (s : State) (l : Fin 256) (fr : List Byte), s.dev.hearsCtrl l fr 9 → Completes (.digestRx l fr) s fun e =>
    ∀ i, i < 5 → e.pair.cfgdiff.getLsbD i = (decide ((s.dev.cfgTicket i).toNat = ctrlAt fr (8 + 10 * i) 2) &&
      decide ((s.dev.cfgCrc i).toNat ≠ ctrlAt fr (10 + 10 * i) 8))) ∧
  ∀ (s : State) (w : WmRec), s.dev.unitOn pgPAIR = true →
    s.dev.pair.own.find? (fun w => decide (1000000000 ≤ s.dev.since w.at_)) = some w →
    Completes .watermarkCompareTimeout s fun e => e.pair.wmOutcome = 2 ∧
      e.pair.own = s.dev.pair.own.filter (·.first != w.first) ∧ e.cnt pgPAIR 0x128 = s.dev.cnt pgPAIR 0x128 + 1

/-- Ownership of the pair. The level of OWN_IN is seen, and its fall is timed in a standby (R458, R460). 4 µs without HANDOFF
mark a lost owner (R460); 300 µs without a CTRL frame after that give ownership to an eligible module with AUTO (R462). 1 ms without a
CTRL frame is link down (R465, R468). An owner whose lease has ended yields, and in lease mode a silent partner is taken over from
(R470). An interlock fault enters lease mode; ILRESET starts a recheck, and a clean second ends lease mode (R469, R471). After
a HANDOVER the owner sends HANDOFF and lowers OWN_OUT (R460). -/
def Obligations.PairOwnershipMoves : Prop :=
  (∀ s : State, s.dev.unitOn pgPAIR = true → s.dev.calm = true →
    (s.dev.pair.ownIn = false → Completes (.ownInChange true) s fun e => e.pair.ownIn = true ∧ e.pair.fellAt = none) ∧
    (s.dev.pair.ownIn = true → s.dev.pair.state.standby = true → s.dev.pair.handoffRx = false →
      Completes (.ownInChange false) s fun e => e.pair.ownIn = false ∧ e.pair.fellAt = some s.dev.time.loc ∧
        e.pair.state = s.dev.pair.state) ∧
    (s.dev.pair.ownIn = true → s.dev.pair.handoffRx = true → s.dev.eligible = true → Completes (.ownInChange false) s fun e =>
      e.owns (max s.dev.epoch s.dev.pair.peerEpoch.toNat + 1))) ∧
  (∀ (s : State) (t : BitVec 64), s.dev.unitOn pgPAIR = true → s.dev.calm = true → s.dev.pair.fellAt = some t →
    s.dev.pair.handoffRx = false →
    (4000 ≤ s.dev.since t → Completes .handoffTimeout s fun e => e.pair = { s.dev.pair with handoffTimeout := true }) ∧
    (300000 ≤ s.dev.since t → s.dev.within s.dev.pair.ctrlAt 299999 = false → s.dev.eligible = true → s.dev.pairAuto = true →
      s.dev.pair.lease = false → s.dev.pair.ownIn = false → Completes .ownerSilenceTimeout s fun e =>
        e.owns (max s.dev.epoch s.dev.pair.peerEpoch.toNat + 1) ∧ e.cnt pgPAIR 0x138 = s.dev.cnt pgPAIR 0x138 + 1)) ∧
  (∀ s : State, s.dev.unitOn pgPAIR = true → s.dev.calm = true → s.dev.pair.linkUp = true →
    s.dev.within s.dev.pair.ctrlAt 999999 = false → s.dev.pair.lease = false → Completes .pairLinkDown s fun e =>
      e.pair.linkUp = false ∧ bitAt 3 (e.page pgPAIR).pirq = true ∧
        (s.dev.pair.state = .ready → e.pair.state = .matching ∧ e.pair.streak = 0)) ∧
  (∀ s : State, s.dev.unitOn pgPAIR = true → s.dev.calm = true → s.dev.paired = true → s.dev.pair.state = .owner →
    (s.dev.pair.lease = true → s.dev.leaseHeld = false → Completes .leaseExpire s fun e =>
      e.pair.state = .ready ∧ e.pair.ownOut = false ∧ e.cnt pgPAIR 0x140 = s.dev.cnt pgPAIR 0x140 + 1 ∧ e.mayPublish = false) ∧
    (s.dev.pair.handing = true → Completes .handoffSend s fun e =>
      e.pair.state = .ready ∧ e.pair.ownOut = false ∧ e.pair.handing = false ∧ .land "OWN_OUT" false ∈ e.sys.out)) ∧
  (∀ s : State, s.dev.unitOn pgPAIR = true → s.dev.pair.lease = true → s.dev.pairAuto = true → s.dev.eligibleNoLink = true →
    s.dev.within s.dev.pair.hbAt 999999 = false → Completes .leaseSilenceTakeover s fun e =>
      e.owns (max s.dev.epoch s.dev.pair.peerEpoch.toNat + 1) ∧ e.pair.bySilence = true) ∧
  (∀ s : State, s.dev.unitOn pgPAIR = true → s.dev.calm = true → s.dev.paired = true → Completes .interlockFault s fun e =>
    e.pair.ilfault = true ∧ e.pair.lease = true ∧ e.pair.state = s.dev.pair.state ∧
      (s.dev.pair.ilfault = false → bitAt 2 (e.page pgPAIR).pirq = true)) ∧
  (∀ s : State, s.dev.takes pgPAIR 0x1010 = true → s.dev.calm = true → s.dev.pair.lease = true → Completes .ilreset s fun e =>
    e.pair = { s.dev.pair with recheck := some s.dev.time.loc }) ∧
  ∀ (s : State) (t : BitVec 64), s.dev.unitOn pgPAIR = true → s.dev.calm = true → s.dev.pair.lease = true →
    s.dev.pair.recheck = some t → 1000000000 ≤ s.dev.since t → Completes .leaseModeExit s fun e =>
      e.pair.lease = false ∧ e.pair.ilfault = false ∧ e.pair.recheck = none
end

