-- ==== Sys2Proof/Laws/Tab.lean ====
section
/-! SUPPORT. Sparse tables: reading after writing, and the canonical form under every operation on a table and on device
memory. -/

namespace Sys2Proof.Machine

theorem Tab.get_drop {α : Type} (d : α) (t : Tab α) (k j : Nat) :
    Tab.get d (Tab.drop t k) j = if j = k then d else Tab.get d t j := by
  induction t with
  | nil => simp [Tab.drop, Tab.get]
  | cons e t ih =>
    obtain ⟨i, v⟩ := e
    by_cases hi : i = k
    · subst hi
      by_cases hj : j = i
      · subst hj; simpa [Tab.drop] using ih
      · simp [Tab.drop, ih, hj, Tab.get, Ne.symm hj]
    · by_cases hj : j = k
      · subst hj; simp [Tab.drop, hi, Tab.get, ih]
      · simp [Tab.drop, hi, Tab.get, ih, hj]

theorem Tab.get_put {α : Type} (d : α) (t : Tab α) (k j : Nat) (v : α) :
    Tab.get d (Tab.put t k v) j = if j = k then v else Tab.get d t j := by
  induction t with
  | nil =>
    by_cases h : j = k
    · simp [Tab.put, Tab.get, h]
    · simp [Tab.put, Tab.get, h, Ne.symm h]
  | cons e t ih =>
    obtain ⟨i, w⟩ := e
    by_cases h1 : k < i
    · by_cases h : j = k
      · simp [Tab.put, h1, Tab.get, h]
      · simp [Tab.put, h1, Tab.get, h, Ne.symm h]
    · by_cases h2 : i = k
      · subst h2
        by_cases h : j = i
        · simp [Tab.put, Tab.get, h]
        · simp [Tab.put, Tab.get, h, Ne.symm h]
      · by_cases h : j = k
        · subst h; simp [Tab.put, h1, h2, Tab.get, ih]
        · simp [Tab.put, h1, h2, Tab.get, ih, h]

/-- A key reads what was last written to it, every other key what it read before. -/
theorem Tab.get_set {α : Type} [DecidableEq α] (d : α) (t : Tab α) (k j : Nat) (v : α) :
    Tab.get d (Tab.set d t k v) j = if j = k then v else Tab.get d t j := by
  unfold Tab.set
  split
  · next h => rw [Tab.get_drop, h]
  · exact Tab.get_put d t k j v

/-- What a key reads as does not depend on the default given for another key. -/
theorem Tab.get_set_ne {α : Type} [DecidableEq α] (d e : α) (t : Tab α) (k j : Nat) (v : α) (h : j ≠ k) :
    Tab.get d (Tab.set e t k v) j = Tab.get d t j := by
  unfold Tab.set
  split
  · rw [Tab.get_drop, if_neg h]
  · rw [Tab.get_put, if_neg h]

@[simp] theorem Tab.get_set_self {α : Type} [DecidableEq α] (d : α) (t : Tab α) (k : Nat) (v : α) :
    Tab.get d (Tab.set d t k v) k = v := by simp [Tab.get_set]

theorem Tab.above_drop {α : Type} (b : Nat) (t : Tab α) (k : Nat) (h : Tab.above b t = true) :
    Tab.above b (Tab.drop t k) = true := by
  induction t generalizing b with
  | nil => simp [Tab.drop, Tab.above]
  | cons e t ih =>
    obtain ⟨i, v⟩ := e
    simp only [Tab.above, Bool.and_eq_true, decide_eq_true_eq] at h
    by_cases hi : i = k
    · simp only [Tab.drop, hi, if_true]
      refine ih b ?_
      revert h; cases t with
      | nil => intro _; simp [Tab.above]
      | cons e' t' =>
        obtain ⟨i', v'⟩ := e'
        simp only [Tab.above, Bool.and_eq_true, decide_eq_true_eq]
        intro h; exact ⟨by omega, h.2.2⟩
    · simp only [Tab.drop, hi, if_false, Tab.above, Bool.and_eq_true, decide_eq_true_eq]
      exact ⟨h.1, ih i h.2⟩

theorem Tab.above_put {α : Type} (b : Nat) (t : Tab α) (k : Nat) (v : α) (h : Tab.above b t = true) (hb : b < k) :
    Tab.above b (Tab.put t k v) = true := by
  induction t generalizing b with
  | nil => simp [Tab.put, Tab.above, hb]
  | cons e t ih =>
    obtain ⟨i, w⟩ := e
    simp only [Tab.above, Bool.and_eq_true, decide_eq_true_eq] at h
    by_cases h1 : k < i
    · simp [Tab.put, h1, Tab.above, hb, h.2]
    · by_cases h2 : i = k
      · subst h2; simp [Tab.put, Tab.above, hb, h.2]
      · simp only [Tab.put, h1, h2, if_false, Tab.above, Bool.and_eq_true, decide_eq_true_eq]
        exact ⟨h.1, ih i h.2 (by omega)⟩

theorem Tab.sorted_drop {α : Type} (t : Tab α) (k : Nat) (h : Tab.sorted t = true) : Tab.sorted (Tab.drop t k) = true := by
  cases t with
  | nil => simp [Tab.drop, Tab.sorted]
  | cons e t =>
    obtain ⟨i, v⟩ := e
    simp only [Tab.sorted] at h
    by_cases hi : i = k
    · simp only [Tab.drop, hi, if_true]
      have h' := Tab.above_drop i t k h
      revert h'; cases Tab.drop t k with
      | nil => intro _; simp [Tab.sorted]
      | cons e' t' =>
        obtain ⟨i', v'⟩ := e'
        simp only [Tab.above, Bool.and_eq_true, Tab.sorted]
        exact fun h => h.2
    · simp only [Tab.drop, hi, if_false, Tab.sorted]
      exact Tab.above_drop i t k h

theorem Tab.sorted_put {α : Type} (t : Tab α) (k : Nat) (v : α) (h : Tab.sorted t = true) :
    Tab.sorted (Tab.put t k v) = true := by
  cases t with
  | nil => simp [Tab.put, Tab.sorted, Tab.above]
  | cons e t =>
    obtain ⟨i, w⟩ := e
    simp only [Tab.sorted] at h
    by_cases h1 : k < i
    · simp [Tab.put, h1, Tab.sorted, Tab.above, h]
    · by_cases h2 : i = k
      · subst h2; simp [Tab.put, Tab.sorted, h]
      · simp only [Tab.put, h1, h2, if_false, Tab.sorted]
        exact Tab.above_put i t k v h (by omega)

theorem Tab.mem_drop {α : Type} (t : Tab α) (k : Nat) (e : Nat × α) (h : e ∈ Tab.drop t k) : e ∈ t := by
  induction t with
  | nil => simp [Tab.drop] at h
  | cons a t ih =>
    obtain ⟨i, v⟩ := a
    by_cases hi : i = k
    · simp only [Tab.drop, hi, if_true] at h
      exact List.mem_cons_of_mem _ (ih h)
    · simp only [Tab.drop, hi, if_false, List.mem_cons] at h
      rcases h with h | h
      · simp [h]
      · exact List.mem_cons_of_mem _ (ih h)

theorem Tab.mem_put {α : Type} (t : Tab α) (k : Nat) (v : α) (e : Nat × α) (h : e ∈ Tab.put t k v) : e = (k, v) ∨ e ∈ t := by
  induction t with
  | nil => simp [Tab.put] at h; exact .inl h
  | cons a t ih =>
    obtain ⟨i, w⟩ := a
    by_cases h1 : k < i
    · simp only [Tab.put, h1, if_true, List.mem_cons] at h
      rcases h with h | h | h
      · exact .inl h
      · exact .inr (by simp [h])
      · exact .inr (by simp [h])
    · by_cases h2 : i = k
      · simp only [Tab.put, h2, if_false, if_true, List.mem_cons, lt_irrefl] at h
        rcases h with h | h
        · exact .inl h
        · exact .inr (by simp [h])
      · simp only [Tab.put, h1, h2, if_false, List.mem_cons] at h
        rcases h with h | h
        · exact .inr (by simp [h])
        · rcases ih h with h | h
          · exact .inl h
          · exact .inr (by simp [h])

/-- Writing a table with its own default keeps the canonical form. -/
theorem Tab.wf_set {α : Type} [DecidableEq α] (d : Nat → α) (t : Tab α) (k : Nat) (v : α) (h : Tab.wf d t = true) :
    Tab.wf d (Tab.set (d k) t k v) = true := by
  simp only [Tab.wf, Bool.and_eq_true, List.all_eq_true, decide_eq_true_eq] at h ⊢
  unfold Tab.set
  split
  · exact ⟨Tab.sorted_drop t k h.1, fun e he => h.2 e (Tab.mem_drop t k e he)⟩
  · next hv =>
    refine ⟨Tab.sorted_put t k v h.1, fun e he => ?_⟩
    rcases Tab.mem_put t k v e he with rfl | he
    · exact hv
    · exact h.2 e he

theorem Tab.wf_nil {α : Type} [DecidableEq α] (d : Nat → α) : Tab.wf d ([] : Tab α) = true := by
  simp [Tab.wf, Tab.sorted]

/-! ### Device memory -/

theorem Dev.byte_setByte (d : Dev) (a j : Nat) (b : Byte) :
    (d.setByte a b).byte j = if j = a then b else d.byte j := by
  simp [Dev.byte, Dev.setByte, Tab.get_set]

/-- A write of one byte keeps memory in its canonical form. -/
theorem Dev.setByte_wf (d : Dev) (a : Nat) (b : Byte) (h : Memory.wf d.mem = true) :
    Memory.wf (d.setByte a b).mem = true :=
  Tab.wf_set (fun _ => 0) d.mem a b h

theorem memPut_wf (l : List Byte) (a : Nat) (m : Tab Byte) (h : Memory.wf m = true) : Memory.wf (memPut m a l) = true := by
  induction l generalizing a m with
  | nil => exact h
  | cons b l ih => exact ih (a + 1) _ (Tab.wf_set (fun _ => 0) m a b h)

/-- A write of bytes keeps memory in its canonical form. -/
theorem Dev.putBytes_wf (d : Dev) (a : Nat) (l : List Byte) (h : Memory.wf d.mem = true) :
    Memory.wf (d.putBytes a l).mem = true :=
  memPut_wf l a d.mem h

theorem memPut_get (l : List Byte) (a j : Nat) (m : Tab Byte) :
    Tab.get 0 (memPut m a l) j = if a ≤ j ∧ j < a + l.length then (l[j - a]?).getD 0 else Tab.get 0 m j := by
  induction l generalizing a m with
  | nil => simp only [memPut, List.length_nil]; rw [if_neg (by omega)]
  | cons b l ih =>
    simp only [memPut, ih, Tab.get_set, List.length_cons]
    by_cases h1 : j = a
    · subst h1; simp
    · by_cases h2 : a + 1 ≤ j ∧ j < a + 1 + l.length
      · rw [if_pos h2, if_pos (by omega), show j - a = (j - (a + 1)) + 1 by omega]; simp
      · rw [if_neg h2, if_neg h1, if_neg (by omega)]

/-- What a byte of memory reads as after a write of bytes. -/
theorem Dev.byte_putBytes (d : Dev) (a j : Nat) (l : List Byte) :
    (d.putBytes a l).byte j = if a ≤ j ∧ j < a + l.length then (l[j - a]?).getD 0 else d.byte j :=
  memPut_get l a j d.mem

end Sys2Proof.Machine
end

