-- ==== Sys2Proof/Laws/Frame.lean ====
section
/-! SUPPORT. Frames: how they compose, what each primitive update touches, and what the shared operations touch. -/

namespace Sys2Proof.Machine

variable {T : List Part} {d e d0 : Dev}

theorem Part.same_refl (p : Part) (d : Dev) : p.same d d := by cases p <;> simp [Part.same]

theorem Part.same_trans (p : Part) {a b c : Dev} (h : p.same a b) (k : p.same b c) : p.same a c := by
  cases p
  case regs => exact fun x hx => (h x hx).trans (k x hx)
  case pba => exact fun x hx => (h x hx).trans (k x hx)
  case act => exact fun x => (h x).trans (k x)
  case hdr => exact fun x => (h x).trans (k x)
  case perr => exact fun x => (h x).trans (k x)
  case pirq => exact fun x => ⟨(h x).1.trans (k x).1, (h x).2.trans (k x).2⟩
  case cmd => exact ⟨h.1.trans k.1, h.2.trans k.2⟩
  case errlog => exact ⟨h.1.trans k.1, h.2.1.trans k.2.1, h.2.2.trans k.2.2⟩
  case sys => exact ⟨h.1.trans k.1, h.2.1.trans k.2.1, h.2.2.1.trans k.2.2.1, h.2.2.2.trans k.2.2.2⟩
  all_goals exact Eq.trans h k

theorem Frame.refl (T : List Part) (d : Dev) : Frame T d d := fun p _ => p.same_refl d

theorem Frame.trans (h : Frame T d0 d) (k : Frame T d e) : Frame T d0 e := fun p hp => p.same_trans (h p hp) (k p hp)

theorem Frame.mono {U : List Part} (h : Frame T d e) (hT : T ⊆ U) : Frame U d e := fun p hp => h p fun q => hp (hT q)

/-- What a step from `d` to `e` touches may be more than it does touch. -/
theorem Frame.next {U : List Part} (h : Frame T d0 d) (k : Frame U d e) (hT : U ⊆ T) : Frame T d0 e := h.trans (k.mono hT)

theorem Frame.ite {c : Prop} [Decidable c] (h : Frame T d0 d) (k : Frame T d0 e) : Frame T d0 (if c then d else e) := by
  split <;> assumption

/-- A step that is taken under a condition. -/
theorem Frame.ite_of {c : Prop} [Decidable c] (h : Frame T d0 d) (k : Frame T d0 d → Frame T d0 e) :
    Frame T d0 (if c then e else d) := (k h).ite h

theorem Frame.ite_fst {β : Type} {c : Prop} [Decidable c] {x y : Dev × β} (h : Frame T d0 x.1) (k : Frame T d0 y.1) :
    Frame T d0 (if c then x else y).1 := by
  split <;> assumption

theorem Frame.ite_snd {β : Type} {c : Prop} [Decidable c] {x y : β × Dev} (h : Frame T d0 x.2) (k : Frame T d0 y.2) :
    Frame T d0 (if c then x else y).2 := by
  split <;> assumption

theorem Frame.ite_trd {β γ : Type} {c : Prop} [Decidable c] {x y : β × γ × Dev} (h : Frame T d0 x.2.2)
    (k : Frame T d0 y.2.2) : Frame T d0 (if c then x else y).2.2 := by
  split <;> assumption

theorem Frame.foldl {α : Type} {f : Dev → α → Dev} {l : List α} (h : Frame T d0 d)
    (k : ∀ e a, Frame T d0 e → Frame T d0 (f e a)) : Frame T d0 (l.foldl f d) := by
  induction l generalizing d with
  | nil => exact h
  | cons a l ih => exact ih (k _ a h)

theorem Frame.foldl_snd {α β : Type} {f : β × Dev → α → β × Dev} {l : List α} {x : β × Dev} (h : Frame T d0 x.2)
    (k : ∀ e a, Frame T d0 e.2 → Frame T d0 (f e a).2) : Frame T d0 (l.foldl f x).2 := by
  induction l generalizing x with
  | nil => exact h
  | cons a l ih => exact ih (k _ a h)

theorem Frame.foldl_fst {α β : Type} {f : Dev × β → α → Dev × β} {l : List α} {x : Dev × β} (h : Frame T d0 x.1)
    (k : ∀ e a, Frame T d0 e.1 → Frame T d0 (f e a).1) : Frame T d0 (l.foldl f x).1 := by
  induction l generalizing x with
  | nil => exact h
  | cons a l ih => exact ih (k _ a h)

theorem Frame.foldl_trd {α β γ : Type} {f : β × γ × Dev → α → β × γ × Dev} {l : List α} {x : β × γ × Dev}
    (h : Frame T d0 x.2.2) (k : ∀ e a, Frame T d0 e.2.2 → Frame T d0 (f e a).2.2) : Frame T d0 (l.foldl f x).2.2 := by
  induction l generalizing x with
  | nil => exact h
  | cons a l ih => exact ih (k _ a h)

theorem Frame.of_fst {β : Type} {x : Dev × β} {b : β} (h : x = (e, b)) (k : Frame T d0 x.1) : Frame T d0 e := by
  subst h; exact k

theorem Frame.of_snd {β : Type} {x : β × Dev} {b : β} (h : x = (b, e)) (k : Frame T d0 x.2) : Frame T d0 e := by
  subst h; exact k

theorem Frame.of_trd {β γ : Type} {x : β × γ × Dev} {b : β} {c : γ} (h : x = (b, c, e)) (k : Frame T d0 x.2.2) :
    Frame T d0 e := by
  subst h; exact k

theorem Frame.of_some {x : Option Dev} (h : x = some e) (k : ∀ e, x = some e → Frame T d0 e) : Frame T d0 e := k e h

theorem State.frame_run {s t : State} {f : Dev → Dev} (h : s.run f = .next t) (hf : Frame T s.dev (f s.dev)) :
    Frame T s.dev t.dev := by
  cases h; exact hf

theorem State.frame_settled {s t : State} {f : Dev → Dev} (h : s.settled f = .next t)
    (hf : Frame T s.dev (f s.dev).settle) : Frame T s.dev t.dev := by
  cases h; exact hf

/-! ### Updates of one field -/

theorem Frame.upd_stats (h : Frame T d0 d) {v} (hT : Part.stats ∈ T) : Frame T d0 { d with stats := v } :=
  h.trans fun p hp => by
    cases p <;> first | exact absurd hT hp | exact rfl | exact fun _ _ => rfl | exact fun _ => rfl | exact fun _ => ⟨rfl, rfl⟩ | exact ⟨rfl, rfl⟩ | exact ⟨rfl, rfl, rfl⟩ | exact ⟨rfl, rfl, rfl, rfl⟩

theorem Frame.upd_live (h : Frame T d0 d) {v} (hT : Part.live ∈ T) : Frame T d0 { d with live := v } :=
  h.trans fun p hp => by
    cases p <;> first | exact absurd hT hp | exact rfl | exact fun _ _ => rfl | exact fun _ => rfl | exact fun _ => ⟨rfl, rfl⟩ | exact ⟨rfl, rfl⟩ | exact ⟨rfl, rfl, rfl⟩ | exact ⟨rfl, rfl, rfl, rfl⟩

theorem Frame.upd_nextc (h : Frame T d0 d) {v} (hT : Part.nextc ∈ T) : Frame T d0 { d with nextc := v } :=
  h.trans fun p hp => by
    cases p <;> first | exact absurd hT hp | exact rfl | exact fun _ _ => rfl | exact fun _ => rfl | exact fun _ => ⟨rfl, rfl⟩ | exact ⟨rfl, rfl⟩ | exact ⟨rfl, rfl, rfl⟩ | exact ⟨rfl, rfl, rfl, rfl⟩

theorem Frame.upd_boot (h : Frame T d0 d) {v} (hT : Part.boot ∈ T) : Frame T d0 { d with boot := v } :=
  h.trans fun p hp => by
    cases p <;> first | exact absurd hT hp | exact rfl | exact fun _ _ => rfl | exact fun _ => rfl | exact fun _ => ⟨rfl, rfl⟩ | exact ⟨rfl, rfl⟩ | exact ⟨rfl, rfl, rfl⟩ | exact ⟨rfl, rfl, rfl, rfl⟩

theorem Frame.upd_pwr (h : Frame T d0 d) {v} (hT : Part.pwr ∈ T) : Frame T d0 { d with pwr := v } :=
  h.trans fun p hp => by
    cases p <;> first | exact absurd hT hp | exact rfl | exact fun _ _ => rfl | exact fun _ => rfl | exact fun _ => ⟨rfl, rfl⟩ | exact ⟨rfl, rfl⟩ | exact ⟨rfl, rfl, rfl⟩ | exact ⟨rfl, rfl, rfl, rfl⟩

theorem Frame.upd_msp (h : Frame T d0 d) {v} (hT : Part.msp ∈ T) : Frame T d0 { d with msp := v } :=
  h.trans fun p hp => by
    cases p <;> first | exact absurd hT hp | exact rfl | exact fun _ _ => rfl | exact fun _ => rfl | exact fun _ => ⟨rfl, rfl⟩ | exact ⟨rfl, rfl⟩ | exact ⟨rfl, rfl, rfl⟩ | exact ⟨rfl, rfl, rfl, rfl⟩

theorem Frame.upd_mspSh (h : Frame T d0 d) {v} (hT : Part.mspSh ∈ T) : Frame T d0 { d with mspSh := v } :=
  h.trans fun p hp => by
    cases p <;> first | exact absurd hT hp | exact rfl | exact fun _ _ => rfl | exact fun _ => rfl | exact fun _ => ⟨rfl, rfl⟩ | exact ⟨rfl, rfl⟩ | exact ⟨rfl, rfl, rfl⟩ | exact ⟨rfl, rfl, rfl, rfl⟩

theorem Frame.upd_monword (h : Frame T d0 d) {v} (hT : Part.monword ∈ T) : Frame T d0 { d with monword := v } :=
  h.trans fun p hp => by
    cases p <;> first | exact absurd hT hp | exact rfl | exact fun _ _ => rfl | exact fun _ => rfl | exact fun _ => ⟨rfl, rfl⟩ | exact ⟨rfl, rfl⟩ | exact ⟨rfl, rfl, rfl⟩ | exact ⟨rfl, rfl, rfl, rfl⟩

theorem Frame.upd_eth (h : Frame T d0 d) {v} (hT : Part.eth ∈ T) : Frame T d0 { d with eth := v } :=
  h.trans fun p hp => by
    cases p <;> first | exact absurd hT hp | exact rfl | exact fun _ _ => rfl | exact fun _ => rfl | exact fun _ => ⟨rfl, rfl⟩ | exact ⟨rfl, rfl⟩ | exact ⟨rfl, rfl, rfl⟩ | exact ⟨rfl, rfl, rfl, rfl⟩

theorem Frame.upd_clk (h : Frame T d0 d) {v} (hT : Part.clk ∈ T) : Frame T d0 { d with clk := v } :=
  h.trans fun p hp => by
    cases p <;> first | exact absurd hT hp | exact rfl | exact fun _ _ => rfl | exact fun _ => rfl | exact fun _ => ⟨rfl, rfl⟩ | exact ⟨rfl, rfl⟩ | exact ⟨rfl, rfl, rfl⟩ | exact ⟨rfl, rfl, rfl, rfl⟩

theorem Frame.upd_lnb (h : Frame T d0 d) {v} (hT : Part.lnb ∈ T) : Frame T d0 { d with lnb := v } :=
  h.trans fun p hp => by
    cases p <;> first | exact absurd hT hp | exact rfl | exact fun _ _ => rfl | exact fun _ => rfl | exact fun _ => ⟨rfl, rfl⟩ | exact ⟨rfl, rfl⟩ | exact ⟨rfl, rfl, rfl⟩ | exact ⟨rfl, rfl, rfl, rfl⟩

theorem Frame.upd_plt (h : Frame T d0 d) {v} (hT : Part.plt ∈ T) : Frame T d0 { d with plt := v } :=
  h.trans fun p hp => by
    cases p <;> first | exact absurd hT hp | exact rfl | exact fun _ _ => rfl | exact fun _ => rfl | exact fun _ => ⟨rfl, rfl⟩ | exact ⟨rfl, rfl⟩ | exact ⟨rfl, rfl, rfl⟩ | exact ⟨rfl, rfl, rfl, rfl⟩

theorem Frame.upd_run (h : Frame T d0 d) {v} (hT : Part.run ∈ T) : Frame T d0 { d with run := v } :=
  h.trans fun p hp => by
    cases p <;> first | exact absurd hT hp | exact rfl | exact fun _ _ => rfl | exact fun _ => rfl | exact fun _ => ⟨rfl, rfl⟩ | exact ⟨rfl, rfl⟩ | exact ⟨rfl, rfl, rfl⟩ | exact ⟨rfl, rfl, rfl, rfl⟩

theorem Frame.upd_ing (h : Frame T d0 d) {v} (hT : Part.ing ∈ T) : Frame T d0 { d with ing := v } :=
  h.trans fun p hp => by
    cases p <;> first | exact absurd hT hp | exact rfl | exact fun _ _ => rfl | exact fun _ => rfl | exact fun _ => ⟨rfl, rfl⟩ | exact ⟨rfl, rfl⟩ | exact ⟨rfl, rfl, rfl⟩ | exact ⟨rfl, rfl, rfl, rfl⟩

theorem Frame.upd_dkl (h : Frame T d0 d) {v} (hT : Part.dkl ∈ T) : Frame T d0 { d with dkl := v } :=
  h.trans fun p hp => by
    cases p <;> first | exact absurd hT hp | exact rfl | exact fun _ _ => rfl | exact fun _ => rfl | exact fun _ => ⟨rfl, rfl⟩ | exact ⟨rfl, rfl⟩ | exact ⟨rfl, rfl, rfl⟩ | exact ⟨rfl, rfl, rfl, rfl⟩

theorem Frame.upd_hat (h : Frame T d0 d) {v} (hT : Part.hat ∈ T) : Frame T d0 { d with hat := v } :=
  h.trans fun p hp => by
    cases p <;> first | exact absurd hT hp | exact rfl | exact fun _ _ => rfl | exact fun _ => rfl | exact fun _ => ⟨rfl, rfl⟩ | exact ⟨rfl, rfl⟩ | exact ⟨rfl, rfl, rfl⟩ | exact ⟨rfl, rfl, rfl, rfl⟩

theorem Frame.upd_acc (h : Frame T d0 d) {v} (hT : Part.acc ∈ T) : Frame T d0 { d with acc := v } :=
  h.trans fun p hp => by
    cases p <;> first | exact absurd hT hp | exact rfl | exact fun _ _ => rfl | exact fun _ => rfl | exact fun _ => ⟨rfl, rfl⟩ | exact ⟨rfl, rfl⟩ | exact ⟨rfl, rfl, rfl⟩ | exact ⟨rfl, rfl, rfl, rfl⟩

theorem Frame.upd_bmf (h : Frame T d0 d) {v} (hT : Part.bmf ∈ T) : Frame T d0 { d with bmf := v } :=
  h.trans fun p hp => by
    cases p <;> first | exact absurd hT hp | exact rfl | exact fun _ _ => rfl | exact fun _ => rfl | exact fun _ => ⟨rfl, rfl⟩ | exact ⟨rfl, rfl⟩ | exact ⟨rfl, rfl, rfl⟩ | exact ⟨rfl, rfl, rfl, rfl⟩

theorem Frame.upd_trg (h : Frame T d0 d) {v} (hT : Part.trg ∈ T) : Frame T d0 { d with trg := v } :=
  h.trans fun p hp => by
    cases p <;> first | exact absurd hT hp | exact rfl | exact fun _ _ => rfl | exact fun _ => rfl | exact fun _ => ⟨rfl, rfl⟩ | exact ⟨rfl, rfl⟩ | exact ⟨rfl, rfl, rfl⟩ | exact ⟨rfl, rfl, rfl, rfl⟩

theorem Frame.upd_pair (h : Frame T d0 d) {v} (hT : Part.pair ∈ T) : Frame T d0 { d with pair := v } :=
  h.trans fun p hp => by
    cases p <;> first | exact absurd hT hp | exact rfl | exact fun _ _ => rfl | exact fun _ => rfl | exact fun _ => ⟨rfl, rfl⟩ | exact ⟨rfl, rfl⟩ | exact ⟨rfl, rfl, rfl⟩ | exact ⟨rfl, rfl, rfl, rfl⟩

theorem Frame.upd_bur (h : Frame T d0 d) {v} (hT : Part.bur ∈ T) : Frame T d0 { d with bur := v } :=
  h.trans fun p hp => by
    cases p <;> first | exact absurd hT hp | exact rfl | exact fun _ _ => rfl | exact fun _ => rfl | exact fun _ => ⟨rfl, rfl⟩ | exact ⟨rfl, rfl⟩ | exact ⟨rfl, rfl, rfl⟩ | exact ⟨rfl, rfl, rfl, rfl⟩

theorem Frame.upd_mctl (h : Frame T d0 d) {v} (hT : Part.mctl ∈ T) : Frame T d0 { d with mctl := v } :=
  h.trans fun p hp => by
    cases p <;> first | exact absurd hT hp | exact rfl | exact fun _ _ => rfl | exact fun _ => rfl | exact fun _ => ⟨rfl, rfl⟩ | exact ⟨rfl, rfl⟩ | exact ⟨rfl, rfl, rfl⟩ | exact ⟨rfl, rfl, rfl, rfl⟩

theorem Frame.upd_fab (h : Frame T d0 d) {v} (hT : Part.fab ∈ T) : Frame T d0 { d with fab := v } :=
  h.trans fun p hp => by
    cases p <;> first | exact absurd hT hp | exact rfl | exact fun _ _ => rfl | exact fun _ => rfl | exact fun _ => ⟨rfl, rfl⟩ | exact ⟨rfl, rfl⟩ | exact ⟨rfl, rfl, rfl⟩ | exact ⟨rfl, rfl, rfl, rfl⟩

theorem Frame.upd_hif (h : Frame T d0 d) {v} (hT : Part.hif ∈ T) : Frame T d0 { d with hif := v } :=
  h.trans fun p hp => by
    cases p <;> first | exact absurd hT hp | exact rfl | exact fun _ _ => rfl | exact fun _ => rfl | exact fun _ => ⟨rfl, rfl⟩ | exact ⟨rfl, rfl⟩ | exact ⟨rfl, rfl, rfl⟩ | exact ⟨rfl, rfl, rfl, rfl⟩

theorem Frame.upd_dma (h : Frame T d0 d) {v} (hT : Part.dma ∈ T) : Frame T d0 { d with dma := v } :=
  h.trans fun p hp => by
    cases p <;> first | exact absurd hT hp | exact rfl | exact fun _ _ => rfl | exact fun _ => rfl | exact fun _ => ⟨rfl, rfl⟩ | exact ⟨rfl, rfl⟩ | exact ⟨rfl, rfl, rfl⟩ | exact ⟨rfl, rfl, rfl, rfl⟩

theorem Frame.upd_mmu (h : Frame T d0 d) {v} (hT : Part.mmu ∈ T) : Frame T d0 { d with mmu := v } :=
  h.trans fun p hp => by
    cases p <;> first | exact absurd hT hp | exact rfl | exact fun _ _ => rfl | exact fun _ => rfl | exact fun _ => ⟨rfl, rfl⟩ | exact ⟨rfl, rfl⟩ | exact ⟨rfl, rfl, rfl⟩ | exact ⟨rfl, rfl, rfl, rfl⟩

theorem Frame.upd_mem (h : Frame T d0 d) {v} (hT : Part.mem ∈ T) : Frame T d0 { d with mem := v } :=
  h.trans fun p hp => by
    cases p <;> first | exact absurd hT hp | exact rfl | exact fun _ _ => rfl | exact fun _ => rfl | exact fun _ => ⟨rfl, rfl⟩ | exact ⟨rfl, rfl⟩ | exact ⟨rfl, rfl, rfl⟩ | exact ⟨rfl, rfl, rfl, rfl⟩

theorem Frame.upd_free (h : Frame T d0 d) {v} (hT : Part.free ∈ T) : Frame T d0 { d with free := v } :=
  h.trans fun p hp => by
    cases p <;> first | exact absurd hT hp | exact rfl | exact fun _ _ => rfl | exact fun _ => rfl | exact fun _ => ⟨rfl, rfl⟩ | exact ⟨rfl, rfl⟩ | exact ⟨rfl, rfl, rfl⟩ | exact ⟨rfl, rfl, rfl, rfl⟩


/-- An update of the SYS page's state touches what differs. -/
theorem Frame.upd_sys (h : Frame T d0 d) {v : SysSt} (h1 : v.state = d.sys.state ∨ Part.state ∈ T)
    (h2 : (v.cmdstat = d.sys.cmdstat ∧ v.cmdPend = d.sys.cmdPend) ∨ Part.cmd ∈ T)
    (h3 : (v.errlog = d.sys.errlog ∧ v.errlogDisc = d.sys.errlogDisc ∧ v.errlogT = d.sys.errlogT) ∨ Part.errlog ∈ T)
    (h4 : v.out = d.sys.out ∨ Part.out ∈ T)
    (h5 : (v.sheetcnt = d.sys.sheetcnt ∧ v.reamcnt = d.sys.reamcnt ∧ v.sfnLatch = d.sys.sfnLatch ∧
      v.before = d.sys.before) ∨ Part.sys ∈ T) : Frame T d0 { d with sys := v } := by
  refine h.trans fun p hp => ?_
  cases p
  case state => exact h1.elim Eq.symm fun k => absurd k hp
  case cmd => exact h2.elim (fun k => ⟨k.1.symm, k.2.symm⟩) fun k => absurd k hp
  case errlog => exact h3.elim (fun k => ⟨k.1.symm, k.2.1.symm, k.2.2.symm⟩) fun k => absurd k hp
  case out => exact h4.elim Eq.symm fun k => absurd k hp
  case sys => exact h5.elim (fun k => ⟨k.1.symm, k.2.1.symm, k.2.2.1.symm, k.2.2.2.symm⟩) fun k => absurd k hp
  all_goals first | exact rfl | exact fun _ _ => rfl | exact fun _ => rfl | exact fun _ => ⟨rfl, rfl⟩ | exact ⟨rfl, rfl⟩ | exact ⟨rfl, rfl, rfl⟩ | exact ⟨rfl, rfl, rfl, rfl⟩

theorem Frame.upd_aon (h : Frame T d0 d) {v : AonSt} (h1 : v.estop = d.aon.estop ∨ Part.estop ∈ T)
    (h2 : { v with estop := {} } = { d.aon with estop := {} } ∨ Part.aon ∈ T) : Frame T d0 { d with aon := v } := by
  refine h.trans fun p hp => ?_
  cases p
  case estop => exact h1.elim Eq.symm fun k => absurd k hp
  case aon => exact h2.elim Eq.symm fun k => absurd k hp
  all_goals first | exact rfl | exact fun _ _ => rfl | exact fun _ => rfl | exact fun _ => ⟨rfl, rfl⟩ | exact ⟨rfl, rfl⟩ | exact ⟨rfl, rfl, rfl⟩ | exact ⟨rfl, rfl, rfl, rfl⟩

theorem Frame.upd_time (h : Frame T d0 d) {v : TimeSt} (h1 : v.loc = d.time.loc ∨ Part.loc ∈ T)
    (h2 : { v with loc := 0 } = { d.time with loc := 0 } ∨ Part.time ∈ T) : Frame T d0 { d with time := v } := by
  refine h.trans fun p hp => ?_
  cases p
  case loc => exact h1.elim Eq.symm fun k => absurd k hp
  case time => exact h2.elim Eq.symm fun k => absurd k hp
  all_goals first | exact rfl | exact fun _ _ => rfl | exact fun _ => rfl | exact fun _ => ⟨rfl, rfl⟩ | exact ⟨rfl, rfl⟩ | exact ⟨rfl, rfl, rfl⟩ | exact ⟨rfl, rfl, rfl, rfl⟩

theorem TimeSt.loc_setBase (t : TimeSt) (i : Nat) (b : Base) : (t.setBase i b).loc = t.loc := by
  unfold TimeSt.setBase; split <;> rfl

theorem Frame.upd_regs (h : Frame T d0 d) {v} (h1 : Part.regs ∈ T) (h2 : Part.pba ∈ T) : Frame T d0 { d with regs := v } :=
  h.trans fun p hp => by
    cases p <;> first | exact absurd h1 hp | exact absurd h2 hp | exact rfl | exact fun _ _ => rfl | exact fun _ => rfl | exact fun _ => ⟨rfl, rfl⟩ | exact ⟨rfl, rfl⟩ | exact ⟨rfl, rfl, rfl⟩ | exact ⟨rfl, rfl, rfl, rfl⟩

theorem Frame.upd_act (h : Frame T d0 d) {v} (hT : Part.act ∈ T) : Frame T d0 { d with act := v } :=
  h.trans fun p hp => by
    cases p <;> first | exact absurd hT hp | exact rfl | exact fun _ _ => rfl | exact fun _ => rfl | exact fun _ => ⟨rfl, rfl⟩ | exact ⟨rfl, rfl⟩ | exact ⟨rfl, rfl, rfl⟩ | exact ⟨rfl, rfl, rfl, rfl⟩

theorem Frame.upd_pages (h : Frame T d0 d) {v} (h1 : Part.hdr ∈ T) (h2 : Part.perr ∈ T) (h3 : Part.pirq ∈ T) :
    Frame T d0 { d with pages := v } :=
  h.trans fun p hp => by
    cases p <;> first | exact absurd h1 hp | exact absurd h2 hp | exact absurd h3 hp | exact rfl | exact fun _ _ => rfl | exact fun _ => rfl | exact fun _ => ⟨rfl, rfl⟩ | exact ⟨rfl, rfl⟩ | exact ⟨rfl, rfl, rfl⟩ | exact ⟨rfl, rfl, rfl, rfl⟩

/-! ### Updates of several fields -/

theorem Frame.upd_bmf_trg (h : Frame T d0 d) {v0} {v1} (k1 : Part.bmf ∈ T) (k2 : Part.trg ∈ T) :
    Frame T d0 { d with bmf := v0, trg := v1 } :=
  Frame.upd_trg (v := v1) (Frame.upd_bmf (v := v0) h k1) k2

theorem Frame.upd_boot_hif (h : Frame T d0 d) {v0} {v1} (k1 : Part.boot ∈ T) (k2 : Part.hif ∈ T) :
    Frame T d0 { d with boot := v0, hif := v1 } :=
  Frame.upd_hif (v := v1) (Frame.upd_boot (v := v0) h k1) k2

theorem Frame.upd_boot_mctl (h : Frame T d0 d) {v0} {v1} (k1 : Part.boot ∈ T) (k2 : Part.mctl ∈ T) :
    Frame T d0 { d with boot := v0, mctl := v1 } :=
  Frame.upd_mctl (v := v1) (Frame.upd_boot (v := v0) h k1) k2

theorem Frame.upd_clk_acc (h : Frame T d0 d) {v0} {v1} (k1 : Part.clk ∈ T) (k2 : Part.acc ∈ T) :
    Frame T d0 { d with clk := v0, acc := v1 } :=
  Frame.upd_acc (v := v1) (Frame.upd_clk (v := v0) h k1) k2

theorem Frame.upd_dkl_hat (h : Frame T d0 d) {v0} {v1} (k1 : Part.dkl ∈ T) (k2 : Part.hat ∈ T) :
    Frame T d0 { d with dkl := v0, hat := v1 } :=
  Frame.upd_hat (v := v1) (Frame.upd_dkl (v := v0) h k1) k2

theorem Frame.upd_hat_acc (h : Frame T d0 d) {v0} {v1} (k1 : Part.hat ∈ T) (k2 : Part.acc ∈ T) :
    Frame T d0 { d with hat := v0, acc := v1 } :=
  Frame.upd_acc (v := v1) (Frame.upd_hat (v := v0) h k1) k2

theorem Frame.upd_ing_acc_mctl (h : Frame T d0 d) {v0} {v1} {v2} (k1 : Part.ing ∈ T) (k2 : Part.acc ∈ T) (k3 : Part.mctl ∈ T) :
    Frame T d0 { d with ing := v0, acc := v1, mctl := v2 } :=
  Frame.upd_mctl (v := v2) (Frame.upd_acc (v := v1) (Frame.upd_ing (v := v0) h k1) k2) k3

theorem Frame.upd_ing_dkl_hat_acc_bmf_trg (h : Frame T d0 d) {v0} {v1} {v2} {v3} {v4} {v5} (k1 : Part.ing ∈ T) (k2 : Part.dkl ∈ T) (k3 : Part.hat ∈ T) (k4 : Part.acc ∈ T) (k5 : Part.bmf ∈ T) (k6 : Part.trg ∈ T) :
    Frame T d0 { d with ing := v0, dkl := v1, hat := v2, acc := v3, bmf := v4, trg := v5 } :=
  Frame.upd_trg (v := v5) (Frame.upd_bmf (v := v4) (Frame.upd_acc (v := v3) (Frame.upd_hat (v := v2) (Frame.upd_dkl (v := v1) (Frame.upd_ing (v := v0) h k1) k2) k3) k4) k5) k6

theorem Frame.upd_live_nextc (h : Frame T d0 d) {v0} {v1} (k1 : Part.live ∈ T) (k2 : Part.nextc ∈ T) :
    Frame T d0 { d with live := v0, nextc := v1 } :=
  Frame.upd_nextc (v := v1) (Frame.upd_live (v := v0) h k1) k2

theorem Frame.upd_lnb_ing (h : Frame T d0 d) {v0} {v1} (k1 : Part.lnb ∈ T) (k2 : Part.ing ∈ T) :
    Frame T d0 { d with lnb := v0, ing := v1 } :=
  Frame.upd_ing (v := v1) (Frame.upd_lnb (v := v0) h k1) k2

theorem Frame.upd_lnb_ing_acc (h : Frame T d0 d) {v0} {v1} {v2} (k1 : Part.lnb ∈ T) (k2 : Part.ing ∈ T) (k3 : Part.acc ∈ T) :
    Frame T d0 { d with lnb := v0, ing := v1, acc := v2 } :=
  Frame.upd_acc (v := v2) (Frame.upd_ing (v := v1) (Frame.upd_lnb (v := v0) h k1) k2) k3

theorem Frame.upd_msp_mspSh_monword (h : Frame T d0 d) {v0} {v1} {v2} (k1 : Part.msp ∈ T) (k2 : Part.mspSh ∈ T) (k3 : Part.monword ∈ T) :
    Frame T d0 { d with msp := v0, mspSh := v1, monword := v2 } :=
  Frame.upd_monword (v := v2) (Frame.upd_mspSh (v := v1) (Frame.upd_msp (v := v0) h k1) k2) k3

theorem Frame.upd_plt_ing (h : Frame T d0 d) {v0} {v1} (k1 : Part.plt ∈ T) (k2 : Part.ing ∈ T) :
    Frame T d0 { d with plt := v0, ing := v1 } :=
  Frame.upd_ing (v := v1) (Frame.upd_plt (v := v0) h k1) k2

theorem Frame.upd_plt_run (h : Frame T d0 d) {v0} {v1} (k1 : Part.plt ∈ T) (k2 : Part.run ∈ T) :
    Frame T d0 { d with plt := v0, run := v1 } :=
  Frame.upd_run (v := v1) (Frame.upd_plt (v := v0) h k1) k2

theorem Frame.upd_pwr_acc (h : Frame T d0 d) {v0} {v1} (k1 : Part.pwr ∈ T) (k2 : Part.acc ∈ T) :
    Frame T d0 { d with pwr := v0, acc := v1 } :=
  Frame.upd_acc (v := v1) (Frame.upd_pwr (v := v0) h k1) k2

theorem Frame.upd_regs_act_stats_live_nextc (h : Frame T d0 d) {v0} {v1} {v2} {v3} {v4} (k1 : Part.regs ∈ T) (k2 : Part.pba ∈ T) (k3 : Part.act ∈ T) (k4 : Part.stats ∈ T) (k5 : Part.live ∈ T) (k6 : Part.nextc ∈ T) :
    Frame T d0 { d with regs := v0, act := v1, stats := v2, live := v3, nextc := v4 } :=
  Frame.upd_nextc (v := v4) (Frame.upd_live (v := v3) (Frame.upd_stats (v := v2) (Frame.upd_act (v := v1) (Frame.upd_regs (v := v0) h k1 k2) k3) k4) k5) k6

theorem Frame.upd_stats_live_nextc_pwr (h : Frame T d0 d) {v0} {v1} {v2} {v3} (k1 : Part.stats ∈ T) (k2 : Part.live ∈ T) (k3 : Part.nextc ∈ T) (k4 : Part.pwr ∈ T) :
    Frame T d0 { d with stats := v0, live := v1, nextc := v2, pwr := v3 } :=
  Frame.upd_pwr (v := v3) (Frame.upd_nextc (v := v2) (Frame.upd_live (v := v1) (Frame.upd_stats (v := v0) h k1) k2) k3) k4

theorem Frame.upd_sys_boot (h : Frame T d0 d) {v0 : SysSt} {v1} (k1 : v0.state = d.sys.state ∨ Part.state ∈ T) (k2 : (v0.cmdstat = d.sys.cmdstat ∧ v0.cmdPend = d.sys.cmdPend) ∨ Part.cmd ∈ T) (k3 : (v0.errlog = d.sys.errlog ∧ v0.errlogDisc = d.sys.errlogDisc ∧ v0.errlogT = d.sys.errlogT) ∨ Part.errlog ∈ T) (k4 : v0.out = d.sys.out ∨ Part.out ∈ T) (k5 : (v0.sheetcnt = d.sys.sheetcnt ∧ v0.reamcnt = d.sys.reamcnt ∧ v0.sfnLatch = d.sys.sfnLatch ∧
      v0.before = d.sys.before) ∨ Part.sys ∈ T) (k6 : Part.boot ∈ T) :
    Frame T d0 { d with sys := v0, boot := v1 } :=
  Frame.upd_boot (v := v1) (Frame.upd_sys (v := v0) h k1 k2 k3 k4 k5) k6

theorem Frame.upd_sys_run (h : Frame T d0 d) {v0 : SysSt} {v1} (k1 : v0.state = d.sys.state ∨ Part.state ∈ T) (k2 : (v0.cmdstat = d.sys.cmdstat ∧ v0.cmdPend = d.sys.cmdPend) ∨ Part.cmd ∈ T) (k3 : (v0.errlog = d.sys.errlog ∧ v0.errlogDisc = d.sys.errlogDisc ∧ v0.errlogT = d.sys.errlogT) ∨ Part.errlog ∈ T) (k4 : v0.out = d.sys.out ∨ Part.out ∈ T) (k5 : (v0.sheetcnt = d.sys.sheetcnt ∧ v0.reamcnt = d.sys.reamcnt ∧ v0.sfnLatch = d.sys.sfnLatch ∧
      v0.before = d.sys.before) ∨ Part.sys ∈ T) (k6 : Part.run ∈ T) :
    Frame T d0 { d with sys := v0, run := v1 } :=
  Frame.upd_run (v := v1) (Frame.upd_sys (v := v0) h k1 k2 k3 k4 k5) k6

theorem Frame.upd_sys_run_ing (h : Frame T d0 d) {v0 : SysSt} {v1} {v2} (k1 : v0.state = d.sys.state ∨ Part.state ∈ T) (k2 : (v0.cmdstat = d.sys.cmdstat ∧ v0.cmdPend = d.sys.cmdPend) ∨ Part.cmd ∈ T) (k3 : (v0.errlog = d.sys.errlog ∧ v0.errlogDisc = d.sys.errlogDisc ∧ v0.errlogT = d.sys.errlogT) ∨ Part.errlog ∈ T) (k4 : v0.out = d.sys.out ∨ Part.out ∈ T) (k5 : (v0.sheetcnt = d.sys.sheetcnt ∧ v0.reamcnt = d.sys.reamcnt ∧ v0.sfnLatch = d.sys.sfnLatch ∧
      v0.before = d.sys.before) ∨ Part.sys ∈ T) (k6 : Part.run ∈ T) (k7 : Part.ing ∈ T) :
    Frame T d0 { d with sys := v0, run := v1, ing := v2 } :=
  Frame.upd_ing (v := v2) (Frame.upd_run (v := v1) (Frame.upd_sys (v := v0) h k1 k2 k3 k4 k5) k6) k7

theorem Frame.upd_trg_pair (h : Frame T d0 d) {v0} {v1} (k1 : Part.trg ∈ T) (k2 : Part.pair ∈ T) :
    Frame T d0 { d with trg := v0, pair := v1 } :=
  Frame.upd_pair (v := v1) (Frame.upd_trg (v := v0) h k1) k2

/-! ### Primitive operations -/

@[simp] theorem Dev.reg_setReg (d : Dev) (a b : Nat) (v : Word) : (d.setReg a v).reg b = if b = a then v else d.reg b := by
  by_cases h : b = a
  · subst h; simp [Dev.reg, Dev.setReg]
  · simp [Dev.reg, Dev.setReg, h, Tab.get_set_ne]

@[simp] theorem Dev.actReg_setAct (d : Dev) (a b : Nat) (v : Word) :
    (d.setAct a v).actReg b = if b = a then v else d.actReg b := by
  by_cases h : b = a
  · subst h; simp [Dev.actReg, Dev.setAct]
  · simp [Dev.actReg, Dev.setAct, h, Tab.get_set_ne]

@[simp] theorem Dev.page_setPage (d : Dev) (p q : Nat) (g : Page) :
    (d.setPage p g).page q = if q = p then g else d.page q := by
  simp [Dev.page, Dev.setPage, Tab.get_set]

/-- A stored word outside the MSI-X pending array is written. -/
theorem Frame.setReg {a : Nat} {v : Word} (h : Frame T d0 d) (h1 : Part.regs ∈ T) (h2 : isPba a = false ∨ Part.pba ∈ T) :
    Frame T d0 (d.setReg a v) := by
  refine h.trans fun p hp => ?_
  cases p
  case regs => exact absurd h1 hp
  case pba =>
    rcases h2 with h2 | h2
    · intro b hb
      rw [Dev.reg_setReg, if_neg]
      rintro rfl
      rw [h2] at hb; cases hb
    · exact absurd h2 hp
  all_goals first | exact rfl | exact fun _ _ => rfl | exact fun _ => rfl | exact fun _ => ⟨rfl, rfl⟩ | exact ⟨rfl, rfl⟩ | exact ⟨rfl, rfl, rfl⟩ | exact ⟨rfl, rfl, rfl, rfl⟩

/-- A word of the MSI-X pending array is written. -/
theorem Frame.setPba {a : Nat} {v : Word} (h : Frame T d0 d) (ha : isPba a = true) (h1 : Part.pba ∈ T) :
    Frame T d0 (d.setReg a v) := by
  refine h.trans fun p hp => ?_
  cases p
  case pba => exact absurd h1 hp
  case regs =>
    intro b hb
    rw [Dev.reg_setReg, if_neg]
    rintro rfl
    rw [ha] at hb; cases hb
  all_goals first | exact rfl | exact fun _ _ => rfl | exact fun _ => rfl | exact fun _ => ⟨rfl, rfl⟩ | exact ⟨rfl, rfl⟩ | exact ⟨rfl, rfl, rfl⟩ | exact ⟨rfl, rfl, rfl, rfl⟩

theorem Frame.setAct {a : Nat} {v : Word} (h : Frame T d0 d) (h1 : Part.act ∈ T) : Frame T d0 (d.setAct a v) :=
  h.upd_act h1

/-- A page's header takes a value: what differs is touched. -/
theorem Frame.setPage {q : Nat} {g : Page} (h : Frame T d0 d) (h1 : g.hdr = (d.page q).hdr ∨ Part.hdr ∈ T)
    (h2 : g.perr = (d.page q).perr ∨ Part.perr ∈ T)
    (h3 : (g.pirq = (d.page q).pirq ∧ g.owed = (d.page q).owed) ∨ Part.pirq ∈ T) : Frame T d0 (d.setPage q g) := by
  refine h.trans fun p hp => ?_
  cases p
  case hdr =>
    intro x; rw [Dev.page_setPage]
    rcases h1 with h1 | h1
    · split
      · next hx => rw [hx, h1]
      · rfl
    · exact absurd h1 hp
  case perr =>
    intro x; rw [Dev.page_setPage]
    rcases h2 with h2 | h2
    · split
      · next hx => rw [hx, h2]
      · rfl
    · exact absurd h2 hp
  case pirq =>
    intro x; rw [Dev.page_setPage]
    rcases h3 with h3 | h3
    · split
      · next hx => rw [hx]; exact ⟨h3.1.symm, h3.2.symm⟩
      · exact ⟨rfl, rfl⟩
    · exact absurd h3 hp
  all_goals first | exact rfl | exact fun _ _ => rfl | exact fun _ => rfl | exact fun _ => ⟨rfl, rfl⟩ | exact ⟨rfl, rfl⟩ | exact ⟨rfl, rfl, rfl⟩ | exact ⟨rfl, rfl, rfl, rfl⟩

theorem Frame.modPage {q : Nat} {f : Page → Page} (h : Frame T d0 d) (h1 : (∀ g, (f g).hdr = g.hdr) ∨ Part.hdr ∈ T)
    (h2 : (∀ g, (f g).perr = g.perr) ∨ Part.perr ∈ T)
    (h3 : (∀ g, (f g).pirq = g.pirq ∧ (f g).owed = g.owed) ∨ Part.pirq ∈ T) : Frame T d0 (d.modPage q f) :=
  h.setPage (h1.imp (fun k => k _) id) (h2.imp (fun k => k _) id) (h3.imp (fun k => k _) id)

end Sys2Proof.Machine
end

