-- ==== Sys2Proof/Laws/FrameBase.lean ====
section
/-! SUPPORT. Frames, one lemma a function: the shared operations, the time bases, the clock unit, the lanes and the cipher. -/

namespace Sys2Proof.Machine

variable {T : List Part} {d0 : Dev}

/-! ### Ops -/

theorem Dev.setReg_frame {d a v} : Frame [.regs, .pba] d (Dev.setReg d a v) := by
  unfold Dev.setReg
  refine Frame.upd_regs ?_ (by decide) (by decide)
  exact Frame.refl _ _

theorem Dev.setAct_frame {d a v} : Frame [.act] d (Dev.setAct d a v) := by
  unfold Dev.setAct
  refine Frame.upd_act ?_ (by decide)
  exact Frame.refl _ _

theorem Dev.setPage_frame {d p v} : Frame [.hdr, .perr, .pirq] d (Dev.setPage d p v) := by
  unfold Dev.setPage
  refine Frame.upd_pages ?_ (by decide) (by decide) (by decide)
  exact Frame.refl _ _

theorem Dev.modPage_frame {d p f2} : Frame [.hdr, .perr, .pirq] d (Dev.modPage d p f2) := by
  unfold Dev.modPage
  refine Frame.setPage ?_ (.inr (by decide)) (.inr (by decide)) (.inr (by decide))
  exact Frame.refl _ _

theorem Dev.fresh_frame {d} : Frame [.free] d (Dev.fresh d).2 := by
  unfold Dev.fresh
  refine Frame.upd_free ?_ (by decide)
  exact Frame.refl _ _

theorem Dev.emit_frame {d o} : Frame [.out] d (Dev.emit d o) := by
  unfold Dev.emit
  refine Frame.upd_sys ?_ (.inl rfl) (.inl ⟨rfl, rfl⟩) (.inl ⟨rfl, rfl, rfl⟩) (.inr (by decide)) (.inl ⟨rfl, rfl, rfl, rfl⟩)
  exact Frame.refl _ _

theorem Dev.bump_frame {d p off n} : Frame [.live] d (Dev.bump d p off n) := by
  unfold Dev.bump
  refine Frame.upd_live ?_ (by decide)
  exact Frame.refl _ _

theorem Dev.egClear_frame {d} : Frame [.bmf] d (Dev.egClear d) := by
  unfold Dev.egClear
  refine Frame.upd_bmf ?_ (by decide)
  exact Frame.refl _ _

theorem Dev.egLost_frame {d} : Frame [.live, .bmf] d (Dev.egLost d) := by
  unfold Dev.egLost
  refine Frame.ite ?_ ?_
  exact Frame.refl _ _
  refine Frame.next ?_ Dev.egClear_frame (by decide)
  refine Frame.next ?_ Dev.bump_frame (by decide)
  exact Frame.refl _ _

theorem Dev.peak_frame {d p off n} : Frame [.live] d (Dev.peak d p off n) := by
  unfold Dev.peak
  refine Frame.upd_live ?_ (by decide)
  exact Frame.refl _ _

theorem Dev.bumpNext_frame {d p off n} : Frame [.nextc] d (Dev.bumpNext d p off n) := by
  unfold Dev.bumpNext
  refine Frame.upd_nextc ?_ (by decide)
  exact Frame.refl _ _

theorem isPba_word (v : Nat) (hv : v < 256) : isPba (bar pgHIF (0x5000 + v / 32 * 4)) = true := by
  unfold isPba bar pgHIF
  simp only [Bool.and_eq_true, decide_eq_true_eq]
  omega

theorem Dev.sendVector_touches {d : Dev} {v : Nat} (hv : v < 256) : Frame [.pba, .out] d (d.sendVector v) := by
  unfold Dev.sendVector
  refine Frame.ite ?_ ?_
  · exact (Frame.refl _ _).setPba (isPba_word v hv) (by decide)
  · refine Frame.next ?_ Dev.emit_frame (by decide)
    exact Frame.refl _ _

theorem Dev.sendIrq_frame {d p} : Frame [.pba, .pirq, .out] d (Dev.sendIrq d p) := by
  unfold Dev.sendIrq
  refine Frame.ite ?_ ?_
  · exact (Dev.sendVector_touches (Nat.mod_lt _ (by decide))).mono (by decide)
  · refine Frame.modPage ?_ (.inl fun _ => rfl) (.inl fun _ => rfl) (.inr (by decide))
    exact Frame.refl _ _

theorem Dev.ibi_frame {d p} : Frame [.out] d (Dev.ibi d p) := by
  unfold Dev.ibi
  refine Frame.ite ?_ ?_
  refine Frame.next ?_ Dev.emit_frame (by decide)
  exact Frame.refl _ _
  exact Frame.refl _ _

theorem Dev.raise_frame {d p bits} : Frame [.pba, .pirq, .out] d (Dev.raise d p bits) := by
  unfold Dev.raise
  refine Frame.ite ?_ ?_
  refine Frame.next ?_ Dev.sendIrq_frame (by decide)
  refine Frame.next ?_ Dev.ibi_frame (by decide)
  refine Frame.setPage ?_ (.inl rfl) (.inl rfl) (.inr (by decide))
  exact Frame.refl _ _
  refine Frame.next ?_ Dev.ibi_frame (by decide)
  refine Frame.setPage ?_ (.inl rfl) (.inl rfl) (.inr (by decide))
  exact Frame.refl _ _

theorem Dev.payOwed_frame {d} : Frame [.pba, .pirq, .out] d (Dev.payOwed d) := by
  unfold Dev.payOwed
  refine Frame.foldl (Frame.refl _ _) fun e a h => ?_
  refine Frame.ite (Frame.ite ?_ ?_) h
  · refine Frame.next ?_ (Dev.sendVector_touches (Nat.mod_lt _ (by decide))) (by decide)
    exact h.setPage (.inl rfl) (.inl rfl) (.inr (by decide))
  · exact h.setPage (.inl rfl) (.inl rfl) (.inr (by decide))

theorem Dev.setState_frame {d s} : Frame [.pba, .pirq, .state, .out] d (Dev.setState d s) := by
  unfold Dev.setState
  refine Frame.ite ?_ ?_
  exact Frame.refl _ _
  refine Frame.next ?_ Dev.raise_frame (by decide)
  refine Frame.upd_sys ?_ (.inr (by decide)) (.inl ⟨rfl, rfl⟩) (.inl ⟨rfl, rfl, rfl⟩) (.inl rfl) (.inl ⟨rfl, rfl, rfl, rfl⟩)
  exact Frame.refl _ _

theorem Dev.logErr_frame {d e1} : Frame [.errlog] d (Dev.logErr d e1) := by
  unfold Dev.logErr
  refine Frame.ite ?_ ?_
  refine Frame.upd_sys ?_ (.inl rfl) (.inl ⟨rfl, rfl⟩) (.inr (by decide)) (.inl rfl) (.inl ⟨rfl, rfl, rfl, rfl⟩)
  exact Frame.refl _ _
  refine Frame.upd_sys ?_ (.inl rfl) (.inl ⟨rfl, rfl⟩) (.inr (by decide)) (.inl rfl) (.inl ⟨rfl, rfl, rfl, rfl⟩)
  exact Frame.refl _ _

theorem Dev.logEvent_frame {d p word} : Frame [.errlog] d (Dev.logEvent d p word) := by
  unfold Dev.logEvent
  refine Frame.next ?_ Dev.logErr_frame (by decide)
  exact Frame.refl _ _

theorem Dev.perr_frame {d p c off} : Frame [.perr] d (Dev.perr d p c off) := by
  unfold Dev.perr
  refine Frame.modPage ?_ (.inl fun _ => rfl) (.inr (by decide)) (.inl fun _ => ⟨rfl, rfl⟩)
  exact Frame.refl _ _

theorem Dev.reject_frame {d p off c} : Frame [.pba, .perr, .pirq, .errlog, .out] d (Dev.reject d p off c) := by
  unfold Dev.reject
  refine Frame.ite ?_ ?_
  refine Frame.next ?_ Dev.raise_frame (by decide)
  refine Frame.next ?_ Dev.logErr_frame (by decide)
  refine Frame.next ?_ Dev.perr_frame (by decide)
  exact Frame.refl _ _
  refine Frame.next ?_ Dev.logErr_frame (by decide)
  refine Frame.next ?_ Dev.perr_frame (by decide)
  exact Frame.refl _ _

theorem Dev.guard_frame {d p off errs f4}
    (h : Frame T d0 d) (hf : ∀ e, Frame T d0 e → Frame T d0 (f4 e)) (hT : [.pba, .perr, .pirq, .errlog, .out] ⊆ T) :
      Frame T d0 (Dev.guard d p off errs f4) := by
  unfold Dev.guard
  split
  refine Frame.next ?_ Dev.reject_frame (List.Subset.trans (by decide) hT)
  assumption
  refine hf _ ?_
  assumption

theorem Dev.setByte_frame {d a b} : Frame [.mem] d (Dev.setByte d a b) := by
  unfold Dev.setByte
  refine Frame.upd_mem ?_ (by decide)
  exact Frame.refl _ _

theorem Dev.putBytes_frame {d a l} : Frame [.mem] d (Dev.putBytes d a l) := by
  unfold Dev.putBytes
  refine Frame.upd_mem ?_ (by decide)
  exact Frame.refl _ _

/-! ### Operands -/

theorem Dev.setLane_frame {d n v} : Frame [.lnb] d (Dev.setLane d n v) := by
  unfold Dev.setLane
  refine Frame.upd_lnb ?_ (by decide)
  exact Frame.refl _ _

/-! ### Time -/

theorem Dev.alarmFire_frame {d n step late}
    : Frame [.pba, .pirq, .live, .out, .time] d (Dev.alarmFire d n step late) := by
  unfold Dev.alarmFire
  refine Frame.next ?_ Dev.raise_frame (by decide)
  refine Frame.next ?_ Dev.bump_frame (by decide)
  refine Frame.upd_time ?_ (.inl rfl) (.inr (by decide))
  exact Frame.refl _ _

theorem Dev.alarmsOnStep_frame {d i old} : Frame [.pba, .pirq, .live, .out, .time] d (Dev.alarmsOnStep d i old) := by
  unfold Dev.alarmsOnStep
  refine Frame.foldl ?_ ?_
  exact Frame.refl _ _
  intro _ _ _
  refine Frame.ite ?_ ?_
  refine Frame.next ?_ Dev.alarmFire_frame (by decide)
  assumption
  assumption

theorem Dev.stepped_frame {d i old ns} : Frame [.pba, .pirq, .live, .out, .time] d (Dev.stepped d i old ns) := by
  unfold Dev.stepped
  refine Frame.next ?_ Dev.alarmsOnStep_frame (by decide)
  refine Frame.next ?_ Dev.raise_frame (by decide)
  refine Frame.next ?_ Dev.bump_frame (by decide)
  refine Frame.upd_time ?_ (.inl (TimeSt.loc_setBase ..)) (.inr (by decide))
  exact Frame.refl _ _

theorem Dev.sampleStep_frame {d} : Frame [.pba, .pirq, .live, .out, .time] d (Dev.sampleStep d) := by
  unfold Dev.sampleStep
  refine Frame.next ?_ Dev.stepped_frame (by decide)
  refine Frame.upd_time ?_ (.inl rfl) (.inr (by decide))
  exact Frame.refl _ _

theorem Dev.sampleSlew_frame {d} : Frame [.time] d (Dev.sampleSlew d) := by
  unfold Dev.sampleSlew
  refine Frame.upd_time ?_ (.inl rfl) (.inr (by decide))
  exact Frame.refl _ _

theorem Dev.sampleFollow_frame {d} : Frame [.pba, .pirq, .live, .out, .time] d (Dev.sampleFollow d) := by
  unfold Dev.sampleFollow
  refine Frame.ite ?_ ?_
  exact Frame.refl _ _
  refine Frame.ite ?_ ?_
  refine Frame.next ?_ Dev.sampleSlew_frame (by decide)
  exact Frame.refl _ _
  refine Frame.next ?_ Dev.sampleStep_frame (by decide)
  refine Frame.upd_time ?_ (.inl rfl) (.inr (by decide))
  exact Frame.refl _ _

theorem Dev.arrayStep_frame {d v} : Frame [.pba, .pirq, .live, .out, .time] d (Dev.arrayStep d v) := by
  unfold Dev.arrayStep
  refine Frame.next ?_ Dev.sampleFollow_frame (by decide)
  refine Frame.next ?_ Dev.stepped_frame (by decide)
  refine Frame.upd_time ?_ (.inl rfl) (.inr (by decide))
  exact Frame.refl _ _

theorem Dev.peerStep_frame {d v} : Frame [.pba, .pirq, .live, .out, .time] d (Dev.peerStep d v) := by
  unfold Dev.peerStep
  refine Frame.next ?_ Dev.stepped_frame (by decide)
  refine Frame.upd_time ?_ (.inl rfl) (.inr (by decide))
  exact Frame.refl _ _

theorem Dev.baseVanish_frame {d i} : Frame [.pba, .pirq, .out, .time] d (Dev.baseVanish d i) := by
  unfold Dev.baseVanish
  refine Frame.ite ?_ ?_
  refine Frame.ite ?_ ?_
  refine Frame.next ?_ Dev.raise_frame (by decide)
  refine Frame.upd_time ?_ (.inl (TimeSt.loc_setBase ..)) (.inr (by decide))
  exact Frame.refl _ _
  refine Frame.upd_time ?_ (.inl (TimeSt.loc_setBase ..)) (.inr (by decide))
  exact Frame.refl _ _
  exact Frame.refl _ _

theorem Dev.baseReselect_frame {d i masterOk}
    : Frame [.pba, .pirq, .live, .out, .time] d (Dev.baseReselect d i masterOk) := by
  unfold Dev.baseReselect
  refine Frame.ite ?_ ?_
  refine Frame.upd_time ?_ (.inl (TimeSt.loc_setBase ..)) (.inr (by decide))
  refine Frame.upd_time ?_ (.inl (TimeSt.loc_setBase ..)) (.inr (by decide))
  exact Frame.refl _ _
  refine Frame.ite ?_ ?_
  refine Frame.upd_time ?_ (.inl (TimeSt.loc_setBase ..)) (.inr (by decide))
  exact Frame.refl _ _
  refine Frame.ite ?_ ?_
  refine Frame.ite ?_ ?_
  refine Frame.next ?_ Dev.arrayStep_frame (by decide)
  refine Frame.upd_time ?_ (.inl (TimeSt.loc_setBase ..)) (.inr (by decide))
  exact Frame.refl _ _
  refine Frame.upd_time ?_ (.inl (TimeSt.loc_setBase ..)) (.inr (by decide))
  exact Frame.refl _ _
  refine Frame.ite ?_ ?_
  refine Frame.ite ?_ ?_
  refine Frame.next ?_ Dev.sampleSlew_frame (by decide)
  refine Frame.upd_time ?_ (.inl (TimeSt.loc_setBase ..)) (.inr (by decide))
  exact Frame.refl _ _
  refine Frame.next ?_ Dev.sampleStep_frame (by decide)
  refine Frame.upd_time ?_ (.inl (TimeSt.loc_setBase ..)) (.inr (by decide))
  exact Frame.refl _ _
  refine Frame.ite ?_ ?_
  refine Frame.next ?_ Dev.peerStep_frame (by decide)
  refine Frame.upd_time ?_ (.inl (TimeSt.loc_setBase ..)) (.inr (by decide))
  exact Frame.refl _ _
  refine Frame.upd_time ?_ (.inl (TimeSt.loc_setBase ..)) (.inr (by decide))
  exact Frame.refl _ _

theorem Dev.measure_frame {d i value freq}
    : Frame [.pba, .pirq, .live, .out, .time] d (Dev.measure d i value freq) := by
  unfold Dev.measure
  refine Frame.ite ?_ ?_
  exact Frame.refl _ _
  refine Frame.ite ?_ ?_
  refine Frame.ite ?_ ?_
  exact Frame.refl _ _
  refine Frame.ite ?_ ?_
  refine Frame.ite ?_ ?_
  refine Frame.upd_time ?_ (.inl rfl) (.inr (by decide))
  refine Frame.next ?_ Dev.arrayStep_frame (by decide)
  exact Frame.refl _ _
  refine Frame.next ?_ Dev.arrayStep_frame (by decide)
  exact Frame.refl _ _
  refine Frame.upd_time ?_ (.inl (TimeSt.loc_setBase ..)) (.inr (by decide))
  exact Frame.refl _ _
  refine Frame.ite ?_ ?_
  refine Frame.ite ?_ ?_
  refine Frame.next ?_ Dev.baseVanish_frame (by decide)
  exact Frame.refl _ _
  refine Frame.ite ?_ ?_
  exact Frame.refl _ _
  refine Frame.ite ?_ ?_
  refine Frame.next ?_ Dev.sampleStep_frame (by decide)
  exact Frame.refl _ _
  refine Frame.upd_time ?_ (.inl (TimeSt.loc_setBase ..)) (.inr (by decide))
  exact Frame.refl _ _
  refine Frame.ite ?_ ?_
  refine Frame.ite ?_ ?_
  refine Frame.upd_time ?_ (.inl (TimeSt.loc_setBase ..)) (.inr (by decide))
  exact Frame.refl _ _
  exact Frame.refl _ _
  exact Frame.refl _ _

theorem Dev.tick_frame {d} : Frame [.live, .loc, .time] d (Dev.tick d) := by
  unfold Dev.tick
  extract_lets t holds d1 d2 d3
  have e1 : Frame [.live, .loc, .time] d d1 := Frame.ite (Frame.refl _ _) (Frame.next (Frame.refl _ _) Dev.bump_frame (by decide))
  have e2 : Frame [.live, .loc, .time] d d2 := Frame.ite (Frame.next e1 Dev.bump_frame (by decide)) e1
  have e3 : Frame [.live, .loc, .time] d d3 := Frame.ite (Frame.next e2 Dev.bump_frame (by decide)) e2
  exact Frame.upd_time e3 (.inr (by decide)) (.inr (by decide))

theorem Dev.snapWrite_frame {d v} : Frame [.pba, .perr, .pirq, .errlog, .out, .time] d (Dev.snapWrite d v) := by
  unfold Dev.snapWrite
  refine Dev.guard_frame ?_ ?_ (by decide)
  exact Frame.refl _ _
  intro _ _
  refine Frame.ite ?_ ?_
  refine Frame.upd_time ?_ (.inl rfl) (.inr (by decide))
  assumption
  assumption

theorem Dev.baseCfgWrite_frame {d v masterOk}
    : Frame [.pba, .perr, .pirq, .live, .errlog, .out, .time] d (Dev.baseCfgWrite d v masterOk) := by
  unfold Dev.baseCfgWrite
  refine Dev.guard_frame ?_ ?_ (by decide)
  exact Frame.refl _ _
  intro _ _
  refine Frame.ite ?_ ?_
  refine Frame.upd_time ?_ (.inl (TimeSt.loc_setBase ..)) (.inr (by decide))
  assumption
  refine Frame.next ?_ Dev.baseReselect_frame (by decide)
  refine Frame.upd_time ?_ (.inl (TimeSt.loc_setBase ..)) (.inr (by decide))
  assumption

theorem Dev.slewDone_frame {d} : Frame [.pba, .pirq, .out, .time] d (Dev.slewDone d) := by
  unfold Dev.slewDone
  refine Frame.ite ?_ ?_
  refine Frame.next ?_ Dev.raise_frame (by decide)
  refine Frame.upd_time ?_ (.inl rfl) (.inr (by decide))
  exact Frame.refl _ _
  exact Frame.refl _ _

theorem Dev.almCtlWrite_frame {d n v}
    : Frame [.pba, .perr, .pirq, .live, .errlog, .out, .time] d (Dev.almCtlWrite d n v) := by
  unfold Dev.almCtlWrite
  refine Dev.guard_frame ?_ ?_ (by decide)
  exact Frame.refl _ _
  intro _ _
  refine Frame.ite ?_ ?_
  refine Frame.ite ?_ ?_
  refine Frame.next ?_ Dev.alarmFire_frame (by decide)
  refine Frame.upd_time ?_ (.inl rfl) (.inr (by decide))
  assumption
  refine Frame.upd_time ?_ (.inl rfl) (.inr (by decide))
  assumption
  refine Frame.upd_time ?_ (.inl rfl) (.inr (by decide))
  assumption

theorem Dev.alarmDue_frame {d n} : Frame [.pba, .pirq, .live, .out, .time] d (Dev.alarmDue d n) := by
  unfold Dev.alarmDue
  refine Frame.ite ?_ ?_
  refine Frame.next ?_ Dev.alarmFire_frame (by decide)
  exact Frame.refl _ _
  exact Frame.refl _ _

/-! ### Clk -/

theorem Dev.setRef_frame {d i r} : Frame [.clk] d (Dev.setRef d i r) := by
  unfold Dev.setRef
  refine Frame.upd_clk ?_ (by decide)
  exact Frame.refl _ _

theorem Dev.setOut_frame {d i o} : Frame [.clk] d (Dev.setOut d i o) := by
  unfold Dev.setOut
  refine Frame.upd_clk ?_ (by decide)
  exact Frame.refl _ _

theorem Dev.masters_frame {d} : Frame [.pba, .pirq, .live, .out, .time] d (Dev.masters d) := by
  unfold Dev.masters
  refine Frame.foldl ?_ ?_
  exact Frame.refl _ _
  intro _ _ _
  refine Frame.ite ?_ ?_
  assumption
  refine Frame.ite ?_ ?_
  refine Frame.next ?_ Dev.baseVanish_frame (by decide)
  assumption
  refine Frame.ite ?_ ?_
  refine Frame.next ?_ Dev.baseReselect_frame (by decide)
  assumption
  assumption

theorem Dev.enterHoldover_frame {d} : Frame [.pba, .pirq, .live, .out, .clk] d (Dev.enterHoldover d) := by
  unfold Dev.enterHoldover
  refine Frame.next ?_ Dev.raise_frame (by decide)
  refine Frame.next ?_ Dev.bump_frame (by decide)
  refine Frame.upd_clk ?_ (by decide)
  exact Frame.refl _ _

theorem Dev.leaveHoldover_frame {d} : Frame [.live, .clk, .acc] d (Dev.leaveHoldover d) := by
  unfold Dev.leaveHoldover
  split
  exact Frame.refl _ _
  refine Frame.upd_clk_acc ?_ (by decide) (by decide)
  exact Frame.refl _ _

theorem Dev.startSwitch_frame {d i} : Frame [.live, .clk, .acc] d (Dev.startSwitch d i) := by
  unfold Dev.startSwitch
  refine Frame.upd_clk ?_ (by decide)
  refine Frame.next ?_ Dev.leaveHoldover_frame (by decide)
  refine Frame.ite ?_ ?_
  refine Frame.next ?_ Dev.bump_frame (by decide)
  exact Frame.refl _ _
  refine Frame.next ?_ Dev.bump_frame (by decide)
  exact Frame.refl _ _

theorem Dev.acquire_frame {d i} : Frame [.live, .clk, .acc] d (Dev.acquire d i) := by
  unfold Dev.acquire
  refine Frame.ite ?_ ?_
  refine Frame.upd_clk ?_ (by decide)
  refine Frame.next ?_ Dev.bump_frame (by decide)
  refine Frame.next ?_ Dev.startSwitch_frame (by decide)
  exact Frame.refl _ _
  refine Frame.next ?_ Dev.startSwitch_frame (by decide)
  exact Frame.refl _ _

theorem Dev.select_frame {d} : Frame [.pba, .pirq, .live, .out, .clk, .acc] d (Dev.select d) := by
  unfold Dev.select
  refine Frame.ite ?_ ?_
  exact Frame.refl _ _
  refine Frame.ite ?_ ?_
  refine Frame.upd_clk ?_ (by decide)
  refine Frame.next ?_ Dev.raise_frame (by decide)
  exact Frame.refl _ _
  split
  refine Frame.next ?_ Dev.acquire_frame (by decide)
  refine Frame.next ?_ Dev.raise_frame (by decide)
  exact Frame.refl _ _
  refine Frame.ite ?_ ?_
  refine Frame.upd_clk ?_ (by decide)
  refine Frame.next ?_ Dev.raise_frame (by decide)
  exact Frame.refl _ _
  refine Frame.next ?_ Dev.enterHoldover_frame (by decide)
  refine Frame.next ?_ Dev.raise_frame (by decide)
  exact Frame.refl _ _

theorem Dev.disqualify_frame {d i cause}
    : Frame [.pba, .pirq, .live, .out, .time, .clk, .acc] d (Dev.disqualify d i cause) := by
  unfold Dev.disqualify
  refine Frame.next ?_ Dev.select_frame (by decide)
  refine Frame.next ?_ Dev.masters_frame (by decide)
  refine Frame.ite ?_ ?_
  refine Frame.next ?_ Dev.raise_frame (by decide)
  refine Frame.next ?_ Dev.bump_frame (by decide)
  refine Frame.next ?_ Dev.setRef_frame (by decide)
  exact Frame.refl _ _
  refine Frame.next ?_ Dev.setRef_frame (by decide)
  exact Frame.refl _ _

theorem Dev.loopInput_frame {d i foffs phase} : Frame [.clk] d (Dev.loopInput d i foffs phase) := by
  unfold Dev.loopInput
  refine Frame.ite ?_ ?_
  exact Frame.refl _ _
  refine Frame.ite ?_ ?_
  refine Frame.upd_clk ?_ (by decide)
  exact Frame.refl _ _
  refine Frame.upd_clk ?_ (by decide)
  exact Frame.refl _ _

theorem Dev.refEdge_frame {d i foffs fxtal jump phase}
    : Frame [.pba, .pirq, .live, .out, .time, .clk, .acc] d (Dev.refEdge d i foffs fxtal jump phase) := by
  unfold Dev.refEdge
  refine Frame.ite ?_ ?_
  exact Frame.refl _ _
  refine Frame.ite ?_ ?_
  refine Frame.next ?_ Dev.disqualify_frame (by decide)
  refine Frame.ite ?_ ?_
  refine Frame.next ?_ Dev.bump_frame (by decide)
  refine Frame.next ?_ Dev.setRef_frame (by decide)
  exact Frame.refl _ _
  refine Frame.next ?_ Dev.setRef_frame (by decide)
  exact Frame.refl _ _
  refine Frame.ite ?_ ?_
  refine Frame.next ?_ Dev.setRef_frame (by decide)
  refine Frame.next ?_ Dev.setRef_frame (by decide)
  exact Frame.refl _ _
  refine Frame.next ?_ Dev.loopInput_frame (by decide)
  refine Frame.next ?_ Dev.setRef_frame (by decide)
  exact Frame.refl _ _

theorem Dev.refMissing_frame {d i} : Frame [.pba, .pirq, .live, .out, .time, .clk, .acc] d (Dev.refMissing d i) := by
  unfold Dev.refMissing
  refine Frame.ite ?_ ?_
  exact Frame.refl _ _
  refine Frame.ite ?_ ?_
  refine Frame.next ?_ Dev.disqualify_frame (by decide)
  refine Frame.next ?_ Dev.setRef_frame (by decide)
  refine Frame.ite ?_ ?_
  refine Frame.next ?_ Dev.bump_frame (by decide)
  exact Frame.refl _ _
  exact Frame.refl _ _
  refine Frame.next ?_ Dev.setRef_frame (by decide)
  refine Frame.ite ?_ ?_
  refine Frame.next ?_ Dev.bump_frame (by decide)
  exact Frame.refl _ _
  exact Frame.refl _ _

theorem Dev.refQualified_frame {d i}
    : Frame [.pba, .pirq, .live, .out, .time, .clk, .acc] d (Dev.refQualified d i) := by
  unfold Dev.refQualified
  refine Frame.ite ?_ ?_
  refine Frame.next ?_ Dev.select_frame (by decide)
  refine Frame.next ?_ Dev.masters_frame (by decide)
  refine Frame.next ?_ Dev.setRef_frame (by decide)
  exact Frame.refl _ _
  exact Frame.refl _ _

theorem Dev.disagreeCheck_frame {d i j fi fj}
    : Frame [.pba, .pirq, .live, .out, .clk, .acc] d (Dev.disagreeCheck d i j fi fj) := by
  unfold Dev.disagreeCheck
  refine Frame.ite ?_ ?_
  exact Frame.refl _ _
  refine Frame.ite ?_ ?_
  refine Frame.next ?_ Dev.select_frame (by decide)
  refine Frame.ite ?_ ?_
  refine Frame.ite ?_ ?_
  refine Frame.next ?_ Dev.bump_frame (by decide)
  refine Frame.next ?_ Dev.setRef_frame (by decide)
  refine Frame.next ?_ Dev.setRef_frame (by decide)
  exact Frame.refl _ _
  refine Frame.next ?_ Dev.setRef_frame (by decide)
  refine Frame.next ?_ Dev.setRef_frame (by decide)
  exact Frame.refl _ _
  refine Frame.ite ?_ ?_
  refine Frame.next ?_ Dev.raise_frame (by decide)
  refine Frame.upd_clk ?_ (by decide)
  refine Frame.ite ?_ ?_
  refine Frame.next ?_ Dev.bump_frame (by decide)
  refine Frame.next ?_ Dev.setRef_frame (by decide)
  refine Frame.next ?_ Dev.setRef_frame (by decide)
  exact Frame.refl _ _
  refine Frame.next ?_ Dev.setRef_frame (by decide)
  refine Frame.next ?_ Dev.setRef_frame (by decide)
  exact Frame.refl _ _
  refine Frame.upd_clk ?_ (by decide)
  refine Frame.ite ?_ ?_
  refine Frame.next ?_ Dev.bump_frame (by decide)
  refine Frame.next ?_ Dev.setRef_frame (by decide)
  refine Frame.next ?_ Dev.setRef_frame (by decide)
  exact Frame.refl _ _
  refine Frame.next ?_ Dev.setRef_frame (by decide)
  refine Frame.next ?_ Dev.setRef_frame (by decide)
  exact Frame.refl _ _
  refine Frame.next ?_ Dev.select_frame (by decide)
  refine Frame.upd_clk ?_ (by decide)
  refine Frame.next ?_ Dev.setRef_frame (by decide)
  refine Frame.next ?_ Dev.setRef_frame (by decide)
  exact Frame.refl _ _

theorem Dev.switchComplete_frame {d} : Frame [.pba, .hdr, .pirq, .out, .clk] d (Dev.switchComplete d) := by
  unfold Dev.switchComplete
  split
  refine Frame.ite ?_ ?_
  refine Frame.next ?_ Dev.raise_frame (by decide)
  refine Frame.modPage ?_ (.inr (by decide)) (.inl fun _ => rfl) (.inl fun _ => ⟨rfl, rfl⟩)
  refine Frame.upd_clk ?_ (by decide)
  exact Frame.refl _ _
  exact Frame.refl _ _
  exact Frame.refl _ _

theorem Dev.clkTemp_frame {d} : Frame [.pba, .hdr, .pirq, .out] d (Dev.clkTemp d) := by
  unfold Dev.clkTemp
  refine Frame.ite ?_ ?_
  refine Frame.next ?_ Dev.raise_frame (by decide)
  refine Frame.modPage ?_ (.inr (by decide)) (.inl fun _ => rfl) (.inl fun _ => ⟨rfl, rfl⟩)
  exact Frame.refl _ _
  exact Frame.refl _ _

theorem Dev.refCfgWrite_frame {d v}
    : Frame [.pba, .perr, .pirq, .live, .errlog, .out, .time, .clk, .acc] d (Dev.refCfgWrite d v) := by
  unfold Dev.refCfgWrite
  refine Dev.guard_frame ?_ ?_ (by decide)
  exact Frame.refl _ _
  intro _ _
  refine Frame.next ?_ Dev.select_frame (by decide)
  refine Frame.next ?_ Dev.masters_frame (by decide)
  refine Frame.next ?_ Dev.setRef_frame (by decide)
  assumption

theorem Dev.refSelWrite_frame {d v}
    : Frame [.regs, .pba, .perr, .pirq, .live, .errlog, .out, .clk, .acc] d (Dev.refSelWrite d v) := by
  unfold Dev.refSelWrite
  refine Dev.guard_frame ?_ ?_ (by decide)
  exact Frame.refl _ _
  intro _ _
  refine Frame.next ?_ Dev.select_frame (by decide)
  refine Frame.setReg ?_ (by decide) (.inl rfl)
  assumption

theorem Dev.loopCtlWrite_frame {d v}
    : Frame [.regs, .pba, .perr, .pirq, .live, .errlog, .out, .clk, .acc] d (Dev.loopCtlWrite d v) := by
  unfold Dev.loopCtlWrite
  refine Dev.guard_frame ?_ ?_ (by decide)
  exact Frame.refl _ _
  intro _ _
  refine Frame.ite ?_ ?_
  refine Frame.upd_clk ?_ (by decide)
  refine Frame.next ?_ Dev.leaveHoldover_frame (by decide)
  refine Frame.setReg ?_ (by decide) (.inl rfl)
  assumption
  refine Frame.ite ?_ ?_
  split
  refine Frame.next ?_ Dev.startSwitch_frame (by decide)
  refine Frame.upd_clk ?_ (by decide)
  refine Frame.setReg ?_ (by decide) (.inl rfl)
  assumption
  refine Frame.next ?_ Dev.enterHoldover_frame (by decide)
  refine Frame.setReg ?_ (by decide) (.inl rfl)
  assumption
  refine Frame.setReg ?_ (by decide) (.inl rfl)
  assumption

theorem Dev.freqAdjWrite_frame {d v}
    : Frame [.regs, .pba, .perr, .pirq, .errlog, .out, .clk] d (Dev.freqAdjWrite d v) := by
  unfold Dev.freqAdjWrite
  refine Dev.guard_frame ?_ ?_ (by decide)
  exact Frame.refl _ _
  intro _ _
  refine Frame.upd_clk ?_ (by decide)
  refine Frame.setReg ?_ (by decide) (.inl rfl)
  assumption

theorem Dev.phStepWrite_frame {d v}
    : Frame [.pba, .perr, .pirq, .live, .errlog, .out, .clk] d (Dev.phStepWrite d v) := by
  unfold Dev.phStepWrite
  refine Dev.guard_frame ?_ ?_ (by decide)
  exact Frame.refl _ _
  intro _ _
  refine Frame.next ?_ Dev.bump_frame (by decide)
  refine Frame.foldl ?_ ?_
  refine Frame.upd_clk ?_ (by decide)
  assumption
  intro _ _ _
  refine Frame.next ?_ Dev.setOut_frame (by decide)
  assumption

theorem Dev.outCfgWrite_frame {d field v}
    : Frame [.pba, .perr, .pirq, .errlog, .out, .clk] d (Dev.outCfgWrite d field v) := by
  unfold Dev.outCfgWrite
  refine Dev.guard_frame ?_ ?_ (by decide)
  exact Frame.refl _ _
  intro _ _
  refine Frame.next ?_ Dev.setOut_frame (by decide)
  assumption

theorem Dev.outAlignWrite_frame {d v} : Frame [.pba, .perr, .pirq, .errlog, .out, .clk] d (Dev.outAlignWrite d v) := by
  unfold Dev.outAlignWrite
  refine Dev.guard_frame ?_ ?_ (by decide)
  exact Frame.refl _ _
  intro _ _
  refine Frame.foldl ?_ ?_
  assumption
  intro _ _ _
  refine Frame.ite ?_ ?_
  refine Frame.next ?_ Dev.setOut_frame (by decide)
  assumption
  assumption

theorem Dev.pulse_frame {d i} : Frame [.out, .clk] d (Dev.pulse d i) := by
  unfold Dev.pulse
  refine Frame.next ?_ Dev.emit_frame (by decide)
  refine Frame.next ?_ Dev.emit_frame (by decide)
  refine Frame.next ?_ Dev.setOut_frame (by decide)
  exact Frame.refl _ _

theorem Dev.alignReached_frame {d i} : Frame [.out, .clk] d (Dev.alignReached d i) := by
  unfold Dev.alignReached
  split
  (dsimp only; split)
  refine Frame.ite ?_ ?_
  refine Frame.next ?_ Dev.pulse_frame (by decide)
  refine Frame.next ?_ Dev.setOut_frame (by decide)
  exact Frame.refl _ _
  exact Frame.refl _ _
  refine Frame.ite ?_ ?_
  refine Frame.next ?_ Dev.pulse_frame (by decide)
  refine Frame.next ?_ Dev.setOut_frame (by decide)
  exact Frame.refl _ _
  exact Frame.refl _ _
  exact Frame.refl _ _
  (dsimp only; split)
  refine Frame.ite ?_ ?_
  refine Frame.next ?_ Dev.setOut_frame (by decide)
  exact Frame.refl _ _
  exact Frame.refl _ _
  refine Frame.ite ?_ ?_
  refine Frame.next ?_ Dev.setOut_frame (by decide)
  exact Frame.refl _ _
  exact Frame.refl _ _
  exact Frame.refl _ _

theorem Dev.syncPulse_frame {d i} : Frame [.out, .clk] d (Dev.syncPulse d i) := by
  unfold Dev.syncPulse
  refine Frame.ite ?_ ?_
  refine Frame.next ?_ Dev.pulse_frame (by decide)
  exact Frame.refl _ _
  exact Frame.refl _ _

/-! ### Lane -/

theorem Dev.laneCnt_frame {d n off} : Frame [.live] d (Dev.laneCnt d n off) := by
  unfold Dev.laneCnt
  refine Frame.next ?_ Dev.bump_frame (by decide)
  exact Frame.refl _ _

theorem Dev.mapErrSweep_frame {d n} : Frame [.lnb] d (Dev.mapErrSweep d n) := by
  unfold Dev.mapErrSweep
  refine Frame.foldl ?_ ?_
  exact Frame.refl _ _
  intro _ _ _
  refine Frame.ite ?_ ?_
  refine Frame.next ?_ Dev.setLane_frame (by decide)
  assumption
  assumption

theorem Dev.laneDrop_frame {d n x} : Frame [.pba, .pirq, .live, .out, .time, .lnb] d (Dev.laneDrop d n x) := by
  unfold Dev.laneDrop
  refine Frame.ite ?_ ?_
  refine Frame.next ?_ Dev.masters_frame (by decide)
  refine Frame.next ?_ Dev.mapErrSweep_frame (by decide)
  refine Frame.next ?_ Dev.raise_frame (by decide)
  refine Frame.next ?_ Dev.laneCnt_frame (by decide)
  refine Frame.next ?_ Dev.setLane_frame (by decide)
  exact Frame.refl _ _
  refine Frame.next ?_ Dev.setLane_frame (by decide)
  exact Frame.refl _ _

theorem Dev.signalDetect_frame {d n} : Frame [.lnb] d (Dev.signalDetect d n) := by
  unfold Dev.signalDetect
  refine Frame.ite ?_ ?_
  refine Frame.next ?_ Dev.setLane_frame (by decide)
  exact Frame.refl _ _
  refine Frame.ite ?_ ?_
  refine Frame.next ?_ Dev.setLane_frame (by decide)
  exact Frame.refl _ _
  exact Frame.refl _ _

theorem Dev.electricalIdle_frame {d n} : Frame [.pba, .pirq, .live, .out, .time, .lnb] d (Dev.electricalIdle d n) := by
  unfold Dev.electricalIdle
  refine Frame.ite ?_ ?_
  refine Frame.next ?_ Dev.laneDrop_frame (by decide)
  exact Frame.refl _ _
  exact Frame.refl _ _

theorem Dev.bringupTimeout_frame {d n} : Frame [.pba, .pirq, .live, .out, .time, .lnb] d (Dev.bringupTimeout d n) := by
  unfold Dev.bringupTimeout
  split
  refine Frame.ite ?_ ?_
  refine Frame.next ?_ Dev.laneCnt_frame (by decide)
  refine Frame.next ?_ Dev.laneDrop_frame (by decide)
  exact Frame.refl _ _
  exact Frame.refl _ _
  exact Frame.refl _ _

theorem Dev.adaptDone_frame {d n ctle dfe0 dfe1} : Frame [.hdr, .lnb] d (Dev.adaptDone d n ctle dfe0 dfe1) := by
  unfold Dev.adaptDone
  refine Frame.ite ?_ ?_
  refine Frame.modPage ?_ (.inr (by decide)) (.inl fun _ => rfl) (.inl fun _ => ⟨rfl, rfl⟩)
  refine Frame.next ?_ Dev.setLane_frame (by decide)
  exact Frame.refl _ _
  exact Frame.refl _ _

theorem Dev.syncHeader_frame {d n hdr} : Frame [.pba, .pirq, .live, .out, .time, .lnb] d (Dev.syncHeader d n hdr) := by
  unfold Dev.syncHeader
  (dsimp only; split)
  refine Frame.ite ?_ ?_
  refine Frame.ite ?_ ?_
  refine Frame.next ?_ Dev.setLane_frame (by decide)
  exact Frame.refl _ _
  refine Frame.next ?_ Dev.setLane_frame (by decide)
  exact Frame.refl _ _
  refine Frame.next ?_ Dev.setLane_frame (by decide)
  exact Frame.refl _ _
  refine Frame.ite ?_ ?_
  refine Frame.next ?_ Dev.setLane_frame (by decide)
  refine Frame.ite ?_ ?_
  exact Frame.refl _ _
  refine Frame.next ?_ Dev.laneCnt_frame (by decide)
  exact Frame.refl _ _
  refine Frame.next ?_ Dev.laneDrop_frame (by decide)
  refine Frame.ite ?_ ?_
  exact Frame.refl _ _
  refine Frame.next ?_ Dev.laneCnt_frame (by decide)
  exact Frame.refl _ _
  refine Frame.ite ?_ ?_
  refine Frame.next ?_ Dev.setLane_frame (by decide)
  refine Frame.ite ?_ ?_
  exact Frame.refl _ _
  refine Frame.next ?_ Dev.laneCnt_frame (by decide)
  exact Frame.refl _ _
  refine Frame.next ?_ Dev.laneDrop_frame (by decide)
  refine Frame.ite ?_ ?_
  exact Frame.refl _ _
  refine Frame.next ?_ Dev.laneCnt_frame (by decide)
  exact Frame.refl _ _
  exact Frame.refl _ _

theorem Dev.offerQl_frame {d n} : Frame [.pba, .pirq, .live, .out, .clk, .acc] d (Dev.offerQl d n) := by
  unfold Dev.offerQl
  refine Frame.ite ?_ ?_
  refine Frame.next ?_ Dev.select_frame (by decide)
  refine Frame.next ?_ Dev.setRef_frame (by decide)
  exact Frame.refl _ _
  exact Frame.refl _ _

theorem Dev.markerLock_frame {d n x} : Frame [.pba, .pirq, .live, .out, .time, .lnb] d (Dev.markerLock d n x) := by
  unfold Dev.markerLock
  refine Frame.ite ?_ ?_
  refine Frame.ite ?_ ?_
  refine Frame.next ?_ Dev.setLane_frame (by decide)
  exact Frame.refl _ _
  refine Frame.next ?_ Dev.raise_frame (by decide)
  refine Frame.next ?_ Dev.bump_frame (by decide)
  refine Frame.next ?_ Dev.setLane_frame (by decide)
  exact Frame.refl _ _
  refine Frame.next ?_ Dev.masters_frame (by decide)
  refine Frame.next ?_ Dev.raise_frame (by decide)
  refine Frame.ite ?_ ?_
  refine Frame.next ?_ Dev.bump_frame (by decide)
  refine Frame.next ?_ Dev.setLane_frame (by decide)
  exact Frame.refl _ _
  refine Frame.next ?_ Dev.setLane_frame (by decide)
  exact Frame.refl _ _

theorem Dev.markerRx_frame {d n hdr raw}
    : Frame [.pba, .pirq, .live, .out, .time, .clk, .lnb, .acc] d (Dev.markerRx d n hdr raw) := by
  unfold Dev.markerRx
  dsimp only
  split
  refine Frame.ite ?_ ?_
  refine Frame.ite ?_ ?_
  refine Frame.next ?_ Dev.setLane_frame (by decide)
  exact Frame.refl _ _
  refine Frame.next ?_ Dev.offerQl_frame (by decide)
  refine Frame.next ?_ Dev.markerLock_frame (by decide)
  exact Frame.refl _ _
  refine Frame.ite ?_ ?_
  refine Frame.next ?_ Dev.bump_frame (by decide)
  refine Frame.next ?_ Dev.setLane_frame (by decide)
  exact Frame.refl _ _
  refine Frame.next ?_ Dev.setLane_frame (by decide)
  exact Frame.refl _ _
  refine Frame.ite ?_ ?_
  refine Frame.next ?_ Dev.offerQl_frame (by decide)
  refine Frame.next ?_ Dev.setLane_frame (by decide)
  exact Frame.refl _ _
  refine Frame.ite ?_ ?_
  refine Frame.next ?_ Dev.setLane_frame (by decide)
  refine Frame.ite ?_ ?_
  refine Frame.next ?_ Dev.setLane_frame (by decide)
  refine Frame.next ?_ Dev.laneCnt_frame (by decide)
  refine Frame.next ?_ Dev.laneCnt_frame (by decide)
  exact Frame.refl _ _
  refine Frame.next ?_ Dev.laneCnt_frame (by decide)
  exact Frame.refl _ _
  refine Frame.next ?_ Dev.laneDrop_frame (by decide)
  refine Frame.ite ?_ ?_
  refine Frame.next ?_ Dev.setLane_frame (by decide)
  refine Frame.next ?_ Dev.laneCnt_frame (by decide)
  refine Frame.next ?_ Dev.laneCnt_frame (by decide)
  exact Frame.refl _ _
  refine Frame.next ?_ Dev.laneCnt_frame (by decide)
  exact Frame.refl _ _
  exact Frame.refl _ _

theorem Dev.markerSend_frame {d n} : Frame [.out, .lnb] d (Dev.markerSend d n) := by
  unfold Dev.markerSend
  refine Frame.ite ?_ ?_
  refine Frame.next ?_ Dev.emit_frame (by decide)
  refine Frame.next ?_ Dev.setLane_frame (by decide)
  exact Frame.refl _ _
  exact Frame.refl _ _

theorem Dev.sendFrame_frame {d n f2} : Frame [.live, .out, .lnb] d (Dev.sendFrame d n f2) := by
  unfold Dev.sendFrame
  refine Frame.ite ?_ ?_
  refine Frame.next ?_ Dev.laneCnt_frame (by decide)
  refine Frame.next ?_ Dev.emit_frame (by decide)
  refine Frame.next ?_ Dev.setLane_frame (by decide)
  exact Frame.refl _ _
  exact Frame.refl _ _

theorem Dev.passFrame_frame {d n f2} : Frame [.live, .out, .lnb] d (Dev.passFrame d n f2) := by
  unfold Dev.passFrame
  refine Frame.ite ?_ ?_
  refine Frame.next ?_ Dev.laneCnt_frame (by decide)
  refine Frame.ite ?_ ?_
  refine Frame.next ?_ Dev.sendFrame_frame (by decide)
  exact Frame.refl _ _
  exact Frame.refl _ _
  refine Frame.upd_lnb ?_ (by decide)
  refine Frame.next ?_ Dev.laneCnt_frame (by decide)
  refine Frame.ite ?_ ?_
  refine Frame.next ?_ Dev.sendFrame_frame (by decide)
  exact Frame.refl _ _
  exact Frame.refl _ _

theorem Dev.delineateRun_frame {d n blks} : Frame [.live, .out, .lnb] d (Dev.delineateRun d n blks) := by
  unfold Dev.delineateRun
  refine Frame.ite ?_ ?_
  refine Frame.ite ?_ ?_
  exact Frame.refl _ _
  refine Frame.next ?_ Dev.laneCnt_frame (by decide)
  exact Frame.refl _ _
  dsimp only
  split
  refine Frame.next ?_ Dev.setLane_frame (by decide)
  exact Frame.refl _ _
  refine Frame.next ?_ Dev.laneCnt_frame (by decide)
  refine Frame.next ?_ Dev.setLane_frame (by decide)
  exact Frame.refl _ _
  refine Frame.next ?_ Dev.laneCnt_frame (by decide)
  refine Frame.next ?_ Dev.setLane_frame (by decide)
  exact Frame.refl _ _
  refine Frame.ite ?_ ?_
  refine Frame.next ?_ Dev.setLane_frame (by decide)
  exact Frame.refl _ _
  refine Frame.next ?_ Dev.passFrame_frame (by decide)
  refine Frame.next ?_ Dev.setLane_frame (by decide)
  exact Frame.refl _ _

theorem Dev.eyeRefresh_frame {d n eyeH eyeV off ctle}
    : Frame [.pba, .hdr, .pirq, .live, .out, .lnb] d (Dev.eyeRefresh d n eyeH eyeV off ctle) := by
  unfold Dev.eyeRefresh
  refine Frame.ite ?_ ?_
  exact Frame.refl _ _
  refine Frame.ite ?_ ?_
  refine Frame.next ?_ Dev.raise_frame (by decide)
  refine Frame.next ?_ Dev.bump_frame (by decide)
  refine Frame.modPage ?_ (.inr (by decide)) (.inl fun _ => rfl) (.inl fun _ => ⟨rfl, rfl⟩)
  refine Frame.next ?_ Dev.setLane_frame (by decide)
  exact Frame.refl _ _
  refine Frame.next ?_ Dev.setLane_frame (by decide)
  exact Frame.refl _ _

theorem Dev.lctlWrite_frame {d n v}
    : Frame [.regs, .pba, .perr, .pirq, .live, .errlog, .out, .time, .lnb] d (Dev.lctlWrite d n v) := by
  unfold Dev.lctlWrite
  refine Dev.guard_frame ?_ ?_ (by decide)
  exact Frame.refl _ _
  intro _ _
  refine Frame.ite ?_ ?_
  refine Frame.next ?_ Dev.laneDrop_frame (by decide)
  refine Frame.ite ?_ ?_
  refine Frame.next ?_ Dev.laneDrop_frame (by decide)
  refine Frame.setReg ?_ (by decide) (.inr (by decide))
  assumption
  refine Frame.ite ?_ ?_
  refine Frame.next ?_ Dev.setLane_frame (by decide)
  refine Frame.setReg ?_ (by decide) (.inr (by decide))
  assumption
  refine Frame.setReg ?_ (by decide) (.inr (by decide))
  assumption
  refine Frame.ite ?_ ?_
  refine Frame.next ?_ Dev.laneDrop_frame (by decide)
  refine Frame.setReg ?_ (by decide) (.inr (by decide))
  assumption
  refine Frame.ite ?_ ?_
  refine Frame.next ?_ Dev.setLane_frame (by decide)
  refine Frame.setReg ?_ (by decide) (.inr (by decide))
  assumption
  refine Frame.setReg ?_ (by decide) (.inr (by decide))
  assumption

theorem Dev.clearLoopbacks_frame {d} : Frame [.regs, .pba, .lnb] d (Dev.clearLoopbacks d) := by
  unfold Dev.clearLoopbacks
  refine Frame.foldl ?_ ?_
  exact Frame.refl _ _
  intro _ _ _
  refine Frame.ite ?_ ?_
  assumption
  refine Frame.ite ?_ ?_
  refine Frame.next ?_ Dev.setLane_frame (by decide)
  refine Frame.setReg ?_ (by decide) (.inr (by decide))
  assumption
  refine Frame.setReg ?_ (by decide) (.inr (by decide))
  assumption

theorem Dev.laneOn_frame {d n} : Frame [.lnb] d (Dev.laneOn d n) := by
  unfold Dev.laneOn
  refine Frame.ite ?_ ?_
  exact Frame.refl _ _
  refine Frame.next ?_ Dev.setLane_frame (by decide)
  exact Frame.refl _ _

theorem Dev.laneOff_frame {d n} : Frame [.pba, .pirq, .live, .out, .time, .lnb] d (Dev.laneOff d n) := by
  unfold Dev.laneOff
  refine Frame.ite ?_ ?_
  exact Frame.refl _ _
  refine Frame.next ?_ Dev.laneDrop_frame (by decide)
  exact Frame.refl _ _

theorem Dev.lanePowerDown_frame {d n} : Frame [.pba, .pirq, .live, .out, .time, .lnb] d (Dev.lanePowerDown d n) := by
  unfold Dev.lanePowerDown
  split
  refine Frame.ite ?_ ?_
  refine Frame.next ?_ Dev.laneOff_frame (by decide)
  exact Frame.refl _ _
  exact Frame.refl _ _
  exact Frame.refl _ _

theorem Dev.setRole_frame {d l w b atOnce}
    : Frame [.pba, .act, .pirq, .live, .out, .time, .lnb] d (Dev.setRole d l w b atOnce) := by
  unfold Dev.setRole
  refine Frame.ite ?_ ?_
  exact Frame.refl _ _
  refine Frame.ite ?_ ?_
  refine Frame.ite ?_ ?_
  refine Frame.next ?_ Dev.laneOn_frame (by decide)
  refine Frame.upd_lnb ?_ (by decide)
  refine Frame.setAct ?_ (by decide)
  exact Frame.refl _ _
  refine Frame.upd_lnb ?_ (by decide)
  refine Frame.setAct ?_ (by decide)
  exact Frame.refl _ _
  refine Frame.ite ?_ ?_
  refine Frame.next ?_ Dev.laneOff_frame (by decide)
  refine Frame.upd_lnb ?_ (by decide)
  refine Frame.setAct ?_ (by decide)
  exact Frame.refl _ _
  refine Frame.next ?_ Dev.setLane_frame (by decide)
  refine Frame.upd_lnb ?_ (by decide)
  refine Frame.setAct ?_ (by decide)
  exact Frame.refl _ _

theorem Dev.lanesS6_frame {d} : Frame [.pba, .pirq, .live, .out, .time, .lnb] d (Dev.lanesS6 d) := by
  unfold Dev.lanesS6
  refine Frame.foldl ?_ ?_
  exact Frame.refl _ _
  intro _ _ _
  refine Frame.ite ?_ ?_
  refine Frame.next ?_ Dev.laneOff_frame (by decide)
  assumption
  assumption

theorem Dev.lanesRecover_frame {d} : Frame [.lnb] d (Dev.lanesRecover d) := by
  unfold Dev.lanesRecover
  refine Frame.foldl ?_ ?_
  exact Frame.refl _ _
  intro _ _ _
  refine Frame.ite ?_ ?_
  refine Frame.next ?_ Dev.laneOn_frame (by decide)
  assumption
  assumption

theorem Dev.laneTested_frame {d n fail}
    : Frame [.pba, .pirq, .live, .out, .time, .lnb] d (Dev.laneTested d n fail) := by
  unfold Dev.laneTested
  refine Frame.ite ?_ ?_
  refine Frame.next ?_ Dev.raise_frame (by decide)
  refine Frame.next ?_ Dev.laneDrop_frame (by decide)
  exact Frame.refl _ _
  refine Frame.ite ?_ ?_
  exact Frame.refl _ _
  refine Frame.ite ?_ ?_
  refine Frame.next ?_ Dev.laneDrop_frame (by decide)
  exact Frame.refl _ _
  refine Frame.next ?_ Dev.laneDrop_frame (by decide)
  exact Frame.refl _ _

end Sys2Proof.Machine
end

