-- ==== Sys2Proof/Laws/FrameData.lean ====
section
/-! SUPPORT. Frames, one lemma a function: ingest, deckle, accumulator, hatch array, beam former and trigger unit. -/

namespace Sys2Proof.Machine

variable {T : List Part} {d0 : Dev}

/-! ### Ing -/

theorem Dev.ingCount_frame {d sheet off n} : Frame [.live, .nextc] d (Dev.ingCount d sheet off n) := by
  unfold Dev.ingCount
  split
  refine Frame.ite ?_ ?_
  refine Frame.next ?_ Dev.bumpNext_frame (by decide)
  exact Frame.refl _ _
  refine Frame.next ?_ Dev.bump_frame (by decide)
  exact Frame.refl _ _
  refine Frame.next ?_ Dev.bump_frame (by decide)
  exact Frame.refl _ _

theorem Dev.fillBucket_frame {d l} : Frame [.ing] d (Dev.fillBucket d l) := by
  unfold Dev.fillBucket
  refine Frame.upd_ing ?_ (by decide)
  exact Frame.refl _ _

theorem Dev.fillBuckets_frame {d} : Frame [.ing] d (Dev.fillBuckets d) := by
  unfold Dev.fillBuckets
  refine Frame.foldl ?_ ?_
  exact Frame.refl _ _
  intro _ _ _
  refine Frame.next ?_ Dev.fillBucket_frame (by decide)
  assumption

theorem Dev.crcFail_frame {d l} : Frame [.pba, .pirq, .live, .out, .ing] d (Dev.crcFail d l) := by
  unfold Dev.crcFail
  refine Frame.ite ?_ ?_
  refine Frame.next ?_ Dev.raise_frame (by decide)
  refine Frame.next ?_ Dev.bump_frame (by decide)
  refine Frame.upd_ing ?_ (by decide)
  refine Frame.upd_ing ?_ (by decide)
  exact Frame.refl _ _
  refine Frame.upd_ing ?_ (by decide)
  exact Frame.refl _ _

theorem Dev.laneqRelease_frame {d k v} : Frame [.ing] d (Dev.laneqRelease d k v) := by
  unfold Dev.laneqRelease
  refine Frame.upd_ing ?_ (by decide)
  exact Frame.refl _ _

theorem Dev.classify_frame {d l fr f} : Frame [.ing] d (Dev.classify d l fr f).2 := by
  unfold Dev.classify
  generalize tokenUnit = u
  generalize Dev.refill d l = b
  simp only [apply_ite Prod.snd]
  refine Frame.ite ?_ ?_
  exact Frame.refl _ _
  refine Frame.ite ?_ ?_
  exact Frame.refl _ _
  refine Frame.ite ?_ ?_
  exact Frame.refl _ _
  refine Frame.ite ?_ ?_
  refine Frame.ite ?_ ?_
  refine Frame.upd_ing ?_ (by decide)
  exact Frame.refl _ _
  refine Frame.upd_ing ?_ (by decide)
  exact Frame.refl _ _
  exact Frame.refl _ _

theorem Dev.seqStat_frame {d sheet id q} : Frame [.live, .nextc, .ing] d (Dev.seqStat d sheet id q) := by
  unfold Dev.seqStat
  split
  refine Frame.upd_ing ?_ (by decide)
  exact Frame.refl _ _
  refine Frame.ite ?_ ?_
  refine Frame.ite ?_ ?_
  refine Frame.next ?_ Dev.ingCount_frame (by decide)
  refine Frame.upd_ing ?_ (by decide)
  exact Frame.refl _ _
  refine Frame.upd_ing ?_ (by decide)
  exact Frame.refl _ _
  refine Frame.ite ?_ ?_
  refine Frame.next ?_ Dev.ingCount_frame (by decide)
  exact Frame.refl _ _
  exact Frame.refl _ _

theorem Dev.purgeDir_frame {d} : Frame [.ing] d (Dev.purgeDir d) := by
  unfold Dev.purgeDir
  refine Frame.upd_ing ?_ (by decide)
  exact Frame.refl _ _

theorem Dev.enterDir_frame {d fr f2} : Frame [.live, .ing] d (Dev.enterDir d fr f2) := by
  unfold Dev.enterDir
  refine Frame.next ?_ Dev.peak_frame (by decide)
  refine Frame.upd_ing ?_ (by decide)
  exact Frame.refl _ _

theorem Dev.account_frame {d l fr f3 c} : Frame [.live, .nextc, .ing] d (Dev.account d l fr f3 c) := by
  unfold Dev.account
  (dsimp only; split)
  refine Frame.next ?_ Dev.ingCount_frame (by decide)
  refine Frame.next ?_ Dev.ingCount_frame (by decide)
  exact Frame.refl _ _
  refine Frame.upd_ing ?_ (by decide)
  refine Frame.next ?_ Dev.ingCount_frame (by decide)
  refine Frame.next ?_ Dev.ingCount_frame (by decide)
  exact Frame.refl _ _

theorem Dev.conflictMark_frame {d fr f2} : Frame [.pba, .pirq, .out, .ing] d (Dev.conflictMark d fr f2) := by
  unfold Dev.conflictMark
  refine Frame.ite ?_ ?_
  refine Frame.next ?_ Dev.raise_frame (by decide)
  split
  refine Frame.upd_ing ?_ (by decide)
  exact Frame.refl _ _
  exact Frame.refl _ _
  split
  refine Frame.upd_ing ?_ (by decide)
  exact Frame.refl _ _
  exact Frame.refl _ _

theorem Dev.admitSample_frame {d fr f2} : Frame [.live, .nextc, .ing] d (Dev.admitSample d fr f2) := by
  unfold Dev.admitSample
  (dsimp only; split)
  refine Frame.next ?_ Dev.enterDir_frame (by decide)
  refine Frame.next ?_ Dev.seqStat_frame (by decide)
  exact Frame.refl _ _
  refine Frame.upd_ing ?_ (by decide)
  refine Frame.next ?_ Dev.enterDir_frame (by decide)
  refine Frame.next ?_ Dev.seqStat_frame (by decide)
  exact Frame.refl _ _

theorem Dev.ingest_frame {d l fr} : Frame [.pba, .pirq, .live, .nextc, .out, .lnb, .ing] d (Dev.ingest d l fr).2.2 := by
  unfold Dev.ingest
  dsimp only
  refine Frame.ite ?_ ?_
  refine Frame.next ?_ Dev.crcFail_frame (by decide)
  refine Frame.next ?_ Dev.account_frame (by decide)
  refine Frame.next ?_ Dev.classify_frame (by decide)
  refine Frame.next ?_ Dev.purgeDir_frame (by decide)
  refine Frame.upd_lnb ?_ (by decide)
  exact Frame.refl _ _
  refine Frame.ite ?_ ?_
  refine Frame.ite ?_ ?_
  refine Frame.next ?_ Dev.account_frame (by decide)
  refine Frame.next ?_ Dev.classify_frame (by decide)
  refine Frame.next ?_ Dev.purgeDir_frame (by decide)
  refine Frame.upd_lnb ?_ (by decide)
  exact Frame.refl _ _
  refine Frame.next ?_ Dev.raise_frame (by decide)
  refine Frame.next ?_ Dev.account_frame (by decide)
  refine Frame.next ?_ Dev.classify_frame (by decide)
  refine Frame.next ?_ Dev.purgeDir_frame (by decide)
  refine Frame.upd_lnb ?_ (by decide)
  exact Frame.refl _ _
  refine Frame.ite ?_ ?_
  refine Frame.next ?_ Dev.conflictMark_frame (by decide)
  refine Frame.next ?_ Dev.account_frame (by decide)
  refine Frame.next ?_ Dev.classify_frame (by decide)
  refine Frame.next ?_ Dev.purgeDir_frame (by decide)
  refine Frame.upd_lnb ?_ (by decide)
  exact Frame.refl _ _
  refine Frame.next ?_ Dev.account_frame (by decide)
  refine Frame.next ?_ Dev.classify_frame (by decide)
  refine Frame.next ?_ Dev.purgeDir_frame (by decide)
  refine Frame.upd_lnb ?_ (by decide)
  exact Frame.refl _ _

theorem Dev.closedSweep_frame {d g lf n} : Frame [.ing] d (Dev.closedSweep d g lf n) := by
  induction n generalizing d with
  | zero => exact Frame.refl _ _
  | succ n ih =>
    unfold Dev.closedSweep
    refine Frame.ite ?_ ?_
    refine Frame.next ?_ ih (by decide)
    refine Frame.upd_ing ?_ (by decide)
    exact Frame.refl _ _
    exact Frame.refl _ _

theorem Dev.closeSet_frame {d g f2} : Frame [.live, .nextc, .ing] d (Dev.closeSet d g f2) := by
  unfold Dev.closeSet
  refine Frame.next ?_ Dev.closedSweep_frame (by decide)
  refine Frame.upd_ing ?_ (by decide)
  refine Frame.next ?_ Dev.ingCount_frame (by decide)
  exact Frame.refl _ _

theorem Dev.completeSheet_frame {d} : Frame [.pba, .pirq, .out, .sys, .run, .ing, .mem] d (Dev.completeSheet d) := by
  unfold Dev.completeSheet
  refine Frame.ite ?_ ?_
  refine Frame.upd_sys_run_ing ?_ (.inl rfl) (.inl ⟨rfl, rfl⟩) (.inl ⟨rfl, rfl, rfl⟩) (.inl rfl) (.inr (by decide)) (by decide) (by decide)
  refine Frame.ite ?_ ?_
  refine Frame.next ?_ Dev.putBytes_frame (by decide)
  exact Frame.refl _ _
  exact Frame.refl _ _
  refine Frame.next ?_ Dev.raise_frame (by decide)
  refine Frame.upd_sys_run_ing ?_ (.inl rfl) (.inl ⟨rfl, rfl⟩) (.inl ⟨rfl, rfl, rfl⟩) (.inl rfl) (.inr (by decide)) (by decide) (by decide)
  refine Frame.ite ?_ ?_
  refine Frame.next ?_ Dev.putBytes_frame (by decide)
  exact Frame.refl _ _
  exact Frame.refl _ _

theorem Dev.bindHiWrite_frame {d v} : Frame [.pba, .perr, .pirq, .errlog, .out, .ing] d (Dev.bindHiWrite d v) := by
  unfold Dev.bindHiWrite
  refine Dev.guard_frame ?_ ?_ (by decide)
  exact Frame.refl _ _
  intro _ _
  refine Frame.ite ?_ ?_
  refine Frame.upd_ing ?_ (by decide)
  assumption
  refine Frame.upd_ing ?_ (by decide)
  assumption

theorem Dev.macKeyCtl_frame {d v} : Frame [.pba, .perr, .pirq, .errlog, .out, .ing] d (Dev.macKeyCtl d v) := by
  unfold Dev.macKeyCtl
  refine Dev.guard_frame ?_ ?_ (by decide)
  exact Frame.refl _ _
  intro _ _
  refine Frame.ite ?_ ?_
  refine Frame.upd_ing ?_ (by decide)
  refine Frame.ite ?_ ?_
  refine Frame.upd_ing ?_ (by decide)
  assumption
  refine Frame.upd_ing ?_ (by decide)
  assumption
  refine Frame.ite ?_ ?_
  refine Frame.ite ?_ ?_
  refine Frame.upd_ing ?_ (by decide)
  assumption
  refine Frame.upd_ing ?_ (by decide)
  assumption
  assumption

/-! ### Plan -/

theorem Dev.fmapChanged_frame {d} : Frame [.plt, .mem] d (Dev.fmapChanged d) := by
  unfold Dev.fmapChanged
  refine Frame.next ?_ Dev.putBytes_frame (by decide)
  refine Frame.upd_plt ?_ (by decide)
  exact Frame.refl _ _

theorem Dev.fmapOnce_frame {d gen} : Frame [.plt, .mem] d (Dev.fmapOnce d gen) := by
  unfold Dev.fmapOnce
  refine Frame.next ?_ Dev.fmapChanged_frame (by decide)
  refine Frame.upd_plt ?_ (by decide)
  exact Frame.refl _ _

theorem Dev.fmapStep_frame {d f} (h : Frame T d0 (f d)) (hT : [.plt, .mem] ⊆ T) : Frame T d0 (Dev.fmapStep d f) :=
  Frame.ite h (Frame.next h Dev.fmapOnce_frame hT)

/-! ### Dkl -/

theorem Dev.setPageIn_frame {d x} : Frame [.dkl] d (Dev.setPageIn d x) := by
  unfold Dev.setPageIn
  refine Frame.upd_dkl ?_ (by decide)
  exact Frame.refl _ _

theorem Dev.setSubst_frame {d c l} : Frame [.dkl] d (Dev.setSubst d c l) := by
  unfold Dev.setSubst
  refine Frame.upd_dkl ?_ (by decide)
  exact Frame.refl _ _

theorem Dev.takeSlot_some {d pl c s e} (h : Dev.takeSlot d pl c = some (s, e)) : Frame [.dkl] d e := by
  unfold Dev.takeSlot at h
  simp only at h
  split at h
  · simp only [Option.some.injEq, Prod.mk.injEq] at h
    rw [← h.2]
    refine Frame.upd_dkl ?_ (by decide)
    exact Frame.refl _ _
  · split at h
    · simp at h
    · split at h
      · simp only [Option.some.injEq, Prod.mk.injEq] at h
        rw [← h.2]
        refine Frame.upd_dkl ?_ (by decide)
        exact Frame.refl _ _
      · split at h
        · simp at h
        · simp only [Option.some.injEq, Prod.mk.injEq] at h
          rw [← h.2]
          refine Frame.next ?_ Dev.setSubst_frame (by decide)
          refine Frame.next ?_ Dev.setPageIn_frame (by decide)
          exact Frame.refl _ _

theorem Dev.assignPage_frame {d a p g} : Frame [.dkl] d (Dev.assignPage d a p g) := by
  unfold Dev.assignPage
  dsimp only
  split
  · exact Frame.refl _ _
  · split
    · next h =>
      refine Frame.next ?_ Dev.setPageIn_frame (by decide)
      exact Dev.takeSlot_some h
    · exact Frame.refl _ _

theorem Dev.pageSlotAssign_frame {d a p g} : Frame [.dkl] d (Dev.pageSlotAssign d a p g) := by
  unfold Dev.pageSlotAssign
  refine Frame.ite ?_ ?_
  refine Frame.next ?_ Dev.assignPage_frame (by decide)
  exact Frame.refl _ _
  exact Frame.refl _ _

theorem Dev.pageConsume_frame {d a p g} : Frame [.dkl] d (Dev.pageConsume d a p g) := by
  unfold Dev.pageConsume
  split
  exact Frame.refl _ _
  refine Frame.ite ?_ ?_
  refine Frame.next ?_ Dev.setPageIn_frame (by decide)
  exact Frame.refl _ _
  exact Frame.refl _ _

theorem Dev.couch_frame {d p g f3 fr} : Frame [.live, .dkl, .mem] d (Dev.couch d p g f3 fr) := by
  unfold Dev.couch
  (dsimp only; split)
  refine Frame.next ?_ Dev.assignPage_frame (by decide)
  exact Frame.refl _ _
  refine Frame.foldl ?_ ?_
  refine Frame.next ?_ Dev.setPageIn_frame (by decide)
  refine Frame.ite ?_ ?_
  refine Frame.next ?_ Dev.bump_frame (by decide)
  refine Frame.next ?_ Dev.assignPage_frame (by decide)
  exact Frame.refl _ _
  refine Frame.next ?_ Dev.assignPage_frame (by decide)
  exact Frame.refl _ _
  intro _ _ _
  refine Frame.next ?_ Dev.putBytes_frame (by decide)
  assumption

theorem Dev.stageInput_frame {d b r s c m k i poison}
    : Frame [.live, .dkl] d (Dev.stageInput d b r s c m k i poison) := by
  unfold Dev.stageInput
  refine Frame.foldl ?_ ?_
  exact Frame.refl _ _
  intro _ _ _
  dsimp only
  refine Frame.upd_dkl ?_ (by decide)
  refine Frame.ite ?_ ?_
  refine Frame.next ?_ Dev.bump_frame (by decide)
  refine Frame.ite ?_ ?_
  refine Frame.ite ?_ ?_
  assumption
  refine Frame.next ?_ Dev.bump_frame (by decide)
  assumption
  refine Frame.next ?_ Dev.bump_frame (by decide)
  refine Frame.ite ?_ ?_
  assumption
  refine Frame.next ?_ Dev.bump_frame (by decide)
  assumption
  refine Frame.ite ?_ ?_
  refine Frame.ite ?_ ?_
  assumption
  refine Frame.next ?_ Dev.bump_frame (by decide)
  assumption
  refine Frame.next ?_ Dev.bump_frame (by decide)
  refine Frame.ite ?_ ?_
  assumption
  refine Frame.next ?_ Dev.bump_frame (by decide)
  assumption

theorem Dev.panicCheck_frame {d pl k} : Frame [.dkl] d (Dev.panicCheck d pl k) := by
  unfold Dev.panicCheck
  refine Frame.upd_dkl ?_ (by decide)
  exact Frame.refl _ _

theorem Dev.modGather_frame {d ream f2} : Frame [.acc] d (Dev.modGather d ream f2) := by
  unfold Dev.modGather
  refine Frame.ite ?_ ?_
  refine Frame.upd_acc ?_ (by decide)
  exact Frame.refl _ _
  refine Frame.upd_acc ?_ (by decide)
  exact Frame.refl _ _

theorem Dev.markChan_frame {d ream idx chan bits} : Frame [.acc] d (Dev.markChan d ream idx chan bits) := by
  unfold Dev.markChan
  exact Dev.modGather_frame

theorem Dev.cornerTurnStage_frame {d upto poison}
    : Frame [.live, .dkl, .acc] d (Dev.cornerTurnStage d upto poison) := by
  unfold Dev.cornerTurnStage
  refine Frame.ite ?_ ?_
  exact Frame.refl _ _
  split
  exact Frame.refl _ _
  dsimp only
  refine Frame.next ?_ Dev.panicCheck_frame (by decide)
  refine Frame.ite ?_ ?_
  refine Frame.next ?_ Dev.markChan_frame (by decide)
  refine Frame.upd_dkl ?_ (by decide)
  refine Frame.foldl ?_ ?_
  refine Frame.upd_dkl ?_ (by decide)
  exact Frame.refl _ _
  intro _ _ _
  refine Frame.next ?_ Dev.stageInput_frame (by decide)
  assumption
  refine Frame.upd_dkl ?_ (by decide)
  refine Frame.foldl ?_ ?_
  refine Frame.upd_dkl ?_ (by decide)
  exact Frame.refl _ _
  intro _ _ _
  refine Frame.next ?_ Dev.stageInput_frame (by decide)
  assumption

theorem Dev.rsvCheck_frame {d} : Frame [.pba, .pirq, .out, .dkl] d (Dev.rsvCheck d) := by
  unfold Dev.rsvCheck
  refine Frame.ite ?_ ?_
  refine Frame.next ?_ Dev.raise_frame (by decide)
  refine Frame.upd_dkl ?_ (by decide)
  exact Frame.refl _ _
  refine Frame.upd_dkl ?_ (by decide)
  exact Frame.refl _ _

theorem Dev.capRequest_frame {d r c} : Frame [.pba, .pirq, .live, .out, .dkl] d (Dev.capRequest d r c).2 := by
  unfold Dev.capRequest
  refine Frame.ite_snd ?_ ?_
  refine Frame.next ?_ Dev.rsvCheck_frame (by decide)
  refine Frame.ite ?_ ?_
  refine Frame.upd_dkl ?_ (by decide)
  exact Frame.refl _ _
  refine Frame.next ?_ Dev.bump_frame (by decide)
  refine Frame.upd_dkl ?_ (by decide)
  exact Frame.refl _ _
  refine Frame.next ?_ Dev.raise_frame (by decide)
  refine Frame.next ?_ Dev.bump_frame (by decide)
  refine Frame.upd_dkl ?_ (by decide)
  exact Frame.refl _ _

theorem Dev.captureRecordWrite_frame {d id}
    : Frame [.pba, .pirq, .live, .out, .dkl, .mem] d (Dev.captureRecordWrite d id) := by
  unfold Dev.captureRecordWrite
  split
  exact Frame.refl _ _
  refine Frame.ite ?_ ?_
  exact Frame.refl _ _
  refine Frame.next ?_ Dev.raise_frame (by decide)
  refine Frame.ite ?_ ?_
  refine Frame.upd_dkl ?_ (by decide)
  refine Frame.next ?_ Dev.putBytes_frame (by decide)
  refine Frame.foldl ?_ ?_
  exact Frame.refl _ _
  intro _ _ _
  refine Frame.next ?_ Dev.putBytes_frame (by decide)
  assumption
  refine Frame.next ?_ Dev.bump_frame (by decide)
  refine Frame.upd_dkl ?_ (by decide)
  refine Frame.next ?_ Dev.putBytes_frame (by decide)
  refine Frame.foldl ?_ ?_
  exact Frame.refl _ _
  intro _ _ _
  refine Frame.next ?_ Dev.putBytes_frame (by decide)
  assumption

theorem Dev.cutCaptures_frame {d s} : Frame [.dkl] d (Dev.cutCaptures d s) := by
  unfold Dev.cutCaptures
  refine Frame.upd_dkl ?_ (by decide)
  exact Frame.refl _ _

theorem Dev.dklRelease_frame {d v} : Frame [.pba, .perr, .pirq, .live, .errlog, .out, .dkl] d (Dev.dklRelease d v) := by
  unfold Dev.dklRelease
  refine Dev.guard_frame ?_ ?_ (by decide)
  exact Frame.refl _ _
  intro _ _
  refine Frame.upd_dkl ?_ (by decide)
  refine Frame.foldl ?_ ?_
  assumption
  intro _ _ _
  refine Frame.ite ?_ ?_
  refine Frame.upd_dkl ?_ (by decide)
  assumption
  (dsimp only; split)
  refine Frame.ite ?_ ?_
  refine Frame.next ?_ Dev.setSubst_frame (by decide)
  refine Frame.upd_dkl ?_ (by decide)
  refine Frame.next ?_ Dev.bump_frame (by decide)
  refine Frame.upd_dkl ?_ (by decide)
  assumption
  refine Frame.next ?_ Dev.bump_frame (by decide)
  refine Frame.upd_dkl ?_ (by decide)
  assumption
  refine Frame.next ?_ Dev.bump_frame (by decide)
  refine Frame.upd_dkl ?_ (by decide)
  assumption

theorem Dev.caprdWrite_frame {d v} : Frame [.pba, .perr, .pirq, .errlog, .out, .dkl] d (Dev.caprdWrite d v) := by
  unfold Dev.caprdWrite
  refine Dev.guard_frame ?_ ?_ (by decide)
  exact Frame.refl _ _
  intro _ _
  refine Frame.upd_dkl ?_ (by decide)
  assumption

theorem Dev.streamRequest_frame {d a} : Frame [.pba, .pirq, .live, .out, .dkl, .mem] d (Dev.streamRequest d a) := by
  unfold Dev.streamRequest
  refine Frame.next ?_ Dev.captureRecordWrite_frame (by decide)
  refine Frame.next ?_ Dev.capRequest_frame (by decide)
  refine Frame.upd_dkl ?_ (by decide)
  exact Frame.refl _ _

theorem Dev.streamDue_frame {d n} : Frame [.pba, .pirq, .live, .out, .dkl, .mem] d (Dev.streamDue d n) := by
  induction n generalizing d with
  | zero => exact Frame.refl _ _
  | succ n ih =>
    unfold Dev.streamDue
    refine Frame.ite ?_ ?_
    refine Frame.next ?_ ih (by decide)
    refine Frame.next ?_ Dev.streamRequest_frame (by decide)
    exact Frame.refl _ _
    exact Frame.refl _ _

theorem Dev.dklStart_frame {d sameLayout} : Frame [.dkl] d (Dev.dklStart d sameLayout) := by
  unfold Dev.dklStart
  refine Frame.ite ?_ ?_
  refine Frame.upd_dkl ?_ (by decide)
  refine Frame.upd_dkl ?_ (by decide)
  exact Frame.refl _ _
  refine Frame.upd_dkl ?_ (by decide)
  refine Frame.upd_dkl ?_ (by decide)
  exact Frame.refl _ _

/-! ### Acc -/

theorem Dev.writeInt_frame {d a n v} : Frame [.mem] d (Dev.writeInt d a n v) := by
  unfold Dev.writeInt
  refine Frame.next ?_ Dev.putBytes_frame (by decide)
  exact Frame.refl _ _

theorem Dev.saturate_frame {d r s e3} : Frame [.pba, .pirq, .live, .out, .acc] d (Dev.saturate d r s e3) := by
  unfold Dev.saturate
  refine Frame.ite ?_ ?_
  refine Frame.ite ?_ ?_
  refine Frame.next ?_ Dev.bump_frame (by decide)
  refine Frame.next ?_ Dev.modGather_frame (by decide)
  exact Frame.refl _ _
  refine Frame.upd_live ?_ (by decide)
  refine Frame.next ?_ Dev.bump_frame (by decide)
  refine Frame.next ?_ Dev.modGather_frame (by decide)
  exact Frame.refl _ _
  refine Frame.next ?_ Dev.raise_frame (by decide)
  refine Frame.upd_acc ?_ (by decide)
  refine Frame.ite ?_ ?_
  refine Frame.next ?_ Dev.bump_frame (by decide)
  refine Frame.next ?_ Dev.modGather_frame (by decide)
  exact Frame.refl _ _
  refine Frame.upd_live ?_ (by decide)
  refine Frame.next ?_ Dev.bump_frame (by decide)
  refine Frame.next ?_ Dev.modGather_frame (by decide)
  exact Frame.refl _ _

theorem Dev.addOne_frame {d r x pl b imag poisoned}
    : Frame [.pba, .pirq, .live, .out, .acc, .mem] d (Dev.addOne d r x pl b imag poisoned) := by
  unfold Dev.addOne
  dsimp only
  refine Frame.ite ?_ ?_
  refine Frame.next ?_ Dev.saturate_frame (by decide)
  refine Frame.next ?_ Dev.writeInt_frame (by decide)
  exact Frame.refl _ _
  refine Frame.next ?_ Dev.writeInt_frame (by decide)
  exact Frame.refl _ _

theorem Dev.addEntries_frame {d r x upto poison}
    : Frame [.pba, .pirq, .live, .out, .acc, .mem] d (Dev.addEntries d r x upto poison) := by
  unfold Dev.addEntries
  refine Frame.ite ?_ ?_
  exact Frame.refl _ _
  refine Frame.foldl ?_ ?_
  exact Frame.refl _ _
  intro _ _ _
  refine Frame.next ?_ Dev.addOne_frame (by decide)
  refine Frame.next ?_ Dev.addOne_frame (by decide)
  assumption

theorem Dev.addDone_frame {d x bits} : Frame [.acc] d (Dev.addDone d x bits) := by
  unfold Dev.addDone
  refine Frame.ite ?_ ?_
  refine Frame.upd_acc ?_ (by decide)
  exact Frame.refl _ _
  refine Frame.next ?_ Dev.markChan_frame (by decide)
  refine Frame.upd_acc ?_ (by decide)
  exact Frame.refl _ _

theorem Dev.channelAdd_frame {d poison} : Frame [.pba, .pirq, .live, .out, .acc, .mem] d (Dev.channelAdd d poison) := by
  unfold Dev.channelAdd
  split
  exact Frame.refl _ _
  refine Frame.ite ?_ ?_
  exact Frame.refl _ _
  refine Frame.ite ?_ ?_
  refine Frame.next ?_ Dev.bump_frame (by decide)
  refine Frame.ite ?_ ?_
  refine Frame.next ?_ Dev.bump_frame (by decide)
  refine Frame.next ?_ Dev.addDone_frame (by decide)
  refine Frame.next ?_ Dev.addEntries_frame (by decide)
  exact Frame.refl _ _
  refine Frame.next ?_ Dev.addDone_frame (by decide)
  refine Frame.next ?_ Dev.addEntries_frame (by decide)
  exact Frame.refl _ _
  refine Frame.ite ?_ ?_
  refine Frame.next ?_ Dev.bump_frame (by decide)
  refine Frame.next ?_ Dev.addDone_frame (by decide)
  refine Frame.next ?_ Dev.addEntries_frame (by decide)
  exact Frame.refl _ _
  refine Frame.next ?_ Dev.addDone_frame (by decide)
  refine Frame.next ?_ Dev.addEntries_frame (by decide)
  exact Frame.refl _ _

theorem Dev.addLate_frame {d x} : Frame [.pba, .pirq, .live, .out, .acc] d (Dev.addLate d x) := by
  unfold Dev.addLate
  refine Frame.next ?_ Dev.raise_frame (by decide)
  refine Frame.next ?_ Dev.bump_frame (by decide)
  refine Frame.next ?_ Dev.addDone_frame (by decide)
  exact Frame.refl _ _

theorem Dev.addWindowExpire_frame {d done}
    : Frame [.pba, .pirq, .live, .out, .acc, .mem] d (Dev.addWindowExpire d done) := by
  unfold Dev.addWindowExpire
  split
  exact Frame.refl _ _
  refine Frame.ite ?_ ?_
  refine Frame.next ?_ Dev.addLate_frame (by decide)
  refine Frame.ite ?_ ?_
  refine Frame.ite ?_ ?_
  refine Frame.next ?_ Dev.modGather_frame (by decide)
  exact Frame.refl _ _
  exact Frame.refl _ _
  refine Frame.next ?_ Dev.addEntries_frame (by decide)
  exact Frame.refl _ _
  refine Frame.next ?_ Dev.addDone_frame (by decide)
  refine Frame.ite ?_ ?_
  refine Frame.ite ?_ ?_
  refine Frame.next ?_ Dev.modGather_frame (by decide)
  exact Frame.refl _ _
  exact Frame.refl _ _
  refine Frame.next ?_ Dev.addEntries_frame (by decide)
  exact Frame.refl _ _

theorem Dev.expireHalf_frame {d h n} : Frame [.pba, .pirq, .live, .out, .acc, .mem] d (Dev.expireHalf d h n) := by
  induction n generalizing d with
  | zero => exact Frame.refl _ _
  | succ n ih =>
    unfold Dev.expireHalf
    refine Frame.ite ?_ ?_
    refine Frame.next ?_ ih (by decide)
    refine Frame.next ?_ Dev.addWindowExpire_frame (by decide)
    exact Frame.refl _ _
    exact Frame.refl _ _

theorem Dev.accSheet_frame {d s} : Frame [.acc] d (Dev.accSheet d s) := by
  unfold Dev.accSheet
  refine Frame.next ?_ Dev.modGather_frame (by decide)
  exact Frame.refl _ _

theorem Dev.loseRecord_frame {d} : Frame [.pba, .pirq, .out, .acc] d (Dev.loseRecord d) := by
  unfold Dev.loseRecord
  refine Frame.ite ?_ ?_
  refine Frame.next ?_ Dev.raise_frame (by decide)
  refine Frame.upd_acc ?_ (by decide)
  exact Frame.refl _ _
  exact Frame.refl _ _

theorem Dev.startClose_frame {d c} : Frame [.pba, .pirq, .out, .acc] d (Dev.startClose d c) := by
  unfold Dev.startClose
  refine Frame.upd_acc ?_ (by decide)
  refine Frame.next ?_ Dev.loseRecord_frame (by decide)
  exact Frame.refl _ _

theorem Dev.accLatch_frame {d c open_} : Frame [.pba, .pirq, .live, .out, .acc] d (Dev.accLatch d c open_) := by
  unfold Dev.accLatch
  refine Frame.ite ?_ ?_
  refine Frame.upd_acc ?_ (by decide)
  refine Frame.upd_live ?_ (by decide)
  refine Frame.upd_acc ?_ (by decide)
  refine Frame.foldl ?_ ?_
  exact Frame.refl _ _
  intro _ _ _
  refine Frame.ite ?_ ?_
  refine Frame.next ?_ Dev.addLate_frame (by decide)
  refine Frame.upd_acc ?_ (by decide)
  assumption
  refine Frame.next ?_ Dev.addDone_frame (by decide)
  refine Frame.upd_acc ?_ (by decide)
  assumption
  refine Frame.ite ?_ ?_
  refine Frame.ite ?_ ?_
  refine Frame.upd_acc ?_ (by decide)
  refine Frame.upd_live ?_ (by decide)
  refine Frame.upd_acc ?_ (by decide)
  refine Frame.foldl ?_ ?_
  exact Frame.refl _ _
  intro _ _ _
  refine Frame.ite ?_ ?_
  refine Frame.next ?_ Dev.addLate_frame (by decide)
  refine Frame.upd_acc ?_ (by decide)
  assumption
  refine Frame.next ?_ Dev.addDone_frame (by decide)
  refine Frame.upd_acc ?_ (by decide)
  assumption
  refine Frame.upd_acc ?_ (by decide)
  refine Frame.upd_live ?_ (by decide)
  refine Frame.upd_acc ?_ (by decide)
  refine Frame.foldl ?_ ?_
  exact Frame.refl _ _
  intro _ _ _
  refine Frame.ite ?_ ?_
  refine Frame.next ?_ Dev.addLate_frame (by decide)
  refine Frame.upd_acc ?_ (by decide)
  assumption
  refine Frame.next ?_ Dev.addDone_frame (by decide)
  refine Frame.upd_acc ?_ (by decide)
  assumption
  refine Frame.next ?_ Dev.startClose_frame (by decide)
  refine Frame.upd_live ?_ (by decide)
  refine Frame.upd_acc ?_ (by decide)
  refine Frame.foldl ?_ ?_
  exact Frame.refl _ _
  intro _ _ _
  refine Frame.ite ?_ ?_
  refine Frame.next ?_ Dev.addLate_frame (by decide)
  refine Frame.upd_acc ?_ (by decide)
  assumption
  refine Frame.next ?_ Dev.addDone_frame (by decide)
  refine Frame.upd_acc ?_ (by decide)
  assumption

theorem Dev.closeWaiting_frame {d} : Frame [.pba, .pirq, .out, .acc] d (Dev.closeWaiting d) := by
  unfold Dev.closeWaiting
  split
  exact Dev.startClose_frame
  exact Frame.refl _ _

theorem Dev.accThaw_frame {d z} : Frame [.pba, .pirq, .out, .acc] d (Dev.accThaw d z) := by
  unfold Dev.accThaw
  refine Frame.next ?_ Dev.closeWaiting_frame (by decide)
  refine Frame.upd_acc ?_ (by decide)
  exact Frame.refl _ _

theorem Dev.accFroze_frame {d reams} : Frame [.acc] d (Dev.accFroze d reams) := by
  unfold Dev.accFroze
  refine Frame.foldl ?_ ?_
  refine Frame.upd_acc ?_ (by decide)
  exact Frame.refl _ _
  intro _ _ _
  refine Frame.next ?_ Dev.modGather_frame (by decide)
  assumption

theorem Dev.finishRecord_frame {d} : Frame [.pba, .pirq, .out, .acc, .mem] d (Dev.finishRecord d) := by
  unfold Dev.finishRecord
  split
  exact Frame.refl _ _
  refine Frame.next ?_ Dev.raise_frame (by decide)
  refine Frame.upd_acc ?_ (by decide)
  refine Frame.next ?_ Dev.putBytes_frame (by decide)
  refine Frame.next ?_ Dev.putBytes_frame (by decide)
  refine Frame.next ?_ Dev.putBytes_frame (by decide)
  refine Frame.next ?_ Dev.putBytes_frame (by decide)
  exact Frame.refl _ _

theorem Dev.accRelease_frame {d v} : Frame [.pba, .perr, .pirq, .errlog, .out, .acc] d (Dev.accRelease d v) := by
  unfold Dev.accRelease
  refine Dev.guard_frame ?_ ?_ (by decide)
  exact Frame.refl _ _
  intro _ _
  refine Frame.upd_acc ?_ (by decide)
  assumption

/-! ### Hat -/

theorem Dev.qmaskSet_frame {d q cause peer} : Frame [.plt, .hat, .mem] d (Dev.qmaskSet d q cause peer) := by
  unfold Dev.qmaskSet
  refine Frame.ite ?_ ?_
  exact Frame.refl _ _
  refine Frame.next ?_ Dev.fmapChanged_frame (by decide)
  refine Frame.upd_hat ?_ (by decide)
  exact Frame.refl _ _

theorem Dev.chkOff_frame {d k} : Frame [.hat] d (Dev.chkOff d k) := by
  unfold Dev.chkOff
  refine Frame.upd_hat ?_ (by decide)
  exact Frame.refl _ _

theorem Dev.qmaskWrite_frame {d k v}
    : Frame [.pba, .perr, .pirq, .errlog, .out, .plt, .hat, .mem] d (Dev.qmaskWrite d k v) := by
  unfold Dev.qmaskWrite
  refine Dev.guard_frame ?_ ?_ (by decide)
  exact Frame.refl _ _
  intro _ _
  refine Dev.fmapStep_frame ?_ (by decide)
  refine Frame.foldl ?_ ?_
  assumption
  intro _ _ _
  refine Frame.ite ?_ ?_
  refine Frame.ite ?_ ?_
  refine Frame.next ?_ Dev.chkOff_frame (by decide)
  refine Frame.next ?_ Dev.qmaskSet_frame (by decide)
  assumption
  refine Frame.next ?_ Dev.qmaskSet_frame (by decide)
  assumption
  assumption

theorem Dev.flagChan_frame {d ream chan bit stat} : Frame [.live, .acc] d (Dev.flagChan d ream chan bit stat) := by
  unfold Dev.flagChan
  refine Frame.ite ?_ ?_
  exact Frame.refl _ _
  refine Frame.next ?_ Dev.bump_frame (by decide)
  refine Frame.next ?_ Dev.modGather_frame (by decide)
  exact Frame.refl _ _

theorem Dev.suspect_frame {d ream chan} : Frame [.live, .acc] d (Dev.suspect d ream chan) := by
  unfold Dev.suspect
  refine Frame.next ?_ Dev.flagChan_frame (by decide)
  exact Frame.refl _ _

theorem Dev.becomeSuspect_frame {d q peer ream mask}
    : Frame [.pba, .pirq, .out, .plt, .hat, .mem] d (Dev.becomeSuspect d q peer ream mask) := by
  unfold Dev.becomeSuspect
  refine Frame.ite ?_ ?_
  exact Frame.refl _ _
  split
  (dsimp only; split)
  refine Frame.upd_hat ?_ (by decide)
  refine Frame.next ?_ Dev.raise_frame (by decide)
  refine Frame.next ?_ Dev.qmaskSet_frame (by decide)
  refine Frame.upd_hat ?_ (by decide)
  exact Frame.refl _ _
  refine Frame.next ?_ Dev.raise_frame (by decide)
  refine Frame.upd_hat ?_ (by decide)
  refine Frame.next ?_ Dev.raise_frame (by decide)
  refine Frame.next ?_ Dev.qmaskSet_frame (by decide)
  refine Frame.upd_hat ?_ (by decide)
  exact Frame.refl _ _
  (dsimp only; split)
  refine Frame.upd_hat ?_ (by decide)
  refine Frame.next ?_ Dev.raise_frame (by decide)
  refine Frame.upd_hat ?_ (by decide)
  exact Frame.refl _ _
  refine Frame.next ?_ Dev.raise_frame (by decide)
  refine Frame.upd_hat ?_ (by decide)
  refine Frame.next ?_ Dev.raise_frame (by decide)
  refine Frame.upd_hat ?_ (by decide)
  exact Frame.refl _ _

theorem Dev.mismatch_frame {d x}
    : Frame [.pba, .pirq, .live, .out, .plt, .hat, .acc, .mem] d (Dev.mismatch d x) := by
  unfold Dev.mismatch
  refine Frame.ite ?_ ?_
  refine Frame.next ?_ Dev.becomeSuspect_frame (by decide)
  refine Frame.next ?_ Dev.raise_frame (by decide)
  refine Frame.next ?_ Dev.chkOff_frame (by decide)
  refine Frame.next ?_ Dev.qmaskSet_frame (by decide)
  refine Frame.foldl ?_ ?_
  refine Frame.next ?_ Dev.bump_frame (by decide)
  exact Frame.refl _ _
  intro _ _ _
  refine Frame.next ?_ Dev.suspect_frame (by decide)
  assumption
  refine Frame.next ?_ Dev.becomeSuspect_frame (by decide)
  refine Frame.upd_hat ?_ (by decide)
  refine Frame.foldl ?_ ?_
  refine Frame.next ?_ Dev.bump_frame (by decide)
  exact Frame.refl _ _
  intro _ _ _
  refine Frame.next ?_ Dev.suspect_frame (by decide)
  assumption

theorem Dev.compareDone_frame {d x}
    : Frame [.pba, .pirq, .live, .out, .plt, .hat, .acc, .mem] d (Dev.compareDone d x) := by
  unfold Dev.compareDone
  have h : Frame [.pba, .pirq, .live, .out, .plt, .hat, .acc, .mem] d (d.bump pgHAT 0x110) :=
    (Frame.refl _ _).next Dev.bump_frame (by decide)
  exact Frame.ite (h.next Dev.mismatch_frame (by decide)) h

theorem Dev.checksDone_frame {d}
    : Frame [.pba, .pirq, .live, .out, .plt, .hat, .acc, .mem] d (Dev.checksDone d) := by
  unfold Dev.checksDone
  refine Frame.foldl (Frame.upd_hat (Frame.refl _ _) (by decide)) fun _ _ h => ?_
  exact h.next Dev.compareDone_frame (by decide)

theorem Dev.compare_frame {d k q ream differ} : Frame [.hat] d (Dev.compare d k q ream differ) :=
  Frame.upd_hat (Frame.refl _ _) (by decide)

theorem Dev.drainAdd_frame {d key v} : Frame [.hat] d (Dev.drainAdd d key v) := by
  unfold Dev.drainAdd
  refine Frame.ite ?_ ?_
  refine Frame.upd_hat ?_ (by decide)
  exact Frame.refl _ _
  refine Frame.upd_hat ?_ (by decide)
  exact Frame.refl _ _

theorem Dev.freeInt_frame {d w} : Frame [.free] d (Dev.freeInt d w).2 := by
  unfold Dev.freeInt
  dsimp only
  refine Frame.next ?_ Dev.fresh_frame (by decide)
  exact Frame.refl _ _

theorem Dev.drainUnit_frame {d r s h hb m k q u bad} :
    Frame [.hat, .free] d (Dev.drainUnit d r s h hb m k q u bad) := by
  unfold Dev.drainUnit
  refine Frame.ite (Frame.refl _ _) (Frame.foldl (Frame.refl _ _) fun e a h => ?_)
  dsimp only
  refine Frame.ite ?_ ?_
  · generalize (if r.sfmt = 0 then 24 else 48) = w
    have h1 := h.next (Dev.freeInt_frame (w := w)) (by decide)
    refine Frame.next ?_ Dev.drainAdd_frame (by decide)
    exact Frame.ite_snd h1 (h1.next (Dev.freeInt_frame (w := w)) (by decide))
  · exact h.next Dev.drainAdd_frame (by decide)

theorem Dev.nextSheet_frame {d} : Frame [.live, .hat, .acc] d (Dev.nextSheet d) := by
  unfold Dev.nextSheet
  split
  refine Frame.ite ?_ ?_
  refine Frame.upd_hat ?_ (by decide)
  refine Frame.ite ?_ ?_
  refine Frame.upd_hat_acc ?_ (by decide) (by decide)
  exact Frame.refl _ _
  refine Frame.next ?_ Dev.bump_frame (by decide)
  refine Frame.upd_hat_acc ?_ (by decide) (by decide)
  exact Frame.refl _ _
  refine Frame.ite ?_ ?_
  refine Frame.upd_hat_acc ?_ (by decide) (by decide)
  exact Frame.refl _ _
  refine Frame.next ?_ Dev.bump_frame (by decide)
  refine Frame.upd_hat_acc ?_ (by decide) (by decide)
  exact Frame.refl _ _
  exact Frame.refl _ _

theorem Dev.handOver_frame {d bits} : Frame [.hat, .acc] d (Dev.handOver d bits) := by
  unfold Dev.handOver
  split
  refine Frame.upd_hat_acc ?_ (by decide) (by decide)
  refine Frame.ite ?_ ?_
  exact Frame.refl _ _
  refine Frame.next ?_ Dev.markChan_frame (by decide)
  exact Frame.refl _ _
  exact Frame.refl _ _

theorem Dev.advance_frame {d pl} : Frame [.dkl, .hat, .acc] d (Dev.advance d pl) := by
  unfold Dev.advance
  refine Frame.ite ?_ ?_
  refine Frame.upd_hat ?_ (by decide)
  refine Frame.ite ?_ ?_
  refine Frame.upd_dkl_hat ?_ (by decide) (by decide)
  exact Frame.refl _ _
  exact Frame.refl _ _
  refine Frame.ite ?_ ?_
  refine Frame.upd_hat ?_ (by decide)
  refine Frame.ite ?_ ?_
  refine Frame.upd_dkl_hat ?_ (by decide) (by decide)
  exact Frame.refl _ _
  exact Frame.refl _ _
  refine Frame.next ?_ Dev.handOver_frame (by decide)
  refine Frame.ite ?_ ?_
  refine Frame.upd_dkl_hat ?_ (by decide) (by decide)
  exact Frame.refl _ _
  exact Frame.refl _ _

theorem Dev.checkRun_frame {d w units ream chan bad}
    : Frame [.pba, .pirq, .live, .out, .plt, .hat, .acc, .mem] d (Dev.checkRun d w units ream chan bad) := by
  unfold Dev.checkRun
  refine Frame.ite ?_ ?_
  refine Frame.next ?_ Dev.suspect_frame (by decide)
  refine Frame.foldl ?_ ?_
  refine Frame.upd_hat ?_ (by decide)
  refine Frame.upd_hat ?_ (by decide)
  refine Frame.foldl ?_ ?_
  exact (Frame.refl _ _).next Dev.checksDone_frame (by decide)
  intro _ _ _
  refine Frame.upd_hat ?_ (by decide)
  assumption
  intro _ _ _
  refine Frame.ite ?_ ?_
  refine Frame.next ?_ Dev.compare_frame (by decide)
  assumption
  assumption
  refine Frame.foldl ?_ ?_
  refine Frame.upd_hat ?_ (by decide)
  refine Frame.upd_hat ?_ (by decide)
  refine Frame.foldl ?_ ?_
  exact (Frame.refl _ _).next Dev.checksDone_frame (by decide)
  intro _ _ _
  refine Frame.upd_hat ?_ (by decide)
  assumption
  intro _ _ _
  refine Frame.ite ?_ ?_
  refine Frame.next ?_ Dev.compare_frame (by decide)
  assumption
  assumption

theorem Dev.passRun_frame {d bad}
    : Frame [.pba, .pirq, .live, .out, .plt, .dkl, .hat, .acc, .mem, .free] d (Dev.passRun d bad) := by
  unfold Dev.passRun
  refine Frame.ite ?_ ?_
  exact Frame.refl _ _
  (dsimp only; split)
  refine Frame.next ?_ Dev.nextSheet_frame (by decide)
  exact Frame.refl _ _
  refine Frame.ite_of ?_ fun h => h.next Dev.checksDone_frame (by decide)
  refine Frame.next ?_ Dev.nextSheet_frame (by decide)
  refine Frame.next ?_ Dev.advance_frame (by decide)
  refine Frame.next ?_ Dev.checkRun_frame (by decide)
  refine Frame.ite ?_ ?_
  refine Frame.next ?_ Dev.bump_frame (by decide)
  refine Frame.next ?_ Dev.bump_frame (by decide)
  refine Frame.foldl ?_ ?_
  refine Frame.ite ?_ ?_
  refine Frame.ite ?_ ?_
  refine Frame.next ?_ Dev.bump_frame (by decide)
  refine Frame.next ?_ Dev.bump_frame (by decide)
  refine Frame.next ?_ Dev.panicCheck_frame (by decide)
  refine Frame.upd_hat ?_ (by decide)
  refine Frame.ite ?_ ?_
  refine Frame.next ?_ Dev.markChan_frame (by decide)
  refine Frame.next ?_ Dev.raise_frame (by decide)
  refine Frame.next ?_ Dev.bump_frame (by decide)
  refine Frame.ite ?_ ?_
  refine Frame.next ?_ Dev.nextSheet_frame (by decide)
  exact Frame.refl _ _
  refine Frame.ite ?_ ?_
  refine Frame.upd_hat ?_ (by decide)
  refine Frame.next ?_ Dev.expireHalf_frame (by decide)
  refine Frame.next ?_ Dev.nextSheet_frame (by decide)
  exact Frame.refl _ _
  refine Frame.upd_hat ?_ (by decide)
  refine Frame.next ?_ Dev.expireHalf_frame (by decide)
  refine Frame.next ?_ Dev.nextSheet_frame (by decide)
  exact Frame.refl _ _
  refine Frame.ite ?_ ?_
  refine Frame.next ?_ Dev.nextSheet_frame (by decide)
  exact Frame.refl _ _
  refine Frame.ite ?_ ?_
  refine Frame.upd_hat ?_ (by decide)
  refine Frame.next ?_ Dev.expireHalf_frame (by decide)
  refine Frame.next ?_ Dev.nextSheet_frame (by decide)
  exact Frame.refl _ _
  refine Frame.upd_hat ?_ (by decide)
  refine Frame.next ?_ Dev.expireHalf_frame (by decide)
  refine Frame.next ?_ Dev.nextSheet_frame (by decide)
  exact Frame.refl _ _
  refine Frame.next ?_ Dev.panicCheck_frame (by decide)
  refine Frame.upd_hat ?_ (by decide)
  refine Frame.ite ?_ ?_
  refine Frame.next ?_ Dev.markChan_frame (by decide)
  refine Frame.next ?_ Dev.raise_frame (by decide)
  refine Frame.next ?_ Dev.bump_frame (by decide)
  refine Frame.ite ?_ ?_
  refine Frame.next ?_ Dev.nextSheet_frame (by decide)
  exact Frame.refl _ _
  refine Frame.ite ?_ ?_
  refine Frame.upd_hat ?_ (by decide)
  refine Frame.next ?_ Dev.expireHalf_frame (by decide)
  refine Frame.next ?_ Dev.nextSheet_frame (by decide)
  exact Frame.refl _ _
  refine Frame.upd_hat ?_ (by decide)
  refine Frame.next ?_ Dev.expireHalf_frame (by decide)
  refine Frame.next ?_ Dev.nextSheet_frame (by decide)
  exact Frame.refl _ _
  refine Frame.ite ?_ ?_
  refine Frame.next ?_ Dev.nextSheet_frame (by decide)
  exact Frame.refl _ _
  refine Frame.ite ?_ ?_
  refine Frame.upd_hat ?_ (by decide)
  refine Frame.next ?_ Dev.expireHalf_frame (by decide)
  refine Frame.next ?_ Dev.nextSheet_frame (by decide)
  exact Frame.refl _ _
  refine Frame.upd_hat ?_ (by decide)
  refine Frame.next ?_ Dev.expireHalf_frame (by decide)
  refine Frame.next ?_ Dev.nextSheet_frame (by decide)
  exact Frame.refl _ _
  refine Frame.next ?_ Dev.bump_frame (by decide)
  refine Frame.ite ?_ ?_
  refine Frame.next ?_ Dev.bump_frame (by decide)
  refine Frame.next ?_ Dev.bump_frame (by decide)
  refine Frame.next ?_ Dev.panicCheck_frame (by decide)
  refine Frame.upd_hat ?_ (by decide)
  refine Frame.ite ?_ ?_
  refine Frame.next ?_ Dev.markChan_frame (by decide)
  refine Frame.next ?_ Dev.raise_frame (by decide)
  refine Frame.next ?_ Dev.bump_frame (by decide)
  refine Frame.ite ?_ ?_
  refine Frame.next ?_ Dev.nextSheet_frame (by decide)
  exact Frame.refl _ _
  refine Frame.ite ?_ ?_
  refine Frame.upd_hat ?_ (by decide)
  refine Frame.next ?_ Dev.expireHalf_frame (by decide)
  refine Frame.next ?_ Dev.nextSheet_frame (by decide)
  exact Frame.refl _ _
  refine Frame.upd_hat ?_ (by decide)
  refine Frame.next ?_ Dev.expireHalf_frame (by decide)
  refine Frame.next ?_ Dev.nextSheet_frame (by decide)
  exact Frame.refl _ _
  refine Frame.ite ?_ ?_
  refine Frame.next ?_ Dev.nextSheet_frame (by decide)
  exact Frame.refl _ _
  refine Frame.ite ?_ ?_
  refine Frame.upd_hat ?_ (by decide)
  refine Frame.next ?_ Dev.expireHalf_frame (by decide)
  refine Frame.next ?_ Dev.nextSheet_frame (by decide)
  exact Frame.refl _ _
  refine Frame.upd_hat ?_ (by decide)
  refine Frame.next ?_ Dev.expireHalf_frame (by decide)
  refine Frame.next ?_ Dev.nextSheet_frame (by decide)
  exact Frame.refl _ _
  refine Frame.next ?_ Dev.panicCheck_frame (by decide)
  refine Frame.upd_hat ?_ (by decide)
  refine Frame.ite ?_ ?_
  refine Frame.next ?_ Dev.markChan_frame (by decide)
  refine Frame.next ?_ Dev.raise_frame (by decide)
  refine Frame.next ?_ Dev.bump_frame (by decide)
  refine Frame.ite ?_ ?_
  refine Frame.next ?_ Dev.nextSheet_frame (by decide)
  exact Frame.refl _ _
  refine Frame.ite ?_ ?_
  refine Frame.upd_hat ?_ (by decide)
  refine Frame.next ?_ Dev.expireHalf_frame (by decide)
  refine Frame.next ?_ Dev.nextSheet_frame (by decide)
  exact Frame.refl _ _
  refine Frame.upd_hat ?_ (by decide)
  refine Frame.next ?_ Dev.expireHalf_frame (by decide)
  refine Frame.next ?_ Dev.nextSheet_frame (by decide)
  exact Frame.refl _ _
  refine Frame.ite ?_ ?_
  refine Frame.next ?_ Dev.nextSheet_frame (by decide)
  exact Frame.refl _ _
  refine Frame.ite ?_ ?_
  refine Frame.upd_hat ?_ (by decide)
  refine Frame.next ?_ Dev.expireHalf_frame (by decide)
  refine Frame.next ?_ Dev.nextSheet_frame (by decide)
  exact Frame.refl _ _
  refine Frame.upd_hat ?_ (by decide)
  refine Frame.next ?_ Dev.expireHalf_frame (by decide)
  refine Frame.next ?_ Dev.nextSheet_frame (by decide)
  exact Frame.refl _ _
  intro _ _ _
  refine Frame.next ?_ Dev.drainUnit_frame (by decide)
  assumption
  refine Frame.next ?_ Dev.bump_frame (by decide)
  refine Frame.foldl ?_ ?_
  refine Frame.ite ?_ ?_
  refine Frame.ite ?_ ?_
  refine Frame.next ?_ Dev.bump_frame (by decide)
  refine Frame.next ?_ Dev.bump_frame (by decide)
  refine Frame.next ?_ Dev.panicCheck_frame (by decide)
  refine Frame.upd_hat ?_ (by decide)
  refine Frame.ite ?_ ?_
  refine Frame.next ?_ Dev.markChan_frame (by decide)
  refine Frame.next ?_ Dev.raise_frame (by decide)
  refine Frame.next ?_ Dev.bump_frame (by decide)
  refine Frame.ite ?_ ?_
  refine Frame.next ?_ Dev.nextSheet_frame (by decide)
  exact Frame.refl _ _
  refine Frame.ite ?_ ?_
  refine Frame.upd_hat ?_ (by decide)
  refine Frame.next ?_ Dev.expireHalf_frame (by decide)
  refine Frame.next ?_ Dev.nextSheet_frame (by decide)
  exact Frame.refl _ _
  refine Frame.upd_hat ?_ (by decide)
  refine Frame.next ?_ Dev.expireHalf_frame (by decide)
  refine Frame.next ?_ Dev.nextSheet_frame (by decide)
  exact Frame.refl _ _
  refine Frame.ite ?_ ?_
  refine Frame.next ?_ Dev.nextSheet_frame (by decide)
  exact Frame.refl _ _
  refine Frame.ite ?_ ?_
  refine Frame.upd_hat ?_ (by decide)
  refine Frame.next ?_ Dev.expireHalf_frame (by decide)
  refine Frame.next ?_ Dev.nextSheet_frame (by decide)
  exact Frame.refl _ _
  refine Frame.upd_hat ?_ (by decide)
  refine Frame.next ?_ Dev.expireHalf_frame (by decide)
  refine Frame.next ?_ Dev.nextSheet_frame (by decide)
  exact Frame.refl _ _
  refine Frame.next ?_ Dev.panicCheck_frame (by decide)
  refine Frame.upd_hat ?_ (by decide)
  refine Frame.ite ?_ ?_
  refine Frame.next ?_ Dev.markChan_frame (by decide)
  refine Frame.next ?_ Dev.raise_frame (by decide)
  refine Frame.next ?_ Dev.bump_frame (by decide)
  refine Frame.ite ?_ ?_
  refine Frame.next ?_ Dev.nextSheet_frame (by decide)
  exact Frame.refl _ _
  refine Frame.ite ?_ ?_
  refine Frame.upd_hat ?_ (by decide)
  refine Frame.next ?_ Dev.expireHalf_frame (by decide)
  refine Frame.next ?_ Dev.nextSheet_frame (by decide)
  exact Frame.refl _ _
  refine Frame.upd_hat ?_ (by decide)
  refine Frame.next ?_ Dev.expireHalf_frame (by decide)
  refine Frame.next ?_ Dev.nextSheet_frame (by decide)
  exact Frame.refl _ _
  refine Frame.ite ?_ ?_
  refine Frame.next ?_ Dev.nextSheet_frame (by decide)
  exact Frame.refl _ _
  refine Frame.ite ?_ ?_
  refine Frame.upd_hat ?_ (by decide)
  refine Frame.next ?_ Dev.expireHalf_frame (by decide)
  refine Frame.next ?_ Dev.nextSheet_frame (by decide)
  exact Frame.refl _ _
  refine Frame.upd_hat ?_ (by decide)
  refine Frame.next ?_ Dev.expireHalf_frame (by decide)
  refine Frame.next ?_ Dev.nextSheet_frame (by decide)
  exact Frame.refl _ _
  refine Frame.next ?_ Dev.bump_frame (by decide)
  refine Frame.ite ?_ ?_
  refine Frame.next ?_ Dev.bump_frame (by decide)
  refine Frame.next ?_ Dev.bump_frame (by decide)
  refine Frame.next ?_ Dev.panicCheck_frame (by decide)
  refine Frame.upd_hat ?_ (by decide)
  refine Frame.ite ?_ ?_
  refine Frame.next ?_ Dev.markChan_frame (by decide)
  refine Frame.next ?_ Dev.raise_frame (by decide)
  refine Frame.next ?_ Dev.bump_frame (by decide)
  refine Frame.ite ?_ ?_
  refine Frame.next ?_ Dev.nextSheet_frame (by decide)
  exact Frame.refl _ _
  refine Frame.ite ?_ ?_
  refine Frame.upd_hat ?_ (by decide)
  refine Frame.next ?_ Dev.expireHalf_frame (by decide)
  refine Frame.next ?_ Dev.nextSheet_frame (by decide)
  exact Frame.refl _ _
  refine Frame.upd_hat ?_ (by decide)
  refine Frame.next ?_ Dev.expireHalf_frame (by decide)
  refine Frame.next ?_ Dev.nextSheet_frame (by decide)
  exact Frame.refl _ _
  refine Frame.ite ?_ ?_
  refine Frame.next ?_ Dev.nextSheet_frame (by decide)
  exact Frame.refl _ _
  refine Frame.ite ?_ ?_
  refine Frame.upd_hat ?_ (by decide)
  refine Frame.next ?_ Dev.expireHalf_frame (by decide)
  refine Frame.next ?_ Dev.nextSheet_frame (by decide)
  exact Frame.refl _ _
  refine Frame.upd_hat ?_ (by decide)
  refine Frame.next ?_ Dev.expireHalf_frame (by decide)
  refine Frame.next ?_ Dev.nextSheet_frame (by decide)
  exact Frame.refl _ _
  refine Frame.next ?_ Dev.panicCheck_frame (by decide)
  refine Frame.upd_hat ?_ (by decide)
  refine Frame.ite ?_ ?_
  refine Frame.next ?_ Dev.markChan_frame (by decide)
  refine Frame.next ?_ Dev.raise_frame (by decide)
  refine Frame.next ?_ Dev.bump_frame (by decide)
  refine Frame.ite ?_ ?_
  refine Frame.next ?_ Dev.nextSheet_frame (by decide)
  exact Frame.refl _ _
  refine Frame.ite ?_ ?_
  refine Frame.upd_hat ?_ (by decide)
  refine Frame.next ?_ Dev.expireHalf_frame (by decide)
  refine Frame.next ?_ Dev.nextSheet_frame (by decide)
  exact Frame.refl _ _
  refine Frame.upd_hat ?_ (by decide)
  refine Frame.next ?_ Dev.expireHalf_frame (by decide)
  refine Frame.next ?_ Dev.nextSheet_frame (by decide)
  exact Frame.refl _ _
  refine Frame.ite ?_ ?_
  refine Frame.next ?_ Dev.nextSheet_frame (by decide)
  exact Frame.refl _ _
  refine Frame.ite ?_ ?_
  refine Frame.upd_hat ?_ (by decide)
  refine Frame.next ?_ Dev.expireHalf_frame (by decide)
  refine Frame.next ?_ Dev.nextSheet_frame (by decide)
  exact Frame.refl _ _
  refine Frame.upd_hat ?_ (by decide)
  refine Frame.next ?_ Dev.expireHalf_frame (by decide)
  refine Frame.next ?_ Dev.nextSheet_frame (by decide)
  exact Frame.refl _ _
  intro _ _ _
  refine Frame.next ?_ Dev.drainUnit_frame (by decide)
  assumption

theorem Dev.suspectFlagsClose_frame {d}
    : Frame [.pba, .pirq, .live, .out, .plt, .hat, .acc, .mem] d (Dev.suspectFlagsClose d) := by
  unfold Dev.suspectFlagsClose
  have h : Frame [.pba, .pirq, .live, .out, .plt, .hat, .acc, .mem] d d.checksDone :=
    (Frame.refl _ _).next Dev.checksDone_frame (by decide)
  dsimp only
  split
  · exact h
  · refine Frame.upd_hat (Frame.foldl h fun _ _ h => ?_) (by decide)
    exact h.next Dev.flagChan_frame (by decide)

theorem Dev.hatSheet_frame {d s} : Frame [.live, .hat, .acc] d (Dev.hatSheet d s) := by
  unfold Dev.hatSheet
  refine Frame.next ?_ Dev.nextSheet_frame (by decide)
  refine Frame.ite ?_ ?_
  refine Frame.upd_hat ?_ (by decide)
  refine Frame.upd_hat ?_ (by decide)
  refine Frame.ite ?_ ?_
  exact Frame.refl _ _
  refine Frame.upd_hat ?_ (by decide)
  exact Frame.refl _ _
  refine Frame.upd_hat ?_ (by decide)
  refine Frame.ite ?_ ?_
  exact Frame.refl _ _
  refine Frame.upd_hat ?_ (by decide)
  exact Frame.refl _ _

theorem Dev.skipChans_frame {d s l} : Frame [.live, .acc] d (Dev.skipChans d s l) := by
  unfold Dev.skipChans
  refine Frame.ite ?_ ?_
  refine Frame.upd_acc ?_ (by decide)
  exact Frame.refl _ _
  refine Frame.next ?_ Dev.bump_frame (by decide)
  refine Frame.upd_acc ?_ (by decide)
  exact Frame.refl _ _

theorem Dev.hatS2_frame {d} : Frame [.live, .hat, .acc] d (Dev.hatS2 d) := by
  unfold Dev.hatS2
  (dsimp only; split)
  refine Frame.upd_hat ?_ (by decide)
  refine Frame.next ?_ Dev.skipChans_frame (by decide)
  refine Frame.upd_hat ?_ (by decide)
  exact Frame.refl _ _
  refine Frame.upd_hat ?_ (by decide)
  exact Frame.refl _ _

theorem Dev.hatS3_frame {d} : Frame [.live, .hat, .acc] d (Dev.hatS3 d) := by
  unfold Dev.hatS3
  split
  refine Frame.upd_hat ?_ (by decide)
  refine Frame.next ?_ Dev.skipChans_frame (by decide)
  refine Frame.ite ?_ ?_
  refine Frame.next ?_ Dev.bump_frame (by decide)
  refine Frame.next ?_ Dev.handOver_frame (by decide)
  exact Frame.refl _ _
  exact Frame.refl _ _
  refine Frame.ite ?_ ?_
  refine Frame.upd_hat ?_ (by decide)
  exact Frame.refl _ _
  exact Frame.refl _ _

theorem Dev.hatTakeover_frame {d} : Frame [.hat] d (Dev.hatTakeover d) := by
  unfold Dev.hatTakeover
  refine Frame.upd_hat ?_ (by decide)
  exact Frame.refl _ _

theorem Dev.hatStart_frame {d} : Frame [.hat] d (Dev.hatStart d) := by
  unfold Dev.hatStart
  refine Frame.upd_hat ?_ (by decide)
  exact Frame.refl _ _

theorem Dev.quireFails_frame {d q} : Frame [.plt, .hat, .mem] d (Dev.quireFails d q) := by
  unfold Dev.quireFails
  refine Frame.ite ?_ ?_
  refine Frame.next ?_ Dev.chkOff_frame (by decide)
  refine Frame.upd_hat ?_ (by decide)
  exact Dev.qmaskSet_frame
  refine Frame.upd_hat ?_ (by decide)
  exact Dev.qmaskSet_frame

theorem Dev.hatSelftest_frame {d fail} : Frame [.pba, .pirq, .out, .plt, .hat, .mem] d (Dev.hatSelftest d fail) := by
  unfold Dev.hatSelftest
  refine Frame.ite ?_ ?_
  refine Frame.next ?_ Dev.raise_frame (by decide)
  refine Frame.foldl ?_ ?_
  exact Frame.refl _ _
  intro _ _ _
  refine Frame.ite ?_ ?_
  refine Frame.next ?_ Dev.quireFails_frame (by decide)
  assumption
  refine Frame.ite ?_ ?_
  refine Frame.next ?_ Dev.fmapChanged_frame (by decide)
  refine Frame.upd_hat ?_ (by decide)
  assumption
  assumption
  refine Frame.foldl ?_ ?_
  exact Frame.refl _ _
  intro _ _ _
  refine Frame.ite ?_ ?_
  refine Frame.next ?_ Dev.quireFails_frame (by decide)
  assumption
  refine Frame.ite ?_ ?_
  refine Frame.next ?_ Dev.fmapChanged_frame (by decide)
  refine Frame.upd_hat ?_ (by decide)
  assumption
  assumption

/-! ### Bmf -/

theorem Dev.bmfFrame_frame {d p g f3 fr} : Frame [.pba, .pirq, .live, .out, .bmf] d (Dev.bmfFrame d p g f3 fr) := by
  unfold Dev.bmfFrame
  refine Frame.ite ?_ ?_
  exact Frame.refl _ _
  refine Frame.ite ?_ ?_
  refine Frame.next ?_ Dev.raise_frame (by decide)
  refine Frame.next ?_ Dev.bump_frame (by decide)
  refine Frame.upd_bmf ?_ (by decide)
  exact Frame.refl _ _
  refine Frame.next ?_ Dev.peak_frame (by decide)
  refine Frame.upd_bmf ?_ (by decide)
  exact Frame.refl _ _

theorem Dev.stgDrop_frame {d} : Frame [.pba, .pirq, .live, .out] d (Dev.stgDrop d) := by
  unfold Dev.stgDrop
  refine Frame.next ?_ Dev.raise_frame (by decide)
  refine Frame.next ?_ Dev.bump_frame (by decide)
  exact Frame.refl _ _

theorem Dev.dmaBlock_frame {d r desc bytes}
    : Frame [.pba, .pirq, .live, .out, .bmf, .mem] d (Dev.dmaBlock d r desc bytes) := by
  unfold Dev.dmaBlock
  refine Frame.ite ?_ ?_
  refine Frame.next ?_ Dev.stgDrop_frame (by decide)
  exact Frame.refl _ _
  refine Frame.ite ?_ ?_
  refine Frame.next ?_ Dev.raise_frame (by decide)
  refine Frame.upd_bmf ?_ (by decide)
  refine Frame.next ?_ Dev.putBytes_frame (by decide)
  refine Frame.next ?_ Dev.putBytes_frame (by decide)
  exact Frame.refl _ _
  refine Frame.upd_bmf ?_ (by decide)
  refine Frame.next ?_ Dev.putBytes_frame (by decide)
  refine Frame.next ?_ Dev.putBytes_frame (by decide)
  exact Frame.refl _ _

theorem Dev.beamOut_frame {d r o inv b} : Frame [.pba, .pirq, .live, .out, .bmf, .mem] d (Dev.beamOut d r o inv b) := by
  unfold Dev.beamOut
  refine Frame.foldl ?_ ?_
  exact Frame.refl _ _
  intro _ _ _
  dsimp only
  refine Frame.ite ?_ ?_
  refine Frame.ite ?_ ?_
  refine Frame.next ?_ Dev.bump_frame (by decide)
  refine Frame.next ?_ Dev.stgDrop_frame (by decide)
  refine Frame.ite ?_ ?_
  refine Frame.next ?_ Dev.dmaBlock_frame (by decide)
  refine Frame.ite ?_ ?_
  assumption
  refine Frame.next ?_ Dev.bump_frame (by decide)
  assumption
  refine Frame.ite ?_ ?_
  assumption
  refine Frame.next ?_ Dev.bump_frame (by decide)
  assumption
  split
  refine Frame.upd_bmf ?_ (by decide)
  refine Frame.ite ?_ ?_
  refine Frame.next ?_ Dev.dmaBlock_frame (by decide)
  refine Frame.ite ?_ ?_
  assumption
  refine Frame.next ?_ Dev.bump_frame (by decide)
  assumption
  refine Frame.ite ?_ ?_
  assumption
  refine Frame.next ?_ Dev.bump_frame (by decide)
  assumption
  refine Frame.ite ?_ ?_
  refine Frame.next ?_ Dev.dmaBlock_frame (by decide)
  refine Frame.ite ?_ ?_
  assumption
  refine Frame.next ?_ Dev.bump_frame (by decide)
  assumption
  refine Frame.ite ?_ ?_
  assumption
  refine Frame.next ?_ Dev.bump_frame (by decide)
  assumption
  refine Frame.ite ?_ ?_
  refine Frame.next ?_ Dev.dmaBlock_frame (by decide)
  refine Frame.ite ?_ ?_
  assumption
  refine Frame.next ?_ Dev.bump_frame (by decide)
  assumption
  refine Frame.ite ?_ ?_
  assumption
  refine Frame.next ?_ Dev.bump_frame (by decide)
  assumption

theorem Dev.rampEnd_frame {d} : Frame [.pba, .pirq, .out, .bmf] d (Dev.rampEnd d) := by
  unfold Dev.rampEnd
  refine Frame.ite ?_ ?_
  refine Frame.next ?_ Dev.raise_frame (by decide)
  refine Frame.upd_bmf ?_ (by decide)
  exact Frame.refl _ _
  exact Frame.refl _ _

theorem Dev.rampClose_frame {d f1} : Frame [.pba, .pirq, .out, .bmf] d (Dev.rampClose d f1) := by
  unfold Dev.rampClose
  refine Frame.ite ?_ ?_
  refine Frame.ite ?_ ?_
  refine Frame.upd_bmf ?_ (by decide)
  exact Frame.refl _ _
  refine Frame.ite ?_ ?_
  exact Dev.rampEnd_frame
  exact Frame.refl _ _
  exact Frame.refl _ _

theorem Dev.bmfClose_frame {d g f2 overrun lat}
    : Frame [.pba, .pirq, .live, .out, .acc, .bmf, .mem] d (Dev.bmfClose d g f2 overrun lat).2 := by
  unfold Dev.bmfClose
  refine Frame.ite_snd ?_ ?_
  exact Frame.refl _ _
  refine Frame.ite_snd ?_ ?_
  refine Frame.next ?_ Dev.rampClose_frame (by decide)
  refine Frame.upd_bmf ?_ (by decide)
  exact Frame.refl _ _
  refine Frame.next ?_ Dev.rampClose_frame (by decide)
  refine Frame.next ?_ Dev.peak_frame (by decide)
  refine Frame.upd_bmf ?_ (by decide)
  refine Frame.ite ?_ ?_
  refine Frame.upd_acc ?_ (by decide)
  refine Frame.next ?_ Dev.bump_frame (by decide)
  refine Frame.ite ?_ ?_
  refine Frame.foldl ?_ ?_
  refine Frame.ite ?_ ?_
  refine Frame.upd_bmf ?_ (by decide)
  exact Frame.refl _ _
  refine Frame.next ?_ Dev.bump_frame (by decide)
  refine Frame.upd_bmf ?_ (by decide)
  exact Frame.refl _ _
  intro _ _ _
  refine Frame.next ?_ Dev.beamOut_frame (by decide)
  assumption
  refine Frame.next ?_ Dev.bump_frame (by decide)
  refine Frame.foldl ?_ ?_
  refine Frame.ite ?_ ?_
  refine Frame.upd_bmf ?_ (by decide)
  exact Frame.refl _ _
  refine Frame.next ?_ Dev.bump_frame (by decide)
  refine Frame.upd_bmf ?_ (by decide)
  exact Frame.refl _ _
  intro _ _ _
  refine Frame.next ?_ Dev.beamOut_frame (by decide)
  assumption
  refine Frame.ite ?_ ?_
  refine Frame.next ?_ Dev.bump_frame (by decide)
  refine Frame.next ?_ Dev.bump_frame (by decide)
  refine Frame.ite ?_ ?_
  refine Frame.foldl ?_ ?_
  refine Frame.ite ?_ ?_
  refine Frame.upd_bmf ?_ (by decide)
  exact Frame.refl _ _
  refine Frame.next ?_ Dev.bump_frame (by decide)
  refine Frame.upd_bmf ?_ (by decide)
  exact Frame.refl _ _
  intro _ _ _
  refine Frame.next ?_ Dev.beamOut_frame (by decide)
  assumption
  refine Frame.next ?_ Dev.bump_frame (by decide)
  refine Frame.foldl ?_ ?_
  refine Frame.ite ?_ ?_
  refine Frame.upd_bmf ?_ (by decide)
  exact Frame.refl _ _
  refine Frame.next ?_ Dev.bump_frame (by decide)
  refine Frame.upd_bmf ?_ (by decide)
  exact Frame.refl _ _
  intro _ _ _
  refine Frame.next ?_ Dev.beamOut_frame (by decide)
  assumption
  refine Frame.next ?_ Dev.bump_frame (by decide)
  refine Frame.ite ?_ ?_
  refine Frame.foldl ?_ ?_
  refine Frame.ite ?_ ?_
  refine Frame.upd_bmf ?_ (by decide)
  exact Frame.refl _ _
  refine Frame.next ?_ Dev.bump_frame (by decide)
  refine Frame.upd_bmf ?_ (by decide)
  exact Frame.refl _ _
  intro _ _ _
  refine Frame.next ?_ Dev.beamOut_frame (by decide)
  assumption
  refine Frame.next ?_ Dev.bump_frame (by decide)
  refine Frame.foldl ?_ ?_
  refine Frame.ite ?_ ?_
  refine Frame.upd_bmf ?_ (by decide)
  exact Frame.refl _ _
  refine Frame.next ?_ Dev.bump_frame (by decide)
  refine Frame.upd_bmf ?_ (by decide)
  exact Frame.refl _ _
  intro _ _ _
  refine Frame.next ?_ Dev.beamOut_frame (by decide)
  assumption

theorem Dev.beamFrameSend_frame {d lane poison}
    : Frame [.live, .out, .lnb, .bmf] d (Dev.beamFrameSend d lane poison) := by
  unfold Dev.beamFrameSend
  split
  exact Frame.refl _ _
  refine Frame.ite ?_ ?_
  exact Frame.refl _ _
  refine Frame.ite ?_ ?_
  refine Frame.next ?_ Dev.bump_frame (by decide)
  refine Frame.upd_bmf ?_ (by decide)
  exact Frame.refl _ _
  refine Frame.ite ?_ ?_
  refine Frame.upd_bmf ?_ (by decide)
  exact Frame.refl _ _
  refine Frame.next ?_ Dev.bump_frame (by decide)
  refine Frame.next ?_ Dev.sendFrame_frame (by decide)
  refine Frame.upd_bmf ?_ (by decide)
  exact Frame.refl _ _

theorem Dev.tblReject_frame {d p sh c} : Frame [.pba, .perr, .pirq, .errlog, .out] d (Dev.tblReject d p sh c) := by
  unfold Dev.tblReject
  refine Frame.next ?_ Dev.reject_frame (by decide)
  exact Frame.refl _ _

theorem Dev.bmfTableWrite_frame {d shadow o l}
    : Frame [.pba, .perr, .pirq, .errlog, .out, .bmf] d (Dev.bmfTableWrite d shadow o l) := by
  unfold Dev.bmfTableWrite
  refine Frame.ite ?_ ?_
  refine Frame.next ?_ Dev.tblReject_frame (by decide)
  refine Frame.upd_bmf ?_ (by decide)
  exact Frame.refl _ _
  refine Frame.ite ?_ ?_
  refine Frame.next ?_ Dev.tblReject_frame (by decide)
  refine Frame.upd_bmf ?_ (by decide)
  exact Frame.refl _ _
  split
  refine Frame.next ?_ Dev.tblReject_frame (by decide)
  refine Frame.upd_bmf ?_ (by decide)
  exact Frame.refl _ _
  refine Frame.ite ?_ ?_
  refine Frame.next ?_ Dev.tblReject_frame (by decide)
  refine Frame.upd_bmf ?_ (by decide)
  exact Frame.refl _ _
  split
  refine Frame.next ?_ Dev.tblReject_frame (by decide)
  refine Frame.upd_bmf ?_ (by decide)
  exact Frame.refl _ _
  refine Frame.upd_bmf ?_ (by decide)
  exact Frame.refl _ _

theorem Dev.stgrdWrite_frame {d v} : Frame [.pba, .perr, .pirq, .errlog, .out, .bmf] d (Dev.stgrdWrite d v) := by
  unfold Dev.stgrdWrite
  refine Dev.guard_frame ?_ ?_ (by decide)
  exact Frame.refl _ _
  intro _ _
  refine Frame.upd_bmf ?_ (by decide)
  assumption

theorem Dev.bmfCommit_frame {d b now} : Frame [.bmf] d (Dev.bmfCommit d b now) := by
  unfold Dev.bmfCommit
  refine Frame.upd_bmf ?_ (by decide)
  exact Frame.refl _ _

theorem Dev.bmfTakeover_frame {d r z b keep} : Frame [.bmf] d (Dev.bmfTakeover d r z b keep) := by
  unfold Dev.bmfTakeover
  refine Frame.upd_bmf ?_ (by decide)
  exact Frame.refl _ _

theorem Dev.bmfStart_frame {d} : Frame [.bmf] d (Dev.bmfStart d) := by
  unfold Dev.bmfStart
  refine Frame.upd_bmf ?_ (by decide)
  exact Frame.refl _ _

/-! ### Trg -/

theorem Dev.trgRestart_frame {d b old new} : Frame [.trg] d (Dev.trgRestart d b old new) := by
  unfold Dev.trgRestart
  refine Frame.upd_trg ?_ (by decide)
  exact Frame.refl _ _

theorem Dev.trgGeom_frame {d} : Frame [.trg] d (Dev.trgGeom d) := by
  unfold Dev.trgGeom
  split
  refine Frame.ite ?_ ?_
  refine Frame.next ?_ Dev.trgRestart_frame (by decide)
  exact Frame.refl _ _
  exact Frame.refl _ _
  exact Frame.refl _ _

theorem Dev.trgTake_frame {d o inv} : Frame [.live, .trg] d (Dev.trgTake d o inv) := by
  unfold Dev.trgTake
  refine Frame.ite ?_ ?_
  exact Frame.refl _ _
  refine Frame.foldl ?_ ?_
  exact Frame.refl _ _
  intro _ _ _
  refine Frame.ite ?_ ?_
  assumption
  refine Frame.foldl ?_ ?_
  assumption
  intro _ _ _
  dsimp only
  refine Frame.foldl ?_ ?_
  assumption
  intro _ _ _
  refine Frame.ite ?_ ?_
  refine Frame.next ?_ Dev.bump_frame (by decide)
  refine Frame.ite ?_ ?_
  refine Frame.next ?_ Dev.bump_frame (by decide)
  refine Frame.upd_trg ?_ (by decide)
  assumption
  refine Frame.upd_trg ?_ (by decide)
  assumption
  refine Frame.ite ?_ ?_
  refine Frame.next ?_ Dev.bump_frame (by decide)
  refine Frame.upd_trg ?_ (by decide)
  assumption
  refine Frame.upd_trg ?_ (by decide)
  assumption

theorem Dev.logFifo_frame {d l} : Frame [.pba, .pirq, .live, .out, .trg] d (Dev.logFifo d l) := by
  unfold Dev.logFifo
  refine Frame.next ?_ Dev.raise_frame (by decide)
  refine Frame.upd_trg ?_ (by decide)
  refine Frame.ite ?_ ?_
  refine Frame.next ?_ Dev.raise_frame (by decide)
  refine Frame.next ?_ Dev.bump_frame (by decide)
  refine Frame.upd_trg ?_ (by decide)
  exact Frame.refl _ _
  exact Frame.refl _ _

theorem Dev.decCapture_frame {d r tbl sel id t}
    : Frame [.pba, .pirq, .live, .out, .dkl] d (Dev.decCapture d r tbl sel id t).2 := by
  unfold Dev.decCapture
  refine Frame.ite_snd ?_ ?_
  refine Frame.next ?_ Dev.bump_frame (by decide)
  exact Frame.refl _ _
  dsimp only
  refine Frame.ite ?_ ?_
  refine Frame.next ?_ Dev.capRequest_frame (by decide)
  refine Frame.next ?_ Dev.bump_frame (by decide)
  exact Frame.refl _ _
  refine Frame.next ?_ Dev.bump_frame (by decide)
  refine Frame.next ?_ Dev.capRequest_frame (by decide)
  refine Frame.next ?_ Dev.bump_frame (by decide)
  exact Frame.refl _ _

theorem Dev.trigOut_frame {d mask} : Frame [.out, .trg] d (Dev.trigOut d mask) := by
  unfold Dev.trigOut
  refine Frame.foldl ?_ ?_
  exact Frame.refl _ _
  intro _ _ _
  refine Frame.ite ?_ ?_
  refine Frame.next ?_ Dev.emit_frame (by decide)
  refine Frame.upd_trg ?_ (by decide)
  assumption
  assumption

theorem Dev.decPeer_frame {d r i id cls best} : Frame [.live, .trg] d (Dev.decPeer d r i id cls best) := by
  unfold Dev.decPeer
  refine Frame.ite ?_ ?_
  refine Frame.next ?_ Dev.bump_frame (by decide)
  exact Frame.refl _ _
  refine Frame.ite ?_ ?_
  refine Frame.upd_trg ?_ (by decide)
  refine Frame.upd_trg ?_ (by decide)
  exact Frame.refl _ _
  refine Frame.next ?_ Dev.bump_frame (by decide)
  refine Frame.upd_trg ?_ (by decide)
  exact Frame.refl _ _

theorem Dev.tickDecide_frame {d lat} : Frame [.pba, .pirq, .live, .out, .dkl, .trg] d (Dev.tickDecide d lat) := by
  unfold Dev.tickDecide
  refine Frame.ite ?_ ?_
  exact Frame.refl _ _
  refine Frame.ite ?_ ?_
  refine Frame.ite ?_ ?_
  refine Frame.next ?_ Dev.bump_frame (by decide)
  refine Frame.ite ?_ ?_
  refine Frame.next ?_ Dev.peak_frame (by decide)
  refine Frame.next ?_ Dev.bump_frame (by decide)
  refine Frame.upd_trg ?_ (by decide)
  exact Frame.refl _ _
  refine Frame.next ?_ Dev.bump_frame (by decide)
  refine Frame.next ?_ Dev.peak_frame (by decide)
  refine Frame.next ?_ Dev.bump_frame (by decide)
  refine Frame.upd_trg ?_ (by decide)
  exact Frame.refl _ _
  refine Frame.ite ?_ ?_
  refine Frame.next ?_ Dev.peak_frame (by decide)
  refine Frame.next ?_ Dev.bump_frame (by decide)
  refine Frame.upd_trg ?_ (by decide)
  exact Frame.refl _ _
  refine Frame.next ?_ Dev.bump_frame (by decide)
  refine Frame.next ?_ Dev.peak_frame (by decide)
  refine Frame.next ?_ Dev.bump_frame (by decide)
  refine Frame.upd_trg ?_ (by decide)
  exact Frame.refl _ _
  refine Frame.ite ?_ ?_
  refine Frame.next ?_ Dev.logFifo_frame (by decide)
  refine Frame.next ?_ Dev.bump_frame (by decide)
  refine Frame.ite ?_ ?_
  refine Frame.next ?_ Dev.bump_frame (by decide)
  refine Frame.ite ?_ ?_
  refine Frame.next ?_ Dev.peak_frame (by decide)
  refine Frame.next ?_ Dev.bump_frame (by decide)
  refine Frame.upd_trg ?_ (by decide)
  exact Frame.refl _ _
  refine Frame.next ?_ Dev.bump_frame (by decide)
  refine Frame.next ?_ Dev.peak_frame (by decide)
  refine Frame.next ?_ Dev.bump_frame (by decide)
  refine Frame.upd_trg ?_ (by decide)
  exact Frame.refl _ _
  refine Frame.ite ?_ ?_
  refine Frame.next ?_ Dev.peak_frame (by decide)
  refine Frame.next ?_ Dev.bump_frame (by decide)
  refine Frame.upd_trg ?_ (by decide)
  exact Frame.refl _ _
  refine Frame.next ?_ Dev.bump_frame (by decide)
  refine Frame.next ?_ Dev.peak_frame (by decide)
  refine Frame.next ?_ Dev.bump_frame (by decide)
  refine Frame.upd_trg ?_ (by decide)
  exact Frame.refl _ _
  dsimp only
  refine Frame.next ?_ Dev.logFifo_frame (by decide)
  refine Frame.ite ?_ ?_
  refine Frame.next ?_ Dev.decPeer_frame (by decide)
  refine Frame.ite ?_ ?_
  refine Frame.next ?_ Dev.trigOut_frame (by decide)
  refine Frame.ite_snd ?_ ?_
  refine Frame.next ?_ Dev.decCapture_frame (by decide)
  refine Frame.next ?_ Dev.bump_frame (by decide)
  refine Frame.upd_trg ?_ (by decide)
  refine Frame.ite ?_ ?_
  refine Frame.next ?_ Dev.bump_frame (by decide)
  refine Frame.ite ?_ ?_
  refine Frame.next ?_ Dev.peak_frame (by decide)
  refine Frame.next ?_ Dev.bump_frame (by decide)
  refine Frame.upd_trg ?_ (by decide)
  exact Frame.refl _ _
  refine Frame.next ?_ Dev.bump_frame (by decide)
  refine Frame.next ?_ Dev.peak_frame (by decide)
  refine Frame.next ?_ Dev.bump_frame (by decide)
  refine Frame.upd_trg ?_ (by decide)
  exact Frame.refl _ _
  refine Frame.ite ?_ ?_
  refine Frame.next ?_ Dev.peak_frame (by decide)
  refine Frame.next ?_ Dev.bump_frame (by decide)
  refine Frame.upd_trg ?_ (by decide)
  exact Frame.refl _ _
  refine Frame.next ?_ Dev.bump_frame (by decide)
  refine Frame.next ?_ Dev.peak_frame (by decide)
  refine Frame.next ?_ Dev.bump_frame (by decide)
  refine Frame.upd_trg ?_ (by decide)
  exact Frame.refl _ _
  refine Frame.next ?_ Dev.bump_frame (by decide)
  refine Frame.upd_trg ?_ (by decide)
  refine Frame.ite ?_ ?_
  refine Frame.next ?_ Dev.bump_frame (by decide)
  refine Frame.ite ?_ ?_
  refine Frame.next ?_ Dev.peak_frame (by decide)
  refine Frame.next ?_ Dev.bump_frame (by decide)
  refine Frame.upd_trg ?_ (by decide)
  exact Frame.refl _ _
  refine Frame.next ?_ Dev.bump_frame (by decide)
  refine Frame.next ?_ Dev.peak_frame (by decide)
  refine Frame.next ?_ Dev.bump_frame (by decide)
  refine Frame.upd_trg ?_ (by decide)
  exact Frame.refl _ _
  refine Frame.ite ?_ ?_
  refine Frame.next ?_ Dev.peak_frame (by decide)
  refine Frame.next ?_ Dev.bump_frame (by decide)
  refine Frame.upd_trg ?_ (by decide)
  exact Frame.refl _ _
  refine Frame.next ?_ Dev.bump_frame (by decide)
  refine Frame.next ?_ Dev.peak_frame (by decide)
  refine Frame.next ?_ Dev.bump_frame (by decide)
  refine Frame.upd_trg ?_ (by decide)
  exact Frame.refl _ _
  refine Frame.ite_snd ?_ ?_
  refine Frame.next ?_ Dev.decCapture_frame (by decide)
  refine Frame.next ?_ Dev.bump_frame (by decide)
  refine Frame.upd_trg ?_ (by decide)
  refine Frame.ite ?_ ?_
  refine Frame.next ?_ Dev.bump_frame (by decide)
  refine Frame.ite ?_ ?_
  refine Frame.next ?_ Dev.peak_frame (by decide)
  refine Frame.next ?_ Dev.bump_frame (by decide)
  refine Frame.upd_trg ?_ (by decide)
  exact Frame.refl _ _
  refine Frame.next ?_ Dev.bump_frame (by decide)
  refine Frame.next ?_ Dev.peak_frame (by decide)
  refine Frame.next ?_ Dev.bump_frame (by decide)
  refine Frame.upd_trg ?_ (by decide)
  exact Frame.refl _ _
  refine Frame.ite ?_ ?_
  refine Frame.next ?_ Dev.peak_frame (by decide)
  refine Frame.next ?_ Dev.bump_frame (by decide)
  refine Frame.upd_trg ?_ (by decide)
  exact Frame.refl _ _
  refine Frame.next ?_ Dev.bump_frame (by decide)
  refine Frame.next ?_ Dev.peak_frame (by decide)
  refine Frame.next ?_ Dev.bump_frame (by decide)
  refine Frame.upd_trg ?_ (by decide)
  exact Frame.refl _ _
  refine Frame.next ?_ Dev.bump_frame (by decide)
  refine Frame.upd_trg ?_ (by decide)
  refine Frame.ite ?_ ?_
  refine Frame.next ?_ Dev.bump_frame (by decide)
  refine Frame.ite ?_ ?_
  refine Frame.next ?_ Dev.peak_frame (by decide)
  refine Frame.next ?_ Dev.bump_frame (by decide)
  refine Frame.upd_trg ?_ (by decide)
  exact Frame.refl _ _
  refine Frame.next ?_ Dev.bump_frame (by decide)
  refine Frame.next ?_ Dev.peak_frame (by decide)
  refine Frame.next ?_ Dev.bump_frame (by decide)
  refine Frame.upd_trg ?_ (by decide)
  exact Frame.refl _ _
  refine Frame.ite ?_ ?_
  refine Frame.next ?_ Dev.peak_frame (by decide)
  refine Frame.next ?_ Dev.bump_frame (by decide)
  refine Frame.upd_trg ?_ (by decide)
  exact Frame.refl _ _
  refine Frame.next ?_ Dev.bump_frame (by decide)
  refine Frame.next ?_ Dev.peak_frame (by decide)
  refine Frame.next ?_ Dev.bump_frame (by decide)
  refine Frame.upd_trg ?_ (by decide)
  exact Frame.refl _ _
  refine Frame.ite ?_ ?_
  refine Frame.next ?_ Dev.trigOut_frame (by decide)
  refine Frame.ite_snd ?_ ?_
  refine Frame.next ?_ Dev.decCapture_frame (by decide)
  refine Frame.next ?_ Dev.bump_frame (by decide)
  refine Frame.upd_trg ?_ (by decide)
  refine Frame.ite ?_ ?_
  refine Frame.next ?_ Dev.bump_frame (by decide)
  refine Frame.ite ?_ ?_
  refine Frame.next ?_ Dev.peak_frame (by decide)
  refine Frame.next ?_ Dev.bump_frame (by decide)
  refine Frame.upd_trg ?_ (by decide)
  exact Frame.refl _ _
  refine Frame.next ?_ Dev.bump_frame (by decide)
  refine Frame.next ?_ Dev.peak_frame (by decide)
  refine Frame.next ?_ Dev.bump_frame (by decide)
  refine Frame.upd_trg ?_ (by decide)
  exact Frame.refl _ _
  refine Frame.ite ?_ ?_
  refine Frame.next ?_ Dev.peak_frame (by decide)
  refine Frame.next ?_ Dev.bump_frame (by decide)
  refine Frame.upd_trg ?_ (by decide)
  exact Frame.refl _ _
  refine Frame.next ?_ Dev.bump_frame (by decide)
  refine Frame.next ?_ Dev.peak_frame (by decide)
  refine Frame.next ?_ Dev.bump_frame (by decide)
  refine Frame.upd_trg ?_ (by decide)
  exact Frame.refl _ _
  refine Frame.next ?_ Dev.bump_frame (by decide)
  refine Frame.upd_trg ?_ (by decide)
  refine Frame.ite ?_ ?_
  refine Frame.next ?_ Dev.bump_frame (by decide)
  refine Frame.ite ?_ ?_
  refine Frame.next ?_ Dev.peak_frame (by decide)
  refine Frame.next ?_ Dev.bump_frame (by decide)
  refine Frame.upd_trg ?_ (by decide)
  exact Frame.refl _ _
  refine Frame.next ?_ Dev.bump_frame (by decide)
  refine Frame.next ?_ Dev.peak_frame (by decide)
  refine Frame.next ?_ Dev.bump_frame (by decide)
  refine Frame.upd_trg ?_ (by decide)
  exact Frame.refl _ _
  refine Frame.ite ?_ ?_
  refine Frame.next ?_ Dev.peak_frame (by decide)
  refine Frame.next ?_ Dev.bump_frame (by decide)
  refine Frame.upd_trg ?_ (by decide)
  exact Frame.refl _ _
  refine Frame.next ?_ Dev.bump_frame (by decide)
  refine Frame.next ?_ Dev.peak_frame (by decide)
  refine Frame.next ?_ Dev.bump_frame (by decide)
  refine Frame.upd_trg ?_ (by decide)
  exact Frame.refl _ _
  refine Frame.ite_snd ?_ ?_
  refine Frame.next ?_ Dev.decCapture_frame (by decide)
  refine Frame.next ?_ Dev.bump_frame (by decide)
  refine Frame.upd_trg ?_ (by decide)
  refine Frame.ite ?_ ?_
  refine Frame.next ?_ Dev.bump_frame (by decide)
  refine Frame.ite ?_ ?_
  refine Frame.next ?_ Dev.peak_frame (by decide)
  refine Frame.next ?_ Dev.bump_frame (by decide)
  refine Frame.upd_trg ?_ (by decide)
  exact Frame.refl _ _
  refine Frame.next ?_ Dev.bump_frame (by decide)
  refine Frame.next ?_ Dev.peak_frame (by decide)
  refine Frame.next ?_ Dev.bump_frame (by decide)
  refine Frame.upd_trg ?_ (by decide)
  exact Frame.refl _ _
  refine Frame.ite ?_ ?_
  refine Frame.next ?_ Dev.peak_frame (by decide)
  refine Frame.next ?_ Dev.bump_frame (by decide)
  refine Frame.upd_trg ?_ (by decide)
  exact Frame.refl _ _
  refine Frame.next ?_ Dev.bump_frame (by decide)
  refine Frame.next ?_ Dev.peak_frame (by decide)
  refine Frame.next ?_ Dev.bump_frame (by decide)
  refine Frame.upd_trg ?_ (by decide)
  exact Frame.refl _ _
  refine Frame.next ?_ Dev.bump_frame (by decide)
  refine Frame.upd_trg ?_ (by decide)
  refine Frame.ite ?_ ?_
  refine Frame.next ?_ Dev.bump_frame (by decide)
  refine Frame.ite ?_ ?_
  refine Frame.next ?_ Dev.peak_frame (by decide)
  refine Frame.next ?_ Dev.bump_frame (by decide)
  refine Frame.upd_trg ?_ (by decide)
  exact Frame.refl _ _
  refine Frame.next ?_ Dev.bump_frame (by decide)
  refine Frame.next ?_ Dev.peak_frame (by decide)
  refine Frame.next ?_ Dev.bump_frame (by decide)
  refine Frame.upd_trg ?_ (by decide)
  exact Frame.refl _ _
  refine Frame.ite ?_ ?_
  refine Frame.next ?_ Dev.peak_frame (by decide)
  refine Frame.next ?_ Dev.bump_frame (by decide)
  refine Frame.upd_trg ?_ (by decide)
  exact Frame.refl _ _
  refine Frame.next ?_ Dev.bump_frame (by decide)
  refine Frame.next ?_ Dev.peak_frame (by decide)
  refine Frame.next ?_ Dev.bump_frame (by decide)
  refine Frame.upd_trg ?_ (by decide)
  exact Frame.refl _ _

theorem Dev.tickEval_frame {d lat} : Frame [.pba, .pirq, .live, .out, .dkl, .trg] d (Dev.tickEval d lat) := by
  unfold Dev.tickEval
  refine Frame.next ?_ Dev.trgGeom_frame (by decide)
  refine Frame.next ?_ Dev.tickDecide_frame (by decide)
  exact Frame.refl _ _

theorem Dev.swDeadline_frame {d} : Frame [.pba, .pirq, .live, .out, .trg] d (Dev.swDeadline d) := by
  unfold Dev.swDeadline
  refine Frame.ite ?_ ?_
  refine Frame.next ?_ Dev.raise_frame (by decide)
  refine Frame.next ?_ Dev.bump_frame (by decide)
  refine Frame.upd_trg ?_ (by decide)
  exact Frame.refl _ _
  exact Frame.refl _ _

theorem Dev.peerEvent_frame {d fr f2} : Frame [.live, .ing, .trg] d (Dev.peerEvent d fr f2) := by
  unfold Dev.peerEvent
  refine Frame.ite ?_ ?_
  refine Frame.next ?_ Dev.enterDir_frame (by decide)
  exact Frame.refl _ _
  refine Frame.next ?_ Dev.bump_frame (by decide)
  refine Frame.upd_trg ?_ (by decide)
  refine Frame.next ?_ Dev.enterDir_frame (by decide)
  exact Frame.refl _ _

theorem Dev.triginEdge_frame {d n rise} : Frame [.live, .trg] d (Dev.triginEdge d n rise) := by
  unfold Dev.triginEdge
  refine Frame.ite ?_ ?_
  refine Frame.ite ?_ ?_
  refine Frame.next ?_ Dev.bump_frame (by decide)
  refine Frame.upd_trg ?_ (by decide)
  exact Frame.refl _ _
  refine Frame.upd_trg ?_ (by decide)
  refine Frame.next ?_ Dev.bump_frame (by decide)
  refine Frame.upd_trg ?_ (by decide)
  exact Frame.refl _ _
  refine Frame.upd_trg ?_ (by decide)
  exact Frame.refl _ _

theorem Dev.trigoutEnd_frame {d n} : Frame [.out, .trg] d (Dev.trigoutEnd d n) := by
  unfold Dev.trigoutEnd
  split
  refine Frame.ite ?_ ?_
  refine Frame.next ?_ Dev.emit_frame (by decide)
  refine Frame.upd_trg ?_ (by decide)
  exact Frame.refl _ _
  exact Frame.refl _ _
  exact Frame.refl _ _

theorem Dev.trigFrameSend_frame {d} : Frame [.live, .out, .lnb, .trg] d (Dev.trigFrameSend d) := by
  unfold Dev.trigFrameSend
  split
  exact Frame.refl _ _
  refine Frame.ite ?_ ?_
  refine Frame.next ?_ Dev.bump_frame (by decide)
  refine Frame.upd_trg ?_ (by decide)
  exact Frame.refl _ _
  refine Frame.next ?_ Dev.bump_frame (by decide)
  refine Frame.foldl ?_ ?_
  refine Frame.upd_trg ?_ (by decide)
  exact Frame.refl _ _
  intro _ _ _
  refine Frame.next ?_ Dev.sendFrame_frame (by decide)
  assumption

theorem Dev.logEntryWrite_frame {d} : Frame [.pba, .pirq, .live, .out, .trg, .mem] d (Dev.logEntryWrite d) := by
  unfold Dev.logEntryWrite
  split
  exact Frame.refl _ _
  refine Frame.ite ?_ ?_
  exact Frame.refl _ _
  refine Frame.ite ?_ ?_
  refine Frame.next ?_ Dev.raise_frame (by decide)
  refine Frame.ite ?_ ?_
  refine Frame.next ?_ Dev.raise_frame (by decide)
  refine Frame.next ?_ Dev.bump_frame (by decide)
  refine Frame.upd_trg ?_ (by decide)
  refine Frame.next ?_ Dev.putBytes_frame (by decide)
  refine Frame.upd_trg ?_ (by decide)
  exact Frame.refl _ _
  refine Frame.upd_trg ?_ (by decide)
  refine Frame.next ?_ Dev.putBytes_frame (by decide)
  refine Frame.upd_trg ?_ (by decide)
  exact Frame.refl _ _
  refine Frame.ite ?_ ?_
  refine Frame.next ?_ Dev.raise_frame (by decide)
  refine Frame.next ?_ Dev.bump_frame (by decide)
  refine Frame.upd_trg ?_ (by decide)
  refine Frame.next ?_ Dev.putBytes_frame (by decide)
  refine Frame.upd_trg ?_ (by decide)
  exact Frame.refl _ _
  refine Frame.upd_trg ?_ (by decide)
  refine Frame.next ?_ Dev.putBytes_frame (by decide)
  refine Frame.upd_trg ?_ (by decide)
  exact Frame.refl _ _

theorem Dev.logrdWrite_frame {d v} : Frame [.pba, .perr, .pirq, .errlog, .out, .trg] d (Dev.logrdWrite d v) := by
  unfold Dev.logrdWrite
  refine Dev.guard_frame ?_ ?_ (by decide)
  exact Frame.refl _ _
  intro _ _
  refine Frame.upd_trg ?_ (by decide)
  assumption

theorem Dev.trgTableWrite_frame {d shadow o l}
    : Frame [.pba, .perr, .pirq, .errlog, .out, .trg] d (Dev.trgTableWrite d shadow o l) := by
  unfold Dev.trgTableWrite
  refine Frame.ite ?_ ?_
  refine Frame.next ?_ Dev.tblReject_frame (by decide)
  refine Frame.upd_trg ?_ (by decide)
  exact Frame.refl _ _
  split
  (dsimp only; split)
  refine Frame.next ?_ Dev.tblReject_frame (by decide)
  refine Frame.upd_trg ?_ (by decide)
  exact Frame.refl _ _
  refine Frame.next ?_ Dev.tblReject_frame (by decide)
  refine Frame.upd_trg ?_ (by decide)
  exact Frame.refl _ _
  split
  (dsimp only; split)
  refine Frame.next ?_ Dev.tblReject_frame (by decide)
  refine Frame.upd_trg ?_ (by decide)
  exact Frame.refl _ _
  refine Frame.next ?_ Dev.tblReject_frame (by decide)
  refine Frame.upd_trg ?_ (by decide)
  exact Frame.refl _ _
  (dsimp only; split)
  refine Frame.next ?_ Dev.tblReject_frame (by decide)
  refine Frame.upd_trg ?_ (by decide)
  exact Frame.refl _ _
  split
  refine Frame.next ?_ Dev.tblReject_frame (by decide)
  refine Frame.upd_trg ?_ (by decide)
  exact Frame.refl _ _
  refine Frame.upd_trg ?_ (by decide)
  exact Frame.refl _ _

theorem Dev.trgCommit_frame {d b} : Frame [.trg] d (Dev.trgCommit d b) := by
  unfold Dev.trgCommit
  refine Frame.upd_trg ?_ (by decide)
  exact Frame.refl _ _

theorem Dev.trgTakeover_frame {d old new b keep} : Frame [.trg] d (Dev.trgTakeover d old new b keep) := by
  unfold Dev.trgTakeover
  refine Frame.ite ?_ ?_
  refine Frame.upd_trg ?_ (by decide)
  exact Frame.refl _ _
  refine Frame.next ?_ Dev.trgGeom_frame (by decide)
  refine Frame.upd_trg ?_ (by decide)
  refine Frame.upd_trg ?_ (by decide)
  exact Frame.refl _ _

theorem Dev.trgStart_frame {d} : Frame [.trg] d (Dev.trgStart d) := by
  unfold Dev.trgStart
  refine Frame.upd_trg ?_ (by decide)
  exact Frame.refl _ _

theorem Dev.trgResume_frame {d b} : Frame [.trg] d (Dev.trgResume d b) := by
  unfold Dev.trgResume
  refine Frame.upd_trg ?_ (by decide)
  exact Frame.refl _ _

end Sys2Proof.Machine
end

