-- ==== Sys2Proof/Laws/FrameMem.lean ====
section
/-! SUPPORT. Frames, one lemma a function: memory, plates, freeze, fabric, tickets, ports, pair and DMA. -/

namespace Sys2Proof.Machine

variable {T : List Part} {d0 : Dev}

/-! ### Mem -/

theorem Dev.setMchan_frame {d c x} : Frame [.mctl] d (Dev.setMchan d c x) := by
  unfold Dev.setMchan
  refine Frame.upd_mctl ?_ (by decide)
  exact Frame.refl _ _

theorem Dev.exclude_frame {d e1} : Frame [.pba, .pirq, .errlog, .out, .plt, .mctl, .mem] d (Dev.exclude d e1) := by
  unfold Dev.exclude
  refine Frame.ite ?_ ?_
  exact Frame.refl _ _
  refine Frame.ite ?_ ?_
  refine Frame.next ?_ Dev.raise_frame (by decide)
  refine Frame.next ?_ Dev.logEvent_frame (by decide)
  refine Frame.upd_mctl ?_ (by decide)
  exact Frame.refl _ _
  refine Frame.next ?_ Dev.raise_frame (by decide)
  refine Frame.next ?_ Dev.fmapChanged_frame (by decide)
  refine Frame.upd_plt ?_ (by decide)
  exact Frame.refl _ _

theorem Dev.excludeAt_frame {d a} : Frame [.pba, .pirq, .errlog, .out, .plt, .mctl, .mem] d (Dev.excludeAt d a) := by
  unfold Dev.excludeAt
  refine Frame.next ?_ Dev.exclude_frame (by decide)
  exact Frame.refl _ _

theorem Dev.exclAddWrite_frame {d v}
    : Frame [.pba, .perr, .pirq, .errlog, .out, .plt, .mctl, .mem] d (Dev.exclAddWrite d v) := by
  unfold Dev.exclAddWrite
  split
  refine Frame.next ?_ Dev.reject_frame (by decide)
  refine Frame.ite ?_ ?_
  refine Frame.next ?_ Dev.exclude_frame (by decide)
  exact Frame.refl _ _
  exact Frame.refl _ _
  refine Frame.next ?_ Dev.exclude_frame (by decide)
  exact Frame.refl _ _

theorem Dev.corrected_frame {d scrub a lost}
    : Frame [.pba, .pirq, .live, .errlog, .out, .plt, .mctl, .mem] d (Dev.corrected d scrub a lost) := by
  unfold Dev.corrected
  refine Frame.ite ?_ ?_
  refine Frame.next ?_ Dev.bump_frame (by decide)
  refine Frame.next ?_ Dev.raise_frame (by decide)
  refine Frame.ite ?_ ?_
  refine Frame.next ?_ Dev.logEvent_frame (by decide)
  refine Frame.ite ?_ ?_
  refine Frame.next ?_ Dev.bump_frame (by decide)
  refine Frame.next ?_ Dev.bump_frame (by decide)
  refine Frame.next ?_ Dev.bump_frame (by decide)
  refine Frame.next ?_ Dev.setMchan_frame (by decide)
  exact Frame.refl _ _
  refine Frame.next ?_ Dev.bump_frame (by decide)
  refine Frame.next ?_ Dev.bump_frame (by decide)
  refine Frame.next ?_ Dev.setMchan_frame (by decide)
  exact Frame.refl _ _
  refine Frame.ite ?_ ?_
  refine Frame.next ?_ Dev.bump_frame (by decide)
  refine Frame.next ?_ Dev.bump_frame (by decide)
  refine Frame.next ?_ Dev.bump_frame (by decide)
  refine Frame.next ?_ Dev.setMchan_frame (by decide)
  exact Frame.refl _ _
  refine Frame.next ?_ Dev.bump_frame (by decide)
  refine Frame.next ?_ Dev.bump_frame (by decide)
  refine Frame.next ?_ Dev.setMchan_frame (by decide)
  exact Frame.refl _ _
  refine Frame.ite ?_ ?_
  refine Frame.next ?_ Dev.excludeAt_frame (by decide)
  refine Frame.upd_mctl ?_ (by decide)
  refine Frame.next ?_ Dev.raise_frame (by decide)
  refine Frame.ite ?_ ?_
  refine Frame.next ?_ Dev.logEvent_frame (by decide)
  refine Frame.ite ?_ ?_
  refine Frame.next ?_ Dev.bump_frame (by decide)
  refine Frame.next ?_ Dev.bump_frame (by decide)
  refine Frame.next ?_ Dev.bump_frame (by decide)
  refine Frame.next ?_ Dev.setMchan_frame (by decide)
  exact Frame.refl _ _
  refine Frame.next ?_ Dev.bump_frame (by decide)
  refine Frame.next ?_ Dev.bump_frame (by decide)
  refine Frame.next ?_ Dev.setMchan_frame (by decide)
  exact Frame.refl _ _
  refine Frame.ite ?_ ?_
  refine Frame.next ?_ Dev.bump_frame (by decide)
  refine Frame.next ?_ Dev.bump_frame (by decide)
  refine Frame.next ?_ Dev.bump_frame (by decide)
  refine Frame.next ?_ Dev.setMchan_frame (by decide)
  exact Frame.refl _ _
  refine Frame.next ?_ Dev.bump_frame (by decide)
  refine Frame.next ?_ Dev.bump_frame (by decide)
  refine Frame.next ?_ Dev.setMchan_frame (by decide)
  exact Frame.refl _ _
  refine Frame.upd_mctl ?_ (by decide)
  refine Frame.next ?_ Dev.raise_frame (by decide)
  refine Frame.ite ?_ ?_
  refine Frame.next ?_ Dev.logEvent_frame (by decide)
  refine Frame.ite ?_ ?_
  refine Frame.next ?_ Dev.bump_frame (by decide)
  refine Frame.next ?_ Dev.bump_frame (by decide)
  refine Frame.next ?_ Dev.bump_frame (by decide)
  refine Frame.next ?_ Dev.setMchan_frame (by decide)
  exact Frame.refl _ _
  refine Frame.next ?_ Dev.bump_frame (by decide)
  refine Frame.next ?_ Dev.bump_frame (by decide)
  refine Frame.next ?_ Dev.setMchan_frame (by decide)
  exact Frame.refl _ _
  refine Frame.ite ?_ ?_
  refine Frame.next ?_ Dev.bump_frame (by decide)
  refine Frame.next ?_ Dev.bump_frame (by decide)
  refine Frame.next ?_ Dev.bump_frame (by decide)
  refine Frame.next ?_ Dev.setMchan_frame (by decide)
  exact Frame.refl _ _
  refine Frame.next ?_ Dev.bump_frame (by decide)
  refine Frame.next ?_ Dev.bump_frame (by decide)
  refine Frame.next ?_ Dev.setMchan_frame (by decide)
  exact Frame.refl _ _

theorem Dev.memStale_frame {d c} : Frame [.pba, .hdr, .pirq, .out, .mctl] d (Dev.memStale d c) := by
  unfold Dev.memStale
  refine Frame.ite ?_ ?_
  exact Frame.refl _ _
  refine Frame.next ?_ Dev.raise_frame (by decide)
  refine Frame.modPage ?_ (.inr (by decide)) (.inl fun _ => rfl) (.inl fun _ => ⟨rfl, rfl⟩)
  refine Frame.next ?_ Dev.setMchan_frame (by decide)
  exact Frame.refl _ _

theorem Dev.memTemps_frame {d} : Frame [.pba, .hdr, .pirq, .out, .mctl] d (Dev.memTemps d) := by
  unfold Dev.memTemps
  refine Frame.foldl ?_ ?_
  exact Frame.refl _ _
  intro _ _ _
  refine Frame.ite ?_ ?_
  refine Frame.next ?_ Dev.memStale_frame (by decide)
  assumption
  assumption

theorem Dev.memTrack_frame {d c t0 t1} : Frame [.pba, .hdr, .pirq, .out, .mctl] d (Dev.memTrack d c t0 t1) := by
  unfold Dev.memTrack
  refine Frame.ite ?_ ?_
  exact Frame.refl _ _
  refine Frame.ite ?_ ?_
  refine Frame.next ?_ Dev.memStale_frame (by decide)
  refine Frame.next ?_ Dev.setMchan_frame (by decide)
  exact Frame.refl _ _
  refine Frame.next ?_ Dev.setMchan_frame (by decide)
  exact Frame.refl _ _

theorem Dev.refreshPoll1_frame {d dev temp thr} : Frame [.mctl] d (Dev.refreshPoll1 d dev temp thr).2 := by
  unfold Dev.refreshPoll1
  refine Frame.foldl ?_ ?_
  exact Frame.refl _ _
  intro _ _ _
  refine Frame.next ?_ Dev.setMchan_frame (by decide)
  assumption

theorem Dev.refreshPoll_frame {d l} : Frame [.pba, .hdr, .pirq, .live, .out, .mctl] d (Dev.refreshPoll d l) := by
  unfold Dev.refreshPoll
  refine Frame.ite ?_ ?_
  exact Frame.refl _ _
  refine Frame.next ?_ Dev.memTemps_frame (by decide)
  refine Frame.ite ?_ ?_
  refine Frame.next ?_ Dev.raise_frame (by decide)
  refine Frame.foldl_snd ?_ ?_
  refine Frame.ite ?_ ?_
  refine Frame.next ?_ Dev.bump_frame (by decide)
  exact Frame.refl _ _
  exact Frame.refl _ _
  intro _ _ _
  refine Frame.next ?_ Dev.refreshPoll1_frame (by decide)
  assumption
  refine Frame.foldl_snd ?_ ?_
  refine Frame.ite ?_ ?_
  refine Frame.next ?_ Dev.bump_frame (by decide)
  exact Frame.refl _ _
  exact Frame.refl _ _
  intro _ _ _
  refine Frame.next ?_ Dev.refreshPoll1_frame (by decide)
  assumption

theorem Dev.trained_frame {d failed}
    : Frame [.pba, .hdr, .pirq, .errlog, .out, .boot, .plt, .mctl, .mem] d (Dev.trained d failed) := by
  unfold Dev.trained
  refine Frame.upd_boot_mctl ?_ (by decide) (by decide)
  refine Frame.foldl ?_ ?_
  refine Frame.foldl ?_ ?_
  exact Frame.refl _ _
  intro _ _ _
  refine Frame.ite ?_ ?_
  refine Frame.foldl ?_ ?_
  refine Frame.next ?_ Dev.setMchan_frame (by decide)
  assumption
  intro _ _ _
  refine Frame.next ?_ Dev.exclude_frame (by decide)
  assumption
  refine Frame.next ?_ Dev.setMchan_frame (by decide)
  assumption
  intro _ _ _
  refine Frame.modPage ?_ (.inr (by decide)) (.inl fun _ => rfl) (.inl fun _ => ⟨rfl, rfl⟩)
  assumption

theorem Dev.trainingDone_frame {d failed bad}
    : Frame [.pba, .hdr, .pirq, .errlog, .out, .boot, .plt, .mctl, .mem] d (Dev.trainingDone d failed bad) := by
  unfold Dev.trainingDone
  refine Frame.ite ?_ ?_
  exact Frame.refl _ _
  refine Frame.upd_mctl ?_ (by decide)
  refine Frame.foldl ?_ ?_
  refine Frame.next ?_ Dev.trained_frame (by decide)
  exact Frame.refl _ _
  intro _ _ _
  refine Frame.next ?_ Dev.excludeAt_frame (by decide)
  assumption

theorem Dev.retrainDone_frame {d failed}
    : Frame [.pba, .hdr, .pirq, .errlog, .out, .boot, .plt, .mctl, .mem] d (Dev.retrainDone d failed) := by
  unfold Dev.retrainDone
  refine Frame.ite ?_ ?_
  exact Frame.refl _ _
  refine Frame.next ?_ Dev.raise_frame (by decide)
  refine Frame.upd_mctl ?_ (by decide)
  refine Frame.next ?_ Dev.trained_frame (by decide)
  exact Frame.refl _ _

theorem Dev.injWrite_frame {d v} : Frame [.pba, .perr, .pirq, .errlog, .out, .mctl] d (Dev.injWrite d v) := by
  unfold Dev.injWrite
  refine Dev.guard_frame ?_ ?_ (by decide)
  exact Frame.refl _ _
  intro _ _
  refine Frame.upd_mctl ?_ (by decide)
  assumption

theorem Dev.memWritten_frame {d a n skip} : Frame [.live, .mctl] d (Dev.memWritten d a n skip) := by
  unfold Dev.memWritten
  extract_lets l part m1 d1 d2 d3
  have e1 : Frame [.live, .mctl] d d1 := Frame.upd_mctl (Frame.refl _ _) (by decide)
  have e2 : Frame [.live, .mctl] d d2 := Frame.foldl e1 fun _ _ h => Frame.next h Dev.bump_frame (by decide)
  have e3 : Frame [.live, .mctl] d d3 := Frame.foldl e2 fun _ _ h => Frame.next h Dev.bump_frame (by decide)
  exact Frame.ite e3 (Frame.next e3 Dev.bump_frame (by decide))

theorem Dev.injectAt_frame {d a} : Frame [.mctl] d (Dev.injectAt d a) := by
  unfold Dev.injectAt
  refine Frame.ite ?_ ?_
  refine Frame.upd_mctl ?_ (by decide)
  exact Frame.refl _ _
  exact Frame.refl _ _

/-! ### Plt -/

theorem Dev.build_frame {d} : Frame [.plt] d (Dev.build d) := by
  unfold Dev.build
  refine Frame.upd_plt ?_ (by decide)
  exact Frame.refl _ _

theorem Dev.proof_frame {d} : Frame [.plt] d (Dev.proof d) := by
  unfold Dev.proof
  refine Frame.upd_plt ?_ (by decide)
  exact Frame.refl _ _

theorem Dev.pltEnd_frame {d s x} : Frame [.pba, .pirq, .live, .out, .plt] d (Dev.pltEnd d s x) := by
  unfold Dev.pltEnd
  refine Frame.next ?_ Dev.raise_frame (by decide)
  refine Frame.ite ?_ ?_
  refine Frame.next ?_ Dev.bump_frame (by decide)
  refine Frame.upd_plt ?_ (by decide)
  exact Frame.refl _ _
  refine Frame.next ?_ Dev.bump_frame (by decide)
  refine Frame.next ?_ Dev.bump_frame (by decide)
  refine Frame.upd_plt ?_ (by decide)
  exact Frame.refl _ _

theorem Dev.pltAbort_frame {d c} : Frame [.pba, .pirq, .live, .out, .plt] d (Dev.pltAbort d c) := by
  unfold Dev.pltAbort
  refine Frame.ite ?_ ?_
  exact Frame.refl _ _
  refine Frame.next ?_ Dev.pltEnd_frame (by decide)
  exact Frame.refl _ _

theorem Dev.buildDone_frame {d} : Frame [.pba, .pirq, .live, .out, .plt, .mem] d (Dev.buildDone d) := by
  unfold Dev.buildDone
  refine Frame.ite ?_ ?_
  exact Frame.refl _ _
  (dsimp only; split)
  refine Frame.next ?_ Dev.pltEnd_frame (by decide)
  exact Frame.refl _ _
  refine Frame.upd_plt ?_ (by decide)
  refine Frame.next ?_ Dev.pltEnd_frame (by decide)
  refine Frame.next ?_ Dev.putBytes_frame (by decide)
  exact Frame.refl _ _

theorem Dev.proofDone_frame {d} : Frame [.pba, .pirq, .live, .out, .plt] d (Dev.proofDone d) := by
  unfold Dev.proofDone
  refine Frame.ite ?_ ?_
  exact Frame.refl _ _
  split
  refine Frame.upd_plt ?_ (by decide)
  refine Frame.next ?_ Dev.pltEnd_frame (by decide)
  exact Frame.refl _ _
  split
  refine Frame.upd_plt ?_ (by decide)
  refine Frame.next ?_ Dev.pltEnd_frame (by decide)
  exact Frame.refl _ _
  refine Frame.upd_plt ?_ (by decide)
  refine Frame.next ?_ Dev.pltEnd_frame (by decide)
  exact Frame.refl _ _

theorem Dev.arm_frame {d} : Frame [.pba, .pirq, .state, .out, .plt] d (Dev.arm d) := by
  unfold Dev.arm
  refine Frame.ite ?_ ?_
  refine Frame.upd_plt ?_ (by decide)
  refine Frame.upd_plt ?_ (by decide)
  exact Frame.refl _ _
  refine Frame.ite ?_ ?_
  refine Frame.next ?_ Dev.setState_frame (by decide)
  refine Frame.upd_plt ?_ (by decide)
  exact Frame.refl _ _
  refine Frame.upd_plt ?_ (by decide)
  exact Frame.refl _ _

theorem Dev.disarm_frame {d v} : Frame [.pba, .perr, .pirq, .state, .errlog, .out, .plt] d (Dev.disarm d v) := by
  unfold Dev.disarm
  refine Dev.guard_frame ?_ ?_ (by decide)
  exact Frame.refl _ _
  intro _ _
  refine Frame.ite ?_ ?_
  refine Frame.ite ?_ ?_
  refine Frame.next ?_ Dev.setState_frame (by decide)
  refine Frame.upd_plt ?_ (by decide)
  assumption
  refine Frame.upd_plt ?_ (by decide)
  assumption
  assumption

theorem Dev.slotWrite_frame {d slot o l}
    : Frame [.pba, .perr, .pirq, .errlog, .out, .plt, .mem] d (Dev.slotWrite d slot o l) := by
  unfold Dev.slotWrite
  refine Frame.ite ?_ ?_
  refine Frame.next ?_ Dev.reject_frame (by decide)
  exact Frame.refl _ _
  split
  refine Frame.upd_plt ?_ (by decide)
  refine Frame.next ?_ Dev.putBytes_frame (by decide)
  exact Frame.refl _ _
  refine Frame.upd_plt ?_ (by decide)
  refine Frame.next ?_ Dev.putBytes_frame (by decide)
  exact Frame.refl _ _
  refine Frame.upd_plt ?_ (by decide)
  refine Frame.next ?_ Dev.putBytes_frame (by decide)
  exact Frame.refl _ _
  refine Frame.next ?_ Dev.reject_frame (by decide)
  exact Frame.refl _ _

/-! ### Freeze -/

theorem Dev.freezeRecord_frame {d cause addr loc syn multi}
    : Frame [.pba, .pirq, .live, .out, .mctl] d (Dev.freezeRecord d cause addr loc syn multi) := by
  unfold Dev.freezeRecord
  refine Frame.next ?_ Dev.raise_frame (by decide)
  refine Frame.next ?_ Dev.bump_frame (by decide)
  refine Frame.upd_mctl ?_ (by decide)
  exact Frame.refl _ _

theorem Dev.freeze_frame {d cause addr loc syn multi}
    : Frame [.pba, .pirq, .live, .state, .out, .plt, .acc, .mctl] d (Dev.freeze d cause addr loc syn multi) := by
  unfold Dev.freeze
  refine Frame.ite ?_ ?_
  refine Frame.upd_mctl ?_ (by decide)
  exact Frame.refl _ _
  refine Frame.ite ?_ ?_
  exact Frame.refl _ _
  refine Frame.ite ?_ ?_
  refine Frame.next ?_ Dev.accFroze_frame (by decide)
  refine Frame.next ?_ Dev.pltAbort_frame (by decide)
  refine Frame.upd_mctl ?_ (by decide)
  refine Frame.next ?_ Dev.freezeRecord_frame (by decide)
  exact Frame.refl _ _
  refine Frame.next ?_ Dev.setState_frame (by decide)
  refine Frame.next ?_ Dev.accFroze_frame (by decide)
  refine Frame.next ?_ Dev.pltAbort_frame (by decide)
  refine Frame.upd_mctl ?_ (by decide)
  refine Frame.next ?_ Dev.freezeRecord_frame (by decide)
  exact Frame.refl _ _

theorem Dev.freezeAt_frame {d cause a syn}
    : Frame [.pba, .pirq, .live, .state, .out, .plt, .acc, .mctl] d (Dev.freezeAt d cause a syn) := by
  unfold Dev.freezeAt
  refine Frame.next ?_ Dev.freeze_frame (by decide)
  exact Frame.refl _ _

theorem Dev.frzForce_frame {d v}
    : Frame [.pba, .perr, .pirq, .live, .state, .errlog, .out, .plt, .acc, .mctl, .free] d (Dev.frzForce d v) := by
  unfold Dev.frzForce
  refine Dev.guard_frame ?_ ?_ (by decide)
  exact Frame.refl _ _
  intro _ _
  refine Frame.ite ?_ ?_
  assumption
  dsimp only
  refine Frame.next ?_ Dev.freeze_frame (by decide)
  refine Frame.next ?_ Dev.fresh_frame (by decide)
  refine Frame.next ?_ Dev.fresh_frame (by decide)
  refine Frame.next ?_ Dev.fresh_frame (by decide)
  assumption

theorem Dev.thaw_frame {d} : Frame [.mctl] d (Dev.thaw d) := by
  unfold Dev.thaw
  refine Frame.upd_mctl ?_ (by decide)
  exact Frame.refl _ _

theorem Dev.thawCheckDone_frame {d recur addr syn still}
    : Frame [.pba, .perr, .pirq, .live, .state, .errlog, .out, .plt, .ing, .acc, .mctl, .mem, .bmf] d (Dev.thawCheckDone d
      recur addr syn still) := by
  unfold Dev.thawCheckDone
  refine Frame.ite ?_ ?_
  exact Frame.refl _ _
  refine Frame.ite ?_ ?_
  refine Frame.next ?_ Dev.logErr_frame (by decide)
  refine Frame.next ?_ Dev.perr_frame (by decide)
  refine Frame.next ?_ Dev.freezeRecord_frame (by decide)
  exact Frame.refl _ _
  refine Frame.ite ?_ ?_
  refine Frame.next ?_ Dev.accThaw_frame (by decide)
  refine Frame.next ?_ Dev.egLost_frame (by decide)
  refine Frame.next ?_ Dev.setState_frame (by decide)
  refine Frame.ite ?_ ?_
  refine Frame.next ?_ Dev.accFroze_frame (by decide)
  refine Frame.upd_ing_acc_mctl ?_ (by decide) (by decide) (by decide)
  refine Frame.ite ?_ ?_
  refine Frame.next ?_ Dev.excludeAt_frame (by decide)
  exact Frame.refl _ _
  exact Frame.refl _ _
  refine Frame.upd_ing_acc_mctl ?_ (by decide) (by decide) (by decide)
  refine Frame.ite ?_ ?_
  refine Frame.next ?_ Dev.excludeAt_frame (by decide)
  exact Frame.refl _ _
  exact Frame.refl _ _
  refine Frame.next ?_ Dev.egLost_frame (by decide)
  refine Frame.next ?_ Dev.setState_frame (by decide)
  refine Frame.ite ?_ ?_
  refine Frame.next ?_ Dev.accFroze_frame (by decide)
  refine Frame.upd_ing_acc_mctl ?_ (by decide) (by decide) (by decide)
  refine Frame.ite ?_ ?_
  refine Frame.next ?_ Dev.excludeAt_frame (by decide)
  exact Frame.refl _ _
  exact Frame.refl _ _
  refine Frame.upd_ing_acc_mctl ?_ (by decide) (by decide) (by decide)
  refine Frame.ite ?_ ?_
  refine Frame.next ?_ Dev.excludeAt_frame (by decide)
  exact Frame.refl _ _
  exact Frame.refl _ _

theorem Dev.scrubChan_frame {d c found}
    : Frame [.pba, .pirq, .live, .state, .errlog, .out, .plt, .acc, .mctl, .mem] d (Dev.scrubChan d c found) := by
  unfold Dev.scrubChan
  refine Frame.ite ?_ ?_
  exact Frame.refl _ _
  refine Frame.ite ?_ ?_
  refine Frame.upd_mctl ?_ (by decide)
  refine Frame.next ?_ Dev.corrected_frame (by decide)
  exact Frame.refl _ _
  refine Frame.next ?_ Dev.freezeAt_frame (by decide)
  exact Frame.refl _ _

theorem Dev.patrolScrub_frame {d found}
    : Frame [.pba, .pirq, .live, .state, .errlog, .out, .plt, .acc, .mctl, .mem] d (Dev.patrolScrub d found) := by
  unfold Dev.patrolScrub
  refine Frame.ite ?_ ?_
  exact Frame.refl _ _
  refine Frame.ite ?_ ?_
  refine Frame.foldl ?_ ?_
  exact Frame.refl _ _
  intro _ _ _
  refine Frame.next ?_ Dev.scrubChan_frame (by decide)
  assumption
  refine Frame.ite ?_ ?_
  refine Frame.upd_mctl ?_ (by decide)
  refine Frame.ite ?_ ?_
  refine Frame.next ?_ Dev.bump_frame (by decide)
  refine Frame.foldl ?_ ?_
  exact Frame.refl _ _
  intro _ _ _
  refine Frame.next ?_ Dev.scrubChan_frame (by decide)
  assumption
  refine Frame.foldl ?_ ?_
  exact Frame.refl _ _
  intro _ _ _
  refine Frame.next ?_ Dev.scrubChan_frame (by decide)
  assumption
  refine Frame.upd_mctl ?_ (by decide)
  refine Frame.ite ?_ ?_
  refine Frame.next ?_ Dev.bump_frame (by decide)
  refine Frame.foldl ?_ ?_
  exact Frame.refl _ _
  intro _ _ _
  refine Frame.next ?_ Dev.scrubChan_frame (by decide)
  assumption
  refine Frame.foldl ?_ ?_
  exact Frame.refl _ _
  intro _ _ _
  refine Frame.next ?_ Dev.scrubChan_frame (by decide)
  assumption

theorem Dev.retrain_frame {d} : Frame [.mctl] d (Dev.retrain d) := by
  unfold Dev.retrain
  refine Frame.upd_mctl ?_ (by decide)
  exact Frame.refl _ _

/-! ### Fab -/

theorem Dev.fabErr_frame {d master target code}
    : Frame [.pba, .pirq, .live, .out, .fab] d (Dev.fabErr d master target code) := by
  unfold Dev.fabErr
  refine Frame.next ?_ Dev.raise_frame (by decide)
  refine Frame.ite ?_ ?_
  refine Frame.next ?_ Dev.bump_frame (by decide)
  refine Frame.upd_fab ?_ (by decide)
  exact Frame.refl _ _
  refine Frame.ite ?_ ?_
  refine Frame.next ?_ Dev.bump_frame (by decide)
  refine Frame.upd_fab ?_ (by decide)
  exact Frame.refl _ _
  refine Frame.upd_fab ?_ (by decide)
  exact Frame.refl _ _

theorem Dev.fabAccept_frame {d a n} : Frame [.live] d (Dev.fabAccept d a n) := by
  unfold Dev.fabAccept
  refine Frame.next ?_ Dev.bump_frame (by decide)
  exact Frame.refl _ _

theorem Dev.fabWait_frame {d master target write} : Frame [.fab] d (Dev.fabWait d master target write) := by
  unfold Dev.fabWait
  refine Frame.upd_fab ?_ (by decide)
  exact Frame.refl _ _

theorem Dev.memRead_frame {d a n ce ue}
    : Frame [.pba, .pirq, .live, .state, .errlog, .out, .plt, .acc, .mctl, .mem] d (Dev.memRead d a n ce ue).2.2 := by
  unfold Dev.memRead
  refine Frame.foldl ?_ ?_
  refine Frame.foldl ?_ ?_
  refine Frame.foldl ?_ ?_
  refine Frame.foldl ?_ ?_
  exact Frame.refl _ _
  intro _ _ _
  refine Frame.next ?_ Dev.bump_frame (by decide)
  assumption
  intro _ _ _
  refine Frame.next ?_ Dev.corrected_frame (by decide)
  assumption
  intro _ _ _
  refine Frame.next ?_ Dev.corrected_frame (by decide)
  assumption
  intro _ _ _
  refine Frame.next ?_ Dev.freezeAt_frame (by decide)
  assumption

theorem Dev.memWrite_frame {d a l}
    : Frame [.pba, .pirq, .live, .state, .errlog, .out, .plt, .acc, .mctl, .mem] d (Dev.memWrite d a l) := by
  unfold Dev.memWrite
  refine Frame.ite ?_ ?_
  refine Frame.next ?_ Dev.memWritten_frame (by decide)
  refine Frame.next ?_ Dev.putBytes_frame (by decide)
  refine Frame.foldl ?_ ?_
  exact Frame.refl _ _
  intro _ _ _
  refine Frame.next ?_ Dev.corrected_frame (by decide)
  assumption
  refine Frame.foldl ?_ ?_
  refine Frame.next ?_ Dev.memWritten_frame (by decide)
  refine Frame.foldl ?_ ?_
  refine Frame.foldl ?_ ?_
  exact Frame.refl _ _
  intro _ _ _
  refine Frame.next ?_ Dev.corrected_frame (by decide)
  assumption
  intro _ _ _
  refine Frame.ite ?_ ?_
  assumption
  refine Frame.next ?_ Dev.setByte_frame (by decide)
  assumption
  intro _ _ _
  refine Frame.next ?_ Dev.freezeAt_frame (by decide)
  assumption

theorem Dev.setCore_frame {d c x} : Frame [.bur] d (Dev.setCore d c x) := by
  unfold Dev.setCore
  refine Frame.upd_bur ?_ (by decide)
  exact Frame.refl _ _

theorem Dev.coreMemWrite_frame {d prog c o l}
    : Frame [.pba, .perr, .pirq, .errlog, .out, .bur] d (Dev.coreMemWrite d prog c o l) := by
  unfold Dev.coreMemWrite
  refine Dev.guard_frame ?_ ?_ (by decide)
  exact Frame.refl _ _
  intro _ _
  refine Frame.next ?_ Dev.setCore_frame (by decide)
  assumption

theorem Dev.readFails_frame {d unsupported} : Frame [.pba, .pirq, .live, .out] d (Dev.readFails d unsupported) := by
  unfold Dev.readFails
  refine Frame.next ?_ Dev.emit_frame (by decide)
  refine Frame.next ?_ Dev.raise_frame (by decide)
  refine Frame.next ?_ Dev.bump_frame (by decide)
  exact Frame.refl _ _

theorem Dev.writeLost_frame {d} : Frame [.pba, .pirq, .live, .out] d (Dev.writeLost d) := by
  unfold Dev.writeLost
  refine Frame.next ?_ Dev.raise_frame (by decide)
  refine Frame.next ?_ Dev.bump_frame (by decide)
  exact Frame.refl _ _

theorem Dev.hostRead_frame {d a n ce ue}
    : Frame [.pba, .pirq, .live, .state, .errlog, .out, .plt, .acc, .mctl, .fab, .mem] d (Dev.hostRead d a n ce ue) :=
      by
  unfold Dev.hostRead
  refine Frame.ite ?_ ?_
  exact Frame.refl _ _
  refine Frame.ite ?_ ?_
  refine Frame.ite ?_ ?_
  refine Frame.next ?_ Dev.emit_frame (by decide)
  exact Frame.refl _ _
  refine Frame.next ?_ Dev.emit_frame (by decide)
  exact Frame.refl _ _
  refine Frame.ite ?_ ?_
  refine Frame.next ?_ Dev.readFails_frame (by decide)
  exact Frame.refl _ _
  split
  refine Frame.next ?_ Dev.readFails_frame (by decide)
  refine Frame.next ?_ Dev.fabAccept_frame (by decide)
  exact Frame.refl _ _
  refine Frame.ite ?_ ?_
  refine Frame.next ?_ Dev.readFails_frame (by decide)
  refine Frame.next ?_ Dev.fabAccept_frame (by decide)
  exact Frame.refl _ _
  refine Frame.ite ?_ ?_
  refine Frame.next ?_ Dev.fabWait_frame (by decide)
  refine Frame.next ?_ Dev.fabAccept_frame (by decide)
  exact Frame.refl _ _
  dsimp only
  refine Frame.next ?_ Dev.emit_frame (by decide)
  refine Frame.ite ?_ ?_
  refine Frame.next ?_ Dev.fabErr_frame (by decide)
  refine Frame.next ?_ Dev.bump_frame (by decide)
  refine Frame.next ?_ Dev.memRead_frame (by decide)
  refine Frame.next ?_ Dev.fabAccept_frame (by decide)
  exact Frame.refl _ _
  refine Frame.next ?_ Dev.memRead_frame (by decide)
  refine Frame.next ?_ Dev.fabAccept_frame (by decide)
  exact Frame.refl _ _
  refine Frame.ite ?_ ?_
  refine Frame.next ?_ Dev.readFails_frame (by decide)
  refine Frame.next ?_ Dev.fabAccept_frame (by decide)
  exact Frame.refl _ _
  refine Frame.ite ?_ ?_
  refine Frame.next ?_ Dev.fabWait_frame (by decide)
  refine Frame.next ?_ Dev.fabAccept_frame (by decide)
  exact Frame.refl _ _
  dsimp only
  refine Frame.next ?_ Dev.emit_frame (by decide)
  refine Frame.ite ?_ ?_
  refine Frame.next ?_ Dev.fabErr_frame (by decide)
  refine Frame.next ?_ Dev.bump_frame (by decide)
  refine Frame.next ?_ Dev.memRead_frame (by decide)
  refine Frame.next ?_ Dev.fabAccept_frame (by decide)
  exact Frame.refl _ _
  refine Frame.next ?_ Dev.memRead_frame (by decide)
  refine Frame.next ?_ Dev.fabAccept_frame (by decide)
  exact Frame.refl _ _
  refine Frame.next ?_ Dev.emit_frame (by decide)
  refine Frame.next ?_ Dev.fabAccept_frame (by decide)
  exact Frame.refl _ _

theorem Dev.bmfHostWrite_frame {d shadow o l}
    : Frame [.pba, .perr, .pirq, .errlog, .out, .bmf] d (Dev.bmfHostWrite d shadow o l) := by
  unfold Dev.bmfHostWrite
  refine Frame.ite ?_ ?_
  refine Frame.next ?_ Dev.tblReject_frame (by decide)
  refine Frame.upd_bmf ?_ (by decide)
  exact Frame.refl _ _
  refine Frame.next ?_ Dev.bmfTableWrite_frame (by decide)
  exact Frame.refl _ _

theorem Dev.trgHostWrite_frame {d shadow o l}
    : Frame [.pba, .perr, .pirq, .errlog, .out, .trg] d (Dev.trgHostWrite d shadow o l) := by
  unfold Dev.trgHostWrite
  refine Frame.ite ?_ ?_
  refine Frame.next ?_ Dev.tblReject_frame (by decide)
  refine Frame.upd_trg ?_ (by decide)
  exact Frame.refl _ _
  refine Frame.next ?_ Dev.trgTableWrite_frame (by decide)
  exact Frame.refl _ _

theorem Dev.hostWrite_frame {d a l ep}
    : Frame [.pba, .perr, .pirq, .live, .state, .errlog, .out, .boot, .plt, .acc, .bmf, .trg, .bur, .mctl, .fab, .mem]
      d (Dev.hostWrite d a l ep) := by
  unfold Dev.hostWrite
  refine Frame.ite ?_ ?_
  exact Frame.refl _ _
  refine Frame.ite ?_ ?_
  refine Frame.ite ?_ ?_
  refine Frame.ite ?_ ?_
  refine Frame.next ?_ Dev.reject_frame (by decide)
  exact Frame.refl _ _
  refine Frame.ite ?_ ?_
  refine Frame.upd_boot ?_ (by decide)
  exact Frame.refl _ _
  refine Frame.upd_boot ?_ (by decide)
  exact Frame.refl _ _
  refine Frame.next ?_ Dev.emit_frame (by decide)
  exact Frame.refl _ _
  refine Frame.ite ?_ ?_
  refine Frame.next ?_ Dev.writeLost_frame (by decide)
  exact Frame.refl _ _
  split
  split
  refine Frame.next ?_ Dev.writeLost_frame (by decide)
  refine Frame.next ?_ Dev.fabAccept_frame (by decide)
  refine Frame.next ?_ Dev.bump_frame (by decide)
  exact Frame.refl _ _
  refine Frame.ite ?_ ?_
  refine Frame.next ?_ Dev.writeLost_frame (by decide)
  refine Frame.next ?_ Dev.fabAccept_frame (by decide)
  refine Frame.next ?_ Dev.bump_frame (by decide)
  exact Frame.refl _ _
  refine Frame.next ?_ Dev.writeLost_frame (by decide)
  refine Frame.next ?_ Dev.fabErr_frame (by decide)
  refine Frame.next ?_ Dev.fabAccept_frame (by decide)
  refine Frame.next ?_ Dev.bump_frame (by decide)
  exact Frame.refl _ _
  refine Frame.next ?_ Dev.writeLost_frame (by decide)
  refine Frame.next ?_ Dev.fabErr_frame (by decide)
  refine Frame.next ?_ Dev.fabAccept_frame (by decide)
  refine Frame.next ?_ Dev.bump_frame (by decide)
  exact Frame.refl _ _
  refine Frame.next ?_ Dev.writeLost_frame (by decide)
  refine Frame.next ?_ Dev.fabErr_frame (by decide)
  refine Frame.next ?_ Dev.fabAccept_frame (by decide)
  refine Frame.next ?_ Dev.bump_frame (by decide)
  exact Frame.refl _ _
  refine Frame.next ?_ Dev.writeLost_frame (by decide)
  refine Frame.next ?_ Dev.fabErr_frame (by decide)
  refine Frame.next ?_ Dev.fabAccept_frame (by decide)
  refine Frame.next ?_ Dev.bump_frame (by decide)
  exact Frame.refl _ _
  refine Frame.next ?_ Dev.writeLost_frame (by decide)
  refine Frame.next ?_ Dev.fabErr_frame (by decide)
  refine Frame.next ?_ Dev.fabAccept_frame (by decide)
  refine Frame.next ?_ Dev.bump_frame (by decide)
  exact Frame.refl _ _
  refine Frame.next ?_ Dev.writeLost_frame (by decide)
  refine Frame.next ?_ Dev.fabErr_frame (by decide)
  refine Frame.next ?_ Dev.fabAccept_frame (by decide)
  refine Frame.next ?_ Dev.bump_frame (by decide)
  exact Frame.refl _ _
  refine Frame.next ?_ Dev.writeLost_frame (by decide)
  refine Frame.next ?_ Dev.fabAccept_frame (by decide)
  refine Frame.next ?_ Dev.bump_frame (by decide)
  exact Frame.refl _ _
  split
  refine Frame.next ?_ Dev.writeLost_frame (by decide)
  refine Frame.next ?_ Dev.fabAccept_frame (by decide)
  exact Frame.refl _ _
  refine Frame.ite ?_ ?_
  refine Frame.next ?_ Dev.writeLost_frame (by decide)
  refine Frame.next ?_ Dev.fabAccept_frame (by decide)
  exact Frame.refl _ _
  split
  refine Frame.next ?_ Dev.reject_frame (by decide)
  refine Frame.next ?_ Dev.writeLost_frame (by decide)
  refine Frame.next ?_ Dev.fabErr_frame (by decide)
  refine Frame.next ?_ Dev.fabAccept_frame (by decide)
  exact Frame.refl _ _
  refine Frame.ite ?_ ?_
  refine Frame.next ?_ Dev.fabWait_frame (by decide)
  refine Frame.next ?_ Dev.fabAccept_frame (by decide)
  exact Frame.refl _ _
  refine Frame.next ?_ Dev.injectAt_frame (by decide)
  refine Frame.next ?_ Dev.memWrite_frame (by decide)
  refine Frame.next ?_ Dev.fabAccept_frame (by decide)
  exact Frame.refl _ _
  refine Frame.ite ?_ ?_
  refine Frame.next ?_ Dev.fabWait_frame (by decide)
  refine Frame.next ?_ Dev.fabAccept_frame (by decide)
  exact Frame.refl _ _
  refine Frame.next ?_ Dev.slotWrite_frame (by decide)
  refine Frame.next ?_ Dev.fabAccept_frame (by decide)
  exact Frame.refl _ _
  refine Frame.next ?_ Dev.bmfHostWrite_frame (by decide)
  refine Frame.next ?_ Dev.fabAccept_frame (by decide)
  exact Frame.refl _ _
  refine Frame.next ?_ Dev.trgHostWrite_frame (by decide)
  refine Frame.next ?_ Dev.fabAccept_frame (by decide)
  exact Frame.refl _ _
  refine Frame.next ?_ Dev.coreMemWrite_frame (by decide)
  refine Frame.next ?_ Dev.fabAccept_frame (by decide)
  exact Frame.refl _ _
  refine Frame.next ?_ Dev.coreMemWrite_frame (by decide)
  refine Frame.next ?_ Dev.fabAccept_frame (by decide)
  exact Frame.refl _ _
  refine Frame.next ?_ Dev.writeLost_frame (by decide)
  refine Frame.next ?_ Dev.fabAccept_frame (by decide)
  exact Frame.refl _ _

theorem Dev.atomic_frame {d a w f3}
    : Frame [.pba, .perr, .pirq, .live, .state, .errlog, .out, .plt, .acc, .mctl, .fab, .mem] d (Dev.atomic d a w f3) := by
  unfold Dev.atomic
  extract_lets d1 tgt l ue d2
  have e1 : Frame [.pba, .perr, .pirq, .live, .state, .errlog, .out, .plt, .acc, .mctl, .fab, .mem] d d1 :=
    Frame.next (Frame.refl _ _) Dev.fabAccept_frame (by decide)
  have e2 : Frame [.pba, .perr, .pirq, .live, .state, .errlog, .out, .plt, .acc, .mctl, .fab, .mem] d d2 :=
    Frame.next e1 Dev.memWrite_frame (by decide)
  refine Frame.ite (Frame.next e1 Dev.fabErr_frame (by decide)) ?_
  split
  · exact Frame.next (Frame.next e1 Dev.fabErr_frame (by decide)) Dev.reject_frame (by decide)
  · refine Frame.ite (Frame.next e1 Dev.fabWait_frame (by decide)) ?_
    exact Frame.ite (Frame.next e2 Dev.fabErr_frame (by decide))
      (Frame.next (Frame.next e2 Dev.bump_frame (by decide)) Dev.emit_frame (by decide))

theorem Dev.atomicAdd_frame {d a wide v}
    : Frame [.pba, .perr, .pirq, .live, .state, .errlog, .out, .plt, .acc, .mctl, .fab, .mem] d
      (Dev.atomicAdd d a wide v) := by
  unfold Dev.atomicAdd
  refine Frame.next ?_ Dev.atomic_frame (by decide)
  exact Frame.refl _ _

theorem Dev.atomicSwap_frame {d a wide v}
    : Frame [.pba, .perr, .pirq, .live, .state, .errlog, .out, .plt, .acc, .mctl, .fab, .mem] d
      (Dev.atomicSwap d a wide v) := by
  unfold Dev.atomicSwap
  refine Frame.next ?_ Dev.atomic_frame (by decide)
  exact Frame.refl _ _

theorem Dev.fabRetired_frame {d master} : Frame [.live, .fab] d (Dev.fabRetired d master) := by
  unfold Dev.fabRetired
  refine Frame.ite ?_ (Frame.upd_fab (Frame.refl _ _) (by decide))
  have e1 : Frame [.live, .fab] d (d.bump pgFAB 0x118) := Frame.next (Frame.refl _ _) Dev.bump_frame (by decide)
  exact Frame.ite e1 (Frame.upd_fab e1 (by decide))

theorem Dev.fabTimeout_frame {d master} : Frame [.pba, .pirq, .live, .out, .fab] d (Dev.fabTimeout d master).2 := by
  unfold Dev.fabTimeout
  split
  exact Frame.refl _ _
  extract_lets f1 d1 d2
  have e1 : Frame [.pba, .pirq, .live, .out, .fab] d d1 :=
    Frame.next (Frame.upd_fab (Frame.refl _ _) (by decide)) Dev.fabErr_frame (by decide)
  have e2 : Frame [.pba, .pirq, .live, .out, .fab] d d2 := Frame.next e1 Dev.fabRetired_frame (by decide)
  exact Frame.ite e2 (Frame.ite (Frame.next e2 Dev.writeLost_frame (by decide)) (Frame.next e2 Dev.readFails_frame (by decide)))

theorem Dev.lateResponse_frame {d} : Frame [.live, .fab] d (Dev.lateResponse d) := by
  unfold Dev.lateResponse
  refine Frame.ite ?_ ?_
  exact Frame.refl _ _
  refine Frame.next ?_ Dev.bump_frame (by decide)
  refine Frame.upd_fab ?_ (by decide)
  exact Frame.refl _ _

theorem Dev.portReset_frame {d master} : Frame [.fab] d (Dev.portReset d master) := by
  unfold Dev.portReset
  refine Frame.ite ?_ ?_
  refine Frame.upd_fab ?_ (by decide)
  exact Frame.refl _ _
  exact Frame.refl _ _

theorem Dev.drainTimeout_frame {d master} : Frame [.pba, .pirq, .live, .out, .fab] d (Dev.drainTimeout d master) := by
  unfold Dev.drainTimeout
  split
  refine Frame.ite ?_ ?_
  refine Frame.next ?_ Dev.raise_frame (by decide)
  refine Frame.next ?_ Dev.bump_frame (by decide)
  refine Frame.upd_fab ?_ (by decide)
  exact Frame.refl _ _
  exact Frame.refl _ _
  exact Frame.refl _ _

theorem Dev.prioWrite_frame {d v} : Frame [.pba, .perr, .pirq, .errlog, .out, .fab] d (Dev.prioWrite d v) := by
  unfold Dev.prioWrite
  refine Dev.guard_frame ?_ ?_ (by decide)
  exact Frame.refl _ _
  intro _ _
  refine Frame.upd_fab ?_ (by decide)
  assumption

/-! ### Msp -/

theorem Dev.setMport_frame {d n p} : Frame [.msp] d (Dev.setMport d n p) := by
  unfold Dev.setMport
  refine Frame.upd_msp ?_ (by decide)
  exact Frame.refl _ _

theorem Dev.mspClose_frame {d n flags} : Frame [.pba, .pirq, .live, .out, .msp, .mem] d (Dev.mspClose d n flags) := by
  unfold Dev.mspClose
  refine Frame.ite ?_ ?_
  refine Frame.next ?_ Dev.setMport_frame (by decide)
  exact Frame.refl _ _
  refine Frame.ite ?_ ?_
  refine Frame.next ?_ Dev.raise_frame (by decide)
  refine Frame.next ?_ Dev.bump_frame (by decide)
  refine Frame.next ?_ Dev.raise_frame (by decide)
  refine Frame.next ?_ Dev.bump_frame (by decide)
  refine Frame.next ?_ Dev.setMport_frame (by decide)
  refine Frame.ite ?_ ?_
  refine Frame.foldl ?_ ?_
  exact Frame.refl _ _
  intro _ _ _
  refine Frame.next ?_ Dev.putBytes_frame (by decide)
  assumption
  exact Frame.refl _ _
  refine Frame.next ?_ Dev.raise_frame (by decide)
  refine Frame.next ?_ Dev.bump_frame (by decide)
  refine Frame.next ?_ Dev.setMport_frame (by decide)
  refine Frame.ite ?_ ?_
  refine Frame.foldl ?_ ?_
  exact Frame.refl _ _
  intro _ _ _
  refine Frame.next ?_ Dev.putBytes_frame (by decide)
  assumption
  exact Frame.refl _ _

theorem Dev.mspAdopt_frame {d n} : Frame [.pba, .hdr, .pirq, .live, .out, .msp, .mem] d (Dev.mspAdopt d n) := by
  unfold Dev.mspAdopt
  (dsimp only; split)
  exact Frame.refl _ _
  refine Frame.ite ?_ ?_
  refine Frame.modPage ?_ (.inr (by decide)) (.inl fun _ => rfl) (.inl fun _ => ⟨rfl, rfl⟩)
  refine Frame.next ?_ Dev.setMport_frame (by decide)
  refine Frame.next ?_ Dev.mspClose_frame (by decide)
  exact Frame.refl _ _
  refine Frame.next ?_ Dev.setMport_frame (by decide)
  refine Frame.next ?_ Dev.mspClose_frame (by decide)
  exact Frame.refl _ _

theorem Dev.mspFrameEnd_frame {d n ws} : Frame [.live, .msp] d (Dev.mspFrameEnd d n ws) := by
  unfold Dev.mspFrameEnd
  refine Frame.ite ?_ ?_
  exact Frame.refl _ _
  refine Frame.next ?_ Dev.bump_frame (by decide)
  refine Frame.next ?_ Dev.setMport_frame (by decide)
  exact Frame.refl _ _

theorem Dev.mspFrameStart_frame {d n ws}
    : Frame [.pba, .hdr, .pirq, .live, .out, .msp, .mem] d (Dev.mspFrameStart d n ws) := by
  unfold Dev.mspFrameStart
  refine Frame.ite (Frame.refl _ _) ?_
  extract_lets d1 p0 d2 d3 d4 p1 p2 d5 m
  have e1 : Frame [.pba, .hdr, .pirq, .live, .out, .msp, .mem] d d1 :=
    Frame.ite (Frame.next (Frame.refl _ _) Dev.mspFrameEnd_frame (by decide)) (Frame.refl _ _)
  have e2 : Frame [.pba, .hdr, .pirq, .live, .out, .msp, .mem] d d2 := Frame.next e1 Dev.setMport_frame (by decide)
  have e3 : Frame [.pba, .hdr, .pirq, .live, .out, .msp, .mem] d d3 :=
    Frame.ite (Frame.next e2 Dev.mspClose_frame (by decide)) e2
  have e4 : Frame [.pba, .hdr, .pirq, .live, .out, .msp, .mem] d d4 := Frame.next e3 Dev.mspAdopt_frame (by decide)
  have e5 : Frame [.pba, .hdr, .pirq, .live, .out, .msp, .mem] d d5 := Frame.next e4 Dev.setMport_frame (by decide)
  exact Frame.ite e5 (Frame.foldl e5 fun _ _ h => Frame.next h Dev.emit_frame (by decide))

theorem Dev.mspClkloss_frame {d n} : Frame [.pba, .hdr, .pirq, .live, .out, .msp, .mem] d (Dev.mspClkloss d n) := by
  unfold Dev.mspClkloss
  refine Frame.ite ?_ ?_
  exact Frame.refl _ _
  refine Frame.next ?_ Dev.raise_frame (by decide)
  refine Frame.next ?_ Dev.bump_frame (by decide)
  refine Frame.next ?_ Dev.mspAdopt_frame (by decide)
  refine Frame.next ?_ Dev.setMport_frame (by decide)
  refine Frame.next ?_ Dev.mspClose_frame (by decide)
  exact Frame.refl _ _

theorem Dev.mspShed_frame {d} : Frame [.pba, .hdr, .pirq, .live, .out, .msp, .mem] d (Dev.mspShed d) := by
  unfold Dev.mspShed
  refine Frame.foldl ?_ ?_
  exact Frame.refl _ _
  intro _ _ _
  refine Frame.ite ?_ ?_
  refine Frame.next ?_ Dev.setMport_frame (by decide)
  refine Frame.next ?_ Dev.mspClose_frame (by decide)
  assumption
  assumption

theorem Dev.mspResume_frame {d} : Frame [.msp] d (Dev.mspResume d) := by
  unfold Dev.mspResume
  refine Frame.foldl ?_ ?_
  exact Frame.refl _ _
  intro _ _ _
  refine Frame.ite ?_ ?_
  refine Frame.next ?_ Dev.setMport_frame (by decide)
  assumption
  assumption

theorem Dev.mspRegWrite_frame {d n r v}
    : Frame [.pba, .hdr, .perr, .pirq, .live, .errlog, .out, .msp, .mem] d (Dev.mspRegWrite d n r v) := by
  unfold Dev.mspRegWrite
  refine Dev.guard_frame ?_ ?_ (by decide)
  exact Frame.refl _ _
  intro _ _
  split
  refine Frame.ite ?_ ?_
  refine Frame.next ?_ Dev.setMport_frame (by decide)
  assumption
  refine Frame.ite ?_ ?_
  refine Frame.next ?_ Dev.mspAdopt_frame (by decide)
  refine Frame.next ?_ Dev.setMport_frame (by decide)
  refine Frame.next ?_ Dev.mspClose_frame (by decide)
  assumption
  refine Frame.next ?_ Dev.setMport_frame (by decide)
  assumption
  refine Frame.next ?_ Dev.setMport_frame (by decide)
  assumption
  refine Frame.next ?_ Dev.setMport_frame (by decide)
  assumption
  refine Frame.next ?_ Dev.setMport_frame (by decide)
  assumption
  refine Frame.next ?_ Dev.setMport_frame (by decide)
  assumption
  refine Frame.next ?_ Dev.setMport_frame (by decide)
  assumption

theorem Dev.monwordWrite_frame {d w v}
    : Frame [.pba, .perr, .pirq, .errlog, .out, .monword] d (Dev.monwordWrite d w v) := by
  unfold Dev.monwordWrite
  refine Dev.guard_frame ?_ ?_ (by decide)
  exact Frame.refl _ _
  intro _ _
  refine Frame.upd_monword ?_ (by decide)
  assumption

theorem Dev.mspShadowWrite_frame {d n o v}
    : Frame [.pba, .perr, .pirq, .errlog, .out, .mspSh] d (Dev.mspShadowWrite d n o v) := by
  unfold Dev.mspShadowWrite
  refine Dev.guard_frame ?_ ?_ (by decide)
  exact Frame.refl _ _
  intro _ _
  refine Frame.upd_mspSh ?_ (by decide)
  assumption

theorem Dev.mspCommit_frame {d} : Frame [.pba, .hdr, .pirq, .live, .out, .msp, .mem] d (Dev.mspCommit d) := by
  unfold Dev.mspCommit
  refine Frame.foldl ?_ ?_
  exact Frame.refl _ _
  intro _ _ _
  refine Frame.ite ?_ ?_
  refine Frame.next ?_ Dev.setMport_frame (by decide)
  assumption
  refine Frame.next ?_ Dev.mspAdopt_frame (by decide)
  refine Frame.next ?_ Dev.setMport_frame (by decide)
  assumption

/-! ### BurQ -/

theorem Dev.burCnt_frame {d c off n} : Frame [.live] d (Dev.burCnt d c off n) := by
  unfold Dev.burCnt
  refine Frame.next ?_ Dev.bump_frame (by decide)
  exact Frame.refl _ _

theorem Dev.tapDrop_frame {d c t} : Frame [.pba, .pirq, .live, .out, .bur] d (Dev.tapDrop d c t) := by
  unfold Dev.tapDrop
  refine Frame.next ?_ Dev.raise_frame (by decide)
  refine Frame.next ?_ Dev.burCnt_frame (by decide)
  refine Frame.next ?_ Dev.setCore_frame (by decide)
  exact Frame.refl _ _

theorem Dev.burPost_frame {d c e2 rec_} : Frame [.pba, .pirq, .live, .out, .bur] d (Dev.burPost d c e2 rec_) := by
  unfold Dev.burPost
  refine Frame.ite ?_ ?_
  refine Frame.next ?_ Dev.burCnt_frame (by decide)
  exact Frame.refl _ _
  refine Frame.ite ?_ ?_
  exact Frame.refl _ _
  refine Frame.ite ?_ ?_
  refine Frame.ite ?_ ?_
  exact Frame.refl _ _
  refine Frame.ite ?_ ?_
  refine Frame.upd_bur ?_ (by decide)
  exact Frame.refl _ _
  refine Frame.next ?_ Dev.tapDrop_frame (by decide)
  exact Frame.refl _ _
  split
  exact Frame.refl _ _
  refine Frame.ite ?_ ?_
  exact Frame.refl _ _
  refine Frame.ite ?_ ?_
  refine Frame.next ?_ Dev.tapDrop_frame (by decide)
  exact Frame.refl _ _
  refine Frame.next ?_ Dev.setCore_frame (by decide)
  exact Frame.refl _ _

theorem Dev.burEvent_frame {d kind stamp group flags recFor}
    : Frame [.pba, .pirq, .live, .out, .bur] d (Dev.burEvent d kind stamp group flags recFor) := by
  unfold Dev.burEvent
  refine Frame.foldl ?_ ?_
  exact Frame.refl _ _
  intro _ _ _
  refine Frame.foldl ?_ ?_
  assumption
  intro _ _ _
  refine Frame.ite ?_ ?_
  assumption
  split
  assumption
  refine Frame.ite ?_ ?_
  refine Frame.ite ?_ ?_
  refine Frame.upd_bur ?_ (by decide)
  assumption
  refine Frame.next ?_ Dev.tapDrop_frame (by decide)
  assumption
  refine Frame.next ?_ Dev.burPost_frame (by decide)
  assumption

theorem Dev.burFspow_frame {d g f2 ms inv} : Frame [.pba, .pirq, .live, .out, .bur] d (Dev.burFspow d g f2 ms inv) := by
  unfold Dev.burFspow
  refine Frame.ite ?_ ?_
  exact Frame.refl _ _
  refine Frame.next ?_ Dev.burEvent_frame (by decide)
  exact Frame.refl _ _

theorem Dev.burTrgy_frame {d s inv} : Frame [.pba, .pirq, .live, .out, .bur] d (Dev.burTrgy d s inv) := by
  unfold Dev.burTrgy
  refine Frame.ite ?_ ?_
  exact Frame.refl _ _
  refine Frame.next ?_ Dev.burEvent_frame (by decide)
  exact Frame.refl _ _

theorem Dev.burSheet_frame {d s} : Frame [.pba, .pirq, .live, .out, .trg, .bur, .mem] d (Dev.burSheet d s) := by
  unfold Dev.burSheet
  refine Frame.ite ?_ ?_
  refine Frame.upd_trg ?_ (by decide)
  refine Frame.ite ?_ ?_
  refine Frame.foldl ?_ ?_
  exact Frame.refl _ _
  intro _ _ _
  refine Frame.foldl ?_ ?_
  assumption
  intro _ _ _
  refine Frame.next ?_ Dev.putBytes_frame (by decide)
  assumption
  exact Frame.refl _ _
  refine Frame.next ?_ Dev.burEvent_frame (by decide)
  refine Frame.next ?_ Dev.burEvent_frame (by decide)
  refine Frame.upd_trg ?_ (by decide)
  refine Frame.ite ?_ ?_
  refine Frame.foldl ?_ ?_
  exact Frame.refl _ _
  intro _ _ _
  refine Frame.foldl ?_ ?_
  assumption
  intro _ _ _
  refine Frame.next ?_ Dev.putBytes_frame (by decide)
  assumption
  exact Frame.refl _ _

theorem Dev.burLatch_frame {d stamp} : Frame [.pba, .pirq, .live, .out, .bur] d (Dev.burLatch d stamp) := by
  unfold Dev.burLatch
  refine Frame.ite ?_ ?_
  exact Frame.refl _ _
  refine Frame.next ?_ Dev.burEvent_frame (by decide)
  exact Frame.refl _ _

theorem Dev.burCycles_frame {d} : Frame [.pba, .pirq, .live, .out, .bur] d (Dev.burCycles d) := by
  unfold Dev.burCycles
  refine Frame.foldl ?_ ?_
  exact Frame.refl _ _
  intro _ _ _
  refine Frame.ite ?_ ?_
  refine Frame.next ?_ Dev.raise_frame (by decide)
  refine Frame.next ?_ Dev.burCnt_frame (by decide)
  refine Frame.next ?_ Dev.setCore_frame (by decide)
  assumption
  refine Frame.next ?_ Dev.setCore_frame (by decide)
  assumption

theorem Dev.burCommit_frame {d k b} : Frame [.pba, .pirq, .live, .out, .bur] d (Dev.burCommit d k b) := by
  unfold Dev.burCommit
  refine Frame.foldl ?_ ?_
  refine Frame.upd_bur ?_ (by decide)
  exact Frame.refl _ _
  intro _ _ _
  refine Frame.foldl ?_ ?_
  assumption
  intro _ _ _
  refine Frame.ite ?_ ?_
  refine Frame.next ?_ Dev.burPost_frame (by decide)
  refine Frame.next ?_ Dev.setCore_frame (by decide)
  assumption
  refine Frame.next ?_ Dev.setCore_frame (by decide)
  assumption

theorem Dev.burAssign_frame {d r} : Frame [.bur] d (Dev.burAssign d r) := by
  unfold Dev.burAssign
  refine Frame.foldl ?_ ?_
  exact Frame.refl _ _
  intro _ _ _
  split
  refine Frame.ite ?_ ?_
  assumption
  refine Frame.next ?_ Dev.setCore_frame (by decide)
  assumption
  refine Frame.next ?_ Dev.setCore_frame (by decide)
  assumption

theorem Dev.burStart_frame {d} : Frame [.bur] d (Dev.burStart d) := by
  unfold Dev.burStart
  refine Frame.next ?_ Dev.burAssign_frame (by decide)
  refine Frame.upd_bur ?_ (by decide)
  exact Frame.refl _ _

theorem Dev.burTakeover_frame {d} : Frame [.bur] d (Dev.burTakeover d) := by
  unfold Dev.burTakeover
  refine Frame.next ?_ Dev.burAssign_frame (by decide)
  exact Frame.refl _ _

theorem Dev.burStartEvents_frame {d c stamp since resume}
    : Frame [.pba, .pirq, .live, .out, .bur] d (Dev.burStartEvents d c stamp since resume) := by
  unfold Dev.burStartEvents
  refine Frame.foldl ?_ ?_
  refine Frame.next ?_ Dev.setCore_frame (by decide)
  exact Frame.refl _ _
  intro _ _ _
  refine Frame.next ?_ Dev.burPost_frame (by decide)
  assumption

theorem Dev.burReloadDone_frame {d} : Frame [.pba, .pirq, .live, .out, .bur] d (Dev.burReloadDone d) := by
  unfold Dev.burReloadDone
  dsimp only
  refine Frame.ite ?_ ?_
  exact Frame.refl _ _
  refine Frame.foldl ?_ ?_
  refine Frame.foldl ?_ ?_
  refine Frame.upd_bur ?_ (by decide)
  exact Frame.refl _ _
  intro _ _ _
  refine Frame.ite ?_ ?_
  refine Frame.next ?_ Dev.setCore_frame (by decide)
  refine Frame.next ?_ Dev.burStartEvents_frame (by decide)
  refine Frame.next ?_ Dev.setCore_frame (by decide)
  assumption
  refine Frame.next ?_ Dev.burStartEvents_frame (by decide)
  refine Frame.next ?_ Dev.setCore_frame (by decide)
  assumption
  intro _ _ _
  refine Frame.ite ?_ ?_
  refine Frame.next ?_ Dev.burPost_frame (by decide)
  assumption
  assumption

theorem Dev.burShedCore_frame {d c} : Frame [.live, .bur] d (Dev.burShedCore d c) := by
  unfold Dev.burShedCore
  refine Frame.ite ?_ ?_
  exact Frame.refl _ _
  refine Frame.ite ?_ ?_
  refine Frame.next ?_ Dev.setCore_frame (by decide)
  exact Frame.refl _ _
  refine Frame.ite ?_ ?_
  refine Frame.next ?_ Dev.setCore_frame (by decide)
  exact Frame.refl _ _
  refine Frame.next ?_ Dev.setCore_frame (by decide)
  refine Frame.next ?_ Dev.burCnt_frame (by decide)
  exact Frame.refl _ _

theorem Dev.burShed_frame {d all} : Frame [.live, .bur] d (Dev.burShed d all) := by
  unfold Dev.burShed
  refine Frame.foldl ?_ ?_
  exact Frame.refl _ _
  intro _ _ _
  refine Frame.ite ?_ ?_
  refine Frame.next ?_ Dev.burShedCore_frame (by decide)
  assumption
  assumption

theorem Dev.burLose_frame {d} : Frame [.bur, .free] d (Dev.burLose d) := by
  unfold Dev.burLose
  refine Frame.foldl ?_ ?_
  exact Frame.refl _ _
  intro _ _ _
  refine Frame.upd_free ?_ (by decide)
  refine Frame.next ?_ Dev.setCore_frame (by decide)
  assumption

theorem Dev.burRecover_frame {d b} : Frame [.bur] d (Dev.burRecover d b) := by
  unfold Dev.burRecover
  refine Frame.foldl ?_ ?_
  exact Frame.refl _ _
  intro _ _ _
  refine Frame.ite ?_ ?_
  refine Frame.next ?_ Dev.setCore_frame (by decide)
  assumption
  assumption

theorem Dev.burResume_frame {d c} : Frame [.pba, .pirq, .live, .out, .bur] d (Dev.burResume d c) := by
  unfold Dev.burResume
  (dsimp only; split)
  exact Frame.refl _ _
  refine Frame.ite ?_ ?_
  exact Frame.refl _ _
  refine Frame.ite ?_ ?_
  refine Frame.next ?_ Dev.setCore_frame (by decide)
  exact Frame.refl _ _
  refine Frame.next ?_ Dev.burStartEvents_frame (by decide)
  refine Frame.next ?_ Dev.setCore_frame (by decide)
  exact Frame.refl _ _

theorem Dev.burCreset_frame {d c} : Frame [.bur] d (Dev.burCreset d c) := by
  unfold Dev.burCreset
  refine Frame.ite ?_ ?_
  exact Frame.refl _ _
  refine Frame.next ?_ Dev.setCore_frame (by decide)
  exact Frame.refl _ _

theorem Dev.burFault_frame {d c code} : Frame [.pba, .pirq, .live, .out, .bur] d (Dev.burFault d c code) := by
  unfold Dev.burFault
  refine Frame.next ?_ Dev.raise_frame (by decide)
  refine Frame.next ?_ Dev.burCnt_frame (by decide)
  refine Frame.next ?_ Dev.setCore_frame (by decide)
  exact Frame.refl _ _

/-! ### Commit -/

theorem Dev.refillChanged_frame {d same} : Frame [.ing] d (Dev.refillChanged d same) := by
  unfold Dev.refillChanged
  refine Frame.foldl ?_ ?_
  exact Frame.refl _ _
  intro _ _ _
  refine Frame.ite ?_ ?_
  assumption
  refine Frame.next ?_ Dev.fillBucket_frame (by decide)
  assumption

theorem Dev.ingSwap_frame {d new b now} : Frame [.ing] d (Dev.ingSwap d new b now) := by
  unfold Dev.ingSwap
  refine Frame.next ?_ Dev.refillChanged_frame (by decide)
  refine Frame.upd_ing ?_ (by decide)
  exact Frame.refl _ _

theorem Dev.lanesSwap_frame {d ls word b now}
    : Frame [.pba, .act, .pirq, .live, .out, .time, .lnb, .ing] d (Dev.lanesSwap d ls word b now) := by
  unfold Dev.lanesSwap
  refine Frame.foldl ?_ ?_
  refine Frame.foldl ?_ ?_
  exact Frame.refl _ _
  intro _ _ _
  refine Frame.next ?_ Dev.setRole_frame (by decide)
  assumption
  intro _ _ _
  refine Frame.ite ?_ ?_
  refine Frame.next ?_ Dev.fillBucket_frame (by decide)
  assumption
  assumption

theorem Dev.swap_frame {d p b now}
    : Frame [.pba, .act, .hdr, .pirq, .live, .out, .time, .msp, .lnb, .ing, .bmf, .trg, .bur, .mem] d (Dev.swap d p b
      now) := by
  unfold Dev.swap
  refine Frame.ite ?_ ?_
  refine Frame.next ?_ Dev.ingSwap_frame (by decide)
  exact Frame.refl _ _
  refine Frame.ite ?_ ?_
  refine Frame.next ?_ Dev.lanesSwap_frame (by decide)
  exact Frame.refl _ _
  refine Frame.ite ?_ ?_
  refine Frame.setAct ?_ (by decide)
  refine Frame.next ?_ Dev.bmfCommit_frame (by decide)
  refine Frame.setAct ?_ (by decide)
  exact Frame.refl _ _
  refine Frame.ite ?_ ?_
  refine Frame.next ?_ Dev.trgCommit_frame (by decide)
  exact Frame.refl _ _
  refine Frame.ite ?_ ?_
  refine Frame.next ?_ Dev.burCommit_frame (by decide)
  exact Frame.refl _ _
  refine Frame.ite ?_ ?_
  refine Frame.next ?_ Dev.mspCommit_frame (by decide)
  exact Frame.refl _ _
  exact Frame.refl _ _

theorem Dev.listCommit_frame {d p cancelled k} : Frame [.acc] d (Dev.listCommit d p cancelled k) := by
  unfold Dev.listCommit
  refine Frame.upd_acc ?_ (by decide)
  exact Frame.refl _ _

theorem Dev.copyShadow_frame {d p} : Frame [.regs, .pba, .run, .ing] d (Dev.copyShadow d p) := by
  unfold Dev.copyShadow
  refine Frame.ite ?_ ?_
  refine Frame.upd_ing ?_ (by decide)
  refine Frame.upd_run ?_ (by decide)
  exact Frame.refl _ _
  refine Frame.ite ?_ ?_
  refine Frame.foldl ?_ ?_
  refine Frame.upd_run ?_ (by decide)
  exact Frame.refl _ _
  intro _ _ _
  refine Frame.setReg ?_ (by decide) (.inr (by decide))
  assumption
  refine Frame.upd_run ?_ (by decide)
  exact Frame.refl _ _

theorem Dev.unlock_frame {d p} : Frame [.regs, .pba, .hdr, .pirq, .out, .lnb, .run, .ing, .bmf] d (Dev.unlock d p) := by
  unfold Dev.unlock
  extract_lets g d1 i1 d2 d3 d4
  have e1 : Frame [.regs, .pba, .hdr, .pirq, .out, .lnb, .run, .ing, .bmf] d d1 := by
    refine Frame.ite ?_ ?_
    exact Frame.next (Frame.refl _ _) Dev.copyShadow_frame (by decide)
    exact Frame.refl _ _
  have e2 : Frame [.regs, .pba, .hdr, .pirq, .out, .lnb, .run, .ing, .bmf] d d2 :=
    Frame.ite (Frame.upd_ing e1 (by decide)) e1
  have e3 : Frame [.regs, .pba, .hdr, .pirq, .out, .lnb, .run, .ing, .bmf] d d3 :=
    Frame.ite (Frame.foldl e2 fun _ _ h => Frame.upd_lnb h (by decide)) e2
  have e4 : Frame [.regs, .pba, .hdr, .pirq, .out, .lnb, .run, .ing, .bmf] d d4 :=
    Frame.modPage e3 (.inr (by decide)) (.inl fun _ => rfl) (.inl fun _ => ⟨rfl, rfl⟩)
  exact Frame.ite (Frame.ite (Frame.next e4 Dev.rampEnd_frame (by decide)) e4) (Frame.refl _ _)

theorem Dev.cancelTicket_frame {d p c} : Frame [.hdr, .perr, .acc] d (Dev.cancelTicket d p c) := by
  unfold Dev.cancelTicket
  split
  exact Frame.refl _ _
  refine Frame.next ?_ Dev.listCommit_frame (by decide)
  refine Frame.next ?_ Dev.perr_frame (by decide)
  refine Frame.modPage ?_ (.inr (by decide)) (.inl fun _ => rfl) (.inl fun _ => ⟨rfl, rfl⟩)
  exact Frame.refl _ _

theorem Dev.applyTicket_frame {d p k}
    : Frame [.regs, .pba, .act, .hdr, .pirq, .live, .out, .time, .msp, .lnb, .run, .ing, .acc, .bmf, .trg, .bur, .mem]
      d (Dev.applyTicket d p k) := by
  unfold Dev.applyTicket
  refine Frame.next ?_ Dev.unlock_frame (by decide)
  refine Frame.next ?_ Dev.listCommit_frame (by decide)
  refine Frame.next ?_ Dev.swap_frame (by decide)
  refine Frame.modPage ?_ (.inr (by decide)) (.inl fun _ => rfl) (.inl fun _ => ⟨rfl, rfl⟩)
  exact Frame.refl _ _

theorem Dev.commitApply_frame {d p}
    : Frame [.regs, .pba, .act, .hdr, .perr, .pirq, .live, .out, .time, .msp, .lnb, .run, .ing, .acc, .bmf, .trg,
      .bur, .mem] d (Dev.commitApply d p) := by
  unfold Dev.commitApply
  split
  exact Frame.refl _ _
  refine Frame.ite ?_ ?_
  exact Frame.refl _ _
  refine Frame.ite ?_ ?_
  refine Frame.next ?_ Dev.cancelTicket_frame (by decide)
  exact Frame.refl _ _
  refine Frame.next ?_ Dev.applyTicket_frame (by decide)
  exact Frame.refl _ _

theorem Dev.armTicket_frame {d p k}
    : Frame [.regs, .pba, .act, .hdr, .pirq, .live, .out, .time, .msp, .lnb, .run, .ing, .acc, .bmf, .trg, .bur, .mem]
      d (Dev.armTicket d p k) := by
  unfold Dev.armTicket
  refine Frame.ite ?_ ?_
  refine Frame.next ?_ Dev.applyTicket_frame (by decide)
  refine Frame.modPage ?_ (.inr (by decide)) (.inl fun _ => rfl) (.inl fun _ => ⟨rfl, rfl⟩)
  exact Frame.refl _ _
  refine Frame.ite ?_ ?_
  refine Frame.foldl ?_ ?_
  refine Frame.modPage ?_ (.inr (by decide)) (.inl fun _ => rfl) (.inl fun _ => ⟨rfl, rfl⟩)
  exact Frame.refl _ _
  intro _ _ _
  refine Frame.ite ?_ ?_
  refine Frame.next ?_ Dev.laneOn_frame (by decide)
  assumption
  assumption
  refine Frame.modPage ?_ (.inr (by decide)) (.inl fun _ => rfl) (.inl fun _ => ⟨rfl, rfl⟩)
  exact Frame.refl _ _

/-! ### Roles -/

theorem Dev.rolesNow_frame {d r}
    : Frame [.regs, .pba, .act, .pirq, .live, .out, .time, .lnb, .ing] d (Dev.rolesNow d r) := by
  unfold Dev.rolesNow
  refine Frame.foldl ?_ ?_
  refine Frame.next ?_ Dev.lanesSwap_frame (by decide)
  exact Frame.refl _ _
  intro _ _ _
  refine Frame.setReg ?_ (by decide) (.inr (by decide))
  assumption

theorem Dev.armAll_frame {d}
    : Frame [.regs, .pba, .act, .pirq, .live, .state, .out, .time, .lnb, .plt, .ing] d (Dev.armAll d) := by
  unfold Dev.armAll
  (dsimp only; split)
  refine Frame.next ?_ Dev.arm_frame (by decide)
  exact Frame.refl _ _
  refine Frame.ite ?_ ?_
  refine Frame.foldl ?_ ?_
  refine Frame.upd_plt_ing ?_ (by decide) (by decide)
  refine Frame.next ?_ Dev.arm_frame (by decide)
  exact Frame.refl _ _
  intro _ _ _
  refine Frame.ite ?_ ?_
  refine Frame.next ?_ Dev.laneOn_frame (by decide)
  assumption
  assumption
  refine Frame.next ?_ Dev.rolesNow_frame (by decide)
  refine Frame.upd_plt ?_ (by decide)
  refine Frame.next ?_ Dev.arm_frame (by decide)
  exact Frame.refl _ _

theorem Dev.slotCtlWrite_frame {d v}
    : Frame [.regs, .pba, .act, .perr, .pirq, .live, .state, .errlog, .out, .time, .lnb, .plt, .ing] d
      (Dev.slotCtlWrite d v) := by
  unfold Dev.slotCtlWrite
  refine Frame.ite ?_ ?_
  refine Frame.next ?_ Dev.rolesNow_frame (by decide)
  refine Frame.next ?_ Dev.disarm_frame (by decide)
  exact Frame.refl _ _
  refine Frame.next ?_ Dev.disarm_frame (by decide)
  exact Frame.refl _ _

theorem Dev.exchange_frame {d after_} : Frame [.pba, .pirq, .live, .out, .plt, .ing] d (Dev.exchange d after_) := by
  unfold Dev.exchange
  refine Frame.next ?_ Dev.raise_frame (by decide)
  refine Frame.next ?_ Dev.bump_frame (by decide)
  refine Frame.upd_plt_ing ?_ (by decide) (by decide)
  exact Frame.refl _ _

theorem Dev.tablesTakeover_frame {d old new b kb kt}
    : Frame [.regs, .act, .bmf, .trg] d (Dev.tablesTakeover d old new b kb kt) := by
  unfold Dev.tablesTakeover
  refine Frame.ite ?_ ?_
  refine Frame.next ?_ Dev.trgTakeover_frame (by decide)
  refine Frame.ite ?_ ?_
  refine Frame.ite ?_ ?_
  refine Frame.setAct ?_ (by decide)
  refine Frame.next ?_ Dev.bmfTakeover_frame (by decide)
  exact Frame.refl _ _
  refine Frame.setReg ?_ (by decide) (.inl rfl)
  refine Frame.setAct ?_ (by decide)
  refine Frame.next ?_ Dev.bmfTakeover_frame (by decide)
  exact Frame.refl _ _
  exact Frame.refl _ _
  refine Frame.ite ?_ ?_
  refine Frame.ite ?_ ?_
  refine Frame.setAct ?_ (by decide)
  refine Frame.next ?_ Dev.bmfTakeover_frame (by decide)
  exact Frame.refl _ _
  refine Frame.setReg ?_ (by decide) (.inl rfl)
  refine Frame.setAct ?_ (by decide)
  refine Frame.next ?_ Dev.bmfTakeover_frame (by decide)
  exact Frame.refl _ _
  exact Frame.refl _ _

theorem Dev.plateTakeover_frame {d}
    : Frame [.regs, .pba, .act, .hdr, .perr, .pirq, .live, .out, .time, .lnb, .plt, .run, .ing, .acc, .bmf, .trg] d
      (Dev.plateTakeover d) := by
  unfold Dev.plateTakeover
  split
  refine Frame.ite ?_ ?_
  exact Frame.refl _ _
  refine Frame.next ?_ Dev.tablesTakeover_frame (by decide)
  refine Frame.next ?_ Dev.lanesSwap_frame (by decide)
  refine Frame.next ?_ Dev.ingSwap_frame (by decide)
  refine Frame.next ?_ Dev.exchange_frame (by decide)
  refine Frame.upd_run ?_ (by decide)
  refine Frame.ite ?_ ?_
  refine Frame.next ?_ Dev.cancelTicket_frame (by decide)
  refine Frame.foldl ?_ ?_
  exact Frame.refl _ _
  intro _ _ _
  refine Frame.next ?_ Dev.cancelTicket_frame (by decide)
  assumption
  refine Frame.foldl ?_ ?_
  exact Frame.refl _ _
  intro _ _ _
  refine Frame.next ?_ Dev.cancelTicket_frame (by decide)
  assumption
  exact Frame.refl _ _

theorem Dev.startTakeover_frame {d s0}
    : Frame [.regs, .pba, .act, .pirq, .live, .out, .time, .lnb, .plt, .ing, .bmf, .trg] d (Dev.startTakeover d s0) :=
      by
  unfold Dev.startTakeover
  split
  exact Frame.refl _ _
  refine Frame.next ?_ Dev.tablesTakeover_frame (by decide)
  refine Frame.ite ?_ ?_
  refine Frame.ite ?_ ?_
  refine Frame.next ?_ Dev.ingSwap_frame (by decide)
  refine Frame.next ?_ Dev.exchange_frame (by decide)
  exact Frame.refl _ _
  refine Frame.upd_ing ?_ (by decide)
  refine Frame.next ?_ Dev.ingSwap_frame (by decide)
  refine Frame.next ?_ Dev.exchange_frame (by decide)
  exact Frame.refl _ _
  refine Frame.next ?_ Dev.rolesNow_frame (by decide)
  refine Frame.ite ?_ ?_
  refine Frame.next ?_ Dev.ingSwap_frame (by decide)
  refine Frame.next ?_ Dev.exchange_frame (by decide)
  exact Frame.refl _ _
  refine Frame.upd_ing ?_ (by decide)
  refine Frame.next ?_ Dev.ingSwap_frame (by decide)
  refine Frame.next ?_ Dev.exchange_frame (by decide)
  exact Frame.refl _ _

theorem Dev.retireOutgoing_frame {d} : Frame [.plt, .run, .hat, .bur] d (Dev.retireOutgoing d) := by
  unfold Dev.retireOutgoing
  refine Frame.ite ?_ ?_
  exact Frame.refl _ _
  refine Frame.next ?_ Dev.burTakeover_frame (by decide)
  refine Frame.next ?_ Dev.hatTakeover_frame (by decide)
  refine Frame.upd_plt_run ?_ (by decide) (by decide)
  exact Frame.refl _ _

/-! ### Eth -/

theorem Dev.setEport_frame {d p e2} : Frame [.eth] d (Dev.setEport d p e2) := by
  unfold Dev.setEport
  refine Frame.upd_eth ?_ (by decide)
  exact Frame.refl _ _

theorem Dev.ptpQl_frame {d p} : Frame [.pba, .pirq, .live, .out, .clk, .acc] d (Dev.ptpQl d p) := by
  unfold Dev.ptpQl
  exact Frame.ite (Frame.refl _ _) (Frame.next (Frame.next (Frame.refl _ _) Dev.setRef_frame (by decide)) Dev.select_frame (by decide))

theorem Dev.ptpRx_frame {d p raw res} : Frame [.pba, .pirq, .live, .out, .time, .clk, .eth, .acc] d (Dev.ptpRx d p raw res) := by
  unfold Dev.ptpRx
  extract_lets e0 base e1 d1
  refine Frame.ite (Frame.refl _ _) ?_
  have f1 : Frame [.pba, .pirq, .live, .out, .time, .clk, .eth, .acc] d d1 :=
    Frame.next (Frame.next (Frame.refl _ _) Dev.setEport_frame (by decide)) Dev.bump_frame (by decide)
  split
  · exact Frame.next f1 Dev.bump_frame (by decide)
  · extract_lets off moved e2 d2 d3
    have f2 : Frame [.pba, .pirq, .live, .out, .time, .clk, .eth, .acc] d d2 :=
      Frame.next (Frame.next f1 Dev.setEport_frame (by decide)) Dev.ptpQl_frame (by decide)
    have f3 : Frame [.pba, .pirq, .live, .out, .time, .clk, .eth, .acc] d d3 :=
      Frame.ite (Frame.next (Frame.next f2 Dev.bump_frame (by decide)) Dev.raise_frame (by decide)) f2
    exact Frame.ite (Frame.next f3 Dev.measure_frame (by decide)) f3

theorem Dev.ptpTx_frame {d p raw l} : Frame [.live, .out, .eth] d (Dev.ptpTx d p raw l) := by
  unfold Dev.ptpTx
  refine Frame.ite ?_ ?_
  exact Frame.refl _ _
  refine Frame.next ?_ Dev.emit_frame (by decide)
  refine Frame.next ?_ Dev.bump_frame (by decide)
  refine Frame.next ?_ Dev.setEport_frame (by decide)
  exact Frame.refl _ _

theorem Dev.ethDrop_frame {d p} : Frame [.live] d (Dev.ethDrop d p) := by
  unfold Dev.ethDrop
  refine Frame.ite ?_ ?_
  refine Frame.next ?_ Dev.bump_frame (by decide)
  exact Frame.refl _ _
  exact Frame.refl _ _

theorem Dev.ethLink_frame {d p up} : Frame [.pba, .pirq, .out, .eth] d (Dev.ethLink d p up) := by
  unfold Dev.ethLink
  refine Frame.ite ?_ ?_
  exact Frame.refl _ _
  refine Frame.next ?_ Dev.raise_frame (by decide)
  refine Frame.next ?_ Dev.setEport_frame (by decide)
  exact Frame.refl _ _

theorem Dev.ethRegWrite_frame {d p r v}
    : Frame [.pba, .perr, .pirq, .errlog, .out, .eth] d (Dev.ethRegWrite d p r v) := by
  unfold Dev.ethRegWrite
  refine Dev.guard_frame ?_ ?_ (by decide)
  exact Frame.refl _ _
  intro _ _
  split
  refine Frame.ite ?_ ?_
  refine Frame.next ?_ Dev.raise_frame (by decide)
  refine Frame.next ?_ Dev.setEport_frame (by decide)
  assumption
  refine Frame.next ?_ Dev.setEport_frame (by decide)
  assumption
  refine Frame.next ?_ Dev.setEport_frame (by decide)
  assumption
  refine Frame.next ?_ Dev.setEport_frame (by decide)
  assumption
  refine Frame.next ?_ Dev.setEport_frame (by decide)
  assumption
  refine Frame.next ?_ Dev.setEport_frame (by decide)
  assumption

theorem Dev.heldStamped_frame {d i} : Frame [.pba, .pirq, .live, .out, .time, .clk, .acc] d (Dev.heldStamped d i) := by
  unfold Dev.heldStamped
  exact Frame.ite (Frame.next (Frame.refl _ _) Dev.disqualify_frame (by decide)) (Frame.refl _ _)

theorem Dev.timeRegWrite_frame {d o v}
    : Frame [.pba, .perr, .pirq, .live, .errlog, .out, .time, .clk, .acc] d (Dev.timeRegWrite d o v) := by
  unfold Dev.timeRegWrite
  split
  refine Dev.guard_frame ?_ ?_ (by decide)
  exact Frame.refl _ _
  intro _ _
  refine Frame.upd_time ?_ (.inl rfl) (.inr (by decide))
  assumption
  refine Frame.upd_time ?_ (.inl (TimeSt.loc_setBase ..)) (.inr (by decide))
  exact Frame.refl _ _
  refine Frame.upd_time ?_ (.inl (TimeSt.loc_setBase ..)) (.inr (by decide))
  exact Frame.refl _ _
  refine Dev.guard_frame ?_ ?_ (by decide)
  exact Frame.refl _ _
  intro _ _
  refine Frame.upd_time ?_ (.inl rfl) (.inr (by decide))
  assumption
  refine Dev.guard_frame ?_ ?_ (by decide)
  exact Frame.refl _ _
  intro _ _
  refine Frame.upd_time ?_ (.inl rfl) (.inr (by decide))
  assumption
  refine Dev.guard_frame ?_ ?_ (by decide)
  exact Frame.refl _ _
  intro _ _
  refine Frame.upd_time ?_ (.inl rfl) (.inr (by decide))
  assumption
  refine Dev.guard_frame ?_ ?_ (by decide)
  exact Frame.refl _ _
  intro _ _
  refine Frame.upd_time ?_ (.inl rfl) (.inr (by decide))
  assumption
  refine Dev.guard_frame ?_ ?_ (by decide)
  exact Frame.refl _ _
  intro _ _
  refine Frame.next ?_ Dev.masters_frame (by decide)
  refine Frame.foldl ?_ fun _ _ h => Frame.next h Dev.heldStamped_frame (by decide)
  refine Frame.upd_time ?_ (.inl rfl) (.inr (by decide))
  assumption
  split
  refine Frame.upd_time ?_ (.inl rfl) (.inr (by decide))
  exact Frame.refl _ _
  refine Frame.upd_time ?_ (.inl rfl) (.inr (by decide))
  exact Frame.refl _ _
  refine Frame.upd_time ?_ (.inl rfl) (.inr (by decide))
  exact Frame.refl _ _
  refine Frame.upd_time ?_ (.inl rfl) (.inr (by decide))
  exact Frame.refl _ _

/-! ### Pair -/

theorem Dev.rematch_frame {d} : Frame [.pair] d (Dev.rematch d) := by
  unfold Dev.rematch
  exact Frame.ite (Frame.upd_pair (Frame.refl _ _) (by decide)) (Frame.refl _ _)

theorem Dev.promote_frame {d} : Frame [.pba, .pirq, .out, .pair] d (Dev.promote d) := by
  unfold Dev.promote
  exact Frame.ite (Frame.next (Frame.upd_pair (Frame.refl _ _) (by decide)) Dev.raise_frame (by decide)) (Frame.refl _ _)

theorem Dev.ctrlOut_frame {d q body} : Frame [.live, .out, .lnb] d (Dev.ctrlOut d q body) := by
  unfold Dev.ctrlOut
  refine Frame.foldl ?_ ?_
  exact Frame.refl _ _
  intro _ _ _
  refine Frame.next ?_ Dev.sendFrame_frame (by decide)
  assumption

theorem Dev.ctrlSend_frame {d kind ref rest} : Frame [.live, .out, .lnb, .pair] d (Dev.ctrlSend d kind ref rest) := by
  unfold Dev.ctrlSend
  refine Frame.next ?_ Dev.ctrlOut_frame (by decide)
  refine Frame.upd_pair ?_ (by decide)
  exact Frame.refl _ _

theorem Dev.ctrlSendAck_frame {d kind rest} : Frame [.live, .out, .lnb, .pair] d (Dev.ctrlSendAck d kind rest) := by
  unfold Dev.ctrlSendAck
  refine Frame.next ?_ Dev.ctrlOut_frame (by decide)
  refine Frame.upd_pair ?_ (by decide)
  exact Frame.refl _ _

theorem Dev.heartbeatSend_frame {d} : Frame [.live, .out, .lnb, .pair] d (Dev.heartbeatSend d) := by
  unfold Dev.heartbeatSend
  refine Frame.ite ?_ ?_
  refine Frame.next ?_ Dev.ctrlSend_frame (by decide)
  exact Frame.refl _ _
  exact Frame.refl _ _

theorem Dev.grantSend_frame {d} : Frame [.live, .out, .lnb, .pair] d (Dev.grantSend d) := by
  unfold Dev.grantSend
  refine Frame.ite ?_ ?_
  refine Frame.next ?_ Dev.ctrlSend_frame (by decide)
  exact Frame.refl _ _
  exact Frame.refl _ _

theorem Dev.digestSend_frame {d} : Frame [.live, .out, .lnb, .pair] d (Dev.digestSend d) := by
  unfold Dev.digestSend
  refine Frame.ite ?_ ?_
  refine Frame.next ?_ Dev.ctrlSend_frame (by decide)
  exact Frame.refl _ _
  exact Frame.refl _ _

theorem Dev.ctrlRetransmit_frame {d} : Frame [.live, .out, .lnb, .pair] d (Dev.ctrlRetransmit d) := by
  unfold Dev.ctrlRetransmit
  refine Frame.foldl ?_ ?_
  exact Frame.refl _ _
  intro _ _ _
  refine Frame.ite ?_ ?_
  assumption
  refine Frame.ite ?_ ?_
  refine Frame.next ?_ Dev.bump_frame (by decide)
  refine Frame.upd_pair ?_ (by decide)
  refine Frame.next ?_ Dev.ctrlOut_frame (by decide)
  assumption
  refine Frame.next ?_ Dev.rematch_frame (by decide)
  refine Frame.next ?_ Dev.bump_frame (by decide)
  refine Frame.upd_pair ?_ (by decide)
  assumption

theorem Dev.takeOwn_frame {d counter silence}
    : Frame [.regs, .pba, .pirq, .live, .out, .pair, .bmf] d (Dev.takeOwn d counter silence) := by
  unfold Dev.takeOwn
  refine Frame.next ?_ Dev.emit_frame (by decide)
  refine Frame.next ?_ Dev.raise_frame (by decide)
  refine Frame.next ?_ Dev.egClear_frame (by decide)
  split
  refine Frame.next ?_ Dev.bump_frame (by decide)
  refine Frame.upd_pair ?_ (by decide)
  refine Frame.setReg ?_ (by decide) (.inl rfl)
  exact Frame.refl _ _
  refine Frame.upd_pair ?_ (by decide)
  refine Frame.setReg ?_ (by decide) (.inl rfl)
  exact Frame.refl _ _

theorem Dev.giveUp_frame {d handoff} : Frame [.pba, .pirq, .live, .out, .lnb, .pair] d (Dev.giveUp d handoff) := by
  unfold Dev.giveUp
  refine Frame.ite ?_ ?_
  exact Frame.refl _ _
  refine Frame.next ?_ Dev.emit_frame (by decide)
  refine Frame.next ?_ Dev.raise_frame (by decide)
  refine Frame.next ?_ Dev.bump_frame (by decide)
  refine Frame.upd_pair ?_ (by decide)
  refine Frame.ite ?_ ?_
  refine Frame.next ?_ Dev.ctrlSend_frame (by decide)
  exact Frame.refl _ _
  exact Frame.refl _ _

theorem Dev.pairSync_frame {d} : Frame [.pba, .pirq, .live, .out, .lnb, .pair] d (Dev.pairSync d) := by
  unfold Dev.pairSync
  refine Frame.ite ?_ ?_
  exact Frame.refl _ _
  refine Frame.ite ?_ ?_
  refine Frame.ite ?_ ?_
  refine Frame.upd_pair ?_ (by decide)
  exact Frame.refl _ _
  exact Frame.refl _ _
  refine Frame.upd_pair ?_ (by decide)
  refine Frame.next ?_ Dev.giveUp_frame (by decide)
  exact Frame.refl _ _

theorem Dev.pairShed_frame {d} : Frame [.pba, .pirq, .live, .out, .lnb, .pair] d (Dev.pairShed d) := by
  unfold Dev.pairShed
  refine Frame.ite ?_ ?_
  refine Frame.next ?_ Dev.giveUp_frame (by decide)
  exact Frame.refl _ _
  exact Frame.refl _ _

theorem Dev.handover_frame {d} : Frame [.pair] d (Dev.handover d) := by
  unfold Dev.handover
  refine Frame.upd_pair ?_ (by decide)
  exact Frame.refl _ _

theorem Dev.handoffSend_frame {d} : Frame [.pba, .pirq, .live, .out, .lnb, .pair] d (Dev.handoffSend d) := by
  unfold Dev.handoffSend
  refine Frame.ite ?_ ?_
  refine Frame.next ?_ Dev.giveUp_frame (by decide)
  exact Frame.refl _ _
  exact Frame.refl _ _

theorem Dev.takeAfterHandoff_frame {d} : Frame [.regs, .pba, .pirq, .live, .out, .pair, .bmf] d (Dev.takeAfterHandoff d) := by
  unfold Dev.takeAfterHandoff
  refine Frame.ite ?_ ?_
  refine Frame.next ?_ Dev.takeOwn_frame (by decide)
  exact Frame.refl _ _
  exact Frame.refl _ _

theorem Dev.takeLost_frame {d} : Frame [.regs, .pba, .pirq, .live, .out, .pair, .bmf] d (Dev.takeLost d) := by
  unfold Dev.takeLost
  refine Frame.ite ?_ ?_
  refine Frame.next ?_ Dev.takeOwn_frame (by decide)
  exact Frame.refl _ _
  exact Frame.refl _ _

theorem Dev.ownInChange_frame {d level}
    : Frame [.regs, .pba, .pirq, .live, .out, .pair, .bmf] d (Dev.ownInChange d level) := by
  unfold Dev.ownInChange
  refine Frame.ite ?_ ?_
  exact Frame.refl _ _
  refine Frame.ite ?_ ?_
  refine Frame.upd_pair ?_ (by decide)
  refine Frame.upd_pair ?_ (by decide)
  exact Frame.refl _ _
  refine Frame.ite ?_ ?_
  refine Frame.next ?_ Dev.takeAfterHandoff_frame (by decide)
  refine Frame.upd_pair ?_ (by decide)
  refine Frame.upd_pair ?_ (by decide)
  exact Frame.refl _ _
  refine Frame.upd_pair ?_ (by decide)
  exact Frame.refl _ _

theorem Dev.handoffLate_frame {d} : Frame [.pair] d (Dev.handoffLate d) := by
  unfold Dev.handoffLate
  split
  refine Frame.ite ?_ ?_
  refine Frame.upd_pair ?_ (by decide)
  exact Frame.refl _ _
  exact Frame.refl _ _
  exact Frame.refl _ _

theorem Dev.ownerSilence_frame {d} : Frame [.regs, .pba, .pirq, .live, .out, .pair, .bmf] d (Dev.ownerSilence d) := by
  unfold Dev.ownerSilence
  split
  refine Frame.ite ?_ ?_
  refine Frame.next ?_ Dev.takeLost_frame (by decide)
  exact Frame.refl _ _
  exact Frame.refl _ _
  exact Frame.refl _ _

theorem Dev.enterLease_frame {d} : Frame [.pair] d (Dev.enterLease d) := by
  unfold Dev.enterLease
  refine Frame.ite ?_ ?_
  exact Frame.refl _ _
  refine Frame.upd_pair ?_ (by decide)
  exact Frame.refl _ _

theorem Dev.ilFault_frame {d} : Frame [.pba, .pirq, .out, .pair] d (Dev.ilFault d) := by
  unfold Dev.ilFault
  refine Frame.upd_pair ?_ (by decide)
  refine Frame.next ?_ Dev.enterLease_frame (by decide)
  refine Frame.ite ?_ ?_
  exact Frame.refl _ _
  refine Frame.next ?_ Dev.raise_frame (by decide)
  refine Frame.upd_pair ?_ (by decide)
  exact Frame.refl _ _

theorem Dev.interlockFault_frame {d} : Frame [.pba, .pirq, .out, .pair] d (Dev.interlockFault d) := by
  unfold Dev.interlockFault
  refine Frame.ite ?_ ?_
  refine Frame.next ?_ Dev.ilFault_frame (by decide)
  exact Frame.refl _ _
  exact Frame.refl _ _

theorem Dev.ilReset_frame {d v} : Frame [.pba, .perr, .pirq, .errlog, .out, .pair] d (Dev.ilReset d v) := by
  unfold Dev.ilReset
  refine Dev.guard_frame ?_ ?_ (by decide)
  exact Frame.refl _ _
  intro _ _
  refine Frame.ite ?_ ?_
  refine Frame.upd_pair ?_ (by decide)
  assumption
  assumption

theorem Dev.leaseExit_frame {d} : Frame [.pair] d (Dev.leaseExit d) := by
  unfold Dev.leaseExit
  split
  refine Frame.ite ?_ ?_
  refine Frame.upd_pair ?_ (by decide)
  exact Frame.refl _ _
  exact Frame.refl _ _
  exact Frame.refl _ _

theorem Dev.leaseExpire_frame {d} : Frame [.pba, .pirq, .live, .out, .lnb, .pair] d (Dev.leaseExpire d) := by
  unfold Dev.leaseExpire
  refine Frame.ite ?_ ?_
  refine Frame.next ?_ Dev.giveUp_frame (by decide)
  refine Frame.next ?_ Dev.bump_frame (by decide)
  exact Frame.refl _ _
  exact Frame.refl _ _

theorem Dev.leaseSilence_frame {d} : Frame [.regs, .pba, .pirq, .live, .out, .pair, .bmf] d (Dev.leaseSilence d) := by
  unfold Dev.leaseSilence
  refine Frame.ite ?_ ?_
  refine Frame.next ?_ Dev.takeOwn_frame (by decide)
  exact Frame.refl _ _
  exact Frame.refl _ _

theorem Dev.linkDown_frame {d} : Frame [.regs, .pba, .pirq, .live, .out, .pair, .bmf] d (Dev.linkDown d) := by
  unfold Dev.linkDown
  refine Frame.ite ?_ ?_
  refine Frame.next ?_ Dev.rematch_frame (by decide)
  refine Frame.next ?_ Dev.raise_frame (by decide)
  refine Frame.upd_pair ?_ (by decide)
  refine Frame.next ?_ Dev.leaseSilence_frame (by decide)
  exact Frame.refl _ _
  exact Frame.refl _ _

theorem Dev.ack_frame {d fr c} : Frame [.live, .out, .lnb, .pair] d (Dev.ack d fr c) := by
  unfold Dev.ack
  refine Frame.next ?_ Dev.ctrlSend_frame (by decide)
  exact Frame.refl _ _

theorem Dev.mirrorRefused_frame {d fr c}
    : Frame [.pba, .pirq, .live, .out, .lnb, .pair] d (Dev.mirrorRefused d fr c) := by
  unfold Dev.mirrorRefused
  refine Frame.next ?_ Dev.rematch_frame (by decide)
  refine Frame.next ?_ Dev.raise_frame (by decide)
  refine Frame.next ?_ Dev.bump_frame (by decide)
  refine Frame.next ?_ Dev.ack_frame (by decide)
  exact Frame.refl _ _

theorem Dev.ctrlRx_frame {d l fr k act}
    (h : Frame T d0 d) (hf : ∀ e, Frame T d0 e → Frame T d0 (act e)) (hT : [.pba, .pirq, .live, .nextc, .out, .lnb,
      .ing, .pair] ⊆ T) : Frame T d0 (Dev.ctrlRx d l fr k act) := by
  unfold Dev.ctrlRx
  refine Frame.ite ?_ ?_
  assumption
  dsimp only
  refine Frame.ite ?_ ?_
  refine Frame.next ?_ Dev.ingest_frame (List.Subset.trans (by decide) hT)
  assumption
  refine Frame.ite ?_ ?_
  refine hf _ ?_
  refine Frame.upd_pair ?_ (hT (by decide))
  refine Frame.next ?_ Dev.ingest_frame (List.Subset.trans (by decide) hT)
  assumption
  refine Frame.upd_pair ?_ (hT (by decide))
  refine Frame.next ?_ Dev.ingest_frame (List.Subset.trans (by decide) hT)
  assumption

theorem Dev.hbCompare_frame {d fr} : Frame [.pba, .pirq, .out, .pair] d (Dev.hbCompare d fr) := by
  unfold Dev.hbCompare
  extract_lets hash pd far run td was p1 d1 d2
  have e1 : Frame [.pba, .pirq, .out, .pair] d d1 := Frame.upd_pair (Frame.refl _ _) (by decide)
  have e2 : Frame [.pba, .pirq, .out, .pair] d d2 := Frame.ite (Frame.next e1 Dev.raise_frame (by decide)) e1
  exact Frame.ite (Frame.next e2 Dev.rematch_frame (by decide)) (Frame.next e2 Dev.promote_frame (by decide))

theorem Dev.hbInterlock_frame {d ps} : Frame [.pba, .pirq, .out, .pair] d (Dev.hbInterlock d ps) := by
  unfold Dev.hbInterlock
  extract_lets p differ run p1 d1 d2
  have e1 : Frame [.pba, .pirq, .out, .pair] d d1 := Frame.upd_pair (Frame.refl _ _) (by decide)
  have e2 : Frame [.pba, .pirq, .out, .pair] d d2 := Frame.ite (Frame.next e1 Dev.ilFault_frame (by decide)) e1
  exact Frame.ite (Frame.next e2 Dev.enterLease_frame (by decide)) (Frame.ite (Frame.upd_pair e2 (by decide)) e2)

theorem Dev.heartbeatRx_frame {d l fr}
    : Frame [.regs, .pba, .pirq, .live, .nextc, .out, .lnb, .ing, .pair, .bmf] d (Dev.heartbeatRx d l fr) := by
  unfold Dev.heartbeatRx
  refine Dev.ctrlRx_frame (Frame.refl _ _) (fun x hx => ?_) (by decide)
  extract_lets ps p1 d1 d2 po e
  have e1 : Frame [.regs, .pba, .pirq, .live, .nextc, .out, .lnb, .ing, .pair, .bmf] d d1 := Frame.upd_pair hx (by decide)
  have e2 : Frame [.regs, .pba, .pirq, .live, .nextc, .out, .lnb, .ing, .pair, .bmf] d d2 :=
    Frame.next (Frame.next (Frame.next e1 Dev.bump_frame (by decide)) Dev.hbCompare_frame (by decide))
      Dev.hbInterlock_frame (by decide)
  exact Frame.ite (Frame.next e2 Dev.giveUp_frame (by decide)) (Frame.ite (Frame.next e2 Dev.takeLost_frame (by decide))
    (Frame.next e2 Dev.pairShed_frame (by decide)))

theorem Dev.grantRx_frame {d l fr}
    : Frame [.pba, .pirq, .live, .nextc, .out, .lnb, .ing, .pair] d (Dev.grantRx d l fr) := by
  unfold Dev.grantRx
  refine Dev.ctrlRx_frame ?_ ?_ (by decide)
  exact Frame.refl _ _
  intro _ _
  refine Frame.ite ?_ ?_
  refine Frame.upd_pair ?_ (by decide)
  assumption
  assumption

theorem Dev.handoffArrives_frame {d l fr}
    : Frame [.regs, .pba, .pirq, .live, .nextc, .out, .lnb, .ing, .pair, .bmf] d (Dev.handoffArrives d l fr) := by
  unfold Dev.handoffArrives
  refine Dev.ctrlRx_frame ?_ ?_ (by decide)
  exact Frame.refl _ _
  intro _ _
  refine Frame.ite ?_ ?_
  refine Frame.next ?_ Dev.takeAfterHandoff_frame (by decide)
  refine Frame.upd_pair ?_ (by decide)
  assumption
  assumption

theorem Dev.mirrorTicket_frame {d fr p num w t crc}
    : Frame [.regs, .pba, .act, .hdr, .pirq, .live, .out, .time, .msp, .lnb, .run, .ing, .acc, .bmf, .trg, .pair,
      .bur, .mem] d (Dev.mirrorTicket d fr p num w t crc) := by
  unfold Dev.mirrorTicket
  split
  refine Frame.next ?_ Dev.mirrorRefused_frame (by decide)
  exact Frame.refl _ _
  refine Frame.next ?_ Dev.ack_frame (by decide)
  refine Frame.next ?_ Dev.armTicket_frame (by decide)
  exact Frame.refl _ _

theorem Dev.ticketRx_frame {d l fr}
    : Frame [.regs, .pba, .act, .hdr, .pirq, .live, .nextc, .out, .time, .msp, .lnb, .run, .ing, .acc, .bmf, .trg,
      .pair, .bur, .mem] d (Dev.ticketRx d l fr) := by
  unfold Dev.ticketRx
  refine Dev.ctrlRx_frame ?_ ?_ (by decide)
  exact Frame.refl _ _
  intro _ _
  refine Frame.ite ?_ ?_
  refine Frame.next ?_ Dev.ack_frame (by decide)
  refine Frame.upd_pair ?_ (by decide)
  assumption
  refine Frame.next ?_ Dev.mirrorTicket_frame (by decide)
  assumption

theorem Dev.threshRx_frame {d l fr}
    : Frame [.regs, .pba, .act, .hdr, .pirq, .live, .nextc, .out, .time, .msp, .lnb, .run, .ing, .acc, .bmf, .trg,
      .pair, .bur, .mem] d (Dev.threshRx d l fr) := by
  unfold Dev.threshRx
  refine Dev.ctrlRx_frame ?_ ?_ (by decide)
  exact Frame.refl _ _
  intro _ _
  refine Frame.ite ?_ ?_
  refine Frame.next ?_ Dev.mirrorRefused_frame (by decide)
  assumption
  refine Frame.ite ?_ ?_
  refine Frame.next ?_ Dev.mirrorRefused_frame (by decide)
  assumption
  refine Frame.ite ?_ ?_
  refine Frame.next ?_ Dev.mirrorRefused_frame (by decide)
  assumption
  split
  (dsimp only; split)
  refine Frame.ite ?_ ?_
  refine Frame.next ?_ Dev.mirrorTicket_frame (by decide)
  refine Frame.upd_trg_pair ?_ (by decide) (by decide)
  assumption
  refine Frame.next ?_ Dev.ack_frame (by decide)
  refine Frame.upd_trg_pair ?_ (by decide) (by decide)
  assumption
  refine Frame.next ?_ Dev.ack_frame (by decide)
  refine Frame.upd_trg_pair ?_ (by decide) (by decide)
  assumption
  (dsimp only; split)
  refine Frame.ite ?_ ?_
  refine Frame.next ?_ Dev.mirrorTicket_frame (by decide)
  refine Frame.upd_trg_pair ?_ (by decide) (by decide)
  assumption
  refine Frame.next ?_ Dev.ack_frame (by decide)
  refine Frame.upd_trg_pair ?_ (by decide) (by decide)
  assumption
  refine Frame.next ?_ Dev.ack_frame (by decide)
  refine Frame.upd_trg_pair ?_ (by decide) (by decide)
  assumption

theorem Dev.stopAt_frame {d b} : Frame [.run] d (Dev.stopAt d b) := by
  unfold Dev.stopAt
  refine Frame.upd_run ?_ (by decide)
  exact Frame.refl _ _

theorem Dev.commandRx_frame {d l fr}
    : Frame [.regs, .pba, .act, .pirq, .live, .nextc, .state, .out, .time, .lnb, .plt, .run, .ing, .pair] d
      (Dev.commandRx d l fr) := by
  unfold Dev.commandRx
  refine Dev.ctrlRx_frame ?_ ?_ (by decide)
  exact Frame.refl _ _
  intro _ _
  refine Frame.ite ?_ ?_
  refine Frame.next ?_ Dev.mirrorRefused_frame (by decide)
  assumption
  refine Frame.ite ?_ ?_
  refine Frame.ite ?_ ?_
  refine Frame.next ?_ Dev.mirrorRefused_frame (by decide)
  assumption
  refine Frame.ite ?_ ?_
  refine Frame.next ?_ Dev.mirrorRefused_frame (by decide)
  assumption
  refine Frame.ite ?_ ?_
  refine Frame.next ?_ Dev.mirrorRefused_frame (by decide)
  assumption
  refine Frame.next ?_ Dev.ack_frame (by decide)
  refine Frame.next ?_ Dev.stopAt_frame (by decide)
  assumption
  refine Frame.ite ?_ ?_
  dsimp only
  split
  refine Frame.next ?_ Dev.mirrorRefused_frame (by decide)
  refine Frame.ite ?_ ?_
  refine Frame.upd_plt ?_ (by decide)
  assumption
  assumption
  refine Frame.next ?_ Dev.ack_frame (by decide)
  refine Frame.next ?_ Dev.armAll_frame (by decide)
  assumption
  refine Frame.next ?_ Dev.mirrorRefused_frame (by decide)
  assumption

theorem Dev.ackRx_frame {d l fr}
    : Frame [.pba, .pirq, .live, .nextc, .out, .lnb, .ing, .pair] d (Dev.ackRx d l fr) := by
  unfold Dev.ackRx
  refine Dev.ctrlRx_frame ?_ ?_ (by decide)
  exact Frame.refl _ _
  intro _ _
  refine Frame.upd_pair ?_ (by decide)
  assumption

theorem Dev.digestRx_frame {d l fr}
    : Frame [.pba, .pirq, .live, .nextc, .out, .lnb, .ing, .pair] d (Dev.digestRx d l fr) := by
  unfold Dev.digestRx
  refine Dev.ctrlRx_frame (Frame.refl _ _) (fun x hx => ?_) (by decide)
  exact Frame.ite (Frame.next (Frame.upd_pair hx (by decide)) Dev.rematch_frame (by decide))
    (Frame.next (Frame.upd_pair hx (by decide)) Dev.promote_frame (by decide))

theorem Dev.wmOutcome_frame {d o ours} : Frame [.pba, .pirq, .live, .out, .pair] d (Dev.wmOutcome d o ours) := by
  unfold Dev.wmOutcome
  extract_lets p1 d1 p2 p3 p4 d2
  have e1 : Frame [.pba, .pirq, .live, .out, .pair] d d1 := Frame.upd_pair (Frame.refl _ _) (by decide)
  have e2 : Frame [.pba, .pirq, .live, .out, .pair] d d2 := Frame.next e1 Dev.bump_frame (by decide)
  refine Frame.ite (Frame.next (Frame.next (Frame.upd_pair e1 (by decide)) Dev.bump_frame (by decide)) Dev.promote_frame
    (by decide)) (Frame.ite ?_ (Frame.ite e2 (Frame.upd_pair (Frame.ite (Frame.next e2 Dev.rematch_frame (by decide)) e2)
    (by decide))))
  exact Frame.next (Frame.next (Frame.upd_pair (Frame.next e1 Dev.rematch_frame (by decide)) (by decide)) Dev.bump_frame
    (by decide)) Dev.raise_frame (by decide)

theorem Dev.wmCompare_frame {d first} : Frame [.pba, .pirq, .live, .out, .pair] d (Dev.wmCompare d first) := by
  unfold Dev.wmCompare
  split
  refine Frame.ite ?_ ?_
  refine Frame.next ?_ Dev.wmOutcome_frame (by decide)
  refine Frame.upd_pair ?_ (by decide)
  exact Frame.refl _ _
  refine Frame.ite ?_ ?_
  refine Frame.next ?_ Dev.wmOutcome_frame (by decide)
  refine Frame.upd_pair ?_ (by decide)
  exact Frame.refl _ _
  refine Frame.next ?_ Dev.wmOutcome_frame (by decide)
  refine Frame.upd_pair ?_ (by decide)
  exact Frame.refl _ _
  exact Frame.refl _ _

theorem Dev.watermarkRx_frame {d l fr}
    : Frame [.pba, .pirq, .live, .nextc, .out, .lnb, .ing, .pair] d (Dev.watermarkRx d l fr) := by
  unfold Dev.watermarkRx
  refine Dev.ctrlRx_frame ?_ ?_ (by decide)
  exact Frame.refl _ _
  intro _ _
  refine Frame.next ?_ Dev.wmCompare_frame (by decide)
  refine Frame.next ?_ Dev.ack_frame (by decide)
  refine Frame.upd_pair ?_ (by decide)
  assumption

theorem Dev.wmOwn_frame {d first wm status}
    : Frame [.pba, .pirq, .live, .out, .lnb, .pair] d (Dev.wmOwn d first wm status) := by
  unfold Dev.wmOwn
  refine Frame.ite ?_ ?_
  exact Frame.refl _ _
  refine Frame.next ?_ Dev.wmCompare_frame (by decide)
  refine Frame.upd_pair ?_ (by decide)
  refine Frame.next ?_ Dev.ctrlSendAck_frame (by decide)
  exact Frame.refl _ _

theorem Dev.wmTimeout_frame {d} : Frame [.pba, .pirq, .live, .out, .pair] d (Dev.wmTimeout d) := by
  unfold Dev.wmTimeout
  (dsimp only; split)
  refine Frame.next ?_ Dev.wmOutcome_frame (by decide)
  refine Frame.upd_pair ?_ (by decide)
  exact Frame.refl _ _
  split
  refine Frame.next ?_ Dev.wmOutcome_frame (by decide)
  refine Frame.upd_pair ?_ (by decide)
  exact Frame.refl _ _
  exact Frame.refl _ _

theorem Dev.mirrorOut_frame {d p k} : Frame [.live, .out, .lnb, .pair] d (Dev.mirrorOut d p k) := by
  unfold Dev.mirrorOut
  refine Frame.ite ?_ ?_
  exact Frame.refl _ _
  refine Frame.ite ?_ ?_
  refine Frame.foldl ?_ ?_
  refine Frame.next ?_ Dev.ctrlSendAck_frame (by decide)
  exact Frame.refl _ _
  intro _ _ _
  refine Frame.next ?_ Dev.ctrlSendAck_frame (by decide)
  assumption
  refine Frame.next ?_ Dev.ctrlSendAck_frame (by decide)
  exact Frame.refl _ _

theorem Dev.mirrorCmd_frame {d code args} : Frame [.live, .out, .lnb, .pair] d (Dev.mirrorCmd d code args) := by
  unfold Dev.mirrorCmd
  refine Frame.ite ?_ ?_
  exact Frame.refl _ _
  refine Frame.next ?_ Dev.ctrlSendAck_frame (by decide)
  exact Frame.refl _ _

theorem Dev.pcommit_frame {d p v}
    : Frame [.regs, .pba, .act, .hdr, .perr, .pirq, .live, .errlog, .out, .time, .msp, .lnb, .run, .ing, .acc, .bmf,
      .trg, .pair, .bur, .mem] d (Dev.pcommit d p v) := by
  unfold Dev.pcommit
  refine Dev.guard_frame ?_ ?_ (by decide)
  exact Frame.refl _ _
  intro _ _
  refine Frame.next ?_ Dev.armTicket_frame (by decide)
  refine Frame.next ?_ Dev.mirrorOut_frame (by decide)
  assumption

theorem Dev.pairRegWrite_frame {d o v}
    : Frame [.regs, .pba, .perr, .pirq, .errlog, .out, .pair] d (Dev.pairRegWrite d o v) := by
  unfold Dev.pairRegWrite
  refine Dev.guard_frame ?_ ?_ (by decide)
  exact Frame.refl _ _
  intro _ _
  refine Frame.ite ?_ ?_
  refine Frame.upd_pair ?_ (by decide)
  refine Frame.setReg ?_ (by decide) (.inr (by decide))
  assumption
  refine Frame.setReg ?_ (by decide) (.inr (by decide))
  assumption

/-! ### Mmu -/

theorem Dev.mmuFault_frame {d f1} : Frame [.pba, .pirq, .live, .out, .mmu] d (Dev.mmuFault d f1) := by
  unfold Dev.mmuFault
  refine Frame.ite ?_ ?_
  refine Frame.upd_mmu ?_ (by decide)
  refine Frame.next ?_ Dev.raise_frame (by decide)
  refine Frame.next ?_ Dev.bump_frame (by decide)
  exact Frame.refl _ _
  refine Frame.next ?_ Dev.raise_frame (by decide)
  refine Frame.next ?_ Dev.bump_frame (by decide)
  refine Frame.next ?_ Dev.raise_frame (by decide)
  refine Frame.next ?_ Dev.bump_frame (by decide)
  exact Frame.refl _ _

theorem Dev.walk_frame {d va lvl tbl} :
    Frame [.pba, .pirq, .live, .state, .errlog, .out, .plt, .acc, .mctl, .mem] d (Dev.walk d va lvl tbl).2 := by
  induction lvl generalizing d tbl with
  | zero =>
    unfold Dev.walk
    refine Frame.ite_snd ?_ ?_
    exact Frame.refl _ _
    dsimp only
    refine Frame.ite_snd ?_ ?_
    refine Frame.next ?_ Dev.memRead_frame (by decide)
    exact Frame.refl _ _
    split
    refine Frame.next ?_ Dev.memRead_frame (by decide)
    exact Frame.refl _ _
    refine Frame.ite_snd ?_ ?_
    refine Frame.next ?_ Dev.memRead_frame (by decide)
    exact Frame.refl _ _
    refine Frame.next ?_ Dev.memRead_frame (by decide)
    exact Frame.refl _ _
  | succ n ih =>
    unfold Dev.walk
    refine Frame.ite_snd ?_ ?_
    exact Frame.refl _ _
    dsimp only
    refine Frame.ite_snd ?_ ?_
    refine Frame.next ?_ Dev.memRead_frame (by decide)
    exact Frame.refl _ _
    split
    refine Frame.next ?_ Dev.memRead_frame (by decide)
    exact Frame.refl _ _
    refine Frame.ite_snd ?_ ?_
    refine Frame.next ?_ Dev.memRead_frame (by decide)
    exact Frame.refl _ _
    refine Frame.next ?_ ih (by decide)
    refine Frame.next ?_ Dev.memRead_frame (by decide)
    exact Frame.refl _ _

theorem Dev.translate_frame {d eng chan ctx va write}
    : Frame [.pba, .pirq, .live, .state, .errlog, .out, .plt, .acc, .mctl, .mmu, .mem] d (Dev.translate d eng chan ctx
      va write).2 := by
  unfold Dev.translate
  refine Frame.ite_snd ?_ ?_
  refine Frame.next ?_ Dev.mmuFault_frame (by decide)
  exact Frame.refl _ _
  refine Frame.ite_snd ?_ ?_
  refine Frame.next ?_ Dev.mmuFault_frame (by decide)
  exact Frame.refl _ _
  split
  split
  refine Frame.next ?_ Dev.mmuFault_frame (by decide)
  exact Frame.refl _ _
  exact Frame.refl _ _
  dsimp only
  split
  refine Frame.next ?_ Dev.mmuFault_frame (by decide)
  refine Frame.next ?_ Dev.walk_frame (by decide)
  refine Frame.next ?_ Dev.bump_frame (by decide)
  refine Frame.next ?_ Dev.bump_frame (by decide)
  exact Frame.refl _ _
  split
  refine Frame.next ?_ Dev.mmuFault_frame (by decide)
  refine Frame.next ?_ Dev.walk_frame (by decide)
  refine Frame.next ?_ Dev.bump_frame (by decide)
  refine Frame.next ?_ Dev.bump_frame (by decide)
  exact Frame.refl _ _
  refine Frame.upd_mmu ?_ (by decide)
  refine Frame.next ?_ Dev.walk_frame (by decide)
  refine Frame.next ?_ Dev.bump_frame (by decide)
  refine Frame.next ?_ Dev.bump_frame (by decide)
  exact Frame.refl _ _

theorem Dev.ctxWrite_frame {d off v} : Frame [.pba, .perr, .pirq, .errlog, .out, .mmu] d (Dev.ctxWrite d off v) := by
  unfold Dev.ctxWrite
  refine Dev.guard_frame ?_ ?_ (by decide)
  exact Frame.refl _ _
  intro _ _
  refine Frame.ite ?_ ?_
  refine Frame.upd_mmu ?_ (by decide)
  assumption
  refine Frame.upd_mmu ?_ (by decide)
  assumption

theorem Dev.invalidate_frame {d cmd ctx}
    : Frame [.pba, .perr, .pirq, .errlog, .out, .mmu] d (Dev.invalidate d cmd ctx) := by
  unfold Dev.invalidate
  refine Dev.guard_frame ?_ ?_ (by decide)
  exact Frame.refl _ _
  intro _ _
  refine Frame.upd_mmu ?_ (by decide)
  assumption

theorem Dev.invWrite_frame {d v} : Frame [.pba, .perr, .pirq, .errlog, .out, .mmu] d (Dev.invWrite d v) := by
  unfold Dev.invWrite
  refine Frame.ite ?_ ?_
  refine Frame.next ?_ Dev.reject_frame (by decide)
  exact Frame.refl _ _
  refine Frame.next ?_ Dev.invalidate_frame (by decide)
  exact Frame.refl _ _

theorem Dev.invalidationDone_frame {d} : Frame [.pba, .pirq, .live, .out, .mmu] d (Dev.invalidationDone d) := by
  unfold Dev.invalidationDone
  split
  exact Frame.refl _ _
  refine Frame.next ?_ Dev.raise_frame (by decide)
  refine Frame.next ?_ Dev.bump_frame (by decide)
  refine Frame.upd_mmu ?_ (by decide)
  exact Frame.refl _ _

theorem Dev.faultlogPop_frame {d} : Frame [.out, .mmu] d (Dev.faultlogPop d) := by
  unfold Dev.faultlogPop
  split
  refine Frame.next ?_ Dev.emit_frame (by decide)
  exact Frame.refl _ _
  refine Frame.next ?_ Dev.emit_frame (by decide)
  refine Frame.upd_mmu ?_ (by decide)
  exact Frame.refl _ _

/-! ### Dma -/

theorem Dev.setDch_frame {d k n c} : Frame [.dma] d (Dev.setDch d k n c) := by
  unfold Dev.setDch
  refine Frame.upd_dma ?_ (by decide)
  exact Frame.refl _ _

theorem Dev.setEng_frame {d k e2} : Frame [.dma] d (Dev.setEng d k e2) := by
  unfold Dev.setEng
  refine Frame.upd_dma ?_ (by decide)
  exact Frame.refl _ _

theorem Dev.dmaPick_frame {d k} : Frame [.dma] d (Dev.dmaPick d k) := by
  unfold Dev.dmaPick
  refine Frame.ite ?_ ?_
  exact Frame.refl _ _
  split
  refine Frame.next ?_ Dev.setEng_frame (by decide)
  exact Frame.refl _ _
  split
  refine Frame.next ?_ Dev.setEng_frame (by decide)
  exact Frame.refl _ _
  split
  refine Frame.next ?_ Dev.setEng_frame (by decide)
  exact Frame.refl _ _
  exact Frame.refl _ _

theorem Dev.physRead_frame {d host pois a n h5}
    : Frame [.pba, .pirq, .live, .state, .errlog, .out, .plt, .acc, .mctl, .mem] d (Dev.physRead d host pois a n
      h5).2.2 := by
  unfold Dev.physRead
  refine Frame.ite_trd ?_ ?_
  exact Frame.refl _ _
  split
  exact Frame.refl _ _
  exact Frame.refl _ _
  refine Frame.ite_trd ?_ ?_
  exact Frame.refl _ _
  refine Frame.ite_trd ?_ ?_
  exact Frame.refl _ _
  dsimp only
  refine Frame.next ?_ Dev.memRead_frame (by decide)
  exact Frame.refl _ _
  refine Frame.ite_trd ?_ ?_
  exact Frame.refl _ _
  refine Frame.ite_trd ?_ ?_
  exact Frame.refl _ _
  dsimp only
  refine Frame.next ?_ Dev.memRead_frame (by decide)
  exact Frame.refl _ _
  exact Frame.refl _ _

theorem Dev.physWrite_frame {d k a l h4}
    : Frame [.pba, .perr, .pirq, .live, .state, .errlog, .out, .plt, .acc, .bmf, .trg, .bur, .mctl, .mem] d
      (Dev.physWrite d k a l h4).2 := by
  unfold Dev.physWrite
  refine Frame.ite_snd ?_ ?_
  refine Frame.next ?_ Dev.emit_frame (by decide)
  exact Frame.refl _ _
  split
  exact Frame.refl _ _
  exact Frame.refl _ _
  refine Frame.ite_snd ?_ ?_
  exact Frame.refl _ _
  split
  refine Frame.next ?_ Dev.reject_frame (by decide)
  exact Frame.refl _ _
  refine Frame.ite_snd ?_ ?_
  exact Frame.refl _ _
  refine Frame.next ?_ Dev.memWrite_frame (by decide)
  exact Frame.refl _ _
  refine Frame.ite_snd ?_ ?_
  exact Frame.refl _ _
  refine Frame.next ?_ Dev.slotWrite_frame (by decide)
  exact Frame.refl _ _
  refine Frame.next ?_ Dev.bmfTableWrite_frame (by decide)
  exact Frame.refl _ _
  refine Frame.next ?_ Dev.trgTableWrite_frame (by decide)
  exact Frame.refl _ _
  refine Frame.next ?_ Dev.coreMemWrite_frame (by decide)
  exact Frame.refl _ _
  refine Frame.next ?_ Dev.coreMemWrite_frame (by decide)
  exact Frame.refl _ _

theorem Dev.norouteFault_frame {d k n va write}
    : Frame [.pba, .pirq, .live, .out, .fab, .mmu] d (Dev.norouteFault d k n va write) := by
  unfold Dev.norouteFault
  refine Frame.next ?_ Dev.mmuFault_frame (by decide)
  refine Frame.next ?_ Dev.fabErr_frame (by decide)
  exact Frame.refl _ _

theorem Dev.vread_frame {d k n host pois fuel va len acc ps} :
    Frame [.pba, .pirq, .live, .state, .errlog, .out, .plt, .acc, .mctl, .fab, .mmu, .mem] d
      (Dev.vread d k n host pois fuel va len acc ps).2 := by
  induction fuel generalizing d va len acc ps with
  | zero => exact Frame.refl _ _
  | succ fuel ih =>
    unfold Dev.vread
    refine Frame.ite_snd ?_ ?_
    exact Frame.refl _ _
    split
    refine Frame.of_snd (by assumption) ?_
    refine Frame.next ?_ Dev.translate_frame (by decide)
    exact Frame.refl _ _
    split
    (dsimp only; split)
    refine Frame.next ?_ ih (by decide)
    refine Frame.next ?_ Dev.bump_frame (by decide)
    refine Frame.of_trd (by assumption) ?_
    refine Frame.next ?_ Dev.physRead_frame (by decide)
    refine Frame.of_snd (by assumption) ?_
    refine Frame.next ?_ Dev.translate_frame (by decide)
    exact Frame.refl _ _
    refine Frame.ite_snd ?_ ?_
    refine Frame.next ?_ Dev.fabWait_frame (by decide)
    refine Frame.of_trd (by assumption) ?_
    refine Frame.next ?_ Dev.physRead_frame (by decide)
    refine Frame.of_snd (by assumption) ?_
    refine Frame.next ?_ Dev.translate_frame (by decide)
    exact Frame.refl _ _
    refine Frame.next ?_ Dev.norouteFault_frame (by decide)
    refine Frame.of_trd (by assumption) ?_
    refine Frame.next ?_ Dev.physRead_frame (by decide)
    refine Frame.of_snd (by assumption) ?_
    refine Frame.next ?_ Dev.translate_frame (by decide)
    exact Frame.refl _ _
    (dsimp only; split)
    refine Frame.next ?_ ih (by decide)
    refine Frame.next ?_ Dev.bump_frame (by decide)
    refine Frame.of_trd (by assumption) ?_
    refine Frame.next ?_ Dev.physRead_frame (by decide)
    refine Frame.next ?_ Dev.fabAccept_frame (by decide)
    refine Frame.of_snd (by assumption) ?_
    refine Frame.next ?_ Dev.translate_frame (by decide)
    exact Frame.refl _ _
    refine Frame.ite_snd ?_ ?_
    refine Frame.next ?_ Dev.fabWait_frame (by decide)
    refine Frame.of_trd (by assumption) ?_
    refine Frame.next ?_ Dev.physRead_frame (by decide)
    refine Frame.next ?_ Dev.fabAccept_frame (by decide)
    refine Frame.of_snd (by assumption) ?_
    refine Frame.next ?_ Dev.translate_frame (by decide)
    exact Frame.refl _ _
    refine Frame.next ?_ Dev.norouteFault_frame (by decide)
    refine Frame.of_trd (by assumption) ?_
    refine Frame.next ?_ Dev.physRead_frame (by decide)
    refine Frame.next ?_ Dev.fabAccept_frame (by decide)
    refine Frame.of_snd (by assumption) ?_
    refine Frame.next ?_ Dev.translate_frame (by decide)
    exact Frame.refl _ _

theorem Dev.vwrite_frame {d k n skip fuel va l done} :
    Frame [.pba, .perr, .pirq, .live, .state, .errlog, .out, .plt, .acc, .bmf, .trg, .bur, .mctl, .fab, .mmu, .mem] d
      (Dev.vwrite d k n skip fuel va l done).2 := by
  induction fuel generalizing d va l done with
  | zero => exact Frame.refl _ _
  | succ fuel ih =>
    unfold Dev.vwrite
    refine Frame.ite_snd ?_ ?_
    exact Frame.refl _ _
    split
    refine Frame.of_snd (by assumption) ?_
    refine Frame.next ?_ Dev.translate_frame (by decide)
    exact Frame.refl _ _
    dsimp only
    refine Frame.ite_snd ?_ ?_
    refine Frame.next ?_ Dev.fabWait_frame (by decide)
    refine Frame.foldl_snd ?_ ?_
    refine Frame.ite ?_ ?_
    refine Frame.of_snd (by assumption) ?_
    refine Frame.next ?_ Dev.translate_frame (by decide)
    exact Frame.refl _ _
    refine Frame.next ?_ Dev.fabAccept_frame (by decide)
    refine Frame.of_snd (by assumption) ?_
    refine Frame.next ?_ Dev.translate_frame (by decide)
    exact Frame.refl _ _
    intro _ _ _
    refine Frame.ite_snd ?_ ?_
    refine Frame.next ?_ Dev.physWrite_frame (by decide)
    assumption
    assumption
    refine Frame.ite_snd ?_ ?_
    refine Frame.next ?_ Dev.norouteFault_frame (by decide)
    refine Frame.foldl_snd ?_ ?_
    refine Frame.ite ?_ ?_
    refine Frame.of_snd (by assumption) ?_
    refine Frame.next ?_ Dev.translate_frame (by decide)
    exact Frame.refl _ _
    refine Frame.next ?_ Dev.fabAccept_frame (by decide)
    refine Frame.of_snd (by assumption) ?_
    refine Frame.next ?_ Dev.translate_frame (by decide)
    exact Frame.refl _ _
    intro _ _ _
    refine Frame.ite_snd ?_ ?_
    refine Frame.next ?_ Dev.physWrite_frame (by decide)
    assumption
    assumption
    refine Frame.next ?_ ih (by decide)
    refine Frame.next ?_ Dev.bump_frame (by decide)
    refine Frame.foldl_snd ?_ ?_
    refine Frame.ite ?_ ?_
    refine Frame.of_snd (by assumption) ?_
    refine Frame.next ?_ Dev.translate_frame (by decide)
    exact Frame.refl _ _
    refine Frame.next ?_ Dev.fabAccept_frame (by decide)
    refine Frame.of_snd (by assumption) ?_
    refine Frame.next ?_ Dev.translate_frame (by decide)
    exact Frame.refl _ _
    intro _ _ _
    refine Frame.ite_snd ?_ ?_
    refine Frame.next ?_ Dev.physWrite_frame (by decide)
    assumption
    assumption

theorem Dev.cmpRecord_frame {d k n idx code rb df user off}
    : Frame [.regs, .pba, .perr, .pirq, .live, .state, .errlog, .out, .plt, .acc, .bmf, .trg, .bur, .mctl, .fab, .dma,
      .mmu, .mem] d (Dev.cmpRecord d k n idx code rb df user off) := by
  unfold Dev.cmpRecord
  refine Frame.next ?_ Dev.raise_frame (by decide)
  split
  refine Frame.next ?_ Dev.setDch_frame (by decide)
  refine Frame.ite ?_ ?_
  refine Frame.next ?_ Dev.bump_frame (by decide)
  refine Frame.setReg ?_ (by decide) (.inr (by decide))
  refine Frame.of_snd (by assumption) ?_
  refine Frame.next ?_ Dev.vwrite_frame (by decide)
  exact Frame.refl _ _
  refine Frame.of_snd (by assumption) ?_
  refine Frame.next ?_ Dev.vwrite_frame (by decide)
  exact Frame.refl _ _
  refine Frame.next ?_ Dev.bump_frame (by decide)
  refine Frame.of_snd (by assumption) ?_
  refine Frame.next ?_ Dev.vwrite_frame (by decide)
  exact Frame.refl _ _
  refine Frame.next ?_ Dev.bump_frame (by decide)
  refine Frame.of_snd (by assumption) ?_
  refine Frame.next ?_ Dev.vwrite_frame (by decide)
  exact Frame.refl _ _

theorem Dev.dmaHalt_frame {d k n code off}
    : Frame [.regs, .pba, .perr, .pirq, .live, .state, .errlog, .out, .plt, .acc, .bmf, .trg, .bur, .mctl, .fab, .dma,
      .mmu, .mem] d (Dev.dmaHalt d k n code off) := by
  unfold Dev.dmaHalt
  refine Frame.next ?_ Dev.dmaPick_frame (by decide)
  refine Frame.next ?_ Dev.setEng_frame (by decide)
  refine Frame.next ?_ Dev.setDch_frame (by decide)
  refine Frame.next ?_ Dev.cmpRecord_frame (by decide)
  exact Frame.refl _ _

theorem Dev.dmaFault_frame {d k n va off rb df}
    : Frame [.regs, .pba, .perr, .pirq, .live, .state, .errlog, .out, .plt, .acc, .bmf, .trg, .bur, .mctl, .fab, .dma,
      .mmu, .mem] d (Dev.dmaFault d k n va off rb df) := by
  unfold Dev.dmaFault
  refine Frame.next ?_ Dev.dmaPick_frame (by decide)
  refine Frame.next ?_ Dev.setEng_frame (by decide)
  refine Frame.next ?_ Dev.bump_frame (by decide)
  refine Frame.next ?_ Dev.setDch_frame (by decide)
  refine Frame.next ?_ Dev.cmpRecord_frame (by decide)
  exact Frame.refl _ _

theorem Dev.dmaFetch_frame {d k n host pois}
    : Frame [.regs, .pba, .perr, .pirq, .live, .state, .errlog, .out, .plt, .acc, .bmf, .trg, .bur, .mctl, .fab, .dma,
      .mmu, .mem] d (Dev.dmaFetch d k n host pois).2 := by
  unfold Dev.dmaFetch
  (dsimp only; split)
  exact Frame.refl _ _
  refine Frame.ite_snd ?_ ?_
  refine Frame.next ?_ Dev.dmaHalt_frame (by decide)
  exact Frame.refl _ _
  split
  refine Frame.next ?_ Dev.dmaFault_frame (by decide)
  refine Frame.of_snd (by assumption) ?_
  refine Frame.next ?_ Dev.vread_frame (by decide)
  exact Frame.refl _ _
  refine Frame.next ?_ Dev.setDch_frame (by decide)
  refine Frame.of_snd (by assumption) ?_
  refine Frame.next ?_ Dev.vread_frame (by decide)
  exact Frame.refl _ _
  refine Frame.ite_snd ?_ ?_
  refine Frame.next ?_ Dev.dmaHalt_frame (by decide)
  refine Frame.next ?_ Dev.bump_frame (by decide)
  refine Frame.next ?_ Dev.fabErr_frame (by decide)
  refine Frame.of_snd (by assumption) ?_
  refine Frame.next ?_ Dev.vread_frame (by decide)
  exact Frame.refl _ _
  refine Frame.ite_snd ?_ ?_
  refine Frame.next ?_ Dev.dmaHalt_frame (by decide)
  refine Frame.next ?_ Dev.setDch_frame (by decide)
  refine Frame.of_snd (by assumption) ?_
  refine Frame.next ?_ Dev.vread_frame (by decide)
  exact Frame.refl _ _
  refine Frame.next ?_ Dev.setDch_frame (by decide)
  refine Frame.of_snd (by assumption) ?_
  refine Frame.next ?_ Dev.vread_frame (by decide)
  exact Frame.refl _ _

theorem Dev.descOver_frame {d k n x}
    : Frame [.regs, .pba, .perr, .pirq, .live, .state, .errlog, .out, .plt, .acc, .bmf, .trg, .bur, .mctl, .fab, .dma,
      .mmu, .mem] d (Dev.descOver d k n x) := by
  unfold Dev.descOver
  split
  (dsimp only; split)
  refine Frame.next ?_ Dev.dmaHalt_frame (by decide)
  refine Frame.next ?_ Dev.setDch_frame (by decide)
  refine Frame.next ?_ Dev.bump_frame (by decide)
  refine Frame.next ?_ Dev.bump_frame (by decide)
  exact Frame.refl _ _
  refine Frame.ite ?_ ?_
  refine Frame.next ?_ Dev.dmaPick_frame (by decide)
  refine Frame.next ?_ Dev.setEng_frame (by decide)
  refine Frame.next ?_ Dev.setDch_frame (by decide)
  refine Frame.ite ?_ ?_
  refine Frame.next ?_ Dev.cmpRecord_frame (by decide)
  refine Frame.next ?_ Dev.setDch_frame (by decide)
  refine Frame.next ?_ Dev.bump_frame (by decide)
  exact Frame.refl _ _
  refine Frame.next ?_ Dev.setDch_frame (by decide)
  refine Frame.next ?_ Dev.bump_frame (by decide)
  exact Frame.refl _ _
  refine Frame.next ?_ Dev.dmaPick_frame (by decide)
  refine Frame.next ?_ Dev.setEng_frame (by decide)
  refine Frame.next ?_ Dev.setDch_frame (by decide)
  refine Frame.ite ?_ ?_
  refine Frame.next ?_ Dev.cmpRecord_frame (by decide)
  refine Frame.next ?_ Dev.setDch_frame (by decide)
  refine Frame.next ?_ Dev.bump_frame (by decide)
  exact Frame.refl _ _
  refine Frame.next ?_ Dev.setDch_frame (by decide)
  refine Frame.next ?_ Dev.bump_frame (by decide)
  exact Frame.refl _ _
  (dsimp only; split)
  refine Frame.next ?_ Dev.dmaHalt_frame (by decide)
  refine Frame.next ?_ Dev.setDch_frame (by decide)
  refine Frame.next ?_ Dev.bump_frame (by decide)
  refine Frame.next ?_ Dev.bump_frame (by decide)
  exact Frame.refl _ _
  refine Frame.ite ?_ ?_
  refine Frame.next ?_ Dev.dmaPick_frame (by decide)
  refine Frame.next ?_ Dev.setEng_frame (by decide)
  refine Frame.next ?_ Dev.setDch_frame (by decide)
  refine Frame.ite ?_ ?_
  refine Frame.next ?_ Dev.cmpRecord_frame (by decide)
  refine Frame.next ?_ Dev.setDch_frame (by decide)
  refine Frame.next ?_ Dev.bump_frame (by decide)
  exact Frame.refl _ _
  refine Frame.next ?_ Dev.setDch_frame (by decide)
  refine Frame.next ?_ Dev.bump_frame (by decide)
  exact Frame.refl _ _
  refine Frame.next ?_ Dev.setDch_frame (by decide)
  refine Frame.ite ?_ ?_
  refine Frame.next ?_ Dev.cmpRecord_frame (by decide)
  refine Frame.next ?_ Dev.setDch_frame (by decide)
  refine Frame.next ?_ Dev.bump_frame (by decide)
  exact Frame.refl _ _
  refine Frame.next ?_ Dev.setDch_frame (by decide)
  refine Frame.next ?_ Dev.bump_frame (by decide)
  exact Frame.refl _ _

theorem Dev.descDone_frame {d k n x}
    : Frame [.regs, .pba, .perr, .pirq, .live, .state, .errlog, .out, .plt, .acc, .bmf, .trg, .bur, .mctl, .fab, .dma,
      .mmu, .mem] d (Dev.descDone d k n x) := by
  unfold Dev.descDone
  refine Frame.ite ?_ ?_
  refine Frame.next ?_ Dev.setDch_frame (by decide)
  exact Frame.refl _ _
  refine Frame.next ?_ Dev.descOver_frame (by decide)
  exact Frame.refl _ _

theorem Dev.descRun_frame {d k n x host pois len} :
    Frame [.regs, .pba, .perr, .pirq, .live, .state, .errlog, .out, .plt, .acc, .bmf, .trg, .bur,
      .mctl, .fab, .dma, .mmu, .mem] d
      (Dev.descRun d k n x host pois len) := by
  unfold Dev.descRun
  extract_lets c off len at' stop end_ put
  generalize hT : ([.regs, .pba, .perr, .pirq, .live, .state, .errlog, .out, .plt, .acc, .bmf, .trg, .bur, .mctl, .fab, .dma, .mmu, .mem] : List Part) = T
  have hs {d0 d r} (h : Frame T d0 d) : Frame T d0 (stop r d) := by
    subst hT
    unfold stop
    split
    refine Frame.next ?_ Dev.dmaFault_frame (by decide)
    assumption
    refine Frame.next ?_ Dev.setDch_frame (by decide)
    assumption
    assumption
  have he {d0 d m p} (h : Frame T d0 d) : Frame T d0 (end_ d m p) := by
    subst hT
    unfold end_
    refine Frame.ite ?_ ?_
    refine Frame.next ?_ Dev.setDch_frame (by decide)
    assumption
    refine Frame.next ?_ Dev.descDone_frame (by decide)
    refine Frame.next ?_ Dev.setDch_frame (by decide)
    assumption
  have hp {d0 d l p} (h : Frame T d0 d) : Frame T d0 (put d l p) := by
    subst hT
    have h' := h.next (Dev.vwrite_frame (k := k) (n := n) (skip := p) (fuel := vpages len) (va := at' x.dst) (l := l)
      (done := 0)) (by decide)
    unfold put
    split
    · next h2 => rw [h2] at h'; exact he h'
    · next h2 => rw [h2] at h'; exact hs h'
  have hr {d0 d a} (h : Frame T d0 d) : Frame T d0 (Dev.vread d k n host pois (vpages len) a len [] []).2 := by
    subst hT
    exact h.next Dev.vread_frame (by decide)
  have hf {d0 d} (h : Frame T d0 d) : Frame T d0 (d.fabErr (1 + k) 0 1) := by
    subst hT
    exact h.next Dev.fabErr_frame (by decide)
  have hq {d0 : Dev} {d : Dev} {ps : List Nat} (h : Frame T d0 d) : Frame T d0 (if ps.isEmpty then d else d.fabErr (1 + k) 0 1) :=
    Frame.ite h (hf h)
  have h0 := Frame.refl T d
  refine Frame.ite (hp h0) ?_
  have h1 := hr (a := at' x.src) h0
  split
  · next l ps d1 h2 =>
    rw [h2] at h1
    dsimp only
    refine Frame.ite (hp (hq h1)) ?_
    have h3 := hr (a := at' x.dst) (hq (ps := ps) h1)
    split
    · next h4 => rw [h4] at h3; exact he (hq h3)
    · next h4 => rw [h4] at h3; exact hs h3
  · next v _ _ h2 => rw [h2] at h1; dsimp only at h1; exact hs (r := .fault v 0) h1
  · next t _ _ h2 => rw [h2] at h1; dsimp only at h1; exact hs (r := .wait t 0) h1

theorem Dev.descStep_frame {d k op len host pois}
    : Frame [.regs, .pba, .perr, .pirq, .live, .state, .errlog, .out, .plt, .acc, .bmf, .trg, .bur, .mctl, .fab, .dma,
      .mmu, .mem] d (Dev.descStep d k op len host pois) := by
  unfold Dev.descStep
  split
  exact Frame.refl _ _
  split
  refine Frame.of_snd (by assumption) ?_
  refine Frame.next ?_ Dev.dmaFetch_frame (by decide)
  exact Frame.refl _ _
  refine Frame.ite ?_ ?_
  exact Frame.refl _ _
  refine Frame.ite ?_ ?_
  refine Frame.of_snd (by assumption) ?_
  refine Frame.next ?_ Dev.dmaFetch_frame (by decide)
  exact Frame.refl _ _
  refine Frame.next ?_ Dev.descRun_frame (by decide)
  refine Frame.of_snd (by assumption) ?_
  refine Frame.next ?_ Dev.dmaFetch_frame (by decide)
  exact Frame.refl _ _

theorem Dev.chainPreempt_frame {d k host pois}
    : Frame [.regs, .pba, .perr, .pirq, .live, .state, .errlog, .out, .plt, .acc, .bmf, .trg, .bur, .mctl, .fab, .dma,
      .mmu, .mem] d (Dev.chainPreempt d k host pois) := by
  unfold Dev.chainPreempt
  split
  exact Frame.refl _ _
  refine Frame.ite ?_ ?_
  exact Frame.refl _ _
  refine Frame.ite ?_ ?_
  split
  refine Frame.ite ?_ ?_
  exact Frame.refl _ _
  refine Frame.next ?_ Dev.descRun_frame (by decide)
  exact Frame.refl _ _
  exact Frame.refl _ _
  refine Frame.next ?_ Dev.dmaPick_frame (by decide)
  refine Frame.next ?_ Dev.bump_frame (by decide)
  refine Frame.next ?_ Dev.setEng_frame (by decide)
  refine Frame.next ?_ Dev.setDch_frame (by decide)
  split
  refine Frame.ite ?_ ?_
  exact Frame.refl _ _
  refine Frame.next ?_ Dev.descRun_frame (by decide)
  exact Frame.refl _ _
  exact Frame.refl _ _

theorem Dev.readbackDone_frame {d k}
    : Frame [.regs, .pba, .perr, .pirq, .live, .state, .errlog, .out, .plt, .acc, .bmf, .trg, .bur, .mctl, .fab, .dma,
      .mmu, .mem] d (Dev.readbackDone d k) := by
  unfold Dev.readbackDone
  split
  exact Frame.refl _ _
  (dsimp only; split)
  exact Frame.refl _ _
  refine Frame.ite ?_ ?_
  exact Frame.refl _ _
  split
  refine Frame.next ?_ Dev.dmaFault_frame (by decide)
  refine Frame.of_snd (by assumption) ?_
  refine Frame.next ?_ Dev.vread_frame (by decide)
  exact Frame.refl _ _
  refine Frame.next ?_ Dev.setDch_frame (by decide)
  refine Frame.of_snd (by assumption) ?_
  refine Frame.next ?_ Dev.vread_frame (by decide)
  exact Frame.refl _ _
  refine Frame.next ?_ Dev.descOver_frame (by decide)
  refine Frame.next ?_ Dev.setDch_frame (by decide)
  refine Frame.of_snd (by assumption) ?_
  refine Frame.next ?_ Dev.vread_frame (by decide)
  exact Frame.refl _ _

theorem Dev.dmaQueue_frame {d k n} : Frame [.dma] d (Dev.dmaQueue d k n) := by
  unfold Dev.dmaQueue
  refine Frame.next ?_ Dev.dmaPick_frame (by decide)
  refine Frame.next ?_ Dev.setEng_frame (by decide)
  exact Frame.refl _ _

theorem Dev.dmaStart_frame {d k n} : Frame [.pba, .perr, .pirq, .errlog, .out, .dma] d (Dev.dmaStart d k n) := by
  unfold Dev.dmaStart
  refine Dev.guard_frame ?_ ?_ (by decide)
  exact Frame.refl _ _
  intro _ _
  refine Frame.next ?_ Dev.dmaQueue_frame (by decide)
  refine Frame.next ?_ Dev.setDch_frame (by decide)
  assumption

theorem Dev.dmaResume_frame {d k n} : Frame [.pba, .perr, .pirq, .errlog, .out, .dma] d (Dev.dmaResume d k n) := by
  unfold Dev.dmaResume
  refine Dev.guard_frame ?_ ?_ (by decide)
  exact Frame.refl _ _
  intro _ _
  refine Frame.next ?_ Dev.dmaQueue_frame (by decide)
  refine Frame.next ?_ Dev.setDch_frame (by decide)
  assumption

theorem Dev.dmaAbort_frame {d k n}
    : Frame [.regs, .pba, .perr, .pirq, .live, .state, .errlog, .out, .plt, .acc, .bmf, .trg, .bur, .mctl, .fab, .dma,
      .mmu, .mem] d (Dev.dmaAbort d k n) := by
  unfold Dev.dmaAbort
  refine Dev.guard_frame ?_ ?_ (by decide)
  exact Frame.refl _ _
  intro _ _
  refine Frame.next ?_ Dev.dmaHalt_frame (by decide)
  assumption

theorem Dev.dmaS6_frame {d}
    : Frame [.regs, .pba, .perr, .pirq, .live, .state, .errlog, .out, .plt, .acc, .bmf, .trg, .bur, .mctl, .fab, .dma,
      .mmu, .mem] d (Dev.dmaS6 d) := by
  unfold Dev.dmaS6
  refine Frame.foldl ?_ ?_
  exact Frame.refl _ _
  intro _ _ _
  refine Frame.foldl ?_ ?_
  assumption
  intro _ _ _
  refine Frame.ite ?_ ?_
  refine Frame.next ?_ Dev.dmaHalt_frame (by decide)
  assumption
  assumption

theorem Dev.dmaNoResp_frame {d k}
    : Frame [.regs, .pba, .perr, .pirq, .live, .state, .errlog, .out, .plt, .acc, .bmf, .trg, .bur, .mctl, .fab, .dma,
      .mmu, .mem] d (Dev.dmaNoResp d k) := by
  unfold Dev.dmaNoResp
  split
  refine Frame.next ?_ Dev.dmaHalt_frame (by decide)
  refine Frame.next ?_ Dev.bump_frame (by decide)
  exact Frame.refl _ _
  exact Frame.refl _ _

theorem Dev.fabricTimeout_frame {d master}
    : Frame [.regs, .pba, .perr, .pirq, .live, .state, .errlog, .out, .plt, .acc, .bmf, .trg, .bur, .mctl, .fab, .dma,
      .mmu, .mem] d (Dev.fabricTimeout d master) := by
  unfold Dev.fabricTimeout
  dsimp only
  refine Frame.ite ?_ ?_
  refine Frame.next ?_ Dev.dmaNoResp_frame (by decide)
  refine Frame.next ?_ Dev.fabTimeout_frame (by decide)
  exact Frame.refl _ _
  refine Frame.next ?_ Dev.fabTimeout_frame (by decide)
  exact Frame.refl _ _

theorem Dev.pcieTimeout_frame {d k n}
    : Frame [.regs, .pba, .perr, .pirq, .live, .state, .errlog, .out, .plt, .acc, .bmf, .trg, .bur, .mctl, .fab, .dma,
      .mmu, .mem] d (Dev.pcieTimeout d k n) := by
  unfold Dev.pcieTimeout
  refine Frame.ite ?_ ?_
  refine Frame.next ?_ Dev.dmaHalt_frame (by decide)
  refine Frame.next ?_ Dev.bump_frame (by decide)
  refine Frame.next ?_ Dev.bump_frame (by decide)
  exact Frame.refl _ _
  exact Frame.refl _ _

theorem Dev.dmaReset_frame {d k} : Frame [.fab, .dma] d (Dev.dmaReset d k) := by
  unfold Dev.dmaReset
  refine Frame.next ?_ Dev.portReset_frame (by decide)
  refine Frame.next ?_ Dev.setEng_frame (by decide)
  exact Frame.refl _ _

theorem Dev.chRegWrite_frame {d k n r v}
    : Frame [.regs, .pba, .perr, .pirq, .errlog, .out, .dma] d (Dev.chRegWrite d k n r v) := by
  unfold Dev.chRegWrite
  refine Dev.guard_frame ?_ ?_ (by decide)
  exact Frame.refl _ _
  intro _ _
  refine Frame.ite ?_ ?_
  refine Frame.next ?_ Dev.setDch_frame (by decide)
  refine Frame.setReg ?_ (by decide) (.inr (by decide))
  assumption
  refine Frame.setReg ?_ (by decide) (.inr (by decide))
  assumption

end Sys2Proof.Machine
end

