-- ==== Sys2Proof/Laws/FrameSys.lean ====
section
/-! SUPPORT. Frames, one lemma a function: registers, AON, burin cores, shedding, the run and resets. -/

namespace Sys2Proof.Machine

variable {T : List Part} {d0 : Dev}

/-! ### View -/

theorem Dev.sfnLatch_frame {d m} : Frame [.sys] d (Dev.sfnLatch d m) := by
  unfold Dev.sfnLatch
  refine Frame.upd_sys ?_ (.inl rfl) (.inl ⟨rfl, rfl⟩) (.inl ⟨rfl, rfl, rfl⟩) (.inl rfl) (.inr (by decide))
  exact Frame.refl _ _

theorem Dev.sfnRead_frame {d m o} : Frame [.sys] d (Dev.sfnRead d m o) := by
  unfold Dev.sfnRead
  refine Frame.ite ?_ ?_
  refine Frame.next ?_ Dev.sfnLatch_frame (by decide)
  exact Frame.refl _ _
  refine Frame.ite ?_ ?_
  refine Frame.upd_sys ?_ (.inl rfl) (.inl ⟨rfl, rfl⟩) (.inl ⟨rfl, rfl, rfl⟩) (.inl rfl) (.inr (by decide))
  exact Frame.refl _ _
  exact Frame.refl _ _

/-! ### Aon -/

theorem Dev.trigoutsLow_frame {d} : Frame [.out, .trg] d (Dev.trigoutsLow d) := by
  unfold Dev.trigoutsLow
  refine Frame.foldl ?_ ?_
  exact Frame.refl _ _
  intro _ _ _
  refine Frame.ite ?_ ?_
  refine Frame.next ?_ Dev.emit_frame (by decide)
  refine Frame.upd_trg ?_ (by decide)
  assumption
  assumption

theorem Dev.estop_frame {d src} : Frame [.pba, .pirq, .live, .out, .estop, .lnb, .trg, .pair] d (Dev.estop d src) := by
  unfold Dev.estop
  refine Frame.ite ?_ ?_
  exact Frame.refl _ _
  refine Frame.ite ?_ ?_
  refine Frame.upd_aon ?_ (.inr (by decide)) (.inl rfl)
  exact Frame.refl _ _
  refine Frame.next ?_ Dev.raise_frame (by decide)
  refine Frame.next ?_ Dev.giveUp_frame (by decide)
  refine Frame.next ?_ Dev.trigoutsLow_frame (by decide)
  refine Frame.upd_aon ?_ (.inr (by decide)) (.inl rfl)
  exact Frame.refl _ _

theorem Dev.txRestart_frame {d} : Frame [.lnb] d (Dev.txRestart d) := by
  unfold Dev.txRestart
  refine Frame.foldl ?_ ?_
  exact Frame.refl _ _
  intro _ _ _
  refine Frame.ite ?_ ?_
  refine Frame.next ?_ Dev.setLane_frame (by decide)
  assumption
  assumption

theorem Dev.estopEnd_frame {d} : Frame [.estop, .lnb, .bmf] d (Dev.estopEnd d) := by
  unfold Dev.estopEnd
  refine Frame.ite ?_ ?_
  refine Frame.next ?_ Dev.txRestart_frame (by decide)
  refine Frame.next ?_ Dev.egClear_frame (by decide)
  refine Frame.upd_aon ?_ (.inr (by decide)) (.inl rfl)
  exact Frame.refl _ _
  exact Frame.refl _ _

theorem Dev.estopWrite_frame {d v}
    : Frame [.pba, .perr, .pirq, .live, .errlog, .out, .estop, .lnb, .trg, .pair, .bmf] d (Dev.estopWrite d v) := by
  unfold Dev.estopWrite
  refine Dev.guard_frame ?_ ?_ (by decide)
  exact Frame.refl _ _
  intro _ _
  refine Frame.ite ?_ ?_
  refine Frame.next ?_ Dev.estop_frame (by decide)
  assumption
  refine Frame.ite ?_ ?_
  refine Frame.next ?_ Dev.estopEnd_frame (by decide)
  assumption
  assumption

theorem Dev.estopNFall_frame {d}
    : Frame [.pba, .pirq, .live, .out, .estop, .lnb, .trg, .pair] d (Dev.estopNFall d) := by
  unfold Dev.estopNFall
  refine Frame.next ?_ Dev.estop_frame (by decide)
  refine Frame.upd_aon ?_ (.inr (by decide)) (.inl rfl)
  exact Frame.refl _ _

theorem Dev.estopNRise_frame {d} : Frame [.estop] d (Dev.estopNRise d) := by
  unfold Dev.estopNRise
  refine Frame.upd_aon ?_ (.inr (by decide)) (.inl rfl)
  exact Frame.refl _ _

theorem Dev.freshWords_frame {d n} : Frame [.free] d (Dev.freshWords d n).2 := by
  induction n generalizing d with
  | zero => exact Frame.refl _ _
  | succ n ih => exact Dev.fresh_frame.trans ih

theorem Dev.snapTake_frame {d cause} : Frame [.aon, .free] d (Dev.snapTake d cause) := by
  unfold Dev.snapTake
  refine Frame.ite ?_ ?_
  refine Frame.upd_aon ?_ (.inl rfl) (.inr (by decide))
  exact Frame.refl _ _
  dsimp only
  refine Frame.upd_aon ?_ (.inl rfl) (.inr (by decide))
  refine Frame.next ?_ Dev.freshWords_frame (by decide)
  exact Frame.refl _ _

theorem Dev.snapDone_frame {d} : Frame [.pba, .pirq, .out, .aon] d (Dev.snapDone d) := by
  unfold Dev.snapDone
  refine Frame.ite ?_ ?_
  refine Frame.next ?_ Dev.raise_frame (by decide)
  refine Frame.upd_aon ?_ (.inl rfl) (.inr (by decide))
  exact Frame.refl _ _
  exact Frame.refl _ _

theorem Dev.snapClear_frame {d} : Frame [.aon] d (Dev.snapClear d) := by
  unfold Dev.snapClear
  refine Frame.upd_aon ?_ (.inl rfl) (.inr (by decide))
  exact Frame.refl _ _

theorem Dev.snapctlWrite_frame {d v}
    : Frame [.pba, .perr, .pirq, .errlog, .out, .aon, .free] d (Dev.snapctlWrite d v) := by
  unfold Dev.snapctlWrite
  refine Dev.guard_frame ?_ ?_ (by decide)
  exact Frame.refl _ _
  intro _ _
  refine Frame.ite ?_ ?_
  refine Frame.next ?_ Dev.snapTake_frame (by decide)
  refine Frame.ite ?_ ?_
  refine Frame.next ?_ Dev.snapClear_frame (by decide)
  refine Frame.upd_aon ?_ (.inl rfl) (.inr (by decide))
  assumption
  refine Frame.upd_aon ?_ (.inl rfl) (.inr (by decide))
  assumption
  refine Frame.ite ?_ ?_
  refine Frame.next ?_ Dev.snapClear_frame (by decide)
  refine Frame.upd_aon ?_ (.inl rfl) (.inr (by decide))
  assumption
  refine Frame.upd_aon ?_ (.inl rfl) (.inr (by decide))
  assumption

theorem Dev.settle_frame {d} : Frame [.pba, .pirq, .live, .out, .aon, .lnb, .pair, .mctl, .free] d (Dev.settle d) := by
  unfold Dev.settle
  refine Frame.next ?_ Dev.pairSync_frame (by decide)
  refine Frame.ite ?_ ?_
  refine Frame.ite ?_ ?_
  refine Frame.next ?_ Dev.snapTake_frame (by decide)
  refine Frame.upd_mctl ?_ (by decide)
  exact Frame.refl _ _
  refine Frame.upd_mctl ?_ (by decide)
  exact Frame.refl _ _
  exact Frame.refl _ _

theorem Dev.setAonPort_frame {d i3c p} : Frame [.aon] d (Dev.setAonPort d i3c p) := by
  unfold Dev.setAonPort
  refine Frame.ite ?_ ?_
  refine Frame.upd_aon ?_ (.inl rfl) (.inr (by decide))
  exact Frame.refl _ _
  refine Frame.upd_aon ?_ (.inl rfl) (.inr (by decide))
  exact Frame.refl _ _

theorem Dev.aonResult_frame {d i3c c} : Frame [.aon] d (Dev.aonResult d i3c c) := by
  unfold Dev.aonResult
  refine Frame.next ?_ Dev.setAonPort_frame (by decide)
  exact Frame.refl _ _

theorem Dev.aonOp_frame {d i3c errs f3}
    (h : Frame T d0 d) (hf : ∀ e, Frame T d0 e → Frame T d0 (f3 e)) (hT : [.aon] ⊆ T) : Frame T d0 (Dev.aonOp d i3c
      errs f3) := by
  unfold Dev.aonOp
  split
  refine Frame.next ?_ Dev.aonResult_frame (List.Subset.trans (by decide) hT)
  assumption
  refine Frame.next ?_ Dev.aonResult_frame (List.Subset.trans (by decide) hT)
  refine hf _ ?_
  assumption

theorem Dev.aonStart_frame {d i3c cmd addr f4}
    (h : Frame T d0 d) (hf : ∀ e, Frame T d0 e → Frame T d0 (f4 e)) (hT : [.aon] ⊆ T) : Frame T d0 (Dev.aonStart d i3c
      cmd addr f4) := by
  unfold Dev.aonStart
  refine Frame.ite ?_ ?_
  refine hf _ ?_
  refine Frame.next ?_ Dev.setAonPort_frame (List.Subset.trans (by decide) hT)
  assumption
  assumption

theorem Dev.aonRead_frame {d i3c page} : Frame [.sys, .aon] d (Dev.aonRead d i3c page) := by
  unfold Dev.aonRead
  refine Dev.aonOp_frame ?_ ?_ (by decide)
  exact Frame.refl _ _
  intro _ _
  refine Frame.next ?_ Dev.setAonPort_frame (by decide)
  refine Frame.ite ?_ ?_
  refine Frame.next ?_ Dev.sfnRead_frame (by decide)
  assumption
  assumption

theorem Dev.aonEstop_frame {d i3c}
    : Frame [.pba, .pirq, .live, .out, .estop, .aon, .lnb, .trg, .pair] d (Dev.aonEstop d i3c) := by
  unfold Dev.aonEstop
  refine Dev.aonOp_frame ?_ ?_ (by decide)
  exact Frame.refl _ _
  intro _ _
  refine Frame.next ?_ Dev.estop_frame (by decide)
  assumption

theorem Dev.aonRelease_frame {d i3c} : Frame [.estop, .aon, .lnb, .bmf] d (Dev.aonRelease d i3c) := by
  unfold Dev.aonRelease
  refine Dev.aonOp_frame ?_ ?_ (by decide)
  exact Frame.refl _ _
  intro _ _
  refine Frame.next ?_ Dev.estopEnd_frame (by decide)
  assumption

theorem Dev.aonSnapTake_frame {d i3c} : Frame [.aon, .free] d (Dev.aonSnapTake d i3c) := by
  unfold Dev.aonSnapTake
  refine Dev.aonOp_frame ?_ ?_ (by decide)
  exact Frame.refl _ _
  intro _ _
  refine Frame.next ?_ Dev.snapTake_frame (by decide)
  assumption

theorem Dev.aonSnapClear_frame {d i3c} : Frame [.aon] d (Dev.aonSnapClear d i3c) := by
  unfold Dev.aonSnapClear
  refine Dev.aonOp_frame ?_ ?_ (by decide)
  exact Frame.refl _ _
  intro _ _
  refine Frame.next ?_ Dev.snapClear_frame (by decide)
  assumption

theorem Dev.aonReadSnap_frame {d i3c} : Frame [.aon] d (Dev.aonReadSnap d i3c) := by
  unfold Dev.aonReadSnap
  refine Dev.aonOp_frame ?_ ?_ (by decide)
  exact Frame.refl _ _
  intro _ _
  refine Frame.next ?_ Dev.setAonPort_frame (by decide)
  assumption

/-! ### Bur -/

theorem Dev.burDevRead_some {d c a v bad e} (h : Dev.burDevRead d c a = some (v, bad, e)) :
    Frame [.pba, .pirq, .live, .state, .errlog, .out, .plt, .acc, .mctl, .fab, .mem] d e := by
  have key {b w e'} (h : some (b, w, e') = some (v, bad, e)) : e' = e := by
    injection h with h; injection h with _ h; injection h
  unfold Dev.burDevRead at h
  split at h
  · generalize halfOf _ _ = hw at h
    dsimp only at h
    split at h
    · rw [← key h]; exact Frame.refl _ _
    · cases h
  · split at h
    · split at h
      · split at h
        · rw [← key h]; exact Dev.fabErr_frame.mono (by decide)
        · dsimp only at h
          split at h
          · rw [← key h]
            exact ((Dev.fabAccept_frame.mono (by decide)).next Dev.memRead_frame (by decide)).next Dev.fabErr_frame
              (by decide)
          · rw [← key h]; exact (Dev.fabAccept_frame.mono (by decide)).next Dev.memRead_frame (by decide)
      · split at h
        · rw [← key h]; exact Dev.fabErr_frame.mono (by decide)
        · dsimp only at h
          split at h
          · rw [← key h]
            exact ((Dev.fabAccept_frame.mono (by decide)).next Dev.memRead_frame (by decide)).next Dev.fabErr_frame
              (by decide)
          · rw [← key h]; exact (Dev.fabAccept_frame.mono (by decide)).next Dev.memRead_frame (by decide)
      · rw [← key h]; exact Frame.refl _ _
    · cases h

theorem Dev.bmfShadowWrite_frame {d o v}
    : Frame [.regs, .pba, .perr, .pirq, .errlog, .out] d (Dev.bmfShadowWrite d o v) := by
  unfold Dev.bmfShadowWrite
  refine Dev.guard_frame ?_ ?_ (by decide)
  exact Frame.refl _ _
  intro _ _
  refine Frame.setReg ?_ (by decide) (.inr (by decide))
  assumption

theorem Dev.burDevWrite_some {d c a v bad e} (h : Dev.burDevWrite d c a v = some (bad, e)) :
    Frame [.regs, .pba, .perr, .pirq, .live, .state, .errlog, .out, .monword, .plt, .acc, .bmf, .trg, .mctl, .fab, .mem] d
      e := by
  have key {b e'} (h : some (b, e') = some (bad, e)) : e' = e := by injection h with h; injection h
  unfold Dev.burDevWrite at h
  dsimp only at h
  split at h
  · split at h
    · rw [← key h]; exact (Frame.refl _ _).upd_monword (by decide)
    · split at h
      · rw [← key h]; exact Dev.bmfShadowWrite_frame.mono (by decide)
      · cases h
  · split at h
    · split at h
      · rw [← key h]; exact Dev.fabErr_frame.mono (by decide)
      · rw [← key h]; exact (Dev.fabAccept_frame.mono (by decide)).next Dev.memWrite_frame (by decide)
    · split at h
      · split at h
        · rw [← key h]; exact Dev.bmfTableWrite_frame.mono (by decide)
        · cases h
      · split at h
        · rw [← key h]; exact Dev.trgTableWrite_frame.mono (by decide)
        · cases h
      · cases h

theorem Dev.setFe_frame {d c b} : Frame [.bur] d (Dev.setFe d c b) := by
  unfold Dev.setFe
  refine Frame.ite ?_ ?_
  refine Frame.next ?_ Dev.setCore_frame (by decide)
  exact Frame.refl _ _
  exact Frame.refl _ _

theorem Dev.setPorts_frame {d c p} : Frame [.bur] d (Dev.setPorts d c p) := by
  unfold Dev.setPorts
  refine Frame.next ?_ Dev.setCore_frame (by decide)
  exact Frame.refl _ _

theorem Dev.cmtGo_frame {d c num}
    : Frame [.regs, .pba, .act, .hdr, .pirq, .live, .out, .time, .msp, .lnb, .run, .ing, .acc, .bmf, .trg, .bur, .mem]
      d (Dev.cmtGo d c num) := by
  unfold Dev.cmtGo
  split
  refine Frame.next ?_ Dev.raise_frame (by decide)
  refine Frame.next ?_ Dev.burCnt_frame (by decide)
  refine Frame.next ?_ Dev.setPorts_frame (by decide)
  exact Frame.refl _ _
  refine Frame.next ?_ Dev.armTicket_frame (by decide)
  refine Frame.next ?_ Dev.burCnt_frame (by decide)
  refine Frame.next ?_ Dev.setPorts_frame (by decide)
  exact Frame.refl _ _

theorem Dev.swPost_frame {d c} : Frame [.live, .trg] d (Dev.swPost d c) := by
  unfold Dev.swPost
  refine Frame.ite ?_ ?_
  refine Frame.next ?_ Dev.burCnt_frame (by decide)
  refine Frame.upd_trg ?_ (by decide)
  exact Frame.refl _ _
  refine Frame.next ?_ Dev.burCnt_frame (by decide)
  exact Frame.refl _ _

theorem Dev.xfGo_frame {d c dir} : Frame [.live, .bur] d (Dev.xfGo d c dir) := by
  unfold Dev.xfGo
  refine Frame.ite ?_ ?_
  refine Frame.next ?_ Dev.burCnt_frame (by decide)
  exact Frame.refl _ _
  refine Frame.next ?_ Dev.setPorts_frame (by decide)
  exact Frame.refl _ _

theorem Dev.xfWord_frame {d c i}
    : Frame [.regs, .pba, .perr, .pirq, .live, .state, .errlog, .out, .monword, .plt, .acc, .bmf, .trg, .bur, .mctl,
      .fab, .mem] d (Dev.xfWord d c i) := by
  unfold Dev.xfWord
  refine Frame.ite ?_ ?_
  split
  refine Frame.ite ?_ ?_
  refine Frame.next ?_ Dev.setPorts_frame (by decide)
  refine Frame.next ?_ (Dev.burDevWrite_some (by assumption)) (by decide)
  exact Frame.refl _ _
  refine Frame.next ?_ (Dev.burDevWrite_some (by assumption)) (by decide)
  exact Frame.refl _ _
  refine Frame.next ?_ Dev.setPorts_frame (by decide)
  exact Frame.refl _ _
  split
  refine Frame.ite ?_ ?_
  refine Frame.next ?_ Dev.setPorts_frame (by decide)
  refine Frame.next ?_ Dev.setCore_frame (by decide)
  refine Frame.next ?_ (Dev.burDevRead_some (by assumption)) (by decide)
  exact Frame.refl _ _
  refine Frame.next ?_ Dev.setCore_frame (by decide)
  refine Frame.next ?_ (Dev.burDevRead_some (by assumption)) (by decide)
  exact Frame.refl _ _
  refine Frame.next ?_ Dev.setPorts_frame (by decide)
  refine Frame.next ?_ Dev.setCore_frame (by decide)
  exact Frame.refl _ _

theorem Dev.xfDone_frame {d c}
    : Frame [.regs, .pba, .perr, .pirq, .live, .state, .errlog, .out, .monword, .plt, .acc, .bmf, .trg, .bur, .mctl,
      .fab, .mem] d (Dev.xfDone d c) := by
  unfold Dev.xfDone
  refine Frame.ite ?_ ?_
  refine Frame.next ?_ Dev.setFe_frame (by decide)
  refine Frame.next ?_ Dev.setPorts_frame (by decide)
  refine Frame.foldl ?_ ?_
  exact Frame.refl _ _
  intro _ _ _
  refine Frame.next ?_ Dev.xfWord_frame (by decide)
  assumption
  exact Frame.refl _ _

theorem Dev.mbxPop_frame {d c} : Frame [.bur] d (Dev.mbxPop d c).2 := by
  unfold Dev.mbxPop
  (dsimp only; split)
  exact Frame.refl _ _
  refine Frame.next ?_ Dev.setCore_frame (by decide)
  exact Frame.refl _ _

theorem Dev.portRead_frame {d c a} : Frame [.bur, .free] d (Dev.portRead d c a).2 := by
  unfold Dev.portRead
  refine Frame.ite_snd ?_ ?_
  refine Frame.next ?_ Dev.mbxPop_frame (by decide)
  exact Frame.refl _ _
  refine Frame.ite_snd ?_ ?_
  exact Frame.refl _ _
  refine Frame.ite_snd ?_ ?_
  refine Frame.next ?_ Dev.setPorts_frame (by decide)
  exact Frame.refl _ _
  refine Frame.ite_snd ?_ ?_
  exact Frame.refl _ _
  refine Frame.ite_snd ?_ ?_
  exact Frame.refl _ _
  refine Frame.ite_snd ?_ ?_
  exact Frame.refl _ _
  refine Frame.ite_snd ?_ ?_
  exact Frame.refl _ _
  refine Frame.ite_snd ?_ ?_
  exact Frame.refl _ _
  refine Frame.ite_snd ?_ ?_
  exact Frame.refl _ _
  refine Frame.ite_snd ?_ ?_
  exact Frame.refl _ _
  refine Frame.ite_snd ?_ ?_
  exact Frame.refl _ _
  refine Frame.ite_snd ?_ ?_
  exact Frame.refl _ _
  refine Frame.ite_snd ?_ ?_
  exact Frame.refl _ _
  refine Frame.ite_snd ?_ ?_
  exact Frame.refl _ _
  refine Frame.ite_snd ?_ ?_
  exact Frame.refl _ _
  refine Frame.ite_snd ?_ ?_
  exact Frame.refl _ _
  dsimp only
  refine Frame.next ?_ Dev.fresh_frame (by decide)
  exact Frame.refl _ _

theorem Dev.portWrite_frame {d c a v}
    : Frame [.regs, .pba, .act, .hdr, .pirq, .live, .out, .time, .msp, .lnb, .run, .ing, .acc, .bmf, .trg, .bur, .mem]
      d (Dev.portWrite d c a v) := by
  unfold Dev.portWrite
  refine Frame.ite ?_ ?_
  refine Frame.next ?_ Dev.setPorts_frame (by decide)
  exact Frame.refl _ _
  refine Frame.ite ?_ ?_
  refine Frame.next ?_ Dev.setPorts_frame (by decide)
  exact Frame.refl _ _
  refine Frame.ite ?_ ?_
  refine Frame.next ?_ Dev.setPorts_frame (by decide)
  exact Frame.refl _ _
  refine Frame.ite ?_ ?_
  refine Frame.next ?_ Dev.cmtGo_frame (by decide)
  exact Frame.refl _ _
  refine Frame.ite ?_ ?_
  refine Frame.next ?_ Dev.setPorts_frame (by decide)
  exact Frame.refl _ _
  refine Frame.ite ?_ ?_
  refine Frame.next ?_ Dev.setPorts_frame (by decide)
  exact Frame.refl _ _
  refine Frame.ite ?_ ?_
  refine Frame.next ?_ Dev.swPost_frame (by decide)
  exact Frame.refl _ _
  refine Frame.ite ?_ ?_
  refine Frame.next ?_ Dev.setPorts_frame (by decide)
  exact Frame.refl _ _
  refine Frame.ite ?_ ?_
  refine Frame.next ?_ Dev.setPorts_frame (by decide)
  exact Frame.refl _ _
  refine Frame.ite ?_ ?_
  refine Frame.next ?_ Dev.setPorts_frame (by decide)
  exact Frame.refl _ _
  refine Frame.ite ?_ ?_
  refine Frame.next ?_ Dev.xfGo_frame (by decide)
  exact Frame.refl _ _
  refine Frame.ite ?_ ?_
  refine Frame.next ?_ Dev.setPorts_frame (by decide)
  exact Frame.refl _ _
  refine Frame.ite ?_ ?_
  refine Frame.next ?_ Dev.setCore_frame (by decide)
  refine Frame.next ?_ Dev.setPorts_frame (by decide)
  exact Frame.refl _ _
  exact Frame.refl _ _

theorem Dev.burLoad_frame {d c a}
    : Frame [.pba, .pirq, .live, .state, .errlog, .out, .plt, .acc, .bur, .mctl, .fab, .mem, .free] d (Dev.burLoad d c
      a).2 := by
  unfold Dev.burLoad
  refine Frame.ite_snd ?_ ?_
  exact Frame.refl _ _
  refine Frame.ite_snd ?_ ?_
  dsimp only
  refine Frame.next ?_ Dev.portRead_frame (by decide)
  exact Frame.refl _ _
  refine Frame.ite_snd ?_ ?_
  exact Frame.refl _ _
  split
  refine Frame.next ?_ Dev.setFe_frame (by decide)
  refine Frame.next ?_ (Dev.burDevRead_some (by assumption)) (by decide)
  exact Frame.refl _ _
  exact Frame.refl _ _

theorem Dev.burStore_frame {d c a v}
    : Frame [.regs, .pba, .act, .hdr, .perr, .pirq, .live, .state, .errlog, .out, .time, .msp, .monword, .lnb, .plt,
      .run, .ing, .acc, .bmf, .trg, .bur, .mctl, .fab, .mem] d (Dev.burStore d c a v).2 := by
  unfold Dev.burStore
  refine Frame.ite_snd ?_ ?_
  refine Frame.next ?_ Dev.setCore_frame (by decide)
  exact Frame.refl _ _
  refine Frame.ite_snd ?_ ?_
  refine Frame.next ?_ Dev.portWrite_frame (by decide)
  exact Frame.refl _ _
  refine Frame.ite_snd ?_ ?_
  exact Frame.refl _ _
  split
  refine Frame.next ?_ Dev.setFe_frame (by decide)
  refine Frame.next ?_ (Dev.burDevWrite_some (by assumption)) (by decide)
  exact Frame.refl _ _
  exact Frame.refl _ _

theorem Dev.free16_frame {d} : Frame [.free] d (Dev.free16 d).2 := by
  unfold Dev.free16
  dsimp only
  refine Frame.next ?_ Dev.fresh_frame (by decide)
  exact Frame.refl _ _

theorem Dev.rdD_frame {d b i} : Frame [.free] d (Dev.rdD d b i).2 := by
  unfold Dev.rdD
  refine Frame.ite_snd ?_ ?_
  refine Frame.next ?_ Dev.free16_frame (by decide)
  exact Frame.refl _ _
  exact Frame.refl _ _

theorem Dev.rdA_frame {d b i} : Frame [.free] d (Dev.rdA d b i).2 := by
  unfold Dev.rdA
  refine Frame.ite_snd ?_ ?_
  refine Frame.next ?_ Dev.free16_frame (by decide)
  exact Frame.refl _ _
  exact Frame.refl _ _

theorem Dev.rdM_frame {d b i} : Frame [.free] d (Dev.rdM d b i).2 := by
  unfold Dev.rdM
  refine Frame.ite_snd ?_ ?_
  refine Frame.next ?_ Dev.free16_frame (by decide)
  exact Frame.refl _ _
  exact Frame.refl _ _

theorem Dev.rdS_frame {d b x2} : Frame [.free] d (Dev.rdS d b x2).2 := by
  unfold Dev.rdS
  split
  refine Frame.next ?_ Dev.rdD_frame (by decide)
  exact Frame.refl _ _
  exact Frame.refl _ _

theorem Dev.aluOp_frame {d b op dd da s} : Frame [.free] d (Dev.aluOp d b op dd da s).2 := by
  unfold Dev.aluOp
  dsimp only
  split
  refine Frame.next ?_ Dev.rdS_frame (by decide)
  refine Frame.next ?_ Dev.rdD_frame (by decide)
  exact Frame.refl _ _
  refine Frame.next ?_ Dev.fresh_frame (by decide)
  refine Frame.next ?_ Dev.rdS_frame (by decide)
  refine Frame.next ?_ Dev.rdD_frame (by decide)
  exact Frame.refl _ _

theorem Dev.macLoad_frame {d c b l}
    : Frame [.pba, .pirq, .live, .state, .errlog, .out, .plt, .acc, .bur, .mctl, .fab, .mem, .free] d (Dev.macLoad d c
      b l).2 := by
  unfold Dev.macLoad
  split
  exact Frame.refl _ _
  dsimp only
  split
  refine Frame.of_snd (by assumption) ?_
  refine Frame.next ?_ Dev.burLoad_frame (by decide)
  refine Frame.next ?_ Dev.rdM_frame (by decide)
  refine Frame.next ?_ Dev.rdA_frame (by decide)
  exact Frame.refl _ _
  refine Frame.of_snd (by assumption) ?_
  refine Frame.next ?_ Dev.burLoad_frame (by decide)
  refine Frame.next ?_ Dev.rdM_frame (by decide)
  refine Frame.next ?_ Dev.rdA_frame (by decide)
  exact Frame.refl _ _

theorem Dev.macOp_frame {d c b one da db l f7}
    : Frame [.pba, .pirq, .live, .state, .errlog, .out, .plt, .acc, .bur, .mctl, .fab, .mem, .free] d (Dev.macOp d c b
      one da db l f7).2 := by
  unfold Dev.macOp
  dsimp only
  split
  refine Frame.of_snd (by assumption) ?_
  refine Frame.next ?_ Dev.macLoad_frame (by decide)
  refine Frame.next ?_ Dev.rdD_frame (by decide)
  refine Frame.next ?_ Dev.rdD_frame (by decide)
  exact Frame.refl _ _
  split
  refine Frame.of_snd (by assumption) ?_
  refine Frame.next ?_ Dev.macLoad_frame (by decide)
  refine Frame.of_snd (by assumption) ?_
  refine Frame.next ?_ Dev.macLoad_frame (by decide)
  refine Frame.next ?_ Dev.rdD_frame (by decide)
  refine Frame.next ?_ Dev.rdD_frame (by decide)
  exact Frame.refl _ _
  split
  refine Frame.ite_snd ?_ ?_
  refine Frame.next ?_ Dev.free16_frame (by decide)
  refine Frame.of_snd (by assumption) ?_
  refine Frame.next ?_ Dev.macLoad_frame (by decide)
  refine Frame.of_snd (by assumption) ?_
  refine Frame.next ?_ Dev.macLoad_frame (by decide)
  refine Frame.next ?_ Dev.rdD_frame (by decide)
  refine Frame.next ?_ Dev.rdD_frame (by decide)
  exact Frame.refl _ _
  refine Frame.of_snd (by assumption) ?_
  refine Frame.next ?_ Dev.macLoad_frame (by decide)
  refine Frame.of_snd (by assumption) ?_
  refine Frame.next ?_ Dev.macLoad_frame (by decide)
  refine Frame.next ?_ Dev.rdD_frame (by decide)
  refine Frame.next ?_ Dev.rdD_frame (by decide)
  exact Frame.refl _ _
  refine Frame.of_snd (by assumption) ?_
  refine Frame.next ?_ Dev.macLoad_frame (by decide)
  refine Frame.of_snd (by assumption) ?_
  refine Frame.next ?_ Dev.macLoad_frame (by decide)
  refine Frame.next ?_ Dev.rdD_frame (by decide)
  refine Frame.next ?_ Dev.rdD_frame (by decide)
  exact Frame.refl _ _

theorem Dev.memAddr_frame {d b ai pm ofs} : Frame [.free] d (Dev.memAddr d b ai pm ofs).2.2.2 := by
  unfold Dev.memAddr
  dsimp only
  split
  · refine Frame.next ?_ Dev.rdM_frame (by decide)
    refine Frame.next ?_ Dev.rdA_frame (by decide)
    exact Frame.refl _ _
  · refine Frame.next ?_ Dev.rdA_frame (by decide)
    exact Frame.refl _ _

theorem Dev.rdSpec_frame {d b x2} : Frame [.free] d (Dev.rdSpec d b x2).2 := by
  unfold Dev.rdSpec
  split
  refine Frame.next ?_ Dev.rdA_frame (by decide)
  exact Frame.refl _ _
  refine Frame.next ?_ Dev.rdM_frame (by decide)
  exact Frame.refl _ _
  exact Frame.refl _ _
  exact Frame.refl _ _
  exact Frame.refl _ _
  exact Frame.refl _ _
  exact Frame.refl _ _

theorem Dev.wrSpec_frame {d b v x3} : Frame [.free] d (Dev.wrSpec d b v x3).2.2 := by
  unfold Dev.wrSpec
  split
  exact Frame.refl _ _
  exact Frame.refl _ _
  exact Frame.refl _ _
  exact Frame.refl _ _
  exact Frame.refl _ _
  exact Frame.refl _ _
  dsimp only
  refine Frame.next ?_ Dev.free16_frame (by decide)
  exact Frame.refl _ _

theorem Dev.loopOp_frame {d b n len} : Frame [.free] d (Dev.loopOp d b n len).2 := by
  unfold Dev.loopOp
  refine Frame.ite_snd ?_ ?_
  exact Frame.refl _ _
  dsimp only
  split
  refine Frame.next ?_ Dev.rdD_frame (by decide)
  exact Frame.refl _ _
  exact Frame.refl _ _

theorem Dev.sigOp_frame {d c w} : Frame [.pba, .pirq, .live, .out, .bur] d (Dev.sigOp d c w) := by
  unfold Dev.sigOp
  refine Frame.ite ?_ ?_
  refine Frame.next ?_ Dev.burCnt_frame (by decide)
  exact Frame.refl _ _
  refine Frame.ite ?_ ?_
  refine Frame.next ?_ Dev.raise_frame (by decide)
  refine Frame.next ?_ Dev.setCore_frame (by decide)
  exact Frame.refl _ _
  refine Frame.next ?_ Dev.setCore_frame (by decide)
  exact Frame.refl _ _

theorem Dev.burEffect_frame {d c op}
    : Frame [.regs, .pba, .act, .hdr, .perr, .pirq, .live, .state, .errlog, .out, .time, .msp, .monword, .lnb, .plt,
      .run, .ing, .acc, .bmf, .trg, .bur, .mctl, .fab, .mem, .free] d (Dev.burEffect d c op).2 := by
  unfold Dev.burEffect
  split
  exact Frame.refl _ _
  refine Frame.next ?_ Dev.aluOp_frame (by decide)
  exact Frame.refl _ _
  dsimp only
  refine Frame.next ?_ Dev.rdS_frame (by decide)
  refine Frame.next ?_ Dev.rdD_frame (by decide)
  exact Frame.refl _ _
  refine Frame.next ?_ Dev.macOp_frame (by decide)
  exact Frame.refl _ _
  refine Frame.next ?_ Dev.macOp_frame (by decide)
  exact Frame.refl _ _
  exact Frame.refl _ _
  exact Frame.refl _ _
  exact Frame.refl _ _
  exact Frame.refl _ _
  dsimp only
  refine Frame.next ?_ Dev.rdD_frame (by decide)
  exact Frame.refl _ _
  dsimp only
  split
  refine Frame.of_snd (by assumption) ?_
  refine Frame.next ?_ Dev.burLoad_frame (by decide)
  refine Frame.next ?_ Dev.memAddr_frame (by decide)
  exact Frame.refl _ _
  refine Frame.of_snd (by assumption) ?_
  refine Frame.next ?_ Dev.burLoad_frame (by decide)
  refine Frame.next ?_ Dev.memAddr_frame (by decide)
  exact Frame.refl _ _
  dsimp only
  split
  refine Frame.of_snd (by assumption) ?_
  refine Frame.next ?_ Dev.burStore_frame (by decide)
  refine Frame.next ?_ Dev.memAddr_frame (by decide)
  refine Frame.next ?_ Dev.rdD_frame (by decide)
  exact Frame.refl _ _
  refine Frame.of_snd (by assumption) ?_
  refine Frame.next ?_ Dev.burStore_frame (by decide)
  refine Frame.next ?_ Dev.memAddr_frame (by decide)
  refine Frame.next ?_ Dev.rdD_frame (by decide)
  exact Frame.refl _ _
  exact Frame.refl _ _
  refine Frame.ite_snd ?_ ?_
  dsimp only
  refine Frame.next ?_ Dev.wrSpec_frame (by decide)
  refine Frame.next ?_ Dev.rdD_frame (by decide)
  exact Frame.refl _ _
  dsimp only
  refine Frame.next ?_ Dev.rdSpec_frame (by decide)
  exact Frame.refl _ _
  exact Frame.refl _ _
  exact Frame.refl _ _
  exact Frame.refl _ _
  refine Frame.next ?_ Dev.loopOp_frame (by decide)
  exact Frame.refl _ _
  exact Frame.refl _ _
  exact Frame.refl _ _
  dsimp only
  refine Frame.next ?_ Dev.sigOp_frame (by decide)
  refine Frame.next ?_ Dev.rdD_frame (by decide)
  exact Frame.refl _ _
  refine Frame.ite ?_ ?_
  refine Frame.next ?_ Dev.setCore_frame (by decide)
  exact Frame.refl _ _
  exact Frame.refl _ _
  exact Frame.refl _ _

theorem Dev.burWait_frame {d c} : Frame [.live, .bur] d (Dev.burWait d c) := by
  unfold Dev.burWait
  refine Frame.ite ?_ ?_
  refine Frame.next ?_ Dev.burCnt_frame (by decide)
  refine Frame.next ?_ Dev.setCore_frame (by decide)
  exact Frame.refl _ _
  refine Frame.next ?_ Dev.setCore_frame (by decide)
  exact Frame.refl _ _

theorem Dev.burRti_frame {d c} : Frame [.bur] d (Dev.burRti d c) := by
  unfold Dev.burRti
  refine Frame.next ?_ Dev.setCore_frame (by decide)
  exact Frame.refl _ _

theorem Dev.burRun_of {d c op} (h : Frame T d0 d) (hf : ∀ e, Frame T d0 e → Frame T d0 (e.burEffect c op).2)
    (hT : [.pba, .pirq, .live, .out, .bur] ⊆ T) : Frame T d0 (Dev.burRun d c op) := by
  have h1 := hf _ (h.next (Dev.setCore_frame (c := c)
    (x := { d.core c with cyc := (d.core c).cyc + (d.core c).cyclesOf op })) (List.Subset.trans (by decide) hT))
  unfold Dev.burRun
  dsimp only
  split
  · exact h1.next Dev.burFault_frame (List.Subset.trans (by decide) hT)
  · exact h1.next Dev.burWait_frame (List.Subset.trans (by decide) hT)
  · exact h1.next Dev.burRti_frame (List.Subset.trans (by decide) hT)
  · exact h1.next Dev.setCore_frame (List.Subset.trans (by decide) hT)

theorem Dev.burRun_frame {d c op}
    : Frame [.regs, .pba, .act, .hdr, .perr, .pirq, .live, .state, .errlog, .out, .time, .msp, .monword, .lnb, .plt,
      .run, .ing, .acc, .bmf, .trg, .bur, .mctl, .fab, .mem, .free] d (Dev.burRun d c op) :=
  Dev.burRun_of (Frame.refl _ _) (fun _ he => he.next Dev.burEffect_frame (by decide)) (by decide)

theorem Dev.burExec_of {d c op} (h : Frame T d0 d) (hf : ∀ e, Frame T d0 e → Frame T d0 (e.burEffect c op).2)
    (hT : [.pba, .pirq, .live, .out, .bur] ⊆ T) : Frame T d0 (Dev.burExec d c op) := by
  unfold Dev.burExec
  refine Frame.ite ?_ h
  split
  · exact h.next Dev.burFault_frame (List.Subset.trans (by decide) hT)
  · next o _ =>
    by_cases ho : o = op
    · subst ho; rw [if_pos rfl]; exact Dev.burRun_of h hf hT
    · rw [if_neg ho]; exact h

theorem Dev.burExec_frame {d c op}
    : Frame [.regs, .pba, .act, .hdr, .perr, .pirq, .live, .state, .errlog, .out, .time, .msp, .monword, .lnb, .plt,
      .run, .ing, .acc, .bmf, .trg, .bur, .mctl, .fab, .mem, .free] d (Dev.burExec d c op) :=
  Dev.burExec_of (Frame.refl _ _) (fun _ he => he.next Dev.burEffect_frame (by decide)) (by decide)

theorem Dev.burSingle_frame {d c}
    : Frame [.regs, .pba, .act, .hdr, .perr, .pirq, .live, .state, .errlog, .out, .time, .msp, .monword, .lnb, .plt,
      .run, .ing, .acc, .bmf, .trg, .bur, .mctl, .fab, .mem, .free] d (Dev.burSingle d c) := by
  unfold Dev.burSingle
  refine Frame.ite ?_ ?_
  refine Frame.next ?_ Dev.setCore_frame (by decide)
  split
  refine Frame.next ?_ Dev.burRun_frame (by decide)
  refine Frame.next ?_ Dev.setCore_frame (by decide)
  exact Frame.refl _ _
  refine Frame.next ?_ Dev.burFault_frame (by decide)
  refine Frame.next ?_ Dev.setCore_frame (by decide)
  exact Frame.refl _ _
  exact Frame.refl _ _

theorem Dev.burActivate_frame {d c} : Frame [.bur, .free] d (Dev.burActivate d c) := by
  unfold Dev.burActivate
  refine Frame.ite ?_ ?_
  exact Frame.refl _ _
  split
  exact Frame.refl _ _
  split
  exact Frame.refl _ _
  dsimp only
  refine Frame.next ?_ Dev.setCore_frame (by decide)
  refine Frame.ite_snd ?_ ?_
  refine Frame.next ?_ Dev.free16_frame (by decide)
  exact Frame.refl _ _
  exact Frame.refl _ _

theorem Dev.burIrq_frame {d c} : Frame [.live, .bur] d (Dev.burIrq d c) := by
  unfold Dev.burIrq
  refine Frame.ite ?_ ?_
  exact Frame.refl _ _
  split
  exact Frame.refl _ _
  refine Frame.next ?_ Dev.burCnt_frame (by decide)
  refine Frame.next ?_ Dev.setCore_frame (by decide)
  exact Frame.refl _ _

theorem Dev.burTimer_frame {d c} : Frame [.bur] d (Dev.burTimer d c) := by
  unfold Dev.burTimer
  refine Frame.ite ?_ ?_
  exact Frame.refl _ _
  refine Frame.next ?_ Dev.setCore_frame (by decide)
  exact Frame.refl _ _

theorem Dev.mbxinWrite_frame {d c v} : Frame [.pba, .perr, .pirq, .errlog, .out, .bur] d (Dev.mbxinWrite d c v) := by
  unfold Dev.mbxinWrite
  refine Dev.guard_frame ?_ ?_ (by decide)
  exact Frame.refl _ _
  intro _ _
  refine Frame.next ?_ Dev.setCore_frame (by decide)
  assumption

theorem Dev.cctlWrite_frame {d c v}
    : Frame [.regs, .pba, .act, .hdr, .perr, .pirq, .live, .state, .errlog, .out, .time, .msp, .monword, .lnb, .plt,
      .run, .ing, .acc, .bmf, .trg, .bur, .mctl, .fab, .mem, .free] d (Dev.cctlWrite d c v) := by
  unfold Dev.cctlWrite
  refine Dev.guard_frame ?_ ?_ (by decide)
  exact Frame.refl _ _
  intro _ _
  refine Frame.ite ?_ ?_
  refine Frame.next ?_ Dev.burSingle_frame (by decide)
  refine Frame.ite ?_ ?_
  refine Frame.next ?_ Dev.burCreset_frame (by decide)
  refine Frame.ite ?_ ?_
  assumption
  refine Frame.next ?_ Dev.setCore_frame (by decide)
  assumption
  refine Frame.ite ?_ ?_
  assumption
  refine Frame.next ?_ Dev.setCore_frame (by decide)
  assumption
  refine Frame.ite ?_ ?_
  refine Frame.next ?_ Dev.burCreset_frame (by decide)
  refine Frame.ite ?_ ?_
  assumption
  refine Frame.next ?_ Dev.setCore_frame (by decide)
  assumption
  refine Frame.ite ?_ ?_
  assumption
  refine Frame.next ?_ Dev.setCore_frame (by decide)
  assumption

theorem Dev.coreRegWrite_frame {d c r v}
    : Frame [.pba, .perr, .pirq, .errlog, .out, .bur] d (Dev.coreRegWrite d c r v) := by
  unfold Dev.coreRegWrite
  refine Dev.guard_frame ?_ ?_ (by decide)
  exact Frame.refl _ _
  intro _ _
  split
  refine Frame.next ?_ Dev.setCore_frame (by decide)
  assumption
  refine Frame.next ?_ Dev.setCore_frame (by decide)
  assumption
  refine Frame.next ?_ Dev.setCore_frame (by decide)
  assumption

theorem Dev.mbxoutPop_frame {d c} : Frame [.out, .bur] d (Dev.mbxoutPop d c) := by
  unfold Dev.mbxoutPop
  (dsimp only; split)
  refine Frame.next ?_ Dev.emit_frame (by decide)
  exact Frame.refl _ _
  refine Frame.next ?_ Dev.emit_frame (by decide)
  refine Frame.next ?_ Dev.setCore_frame (by decide)
  exact Frame.refl _ _

theorem Dev.paramWrite_frame {d k o v}
    : Frame [.pba, .perr, .pirq, .errlog, .out, .bur] d (Dev.paramWrite d k o v) := by
  unfold Dev.paramWrite
  refine Dev.guard_frame ?_ ?_ (by decide)
  exact Frame.refl _ _
  intro _ _
  refine Frame.upd_bur ?_ (by decide)
  assumption

/-! ### Shed -/

theorem Dev.usLevel_frame {d} : Frame [.live, .pwr] d (Dev.usLevel d) := by
  unfold Dev.usLevel
  refine Frame.upd_pwr ?_ (by decide)
  refine Frame.ite ?_ ?_
  exact Frame.refl _ _
  refine Frame.next ?_ Dev.bump_frame (by decide)
  exact Frame.refl _ _

theorem Dev.setLevel_frame {d k} : Frame [.live, .pwr, .acc] d (Dev.setLevel d k) := by
  unfold Dev.setLevel
  refine Frame.upd_pwr_acc ?_ (by decide) (by decide)
  refine Frame.next ?_ Dev.usLevel_frame (by decide)
  exact Frame.refl _ _

theorem Dev.beamsS4_frame {d} : Frame [.bmf, .trg] d (Dev.beamsS4 d) := by
  unfold Dev.beamsS4
  refine Frame.upd_bmf_trg ?_ (by decide) (by decide)
  exact Frame.refl _ _

theorem Dev.beamsS5_frame {d} : Frame [.bmf, .trg] d (Dev.beamsS5 d) := by
  unfold Dev.beamsS5
  refine Frame.upd_bmf_trg ?_ (by decide) (by decide)
  exact Frame.refl _ _

theorem Dev.memS5_frame {d} : Frame [.mctl] d (Dev.memS5 d) := by
  unfold Dev.memS5
  split
  refine Frame.upd_mctl ?_ (by decide)
  exact Frame.refl _ _
  refine Frame.upd_mctl ?_ (by decide)
  exact Frame.refl _ _
  exact Frame.refl _ _

theorem Dev.noRecord_frame {d upTo} : Frame [.acc] d (Dev.noRecord d upTo) := by
  unfold Dev.noRecord
  refine Frame.foldl ?_ ?_
  exact Frame.refl _ _
  intro _ _ _
  refine Frame.next ?_ Dev.modGather_frame (by decide)
  assumption

theorem Dev.cutOpenCaptures_frame {d} : Frame [.dkl] d (Dev.cutOpenCaptures d) := by
  unfold Dev.cutOpenCaptures
  refine Frame.next ?_ Dev.cutCaptures_frame (by decide)
  exact Frame.refl _ _

theorem Dev.enterS5_frame {d}
    : Frame [.pba, .pirq, .live, .out, .plt, .dkl, .acc, .bmf, .trg, .bur, .mctl] d (Dev.enterS5 d) := by
  unfold Dev.enterS5
  refine Frame.next ?_ Dev.memS5_frame (by decide)
  refine Frame.next ?_ Dev.pltAbort_frame (by decide)
  refine Frame.next ?_ Dev.burShed_frame (by decide)
  refine Frame.next ?_ Dev.beamsS5_frame (by decide)
  refine Frame.next ?_ Dev.cutOpenCaptures_frame (by decide)
  refine Frame.next ?_ Dev.noRecord_frame (by decide)
  exact Frame.refl _ _

theorem Dev.enterS6_frame {d}
    : Frame [.regs, .pba, .perr, .pirq, .live, .state, .errlog, .out, .time, .lnb, .plt, .acc, .bmf, .trg, .bur,
      .mctl, .fab, .dma, .mmu, .mem, .free] d (Dev.enterS6 d) := by
  unfold Dev.enterS6
  refine Frame.next ?_ Dev.burLose_frame (by decide)
  refine Frame.next ?_ Dev.dmaS6_frame (by decide)
  refine Frame.next ?_ Dev.lanesS6_frame (by decide)
  exact Frame.refl _ _

theorem Dev.enterLevels_frame {d a b}
    : Frame [.regs, .pba, .hdr, .perr, .pirq, .live, .state, .errlog, .out, .pwr, .time, .msp, .lnb, .plt, .dkl, .hat,
      .acc, .bmf, .trg, .pair, .bur, .mctl, .fab, .dma, .mmu, .mem, .free] d (Dev.enterLevels d a b) := by
  unfold Dev.enterLevels
  refine Frame.ite ?_ ?_
  refine Frame.next ?_ Dev.pairShed_frame (by decide)
  refine Frame.ite ?_ ?_
  refine Frame.next ?_ Dev.enterS6_frame (by decide)
  refine Frame.ite ?_ ?_
  refine Frame.next ?_ Dev.enterS5_frame (by decide)
  refine Frame.ite ?_ ?_
  refine Frame.next ?_ Dev.beamsS4_frame (by decide)
  refine Frame.ite ?_ ?_
  refine Frame.next ?_ Dev.hatS3_frame (by decide)
  refine Frame.ite ?_ ?_
  refine Frame.next ?_ Dev.burShed_frame (by decide)
  refine Frame.next ?_ Dev.mspShed_frame (by decide)
  refine Frame.upd_pwr ?_ (by decide)
  exact Frame.refl _ _
  exact Frame.refl _ _
  refine Frame.ite ?_ ?_
  refine Frame.next ?_ Dev.hatS2_frame (by decide)
  refine Frame.ite ?_ ?_
  refine Frame.next ?_ Dev.burShed_frame (by decide)
  refine Frame.next ?_ Dev.mspShed_frame (by decide)
  refine Frame.upd_pwr ?_ (by decide)
  exact Frame.refl _ _
  exact Frame.refl _ _
  refine Frame.ite ?_ ?_
  refine Frame.next ?_ Dev.burShed_frame (by decide)
  refine Frame.next ?_ Dev.mspShed_frame (by decide)
  refine Frame.upd_pwr ?_ (by decide)
  exact Frame.refl _ _
  exact Frame.refl _ _
  refine Frame.ite ?_ ?_
  refine Frame.next ?_ Dev.hatS3_frame (by decide)
  refine Frame.ite ?_ ?_
  refine Frame.next ?_ Dev.burShed_frame (by decide)
  refine Frame.next ?_ Dev.mspShed_frame (by decide)
  refine Frame.upd_pwr ?_ (by decide)
  exact Frame.refl _ _
  exact Frame.refl _ _
  refine Frame.ite ?_ ?_
  refine Frame.next ?_ Dev.hatS2_frame (by decide)
  refine Frame.ite ?_ ?_
  refine Frame.next ?_ Dev.burShed_frame (by decide)
  refine Frame.next ?_ Dev.mspShed_frame (by decide)
  refine Frame.upd_pwr ?_ (by decide)
  exact Frame.refl _ _
  exact Frame.refl _ _
  refine Frame.ite ?_ ?_
  refine Frame.next ?_ Dev.burShed_frame (by decide)
  refine Frame.next ?_ Dev.mspShed_frame (by decide)
  refine Frame.upd_pwr ?_ (by decide)
  exact Frame.refl _ _
  exact Frame.refl _ _
  refine Frame.ite ?_ ?_
  refine Frame.next ?_ Dev.beamsS4_frame (by decide)
  refine Frame.ite ?_ ?_
  refine Frame.next ?_ Dev.hatS3_frame (by decide)
  refine Frame.ite ?_ ?_
  refine Frame.next ?_ Dev.burShed_frame (by decide)
  refine Frame.next ?_ Dev.mspShed_frame (by decide)
  refine Frame.upd_pwr ?_ (by decide)
  exact Frame.refl _ _
  exact Frame.refl _ _
  refine Frame.ite ?_ ?_
  refine Frame.next ?_ Dev.hatS2_frame (by decide)
  refine Frame.ite ?_ ?_
  refine Frame.next ?_ Dev.burShed_frame (by decide)
  refine Frame.next ?_ Dev.mspShed_frame (by decide)
  refine Frame.upd_pwr ?_ (by decide)
  exact Frame.refl _ _
  exact Frame.refl _ _
  refine Frame.ite ?_ ?_
  refine Frame.next ?_ Dev.burShed_frame (by decide)
  refine Frame.next ?_ Dev.mspShed_frame (by decide)
  refine Frame.upd_pwr ?_ (by decide)
  exact Frame.refl _ _
  exact Frame.refl _ _
  refine Frame.ite ?_ ?_
  refine Frame.next ?_ Dev.hatS3_frame (by decide)
  refine Frame.ite ?_ ?_
  refine Frame.next ?_ Dev.burShed_frame (by decide)
  refine Frame.next ?_ Dev.mspShed_frame (by decide)
  refine Frame.upd_pwr ?_ (by decide)
  exact Frame.refl _ _
  exact Frame.refl _ _
  refine Frame.ite ?_ ?_
  refine Frame.next ?_ Dev.hatS2_frame (by decide)
  refine Frame.ite ?_ ?_
  refine Frame.next ?_ Dev.burShed_frame (by decide)
  refine Frame.next ?_ Dev.mspShed_frame (by decide)
  refine Frame.upd_pwr ?_ (by decide)
  exact Frame.refl _ _
  exact Frame.refl _ _
  refine Frame.ite ?_ ?_
  refine Frame.next ?_ Dev.burShed_frame (by decide)
  refine Frame.next ?_ Dev.mspShed_frame (by decide)
  refine Frame.upd_pwr ?_ (by decide)
  exact Frame.refl _ _
  exact Frame.refl _ _
  refine Frame.ite ?_ ?_
  refine Frame.next ?_ Dev.enterS5_frame (by decide)
  refine Frame.ite ?_ ?_
  refine Frame.next ?_ Dev.beamsS4_frame (by decide)
  refine Frame.ite ?_ ?_
  refine Frame.next ?_ Dev.hatS3_frame (by decide)
  refine Frame.ite ?_ ?_
  refine Frame.next ?_ Dev.burShed_frame (by decide)
  refine Frame.next ?_ Dev.mspShed_frame (by decide)
  refine Frame.upd_pwr ?_ (by decide)
  exact Frame.refl _ _
  exact Frame.refl _ _
  refine Frame.ite ?_ ?_
  refine Frame.next ?_ Dev.hatS2_frame (by decide)
  refine Frame.ite ?_ ?_
  refine Frame.next ?_ Dev.burShed_frame (by decide)
  refine Frame.next ?_ Dev.mspShed_frame (by decide)
  refine Frame.upd_pwr ?_ (by decide)
  exact Frame.refl _ _
  exact Frame.refl _ _
  refine Frame.ite ?_ ?_
  refine Frame.next ?_ Dev.burShed_frame (by decide)
  refine Frame.next ?_ Dev.mspShed_frame (by decide)
  refine Frame.upd_pwr ?_ (by decide)
  exact Frame.refl _ _
  exact Frame.refl _ _
  refine Frame.ite ?_ ?_
  refine Frame.next ?_ Dev.hatS3_frame (by decide)
  refine Frame.ite ?_ ?_
  refine Frame.next ?_ Dev.burShed_frame (by decide)
  refine Frame.next ?_ Dev.mspShed_frame (by decide)
  refine Frame.upd_pwr ?_ (by decide)
  exact Frame.refl _ _
  exact Frame.refl _ _
  refine Frame.ite ?_ ?_
  refine Frame.next ?_ Dev.hatS2_frame (by decide)
  refine Frame.ite ?_ ?_
  refine Frame.next ?_ Dev.burShed_frame (by decide)
  refine Frame.next ?_ Dev.mspShed_frame (by decide)
  refine Frame.upd_pwr ?_ (by decide)
  exact Frame.refl _ _
  exact Frame.refl _ _
  refine Frame.ite ?_ ?_
  refine Frame.next ?_ Dev.burShed_frame (by decide)
  refine Frame.next ?_ Dev.mspShed_frame (by decide)
  refine Frame.upd_pwr ?_ (by decide)
  exact Frame.refl _ _
  exact Frame.refl _ _
  refine Frame.ite ?_ ?_
  refine Frame.next ?_ Dev.beamsS4_frame (by decide)
  refine Frame.ite ?_ ?_
  refine Frame.next ?_ Dev.hatS3_frame (by decide)
  refine Frame.ite ?_ ?_
  refine Frame.next ?_ Dev.burShed_frame (by decide)
  refine Frame.next ?_ Dev.mspShed_frame (by decide)
  refine Frame.upd_pwr ?_ (by decide)
  exact Frame.refl _ _
  exact Frame.refl _ _
  refine Frame.ite ?_ ?_
  refine Frame.next ?_ Dev.hatS2_frame (by decide)
  refine Frame.ite ?_ ?_
  refine Frame.next ?_ Dev.burShed_frame (by decide)
  refine Frame.next ?_ Dev.mspShed_frame (by decide)
  refine Frame.upd_pwr ?_ (by decide)
  exact Frame.refl _ _
  exact Frame.refl _ _
  refine Frame.ite ?_ ?_
  refine Frame.next ?_ Dev.burShed_frame (by decide)
  refine Frame.next ?_ Dev.mspShed_frame (by decide)
  refine Frame.upd_pwr ?_ (by decide)
  exact Frame.refl _ _
  exact Frame.refl _ _
  refine Frame.ite ?_ ?_
  refine Frame.next ?_ Dev.hatS3_frame (by decide)
  refine Frame.ite ?_ ?_
  refine Frame.next ?_ Dev.burShed_frame (by decide)
  refine Frame.next ?_ Dev.mspShed_frame (by decide)
  refine Frame.upd_pwr ?_ (by decide)
  exact Frame.refl _ _
  exact Frame.refl _ _
  refine Frame.ite ?_ ?_
  refine Frame.next ?_ Dev.hatS2_frame (by decide)
  refine Frame.ite ?_ ?_
  refine Frame.next ?_ Dev.burShed_frame (by decide)
  refine Frame.next ?_ Dev.mspShed_frame (by decide)
  refine Frame.upd_pwr ?_ (by decide)
  exact Frame.refl _ _
  exact Frame.refl _ _
  refine Frame.ite ?_ ?_
  refine Frame.next ?_ Dev.burShed_frame (by decide)
  refine Frame.next ?_ Dev.mspShed_frame (by decide)
  refine Frame.upd_pwr ?_ (by decide)
  exact Frame.refl _ _
  exact Frame.refl _ _
  refine Frame.ite ?_ ?_
  refine Frame.next ?_ Dev.enterS6_frame (by decide)
  refine Frame.ite ?_ ?_
  refine Frame.next ?_ Dev.enterS5_frame (by decide)
  refine Frame.ite ?_ ?_
  refine Frame.next ?_ Dev.beamsS4_frame (by decide)
  refine Frame.ite ?_ ?_
  refine Frame.next ?_ Dev.hatS3_frame (by decide)
  refine Frame.ite ?_ ?_
  refine Frame.next ?_ Dev.burShed_frame (by decide)
  refine Frame.next ?_ Dev.mspShed_frame (by decide)
  refine Frame.upd_pwr ?_ (by decide)
  exact Frame.refl _ _
  exact Frame.refl _ _
  refine Frame.ite ?_ ?_
  refine Frame.next ?_ Dev.hatS2_frame (by decide)
  refine Frame.ite ?_ ?_
  refine Frame.next ?_ Dev.burShed_frame (by decide)
  refine Frame.next ?_ Dev.mspShed_frame (by decide)
  refine Frame.upd_pwr ?_ (by decide)
  exact Frame.refl _ _
  exact Frame.refl _ _
  refine Frame.ite ?_ ?_
  refine Frame.next ?_ Dev.burShed_frame (by decide)
  refine Frame.next ?_ Dev.mspShed_frame (by decide)
  refine Frame.upd_pwr ?_ (by decide)
  exact Frame.refl _ _
  exact Frame.refl _ _
  refine Frame.ite ?_ ?_
  refine Frame.next ?_ Dev.hatS3_frame (by decide)
  refine Frame.ite ?_ ?_
  refine Frame.next ?_ Dev.burShed_frame (by decide)
  refine Frame.next ?_ Dev.mspShed_frame (by decide)
  refine Frame.upd_pwr ?_ (by decide)
  exact Frame.refl _ _
  exact Frame.refl _ _
  refine Frame.ite ?_ ?_
  refine Frame.next ?_ Dev.hatS2_frame (by decide)
  refine Frame.ite ?_ ?_
  refine Frame.next ?_ Dev.burShed_frame (by decide)
  refine Frame.next ?_ Dev.mspShed_frame (by decide)
  refine Frame.upd_pwr ?_ (by decide)
  exact Frame.refl _ _
  exact Frame.refl _ _
  refine Frame.ite ?_ ?_
  refine Frame.next ?_ Dev.burShed_frame (by decide)
  refine Frame.next ?_ Dev.mspShed_frame (by decide)
  refine Frame.upd_pwr ?_ (by decide)
  exact Frame.refl _ _
  exact Frame.refl _ _
  refine Frame.ite ?_ ?_
  refine Frame.next ?_ Dev.beamsS4_frame (by decide)
  refine Frame.ite ?_ ?_
  refine Frame.next ?_ Dev.hatS3_frame (by decide)
  refine Frame.ite ?_ ?_
  refine Frame.next ?_ Dev.burShed_frame (by decide)
  refine Frame.next ?_ Dev.mspShed_frame (by decide)
  refine Frame.upd_pwr ?_ (by decide)
  exact Frame.refl _ _
  exact Frame.refl _ _
  refine Frame.ite ?_ ?_
  refine Frame.next ?_ Dev.hatS2_frame (by decide)
  refine Frame.ite ?_ ?_
  refine Frame.next ?_ Dev.burShed_frame (by decide)
  refine Frame.next ?_ Dev.mspShed_frame (by decide)
  refine Frame.upd_pwr ?_ (by decide)
  exact Frame.refl _ _
  exact Frame.refl _ _
  refine Frame.ite ?_ ?_
  refine Frame.next ?_ Dev.burShed_frame (by decide)
  refine Frame.next ?_ Dev.mspShed_frame (by decide)
  refine Frame.upd_pwr ?_ (by decide)
  exact Frame.refl _ _
  exact Frame.refl _ _
  refine Frame.ite ?_ ?_
  refine Frame.next ?_ Dev.hatS3_frame (by decide)
  refine Frame.ite ?_ ?_
  refine Frame.next ?_ Dev.burShed_frame (by decide)
  refine Frame.next ?_ Dev.mspShed_frame (by decide)
  refine Frame.upd_pwr ?_ (by decide)
  exact Frame.refl _ _
  exact Frame.refl _ _
  refine Frame.ite ?_ ?_
  refine Frame.next ?_ Dev.hatS2_frame (by decide)
  refine Frame.ite ?_ ?_
  refine Frame.next ?_ Dev.burShed_frame (by decide)
  refine Frame.next ?_ Dev.mspShed_frame (by decide)
  refine Frame.upd_pwr ?_ (by decide)
  exact Frame.refl _ _
  exact Frame.refl _ _
  refine Frame.ite ?_ ?_
  refine Frame.next ?_ Dev.burShed_frame (by decide)
  refine Frame.next ?_ Dev.mspShed_frame (by decide)
  refine Frame.upd_pwr ?_ (by decide)
  exact Frame.refl _ _
  exact Frame.refl _ _
  refine Frame.ite ?_ ?_
  refine Frame.next ?_ Dev.enterS5_frame (by decide)
  refine Frame.ite ?_ ?_
  refine Frame.next ?_ Dev.beamsS4_frame (by decide)
  refine Frame.ite ?_ ?_
  refine Frame.next ?_ Dev.hatS3_frame (by decide)
  refine Frame.ite ?_ ?_
  refine Frame.next ?_ Dev.burShed_frame (by decide)
  refine Frame.next ?_ Dev.mspShed_frame (by decide)
  refine Frame.upd_pwr ?_ (by decide)
  exact Frame.refl _ _
  exact Frame.refl _ _
  refine Frame.ite ?_ ?_
  refine Frame.next ?_ Dev.hatS2_frame (by decide)
  refine Frame.ite ?_ ?_
  refine Frame.next ?_ Dev.burShed_frame (by decide)
  refine Frame.next ?_ Dev.mspShed_frame (by decide)
  refine Frame.upd_pwr ?_ (by decide)
  exact Frame.refl _ _
  exact Frame.refl _ _
  refine Frame.ite ?_ ?_
  refine Frame.next ?_ Dev.burShed_frame (by decide)
  refine Frame.next ?_ Dev.mspShed_frame (by decide)
  refine Frame.upd_pwr ?_ (by decide)
  exact Frame.refl _ _
  exact Frame.refl _ _
  refine Frame.ite ?_ ?_
  refine Frame.next ?_ Dev.hatS3_frame (by decide)
  refine Frame.ite ?_ ?_
  refine Frame.next ?_ Dev.burShed_frame (by decide)
  refine Frame.next ?_ Dev.mspShed_frame (by decide)
  refine Frame.upd_pwr ?_ (by decide)
  exact Frame.refl _ _
  exact Frame.refl _ _
  refine Frame.ite ?_ ?_
  refine Frame.next ?_ Dev.hatS2_frame (by decide)
  refine Frame.ite ?_ ?_
  refine Frame.next ?_ Dev.burShed_frame (by decide)
  refine Frame.next ?_ Dev.mspShed_frame (by decide)
  refine Frame.upd_pwr ?_ (by decide)
  exact Frame.refl _ _
  exact Frame.refl _ _
  refine Frame.ite ?_ ?_
  refine Frame.next ?_ Dev.burShed_frame (by decide)
  refine Frame.next ?_ Dev.mspShed_frame (by decide)
  refine Frame.upd_pwr ?_ (by decide)
  exact Frame.refl _ _
  exact Frame.refl _ _
  refine Frame.ite ?_ ?_
  refine Frame.next ?_ Dev.beamsS4_frame (by decide)
  refine Frame.ite ?_ ?_
  refine Frame.next ?_ Dev.hatS3_frame (by decide)
  refine Frame.ite ?_ ?_
  refine Frame.next ?_ Dev.burShed_frame (by decide)
  refine Frame.next ?_ Dev.mspShed_frame (by decide)
  refine Frame.upd_pwr ?_ (by decide)
  exact Frame.refl _ _
  exact Frame.refl _ _
  refine Frame.ite ?_ ?_
  refine Frame.next ?_ Dev.hatS2_frame (by decide)
  refine Frame.ite ?_ ?_
  refine Frame.next ?_ Dev.burShed_frame (by decide)
  refine Frame.next ?_ Dev.mspShed_frame (by decide)
  refine Frame.upd_pwr ?_ (by decide)
  exact Frame.refl _ _
  exact Frame.refl _ _
  refine Frame.ite ?_ ?_
  refine Frame.next ?_ Dev.burShed_frame (by decide)
  refine Frame.next ?_ Dev.mspShed_frame (by decide)
  refine Frame.upd_pwr ?_ (by decide)
  exact Frame.refl _ _
  exact Frame.refl _ _
  refine Frame.ite ?_ ?_
  refine Frame.next ?_ Dev.hatS3_frame (by decide)
  refine Frame.ite ?_ ?_
  refine Frame.next ?_ Dev.burShed_frame (by decide)
  refine Frame.next ?_ Dev.mspShed_frame (by decide)
  refine Frame.upd_pwr ?_ (by decide)
  exact Frame.refl _ _
  exact Frame.refl _ _
  refine Frame.ite ?_ ?_
  refine Frame.next ?_ Dev.hatS2_frame (by decide)
  refine Frame.ite ?_ ?_
  refine Frame.next ?_ Dev.burShed_frame (by decide)
  refine Frame.next ?_ Dev.mspShed_frame (by decide)
  refine Frame.upd_pwr ?_ (by decide)
  exact Frame.refl _ _
  exact Frame.refl _ _
  refine Frame.ite ?_ ?_
  refine Frame.next ?_ Dev.burShed_frame (by decide)
  refine Frame.next ?_ Dev.mspShed_frame (by decide)
  refine Frame.upd_pwr ?_ (by decide)
  exact Frame.refl _ _
  exact Frame.refl _ _

theorem Dev.levelRise_frame {d k}
    : Frame [.regs, .pba, .hdr, .perr, .pirq, .live, .state, .errlog, .out, .pwr, .time, .msp, .lnb, .plt, .dkl, .hat,
      .acc, .bmf, .trg, .pair, .bur, .mctl, .fab, .dma, .mmu, .mem, .free] d (Dev.levelRise d k) := by
  unfold Dev.levelRise
  refine Frame.next ?_ Dev.raise_frame (by decide)
  refine Frame.upd_pwr ?_ (by decide)
  refine Frame.next ?_ Dev.enterLevels_frame (by decide)
  refine Frame.next ?_ Dev.bump_frame (by decide)
  refine Frame.next ?_ Dev.setLevel_frame (by decide)
  exact Frame.refl _ _

theorem Dev.levelNow_frame {d}
    : Frame [.regs, .pba, .hdr, .perr, .pirq, .live, .state, .errlog, .out, .pwr, .time, .msp, .lnb, .plt, .dkl, .hat,
      .acc, .bmf, .trg, .pair, .bur, .mctl, .fab, .dma, .mmu, .mem, .free] d (Dev.levelNow d) := by
  unfold Dev.levelNow
  refine Frame.ite ?_ ?_
  refine Frame.next ?_ Dev.levelRise_frame (by decide)
  exact Frame.refl _ _
  refine Frame.ite ?_ ?_
  refine Frame.upd_pwr ?_ (by decide)
  exact Frame.refl _ _
  refine Frame.ite ?_ ?_
  refine Frame.upd_pwr ?_ (by decide)
  exact Frame.refl _ _
  exact Frame.refl _ _

theorem Dev.leaveS6_frame {d} : Frame [.pba, .pirq, .out, .lnb] d (Dev.leaveS6 d) := by
  unfold Dev.leaveS6
  refine Frame.next ?_ Dev.payOwed_frame (by decide)
  refine Frame.next ?_ Dev.lanesRecover_frame (by decide)
  exact Frame.refl _ _

theorem Dev.leaveS5_frame {d} : Frame [.boot, .ing, .acc, .bmf, .trg, .mctl] d (Dev.leaveS5 d) := by
  unfold Dev.leaveS5
  refine Frame.ite ?_ ?_
  refine Frame.upd_bmf_trg ?_ (by decide) (by decide)
  refine Frame.upd_boot_mctl ?_ (by decide) (by decide)
  refine Frame.ite ?_ ?_
  refine Frame.upd_mctl ?_ (by decide)
  exact Frame.refl _ _
  exact Frame.refl _ _
  refine Frame.next ?_ Dev.trgResume_frame (by decide)
  refine Frame.upd_bmf ?_ (by decide)
  refine Frame.ite ?_ ?_
  refine Frame.upd_mctl ?_ (by decide)
  refine Frame.next ?_ Dev.noRecord_frame (by decide)
  refine Frame.upd_boot_mctl ?_ (by decide) (by decide)
  refine Frame.ite ?_ ?_
  refine Frame.upd_mctl ?_ (by decide)
  exact Frame.refl _ _
  exact Frame.refl _ _
  refine Frame.upd_ing ?_ (by decide)
  refine Frame.next ?_ Dev.noRecord_frame (by decide)
  refine Frame.upd_boot_mctl ?_ (by decide) (by decide)
  refine Frame.ite ?_ ?_
  refine Frame.upd_mctl ?_ (by decide)
  exact Frame.refl _ _
  exact Frame.refl _ _

theorem Dev.leaveS4_frame {d} : Frame [.bmf, .trg] d (Dev.leaveS4 d) := by
  unfold Dev.leaveS4
  refine Frame.ite ?_ ?_
  refine Frame.upd_bmf_trg ?_ (by decide) (by decide)
  exact Frame.refl _ _
  refine Frame.upd_bmf_trg ?_ (by decide) (by decide)
  exact Frame.refl _ _

theorem Dev.coresRecover_frame {d} : Frame [.bur] d (Dev.coresRecover d) := by
  unfold Dev.coresRecover
  refine Frame.next ?_ Dev.burRecover_frame (by decide)
  exact Frame.refl _ _

theorem Dev.shedFall_frame {d}
    : Frame [.pba, .pirq, .live, .out, .boot, .pwr, .lnb, .ing, .acc, .bmf, .trg, .bur, .mctl] d (Dev.shedFall d) :=
      by
  unfold Dev.shedFall
  split
  exact Frame.refl _ _
  refine Frame.ite ?_ ?_
  exact Frame.refl _ _
  refine Frame.next ?_ Dev.raise_frame (by decide)
  refine Frame.ite ?_ ?_
  refine Frame.upd_pwr ?_ (by decide)
  refine Frame.ite ?_ ?_
  refine Frame.next ?_ Dev.coresRecover_frame (by decide)
  refine Frame.ite ?_ ?_
  refine Frame.next ?_ Dev.leaveS6_frame (by decide)
  refine Frame.upd_pwr ?_ (by decide)
  refine Frame.next ?_ Dev.bump_frame (by decide)
  refine Frame.next ?_ Dev.setLevel_frame (by decide)
  exact Frame.refl _ _
  refine Frame.ite ?_ ?_
  refine Frame.next ?_ Dev.leaveS5_frame (by decide)
  refine Frame.upd_pwr ?_ (by decide)
  refine Frame.next ?_ Dev.bump_frame (by decide)
  refine Frame.next ?_ Dev.setLevel_frame (by decide)
  exact Frame.refl _ _
  refine Frame.ite ?_ ?_
  refine Frame.next ?_ Dev.leaveS4_frame (by decide)
  refine Frame.upd_pwr ?_ (by decide)
  refine Frame.next ?_ Dev.bump_frame (by decide)
  refine Frame.next ?_ Dev.setLevel_frame (by decide)
  exact Frame.refl _ _
  refine Frame.upd_pwr ?_ (by decide)
  refine Frame.next ?_ Dev.bump_frame (by decide)
  refine Frame.next ?_ Dev.setLevel_frame (by decide)
  exact Frame.refl _ _
  refine Frame.ite ?_ ?_
  refine Frame.next ?_ Dev.leaveS6_frame (by decide)
  refine Frame.upd_pwr ?_ (by decide)
  refine Frame.next ?_ Dev.bump_frame (by decide)
  refine Frame.next ?_ Dev.setLevel_frame (by decide)
  exact Frame.refl _ _
  refine Frame.ite ?_ ?_
  refine Frame.next ?_ Dev.leaveS5_frame (by decide)
  refine Frame.upd_pwr ?_ (by decide)
  refine Frame.next ?_ Dev.bump_frame (by decide)
  refine Frame.next ?_ Dev.setLevel_frame (by decide)
  exact Frame.refl _ _
  refine Frame.ite ?_ ?_
  refine Frame.next ?_ Dev.leaveS4_frame (by decide)
  refine Frame.upd_pwr ?_ (by decide)
  refine Frame.next ?_ Dev.bump_frame (by decide)
  refine Frame.next ?_ Dev.setLevel_frame (by decide)
  exact Frame.refl _ _
  refine Frame.upd_pwr ?_ (by decide)
  refine Frame.next ?_ Dev.bump_frame (by decide)
  refine Frame.next ?_ Dev.setLevel_frame (by decide)
  exact Frame.refl _ _
  refine Frame.ite ?_ ?_
  refine Frame.next ?_ Dev.coresRecover_frame (by decide)
  refine Frame.ite ?_ ?_
  refine Frame.next ?_ Dev.leaveS6_frame (by decide)
  refine Frame.upd_pwr ?_ (by decide)
  refine Frame.next ?_ Dev.bump_frame (by decide)
  refine Frame.next ?_ Dev.setLevel_frame (by decide)
  exact Frame.refl _ _
  refine Frame.ite ?_ ?_
  refine Frame.next ?_ Dev.leaveS5_frame (by decide)
  refine Frame.upd_pwr ?_ (by decide)
  refine Frame.next ?_ Dev.bump_frame (by decide)
  refine Frame.next ?_ Dev.setLevel_frame (by decide)
  exact Frame.refl _ _
  refine Frame.ite ?_ ?_
  refine Frame.next ?_ Dev.leaveS4_frame (by decide)
  refine Frame.upd_pwr ?_ (by decide)
  refine Frame.next ?_ Dev.bump_frame (by decide)
  refine Frame.next ?_ Dev.setLevel_frame (by decide)
  exact Frame.refl _ _
  refine Frame.upd_pwr ?_ (by decide)
  refine Frame.next ?_ Dev.bump_frame (by decide)
  refine Frame.next ?_ Dev.setLevel_frame (by decide)
  exact Frame.refl _ _
  refine Frame.ite ?_ ?_
  refine Frame.next ?_ Dev.leaveS6_frame (by decide)
  refine Frame.upd_pwr ?_ (by decide)
  refine Frame.next ?_ Dev.bump_frame (by decide)
  refine Frame.next ?_ Dev.setLevel_frame (by decide)
  exact Frame.refl _ _
  refine Frame.ite ?_ ?_
  refine Frame.next ?_ Dev.leaveS5_frame (by decide)
  refine Frame.upd_pwr ?_ (by decide)
  refine Frame.next ?_ Dev.bump_frame (by decide)
  refine Frame.next ?_ Dev.setLevel_frame (by decide)
  exact Frame.refl _ _
  refine Frame.ite ?_ ?_
  refine Frame.next ?_ Dev.leaveS4_frame (by decide)
  refine Frame.upd_pwr ?_ (by decide)
  refine Frame.next ?_ Dev.bump_frame (by decide)
  refine Frame.next ?_ Dev.setLevel_frame (by decide)
  exact Frame.refl _ _
  refine Frame.upd_pwr ?_ (by decide)
  refine Frame.next ?_ Dev.bump_frame (by decide)
  refine Frame.next ?_ Dev.setLevel_frame (by decide)
  exact Frame.refl _ _

theorem Dev.beamsBack_frame {d} : Frame [.bmf, .trg] d (Dev.beamsBack d) := by
  unfold Dev.beamsBack
  refine Frame.ite ?_ ?_
  refine Frame.upd_trg ?_ (by decide)
  refine Frame.ite ?_ ?_
  refine Frame.upd_bmf ?_ (by decide)
  refine Frame.ite ?_ ?_
  refine Frame.upd_trg ?_ (by decide)
  refine Frame.ite ?_ ?_
  refine Frame.upd_bmf ?_ (by decide)
  exact Frame.refl _ _
  exact Frame.refl _ _
  refine Frame.ite ?_ ?_
  refine Frame.upd_bmf ?_ (by decide)
  exact Frame.refl _ _
  exact Frame.refl _ _
  refine Frame.ite ?_ ?_
  refine Frame.upd_trg ?_ (by decide)
  refine Frame.ite ?_ ?_
  refine Frame.upd_bmf ?_ (by decide)
  exact Frame.refl _ _
  exact Frame.refl _ _
  refine Frame.ite ?_ ?_
  refine Frame.upd_bmf ?_ (by decide)
  exact Frame.refl _ _
  exact Frame.refl _ _
  refine Frame.ite ?_ ?_
  refine Frame.upd_bmf ?_ (by decide)
  refine Frame.ite ?_ ?_
  refine Frame.upd_trg ?_ (by decide)
  refine Frame.ite ?_ ?_
  refine Frame.upd_bmf ?_ (by decide)
  exact Frame.refl _ _
  exact Frame.refl _ _
  refine Frame.ite ?_ ?_
  refine Frame.upd_bmf ?_ (by decide)
  exact Frame.refl _ _
  exact Frame.refl _ _
  refine Frame.ite ?_ ?_
  refine Frame.upd_trg ?_ (by decide)
  refine Frame.ite ?_ ?_
  refine Frame.upd_bmf ?_ (by decide)
  exact Frame.refl _ _
  exact Frame.refl _ _
  refine Frame.ite ?_ ?_
  refine Frame.upd_bmf ?_ (by decide)
  exact Frame.refl _ _
  exact Frame.refl _ _

theorem Dev.resumingBoundary_frame {d}
    : Frame [.pba, .pirq, .live, .out, .pwr, .msp, .bmf, .trg, .bur] d (Dev.resumingBoundary d) := by
  unfold Dev.resumingBoundary
  refine Frame.foldl ?_ ?_
  split
  refine Frame.ite ?_ ?_
  refine Frame.next ?_ Dev.mspResume_frame (by decide)
  refine Frame.upd_pwr ?_ (by decide)
  refine Frame.next ?_ Dev.beamsBack_frame (by decide)
  exact Frame.refl _ _
  refine Frame.next ?_ Dev.beamsBack_frame (by decide)
  exact Frame.refl _ _
  refine Frame.next ?_ Dev.beamsBack_frame (by decide)
  exact Frame.refl _ _
  intro _ _ _
  refine Frame.next ?_ Dev.burResume_frame (by decide)
  assumption

theorem Dev.supplySample_frame {d r mv power}
    : Frame [.regs, .pba, .hdr, .perr, .pirq, .live, .state, .errlog, .out, .pwr, .time, .msp, .lnb, .plt, .dkl, .hat,
      .acc, .bmf, .trg, .pair, .bur, .mctl, .fab, .dma, .mmu, .mem, .free] d (Dev.supplySample d r mv power) := by
  unfold Dev.supplySample
  refine Frame.ite ?_ ?_
  exact Frame.refl _ _
  refine Frame.next ?_ Dev.levelNow_frame (by decide)
  refine Frame.next ?_ Dev.peak_frame (by decide)
  refine Frame.setReg ?_ (by decide) (.inl rfl)
  refine Frame.upd_pwr ?_ (by decide)
  refine Frame.upd_pwr ?_ (by decide)
  refine Frame.upd_pwr ?_ (by decide)
  exact Frame.refl _ _

theorem Dev.tempLevels_frame {d t sensor}
    : Frame [.regs, .pba, .hdr, .perr, .pirq, .live, .state, .errlog, .out, .pwr, .time, .msp, .lnb, .plt, .dkl, .hat,
      .acc, .bmf, .trg, .pair, .bur, .mctl, .fab, .dma, .mmu, .mem, .free] d (Dev.tempLevels d t sensor) := by
  unfold Dev.tempLevels
  refine Frame.next ?_ Dev.levelNow_frame (by decide)
  refine Frame.next ?_ Dev.clkTemp_frame (by decide)
  refine Frame.next ?_ Dev.memTemps_frame (by decide)
  refine Frame.ite ?_ ?_
  refine Frame.next ?_ Dev.raise_frame (by decide)
  refine Frame.ite ?_ ?_
  refine Frame.next ?_ Dev.raise_frame (by decide)
  refine Frame.next ?_ Dev.peak_frame (by decide)
  refine Frame.upd_pwr ?_ (by decide)
  exact Frame.refl _ _
  refine Frame.next ?_ Dev.peak_frame (by decide)
  refine Frame.upd_pwr ?_ (by decide)
  exact Frame.refl _ _
  refine Frame.ite ?_ ?_
  refine Frame.next ?_ Dev.raise_frame (by decide)
  refine Frame.next ?_ Dev.peak_frame (by decide)
  refine Frame.upd_pwr ?_ (by decide)
  exact Frame.refl _ _
  refine Frame.next ?_ Dev.peak_frame (by decide)
  refine Frame.upd_pwr ?_ (by decide)
  exact Frame.refl _ _

theorem Dev.hostLevel_frame {d k}
    : Frame [.regs, .pba, .hdr, .perr, .pirq, .live, .state, .errlog, .out, .pwr, .time, .msp, .lnb, .plt, .dkl, .hat,
      .acc, .bmf, .trg, .pair, .bur, .mctl, .fab, .dma, .mmu, .mem, .free] d (Dev.hostLevel d k) := by
  unfold Dev.hostLevel
  refine Frame.next ?_ Dev.levelNow_frame (by decide)
  refine Frame.upd_pwr ?_ (by decide)
  exact Frame.refl _ _

theorem Dev.shedreqWrite_frame {d v}
    : Frame [.regs, .pba, .hdr, .perr, .pirq, .live, .state, .errlog, .out, .pwr, .time, .msp, .lnb, .plt, .dkl, .hat,
      .acc, .bmf, .trg, .pair, .bur, .mctl, .fab, .dma, .mmu, .mem, .free] d (Dev.shedreqWrite d v) := by
  unfold Dev.shedreqWrite
  refine Dev.guard_frame ?_ ?_ (by decide)
  exact Frame.refl _ _
  intro _ _
  refine Frame.next ?_ Dev.hostLevel_frame (by decide)
  assumption

theorem Dev.thrWrite_frame {d o v} : Frame [.regs, .pba, .perr, .pirq, .errlog, .out] d (Dev.thrWrite d o v) := by
  unfold Dev.thrWrite
  refine Dev.guard_frame ?_ ?_ (by decide)
  exact Frame.refl _ _
  intro _ _
  refine Frame.setReg ?_ (by decide) (.inr (by decide))
  assumption

/-! ### Run -/

theorem Dev.mergeNext_frame {d} : Frame [.live, .nextc] d (Dev.mergeNext d) := by
  unfold Dev.mergeNext
  refine Frame.upd_live_nextc ?_ (by decide) (by decide)
  exact Frame.refl _ _

theorem Dev.statsLatch_frame {d ream} : Frame [.hdr, .stats, .live, .nextc, .pwr, .bur] d (Dev.statsLatch d ream) := by
  unfold Dev.statsLatch
  refine Frame.foldl ?_ ?_
  refine Frame.foldl ?_ ?_
  refine Frame.upd_stats_live_nextc_pwr ?_ (by decide) (by decide) (by decide) (by decide)
  refine Frame.next ?_ Dev.usLevel_frame (by decide)
  exact Frame.refl _ _
  intro _ _ _
  refine Frame.modPage ?_ (.inr (by decide)) (.inl fun _ => rfl) (.inl fun _ => ⟨rfl, rfl⟩)
  assumption
  intro _ _ _
  refine Frame.next ?_ Dev.setCore_frame (by decide)
  assumption

theorem Dev.runOver_frame {d} : Frame [.live, .nextc, .plt, .run] d (Dev.runOver d) := by
  unfold Dev.runOver
  refine Frame.next ?_ Dev.mergeNext_frame (by decide)
  refine Frame.upd_plt_run ?_ (by decide) (by decide)
  exact Frame.refl _ _

theorem Dev.endRun_frame {d}
    : Frame [.pba, .pirq, .live, .nextc, .state, .out, .lnb, .plt, .run, .pair] d (Dev.endRun d) := by
  unfold Dev.endRun
  refine Frame.next ?_ Dev.pairSync_frame (by decide)
  refine Frame.next ?_ Dev.setState_frame (by decide)
  refine Frame.next ?_ Dev.runOver_frame (by decide)
  exact Frame.refl _ _

theorem Dev.drainCheck_frame {d}
    : Frame [.pba, .pirq, .live, .nextc, .state, .out, .lnb, .plt, .run, .pair] d (Dev.drainCheck d) := by
  unfold Dev.drainCheck
  refine Frame.ite ?_ ?_
  refine Frame.next ?_ Dev.endRun_frame (by decide)
  exact Frame.refl _ _
  exact Frame.refl _ _

theorem Dev.dataStop_frame {d}
    : Frame [.pba, .pirq, .live, .nextc, .out, .plt, .run, .ing, .dkl, .hat, .acc, .bmf, .trg, .mem] d (Dev.dataStop d) := by
  unfold Dev.dataStop
  refine Frame.next ?_ Dev.runOver_frame (by decide)
  refine Frame.upd_ing_dkl_hat_acc_bmf_trg ?_ (by decide) (by decide) (by decide) (by decide) (by decide) (by decide)
  refine Frame.next ?_ Dev.suspectFlagsClose_frame (by decide)
  refine Frame.next ?_ Dev.cutOpenCaptures_frame (by decide)
  exact Frame.refl _ _

theorem Dev.startUnits_frame {d took same}
    : Frame [.regs, .pba, .lnb, .ing, .dkl, .hat, .acc, .bmf, .trg, .bur] d (Dev.startUnits d took same) := by
  unfold Dev.startUnits
  refine Frame.next ?_ Dev.clearLoopbacks_frame (by decide)
  refine Frame.next ?_ Dev.burStart_frame (by decide)
  refine Frame.next ?_ Dev.trgStart_frame (by decide)
  refine Frame.next ?_ Dev.bmfStart_frame (by decide)
  refine Frame.ite ?_ ?_
  refine Frame.next ?_ Dev.hatTakeover_frame (by decide)
  refine Frame.next ?_ Dev.hatStart_frame (by decide)
  refine Frame.next ?_ Dev.dklStart_frame (by decide)
  refine Frame.next ?_ Dev.fillBuckets_frame (by decide)
  refine Frame.upd_lnb_ing_acc ?_ (by decide) (by decide) (by decide)
  exact Frame.refl _ _
  refine Frame.next ?_ Dev.hatStart_frame (by decide)
  refine Frame.next ?_ Dev.dklStart_frame (by decide)
  refine Frame.next ?_ Dev.fillBuckets_frame (by decide)
  refine Frame.upd_lnb_ing_acc ?_ (by decide) (by decide) (by decide)
  exact Frame.refl _ _

theorem Dev.start_frame {d}
    : Frame [.regs, .pba, .act, .pirq, .live, .state, .out, .sys, .time, .lnb, .plt, .run, .ing, .dkl, .hat, .acc,
      .bmf, .trg, .pair, .bur] d (Dev.start d) := by
  unfold Dev.start
  refine Frame.ite ?_ ?_
  refine Frame.next ?_ Dev.setState_frame (by decide)
  refine Frame.next ?_ Dev.startUnits_frame (by decide)
  refine Frame.setReg ?_ (by decide) (.inl rfl)
  refine Frame.setReg ?_ (by decide) (.inl rfl)
  refine Frame.upd_sys_run ?_ (.inl rfl) (.inl ⟨rfl, rfl⟩) (.inl ⟨rfl, rfl, rfl⟩) (.inl rfl) (.inr (by decide)) (by decide)
  refine Frame.ite ?_ ?_
  refine Frame.next ?_ Dev.startTakeover_frame (by decide)
  exact Frame.refl _ _
  exact Frame.refl _ _
  refine Frame.ite ?_ ?_
  refine Frame.upd_pair ?_ (by decide)
  refine Frame.next ?_ Dev.setState_frame (by decide)
  refine Frame.next ?_ Dev.startUnits_frame (by decide)
  refine Frame.setReg ?_ (by decide) (.inl rfl)
  refine Frame.setReg ?_ (by decide) (.inl rfl)
  refine Frame.upd_sys_run ?_ (.inl rfl) (.inl ⟨rfl, rfl⟩) (.inl ⟨rfl, rfl, rfl⟩) (.inl rfl) (.inr (by decide)) (by decide)
  refine Frame.ite ?_ ?_
  refine Frame.next ?_ Dev.startTakeover_frame (by decide)
  exact Frame.refl _ _
  exact Frame.refl _ _
  refine Frame.next ?_ Dev.takeOwn_frame (by decide)
  refine Frame.next ?_ Dev.setState_frame (by decide)
  refine Frame.next ?_ Dev.startUnits_frame (by decide)
  refine Frame.setReg ?_ (by decide) (.inl rfl)
  refine Frame.setReg ?_ (by decide) (.inl rfl)
  refine Frame.upd_sys_run ?_ (.inl rfl) (.inl ⟨rfl, rfl⟩) (.inl ⟨rfl, rfl, rfl⟩) (.inl rfl) (.inr (by decide)) (by decide)
  refine Frame.ite ?_ ?_
  refine Frame.next ?_ Dev.startTakeover_frame (by decide)
  exact Frame.refl _ _
  exact Frame.refl _ _

theorem Dev.stop_frame {d} : Frame [.live, .out, .lnb, .run, .pair] d (Dev.stop d) := by
  unfold Dev.stop
  refine Frame.next ?_ Dev.mirrorCmd_frame (by decide)
  refine Frame.next ?_ Dev.stopAt_frame (by decide)
  exact Frame.refl _ _

theorem Dev.stopBoundary_frame {d}
    : Frame [.pba, .pirq, .live, .nextc, .state, .out, .lnb, .plt, .run, .dkl, .pair] d (Dev.stopBoundary d) := by
  unfold Dev.stopBoundary
  split
  exact Frame.refl _ _
  refine Frame.ite ?_ ?_
  exact Frame.refl _ _
  refine Frame.ite ?_ ?_
  refine Frame.next ?_ Dev.endRun_frame (by decide)
  refine Frame.next ?_ Dev.cutCaptures_frame (by decide)
  exact Frame.refl _ _
  refine Frame.next ?_ Dev.drainCheck_frame (by decide)
  refine Frame.next ?_ Dev.setState_frame (by decide)
  refine Frame.upd_plt ?_ (by decide)
  refine Frame.next ?_ Dev.cutCaptures_frame (by decide)
  exact Frame.refl _ _

theorem Dev.quiesce_frame {d}
    : Frame [.pba, .pirq, .live, .nextc, .state, .out, .lnb, .plt, .run, .ing, .dkl, .hat, .acc, .bmf, .trg, .pair,
      .mem] d (Dev.quiesce d) := by
  unfold Dev.quiesce
  refine Frame.next ?_ Dev.pairSync_frame (by decide)
  refine Frame.next ?_ Dev.setState_frame (by decide)
  refine Frame.next ?_ Dev.dataStop_frame (by decide)
  exact Frame.refl _ _

theorem Dev.quiesceDone_frame {d} : Frame [.pba, .pirq, .live, .state, .out, .lnb, .pair] d (Dev.quiesceDone d) := by
  unfold Dev.quiesceDone
  refine Frame.ite ?_ ?_
  refine Frame.next ?_ Dev.pairSync_frame (by decide)
  refine Frame.next ?_ Dev.setState_frame (by decide)
  exact Frame.refl _ _
  exact Frame.refl _ _

theorem Dev.armCmd_frame {d arg}
    : Frame [.regs, .pba, .act, .pirq, .live, .state, .out, .time, .lnb, .plt, .ing, .pair] d (Dev.armCmd d arg).2 :=
      by
  unfold Dev.armCmd
  dsimp only
  split
  refine Frame.ite ?_ ?_
  refine Frame.upd_plt ?_ (by decide)
  exact Frame.refl _ _
  exact Frame.refl _ _
  refine Frame.next ?_ Dev.mirrorCmd_frame (by decide)
  refine Frame.next ?_ Dev.armAll_frame (by decide)
  exact Frame.refl _ _

theorem Dev.latch_frame {d} : Frame [.hdr, .stats, .live, .nextc, .pwr, .bur] d (Dev.latch d) := by
  unfold Dev.latch
  refine Frame.next ?_ Dev.statsLatch_frame (by decide)
  exact Frame.refl _ _

theorem Dev.resync_frame {d i} : Frame [.pba, .pirq, .live, .out, .time] d (Dev.resync d i) := by
  unfold Dev.resync
  refine Frame.next ?_ Dev.baseReselect_frame (by decide)
  exact Frame.refl _ _

theorem Dev.selftest_frame {d} : Frame [.pba, .pirq, .state, .out, .sys] d (Dev.selftest d) := by
  unfold Dev.selftest
  refine Frame.next ?_ Dev.setState_frame (by decide)
  refine Frame.upd_sys ?_ (.inl rfl) (.inl ⟨rfl, rfl⟩) (.inl ⟨rfl, rfl, rfl⟩) (.inl rfl) (.inr (by decide))
  exact Frame.refl _ _

theorem Dev.memSelftest_frame {d bad}
    : Frame [.pba, .pirq, .errlog, .out, .plt, .mctl, .mem] d (Dev.memSelftest d bad) := by
  unfold Dev.memSelftest
  refine Frame.foldl ?_ ?_
  refine Frame.ite ?_ ?_
  refine Frame.upd_mem ?_ (by decide)
  exact Frame.refl _ _
  refine Frame.next ?_ Dev.fmapChanged_frame (by decide)
  refine Frame.upd_plt ?_ (by decide)
  refine Frame.upd_mem ?_ (by decide)
  exact Frame.refl _ _
  intro _ _ _
  refine Frame.next ?_ Dev.excludeAt_frame (by decide)
  assumption

theorem Dev.selftestDone_frame {d quires bad lanes}
    : Frame [.pba, .pirq, .live, .state, .errlog, .out, .time, .lnb, .plt, .hat, .mctl, .mem] d (Dev.selftestDone d
      quires bad lanes) := by
  unfold Dev.selftestDone
  refine Frame.ite ?_ ?_
  exact Frame.refl _ _
  refine Frame.next ?_ Dev.setState_frame (by decide)
  refine Frame.foldl ?_ ?_
  refine Dev.fmapStep_frame ?_ (by decide)
  refine Frame.next ?_ Dev.memSelftest_frame (by decide)
  refine Frame.next ?_ Dev.hatSelftest_frame (by decide)
  exact Frame.refl _ _
  intro _ _ _
  refine Frame.next ?_ Dev.laneTested_frame (by decide)
  assumption

theorem Dev.tapFrame_frame {d p g f3 fr} : Frame [.bmf] d (Dev.tapFrame d p g f3 fr) := by
  unfold Dev.tapFrame
  refine Frame.ite ?_ ?_
  exact Frame.refl _ _
  refine Frame.upd_bmf ?_ (by decide)
  exact Frame.refl _ _

theorem Dev.sampleFrame_frame {d l fr}
    : Frame [.pba, .pirq, .live, .nextc, .out, .lnb, .ing, .dkl, .bmf, .pair, .mem] d (Dev.sampleFrame d l fr) := by
  unfold Dev.sampleFrame
  refine Frame.ite ?_ ?_
  exact Frame.refl _ _
  refine Frame.ite ?_ ?_
  refine Frame.ite ?_ ?_
  exact Frame.refl _ _
  exact Dev.ctrlRx_frame (Frame.refl _ _) (fun _ h => h) (by decide)
  dsimp only
  refine Frame.ite ?_ ?_
  refine Frame.next ?_ Dev.ingest_frame (by decide)
  exact Frame.refl _ _
  refine Frame.ite ?_ ?_
  refine Frame.upd_lnb ?_ (by decide)
  split
  refine Frame.next ?_ Dev.admitSample_frame (by decide)
  refine Frame.next ?_ Dev.ingest_frame (by decide)
  exact Frame.refl _ _
  refine Frame.next ?_ Dev.tapFrame_frame (by decide)
  refine Frame.next ?_ Dev.bmfFrame_frame (by decide)
  refine Frame.next ?_ Dev.couch_frame (by decide)
  refine Frame.next ?_ Dev.admitSample_frame (by decide)
  refine Frame.next ?_ Dev.ingest_frame (by decide)
  exact Frame.refl _ _
  split
  refine Frame.next ?_ Dev.admitSample_frame (by decide)
  refine Frame.next ?_ Dev.ingest_frame (by decide)
  exact Frame.refl _ _
  refine Frame.next ?_ Dev.tapFrame_frame (by decide)
  refine Frame.next ?_ Dev.bmfFrame_frame (by decide)
  refine Frame.next ?_ Dev.couch_frame (by decide)
  refine Frame.next ?_ Dev.admitSample_frame (by decide)
  refine Frame.next ?_ Dev.ingest_frame (by decide)
  exact Frame.refl _ _

theorem Dev.trigFrameRx_frame {d l fr}
    : Frame [.pba, .pirq, .live, .nextc, .out, .lnb, .ing, .trg] d (Dev.trigFrameRx d l fr) := by
  unfold Dev.trigFrameRx
  refine Frame.ite ?_ ?_
  exact Frame.refl _ _
  dsimp only
  refine Frame.ite ?_ ?_
  refine Frame.next ?_ Dev.ingest_frame (by decide)
  exact Frame.refl _ _
  refine Frame.next ?_ Dev.peerEvent_frame (by decide)
  refine Frame.next ?_ Dev.ingest_frame (by decide)
  exact Frame.refl _ _

theorem Dev.idleFrameRx_frame {d l fr}
    : Frame [.pba, .pirq, .live, .nextc, .out, .lnb, .ing] d (Dev.idleFrameRx d l fr) := by
  unfold Dev.idleFrameRx
  refine Frame.ite ?_ ?_
  exact Frame.refl _ _
  refine Frame.next ?_ Dev.ingest_frame (by decide)
  exact Frame.refl _ _

theorem Dev.forwardFrame_frame {d l} : Frame [.live, .out, .lnb] d (Dev.forwardFrame d l) := by
  unfold Dev.forwardFrame
  split
  exact Frame.refl _ _
  refine Frame.ite ?_ ?_
  refine Frame.upd_lnb ?_ (by decide)
  exact Frame.refl _ _
  refine Frame.next ?_ Dev.sendFrame_frame (by decide)
  refine Frame.upd_lnb ?_ (by decide)
  exact Frame.refl _ _

theorem Dev.idleSend_frame {d n} : Frame [.live, .out, .lnb] d (Dev.idleSend d n) := by
  unfold Dev.idleSend
  refine Frame.ite ?_ ?_
  exact Frame.refl _ _
  refine Frame.next ?_ Dev.sendFrame_frame (by decide)
  exact Frame.refl _ _

theorem Dev.frameSetClose_frame {d g f2 overrun lat}
    : Frame [.pba, .pirq, .live, .nextc, .out, .ing, .dkl, .acc, .bmf, .trg, .bur, .mem] d (Dev.frameSetClose d g f2
      overrun lat) := by
  unfold Dev.frameSetClose
  refine Frame.ite ?_ ?_
  exact Frame.refl _ _
  dsimp only
  refine Frame.next ?_ Dev.streamDue_frame (by decide)
  split
  refine Frame.next ?_ Dev.burFspow_frame (by decide)
  refine Frame.next ?_ Dev.trgTake_frame (by decide)
  refine Frame.next ?_ Dev.bmfClose_frame (by decide)
  refine Frame.next ?_ Dev.closeSet_frame (by decide)
  exact Frame.refl _ _
  refine Frame.next ?_ Dev.burFspow_frame (by decide)
  refine Frame.upd_bmf ?_ (by decide)
  refine Frame.next ?_ Dev.bmfClose_frame (by decide)
  refine Frame.next ?_ Dev.closeSet_frame (by decide)
  exact Frame.refl _ _

theorem Dev.triggerEval_frame {d lat}
    : Frame [.pba, .pirq, .live, .out, .dkl, .trg, .bur] d (Dev.triggerEval d lat) := by
  unfold Dev.triggerEval
  refine Frame.ite ?_ ?_
  exact Frame.refl _ _
  refine Frame.next ?_ Dev.trgGeom_frame (by decide)
  refine Frame.foldl ?_ ?_
  refine Frame.next ?_ Dev.tickDecide_frame (by decide)
  exact Frame.refl _ _
  intro _ _ _
  refine Frame.next ?_ Dev.burTrgy_frame (by decide)
  assumption

theorem Dev.sheetComplete_frame {d}
    : Frame [.pba, .pirq, .live, .out, .sys, .run, .ing, .dkl, .hat, .acc, .trg, .bur, .mem] d (Dev.sheetComplete d)
      := by
  unfold Dev.sheetComplete
  refine Frame.ite ?_ ?_
  exact Frame.refl _ _
  (dsimp only; split)
  refine Frame.next ?_ Dev.completeSheet_frame (by decide)
  exact Frame.refl _ _
  refine Frame.next ?_ Dev.streamDue_frame (by decide)
  refine Frame.next ?_ Dev.burSheet_frame (by decide)
  refine Frame.next ?_ Dev.burCycles_frame (by decide)
  refine Frame.next ?_ Dev.hatSheet_frame (by decide)
  refine Frame.next ?_ Dev.accSheet_frame (by decide)
  refine Frame.next ?_ Dev.completeSheet_frame (by decide)
  exact Frame.refl _ _

theorem Dev.statisticsLatch_frame {d}
    : Frame [.pba, .hdr, .pirq, .stats, .live, .nextc, .state, .out, .sys, .pwr, .lnb, .plt, .run, .hat, .acc, .pair,
      .bur] d (Dev.statisticsLatch d) := by
  unfold Dev.statisticsLatch
  refine Frame.ite ?_ ?_
  exact Frame.refl _ _
  refine Frame.next ?_ Dev.drainCheck_frame (by decide)
  refine Frame.next ?_ Dev.retireOutgoing_frame (by decide)
  refine Frame.next ?_ Dev.burLatch_frame (by decide)
  refine Frame.upd_sys_run ?_ (.inl rfl) (.inl ⟨rfl, rfl⟩) (.inl ⟨rfl, rfl, rfl⟩) (.inl rfl) (.inr (by decide)) (by decide)
  refine Frame.next ?_ Dev.accLatch_frame (by decide)
  refine Frame.next ?_ Dev.statsLatch_frame (by decide)
  refine Frame.ite ?_ ?_
  refine Frame.next ?_ Dev.modGather_frame (by decide)
  refine Frame.ite ?_ ?_
  refine Frame.next ?_ Dev.accFroze_frame (by decide)
  exact Frame.refl _ _
  exact Frame.refl _ _
  refine Frame.ite ?_ ?_
  refine Frame.next ?_ Dev.accFroze_frame (by decide)
  exact Frame.refl _ _
  exact Frame.refl _ _

theorem Dev.recordFinished_frame {d}
    : Frame [.pba, .pirq, .live, .nextc, .state, .out, .lnb, .plt, .run, .hat, .acc, .pair, .mem] d
      (Dev.recordFinished d) := by
  unfold Dev.recordFinished
  split
  exact Frame.refl _ _
  refine Frame.ite ?_ ?_
  exact Frame.refl _ _
  refine Frame.ite ?_ ?_
  refine Frame.next ?_ Dev.endRun_frame (by decide)
  refine Frame.next ?_ Dev.closeWaiting_frame (by decide)
  refine Frame.next ?_ Dev.wmOwn_frame (by decide)
  refine Frame.next ?_ Dev.finishRecord_frame (by decide)
  refine Frame.next ?_ Dev.suspectFlagsClose_frame (by decide)
  exact Frame.refl _ _
  refine Frame.next ?_ Dev.drainCheck_frame (by decide)
  refine Frame.next ?_ Dev.closeWaiting_frame (by decide)
  refine Frame.next ?_ Dev.wmOwn_frame (by decide)
  refine Frame.next ?_ Dev.finishRecord_frame (by decide)
  refine Frame.next ?_ Dev.suspectFlagsClose_frame (by decide)
  exact Frame.refl _ _

theorem Dev.thawDone_frame {d recur addr syn still}
    : Frame [.pba, .perr, .pirq, .live, .nextc, .state, .errlog, .out, .lnb, .plt, .run, .ing, .dkl, .acc, .pair,
      .mctl, .mem, .bmf] d (Dev.thawDone d recur addr syn still) := by
  unfold Dev.thawDone
  refine Frame.ite ?_ ?_
  refine Frame.next ?_ Dev.endRun_frame (by decide)
  split
  refine Frame.ite ?_ ?_
  refine Frame.next ?_ Dev.cutCaptures_frame (by decide)
  refine Frame.next ?_ Dev.thawCheckDone_frame (by decide)
  exact Frame.refl _ _
  refine Frame.next ?_ Dev.thawCheckDone_frame (by decide)
  exact Frame.refl _ _
  refine Frame.next ?_ Dev.thawCheckDone_frame (by decide)
  exact Frame.refl _ _
  refine Frame.next ?_ Dev.drainCheck_frame (by decide)
  split
  refine Frame.ite ?_ ?_
  refine Frame.next ?_ Dev.cutCaptures_frame (by decide)
  refine Frame.next ?_ Dev.thawCheckDone_frame (by decide)
  exact Frame.refl _ _
  refine Frame.next ?_ Dev.thawCheckDone_frame (by decide)
  exact Frame.refl _ _
  refine Frame.next ?_ Dev.thawCheckDone_frame (by decide)
  exact Frame.refl _ _

theorem Dev.shedFallAll_frame {d}
    : Frame [.pba, .pirq, .live, .nextc, .state, .out, .boot, .pwr, .lnb, .plt, .run, .ing, .acc, .bmf, .trg, .pair,
      .bur, .mctl] d (Dev.shedFallAll d) := by
  unfold Dev.shedFallAll
  refine Frame.next ?_ Dev.drainCheck_frame (by decide)
  refine Frame.next ?_ Dev.shedFall_frame (by decide)
  exact Frame.refl _ _

/-! ### Reset -/

theorem Dev.landsLow_frame {d} : Frame [.out, .trg] d (Dev.landsLow d) := by
  unfold Dev.landsLow
  refine Frame.ite ?_ ?_
  refine Frame.next ?_ Dev.emit_frame (by decide)
  refine Frame.next ?_ Dev.trigoutsLow_frame (by decide)
  exact Frame.refl _ _
  refine Frame.next ?_ Dev.trigoutsLow_frame (by decide)
  exact Frame.refl _ _

theorem Dev.islandsLost_frame {d cause rail k} :
    Frame [.regs, .pba, .act, .hdr, .perr, .pirq, .stats, .live, .nextc, .out, .boot, .time, .msp, .mspSh, .monword, .eth,
      .clk, .lnb, .plt, .run, .ing, .dkl, .hat, .acc, .bmf, .trg, .pair, .bur, .mctl, .fab, .hif, .dma, .mmu, .mem] d
      (Dev.islandsLost d cause rail k) := by
  unfold Dev.islandsLost
  dsimp only
  refine Frame.trans (d := d.landsLow) (Dev.landsLow_frame.mono (by decide)) fun p hp => ?_
  cases p <;> first
    | exact absurd (by decide) hp
    | exact rfl
    | exact ⟨rfl, rfl⟩
    | exact ⟨rfl, rfl, rfl⟩
    | exact ⟨rfl, rfl, rfl, rfl⟩
    | (simp only [Part.same]; split <;> rfl)

theorem Dev.moduleReset_frame {d cause}
    : Frame [.regs, .pba, .act, .hdr, .perr, .pirq, .stats, .live, .nextc, .state, .out, .boot, .time, .msp, .mspSh,
      .monword, .eth, .clk, .lnb, .plt, .run, .ing, .dkl, .hat, .acc, .bmf, .trg, .pair, .bur, .mctl, .fab, .hif,
      .dma, .mmu, .mem] d (Dev.moduleReset d cause) := by
  unfold Dev.moduleReset
  refine Frame.next ?_ Dev.masters_frame (by decide)
  refine Frame.next ?_ Dev.setState_frame (by decide)
  refine Frame.next ?_ Dev.islandsLost_frame (by decide)
  exact Frame.refl _ _

theorem Dev.linkReset_frame {d perst}
    : Frame [.regs, .pba, .act, .hdr, .perr, .pirq, .stats, .live, .nextc, .state, .out, .boot, .time, .msp, .mspSh,
      .monword, .eth, .clk, .lnb, .plt, .run, .ing, .dkl, .hat, .acc, .bmf, .trg, .pair, .bur, .mctl, .fab, .hif,
      .dma, .mmu, .mem] d (Dev.linkReset d perst) := by
  unfold Dev.linkReset
  refine Frame.ite ?_ ?_
  refine Frame.upd_boot ?_ (by decide)
  exact Frame.refl _ _
  refine Frame.next ?_ Dev.moduleReset_frame (by decide)
  refine Frame.upd_boot ?_ (by decide)
  exact Frame.refl _ _

theorem Dev.perstRelease_frame {d} : Frame [.boot] d (Dev.perstRelease d) := by
  unfold Dev.perstRelease
  refine Frame.upd_boot ?_ (by decide)
  exact Frame.refl _ _

theorem Dev.linkUp_frame {d speed width flit}
    : Frame [.pba, .pirq, .out, .boot, .hif] d (Dev.linkUp d speed width flit) := by
  unfold Dev.linkUp
  refine Frame.ite ?_ ?_
  exact Frame.refl _ _
  refine Frame.next ?_ Dev.raise_frame (by decide)
  refine Frame.upd_boot_hif ?_ (by decide) (by decide)
  exact Frame.refl _ _

theorem Dev.allLost_frame {d porst} :
    Frame [.regs, .pba, .act, .hdr, .perr, .pirq, .stats, .live, .nextc, .state, .cmd, .errlog, .out, .sys, .boot, .pwr,
      .estop, .aon, .loc, .time, .msp, .mspSh, .monword, .eth, .clk, .lnb, .plt, .run, .ing, .dkl, .hat, .acc, .bmf, .trg,
      .pair, .bur, .mctl, .fab, .hif, .dma, .mmu, .mem] d (Dev.allLost d porst) := by
  unfold Dev.allLost
  dsimp only
  refine Frame.trans (d := d.landsLow) (Dev.landsLow_frame.mono (by decide)) fun p hp => ?_
  cases p <;> first | exact absurd (by decide) hp | exact rfl

theorem Dev.powerOnReset_frame {d}
    : Frame [.regs, .pba, .act, .hdr, .perr, .pirq, .stats, .live, .nextc, .state, .cmd, .errlog, .out, .sys, .boot,
      .pwr, .estop, .aon, .loc, .time, .msp, .mspSh, .monword, .eth, .clk, .lnb, .plt, .run, .ing, .dkl, .hat, .acc,
      .bmf, .trg, .pair, .bur, .mctl, .fab, .hif, .dma, .mmu, .mem] d (Dev.powerOnReset d) := by
  unfold Dev.powerOnReset
  exact Frame.next (Frame.ite (Frame.next (Frame.refl _ _) Dev.emit_frame (by decide)) (Frame.refl _ _)) Dev.allLost_frame
    (by decide)

theorem Dev.romStart_frame {d}
    : Frame [.pba, .pirq, .live, .state, .out, .boot, .estop, .lnb, .trg, .pair] d (Dev.romStart d) := by
  unfold Dev.romStart
  refine Frame.ite ?_ ?_
  refine Frame.next ?_ Dev.estop_frame (by decide)
  refine Frame.upd_sys_boot ?_ (.inr (by decide)) (.inl ⟨rfl, rfl⟩) (.inl ⟨rfl, rfl, rfl⟩) (.inl rfl) (.inl ⟨rfl, rfl, rfl, rfl⟩) (by decide)
  exact Frame.refl _ _
  refine Frame.upd_sys_boot ?_ (.inr (by decide)) (.inl ⟨rfl, rfl⟩) (.inl ⟨rfl, rfl, rfl⟩) (.inl rfl) (.inl ⟨rfl, rfl, rfl, rfl⟩) (by decide)
  exact Frame.refl _ _

theorem Dev.porstRelease_frame {d}
    : Frame [.pba, .pirq, .live, .state, .out, .boot, .estop, .lnb, .trg, .pair] d (Dev.porstRelease d) := by
  unfold Dev.porstRelease
  refine Frame.ite ?_ ?_
  refine Frame.next ?_ Dev.romStart_frame (by decide)
  exact Frame.refl _ _
  exact Frame.refl _ _

theorem Dev.supplyReset_frame {d r}
    : Frame [.regs, .pba, .act, .hdr, .perr, .pirq, .stats, .live, .nextc, .state, .cmd, .errlog, .out, .sys, .boot,
      .pwr, .estop, .aon, .loc, .time, .msp, .mspSh, .monword, .eth, .clk, .lnb, .plt, .run, .ing, .dkl, .hat, .acc,
      .bmf, .trg, .pair, .bur, .mctl, .fab, .hif, .dma, .mmu, .mem] d (Dev.supplyReset d r) := by
  unfold Dev.supplyReset
  refine Frame.ite ?_ ?_
  exact Frame.refl _ _
  refine Frame.ite ?_ ?_
  refine Frame.upd_pwr ?_ (by decide)
  refine Frame.next ?_ Dev.allLost_frame (by decide)
  exact Frame.refl _ _
  refine Frame.ite (Frame.refl _ _) ?_
  refine Frame.next ?_ Dev.setState_frame (by decide)
  refine Frame.next ?_ Dev.islandsLost_frame (by decide)
  refine Frame.upd_boot ?_ (by decide)
  exact Frame.refl _ _

theorem Dev.holdRelease_frame {d}
    : Frame [.pba, .pirq, .live, .state, .out, .boot, .estop, .lnb, .trg, .pair] d (Dev.holdRelease d) := by
  unfold Dev.holdRelease
  refine Frame.ite ?_ ?_
  exact Frame.refl _ _
  refine Frame.ite ?_ ?_
  refine Frame.next ?_ Dev.romStart_frame (by decide)
  exact Frame.refl _ _
  refine Frame.next ?_ Dev.setState_frame (by decide)
  refine Frame.upd_boot ?_ (by decide)
  exact Frame.refl _ _

theorem Dev.tempSample_frame {d t sensor}
    : Frame [.regs, .pba, .act, .hdr, .perr, .pirq, .stats, .live, .nextc, .state, .errlog, .out, .boot, .pwr, .aon,
      .time, .msp, .mspSh, .monword, .eth, .clk, .lnb, .plt, .run, .ing, .dkl, .hat, .acc, .bmf, .trg, .pair, .bur,
      .mctl, .fab, .hif, .dma, .mmu, .mem, .free] d (Dev.tempSample d t sensor) := by
  unfold Dev.tempSample
  refine Frame.ite ?_ ?_
  exact Frame.refl _ _
  refine Frame.ite ?_ ?_
  refine Frame.next ?_ Dev.emit_frame (by decide)
  refine Frame.upd_aon ?_ (.inl rfl) (.inr (by decide))
  refine Frame.next ?_ Dev.setState_frame (by decide)
  refine Frame.next ?_ Dev.islandsLost_frame (by decide)
  refine Frame.upd_boot ?_ (by decide)
  exact Frame.refl _ _
  refine Frame.next ?_ Dev.tempLevels_frame (by decide)
  exact Frame.refl _ _

theorem Dev.imgData_frame {d v} : Frame [.pba, .perr, .pirq, .errlog, .out, .boot] d (Dev.imgData d v) := by
  unfold Dev.imgData
  refine Dev.guard_frame ?_ ?_ (by decide)
  exact Frame.refl _ _
  intro _ _
  refine Frame.upd_boot ?_ (by decide)
  assumption

theorem Dev.imgLen_frame {d v} : Frame [.pba, .perr, .pirq, .errlog, .out, .boot] d (Dev.imgLen d v) := by
  unfold Dev.imgLen
  refine Dev.guard_frame ?_ ?_ (by decide)
  exact Frame.refl _ _
  intro _ _
  refine Frame.upd_boot ?_ (by decide)
  assumption

theorem Dev.imgCtl_frame {d v} : Frame [.pba, .perr, .pirq, .errlog, .out, .boot] d (Dev.imgCtl d v) := by
  unfold Dev.imgCtl
  refine Dev.guard_frame ?_ ?_ (by decide)
  exact Frame.refl _ _
  intro _ _
  refine Frame.ite ?_ ?_
  refine Frame.upd_boot ?_ (by decide)
  refine Frame.ite ?_ ?_
  refine Frame.upd_boot ?_ (by decide)
  refine Frame.upd_boot ?_ (by decide)
  assumption
  refine Frame.upd_boot ?_ (by decide)
  assumption
  refine Frame.ite ?_ ?_
  refine Frame.upd_boot ?_ (by decide)
  refine Frame.upd_boot ?_ (by decide)
  assumption
  refine Frame.upd_boot ?_ (by decide)
  assumption

theorem Dev.startPage_frame {d p} : Frame [.hdr] d (Dev.startPage d p) := by
  unfold Dev.startPage
  refine Frame.modPage ?_ (.inr (by decide)) (.inl fun _ => rfl) (.inl fun _ => ⟨rfl, rfl⟩)
  exact Frame.refl _ _

theorem Dev.booting_frame {d pllFail}
    : Frame [.pba, .hdr, .pirq, .state, .out, .boot, .mctl] d (Dev.booting d pllFail) := by
  unfold Dev.booting
  refine Frame.next ?_ Dev.payOwed_frame (by decide)
  refine Frame.ite ?_ ?_
  refine Frame.next ?_ Dev.setState_frame (by decide)
  refine Frame.upd_boot ?_ (by decide)
  exact Frame.refl _ _
  refine Frame.upd_mctl ?_ (by decide)
  refine Frame.foldl ?_ ?_
  refine Frame.next ?_ Dev.setState_frame (by decide)
  refine Frame.upd_boot ?_ (by decide)
  exact Frame.refl _ _
  intro _ _ _
  refine Frame.next ?_ Dev.startPage_frame (by decide)
  assumption

theorem Dev.imageVerifyDone_frame {d poison pllFail}
    : Frame [.pba, .hdr, .perr, .pirq, .state, .out, .boot, .mctl] d (Dev.imageVerifyDone d poison pllFail) := by
  unfold Dev.imageVerifyDone
  refine Frame.ite ?_ ?_
  exact Frame.refl _ _
  refine Frame.ite ?_ ?_
  refine Frame.next ?_ Dev.perr_frame (by decide)
  refine Frame.upd_boot ?_ (by decide)
  exact Frame.refl _ _
  refine Frame.next ?_ Dev.booting_frame (by decide)
  refine Frame.upd_boot ?_ (by decide)
  exact Frame.refl _ _

theorem Dev.memoryTrainingDone_frame {d failed bad quires lanes sram}
    : Frame [.pba, .hdr, .pirq, .live, .errlog, .out, .boot, .time, .lnb, .plt, .hat, .mctl, .mem] d
      (Dev.memoryTrainingDone d failed bad quires lanes sram) := by
  unfold Dev.memoryTrainingDone
  refine Frame.ite ?_ ?_
  exact Frame.refl _ _
  refine Frame.upd_boot ?_ (by decide)
  refine Frame.foldl ?_ ?_
  refine Frame.next ?_ Dev.fmapOnce_frame (by decide)
  refine Frame.next ?_ Dev.hatSelftest_frame (by decide)
  refine Frame.next ?_ Dev.trainingDone_frame (by decide)
  refine Frame.foldl ?_ ?_
  exact Frame.refl _ _
  intro _ _ _
  refine Frame.ite ?_ ?_
  assumption
  refine Frame.next ?_ Dev.startPage_frame (by decide)
  assumption
  intro _ _ _
  refine Frame.next ?_ Dev.laneTested_frame (by decide)
  assumption

theorem Dev.refTimeout_frame {d} : Frame [.boot] d (Dev.refTimeout d) := by
  unfold Dev.refTimeout
  refine Frame.ite ?_ ?_
  refine Frame.upd_boot ?_ (by decide)
  exact Frame.refl _ _
  exact Frame.refl _ _

theorem Dev.broughtUp_frame {d} : Frame [.pba, .pirq, .state, .out, .boot] d (Dev.broughtUp d) := by
  unfold Dev.broughtUp
  refine Frame.next ?_ Dev.payOwed_frame (by decide)
  refine Frame.next ?_ Dev.raise_frame (by decide)
  refine Frame.next ?_ Dev.setState_frame (by decide)
  refine Frame.upd_boot ?_ (by decide)
  exact Frame.refl _ _

theorem Dev.bringupComplete_frame {d} : Frame [.pba, .pirq, .state, .out, .boot] d (Dev.bringupComplete d) := by
  unfold Dev.bringupComplete
  refine Frame.ite ?_ ?_
  refine Frame.next ?_ Dev.broughtUp_frame (by decide)
  exact Frame.refl _ _
  exact Frame.refl _ _

theorem Dev.recoveryComplete_frame {d} : Frame [.pba, .pirq, .state, .out, .boot] d (Dev.recoveryComplete d) := by
  unfold Dev.recoveryComplete
  refine Frame.ite ?_ ?_
  refine Frame.next ?_ Dev.broughtUp_frame (by decide)
  exact Frame.refl _ _
  exact Frame.refl _ _

theorem Dev.relight_frame {d n} : Frame [.pba, .pirq, .live, .out, .time, .lnb] d (Dev.relight d n) := by
  unfold Dev.relight
  refine Frame.ite ?_ ?_
  exact Frame.refl _ _
  refine Frame.next ?_ Dev.laneDrop_frame (by decide)
  exact Frame.refl _ _

theorem Dev.recover_frame {d}
    : Frame [.regs, .pba, .act, .pirq, .live, .nextc, .state, .out, .boot, .time, .lnb, .plt, .run, .ing, .dkl, .hat,
      .acc, .bmf, .trg, .pair, .bur, .fab, .mem] d (Dev.recover d) := by
  unfold Dev.recover
  refine Frame.next ?_ Dev.pairSync_frame (by decide)
  refine Frame.next ?_ Dev.setState_frame (by decide)
  refine Frame.upd_boot ?_ (by decide)
  refine Frame.next ?_ Dev.portReset_frame (by decide)
  refine Frame.foldl ?_ ?_
  refine Frame.foldl ?_ ?_
  refine Frame.foldl ?_ ?_
  refine Frame.ite ?_ ?_
  refine Frame.next ?_ Dev.rolesNow_frame (by decide)
  refine Frame.upd_plt ?_ (by decide)
  refine Frame.next ?_ Dev.pltAbort_frame (by decide)
  refine Frame.ite ?_ ?_
  refine Frame.next ?_ Dev.dataStop_frame (by decide)
  exact Frame.refl _ _
  exact Frame.refl _ _
  refine Frame.next ?_ Dev.pltAbort_frame (by decide)
  refine Frame.ite ?_ ?_
  refine Frame.next ?_ Dev.dataStop_frame (by decide)
  exact Frame.refl _ _
  exact Frame.refl _ _
  intro _ _ _
  refine Frame.ite ?_ ?_
  assumption
  refine Frame.next ?_ Dev.setCore_frame (by decide)
  assumption
  intro _ _ _
  refine Frame.setReg ?_ (by decide) (.inr (by decide))
  assumption
  intro _ _ _
  refine Frame.next ?_ Dev.relight_frame (by decide)
  assumption

theorem Dev.mladefReset_frame {d cause}
    : Frame [.regs, .pba, .act, .hdr, .perr, .pirq, .stats, .live, .nextc, .state, .out, .boot, .time, .msp, .mspSh,
      .monword, .eth, .clk, .lnb, .plt, .run, .ing, .dkl, .hat, .acc, .bmf, .trg, .pair, .bur, .mctl, .fab, .hif,
      .dma, .mmu, .mem] d (Dev.mladefReset d cause) := by
  unfold Dev.mladefReset
  refine Frame.ite ?_ ?_
  exact Frame.refl _ _
  refine Frame.ite ?_ ?_
  refine Frame.next ?_ Dev.moduleReset_frame (by decide)
  exact Frame.refl _ _
  refine Frame.next ?_ Dev.recover_frame (by decide)
  refine Frame.upd_boot ?_ (by decide)
  exact Frame.refl _ _

theorem Dev.watchdogExpire_frame {d}
    : Frame [.regs, .pba, .act, .hdr, .perr, .pirq, .stats, .live, .nextc, .state, .out, .boot, .aon, .time, .msp,
      .mspSh, .monword, .eth, .clk, .lnb, .plt, .run, .ing, .dkl, .hat, .acc, .bmf, .trg, .pair, .bur, .mctl, .fab,
      .hif, .dma, .mmu, .mem, .free] d (Dev.watchdogExpire d) := by
  unfold Dev.watchdogExpire
  refine Frame.ite ?_ ?_
  exact Frame.refl _ _
  refine Frame.ite ?_ ?_
  refine Frame.next ?_ Dev.moduleReset_frame (by decide)
  exact Frame.refl _ _
  refine Frame.next ?_ Dev.mladefReset_frame (by decide)
  refine Frame.ite ?_ ?_
  refine Frame.next ?_ Dev.snapTake_frame (by decide)
  exact Frame.refl _ _
  exact Frame.refl _ _

theorem Dev.wdogWrite_frame {d v}
    : Frame [.regs, .pba, .act, .hdr, .perr, .pirq, .stats, .live, .nextc, .state, .errlog, .out, .boot, .time, .msp,
      .mspSh, .monword, .eth, .clk, .lnb, .plt, .run, .ing, .dkl, .hat, .acc, .bmf, .trg, .pair, .bur, .mctl, .fab,
      .hif, .dma, .mmu, .mem] d (Dev.wdogWrite d v) := by
  unfold Dev.wdogWrite
  refine Dev.guard_frame ?_ ?_ (by decide)
  exact Frame.refl _ _
  intro _ _
  refine Frame.ite ?_ ?_
  refine Frame.next ?_ Dev.moduleReset_frame (by decide)
  refine Frame.upd_boot ?_ (by decide)
  assumption
  refine Frame.upd_boot ?_ (by decide)
  assumption

theorem Dev.aonWdReset_frame {d i3c confirm}
    : Frame [.regs, .pba, .act, .hdr, .perr, .pirq, .stats, .live, .nextc, .state, .out, .boot, .aon, .time, .msp,
      .mspSh, .monword, .eth, .clk, .lnb, .plt, .run, .ing, .dkl, .hat, .acc, .bmf, .trg, .pair, .bur, .mctl, .fab,
      .hif, .dma, .mmu, .mem] d (Dev.aonWdReset d i3c confirm) := by
  unfold Dev.aonWdReset
  refine Dev.aonOp_frame ?_ ?_ (by decide)
  exact Frame.refl _ _
  intro _ _
  refine Frame.next ?_ Dev.moduleReset_frame (by decide)
  assumption

theorem Dev.aonSetShed_frame {d i3c}
    : Frame [.regs, .pba, .hdr, .perr, .pirq, .live, .state, .errlog, .out, .pwr, .aon, .time, .msp, .lnb, .plt, .dkl,
      .hat, .acc, .bmf, .trg, .pair, .bur, .mctl, .fab, .dma, .mmu, .mem, .free] d (Dev.aonSetShed d i3c) := by
  unfold Dev.aonSetShed
  refine Dev.aonOp_frame ?_ ?_ (by decide)
  exact Frame.refl _ _
  intro _ _
  refine Frame.next ?_ Dev.hostLevel_frame (by decide)
  assumption

theorem Dev.aonCmd_frame {d i3c v}
    : Frame [.regs, .pba, .act, .hdr, .perr, .pirq, .stats, .live, .nextc, .state, .errlog, .out, .sys, .boot, .pwr,
      .estop, .aon, .time, .msp, .mspSh, .monword, .eth, .clk, .lnb, .plt, .run, .ing, .dkl, .hat, .acc, .bmf, .trg,
      .pair, .bur, .mctl, .fab, .hif, .dma, .mmu, .mem, .free] d (Dev.aonCmd d i3c v) := by
  unfold Dev.aonCmd
  split
  refine Dev.aonOp_frame ?_ ?_ (by decide)
  refine Frame.next ?_ Dev.setAonPort_frame (by decide)
  exact Frame.refl _ _
  intro _ _
  assumption
  refine Frame.next ?_ Dev.aonRead_frame (by decide)
  refine Frame.next ?_ Dev.setAonPort_frame (by decide)
  exact Frame.refl _ _
  refine Frame.next ?_ Dev.aonEstop_frame (by decide)
  refine Frame.next ?_ Dev.setAonPort_frame (by decide)
  exact Frame.refl _ _
  refine Frame.next ?_ Dev.aonRelease_frame (by decide)
  refine Frame.next ?_ Dev.setAonPort_frame (by decide)
  exact Frame.refl _ _
  refine Frame.next ?_ Dev.aonSnapTake_frame (by decide)
  refine Frame.next ?_ Dev.setAonPort_frame (by decide)
  exact Frame.refl _ _
  refine Frame.next ?_ Dev.aonSnapClear_frame (by decide)
  refine Frame.next ?_ Dev.setAonPort_frame (by decide)
  exact Frame.refl _ _
  refine Frame.next ?_ Dev.aonWdReset_frame (by decide)
  refine Frame.next ?_ Dev.setAonPort_frame (by decide)
  exact Frame.refl _ _
  refine Frame.next ?_ Dev.aonSetShed_frame (by decide)
  refine Frame.next ?_ Dev.setAonPort_frame (by decide)
  exact Frame.refl _ _
  refine Frame.next ?_ Dev.aonReadSnap_frame (by decide)
  refine Frame.next ?_ Dev.setAonPort_frame (by decide)
  exact Frame.refl _ _
  refine Dev.aonOp_frame ?_ ?_ (by decide)
  refine Frame.next ?_ Dev.setAonPort_frame (by decide)
  exact Frame.refl _ _
  intro _ _
  assumption

theorem Dev.aonDo_frame {d i3c addr cmd}
    : Frame [.regs, .pba, .act, .hdr, .perr, .pirq, .stats, .live, .nextc, .state, .errlog, .out, .sys, .boot, .pwr,
      .estop, .aon, .time, .msp, .mspSh, .monword, .eth, .clk, .lnb, .plt, .run, .ing, .dkl, .hat, .acc, .bmf, .trg,
      .pair, .bur, .mctl, .fab, .hif, .dma, .mmu, .mem, .free] d (Dev.aonDo d i3c addr cmd) := by
  unfold Dev.aonDo
  refine Frame.ite ?_ ?_
  refine Frame.next ?_ Dev.aonCmd_frame (by decide)
  refine Frame.next ?_ Dev.setAonPort_frame (by decide)
  exact Frame.refl _ _
  exact Frame.refl _ _

theorem Dev.i3cWrite_frame {d idx v}
    : Frame [.regs, .pba, .act, .hdr, .perr, .pirq, .stats, .live, .nextc, .state, .errlog, .out, .sys, .boot, .pwr,
      .estop, .aon, .time, .msp, .mspSh, .monword, .eth, .clk, .lnb, .plt, .run, .ing, .dkl, .hat, .acc, .bmf, .trg,
      .pair, .bur, .mctl, .fab, .hif, .dma, .mmu, .mem, .free] d (Dev.i3cWrite d idx v) := by
  unfold Dev.i3cWrite
  refine Frame.ite ?_ ?_
  exact Frame.refl _ _
  split
  refine Frame.next ?_ Dev.aonCmd_frame (by decide)
  refine Frame.upd_aon ?_ (.inl rfl) (.inr (by decide))
  exact Frame.refl _ _
  refine Frame.next ?_ Dev.setAonPort_frame (by decide)
  refine Frame.upd_aon ?_ (.inl rfl) (.inr (by decide))
  exact Frame.refl _ _
  refine Frame.next ?_ Dev.imgData_frame (by decide)
  refine Frame.upd_aon ?_ (.inl rfl) (.inr (by decide))
  exact Frame.refl _ _
  refine Frame.next ?_ Dev.imgLen_frame (by decide)
  refine Frame.upd_aon ?_ (.inl rfl) (.inr (by decide))
  exact Frame.refl _ _
  refine Frame.next ?_ Dev.imgCtl_frame (by decide)
  refine Frame.upd_aon ?_ (.inl rfl) (.inr (by decide))
  exact Frame.refl _ _
  refine Frame.upd_aon ?_ (.inl rfl) (.inr (by decide))
  exact Frame.refl _ _

theorem Dev.i3cRead_frame {d} : Frame [.out] d (Dev.i3cRead d) := by
  unfold Dev.i3cRead
  refine Frame.ite ?_ ?_
  refine Frame.next ?_ Dev.emit_frame (by decide)
  exact Frame.refl _ _
  exact Frame.refl _ _

theorem Dev.cccGet_frame {d} : Frame [.out, .free] d (Dev.cccGet d) := by
  unfold Dev.cccGet
  dsimp only
  refine Frame.next ?_ Dev.emit_frame (by decide)
  refine Frame.next ?_ Dev.fresh_frame (by decide)
  exact Frame.refl _ _

theorem Dev.i3cCcc_frame {d c} : Frame [.out, .aon, .free] d (Dev.i3cCcc d c) := by
  unfold Dev.i3cCcc
  refine Frame.ite ?_ ?_
  exact Frame.refl _ _
  split
  refine Frame.ite ?_ ?_
  refine Frame.upd_aon ?_ (.inl rfl) (.inr (by decide))
  exact Frame.refl _ _
  exact Frame.refl _ _
  refine Frame.ite ?_ ?_
  refine Frame.upd_aon ?_ (.inl rfl) (.inr (by decide))
  exact Frame.refl _ _
  exact Frame.refl _ _
  refine Frame.upd_aon ?_ (.inl rfl) (.inr (by decide))
  exact Frame.refl _ _
  refine Frame.next ?_ Dev.cccGet_frame (by decide)
  exact Frame.refl _ _
  refine Frame.next ?_ Dev.cccGet_frame (by decide)
  exact Frame.refl _ _
  refine Frame.next ?_ Dev.cccGet_frame (by decide)
  exact Frame.refl _ _
  refine Frame.next ?_ Dev.cccGet_frame (by decide)
  exact Frame.refl _ _
  exact Frame.refl _ _

theorem Dev.pageCleared_frame {d p}
    : Frame [.regs, .pba, .act, .hdr, .perr, .pirq, .stats, .live, .nextc] d (Dev.pageCleared d p) := by
  unfold Dev.pageCleared
  refine Frame.modPage ?_ (.inr (by decide)) (.inr (by decide)) (.inr (by decide))
  refine Frame.upd_regs_act_stats_live_nextc ?_ (by decide) (by decide) (by decide) (by decide) (by decide) (by decide)
  exact Frame.refl _ _

theorem Dev.lnbReset_frame {d g} : Frame [.pba, .pirq, .live, .out, .time, .lnb] d (Dev.lnbReset d g) := by
  unfold Dev.lnbReset
  refine Frame.next ?_ Dev.masters_frame (by decide)
  refine Frame.foldl ?_ ?_
  exact Frame.refl _ _
  intro _ _ _
  refine Frame.upd_lnb ?_ (by decide)
  refine Frame.next ?_ Dev.setLane_frame (by decide)
  assumption

theorem Dev.blockReset_frame {d p}
    : Frame [.regs, .pba, .hdr, .perr, .pirq, .live, .state, .errlog, .out, .pwr, .time, .msp, .mspSh, .monword, .eth,
      .clk, .lnb, .plt, .ing, .dkl, .hat, .acc, .bmf, .trg, .pair, .bur, .mctl, .fab, .dma, .mmu, .mem, .free] d
      (Dev.blockReset d p) := by
  unfold Dev.blockReset
  refine Frame.ite ?_ ?_
  refine Frame.next ?_ Dev.levelNow_frame (by decide)
  refine Frame.upd_pwr ?_ (by decide)
  exact Frame.refl _ _
  refine Frame.ite ?_ ?_
  refine Frame.upd_pair ?_ (by decide)
  refine Frame.ite ?_ ?_
  refine Frame.next ?_ Dev.emit_frame (by decide)
  exact Frame.refl _ _
  exact Frame.refl _ _
  refine Frame.ite ?_ ?_
  refine Frame.next ?_ Dev.masters_frame (by decide)
  refine Frame.upd_clk ?_ (by decide)
  exact Frame.refl _ _
  refine Frame.ite ?_ ?_
  refine Frame.upd_time ?_ (.inl rfl) (.inr (by decide))
  exact Frame.refl _ _
  refine Frame.ite ?_ ?_
  refine Frame.upd_msp_mspSh_monword ?_ (by decide) (by decide) (by decide)
  exact Frame.refl _ _
  refine Frame.ite ?_ ?_
  refine Frame.upd_mmu ?_ (by decide)
  exact Frame.refl _ _
  refine Frame.ite ?_ ?_
  refine Frame.next ?_ Dev.dmaReset_frame (by decide)
  exact Frame.refl _ _
  refine Frame.ite ?_ ?_
  refine Frame.upd_fab ?_ (by decide)
  refine Frame.foldl ?_ ?_
  exact Frame.refl _ _
  intro _ _ _
  refine Frame.next ?_ Dev.portReset_frame (by decide)
  assumption
  refine Frame.ite ?_ ?_
  refine Frame.upd_mctl ?_ (by decide)
  exact Frame.refl _ _
  refine Frame.ite ?_ ?_
  refine Frame.foldl ?_ ?_
  exact Frame.refl _ _
  intro _ _ _
  refine Frame.next ?_ Dev.setMchan_frame (by decide)
  assumption
  refine Frame.ite ?_ ?_
  refine Frame.next ?_ Dev.lnbReset_frame (by decide)
  exact Frame.refl _ _
  refine Frame.ite ?_ ?_
  refine Frame.upd_lnb_ing ?_ (by decide) (by decide)
  exact Frame.refl _ _
  refine Frame.ite ?_ ?_
  refine Frame.upd_dkl ?_ (by decide)
  exact Frame.refl _ _
  refine Frame.ite ?_ ?_
  refine Frame.upd_hat ?_ (by decide)
  exact Frame.refl _ _
  refine Frame.ite ?_ ?_
  refine Frame.upd_acc ?_ (by decide)
  exact Frame.refl _ _
  refine Frame.ite ?_ ?_
  refine Frame.upd_bmf ?_ (by decide)
  exact Frame.refl _ _
  refine Frame.ite ?_ ?_
  refine Frame.upd_trg ?_ (by decide)
  refine Frame.next ?_ Dev.trigoutsLow_frame (by decide)
  exact Frame.refl _ _
  refine Frame.ite ?_ ?_
  refine Frame.upd_plt ?_ (by decide)
  refine Frame.next ?_ Dev.pltAbort_frame (by decide)
  exact Frame.refl _ _
  refine Frame.ite ?_ ?_
  refine Frame.upd_bur ?_ (by decide)
  refine Frame.foldl ?_ ?_
  refine Frame.next ?_ Dev.portReset_frame (by decide)
  exact Frame.refl _ _
  intro _ _ _
  refine Frame.next ?_ Dev.setCore_frame (by decide)
  assumption
  refine Frame.ite ?_ ?_
  refine Frame.next ?_ Dev.masters_frame (by decide)
  refine Frame.upd_eth ?_ (by decide)
  exact Frame.refl _ _
  exact Frame.refl _ _

theorem Dev.pctlWrite_frame {d p v}
    : Frame [.regs, .pba, .act, .hdr, .perr, .pirq, .stats, .live, .nextc, .state, .errlog, .out, .boot, .pwr, .time,
      .msp, .mspSh, .monword, .eth, .clk, .lnb, .plt, .run, .ing, .dkl, .hat, .acc, .bmf, .trg, .pair, .bur, .mctl,
      .fab, .hif, .dma, .mmu, .mem, .free] d (Dev.pctlWrite d p v) := by
  unfold Dev.pctlWrite
  refine Dev.guard_frame ?_ ?_ (by decide)
  exact Frame.refl _ _
  intro _ _
  refine Frame.ite ?_ ?_
  refine Frame.modPage ?_ (.inr (by decide)) (.inl fun _ => rfl) (.inl fun _ => ⟨rfl, rfl⟩)
  assumption
  refine Frame.ite ?_ ?_
  refine Frame.next ?_ Dev.mladefReset_frame (by decide)
  refine Frame.modPage ?_ (.inr (by decide)) (.inl fun _ => rfl) (.inl fun _ => ⟨rfl, rfl⟩)
  assumption
  refine Frame.next ?_ Dev.blockReset_frame (by decide)
  refine Frame.next ?_ Dev.pageCleared_frame (by decide)
  refine Frame.modPage ?_ (.inr (by decide)) (.inl fun _ => rfl) (.inl fun _ => ⟨rfl, rfl⟩)
  assumption

/-! ### Regs -/

theorem Dev.hostBar0_frame {d p o write f4}
    (h : Frame T d0 d) (hf : ∀ e, Frame T d0 e → Frame T d0 (f4 e)) (hT : [.out] ⊆ T) : Frame T d0 (Dev.hostBar0 d p o
      write f4) := by
  unfold Dev.hostBar0
  refine Frame.ite ?_ ?_
  assumption
  refine Frame.ite ?_ ?_
  refine Frame.next ?_ Dev.emit_frame (List.Subset.trans (by decide) hT)
  assumption
  refine Frame.ite ?_ ?_
  refine Frame.next ?_ Dev.emit_frame (List.Subset.trans (by decide) hT)
  assumption
  refine Frame.ite ?_ ?_
  refine Frame.next ?_ Dev.emit_frame (List.Subset.trans (by decide) hT)
  assumption
  refine hf _ ?_
  assumption

theorem Dev.hostWr_frame {d p o f3}
    (h : Frame T d0 d) (hf : ∀ e, Frame T d0 e → Frame T d0 (f3 e)) (hT : [.pba, .perr, .pirq, .live, .errlog, .out,
      .aon, .lnb, .pair, .mctl, .free] ⊆ T) : Frame T d0 (Dev.hostWr d p o f3) := by
  unfold Dev.hostWr
  refine Dev.hostBar0_frame ?_ ?_ (List.Subset.trans (by decide) hT)
  assumption
  intro _ _
  refine Frame.next ?_ Dev.settle_frame (List.Subset.trans (by decide) hT)
  refine Frame.ite ?_ ?_
  refine Frame.next ?_ Dev.reject_frame (List.Subset.trans (by decide) hT)
  assumption
  refine hf _ ?_
  assumption

theorem Dev.misaligned_frame {d p o write}
    : Frame [.pba, .perr, .pirq, .errlog, .out] d (Dev.misaligned d p o write) := by
  unfold Dev.misaligned
  refine Dev.hostBar0_frame ?_ ?_ (by decide)
  exact Frame.refl _ _
  intro _ _
  refine Frame.ite ?_ ?_
  refine Frame.next ?_ Dev.reject_frame (by decide)
  assumption
  refine Frame.next ?_ Dev.emit_frame (by decide)
  refine Frame.next ?_ Dev.logErr_frame (by decide)
  refine Frame.next ?_ Dev.perr_frame (by decide)
  assumption

theorem Dev.reservedPage_frame {d p o write} : Frame [.out] d (Dev.reservedPage d p o write) := by
  unfold Dev.reservedPage
  refine Frame.ite ?_ ?_
  exact Frame.refl _ _
  refine Dev.hostBar0_frame ?_ ?_ (by decide)
  exact Frame.refl _ _
  intro _ _
  assumption

theorem Dev.cmdDo_frame {d errs f2}
    (h : Frame T d0 d) (hf : ∀ e, Frame T d0 e → Frame T d0 (f2 e)) (hT : [] ⊆ T) : Frame T d0 (Dev.cmdDo d errs f2).2
      := by
  unfold Dev.cmdDo
  split
  assumption
  refine hf _ ?_
  assumption

theorem Dev.cmdOwn_frame {d c ownerAt}
    : Frame [.regs, .pba, .act, .hdr, .pirq, .stats, .live, .nextc, .state, .out, .sys, .pwr, .estop, .time, .lnb,
      .plt, .run, .ing, .dkl, .hat, .acc, .bmf, .trg, .pair, .bur, .mctl, .mem] d (Dev.cmdOwn d c ownerAt).2 := by
  unfold Dev.cmdOwn
  split
  refine Dev.cmdDo_frame ?_ ?_ (by decide)
  exact Frame.refl _ _
  intro _ _
  refine Frame.next ?_ Dev.start_frame (by decide)
  assumption
  refine Dev.cmdDo_frame ?_ ?_ (by decide)
  exact Frame.refl _ _
  intro _ _
  refine Frame.next ?_ Dev.stop_frame (by decide)
  assumption
  refine Dev.cmdDo_frame ?_ ?_ (by decide)
  exact Frame.refl _ _
  intro _ _
  refine Frame.next ?_ Dev.quiesce_frame (by decide)
  assumption
  refine Dev.cmdDo_frame ?_ ?_ (by decide)
  exact Frame.refl _ _
  intro _ _
  refine Frame.next ?_ Dev.estop_frame (by decide)
  assumption
  refine Dev.cmdDo_frame ?_ ?_ (by decide)
  exact Frame.refl _ _
  intro _ _
  refine Frame.next ?_ Dev.latch_frame (by decide)
  assumption
  refine Dev.cmdDo_frame ?_ ?_ (by decide)
  exact Frame.refl _ _
  intro _ _
  refine Frame.next ?_ Dev.build_frame (by decide)
  assumption
  refine Dev.cmdDo_frame ?_ ?_ (by decide)
  exact Frame.refl _ _
  intro _ _
  refine Frame.next ?_ Dev.proof_frame (by decide)
  assumption
  refine Frame.next ?_ Dev.armCmd_frame (by decide)
  exact Frame.refl _ _
  refine Dev.cmdDo_frame ?_ ?_ (by decide)
  exact Frame.refl _ _
  intro _ _
  refine Frame.next ?_ Dev.selftest_frame (by decide)
  assumption
  refine Dev.cmdDo_frame ?_ ?_ (by decide)
  exact Frame.refl _ _
  intro _ _
  refine Frame.next ?_ Dev.retrain_frame (by decide)
  assumption
  refine Dev.cmdDo_frame ?_ ?_ (by decide)
  exact Frame.refl _ _
  intro _ _
  refine Frame.next ?_ Dev.thaw_frame (by decide)
  assumption
  refine Dev.cmdDo_frame ?_ ?_ (by decide)
  exact Frame.refl _ _
  intro _ _
  refine Frame.next ?_ Dev.handover_frame (by decide)
  assumption
  refine Dev.cmdDo_frame ?_ ?_ (by decide)
  exact Frame.refl _ _
  intro _ _
  refine Frame.next ?_ Dev.resync_frame (by decide)
  assumption

theorem Dev.cmdEnd_frame {d code r} : Frame [.pba, .pirq, .cmd, .errlog, .out] d (Dev.cmdEnd d code r) := by
  unfold Dev.cmdEnd
  refine Frame.next ?_ Dev.raise_frame (by decide)
  refine Frame.ite ?_ ?_
  refine Frame.upd_sys ?_ (.inl rfl) (.inr (by decide)) (.inl ⟨rfl, rfl, rfl⟩) (.inl rfl) (.inl ⟨rfl, rfl, rfl, rfl⟩)
  exact Frame.refl _ _
  refine Frame.next ?_ Dev.logErr_frame (by decide)
  refine Frame.upd_sys ?_ (.inl rfl) (.inr (by decide)) (.inl ⟨rfl, rfl, rfl⟩) (.inl rfl) (.inl ⟨rfl, rfl, rfl, rfl⟩)
  exact Frame.refl _ _

theorem Dev.cmdJudge_of {d c o} (h : Frame T d0 d) (hf : ∀ e, Frame T d0 e → Frame T d0 (e.cmdOwn c o).2)
    (hT : [.pba, .pirq, .live, .cmd, .errlog, .out, .aon, .lnb, .pair, .mctl, .free] ⊆ T) :
    Frame T d0 (Dev.cmdJudge d c o) := by
  unfold Dev.cmdJudge
  refine Frame.next ?_ Dev.settle_frame (List.Subset.trans (by decide) hT)
  refine Frame.next ?_ Dev.cmdEnd_frame (List.Subset.trans (by decide) hT)
  cases d.cmdRefused c with
  | some r => exact h
  | none => exact hf _ h

theorem Dev.cmdJudge_frame {d code ownerAt}
    : Frame [.regs, .pba, .act, .hdr, .pirq, .stats, .live, .nextc, .state, .cmd, .errlog, .out, .sys, .pwr, .estop,
      .aon, .time, .lnb, .plt, .run, .ing, .dkl, .hat, .acc, .bmf, .trg, .pair, .bur, .mctl, .free, .mem] d (Dev.cmdJudge d
      code ownerAt) :=
  Dev.cmdJudge_of (Frame.refl _ _) (fun _ he => he.next Dev.cmdOwn_frame (by decide)) (by decide)

theorem Dev.cmdPut_frame {d code} : Frame [.cmd] d (Dev.cmdPut d code) := by
  unfold Dev.cmdPut
  refine Frame.upd_sys ?_ (.inl rfl) (.inr (by decide)) (.inl ⟨rfl, rfl, rfl⟩) (.inl rfl) (.inl ⟨rfl, rfl, rfl, rfl⟩)
  exact Frame.refl _ _

theorem Dev.cmdWrite_frame {d v}
    : Frame [.regs, .pba, .act, .hdr, .perr, .pirq, .stats, .live, .nextc, .state, .cmd, .errlog, .out, .sys, .pwr,
      .estop, .aon, .time, .lnb, .plt, .run, .ing, .dkl, .hat, .acc, .bmf, .trg, .pair, .bur, .mctl, .free, .mem] d
      (Dev.cmdWrite d v) := by
  unfold Dev.cmdWrite
  refine Dev.guard_frame ?_ ?_ (by decide)
  exact Frame.refl _ _
  intro _ _
  refine Frame.ite ?_ ?_
  refine Frame.next ?_ Dev.estop_frame (by decide)
  assumption
  refine Frame.ite ?_ ?_
  refine Frame.next ?_ Dev.cmdJudge_frame (by decide)
  assumption
  refine Frame.next ?_ Dev.cmdPut_frame (by decide)
  assumption

theorem Dev.cmdWrite_listed {d c} (hv : fld 7 0 (BitVec.ofNat 32 c) = c) (h13 : c ≠ 0x13) (hl : cmdListed c = true) :
    Frame [.pba, .perr, .pirq, .cmd, .errlog, .out] d (Dev.cmdWrite d (BitVec.ofNat 32 c)) := by
  unfold Dev.cmdWrite
  refine Dev.guard_frame (Frame.refl _ _) (fun e he => ?_) (by decide)
  rw [hv, if_neg (fun k => h13 k.1), if_neg (by simp [h13, hl])]
  exact he.next Dev.cmdPut_frame (by decide)

theorem Dev.cmdRow_of {d c o} (hv : fld 7 0 (BitVec.ofNat 32 c) = c) (h13 : c ≠ 0x13) (hl : cmdListed c = true)
    (h : Frame T d0 d) (hf : ∀ e, Frame T d0 e → Frame T d0 (e.cmdOwn c o).2)
    (hT : [.pba, .perr, .pirq, .live, .cmd, .errlog, .out, .aon, .lnb, .pair, .mctl, .free] ⊆ T) :
    Frame T d0 (Dev.cmdRow d c o) := by
  unfold Dev.cmdRow
  split
  · refine Frame.ite (Dev.cmdJudge_of h hf (List.Subset.trans (by decide) hT)) ?_
    exact Dev.hostWr_frame h (fun e he => he.next (Dev.cmdWrite_listed hv h13 hl) (List.Subset.trans (by decide) hT))
      (List.Subset.trans (by decide) hT)
  · exact Dev.hostWr_frame h (fun e he => Dev.cmdJudge_of he hf (List.Subset.trans (by decide) hT))
      (List.Subset.trans (by decide) hT)

theorem Dev.cmdRow_frame {d code ownerAt}
    : Frame [.regs, .pba, .act, .hdr, .perr, .pirq, .stats, .live, .nextc, .state, .cmd, .errlog, .out, .sys, .pwr,
      .estop, .aon, .loc, .time, .lnb, .plt, .run, .ing, .dkl, .hat, .acc, .bmf, .trg, .pair, .bur, .mctl, .free, .mem] d
      (Dev.cmdRow d code ownerAt) := by
  unfold Dev.cmdRow
  split
  · refine Frame.ite (Dev.cmdJudge_frame.mono (by decide)) ?_
    exact Dev.hostWr_frame (Frame.refl _ _) (fun e he => he.next Dev.cmdWrite_frame (by decide)) (by decide)
  · exact Dev.hostWr_frame (Frame.refl _ _) (fun e he => he.next Dev.cmdJudge_frame (by decide)) (by decide)

theorem Dev.cmdTimeout_frame {d} : Frame [.pba, .pirq, .cmd, .errlog, .out] d (Dev.cmdTimeout d) := by
  unfold Dev.cmdTimeout
  split
  refine Frame.ite ?_ ?_
  refine Frame.next ?_ Dev.cmdEnd_frame (by decide)
  exact Frame.refl _ _
  exact Frame.refl _ _
  exact Frame.refl _ _

theorem Dev.pirqClear_frame {d p v} : Frame [.pba, .perr, .pirq, .errlog, .out] d (Dev.pirqClear d p v) := by
  unfold Dev.pirqClear
  refine Dev.guard_frame ?_ ?_ (by decide)
  exact Frame.refl _ _
  intro _ _
  refine Frame.ite ?_ ?_
  refine Frame.next ?_ Dev.sendIrq_frame (by decide)
  refine Frame.modPage ?_ (.inl fun _ => rfl) (.inl fun _ => rfl) (.inr (by decide))
  assumption
  refine Frame.modPage ?_ (.inl fun _ => rfl) (.inl fun _ => rfl) (.inr (by decide))
  assumption

theorem Dev.pirqenWrite_frame {d p v} : Frame [.pba, .hdr, .perr, .pirq, .errlog, .out] d (Dev.pirqenWrite d p v) := by
  unfold Dev.pirqenWrite
  refine Dev.guard_frame ?_ ?_ (by decide)
  exact Frame.refl _ _
  intro _ _
  refine Frame.ite ?_ ?_
  refine Frame.next ?_ Dev.sendIrq_frame (by decide)
  refine Frame.modPage ?_ (.inr (by decide)) (.inl fun _ => rfl) (.inl fun _ => ⟨rfl, rfl⟩)
  assumption
  refine Frame.modPage ?_ (.inr (by decide)) (.inl fun _ => rfl) (.inl fun _ => ⟨rfl, rfl⟩)
  assumption

theorem Dev.pirqsetWrite_frame {d p v} : Frame [.pba, .perr, .pirq, .errlog, .out] d (Dev.pirqsetWrite d p v) := by
  unfold Dev.pirqsetWrite
  refine Dev.guard_frame ?_ ?_ (by decide)
  exact Frame.refl _ _
  intro _ _
  refine Frame.next ?_ Dev.raise_frame (by decide)
  assumption

theorem Dev.perrclr_frame {d p} : Frame [.perr] d (Dev.perrclr d p) := by
  unfold Dev.perrclr
  refine Frame.modPage ?_ (.inl fun _ => rfl) (.inr (by decide)) (.inl fun _ => ⟨rfl, rfl⟩)
  exact Frame.refl _ _

theorem Dev.headerWrite_frame {d p o v}
    : Frame [.regs, .pba, .act, .hdr, .perr, .pirq, .stats, .live, .nextc, .state, .errlog, .out, .boot, .pwr, .time,
      .msp, .mspSh, .monword, .eth, .clk, .lnb, .plt, .run, .ing, .dkl, .hat, .acc, .bmf, .trg, .pair, .bur, .mctl,
      .fab, .hif, .dma, .mmu, .mem, .free] d (Dev.headerWrite d p o v) := by
  unfold Dev.headerWrite
  split
  refine Frame.next ?_ Dev.pctlWrite_frame (by decide)
  exact Frame.refl _ _
  refine Frame.next ?_ Dev.perrclr_frame (by decide)
  exact Frame.refl _ _
  refine Frame.next ?_ Dev.pirqClear_frame (by decide)
  exact Frame.refl _ _
  refine Frame.next ?_ Dev.pirqenWrite_frame (by decide)
  exact Frame.refl _ _
  refine Frame.next ?_ Dev.pirqsetWrite_frame (by decide)
  exact Frame.refl _ _
  refine Frame.next ?_ Dev.pcommit_frame (by decide)
  exact Frame.refl _ _
  refine Frame.next ?_ Dev.reject_frame (by decide)
  exact Frame.refl _ _

theorem Dev.irqmapWrite_frame {d q v} : Frame [.regs, .pba, .perr, .pirq, .errlog, .out] d (Dev.irqmapWrite d q v) := by
  unfold Dev.irqmapWrite
  refine Dev.guard_frame ?_ ?_ (by decide)
  exact Frame.refl _ _
  intro _ _
  refine Frame.ite ?_ ?_
  refine Frame.next ?_ Dev.sendIrq_frame (by decide)
  refine Frame.setReg ?_ (by decide) (.inr (by decide))
  assumption
  refine Frame.setReg ?_ (by decide) (.inr (by decide))
  assumption

theorem Dev.plainWrite_frame {d p o m errs v}
    : Frame [.regs, .pba, .perr, .pirq, .errlog, .out] d (Dev.plainWrite d p o m errs v) := by
  unfold Dev.plainWrite
  refine Dev.guard_frame ?_ ?_ (by decide)
  exact Frame.refl _ _
  intro _ _
  refine Frame.setReg ?_ (by decide) (.inr (by decide))
  assumption

theorem Dev.fieldWrite_frame {d p o m errs v f6}
    (h : Frame T d0 d) (hf : ∀ e, Frame T d0 e → Frame T d0 (f6 e)) (hT : [.pba, .perr, .pirq, .errlog, .out] ⊆ T) :
      Frame T d0 (Dev.fieldWrite d p o m errs v f6) := by
  unfold Dev.fieldWrite
  refine Dev.guard_frame ?_ ?_ (List.Subset.trans (by decide) hT)
  assumption
  intro _ _
  refine hf _ ?_
  assumption

theorem Dev.sysWrite_frame {d o v}
    : Frame [.regs, .pba, .act, .hdr, .perr, .pirq, .stats, .live, .nextc, .state, .cmd, .errlog, .out, .sys, .pwr,
      .estop, .aon, .time, .lnb, .plt, .run, .ing, .dkl, .hat, .acc, .bmf, .trg, .pair, .bur, .mctl, .free, .mem] d
      (Dev.sysWrite d o v) := by
  unfold Dev.sysWrite
  refine Frame.ite ?_ ?_
  refine Frame.next ?_ Dev.cmdWrite_frame (by decide)
  exact Frame.refl _ _
  refine Frame.ite ?_ ?_
  refine Frame.next ?_ Dev.plainWrite_frame (by decide)
  exact Frame.refl _ _
  refine Frame.ite ?_ ?_
  refine Frame.next ?_ Dev.irqmapWrite_frame (by decide)
  exact Frame.refl _ _
  refine Frame.next ?_ Dev.reject_frame (by decide)
  exact Frame.refl _ _

theorem Dev.aonWrite_frame {d o v}
    : Frame [.regs, .pba, .act, .hdr, .perr, .pirq, .stats, .live, .nextc, .state, .errlog, .out, .boot, .estop, .aon,
      .time, .msp, .mspSh, .monword, .eth, .clk, .lnb, .plt, .run, .ing, .dkl, .hat, .acc, .bmf, .trg, .pair, .bur,
      .mctl, .fab, .hif, .dma, .mmu, .mem, .free] d (Dev.aonWrite d o v) := by
  unfold Dev.aonWrite
  split
  refine Frame.next ?_ Dev.imgCtl_frame (by decide)
  exact Frame.refl _ _
  refine Frame.next ?_ Dev.imgLen_frame (by decide)
  exact Frame.refl _ _
  refine Frame.next ?_ Dev.imgData_frame (by decide)
  exact Frame.refl _ _
  refine Frame.next ?_ Dev.wdogWrite_frame (by decide)
  exact Frame.refl _ _
  refine Frame.next ?_ Dev.estopWrite_frame (by decide)
  exact Frame.refl _ _
  refine Frame.next ?_ Dev.snapctlWrite_frame (by decide)
  exact Frame.refl _ _
  refine Frame.next ?_ Dev.reject_frame (by decide)
  exact Frame.refl _ _

theorem Dev.pwrWrite_frame {d o v}
    : Frame [.regs, .pba, .hdr, .perr, .pirq, .live, .state, .errlog, .out, .pwr, .time, .msp, .lnb, .plt, .dkl, .hat,
      .acc, .bmf, .trg, .pair, .bur, .mctl, .fab, .dma, .mmu, .mem, .free] d (Dev.pwrWrite d o v) := by
  unfold Dev.pwrWrite
  split
  refine Frame.next ?_ Dev.shedreqWrite_frame (by decide)
  exact Frame.refl _ _
  refine Frame.next ?_ Dev.plainWrite_frame (by decide)
  exact Frame.refl _ _
  refine Frame.next ?_ Dev.thrWrite_frame (by decide)
  exact Frame.refl _ _
  refine Frame.next ?_ Dev.thrWrite_frame (by decide)
  exact Frame.refl _ _
  refine Frame.next ?_ Dev.plainWrite_frame (by decide)
  exact Frame.refl _ _
  refine Frame.next ?_ Dev.reject_frame (by decide)
  exact Frame.refl _ _

theorem Dev.pairWrite_frame {d o v}
    : Frame [.regs, .pba, .perr, .pirq, .errlog, .out, .pair] d (Dev.pairWrite d o v) := by
  unfold Dev.pairWrite
  split
  refine Frame.next ?_ Dev.pairRegWrite_frame (by decide)
  exact Frame.refl _ _
  refine Frame.next ?_ Dev.pairRegWrite_frame (by decide)
  exact Frame.refl _ _
  refine Frame.next ?_ Dev.pairRegWrite_frame (by decide)
  exact Frame.refl _ _
  refine Frame.next ?_ Dev.ilReset_frame (by decide)
  exact Frame.refl _ _
  refine Frame.next ?_ Dev.reject_frame (by decide)
  exact Frame.refl _ _

theorem Dev.clkWrite_frame {d o v}
    : Frame [.regs, .pba, .perr, .pirq, .live, .errlog, .out, .time, .clk, .acc] d (Dev.clkWrite d o v) := by
  unfold Dev.clkWrite
  split
  refine Frame.next ?_ Dev.refSelWrite_frame (by decide)
  exact Frame.refl _ _
  refine Dev.fieldWrite_frame ?_ ?_ (by decide)
  exact Frame.refl _ _
  intro _ _
  refine Frame.upd_clk ?_ (by decide)
  assumption
  refine Frame.next ?_ Dev.refCfgWrite_frame (by decide)
  exact Frame.refl _ _
  refine Frame.next ?_ Dev.plainWrite_frame (by decide)
  exact Frame.refl _ _
  refine Frame.next ?_ Dev.loopCtlWrite_frame (by decide)
  exact Frame.refl _ _
  refine Frame.next ?_ Dev.freqAdjWrite_frame (by decide)
  exact Frame.refl _ _
  refine Frame.next ?_ Dev.phStepWrite_frame (by decide)
  exact Frame.refl _ _
  refine Frame.next ?_ Dev.outAlignWrite_frame (by decide)
  exact Frame.refl _ _
  refine Dev.fieldWrite_frame ?_ ?_ (by decide)
  exact Frame.refl _ _
  intro _ _
  refine Frame.upd_clk ?_ (by decide)
  assumption
  refine Frame.next ?_ Dev.outCfgWrite_frame (by decide)
  exact Frame.refl _ _
  refine Frame.next ?_ Dev.outCfgWrite_frame (by decide)
  exact Frame.refl _ _
  refine Frame.next ?_ Dev.outCfgWrite_frame (by decide)
  exact Frame.refl _ _
  refine Frame.next ?_ Dev.reject_frame (by decide)
  exact Frame.refl _ _

theorem Dev.timeWrite_frame {d o v}
    : Frame [.pba, .perr, .pirq, .live, .errlog, .out, .time, .clk, .acc] d (Dev.timeWrite d o v) := by
  unfold Dev.timeWrite
  refine Frame.ite ?_ ?_
  refine Frame.next ?_ Dev.snapWrite_frame (by decide)
  exact Frame.refl _ _
  refine Frame.ite ?_ ?_
  refine Frame.next ?_ Dev.baseCfgWrite_frame (by decide)
  exact Frame.refl _ _
  refine Frame.ite ?_ ?_
  refine Frame.next ?_ Dev.timeRegWrite_frame (by decide)
  exact Frame.refl _ _
  refine Frame.ite ?_ ?_
  refine Frame.ite ?_ ?_
  refine Frame.next ?_ Dev.almCtlWrite_frame (by decide)
  exact Frame.refl _ _
  refine Frame.next ?_ Dev.timeRegWrite_frame (by decide)
  exact Frame.refl _ _
  refine Frame.next ?_ Dev.reject_frame (by decide)
  exact Frame.refl _ _

theorem Dev.mspWrite_frame {d o v}
    : Frame [.pba, .hdr, .perr, .pirq, .live, .errlog, .out, .msp, .mspSh, .monword, .mem] d (Dev.mspWrite d o v) :=
      by
  unfold Dev.mspWrite
  refine Frame.ite ?_ ?_
  refine Frame.next ?_ Dev.mspRegWrite_frame (by decide)
  exact Frame.refl _ _
  refine Frame.ite ?_ ?_
  refine Frame.next ?_ Dev.mspShadowWrite_frame (by decide)
  exact Frame.refl _ _
  refine Frame.ite ?_ ?_
  refine Frame.next ?_ Dev.monwordWrite_frame (by decide)
  exact Frame.refl _ _
  refine Frame.next ?_ Dev.reject_frame (by decide)
  exact Frame.refl _ _

theorem Dev.msixWrite_frame {d o v} : Frame [.regs, .pba, .out] d (Dev.msixWrite d o v) := by
  unfold Dev.msixWrite
  refine Frame.ite ?_ ?_
  refine Frame.ite ?_ ?_
  refine Frame.next ?_ Dev.emit_frame (by decide)
  refine Frame.setReg ?_ (by decide) (.inr (by decide))
  refine Frame.setReg ?_ (by decide) (.inr (by decide))
  exact Frame.refl _ _
  refine Frame.setReg ?_ (by decide) (.inr (by decide))
  exact Frame.refl _ _
  refine Frame.setReg ?_ (by decide) (.inr (by decide))
  exact Frame.refl _ _

theorem Dev.hifWrite_frame {d o v} : Frame [.regs, .pba, .perr, .pirq, .errlog, .out] d (Dev.hifWrite d o v) := by
  unfold Dev.hifWrite
  refine Frame.ite ?_ ?_
  refine Frame.next ?_ Dev.msixWrite_frame (by decide)
  exact Frame.refl _ _
  refine Frame.ite ?_ ?_
  exact Frame.refl _ _
  refine Frame.next ?_ Dev.reject_frame (by decide)
  exact Frame.refl _ _

theorem Dev.mmuWrite_frame {d o v} : Frame [.regs, .pba, .perr, .pirq, .errlog, .out, .mmu] d (Dev.mmuWrite d o v) := by
  unfold Dev.mmuWrite
  split
  refine Dev.fieldWrite_frame ?_ ?_ (by decide)
  exact Frame.refl _ _
  intro _ _
  refine Frame.upd_mmu ?_ (by decide)
  assumption
  refine Frame.next ?_ Dev.ctxWrite_frame (by decide)
  exact Frame.refl _ _
  refine Frame.next ?_ Dev.ctxWrite_frame (by decide)
  exact Frame.refl _ _
  refine Frame.next ?_ Dev.ctxWrite_frame (by decide)
  exact Frame.refl _ _
  refine Frame.next ?_ Dev.invWrite_frame (by decide)
  exact Frame.refl _ _
  refine Frame.next ?_ Dev.plainWrite_frame (by decide)
  exact Frame.refl _ _
  refine Frame.next ?_ Dev.plainWrite_frame (by decide)
  exact Frame.refl _ _
  refine Frame.next ?_ Dev.reject_frame (by decide)
  exact Frame.refl _ _

theorem Dev.chCmdWrite_frame {d k n v}
    : Frame [.regs, .pba, .perr, .pirq, .live, .state, .errlog, .out, .plt, .acc, .bmf, .trg, .bur, .mctl, .fab, .dma,
      .mmu, .mem] d (Dev.chCmdWrite d k n v) := by
  unfold Dev.chCmdWrite
  refine Frame.ite ?_ ?_
  refine Frame.next ?_ Dev.reject_frame (by decide)
  exact Frame.refl _ _
  refine Frame.ite ?_ ?_
  refine Frame.next ?_ Dev.dmaStart_frame (by decide)
  exact Frame.refl _ _
  refine Frame.ite ?_ ?_
  refine Frame.next ?_ Dev.dmaResume_frame (by decide)
  exact Frame.refl _ _
  refine Frame.next ?_ Dev.dmaAbort_frame (by decide)
  exact Frame.refl _ _

theorem Dev.dmaWrite_frame {d k o v}
    : Frame [.regs, .pba, .perr, .pirq, .live, .state, .errlog, .out, .plt, .acc, .bmf, .trg, .bur, .mctl, .fab, .dma,
      .mmu, .mem] d (Dev.dmaWrite d k o v) := by
  unfold Dev.dmaWrite
  refine Frame.ite ?_ ?_
  refine Frame.next ?_ Dev.reject_frame (by decide)
  exact Frame.refl _ _
  refine Frame.ite ?_ ?_
  refine Frame.next ?_ Dev.chCmdWrite_frame (by decide)
  exact Frame.refl _ _
  refine Frame.ite ?_ ?_
  refine Frame.next ?_ Dev.chRegWrite_frame (by decide)
  exact Frame.refl _ _
  refine Frame.next ?_ Dev.reject_frame (by decide)
  exact Frame.refl _ _

theorem Dev.fabWrite_frame {d o v} : Frame [.pba, .perr, .pirq, .errlog, .out, .fab] d (Dev.fabWrite d o v) := by
  unfold Dev.fabWrite
  split
  refine Dev.fieldWrite_frame ?_ ?_ (by decide)
  exact Frame.refl _ _
  intro _ _
  refine Frame.upd_fab ?_ (by decide)
  assumption
  refine Frame.next ?_ Dev.prioWrite_frame (by decide)
  exact Frame.refl _ _
  refine Frame.next ?_ Dev.reject_frame (by decide)
  exact Frame.refl _ _

theorem Dev.memcWrite_frame {d o v}
    : Frame [.regs, .pba, .perr, .pirq, .live, .state, .errlog, .out, .plt, .acc, .mctl, .mem, .free] d (Dev.memcWrite
      d o v) := by
  unfold Dev.memcWrite
  split
  refine Frame.next ?_ Dev.frzForce_frame (by decide)
  exact Frame.refl _ _
  refine Frame.next ?_ Dev.plainWrite_frame (by decide)
  exact Frame.refl _ _
  refine Frame.next ?_ Dev.plainWrite_frame (by decide)
  exact Frame.refl _ _
  refine Frame.next ?_ Dev.plainWrite_frame (by decide)
  exact Frame.refl _ _
  refine Frame.next ?_ Dev.exclAddWrite_frame (by decide)
  exact Frame.refl _ _
  refine Frame.next ?_ Dev.injWrite_frame (by decide)
  exact Frame.refl _ _
  refine Frame.next ?_ Dev.reject_frame (by decide)
  exact Frame.refl _ _

theorem Dev.lroleWrite_frame {d l v} : Frame [.regs, .pba, .perr, .pirq, .errlog, .out] d (Dev.lroleWrite d l v) := by
  unfold Dev.lroleWrite
  refine Dev.guard_frame ?_ ?_ (by decide)
  exact Frame.refl _ _
  intro _ _
  refine Frame.setReg ?_ (by decide) (.inr (by decide))
  assumption

theorem Dev.lnbWrite_frame {d g o v}
    : Frame [.regs, .pba, .perr, .pirq, .live, .errlog, .out, .time, .lnb] d (Dev.lnbWrite d g o v) := by
  unfold Dev.lnbWrite
  refine Frame.ite ?_ ?_
  split
  refine Frame.next ?_ Dev.lctlWrite_frame (by decide)
  exact Frame.refl _ _
  refine Dev.guard_frame ?_ ?_ (by decide)
  exact Frame.refl _ _
  intro _ _
  refine Frame.setReg ?_ (by decide) (.inr (by decide))
  assumption
  refine Frame.next ?_ Dev.plainWrite_frame (by decide)
  exact Frame.refl _ _
  refine Frame.next ?_ Dev.reject_frame (by decide)
  exact Frame.refl _ _
  refine Frame.ite ?_ ?_
  refine Frame.next ?_ Dev.lroleWrite_frame (by decide)
  exact Frame.refl _ _
  refine Frame.next ?_ Dev.reject_frame (by decide)
  exact Frame.refl _ _

theorem Dev.ingWrite_frame {d o v} : Frame [.pba, .perr, .pirq, .errlog, .out, .ing] d (Dev.ingWrite d o v) := by
  unfold Dev.ingWrite
  refine Frame.ite ?_ ?_
  refine Frame.next ?_ Dev.laneqRelease_frame (by decide)
  exact Frame.refl _ _
  refine Frame.ite ?_ ?_
  refine Frame.upd_ing ?_ (by decide)
  exact Frame.refl _ _
  split
  refine Dev.fieldWrite_frame ?_ ?_ (by decide)
  exact Frame.refl _ _
  intro _ _
  refine Frame.upd_ing ?_ (by decide)
  assumption
  refine Dev.fieldWrite_frame ?_ ?_ (by decide)
  exact Frame.refl _ _
  intro _ _
  refine Frame.upd_ing ?_ (by decide)
  assumption
  refine Frame.next ?_ Dev.macKeyCtl_frame (by decide)
  exact Frame.refl _ _
  refine Dev.fieldWrite_frame ?_ ?_ (by decide)
  exact Frame.refl _ _
  intro _ _
  refine Frame.upd_ing ?_ (by decide)
  assumption
  refine Dev.fieldWrite_frame ?_ ?_ (by decide)
  exact Frame.refl _ _
  intro _ _
  refine Frame.upd_ing ?_ (by decide)
  assumption
  refine Frame.next ?_ Dev.bindHiWrite_frame (by decide)
  exact Frame.refl _ _
  refine Dev.fieldWrite_frame ?_ ?_ (by decide)
  exact Frame.refl _ _
  intro _ _
  refine Frame.upd_ing ?_ (by decide)
  assumption
  refine Dev.fieldWrite_frame ?_ ?_ (by decide)
  exact Frame.refl _ _
  intro _ _
  refine Frame.upd_ing ?_ (by decide)
  assumption
  refine Dev.fieldWrite_frame ?_ ?_ (by decide)
  exact Frame.refl _ _
  intro _ _
  refine Frame.upd_ing ?_ (by decide)
  assumption
  refine Frame.next ?_ Dev.reject_frame (by decide)
  exact Frame.refl _ _

theorem Dev.dklWrite_frame {d o v}
    : Frame [.regs, .pba, .perr, .pirq, .live, .errlog, .out, .dkl] d (Dev.dklWrite d o v) := by
  unfold Dev.dklWrite
  split
  refine Dev.fieldWrite_frame ?_ ?_ (by decide)
  exact Frame.refl _ _
  intro _ _
  refine Frame.upd_dkl ?_ (by decide)
  assumption
  refine Frame.next ?_ Dev.caprdWrite_frame (by decide)
  exact Frame.refl _ _
  refine Frame.next ?_ Dev.dklRelease_frame (by decide)
  exact Frame.refl _ _
  refine Frame.next ?_ Dev.plainWrite_frame (by decide)
  exact Frame.refl _ _
  refine Frame.next ?_ Dev.reject_frame (by decide)
  exact Frame.refl _ _

theorem Dev.hatWrite_frame {d o v}
    : Frame [.pba, .perr, .pirq, .errlog, .out, .plt, .hat, .mem] d (Dev.hatWrite d o v) := by
  unfold Dev.hatWrite
  refine Frame.ite ?_ ?_
  refine Frame.next ?_ Dev.qmaskWrite_frame (by decide)
  exact Frame.refl _ _
  refine Frame.ite ?_ ?_
  refine Dev.fieldWrite_frame ?_ ?_ (by decide)
  exact Frame.refl _ _
  intro _ _
  refine Frame.upd_hat ?_ (by decide)
  assumption
  refine Frame.ite ?_ ?_
  refine Dev.fieldWrite_frame ?_ ?_ (by decide)
  exact Frame.refl _ _
  intro _ _
  refine Frame.upd_hat ?_ (by decide)
  assumption
  refine Frame.next ?_ Dev.reject_frame (by decide)
  exact Frame.refl _ _

theorem Dev.bmfWrite_frame {d o v} : Frame [.regs, .pba, .perr, .pirq, .errlog, .out, .bmf] d (Dev.bmfWrite d o v) := by
  unfold Dev.bmfWrite
  split
  refine Frame.next ?_ Dev.stgrdWrite_frame (by decide)
  exact Frame.refl _ _
  refine Frame.next ?_ Dev.plainWrite_frame (by decide)
  exact Frame.refl _ _
  refine Frame.next ?_ Dev.bmfShadowWrite_frame (by decide)
  exact Frame.refl _ _
  refine Frame.next ?_ Dev.bmfShadowWrite_frame (by decide)
  exact Frame.refl _ _
  refine Frame.next ?_ Dev.reject_frame (by decide)
  exact Frame.refl _ _

theorem Dev.trgWrite_frame {d o v} : Frame [.regs, .pba, .perr, .pirq, .errlog, .out, .trg] d (Dev.trgWrite d o v) := by
  unfold Dev.trgWrite
  split
  refine Frame.next ?_ Dev.logrdWrite_frame (by decide)
  exact Frame.refl _ _
  refine Frame.next ?_ Dev.plainWrite_frame (by decide)
  exact Frame.refl _ _
  refine Frame.next ?_ Dev.plainWrite_frame (by decide)
  exact Frame.refl _ _
  refine Frame.next ?_ Dev.plainWrite_frame (by decide)
  exact Frame.refl _ _
  refine Frame.next ?_ Dev.plainWrite_frame (by decide)
  exact Frame.refl _ _
  refine Frame.next ?_ Dev.plainWrite_frame (by decide)
  exact Frame.refl _ _
  refine Frame.next ?_ Dev.reject_frame (by decide)
  exact Frame.refl _ _

theorem Dev.pltWrite_frame {d o v}
    : Frame [.regs, .pba, .act, .perr, .pirq, .live, .state, .errlog, .out, .time, .lnb, .plt, .ing] d (Dev.pltWrite d
      o v) := by
  unfold Dev.pltWrite
  split
  refine Frame.next ?_ Dev.plainWrite_frame (by decide)
  exact Frame.refl _ _
  refine Frame.next ?_ Dev.slotCtlWrite_frame (by decide)
  exact Frame.refl _ _
  refine Frame.next ?_ Dev.reject_frame (by decide)
  exact Frame.refl _ _

theorem Dev.burWrite_frame {d k o v}
    : Frame [.regs, .pba, .act, .hdr, .perr, .pirq, .live, .state, .errlog, .out, .time, .msp, .monword, .lnb, .plt,
      .run, .ing, .acc, .bmf, .trg, .bur, .mctl, .fab, .mem, .free] d (Dev.burWrite d k o v) := by
  unfold Dev.burWrite
  refine Frame.ite ?_ ?_
  split
  refine Frame.next ?_ Dev.cctlWrite_frame (by decide)
  exact Frame.refl _ _
  refine Frame.next ?_ Dev.coreRegWrite_frame (by decide)
  exact Frame.refl _ _
  refine Frame.next ?_ Dev.coreRegWrite_frame (by decide)
  exact Frame.refl _ _
  refine Frame.next ?_ Dev.coreRegWrite_frame (by decide)
  exact Frame.refl _ _
  refine Frame.next ?_ Dev.mbxinWrite_frame (by decide)
  exact Frame.refl _ _
  refine Frame.next ?_ Dev.reject_frame (by decide)
  exact Frame.refl _ _
  refine Frame.ite ?_ ?_
  refine Frame.next ?_ Dev.paramWrite_frame (by decide)
  exact Frame.refl _ _
  refine Frame.next ?_ Dev.reject_frame (by decide)
  exact Frame.refl _ _

theorem Dev.ethWrite_frame {d o v} : Frame [.pba, .perr, .pirq, .errlog, .out, .eth] d (Dev.ethWrite d o v) := by
  unfold Dev.ethWrite
  refine Frame.ite ?_ ?_
  refine Frame.next ?_ Dev.ethRegWrite_frame (by decide)
  exact Frame.refl _ _
  refine Frame.next ?_ Dev.reject_frame (by decide)
  exact Frame.refl _ _

theorem Dev.regWrite_frame {d p o v}
    : Frame [.regs, .pba, .act, .hdr, .perr, .pirq, .stats, .live, .nextc, .state, .cmd, .errlog, .out, .sys, .boot,
      .pwr, .estop, .aon, .time, .msp, .mspSh, .monword, .eth, .clk, .lnb, .plt, .run, .ing, .dkl, .hat, .acc, .bmf,
      .trg, .pair, .bur, .mctl, .fab, .hif, .dma, .mmu, .mem, .free] d (Dev.regWrite d p o v) := by
  unfold Dev.regWrite
  refine Frame.ite ?_ ?_
  refine Frame.next ?_ Dev.headerWrite_frame (by decide)
  exact Frame.refl _ _
  refine Frame.ite ?_ ?_
  refine Frame.next ?_ Dev.reject_frame (by decide)
  exact Frame.refl _ _
  refine Frame.ite ?_ ?_
  refine Frame.next ?_ Dev.sysWrite_frame (by decide)
  exact Frame.refl _ _
  refine Frame.ite ?_ ?_
  refine Frame.next ?_ Dev.aonWrite_frame (by decide)
  exact Frame.refl _ _
  refine Frame.ite ?_ ?_
  refine Frame.next ?_ Dev.pwrWrite_frame (by decide)
  exact Frame.refl _ _
  refine Frame.ite ?_ ?_
  refine Frame.next ?_ Dev.pairWrite_frame (by decide)
  exact Frame.refl _ _
  refine Frame.ite ?_ ?_
  refine Frame.next ?_ Dev.clkWrite_frame (by decide)
  exact Frame.refl _ _
  refine Frame.ite ?_ ?_
  refine Frame.next ?_ Dev.timeWrite_frame (by decide)
  exact Frame.refl _ _
  refine Frame.ite ?_ ?_
  refine Frame.next ?_ Dev.mspWrite_frame (by decide)
  exact Frame.refl _ _
  refine Frame.ite ?_ ?_
  refine Frame.next ?_ Dev.hifWrite_frame (by decide)
  exact Frame.refl _ _
  refine Frame.ite ?_ ?_
  refine Frame.next ?_ Dev.mmuWrite_frame (by decide)
  exact Frame.refl _ _
  refine Frame.ite ?_ ?_
  refine Frame.next ?_ Dev.dmaWrite_frame (by decide)
  exact Frame.refl _ _
  refine Frame.ite ?_ ?_
  refine Frame.next ?_ Dev.fabWrite_frame (by decide)
  exact Frame.refl _ _
  refine Frame.ite ?_ ?_
  refine Frame.next ?_ Dev.memcWrite_frame (by decide)
  exact Frame.refl _ _
  refine Frame.ite ?_ ?_
  refine Frame.next ?_ Dev.lnbWrite_frame (by decide)
  exact Frame.refl _ _
  refine Frame.ite ?_ ?_
  refine Frame.next ?_ Dev.ingWrite_frame (by decide)
  exact Frame.refl _ _
  refine Frame.ite ?_ ?_
  refine Frame.next ?_ Dev.dklWrite_frame (by decide)
  exact Frame.refl _ _
  refine Frame.ite ?_ ?_
  refine Frame.next ?_ Dev.hatWrite_frame (by decide)
  exact Frame.refl _ _
  refine Frame.ite ?_ ?_
  refine Frame.ite ?_ ?_
  refine Frame.next ?_ Dev.accRelease_frame (by decide)
  exact Frame.refl _ _
  refine Frame.next ?_ Dev.reject_frame (by decide)
  exact Frame.refl _ _
  refine Frame.ite ?_ ?_
  refine Frame.next ?_ Dev.bmfWrite_frame (by decide)
  exact Frame.refl _ _
  refine Frame.ite ?_ ?_
  refine Frame.next ?_ Dev.trgWrite_frame (by decide)
  exact Frame.refl _ _
  refine Frame.ite ?_ ?_
  refine Frame.next ?_ Dev.pltWrite_frame (by decide)
  exact Frame.refl _ _
  refine Frame.ite ?_ ?_
  refine Frame.next ?_ Dev.burWrite_frame (by decide)
  exact Frame.refl _ _
  refine Frame.ite ?_ ?_
  refine Frame.next ?_ Dev.ethWrite_frame (by decide)
  exact Frame.refl _ _
  refine Frame.next ?_ Dev.reject_frame (by decide)
  exact Frame.refl _ _

theorem Dev.registerWrite_frame {d p o v}
    : Frame [.regs, .pba, .act, .hdr, .perr, .pirq, .stats, .live, .nextc, .state, .cmd, .errlog, .out, .sys, .boot,
      .pwr, .estop, .aon, .time, .msp, .mspSh, .monword, .eth, .clk, .lnb, .plt, .run, .ing, .dkl, .hat, .acc, .bmf,
      .trg, .pair, .bur, .mctl, .fab, .hif, .dma, .mmu, .mem, .free] d (Dev.registerWrite d p o v) := by
  unfold Dev.registerWrite
  refine Frame.ite ?_ ?_
  refine Dev.hostWr_frame ?_ ?_ (by decide)
  exact Frame.refl _ _
  intro _ _
  refine Frame.next ?_ Dev.regWrite_frame (by decide)
  assumption
  refine Frame.next ?_ Dev.misaligned_frame (by decide)
  exact Frame.refl _ _

theorem Dev.hostPop_frame {d p o f3}
    (h : Frame T d0 d) (hf : ∀ e, Frame T d0 e → Frame T d0 (f3 e)) (hT : [.out] ⊆ T) : Frame T d0 (Dev.hostPop d p o
      f3) := by
  unfold Dev.hostPop
  refine Dev.hostBar0_frame ?_ ?_ (List.Subset.trans (by decide) hT)
  assumption
  intro _ _
  refine Frame.ite ?_ ?_
  refine hf _ ?_
  assumption
  refine Frame.next ?_ Dev.emit_frame (List.Subset.trans (by decide) hT)
  assumption

theorem Dev.errlogPop_frame {d} : Frame [.errlog, .out] d (Dev.errlogPop d) := by
  unfold Dev.errlogPop
  split
  refine Frame.next ?_ Dev.emit_frame (by decide)
  exact Frame.refl _ _
  refine Frame.next ?_ Dev.emit_frame (by decide)
  refine Frame.upd_sys ?_ (.inl rfl) (.inl ⟨rfl, rfl⟩) (.inr (by decide)) (.inl rfl) (.inl ⟨rfl, rfl, rfl, rfl⟩)
  exact Frame.refl _ _

theorem Dev.sfnNowRead_frame {d m hi} : Frame [.out, .sys] d (Dev.sfnNowRead d m hi) := by
  unfold Dev.sfnNowRead
  refine Frame.ite ?_ ?_
  refine Dev.hostBar0_frame ?_ ?_ (by decide)
  exact Frame.refl _ _
  intro _ _
  refine Frame.next ?_ Dev.sfnRead_frame (by decide)
  refine Frame.next ?_ Dev.emit_frame (by decide)
  assumption
  refine Frame.ite ?_ ?_
  exact Frame.refl _ _
  refine Frame.next ?_ Dev.sfnRead_frame (by decide)
  refine Frame.next ?_ Dev.emit_frame (by decide)
  exact Frame.refl _ _

/-! ### CmdBase -/

theorem Dev.onPage_frame {d p f2}
    (h : Frame T d0 d) (hf : ∀ e, Frame T d0 e → Frame T d0 (f2 e)) (hT : [] ⊆ T) : Frame T d0 (Dev.onPage d p f2) :=
      by
  unfold Dev.onPage
  refine Frame.ite ?_ ?_
  refine hf _ ?_
  assumption
  assumption

theorem Dev.hostBar2_frame {d o n f3}
    (h : Frame T d0 d) (hf : ∀ e, Frame T d0 e → Frame T d0 (f3 e)) (hT : [.pba, .pirq, .live, .out] ⊆ T) : Frame T d0
      (Dev.hostBar2 d o n f3) := by
  unfold Dev.hostBar2
  refine Frame.ite ?_ ?_
  assumption
  refine Frame.ite ?_ ?_
  refine Frame.next ?_ Dev.emit_frame (List.Subset.trans (by decide) hT)
  assumption
  refine Frame.ite ?_ ?_
  refine Frame.next ?_ Dev.writeLost_frame (List.Subset.trans (by decide) hT)
  assumption
  refine hf _ ?_
  refine Frame.next ?_ Dev.fabAccept_frame (List.Subset.trans (by decide) hT)
  assumption

theorem Dev.triginAt_frame {d n rise} : Frame [.live, .trg] d (Dev.triginAt d n rise) := by
  unfold Dev.triginAt
  refine Frame.ite ?_ ?_
  refine Frame.next ?_ Dev.triginEdge_frame (by decide)
  exact Frame.refl _ _
  refine Frame.upd_trg ?_ (by decide)
  exact Frame.refl _ _

theorem Dev.ownInAt_frame {d level}
    : Frame [.regs, .pba, .pirq, .live, .out, .aon, .lnb, .pair, .mctl, .free, .bmf] d (Dev.ownInAt d level) := by
  unfold Dev.ownInAt
  refine Frame.ite ?_ ?_
  refine Frame.next ?_ Dev.settle_frame (by decide)
  refine Frame.next ?_ Dev.ownInChange_frame (by decide)
  exact Frame.refl _ _
  refine Frame.upd_pair ?_ (by decide)
  exact Frame.refl _ _

end Sys2Proof.Machine
end

