-- ==== Sys2Proof/Laws/Completes.lean ====
section
/-! SUPPORT. What a completion claim cites: a host access that reaches its register is the register's own effect, then
settling; an event of a unit that is on is its effect; what settling leaves. -/

namespace Sys2Proof.Machine

/-! ### A frame, read at one piece of state -/

section
variable {T : List Part} {d e : Dev} (h : Frame T d e)
include h

theorem Frame.stats_eq (hp : Part.stats ∉ T) : e.stats = d.stats := (h _ hp).symm
theorem Frame.live_eq (hp : Part.live ∉ T) : e.live = d.live := (h _ hp).symm
theorem Frame.nextc_eq (hp : Part.nextc ∉ T) : e.nextc = d.nextc := (h _ hp).symm
theorem Frame.boot_eq (hp : Part.boot ∉ T) : e.boot = d.boot := (h _ hp).symm
theorem Frame.pwr_eq (hp : Part.pwr ∉ T) : e.pwr = d.pwr := (h _ hp).symm
theorem Frame.msp_eq (hp : Part.msp ∉ T) : e.msp = d.msp := (h _ hp).symm
theorem Frame.mspSh_eq (hp : Part.mspSh ∉ T) : e.mspSh = d.mspSh := (h _ hp).symm
theorem Frame.monword_eq (hp : Part.monword ∉ T) : e.monword = d.monword := (h _ hp).symm
theorem Frame.eth_eq (hp : Part.eth ∉ T) : e.eth = d.eth := (h _ hp).symm
theorem Frame.clk_eq (hp : Part.clk ∉ T) : e.clk = d.clk := (h _ hp).symm
theorem Frame.lnb_eq (hp : Part.lnb ∉ T) : e.lnb = d.lnb := (h _ hp).symm
theorem Frame.plt_eq (hp : Part.plt ∉ T) : e.plt = d.plt := (h _ hp).symm
theorem Frame.run_eq (hp : Part.run ∉ T) : e.run = d.run := (h _ hp).symm
theorem Frame.ing_eq (hp : Part.ing ∉ T) : e.ing = d.ing := (h _ hp).symm
theorem Frame.dkl_eq (hp : Part.dkl ∉ T) : e.dkl = d.dkl := (h _ hp).symm
theorem Frame.hat_eq (hp : Part.hat ∉ T) : e.hat = d.hat := (h _ hp).symm
theorem Frame.acc_eq (hp : Part.acc ∉ T) : e.acc = d.acc := (h _ hp).symm
theorem Frame.bmf_eq (hp : Part.bmf ∉ T) : e.bmf = d.bmf := (h _ hp).symm
theorem Frame.trg_eq (hp : Part.trg ∉ T) : e.trg = d.trg := (h _ hp).symm
theorem Frame.pair_eq (hp : Part.pair ∉ T) : e.pair = d.pair := (h _ hp).symm
theorem Frame.bur_eq (hp : Part.bur ∉ T) : e.bur = d.bur := (h _ hp).symm
theorem Frame.mctl_eq (hp : Part.mctl ∉ T) : e.mctl = d.mctl := (h _ hp).symm
theorem Frame.fab_eq (hp : Part.fab ∉ T) : e.fab = d.fab := (h _ hp).symm
theorem Frame.hif_eq (hp : Part.hif ∉ T) : e.hif = d.hif := (h _ hp).symm
theorem Frame.dma_eq (hp : Part.dma ∉ T) : e.dma = d.dma := (h _ hp).symm
theorem Frame.mmu_eq (hp : Part.mmu ∉ T) : e.mmu = d.mmu := (h _ hp).symm
theorem Frame.mem_eq (hp : Part.mem ∉ T) : e.mem = d.mem := (h _ hp).symm
theorem Frame.free_eq (hp : Part.free ∉ T) : e.free = d.free := (h _ hp).symm
theorem Frame.state_eq (hp : Part.state ∉ T) : e.sys.state = d.sys.state := (h _ hp).symm
theorem Frame.cmdstat_eq (hp : Part.cmd ∉ T) : e.sys.cmdstat = d.sys.cmdstat := (h _ hp).1.symm
theorem Frame.cmdPend_eq (hp : Part.cmd ∉ T) : e.sys.cmdPend = d.sys.cmdPend := (h _ hp).2.symm
theorem Frame.errlog_eq (hp : Part.errlog ∉ T) : e.sys.errlog = d.sys.errlog := (h _ hp).1.symm
theorem Frame.errlogDisc_eq (hp : Part.errlog ∉ T) : e.sys.errlogDisc = d.sys.errlogDisc := (h _ hp).2.1.symm
theorem Frame.errlogT_eq (hp : Part.errlog ∉ T) : e.sys.errlogT = d.sys.errlogT := (h _ hp).2.2.symm
theorem Frame.out_eq (hp : Part.out ∉ T) : e.sys.out = d.sys.out := (h _ hp).symm
theorem Frame.sheetcnt_eq (hp : Part.sys ∉ T) : e.sys.sheetcnt = d.sys.sheetcnt := (h _ hp).1.symm
theorem Frame.reamcnt_eq (hp : Part.sys ∉ T) : e.sys.reamcnt = d.sys.reamcnt := (h _ hp).2.1.symm
theorem Frame.sfnLatch_eq (hp : Part.sys ∉ T) : e.sys.sfnLatch = d.sys.sfnLatch := (h _ hp).2.2.1.symm
theorem Frame.before_eq (hp : Part.sys ∉ T) : e.sys.before = d.sys.before := (h _ hp).2.2.2.symm
theorem Frame.estop_eq (hp : Part.estop ∉ T) : e.aon.estop = d.aon.estop := (h _ hp).symm
theorem Frame.aon_eq (hp : Part.aon ∉ T) (hq : Part.estop ∉ T) : e.aon = d.aon := by
  have a : ({ d.aon with estop := {} } : AonSt) = { e.aon with estop := {} } := h _ hp
  have b : d.aon.estop = e.aon.estop := h _ hq
  generalize d.aon = x at *; generalize e.aon = y at *
  cases x; cases y; simp_all
theorem Frame.loc_eq (hp : Part.loc ∉ T) : e.time.loc = d.time.loc := (h _ hp).symm
theorem Frame.time_eq (hp : Part.time ∉ T) (hq : Part.loc ∉ T) : e.time = d.time := by
  have a : ({ d.time with loc := 0 } : TimeSt) = { e.time with loc := 0 } := h _ hp
  have b : d.time.loc = e.time.loc := h _ hq
  generalize d.time = x at *; generalize e.time = y at *
  cases x; cases y; simp_all
theorem Frame.reg_eq (hp : Part.regs ∉ T) {a : Nat} (ha : isPba a = false) : e.reg a = d.reg a := (h _ hp a ha).symm
theorem Frame.act_eq (hp : Part.act ∉ T) (a : Nat) : e.actReg a = d.actReg a := (h _ hp a).symm
theorem Frame.hdr_eq (hp : Part.hdr ∉ T) (q : Nat) : (e.page q).hdr = (d.page q).hdr := (h _ hp q).symm
theorem Frame.pirqen_eq (hp : Part.hdr ∉ T) (q : Nat) : (e.page q).pirqen = (d.page q).pirqen := by
  have k : (e.page q).hdr = (d.page q).hdr := (h _ hp q).symm
  simpa only [Page.hdr] using congrArg Page.pirqen k
theorem Frame.en_eq (hp : Part.hdr ∉ T) (q : Nat) : (e.page q).en = (d.page q).en := by
  have k : (e.page q).hdr = (d.page q).hdr := (h _ hp q).symm
  simpa only [Page.hdr] using congrArg Page.en k
theorem Frame.irqOnErr_eq (hp : Part.hdr ∉ T) (q : Nat) : (e.page q).irqOnErr = (d.page q).irqOnErr := by
  have k : (e.page q).hdr = (d.page q).hdr := (h _ hp q).symm
  simpa only [Page.hdr] using congrArg Page.irqOnErr k
theorem Frame.started_eq (hp : Part.hdr ∉ T) (q : Nat) : (e.page q).started = (d.page q).started := by
  have k : (e.page q).hdr = (d.page q).hdr := (h _ hp q).symm
  simpa only [Page.hdr] using congrArg Page.started k
theorem Frame.pgen_eq (hp : Part.hdr ∉ T) (q : Nat) : (e.page q).pgen = (d.page q).pgen := by
  have k : (e.page q).hdr = (d.page q).hdr := (h _ hp q).symm
  simpa only [Page.hdr] using congrArg Page.pgen k
theorem Frame.armed_eq (hp : Part.hdr ∉ T) (q : Nat) : (e.page q).armed = (d.page q).armed := by
  have k : (e.page q).hdr = (d.page q).hdr := (h _ hp q).symm
  simpa only [Page.hdr] using congrArg Page.armed k
theorem Frame.locked_eq (hp : Part.hdr ∉ T) (q : Nat) : (e.page q).locked = (d.page q).locked := by
  have k : (e.page q).hdr = (d.page q).hdr := (h _ hp q).symm
  simpa only [Page.hdr] using congrArg Page.locked k
theorem Frame.lastTicket_eq (hp : Part.hdr ∉ T) (q : Nat) : (e.page q).lastTicket = (d.page q).lastTicket := by
  have k : (e.page q).hdr = (d.page q).hdr := (h _ hp q).symm
  simpa only [Page.hdr] using congrArg Page.lastTicket k
theorem Frame.calStale_eq (hp : Part.hdr ∉ T) (q : Nat) : (e.page q).calStale = (d.page q).calStale := by
  have k : (e.page q).hdr = (d.page q).hdr := (h _ hp q).symm
  simpa only [Page.hdr] using congrArg Page.calStale k
theorem Frame.perr_eq (hp : Part.perr ∉ T) (q : Nat) : (e.page q).perr = (d.page q).perr := (h _ hp q).symm
theorem Frame.pirq_eq (hp : Part.pirq ∉ T) (q : Nat) : (e.page q).pirq = (d.page q).pirq := (h _ hp q).1.symm
theorem Frame.owed_eq (hp : Part.pirq ∉ T) (q : Nat) : (e.page q).owed = (d.page q).owed := (h _ hp q).2.symm

end

theorem Completes.of_run {c : Instr} {s : State} {f : Dev → Dev} {P : Dev → Prop} (h : exec c s = s.run f)
    (hp : P (f s.dev)) : Completes c s P := ⟨_, h, rfl, hp⟩

theorem Completes.of_settled {c : Instr} {s : State} {f : Dev → Dev} {P : Dev → Prop} (h : exec c s = s.settled f)
    (hp : P (f s.dev).settle) : Completes c s P := ⟨_, h, rfl, hp⟩

theorem Dev.hostBar0_reaches {d : Dev} {p o : Nat} {w : Bool} {f : Dev → Dev} (h : d.reaches p o w = true) :
    d.hostBar0 p o w f = f d := by
  simp only [Dev.reaches, Bool.and_eq_true, Bool.not_eq_true'] at h
  obtain ⟨⟨⟨h1, h2⟩, h3⟩, h4⟩ := h
  simp only [Dev.hostBar0, h1, h2, h3, h4, Bool.not_true, Bool.false_eq_true, ↓reduceIte]

theorem Dev.hostWr_takes {d : Dev} {p o : Nat} {f : Dev → Dev} (h : d.takes p o = true) :
    d.hostWr p o f = (f d).settle := by
  simp only [Dev.takes, Bool.and_eq_true, Bool.not_eq_true'] at h
  unfold Dev.hostWr
  rw [Dev.hostBar0_reaches h.1, h.2]; rfl

theorem Dev.hostPop_reads {d : Dev} {p o : Nat} {f : Dev → Dev} (h : d.reads p = true) : d.hostPop p o f = f d := by
  simp only [Dev.reads, Bool.and_eq_true] at h
  have h0 : d.reaches p o false = true := h.1
  unfold Dev.hostPop
  rw [Dev.hostBar0_reaches h0, h.2]; rfl

theorem Dev.hostBar2_takes {d : Dev} {o n : Nat} {f : Dev → Dev} (h : d.takes2 = true) :
    d.hostBar2 o n f = f (d.fabAccept o n) := by
  simp only [Dev.takes2, Bool.and_eq_true, bne_iff_ne, ne_eq, decide_eq_true_eq] at h
  obtain ⟨⟨h1, h2⟩, h3⟩ := h
  simp [Dev.hostBar2, h1, h2, Nat.not_le.mpr h3]

theorem Dev.onPage_on {d : Dev} {p : Nat} {f : Dev → Dev} (h : d.unitOn p = true) : d.onPage p f = f d := by
  simp [Dev.onPage, h]

theorem Dev.guard_nil {d : Dev} {p o : Nat} {f : Dev → Dev} : d.guard p o [] f = f d := rfl

theorem Dev.guard_of {d : Dev} {p o : Nat} {l : List Code} {f : Dev → Dev} (h : l = []) : d.guard p o l f = f d := by
  subst h; rfl

/-! ### What settling leaves -/

@[simp] theorem Dev.settle_stats (d : Dev) : d.settle.stats = d.stats := Frame.stats_eq d.settle_frame (by decide)
@[simp] theorem Dev.settle_nextc (d : Dev) : d.settle.nextc = d.nextc := Frame.nextc_eq d.settle_frame (by decide)
@[simp] theorem Dev.settle_boot (d : Dev) : d.settle.boot = d.boot := Frame.boot_eq d.settle_frame (by decide)
@[simp] theorem Dev.settle_pwr (d : Dev) : d.settle.pwr = d.pwr := Frame.pwr_eq d.settle_frame (by decide)
@[simp] theorem Dev.settle_msp (d : Dev) : d.settle.msp = d.msp := Frame.msp_eq d.settle_frame (by decide)
@[simp] theorem Dev.settle_mspSh (d : Dev) : d.settle.mspSh = d.mspSh := Frame.mspSh_eq d.settle_frame (by decide)
@[simp] theorem Dev.settle_monword (d : Dev) : d.settle.monword = d.monword := Frame.monword_eq d.settle_frame (by decide)
@[simp] theorem Dev.settle_eth (d : Dev) : d.settle.eth = d.eth := Frame.eth_eq d.settle_frame (by decide)
@[simp] theorem Dev.settle_clk (d : Dev) : d.settle.clk = d.clk := Frame.clk_eq d.settle_frame (by decide)
@[simp] theorem Dev.settle_plt (d : Dev) : d.settle.plt = d.plt := Frame.plt_eq d.settle_frame (by decide)
@[simp] theorem Dev.settle_run (d : Dev) : d.settle.run = d.run := Frame.run_eq d.settle_frame (by decide)
@[simp] theorem Dev.settle_ing (d : Dev) : d.settle.ing = d.ing := Frame.ing_eq d.settle_frame (by decide)
@[simp] theorem Dev.settle_dkl (d : Dev) : d.settle.dkl = d.dkl := Frame.dkl_eq d.settle_frame (by decide)
@[simp] theorem Dev.settle_hat (d : Dev) : d.settle.hat = d.hat := Frame.hat_eq d.settle_frame (by decide)
@[simp] theorem Dev.settle_acc (d : Dev) : d.settle.acc = d.acc := Frame.acc_eq d.settle_frame (by decide)
@[simp] theorem Dev.settle_bmf (d : Dev) : d.settle.bmf = d.bmf := Frame.bmf_eq d.settle_frame (by decide)
@[simp] theorem Dev.settle_trg (d : Dev) : d.settle.trg = d.trg := Frame.trg_eq d.settle_frame (by decide)
@[simp] theorem Dev.settle_bur (d : Dev) : d.settle.bur = d.bur := Frame.bur_eq d.settle_frame (by decide)
@[simp] theorem Dev.settle_fab (d : Dev) : d.settle.fab = d.fab := Frame.fab_eq d.settle_frame (by decide)
@[simp] theorem Dev.settle_hif (d : Dev) : d.settle.hif = d.hif := Frame.hif_eq d.settle_frame (by decide)
@[simp] theorem Dev.settle_dma (d : Dev) : d.settle.dma = d.dma := Frame.dma_eq d.settle_frame (by decide)
@[simp] theorem Dev.settle_mmu (d : Dev) : d.settle.mmu = d.mmu := Frame.mmu_eq d.settle_frame (by decide)
@[simp] theorem Dev.settle_mem (d : Dev) : d.settle.mem = d.mem := Frame.mem_eq d.settle_frame (by decide)
@[simp] theorem Dev.settle_state (d : Dev) : d.settle.sys.state = d.sys.state := Frame.state_eq d.settle_frame (by decide)
@[simp] theorem Dev.settle_cmdstat (d : Dev) : d.settle.sys.cmdstat = d.sys.cmdstat := Frame.cmdstat_eq d.settle_frame (by decide)
@[simp] theorem Dev.settle_cmdPend (d : Dev) : d.settle.sys.cmdPend = d.sys.cmdPend := Frame.cmdPend_eq d.settle_frame (by decide)
@[simp] theorem Dev.settle_errlog (d : Dev) : d.settle.sys.errlog = d.sys.errlog := Frame.errlog_eq d.settle_frame (by decide)
@[simp] theorem Dev.settle_before (d : Dev) : d.settle.sys.before = d.sys.before := Frame.before_eq d.settle_frame (by decide)
@[simp] theorem Dev.settle_sheetcnt (d : Dev) : d.settle.sys.sheetcnt = d.sys.sheetcnt := Frame.sheetcnt_eq d.settle_frame (by decide)
@[simp] theorem Dev.settle_reamcnt (d : Dev) : d.settle.sys.reamcnt = d.sys.reamcnt := Frame.reamcnt_eq d.settle_frame (by decide)
@[simp] theorem Dev.settle_estop (d : Dev) : d.settle.aon.estop = d.aon.estop := Frame.estop_eq d.settle_frame (by decide)
@[simp] theorem Dev.settle_time (d : Dev) : d.settle.time = d.time :=
  Frame.time_eq d.settle_frame (by decide) (by decide)
@[simp] theorem Dev.settle_reg (d : Dev) {a : Nat} (ha : isPba a = false) : d.settle.reg a = d.reg a :=
  Frame.reg_eq d.settle_frame (by decide) ha
@[simp] theorem Dev.settle_act (d : Dev) (a : Nat) : d.settle.actReg a = d.actReg a :=
  Frame.act_eq d.settle_frame (by decide) a
@[simp] theorem Dev.settle_hdr (d : Dev) (q : Nat) : (d.settle.page q).hdr = (d.page q).hdr :=
  Frame.hdr_eq d.settle_frame (by decide) q
@[simp] theorem Dev.settle_perr (d : Dev) (q : Nat) : (d.settle.page q).perr = (d.page q).perr :=
  Frame.perr_eq d.settle_frame (by decide) q

/-- Settling touches the memory controller only in clearing the snapshot it owes. -/
theorem Dev.settle_mctl (d : Dev) : d.settle.mctl = { d.mctl with snapDue := false } := by
  have hp := fun e : Dev => Frame.mctl_eq e.pairSync_frame (by decide)
  have hs := fun e : Dev => Frame.mctl_eq (e.snapTake_frame (cause := 1)) (by decide)
  unfold Dev.settle
  rw [hp]
  by_cases h : d.mctl.snapDue <;> simp only [h, if_true, if_false, Bool.false_eq_true]
  · split <;> simp [hs]
  · cases hm : d.mctl; simp_all

/-- Settling is the owed snapshot, then the pair's synchronisation with the state. -/
theorem Dev.settle_pre (d : Dev) : ∃ e, Frame [.aon, .free, .mctl] d e ∧ d.settle = e.pairSync := by
  unfold Dev.settle
  refine ⟨_, ?_, rfl⟩
  split
  · refine Frame.ite ?_ ?_
    · exact (Frame.upd_mctl (Frame.refl _ _) (by decide)).next Dev.snapTake_frame (by decide)
    · exact Frame.upd_mctl (Frame.refl _ _) (by decide)
  · exact Frame.refl _ _

theorem Dev.paired_of {d e : Dev} (h : e.reg (bar pgPAIR 0x1000) = d.reg (bar pgPAIR 0x1000)) : e.paired = d.paired := by
  unfold Dev.paired Dev.pairRole; rw [h]

/-- While a run is on, settling leaves the pair as it is unless this module is offline. -/
theorem Dev.settle_pair_inRun {d : Dev} (h : noStepState d.sys.state = true) (hp : d.pair.state ≠ .offline) :
    d.settle.pair = d.pair := by
  obtain ⟨e, f, he⟩ := d.settle_pre
  have h1 := Frame.state_eq f (by decide)
  have h2 := Frame.pair_eq f (by decide)
  rw [he, ← h2]
  unfold Dev.pairSync
  by_cases k : (!e.paired) = true
  · rw [if_pos k]
  · rw [if_neg k, if_pos (by rw [h1]; exact h), if_neg (by rw [h2]; exact hp)]

/-- Without a pair, settling leaves the pair's state as it is. -/
theorem Dev.settle_pair_alone {d : Dev} (h : d.paired = false) : d.settle.pair = d.pair := by
  obtain ⟨e, f, he⟩ := d.settle_pre
  have h1 : e.paired = false := (Dev.paired_of (Frame.reg_eq f (by decide) (by decide))).trans h
  rw [he, ← Frame.pair_eq f (by decide)]
  unfold Dev.pairSync
  rw [h1]; rfl

/-- Where nothing is left to settle, settling does nothing. -/
theorem Dev.settle_calm {d : Dev} (h : d.calm = true) : d.settle = d := by
  simp only [Dev.calm, Bool.and_eq_true, Bool.or_eq_true, Bool.not_eq_true', bne_iff_ne, ne_eq] at h
  obtain ⟨h1, h2⟩ := h
  unfold Dev.settle
  rw [h1]
  show d.pairSync = d
  unfold Dev.pairSync
  by_cases hp : d.paired = true
  · simp only [hp, Bool.true_eq_false, false_or] at h2
    rw [hp]
    by_cases hn : noStepState d.sys.state = true
    · have : d.pair.state ≠ .offline := fun e => h2 (by rw [e, hn]; rfl)
      simp only [Bool.not_true, Bool.false_eq_true, ↓reduceIte, hn, this]
    · have ho : d.pair.state = .offline := by
        by_contra e
        exact h2 (by rw [Bool.not_eq_true] at hn; rw [hn]; simpa using e)
      have hg : ∀ b, d.giveUp b = d := by intro b; unfold Dev.giveUp; rw [if_pos (by rw [ho]; decide)]
      simp only [Bool.not_true, Bool.false_eq_true, ↓reduceIte, hn, hg]
      rw [← ho]
  · simp only [Bool.not_eq_true] at hp
    simp [hp]

/-- A command's own effect keeps the block calm where it touches none of what settling looks at. -/
theorem Dev.calm_of {T : List Part} {d e : Dev} (h : Frame T d e) (hd : d.calm = true) (h1 : Part.regs ∉ T) (h2 : Part.pair ∉ T) (h3 : Part.mctl ∉ T)
    (h4 : Part.state ∉ T) : e.calm = true := by
  have hp : e.paired = d.paired := Dev.paired_of (Frame.reg_eq h h1 (by decide))
  unfold Dev.calm at *
  rw [hp, Frame.pair_eq h h2, Frame.mctl_eq h h3, Frame.state_eq h h4]
  exact hd

end Sys2Proof.Machine
end

