-- ==== Sys2Proof/Laws/FrameExec.lean ====
section
/-! SUPPORT. Frames, one lemma a function: what each command leaves alone. -/

namespace Sys2Proof.Machine

variable {T : List Part} {d0 : Dev}

/-! ### CmdBeam -/

theorem execBeamFrameSend_frame {lane poison s t}
    (h : (execBeamFrameSend lane poison s) = .next t) : Frame [.live, .out, .lnb, .bmf] s.dev t.dev := by
  unfold execBeamFrameSend at h
  refine State.frame_run h ?_
  refine Dev.onPage_frame ?_ ?_ (by decide)
  exact Frame.refl _ _
  intro _ _
  refine Frame.next ?_ Dev.beamFrameSend_frame (by decide)
  assumption

theorem execBmfTableWrite_frame {shadow off l s t}
    (h : (execBmfTableWrite shadow off l s) = .next t) : Frame [.pba, .perr, .pirq, .live, .errlog, .out, .bmf] s.dev
      t.dev := by
  unfold execBmfTableWrite at h
  refine State.frame_run h ?_
  refine Dev.hostBar2_frame ?_ ?_ (by decide)
  exact Frame.refl _ _
  intro _ _
  refine Frame.next ?_ Dev.bmfHostWrite_frame (by decide)
  assumption

theorem execStgrdWrite_frame {v s t}
    (h : (execStgrdWrite v s) = .next t) : Frame [.pba, .perr, .pirq, .live, .errlog, .out, .aon, .lnb, .bmf, .pair,
      .mctl, .free] s.dev t.dev := by
  unfold execStgrdWrite at h
  refine State.frame_run h ?_
  refine Dev.hostWr_frame ?_ ?_ (by decide)
  exact Frame.refl _ _
  intro _ _
  refine Frame.next ?_ Dev.stgrdWrite_frame (by decide)
  assumption

theorem execTriggerSampleEval_frame {lat s t}
    (h : (execTriggerSampleEval lat s) = .next t) : Frame [.pba, .pirq, .live, .out, .dkl, .trg, .bur] s.dev t.dev :=
      by
  unfold execTriggerSampleEval at h
  refine State.frame_run h ?_
  refine Dev.onPage_frame ?_ ?_ (by decide)
  exact Frame.refl _ _
  intro _ _
  refine Frame.next ?_ Dev.triggerEval_frame (by decide)
  assumption

theorem execSwDeadline_frame {s t}
    (h : (execSwDeadline s) = .next t) : Frame [.pba, .pirq, .live, .out, .trg] s.dev t.dev := by
  unfold execSwDeadline at h
  refine State.frame_run h ?_
  refine Dev.onPage_frame ?_ ?_ (by decide)
  exact Frame.refl _ _
  intro _ _
  refine Frame.next ?_ Dev.swDeadline_frame (by decide)
  assumption

theorem execTriginEdge_frame {n rise s t}
    (h : (execTriginEdge n rise s) = .next t) : Frame [.live, .trg] s.dev t.dev := by
  unfold execTriginEdge at h
  refine State.frame_run h ?_
  refine Frame.next ?_ Dev.triginAt_frame (by decide)
  exact Frame.refl _ _

theorem execTrigoutPulseEnd_frame {n s t}
    (h : (execTrigoutPulseEnd n s) = .next t) : Frame [.out, .trg] s.dev t.dev := by
  unfold execTrigoutPulseEnd at h
  refine State.frame_run h ?_
  refine Dev.onPage_frame ?_ ?_ (by decide)
  exact Frame.refl _ _
  intro _ _
  refine Frame.next ?_ Dev.trigoutEnd_frame (by decide)
  assumption

theorem execLogEntryWrite_frame {s t}
    (h : (execLogEntryWrite s) = .next t) : Frame [.pba, .pirq, .live, .out, .trg, .mem] s.dev t.dev := by
  unfold execLogEntryWrite at h
  refine State.frame_run h ?_
  refine Dev.onPage_frame ?_ ?_ (by decide)
  exact Frame.refl _ _
  intro _ _
  refine Frame.next ?_ Dev.logEntryWrite_frame (by decide)
  assumption

theorem execTrgTableWrite_frame {shadow off l s t}
    (h : (execTrgTableWrite shadow off l s) = .next t) : Frame [.pba, .perr, .pirq, .live, .errlog, .out, .trg] s.dev
      t.dev := by
  unfold execTrgTableWrite at h
  refine State.frame_run h ?_
  refine Dev.hostBar2_frame ?_ ?_ (by decide)
  exact Frame.refl _ _
  intro _ _
  refine Frame.next ?_ Dev.trgHostWrite_frame (by decide)
  assumption

theorem execLogrdWrite_frame {v s t}
    (h : (execLogrdWrite v s) = .next t) : Frame [.pba, .perr, .pirq, .live, .errlog, .out, .aon, .lnb, .trg, .pair,
      .mctl, .free] s.dev t.dev := by
  unfold execLogrdWrite at h
  refine State.frame_run h ?_
  refine Dev.hostWr_frame ?_ ?_ (by decide)
  exact Frame.refl _ _
  intro _ _
  refine Frame.next ?_ Dev.logrdWrite_frame (by decide)
  assumption

theorem execBuildDone_frame {s t}
    (h : (execBuildDone s) = .next t) : Frame [.pba, .pirq, .live, .out, .aon, .lnb, .plt, .pair, .mctl, .mem, .free]
      s.dev t.dev := by
  unfold execBuildDone at h
  refine State.frame_settled h ?_
  refine Frame.next ?_ Dev.settle_frame (by decide)
  refine Dev.onPage_frame ?_ ?_ (by decide)
  exact Frame.refl _ _
  intro _ _
  refine Frame.next ?_ Dev.buildDone_frame (by decide)
  assumption

theorem execProofDone_frame {s t}
    (h : (execProofDone s) = .next t) : Frame [.pba, .pirq, .live, .out, .aon, .lnb, .plt, .pair, .mctl, .free] s.dev
      t.dev := by
  unfold execProofDone at h
  refine State.frame_settled h ?_
  refine Frame.next ?_ Dev.settle_frame (by decide)
  refine Dev.onPage_frame ?_ ?_ (by decide)
  exact Frame.refl _ _
  intro _ _
  refine Frame.next ?_ Dev.proofDone_frame (by decide)
  assumption

theorem execDisarm_frame {s t}
    (h : (execDisarm s) = .next t) : Frame [.regs, .pba, .act, .perr, .pirq, .live, .state, .errlog, .out, .aon,
      .time, .lnb, .plt, .ing, .pair, .mctl, .free] s.dev t.dev := by
  unfold execDisarm at h
  refine State.frame_run h ?_
  refine Dev.hostWr_frame ?_ ?_ (by decide)
  exact Frame.refl _ _
  intro _ _
  refine Frame.next ?_ Dev.slotCtlWrite_frame (by decide)
  assumption

theorem execPlateSlotWrite_frame {slot off l s t}
    (h : (execPlateSlotWrite slot off l s) = .next t) : Frame [.pba, .perr, .pirq, .live, .errlog, .out, .aon, .lnb,
      .plt, .pair, .mctl, .fab, .mem, .free] s.dev t.dev := by
  unfold execPlateSlotWrite at h
  refine State.frame_settled h ?_
  refine Frame.next ?_ Dev.settle_frame (by decide)
  refine Dev.hostBar2_frame ?_ ?_ (by decide)
  exact Frame.refl _ _
  intro _ _
  refine Frame.ite ?_ ?_
  refine Frame.next ?_ Dev.slotWrite_frame (by decide)
  assumption
  refine Frame.next ?_ Dev.fabWait_frame (by decide)
  assumption

theorem execTrigFrameSend_frame {s t}
    (h : (execTrigFrameSend s) = .next t) : Frame [.live, .out, .lnb, .trg] s.dev t.dev := by
  unfold execTrigFrameSend at h
  refine State.frame_run h ?_
  refine Dev.onPage_frame ?_ ?_ (by decide)
  exact Frame.refl _ _
  intro _ _
  refine Frame.next ?_ Dev.trigFrameSend_frame (by decide)
  assumption

/-! ### CmdBoot -/

theorem execMladefIslandReset_frame {wdog s t}
    (h : (execMladefIslandReset wdog s) = .next t) : Frame [.regs, .pba, .act, .hdr, .perr, .pirq, .stats, .live,
      .nextc, .state, .errlog, .out, .boot, .pwr, .aon, .time, .msp, .mspSh, .monword, .eth, .clk, .lnb, .plt, .run,
      .ing, .dkl, .hat, .acc, .bmf, .trg, .pair, .bur, .mctl, .fab, .hif, .dma, .mmu, .mem, .free] s.dev t.dev := by
  unfold execMladefIslandReset at h
  refine State.frame_settled h ?_
  refine Frame.next ?_ Dev.settle_frame (by decide)
  refine Frame.ite ?_ ?_
  refine Frame.ite ?_ ?_
  exact Frame.refl _ _
  refine Frame.next ?_ Dev.watchdogExpire_frame (by decide)
  exact Frame.refl _ _
  refine Dev.hostWr_frame ?_ ?_ (by decide)
  exact Frame.refl _ _
  intro _ _
  refine Frame.next ?_ Dev.pctlWrite_frame (by decide)
  assumption

theorem execWatchdogExpire_frame {s t}
    (h : (execWatchdogExpire s) = .next t) : Frame [.regs, .pba, .act, .hdr, .perr, .pirq, .stats, .live, .nextc,
      .state, .out, .boot, .aon, .time, .msp, .mspSh, .monword, .eth, .clk, .lnb, .plt, .run, .ing, .dkl, .hat, .acc,
      .bmf, .trg, .pair, .bur, .mctl, .fab, .hif, .dma, .mmu, .mem, .free] s.dev t.dev := by
  unfold execWatchdogExpire at h
  refine State.frame_settled h ?_
  refine Frame.next ?_ Dev.settle_frame (by decide)
  refine Frame.next ?_ Dev.watchdogExpire_frame (by decide)
  exact Frame.refl _ _

theorem execRecoveryComplete_frame {s t}
    (h : (execRecoveryComplete s) = .next t) : Frame [.pba, .pirq, .live, .state, .out, .boot, .aon, .lnb, .pair,
      .mctl, .free] s.dev t.dev := by
  unfold execRecoveryComplete at h
  refine State.frame_settled h ?_
  refine Frame.next ?_ Dev.settle_frame (by decide)
  refine Frame.next ?_ Dev.recoveryComplete_frame (by decide)
  exact Frame.refl _ _

theorem execWdogFire_frame {s t}
    (h : (execWdogFire s) = .next t) : Frame [.regs, .pba, .act, .hdr, .perr, .pirq, .stats, .live, .nextc, .state,
      .errlog, .out, .boot, .aon, .time, .msp, .mspSh, .monword, .eth, .clk, .lnb, .plt, .run, .ing, .dkl, .hat, .acc,
      .bmf, .trg, .pair, .bur, .mctl, .fab, .hif, .dma, .mmu, .mem, .free] s.dev t.dev := by
  unfold execWdogFire at h
  refine State.frame_run h ?_
  refine Dev.hostWr_frame ?_ ?_ (by decide)
  exact Frame.refl _ _
  intro _ _
  refine Frame.next ?_ Dev.wdogWrite_frame (by decide)
  assumption

theorem execPowerOnReset_frame {s t}
    (h : (execPowerOnReset s) = .next t) : Frame [.regs, .pba, .act, .hdr, .perr, .pirq, .stats, .live, .nextc,
      .state, .cmd, .errlog, .out, .sys, .boot, .pwr, .estop, .aon, .loc, .time, .msp, .mspSh, .monword, .eth, .clk,
      .lnb, .plt, .run, .ing, .dkl, .hat, .acc, .bmf, .trg, .pair, .bur, .mctl, .fab, .hif, .dma, .mmu, .mem] s.dev
      t.dev := by
  unfold execPowerOnReset at h
  refine State.frame_run h ?_
  refine Frame.next ?_ Dev.powerOnReset_frame (by decide)
  exact Frame.refl _ _

theorem execPorstRelease_frame {s t}
    (h : (execPorstRelease s) = .next t) : Frame [.pba, .pirq, .live, .state, .out, .boot, .estop, .lnb, .trg, .pair]
      s.dev t.dev := by
  unfold execPorstRelease at h
  refine State.frame_run h ?_
  refine Frame.next ?_ Dev.porstRelease_frame (by decide)
  exact Frame.refl _ _

theorem execLinkReset_frame {perst s t}
    (h : (execLinkReset perst s) = .next t) : Frame [.regs, .pba, .act, .hdr, .perr, .pirq, .stats, .live, .nextc,
      .state, .out, .boot, .aon, .time, .msp, .mspSh, .monword, .eth, .clk, .lnb, .plt, .run, .ing, .dkl, .hat, .acc,
      .bmf, .trg, .pair, .bur, .mctl, .fab, .hif, .dma, .mmu, .mem, .free] s.dev t.dev := by
  unfold execLinkReset at h
  refine State.frame_settled h ?_
  refine Frame.next ?_ Dev.settle_frame (by decide)
  refine Frame.next ?_ Dev.linkReset_frame (by decide)
  exact Frame.refl _ _

theorem execPcieLinkUp_frame {speed width flit s t}
    (h : (execPcieLinkUp speed width flit s) = .next t) : Frame [.pba, .pirq, .out, .boot, .hif] s.dev t.dev := by
  unfold execPcieLinkUp at h
  refine State.frame_run h ?_
  refine Frame.next ?_ Dev.linkUp_frame (by decide)
  exact Frame.refl _ _

theorem execImgdataWrite_frame {v s t}
    (h : (execImgdataWrite v s) = .next t) : Frame [.pba, .perr, .pirq, .live, .errlog, .out, .boot, .aon, .lnb,
      .pair, .mctl, .free] s.dev t.dev := by
  unfold execImgdataWrite at h
  refine State.frame_run h ?_
  refine Dev.hostWr_frame ?_ ?_ (by decide)
  exact Frame.refl _ _
  intro _ _
  refine Frame.next ?_ Dev.imgData_frame (by decide)
  assumption

theorem execImgctlClr_frame {path s t}
    (h : (execImgctlClr path s) = .next t) : Frame [.pba, .perr, .pirq, .live, .errlog, .out, .boot, .aon, .lnb,
      .pair, .mctl, .free] s.dev t.dev := by
  unfold execImgctlClr at h
  refine State.frame_run h ?_
  refine Dev.hostWr_frame ?_ ?_ (by decide)
  exact Frame.refl _ _
  intro _ _
  refine Frame.next ?_ Dev.imgCtl_frame (by decide)
  assumption

theorem execImgctlGo_frame {path s t}
    (h : (execImgctlGo path s) = .next t) : Frame [.pba, .perr, .pirq, .live, .errlog, .out, .boot, .aon, .lnb, .pair,
      .mctl, .free] s.dev t.dev := by
  unfold execImgctlGo at h
  refine State.frame_run h ?_
  refine Dev.hostWr_frame ?_ ?_ (by decide)
  exact Frame.refl _ _
  intro _ _
  refine Frame.next ?_ Dev.imgCtl_frame (by decide)
  assumption

theorem execImageVerifyDone_frame {poison pllFail s t}
    (h : (execImageVerifyDone poison pllFail s) = .next t) : Frame [.pba, .hdr, .perr, .pirq, .live, .state, .out,
      .boot, .aon, .lnb, .pair, .mctl, .free] s.dev t.dev := by
  unfold execImageVerifyDone at h
  refine State.frame_settled h ?_
  refine Frame.next ?_ Dev.settle_frame (by decide)
  refine Frame.next ?_ Dev.imageVerifyDone_frame (by decide)
  exact Frame.refl _ _

theorem execBringupComplete_frame {s t}
    (h : (execBringupComplete s) = .next t) : Frame [.pba, .pirq, .live, .state, .out, .boot, .aon, .lnb, .pair,
      .mctl, .free] s.dev t.dev := by
  unfold execBringupComplete at h
  refine State.frame_settled h ?_
  refine Frame.next ?_ Dev.settle_frame (by decide)
  refine Frame.next ?_ Dev.bringupComplete_frame (by decide)
  exact Frame.refl _ _

theorem execBringupRefTimeout_frame {s t} (h : (execBringupRefTimeout s) = .next t) : Frame [.boot] s.dev t.dev := by
  unfold execBringupRefTimeout at h
  refine State.frame_run h ?_
  refine Frame.next ?_ Dev.refTimeout_frame (by decide)
  exact Frame.refl _ _

theorem execEstopNEdge_frame {s t}
    (h : (execEstopNEdge s) = .next t) : Frame [.pba, .pirq, .live, .out, .estop, .aon, .lnb, .trg, .pair, .mctl,
      .free] s.dev t.dev := by
  unfold execEstopNEdge at h
  refine State.frame_settled h ?_
  refine Frame.next ?_ Dev.settle_frame (by decide)
  refine Frame.next ?_ Dev.estopNFall_frame (by decide)
  exact Frame.refl _ _

theorem execEstopAssert_frame {s t}
    (h : (execEstopAssert s) = .next t) : Frame [.pba, .perr, .pirq, .live, .errlog, .out, .estop, .aon, .lnb, .trg,
      .pair, .mctl, .free, .bmf] s.dev t.dev := by
  unfold execEstopAssert at h
  refine State.frame_run h ?_
  refine Dev.hostWr_frame ?_ ?_ (by decide)
  exact Frame.refl _ _
  intro _ _
  refine Frame.next ?_ Dev.estopWrite_frame (by decide)
  assumption

theorem execEstopRelease_frame {s t}
    (h : (execEstopRelease s) = .next t) : Frame [.pba, .perr, .pirq, .live, .errlog, .out, .estop, .aon, .lnb, .trg,
      .pair, .mctl, .free, .bmf] s.dev t.dev := by
  unfold execEstopRelease at h
  refine State.frame_run h ?_
  refine Dev.hostWr_frame ?_ ?_ (by decide)
  exact Frame.refl _ _
  intro _ _
  refine Frame.next ?_ Dev.estopWrite_frame (by decide)
  assumption

theorem fld_low (p : Byte) (s : Nat) (hs : 4 ≤ s) (c : Nat) (hc : c < 16) :
    fld 3 0 (BitVec.ofNat 32 c ||| p.setWidth 32 <<< s) = c := by
  have h : BitVec.setWidth 4 (BitVec.ofNat 32 c ||| p.setWidth 32 <<< s) = BitVec.ofNat 4 c := by
    apply BitVec.eq_of_getLsbD_eq
    intro i hi
    simp [BitVec.getLsbD_setWidth, BitVec.getLsbD_or, BitVec.getLsbD_shiftLeft]
    omega
  have h2 : (BitVec.ofNat 32 c ||| p.setWidth 32 <<< s).toNat % 2 ^ 4 = c := by
    rw [← BitVec.toNat_setWidth, h]; simp; omega
  simpa [fld] using h2

theorem execAonNop_frame {i3c s t}
    (h : execAonNop i3c s = .next t) : Frame [.pba, .pirq, .live, .out, .aon, .lnb, .pair, .mctl, .free] s.dev t.dev
      := by
  unfold execAonNop at h
  refine State.frame_settled h ?_
  refine Frame.next ?_ Dev.settle_frame (by decide)
  unfold Dev.aonDo
  refine Frame.ite ?_ (Frame.refl _ _)
  unfold Dev.aonCmd
  rw [show fld 3 0 (0 : Word) = 0 from rfl]
  dsimp only
  refine Dev.aonOp_frame ?_ ?_ (by decide)
  refine Frame.next ?_ Dev.setAonPort_frame (by decide)
  refine Frame.next ?_ Dev.setAonPort_frame (by decide)
  exact Frame.refl _ _
  intro _ _
  assumption

theorem execAonRead_frame {i3c page word s t}
    (h : execAonRead i3c page word s = .next t) : Frame [.sys, .aon] s.dev t.dev := by
  unfold execAonRead at h
  refine State.frame_run h ?_
  unfold Dev.aonDo
  refine Frame.ite ?_ (Frame.refl _ _)
  unfold Dev.aonCmd
  rw [show fld 3 0 (1 ||| page.setWidth 32 <<< 8 : Word) = 1 from fld_low page 8 (by decide) 1 (by decide)]
  dsimp only
  refine Frame.next ?_ Dev.aonRead_frame (by decide)
  refine Frame.next ?_ Dev.setAonPort_frame (by decide)
  refine Frame.next ?_ Dev.setAonPort_frame (by decide)
  exact Frame.refl _ _

theorem execAonEstop_frame {i3c s t}
    (h : execAonEstop i3c s = .next t) : Frame [.pba, .pirq, .live, .out, .estop, .aon, .lnb, .trg, .pair, .mctl,
      .free] s.dev t.dev := by
  unfold execAonEstop at h
  refine State.frame_settled h ?_
  refine Frame.next ?_ Dev.settle_frame (by decide)
  unfold Dev.aonDo
  refine Frame.ite ?_ (Frame.refl _ _)
  unfold Dev.aonCmd
  rw [show fld 3 0 (2 : Word) = 2 from rfl]
  dsimp only
  refine Frame.next ?_ Dev.aonEstop_frame (by decide)
  refine Frame.next ?_ Dev.setAonPort_frame (by decide)
  refine Frame.next ?_ Dev.setAonPort_frame (by decide)
  exact Frame.refl _ _

theorem execAonRelease_frame {i3c s t}
    (h : execAonRelease i3c s = .next t) : Frame [.pba, .pirq, .live, .out, .estop, .aon, .lnb, .pair, .mctl, .free, .bmf]
      s.dev t.dev := by
  unfold execAonRelease at h
  refine State.frame_settled h ?_
  refine Frame.next ?_ Dev.settle_frame (by decide)
  unfold Dev.aonDo
  refine Frame.ite ?_ (Frame.refl _ _)
  unfold Dev.aonCmd
  rw [show fld 3 0 (3 : Word) = 3 from rfl]
  dsimp only
  refine Frame.next ?_ Dev.aonRelease_frame (by decide)
  refine Frame.next ?_ Dev.setAonPort_frame (by decide)
  refine Frame.next ?_ Dev.setAonPort_frame (by decide)
  exact Frame.refl _ _

theorem execAonSnaptake_frame {i3c s t}
    (h : execAonSnaptake i3c s = .next t) : Frame [.pba, .pirq, .live, .out, .aon, .lnb, .pair, .mctl, .free] s.dev
      t.dev := by
  unfold execAonSnaptake at h
  refine State.frame_settled h ?_
  refine Frame.next ?_ Dev.settle_frame (by decide)
  unfold Dev.aonDo
  refine Frame.ite ?_ (Frame.refl _ _)
  unfold Dev.aonCmd
  rw [show fld 3 0 (4 : Word) = 4 from rfl]
  dsimp only
  refine Frame.next ?_ Dev.aonSnapTake_frame (by decide)
  refine Frame.next ?_ Dev.setAonPort_frame (by decide)
  refine Frame.next ?_ Dev.setAonPort_frame (by decide)
  exact Frame.refl _ _

theorem execAonSnapclr_frame {i3c s t}
    (h : execAonSnapclr i3c s = .next t) : Frame [.pba, .pirq, .live, .out, .aon, .lnb, .pair, .mctl, .free] s.dev
      t.dev := by
  unfold execAonSnapclr at h
  refine State.frame_settled h ?_
  refine Frame.next ?_ Dev.settle_frame (by decide)
  unfold Dev.aonDo
  refine Frame.ite ?_ (Frame.refl _ _)
  unfold Dev.aonCmd
  rw [show fld 3 0 (5 : Word) = 5 from rfl]
  dsimp only
  refine Frame.next ?_ Dev.aonSnapClear_frame (by decide)
  refine Frame.next ?_ Dev.setAonPort_frame (by decide)
  refine Frame.next ?_ Dev.setAonPort_frame (by decide)
  exact Frame.refl _ _

theorem execAonWdreset_frame {i3c confirm s t}
    (h : (execAonWdreset i3c confirm s) = .next t) : Frame [.regs, .pba, .act, .hdr, .perr, .pirq, .stats, .live,
      .nextc, .state, .errlog, .out, .sys, .boot, .pwr, .estop, .aon, .time, .msp, .mspSh, .monword, .eth, .clk, .lnb,
      .plt, .run, .ing, .dkl, .hat, .acc, .bmf, .trg, .pair, .bur, .mctl, .fab, .hif, .dma, .mmu, .mem, .free] s.dev
      t.dev := by
  unfold execAonWdreset at h
  refine State.frame_settled h ?_
  refine Frame.next ?_ Dev.settle_frame (by decide)
  refine Frame.next ?_ Dev.aonDo_frame (by decide)
  exact Frame.refl _ _

theorem execAonSetshed_frame {i3c level s t}
    (h : (execAonSetshed i3c level s) = .next t) : Frame [.regs, .pba, .act, .hdr, .perr, .pirq, .stats, .live,
      .nextc, .state, .errlog, .out, .sys, .boot, .pwr, .estop, .aon, .time, .msp, .mspSh, .monword, .eth, .clk, .lnb,
      .plt, .run, .ing, .dkl, .hat, .acc, .bmf, .trg, .pair, .bur, .mctl, .fab, .hif, .dma, .mmu, .mem, .free] s.dev
      t.dev := by
  unfold execAonSetshed at h
  refine State.frame_settled h ?_
  refine Frame.next ?_ Dev.settle_frame (by decide)
  refine Frame.next ?_ Dev.aonDo_frame (by decide)
  exact Frame.refl _ _

theorem execAonReadsnap_frame {i3c word s t} (h : execAonReadsnap i3c word s = .next t) : Frame [.aon] s.dev t.dev := by
  unfold execAonReadsnap at h
  refine State.frame_run h ?_
  unfold Dev.aonDo
  refine Frame.ite ?_ (Frame.refl _ _)
  unfold Dev.aonCmd
  rw [show fld 3 0 (8 : Word) = 8 from rfl]
  dsimp only
  refine Frame.next ?_ Dev.aonReadSnap_frame (by decide)
  refine Frame.next ?_ Dev.setAonPort_frame (by decide)
  refine Frame.next ?_ Dev.setAonPort_frame (by decide)
  exact Frame.refl _ _

theorem execI3cPrivateWrite_frame {idx v s t}
    (h : (execI3cPrivateWrite idx v s) = .next t) : Frame [.regs, .pba, .act, .hdr, .perr, .pirq, .stats, .live,
      .nextc, .state, .errlog, .out, .sys, .boot, .pwr, .estop, .aon, .time, .msp, .mspSh, .monword, .eth, .clk, .lnb,
      .plt, .run, .ing, .dkl, .hat, .acc, .bmf, .trg, .pair, .bur, .mctl, .fab, .hif, .dma, .mmu, .mem, .free] s.dev
      t.dev := by
  unfold execI3cPrivateWrite at h
  refine State.frame_settled h ?_
  refine Frame.next ?_ Dev.settle_frame (by decide)
  refine Frame.next ?_ Dev.i3cWrite_frame (by decide)
  exact Frame.refl _ _

theorem execI3cPrivateRead_frame {s t} (h : (execI3cPrivateRead s) = .next t) : Frame [.out] s.dev t.dev := by
  unfold execI3cPrivateRead at h
  refine State.frame_run h ?_
  refine Frame.next ?_ Dev.i3cRead_frame (by decide)
  exact Frame.refl _ _

theorem execI3cCcc_frame {code s t} (h : (execI3cCcc code s) = .next t) : Frame [.out, .aon, .free] s.dev t.dev := by
  unfold execI3cCcc at h
  refine State.frame_run h ?_
  refine Frame.next ?_ Dev.i3cCcc_frame (by decide)
  exact Frame.refl _ _

theorem execSnapTake_frame {s t}
    (h : (execSnapTake s) = .next t) : Frame [.pba, .perr, .pirq, .live, .errlog, .out, .aon, .lnb, .pair, .mctl,
      .free] s.dev t.dev := by
  unfold execSnapTake at h
  refine State.frame_run h ?_
  refine Dev.hostWr_frame ?_ ?_ (by decide)
  exact Frame.refl _ _
  intro _ _
  refine Frame.next ?_ Dev.snapctlWrite_frame (by decide)
  assumption

theorem execSnapClear_frame {s t}
    (h : (execSnapClear s) = .next t) : Frame [.pba, .perr, .pirq, .live, .errlog, .out, .aon, .lnb, .pair, .mctl,
      .free] s.dev t.dev := by
  unfold execSnapClear at h
  refine State.frame_run h ?_
  refine Dev.hostWr_frame ?_ ?_ (by decide)
  exact Frame.refl _ _
  intro _ _
  refine Frame.next ?_ Dev.snapctlWrite_frame (by decide)
  assumption

theorem execSnapshotDone_frame {s t}
    (h : (execSnapshotDone s) = .next t) : Frame [.pba, .pirq, .out, .aon] s.dev t.dev := by
  unfold execSnapshotDone at h
  refine State.frame_run h ?_
  refine Frame.next ?_ Dev.snapDone_frame (by decide)
  exact Frame.refl _ _

theorem execMemoryTrainingDone_frame {failed bad quires lanes sram s t}
    (h : (execMemoryTrainingDone failed bad quires lanes sram s) = .next t) : Frame [.pba, .hdr, .pirq, .live,
      .errlog, .out, .boot, .aon, .time, .lnb, .plt, .hat, .pair, .mctl, .mem, .free] s.dev t.dev := by
  unfold execMemoryTrainingDone at h
  refine State.frame_settled h ?_
  refine Frame.next ?_ Dev.settle_frame (by decide)
  refine Frame.next ?_ Dev.memoryTrainingDone_frame (by decide)
  exact Frame.refl _ _

theorem execPerstNRelease_frame {s t} (h : (execPerstNRelease s) = .next t) : Frame [.boot] s.dev t.dev := by
  unfold execPerstNRelease at h
  refine State.frame_run h ?_
  refine Frame.next ?_ Dev.perstRelease_frame (by decide)
  exact Frame.refl _ _

theorem execEstopNRise_frame {s t} (h : (execEstopNRise s) = .next t) : Frame [.estop] s.dev t.dev := by
  unfold execEstopNRise at h
  refine State.frame_run h ?_
  refine Frame.next ?_ Dev.estopNRise_frame (by decide)
  exact Frame.refl _ _

/-! ### CmdBur -/

theorem execBurinActivation_frame {core s t}
    (h : (execBurinActivation core s) = .next t) : Frame [.bur, .free] s.dev t.dev := by
  unfold execBurinActivation at h
  refine State.frame_run h ?_
  refine Dev.onPage_frame ?_ ?_ (by decide)
  exact Frame.refl _ _
  intro _ _
  refine Frame.next ?_ Dev.burActivate_frame (by decide)
  assumption

theorem execBurinTimer_frame {core s t} (h : (execBurinTimer core s) = .next t) : Frame [.bur] s.dev t.dev := by
  unfold execBurinTimer at h
  refine State.frame_run h ?_
  refine Dev.onPage_frame ?_ ?_ (by decide)
  exact Frame.refl _ _
  intro _ _
  refine Frame.next ?_ Dev.burTimer_frame (by decide)
  assumption

theorem execBurinIrqTaken_frame {core s t}
    (h : (execBurinIrqTaken core s) = .next t) : Frame [.live, .bur] s.dev t.dev := by
  unfold execBurinIrqTaken at h
  refine State.frame_run h ?_
  refine Dev.onPage_frame ?_ ?_ (by decide)
  exact Frame.refl _ _
  intro _ _
  refine Frame.next ?_ Dev.burIrq_frame (by decide)
  assumption

theorem execCmtGo_frame {core num s t}
    (h : (execCmtGo core num s) = .next t) : Frame [.regs, .pba, .act, .hdr, .pirq, .live, .out, .time, .msp, .lnb,
      .run, .ing, .acc, .bmf, .trg, .bur, .mem] s.dev t.dev := by
  unfold execCmtGo at h
  refine State.frame_run h ?_
  refine Dev.onPage_frame ?_ ?_ (by decide)
  exact Frame.refl _ _
  intro _ _
  refine Frame.next ?_ Dev.cmtGo_frame (by decide)
  assumption

theorem execSwPost_frame {core s t} (h : (execSwPost core s) = .next t) : Frame [.live, .trg] s.dev t.dev := by
  unfold execSwPost at h
  refine State.frame_run h ?_
  refine Dev.onPage_frame ?_ ?_ (by decide)
  exact Frame.refl _ _
  intro _ _
  refine Frame.next ?_ Dev.swPost_frame (by decide)
  assumption

theorem execXfGo_frame {core dir s t}
    (h : (execXfGo core dir s) = .next t) : Frame [.pba, .pirq, .live, .out, .aon, .lnb, .pair, .bur, .mctl, .free]
      s.dev t.dev := by
  unfold execXfGo at h
  refine State.frame_settled h ?_
  refine Frame.next ?_ Dev.settle_frame (by decide)
  refine Dev.onPage_frame ?_ ?_ (by decide)
  exact Frame.refl _ _
  intro _ _
  refine Frame.next ?_ Dev.xfGo_frame (by decide)
  assumption

theorem execXfDone_frame {core s t}
    (h : (execXfDone core s) = .next t) : Frame [.regs, .pba, .perr, .pirq, .live, .state, .errlog, .out, .aon,
      .monword, .lnb, .plt, .acc, .bmf, .trg, .pair, .bur, .mctl, .fab, .mem, .free] s.dev t.dev := by
  unfold execXfDone at h
  refine State.frame_settled h ?_
  refine Frame.next ?_ Dev.settle_frame (by decide)
  refine Dev.onPage_frame ?_ ?_ (by decide)
  exact Frame.refl _ _
  intro _ _
  refine Frame.next ?_ Dev.xfDone_frame (by decide)
  assumption

theorem execMbxinPortRead_frame {core s t}
    (h : (execMbxinPortRead core s) = .next t) : Frame [.out, .bur] s.dev t.dev := by
  unfold execMbxinPortRead at h
  refine State.frame_run h ?_
  refine Dev.onPage_frame ?_ ?_ (by decide)
  exact Frame.refl _ _
  intro _ _
  dsimp only
  refine Frame.next ?_ Dev.emit_frame (by decide)
  refine Frame.next ?_ Dev.mbxPop_frame (by decide)
  assumption

theorem execBurinReloadDone_frame {s t}
    (h : (execBurinReloadDone s) = .next t) : Frame [.pba, .pirq, .live, .out, .bur] s.dev t.dev := by
  unfold execBurinReloadDone at h
  refine State.frame_run h ?_
  refine Frame.ite ?_ ?_
  exact Frame.refl _ _
  refine Frame.next ?_ Dev.burReloadDone_frame (by decide)
  exact Frame.refl _ _

theorem execCctlHalt_frame {core halt s t}
    (h : (execCctlHalt core halt s) = .next t) : Frame [.regs, .pba, .act, .hdr, .perr, .pirq, .live, .state, .errlog,
      .out, .aon, .time, .msp, .monword, .lnb, .plt, .run, .ing, .acc, .bmf, .trg, .pair, .bur, .mctl, .fab, .mem,
      .free] s.dev t.dev := by
  unfold execCctlHalt at h
  refine State.frame_run h ?_
  refine Dev.hostWr_frame ?_ ?_ (by decide)
  exact Frame.refl _ _
  intro _ _
  refine Frame.next ?_ Dev.cctlWrite_frame (by decide)
  assumption

theorem execCctlStep_frame {core s t}
    (h : (execCctlStep core s) = .next t) : Frame [.regs, .pba, .act, .hdr, .perr, .pirq, .live, .state, .errlog,
      .out, .aon, .time, .msp, .monword, .lnb, .plt, .run, .ing, .acc, .bmf, .trg, .pair, .bur, .mctl, .fab, .mem,
      .free] s.dev t.dev := by
  unfold execCctlStep at h
  refine State.frame_run h ?_
  refine Dev.hostWr_frame ?_ ?_ (by decide)
  exact Frame.refl _ _
  intro _ _
  refine Frame.next ?_ Dev.cctlWrite_frame (by decide)
  assumption

theorem execCctlCreset_frame {core s t}
    (h : (execCctlCreset core s) = .next t) : Frame [.regs, .pba, .act, .hdr, .perr, .pirq, .live, .state, .errlog,
      .out, .aon, .time, .msp, .monword, .lnb, .plt, .run, .ing, .acc, .bmf, .trg, .pair, .bur, .mctl, .fab, .mem,
      .free] s.dev t.dev := by
  unfold execCctlCreset at h
  refine State.frame_run h ?_
  refine Dev.hostWr_frame ?_ ?_ (by decide)
  exact Frame.refl _ _
  intro _ _
  refine Frame.next ?_ Dev.cctlWrite_frame (by decide)
  assumption

theorem execMbxinWrite_frame {core v s t}
    (h : (execMbxinWrite core v s) = .next t) : Frame [.pba, .perr, .pirq, .live, .errlog, .out, .aon, .lnb, .pair,
      .bur, .mctl, .free] s.dev t.dev := by
  unfold execMbxinWrite at h
  refine State.frame_run h ?_
  refine Dev.hostWr_frame ?_ ?_ (by decide)
  exact Frame.refl _ _
  intro _ _
  refine Frame.next ?_ Dev.mbxinWrite_frame (by decide)
  assumption

/-! ### CmdClk -/

theorem execReferenceEdge_frame {i foffs fxtal jump phase s t}
    (h : (execReferenceEdge i foffs fxtal jump phase s) = .next t) : Frame [.pba, .pirq, .live, .out, .time, .clk,
      .acc] s.dev t.dev := by
  unfold execReferenceEdge at h
  refine State.frame_run h ?_
  refine Dev.onPage_frame ?_ ?_ (by decide)
  exact Frame.refl _ _
  intro _ _
  refine Frame.next ?_ Dev.refEdge_frame (by decide)
  assumption

theorem execReferenceEdgeMissing_frame {i s t}
    (h : (execReferenceEdgeMissing i s) = .next t) : Frame [.pba, .pirq, .live, .out, .time, .clk, .acc] s.dev t.dev
      := by
  unfold execReferenceEdgeMissing at h
  refine State.frame_run h ?_
  refine Dev.onPage_frame ?_ ?_ (by decide)
  exact Frame.refl _ _
  intro _ _
  refine Frame.next ?_ Dev.refMissing_frame (by decide)
  assumption

theorem execReferenceQualified_frame {i s t}
    (h : (execReferenceQualified i s) = .next t) : Frame [.pba, .pirq, .live, .out, .time, .clk, .acc] s.dev t.dev :=
      by
  unfold execReferenceQualified at h
  refine State.frame_run h ?_
  refine Dev.onPage_frame ?_ ?_ (by decide)
  exact Frame.refl _ _
  intro _ _
  refine Frame.next ?_ Dev.refQualified_frame (by decide)
  assumption

theorem execSwitchComplete_frame {s t}
    (h : (execSwitchComplete s) = .next t) : Frame [.pba, .hdr, .pirq, .out, .clk] s.dev t.dev := by
  unfold execSwitchComplete at h
  refine State.frame_run h ?_
  refine Dev.onPage_frame ?_ ?_ (by decide)
  exact Frame.refl _ _
  intro _ _
  refine Frame.next ?_ Dev.switchComplete_frame (by decide)
  assumption

theorem execDisagreeCheck_frame {i j fi fj s t}
    (h : (execDisagreeCheck i j fi fj s) = .next t) : Frame [.pba, .pirq, .live, .out, .clk, .acc] s.dev t.dev := by
  unfold execDisagreeCheck at h
  refine State.frame_run h ?_
  refine Dev.onPage_frame ?_ ?_ (by decide)
  exact Frame.refl _ _
  intro _ _
  refine Frame.next ?_ Dev.disagreeCheck_frame (by decide)
  assumption

theorem execLoopctlSwWrite_frame {v s t}
    (h : (execLoopctlSwWrite v s) = .next t) : Frame [.regs, .pba, .perr, .pirq, .live, .errlog, .out, .aon, .clk,
      .lnb, .acc, .pair, .mctl, .free] s.dev t.dev := by
  unfold execLoopctlSwWrite at h
  refine State.frame_run h ?_
  refine Dev.hostWr_frame ?_ ?_ (by decide)
  exact Frame.refl _ _
  intro _ _
  refine Frame.next ?_ Dev.loopCtlWrite_frame (by decide)
  assumption

theorem execFreqadjWrite_frame {v s t}
    (h : (execFreqadjWrite v s) = .next t) : Frame [.regs, .pba, .perr, .pirq, .live, .errlog, .out, .aon, .clk, .lnb,
      .pair, .mctl, .free] s.dev t.dev := by
  unfold execFreqadjWrite at h
  refine State.frame_run h ?_
  refine Dev.hostWr_frame ?_ ?_ (by decide)
  exact Frame.refl _ _
  intro _ _
  refine Frame.next ?_ Dev.freqAdjWrite_frame (by decide)
  assumption

theorem execPhstepWrite_frame {v s t}
    (h : (execPhstepWrite v s) = .next t) : Frame [.pba, .perr, .pirq, .live, .errlog, .out, .aon, .clk, .lnb, .pair,
      .mctl, .free] s.dev t.dev := by
  unfold execPhstepWrite at h
  refine State.frame_run h ?_
  refine Dev.hostWr_frame ?_ ?_ (by decide)
  exact Frame.refl _ _
  intro _ _
  refine Frame.next ?_ Dev.phStepWrite_frame (by decide)
  assumption

theorem execOutalignWrite_frame {v s t}
    (h : (execOutalignWrite v s) = .next t) : Frame [.pba, .perr, .pirq, .live, .errlog, .out, .aon, .clk, .lnb,
      .pair, .mctl, .free] s.dev t.dev := by
  unfold execOutalignWrite at h
  refine State.frame_run h ?_
  refine Dev.hostWr_frame ?_ ?_ (by decide)
  exact Frame.refl _ _
  intro _ _
  refine Frame.next ?_ Dev.outAlignWrite_frame (by decide)
  assumption

theorem execAlignmentEdge_frame {i s t} (h : (execAlignmentEdge i s) = .next t) : Frame [.out, .clk] s.dev t.dev := by
  unfold execAlignmentEdge at h
  refine State.frame_run h ?_
  refine Dev.onPage_frame ?_ ?_ (by decide)
  exact Frame.refl _ _
  intro _ _
  refine Frame.next ?_ Dev.alignReached_frame (by decide)
  assumption

theorem execOutcfgWrite_frame {field v s t}
    (h : (execOutcfgWrite field v s) = .next t) : Frame [.pba, .perr, .pirq, .live, .errlog, .out, .aon, .clk, .lnb,
      .pair, .mctl, .free] s.dev t.dev := by
  unfold execOutcfgWrite at h
  refine State.frame_run h ?_
  refine Dev.hostWr_frame ?_ ?_ (by decide)
  exact Frame.refl _ _
  intro _ _
  refine Frame.next ?_ Dev.outCfgWrite_frame (by decide)
  assumption

theorem execSyncoutPulse_frame {i s t} (h : (execSyncoutPulse i s) = .next t) : Frame [.out, .clk] s.dev t.dev := by
  unfold execSyncoutPulse at h
  refine State.frame_run h ?_
  refine Dev.onPage_frame ?_ ?_ (by decide)
  exact Frame.refl _ _
  intro _ _
  refine Frame.next ?_ Dev.syncPulse_frame (by decide)
  assumption

/-! ### CmdDkl -/

theorem execPageSlotAssign_frame {sfn input group s t}
    (h : (execPageSlotAssign sfn input group s) = .next t) : Frame [.pba, .pirq, .live, .out, .dkl, .mem] s.dev t.dev
      := by
  unfold execPageSlotAssign at h
  refine State.frame_run h ?_
  refine Dev.onPage_frame ?_ ?_ (by decide)
  exact Frame.refl _ _
  intro _ _
  refine Frame.next ?_ Dev.streamDue_frame (by decide)
  refine Frame.next ?_ Dev.pageSlotAssign_frame (by decide)
  assumption

theorem execPageConsume_frame {sfn input group s t}
    (h : (execPageConsume sfn input group s) = .next t) : Frame [.dkl] s.dev t.dev := by
  unfold execPageConsume at h
  refine State.frame_run h ?_
  refine Dev.onPage_frame ?_ ?_ (by decide)
  exact Frame.refl _ _
  intro _ _
  refine Frame.next ?_ Dev.pageConsume_frame (by decide)
  assumption

theorem execCornerTurnStage_frame {upto poison ces s t}
    (h : (execCornerTurnStage upto poison ces s) = .next t) : Frame [.pba, .pirq, .live, .errlog, .out, .plt, .dkl,
      .acc, .mctl, .mem] s.dev t.dev := by
  unfold execCornerTurnStage at h
  refine State.frame_run h ?_
  refine Dev.onPage_frame ?_ ?_ (by decide)
  exact Frame.refl _ _
  intro _ _
  refine Frame.foldl ?_ ?_
  refine Frame.next ?_ Dev.cornerTurnStage_frame (by decide)
  assumption
  intro _ _ _
  refine Frame.next ?_ Dev.corrected_frame (by decide)
  assumption

theorem execCaptureRecordWrite_frame {id s t}
    (h : (execCaptureRecordWrite id s) = .next t) : Frame [.pba, .pirq, .live, .out, .dkl, .mem] s.dev t.dev := by
  unfold execCaptureRecordWrite at h
  refine State.frame_run h ?_
  refine Dev.onPage_frame ?_ ?_ (by decide)
  exact Frame.refl _ _
  intro _ _
  refine Frame.next ?_ Dev.captureRecordWrite_frame (by decide)
  assumption

theorem execDklRelease_frame {v s t}
    (h : (execDklRelease v s) = .next t) : Frame [.pba, .perr, .pirq, .live, .errlog, .out, .aon, .lnb, .dkl, .pair,
      .mctl, .free] s.dev t.dev := by
  unfold execDklRelease at h
  refine State.frame_run h ?_
  refine Dev.hostWr_frame ?_ ?_ (by decide)
  exact Frame.refl _ _
  intro _ _
  refine Frame.next ?_ Dev.dklRelease_frame (by decide)
  assumption

theorem execCaprdWrite_frame {v s t}
    (h : (execCaprdWrite v s) = .next t) : Frame [.pba, .perr, .pirq, .live, .errlog, .out, .aon, .lnb, .dkl, .pair,
      .mctl, .free] s.dev t.dev := by
  unfold execCaprdWrite at h
  refine State.frame_run h ?_
  refine Dev.hostWr_frame ?_ ?_ (by decide)
  exact Frame.refl _ _
  intro _ _
  refine Frame.next ?_ Dev.caprdWrite_frame (by decide)
  assumption

theorem execPassRun_frame {bad s t}
    (h : (execPassRun bad s) = .next t) : Frame [.pba, .pirq, .live, .out, .plt, .dkl, .hat, .acc, .mem, .free] s.dev
      t.dev := by
  unfold execPassRun at h
  refine State.frame_run h ?_
  refine Dev.onPage_frame ?_ ?_ (by decide)
  exact Frame.refl _ _
  intro _ _
  refine Frame.next ?_ Dev.passRun_frame (by decide)
  assumption

theorem execQmaskSet_frame {k v s t}
    (h : (execQmaskSet k v s) = .next t) : Frame [.pba, .perr, .pirq, .live, .errlog, .out, .aon, .lnb, .plt, .hat,
      .pair, .mctl, .mem, .free] s.dev t.dev := by
  unfold execQmaskSet at h
  refine State.frame_run h ?_
  refine Dev.hostWr_frame ?_ ?_ (by decide)
  exact Frame.refl _ _
  intro _ _
  refine Frame.next ?_ Dev.qmaskWrite_frame (by decide)
  assumption

theorem execChannelAdd_frame {poison s t}
    (h : (execChannelAdd poison s) = .next t) : Frame [.pba, .pirq, .live, .out, .acc, .mem] s.dev t.dev := by
  unfold execChannelAdd at h
  refine State.frame_run h ?_
  refine Dev.onPage_frame ?_ ?_ (by decide)
  exact Frame.refl _ _
  intro _ _
  refine Frame.next ?_ Dev.channelAdd_frame (by decide)
  assumption

theorem execAddWindowExpire_frame {done s t}
    (h : (execAddWindowExpire done s) = .next t) : Frame [.pba, .pirq, .live, .out, .acc, .mem] s.dev t.dev := by
  unfold execAddWindowExpire at h
  refine State.frame_run h ?_
  refine Dev.onPage_frame ?_ ?_ (by decide)
  exact Frame.refl _ _
  intro _ _
  refine Frame.next ?_ Dev.addWindowExpire_frame (by decide)
  assumption

theorem execSuspectFlagsClose_frame {s t}
    (h : (execSuspectFlagsClose s) = .next t) : Frame [.pba, .pirq, .live, .out, .plt, .hat, .acc, .mem] s.dev t.dev := by
  unfold execSuspectFlagsClose at h
  refine State.frame_run h ?_
  refine Dev.onPage_frame ?_ ?_ (by decide)
  exact Frame.refl _ _
  intro _ _
  refine Frame.next ?_ Dev.suspectFlagsClose_frame (by decide)
  assumption

theorem execRecordFinished_frame {s t}
    (h : (execRecordFinished s) = .next t) : Frame [.pba, .pirq, .live, .nextc, .state, .out, .aon, .lnb, .plt, .run,
      .hat, .acc, .pair, .mctl, .mem, .free] s.dev t.dev := by
  unfold execRecordFinished at h
  refine State.frame_settled h ?_
  refine Frame.next ?_ Dev.settle_frame (by decide)
  refine Dev.onPage_frame ?_ ?_ (by decide)
  exact Frame.refl _ _
  intro _ _
  refine Frame.next ?_ Dev.recordFinished_frame (by decide)
  assumption

theorem execAccRelease_frame {v s t}
    (h : (execAccRelease v s) = .next t) : Frame [.pba, .perr, .pirq, .live, .errlog, .out, .aon, .lnb, .acc, .pair,
      .mctl, .free] s.dev t.dev := by
  unfold execAccRelease at h
  refine State.frame_run h ?_
  refine Dev.hostWr_frame ?_ ?_ (by decide)
  exact Frame.refl _ _
  intro _ _
  refine Frame.next ?_ Dev.accRelease_frame (by decide)
  assumption

/-! ### CmdHost -/

theorem execDmaStart_frame {k n s t}
    (h : (execDmaStart k n s) = .next t) : Frame [.pba, .perr, .pirq, .live, .errlog, .out, .aon, .lnb, .pair, .mctl,
      .dma, .free] s.dev t.dev := by
  unfold execDmaStart at h
  refine State.frame_run h ?_
  refine Dev.hostWr_frame ?_ ?_ (by decide)
  exact Frame.refl _ _
  intro _ _
  refine Frame.next ?_ Dev.dmaStart_frame (by decide)
  assumption

theorem execDmaResume_frame {k n s t}
    (h : (execDmaResume k n s) = .next t) : Frame [.pba, .perr, .pirq, .live, .errlog, .out, .aon, .lnb, .pair, .mctl,
      .dma, .free] s.dev t.dev := by
  unfold execDmaResume at h
  refine State.frame_run h ?_
  refine Dev.hostWr_frame ?_ ?_ (by decide)
  exact Frame.refl _ _
  intro _ _
  refine Frame.next ?_ Dev.dmaResume_frame (by decide)
  assumption

theorem execDmaAbort_frame {k n s t}
    (h : (execDmaAbort k n s) = .next t) : Frame [.regs, .pba, .perr, .pirq, .live, .state, .errlog, .out, .aon, .lnb,
      .plt, .acc, .bmf, .trg, .pair, .bur, .mctl, .fab, .dma, .mmu, .mem, .free] s.dev t.dev := by
  unfold execDmaAbort at h
  refine State.frame_run h ?_
  refine Dev.hostWr_frame ?_ ?_ (by decide)
  exact Frame.refl _ _
  intro _ _
  refine Frame.next ?_ Dev.dmaAbort_frame (by decide)
  assumption

theorem execDescCopy_frame {k len host pois s t}
    (h : (execDescCopy k len host pois s) = .next t) : Frame [.regs, .pba, .perr, .pirq, .live, .state, .errlog, .out,
      .aon, .lnb, .plt, .acc, .bmf, .trg, .pair, .bur, .mctl, .fab, .dma, .mmu, .mem, .free] s.dev t.dev := by
  unfold execDescCopy at h
  refine State.frame_settled h ?_
  refine Frame.next ?_ Dev.settle_frame (by decide)
  refine Dev.onPage_frame ?_ ?_ (by decide)
  exact Frame.refl _ _
  intro _ _
  refine Frame.next ?_ Dev.descStep_frame (by decide)
  assumption

theorem execDescFill_frame {k len host pois s t}
    (h : (execDescFill k len host pois s) = .next t) : Frame [.regs, .pba, .perr, .pirq, .live, .state, .errlog, .out,
      .aon, .lnb, .plt, .acc, .bmf, .trg, .pair, .bur, .mctl, .fab, .dma, .mmu, .mem, .free] s.dev t.dev := by
  unfold execDescFill at h
  refine State.frame_settled h ?_
  refine Frame.next ?_ Dev.settle_frame (by decide)
  refine Dev.onPage_frame ?_ ?_ (by decide)
  exact Frame.refl _ _
  intro _ _
  refine Frame.next ?_ Dev.descStep_frame (by decide)
  assumption

theorem execDescCompare_frame {k len host pois s t}
    (h : (execDescCompare k len host pois s) = .next t) : Frame [.regs, .pba, .perr, .pirq, .live, .state, .errlog,
      .out, .aon, .lnb, .plt, .acc, .bmf, .trg, .pair, .bur, .mctl, .fab, .dma, .mmu, .mem, .free] s.dev t.dev := by
  unfold execDescCompare at h
  refine State.frame_settled h ?_
  refine Frame.next ?_ Dev.settle_frame (by decide)
  refine Dev.onPage_frame ?_ ?_ (by decide)
  exact Frame.refl _ _
  intro _ _
  refine Frame.next ?_ Dev.descStep_frame (by decide)
  assumption

theorem execReadbackDone_frame {k s t}
    (h : (execReadbackDone k s) = .next t) : Frame [.regs, .pba, .perr, .pirq, .live, .state, .errlog, .out, .aon,
      .lnb, .plt, .acc, .bmf, .trg, .pair, .bur, .mctl, .fab, .dma, .mmu, .mem, .free] s.dev t.dev := by
  unfold execReadbackDone at h
  refine State.frame_settled h ?_
  refine Frame.next ?_ Dev.settle_frame (by decide)
  refine Dev.onPage_frame ?_ ?_ (by decide)
  exact Frame.refl _ _
  intro _ _
  refine Frame.next ?_ Dev.readbackDone_frame (by decide)
  assumption

theorem execChainPreempt_frame {k host pois s t}
    (h : (execChainPreempt k host pois s) = .next t) : Frame [.regs, .pba, .perr, .pirq, .live, .state, .errlog, .out,
      .aon, .lnb, .plt, .acc, .bmf, .trg, .pair, .bur, .mctl, .fab, .dma, .mmu, .mem, .free] s.dev t.dev := by
  unfold execChainPreempt at h
  refine State.frame_settled h ?_
  refine Frame.next ?_ Dev.settle_frame (by decide)
  refine Dev.onPage_frame ?_ ?_ (by decide)
  exact Frame.refl _ _
  intro _ _
  refine Frame.next ?_ Dev.chainPreempt_frame (by decide)
  assumption

theorem execInvalidateContext_frame {ctx s t}
    (h : (execInvalidateContext ctx s) = .next t) : Frame [.pba, .perr, .pirq, .live, .errlog, .out, .aon, .lnb,
      .pair, .mctl, .mmu, .free] s.dev t.dev := by
  unfold execInvalidateContext at h
  refine State.frame_run h ?_
  refine Dev.hostWr_frame ?_ ?_ (by decide)
  exact Frame.refl _ _
  intro _ _
  refine Frame.next ?_ Dev.invalidate_frame (by decide)
  assumption

theorem execInvalidatePage_frame {ctx s t}
    (h : (execInvalidatePage ctx s) = .next t) : Frame [.pba, .perr, .pirq, .live, .errlog, .out, .aon, .lnb, .pair,
      .mctl, .mmu, .free] s.dev t.dev := by
  unfold execInvalidatePage at h
  refine State.frame_run h ?_
  refine Dev.hostWr_frame ?_ ?_ (by decide)
  exact Frame.refl _ _
  intro _ _
  refine Frame.next ?_ Dev.invalidate_frame (by decide)
  assumption

theorem execInvalidateAll_frame {s t}
    (h : (execInvalidateAll s) = .next t) : Frame [.pba, .perr, .pirq, .live, .errlog, .out, .aon, .lnb, .pair, .mctl,
      .mmu, .free] s.dev t.dev := by
  unfold execInvalidateAll at h
  refine State.frame_run h ?_
  refine Dev.hostWr_frame ?_ ?_ (by decide)
  exact Frame.refl _ _
  intro _ _
  refine Frame.next ?_ Dev.invalidate_frame (by decide)
  assumption

theorem execInvalidationDone_frame {s t}
    (h : (execInvalidationDone s) = .next t) : Frame [.pba, .pirq, .live, .out, .mmu] s.dev t.dev := by
  unfold execInvalidationDone at h
  refine State.frame_run h ?_
  refine Dev.onPage_frame ?_ ?_ (by decide)
  exact Frame.refl _ _
  intro _ _
  refine Frame.next ?_ Dev.invalidationDone_frame (by decide)
  assumption

theorem execHostInboundRead_frame {a len ce ue s t}
    (h : (execHostInboundRead a len ce ue s) = .next t) : Frame [.pba, .pirq, .live, .state, .errlog, .out, .aon,
      .lnb, .plt, .acc, .pair, .mctl, .fab, .mem, .free] s.dev t.dev := by
  unfold execHostInboundRead at h
  refine State.frame_settled h ?_
  refine Frame.next ?_ Dev.settle_frame (by decide)
  refine Frame.next ?_ Dev.hostRead_frame (by decide)
  exact Frame.refl _ _

theorem execHostInboundWrite_frame {a l ep s t}
    (h : (execHostInboundWrite a l ep s) = .next t) : Frame [.pba, .perr, .pirq, .live, .state, .errlog, .out, .boot,
      .aon, .lnb, .plt, .acc, .bmf, .trg, .pair, .bur, .mctl, .fab, .mem, .free] s.dev t.dev := by
  unfold execHostInboundWrite at h
  refine State.frame_settled h ?_
  refine Frame.next ?_ Dev.settle_frame (by decide)
  refine Frame.next ?_ Dev.hostWrite_frame (by decide)
  exact Frame.refl _ _

theorem execAtomicAdd_frame {a wide v s t}
    (h : (execAtomicAdd a wide v s) = .next t) : Frame [.pba, .perr, .pirq, .live, .state, .errlog, .out, .aon, .lnb, .plt,
      .acc, .pair, .mctl, .fab, .mem, .free] s.dev t.dev := by
  unfold execAtomicAdd at h
  refine State.frame_settled h ?_
  refine Frame.next ?_ Dev.settle_frame (by decide)
  refine Dev.onPage_frame ?_ ?_ (by decide)
  exact Frame.refl _ _
  intro _ _
  refine Frame.next ?_ Dev.atomicAdd_frame (by decide)
  assumption

theorem execAtomicSwap_frame {a wide v s t}
    (h : (execAtomicSwap a wide v s) = .next t) : Frame [.pba, .perr, .pirq, .live, .state, .errlog, .out, .aon, .lnb, .plt,
      .acc, .pair, .mctl, .fab, .mem, .free] s.dev t.dev := by
  unfold execAtomicSwap at h
  refine State.frame_settled h ?_
  refine Frame.next ?_ Dev.settle_frame (by decide)
  refine Dev.onPage_frame ?_ ?_ (by decide)
  exact Frame.refl _ _
  intro _ _
  refine Frame.next ?_ Dev.atomicSwap_frame (by decide)
  assumption

theorem execFabricTimeout_frame {master s t}
    (h : (execFabricTimeout master s) = .next t) : Frame [.regs, .pba, .perr, .pirq, .live, .state, .errlog, .out,
      .aon, .lnb, .plt, .acc, .bmf, .trg, .pair, .bur, .mctl, .fab, .dma, .mmu, .mem, .free] s.dev t.dev := by
  unfold execFabricTimeout at h
  refine State.frame_settled h ?_
  refine Frame.next ?_ Dev.settle_frame (by decide)
  refine Dev.onPage_frame ?_ ?_ (by decide)
  exact Frame.refl _ _
  intro _ _
  refine Frame.next ?_ Dev.fabricTimeout_frame (by decide)
  assumption

theorem execLateResponse_frame {s t} (h : (execLateResponse s) = .next t) : Frame [.live, .fab] s.dev t.dev := by
  unfold execLateResponse at h
  refine State.frame_run h ?_
  refine Dev.onPage_frame ?_ ?_ (by decide)
  exact Frame.refl _ _
  intro _ _
  refine Frame.next ?_ Dev.lateResponse_frame (by decide)
  assumption

theorem execPortDrainTimeout_frame {master s t}
    (h : (execPortDrainTimeout master s) = .next t) : Frame [.pba, .pirq, .live, .out, .fab] s.dev t.dev := by
  unfold execPortDrainTimeout at h
  refine State.frame_run h ?_
  refine Dev.onPage_frame ?_ ?_ (by decide)
  exact Frame.refl _ _
  intro _ _
  refine Frame.next ?_ Dev.drainTimeout_frame (by decide)
  assumption

theorem execPcieCompletionTimeout_frame {k n s t}
    (h : (execPcieCompletionTimeout k n s) = .next t) : Frame [.regs, .pba, .perr, .pirq, .live, .state, .errlog,
      .out, .aon, .lnb, .plt, .acc, .bmf, .trg, .pair, .bur, .mctl, .fab, .dma, .mmu, .mem, .free] s.dev t.dev := by
  unfold execPcieCompletionTimeout at h
  refine State.frame_settled h ?_
  refine Frame.next ?_ Dev.settle_frame (by decide)
  refine Dev.onPage_frame ?_ ?_ (by decide)
  exact Frame.refl _ _
  intro _ _
  refine Frame.next ?_ Dev.pcieTimeout_frame (by decide)
  assumption

/-! ### CmdIng -/

theorem execQuiesceDone_frame {s t}
    (h : (execQuiesceDone s) = .next t) : Frame [.pba, .pirq, .live, .state, .out, .aon, .lnb, .pair, .mctl, .free]
      s.dev t.dev := by
  unfold execQuiesceDone at h
  refine State.frame_settled h ?_
  refine Frame.next ?_ Dev.settle_frame (by decide)
  refine Frame.next ?_ Dev.quiesceDone_frame (by decide)
  exact Frame.refl _ _

theorem execSampleFrameRx_frame {lane fr s t}
    (h : (execSampleFrameRx lane fr s) = .next t) : Frame [.pba, .pirq, .live, .nextc, .out, .lnb, .ing, .dkl, .bmf,
      .pair, .mem] s.dev t.dev := by
  unfold execSampleFrameRx at h
  refine State.frame_run h ?_
  refine Dev.onPage_frame ?_ ?_ (by decide)
  exact Frame.refl _ _
  intro _ _
  refine Frame.next ?_ Dev.sampleFrame_frame (by decide)
  assumption

theorem execTrigFrameRx_frame {lane fr s t}
    (h : (execTrigFrameRx lane fr s) = .next t) : Frame [.pba, .pirq, .live, .nextc, .out, .lnb, .ing, .trg] s.dev
      t.dev := by
  unfold execTrigFrameRx at h
  refine State.frame_run h ?_
  refine Dev.onPage_frame ?_ ?_ (by decide)
  exact Frame.refl _ _
  intro _ _
  refine Frame.next ?_ Dev.trigFrameRx_frame (by decide)
  assumption

theorem execIdleFrameRx_frame {lane fr s t}
    (h : (execIdleFrameRx lane fr s) = .next t) : Frame [.pba, .pirq, .live, .nextc, .out, .lnb, .ing] s.dev t.dev :=
      by
  unfold execIdleFrameRx at h
  refine State.frame_run h ?_
  refine Dev.onPage_frame ?_ ?_ (by decide)
  exact Frame.refl _ _
  intro _ _
  refine Frame.next ?_ Dev.idleFrameRx_frame (by decide)
  assumption

theorem execLaneqRelease_frame {k v s t}
    (h : (execLaneqRelease k v s) = .next t) : Frame [.pba, .perr, .pirq, .live, .errlog, .out, .aon, .lnb, .ing,
      .pair, .mctl, .free] s.dev t.dev := by
  unfold execLaneqRelease at h
  refine State.frame_run h ?_
  refine Dev.hostWr_frame ?_ ?_ (by decide)
  exact Frame.refl _ _
  intro _ _
  refine Frame.next ?_ Dev.laneqRelease_frame (by decide)
  assumption

theorem execBindhiWrite_frame {v s t}
    (h : (execBindhiWrite v s) = .next t) : Frame [.pba, .perr, .pirq, .live, .errlog, .out, .aon, .lnb, .ing, .pair,
      .mctl, .free] s.dev t.dev := by
  unfold execBindhiWrite at h
  refine State.frame_run h ?_
  refine Dev.hostWr_frame ?_ ?_ (by decide)
  exact Frame.refl _ _
  intro _ _
  refine Frame.next ?_ Dev.bindHiWrite_frame (by decide)
  assumption

theorem execMackeyLoad_frame {slot s t}
    (h : (execMackeyLoad slot s) = .next t) : Frame [.pba, .perr, .pirq, .live, .errlog, .out, .aon, .lnb, .ing,
      .pair, .mctl, .free] s.dev t.dev := by
  unfold execMackeyLoad at h
  refine State.frame_run h ?_
  refine Dev.hostWr_frame ?_ ?_ (by decide)
  exact Frame.refl _ _
  intro _ _
  refine Frame.next ?_ Dev.macKeyCtl_frame (by decide)
  assumption

theorem execMackeyClear_frame {slot s t}
    (h : (execMackeyClear slot s) = .next t) : Frame [.pba, .perr, .pirq, .live, .errlog, .out, .aon, .lnb, .ing,
      .pair, .mctl, .free] s.dev t.dev := by
  unfold execMackeyClear at h
  refine State.frame_run h ?_
  refine Dev.hostWr_frame ?_ ?_ (by decide)
  exact Frame.refl _ _
  intro _ _
  refine Frame.next ?_ Dev.macKeyCtl_frame (by decide)
  assumption

theorem execFrameSetClose_frame {group sfn overrun lat s t}
    (h : (execFrameSetClose group sfn overrun lat s) = .next t) : Frame [.pba, .pirq, .live, .nextc, .out, .ing, .dkl,
      .acc, .bmf, .trg, .bur, .mem] s.dev t.dev := by
  unfold execFrameSetClose at h
  refine State.frame_run h ?_
  refine Dev.onPage_frame ?_ ?_ (by decide)
  exact Frame.refl _ _
  intro _ _
  refine Frame.next ?_ Dev.frameSetClose_frame (by decide)
  assumption

theorem execSheetComplete_frame {s t}
    (h : (execSheetComplete s) = .next t) : Frame [.pba, .pirq, .live, .out, .sys, .run, .ing, .dkl, .hat, .acc, .trg,
      .bur, .mem] s.dev t.dev := by
  unfold execSheetComplete at h
  refine State.frame_run h ?_
  refine Dev.onPage_frame ?_ ?_ (by decide)
  exact Frame.refl _ _
  intro _ _
  refine Frame.next ?_ Dev.sheetComplete_frame (by decide)
  assumption

theorem execStatisticsLatch_frame {s t}
    (h : (execStatisticsLatch s) = .next t) : Frame [.pba, .hdr, .pirq, .stats, .live, .nextc, .state, .out, .sys,
      .pwr, .aon, .lnb, .plt, .run, .hat, .acc, .pair, .bur, .mctl, .free] s.dev t.dev := by
  unfold execStatisticsLatch at h
  refine State.frame_settled h ?_
  refine Frame.next ?_ Dev.settle_frame (by decide)
  refine Frame.next ?_ Dev.statisticsLatch_frame (by decide)
  exact Frame.refl _ _

theorem execStopBoundary_frame {s t}
    (h : (execStopBoundary s) = .next t) : Frame [.pba, .pirq, .live, .nextc, .state, .out, .aon, .lnb, .plt, .run,
      .dkl, .pair, .mctl, .free] s.dev t.dev := by
  unfold execStopBoundary at h
  refine State.frame_settled h ?_
  refine Frame.next ?_ Dev.settle_frame (by decide)
  refine Frame.next ?_ Dev.stopBoundary_frame (by decide)
  exact Frame.refl _ _

theorem execPlateTakeover_frame {s t}
    (h : (execPlateTakeover s) = .next t) : Frame [.regs, .pba, .act, .hdr, .perr, .pirq, .live, .out, .aon, .time,
      .lnb, .plt, .run, .ing, .acc, .bmf, .trg, .pair, .mctl, .free] s.dev t.dev := by
  unfold execPlateTakeover at h
  refine State.frame_settled h ?_
  refine Frame.next ?_ Dev.settle_frame (by decide)
  refine Frame.next ?_ Dev.plateTakeover_frame (by decide)
  exact Frame.refl _ _

/-! ### CmdLane -/

theorem execSignalDetect_frame {n s t} (h : (execSignalDetect n s) = .next t) : Frame [.lnb] s.dev t.dev := by
  unfold execSignalDetect at h
  refine State.frame_run h ?_
  refine Dev.onPage_frame ?_ ?_ (by decide)
  exact Frame.refl _ _
  intro _ _
  refine Frame.next ?_ Dev.signalDetect_frame (by decide)
  assumption

theorem execElectricalIdle_frame {n s t}
    (h : (execElectricalIdle n s) = .next t) : Frame [.pba, .pirq, .live, .out, .time, .lnb] s.dev t.dev := by
  unfold execElectricalIdle at h
  refine State.frame_run h ?_
  refine Dev.onPage_frame ?_ ?_ (by decide)
  exact Frame.refl _ _
  intro _ _
  refine Frame.next ?_ Dev.electricalIdle_frame (by decide)
  assumption

theorem execLaneBringupTimeout_frame {n s t}
    (h : (execLaneBringupTimeout n s) = .next t) : Frame [.pba, .pirq, .live, .out, .time, .lnb] s.dev t.dev := by
  unfold execLaneBringupTimeout at h
  refine State.frame_run h ?_
  refine Dev.onPage_frame ?_ ?_ (by decide)
  exact Frame.refl _ _
  intro _ _
  refine Frame.next ?_ Dev.bringupTimeout_frame (by decide)
  assumption

theorem execAdaptDone_frame {n ctle dfe0 dfe1 s t}
    (h : (execAdaptDone n ctle dfe0 dfe1 s) = .next t) : Frame [.hdr, .lnb] s.dev t.dev := by
  unfold execAdaptDone at h
  refine State.frame_run h ?_
  refine Dev.onPage_frame ?_ ?_ (by decide)
  exact Frame.refl _ _
  intro _ _
  refine Frame.next ?_ Dev.adaptDone_frame (by decide)
  assumption

theorem execSyncHeader_frame {n hdr s t}
    (h : (execSyncHeader n hdr s) = .next t) : Frame [.pba, .pirq, .live, .out, .time, .lnb] s.dev t.dev := by
  unfold execSyncHeader at h
  refine State.frame_run h ?_
  refine Dev.onPage_frame ?_ ?_ (by decide)
  exact Frame.refl _ _
  intro _ _
  refine Frame.next ?_ Dev.syncHeader_frame (by decide)
  assumption

theorem execMarkerRx_frame {n hdr payload s t}
    (h : (execMarkerRx n hdr payload s) = .next t) : Frame [.pba, .pirq, .live, .out, .time, .clk, .lnb, .acc] s.dev
      t.dev := by
  unfold execMarkerRx at h
  refine State.frame_run h ?_
  refine Dev.onPage_frame ?_ ?_ (by decide)
  exact Frame.refl _ _
  intro _ _
  refine Frame.next ?_ Dev.markerRx_frame (by decide)
  assumption

theorem execFrameDelineate_frame {n blks s t}
    (h : (execFrameDelineate n blks s) = .next t) : Frame [.live, .out, .lnb] s.dev t.dev := by
  unfold execFrameDelineate at h
  refine State.frame_run h ?_
  refine Dev.onPage_frame ?_ ?_ (by decide)
  exact Frame.refl _ _
  intro _ _
  refine Frame.next ?_ Dev.delineateRun_frame (by decide)
  assumption

theorem execRetune_frame {n s t}
    (h : (execRetune n s) = .next t) : Frame [.regs, .pba, .perr, .pirq, .live, .errlog, .out, .aon, .time, .lnb,
      .pair, .mctl, .free] s.dev t.dev := by
  unfold execRetune at h
  refine State.frame_run h ?_
  refine Dev.hostWr_frame ?_ ?_ (by decide)
  exact Frame.refl _ _
  intro _ _
  refine Frame.next ?_ Dev.lctlWrite_frame (by decide)
  assumption

theorem execEyeRefresh_frame {n eyeH eyeV off ctle s t}
    (h : (execEyeRefresh n eyeH eyeV off ctle s) = .next t) : Frame [.pba, .hdr, .pirq, .live, .out, .lnb] s.dev t.dev
      := by
  unfold execEyeRefresh at h
  refine State.frame_run h ?_
  refine Dev.onPage_frame ?_ ?_ (by decide)
  exact Frame.refl _ _
  intro _ _
  refine Frame.next ?_ Dev.eyeRefresh_frame (by decide)
  assumption

theorem execMarkerSend_frame {n s t} (h : (execMarkerSend n s) = .next t) : Frame [.out, .lnb] s.dev t.dev := by
  unfold execMarkerSend at h
  refine State.frame_run h ?_
  refine Dev.onPage_frame ?_ ?_ (by decide)
  exact Frame.refl _ _
  intro _ _
  refine Frame.next ?_ Dev.markerSend_frame (by decide)
  assumption

theorem execIdleFrameSend_frame {n s t}
    (h : (execIdleFrameSend n s) = .next t) : Frame [.live, .out, .lnb] s.dev t.dev := by
  unfold execIdleFrameSend at h
  refine State.frame_run h ?_
  refine Dev.onPage_frame ?_ ?_ (by decide)
  exact Frame.refl _ _
  intro _ _
  refine Frame.next ?_ Dev.idleSend_frame (by decide)
  assumption

theorem execLanePowerDown_frame {n s t}
    (h : (execLanePowerDown n s) = .next t) : Frame [.pba, .pirq, .live, .out, .time, .lnb] s.dev t.dev := by
  unfold execLanePowerDown at h
  refine State.frame_run h ?_
  refine Dev.onPage_frame ?_ ?_ (by decide)
  exact Frame.refl _ _
  intro _ _
  refine Frame.next ?_ Dev.lanePowerDown_frame (by decide)
  assumption

theorem execForwardFrame_frame {n s t}
    (h : (execForwardFrame n s) = .next t) : Frame [.live, .out, .lnb] s.dev t.dev := by
  unfold execForwardFrame at h
  refine State.frame_run h ?_
  refine Dev.onPage_frame ?_ ?_ (by decide)
  exact Frame.refl _ _
  intro _ _
  refine Frame.next ?_ Dev.forwardFrame_frame (by decide)
  assumption

/-! ### CmdMem -/

theorem execMemoryFreeze_frame {cause addr syn s t}
    (h : (execMemoryFreeze cause addr syn s) = .next t) : Frame [.pba, .pirq, .live, .state, .out, .aon, .lnb, .plt,
      .acc, .pair, .mctl, .free] s.dev t.dev := by
  unfold execMemoryFreeze at h
  refine State.frame_settled h ?_
  refine Frame.next ?_ Dev.settle_frame (by decide)
  refine Dev.onPage_frame ?_ ?_ (by decide)
  exact Frame.refl _ _
  intro _ _
  refine Frame.next ?_ Dev.freezeAt_frame (by decide)
  assumption

theorem execFrzforce_frame {v s t}
    (h : (execFrzforce v s) = .next t) : Frame [.pba, .perr, .pirq, .live, .state, .errlog, .out, .aon, .lnb, .plt,
      .acc, .pair, .mctl, .free] s.dev t.dev := by
  unfold execFrzforce at h
  refine State.frame_run h ?_
  refine Dev.hostWr_frame ?_ ?_ (by decide)
  exact Frame.refl _ _
  intro _ _
  refine Frame.next ?_ Dev.frzForce_frame (by decide)
  assumption

theorem execThawCheckDone_frame {recur addr syn still s t}
    (h : (execThawCheckDone recur addr syn still s) = .next t) : Frame [.pba, .perr, .pirq, .live, .nextc, .state,
      .errlog, .out, .aon, .lnb, .plt, .run, .ing, .dkl, .acc, .pair, .mctl, .mem, .free, .bmf] s.dev t.dev := by
  unfold execThawCheckDone at h
  refine State.frame_settled h ?_
  refine Frame.next ?_ Dev.settle_frame (by decide)
  refine Dev.onPage_frame ?_ ?_ (by decide)
  exact Frame.refl _ _
  intro _ _
  refine Frame.next ?_ Dev.thawDone_frame (by decide)
  assumption

theorem execPatrolScrub_frame {found s t}
    (h : (execPatrolScrub found s) = .next t) : Frame [.pba, .pirq, .live, .state, .errlog, .out, .aon, .lnb, .plt,
      .acc, .pair, .mctl, .mem, .free] s.dev t.dev := by
  unfold execPatrolScrub at h
  refine State.frame_settled h ?_
  refine Frame.next ?_ Dev.settle_frame (by decide)
  refine Dev.onPage_frame ?_ ?_ (by decide)
  exact Frame.refl _ _
  intro _ _
  refine Frame.next ?_ Dev.patrolScrub_frame (by decide)
  assumption

theorem execRefreshRatePoll_frame {temps s t}
    (h : (execRefreshRatePoll temps s) = .next t) : Frame [.pba, .hdr, .pirq, .live, .out, .mctl] s.dev t.dev := by
  unfold execRefreshRatePoll at h
  refine State.frame_run h ?_
  refine Dev.onPage_frame ?_ ?_ (by decide)
  exact Frame.refl _ _
  intro _ _
  refine Frame.next ?_ Dev.refreshPoll_frame (by decide)
  assumption

theorem execMemoryChannelStale_frame {chan t0 t1 s t}
    (h : (execMemoryChannelStale chan t0 t1 s) = .next t) : Frame [.pba, .hdr, .pirq, .out, .mctl] s.dev t.dev := by
  unfold execMemoryChannelStale at h
  refine State.frame_run h ?_
  refine Dev.onPage_frame ?_ ?_ (by decide)
  exact Frame.refl _ _
  intro _ _
  refine Frame.next ?_ Dev.memTrack_frame (by decide)
  assumption

theorem execRetrainDone_frame {failed s t}
    (h : (execRetrainDone failed s) = .next t) : Frame [.pba, .hdr, .pirq, .live, .errlog, .out, .boot, .aon, .lnb,
      .plt, .pair, .mctl, .mem, .free] s.dev t.dev := by
  unfold execRetrainDone at h
  refine State.frame_settled h ?_
  refine Frame.next ?_ Dev.settle_frame (by decide)
  refine Dev.onPage_frame ?_ ?_ (by decide)
  exact Frame.refl _ _
  intro _ _
  refine Frame.next ?_ Dev.retrainDone_frame (by decide)
  assumption

theorem execExcladd_frame {v s t}
    (h : (execExcladd v s) = .next t) : Frame [.pba, .perr, .pirq, .live, .errlog, .out, .aon, .lnb, .plt, .pair,
      .mctl, .mem, .free] s.dev t.dev := by
  unfold execExcladd at h
  refine State.frame_run h ?_
  refine Dev.hostWr_frame ?_ ?_ (by decide)
  exact Frame.refl _ _
  intro _ _
  refine Frame.next ?_ Dev.exclAddWrite_frame (by decide)
  assumption

theorem execInjctlWrite_frame {v s t}
    (h : (execInjctlWrite v s) = .next t) : Frame [.pba, .perr, .pirq, .live, .errlog, .out, .aon, .lnb, .pair, .mctl,
      .free] s.dev t.dev := by
  unfold execInjctlWrite at h
  refine State.frame_run h ?_
  refine Dev.hostWr_frame ?_ ?_ (by decide)
  exact Frame.refl _ _
  intro _ _
  refine Frame.next ?_ Dev.injWrite_frame (by decide)
  assumption

theorem execSelftestDone_frame {quires bad lanes s t}
    (h : (execSelftestDone quires bad lanes s) = .next t) : Frame [.pba, .pirq, .live, .state, .errlog, .out, .aon,
      .time, .lnb, .plt, .hat, .pair, .mctl, .mem, .free] s.dev t.dev := by
  unfold execSelftestDone at h
  refine State.frame_settled h ?_
  refine Frame.next ?_ Dev.settle_frame (by decide)
  refine Frame.next ?_ Dev.selftestDone_frame (by decide)
  exact Frame.refl _ _

/-! ### CmdOp -/

theorem execNopOp_frame {core s t} (h : execNopOp core s = .next t) :
    Frame [.pba, .pirq, .live, .out, .aon, .lnb, .pair, .bur, .mctl, .free] s.dev t.dev := by
  unfold execNopOp at h
  refine State.frame_settled h (Frame.next ?_ Dev.settle_frame (by decide))
  refine Dev.onPage_frame (Frame.refl _ _) (fun e he => Dev.burExec_of he (fun e he => ?_) (by decide)) (by decide)
  unfold Dev.burEffect
  dsimp only
  assumption

theorem execAddOp_frame {core dd da src s t} (h : execAddOp core dd da src s = .next t) :
    Frame [.pba, .pirq, .live, .out, .aon, .lnb, .pair, .bur, .mctl, .free] s.dev t.dev := by
  unfold execAddOp at h
  refine State.frame_settled h (Frame.next ?_ Dev.settle_frame (by decide))
  refine Dev.onPage_frame (Frame.refl _ _) (fun e he => Dev.burExec_of he (fun e he => ?_) (by decide)) (by decide)
  unfold Dev.burEffect
  dsimp only
  refine Frame.next ?_ Dev.aluOp_frame (by decide)
  assumption

theorem execSubOp_frame {core dd da src s t} (h : execSubOp core dd da src s = .next t) :
    Frame [.pba, .pirq, .live, .out, .aon, .lnb, .pair, .bur, .mctl, .free] s.dev t.dev := by
  unfold execSubOp at h
  refine State.frame_settled h (Frame.next ?_ Dev.settle_frame (by decide))
  refine Dev.onPage_frame (Frame.refl _ _) (fun e he => Dev.burExec_of he (fun e he => ?_) (by decide)) (by decide)
  unfold Dev.burEffect
  dsimp only
  refine Frame.next ?_ Dev.aluOp_frame (by decide)
  assumption

theorem execAddsOp_frame {core dd da src s t} (h : execAddsOp core dd da src s = .next t) :
    Frame [.pba, .pirq, .live, .out, .aon, .lnb, .pair, .bur, .mctl, .free] s.dev t.dev := by
  unfold execAddsOp at h
  refine State.frame_settled h (Frame.next ?_ Dev.settle_frame (by decide))
  refine Dev.onPage_frame (Frame.refl _ _) (fun e he => Dev.burExec_of he (fun e he => ?_) (by decide)) (by decide)
  unfold Dev.burEffect
  dsimp only
  refine Frame.next ?_ Dev.aluOp_frame (by decide)
  assumption

theorem execSubsOp_frame {core dd da src s t} (h : execSubsOp core dd da src s = .next t) :
    Frame [.pba, .pirq, .live, .out, .aon, .lnb, .pair, .bur, .mctl, .free] s.dev t.dev := by
  unfold execSubsOp at h
  refine State.frame_settled h (Frame.next ?_ Dev.settle_frame (by decide))
  refine Dev.onPage_frame (Frame.refl _ _) (fun e he => Dev.burExec_of he (fun e he => ?_) (by decide)) (by decide)
  unfold Dev.burEffect
  dsimp only
  refine Frame.next ?_ Dev.aluOp_frame (by decide)
  assumption

theorem execAndOp_frame {core dd da src s t} (h : execAndOp core dd da src s = .next t) :
    Frame [.pba, .pirq, .live, .out, .aon, .lnb, .pair, .bur, .mctl, .free] s.dev t.dev := by
  unfold execAndOp at h
  refine State.frame_settled h (Frame.next ?_ Dev.settle_frame (by decide))
  refine Dev.onPage_frame (Frame.refl _ _) (fun e he => Dev.burExec_of he (fun e he => ?_) (by decide)) (by decide)
  unfold Dev.burEffect
  dsimp only
  refine Frame.next ?_ Dev.aluOp_frame (by decide)
  assumption

theorem execOrOp_frame {core dd da src s t} (h : execOrOp core dd da src s = .next t) :
    Frame [.pba, .pirq, .live, .out, .aon, .lnb, .pair, .bur, .mctl, .free] s.dev t.dev := by
  unfold execOrOp at h
  refine State.frame_settled h (Frame.next ?_ Dev.settle_frame (by decide))
  refine Dev.onPage_frame (Frame.refl _ _) (fun e he => Dev.burExec_of he (fun e he => ?_) (by decide)) (by decide)
  unfold Dev.burEffect
  dsimp only
  refine Frame.next ?_ Dev.aluOp_frame (by decide)
  assumption

theorem execXorOp_frame {core dd da src s t} (h : execXorOp core dd da src s = .next t) :
    Frame [.pba, .pirq, .live, .out, .aon, .lnb, .pair, .bur, .mctl, .free] s.dev t.dev := by
  unfold execXorOp at h
  refine State.frame_settled h (Frame.next ?_ Dev.settle_frame (by decide))
  refine Dev.onPage_frame (Frame.refl _ _) (fun e he => Dev.burExec_of he (fun e he => ?_) (by decide)) (by decide)
  unfold Dev.burEffect
  dsimp only
  refine Frame.next ?_ Dev.aluOp_frame (by decide)
  assumption

theorem execShlOp_frame {core dd da src s t} (h : execShlOp core dd da src s = .next t) :
    Frame [.pba, .pirq, .live, .out, .aon, .lnb, .pair, .bur, .mctl, .free] s.dev t.dev := by
  unfold execShlOp at h
  refine State.frame_settled h (Frame.next ?_ Dev.settle_frame (by decide))
  refine Dev.onPage_frame (Frame.refl _ _) (fun e he => Dev.burExec_of he (fun e he => ?_) (by decide)) (by decide)
  unfold Dev.burEffect
  dsimp only
  refine Frame.next ?_ Dev.aluOp_frame (by decide)
  assumption

theorem execShraOp_frame {core dd da src s t} (h : execShraOp core dd da src s = .next t) :
    Frame [.pba, .pirq, .live, .out, .aon, .lnb, .pair, .bur, .mctl, .free] s.dev t.dev := by
  unfold execShraOp at h
  refine State.frame_settled h (Frame.next ?_ Dev.settle_frame (by decide))
  refine Dev.onPage_frame (Frame.refl _ _) (fun e he => Dev.burExec_of he (fun e he => ?_) (by decide)) (by decide)
  unfold Dev.burEffect
  dsimp only
  refine Frame.next ?_ Dev.aluOp_frame (by decide)
  assumption

theorem execShrlOp_frame {core dd da src s t} (h : execShrlOp core dd da src s = .next t) :
    Frame [.pba, .pirq, .live, .out, .aon, .lnb, .pair, .bur, .mctl, .free] s.dev t.dev := by
  unfold execShrlOp at h
  refine State.frame_settled h (Frame.next ?_ Dev.settle_frame (by decide))
  refine Dev.onPage_frame (Frame.refl _ _) (fun e he => Dev.burExec_of he (fun e he => ?_) (by decide)) (by decide)
  unfold Dev.burEffect
  dsimp only
  refine Frame.next ?_ Dev.aluOp_frame (by decide)
  assumption

theorem execCmpOp_frame {core da src s t} (h : execCmpOp core da src s = .next t) :
    Frame [.pba, .pirq, .live, .out, .aon, .lnb, .pair, .bur, .mctl, .free] s.dev t.dev := by
  unfold execCmpOp at h
  refine State.frame_settled h (Frame.next ?_ Dev.settle_frame (by decide))
  refine Dev.onPage_frame (Frame.refl _ _) (fun e he => Dev.burExec_of he (fun e he => ?_) (by decide)) (by decide)
  unfold Dev.burEffect
  dsimp only
  refine Frame.next ?_ Dev.rdS_frame (by decide)
  refine Frame.next ?_ Dev.rdD_frame (by decide)
  assumption

theorem execMinOp_frame {core dd da src s t} (h : execMinOp core dd da src s = .next t) :
    Frame [.pba, .pirq, .live, .out, .aon, .lnb, .pair, .bur, .mctl, .free] s.dev t.dev := by
  unfold execMinOp at h
  refine State.frame_settled h (Frame.next ?_ Dev.settle_frame (by decide))
  refine Dev.onPage_frame (Frame.refl _ _) (fun e he => Dev.burExec_of he (fun e he => ?_) (by decide)) (by decide)
  unfold Dev.burEffect
  dsimp only
  refine Frame.next ?_ Dev.aluOp_frame (by decide)
  assumption

theorem execMaxOp_frame {core dd da src s t} (h : execMaxOp core dd da src s = .next t) :
    Frame [.pba, .pirq, .live, .out, .aon, .lnb, .pair, .bur, .mctl, .free] s.dev t.dev := by
  unfold execMaxOp at h
  refine State.frame_settled h (Frame.next ?_ Dev.settle_frame (by decide))
  refine Dev.onPage_frame (Frame.refl _ _) (fun e he => Dev.burExec_of he (fun e he => ?_) (by decide)) (by decide)
  unfold Dev.burEffect
  dsimp only
  refine Frame.next ?_ Dev.aluOp_frame (by decide)
  assumption

theorem execAbsOp_frame {core dd da src s t} (h : execAbsOp core dd da src s = .next t) :
    Frame [.pba, .pirq, .live, .out, .aon, .lnb, .pair, .bur, .mctl, .free] s.dev t.dev := by
  unfold execAbsOp at h
  refine State.frame_settled h (Frame.next ?_ Dev.settle_frame (by decide))
  refine Dev.onPage_frame (Frame.refl _ _) (fun e he => Dev.burExec_of he (fun e he => ?_) (by decide)) (by decide)
  unfold Dev.burEffect
  dsimp only
  refine Frame.next ?_ Dev.aluOp_frame (by decide)
  assumption

theorem execMpyOp_frame {core ac da db l s t} (h : execMpyOp core ac da db l s = .next t) :
    Frame [.pba, .pirq, .live, .state, .errlog, .out, .aon, .lnb, .plt, .acc, .pair, .bur, .mctl, .fab, .mem, .free] s.dev t.dev := by
  unfold execMpyOp at h
  refine State.frame_settled h (Frame.next ?_ Dev.settle_frame (by decide))
  refine Dev.onPage_frame (Frame.refl _ _) (fun e he => Dev.burExec_of he (fun e he => ?_) (by decide)) (by decide)
  unfold Dev.burEffect
  dsimp only
  refine Frame.next ?_ Dev.macOp_frame (by decide)
  assumption

theorem execMacOp_frame {core ac neg da db l s t} (h : execMacOp core ac neg da db l s = .next t) :
    Frame [.pba, .pirq, .live, .state, .errlog, .out, .aon, .lnb, .plt, .acc, .pair, .bur, .mctl, .fab, .mem, .free] s.dev t.dev := by
  unfold execMacOp at h
  refine State.frame_settled h (Frame.next ?_ Dev.settle_frame (by decide))
  refine Dev.onPage_frame (Frame.refl _ _) (fun e he => Dev.burExec_of he (fun e he => ?_) (by decide)) (by decide)
  unfold Dev.burEffect
  dsimp only
  refine Frame.next ?_ Dev.macOp_frame (by decide)
  assumption

theorem execAccopOp_frame {core ac op s t} (h : execAccopOp core ac op s = .next t) :
    Frame [.pba, .pirq, .live, .out, .aon, .lnb, .pair, .bur, .mctl, .free] s.dev t.dev := by
  unfold execAccopOp at h
  refine State.frame_settled h (Frame.next ?_ Dev.settle_frame (by decide))
  refine Dev.onPage_frame (Frame.refl _ _) (fun e he => Dev.burExec_of he (fun e he => ?_) (by decide)) (by decide)
  unfold Dev.burEffect
  dsimp only
  assumption

theorem execMvaOp_frame {core dd ac s t} (h : execMvaOp core dd ac s = .next t) :
    Frame [.pba, .pirq, .live, .out, .aon, .lnb, .pair, .bur, .mctl, .free] s.dev t.dev := by
  unfold execMvaOp at h
  refine State.frame_settled h (Frame.next ?_ Dev.settle_frame (by decide))
  refine Dev.onPage_frame (Frame.refl _ _) (fun e he => Dev.burExec_of he (fun e he => ?_) (by decide)) (by decide)
  unfold Dev.burEffect
  dsimp only
  assumption

theorem execMvrOp_frame {core dd ac k s t} (h : execMvrOp core dd ac k s = .next t) :
    Frame [.pba, .pirq, .live, .out, .aon, .lnb, .pair, .bur, .mctl, .free] s.dev t.dev := by
  unfold execMvrOp at h
  refine State.frame_settled h (Frame.next ?_ Dev.settle_frame (by decide))
  refine Dev.onPage_frame (Frame.refl _ _) (fun e he => Dev.burExec_of he (fun e he => ?_) (by decide)) (by decide)
  unfold Dev.burEffect
  dsimp only
  assumption

theorem execGetaOp_frame {core dd ac part s t} (h : execGetaOp core dd ac part s = .next t) :
    Frame [.pba, .pirq, .live, .out, .aon, .lnb, .pair, .bur, .mctl, .free] s.dev t.dev := by
  unfold execGetaOp at h
  refine State.frame_settled h (Frame.next ?_ Dev.settle_frame (by decide))
  refine Dev.onPage_frame (Frame.refl _ _) (fun e he => Dev.burExec_of he (fun e he => ?_) (by decide)) (by decide)
  unfold Dev.burEffect
  dsimp only
  assumption

theorem execPutaOp_frame {core ac da part s t} (h : execPutaOp core ac da part s = .next t) :
    Frame [.pba, .pirq, .live, .out, .aon, .lnb, .pair, .bur, .mctl, .free] s.dev t.dev := by
  unfold execPutaOp at h
  refine State.frame_settled h (Frame.next ?_ Dev.settle_frame (by decide))
  refine Dev.onPage_frame (Frame.refl _ _) (fun e he => Dev.burExec_of he (fun e he => ?_) (by decide)) (by decide)
  unfold Dev.burEffect
  dsimp only
  refine Frame.next ?_ Dev.rdD_frame (by decide)
  assumption

theorem execLdOp_frame {core dd ai pm ofs s t} (h : execLdOp core dd ai pm ofs s = .next t) :
    Frame [.pba, .pirq, .live, .state, .errlog, .out, .aon, .lnb, .plt, .acc, .pair, .bur, .mctl, .fab, .mem, .free] s.dev t.dev := by
  unfold execLdOp at h
  refine State.frame_settled h (Frame.next ?_ Dev.settle_frame (by decide))
  refine Dev.onPage_frame (Frame.refl _ _) (fun e he => Dev.burExec_of he (fun e he => ?_) (by decide)) (by decide)
  unfold Dev.burEffect
  dsimp only
  split
  refine Frame.of_snd (by assumption) ?_
  refine Frame.next ?_ Dev.burLoad_frame (by decide)
  refine Frame.next ?_ Dev.memAddr_frame (by decide)
  assumption
  refine Frame.of_snd (by assumption) ?_
  refine Frame.next ?_ Dev.burLoad_frame (by decide)
  refine Frame.next ?_ Dev.memAddr_frame (by decide)
  assumption

theorem execStOp_frame {core dd ai pm ofs s t} (h : execStOp core dd ai pm ofs s = .next t) :
    Frame [.regs, .pba, .act, .hdr, .perr, .pirq, .live, .state, .errlog, .out, .aon, .time, .msp, .monword, .lnb, .plt, .run, .ing, .acc, .bmf, .trg, .pair, .bur, .mctl, .fab, .mem, .free] s.dev t.dev := by
  unfold execStOp at h
  refine State.frame_settled h (Frame.next ?_ Dev.settle_frame (by decide))
  refine Dev.onPage_frame (Frame.refl _ _) (fun e he => Dev.burExec_of he (fun e he => ?_) (by decide)) (by decide)
  unfold Dev.burEffect
  dsimp only
  split
  refine Frame.of_snd (by assumption) ?_
  refine Frame.next ?_ Dev.burStore_frame (by decide)
  refine Frame.next ?_ Dev.memAddr_frame (by decide)
  refine Frame.next ?_ Dev.rdD_frame (by decide)
  assumption
  refine Frame.of_snd (by assumption) ?_
  refine Frame.next ?_ Dev.burStore_frame (by decide)
  refine Frame.next ?_ Dev.memAddr_frame (by decide)
  refine Frame.next ?_ Dev.rdD_frame (by decide)
  assumption

theorem execLdiOp_frame {core dd v s t} (h : execLdiOp core dd v s = .next t) :
    Frame [.pba, .pirq, .live, .out, .aon, .lnb, .pair, .bur, .mctl, .free] s.dev t.dev := by
  unfold execLdiOp at h
  refine State.frame_settled h (Frame.next ?_ Dev.settle_frame (by decide))
  refine Dev.onPage_frame (Frame.refl _ _) (fun e he => Dev.burExec_of he (fun e he => ?_) (by decide)) (by decide)
  unfold Dev.burEffect
  dsimp only
  assumption

theorem execMvxOp_frame {core toSpec dd x s t} (h : execMvxOp core toSpec dd x s = .next t) :
    Frame [.pba, .pirq, .live, .out, .aon, .lnb, .pair, .bur, .mctl, .free] s.dev t.dev := by
  unfold execMvxOp at h
  refine State.frame_settled h (Frame.next ?_ Dev.settle_frame (by decide))
  refine Dev.onPage_frame (Frame.refl _ _) (fun e he => Dev.burExec_of he (fun e he => ?_) (by decide)) (by decide)
  unfold Dev.burEffect
  dsimp only
  refine Frame.ite_snd ?_ ?_
  refine Frame.next ?_ Dev.wrSpec_frame (by decide)
  refine Frame.next ?_ Dev.rdD_frame (by decide)
  assumption
  refine Frame.next ?_ Dev.rdSpec_frame (by decide)
  assumption

theorem execBrOp_frame {core cond ofs s t} (h : execBrOp core cond ofs s = .next t) :
    Frame [.pba, .pirq, .live, .out, .aon, .lnb, .pair, .bur, .mctl, .free] s.dev t.dev := by
  unfold execBrOp at h
  refine State.frame_settled h (Frame.next ?_ Dev.settle_frame (by decide))
  refine Dev.onPage_frame (Frame.refl _ _) (fun e he => Dev.burExec_of he (fun e he => ?_) (by decide)) (by decide)
  unfold Dev.burEffect
  dsimp only
  assumption

theorem execCallOp_frame {core ofs s t} (h : execCallOp core ofs s = .next t) :
    Frame [.pba, .pirq, .live, .out, .aon, .lnb, .pair, .bur, .mctl, .free] s.dev t.dev := by
  unfold execCallOp at h
  refine State.frame_settled h (Frame.next ?_ Dev.settle_frame (by decide))
  refine Dev.onPage_frame (Frame.refl _ _) (fun e he => Dev.burExec_of he (fun e he => ?_) (by decide)) (by decide)
  unfold Dev.burEffect
  dsimp only
  assumption

theorem execRetOp_frame {core s t} (h : execRetOp core s = .next t) :
    Frame [.pba, .pirq, .live, .out, .aon, .lnb, .pair, .bur, .mctl, .free] s.dev t.dev := by
  unfold execRetOp at h
  refine State.frame_settled h (Frame.next ?_ Dev.settle_frame (by decide))
  refine Dev.onPage_frame (Frame.refl _ _) (fun e he => Dev.burExec_of he (fun e he => ?_) (by decide)) (by decide)
  unfold Dev.burEffect
  dsimp only
  assumption

theorem execLoopOp_frame {core n len s t} (h : execLoopOp core n len s = .next t) :
    Frame [.pba, .pirq, .live, .out, .aon, .lnb, .pair, .bur, .mctl, .free] s.dev t.dev := by
  unfold execLoopOp at h
  refine State.frame_settled h (Frame.next ?_ Dev.settle_frame (by decide))
  refine Dev.onPage_frame (Frame.refl _ _) (fun e he => Dev.burExec_of he (fun e he => ?_) (by decide)) (by decide)
  unfold Dev.burEffect
  dsimp only
  refine Frame.next ?_ Dev.loopOp_frame (by decide)
  assumption

theorem execRtiOp_frame {core s t} (h : execRtiOp core s = .next t) :
    Frame [.pba, .pirq, .live, .out, .aon, .lnb, .pair, .bur, .mctl, .free] s.dev t.dev := by
  unfold execRtiOp at h
  refine State.frame_settled h (Frame.next ?_ Dev.settle_frame (by decide))
  refine Dev.onPage_frame (Frame.refl _ _) (fun e he => Dev.burExec_of he (fun e he => ?_) (by decide)) (by decide)
  unfold Dev.burEffect
  dsimp only
  assumption

theorem execWaitOp_frame {core s t} (h : execWaitOp core s = .next t) :
    Frame [.pba, .pirq, .live, .out, .aon, .lnb, .pair, .bur, .mctl, .free] s.dev t.dev := by
  unfold execWaitOp at h
  refine State.frame_settled h (Frame.next ?_ Dev.settle_frame (by decide))
  refine Dev.onPage_frame (Frame.refl _ _) (fun e he => Dev.burExec_of he (fun e he => ?_) (by decide)) (by decide)
  unfold Dev.burEffect
  dsimp only
  assumption

theorem execSigOp_frame {core i s t} (h : execSigOp core i s = .next t) :
    Frame [.pba, .pirq, .live, .out, .aon, .lnb, .pair, .bur, .mctl, .free] s.dev t.dev := by
  unfold execSigOp at h
  refine State.frame_settled h (Frame.next ?_ Dev.settle_frame (by decide))
  refine Dev.onPage_frame (Frame.refl _ _) (fun e he => Dev.burExec_of he (fun e he => ?_) (by decide)) (by decide)
  unfold Dev.burEffect
  dsimp only
  refine Frame.next ?_ Dev.sigOp_frame (by decide)
  refine Frame.next ?_ Dev.rdD_frame (by decide)
  assumption

theorem execFlagOp_frame {core clrV clrS clrFe s t} (h : execFlagOp core clrV clrS clrFe s = .next t) :
    Frame [.pba, .pirq, .live, .out, .aon, .lnb, .pair, .bur, .mctl, .free] s.dev t.dev := by
  unfold execFlagOp at h
  refine State.frame_settled h (Frame.next ?_ Dev.settle_frame (by decide))
  refine Dev.onPage_frame (Frame.refl _ _) (fun e he => Dev.burExec_of he (fun e he => ?_) (by decide)) (by decide)
  unfold Dev.burEffect
  dsimp only
  refine Frame.ite ?_ ?_
  refine Frame.next ?_ Dev.setCore_frame (by decide)
  assumption
  assumption

theorem execBrkOp_frame {core s t} (h : execBrkOp core s = .next t) :
    Frame [.pba, .pirq, .live, .out, .aon, .lnb, .pair, .bur, .mctl, .free] s.dev t.dev := by
  unfold execBrkOp at h
  refine State.frame_settled h (Frame.next ?_ Dev.settle_frame (by decide))
  refine Dev.onPage_frame (Frame.refl _ _) (fun e he => Dev.burExec_of he (fun e he => ?_) (by decide)) (by decide)
  unfold Dev.burEffect
  dsimp only
  assumption

/-! ### CmdPair -/

theorem execHeartbeatSend_frame {s t}
    (h : (execHeartbeatSend s) = .next t) : Frame [.live, .out, .lnb, .pair] s.dev t.dev := by
  unfold execHeartbeatSend at h
  refine State.frame_run h ?_
  refine Dev.onPage_frame ?_ ?_ (by decide)
  exact Frame.refl _ _
  intro _ _
  refine Frame.next ?_ Dev.heartbeatSend_frame (by decide)
  assumption

theorem execGrantSend_frame {s t} (h : (execGrantSend s) = .next t) : Frame [.live, .out, .lnb, .pair] s.dev t.dev := by
  unfold execGrantSend at h
  refine State.frame_run h ?_
  refine Dev.onPage_frame ?_ ?_ (by decide)
  exact Frame.refl _ _
  intro _ _
  refine Frame.next ?_ Dev.grantSend_frame (by decide)
  assumption

theorem execDigestSend_frame {s t}
    (h : (execDigestSend s) = .next t) : Frame [.live, .out, .lnb, .pair] s.dev t.dev := by
  unfold execDigestSend at h
  refine State.frame_run h ?_
  refine Dev.onPage_frame ?_ ?_ (by decide)
  exact Frame.refl _ _
  intro _ _
  refine Frame.next ?_ Dev.digestSend_frame (by decide)
  assumption

theorem execCtrlRetransmit_frame {s t}
    (h : (execCtrlRetransmit s) = .next t) : Frame [.live, .out, .lnb, .pair] s.dev t.dev := by
  unfold execCtrlRetransmit at h
  refine State.frame_run h ?_
  refine Dev.onPage_frame ?_ ?_ (by decide)
  exact Frame.refl _ _
  intro _ _
  refine Frame.next ?_ Dev.ctrlRetransmit_frame (by decide)
  assumption

theorem execHeartbeatRx_frame {lane fr s t}
    (h : (execHeartbeatRx lane fr s) = .next t) : Frame [.regs, .pba, .pirq, .live, .nextc, .out, .aon, .lnb, .ing,
      .pair, .mctl, .free, .bmf] s.dev t.dev := by
  unfold execHeartbeatRx at h
  refine State.frame_settled h ?_
  refine Frame.next ?_ Dev.settle_frame (by decide)
  refine Dev.onPage_frame ?_ ?_ (by decide)
  exact Frame.refl _ _
  intro _ _
  refine Frame.next ?_ Dev.heartbeatRx_frame (by decide)
  assumption

theorem execGrantRx_frame {lane fr s t}
    (h : (execGrantRx lane fr s) = .next t) : Frame [.pba, .pirq, .live, .nextc, .out, .aon, .lnb, .ing, .pair, .mctl,
      .free] s.dev t.dev := by
  unfold execGrantRx at h
  refine State.frame_settled h ?_
  refine Frame.next ?_ Dev.settle_frame (by decide)
  refine Dev.onPage_frame ?_ ?_ (by decide)
  exact Frame.refl _ _
  intro _ _
  refine Frame.next ?_ Dev.grantRx_frame (by decide)
  assumption

theorem execHandoffRx_frame {lane fr s t}
    (h : (execHandoffRx lane fr s) = .next t) : Frame [.regs, .pba, .pirq, .live, .nextc, .out, .aon, .lnb, .ing,
      .pair, .mctl, .free, .bmf] s.dev t.dev := by
  unfold execHandoffRx at h
  refine State.frame_settled h ?_
  refine Frame.next ?_ Dev.settle_frame (by decide)
  refine Dev.onPage_frame ?_ ?_ (by decide)
  exact Frame.refl _ _
  intro _ _
  refine Frame.next ?_ Dev.handoffArrives_frame (by decide)
  assumption

theorem execTicketRx_frame {lane fr s t}
    (h : (execTicketRx lane fr s) = .next t) : Frame [.regs, .pba, .act, .hdr, .pirq, .live, .nextc, .out, .aon,
      .time, .msp, .lnb, .run, .ing, .acc, .bmf, .trg, .pair, .bur, .mctl, .mem, .free] s.dev t.dev := by
  unfold execTicketRx at h
  refine State.frame_settled h ?_
  refine Frame.next ?_ Dev.settle_frame (by decide)
  refine Dev.onPage_frame ?_ ?_ (by decide)
  exact Frame.refl _ _
  intro _ _
  refine Frame.next ?_ Dev.ticketRx_frame (by decide)
  assumption

theorem execCommandRx_frame {lane fr s t}
    (h : (execCommandRx lane fr s) = .next t) : Frame [.regs, .pba, .act, .pirq, .live, .nextc, .state, .out, .aon,
      .time, .lnb, .plt, .run, .ing, .pair, .mctl, .free] s.dev t.dev := by
  unfold execCommandRx at h
  refine State.frame_settled h ?_
  refine Frame.next ?_ Dev.settle_frame (by decide)
  refine Dev.onPage_frame ?_ ?_ (by decide)
  exact Frame.refl _ _
  intro _ _
  refine Frame.next ?_ Dev.commandRx_frame (by decide)
  assumption

theorem execThreshRx_frame {lane fr s t}
    (h : (execThreshRx lane fr s) = .next t) : Frame [.regs, .pba, .act, .hdr, .pirq, .live, .nextc, .out, .aon,
      .time, .msp, .lnb, .run, .ing, .acc, .bmf, .trg, .pair, .bur, .mctl, .mem, .free] s.dev t.dev := by
  unfold execThreshRx at h
  refine State.frame_settled h ?_
  refine Frame.next ?_ Dev.settle_frame (by decide)
  refine Dev.onPage_frame ?_ ?_ (by decide)
  exact Frame.refl _ _
  intro _ _
  refine Frame.next ?_ Dev.threshRx_frame (by decide)
  assumption

theorem execWatermarkRx_frame {lane fr s t}
    (h : (execWatermarkRx lane fr s) = .next t) : Frame [.pba, .pirq, .live, .nextc, .out, .aon, .lnb, .ing, .pair,
      .mctl, .free] s.dev t.dev := by
  unfold execWatermarkRx at h
  refine State.frame_settled h ?_
  refine Frame.next ?_ Dev.settle_frame (by decide)
  refine Dev.onPage_frame ?_ ?_ (by decide)
  exact Frame.refl _ _
  intro _ _
  refine Frame.next ?_ Dev.watermarkRx_frame (by decide)
  assumption

theorem execAckRx_frame {lane fr s t}
    (h : (execAckRx lane fr s) = .next t) : Frame [.pba, .pirq, .live, .nextc, .out, .aon, .lnb, .ing, .pair, .mctl,
      .free] s.dev t.dev := by
  unfold execAckRx at h
  refine State.frame_settled h ?_
  refine Frame.next ?_ Dev.settle_frame (by decide)
  refine Dev.onPage_frame ?_ ?_ (by decide)
  exact Frame.refl _ _
  intro _ _
  refine Frame.next ?_ Dev.ackRx_frame (by decide)
  assumption

theorem execDigestRx_frame {lane fr s t}
    (h : (execDigestRx lane fr s) = .next t) : Frame [.pba, .pirq, .live, .nextc, .out, .aon, .lnb, .ing, .pair,
      .mctl, .free] s.dev t.dev := by
  unfold execDigestRx at h
  refine State.frame_settled h ?_
  refine Frame.next ?_ Dev.settle_frame (by decide)
  refine Dev.onPage_frame ?_ ?_ (by decide)
  exact Frame.refl _ _
  intro _ _
  refine Frame.next ?_ Dev.digestRx_frame (by decide)
  assumption

theorem execWatermarkCompareTimeout_frame {s t}
    (h : (execWatermarkCompareTimeout s) = .next t) : Frame [.pba, .pirq, .live, .out, .pair] s.dev t.dev := by
  unfold execWatermarkCompareTimeout at h
  refine State.frame_run h ?_
  refine Dev.onPage_frame ?_ ?_ (by decide)
  exact Frame.refl _ _
  intro _ _
  refine Frame.next ?_ Dev.wmTimeout_frame (by decide)
  assumption

theorem execOwnInChange_frame {level s t}
    (h : (execOwnInChange level s) = .next t) : Frame [.regs, .pba, .pirq, .live, .out, .aon, .lnb, .pair, .mctl,
      .free, .bmf] s.dev t.dev := by
  unfold execOwnInChange at h
  refine State.frame_run h ?_
  refine Frame.next ?_ Dev.ownInAt_frame (by decide)
  exact Frame.refl _ _

theorem execHandoffTimeout_frame {s t}
    (h : (execHandoffTimeout s) = .next t) : Frame [.pba, .pirq, .live, .out, .aon, .lnb, .pair, .mctl, .free] s.dev
      t.dev := by
  unfold execHandoffTimeout at h
  refine State.frame_settled h ?_
  refine Frame.next ?_ Dev.settle_frame (by decide)
  refine Dev.onPage_frame ?_ ?_ (by decide)
  exact Frame.refl _ _
  intro _ _
  refine Frame.next ?_ Dev.handoffLate_frame (by decide)
  assumption

theorem execOwnerSilenceTimeout_frame {s t}
    (h : (execOwnerSilenceTimeout s) = .next t) : Frame [.regs, .pba, .pirq, .live, .out, .aon, .lnb, .pair, .mctl,
      .free, .bmf] s.dev t.dev := by
  unfold execOwnerSilenceTimeout at h
  refine State.frame_settled h ?_
  refine Frame.next ?_ Dev.settle_frame (by decide)
  refine Dev.onPage_frame ?_ ?_ (by decide)
  exact Frame.refl _ _
  intro _ _
  refine Frame.next ?_ Dev.ownerSilence_frame (by decide)
  assumption

theorem execPairLinkDown_frame {s t}
    (h : (execPairLinkDown s) = .next t) : Frame [.regs, .pba, .pirq, .live, .out, .aon, .lnb, .pair, .mctl, .free, .bmf]
      s.dev t.dev := by
  unfold execPairLinkDown at h
  refine State.frame_settled h ?_
  refine Frame.next ?_ Dev.settle_frame (by decide)
  refine Dev.onPage_frame ?_ ?_ (by decide)
  exact Frame.refl _ _
  intro _ _
  refine Frame.next ?_ Dev.linkDown_frame (by decide)
  assumption

theorem execLeaseExpire_frame {s t}
    (h : (execLeaseExpire s) = .next t) : Frame [.pba, .pirq, .live, .out, .aon, .lnb, .pair, .mctl, .free] s.dev
      t.dev := by
  unfold execLeaseExpire at h
  refine State.frame_settled h ?_
  refine Frame.next ?_ Dev.settle_frame (by decide)
  refine Dev.onPage_frame ?_ ?_ (by decide)
  exact Frame.refl _ _
  intro _ _
  refine Frame.next ?_ Dev.leaseExpire_frame (by decide)
  assumption

theorem execLeaseSilenceTakeover_frame {s t}
    (h : (execLeaseSilenceTakeover s) = .next t) : Frame [.regs, .pba, .pirq, .live, .out, .aon, .lnb, .pair, .mctl,
      .free, .bmf] s.dev t.dev := by
  unfold execLeaseSilenceTakeover at h
  refine State.frame_settled h ?_
  refine Frame.next ?_ Dev.settle_frame (by decide)
  refine Dev.onPage_frame ?_ ?_ (by decide)
  exact Frame.refl _ _
  intro _ _
  refine Frame.next ?_ Dev.leaseSilence_frame (by decide)
  assumption

theorem execInterlockFault_frame {s t}
    (h : (execInterlockFault s) = .next t) : Frame [.pba, .pirq, .live, .out, .aon, .lnb, .pair, .mctl, .free] s.dev
      t.dev := by
  unfold execInterlockFault at h
  refine State.frame_settled h ?_
  refine Frame.next ?_ Dev.settle_frame (by decide)
  refine Dev.onPage_frame ?_ ?_ (by decide)
  exact Frame.refl _ _
  intro _ _
  refine Frame.next ?_ Dev.interlockFault_frame (by decide)
  assumption

theorem execIlreset_frame {s t}
    (h : (execIlreset s) = .next t) : Frame [.pba, .perr, .pirq, .live, .errlog, .out, .aon, .lnb, .pair, .mctl,
      .free] s.dev t.dev := by
  unfold execIlreset at h
  refine State.frame_run h ?_
  refine Dev.hostWr_frame ?_ ?_ (by decide)
  exact Frame.refl _ _
  intro _ _
  refine Frame.next ?_ Dev.ilReset_frame (by decide)
  assumption

theorem execLeaseModeExit_frame {s t}
    (h : (execLeaseModeExit s) = .next t) : Frame [.pba, .pirq, .live, .out, .aon, .lnb, .pair, .mctl, .free] s.dev
      t.dev := by
  unfold execLeaseModeExit at h
  refine State.frame_settled h ?_
  refine Frame.next ?_ Dev.settle_frame (by decide)
  refine Dev.onPage_frame ?_ ?_ (by decide)
  exact Frame.refl _ _
  intro _ _
  refine Frame.next ?_ Dev.leaseExit_frame (by decide)
  assumption

theorem execHandoffSend_frame {s t}
    (h : (execHandoffSend s) = .next t) : Frame [.pba, .pirq, .live, .out, .aon, .lnb, .pair, .mctl, .free] s.dev
      t.dev := by
  unfold execHandoffSend at h
  refine State.frame_settled h ?_
  refine Frame.next ?_ Dev.settle_frame (by decide)
  refine Dev.onPage_frame ?_ ?_ (by decide)
  exact Frame.refl _ _
  intro _ _
  refine Frame.next ?_ Dev.handoffSend_frame (by decide)
  assumption

/-! ### CmdPwr -/

theorem execSupplySample_frame {rail mv power s t}
    (h : (execSupplySample rail mv power s) = .next t) : Frame [.regs, .pba, .hdr, .perr, .pirq, .live, .state,
      .errlog, .out, .pwr, .aon, .time, .msp, .lnb, .plt, .dkl, .hat, .acc, .bmf, .trg, .pair, .bur, .mctl, .fab,
      .dma, .mmu, .mem, .free] s.dev t.dev := by
  unfold execSupplySample at h
  refine State.frame_settled h ?_
  refine Frame.next ?_ Dev.settle_frame (by decide)
  refine Frame.next ?_ Dev.supplySample_frame (by decide)
  exact Frame.refl _ _

theorem execShedFall_frame {s t}
    (h : (execShedFall s) = .next t) : Frame [.pba, .pirq, .live, .nextc, .state, .out, .boot, .pwr, .aon, .lnb, .plt,
      .run, .ing, .acc, .bmf, .trg, .pair, .bur, .mctl, .free] s.dev t.dev := by
  unfold execShedFall at h
  refine State.frame_settled h ?_
  refine Frame.next ?_ Dev.settle_frame (by decide)
  refine Frame.next ?_ Dev.shedFallAll_frame (by decide)
  exact Frame.refl _ _

theorem execSupplyReset_frame {rail s t}
    (h : (execSupplyReset rail s) = .next t) : Frame [.regs, .pba, .act, .hdr, .perr, .pirq, .stats, .live, .nextc,
      .state, .cmd, .errlog, .out, .sys, .boot, .pwr, .estop, .aon, .loc, .time, .msp, .mspSh, .monword, .eth, .clk,
      .lnb, .plt, .run, .ing, .dkl, .hat, .acc, .bmf, .trg, .pair, .bur, .mctl, .fab, .hif, .dma, .mmu, .mem, .free]
      s.dev t.dev := by
  unfold execSupplyReset at h
  refine State.frame_settled h ?_
  refine Frame.next ?_ Dev.settle_frame (by decide)
  refine Frame.next ?_ Dev.supplyReset_frame (by decide)
  exact Frame.refl _ _

theorem execSupplyHoldRelease_frame {s t}
    (h : (execSupplyHoldRelease s) = .next t) : Frame [.pba, .pirq, .live, .state, .out, .boot, .estop, .lnb, .trg,
      .pair] s.dev t.dev := by
  unfold execSupplyHoldRelease at h
  refine State.frame_run h ?_
  refine Frame.next ?_ Dev.holdRelease_frame (by decide)
  exact Frame.refl _ _

theorem execTempSample_frame {t sensor s s'} (h : execTempSample t sensor s = .next s') :
    Frame [.regs, .pba, .act, .hdr, .perr, .pirq, .stats, .live, .nextc, .state, .errlog, .out, .boot, .pwr, .aon, .time, .msp, .mspSh, .monword, .eth, .clk, .lnb, .plt, .run, .ing, .dkl, .hat, .acc, .bmf, .trg, .pair, .bur, .mctl, .fab, .hif, .dma, .mmu, .mem, .free] s.dev s'.dev := by
  unfold execTempSample at h
  refine State.frame_settled h (Frame.next ?_ Dev.settle_frame (by decide))
  exact Dev.tempSample_frame.mono (by decide)

theorem execShedreqWrite_frame {v s t}
    (h : (execShedreqWrite v s) = .next t) : Frame [.regs, .pba, .hdr, .perr, .pirq, .live, .state, .errlog, .out,
      .pwr, .aon, .time, .msp, .lnb, .plt, .dkl, .hat, .acc, .bmf, .trg, .pair, .bur, .mctl, .fab, .dma, .mmu, .mem,
      .free] s.dev t.dev := by
  unfold execShedreqWrite at h
  refine State.frame_run h ?_
  refine Dev.hostWr_frame ?_ ?_ (by decide)
  exact Frame.refl _ _
  intro _ _
  refine Frame.next ?_ Dev.shedreqWrite_frame (by decide)
  assumption

theorem execResumingBoundary_frame {s t}
    (h : (execResumingBoundary s) = .next t) : Frame [.pba, .pirq, .live, .out, .pwr, .aon, .msp, .lnb, .bmf, .trg,
      .pair, .bur, .mctl, .free] s.dev t.dev := by
  unfold execResumingBoundary at h
  refine State.frame_settled h ?_
  refine Frame.next ?_ Dev.settle_frame (by decide)
  refine Frame.next ?_ Dev.resumingBoundary_frame (by decide)
  exact Frame.refl _ _

/-! ### CmdReg -/

theorem execRegisterWrite_frame {page off v s t}
    (h : (execRegisterWrite page off v s) = .next t) : Frame [.regs, .pba, .act, .hdr, .perr, .pirq, .stats, .live,
      .nextc, .state, .cmd, .errlog, .out, .sys, .boot, .pwr, .estop, .aon, .time, .msp, .mspSh, .monword, .eth, .clk,
      .lnb, .plt, .run, .ing, .dkl, .hat, .acc, .bmf, .trg, .pair, .bur, .mctl, .fab, .hif, .dma, .mmu, .mem, .free]
      s.dev t.dev := by
  unfold execRegisterWrite at h
  refine State.frame_run h ?_
  refine Frame.next ?_ Dev.registerWrite_frame (by decide)
  exact Frame.refl _ _

theorem execMisalignedAccess_frame {page off len write s t}
    (h : (execMisalignedAccess page off len write s) = .next t) : Frame [.pba, .perr, .pirq, .errlog, .out] s.dev
      t.dev := by
  unfold execMisalignedAccess at h
  refine State.frame_run h ?_
  refine Frame.ite ?_ ?_
  exact Frame.refl _ _
  refine Frame.next ?_ Dev.misaligned_frame (by decide)
  exact Frame.refl _ _

theorem execReservedPageAccess_frame {page off write s t}
    (h : (execReservedPageAccess page off write s) = .next t) : Frame [.out] s.dev t.dev := by
  unfold execReservedPageAccess at h
  refine State.frame_run h ?_
  refine Frame.next ?_ Dev.reservedPage_frame (by decide)
  exact Frame.refl _ _

theorem execErrlogPop_frame {s t} (h : (execErrlogPop s) = .next t) : Frame [.errlog, .out] s.dev t.dev := by
  unfold execErrlogPop at h
  refine State.frame_run h ?_
  refine Dev.hostPop_frame ?_ ?_ (by decide)
  exact Frame.refl _ _
  intro _ _
  refine Frame.next ?_ Dev.errlogPop_frame (by decide)
  assumption

theorem execMbxoutPop_frame {core s t} (h : (execMbxoutPop core s) = .next t) : Frame [.out, .bur] s.dev t.dev := by
  unfold execMbxoutPop at h
  refine State.frame_run h ?_
  refine Dev.hostPop_frame ?_ ?_ (by decide)
  exact Frame.refl _ _
  intro _ _
  refine Frame.next ?_ Dev.mbxoutPop_frame (by decide)
  assumption

theorem execFaultlogPop_frame {s t} (h : (execFaultlogPop s) = .next t) : Frame [.out, .mmu] s.dev t.dev := by
  unfold execFaultlogPop at h
  refine State.frame_run h ?_
  refine Dev.hostPop_frame ?_ ?_ (by decide)
  exact Frame.refl _ _
  intro _ _
  refine Frame.next ?_ Dev.faultlogPop_frame (by decide)
  assumption

theorem execSfnNowRead_frame {master hi s t}
    (h : (execSfnNowRead master hi s) = .next t) : Frame [.out, .sys] s.dev t.dev := by
  unfold execSfnNowRead at h
  refine State.frame_run h ?_
  refine Frame.next ?_ Dev.sfnNowRead_frame (by decide)
  exact Frame.refl _ _

theorem execPerrclrWrite_frame {page s t}
    (h : (execPerrclrWrite page s) = .next t) : Frame [.pba, .perr, .pirq, .live, .errlog, .out, .aon, .lnb, .pair,
      .mctl, .free] s.dev t.dev := by
  unfold execPerrclrWrite at h
  refine State.frame_run h ?_
  refine Dev.hostWr_frame ?_ ?_ (by decide)
  exact Frame.refl _ _
  intro _ _
  refine Frame.next ?_ Dev.perrclr_frame (by decide)
  assumption

theorem execPirqClear_frame {page v s t}
    (h : (execPirqClear page v s) = .next t) : Frame [.pba, .perr, .pirq, .live, .errlog, .out, .aon, .lnb, .pair,
      .mctl, .free] s.dev t.dev := by
  unfold execPirqClear at h
  refine State.frame_run h ?_
  refine Dev.hostWr_frame ?_ ?_ (by decide)
  exact Frame.refl _ _
  intro _ _
  refine Frame.next ?_ Dev.pirqClear_frame (by decide)
  assumption

theorem execPirqsetWrite_frame {page v s t}
    (h : (execPirqsetWrite page v s) = .next t) : Frame [.pba, .perr, .pirq, .live, .errlog, .out, .aon, .lnb, .pair,
      .mctl, .free] s.dev t.dev := by
  unfold execPirqsetWrite at h
  refine State.frame_run h ?_
  refine Dev.hostWr_frame ?_ ?_ (by decide)
  exact Frame.refl _ _
  intro _ _
  refine Frame.next ?_ Dev.pirqsetWrite_frame (by decide)
  assumption

theorem execPcommit_frame {page num when s t}
    (h : (execPcommit page num when s) = .next t) : Frame [.regs, .pba, .act, .hdr, .perr, .pirq, .live, .errlog,
      .out, .aon, .time, .msp, .lnb, .run, .ing, .acc, .bmf, .trg, .pair, .bur, .mctl, .mem, .free] s.dev t.dev := by
  unfold execPcommit at h
  refine State.frame_run h ?_
  refine Dev.hostWr_frame ?_ ?_ (by decide)
  exact Frame.refl _ _
  intro _ _
  refine Frame.next ?_ Dev.pcommit_frame (by decide)
  assumption

theorem execCommitApply_frame {page s t}
    (h : (execCommitApply page s) = .next t) : Frame [.regs, .pba, .act, .hdr, .perr, .pirq, .live, .out, .aon, .time,
      .msp, .lnb, .run, .ing, .acc, .bmf, .trg, .pair, .bur, .mctl, .mem, .free] s.dev t.dev := by
  unfold execCommitApply at h
  refine State.frame_settled h ?_
  refine Frame.next ?_ Dev.settle_frame (by decide)
  refine Dev.onPage_frame ?_ ?_ (by decide)
  exact Frame.refl _ _
  intro _ _
  refine Frame.next ?_ Dev.commitApply_frame (by decide)
  assumption

theorem execShadowUnlock_frame {page s t}
    (h : (execShadowUnlock page s) = .next t) : Frame [.regs, .pba, .hdr, .pirq, .out, .lnb, .run, .ing, .bmf] s.dev t.dev := by
  unfold execShadowUnlock at h
  refine State.frame_run h ?_
  refine Dev.onPage_frame ?_ ?_ (by decide)
  exact Frame.refl _ _
  intro _ _
  refine Frame.next ?_ Dev.unlock_frame (by decide)
  assumption

theorem execPctlEnWrite_frame {page en irqOnErr s t}
    (h : (execPctlEnWrite page en irqOnErr s) = .next t) : Frame [.regs, .pba, .act, .hdr, .perr, .pirq, .stats,
      .live, .nextc, .state, .errlog, .out, .boot, .pwr, .aon, .time, .msp, .mspSh, .monword, .eth, .clk, .lnb, .plt,
      .run, .ing, .dkl, .hat, .acc, .bmf, .trg, .pair, .bur, .mctl, .fab, .hif, .dma, .mmu, .mem, .free] s.dev t.dev
      := by
  unfold execPctlEnWrite at h
  refine State.frame_run h ?_
  refine Dev.hostWr_frame ?_ ?_ (by decide)
  exact Frame.refl _ _
  intro _ _
  refine Frame.next ?_ Dev.pctlWrite_frame (by decide)
  assumption

theorem execPctlSrst_frame {page s t}
    (h : (execPctlSrst page s) = .next t) : Frame [.regs, .pba, .act, .hdr, .perr, .pirq, .stats, .live, .nextc,
      .state, .errlog, .out, .boot, .pwr, .aon, .time, .msp, .mspSh, .monword, .eth, .clk, .lnb, .plt, .run, .ing,
      .dkl, .hat, .acc, .bmf, .trg, .pair, .bur, .mctl, .fab, .hif, .dma, .mmu, .mem, .free] s.dev t.dev := by
  unfold execPctlSrst at h
  refine State.frame_run h ?_
  refine Dev.hostWr_frame ?_ ?_ (by decide)
  exact Frame.refl _ _
  intro _ _
  refine Frame.next ?_ Dev.pctlWrite_frame (by decide)
  assumption

theorem execIrqmapWrite_frame {entry vector s t}
    (h : (execIrqmapWrite entry vector s) = .next t) : Frame [.regs, .pba, .perr, .pirq, .live, .errlog, .out, .aon,
      .lnb, .pair, .mctl, .free] s.dev t.dev := by
  unfold execIrqmapWrite at h
  refine State.frame_run h ?_
  refine Dev.hostWr_frame ?_ ?_ (by decide)
  exact Frame.refl _ _
  intro _ _
  refine Frame.next ?_ Dev.irqmapWrite_frame (by decide)
  assumption

/-! ### CmdSys -/

theorem execStart_frame {ownerAt s t}
    (h : execStart ownerAt s = .next t) : Frame [.regs, .pba, .act, .perr, .pirq, .live, .state, .cmd, .errlog, .out,
      .sys, .aon, .time, .lnb, .plt, .run, .ing, .dkl, .hat, .acc, .bmf, .trg, .pair, .bur, .mctl, .free] s.dev t.dev
      := by
  unfold execStart at h
  refine State.frame_run h (Dev.cmdRow_of rfl (by decide) rfl (Frame.refl _ _) (fun e he => ?_) (by decide))
  unfold Dev.cmdOwn
  refine Dev.cmdDo_frame ?_ ?_ (by decide)
  assumption
  intro _ _
  refine Frame.next ?_ Dev.start_frame (by decide)
  assumption

theorem execStop_frame {s t}
    (h : execStop s = .next t) : Frame [.pba, .perr, .pirq, .live, .cmd, .errlog, .out, .aon, .lnb, .run, .pair,
      .mctl, .free] s.dev t.dev := by
  unfold execStop at h
  refine State.frame_run h (Dev.cmdRow_of rfl (by decide) rfl (Frame.refl _ _) (fun e he => ?_) (by decide))
  unfold Dev.cmdOwn
  refine Dev.cmdDo_frame ?_ ?_ (by decide)
  assumption
  intro _ _
  refine Frame.next ?_ Dev.stop_frame (by decide)
  assumption

theorem execQuiesce_frame {s t}
    (h : execQuiesce s = .next t) : Frame [.pba, .perr, .pirq, .live, .nextc, .state, .cmd, .errlog, .out, .aon, .lnb,
      .plt, .run, .ing, .dkl, .hat, .acc, .bmf, .trg, .pair, .mctl, .mem, .free] s.dev t.dev := by
  unfold execQuiesce at h
  refine State.frame_run h (Dev.cmdRow_of rfl (by decide) rfl (Frame.refl _ _) (fun e he => ?_) (by decide))
  unfold Dev.cmdOwn
  refine Dev.cmdDo_frame ?_ ?_ (by decide)
  assumption
  intro _ _
  refine Frame.next ?_ Dev.quiesce_frame (by decide)
  assumption

theorem execEstop_frame {s t}
    (h : execEstop s = .next t) : Frame [.pba, .perr, .pirq, .live, .cmd, .errlog, .out, .estop, .aon, .lnb, .trg,
      .pair, .mctl, .free] s.dev t.dev := by
  have ho {d0 T} (hT : [.pba, .perr, .pirq, .live, .cmd, .errlog, .out, .estop, .aon, .lnb, .trg, .pair, .mctl, .free] ⊆ T) (e : Dev) (he : Frame T d0 e) :
      Frame T d0 (e.cmdOwn 0x13 false).2 := by
    unfold Dev.cmdOwn
    exact Dev.cmdDo_frame he (fun e he => he.next Dev.estop_frame (List.Subset.trans (by decide) hT)) (List.Subset.trans (by decide) hT)
  unfold execEstop at h
  refine State.frame_run h ?_
  unfold Dev.cmdRow
  split
  · refine Frame.ite (Dev.cmdJudge_of (Frame.refl _ _) (ho (by decide)) (by decide)) ?_
    refine Dev.hostWr_frame (Frame.refl _ _) (fun e he => ?_) (by decide)
    unfold Dev.cmdWrite
    refine Dev.guard_frame he (fun e he => ?_) (by decide)
    rw [show fld 7 0 (BitVec.ofNat 32 0x13) = 0x13 from rfl]
    refine Frame.ite (he.next Dev.estop_frame (by decide)) (Frame.ite ?_ ?_)
    · exact Dev.cmdJudge_of he (ho (by decide)) (by decide)
    · exact he.next Dev.cmdPut_frame (by decide)
  · exact Dev.hostWr_frame (Frame.refl _ _) (fun e he => Dev.cmdJudge_of he (ho (by decide)) (by decide)) (by decide)

theorem execLatch_frame {s t}
    (h : execLatch s = .next t) : Frame [.pba, .hdr, .perr, .pirq, .stats, .live, .nextc, .cmd, .errlog, .out, .pwr,
      .aon, .lnb, .pair, .bur, .mctl, .free] s.dev t.dev := by
  unfold execLatch at h
  refine State.frame_run h (Dev.cmdRow_of rfl (by decide) rfl (Frame.refl _ _) (fun e he => ?_) (by decide))
  unfold Dev.cmdOwn
  refine Dev.cmdDo_frame ?_ ?_ (by decide)
  assumption
  intro _ _
  refine Frame.next ?_ Dev.latch_frame (by decide)
  assumption

theorem execBuild_frame {s t}
    (h : execBuild s = .next t) : Frame [.pba, .perr, .pirq, .live, .cmd, .errlog, .out, .aon, .lnb, .plt, .pair,
      .mctl, .free] s.dev t.dev := by
  unfold execBuild at h
  refine State.frame_run h (Dev.cmdRow_of rfl (by decide) rfl (Frame.refl _ _) (fun e he => ?_) (by decide))
  unfold Dev.cmdOwn
  refine Dev.cmdDo_frame ?_ ?_ (by decide)
  assumption
  intro _ _
  refine Frame.next ?_ Dev.build_frame (by decide)
  assumption

theorem execProof_frame {s t}
    (h : execProof s = .next t) : Frame [.pba, .perr, .pirq, .live, .cmd, .errlog, .out, .aon, .lnb, .plt, .pair,
      .mctl, .free] s.dev t.dev := by
  unfold execProof at h
  refine State.frame_run h (Dev.cmdRow_of rfl (by decide) rfl (Frame.refl _ _) (fun e he => ?_) (by decide))
  unfold Dev.cmdOwn
  refine Dev.cmdDo_frame ?_ ?_ (by decide)
  assumption
  intro _ _
  refine Frame.next ?_ Dev.proof_frame (by decide)
  assumption

theorem execArm_frame {s t}
    (h : execArm s = .next t) : Frame [.regs, .pba, .act, .perr, .pirq, .live, .state, .cmd, .errlog, .out, .aon,
      .time, .lnb, .plt, .ing, .pair, .mctl, .free] s.dev t.dev := by
  unfold execArm at h
  refine State.frame_run h (Dev.cmdRow_of rfl (by decide) rfl (Frame.refl _ _) (fun e he => ?_) (by decide))
  unfold Dev.cmdOwn
  refine Frame.next ?_ Dev.armCmd_frame (by decide)
  assumption

theorem execSelftest_frame {s t}
    (h : execSelftest s = .next t) : Frame [.pba, .perr, .pirq, .live, .state, .cmd, .errlog, .out, .sys, .aon, .lnb,
      .pair, .mctl, .free] s.dev t.dev := by
  unfold execSelftest at h
  refine State.frame_run h (Dev.cmdRow_of rfl (by decide) rfl (Frame.refl _ _) (fun e he => ?_) (by decide))
  unfold Dev.cmdOwn
  refine Dev.cmdDo_frame ?_ ?_ (by decide)
  assumption
  intro _ _
  refine Frame.next ?_ Dev.selftest_frame (by decide)
  assumption

theorem execRetrainMem_frame {s t}
    (h : execRetrainMem s = .next t) : Frame [.pba, .perr, .pirq, .live, .cmd, .errlog, .out, .aon, .lnb, .pair,
      .mctl, .free] s.dev t.dev := by
  unfold execRetrainMem at h
  refine State.frame_run h (Dev.cmdRow_of rfl (by decide) rfl (Frame.refl _ _) (fun e he => ?_) (by decide))
  unfold Dev.cmdOwn
  refine Dev.cmdDo_frame ?_ ?_ (by decide)
  assumption
  intro _ _
  refine Frame.next ?_ Dev.retrain_frame (by decide)
  assumption

theorem execThaw_frame {s t}
    (h : execThaw s = .next t) : Frame [.pba, .perr, .pirq, .live, .cmd, .errlog, .out, .aon, .lnb, .pair, .mctl,
      .free] s.dev t.dev := by
  unfold execThaw at h
  refine State.frame_run h (Dev.cmdRow_of rfl (by decide) rfl (Frame.refl _ _) (fun e he => ?_) (by decide))
  unfold Dev.cmdOwn
  refine Dev.cmdDo_frame ?_ ?_ (by decide)
  assumption
  intro _ _
  refine Frame.next ?_ Dev.thaw_frame (by decide)
  assumption

theorem execHandover_frame {s t}
    (h : execHandover s = .next t) : Frame [.pba, .perr, .pirq, .live, .cmd, .errlog, .out, .aon, .lnb, .pair, .mctl,
      .free] s.dev t.dev := by
  unfold execHandover at h
  refine State.frame_run h (Dev.cmdRow_of rfl (by decide) rfl (Frame.refl _ _) (fun e he => ?_) (by decide))
  unfold Dev.cmdOwn
  refine Dev.cmdDo_frame ?_ ?_ (by decide)
  assumption
  intro _ _
  refine Frame.next ?_ Dev.handover_frame (by decide)
  assumption

theorem execResyncTime_frame {s t}
    (h : execResyncTime s = .next t) : Frame [.pba, .perr, .pirq, .live, .cmd, .errlog, .out, .aon, .time, .lnb,
      .pair, .mctl, .free] s.dev t.dev := by
  unfold execResyncTime at h
  refine State.frame_run h (Dev.cmdRow_of rfl (by decide) rfl (Frame.refl _ _) (fun e he => ?_) (by decide))
  unfold Dev.cmdOwn
  refine Dev.cmdDo_frame ?_ ?_ (by decide)
  assumption
  intro _ _
  refine Frame.next ?_ Dev.resync_frame (by decide)
  assumption

theorem execCommandTimeout_frame {s t}
    (h : (execCommandTimeout s) = .next t) : Frame [.pba, .pirq, .cmd, .errlog, .out] s.dev t.dev := by
  unfold execCommandTimeout at h
  refine State.frame_run h ?_
  refine Frame.next ?_ Dev.cmdTimeout_frame (by decide)
  exact Frame.refl _ _

/-! ### CmdTime -/

theorem execSnap_frame {s t}
    (h : (execSnap s) = .next t) : Frame [.pba, .perr, .pirq, .live, .errlog, .out, .aon, .time, .lnb, .pair, .mctl,
      .free] s.dev t.dev := by
  unfold execSnap at h
  refine State.frame_run h ?_
  refine Dev.hostWr_frame ?_ ?_ (by decide)
  exact Frame.refl _ _
  intro _ _
  refine Frame.next ?_ Dev.snapWrite_frame (by decide)
  assumption

theorem execBasecfgWrite_frame {v s t}
    (h : (execBasecfgWrite v s) = .next t) : Frame [.pba, .perr, .pirq, .live, .errlog, .out, .aon, .time, .lnb,
      .pair, .mctl, .free] s.dev t.dev := by
  unfold execBasecfgWrite at h
  refine State.frame_run h ?_
  refine Dev.hostWr_frame ?_ ?_ (by decide)
  exact Frame.refl _ _
  intro _ _
  refine Frame.next ?_ Dev.baseCfgWrite_frame (by decide)
  assumption

theorem execMasterMeasurement_frame {i value freq s t}
    (h : (execMasterMeasurement i value freq s) = .next t) : Frame [.pba, .pirq, .live, .out, .time] s.dev t.dev := by
  unfold execMasterMeasurement at h
  refine State.frame_run h ?_
  refine Dev.onPage_frame ?_ ?_ (by decide)
  exact Frame.refl _ _
  intro _ _
  refine Frame.next ?_ Dev.measure_frame (by decide)
  assumption

theorem execSampleSlewDone_frame {s t}
    (h : (execSampleSlewDone s) = .next t) : Frame [.pba, .pirq, .out, .time] s.dev t.dev := by
  unfold execSampleSlewDone at h
  refine State.frame_run h ?_
  refine Dev.onPage_frame ?_ ?_ (by decide)
  exact Frame.refl _ _
  intro _ _
  refine Frame.next ?_ Dev.slewDone_frame (by decide)
  assumption

theorem execAlmctlWrite_frame {n v s t}
    (h : (execAlmctlWrite n v s) = .next t) : Frame [.pba, .perr, .pirq, .live, .errlog, .out, .aon, .time, .lnb,
      .pair, .mctl, .free] s.dev t.dev := by
  unfold execAlmctlWrite at h
  refine State.frame_run h ?_
  refine Dev.hostWr_frame ?_ ?_ (by decide)
  exact Frame.refl _ _
  intro _ _
  refine Frame.next ?_ Dev.almCtlWrite_frame (by decide)
  assumption

theorem execAlarmFire_frame {n s t}
    (h : (execAlarmFire n s) = .next t) : Frame [.pba, .pirq, .live, .out, .time] s.dev t.dev := by
  unfold execAlarmFire at h
  refine State.frame_run h ?_
  refine Dev.onPage_frame ?_ ?_ (by decide)
  exact Frame.refl _ _
  intro _ _
  refine Frame.next ?_ Dev.alarmDue_frame (by decide)
  assumption

theorem execPtpMessageRx_frame {p raw res s t}
    (h : (execPtpMessageRx p raw res s) = .next t) : Frame [.pba, .pirq, .live, .out, .time, .clk, .eth, .acc] s.dev t.dev := by
  unfold execPtpMessageRx at h
  refine State.frame_run h ?_
  refine Dev.onPage_frame ?_ ?_ (by decide)
  exact Frame.refl _ _
  intro _ _
  refine Frame.next ?_ Dev.ptpRx_frame (by decide)
  assumption

theorem execEthFrameDrop_frame {p s t} (h : (execEthFrameDrop p s) = .next t) : Frame [.live] s.dev t.dev := by
  unfold execEthFrameDrop at h
  refine State.frame_run h ?_
  refine Dev.onPage_frame ?_ ?_ (by decide)
  exact Frame.refl _ _
  intro _ _
  refine Frame.next ?_ Dev.ethDrop_frame (by decide)
  assumption

theorem execPtpEventTx_frame {p raw msg s t}
    (h : (execPtpEventTx p raw msg s) = .next t) : Frame [.live, .out, .eth] s.dev t.dev := by
  unfold execPtpEventTx at h
  refine State.frame_run h ?_
  refine Dev.onPage_frame ?_ ?_ (by decide)
  exact Frame.refl _ _
  intro _ _
  refine Frame.next ?_ Dev.ptpTx_frame (by decide)
  assumption

theorem execEthLinkChange_frame {p up s t}
    (h : (execEthLinkChange p up s) = .next t) : Frame [.pba, .pirq, .out, .eth] s.dev t.dev := by
  unfold execEthLinkChange at h
  refine State.frame_run h ?_
  refine Dev.onPage_frame ?_ ?_ (by decide)
  exact Frame.refl _ _
  intro _ _
  refine Frame.next ?_ Dev.ethLink_frame (by decide)
  assumption

theorem execMspFrameStart_frame {n words s t}
    (h : (execMspFrameStart n words s) = .next t) : Frame [.pba, .hdr, .pirq, .live, .out, .msp, .mem] s.dev t.dev :=
      by
  unfold execMspFrameStart at h
  refine State.frame_run h ?_
  refine Dev.onPage_frame ?_ ?_ (by decide)
  exact Frame.refl _ _
  intro _ _
  refine Frame.next ?_ Dev.mspFrameStart_frame (by decide)
  assumption

theorem execMspClkloss_frame {n s t}
    (h : (execMspClkloss n s) = .next t) : Frame [.pba, .hdr, .pirq, .live, .out, .msp, .mem] s.dev t.dev := by
  unfold execMspClkloss at h
  refine State.frame_run h ?_
  refine Dev.onPage_frame ?_ ?_ (by decide)
  exact Frame.refl _ _
  intro _ _
  refine Frame.next ?_ Dev.mspClkloss_frame (by decide)
  assumption

theorem execMonwordWrite_frame {w v s t}
    (h : (execMonwordWrite w v s) = .next t) : Frame [.pba, .perr, .pirq, .live, .errlog, .out, .aon, .monword, .lnb,
      .pair, .mctl, .free] s.dev t.dev := by
  unfold execMonwordWrite at h
  refine State.frame_run h ?_
  refine Dev.hostWr_frame ?_ ?_ (by decide)
  exact Frame.refl _ _
  intro _ _
  refine Frame.next ?_ Dev.monwordWrite_frame (by decide)
  assumption

end Sys2Proof.Machine
end

