-- ==== Sys2Proof/Laws/FactsReg.lean ====
section
/-! SUPPORT. What register accesses, page headers and tickets do, one lemma per operation. -/

namespace Sys2Proof.Machine

@[simp] theorem Dev.core_setCore (d : Dev) (c k : Nat) (x : Core) : (d.setCore c x).core k = if k = c then x else d.core k := by
  unfold Dev.setCore Dev.core
  exact Tab.get_set ..

theorem Dev.reject_rejected (d : Dev) (p o : Nat) (c : Code) : d.rejected (d.reject p o c) p o c := by
  unfold Dev.reject Dev.rejected
  extract_lets d1 d2
  have h1 : (d1.page p).perr = (d.page p).perr.record c (o / 4) := by
    simp only [d1, Dev.perr, Dev.modPage, Dev.page_setPage, if_pos]
  have t1 : d1.time = d.time := rfl
  have h2 : (d2.page p).perr = (d1.page p).perr := Frame.perr_eq Dev.logErr_frame (by decide) p
  have h3 : d2.sys.errlog.getLast? = some { page := p, code := c, word := o / 4, event := false, time := d.time.arr } := by
    simp only [d2, Dev.logErr]; split <;> simp [t1]
  clear_value d2 d1
  have key : ∀ e : Dev, (e.page p).perr = (d2.page p).perr → e.sys.errlog = d2.sys.errlog →
      (e.page p).perr = (d.page p).perr.record c (o / 4) ∧
        e.sys.errlog.getLast? = some { page := p, code := c, word := o / 4, event := false, time := d.time.arr } := by
    intro e a b; exact ⟨a.trans (h2.trans h1), by rw [b]; exact h3⟩
  split
  · exact key _ (Frame.perr_eq Dev.raise_frame (by decide) p) (Frame.errlog_eq Dev.raise_frame (by decide))
  · exact key _ rfl rfl

theorem Dev.misaligned_write {d : Dev} {p o : Nat} (h : d.reaches p (o / 4 * 4) true = true) :
    d.misaligned p o true = d.reject p o eALIGN := by
  unfold Dev.misaligned; rw [Dev.hostBar0_reaches h]; rfl

theorem Dev.misaligned_read {d : Dev} {p o : Nat} (h : d.reaches p (o / 4 * 4) false = true) :
    d.rejected (d.misaligned p o false) p o eALIGN ∧ (d.misaligned p o false).sys.out = .data 0 :: d.sys.out := by
  unfold Dev.misaligned
  rw [Dev.hostBar0_reaches h]
  simp only [Bool.false_eq_true, if_false]
  unfold Dev.rejected
  generalize hd : d.perr p eALIGN o = d1
  have h1 : (d1.page p).perr = (d.page p).perr.record eALIGN (o / 4) := by
    rw [← hd]; simp only [Dev.perr, Dev.modPage, Dev.page_setPage, if_pos]
  have t1 : d1.time = d.time := by rw [← hd]; rfl
  have o1 : d1.sys.out = d.sys.out := by rw [← hd]; rfl
  generalize he : (⟨p, eALIGN, o / 4, false, d1.time.arr⟩ : ErrEnt) = x
  have f := d1.logErr_frame (e1 := x)
  have g : (d1.logErr x).sys.errlog.getLast? = some x := by unfold Dev.logErr; split <;> simp
  generalize d1.logErr x = d2 at *
  refine ⟨⟨?_, ?_⟩, ?_⟩
  · exact (Frame.perr_eq f (by decide) p).trans h1
  · exact g.trans (by rw [← he, t1])
  · show _ :: d2.sys.out = _
    rw [Frame.out_eq f (by decide), o1]

theorem Dev.guard_ok {d : Dev} {p o : Nat} {b c : Bool} {x y : Code} {f : Dev → Dev} (hb : b = false) (hc : c = false) :
    d.guard p o (when' b x ++ when' c y) f = f d := by subst hb hc; rfl

theorem Dev.guard_one {d : Dev} {p o : Nat} {b : Bool} {x : Code} {f : Dev → Dev} (hb : b = false) :
    d.guard p o (when' b x) f = f d := by subst hb; rfl

theorem Dev.raise_pirq (d : Dev) (p : Nat) (b : Word) : ((d.raise p b).page p).pirq = (d.page p).pirq ||| b := by
  have hs : ∀ e : Dev, ((e.sendIrq p).page p).pirq = (e.page p).pirq := by
    intro e; unfold Dev.sendIrq
    split
    · unfold Dev.sendVector; extract_lets a; split <;> rfl
    · simp only [Dev.modPage, Dev.page_setPage, if_pos]
  unfold Dev.raise
  extract_lets g g' d1
  have h1 : (d1.page p).pirq = (d.page p).pirq ||| b := by
    simp only [d1, Dev.ibi]
    split <;> simp [Dev.emit, Dev.page, Dev.setPage, Tab.get_set, g', g]
  clear_value d1
  split
  · rw [hs, h1]
  · exact h1

theorem Dev.sendIrq_pirq (e : Dev) (p q : Nat) : ((e.sendIrq p).page q).pirq = (e.page q).pirq := by
  unfold Dev.sendIrq
  split
  · unfold Dev.sendVector; extract_lets a; split <;> rfl
  · simp only [Dev.modPage, Dev.page_setPage]
    split
    · rename_i h; subst h; rfl
    · rfl

/-- Two devices hold the same tickets on every page. -/
def Dev.sameTickets (d e : Dev) : Prop :=
  ∀ q, (e.page q).armed = (d.page q).armed ∧ (e.page q).lastTicket = (d.page q).lastTicket

theorem Dev.sameTickets_of {T : List Part} {d e : Dev} (h : Frame T d e) (hp : Part.hdr ∉ T) : d.sameTickets e :=
  fun q => ⟨h.armed_eq hp q, h.lastTicket_eq hp q⟩

theorem Dev.sameTickets_trans {a b c : Dev} (h : a.sameTickets b) (k : b.sameTickets c) : a.sameTickets c :=
  fun q => ⟨(k q).1.trans (h q).1, (k q).2.trans (h q).2⟩

theorem Dev.sameTickets_refl (a : Dev) : a.sameTickets a := fun _ => ⟨rfl, rfl⟩

theorem Dev.sameTickets_modPage {d : Dev} {p : Nat} {f : Page → Page}
    (h : ∀ g, (f g).armed = g.armed ∧ (f g).lastTicket = g.lastTicket) : d.sameTickets (d.modPage p f) := by
  intro q
  simp only [Dev.modPage, Dev.page_setPage]
  split
  · rename_i k; subst k; exact h _
  · exact ⟨rfl, rfl⟩

theorem Dev.sameTickets_ite {d a b : Dev} {c : Prop} [Decidable c] (h : d.sameTickets a) (k : d.sameTickets b) :
    d.sameTickets (if c then a else b) := by split <;> assumption

theorem Dev.sameTickets_foldl {α : Type} {f : Dev → α → Dev} (h : ∀ d a, Dev.sameTickets d (f d a)) (l : List α) (d : Dev) :
    d.sameTickets (l.foldl f d) := by
  induction l generalizing d with
  | nil => exact d.sameTickets_refl
  | cons a l ih => exact Dev.sameTickets_trans (h d a) (ih _)

theorem Dev.mspAdopt_tickets (d : Dev) (n : Nat) : d.sameTickets (d.mspAdopt n) := by
  unfold Dev.mspAdopt
  extract_lets p
  split
  · exact d.sameTickets_refl
  · have h : ∀ v, d.sameTickets ((d.mspClose n 1).setMport n v) := fun v => Dev.sameTickets_trans
      (Dev.sameTickets_of Dev.mspClose_frame (by decide)) (Dev.sameTickets_of Dev.setMport_frame (by decide))
    dsimp only
    exact Dev.sameTickets_ite (Dev.sameTickets_trans (h _) (Dev.sameTickets_modPage fun _ => ⟨rfl, rfl⟩)) (h _)

theorem Dev.mspCommit_tickets (d : Dev) : d.sameTickets d.mspCommit := by
  unfold Dev.mspCommit
  refine Dev.sameTickets_foldl (fun d n => ?_) _ _
  extract_lets p d1
  have h : d.sameTickets d1 := Dev.sameTickets_of Dev.setMport_frame (by decide)
  clear_value d1
  split
  · exact h
  · exact Dev.sameTickets_trans h (Dev.mspAdopt_tickets _ _)

theorem Dev.swap_tickets (d : Dev) (p : Nat) (b : Sfn) (now : Bool) : d.sameTickets (d.swap p b now) := by
  unfold Dev.swap
  split
  · exact Dev.sameTickets_of Dev.ingSwap_frame (by decide)
  split
  · exact Dev.sameTickets_of Dev.lanesSwap_frame (by decide)
  split
  · intro q
    have h := fun e : Dev => (e.bmfCommit_frame (b := b) (now := now))
    refine ⟨?_, ?_⟩
    · show ((Dev.bmfCommit _ b now).page q).armed = _
      rw [(h _).armed_eq (by decide)]; rfl
    · show ((Dev.bmfCommit _ b now).page q).lastTicket = _
      rw [(h _).lastTicket_eq (by decide)]; rfl
  split
  · exact Dev.sameTickets_of Dev.trgCommit_frame (by decide)
  split
  · exact Dev.sameTickets_of Dev.burCommit_frame (by decide)
  split
  · exact Dev.mspCommit_tickets d
  · exact d.sameTickets_refl

theorem Dev.copyShadow_pages (d : Dev) (p : Nat) : (d.copyShadow p).pages = d.pages := by
  unfold Dev.copyShadow
  extract_lets s1 d1
  have h1 : d1.pages = d.pages := rfl
  clear_value d1
  split
  · exact h1
  split
  · rw [← h1]
    generalize List.range 16 = l
    induction l generalizing d1 with
    | nil => rfl
    | cons a l ih =>
      rw [List.foldl_cons, ih _ (by exact h1)]; rfl
  · exact h1

/-- The bank of a page whose last unit has switched unlocks, and its tickets are as they were (R530). -/
theorem Dev.unlock_page (d : Dev) (p q : Nat) : ((d.unlock p).page q).armed = (d.page q).armed ∧
    ((d.unlock p).page q).lastTicket = (d.page q).lastTicket ∧
    ((d.page p).locked = true → (d.page p).armed = none → d.switched p = true → ((d.unlock p).page p).locked = false) := by
  unfold Dev.unlock
  extract_lets g d1 s2 d2 d3 d4
  have h1 : d1.pages = d.pages := by simp only [d1]; split; exact Dev.copyShadow_pages d p; rfl
  have h2 : d2.pages = d.pages := by simp only [d2]; split <;> exact h1
  have h3 : d3.pages = d.pages := by
    rw [← h2]
    simp only [d3]
    split
    · generalize List.range 16 = l
      generalize d2 = x
      induction l generalizing x with
      | nil => rfl
      | cons a l ih => rw [List.foldl_cons, ih]
    · rfl
  have h3' : ∀ k, d3.page k = d.page k := by intro k; unfold Dev.page; rw [h3]
  have h4 : (d4.page q).armed = (d.page q).armed ∧ (d4.page q).lastTicket = (d.page q).lastTicket ∧ (d4.page p).locked = false := by
    clear_value d3 d2 d1
    simp only [d4, Dev.modPage, Dev.page_setPage, if_pos]
    refine ⟨?_, ?_, trivial⟩ <;> (split <;> rename_i k <;> [rw [k]; skip]) <;> simp only [h3']
  clear_value d4 d3 d2 d1
  split
  · split
    · rw [Frame.armed_eq Dev.rampEnd_frame (by decide), Frame.lastTicket_eq Dev.rampEnd_frame (by decide),
        Frame.locked_eq Dev.rampEnd_frame (by decide)]
      exact ⟨h4.1, h4.2.1, fun _ _ _ => h4.2.2⟩
    · exact ⟨h4.1, h4.2.1, fun _ _ _ => h4.2.2⟩
  · rename_i hc
    refine ⟨rfl, rfl, fun a b c => absurd ?_ hc⟩
    simp [g, a, b, c]

theorem Dev.applyTicket_page (d : Dev) (p : Nat) (k : Ticket) :
    ((d.applyTicket p k).page p).armed = none ∧ ((d.applyTicket p k).page p).lastTicket = k.num := by
  unfold Dev.applyTicket
  extract_lets now d1
  have h1 : (d1.page p).armed = none ∧ (d1.page p).lastTicket = k.num := by
    simp only [d1, Dev.modPage, Dev.page_setPage, if_pos]; exact ⟨trivial, trivial⟩
  clear_value d1
  have h2 := d1.swap_tickets p k.target now p
  have h3 := Dev.sameTickets_of ((d1.swap p k.target now).listCommit_frame (p := p) (cancelled := false) (k := k)) (by decide) p
  have h4 := ((d1.swap p k.target now).listCommit p false k).unlock_page p p
  exact ⟨h4.1.trans (h3.1.trans (h2.1.trans h1.1)), h4.2.1.trans (h3.2.trans (h2.2.trans h1.2))⟩

theorem Dev.armTicket_page (d : Dev) (p : Nat) (k : Ticket) :
    if k.when = 0 then ((d.armTicket p k).page p).armed = none ∧ ((d.armTicket p k).page p).lastTicket = k.num
    else ((d.armTicket p k).page p).armed = some k ∧ ((d.armTicket p k).page p).locked = true ∧
      ((d.armTicket p k).page p).lastTicket = (d.page p).lastTicket := by
  unfold Dev.armTicket
  extract_lets d1
  have h1 : (d1.page p).armed = some k ∧ (d1.page p).locked = true ∧ (d1.page p).lastTicket = (d.page p).lastTicket := by
    simp only [d1, Dev.modPage, Dev.page_setPage, if_pos]; exact ⟨trivial, trivial, trivial⟩
  clear_value d1
  by_cases hw : k.when = 0
  · simp only [if_pos hw]; exact Dev.applyTicket_page d1 p k
  · simp only [if_neg hw]
    split
    · have f : Frame [.lnb] d1 ((List.range 16).foldl (fun d m =>
          let l := 16 * (p - pgLNB) + m
          if fld 2 0 (d.reg (lroleAddr l)) ≠ 0 ∧ d.role l = 0 ∧ d.pwr.level < 6 then d.laneOn l else d) d1) := by
        refine Frame.foldl (Frame.refl _ _) ?_
        intro _ _ h; exact Frame.ite (h.next Dev.laneOn_frame (by decide)) h
      rw [f.armed_eq (by decide), f.locked_eq (by decide), f.lastTicket_eq (by decide)]
      exact h1
    · exact h1

theorem Dev.cancelTicket_page {d : Dev} {p : Nat} {c : Code} {k : Ticket} (h : (d.page p).armed = some k) :
    ((d.cancelTicket p c).page p).armed = none ∧ ((d.cancelTicket p c).page p).lastTicket = k.num := by
  unfold Dev.cancelTicket
  rw [h]
  dsimp only
  rw [Frame.armed_eq Dev.listCommit_frame (by decide), Frame.lastTicket_eq Dev.listCommit_frame (by decide)]
  simp [Dev.perr, Dev.modPage]

/-- The fields of a `PCOMMIT` word. -/
theorem pcommit_word (num : BitVec 16) (w : BitVec 4) :
    fld 3 0 (BitVec.ofNat 32 (num.toNat * 65536 + w.toNat)) = w.toNat ∧
      fld 15 4 (BitVec.ofNat 32 (num.toNat * 65536 + w.toNat)) = 0 ∧
      BitVec.ofNat 16 (fld 31 16 (BitVec.ofNat 32 (num.toNat * 65536 + w.toNat))) = num := by
  have h1 := num.isLt
  have h2 := w.isLt
  have h3 : (BitVec.ofNat 32 (num.toNat * 65536 + w.toNat)).toNat = num.toNat * 65536 + w.toNat := by
    rw [BitVec.toNat_ofNat]; omega
  unfold fld
  rw [h3]
  simp only [Nat.shiftRight_eq_div_pow]
  refine ⟨by omega, by omega, ?_⟩
  apply BitVec.eq_of_toNat_eq
  rw [BitVec.toNat_ofNat]; omega

theorem Dev.pageCleared_page (d : Dev) (p : Nat) : (d.pageCleared p).page p = (d.page p).islandReset := by
  unfold Dev.pageCleared Dev.modPage
  rw [Dev.page_setPage, if_pos rfl]; rfl

end Sys2Proof.Machine
end

