-- ==== Sys2Proof/Laws/FactsSys.lean ====
section
/-! SUPPORT. What the commands of `SYS.CMD` do, one lemma per operation. -/

namespace Sys2Proof.Machine

theorem Dev.cmdRow_passes {d : Dev} {code : Nat} {o : Bool} (h : d.cmdPasses code) (e : Dev)
    (he : d.cmdOwn code o = (eOK, e)) : d.cmdRow code o = (e.cmdEnd code eOK).settle.settle := by
  obtain ⟨h1, h2, h3⟩ := h
  simp only [Dev.cmdRow, h1, Dev.hostWr_takes h2, Dev.cmdJudge, h3, he]

theorem Dev.cmdDo_nil {d : Dev} {errs : List Code} {f : Dev → Dev} (h : errs = []) : d.cmdDo errs f = (eOK, f d) := by
  subst h; rfl

theorem Dev.ended_frame {e : Dev} {code r} : Frame ([.cmd, .errlog] ++ settles) e (e.cmdEnd code r).settle.settle :=
  ((Dev.cmdEnd_frame.mono (by decide)).trans (Dev.settle_frame.mono (by decide))).trans (Dev.settle_frame.mono (by decide))

theorem Dev.cmdEnd_done {d e : Dev} {code r} (h : e.sys.cmdstat.gen = d.sys.cmdstat.gen) :
    d.cmdDone (e.cmdEnd code r).settle.settle code r := by
  have := fun (x : Dev) (b : Word) => Frame.cmdstat_eq (x.raise_frame (p := pgSYS) (bits := b)) (by decide)
  have h2 := fun (x : Dev) (b : Word) => Frame.cmdPend_eq (x.raise_frame (p := pgSYS) (bits := b)) (by decide)
  have h3 := fun (x : Dev) en => Frame.cmdstat_eq (x.logErr_frame (e1 := en)) (by decide)
  have h4 := fun (x : Dev) en => Frame.cmdPend_eq (x.logErr_frame (e1 := en)) (by decide)
  simp only [Dev.cmdDone, Dev.settle_cmdstat, Dev.settle_cmdPend, Dev.cmdEnd, this, h2]
  split <;> simp [h3, h4, h]

/-- A refused or timed-out command joins the error log as its newest entry (R534). -/
theorem Dev.cmdEnd_errlog {e : Dev} {code : Nat} {r : Code} (h : r ≠ eOK) : (e.cmdEnd code r).sys.errlog.getLast? =
    some { page := pgSYS, code := r, word := 0x402, event := false, time := e.time.arr } := by
  have h2 := fun (x : Dev) (b : Word) => Frame.errlog_eq (x.raise_frame (p := pgSYS) (bits := b)) (by decide)
  have h3 : ∀ (x : Dev) en, (x.logErr en).sys.errlog.getLast? = some en := by
    intro x en; unfold Dev.logErr; split <;> simp
  unfold Dev.cmdEnd
  dsimp only
  rw [h2, if_neg h, h3]

theorem Dev.cmdEnd_only {d : Dev} {code r} : d.cmdDone (d.cmdEnd code r) code r := by
  have := Dev.cmdEnd_done (d := d) (e := d) (code := code) (r := r) rfl
  simpa only [Dev.cmdDone, Dev.settle_cmdstat, Dev.settle_cmdPend] using this

/-- A command that passes is legal in the state (R537). -/
theorem Dev.cmdRefused_legal {d : Dev} {c : Nat} (h : d.cmdRefused c = none) : cmdLegal c d.sys.state = true := by
  by_contra hl
  unfold Dev.cmdRefused at h
  simp only [Bool.not_eq_true] at hl
  simp only [hl, Bool.not_false, if_true] at h
  repeat' split at h
  all_goals cases h

theorem Dev.handover_inRun {d : Dev} (h : d.cmdRefused 0x70 = none) : noStepState d.sys.state = true := by
  have := Dev.cmdRefused_legal h
  revert this
  generalize d.sys.state = x
  cases x <;> decide

theorem Dev.ended_pair {e : Dev} {code r} (hn : noStepState e.sys.state = true) (hz : e.pair.state ≠ .offline) :
    (e.cmdEnd code r).settle.settle.pair = e.pair := by
  have f := e.cmdEnd_frame (code := code) (r := r)
  generalize e.cmdEnd code r = x at *
  have h1 := Frame.state_eq f (by decide)
  have h2 := Frame.pair_eq f (by decide)
  have h3 : x.settle.pair = x.pair := Dev.settle_pair_inRun (by rw [h1]; exact hn) (by rw [h2]; exact hz)
  rw [Dev.settle_pair_inRun (by rw [Dev.settle_state, h1]; exact hn) (by rw [h3, h2]; exact hz), h3, h2]

theorem Dev.ended_mctl {e : Dev} {code r} : (e.cmdEnd code r).settle.settle.mctl = { e.mctl with snapDue := false } := by
  simp [Dev.settle_mctl, Frame.mctl_eq Dev.cmdEnd_frame (by decide)]

/-- `simp`-free access: a SYS command that passes, with its own effect `f`. -/
theorem Completes.of_cmd {c : Instr} {s : State} {code : Nat} {o : Bool} {P : Dev → Prop} {e : Dev}
    (hx : exec c s = s.run fun d => d.cmdRow code o) (h : s.dev.cmdPasses code) (he : s.dev.cmdOwn code o = (eOK, e))
    (hg : e.sys.cmdstat.gen = s.dev.sys.cmdstat.gen) (hp : P (e.cmdEnd code eOK).settle.settle) :
    Completes c s fun e => s.dev.cmdDone e code eOK ∧ P e :=
  .of_run hx (by rw [Dev.cmdRow_passes h e he]; exact ⟨Dev.cmdEnd_done hg, hp⟩)

theorem Dev.setState_state (d : Dev) (x : DevState) : (d.setState x).sys.state = x := by
  unfold Dev.setState
  split
  · assumption
  · exact Frame.state_eq Dev.raise_frame (by decide)

theorem Dev.estop_estop {d : Dev} (h : d.sys.state ≠ .off) (src) : (d.estop src).aon.estop = { d.aon.estop.mark src with active := true } := by
  unfold Dev.estop
  rw [if_neg h]
  dsimp only
  split
  · rfl
  · rw [Frame.estop_eq Dev.raise_frame (by decide), Frame.estop_eq Dev.giveUp_frame (by decide), Frame.estop_eq Dev.trigoutsLow_frame (by decide)]

theorem Dev.start_facts (d : Dev) : d.start.sys.state = .running ∧ d.start.run = { live := true, s0 := d.startS0, sheetAt := d.startS0, reamAt := d.startS0, copyDue := d.run.copyDue } ∧ d.start.sys.sheetcnt = 0 ∧ d.start.sys.reamcnt = 0 := by
  unfold Dev.start
  extract_lets s0 join took old d1 same sy d2 d3 d4 ps
  have h1 : d1.run.copyDue = d.run.copyDue := by
    simp only [d1]; split
    · rw [Frame.run_eq Dev.startTakeover_frame (by decide)]
    · rfl
  have r2 : d2.run = { live := true, s0 := s0, sheetAt := s0, reamAt := s0, copyDue := d1.run.copyDue } := rfl
  have c2 : d2.sys.sheetcnt = 0 ∧ d2.sys.reamcnt = 0 := ⟨rfl, rfl⟩
  have f3 : Frame [.regs, .pba] d2 d3 := Dev.setReg_frame.trans Dev.setReg_frame
  have e4 : d4 = (d3.startUnits took same).setState .running := rfl
  clear_value d4 d3 d2
  have s4 : d4.sys.state = .running := by rw [e4]; exact Dev.setState_state _ _
  have f4 : Frame ([.regs, .pba, .lnb, .ing, .dkl, .hat, .acc, .bmf, .trg, .bur] ++ [.pba, .pirq, .state, .out]) d3 d4 := by
    rw [e4]; exact (Dev.startUnits_frame.mono (by decide)).trans (Dev.setState_frame.mono (by decide))
  have r4 : d4.run = { live := true, s0 := s0, sheetAt := s0, reamAt := s0, copyDue := d.run.copyDue } := by
    rw [Frame.run_eq f4 (by decide), Frame.run_eq f3 (by decide), r2, h1]
  have c4 : d4.sys.sheetcnt = 0 ∧ d4.sys.reamcnt = 0 := by
    rw [Frame.sheetcnt_eq f4 (by decide), Frame.sheetcnt_eq f3 (by decide), Frame.reamcnt_eq f4 (by decide), Frame.reamcnt_eq f3 (by decide)]; exact c2
  clear e4 f4
  clear_value ps
  by_cases hp : (!d4.paired) = true
  · rw [if_pos hp]; exact ⟨s4, r4, c4⟩
  rw [if_neg hp]
  by_cases hj : join = true
  · rw [if_pos hj]; exact ⟨s4, r4, c4⟩
  · rw [if_neg hj]
    have f5 := d4.takeOwn_frame (counter := none) (silence := false)
    rw [Frame.state_eq f5 (by decide), Frame.run_eq f5 (by decide), Frame.sheetcnt_eq f5 (by decide), Frame.reamcnt_eq f5 (by decide)]
    exact ⟨s4, r4, c4⟩

theorem Dev.flagChan_skipped (d : Dev) (a b c e : Nat) : (d.flagChan a b c e).acc.skipped = d.acc.skipped := by
  unfold Dev.flagChan
  extract_lets g
  split
  · rfl
  · simp only [Dev.bump, Dev.modGather]; repeat' (first | rfl | split)

theorem Dev.pgen_bump (l : List Nat) (hl : l.Nodup) (d : Dev) (p : Nat) :
    ((l.foldl (fun d p => d.modPage p fun g => { g with pgen := g.pgen + 1 }) d).page p).pgen
      = if p ∈ l then (d.page p).pgen + 1 else (d.page p).pgen := by
  induction l generalizing d with
  | nil => simp
  | cons a l ih =>
    obtain ⟨ha, hl⟩ := List.nodup_cons.mp hl
    rw [List.foldl_cons, ih hl]
    simp only [Dev.modPage, Dev.page_setPage, List.mem_cons]
    by_cases h : p = a
    · subst h; simp [ha]
    · simp [h]

theorem Dev.peaks_frame {d : Dev} : Frame [.bur] d ((List.range 64).foldl (fun d c => let x := d.core c; d.setCore c { x with peak := x.queue.length }) d) := by
  refine Frame.foldl (Frame.refl _ _) ?_
  intro _ _ h; exact h.next Dev.setCore_frame (by decide)

theorem pageExists_mem {p : Nat} (h : pageExists p = true) : p ∈ pageList := by
  simp only [pageList, List.mem_filter, List.mem_range, h, and_true]
  simp only [pageExists, Bool.or_eq_true, Bool.and_eq_true, decide_eq_true_eq] at h
  omega

theorem Dev.pageLoop_frame {d : Dev} {l : List Nat} : Frame [.hdr] d (l.foldl (fun d p => d.modPage p fun g => { g with pgen := g.pgen + 1 }) d) := by
  refine Frame.foldl (Frame.refl _ _) ?_
  intro _ _ h; exact Frame.modPage h (.inr (by decide)) (.inl fun _ => rfl) (.inl fun _ => ⟨rfl, rfl⟩)

theorem Dev.statsLatch_facts (d : Dev) (r : Bool) : (d.statsLatch r).stats = d.usLevel.live ∧ (d.statsLatch r).pwr.shedMax = d.pwr.level ∧
    ∀ p, pageExists p = true → ((d.statsLatch r).page p).pgen = (d.page p).pgen + 1 := by
  unfold Dev.statsLatch
  extract_lets d1 sp d2 d3
  have p2 : d2.page = d1.page := rfl
  have s2 : d2.stats = d1.live ∧ d2.pwr.shedMax = d1.pwr.level := ⟨rfl, rfl⟩
  have f3 : Frame [.hdr] d2 d3 := Dev.pageLoop_frame
  have l1 : d1.pwr.level = d.pwr.level := by simp only [d1, Dev.usLevel]; split <;> rfl
  have p1 : d1.page = d.page := by simp only [d1, Dev.usLevel]; split <;> rfl
  have p3 : ∀ p, pageExists p = true → (d3.page p).pgen = (d2.page p).pgen + 1 := fun p hp => by
    simp only [d3]; rw [Dev.pgen_bump _ (by decide), if_pos (pageExists_mem hp)]
  clear_value d3 d2
  rw [Frame.stats_eq Dev.peaks_frame (by decide), Frame.pwr_eq Dev.peaks_frame (by decide), Frame.stats_eq f3 (by decide), Frame.pwr_eq f3 (by decide)]
  exact ⟨s2.1, s2.2.trans l1, fun p hp => (Frame.pgen_eq Dev.peaks_frame (by decide) p).trans ((p3 p hp).trans (by rw [p2, p1]))⟩

theorem Dev.laneOns_frame {d : Dev} {q : Req} {l : List Nat} : Frame [.lnb] d (l.foldl (fun d l =>
    if fld 2 0 (q.laneWord l) ≠ 0 ∧ d.role l = 0 ∧ d.pwr.level < 6 then d.laneOn l else d) d) := by
  refine Frame.foldl (Frame.refl _ _) ?_
  intro _ _ h; exact Frame.ite (h.next Dev.laneOn_frame (by decide)) h

theorem Dev.arm_facts (d : Dev) : d.arm.plt.staged = .armed ∧ d.arm.plt.stagedP = d.plt.stagedP ∧
    (d.sys.state = .ready → d.arm.sys.state = .idle) ∧ (d.sys.state = .idle → d.arm.sys.state = .idle) ∧
    (d.sys.state = .running → d.arm.sys.state = .running ∧ d.arm.plt.armPend = true ∧ d.arm.plt.armSfn = d.boundary 3) := by
  unfold Dev.arm
  dsimp only
  by_cases h : d.sys.state = .running
  · rw [if_pos h]; exact ⟨rfl, rfl, by simp [h], by simp [h], fun _ => ⟨h, rfl, rfl⟩⟩
  · rw [if_neg h]
    by_cases k : d.sys.state = .ready
    · rw [if_pos k, Frame.plt_eq Dev.setState_frame (by decide), Dev.setState_state]
      exact ⟨rfl, rfl, fun _ => rfl, fun _ => rfl, fun e => absurd e h⟩
    · rw [if_neg k]; exact ⟨rfl, rfl, fun e => absurd e k, fun e => e, fun e => absurd e h⟩

theorem Dev.armAll_facts (d : Dev) {q : Plate} (hq : d.plt.stagedP = some q) : d.armAll.plt.staged = .armed ∧
    d.armAll.plt.stagedP = some q ∧
    (d.sys.state = .ready → d.armAll.sys.state = .idle) ∧ (d.sys.state = .idle → d.armAll.sys.state = .idle) ∧
    (d.sys.state = .running → d.armAll.sys.state = .running ∧ d.armAll.plt.armPend = true ∧ d.armAll.plt.armSfn = d.boundary 3) := by
  obtain ⟨a, b, c, e, f⟩ := d.arm_facts
  rw [hq] at b
  unfold Dev.armAll
  extract_lets run d1
  have hd : d1 = d.arm := rfl
  clear_value d1
  rw [← hd] at a b c e f
  clear hd
  split
  · rename_i hn; rw [b] at hn; cases hn
  rename_i q' hq'
  by_cases hr : run = true
  · rw [if_pos hr]
    have k := fun d2 : Dev => Dev.laneOns_frame (d := d2) (q := q'.req) (l := List.range 256)
    dsimp only
    rw [Frame.plt_eq (k _) (by decide), Frame.state_eq (k _) (by decide)]
    exact ⟨a, b, c, e, f⟩
  · rw [if_neg hr, Frame.plt_eq Dev.rolesNow_frame (by decide), Frame.state_eq Dev.rolesNow_frame (by decide)]
    exact ⟨a, b, c, e, f⟩

theorem TimeSt.base_setBase (t : TimeSt) (i : Nat) (b : Base) : (t.setBase i b).base i = b := by
  unfold TimeSt.setBase; split <;> first | rfl | (unfold TimeSt.base; split <;> simp_all)

/-- Alarms leave the bases as they are. -/
theorem Dev.alarmFire_base (d : Dev) (n : Nat) (a b : Bool) (j : Nat) : (d.alarmFire n a b).time.base j = d.time.base j := by
  unfold Dev.alarmFire
  extract_lets x i st d1
  have h1 : d1.time.base j = d.time.base j := by unfold TimeSt.base; split <;> rfl
  clear_value d1
  rw [Frame.time_eq Dev.raise_frame (by decide) (by decide)]
  exact h1

theorem Dev.alarmsOnStep_base (d : Dev) (i : Nat) (old : BitVec 64) (j : Nat) : (d.alarmsOnStep i old).time.base j = d.time.base j := by
  unfold Dev.alarmsOnStep
  generalize List.range 8 = l
  induction l generalizing d with
  | nil => rfl
  | cons a l ih =>
    rw [List.foldl_cons, ih]
    extract_lets x
    split
    · exact Dev.alarmFire_base ..
    · rfl

theorem Dev.stepped_mvalid (d : Dev) (i : Nat) (old : BitVec 64) (ns : Int) :
    ((d.stepped i old ns).time.base i).mvalid = (d.time.base i).mvalid := by
  unfold Dev.stepped
  extract_lets b b1 d1
  have h1 : (d1.time.base i).mvalid = (d.time.base i).mvalid := by simp only [d1]; rw [TimeSt.base_setBase]
  clear_value d1
  rw [Dev.alarmsOnStep_base, Frame.time_eq Dev.raise_frame (by decide) (by decide)]
  exact h1

theorem Dev.setBase_1_0 (t : TimeSt) (b : Base) : (t.setBase 1 b).base 0 = t.base 0 := rfl

theorem Dev.stepped_base0 (d : Dev) (old : BitVec 64) (ns : Int) : (d.stepped 1 old ns).time.base 0 = d.time.base 0 := by
  unfold Dev.stepped
  extract_lets b b1 d1
  have h1 : d1.time.base 0 = d.time.base 0 := rfl
  clear_value d1
  rw [Dev.alarmsOnStep_base, Frame.time_eq Dev.raise_frame (by decide) (by decide)]
  exact h1

theorem Dev.sampleFollow_base0 (d : Dev) : d.sampleFollow.time.base 0 = d.time.base 0 := by
  unfold Dev.sampleFollow
  extract_lets b d1
  split
  · rfl
  split
  · rfl
  · unfold Dev.sampleStep; exact Dev.stepped_base0 _ _ _

/-- Reselecting a base's master leaves whether the base has a master present (R435). -/
theorem Dev.baseReselect_mvalid (d : Dev) (i : Nat) (ok : Bool) (hi : i ≠ 2) (h : (d.time.base i).master ≠ 0) :
    ((d.baseReselect i ok).time.base i).mvalid = ok := by
  unfold Dev.baseReselect
  extract_lets b d1 off
  have h1 : (d1.time.base i).mvalid = ok := by simp only [d1]; rw [TimeSt.base_setBase]
  have hb : b.master ≠ 0 := h
  clear_value d1
  rw [if_neg hb]
  split
  · exact h1
  rename_i hk
  have ht : ok = true := by simpa using hk
  subst ht
  split
  · rename_i h0; subst h0
    split
    · unfold Dev.arrayStep
      extract_lets old ns
      rw [Dev.sampleFollow_base0, Dev.stepped_mvalid]; exact h1
    · exact h1
  split
  · rename_i h0; subst h0
    split
    · rfl
    · unfold Dev.sampleStep
      extract_lets old e t d2
      rw [Dev.stepped_mvalid]; exact h1
  split
  · rename_i h0; subst h0
    unfold Dev.peerStep
    extract_lets old ns
    rw [Dev.stepped_mvalid]; exact h1
  · exact h1

end Sys2Proof.Machine
end

