-- ==== Sys2Proof/Laws/FactsBoot.lean ====
section
/-! SUPPORT. What resets, boot, the access ports, ESTOP, the snapshot and shed levels do, one lemma per operation. -/

namespace Sys2Proof.Machine

/-! ### Resets -/

theorem Dev.landsLow_emits (d : Dev) : d.landsLow.free = d.free ∧ d.landsLow.pair = d.pair ∧ d.landsLow.boot = d.boot ∧
    d.landsLow.aon = d.aon :=
  ⟨Frame.free_eq Dev.landsLow_frame (by decide), Frame.pair_eq Dev.landsLow_frame (by decide),
    Frame.boot_eq Dev.landsLow_frame (by decide), Frame.aon_eq Dev.landsLow_frame (by decide) (by decide)⟩

/-- A reset of every island but AON and CLK/TIME ends in IMAGE_WAIT (R504, R516). -/
theorem Dev.moduleReset_facts (d : Dev) (c : Nat) : (d.moduleReset c).sys.state = .imageWait ∧
    (d.moduleReset c).boot.rstCause = c ∧ (d.moduleReset c).boot.linkUp = false ∧ (d.moduleReset c).mem = [] ∧
    (d.moduleReset c).plt = {} ∧ (d.moduleReset c).mctl = {} ∧ (d.moduleReset c).clk = d.clk ∧
    (d.moduleReset c).time.loc = d.time.loc ∧ (d.moduleReset c).aon = d.aon := by
  unfold Dev.moduleReset
  have hm := fun e : Dev => e.masters_frame
  have hs := fun e : Dev => e.setState_frame (s := .imageWait)
  have ha : (d.islandsLost c 0 true).aon = d.aon := d.landsLow_emits.2.2.2
  have hk : (d.islandsLost c 0 true).clk = d.clk := by
    have k := Frame.clk_eq d.landsLow_frame (by decide); exact k
  have hl : (d.islandsLost c 0 true).time = d.time := by
    have k := Frame.time_eq d.landsLow_frame (by decide) (by decide); exact k
  have h : (d.islandsLost c 0 true).boot.rstCause = c ∧ (d.islandsLost c 0 true).boot.linkUp = false ∧
      (d.islandsLost c 0 true).mem = [] ∧ (d.islandsLost c 0 true).plt = {} ∧ (d.islandsLost c 0 true).mctl = {} :=
    ⟨rfl, rfl, rfl, rfl, rfl⟩
  generalize d.islandsLost c 0 true = x at *
  rw [(hm _).state_eq (by decide), Dev.setState_state, (hm _).boot_eq (by decide), (hs _).boot_eq (by decide),
    (hm _).mem_eq (by decide), (hs _).mem_eq (by decide), (hm _).plt_eq (by decide), (hs _).plt_eq (by decide),
    (hm _).mctl_eq (by decide), (hs _).mctl_eq (by decide), (hm _).clk_eq (by decide), (hs _).clk_eq (by decide),
    (hm _).loc_eq (by decide), (hs _).loc_eq (by decide), (hm _).aon_eq (by decide) (by decide),
    (hs _).aon_eq (by decide) (by decide), ha, hk, hl]
  exact ⟨rfl, h.1, h.2.1, h.2.2.1, h.2.2.2.1, h.2.2.2.2, rfl, rfl, rfl⟩

theorem Dev.recover_pre (d : Dev) : ∃ x b, Frame [.regs, .pba, .act, .pirq, .live, .nextc, .out, .time, .lnb, .plt, .run, .ing,
    .dkl, .hat, .acc, .bmf, .trg, .bur, .fab, .mem] d x ∧ b.rstCause = x.boot.rstCause ∧
    d.recover = (({ x with boot := b } : Dev).setState .recovery).pairSync := by
  unfold Dev.recover
  refine ⟨_, _, ?_, ?_, rfl⟩
  rotate_left
  · dsimp only
  ·
    refine Frame.next ?_ Dev.portReset_frame (by decide)
    refine Frame.foldl ?_ ?_
    refine Frame.foldl ?_ ?_
    refine Frame.foldl ?_ ?_
    refine Frame.ite ?_ ?_
    refine Frame.next ?_ Dev.rolesNow_frame (by decide)
    refine Frame.upd_plt ?_ (by decide)
    refine Frame.next ?_ Dev.pltAbort_frame (by decide)
    refine Frame.ite ?_ ?_
    refine Frame.next ?_ Dev.dataStop_frame (by decide)
    exact Frame.refl _ _
    exact Frame.refl _ _
    refine Frame.next ?_ Dev.pltAbort_frame (by decide)
    refine Frame.ite ?_ ?_
    refine Frame.next ?_ Dev.dataStop_frame (by decide)
    exact Frame.refl _ _
    exact Frame.refl _ _
    intro _ _ _
    refine Frame.ite ?_ ?_
    assumption
    refine Frame.next ?_ Dev.setCore_frame (by decide)
    assumption
    intro _ _ _
    refine Frame.setReg ?_ (by decide) (.inr (by decide))
    assumption
    intro _ _ _
    refine Frame.next ?_ Dev.relight_frame (by decide)
    assumption

/-- Where no comparison of the checking quires waits, the stop of the data path leaves memory. -/
theorem Dev.dataStop_mem_eq {d : Dev} (h : d.hat.due = []) : d.dataStop.mem = d.mem := by
  have hc : Frame [.hat] (d.cutOpenCaptures) d.cutOpenCaptures.checksDone := by
    have hd : d.cutOpenCaptures.hat.due = [] := by rw [Frame.hat_eq Dev.cutOpenCaptures_frame (by decide)]; exact h
    unfold Dev.checksDone
    rw [hd]
    exact Frame.upd_hat (Frame.refl _ _) (by decide)
  have hs : Frame [.live, .hat, .acc] d.cutOpenCaptures d.cutOpenCaptures.suspectFlagsClose := by
    unfold Dev.suspectFlagsClose
    dsimp only
    have k := hc.mono (U := [.live, .hat, .acc]) (by decide)
    split
    · exact k
    · refine Frame.upd_hat (Frame.foldl k fun _ _ h => ?_) (by decide)
      exact h.next Dev.flagChan_frame (by decide)
  unfold Dev.dataStop
  rw [Frame.mem_eq Dev.runOver_frame (by decide)]
  exact (hs.mem_eq (by decide)).trans (Frame.mem_eq Dev.cutOpenCaptures_frame (by decide))

/-- What follows the stop of the data path in a Mladef island reset leaves memory. -/
theorem Dev.recover_mem_eq {d : Dev} (h : d.hat.due = []) : d.recover.mem = d.mem := by
  have h1 : (if runOpen d.sys.state d.mctl.frz.prev || d.run.live then d.dataStop else d).mem = d.mem := by
    split
    · exact Dev.dataStop_mem_eq h
    · rfl
  rw [← h1]
  unfold Dev.recover
  dsimp only
  generalize (if runOpen d.sys.state d.mctl.frz.prev || d.run.live then d.dataStop else d) = x
  refine Frame.mem_eq (T := [.regs, .pba, .act, .pirq, .live, .state, .out, .boot, .time, .lnb, .plt, .ing, .pair, .bur, .fab])
    (d := x) ?_ (by decide)
  refine Frame.next ?_ Dev.pairSync_frame (by decide)
  refine Frame.next ?_ Dev.setState_frame (by decide)
  refine Frame.upd_boot ?_ (by decide)
  refine Frame.next ?_ Dev.portReset_frame (by decide)
  refine Frame.foldl ?_ ?_
  refine Frame.foldl ?_ ?_
  refine Frame.foldl ?_ ?_
  refine Frame.ite ?_ ?_
  refine Frame.next ?_ Dev.rolesNow_frame (by decide)
  refine Frame.upd_plt ?_ (by decide)
  refine Frame.next ?_ Dev.pltAbort_frame (by decide)
  exact Frame.refl _ _
  refine Frame.next ?_ Dev.pltAbort_frame (by decide)
  exact Frame.refl _ _
  intro _ _ _
  refine Frame.ite ?_ ?_
  assumption
  refine Frame.next ?_ Dev.setCore_frame (by decide)
  assumption
  intro _ _ _
  refine Frame.setReg ?_ (by decide) (.inr (by decide))
  assumption
  intro _ _ _
  refine Frame.next ?_ Dev.relight_frame (by decide)
  assumption

theorem Dev.recover_facts (d : Dev) : d.recover.sys.state = .recovery ∧ d.recover.boot.rstCause = d.boot.rstCause ∧
    (d.hat.due = [] → d.recover.mem = d.mem) := by
  obtain ⟨x, b, f, hb, he⟩ := d.recover_pre
  refine ⟨?_, ?_, Dev.recover_mem_eq⟩
  · rw [he, Frame.state_eq Dev.pairSync_frame (by decide), Dev.setState_state]
  · rw [he, Frame.boot_eq Dev.pairSync_frame (by decide), Frame.boot_eq Dev.setState_frame (by decide)]
    exact hb.trans (congrArg BootSt.rstCause (f.boot_eq (by decide)))

/-- A Mladef island reset whose retained image verifies restarts firmware in RECOVERY (R515). -/
theorem Dev.mladefReset_facts {d : Dev} {c : Nat} (h : d.sys.state.booted = true) (k : d.retainedOk = true) :
    (d.mladefReset c).sys.state = .recovery ∧ (d.mladefReset c).boot.rstCause = c ∧
      (d.hat.due = [] → (d.mladefReset c).mem = d.mem) := by
  unfold Dev.mladefReset
  rw [h, k]
  exact Dev.recover_facts _

/-- Whether the retained image can be read rests on the memory controller, the shed level and the image. -/
theorem Dev.retainedOk_of {d e : Dev} (h1 : e.mctl = d.mctl) (h2 : e.boot = d.boot) (h3 : e.pwr = d.pwr)
    (h4 : e.sys.state = d.sys.state) : e.memServes = d.memServes → e.retainedOk = d.retainedOk := by
  intro h; unfold Dev.retainedOk; rw [h, h2]

/-! ### Shed levels -/

theorem Dev.enterLevels_pwr (d : Dev) (a b : Nat) : ∃ x, (d.enterLevels a b).pwr = { d.pwr with portsAt := x } := by
  unfold Dev.enterLevels
  extract_lets s1 d1 d2 d3 d4 d5
  have h1 : ∃ x, d1.pwr = { d.pwr with portsAt := x } := by
    simp only [d1]; split
    · exact ⟨none, by rw [Frame.pwr_eq Dev.burShed_frame (by decide), Frame.pwr_eq Dev.mspShed_frame (by decide)]⟩
    · exact ⟨_, rfl⟩
  have h2 : d2.pwr = d1.pwr := by
    simp only [d2]; split
    · exact Frame.pwr_eq Dev.hatS3_frame (by decide)
    split
    · exact Frame.pwr_eq Dev.hatS2_frame (by decide)
    · rfl
  have h3 : d3.pwr = d2.pwr := by
    simp only [d3]; split
    · exact Frame.pwr_eq Dev.beamsS4_frame (by decide)
    · rfl
  have h4 : d4.pwr = d3.pwr := by
    simp only [d4]; split
    · exact Frame.pwr_eq Dev.enterS5_frame (by decide)
    · rfl
  have h5 : d5.pwr = d4.pwr := by
    simp only [d5]; split
    · exact Frame.pwr_eq Dev.enterS6_frame (by decide)
    · rfl
  clear_value d5 d4 d3 d2 d1
  obtain ⟨x, h1⟩ := h1
  refine ⟨x, ?_⟩
  rw [← h1, ← h2, ← h3, ← h4, ← h5]
  split
  · exact Frame.pwr_eq Dev.pairShed_frame (by decide)
  · rfl

/-- The effective level follows the highest of the three at once on a rise, and what was sampled stays (R483). -/
theorem Dev.levelNow_facts (d : Dev) : d.levelNow.pwr.level = max d.pwr.level d.pwr.highest ∧
    d.levelNow.pwr.host = d.pwr.host ∧ d.levelNow.pwr.thermal = d.pwr.thermal ∧ d.levelNow.pwr.reached = d.pwr.reached ∧
    d.levelNow.pwr.mv = d.pwr.mv ∧ d.levelNow.pwr.tj = d.pwr.tj ∧ d.levelNow.pwr.warn = d.pwr.warn := by
  unfold Dev.levelNow
  extract_lets h
  by_cases c : d.pwr.level < h
  · rw [if_pos c]
    have hmax : max d.pwr.level d.pwr.highest = h := by show max d.pwr.level h = h; omega
    rw [hmax]
    unfold Dev.levelRise
    extract_lets a d1
    have e1 : d1.pwr.level = h ∧ d1.pwr.host = d.pwr.host ∧ d1.pwr.thermal = d.pwr.thermal ∧
        d1.pwr.reached = d.pwr.reached ∧ d1.pwr.mv = d.pwr.mv ∧ d1.pwr.tj = d.pwr.tj ∧ d1.pwr.warn = d.pwr.warn := by
      simp only [d1]
      obtain ⟨x, hx⟩ := ((d.setLevel h).bump pgPWR 0x100).enterLevels_pwr a h
      rw [hx]
      have : ((d.setLevel h).bump pgPWR 0x100).pwr = (d.setLevel h).pwr := rfl
      rw [this]
      unfold Dev.setLevel Dev.usLevel
      dsimp only
      split <;> exact ⟨rfl, rfl, rfl, rfl, rfl, rfl, rfl⟩
    clear_value d1
    rw [Frame.pwr_eq Dev.raise_frame (by decide)]
    exact e1
  · rw [if_neg c]
    have hmax : max d.pwr.level d.pwr.highest = d.pwr.level := by show max d.pwr.level h = _; omega
    rw [hmax]
    split
    · exact ⟨rfl, rfl, rfl, rfl, rfl, rfl, rfl⟩
    split
    · exact ⟨rfl, rfl, rfl, rfl, rfl, rfl, rfl⟩
    · exact ⟨rfl, rfl, rfl, rfl, rfl, rfl, rfl⟩

/-! ### The access ports -/

theorem Dev.aonPort_setAonPort (d : Dev) (i : Bool) (p : AonPort) : (d.setAonPort i p).aonPort i = p := by
  cases i <;> rfl

theorem Dev.aonDo_reach {d : Dev} {i : Bool} {a : Option (BitVec 14)} {c : Word} (h : d.aonReach i = true) :
    d.aonDo i a c = (d.setAonPort i { d.aonPort i with
      addr := match a with | some a => a.setWidth 32 | none => (d.aonPort i).addr }).aonCmd i c := by
  unfold Dev.aonDo; exact if_pos h

theorem Dev.aonOp_ok {d : Dev} {i : Bool} {l : List Code} {f : Dev → Dev} (h : l = []) :
    d.aonOp i l f = (f d).aonResult i eOK := by subst h; rfl

theorem Dev.aonResult_port (d : Dev) (i : Bool) (c : Code) : (d.aonResult i c).aonPort i = { d.aonPort i with result := c } :=
  Dev.aonPort_setAonPort ..

/-- Where an operation of an access port starts: only the port has changed. -/
theorem Dev.aonDo_port {d : Dev} {i : Bool} {a : Option (BitVec 14)} {c : Word} (h : d.aonReach i = true) :
    ∃ e, Frame [.aon] d e ∧ (e.aonPort i).cmd = c ∧ (∀ w, a = some w → (e.aonPort i).addr = w.setWidth 32) ∧
      e.aon.autoFrz = d.aon.autoFrz ∧ e.aon.valid = d.aon.valid ∧ e.aon.busy = d.aon.busy ∧ e.aon.taken = d.aon.taken ∧
      e.aon.sram = d.aon.sram ∧
      d.aonDo i a c = (match fld 3 0 c with
        | 0 => e.aonOp i [] fun d => d
        | 1 => e.aonRead i (fld 15 8 c)
        | 2 => e.aonEstop i
        | 3 => e.aonRelease i
        | 4 => e.aonSnapTake i
        | 5 => e.aonSnapClear i
        | 6 => e.aonWdReset i (BitVec.ofNat 8 (fld 23 16 c))
        | 7 => e.aonSetShed i
        | 8 => e.aonReadSnap i
        | _ => e.aonOp i [eRSVD] fun d => d) := by
  rw [Dev.aonDo_reach h]
  unfold Dev.aonCmd
  refine ⟨_, Frame.trans Dev.setAonPort_frame Dev.setAonPort_frame, ?_, ?_, ?_, ?_, ?_, ?_, ?_, rfl⟩
  · rw [Dev.aonPort_setAonPort]
  · rintro w rfl; rw [Dev.aonPort_setAonPort, Dev.aonPort_setAonPort]
  all_goals cases i <;> rfl

theorem Dev.snapTake_facts {d : Dev} {c : Nat} (h1 : d.aon.valid = false) (h2 : d.aon.busy = false) :
    (d.snapTake c).aon.busy = true ∧ (d.snapTake c).aon.valid = false ∧ (d.snapTake c).aon.cause = c ∧
      (d.snapTake c).aon.taken = d.aon.taken + 1 ∧ (d.snapTake c).aon.cap = d.aon.cap ∧ (d.snapTake c).aon.i3c = d.aon.i3c := by
  unfold Dev.snapTake
  rw [h1, h2]
  have ha : (d.freshWords 8).2.aon = d.aon := Frame.aon_eq Dev.freshWords_frame (by decide) (by decide)
  rw [if_neg (by decide)]
  generalize d.freshWords 8 = r at *
  obtain ⟨w, e⟩ := r
  have ha : e.aon = d.aon := ha
  refine ⟨rfl, ?_, rfl, ?_, ?_, ?_⟩ <;> simp [ha, h1]

theorem Dev.broughtUp_facts (d : Dev) : d.broughtUp.sys.state = .ready ∧ d.broughtUp.boot.step = 6 ∧
    d.broughtUp.boot.wdStage = false := by
  unfold Dev.broughtUp
  dsimp only
  rw [Frame.state_eq Dev.payOwed_frame (by decide), Frame.boot_eq Dev.payOwed_frame (by decide),
    Frame.state_eq Dev.raise_frame (by decide), Frame.boot_eq Dev.raise_frame (by decide), Dev.setState_state,
    Frame.boot_eq Dev.setState_frame (by decide)]
  exact ⟨rfl, rfl, rfl⟩

theorem Dev.watchdogExpire_stage1 {d : Dev} (h1 : d.wdDue = true) (h2 : d.sys.state.booted = true)
    (h3 : d.sys.state ≠ .recovery) (h4 : d.retainedOk = true) : d.watchdogExpire.sys.state = .recovery ∧
    d.watchdogExpire.boot.rstCause = 6 ∧ (d.hat.due = [] → d.watchdogExpire.mem = d.mem) := by
  unfold Dev.watchdogExpire
  rw [if_neg (by simp [h1, h2]), if_neg h3]
  have f : Frame [.aon, .free] d (if d.aon.autoWdog then d.snapTake 2 else d) := Frame.ite Dev.snapTake_frame (Frame.refl _ _)
  generalize (if d.aon.autoWdog then d.snapTake 2 else d) = e at *
  have hb : e.sys.state.booted = true := by rw [f.state_eq (by decide)]; exact h2
  have hm : e.memServes = d.memServes := by
    unfold Dev.memServes; rw [f.mctl_eq (by decide)]
  have hr : e.retainedOk = true := by
    rw [← h4]; unfold Dev.retainedOk; rw [hm, f.boot_eq (by decide)]
  obtain ⟨a, b, c⟩ := Dev.mladefReset_facts (c := 6) hb hr
  exact ⟨a, b, fun h => (c (by rw [f.hat_eq (by decide)]; exact h)).trans (f.mem_eq (by decide))⟩

theorem Dev.booting_facts (d : Dev) (pll : Bool) : (d.booting pll).sys.state = .booting ∧ (d.booting pll).boot.cause = d.boot.cause ∧
    (d.booting pll).boot.wdEn = true ∧ (d.booting pll).boot.wdStart = d.time.loc ∧ (d.booting pll).boot.fatal = pll := by
  unfold Dev.booting
  extract_lets s1 d1 d2 d3 s3 d4
  have h1 : d1.boot.cause = d.boot.cause ∧ d1.boot.wdEn = true ∧ d1.boot.wdStart = d.time.loc ∧ d1.boot.fatal = pll :=
    ⟨rfl, rfl, rfl, rfl⟩
  clear_value d1
  have h2 : d2.sys.state = .booting ∧ d2.boot = d1.boot := ⟨Dev.setState_state _ _, Frame.boot_eq Dev.setState_frame (by decide)⟩
  clear_value d2
  have g : Frame [.hdr] d2 d3 := Frame.foldl (Frame.refl _ _) fun e a h => h.next Dev.startPage_frame (by decide)
  clear_value d3
  have h3 : d4.sys.state = d2.sys.state ∧ d4.boot = d2.boot := by
    simp only [d4]
    split
    · exact ⟨rfl, rfl⟩
    · exact ⟨g.state_eq (by decide), g.boot_eq (by decide)⟩
  clear_value d4
  rw [Frame.state_eq Dev.payOwed_frame (by decide), Frame.boot_eq Dev.payOwed_frame (by decide), h3.1, h3.2, h2.1, h2.2]
  exact ⟨rfl, h1⟩

theorem Dev.memoryTrainingDone_facts {d : Dev} {failed bad quires lanes : List Nat} {sram : Bool}
    (h : ¬ (d.sys.state ≠ .booting ∨ d.boot.step ≠ 2 ∨ d.boot.fatal ∨ 5 ≤ d.pwr.level ∨ d.boot.perstLow)) :
    (d.memoryTrainingDone failed bad quires lanes sram).boot.step = (if sram then 3 else 5) ∧
    (d.memoryTrainingDone failed bad quires lanes sram).boot.fatal = sram ∧
    (d.memoryTrainingDone failed bad quires lanes sram).boot.step5At = d.time.loc := by
  unfold Dev.memoryTrainingDone
  rw [if_neg h]
  extract_lets gen d1 d2 d3 d4 q fails b
  have l4 : d4.time.loc = d.time.loc := by
    have f1 : Frame [.hdr] d d1 :=
      Frame.foldl (Frame.refl _ _) fun e a h => Frame.ite h (h.next Dev.startPage_frame (by decide))
    clear_value d1
    have f2 : d2.time.loc = d1.time.loc := by
      simp only [d2]
      rw [Frame.loc_eq Dev.hatSelftest_frame (by decide), Frame.loc_eq Dev.trainingDone_frame (by decide)]
    clear_value d2
    have f3 : Frame [.plt, .mem] d2 d3 := Dev.fmapOnce_frame
    clear_value d3
    have f4 : Frame [.pba, .pirq, .live, .out, .time, .lnb] d3 d4 :=
      Frame.foldl (Frame.refl _ _) fun e a h => h.next Dev.laneTested_frame (by decide)
    rw [f4.loc_eq (by decide), f3.loc_eq (by decide), f2, f1.loc_eq (by decide)]
  exact ⟨rfl, rfl, l4⟩

/-- The word that WDOG_FIRE writes. -/
theorem wdogFire_word (x : BitVec 16) : (bit 31 true ||| x.setWidth 32).toNat = 2 ^ 31 + x.toNat := by
  have h : (bit 31 true : Word).toNat = 2 ^ 31 * 1 := by decide
  have hx : (x.setWidth 32).toNat = x.toNat := by simp; omega
  have hl := x.isLt
  rw [BitVec.toNat_or, h, hx, ← Nat.two_pow_add_eq_or_of_lt (by omega), Nat.mul_one]

theorem Dev.wdogFire_write {d : Dev} (h1 : 100 ≤ d.boot.wdTimeout.toNat) (h2 : d.boot.wdTimeout.toNat ≤ 60000) :
    d.wdogWrite (bit 31 true ||| d.boot.wdTimeout.setWidth 32) =
      ({ d with boot.wdTimeout := (bit 31 true ||| d.boot.wdTimeout.setWidth 32).setWidth 16 } : Dev).moduleReset 8 := by
  have hw := wdogFire_word d.boot.wdTimeout
  have hb : bitAt 31 (bit 31 true ||| d.boot.wdTimeout.setWidth 32) = true := by
    unfold bitAt; rw [BitVec.getLsbD_or]; simp [show (bit 31 true : Word).getLsbD 31 = true by decide]
  generalize (bit 31 true ||| d.boot.wdTimeout.setWidth 32) = v at *
  unfold Dev.wdogWrite
  have f1 : fld 15 0 v = d.boot.wdTimeout.toNat := by unfold fld; rw [hw]; simp; omega
  have f2 : fld 30 18 v = 0 := by unfold fld; rw [hw]; simp [Nat.shiftRight_eq_div_pow]; omega
  rw [f1, f2, Dev.guard_ok (by decide) (by simp; omega)]
  dsimp only
  rw [hb]; rfl

theorem Dev.estopEnd_facts {d : Dev} (h1 : d.aon.estop.landLow = false) (h2 : d.aon.estop.active = true) :
    d.estopEnd.aon.estop = {} := by
  unfold Dev.estopEnd
  rw [if_pos h2, Frame.estop_eq Dev.txRestart_frame (by decide), Frame.estop_eq Dev.egClear_frame (by decide)]
  generalize d.aon.estop = e at *
  cases e; simp_all

theorem Dev.snapErrs_take {d : Dev} {c : Bool} (h : d.snapErrs true c = []) : d.aon.valid = false ∧ d.aon.busy = false := by
  revert h; unfold Dev.snapErrs; cases d.aon.valid <;> cases d.aon.busy <;> simp [when']

/-- A host level takes effect at once where it raises the effective level (R483). -/
theorem Dev.hostLevel_facts (d : Dev) (k : Nat) : (d.hostLevel k).pwr.host = k ∧ k ≤ (d.hostLevel k).pwr.level := by
  unfold Dev.hostLevel
  have h := fun e : Dev => e.levelNow_facts
  rw [(h _).1, (h _).2.1]
  refine ⟨rfl, ?_⟩
  exact Nat.le_trans (Nat.le_trans (Nat.le_max_right _ _) (Nat.le_max_right _ _)) (Nat.le_max_right _ _)

/-- Every word of an always-on page is read where the operation names the page (R561). -/
theorem Dev.aonRead_facts {d : Dev} {i : Bool} {p : Nat} (h : pageAlwaysOn p = true) :
    ((d.aonRead i p).aonPort i).result = eOK ∧ ((d.aonRead i p).aonPort i).addr = (d.aonPort i).addr ∧
      ((d.aonRead i p).aonPort i).data = d.readReg (portMaster i) p ((d.aonPort i).addr.toNat * 4) := by
  unfold Dev.aonRead
  rw [Dev.aonOp_ok (by simp [h, when'])]
  dsimp only
  rw [Dev.aonResult_port, Dev.aonPort_setAonPort]
  refine ⟨rfl, ?_, rfl⟩
  dsimp only
  split
  · have f := d.sfnRead_frame (m := portMaster i) (o := (d.aonPort i).addr.toNat * 4)
    generalize d.sfnRead (portMaster i) ((d.aonPort i).addr.toNat * 4) = e at *
    unfold Dev.aonPort; rw [f.aon_eq (by decide) (by decide)]
  · rfl

end Sys2Proof.Machine
end

