-- ==== Sys2Proof/Laws/FactsPwr.lean ====
section
/-! SUPPORT. What supplies, temperature and shedding do, one lemma per operation. -/

namespace Sys2Proof.Machine

theorem Dev.settle_aon {d : Dev} (h : d.mctl.snapDue = false) : d.settle.aon = d.aon := by
  unfold Dev.settle
  rw [h]
  exact Frame.aon_eq Dev.pairSync_frame (by decide) (by decide)

theorem Dev.shedFall_facts {d : Dev} {t k} (h1 : d.pwr.belowAt = some t) (h2 : 10000000 ≤ (d.time.loc - t).toNat)
    (h3 : d.pwr.level = k + 1) : d.shedFall.pwr.level = k ∧ d.shedFall.pwr.supply = d.pwr.supply := by
  unfold Dev.shedFall
  extract_lets k'
  have hk : k' = k := by simp only [k', h3]; omega
  clear_value k'
  subst hk
  rw [h1]
  dsimp only
  rw [if_neg (by omega)]
  rename_i d1 s2 d2 d3 d4 s5 d5
  have e1 : d1.pwr.level = k' ∧ d1.pwr.supply = d.pwr.supply := by
    simp only [d1]
    unfold Dev.setLevel Dev.usLevel Dev.bump PwrSt.supply
    dsimp only
    split <;> exact ⟨rfl, rfl⟩
  have e2 : d2.pwr.level = k' ∧ d2.pwr.supply = d.pwr.supply := e1
  have e3 : d3.pwr = d2.pwr := by
    simp only [d3]; split
    · exact Frame.pwr_eq Dev.leaveS6_frame (by decide)
    split
    · exact Frame.pwr_eq Dev.leaveS5_frame (by decide)
    split
    · exact Frame.pwr_eq Dev.leaveS4_frame (by decide)
    · rfl
  have e4 : d4.pwr = d3.pwr := by
    simp only [d4]; split
    · exact Frame.pwr_eq Dev.coresRecover_frame (by decide)
    · rfl
  have e5 : d5.pwr.level = d4.pwr.level ∧ d5.pwr.supply = d4.pwr.supply := by
    simp only [d5]; split <;> exact ⟨rfl, rfl⟩
  clear_value d5 d4 d3 d2 d1
  rw [Frame.pwr_eq Dev.raise_frame (by decide), e5.1, e5.2, e4, e3]
  exact e2

theorem Dev.shedFallAll_facts {d : Dev} {t k} (h1 : d.pwr.belowAt = some t) (h2 : 10000000 ≤ (d.time.loc - t).toNat)
    (h3 : d.pwr.level = k + 1) : d.shedFallAll.pwr.level = k ∧ d.shedFallAll.pwr.supply = d.pwr.supply := by
  unfold Dev.shedFallAll
  rw [Frame.pwr_eq Dev.drainCheck_frame (by decide)]
  exact Dev.shedFall_facts h1 h2 h3

theorem Dev.islandsLost_facts (d : Dev) (c r : Nat) (k : Bool) : (d.islandsLost c r k).boot = d.boot.afterReset c r ∧
    (d.islandsLost c r k).aon = d.aon ∧ (d.islandsLost c r k).sys.state = d.sys.state := by
  obtain ⟨_, _, hb, h4⟩ := d.landsLow_emits
  unfold Dev.islandsLost
  refine ⟨?_, ?_, ?_⟩
  · show d.landsLow.boot.afterReset c r = _
    rw [hb]
  · show d.landsLow.aon = _
    rw [h4]
  · have hs : d.landsLow.sys.state = d.sys.state := Frame.state_eq d.landsLow_frame (by decide)
    exact hs

theorem Dev.resumingBoundary_facts {d : Dev} {b} (h1 : d.bmf.stopped = true) (h2 : d.bmf.resumeAt = some b)
    (h3 : atOrAfter d.time.sfn b = true) (h4 : d.pwr.portsAt = some b) : d.resumingBoundary.bmf.stopped = false ∧
      d.resumingBoundary.bmf.resumeAt = none ∧ d.resumingBoundary.pwr.portsAt = none := by
  unfold Dev.resumingBoundary
  extract_lets d1 s2 d2
  have e1 : d1.bmf.stopped = false ∧ d1.bmf.resumeAt = none ∧ d1.pwr = d.pwr ∧ d1.time = d.time := by
    simp only [d1]
    refine ⟨?_, ?_, Frame.pwr_eq Dev.beamsBack_frame (by decide), Frame.time_eq Dev.beamsBack_frame (by decide) (by decide)⟩
    all_goals
      unfold Dev.beamsBack
      extract_lets past s0 x1 s1 x2 s2 x3 s3
      have y1 : x1.bmf.stopped = false ∧ x1.bmf.resumeAt = none := by
        simp only [x1]; rw [if_pos (by simp [past, h1, h2, h3])]; exact ⟨rfl, rfl⟩
      have y2 : x2.bmf = x1.bmf := by
        simp only [x2]; split <;> rfl
      have y3 : x3.bmf.stopped = x2.bmf.stopped ∧ x3.bmf.resumeAt = x2.bmf.resumeAt := by
        simp only [x3]; split <;> exact ⟨rfl, rfl⟩
      clear_value x3 x2 x1
      split
      · first | exact (y3.1.trans (by rw [y2])).trans y1.1 | exact (y3.2.trans (by rw [y2])).trans y1.2
      · first | exact (y3.1.trans (by rw [y2])).trans y1.1 | exact (y3.2.trans (by rw [y2])).trans y1.2
  have e2 : d2.bmf = d1.bmf ∧ d2.pwr.portsAt = none := by
    clear_value d1
    simp only [d2]
    rw [e1.2.2.1, h4]
    dsimp only
    rw [e1.2.2.2, if_pos h3, Frame.bmf_eq Dev.mspResume_frame (by decide), Frame.pwr_eq Dev.mspResume_frame (by decide)]
    exact ⟨rfl, rfl⟩
  clear_value d2 d1
  have f : Frame [.pba, .pirq, .live, .out, .bur] d2 ((List.range 64).foldl (fun d c => d.burResume c) d2) :=
    Frame.foldl (Frame.refl _ _) fun e _ k => k.trans Dev.burResume_frame
  rw [Frame.bmf_eq f (by decide), Frame.pwr_eq f (by decide), e2.1]
  exact ⟨e1.1, e1.2.1, e2.2⟩

end Sys2Proof.Machine
end

