-- ==== Sys2Proof/Laws/FactsMem.lean ====
section
/-! SUPPORT. What the memory controller does, one lemma per operation. -/

namespace Sys2Proof.Machine

theorem Dev.perr_page (d : Dev) (p : Nat) (c : Code) (o : Nat) : ((d.perr p c o).page p).perr = (d.page p).perr.record c (o / 4) := by
  unfold Dev.perr Dev.modPage
  rw [Dev.page_setPage, if_pos rfl]

theorem Dev.freezeRecord_mctl (d : Dev) (c : Nat) (a : BitVec 38) (l y : Word) (m : Bool) :
    (d.freezeRecord c a l y m).mctl = { d.mctl with
      mstat := .frozen, snapDue := true, thawWait := false
      frz := { d.mctl.frz with cause := c, multi := m, addr := a, loc := l, syn := y, time := d.time.arr } } := by
  unfold Dev.freezeRecord
  rw [Frame.mctl_eq Dev.raise_frame (by decide), Frame.mctl_eq Dev.bump_frame (by decide)]

theorem Dev.freeze_facts {d : Dev} {c : Nat} {a : BitVec 38} {l y : Word} {m : Bool} (h1 : freezeState d.sys.state = true)
    (h2 : d.mctl.mstat = .run) (h3 : (d.memPart && c != 5) = false) :
    (d.freeze c a l y m).sys.state = (if d.sys.state = .recovery then .recovery else .frozen) ∧
    (d.freeze c a l y m).mctl = { d.mctl with
      mstat := .frozen, snapDue := true, thawWait := false
      frz := { cause := c, multi := m, addr := a, loc := l, syn := y, time := d.time.arr, prev := d.sys.state } } := by
  unfold Dev.freeze
  rw [if_neg (by rw [h2]; decide), if_neg (by simp [h1, h2, h3])]
  extract_lets s d1 s2 s3 d2 d3
  have e1 : d1.mctl = _ := d.freezeRecord_mctl c a l y m
  have f1 : d1.sys.state = d.sys.state := Frame.state_eq Dev.freezeRecord_frame (by decide)
  have e2 : d2.mctl = { d.mctl with
      mstat := .frozen, snapDue := true, thawWait := false
      frz := { cause := c, multi := m, addr := a, loc := l, syn := y, time := d.time.arr, prev := d.sys.state } } := by
    show { d1.mctl with frz := { d1.mctl.frz with prev := s } } = _
    rw [e1]
  have f2 : d2.sys.state = d.sys.state := f1
  have e3 : d3.mctl = d2.mctl := by
    simp only [d3]; rw [Frame.mctl_eq Dev.accFroze_frame (by decide), Frame.mctl_eq Dev.pltAbort_frame (by decide)]
  have f3 : d3.sys.state = d2.sys.state := by
    simp only [d3]; rw [Frame.state_eq Dev.accFroze_frame (by decide), Frame.state_eq Dev.pltAbort_frame (by decide)]
  have hs : s = d.sys.state := rfl
  clear_value d3 d2 d1 s
  subst hs
  by_cases hr : d.sys.state = .recovery
  · rw [if_pos hr, if_pos hr]
    exact ⟨(f3.trans f2).trans hr, e3.trans e2⟩
  · rw [if_neg hr, if_neg hr, Dev.setState_state, Frame.mctl_eq Dev.setState_frame (by decide)]
    exact ⟨rfl, e3.trans e2⟩

theorem Dev.mchan_setMchan (d : Dev) (c k : Nat) (x : MemChan) : (d.setMchan c x).mchan k = if k = c then x else d.mchan k := by
  unfold Dev.mchan Dev.setMchan
  exact Tab.get_set _ _ _ _ _

theorem Dev.refreshPoll1_other (d : Dev) (n k : Nat) (t h : BitVec 8) (hk : k / 4 ≠ n) :
    (d.refreshPoll1 n t h).2.mchan k = d.mchan k := by
  unfold Dev.refreshPoll1
  dsimp only
  simp only [List.range, List.range.loop, List.foldl_cons, List.foldl_nil, Dev.mchan_setMchan]
  repeat rw [if_neg (by omega)]

theorem Dev.refreshPoll1_own (d : Dev) (n k : Nat) (t h : BitVec 8) (hk : k < 4) :
    ((d.refreshPoll1 n t h).2.mchan (4 * n + k)).temp = t ∧ ((d.refreshPoll1 n t h).2.mchan (4 * n + k)).thr = h ∧
    (h.toInt ≤ t.toInt → ((d.refreshPoll1 n t h).2.mchan (4 * n + k)).refdbl = true) ∧
    (t.toInt ≤ h.toInt - 3 → ((d.refreshPoll1 n t h).2.mchan (4 * n + k)).refdbl = false) := by
  unfold Dev.refreshPoll1
  extract_lets was now
  have n1 : h.toInt ≤ t.toInt → now = true := fun q => by simp only [now]; rw [if_pos q]
  have n2 : t.toInt ≤ h.toInt - 3 → now = false := fun q => by simp only [now]; rw [if_neg (by omega), if_pos q]
  clear_value now was
  dsimp only
  simp only [List.range, List.range.loop, List.foldl_cons, List.foldl_nil, Dev.mchan_setMchan]
  have : k = 0 ∨ k = 1 ∨ k = 2 ∨ k = 3 := by omega
  rcases this with rfl | rfl | rfl | rfl <;>
  · repeat first | rw [if_pos rfl] | rw [if_neg (by omega)]
    exact ⟨rfl, rfl, n1, n2⟩

/-- What the poll leaves in a channel's record of its device. -/
def polled (d : Dev) (l : List ((BitVec 8 × BitVec 8) × Nat)) : Prop :=
  ∀ e ∈ l, ∀ k, k < 4 → (d.mchan (4 * e.2 + k)).temp = e.1.1 ∧ (d.mchan (4 * e.2 + k)).thr = e.1.2 ∧
    (e.1.2.toInt ≤ e.1.1.toInt → (d.mchan (4 * e.2 + k)).refdbl = true) ∧
    (e.1.1.toInt ≤ e.1.2.toInt - 3 → (d.mchan (4 * e.2 + k)).refdbl = false)

theorem Dev.refreshPoll_fold (l : List ((BitVec 8 × BitVec 8) × Nat)) (hl : l.Pairwise fun a b => a.2 ≠ b.2) (r : Bool × Dev) :
    polled (l.foldl (fun (s : Bool × Dev) e => let q := s.2.refreshPoll1 e.2 e.1.1 e.1.2; (s.1 || q.1, q.2)) r).2 l ∧
    ∀ n, (∀ e ∈ l, e.2 ≠ n) → ∀ k, k / 4 = n →
      (l.foldl (fun (s : Bool × Dev) e => let q := s.2.refreshPoll1 e.2 e.1.1 e.1.2; (s.1 || q.1, q.2)) r).2.mchan k = r.2.mchan k := by
  induction l generalizing r with
  | nil => exact ⟨fun _ h => absurd h (by simp), fun _ _ _ _ => rfl⟩
  | cons a l ih =>
    rw [List.pairwise_cons] at hl
    rw [List.foldl_cons]
    obtain ⟨p, q⟩ := ih hl.2 (let q := r.2.refreshPoll1 a.2 a.1.1 a.1.2; (r.1 || q.1, q.2))
    refine ⟨?_, ?_⟩
    · intro e he k hk
      rw [List.mem_cons] at he
      rcases he with rfl | he
      · have hq := q e.2 (fun x hx => (hl.1 x hx).symm) (4 * e.2 + k) (by omega)
        rw [hq]
        exact Dev.refreshPoll1_own _ _ _ _ _ hk
      · exact p e he k hk
    · intro n hn k hk
      rw [q n (fun e he => hn e (List.mem_cons_of_mem _ he)) k hk]
      exact Dev.refreshPoll1_other _ _ _ _ _ (by have := hn a (List.mem_cons_self); omega)

/-- A channel's poll record: temperature, threshold, refresh rate. -/
def MemChan.poll (x : MemChan) : BitVec 8 × BitVec 8 × Bool := (x.temp, x.thr, x.refdbl)

theorem Dev.staled_mchan (d : Dev) (p c : Nat) :
    ((d.modPage p fun g => { g with calStale := true }).raise p 0x1).mchan c = d.mchan c := by
  unfold Dev.mchan; rw [Frame.mctl_eq Dev.raise_frame (by decide)]; rfl

theorem Dev.memStale_poll (d : Dev) (c k : Nat) : ((d.memStale c).mchan k).poll = (d.mchan k).poll := by
  unfold Dev.memStale
  extract_lets x p d1
  split
  · rfl
  · rw [Dev.staled_mchan]
    simp only [d1, Dev.mchan_setMchan]
    split
    · next q => rw [q]; rfl
    · rfl

theorem Dev.foldl_poll {f : Dev → Nat → Dev} {k : Nat} (h : ∀ d c, ((f d c).mchan k).poll = (d.mchan k).poll) (l : List Nat) (d : Dev) :
    ((l.foldl f d).mchan k).poll = (d.mchan k).poll := by
  induction l generalizing d with
  | nil => rfl
  | cons a l ih => rw [List.foldl_cons, ih, h]

theorem Dev.memTemps_poll (d : Dev) (k : Nat) : (d.memTemps.mchan k).poll = (d.mchan k).poll := by
  unfold Dev.memTemps
  refine Dev.foldl_poll (fun e c => ?_) _ _
  dsimp only
  split
  · exact Dev.memStale_poll _ _ _
  · rfl

theorem Dev.refreshPoll_facts {d : Dev} {l : List (BitVec 8 × BitVec 8)} (h : d.mctl.mstat = .run) {n : Nat} (hn : n < 10)
    {t h' : BitVec 8} (hl : l[n]? = some (t, h')) {k : Nat} (hk : k < 4) :
    ((d.refreshPoll l).mchan (4 * n + k)).temp = t ∧ ((d.refreshPoll l).mchan (4 * n + k)).thr = h' ∧
      (h'.toInt ≤ t.toInt → ((d.refreshPoll l).mchan (4 * n + k)).refdbl = true) ∧
      (t.toInt ≤ h'.toInt - 3 → ((d.refreshPoll l).mchan (4 * n + k)).refdbl = false) := by
  have key : ∃ e : Dev, polled e ((l.take 10).zipIdx) ∧ ((d.refreshPoll l).mchan (4 * n + k)).poll = (e.mchan (4 * n + k)).poll := by
    unfold Dev.refreshPoll
    rw [if_neg (by rw [h]; decide)]
    extract_lets any d1 r d2
    refine ⟨r.2, (Dev.refreshPoll_fold _ ?_ (false, d1)).1, ?_⟩
    · rw [List.pairwise_iff_getElem]
      intro i j hi hj hij
      simp
      omega
    · rw [Dev.memTemps_poll]
      have : d2.mctl = r.2.mctl := by
        simp only [d2]; split
        · exact Frame.mctl_eq Dev.raise_frame (by decide)
        · rfl
      clear_value d2
      unfold Dev.mchan
      rw [this]
  obtain ⟨e, hp, he⟩ := key
  have := hp ((t, h'), n) (by
    rw [List.mem_zipIdx_iff_getElem?]
    rw [List.getElem?_take_of_lt hn]; exact hl) k hk
  simp only [MemChan.poll, Prod.mk.injEq] at he
  obtain ⟨a, b, c⟩ := he
  rw [a, b, c]
  exact this

theorem Dev.memStale_track (d : Dev) (c : Nat) : ((d.memStale c).mchan c).track0 = (d.mchan c).track0 ∧
    ((d.memStale c).mchan c).track1 = (d.mchan c).track1 ∧ ((d.mchan c).trained = true → ((d.memStale c).mchan c).stale = true) := by
  unfold Dev.memStale
  extract_lets x p d1
  by_cases hc : (x.stale || !x.trained) = true
  · rw [if_pos hc]
    refine ⟨rfl, rfl, fun ht => ?_⟩
    have : x.trained = true := ht
    simp [this] at hc
    exact hc
  · rw [if_neg hc, Dev.staled_mchan]
    simp only [d1, Dev.mchan_setMchan, if_true]
    exact ⟨rfl, rfl, fun _ => trivial⟩

theorem Dev.memTrack_facts {d : Dev} {c : Nat} {t0 t1 : BitVec 8} (h : d.mctl.mstat = .run) :
    ((d.memTrack c t0 t1).mchan c).track0 = t0 ∧ ((d.memTrack c t0 t1).mchan c).track1 = t1 ∧
      ((d.mchan c).trained = true → 16 ≤ t0.toInt.natAbs → ((d.memTrack c t0 t1).mchan c).stale = true) := by
  unfold Dev.memTrack
  rw [if_neg (by rw [h]; decide)]
  extract_lets s1 d1
  have e1 : d1.mchan c = { d.mchan c with track0 := t0, track1 := t1 } := by
    simp only [d1, s1, Dev.mchan_setMchan, if_true]
  clear_value d1
  split
  · obtain ⟨a, b, g⟩ := d1.memStale_track c
    rw [a, b, e1]
    exact ⟨rfl, rfl, fun ht _ => g (by rw [e1]; exact ht)⟩
  · next q =>
    rw [e1]
    exact ⟨rfl, rfl, fun _ h16 => absurd (Or.inl h16) q⟩

theorem Dev.trained_none (d : Dev) : (d.trained []).boot.memFail = 0 ∧ (d.trained []).mctl.trainStep = 0 ∧ (d.trained []).mctl.trainPct = 0 := by
  unfold Dev.trained
  extract_lets d1 d2
  refine ⟨?_, rfl, rfl⟩
  have e2 : d2.mctl = d1.mctl := by
    simp only [d2]
    have : ∀ (l : List Nat) (e : Dev), (l.foldl (fun d k => d.modPage (pgMEMG + k) fun g => { g with calStale := false }) e).mctl = e.mctl := by
      intro l; induction l with
      | nil => exact fun _ => rfl
      | cons a l ih => intro e; rw [List.foldl_cons, ih]; rfl
    exact this _ _
  have e1 : ∀ c, c < 40 → (d1.mchan c).failed = false := by
    simp only [d1]
    have : ∀ (l : List Nat) (e : Dev) (c : Nat), (c ∈ l ∨ (e.mchan c).failed = false) → ((l.foldl (fun (d : Dev) (c : Nat) =>
        let x := d.mchan c
        if ([] : List Nat).contains c then
          let d := d.setMchan c { x with failed := true, trained := false, stale := false }
          (List.range 32).foldl (fun d b => d.exclude { chan := c, bank := b, row := 0, count := 65536 }) d
        else d.setMchan c { x with trained := true, failed := false, stale := false, track0 := 0, track1 := 0,
                                    record := d.trainRecord c }) e).mchan c).failed = false := by
      intro l; induction l with
      | nil => intro e c hc; simpa using hc
      | cons a l ih =>
        intro e c hc
        rw [List.foldl_cons]
        apply ih
        dsimp only
        rw [if_neg (by simp)]
        rw [Dev.mchan_setMchan]
        rcases hc with hc | hc
        · rw [List.mem_cons] at hc
          rcases hc with rfl | hc
          · right; rw [if_pos rfl]
          · left; exact hc
        · right; split
          · rfl
          · exact hc
    intro c hc
    exact this _ _ _ (Or.inl (List.mem_range.2 hc))
  clear_value d2 d1
  show ((List.range 40).filter fun c => (d2.mchan c).failed).length = 0
  rw [List.length_eq_zero_iff, List.filter_eq_nil_iff]
  intro c hc
  have : d2.mchan c = d1.mchan c := by unfold Dev.mchan; rw [e2]
  rw [this, e1 c (List.mem_range.1 hc)]; decide

theorem Dev.exclude_mctl (d : Dev) (x : Excl) : ∃ b, (d.exclude x).mctl = { d.mctl with exclOvf := b } := by
  unfold Dev.exclude
  extract_lets l
  split
  · exact ⟨_, rfl⟩
  split
  · refine ⟨true, ?_⟩
    rw [Frame.mctl_eq Dev.raise_frame (by decide), Frame.mctl_eq Dev.logEvent_frame (by decide)]
  · refine ⟨d.mctl.exclOvf, ?_⟩
    rw [Frame.mctl_eq Dev.raise_frame (by decide), Frame.mctl_eq Dev.fmapChanged_frame (by decide)]

theorem Dev.drainCheck_not {d : Dev} (h : d.sys.state ≠ .draining) : d.drainCheck = d := by
  unfold Dev.drainCheck; rw [if_neg (fun c => h c.1)]

theorem Dev.thawCheckDone_idle {d : Dev} {a y still} (h1 : d.mctl.mstat = .thawing) (h2 : d.pwr.level < 5)
    (h3 : d.mctl.frz.prev = .idle) : (d.thawCheckDone false a y still).sys.state = .idle ∧
      (d.thawCheckDone false a y still).mctl.mstat = .run ∧ (d.thawCheckDone false a y still).mctl.frz = d.mctl.frz := by
  unfold Dev.thawCheckDone
  rw [if_neg (by simp [h1]; omega), if_neg (by decide)]
  extract_lets f a' ue d1 s2 s3 s4 s5 d2 open_ d3 d4
  have e1 : d1.mctl.frz = f := by
    simp only [d1]; split
    · obtain ⟨b, hb⟩ := d.exclude_mctl { chan := memChan a', bank := memBank (memLocal a'), row := memRow (memLocal a'), count := 1 }
      unfold Dev.excludeAt
      rw [hb]
    · rfl
  have ho : open_ = false := by
    simp only [open_, f, h3]; decide
  have e2 : d2.mctl.mstat = .run ∧ d2.mctl.frz = f := ⟨rfl, e1⟩
  clear_value d2
  have e3 : d3 = d2 := by simp only [d3]; rw [if_neg (by rw [ho]; decide)]
  rw [if_neg (by rw [ho]; decide)]
  simp only [d4]
  rw [Frame.state_eq Dev.egLost_frame (by decide), Frame.mctl_eq Dev.egLost_frame (by decide), Dev.setState_state,
    Frame.mctl_eq Dev.setState_frame (by decide), e3]
  refine ⟨?_, e2.1, e2.2⟩
  show Dev.afterFreeze _ f.prev = _
  unfold Dev.afterFreeze
  simp only [f, h3]
  rw [if_neg (by decide)]

theorem Dev.thawDone_idle {d : Dev} {a y still} (h1 : d.mctl.mstat = .thawing) (h2 : d.pwr.level < 5)
    (h3 : d.mctl.frz.prev = .idle) (h4 : d.run.live = false) : (d.thawDone false a y still).sys.state = .idle ∧
      (d.thawDone false a y still).mctl.mstat = .run ∧ (d.thawDone false a y still).mctl.frz = d.mctl.frz := by
  obtain ⟨p, q, r⟩ := Dev.thawCheckDone_idle (a := a) (y := y) (still := still) h1 h2 h3
  have hr : (d.thawCheckDone false a y still).run = d.run := Frame.run_eq Dev.thawCheckDone_frame (by decide)
  unfold Dev.thawDone
  extract_lets d1 d2
  have e2 : d2 = d1 := by
    simp only [d2]
    split
    · rw [if_neg (by simp only [d1]; rw [p]; decide)]
    · rfl
  have l2 : d2.run.live = false := by rw [e2]; show (d.thawCheckDone false a y still).run.live = _; rw [hr, h4]
  have p2 : d2.sys.state = .idle := by rw [e2]; exact p
  rw [if_neg (by rw [l2]; simp), Dev.drainCheck_not (by rw [p2]; decide), e2]
  exact ⟨p, q, r⟩

theorem Dev.thawCheckDone_recur {d : Dev} {a y still} (h1 : d.mctl.mstat = .thawing) (h2 : d.pwr.level < 5) :
    (d.thawCheckDone true a y still).sys.state = d.sys.state ∧ (d.thawCheckDone true a y still).mctl.mstat = .frozen ∧
      (d.thawCheckDone true a y still).mctl.frz.cause = 4 ∧
      ((d.thawCheckDone true a y still).page pgMEMC).perr = (d.page pgMEMC).perr.record 0x10 (0x100C / 4) := by
  unfold Dev.thawCheckDone
  rw [if_neg (by simp [h1]; omega), if_pos rfl]
  dsimp only
  have hm := d.freezeRecord_mctl 4 a (memLoc a.toNat) y false
  have hs : (d.freezeRecord 4 a (memLoc a.toNat) y false).sys.state = _ := Frame.state_eq Dev.freezeRecord_frame (by decide)
  have hp : ((d.freezeRecord 4 a (memLoc a.toNat) y false).page pgMEMC).perr = _ := Frame.perr_eq Dev.freezeRecord_frame (by decide) pgMEMC
  revert hm hs hp
  generalize d.freezeRecord 4 a (memLoc a.toNat) y false = d1
  intro hm hs hp
  rw [Frame.state_eq Dev.logErr_frame (by decide), Frame.mctl_eq Dev.logErr_frame (by decide), Frame.perr_eq Dev.logErr_frame (by decide),
    Frame.state_eq Dev.perr_frame (by decide), Frame.mctl_eq Dev.perr_frame (by decide), hm, hs]
  refine ⟨rfl, rfl, rfl, ?_⟩
  rw [← hp]
  exact Dev.perr_page _ _ _ _

theorem Dev.thawDone_recur {d : Dev} {a y still} (h1 : d.mctl.mstat = .thawing) (h2 : d.pwr.level < 5)
    (h3 : d.sys.state = .frozen) : (d.thawDone true a y still).sys.state = .frozen ∧
      (d.thawDone true a y still).mctl.mstat = .frozen ∧ (d.thawDone true a y still).mctl.frz.cause = 4 ∧
      ((d.thawDone true a y still).page pgMEMC).perr = (d.page pgMEMC).perr.record 0x10 (0x100C / 4) := by
  obtain ⟨p, q⟩ := Dev.thawCheckDone_recur (a := a) (y := y) (still := still) h1 h2
  rw [h3] at p
  unfold Dev.thawDone
  extract_lets d1 d2
  have e2 : d2 = d1 := by
    simp only [d2]
    split
    · rw [if_neg (by simp only [d1]; rw [p]; decide)]
    · rfl
  have p2 : d2.sys.state = .frozen := by rw [e2]; exact p
  rw [if_neg (by rw [p2]; simp), Dev.drainCheck_not (by rw [p2]; decide), e2]
  exact ⟨p, q⟩

theorem Dev.patrolScrub_clean {d : Dev} (h1 : d.mctl.mstat = .run) (h2 : bitAt 8 (d.reg (bar pgMEMC 0x1030)) = true)
    (h3 : d.mctl.bad = []) (h4 : d.mctl.scrub + 1 < scrubLen) (h5 : d.memPart = false) :
    (d.patrolScrub []).mctl = { d.mctl with scrub := d.mctl.scrub + 1 } := by
  unfold Dev.patrolScrub
  rw [if_neg (by simp [h1, h2, h5])]
  extract_lets d1 n d2
  have e1 : d1 = d := by
    simp only [d1]
    have hc : ∀ a, d.scrubChan a 0 = d := by
      intro a
      unfold Dev.scrubChan
      dsimp only
      rw [show d.badAcc (memDevAddr a (32 * d.mctl.scrub) / 32) = {} by unfold Dev.badAcc; rw [h3]; rfl]
      rfl
    have : ∀ l : List Nat, l.foldl (fun d c => d.scrubChan c 0) d = d := by
      intro l; induction l with
      | nil => rfl
      | cons a l ih => rw [List.foldl_cons, hc]; exact ih
    exact this _
  have hn : n = d.mctl.scrub + 1 := by simp only [n]; rw [e1]
  have e2 : d2.mctl = d1.mctl := by
    clear_value d1
    simp only [d2]; split
    · exact Frame.mctl_eq Dev.bump_frame (by decide)
    · rfl
  clear_value d2 n d1
  subst e1 hn
  rw [if_neg (by rw [h1]; decide), if_neg (by omega)]
  exact congrArg (fun m : MctlSt => { m with scrub := d1.mctl.scrub + 1 }) e2

theorem Dev.laneTested_before (l lanes : List Nat) (d : Dev) :
    (l.foldl (fun d n => d.laneTested n (lanes.contains n)) d).sys.before = d.sys.before := by
  have f : Frame _ d (l.foldl (fun d n => d.laneTested n (lanes.contains n)) d) :=
    Frame.foldl (Frame.refl _ _) fun e _ k => k.trans Dev.laneTested_frame
  exact Frame.before_eq f (by decide)

end Sys2Proof.Machine
end

