-- ==== Sys2Proof/Laws/FactsLane.lean ====
section
/-! SUPPORT. What the lanes do, one lemma per operation. -/

namespace Sys2Proof.Machine

theorem Dev.lane_setLane (d : Dev) (n k : Nat) (x : Lane) : (d.setLane n x).lane k = if k = n then x else d.lane k := by
  unfold Dev.lane Dev.setLane
  exact Tab.get_set _ _ _ _ _

theorem Dev.lane_set (d : Dev) (n : Nat) (x : Lane) : (d.setLane n x).lane n = x := by rw [Dev.lane_setLane, if_pos rfl]

theorem Dev.lane_of {d e : Dev} (h : e.lnb = d.lnb) (n : Nat) : e.lane n = d.lane n := by unfold Dev.lane; rw [h]

theorem Frame.lane_eq {T : List Part} {d e : Dev} (h : Frame T d e) (hp : Part.lnb ∉ T) (n : Nat) : e.lane n = d.lane n :=
  Dev.lane_of (Frame.lnb_eq h hp) n

theorem Dev.mapErrSweep_own (d : Dev) (n : Nat) : (d.mapErrSweep n).lane n = d.lane n := by
  unfold Dev.mapErrSweep
  have : ∀ (l : List Nat), (∀ m ∈ l, m ≠ n) → ∀ d : Dev, (l.foldl (fun d m =>
    let x := d.lane m
    if x.maperr && !d.quadTaken m x.qidx.toNat then d.setLane m { x with maperr := false } else d) d).lane n = d.lane n := by
    intro l
    induction l with
    | nil => exact fun _ _ => rfl
    | cons a l ih =>
      intro h d
      rw [List.foldl_cons, ih fun m hm => h m (List.mem_cons_of_mem _ hm)]
      dsimp only
      split
      · rw [Dev.lane_setLane, if_neg (h a List.mem_cons_self).symm]
      · rfl
  exact this _ (by intro m hm; unfold quadMates at hm; rw [List.mem_filter] at hm; simpa using hm.2) d

theorem Dev.laneDrop_lane (d : Dev) (n : Nat) (x : Lane) : (d.laneDrop n x).lane n =
    { x with logvalid := false, remap := false, maperr := false, good := 0, missed := 0, resync := false, mseq := none } := by
  unfold Dev.laneDrop
  extract_lets was d1 d2
  have e1 : d1.lane n = { x with logvalid := false, remap := false, maperr := false, good := 0, missed := 0, resync := false, mseq := none } :=
    Dev.lane_set _ _ _
  have e2 : d2.lane n = d1.lane n := by
    clear_value d1
    simp only [d2]
    rw [Dev.mapErrSweep_own, Frame.lane_eq Dev.raise_frame (by decide), Frame.lane_eq Dev.laneCnt_frame (by decide)]
  clear_value d2
  split
  · rw [Frame.lane_eq Dev.masters_frame (by decide), e2, e1]
  · exact e1

theorem Dev.markerLock_lane {d : Dev} {n : Nat} {x : Lane} (h : d.quadTaken n x.qidx.toNat = false) :
    (d.markerLock n x).lane n = { x with
      state := .up, logvalid := true, logic := BitVec.ofNat 8 (n / 4 * 4 + x.qidx.toNat),
      remap := decide (x.qidx.toNat ≠ n % 4), maperr := false, missed := 0, resync := false } := by
  unfold Dev.markerLock
  extract_lets j p
  rw [if_neg (by show ¬ d.quadTaken n x.qidx.toNat = true; simp [h])]
  rename_i rm d2 d3
  have e2 : d2.lane n = { x with
      state := .up, logvalid := true, logic := BitVec.ofNat 8 (n / 4 * 4 + x.qidx.toNat),
      remap := decide (x.qidx.toNat ≠ n % 4), maperr := false, missed := 0, resync := false } := Dev.lane_set _ _ _
  have e3 : d3.lane n = d2.lane n := by
    clear_value d2
    simp only [d3]; split
    · exact Frame.lane_eq Dev.bump_frame (by decide) n
    · rfl
  clear_value d3
  rw [Frame.lane_eq Dev.masters_frame (by decide), Frame.lane_eq Dev.raise_frame (by decide), e3, e2]

theorem Dev.sendFrame_facts {d : Dev} {n : Nat} {f : List Byte} (h : d.txOn n = true) :
    (d.sendFrame n f).sys.out = .frame n f :: d.sys.out ∧ (d.sendFrame n f).lane n = { d.lane n with txAt := d.time.loc } ∧
      (d.sendFrame n f).lnb.fwd = d.lnb.fwd := by
  unfold Dev.sendFrame
  rw [if_pos h]
  have f : ∀ x : Dev, Frame [.live] x (x.laneCnt n 0x38) := fun x => Dev.laneCnt_frame
  rw [Frame.out_eq (f _) (by decide), Frame.lane_eq (f _) (by decide), Frame.lnb_eq (f _) (by decide)]
  exact ⟨rfl, Dev.lane_set _ _ _, rfl⟩

theorem Dev.passFrame_facts {d : Dev} {n : Nat} {f : List Byte} (h : bitAt 3 (d.reg (laneAddr n 0)) = false) :
    (d.passFrame n f).lane n = d.lane n ∧ (d.passFrame n f).lnb.inbox =
      (if d.roleAt (d.lane n).logic.toNat (widenSfn d.time.sfn (frSfn f)) = 0 then d.lnb.inbox
        else d.lnb.inbox ++ [((d.lane n).logic.toNat, f)]) := by
  unfold Dev.passFrame
  extract_lets l sfn d1
  have e1 : d1 = d := by simp only [d1]; rw [if_neg (by simp [h])]
  clear_value d1
  subst e1
  by_cases hr : d1.roleAt l sfn = 0
  · rw [if_pos hr, if_pos hr, Frame.lane_eq Dev.laneCnt_frame (by decide), Frame.lnb_eq Dev.laneCnt_frame (by decide)]
    exact ⟨rfl, rfl⟩
  · rw [if_neg hr, if_neg hr]
    exact ⟨rfl, rfl⟩

theorem Dev.eyeRefresh_facts {d : Dev} {n : Nat} {eyeH : BitVec 6} {eyeV off : BitVec 8} {ctle : BitVec 4} (h : (d.lane n).state = .up) :
    ((d.eyeRefresh n eyeH eyeV off ctle).lane n).eyeH = eyeH ∧ ((d.eyeRefresh n eyeH eyeV off ctle).lane n).eyeV = eyeV ∧
      ((d.eyeRefresh n eyeH eyeV off ctle).lane n).ctle = ctle ∧
      (16 ≤ off.toInt.natAbs → ((d.eyeRefresh n eyeH eyeV off ctle).lane n).stale = true) := by
  unfold Dev.eyeRefresh
  extract_lets x x' bad d' p
  rw [if_neg (by simp [x, h])]
  have e1 : d'.lane n = { x' with stale := x'.stale || bad } := Dev.lane_set _ _ _
  have e2 : x'.eyeH = eyeH ∧ x'.eyeV = eyeV ∧ x'.ctle = ctle := ⟨rfl, rfl, rfl⟩
  have e3 : 16 ≤ off.toInt.natAbs → bad = true := by intro h; simp [bad, h]
  clear_value bad x' d'
  split
  · rw [Frame.lane_eq Dev.raise_frame (by decide), Frame.lane_eq Dev.bump_frame (by decide)]
    have e4 : (d'.modPage p fun g => { g with calStale := true }).lane n = d'.lane n := rfl
    rw [e4, e1]
    exact ⟨e2.1, e2.2.1, e2.2.2, fun q => by simp [e3 q]⟩
  · rw [e1]
    exact ⟨e2.1, e2.2.1, e2.2.2, fun q => by simp [e3 q]⟩

theorem Dev.forwardFrame_facts {d : Dev} {n : Nat} {fr : List Byte} {rest : List (Nat × List Byte)} (h1 : d.lnb.fwd = (n, fr) :: rest)
    (h2 : d.role n = 1) (h3 : d.mayPublish = true) (h4 : d.pwr.level < 5) (h5 : d.sys.state ≠ .frozen)
    (h6 : d.ing.laneq.getLsbD n = false) (h7 : d.txOn n = true) :
    (d.forwardFrame n).lnb.fwd = rest ∧ (d.forwardFrame n).sys.out =
      .frame n (withTrailer (overlay (fr.take (fr.length - 8)) 20 (leBytes 2 (d.linkTx n)))) :: d.sys.out := by
  unfold Dev.forwardFrame
  rw [h1, List.find?_cons_of_pos (by simp)]
  dsimp only
  rw [List.erase_cons_head]
  have key : ∀ x : Dev, x.role n = 1 → x.mayPublish = true → x.pwr.level < 5 → x.sys.state ≠ .frozen → x.ing.laneq.getLsbD n = false →
      x.txOn n = true → x.lnb.fwd = rest → x.linkTx n = d.linkTx n → x.sys.out = d.sys.out →
      (if (x.role n ≠ 1 || !x.mayPublish || decide (5 ≤ x.pwr.level) || x.sys.state == .frozen || x.ing.laneq.getLsbD n) = true then x
        else x.sendFrame n (withTrailer (overlay (fr.take (fr.length - 8)) 20 (leBytes 2 (x.linkTx n))))).lnb.fwd = rest ∧
      (if (x.role n ≠ 1 || !x.mayPublish || decide (5 ≤ x.pwr.level) || x.sys.state == .frozen || x.ing.laneq.getLsbD n) = true then x
        else x.sendFrame n (withTrailer (overlay (fr.take (fr.length - 8)) 20 (leBytes 2 (x.linkTx n))))).sys.out =
        .frame n (withTrailer (overlay (fr.take (fr.length - 8)) 20 (leBytes 2 (d.linkTx n)))) :: d.sys.out := by
    intro x a b c e f g i j k
    rw [if_neg (by simp [a, b, f, e]; omega)]
    obtain ⟨u, _, v⟩ := Dev.sendFrame_facts (f := withTrailer (overlay (fr.take (fr.length - 8)) 20 (leBytes 2 (x.linkTx n)))) g
    rw [u, v, i, j, k]
    exact ⟨rfl, rfl⟩
  exact key _ h2 h3 h4 h5 h6 h7 rfl rfl rfl

theorem Dev.settle_lane_of_calm {d e : Dev} (h : d.calm = true) (h1 : e.reg (bar pgPAIR 0x1000) = d.reg (bar pgPAIR 0x1000))
    (h2 : e.pair = d.pair) (h3 : e.mctl = d.mctl) (h4 : e.sys.state = d.sys.state) : e.settle = e := by
  apply Dev.settle_calm
  unfold Dev.calm at *
  rw [Dev.paired_of h1, h2, h3, h4]
  exact h

theorem Dev.retune_facts {d : Dev} {n : Nat} (hn : n < 256) (h2 : d.calm = true) (h3 : (d.lane n).state = .up) (h5 : d.lctlErrs n 1 = []) :
    (((d.lctlWrite n 1).settle).lane n).state = .adapt ∧ (((d.lctlWrite n 1).settle).lane n).t0 = d.time.loc ∧
      (((d.lctlWrite n 1).settle).lane n).logvalid = false := by
  have hf : (d.lctlWrite n 1).settle = d.lctlWrite n 1 ∧ (d.lctlWrite n 1).lane n = { d.lane n with
      state := .adapt, t0 := d.time.loc, invert := false,
      logvalid := false, remap := false, maperr := false, good := 0, missed := 0, resync := false, mseq := none } := by
    unfold Dev.lctlWrite
    rw [Dev.guard_of h5]
    extract_lets d1 x d2 x2
    have e1 : d1.lnb = d.lnb ∧ d1.pair = d.pair ∧ d1.mctl = d.mctl ∧ d1.sys.state = d.sys.state ∧ d1.time = d.time ∧
        d1.reg (bar pgPAIR 0x1000) = d.reg (bar pgPAIR 0x1000) := by
      refine ⟨rfl, rfl, rfl, rfl, rfl, ?_⟩
      simp only [d1]
      rw [Dev.reg_setReg, if_neg]
      unfold laneAddr bar pgPAIR pgLNB
      omega
    have hx : x = d.lane n := Dev.lane_of e1.1 n
    clear_value d1
    have e2 : d2 = d1 := by
      simp only [d2]; rw [if_neg (by rw [show bitAt 2 (1 : Word) = false by decide]; simp), if_neg (by rw [hx, h3]; simp)]
    have e3 : x2 = d.lane n := by show d2.lane n = _; rw [e2]; exact hx
    clear_value x2 d2
    subst e2
    rw [if_pos (by rw [e3, h3]; decide)]
    refine ⟨?_, ?_⟩
    · apply Dev.settle_lane_of_calm h2
      · rw [Frame.reg_eq Dev.laneDrop_frame (by decide) (by decide), e1.2.2.2.2.2]
      · rw [Frame.pair_eq Dev.laneDrop_frame (by decide), e1.2.1]
      · rw [Frame.mctl_eq Dev.laneDrop_frame (by decide), e1.2.2.1]
      · rw [Frame.state_eq Dev.laneDrop_frame (by decide), e1.2.2.2.1]
    · rw [Dev.laneDrop_lane, e3, e1.2.2.2.2.1]
  rw [hf.1, hf.2]
  exact ⟨rfl, rfl, rfl⟩

end Sys2Proof.Machine
end

