-- ==== Sys2Proof/Laws/FactsIng.lean ====
section
/-! SUPPORT. What frames, sheets and the run do, one lemma per operation. -/

namespace Sys2Proof.Machine

theorem Dev.admitSample_dir (d : Dev) (fr : List Byte) (f : Sfn) : (d.admitSample fr f).ing.dir = d.ing.dir ++
    [{ trig := frType fr == 3, src := frSrc fr, chgrp := frChgrp fr, f := f, seq := frSeq fr, crc := frCrc fr }] := by
  unfold Dev.admitSample
  extract_lets r sh d1
  have e0 : ∀ q x, (d.seqStat q (frSrc fr) x).ing.dir = d.ing.dir := by
    intro q x
    have hc : ∀ (e : Dev) o n, (e.ingCount q o n).ing = e.ing := fun e o n => Frame.ing_eq Dev.ingCount_frame (by decide)
    unfold Dev.seqStat
    split
    · rfl
    dsimp only
    split
    · split
      · rw [hc]
      · rfl
    · split
      · rw [hc]
      · rfl
  have e1 : d1.ing.dir = d.ing.dir ++
      [{ trig := frType fr == 3, src := frSrc fr, chgrp := frChgrp fr, f := f, seq := frSeq fr, crc := frCrc fr }] := by
    simp only [d1]
    unfold Dev.enterDir
    dsimp only
    rw [Frame.ing_eq Dev.peak_frame (by decide)]
    dsimp only
    rw [e0]
  clear_value d1
  split
  · exact e1
  · dsimp only
    unfold IngSt.setSheet
    exact e1

theorem Dev.sampleFrame_facts {d : Dev} {l : Nat} {fr : List Byte} (h1 : d.role l ≠ 0) (h2 : frType fr ≠ 3) (h3 : frType fr ≠ 4)
    (h4 : frType fr ≠ 15) (h5 : (d.ingest l fr).1 = 0) : (d.sampleFrame l fr).ing.dir = (d.ingest l fr).2.2.ing.dir ++
      [{ trig := frType fr == 3, src := frSrc fr, chgrp := frChgrp fr, f := (d.ingest l fr).2.1, seq := frSeq fr,
         crc := frCrc fr }] := by
  unfold Dev.sampleFrame
  rw [if_neg (by simp [h1, h2, h4]), if_neg h3]
  revert h5
  generalize d.ingest l fr = x
  obtain ⟨c, f, e⟩ := x
  intro h5
  dsimp only at h5 ⊢
  rw [if_neg (by simp [h5])]
  have ha := e.admitSample_dir fr f
  revert ha
  generalize e.admitSample fr f = e1
  intro ha
  have key : ∀ x : Dev, x.ing = e1.ing → ∀ r : Req,
      (if r.forwards = true then { x with lnb.fwd := x.lnb.fwd ++ [(l, fr)] } else x).ing.dir = e1.ing.dir := by
    intro x hx r
    rw [← hx]
    split <;> rfl
  rw [← ha]
  apply key
  split
  · rfl
  · rw [Frame.ing_eq Dev.tapFrame_frame (by decide), Frame.ing_eq Dev.bmfFrame_frame (by decide), Frame.ing_eq Dev.couch_frame (by decide)]

theorem Dev.trigFrameRx_facts {d : Dev} {l : Nat} {fr : List Byte} (h1 : d.role l ≠ 0) (h2 : frType fr = 3)
    (h5 : (d.ingest l fr).1 = 0) : (d.trigFrameRx l fr).ing.dir = (d.ingest l fr).2.2.ing.dir ++
      [{ trig := true, src := frSrc fr, chgrp := frChgrp fr, f := (d.ingest l fr).2.1, seq := frSeq fr,
         crc := frCrc fr }] := by
  unfold Dev.trigFrameRx
  rw [if_neg (by simp [h1, h2])]
  revert h5
  generalize d.ingest l fr = x
  obtain ⟨c, f, e⟩ := x
  intro h5
  dsimp only at h5 ⊢
  rw [if_neg (by simp [h5])]
  unfold Dev.peerEvent
  extract_lets d1
  have e1 : d1.ing.dir = e.ing.dir ++
      [{ trig := true, src := frSrc fr, chgrp := frChgrp fr, f := f, seq := frSeq fr, crc := frCrc fr }] := by
    simp only [d1]
    unfold Dev.enterDir
    dsimp only
    rw [Frame.ing_eq Dev.peak_frame (by decide), h2]
    rfl
  clear_value d1
  split
  · exact e1
  · rw [Frame.ing_eq Dev.bump_frame (by decide)]
    exact e1

theorem Dev.cnt_bump (d : Dev) (p o q o' n : Nat) : (d.bump p o n).cnt q o' =
    if bar q o' = bar p o then d.cnt p o + BitVec.ofNat 64 n else d.cnt q o' := by
  unfold Dev.bump Dev.cnt
  dsimp only
  rw [Tab.get_set]

theorem Dev.ingest_idle {d : Dev} {l : Nat} {fr : List Byte} (h2 : frType fr = 15)
    (h3 : d.ing.laneq.getLsbD l = false) (h4 : d.sys.state ≠ .frozen) (h5 : d.pwr.level < 5) (h6 : 40 ≤ fr.length)
    (h7 : crc32c (fr.take (fr.length - 8)) = frCrc fr) (h8 : d.run.live = false) :
    (d.ingest l fr).1 = 16 ∧ (d.ingest l fr).2.2.cnt pgING 0x180 = d.cnt pgING 0x180 + 1 ∧
      (d.ingest l fr).2.2.lnb.inbox = d.lnb.inbox.erase (l, fr) := by
  unfold Dev.ingest
  extract_lets s0 d0 f
  have f0 : Frame [.ing] ({ d with lnb.inbox := d.lnb.inbox.erase (l, fr) } : Dev) d0 := Dev.purgeDir_frame
  have e1 : d0.sys.state = d.sys.state := by have q := Frame.state_eq f0 (by decide); exact q
  have e2 : d0.pwr = d.pwr := by have q := Frame.pwr_eq f0 (by decide); exact q
  have e3 : d0.run = d.run := by have q := Frame.run_eq f0 (by decide); exact q
  have e4 : d0.live = d.live := by have q := Frame.live_eq f0 (by decide); exact q
  have e5 : d0.lnb.inbox = d.lnb.inbox.erase (l, fr) := by rw [Frame.lnb_eq f0 (by decide)]
  have e6 : d0.ing.laneq = d.ing.laneq := rfl
  clear_value d0
  have hk : d0.classify l fr f = (16, d0) := by
    unfold Dev.classify
    rw [if_neg (by rw [e6, h3]; simp), if_neg (by rw [e1, e2]; intro hc; cases hc with | inl h => exact h4 h | inr h => omega),
      if_neg (by omega), if_neg (by simp [h2])]
    unfold Dev.checkFrame
    dsimp only
    rw [if_neg (by rw [h7]; simp), if_pos h2]
  rw [hk]
  dsimp only
  rw [if_neg (by decide), if_neg (by decide), if_neg (by decide)]
  refine ⟨rfl, ?_, ?_⟩
  · unfold Dev.account
    have hs : d0.attribute 16 (frType fr == 1 && decide (40 ≤ fr.length)) f = none := by
      unfold Dev.attribute
      rw [if_pos (by unfold Dev.sheetRemains; rw [e3, h8]; rfl)]
    dsimp only
    rw [hs]
    dsimp only [Dev.ingCount]
    rw [Dev.cnt_bump, if_neg (by unfold bar laneClassOff pgING; omega), Dev.cnt_bump, if_pos rfl]
    unfold Dev.cnt; rw [e4]; rfl
  · rw [Frame.lnb_eq Dev.account_frame (by decide), e5]

theorem Dev.bindHi_facts {d : Dev} {v : Word} (h : d.bindHiErrs v = []) :
    (d.bindHiWrite v).ing.shadow.entry (bitAt 13 d.ing.bindIdx) (d.ing.bindIdx.toNat % 8192) =
        { lo := d.ing.bindLo, valid := bitAt 31 v, tag := v.setWidth 16 } ∧
      (d.bindHiWrite v).ing.bindIdx = (d.ing.bindIdx &&& 0x2000) ||| ((d.ing.bindIdx + 1) &&& 0x1FFF) ∧
      (d.bindHiWrite v).ing.act = d.ing.act := by
  unfold Dev.bindHiWrite
  rw [Dev.guard_of h]
  dsimp only
  cases hb : bitAt 13 d.ing.bindIdx
  · rw [if_neg Bool.false_ne_true]
    exact ⟨Tab.get_set_self _ _ _ _, rfl, rfl⟩
  · rw [if_pos rfl]
    exact ⟨Tab.get_set_self _ _ _ _, rfl, rfl⟩

theorem Dev.reqAt_of {d e : Dev} (h1 : e.run = d.run) (h2 : e.plt = d.plt) (f : Sfn) : e.reqAt f = d.reqAt f := by
  unfold Dev.reqAt Dev.plateAt Dev.takeoverAt
  rw [h1, h2]

theorem Dev.closeSet_ing (d : Dev) (g : Nat) (f : Sfn) : ∃ e : Dev, e.ing = { d.ing with closed := d.ing.closed ++ [(g, f)] } ∧
    e.run = d.run ∧ d.closeSet g f = e.closedSweep g (d.reqAt f).lf (d.ing.closed.length + 2) := by
  unfold Dev.closeSet
  have key : ∀ x : Dev, x.ing = d.ing → x.run = d.run → x.plt = d.plt →
      ∃ e : Dev, e.ing = { d.ing with closed := d.ing.closed ++ [(g, f)] } ∧ e.run = d.run ∧
      (let x := { x with ing.closed := x.ing.closed ++ [(g, f)] }
       x.closedSweep g (x.reqAt f).lf (x.ing.closed.length + 1)) = e.closedSweep g (d.reqAt f).lf (d.ing.closed.length + 2) := by
    intro x e1 e2 e3
    refine ⟨{ x with ing.closed := x.ing.closed ++ [(g, f)] }, ?_, e2, ?_⟩
    · exact congrArg (fun i : IngSt => { i with closed := i.closed ++ [(g, f)] }) e1
    · have hr : ({ x with ing.closed := x.ing.closed ++ [(g, f)] } : Dev).reqAt f = d.reqAt f := Dev.reqAt_of e2 e3 f
      show Dev.closedSweep ({ x with ing.closed := x.ing.closed ++ [(g, f)] } : Dev) g
        (Dev.reqAt ({ x with ing.closed := x.ing.closed ++ [(g, f)] } : Dev) f).lf ((x.ing.closed ++ [(g, f)]).length + 1) = _
      rw [hr, List.length_append, e1]
      rfl
  exact key _ (Frame.ing_eq Dev.ingCount_frame (by decide)) (Frame.run_eq Dev.ingCount_frame (by decide)) (Frame.plt_eq Dev.ingCount_frame (by decide))

theorem Dev.closedTo_of {d e : Dev} (h1 : e.ing.closedTo = d.ing.closedTo) (h2 : e.run = d.run) (g : Nat) : e.closedTo g = d.closedTo g := by
  unfold Dev.closedTo; rw [h1, h2]

theorem Dev.closeSet_late {d : Dev} {g : Nat} {f : Sfn} (h1 : d.ing.closed.contains (g, d.closedTo g) = false) (h2 : f ≠ d.closedTo g) :
    (d.closeSet g f).ing.closed = d.ing.closed ++ [(g, f)] := by
  obtain ⟨e, e1, e2, e3⟩ := d.closeSet_ing g f
  have hc : e.closedTo g = d.closedTo g := Dev.closedTo_of (by rw [e1]) e2 g
  rw [e3]
  unfold Dev.closedSweep
  dsimp only
  rw [if_neg (by
    rw [e1, hc]
    simp only [List.contains_eq_mem, decide_eq_false_iff_not, List.mem_append, decide_eq_true_eq, List.mem_singleton, Prod.mk.injEq] at h1 ⊢
    intro hx; cases hx with
    | inl h => exact h1 h
    | inr h => exact h2 h.2.symm), e1]

theorem Dev.closeSet_next {d : Dev} {g : Nat} {f : Sfn} (h1 : d.ing.closed = []) (h2 : f = d.closedTo g) :
    (d.closeSet g f).ing.closed = [] ∧ (d.closeSet g f).closedTo g = f + BitVec.ofNat 48 (d.reqAt f).lf := by
  obtain ⟨e, e1, e2, e3⟩ := d.closeSet_ing g f
  have hc : e.closedTo g = d.closedTo g := Dev.closedTo_of (by rw [e1]) e2 g
  have hcl : e.ing.closed = [(g, f)] := by rw [e1, h1]; rfl
  have hs : ∀ lf, e.closedSweep g lf 2 = { e with
      ing.closed := e.ing.closed.erase (g, e.closedTo g)
      ing.closedTo := Tab.set none e.ing.closedTo g (some (e.closedTo g + BitVec.ofNat 48 lf)) } := by
    intro lf
    unfold Dev.closedSweep
    dsimp only
    rw [if_pos (by rw [hcl, hc, ← h2]; simp)]
    unfold Dev.closedSweep
    dsimp only
    rw [if_neg (by rw [hcl, hc, ← h2]; simp)]
  rw [e3, h1]
  show (e.closedSweep g (d.reqAt f).lf 2).ing.closed = [] ∧ (e.closedSweep g (d.reqAt f).lf 2).closedTo g = _
  rw [hs]
  refine ⟨?_, ?_⟩
  · show e.ing.closed.erase (g, e.closedTo g) = []
    rw [hcl, hc, ← h2]; simp
  · show (Tab.get none (Tab.set none e.ing.closedTo g (some (e.closedTo g + _))) g).getD _ = _
    rw [Tab.get_set_self, hc, ← h2]
    rfl

theorem Dev.frameSetClose_closed {d : Dev} {g : Nat} {f : Sfn} {o : Bool} {lat : Nat} (h1 : d.setCloses g f = true) (h2 : d.tablesPending f = false) :
    (d.frameSetClose g f o lat).ing = (d.closeSet g f).ing ∧ (d.frameSetClose g f o lat).run = (d.closeSet g f).run := by
  unfold Dev.frameSetClose
  rw [if_neg (by simp [h1, h2])]
  generalize d.closeSet g f = d1
  extract_lets beams tap
  have f2 : Frame [.pba, .pirq, .live, .out, .acc, .bmf, .mem] d1 (d1.bmfClose g f o lat).2 := Dev.bmfClose_frame
  revert f2
  generalize d1.bmfClose g f o lat = x
  obtain ⟨o, e⟩ := x
  intro f2
  dsimp only at f2 ⊢
  rw [Frame.ing_eq Dev.streamDue_frame (by decide), Frame.run_eq Dev.streamDue_frame (by decide)]
  cases o with
  | none =>
    dsimp only
    rw [Frame.ing_eq Dev.burFspow_frame (by decide), Frame.run_eq Dev.burFspow_frame (by decide)]
    have a := Frame.ing_eq f2 (by decide)
    have b := Frame.run_eq f2 (by decide)
    exact ⟨a, b⟩
  | some y =>
    dsimp only
    rw [Frame.ing_eq Dev.burFspow_frame (by decide), Frame.run_eq Dev.burFspow_frame (by decide),
      Frame.ing_eq Dev.trgTake_frame (by decide), Frame.run_eq Dev.trgTake_frame (by decide)]
    have a := Frame.ing_eq f2 (by decide)
    have b := Frame.run_eq f2 (by decide)
    exact ⟨a, b⟩

theorem Dev.completeSheet_facts (d : Dev) : d.completeSheet.sys.sheetcnt = d.sys.sheetcnt + 1 ∧
    d.completeSheet.run.sheets = d.run.sheets + 1 ∧
    d.completeSheet.run.sheetAt = d.run.sheetAt + BitVec.ofNat 48 (d.reqAt d.run.sheetAt).ks := by
  unfold Dev.completeSheet
  extract_lets sh r a flags buf1 buf base d1 was now done s1 s2 s3 d2
  have e1 : d1.sys.sheetcnt = d.sys.sheetcnt ∧ d1.run = d.run := by
    simp only [d1]
    split
    · exact ⟨Frame.sheetcnt_eq Dev.putBytes_frame (by decide), Frame.run_eq Dev.putBytes_frame (by decide)⟩
    · exact ⟨rfl, rfl⟩
  have e2 : d2.sys.sheetcnt = d1.sys.sheetcnt + 1 ∧ d2.run.sheets = d1.run.sheets + 1 ∧ d2.run.sheetAt = sh + BitVec.ofNat 48 r.ks := ⟨rfl, rfl, rfl⟩
  clear_value d2 d1
  rw [e1.1, e1.2] at e2
  split
  · exact e2
  · rw [Frame.sheetcnt_eq Dev.raise_frame (by decide), Frame.run_eq Dev.raise_frame (by decide)]
    exact e2

theorem Dev.sheetComplete_facts {d : Dev} (h1 : d.sheetDue = true) (h2 : after d.run.sheetAt d.reamEnd = false) :
    d.sheetComplete.sys.sheetcnt = d.sys.sheetcnt + 1 ∧ d.sheetComplete.run.sheets = d.run.sheets + 1 ∧
    d.sheetComplete.run.sheetAt = d.run.sheetAt + BitVec.ofNat 48 (d.reqAt d.run.sheetAt).ks := by
  unfold Dev.sheetComplete
  rw [if_neg (by simp [h1, h2])]
  have hc := d.completeSheet_facts
  revert hc
  generalize d.completeSheet = e
  intro hc
  dsimp only
  split
  · exact hc
  · rw [Frame.sheetcnt_eq Dev.streamDue_frame (by decide), Frame.run_eq Dev.streamDue_frame (by decide),
      Frame.sheetcnt_eq Dev.burSheet_frame (by decide), Frame.run_eq Dev.burSheet_frame (by decide),
      Frame.sheetcnt_eq Dev.burCycles_frame (by decide), Frame.run_eq Dev.burCycles_frame (by decide),
      Frame.sheetcnt_eq Dev.hatSheet_frame (by decide), Frame.run_eq Dev.hatSheet_frame (by decide),
      Frame.sheetcnt_eq Dev.accSheet_frame (by decide), Frame.run_eq Dev.accSheet_frame (by decide)]
    exact hc

theorem Dev.retireOutgoing_facts (d : Dev) : d.retireOutgoing.run.reams = d.run.reams ∧ d.retireOutgoing.run.reamAt = d.run.reamAt ∧
    d.retireOutgoing.sys.reamcnt = d.sys.reamcnt ∧ d.retireOutgoing.sys.state = d.sys.state := by
  unfold Dev.retireOutgoing
  split
  · exact ⟨rfl, rfl, rfl, rfl⟩
  · dsimp only
    rw [Frame.run_eq Dev.burTakeover_frame (by decide), Frame.reamcnt_eq Dev.burTakeover_frame (by decide),
      Frame.state_eq Dev.burTakeover_frame (by decide), Frame.run_eq Dev.hatTakeover_frame (by decide),
      Frame.reamcnt_eq Dev.hatTakeover_frame (by decide), Frame.state_eq Dev.hatTakeover_frame (by decide)]
    exact ⟨rfl, rfl, rfl, rfl⟩

theorem Dev.statisticsLatch_facts {d : Dev} (h1 : d.latchDue = true) (h2 : d.sys.state ≠ .draining) :
    d.statisticsLatch.run.reams = d.run.reams + 1 ∧ d.statisticsLatch.run.reamAt = d.reamEnd ∧
      d.statisticsLatch.sys.reamcnt = d.sys.reamcnt + 1 ∧ d.statisticsLatch.sys.state = d.sys.state := by
  unfold Dev.statisticsLatch
  rw [if_neg (by simp [h1])]
  extract_lets e k ks d1 d2 d3 c d4 s4 s5 d5
  have f1 : Frame [.acc] d d1 := by simp only [d1]; exact Frame.ite Dev.accFroze_frame (Frame.refl _ _)
  have f2 : Frame [.acc] d1 d2 := by simp only [d2]; exact Frame.ite Dev.modGather_frame (Frame.refl _ _)
  have f3 : Frame _ d2 d3 := Dev.statsLatch_frame
  have f4 : Frame _ d3 d4 := Dev.accLatch_frame
  have e5 : d5.run.reams = k + 1 ∧ d5.run.reamAt = e ∧ d5.sys.reamcnt = d.sys.reamcnt + 1 ∧ d5.sys.state = d.sys.state := by
    refine ⟨rfl, rfl, ?_, ?_⟩
    · show d4.sys.reamcnt + 1 = _
      rw [Frame.reamcnt_eq f4 (by decide), Frame.reamcnt_eq f3 (by decide), Frame.reamcnt_eq f2 (by decide), Frame.reamcnt_eq f1 (by decide)]
    · show d4.sys.state = _
      rw [Frame.state_eq f4 (by decide), Frame.state_eq f3 (by decide), Frame.state_eq f2 (by decide), Frame.state_eq f1 (by decide)]
  have hk : k = d.run.reams ∧ e = d.reamEnd := ⟨rfl, rfl⟩
  clear_value d5 k e
  generalize hb : (e + BitVec.ofNat 48 ks : Sfn) = b
  have f6 : Frame _ d5 (d5.burLatch b) := Dev.burLatch_frame
  obtain ⟨g1, g2, g3, g4⟩ := (d5.burLatch b).retireOutgoing_facts
  rw [Frame.run_eq f6 (by decide)] at g1 g2
  rw [Frame.reamcnt_eq f6 (by decide)] at g3
  rw [Frame.state_eq f6 (by decide)] at g4
  rw [Dev.drainCheck_not (by rw [g4, e5.2.2.2]; exact h2), g1, g2, g3, g4, e5.1, e5.2.1, hk.1, hk.2]
  exact ⟨rfl, rfl, e5.2.2⟩

theorem Dev.endRun_facts (d : Dev) : d.endRun.sys.state = .idle ∧ d.endRun.run.live = false ∧ d.endRun.run.bLast = none := by
  unfold Dev.endRun
  rw [Frame.state_eq Dev.pairSync_frame (by decide), Frame.run_eq Dev.pairSync_frame (by decide), Dev.setState_state,
    Frame.run_eq Dev.setState_frame (by decide)]
  unfold Dev.runOver
  dsimp only
  rw [Frame.run_eq Dev.mergeNext_frame (by decide)]
  exact ⟨rfl, rfl, rfl⟩

theorem Dev.stopBoundary_drain {d : Dev} {b : Sfn} (h1 : d.run.bLast = some b) (h2 : d.sys.state = .running)
    (h3 : atOrAfter d.time.sfn b = true) (h4 : b ≠ d.run.s0) (h5 : d.acc.lastDone = false) :
    d.stopBoundary.sys.state = .draining ∧ d.stopBoundary.run = d.run := by
  unfold Dev.stopBoundary
  rw [h1]
  dsimp only
  rw [if_neg (by simp [h2, h3]), if_neg (by show b ≠ d.run.s0; exact h4)]
  have key : ∀ x : Dev, x.acc = d.acc → x.run = d.run → (x.setState .draining).drainCheck.sys.state = .draining ∧
      (x.setState .draining).drainCheck.run = d.run := by
    intro x hx hr
    have : (x.setState .draining).drainCheck = x.setState .draining := by
      unfold Dev.drainCheck
      rw [if_neg (by rw [Frame.acc_eq Dev.setState_frame (by decide), hx, h5]; simp)]
    rw [this, Dev.setState_state, Frame.run_eq Dev.setState_frame (by decide), hr]
    exact ⟨rfl, rfl⟩
  exact key _ rfl rfl

theorem Dev.stopBoundary_none {d : Dev} (h1 : d.run.bLast = some d.run.s0) (h2 : d.sys.state = .running)
    (h3 : atOrAfter d.time.sfn d.run.s0 = true) : d.stopBoundary.sys.state = .idle ∧ d.stopBoundary.run.live = false ∧
      d.stopBoundary.run.bLast = none := by
  unfold Dev.stopBoundary
  rw [h1]
  dsimp only
  rw [if_neg (by simp [h2, h3]), if_pos (by rfl)]
  exact Dev.endRun_facts _

theorem Dev.exchange_plt (d : Dev) (a : SlotState) : (d.exchange a).plt = { d.plt with
    active := d.plt.stagedP, actSlot := !d.plt.actSlot, staged := a, stagedP := none, armPend := false, budValid := false } ∧
    (d.exchange a).run = d.run := by
  unfold Dev.exchange
  extract_lets s1 s2 d1
  rw [Frame.plt_eq Dev.raise_frame (by decide), Frame.plt_eq Dev.bump_frame (by decide),
    Frame.run_eq Dev.raise_frame (by decide), Frame.run_eq Dev.bump_frame (by decide)]
  exact ⟨rfl, rfl⟩

theorem Dev.plateTakeover_facts {d : Dev} {b : Sfn} {q old : Plate} (h1 : d.takeoverAt = some b) (h2 : d.plt.stagedP = some q)
    (h3 : d.plt.active = some old) (h4 : d.run.live = true) (h5 : atOrAfter d.time.sfn b = true) :
    d.plateTakeover.plt.active = some q ∧ d.plateTakeover.plt.staged = .retiring ∧ d.plateTakeover.plt.stagedP = none ∧
      d.plateTakeover.plt.actSlot = !d.plt.actSlot ∧ d.plateTakeover.run.outgoing = some old ∧ d.plateTakeover.run.tookAt = some b := by
  unfold Dev.plateTakeover
  rw [h1, h2, h3]
  dsimp only
  rw [if_neg (by simp [h4, h5])]
  have f1 : Frame [.hdr, .perr, .acc] d ((d.ticketsAt b).foldl (fun d p => d.cancelTicket p ePLATE) d) :=
    Frame.foldl (Frame.refl _ _) fun e _ k => k.trans Dev.cancelTicket_frame
  have e2 : ∀ c : Prop, ∀ _ : Decidable c, (if c then ((d.ticketsAt b).foldl (fun d p => d.cancelTicket p ePLATE) d).cancelTicket pgING 0x11
      else (d.ticketsAt b).foldl (fun d p => d.cancelTicket p ePLATE) d).plt = d.plt :=
    fun c _ => Frame.plt_eq (Frame.ite (f1.trans Dev.cancelTicket_frame) f1) (by decide)
  rw [Frame.plt_eq Dev.tablesTakeover_frame (by decide), Frame.run_eq Dev.tablesTakeover_frame (by decide),
    Frame.plt_eq Dev.lanesSwap_frame (by decide), Frame.run_eq Dev.lanesSwap_frame (by decide),
    Frame.plt_eq Dev.ingSwap_frame (by decide), Frame.run_eq Dev.ingSwap_frame (by decide),
    (Dev.exchange_plt _ _).1, (Dev.exchange_plt _ _).2]
  dsimp only
  rw [e2, h2]
  exact ⟨rfl, rfl, rfl, rfl, rfl, rfl⟩

end Sys2Proof.Machine
end

