-- ==== Sys2Proof/Laws/FactsDkl.lean ====
section
/-! SUPPORT. What the deckle, the hatch array and the accumulator do, one lemma per operation. -/

namespace Sys2Proof.Machine

theorem Dev.streamDue_none {d : Dev} (h : ∀ a, (d.reqAt a).mode ≠ 9) (n : Nat) : d.streamDue n = d := by
  cases n with
  | zero => rfl
  | succ n =>
    unfold Dev.streamDue
    dsimp only
    rw [if_neg (by simp [h])]

theorem Dev.takeSlot_keeps {d e : Dev} {pl : Plate} {c s : Nat} (h : d.takeSlot pl c = some (s, e)) : e.run = d.run ∧ e.plt = d.plt := by
  unfold Dev.takeSlot at h
  extract_lets q n at h
  split at h
  · cases h; exact ⟨rfl, rfl⟩
  · split at h
    · cases h
    · dsimp only at h
      split at h
      · cases h; exact ⟨rfl, rfl⟩
      · split at h
        · cases h
        · cases h; exact ⟨rfl, rfl⟩

theorem Dev.pageAt_setPageIn (d : Dev) (x : PageIn) : (d.setPageIn x).pageAt x.at_ x.p x.g = some x := by
  unfold Dev.pageAt Dev.setPageIn
  exact Tab.get_set_self none d.dkl.pages (pageKey x.at_ x.p x.g) (some x)

theorem Dev.pageSlotAssign_facts {d : Dev} {a : Sfn} {p g slot : Nat} {e' : Dev} (h1 : d.pageInRun a p g = true)
    (h2 : atOrAfter d.time.sfn (a - BitVec.ofNat 48 ((d.reqAt a).earlyB * (d.reqAt a).lf)) = true) (h3 : d.pageAt a p g = none)
    (h4 : d.takeSlot (d.plateOf a) ((d.plateOf a).req.chanOf a p g) = some (slot, e')) (h5 : ∀ a, (d.reqAt a).mode ≠ 9) :
    ((d.pageSlotAssign a p g).streamDue 64).pageAt a p g = some { at_ := a, p := p, g := g, slot := slot } := by
  have : d.pageSlotAssign a p g = e'.setPageIn { at_ := a, p := p, g := g, slot := slot } := by
    unfold Dev.pageSlotAssign
    dsimp only
    rw [if_pos (by simp [h1, h2])]
    unfold Dev.assignPage
    dsimp only
    rw [h3, h4]
  rw [this, Dev.streamDue_none]
  · exact Dev.pageAt_setPageIn _ _
  · intro b
    obtain ⟨a1, a2⟩ := Dev.takeSlot_keeps h4
    have hr : (e'.setPageIn { at_ := a, p := p, g := g, slot := slot }).reqAt b = d.reqAt b := Dev.reqAt_of a1 a2 b
    rw [hr]
    exact h5 b

theorem DklSt.halfOf_setHalf (k : DklSt) (b : Bool) (h : Half) : (k.setHalf b h).halfOf b = h := by
  cases b <;> rfl

theorem Dev.stageInput_half (d : Dev) (b : Bool) (r : Req) (s : DoneSheet) (c m k i : Nat) (poison : List (Nat × Nat)) :
    ((d.stageInput b r s c m k i poison).dkl.halfOf b).tag = (d.dkl.halfOf b).tag := by
  unfold Dev.stageInput
  extract_lets n p
  generalize List.range r.ps = l
  induction l generalizing d with
  | nil => rfl
  | cons a l ih =>
    rw [List.foldl_cons, ih]
    dsimp only
    rw [DklSt.halfOf_setHalf]
    have hb : ∀ (x : Dev) (cnd : Prop) [Decidable cnd] o n, (if cnd then x else x.bump pgDKL o n).dkl = x.dkl := by
      intro x cnd _ o n; split <;> rfl
    have hb' : ∀ (x : Dev) (cnd : Prop) [Decidable cnd] o n, (if cnd then x.bump pgDKL o n else x).dkl = x.dkl := by
      intro x cnd _ o n; split <;> rfl
    rw [hb', hb, hb]

theorem Dev.cornerTurn_facts {d : Dev} {upto : Nat} {poison : List (Nat × Nat)} {b : Bool} {t : StageTag} {sh : DoneSheet}
    (h1 : d.sys.state ≠ .frozen) (h2 : d.pwr.level < 3) (h3 : d.stageTarget = some (b, t, sh)) (h4 : (d.dkl.halfOf b).tag ≠ some t) :
    ((d.cornerTurnStage upto poison).dkl.halfOf b).tag = some t ∧
      ((d.cornerTurnStage upto poison).dkl.halfOf b).count = min upto ((d.plateOf sh.at_).req.sliceInputs t.2.2.2) ∧
      ((d.cornerTurnStage upto poison).dkl.halfOf b).full = decide ((d.plateOf sh.at_).req.sliceInputs t.2.2.2 ≤ upto) := by
  unfold Dev.cornerTurnStage
  rw [if_neg (by intro hc; cases hc with | inl h => exact h1 h | inr h => omega), h3]
  obtain ⟨x, c, m, k⟩ := t
  dsimp only
  generalize hn : (d.plateOf sh.at_).req.sliceInputs k = n
  rw [if_neg h4]
  have hd : ∀ (e : Dev) (q : Plate) (j : Nat), (Dev.panicCheck e q j).dkl.halfOf b = e.dkl.halfOf b := by
    intro e q j; unfold Dev.panicCheck; cases b <;> rfl
  rw [hd]
  have hm : ∀ (e : Dev) (cnd : Prop) [Decidable cnd] k l m n, (if cnd then e.markChan k l m n else e).dkl = e.dkl := by
    intro e cnd _ k l m n; split
    · exact Frame.dkl_eq Dev.markChan_frame (by decide)
    · rfl
  rw [hm]
  dsimp only
  rw [DklSt.halfOf_setHalf]
  have hf : ∀ (l : List Nat) (e : Dev), ((l.foldl (fun d i => d.stageInput b (d.plateOf sh.at_).req sh c m k i poison) e).dkl.halfOf b).tag = (e.dkl.halfOf b).tag := by
    intro l; induction l with
    | nil => exact fun _ => rfl
    | cons a l ih => intro e; rw [List.foldl_cons, ih, Dev.stageInput_half]
  have hf' : ∀ (r : Req) (f : Nat → Nat) (l : List Nat) (e : Dev), ((l.foldl (fun d i => d.stageInput b r sh c m k (f i) poison) e).dkl.halfOf b).tag = (e.dkl.halfOf b).tag := by
    intro r f l; induction l with
    | nil => exact fun _ => rfl
    | cons a l ih => intro e; rw [List.foldl_cons, ih, Dev.stageInput_half]
  refine ⟨?_, ?_, ?_⟩
  · dsimp only
    rw [hf']
    show ((DklSt.setHalf _ b _).halfOf b).tag = _
    rw [DklSt.halfOf_setHalf]
  · show max 0 (min upto n) = min upto n
    omega
  · show decide (max 0 (min upto n) = n) = decide (n ≤ upto)
    exact decide_eq_decide.2 (by omega)

theorem Dev.corrections_frame {d : Dev} (l : List Nat) : Frame [.pba, .pirq, .live, .errlog, .out, .plt, .mctl, .mem] d (l.foldl (fun d a => d.corrected false a) d) :=
  Frame.foldl (Frame.refl _ _) fun _ _ k => k.trans Dev.corrected_frame

theorem Dev.captureRecord_facts {d : Dev} {id : BitVec 16} {c : Cap} (h1 : d.dkl.caps.find? (·.id == id) = some c) (h2 : d.sys.state ≠ .frozen)
    (h3 : d.pwr.level < 5) (h4 : d.capDue (d.reqAt c.first) c = true) :
    (d.captureRecordWrite id).dkl.capwr = d.dkl.capwr + 1 ∧ (d.captureRecordWrite id).dkl.caps = d.dkl.caps.erase c ∧
      (d.captureRecordWrite id).dkl.caprd = if d.dkl.capwr + 1 = d.dkl.caprd then d.dkl.caprd + 1 else d.dkl.caprd := by
  unfold Dev.captureRecordWrite
  rw [h1]
  dsimp only
  rw [if_neg (by rw [h4]; intro hc; rcases hc with h | h | h; exact h2 h; omega; cases h)]
  rw [Frame.dkl_eq Dev.raise_frame (by decide)]
  have hb : ∀ (x : Dev) (cnd : Prop) [Decidable cnd] o n, (if cnd then x else x.bump pgDKL o n).dkl = x.dkl := by
    intro x cnd _ o n; split <;> rfl
  rw [hb]
  dsimp only
  rw [Frame.dkl_eq Dev.putBytes_frame (by decide)]
  have hf : ∀ (f : Nat → Nat) (g : Dev → ((Sfn × Nat × Nat) × Nat) → List Byte) (l : List ((Sfn × Nat × Nat) × Nat)) (e : Dev),
      (l.foldl (fun d x => d.putBytes (f x.2) (g d x)) e).dkl = e.dkl := by
    intro f g l; induction l with
    | nil => exact fun _ => rfl
    | cons a l ih => intro e; rw [List.foldl_cons, ih]; exact Frame.dkl_eq Dev.putBytes_frame (by decide)
  rw [hf (fun n => loadedAddr pgDKL 0x1048 + (d.dkl.listIdx + n) % listRing * 8) (fun d x => d.listEntry c.groups x.1)]
  refine ⟨rfl, rfl, ?_⟩
  by_cases hq : d.dkl.capwr + 1 = d.dkl.caprd
  · rw [if_pos hq, if_pos (by rw [hq]; simp)]
  · rw [if_neg hq, if_neg (by simpa using hq)]

/-- The pins of a page after one page is released by a record. -/
def Dev.unpin (id : BitVec 16) (d : Dev) (k : Nat) : Dev :=
  let rest := (d.pinsOf k).filter (· != id)
  let d := { d with dkl.pins := Tab.set [] d.dkl.pins k rest }
  if !rest.isEmpty then d
  else
    let d := d.bump pgDKL 0x140
    match Tab.get none d.dkl.pages k with
    | some x =>
      if x.out then
        let c := d.req.chanOf x.at_ x.p x.g
        ({ d with dkl.pages := Tab.set none d.dkl.pages k none }).setSubst c (d.substOrder d.plate c ++ [x.slot])
      else d
    | none => d

theorem Dev.unpin_pins (id : BitVec 16) (d : Dev) (k : Nat) :
    (d.unpin id k).dkl.pins = Tab.set [] d.dkl.pins k ((d.pinsOf k).filter (· != id)) := by
  unfold Dev.unpin
  dsimp only
  split
  · rfl
  · split
    · split <;> rfl
    · rfl

theorem Dev.unpin_fold (id : BitVec 16) (l : List Nat) (d : Dev) (h : ∀ k, id ∈ d.pinsOf k → k ∈ l) (k : Nat) :
    id ∉ (l.foldl (Dev.unpin id) d).pinsOf k := by
  induction l generalizing d with
  | nil => exact fun hk => absurd (h k hk) (by simp)
  | cons a l ih =>
    rw [List.foldl_cons]
    apply ih
    intro j hj
    unfold Dev.pinsOf at hj
    rw [Dev.unpin_pins, Tab.get_set] at hj
    by_cases hja : j = a
    · rw [if_pos hja, List.mem_filter] at hj
      simp at hj
    · rw [if_neg hja] at hj
      have := h j hj
      rw [List.mem_cons] at this
      exact this.resolve_left hja

theorem Tab.get_mem {α : Type} (d : α) (t : Tab α) (k : Nat) (h : Tab.get d t k ≠ d) : (k, Tab.get d t k) ∈ t := by
  induction t with
  | nil => exact absurd rfl h
  | cons e t ih =>
    obtain ⟨j, v⟩ := e
    unfold Tab.get at h ⊢
    by_cases hj : j = k
    · rw [if_pos hj, hj]; exact List.mem_cons_self
    · rw [if_neg hj] at h ⊢
      exact List.mem_cons_of_mem _ (ih h)

theorem Dev.dklRelease_pins {d : Dev} {v : Word} (h : d.dklReleaseErrs v = []) (k : Nat) : v.setWidth 16 ∉ (d.dklRelease v).pinsOf k := by
  unfold Dev.dklRelease
  rw [Dev.guard_of h]
  have key : ∀ (x : Dev) (b : Bool), (v.setWidth 16 ∉ x.pinsOf k) → v.setWidth 16 ∉ ({ x with dkl.low := b } : Dev).pinsOf k := fun x b h => h
  apply key
  refine Dev.unpin_fold (v.setWidth 16) _ d ?_ k
  intro j hj
  rw [List.mem_map]
  refine ⟨(j, d.pinsOf j), ?_, rfl⟩
  rw [List.mem_filter]
  refine ⟨Tab.get_mem _ _ _ ?_, by simpa using hj⟩
  intro hc
  unfold Dev.pinsOf at hj
  rw [hc] at hj
  simp at hj

/-! ### The pass runs -/

/-- Where the correlator is: sheet, channels to run, sub-block, pass, half of the store. -/
def Dev.hatPlace (d : Dev) : Option DoneSheet × List Nat × Nat × Nat × Bool :=
  (d.hat.sheet, d.hat.chans, d.hat.sub, d.hat.pass, d.hat.which)

theorem Dev.hatPlace_of {d e : Dev} (h : e.hat = d.hat) : e.hatPlace = d.hatPlace := by unfold Dev.hatPlace; rw [h]

theorem Dev.hatPlace_fold {α : Type} {f : Dev → α → Dev} (h : ∀ d a, (f d a).hatPlace = d.hatPlace) (l : List α) (d : Dev) :
    (l.foldl f d).hatPlace = d.hatPlace := by
  induction l generalizing d with
  | nil => rfl
  | cons a l ih => rw [List.foldl_cons, ih, h]

theorem Frame.hatPlace {T : List Part} {d e : Dev} (h : Frame T d e) (hp : Part.hat ∉ T) : e.hatPlace = d.hatPlace :=
  Dev.hatPlace_of (Frame.hat_eq h hp)

theorem Dev.drainAdd_place (d : Dev) (k : Nat) (v : Int × Int) : (d.drainAdd k v).hatPlace = d.hatPlace := by
  unfold Dev.drainAdd
  split <;> rfl

theorem Dev.drainUnit_place (d : Dev) (r : Req) (s : DoneSheet) (h : Half) (hb : Bool) (m k q : Nat) (u : QUnit) (bad : List Nat) :
    (d.drainUnit r s h hb m k q u bad).hatPlace = d.hatPlace := by
  unfold Dev.drainUnit
  split
  · rfl
  · apply Dev.hatPlace_fold
    intro e a
    dsimp only
    split
    · rw [Dev.drainAdd_place]
      split
      · rfl
      · rfl
    · exact Dev.drainAdd_place _ _ _

theorem Dev.qmaskSet_place (d : Dev) (q c p : Nat) : (d.qmaskSet q c p).hatPlace = d.hatPlace := by
  unfold Dev.qmaskSet
  split
  · rfl
  · unfold Dev.fmapChanged
    dsimp only
    rw [Dev.hatPlace_of (Frame.hat_eq Dev.putBytes_frame (by decide))]
    rfl

theorem Dev.becomeSuspect_place (d : Dev) (q p ream : Nat) (m : Bool) : (d.becomeSuspect q p ream m).hatPlace = d.hatPlace := by
  unfold Dev.becomeSuspect
  split
  · rfl
  · extract_lets s1 d1 d2 d3
    have e3 : d3.hatPlace = d.hatPlace := by
      simp only [d3]
      rw [Frame.hatPlace Dev.raise_frame (by decide)]
      simp only [d2]
      split
      · rw [Dev.qmaskSet_place]; rfl
      · rfl
    clear_value d3
    split
    · exact e3
    · rw [Frame.hatPlace Dev.raise_frame (by decide)]
      exact e3

theorem Dev.mismatch_place (d : Dev) (x : Cmp) : (d.mismatch x).hatPlace = d.hatPlace := by
  unfold Dev.mismatch
  extract_lets k q d1 d2 c'
  have e2 : d2.hatPlace = d.hatPlace := by
    simp only [d2]
    rw [Dev.hatPlace_fold (fun e a => Frame.hatPlace Dev.suspect_frame (by decide))]
    rfl
  clear_value d2
  split
  · rw [Dev.becomeSuspect_place, Frame.hatPlace Dev.raise_frame (by decide)]
    show (d2.qmaskSet (144 + k) 3 q).hatPlace = _
    rw [Dev.qmaskSet_place, e2]
  · rw [Dev.becomeSuspect_place]
    exact e2

theorem Dev.checksDone_place (d : Dev) : d.checksDone.hatPlace = d.hatPlace := by
  unfold Dev.checksDone
  rw [Dev.hatPlace_fold (fun e x => ?_)]
  · rfl
  · unfold Dev.compareDone
    dsimp only
    split
    · rw [Dev.mismatch_place]; rfl
    · rfl

theorem Dev.checkRun_place (d : Dev) (w : List Nat) (u : List (Nat × QUnit)) (r c : Nat) (bad : List Nat) :
    (d.checkRun w u r c bad).hatPlace = d.hatPlace := by
  unfold Dev.checkRun
  extract_lets active ts d0 d1 m s2 d2 s3 d3 d4
  have e1 : d1.hatPlace = d.hatPlace := by
    rw [← d.checksDone_place]
    simp only [d1]
    apply Dev.hatPlace_fold
    intro e a
    rfl
  have e3 : d3.hatPlace = d1.hatPlace := rfl
  clear_value d1 d3
  have e4 : d4.hatPlace = d3.hatPlace := by
    simp only [d4]
    apply Dev.hatPlace_fold
    intro e a
    split <;> rfl
  clear_value d4
  split
  · rw [Frame.hatPlace Dev.suspect_frame (by decide), e4, e3, e1]
  · rw [e4, e3, e1]

theorem Dev.nextSheet_some {d : Dev} {s : DoneSheet} (h : d.hat.sheet = some s) : d.nextSheet = d := by
  unfold Dev.nextSheet
  rw [h]

theorem Dev.advance_place {d : Dev} {pl : Plate} {s : DoneSheet} {c : Nat} {rest : List Nat} (h1 : d.hat.sheet = some s)
    (h2 : d.hat.chans = c :: rest) :
    (d.hat.pass + 1 < pl.passes → (d.advance pl).hatPlace = (some s, c :: rest, d.hat.sub, d.hat.pass + 1, d.hat.which)) ∧
    (pl.passes ≤ d.hat.pass + 1 → d.hat.sub + 1 < pl.req.subs →
      (d.advance pl).hatPlace = (some s, c :: rest, d.hat.sub + 1, 0, d.hat.which)) ∧
    (pl.passes ≤ d.hat.pass + 1 → pl.req.subs ≤ d.hat.sub + 1 → rest ≠ [] →
      (d.advance pl).hatPlace = (some s, rest, 0, 0, !d.hat.which)) := by
  unfold Dev.advance
  extract_lets r p h0 s0 d1 s2
  have e1 : d1.hatPlace = d.hatPlace := by
    simp only [d1]
    split <;> rfl
  clear_value d1
  simp only [Dev.hatPlace, Prod.mk.injEq] at e1
  obtain ⟨a, b, c', e, f⟩ := e1
  have hp : p = d.hat.pass + 1 := rfl
  have hr : r = pl.req := rfl
  clear_value p r
  subst hp hr
  refine ⟨fun h => ?_, fun h k => ?_, fun h k l => ?_⟩
  · rw [if_pos h]
    show (d1.hat.sheet, d1.hat.chans, d1.hat.sub, d.hat.pass + 1, d1.hat.which) = _
    rw [a, b, c', f, h1, h2]
  · rw [if_neg (by omega), if_pos (by rw [c']; exact k)]
    show (d1.hat.sheet, d1.hat.chans, d1.hat.sub + 1, 0, d1.hat.which) = _
    rw [a, b, c', f, h1, h2]
  · rw [if_neg (by omega), if_neg (by rw [c']; omega)]
    unfold Dev.handOver
    rw [a, b, h1, h2]
    dsimp only
    rw [if_pos rfl]
    show ((if rest.isEmpty then none else some s), rest, 0, 0, !d1.hat.which) = _
    rw [f, if_neg (by simpa using l)]

theorem Dev.passRun_facts {d : Dev} {bad : List Nat} {s : DoneSheet} {c : Nat} {rest : List Nat} (h1 : d.hat.stopped = none)
    (h2 : d.pwr.level < 3) (h3 : d.hat.sheet = some s) (h4 : d.hat.chans = c :: rest) :
    (d.hat.pass + 1 < (d.plateOf s.at_).passes → (d.passRun bad).hatPlace = (some s, c :: rest, d.hat.sub, d.hat.pass + 1, d.hat.which)) ∧
    ((d.plateOf s.at_).passes ≤ d.hat.pass + 1 → d.hat.sub + 1 < (d.plateOf s.at_).req.subs →
      (d.passRun bad).hatPlace = (some s, c :: rest, d.hat.sub + 1, 0, d.hat.which)) ∧
    ((d.plateOf s.at_).passes ≤ d.hat.pass + 1 → (d.plateOf s.at_).req.subs ≤ d.hat.sub + 1 → rest ≠ [] →
      (d.passRun bad).hatPlace = (some s, rest, 0, 0, !d.hat.which)) := by
  have key : ∃ e x : Dev, e.hatPlace = d.hatPlace ∧ x = (e.advance (d.plateOf s.at_)).nextSheet ∧
      d.passRun bad = if x.hat.sheet.isNone then x.checksDone else x := by
    have ht : d.hatTag = some ((s.at_, c, d.hat.sub, if (d.plateOf s.at_).req.mode = 8 then d.hat.pass else 0), s) := by
      unfold Dev.hatTag; rw [h3, h4]
    generalize hR : d.passRun bad = R
    unfold Dev.passRun at hR
    rw [if_neg (by simp [h1]; omega), Dev.nextSheet_some h3] at hR
    extract_lets at hR
    split at hR
    · next h => rw [ht] at h; cases h
    · next t' s' h =>
      rw [ht] at h
      cases h
      extract_lets pl r at hR
      split at hR
      next x c2 m k hx =>
      extract_lets dm sm dp dc units live db du dn dh dk at hR
      rename_i d0 hb h0 de he dA sx starts tt
      have eE : de.hatPlace = d.hatPlace := Frame.hatPlace Dev.expireHalf_frame (by decide)
      have eA : dA.hatPlace = d.hatPlace := by
        rw [← eE]
        clear_value de
        simp only [dA]
        split
        · exact eE.symm
        · split <;> rfl
      have em : dm.hatPlace = d.hatPlace := by
        rw [← eA]
        clear_value dA
        have hs : ∀ (cnd : Prop) [Decidable cnd], (if cnd then ((dA.bump pgDKL 0x120).raise pgDKL 0x4).markChan s.ream s.idx c2 0x20 else dA).hatPlace = dA.hatPlace := by
          intro cnd _
          split
          · rw [Frame.hatPlace Dev.markChan_frame (by decide), Frame.hatPlace Dev.raise_frame (by decide)]; rfl
          · rfl
        exact hs _
      have ep : dp.hatPlace = d.hatPlace := by
        rw [← em]
        clear_value dm
        simp only [dp]
        rw [Frame.hatPlace Dev.panicCheck_frame (by decide)]; rfl
      have ec : dc.hatPlace = d.hatPlace := by
        rw [← ep]
        clear_value dp
        simp only [dc]
        split <;> rfl
      have eb : db.hatPlace = d.hatPlace := by
        rw [← ec]
        clear_value dc
        simp only [db]
        split <;> rfl
      have eu : du.hatPlace = d.hatPlace := by
        rw [← eb]
        clear_value db
        simp only [du]
        exact Dev.hatPlace_fold (fun _ _ => Dev.drainUnit_place _ _ _ _ _ _ _ _ _ _) _ _
      have en : dn.hatPlace = d.hatPlace := eu
      have eh : dh.hatPlace = d.hatPlace := by
        rw [← en]
        clear_value dn
        simp only [dh]
        split
        · exact Frame.hatPlace Dev.bump_frame (by decide)
        · rfl
      have ek : (dh.checkRun pl.usable live s.ream c2 bad).hatPlace = d.hatPlace :=
        (Dev.checkRun_place _ _ _ _ _ _).trans eh
      exact ⟨_, dk, ek, rfl, hR.symm⟩
  obtain ⟨e, x, he, hx, hk⟩ := key
  have hq := he
  simp only [Dev.hatPlace, Prod.mk.injEq] at hq
  obtain ⟨a, b, g, i, j⟩ := hq
  obtain ⟨u, v, w⟩ := Dev.advance_place (d := e) (pl := d.plateOf s.at_) (a.trans h3) (b.trans h4)
  rw [g, i, j] at u
  rw [i, g, j] at v
  rw [i, g, j] at w
  have fin : ∀ y, (e.advance (d.plateOf s.at_)).hatPlace = (some s, y) → (d.passRun bad).hatPlace = (some s, y) := by
    intro y hy
    have hs : (e.advance (d.plateOf s.at_)).hat.sheet = some s := congrArg Prod.fst hy
    rw [Dev.nextSheet_some hs] at hx
    rw [hk, hx, hs, if_neg (by simp), hy]
  exact ⟨fun h => fin _ (u h), fun h k => fin _ (v h k), fun h k l => fin _ (w h k l)⟩

/-! ### QMASK -/

theorem Dev.qmaskSet_mask (d : Dev) (q c p : Nat) : (d.qmaskSet q c p).hat.qmask = d.hat.qmask ||| BitVec.ofNat 160 (2 ^ q) ∨
    ((d.qmaskSet q c p).hat.qmask = d.hat.qmask ∧ d.hat.qmask.getLsbD q = true) := by
  unfold Dev.qmaskSet
  by_cases h : d.hat.qmask.getLsbD q = true
  · rw [if_pos h]; exact .inr ⟨rfl, h⟩
  · rw [if_neg h]
    left
    unfold Dev.fmapChanged
    dsimp only
    rw [Frame.hat_eq Dev.putBytes_frame (by decide)]

theorem oneBit_getLsbD (q j : Nat) (h : q < 160) : (BitVec.ofNat 160 (2 ^ q)).getLsbD j = decide (j = q) := by
  rw [BitVec.getLsbD_ofNat, Nat.testBit_two_pow]
  by_cases hj : j = q
  · subst hj; simp [h]
  · simp [hj]; intro _; omega

theorem Dev.qmaskSet_bit {d : Dev} {q c p : Nat} (h : q < 160) (j : Nat) :
    (d.qmaskSet q c p).hat.qmask.getLsbD j = (d.hat.qmask.getLsbD j || decide (j = q)) := by
  rcases d.qmaskSet_mask q c p with e | ⟨e, f⟩
  · rw [e, BitVec.getLsbD_or, oneBit_getLsbD _ _ h]
  · rw [e]
    by_cases hj : j = q
    · subst hj; rw [f]; rfl
    · simp [hj]

theorem Dev.qmaskFold (k : Nat) (v : Word) (hk : k < 5) (l : List Nat) (hl : ∀ i ∈ l, i < 32) (d : Dev) (j : Nat) :
    (l.foldl (fun d i =>
      let q := 32 * k + i
      if bitAt i v && decide (q < 148) then
        let d := d.qmaskSet q 4 0
        if 144 ≤ q ∧ d.plt.active.isSome then d.chkOff (q - 144) else d
      else d) d).hat.qmask.getLsbD j =
      (d.hat.qmask.getLsbD j || l.any fun i => decide (j = 32 * k + i) && decide (j < 148) && bitAt i v) := by
  induction l generalizing d with
  | nil => simp
  | cons a l ih =>
    rw [List.foldl_cons, ih fun i hi => hl i (List.mem_cons_of_mem _ hi), List.any_cons]
    dsimp only
    have ha := hl a List.mem_cons_self
    by_cases hc : (bitAt a v && decide (32 * k + a < 148)) = true
    · rw [if_pos hc]
      have hm : ∀ (x : Dev) (cnd : Prop) [Decidable cnd] n, (if cnd then x.chkOff n else x).hat.qmask = x.hat.qmask := by
        intro x cnd _ n; split <;> rfl
      rw [hm, Dev.qmaskSet_bit (by omega), Bool.or_assoc]
      simp only [Bool.and_eq_true, decide_eq_true_eq] at hc
      congr 2
      rw [hc.1, Bool.and_true]
      by_cases hj : j = 32 * k + a
      · simp [hj, hc.2]
      · simp [hj]
    · rw [if_neg hc]
      have : (decide (j = 32 * k + a) && decide (j < 148) && bitAt a v) = false := by
        by_cases hj : j = 32 * k + a
        · subst hj
          simp only [Bool.and_eq_true, decide_eq_true_eq, not_and] at hc
          cases hb : bitAt a v
          · simp
          · simp [hc hb]
        · simp [hj]
      rw [this, Bool.false_or]

theorem Dev.fmapStep_hat (d : Dev) (f : Dev → Dev) : (d.fmapStep f).hat = (f d).hat := by
  unfold Dev.fmapStep
  dsimp only
  split
  · rfl
  · exact Frame.hat_eq Dev.fmapOnce_frame (by decide)

theorem Dev.qmaskWrite_facts {d : Dev} {k : Nat} {v : Word} (hk : k < 5) (h : k = 4 → v >>> 20 = 0) (j : Nat) :
    (d.qmaskWrite k v).hat.qmask.getLsbD j = (d.hat.qmask.getLsbD j ||
        (decide (32 * k ≤ j) && decide (j < 32 * k + 32) && decide (j < 148) && bitAt (j - 32 * k) v)) := by
  unfold Dev.qmaskWrite
  rw [Dev.guard_of (by
    by_cases h4 : k = 4
    · rw [h h4]; subst h4; rfl
    · have : (k == 4) = false := by simpa using h4
      rw [this]; rfl), Dev.fmapStep_hat]
  rw [Dev.qmaskFold k v hk _ (fun i hi => List.mem_range.1 hi)]
  congr 1
  rw [Bool.eq_iff_iff, List.any_eq_true]
  simp only [Bool.and_eq_true, decide_eq_true_eq, List.mem_range]
  constructor
  · rintro ⟨i, hi, ⟨rfl, hq⟩, hb⟩
    refine ⟨⟨⟨by omega, by omega⟩, hq⟩, ?_⟩
    rw [show 32 * k + i - 32 * k = i by omega]; exact hb
  · rintro ⟨⟨⟨h1, h2⟩, h3⟩, h4⟩
    exact ⟨j - 32 * k, by omega, ⟨by omega, h3⟩, h4⟩

/-! ### The accumulator -/

theorem Dev.modGather_acc (d : Dev) (k : Nat) (f : Gather → Gather) : (d.modGather k f).acc.adds = d.acc.adds ∧
    (d.modGather k f).acc.closing.map (fun c => (c.idx, c.buf)) = d.acc.closing.map (fun c => (c.idx, c.buf)) ∧
    (d.modGather k f).acc.recgen = d.acc.recgen ∧ (d.modGather k f).acc.waits.isSome = d.acc.waits.isSome := by
  unfold Dev.modGather
  split
  · refine ⟨rfl, ?_, rfl, ?_⟩
    · dsimp only
      rw [Option.map_map]
      congr 1
      funext c
      dsimp only [Function.comp]
      split <;> rfl
    · dsimp only; rw [Option.isSome_map]
  · exact ⟨rfl, rfl, rfl, rfl⟩

theorem Dev.markChan_adds (d : Dev) (a b c e : Nat) : (d.markChan a b c e).acc.adds = d.acc.adds := by
  unfold Dev.markChan
  exact (Dev.modGather_acc _ _ _).1

theorem Dev.saturate_adds (d : Dev) (r : Req) (s : DoneSheet) (e : SatEnt) : (d.saturate r s e).acc.adds = d.acc.adds := by
  unfold Dev.saturate
  extract_lets d1 d2
  have e1 : d1.acc.adds = d.acc.adds := by
    simp only [d1]
    rw [Frame.acc_eq Dev.bump_frame (by decide), (Dev.modGather_acc _ _ _).1]
  have e2 : d2.acc = d1.acc := by
    clear_value d1
    simp only [d2]; split <;> rfl
  clear_value d2 d1
  split
  · rw [e2, e1]
  · rw [Frame.acc_eq Dev.raise_frame (by decide)]
    show d2.acc.adds = _
    rw [e2, e1]

theorem Dev.addOne_adds (d : Dev) (r : Req) (x : AddItem) (pl b : Nat) (i p : Bool) : (d.addOne r x pl b i p).acc.adds = d.acc.adds := by
  unfold Dev.addOne
  extract_lets e n a first
  generalize addComp r.compBits first x.store.isSome (if (first || p) = true then 0 else d.readInt a n) (if i = true then e.2 else e.1) = vs
  obtain ⟨v, satd⟩ := vs
  dsimp only
  have hw : (d.writeInt a n v).acc = d.acc := Frame.acc_eq Dev.writeInt_frame (by decide)
  split
  · rw [Dev.saturate_adds, hw]
  · rw [hw]

theorem Dev.addEntries_adds (d : Dev) (r : Req) (x : AddItem) (n : Nat) (p : List Nat) : (d.addEntries r x n p).acc.adds = d.acc.adds := by
  unfold Dev.addEntries
  split
  · rfl
  · generalize List.range (min n (r.nplane * r.nbl)) = l
    induction l generalizing d with
    | nil => rfl
    | cons a l ih => rw [List.foldl_cons, ih]; dsimp only; rw [Dev.addOne_adds, Dev.addOne_adds]

theorem Dev.addDone_adds (d : Dev) (x : AddItem) (b : Nat) : (d.addDone x b).acc.adds = d.acc.adds.drop 1 := by
  unfold Dev.addDone
  extract_lets s1 d1
  have e1 : d1.acc.adds = d.acc.adds.drop 1 := rfl
  split
  · exact e1
  · rw [Dev.markChan_adds]

theorem Dev.channelAdd_facts {d : Dev} {poison : List Nat} {x : AddItem} {rest : List AddItem} (h1 : d.acc.adds = x :: rest)
    (h2 : d.sys.state ≠ .frozen) : (d.channelAdd poison).acc.adds = rest := by
  unfold Dev.channelAdd
  rw [h1]
  dsimp only
  rw [if_neg h2]
  have hb : ∀ (y : Dev) (cnd : Prop) [Decidable cnd] p o n, (if cnd then y.bump p o n else y).acc = y.acc := by
    intro y cnd _ p o n; split <;> rfl
  rw [hb, hb, Dev.addDone_adds, Dev.addEntries_adds, h1]
  rfl

theorem Dev.addWindowExpire_facts {d : Dev} {n : Nat} {x : AddItem} {rest : List AddItem} (h1 : d.acc.adds = x :: rest) :
    (d.addWindowExpire n).acc.adds = rest := by
  unfold Dev.addWindowExpire
  rw [h1]
  dsimp only
  generalize hd : (if (d.sys.state == DevState.frozen) = true then
      (if x.sheet.idx + 1 = (d.plateOf x.sheet.at_).req.reamLen then
        d.modGather x.sheet.ream fun g => { g with zeroed := g.zeroed ++ [x.chan] } else d)
    else d.addEntries (d.plateOf x.sheet.at_).req x
      (min n ((d.plateOf x.sheet.at_).req.nplane * (d.plateOf x.sheet.at_).req.nbl - 1)) []) = d1
  have e1 : d1.acc.adds = x :: rest := by
    rw [← h1, ← hd]
    split
    · split
      · exact (d.modGather_acc _ _).1
      · rfl
    · exact Dev.addEntries_adds _ _ _ _ _
  split
  · unfold Dev.addLate
    rw [Frame.acc_eq Dev.raise_frame (by decide), Frame.acc_eq Dev.bump_frame (by decide), Dev.addDone_adds, e1]; rfl
  · rw [Dev.addDone_adds, e1]; rfl

/-- What a report of suspect channels leaves of the records. -/
def Dev.closes (d : Dev) : Option (Nat × Bool) × Nat × Bool :=
  (d.acc.closing.map (fun c => (c.idx, c.buf)), d.acc.recgen.toNat, d.acc.waits.isSome)

theorem Dev.closes_fold {α : Type} {f : Dev → α → Dev} (h : ∀ e a, (f e a).closes = e.closes) (l : List α) (d : Dev) :
    (l.foldl f d).closes = d.closes := by
  induction l generalizing d with
  | nil => rfl
  | cons a l ih => rw [List.foldl_cons, ih, h]

theorem Frame.closes {T : List Part} {d e : Dev} (f : Frame T d e) (h : Part.acc ∉ T) : e.closes = d.closes := by
  unfold Dev.closes; rw [f.acc_eq h]

theorem Dev.flagChan_closes (d : Dev) (r c b o : Nat) : (d.flagChan r c b o).closes = d.closes := by
  unfold Dev.flagChan
  dsimp only
  split
  · rfl
  · rw [Frame.closes Dev.bump_frame (by decide)]
    obtain ⟨h1, h2, h3⟩ := (Dev.modGather_acc d r fun g => { g with flags := Tab.set 0 g.flags c (Tab.get 0 g.flags c ||| b) }).2
    unfold Dev.closes
    rw [h1, h2, h3]

theorem Dev.checksDone_closes (d : Dev) : d.checksDone.closes = d.closes := by
  unfold Dev.checksDone
  rw [Dev.closes_fold (fun e x => ?_)]
  · rfl
  · unfold Dev.compareDone
    dsimp only
    split
    · unfold Dev.mismatch
      extract_lets k q d1 d2 c'
      have e2 : d2.closes = e.closes := by
        simp only [d2]
        exact Dev.closes_fold (fun e a => Dev.flagChan_closes _ _ _ _ _) _ _
      clear_value d2
      split
      · rw [Frame.closes Dev.becomeSuspect_frame (by decide), Frame.closes Dev.raise_frame (by decide),
          Frame.closes Dev.chkOff_frame (by decide), Frame.closes Dev.qmaskSet_frame (by decide), e2]
      · rw [Frame.closes Dev.becomeSuspect_frame (by decide)]
        exact e2
    · rfl

theorem Dev.suspectFlags_facts {d : Dev} {c : Closing} (h : d.acc.closing = some c) :
    (∀ q ∈ d.suspectFlagsClose.hat.unver, ∀ x ∈ q.2, x.1 ≠ c.idx) ∧
      (∃ c', d.suspectFlagsClose.acc.closing = some c' ∧ c'.idx = c.idx ∧ c'.buf = c.buf) ∧
      d.suspectFlagsClose.acc.recgen = d.acc.recgen ∧ d.suspectFlagsClose.acc.waits.isSome = d.acc.waits.isSome := by
  have hc : d.suspectFlagsClose.closes = d.closes ∧ ∀ q ∈ d.suspectFlagsClose.hat.unver, ∀ x ∈ q.2, x.1 ≠ c.idx := by
    unfold Dev.suspectFlagsClose
    have k := d.checksDone_closes
    generalize d.checksDone = e at k
    dsimp only
    split
    · next h' => simp [Dev.closes, h, h'] at k
    · next c' h' =>
      have hi : c'.idx = c.idx := by
        simp only [Dev.closes, h, h', Option.map_some, Prod.mk.injEq, Option.some.injEq] at k
        exact k.1.1
      rw [hi]
      refine ⟨?_, fun q hq x hx => ?_⟩
      · rw [← k]
        exact Dev.closes_fold (fun e a => Dev.flagChan_closes _ _ _ _ _) _ _
      · rw [List.mem_filter, List.mem_map] at hq
        obtain ⟨⟨y, _, rfl⟩, _⟩ := hq
        rw [List.mem_filter] at hx
        simpa using hx.2
  obtain ⟨k, hu⟩ := hc
  simp only [Dev.closes, h, Option.map_some, Prod.mk.injEq] at k
  obtain ⟨a, b, w⟩ := k
  rw [Option.map_eq_some_iff] at a
  obtain ⟨c', hc', he⟩ := a
  rw [Prod.mk.injEq] at he
  exact ⟨hu, ⟨c', hc', he.1, he.2⟩, BitVec.eq_of_toNat_eq b, w⟩

theorem Dev.closeWaiting_none {d : Dev} (h : d.acc.waits = none) : d.closeWaiting = d := by
  unfold Dev.closeWaiting
  rw [h]
  cases d.acc.closing <;> rfl

theorem Dev.recordFinished_facts {d : Dev} {c : Closing} (h1 : d.acc.closing = some c) (h2 : d.acc.waits = none) (h3 : d.memServes = true) :
    d.recordFinished.acc.closing = none ∧ d.recordFinished.acc.recrdy = true ∧ d.recordFinished.acc.recream = c.idx ∧
      d.recordFinished.acc.recbuf = c.buf ∧ d.recordFinished.acc.recgen = d.acc.recgen + 1 := by
  unfold Dev.recordFinished
  rw [h1]
  dsimp only
  rw [if_neg (by simp [h3])]
  obtain ⟨-, ⟨c', hc, hi, hb⟩, hg, hw⟩ := Dev.suspectFlags_facts h1
  rw [h2] at hw
  revert hc hg hw
  generalize d.suspectFlagsClose = e
  intro hc hg hw
  have hfin : e.finishRecord.acc.waits = none ∧ e.finishRecord.acc.closing = none ∧ e.finishRecord.acc.recrdy = true ∧
      e.finishRecord.acc.recream = c.idx ∧ e.finishRecord.acc.recbuf = c.buf ∧ e.finishRecord.acc.recgen = d.acc.recgen + 1 := by
    have hx : ∃ q : Dev, q.acc = e.acc ∧ ∃ wm, e.finishRecord = ({ q with
        acc.closing := none
        acc.recrdy := true
        acc.recbuf := c'.buf
        acc.recgen := q.acc.recgen + 1
        acc.recream := c'.idx
        acc.wmark := wm
        acc.skipped := 0
        acc.lastDone := q.acc.lastDone || c'.last } : Dev).raise pgACC 0x1 := by
      unfold Dev.finishRecord
      split
      · next h => rw [hc] at h; cases h
      · next c2 h =>
        rw [hc] at h
        cases h
        refine ⟨_, ?_, _, rfl⟩
        rw [Frame.acc_eq Dev.putBytes_frame (by decide), Frame.acc_eq Dev.putBytes_frame (by decide), Frame.acc_eq Dev.putBytes_frame (by decide),
          Frame.acc_eq Dev.putBytes_frame (by decide)]
    obtain ⟨q, hq, wm, hfr⟩ := hx
    rw [hfr]
    rw [Frame.acc_eq Dev.raise_frame (by decide)]
    refine ⟨?_, rfl, rfl, hi, hb, ?_⟩
    · show q.acc.waits = none
      rw [hq]
      exact Option.isNone_iff_eq_none.mp (by rw [← Option.not_isSome, hw]; rfl)
    · show q.acc.recgen + 1 = _
      rw [hq, hg]
  revert hfin
  generalize e.finishRecord = e1
  intro hfin
  rw [Dev.closeWaiting_none (by rw [Frame.acc_eq Dev.wmOwn_frame (by decide)]; exact hfin.1)]
  split
  · rw [Frame.acc_eq Dev.endRun_frame (by decide), Frame.acc_eq Dev.wmOwn_frame (by decide)]; exact hfin.2
  · rw [Frame.acc_eq Dev.drainCheck_frame (by decide), Frame.acc_eq Dev.wmOwn_frame (by decide)]; exact hfin.2

end Sys2Proof.Machine
end

