-- ==== Sys2Proof/Laws/FactsBeam.lean ====
section
/-! SUPPORT. What the beam former, the trigger unit and plates do, one lemma per operation. -/

namespace Sys2Proof.Machine

theorem Dev.fabAccept_keeps (d : Dev) (o n : Nat) : Frame [.live] d (d.fabAccept o n) := Dev.fabAccept_frame

theorem Dev.bmfHostWrite_facts {d : Dev} {o : Nat} {l : List Byte} (h1 : d.grantHeld 0 = false) (h2 : o + l.length ≤ d.req.bmTblSize)
    (h3 : ∀ e ∈ l.zipIdx, bmByteErr d.req (o + e.2) e.1 = none) (h4 : (d.page pgBMF).locked = false)
    (h5 : ∀ e ∈ l.zipIdx, bmFixed d.req d.bmf.tbl (o + e.2) e.1 = false) :
    (d.bmfHostWrite true o l).bmf = { d.bmf with sh := tblPut d.bmf.sh o l } := by
  unfold Dev.bmfHostWrite
  rw [if_neg (by simp [h1])]
  unfold Dev.bmfTableWrite
  extract_lets r rej
  rw [if_neg (by simp), if_neg (by show ¬ d.req.bmTblSize < _; omega)]
  have e1 : ((l.zipIdx).findSome? fun e => (bmByteErr r (o + e.2) e.1).map fun c => (c, o + e.2)) = none := by
    rw [List.findSome?_eq_none_iff]
    intro e he
    rw [show bmByteErr r (o + e.2) e.1 = none from h3 e he]; rfl
  have e2 : ((l.zipIdx).find? fun e => bmFixed r d.bmf.tbl (o + e.2) e.1) = none := by
    rw [List.find?_eq_none]
    intro e he
    rw [show bmFixed r d.bmf.tbl (o + e.2) e.1 = false from h5 e he]; decide
  rw [e1]
  dsimp only
  rw [if_neg (by rw [h4]; decide), e2]

theorem Dev.trgHostWrite_facts {d : Dev} {o : Nat} {l : List Byte} (h1 : d.grantHeld 1 = false) (h2 : o + l.length ≤ d.req.tTblSize)
    (h3 : ∀ i < l.length, trgFieldErr d.req (tblPut d.trg.sh o l) (o + i) = none) (h4 : d.pair.state ≠ .matching)
    (h5 : d.pair.state ≠ .ready) (h6 : (d.page pgTRG).locked = false) :
    (d.trgHostWrite true o l).trg = { d.trg with sh := tblPut d.trg.sh o l } := by
  unfold Dev.trgHostWrite
  rw [if_neg (by simp [h1])]
  unfold Dev.trgTableWrite
  extract_lets r rej rej' new errs
  rw [if_neg (by simp; show o + l.length ≤ d.req.tTblSize; exact h2)]
  have e1 : errs = [] := by
    simp only [errs]
    rw [List.filterMap_eq_nil_iff]
    intro i hi
    rw [show trgFieldErr r new (o + i) = none from h3 i (List.mem_range.1 hi)]; rfl
  simp only [e1, List.find?_nil]
  rw [if_neg (by simp [h4, h5]), if_neg (by rw [h6]; decide)]

/-- Where the trigger unit is: the next sample, the last evaluated, a pending change of geometry. -/
def Dev.tickPlace (d : Dev) : Nat × Option Nat × Option (Sfn × Nat) := (d.trg.next, d.trg.lastTick, d.trg.geomAt)

theorem Dev.tickPlace_of {d e : Dev} (h : e.trg = d.trg) : e.tickPlace = d.tickPlace := by unfold Dev.tickPlace; rw [h]

theorem Dev.logFifo_place (d : Dev) (l : List Byte) : (d.logFifo l).tickPlace = d.tickPlace := by
  unfold Dev.logFifo
  dsimp only
  rw [Dev.tickPlace_of (Frame.trg_eq Dev.raise_frame (by decide))]
  have h : ∀ (c : Prop) [Decidable c], (if c then ({ d with trg.fifo := d.trg.fifo.drop 1 }.bump pgTRG 0x170).raise pgTRG 0x4 else d).tickPlace = d.tickPlace := by
    intro c _; split
    · rw [Dev.tickPlace_of (Frame.trg_eq Dev.raise_frame (by decide))]; rfl
    · rfl
  exact h _

theorem Dev.trigOut_place (d : Dev) (m : Nat) : (d.trigOut m).tickPlace = d.tickPlace := by
  unfold Dev.trigOut
  dsimp only
  generalize (List.range 4) = l
  generalize (d.reg (bar pgTRG 0x105C)).toNat % 65536 = w
  induction l generalizing d with
  | nil => rfl
  | cons a l ih =>
    rw [List.foldl_cons, ih]
    split <;> rfl

theorem Dev.decPeer_place (d : Dev) (r : Req) (i : Nat) (id : BitVec 16) (c : Nat) (b : Option Event) :
    (d.decPeer r i id c b).tickPlace = d.tickPlace := by
  unfold Dev.decPeer
  dsimp only
  split
  · rfl
  · split <;> rfl

theorem Dev.tickDecide_place {d : Dev} {lat : Nat} (h : d.tickDue = true) :
    (d.tickDecide lat).tickPlace = (d.trg.next + 1, some d.trg.next, d.trg.geomAt) := by
  unfold Dev.tickDecide
  rw [if_neg (by simp [h])]
  extract_lets i s r tbl lim evs all win a ent late isBad hit held best s1 d1 d2 d3 d4
  have e4 : d4.tickPlace = (d.trg.next + 1, some d.trg.next, d.trg.geomAt) := by
    have e1 : d1.tickPlace = (d.trg.next + 1, some d.trg.next, d.trg.geomAt) := rfl
    have e2 : d2.tickPlace = d1.tickPlace := rfl
    have e3 : d3.tickPlace = d2.tickPlace := by
      clear_value d2
      simp only [d3]; split <;> rfl
    have e4 : d4.tickPlace = d3.tickPlace := by
      clear_value d3
      simp only [d4]; split <;> rfl
    rw [e4, e3, e2, e1]
  clear_value d4
  split
  · exact e4
  rename_i id s5 d5 t hn
  have e5 : d5.tickPlace = d4.tickPlace := rfl
  split
  · rw [Dev.logFifo_place]; exact e4
  clear_value d5
  have e6 : ∀ (c : Prop) [Decidable c] (x : Outcome × Dev), (c → x.2.tickPlace = d5.tickPlace) →
      (if c then x else (({} : Outcome), d5)).2.tickPlace = d5.tickPlace := by
    intro c _ x hx; split
    · next hc => exact hx hc
    · rfl
  have e7 := e6 (ent.getLsbD 1 = true) (d5.decCapture r tbl (ent.toNat / 128 % 8) id t) fun _ => Dev.tickPlace_of (Frame.trg_eq Dev.decCapture_frame (by decide))
  revert e7
  generalize (if ent.getLsbD 1 = true then d5.decCapture r tbl (ent.toNat / 128 % 8) id t else (({} : Outcome), d5)) = x
  obtain ⟨oc, y⟩ := x
  intro e7
  dsimp only at e7 ⊢
  rw [Dev.logFifo_place]
  have h1 : ∀ (z : Dev) (c : Prop) [Decidable c] a b e f g, (if c then z.decPeer a b e f g else z).tickPlace = z.tickPlace := by
    intro z c _ a b e f g; split
    · exact Dev.decPeer_place _ _ _ _ _ _
    · rfl
  have h2 : ∀ (z : Dev) (c : Prop) [Decidable c] a, (if c then z.trigOut a else z).tickPlace = z.tickPlace := by
    intro z c _ a; split
    · exact Dev.trigOut_place _ _
    · rfl
  rw [h1, h2, e7, e5, e4]

theorem Dev.triggerEval_facts {d : Dev} {lat : Nat} (h : d.tickDue = true) (h2 : d.trg.geomAt = none) :
    (d.triggerEval lat).trg.next = d.trg.next + 1 ∧ (d.triggerEval lat).trg.lastTick = some d.trg.next := by
  have e : (d.triggerEval lat).tickPlace = (d.trg.next + 1, some d.trg.next, none) := by
    unfold Dev.triggerEval
    rw [if_neg (by simp [h])]
    extract_lets i a r bad d1
    have e1 : d1.tickPlace = (d.trg.next + 1, some d.trg.next, none) := by
      rw [← h2, ← Dev.tickDecide_place (lat := lat) h]
      simp only [d1]
      have hf : ∀ (l : List Nat) (x : Dev), (l.foldl (fun d b => d.burTrgy (d.run.s0 + BitVec.ofNat 48 (b * r.lf)) bad) x).tickPlace = x.tickPlace := by
        intro l; induction l with
        | nil => exact fun _ => rfl
        | cons a l ih => intro x; rw [List.foldl_cons, ih]; exact Dev.tickPlace_of (Frame.trg_eq Dev.burTrgy_frame (by decide))
      exact hf _ _
    clear_value d1
    have e2 : d1.trgGeom = d1 := by
      unfold Dev.trgGeom
      simp only [Dev.tickPlace, Prod.mk.injEq] at e1
      rw [e1.2.2]
    rw [e2, e1]
  simp only [Dev.tickPlace, Prod.mk.injEq] at e
  exact ⟨e.1, e.2.1⟩

theorem Dev.logEntryWrite_facts {d : Dev} {l : List Byte} {t : List (List Byte)} (h1 : d.trg.fifo = l :: t) (h2 : d.sys.state ≠ .frozen)
    (h3 : d.req.tLogEnts ≠ 0) : d.logEntryWrite.trg.fifo = t ∧ d.logEntryWrite.trg.logwr = (d.trg.logwr + 1) % d.req.tLogEnts ∧
      d.logEntryWrite.mem = (d.putBytes (loadedAddr pgTRG 0x1038 + 64 * d.trg.logwr) l).mem := by
  unfold Dev.logEntryWrite
  extract_lets n
  rw [h1]
  dsimp only
  rw [if_neg (by intro hc; cases hc with | inl h => exact h2 h | inr h => exact h3 h)]
  have key : ∀ (x : Dev), x.trg.fifo = t → x.trg.logwr = (d.trg.logwr + 1) % n → x.mem = (d.putBytes (loadedAddr pgTRG 0x1038 + 64 * d.trg.logwr) l).mem →
      ∀ (c : Bool) (e : Dev → Bool),
      (let y := if c = true then (x.bump pgTRG 0x170).raise pgTRG 0x4 else x
       if e y = true then y.raise pgTRG 0x2 else y).trg.fifo = t ∧
      (let y := if c = true then (x.bump pgTRG 0x170).raise pgTRG 0x4 else x
       if e y = true then y.raise pgTRG 0x2 else y).trg.logwr = (d.trg.logwr + 1) % n ∧
      (let y := if c = true then (x.bump pgTRG 0x170).raise pgTRG 0x4 else x
       if e y = true then y.raise pgTRG 0x2 else y).mem = (d.putBytes (loadedAddr pgTRG 0x1038 + 64 * d.trg.logwr) l).mem := by
    intro x a b f c e
    extract_lets y
    have fy : Frame [.pba, .pirq, .live, .out] x y := by
      simp only [y]
      exact Frame.ite ((Dev.bump_frame.mono (by decide)).trans (Dev.raise_frame.mono (by decide))) (Frame.refl _ _)
    have fz : Frame [.pba, .pirq, .live, .out] x (if e y = true then y.raise pgTRG 0x2 else y) :=
      Frame.ite (fy.trans (Dev.raise_frame.mono (by decide))) fy
    rw [Frame.trg_eq fz (by decide), Frame.mem_eq fz (by decide)]
    exact ⟨a, b, f⟩
  refine key _ ?_ ?_ ?_ ((d.trg.logwr + 1) % n == d.trg.logrd) fun y => (y.reg (bar pgTRG 0x104C)).toNat % 2 ^ 24 != 0 &&
    y.logOcc == (y.reg (bar pgTRG 0x104C)).toNat % 2 ^ 24 && !((d.trg.logwr + 1) % n == d.trg.logrd)
  · rfl
  · rfl
  · rfl

theorem Dev.pltEnd_plt (d : Dev) (st : SlotState) (x : Refused) : ∃ v o, (d.pltEnd st x).plt = { d.plt with
    staged := st, resOp := d.plt.op, op := 0, phase := 0, pct := 100, busy := false, gen := d.plt.gen + 1, code := x.code,
    limqty := x.qty, ready := true, resGen := d.plt.gen + 1, resVal := v, resOff := o, snapReq := [], snapExcl := [], snapQ := 0 } := by
  unfold Dev.pltEnd
  extract_lets p g d1 d2 d3
  refine ⟨BitVec.ofNat 32 x.val, BitVec.ofNat 32 x.off, ?_⟩
  have e3 : d3.plt = d2.plt := by
    clear_value d2
    simp only [d3]; split <;> rfl
  rw [Frame.plt_eq Dev.raise_frame (by decide), e3]
  rfl

end Sys2Proof.Machine
end

