-- ==== Sys2Proof/Laws/FactsOp.lean ====
section
/-! SUPPORT. What a burin core does with one instruction, one lemma per operation. -/

namespace Sys2Proof.Machine

theorem Dev.core_setCore_self (d : Dev) (c : Nat) (x : Core) : (d.setCore c x).core c = x := by
  unfold Dev.core Dev.setCore
  exact Tab.get_set_self _ _ _ _

theorem Dev.core_setCore_ne (d : Dev) {c n : Nat} (x : Core) (h : n ≠ c) : (d.setCore c x).core n = d.core n := by
  unfold Dev.core Dev.setCore
  exact Tab.get_set_ne _ _ _ _ _ _ h

theorem Dev.core_of {d e : Dev} (h : e.bur = d.bur) (n : Nat) : e.core n = d.core n := by unfold Dev.core; rw [h]

theorem Core.bank_with_cyc (x : Core) (n : Nat) : Core.bank { x with cyc := n } = x.bank := rfl

/-- What the core has come to be when its cycle count has gone on. -/
def Dev.timed (d : Dev) (c n : Nat) : Dev := d.setCore c { d.core c with cyc := (d.core c).cyc + n }

theorem Dev.timed_core (d : Dev) (c n : Nat) : (d.timed c n).core c = { d.core c with cyc := (d.core c).cyc + n } := by
  unfold Dev.timed; rw [Dev.core_setCore_self]

theorem Dev.timed_onlyCore (d : Dev) (c n : Nat) : d.onlyCore (d.timed c n) c := fun _ h => by
  unfold Dev.timed; rw [Dev.core_setCore_ne _ _ h]

theorem Dev.burExec_issues {d : Dev} {c : Nat} {op : BOp} (h : d.issues c op = true) :
    d.onPage (burPage c) (fun d => d.burExec c op) = d.burRun c op := by
  simp only [Dev.issues, Bool.and_eq_true, beq_iff_eq] at h
  rw [Dev.onPage_on h.1.1]
  unfold Dev.burExec
  dsimp only
  rw [if_pos h.1.2, h.2]
  dsimp only
  rw [if_pos rfl]

theorem Dev.burRun_done {d d' : Dev} {c n : Nat} {op : BOp} {b : Bank} {w : List BReg} {t j : Option (BitVec 13)}
    (hn : (d.core c).cyclesOf op = n) (he : (d.timed c n).burEffect c op = (.done b w t j, d')) :
    d.burRun c op = d'.setCore c ((d'.core c).setBank (b.advance w t j)).haltDue := by
  unfold Dev.burRun
  dsimp only
  rw [hn]
  unfold Dev.timed at he
  rw [he]

theorem Dev.burRun_ran {d d' : Dev} {c n : Nat} {op : BOp} {b : Bank} {w : List BReg} {t j : Option (BitVec 13)}
    (hn : (d.core c).cyclesOf op = n) (he : (d.timed c n).burEffect c op = (.done b w t j, d'))
    (hb : d'.bur = (d.timed c n).bur) : d.ran (d.burRun c op) c n b w t j := by
  rw [Dev.burRun_done hn he]
  refine ⟨?_, fun k hk => ?_⟩
  · rw [Dev.core_setCore_self, Dev.core_of hb, Dev.timed_core]
  · rw [Dev.core_setCore_ne _ _ hk, Dev.core_of hb, Dev.timed_onlyCore _ _ _ _ hk]

theorem Dev.ran_settle {d e : Dev} {c n : Nat} {b : Bank} {w : List BReg} {t j : Option (BitVec 13)} (h : d.ran e c n b w t j) :
    d.ran e.settle c n b w t j :=
  ⟨by rw [Dev.core_of (Dev.settle_bur e)]; exact h.1, fun k hk => by rw [Dev.core_of (Dev.settle_bur e)]; exact h.2 k hk⟩

theorem Dev.rdD_sees {d : Dev} {b : Bank} {i : Fin 16} {v : BitVec 16} (h : b.seesD i v) : d.rdD b i = (v, d) := by
  unfold Dev.rdD
  rw [if_neg (by simpa using h.1), h.2]

theorem Dev.rdA_sees {d : Dev} {b : Bank} {i : Fin 8} {v : BitVec 16} (h : b.seesA i v) : d.rdA b i = (v, d) := by
  unfold Dev.rdA
  rw [if_neg (by simpa using h.1), h.2]

theorem Dev.rdM_sees {d : Dev} {b : Bank} {i : Fin 8} {v : BitVec 16} (h : b.seesM i v) : d.rdM b i = (v, d) := by
  unfold Dev.rdM
  rw [if_neg (by simpa using h.1), h.2]

theorem Dev.rdS_sees {d : Dev} {b : Bank} {s : BSrc} {v : BitVec 16} (h : b.seesS s v) : d.rdS b s = (v, d) := by
  cases s with
  | reg i => exact Dev.rdD_sees h
  | imm k => simp only [Bank.seesS] at h; simp only [Dev.rdS, h]

/-- What a 16-bit operation leaves: `v` in its register, Z and N from it, C as the spec gives it or open, S. -/
theorem Dev.alu_ran {d : Dev} {c : Nat} {op : BAlu} {dd da : Fin 16} {s : BSrc} {x y : BitVec 16}
    (hx : (d.core c).bank.seesD da x) (hy : (d.core c).bank.seesS s y) {v : BitVec 16} {st : Bool} {cf : Option Bool}
    (ho : aluRun op x y = { val := v, sat := st, c := cf }) :
    ∃ k, (∀ q, cf = some q → k = q) ∧ d.ran (d.burRun c (.alu op dd da s)) c 1
      { (d.core c).bank.wrD dd v with z := v == 0, n := v.msb, c := k, s := (d.core c).bank.s || st } [.d dd] none none := by
  have e : ∃ k d', (∀ q, cf = some q → k = q) ∧ d'.bur = (d.timed c 1).bur ∧
      (d.timed c 1).burEffect c (.alu op dd da s) = (.done { (d.core c).bank.wrD dd v with z := v == 0, n := v.msb, c := k, s := (d.core c).bank.s || st } [.d dd] none none, d') := by
    unfold Dev.burEffect
    dsimp only
    rw [Dev.timed_core, Core.bank_with_cyc]
    unfold Dev.aluOp
    dsimp only
    rw [Dev.rdD_sees hx]
    dsimp only
    rw [Dev.rdS_sees hy]
    dsimp only
    rw [ho]
    cases cf with
    | some q => exact ⟨q, _, fun _ h => by simpa using h, rfl, rfl⟩
    | none => exact ⟨_, (d.timed c 1).fresh.2, nofun, rfl, rfl⟩
  obtain ⟨k, d', h1, h2, h3⟩ := e
  exact ⟨k, h1, Dev.burRun_ran rfl h3 h2⟩

theorem Dev.burLoad_data {d : Dev} {c a : Nat} (h : a < 0x8000) : d.burLoad c a = (.inl ((d.core c).dWord a), d) := by
  unfold Dev.burLoad
  rw [if_pos h]

theorem Dev.macLoad_data {d : Dev} {c n : Nat} {l : Option (Fin 8 × Fin 16)} (h : (d.core c).loadReady l) :
    (d.timed c n).macLoad c (d.core c).bank l = (.inl (l.map fun e => (e.1, e.2, (d.core c).dWord (Tab.get (0 : BitVec 16) (d.core c).bank.ar e.1).toNat,
      postMod ((d.core c).bank.amodeOf e.1) (Tab.get 0 (d.core c).bank.ar e.1) (Tab.get 0 (d.core c).bank.mr e.1))), d.timed c n) := by
  cases l with
  | none => rfl
  | some e =>
    obtain ⟨i, p⟩ := e
    obtain ⟨h1, h2, h3⟩ := h i p rfl
    unfold Dev.macLoad
    dsimp only
    rw [Dev.rdA_sees ⟨h1, rfl⟩]
    dsimp only
    rw [Dev.rdM_sees ⟨h2, rfl⟩]
    dsimp only
    rw [Dev.burLoad_data h3, Dev.timed_core]
    rfl

theorem Dev.macOp_data {d : Dev} {c n : Nat} {ac : Bool} {da db : Fin 16} {l : BLoads} {f : Int → Int} {x y : BitVec 16}
    (hx : (d.core c).bank.seesD da x) (hy : (d.core c).bank.seesD db y) (h1 : (d.core c).loadReady l.l1) (h2 : (d.core c).loadReady l.l2)
    (h3 : ∀ i p j q, l.l1 = some (i, p) → l.l2 = some (j, q) → p ≠ q) :
    (d.timed c n).macOp c (d.core c).bank ac da db l f =
      (.done ((d.core c).loadPut l.l2 ((d.core c).loadPut l.l1 ((d.core c).bank.putAcc (d.core c).sat ac (f (x.toInt * y.toInt)))))
        (loadRegs l.l1 ++ loadRegs l.l2) none none, d.timed c n) := by
  unfold Dev.macOp
  rw [Dev.rdD_sees hx]
  dsimp only
  rw [Dev.rdD_sees hy]
  dsimp only
  rw [Dev.macLoad_data h1]
  dsimp only
  rw [Dev.macLoad_data h2]
  dsimp only
  rw [Dev.timed_core]
  obtain ⟨l1, l2⟩ := l
  cases l1 with
  | none => cases l2 <;> rfl
  | some e =>
    cases l2 with
    | none => rfl
    | some g =>
      obtain ⟨i, p⟩ := e; obtain ⟨j, q⟩ := g
      dsimp only
      rw [if_neg (h3 i p j q rfl rfl)]
      rfl

theorem sat40_eq (v : Int) : sat 40 v = max (-2 ^ 39) (min (2 ^ 39 - 1) v) := by
  unfold sat; norm_num; omega

theorem satHits40_eq (v : Int) : satHits 40 v = decide (v < -2 ^ 39 ∨ 2 ^ 39 - 1 < v) := by
  unfold satHits; rw [sat40_eq]; exact decide_eq_decide.2 (by omega)

theorem Bank.putAcc_eq (b : Bank) (st ac : Bool) (v : Int) : b.putAcc st ac v =
    { b.wrAcc ac (BitVec.ofInt 40 (if st then max (-2 ^ 39) (min (2 ^ 39 - 1) v) else v)) with
      v := b.v || decide (v < -2 ^ 39 ∨ 2 ^ 39 - 1 < v) } := by
  unfold Bank.putAcc acc40
  dsimp only
  rw [sat40_eq, satHits40_eq]

theorem sat16_eq (v : Int) : Machine.sat 16 v = max (-32768) (min 32767 v) := by
  unfold Machine.sat; norm_num; omega

theorem satHits16_eq (v : Int) : satHits 16 v = decide (v < -32768 ∨ 32767 < v) := by
  unfold satHits; rw [sat16_eq]; exact decide_eq_decide.2 (by omega)

theorem movOp_eq (b : Bank) (dd : Fin 16) (ac : Bool) (k : Nat) : movOp b dd ac k =
    .done { b.wrD dd (BitVec.ofInt 16 (max (-32768) (min 32767 (conv k (b.acc ac).toInt)))) with
      s := b.s || decide (conv k (b.acc ac).toInt < -32768 ∨ 32767 < conv k (b.acc ac).toInt) } [.d dd] none none := by
  unfold movOp accMove
  dsimp only
  rw [sat16_eq, satHits16_eq]

theorem Dev.burFault_faulted {d : Dev} {c n k : Nat} : d.faulted ((d.timed c n).burFault c k) c n k := by
  unfold Dev.burFault
  dsimp only
  have hb : ∀ (e : Dev), ((e.burCnt c 0x140).raise (burPage c) 0x1).bur = e.bur := fun e => by
    rw [Frame.bur_eq Dev.raise_frame (by decide)]; rfl
  refine ⟨?_, fun m hm => ?_⟩
  · have hp : (d.core c).bank.pc = if (d.core c).bank1 then (d.core c).b1.pc else (d.core c).b0.pc := by
      unfold Core.bank; split <;> rfl
    rw [Dev.core_of (hb _), Dev.core_setCore_self, Dev.timed_core, hp] <;> rfl
  · rw [Dev.core_of (hb _), Dev.core_setCore_ne _ _ hm, Dev.timed_onlyCore _ _ _ _ hm]

theorem Dev.burRun_faulted {d : Dev} {c k : Nat} {op : BOp} (hn : (d.core c).cyclesOf op = 1)
    (he : (d.timed c 1).burEffect c op = (.fault k, d.timed c 1)) : d.faulted (d.burRun c op) c 1 k := by
  unfold Dev.burRun
  dsimp only
  rw [hn]
  unfold Dev.timed at he
  rw [he]
  exact Dev.burFault_faulted

theorem Dev.faulted_settle {d e : Dev} {c n k : Nat} (h : d.faulted e c n k) : d.faulted e.settle c n k :=
  ⟨by rw [Dev.core_of (Dev.settle_bur e)]; exact h.1, fun m hm => by rw [Dev.core_of (Dev.settle_bur e)]; exact h.2 m hm⟩

/-- Where a load or store goes, and what post-modification leaves. -/
theorem Dev.memAddr_sees {d : Dev} {b : Bank} {ai : Fin 8} {pm : Bool} {ofs a m : BitVec 16} (ha : b.seesA ai a)
    (hm : pm = true → b.seesM ai m) : d.memAddr b ai pm ofs =
      ((if pm then a else a + ofs).toNat, if pm then b.wrA ai (postMod (b.amodeOf ai) a m) else b, if pm then [.a ai] else [], d) := by
  unfold Dev.memAddr
  dsimp only
  rw [Dev.rdA_sees ha]
  dsimp only
  cases pm with
  | false => rfl
  | true => rw [if_pos rfl, Dev.rdM_sees (hm rfl)]; rfl

theorem postMod_bits (z : Nat) (a m : BitVec 16) (hz : z < 16) (j : Nat) :
    (postMod z a m).getLsbD j = if z = 0 ∨ j < z then (a + m).getLsbD j else a.getLsbD j := by
  unfold postMod
  by_cases h : z = 0
  · simp [h]
  · rw [if_neg h]
    dsimp only
    have hk : ∀ j, (BitVec.ofNat 16 (2 ^ z - 1)).getLsbD j = (decide (j < 16) && decide (j < z)) := by
      intro j; rw [BitVec.getLsbD_ofNat, Nat.testBit_two_pow_sub_one]
    rw [BitVec.getLsbD_or, BitVec.getLsbD_and, BitVec.getLsbD_and, BitVec.getLsbD_not, hk]
    by_cases hj : j < 16
    · by_cases h2 : j < z <;> simp [h, h2, hj]
    · rw [BitVec.getLsbD_of_ge a j (by omega), BitVec.getLsbD_of_ge (a + m) j (by omega)]; simp

theorem Bank.amodeOf_lt (b : Bank) (i : Fin 8) : b.amodeOf i < 16 := by
  unfold Bank.amodeOf fld
  refine Nat.lt_of_lt_of_le (Nat.mod_lt _ (by positivity)) ?_
  rw [show 4 * i.val + 3 + 1 - 4 * i.val = 4 by omega]; decide

end Sys2Proof.Machine
end

