-- ==== Sys2Proof/Laws/FactsBur.lean ====
section
/-! SUPPORT. Events, interrupts and reloads of burin cores, one lemma per operation. -/

namespace Sys2Proof.Machine

theorem Core.irq_mem (x : Core) (k t : Nat) : (k, t) ∈ (x.irq k t).irqs := by
  unfold Core.irq
  split
  · next h => simpa using h
  · simp

theorem Core.irq_keeps (x : Core) (k t : Nat) (e : Nat × Nat) (h : e ∈ x.irqs) : e ∈ (x.irq k t).irqs := by
  unfold Core.irq
  split
  · exact h
  · simp [h]

theorem Core.irqs_fold (k : Nat) (l : List Nat) (x : Core) : ∀ t ∈ l, (k, t) ∈ (l.foldl (fun x t => x.irq k t) x).irqs := by
  have hk : ∀ (l : List Nat) (x : Core) e, e ∈ x.irqs → e ∈ (l.foldl (fun x t => x.irq k t) x).irqs := by
    intro l; induction l with
    | nil => exact fun _ _ h => h
    | cons a l ih => intro x e h; exact ih _ _ (Core.irq_keeps _ _ _ _ h)
  induction l generalizing x with
  | nil => exact nofun
  | cons a l ih =>
    intro t ht
    rw [List.foldl_cons]
    rcases List.mem_cons.1 ht with rfl | h
    · exact hk _ _ _ (Core.irq_mem _ _ _)
    · exact ih _ t h

theorem Core.irq_timer (k : Nat) (l : List Nat) (x : Core) : (l.foldl (fun x t => x.irq k t) x).timerAt = x.timerAt := by
  induction l generalizing x with
  | nil => rfl
  | cons a l ih =>
    rw [List.foldl_cons, ih]
    unfold Core.irq; split <;> rfl

theorem Dev.burTimer_facts {d : Dev} {c n : Nat} (hn : (d.core c).ports.tmInterval.toNat * 1000 = n) (h0 : n ≠ 0)
    (h1 : (d.core c).clocked = true) (h2 : n ≤ (d.time.loc - (d.core c).timerAt).toNat) :
    (∀ t ∈ d.irqTasks c evTIMER, (evTIMER, t) ∈ ((d.burTimer c).core c).irqs) ∧
      ((d.burTimer c).core c).timerAt = (d.core c).timerAt + BitVec.ofNat 64 n ∧ d.onlyCore (d.burTimer c) c := by
  unfold Dev.burTimer
  dsimp only
  rw [hn, if_neg (by rintro (h | h | h); exacts [h0 h, by simp [h1] at h, absurd h (by omega)])]
  refine ⟨?_, ?_, fun m hm => ?_⟩
  · rw [Dev.core_setCore_self]; exact Core.irqs_fold _ _ _
  · rw [Dev.core_setCore_self]; dsimp only; rw [Core.irq_timer]
  · rw [Dev.core_setCore_ne _ _ hm]

/-- The state of every core. -/
def Dev.coreStates (d : Dev) (c : Nat) : CoreState × Option Sfn := ((d.core c).state, (d.core c).resumeAt)

theorem Dev.coreStates_setCore (d : Dev) (c : Nat) (x : Core) (h : (x.state, x.resumeAt) = d.coreStates c) :
    (d.setCore c x).coreStates = d.coreStates := by
  funext k
  unfold Dev.coreStates at h ⊢
  rw [Dev.core_setCore]
  split
  · next hk => subst hk; exact h
  · rfl

theorem Dev.coreStates_of {d e : Dev} (h : e.bur = d.bur) : e.coreStates = d.coreStates := by
  funext k; unfold Dev.coreStates; rw [Dev.core_of h]

theorem Dev.coreStates_hold (d : Dev) (l : List (Nat × BEvent × List (BitVec 16))) :
    ({ d with bur.hold := l } : Dev).coreStates = d.coreStates := rfl

theorem Dev.tapDrop_coreStates (d : Dev) (c t : Nat) : (d.tapDrop c t).coreStates = d.coreStates := by
  unfold Dev.tapDrop
  dsimp only
  rw [Dev.coreStates_of (Frame.bur_eq Dev.raise_frame (by decide))]
  exact Dev.coreStates_setCore _ _ _ rfl

theorem Core.ringPut_state (x : Core) (b s w : Nat) (l : List (BitVec 16)) :
    ((x.ringPut b s w l).state, (x.ringPut b s w l).resumeAt) = (x.state, x.resumeAt) := by
  induction l generalizing x w with
  | nil => rfl
  | cons a l ih => unfold Core.ringPut; rw [ih]; rfl

theorem Dev.burPost_coreStates (d : Dev) (c : Nat) (e : BEvent) (l : List (BitVec 16)) :
    (d.burPost c e l).coreStates = d.coreStates := by
  unfold Dev.burPost
  dsimp only
  split
  · rfl
  split
  · rfl
  split
  · split
    · rfl
    · split
      · rfl
      · exact Dev.tapDrop_coreStates _ _ _
  split
  · rfl
  split
  · rfl
  split
  · exact Dev.tapDrop_coreStates _ _ _
  · exact Dev.coreStates_setCore _ _ _ (by exact Core.ringPut_state _ _ _ _ _)

theorem Dev.burStartEvents_coreStates (d : Dev) (c : Nat) (a b : Sfn) (r : Bool) :
    (d.burStartEvents c a b r).coreStates = d.coreStates := by
  unfold Dev.burStartEvents
  dsimp only
  have hf : ∀ (l : List (Placed × Nat)) (e : Dev), (l.foldl (fun d pt =>
      d.burPost c { task := pt.2, kind := evSTART, flags := b2n r, stamp := a } []) e).coreStates = e.coreStates := by
    intro l; induction l with
    | nil => exact fun _ => rfl
    | cons x l ih => intro e; rw [List.foldl_cons, ih, Dev.burPost_coreStates]
  rw [hf]
  exact Dev.coreStates_setCore _ _ _ rfl

theorem Core.load_fixed (x : Core) (r : Req) : (x.load r).tasks = x.tasks ∧ (x.load r).resumeAt = x.resumeAt := by
  have h1 : ∀ (l : List (Word × Nat)) (f : Word × Nat → Nat) (y : Core), ((l.foldl (fun (x : Core) e => x.setP (f e) e.1) y).tasks,
      (l.foldl (fun (x : Core) e => x.setP (f e) e.1) y).resumeAt) = (y.tasks, y.resumeAt) := by
    intro l f; induction l with
    | nil => exact fun _ => rfl
    | cons a l ih => intro y; rw [List.foldl_cons, ih]; rfl
  have h2 : ∀ (l : List Nat) (f : Nat → Nat) (g : Nat → BitVec 16) (y : Core), ((l.foldl (fun (x : Core) w => x.setD (f w) (g w)) y).tasks,
      (l.foldl (fun (x : Core) w => x.setD (f w) (g w)) y).resumeAt) = (y.tasks, y.resumeAt) := by
    intro l f g; induction l with
    | nil => exact fun _ => rfl
    | cons a l ih => intro y; rw [List.foldl_cons, ih]; rfl
  have h3 : ∀ (l : List Placed) (F : Core → Placed → Core) (_ : ∀ y p, ((F y p).tasks, (F y p).resumeAt) = (y.tasks, y.resumeAt)) (y : Core),
      ((l.foldl F y).tasks, (l.foldl F y).resumeAt) = (y.tasks, y.resumeAt) := by
    intro l F hF; induction l with
    | nil => exact fun _ => rfl
    | cons a l ih => intro y; rw [List.foldl_cons, ih, hF]
  have h4 : ∀ (y z : Core), (z.tasks, z.resumeAt) = (y.tasks, y.resumeAt) → (match z.tasks with
      | [] => z
      | p :: _ => { z with cmode := at_ 0 (r.task p.entry 46 1 % 32) ||| at_ 8 (r.task p.entry 47 1) }).tasks = y.tasks ∧
      (match z.tasks with
      | [] => z
      | p :: _ => { z with cmode := at_ 0 (r.task p.entry 46 1 % 32) ||| at_ 8 (r.task p.entry 47 1) }).resumeAt = y.resumeAt := by
    intro y z h
    simp only [Prod.mk.injEq] at h
    split <;> exact h
  unfold Core.load
  refine h4 _ _ (h3 _ _ ?_ _)
  intro y p
  dsimp only
  split
  · exact h1 _ _ _
  · rw [h2]; exact h1 _ _ _

theorem Dev.burReloadDone_facts {d : Dev} {c : Nat} (hc : c < 64) (h1 : (d.core c).state = .loading) (h2 : (d.core c).resumeAt = none)
    (h3 : d.run.outgoing = none) (h4 : d.pwr.level = 0) : ((d.burReloadDone).core c).state = .wait := by
  have key : (d.burReloadDone.coreStates c).1 = .wait := by
    unfold Dev.burReloadDone
    extract_lets waiting cs
    generalize (match d.run.tookAt with
      | some b => (b + BitVec.ofNat 48 (d.req.ks + d.req.w), b + BitVec.ofNat 48 d.req.ks)
      | none => (d.run.s0, d.run.s0)) = ss
    obtain ⟨stamp, since⟩ := ss
    dsimp -zeta only
    have hmem : c ∈ (List.range 64).filter fun c => (d.core c).state == .loading && (d.core c).resumeAt.isNone := by
      simp [hc, h1, h2]
    have hmem : c ∈ cs := hmem
    clear_value cs waiting
    rw [if_neg (by rintro (rfl | h); exacts [by simp at hmem, by simp [h3] at h])]
    have hw : ∀ (l : List (Nat × BEvent × List (BitVec 16))) (e : Dev),
        (l.foldl (fun d e => if cs.contains e.1 then d.burPost e.1 e.2.1 e.2.2 else d) e).coreStates = e.coreStates := by
      intro l; induction l with
      | nil => exact fun _ => rfl
      | cons a l ih =>
        intro e; rw [List.foldl_cons, ih]
        split
        · exact Dev.burPost_coreStates _ _ _ _
        · rfl
    rw [hw]
    have hs : ∀ (F : Dev → Nat → Dev) (_ : ∀ e a, e.pwr.level = 0 → (F e a).pwr.level = 0 ∧
        ((F e a).coreStates c).1 = if c = a then .wait else (e.coreStates c).1) (l : List Nat) (e : Dev), e.pwr.level = 0 →
        (c ∈ l ∨ (e.coreStates c).1 = .wait) → ((l.foldl F e).coreStates c).1 = .wait := by
      intro F hF l; induction l with
      | nil => intro e _ h; simpa using h
      | cons a l ih =>
        intro e hp h
        rw [List.foldl_cons]
        refine ih _ (hF e a hp).1 ?_
        rw [(hF e a hp).2]
        by_cases hca : c = a
        · right; rw [if_pos hca]
        · rw [if_neg hca]
          rcases h with h | h
          · left; rcases List.mem_cons.1 h with h | h
            · exact absurd h hca
            · exact h
          · exact .inr h
    refine hs _ ?_ cs _ ?_ (.inl hmem)
    · intro e a hp
      extract_lets x shed d1 d2
      have hs0 : shed = false := by simp [shed, hp, Core.stops]
      rw [if_neg (by simp [hs0])]
      have q : d2.coreStates = d1.coreStates := Dev.burStartEvents_coreStates _ _ _ _ _
      have qp : d2.pwr.level = e.pwr.level := by
        simp only [d2]; rw [Frame.pwr_eq Dev.burStartEvents_frame (by decide)]; rfl
      refine ⟨by rw [qp, hp], ?_⟩
      rw [q]
      show ((d1.core c).state) = _
      simp only [d1]
      rw [Dev.core_setCore]
      split <;> rfl
    · exact h4
  exact key

theorem Dev.armTicket_armed {d : Dev} {p : Nat} {k : Ticket} (hw : k.when ≠ 0) (hl : isLnb p = false) :
    ((d.armTicket p k).page p).armed = some k ∧ ((d.armTicket p k).page p).locked = true := by
  unfold Dev.armTicket
  dsimp only
  rw [if_neg hw, if_neg (by simp [hl])]
  simp only [Dev.modPage, Dev.page_setPage, if_pos]; exact ⟨trivial, trivial⟩

end Sys2Proof.Machine
end

