-- ==== Sys2Proof/Laws/MemKept.lean ====
section
/-! SUPPORT. Device memory keeps its canonical form: how that composes, and one lemma a function that writes memory. -/

namespace Sys2Proof.Machine

variable {d e d0 : Dev}

theorem MemKept.refl (d : Dev) : MemKept d d := id

theorem MemKept.trans (h : MemKept d0 d) (k : MemKept d e) : MemKept d0 e := fun w => k (h w)

theorem MemKept.next {U : List Part} (h : MemKept d0 d) (k : Frame U d e) (hU : Part.mem ∉ U) : MemKept d0 e :=
  fun w => (k .mem hU : d.mem = e.mem) ▸ h w

theorem MemKept.ite {c : Prop} [Decidable c] (h : MemKept d0 d) (k : MemKept d0 e) : MemKept d0 (if c then d else e) := by
  split <;> assumption

theorem MemKept.ite_of {c : Prop} [Decidable c] (h : MemKept d0 d) (k : MemKept d0 d → MemKept d0 e) :
    MemKept d0 (if c then e else d) := (k h).ite h

theorem MemKept.ite_fst {β : Type} {c : Prop} [Decidable c] {x y : Dev × β} (h : MemKept d0 x.1) (k : MemKept d0 y.1) :
    MemKept d0 (if c then x else y).1 := by
  split <;> assumption

theorem MemKept.ite_snd {β : Type} {c : Prop} [Decidable c] {x y : β × Dev} (h : MemKept d0 x.2) (k : MemKept d0 y.2) :
    MemKept d0 (if c then x else y).2 := by
  split <;> assumption

theorem MemKept.ite_trd {β γ : Type} {c : Prop} [Decidable c] {x y : β × γ × Dev} (h : MemKept d0 x.2.2)
    (k : MemKept d0 y.2.2) : MemKept d0 (if c then x else y).2.2 := by
  split <;> assumption

theorem MemKept.foldl {α : Type} {f : Dev → α → Dev} {l : List α} (h : MemKept d0 d)
    (k : ∀ e a, MemKept d0 e → MemKept d0 (f e a)) : MemKept d0 (l.foldl f d) := by
  induction l generalizing d with
  | nil => exact h
  | cons a l ih => exact ih (k _ a h)

theorem MemKept.foldl_fst {α β : Type} {f : Dev × β → α → Dev × β} {l : List α} {x : Dev × β} (h : MemKept d0 x.1)
    (k : ∀ e a, MemKept d0 e.1 → MemKept d0 (f e a).1) : MemKept d0 (l.foldl f x).1 := by
  induction l generalizing x with
  | nil => exact h
  | cons a l ih => exact ih (k _ a h)

theorem MemKept.foldl_snd {α β : Type} {f : β × Dev → α → β × Dev} {l : List α} {x : β × Dev} (h : MemKept d0 x.2)
    (k : ∀ e a, MemKept d0 e.2 → MemKept d0 (f e a).2) : MemKept d0 (l.foldl f x).2 := by
  induction l generalizing x with
  | nil => exact h
  | cons a l ih => exact ih (k _ a h)

theorem MemKept.foldl_trd {α β γ : Type} {f : β × γ × Dev → α → β × γ × Dev} {l : List α} {x : β × γ × Dev}
    (h : MemKept d0 x.2.2) (k : ∀ e a, MemKept d0 e.2.2 → MemKept d0 (f e a).2.2) : MemKept d0 (l.foldl f x).2.2 := by
  induction l generalizing x with
  | nil => exact h
  | cons a l ih => exact ih (k _ a h)

theorem MemKept.of_fst {β : Type} {x : Dev × β} {b : β} (h : x = (e, b)) (k : MemKept d0 x.1) : MemKept d0 e := by
  subst h; exact k

theorem MemKept.of_snd {β : Type} {x : β × Dev} {b : β} (h : x = (b, e)) (k : MemKept d0 x.2) : MemKept d0 e := by
  subst h; exact k

theorem MemKept.of_trd {β γ : Type} {x : β × γ × Dev} {b : β} {c : γ} (h : x = (b, c, e)) (k : MemKept d0 x.2.2) :
    MemKept d0 e := by
  subst h; exact k

theorem State.kept_run {s t : State} {f : Dev → Dev} (h : s.run f = .next t) (hf : MemKept s.dev (f s.dev)) :
    MemKept s.dev t.dev := by
  cases h; exact hf

theorem State.kept_settled {s t : State} {f : Dev → Dev} (h : s.settled f = .next t)
    (hf : MemKept s.dev (f s.dev).settle) : MemKept s.dev t.dev := by
  cases h; exact hf

/-! An update of other fields keeps memory. -/

theorem MemKept.upd_stats (h : MemKept d0 d) {v0} : MemKept d0 { d with stats := v0 } := h

theorem MemKept.upd_live (h : MemKept d0 d) {v0} : MemKept d0 { d with live := v0 } := h

theorem MemKept.upd_nextc (h : MemKept d0 d) {v0} : MemKept d0 { d with nextc := v0 } := h

theorem MemKept.upd_boot (h : MemKept d0 d) {v0} : MemKept d0 { d with boot := v0 } := h

theorem MemKept.upd_pwr (h : MemKept d0 d) {v0} : MemKept d0 { d with pwr := v0 } := h

theorem MemKept.upd_msp (h : MemKept d0 d) {v0} : MemKept d0 { d with msp := v0 } := h

theorem MemKept.upd_mspSh (h : MemKept d0 d) {v0} : MemKept d0 { d with mspSh := v0 } := h

theorem MemKept.upd_monword (h : MemKept d0 d) {v0} : MemKept d0 { d with monword := v0 } := h

theorem MemKept.upd_eth (h : MemKept d0 d) {v0} : MemKept d0 { d with eth := v0 } := h

theorem MemKept.upd_clk (h : MemKept d0 d) {v0} : MemKept d0 { d with clk := v0 } := h

theorem MemKept.upd_lnb (h : MemKept d0 d) {v0} : MemKept d0 { d with lnb := v0 } := h

theorem MemKept.upd_plt (h : MemKept d0 d) {v0} : MemKept d0 { d with plt := v0 } := h

theorem MemKept.upd_run (h : MemKept d0 d) {v0} : MemKept d0 { d with run := v0 } := h

theorem MemKept.upd_ing (h : MemKept d0 d) {v0} : MemKept d0 { d with ing := v0 } := h

theorem MemKept.upd_dkl (h : MemKept d0 d) {v0} : MemKept d0 { d with dkl := v0 } := h

theorem MemKept.upd_hat (h : MemKept d0 d) {v0} : MemKept d0 { d with hat := v0 } := h

theorem MemKept.upd_acc (h : MemKept d0 d) {v0} : MemKept d0 { d with acc := v0 } := h

theorem MemKept.upd_bmf (h : MemKept d0 d) {v0} : MemKept d0 { d with bmf := v0 } := h

theorem MemKept.upd_trg (h : MemKept d0 d) {v0} : MemKept d0 { d with trg := v0 } := h

theorem MemKept.upd_pair (h : MemKept d0 d) {v0} : MemKept d0 { d with pair := v0 } := h

theorem MemKept.upd_bur (h : MemKept d0 d) {v0} : MemKept d0 { d with bur := v0 } := h

theorem MemKept.upd_mctl (h : MemKept d0 d) {v0} : MemKept d0 { d with mctl := v0 } := h

theorem MemKept.upd_fab (h : MemKept d0 d) {v0} : MemKept d0 { d with fab := v0 } := h

theorem MemKept.upd_hif (h : MemKept d0 d) {v0} : MemKept d0 { d with hif := v0 } := h

theorem MemKept.upd_dma (h : MemKept d0 d) {v0} : MemKept d0 { d with dma := v0 } := h

theorem MemKept.upd_mmu (h : MemKept d0 d) {v0} : MemKept d0 { d with mmu := v0 } := h

theorem MemKept.upd_free (h : MemKept d0 d) {v0} : MemKept d0 { d with free := v0 } := h

theorem MemKept.upd_sys (h : MemKept d0 d) {v0} : MemKept d0 { d with sys := v0 } := h

theorem MemKept.upd_aon (h : MemKept d0 d) {v0} : MemKept d0 { d with aon := v0 } := h

theorem MemKept.upd_time (h : MemKept d0 d) {v0} : MemKept d0 { d with time := v0 } := h

theorem MemKept.upd_regs (h : MemKept d0 d) {v0} : MemKept d0 { d with regs := v0 } := h

theorem MemKept.upd_act (h : MemKept d0 d) {v0} : MemKept d0 { d with act := v0 } := h

theorem MemKept.upd_pages (h : MemKept d0 d) {v0} : MemKept d0 { d with pages := v0 } := h

theorem MemKept.upd_bmf_trg (h : MemKept d0 d) {v0} {v1} : MemKept d0 { d with bmf := v0, trg := v1 } := h

theorem MemKept.upd_boot_hif (h : MemKept d0 d) {v0} {v1} : MemKept d0 { d with boot := v0, hif := v1 } := h

theorem MemKept.upd_boot_mctl (h : MemKept d0 d) {v0} {v1} : MemKept d0 { d with boot := v0, mctl := v1 } := h

theorem MemKept.upd_clk_acc (h : MemKept d0 d) {v0} {v1} : MemKept d0 { d with clk := v0, acc := v1 } := h

theorem MemKept.upd_dkl_hat (h : MemKept d0 d) {v0} {v1} : MemKept d0 { d with dkl := v0, hat := v1 } := h

theorem MemKept.upd_hat_acc (h : MemKept d0 d) {v0} {v1} : MemKept d0 { d with hat := v0, acc := v1 } := h

theorem MemKept.upd_ing_acc_mctl (h : MemKept d0 d) {v0} {v1} {v2} : MemKept d0 { d with ing := v0, acc := v1, mctl := v2 } := h

theorem MemKept.upd_ing_dkl_hat_acc_bmf_trg (h : MemKept d0 d) {v0} {v1} {v2} {v3} {v4} {v5} : MemKept d0 { d with ing := v0, dkl := v1, hat := v2, acc := v3, bmf := v4, trg := v5 } := h

theorem MemKept.upd_live_nextc (h : MemKept d0 d) {v0} {v1} : MemKept d0 { d with live := v0, nextc := v1 } := h

theorem MemKept.upd_lnb_ing (h : MemKept d0 d) {v0} {v1} : MemKept d0 { d with lnb := v0, ing := v1 } := h

theorem MemKept.upd_lnb_ing_acc (h : MemKept d0 d) {v0} {v1} {v2} : MemKept d0 { d with lnb := v0, ing := v1, acc := v2 } := h

theorem MemKept.upd_msp_mspSh_monword (h : MemKept d0 d) {v0} {v1} {v2} : MemKept d0 { d with msp := v0, mspSh := v1, monword := v2 } := h

theorem MemKept.upd_plt_ing (h : MemKept d0 d) {v0} {v1} : MemKept d0 { d with plt := v0, ing := v1 } := h

theorem MemKept.upd_plt_run (h : MemKept d0 d) {v0} {v1} : MemKept d0 { d with plt := v0, run := v1 } := h

theorem MemKept.upd_pwr_acc (h : MemKept d0 d) {v0} {v1} : MemKept d0 { d with pwr := v0, acc := v1 } := h

theorem MemKept.upd_regs_act_stats_live_nextc (h : MemKept d0 d) {v0} {v1} {v2} {v3} {v4} : MemKept d0 { d with regs := v0, act := v1, stats := v2, live := v3, nextc := v4 } := h

theorem MemKept.upd_stats_live_nextc_pwr (h : MemKept d0 d) {v0} {v1} {v2} {v3} : MemKept d0 { d with stats := v0, live := v1, nextc := v2, pwr := v3 } := h

theorem MemKept.upd_sys_boot (h : MemKept d0 d) {v0} {v1} : MemKept d0 { d with sys := v0, boot := v1 } := h

theorem MemKept.upd_sys_run (h : MemKept d0 d) {v0} {v1} : MemKept d0 { d with sys := v0, run := v1 } := h

theorem MemKept.upd_sys_run_ing (h : MemKept d0 d) {v0} {v1} {v2} : MemKept d0 { d with sys := v0, run := v1, ing := v2 } := h

theorem MemKept.upd_trg_pair (h : MemKept d0 d) {v0} {v1} : MemKept d0 { d with trg := v0, pair := v1 } := h

/-! The writes of memory. -/

theorem Dev.setByte_mem {d a b} : MemKept d (Dev.setByte d a b) := Dev.setByte_wf d a b

theorem Dev.putBytes_mem {d a l} : MemKept d (Dev.putBytes d a l) := Dev.putBytes_wf d a l

theorem Tab.wf_clear {α : Type} [DecidableEq α] (d : Nat → α) (p : Nat → Bool) (t : Tab α) (h : Tab.wf d t = true) :
    Tab.wf d (Tab.clear p t) = true := by
  simp only [Tab.wf, Bool.and_eq_true, List.all_eq_true] at h ⊢
  refine ⟨?_, fun e he => h.2 e (List.mem_of_mem_filter he)⟩
  have key : ∀ (t : Tab α) (b : Nat), Tab.above b t = true → Tab.above b (Tab.clear p t) = true := by
    intro t
    induction t with
    | nil => intro b _; rfl
    | cons e t ih =>
      obtain ⟨i, v⟩ := e
      intro b hb
      simp only [Tab.above, Bool.and_eq_true, decide_eq_true_eq] at hb
      have hi := ih i hb.2
      unfold Tab.clear at hi ⊢
      rw [List.filter_cons]
      split
      · simp only [Tab.above, Bool.and_eq_true, decide_eq_true_eq]; exact ⟨hb.1, hi⟩
      · revert hi
        cases List.filter (fun e => !p e.1) t with
        | nil => intro _; rfl
        | cons e' t' =>
          obtain ⟨j, w⟩ := e'
          simp only [Tab.above, Bool.and_eq_true, decide_eq_true_eq]
          intro hi; exact ⟨by omega, hi.2⟩
  obtain ⟨h, _⟩ := h
  cases t with
  | nil => rfl
  | cons e t =>
    obtain ⟨i, v⟩ := e
    simp only [Tab.sorted] at h
    have hi := key t i h
    unfold Tab.clear at hi ⊢
    rw [List.filter_cons]
    split
    · exact hi
    · revert hi
      cases List.filter (fun e => !p e.1) t with
      | nil => intro _; rfl
      | cons e' t' =>
        obtain ⟨j, w⟩ := e'
        simp only [Tab.above, Bool.and_eq_true, Tab.sorted]
        exact fun hi => hi.2

end Sys2Proof.Machine
end

