-- ==== Sys2Proof/Laws/MemKeptFns.lean ====
section
/-! SUPPORT. Device memory keeps its canonical form, one lemma a function that writes memory. -/

namespace Sys2Proof.Machine

/-! ### Ops -/

theorem Dev.guard_mem {d0 d p off errs f4}
    (h : MemKept d0 d) (hf : ∀ e, MemKept d0 e → MemKept d0 (f4 e)) : MemKept d0 (Dev.guard d p off errs f4) := by
  unfold Dev.guard
  split
  refine MemKept.next ?_ Dev.reject_frame (by decide)
  assumption
  refine hf _ ?_
  assumption

/-! ### Ing -/

theorem Dev.completeSheet_mem {d} : MemKept d (Dev.completeSheet d) := by
  unfold Dev.completeSheet
  refine MemKept.ite ?_ ?_
  refine MemKept.upd_sys_run_ing ?_
  refine MemKept.ite ?_ ?_
  refine MemKept.trans ?_ Dev.putBytes_mem
  exact MemKept.refl _
  exact MemKept.refl _
  refine MemKept.next ?_ Dev.raise_frame (by decide)
  refine MemKept.upd_sys_run_ing ?_
  refine MemKept.ite ?_ ?_
  refine MemKept.trans ?_ Dev.putBytes_mem
  exact MemKept.refl _
  exact MemKept.refl _

/-! ### Plan -/

theorem Dev.fmapChanged_mem {d} : MemKept d (Dev.fmapChanged d) := by
  unfold Dev.fmapChanged
  refine MemKept.trans ?_ Dev.putBytes_mem
  refine MemKept.upd_plt ?_
  exact MemKept.refl _

theorem Dev.fmapOnce_mem {d gen} : MemKept d (Dev.fmapOnce d gen) := by
  unfold Dev.fmapOnce
  refine MemKept.trans ?_ Dev.fmapChanged_mem
  refine MemKept.upd_plt ?_
  exact MemKept.refl _

theorem Dev.fmapStep_mem {d f} (h : MemKept d0 (f d)) : MemKept d0 (Dev.fmapStep d f) :=
  MemKept.ite h (MemKept.trans h Dev.fmapOnce_mem)

/-! ### Dkl -/

theorem Dev.couch_mem {d p g f3 fr} : MemKept d (Dev.couch d p g f3 fr) := by
  unfold Dev.couch
  (dsimp only; split)
  refine MemKept.next ?_ Dev.assignPage_frame (by decide)
  exact MemKept.refl _
  refine MemKept.foldl ?_ ?_
  refine MemKept.next ?_ Dev.setPageIn_frame (by decide)
  refine MemKept.ite ?_ ?_
  refine MemKept.next ?_ Dev.bump_frame (by decide)
  refine MemKept.next ?_ Dev.assignPage_frame (by decide)
  exact MemKept.refl _
  refine MemKept.next ?_ Dev.assignPage_frame (by decide)
  exact MemKept.refl _
  intro _ _ _
  refine MemKept.trans ?_ Dev.putBytes_mem
  assumption

theorem Dev.captureRecordWrite_mem {d id} : MemKept d (Dev.captureRecordWrite d id) := by
  unfold Dev.captureRecordWrite
  split
  exact MemKept.refl _
  refine MemKept.ite ?_ ?_
  exact MemKept.refl _
  refine MemKept.next ?_ Dev.raise_frame (by decide)
  refine MemKept.ite ?_ ?_
  refine MemKept.upd_dkl ?_
  refine MemKept.trans ?_ Dev.putBytes_mem
  refine MemKept.foldl ?_ ?_
  exact MemKept.refl _
  intro _ _ _
  refine MemKept.trans ?_ Dev.putBytes_mem
  assumption
  refine MemKept.next ?_ Dev.bump_frame (by decide)
  refine MemKept.upd_dkl ?_
  refine MemKept.trans ?_ Dev.putBytes_mem
  refine MemKept.foldl ?_ ?_
  exact MemKept.refl _
  intro _ _ _
  refine MemKept.trans ?_ Dev.putBytes_mem
  assumption

theorem Dev.streamRequest_mem {d a} : MemKept d (Dev.streamRequest d a) := by
  unfold Dev.streamRequest
  refine MemKept.trans ?_ Dev.captureRecordWrite_mem
  refine MemKept.next ?_ Dev.capRequest_frame (by decide)
  refine MemKept.upd_dkl ?_
  exact MemKept.refl _

theorem Dev.streamDue_mem {d n} : MemKept d (Dev.streamDue d n) := by
  induction n generalizing d with
  | zero => exact MemKept.refl _
  | succ n ih =>
    unfold Dev.streamDue
    refine MemKept.ite ?_ ?_
    refine MemKept.trans ?_ ih
    refine MemKept.trans ?_ Dev.streamRequest_mem
    exact MemKept.refl _
    exact MemKept.refl _

/-! ### Acc -/

theorem Dev.writeInt_mem {d a n v} : MemKept d (Dev.writeInt d a n v) := by
  unfold Dev.writeInt
  refine MemKept.trans ?_ Dev.putBytes_mem
  exact MemKept.refl _

theorem Dev.addOne_mem {d r x pl b imag poisoned} : MemKept d (Dev.addOne d r x pl b imag poisoned) := by
  unfold Dev.addOne
  dsimp only
  refine MemKept.ite ?_ ?_
  refine MemKept.next ?_ Dev.saturate_frame (by decide)
  refine MemKept.trans ?_ Dev.writeInt_mem
  exact MemKept.refl _
  refine MemKept.trans ?_ Dev.writeInt_mem
  exact MemKept.refl _

theorem Dev.addEntries_mem {d r x upto poison} : MemKept d (Dev.addEntries d r x upto poison) := by
  unfold Dev.addEntries
  refine MemKept.ite ?_ ?_
  exact MemKept.refl _
  refine MemKept.foldl ?_ ?_
  exact MemKept.refl _
  intro _ _ _
  refine MemKept.trans ?_ Dev.addOne_mem
  refine MemKept.trans ?_ Dev.addOne_mem
  assumption

theorem Dev.channelAdd_mem {d poison} : MemKept d (Dev.channelAdd d poison) := by
  unfold Dev.channelAdd
  split
  exact MemKept.refl _
  refine MemKept.ite ?_ ?_
  exact MemKept.refl _
  refine MemKept.ite ?_ ?_
  refine MemKept.next ?_ Dev.bump_frame (by decide)
  refine MemKept.ite ?_ ?_
  refine MemKept.next ?_ Dev.bump_frame (by decide)
  refine MemKept.next ?_ Dev.addDone_frame (by decide)
  refine MemKept.trans ?_ Dev.addEntries_mem
  exact MemKept.refl _
  refine MemKept.next ?_ Dev.addDone_frame (by decide)
  refine MemKept.trans ?_ Dev.addEntries_mem
  exact MemKept.refl _
  refine MemKept.ite ?_ ?_
  refine MemKept.next ?_ Dev.bump_frame (by decide)
  refine MemKept.next ?_ Dev.addDone_frame (by decide)
  refine MemKept.trans ?_ Dev.addEntries_mem
  exact MemKept.refl _
  refine MemKept.next ?_ Dev.addDone_frame (by decide)
  refine MemKept.trans ?_ Dev.addEntries_mem
  exact MemKept.refl _

theorem Dev.addWindowExpire_mem {d done} : MemKept d (Dev.addWindowExpire d done) := by
  unfold Dev.addWindowExpire
  split
  exact MemKept.refl _
  refine MemKept.ite ?_ ?_
  refine MemKept.next ?_ Dev.addLate_frame (by decide)
  refine MemKept.ite ?_ ?_
  refine MemKept.ite ?_ ?_
  refine MemKept.next ?_ Dev.modGather_frame (by decide)
  exact MemKept.refl _
  exact MemKept.refl _
  refine MemKept.trans ?_ Dev.addEntries_mem
  exact MemKept.refl _
  refine MemKept.next ?_ Dev.addDone_frame (by decide)
  refine MemKept.ite ?_ ?_
  refine MemKept.ite ?_ ?_
  refine MemKept.next ?_ Dev.modGather_frame (by decide)
  exact MemKept.refl _
  exact MemKept.refl _
  refine MemKept.trans ?_ Dev.addEntries_mem
  exact MemKept.refl _

theorem Dev.expireHalf_mem {d h n} : MemKept d (Dev.expireHalf d h n) := by
  induction n generalizing d with
  | zero => exact MemKept.refl _
  | succ n ih =>
    unfold Dev.expireHalf
    refine MemKept.ite ?_ ?_
    refine MemKept.trans ?_ ih
    refine MemKept.trans ?_ Dev.addWindowExpire_mem
    exact MemKept.refl _
    exact MemKept.refl _

theorem Dev.finishRecord_mem {d} : MemKept d (Dev.finishRecord d) := by
  unfold Dev.finishRecord
  split
  exact MemKept.refl _
  refine MemKept.next ?_ Dev.raise_frame (by decide)
  refine MemKept.upd_acc ?_
  refine MemKept.trans ?_ Dev.putBytes_mem
  refine MemKept.trans ?_ Dev.putBytes_mem
  refine MemKept.trans ?_ Dev.putBytes_mem
  refine MemKept.trans ?_ Dev.putBytes_mem
  exact MemKept.refl _

/-! ### Hat -/

theorem Dev.qmaskSet_mem {d q cause peer} : MemKept d (Dev.qmaskSet d q cause peer) := by
  unfold Dev.qmaskSet
  refine MemKept.ite ?_ ?_
  exact MemKept.refl _
  refine MemKept.trans ?_ Dev.fmapChanged_mem
  refine MemKept.upd_hat ?_
  exact MemKept.refl _

theorem Dev.qmaskWrite_mem {d k v} : MemKept d (Dev.qmaskWrite d k v) := by
  unfold Dev.qmaskWrite
  refine Dev.guard_mem ?_ ?_
  exact MemKept.refl _
  intro _ _
  refine Dev.fmapStep_mem ?_
  refine MemKept.foldl ?_ ?_
  assumption
  intro _ _ _
  refine MemKept.ite ?_ ?_
  refine MemKept.ite ?_ ?_
  refine MemKept.next ?_ Dev.chkOff_frame (by decide)
  refine MemKept.trans ?_ Dev.qmaskSet_mem
  assumption
  refine MemKept.trans ?_ Dev.qmaskSet_mem
  assumption
  assumption

theorem Dev.becomeSuspect_mem {d q peer ream mask} : MemKept d (Dev.becomeSuspect d q peer ream mask) := by
  unfold Dev.becomeSuspect
  refine MemKept.ite ?_ ?_
  exact MemKept.refl _
  split
  (dsimp only; split)
  refine MemKept.upd_hat ?_
  refine MemKept.next ?_ Dev.raise_frame (by decide)
  refine MemKept.trans ?_ Dev.qmaskSet_mem
  refine MemKept.upd_hat ?_
  exact MemKept.refl _
  refine MemKept.next ?_ Dev.raise_frame (by decide)
  refine MemKept.upd_hat ?_
  refine MemKept.next ?_ Dev.raise_frame (by decide)
  refine MemKept.trans ?_ Dev.qmaskSet_mem
  refine MemKept.upd_hat ?_
  exact MemKept.refl _
  (dsimp only; split)
  refine MemKept.upd_hat ?_
  refine MemKept.next ?_ Dev.raise_frame (by decide)
  refine MemKept.upd_hat ?_
  exact MemKept.refl _
  refine MemKept.next ?_ Dev.raise_frame (by decide)
  refine MemKept.upd_hat ?_
  refine MemKept.next ?_ Dev.raise_frame (by decide)
  refine MemKept.upd_hat ?_
  exact MemKept.refl _

theorem Dev.mismatch_mem {d x} : MemKept d (Dev.mismatch d x) := by
  unfold Dev.mismatch
  refine MemKept.ite ?_ ?_
  refine MemKept.trans ?_ Dev.becomeSuspect_mem
  refine MemKept.next ?_ Dev.raise_frame (by decide)
  refine MemKept.next ?_ Dev.chkOff_frame (by decide)
  refine MemKept.trans ?_ Dev.qmaskSet_mem
  refine MemKept.foldl ?_ ?_
  refine MemKept.next ?_ Dev.bump_frame (by decide)
  exact MemKept.refl _
  intro _ _ _
  refine MemKept.next ?_ Dev.suspect_frame (by decide)
  assumption
  refine MemKept.trans ?_ Dev.becomeSuspect_mem
  refine MemKept.upd_hat ?_
  refine MemKept.foldl ?_ ?_
  refine MemKept.next ?_ Dev.bump_frame (by decide)
  exact MemKept.refl _
  intro _ _ _
  refine MemKept.next ?_ Dev.suspect_frame (by decide)
  assumption

theorem Dev.compareDone_mem {d x} : MemKept d (Dev.compareDone d x) := by
  unfold Dev.compareDone
  have h : MemKept d (d.bump pgHAT 0x110) := MemKept.next (MemKept.refl _) Dev.bump_frame (by decide)
  exact MemKept.ite (h.trans Dev.mismatch_mem) h

theorem Dev.checksDone_mem {d} : MemKept d (Dev.checksDone d) := by
  unfold Dev.checksDone
  exact MemKept.foldl (MemKept.upd_hat (MemKept.refl _)) fun _ _ h => h.trans Dev.compareDone_mem

theorem Dev.suspectFlagsClose_mem {d} : MemKept d (Dev.suspectFlagsClose d) := by
  unfold Dev.suspectFlagsClose
  have h : MemKept d d.checksDone := Dev.checksDone_mem
  dsimp only
  split
  · exact h
  · refine MemKept.upd_hat (MemKept.foldl h fun _ _ h => ?_)
    exact h.next Dev.flagChan_frame (by decide)

theorem Dev.dataStop_mem {d} : MemKept d (Dev.dataStop d) := by
  unfold Dev.dataStop
  refine MemKept.next ?_ Dev.runOver_frame (by decide)
  exact (MemKept.next (MemKept.refl _) Dev.cutOpenCaptures_frame (by decide)).trans Dev.suspectFlagsClose_mem

theorem Dev.quiesce_mem {d} : MemKept d (Dev.quiesce d) := by
  unfold Dev.quiesce
  refine MemKept.next ?_ Dev.pairSync_frame (by decide)
  exact Dev.dataStop_mem.next Dev.setState_frame (by decide)

theorem Dev.cmdDo_mem {d0 d errs f2}
    (h : MemKept d0 d) (hf : ∀ e, MemKept d0 e → MemKept d0 (f2 e)) : MemKept d0 (Dev.cmdDo d errs f2).2 := by
  unfold Dev.cmdDo
  split
  assumption
  refine hf _ ?_
  assumption

theorem Dev.cmdOwn_mem {d c o} : MemKept d (Dev.cmdOwn d c o).2 := by
  have r := MemKept.refl d
  unfold Dev.cmdOwn
  split
  · exact Dev.cmdDo_mem r fun _ h => h.next Dev.start_frame (by decide)
  · exact Dev.cmdDo_mem r fun _ h => h.next Dev.stop_frame (by decide)
  · exact Dev.cmdDo_mem r fun _ h => h.trans Dev.quiesce_mem
  · exact Dev.cmdDo_mem r fun _ h => h.next Dev.estop_frame (by decide)
  · exact Dev.cmdDo_mem r fun _ h => h.next Dev.latch_frame (by decide)
  · exact Dev.cmdDo_mem r fun _ h => h.next Dev.build_frame (by decide)
  · exact Dev.cmdDo_mem r fun _ h => h.next Dev.proof_frame (by decide)
  · exact r.next Dev.armCmd_frame (by decide)
  · exact Dev.cmdDo_mem r fun _ h => h.next Dev.selftest_frame (by decide)
  · exact Dev.cmdDo_mem r fun _ h => h.next Dev.retrain_frame (by decide)
  · exact Dev.cmdDo_mem r fun _ h => h.next Dev.thaw_frame (by decide)
  · exact Dev.cmdDo_mem r fun _ h => h.next Dev.handover_frame (by decide)
  · exact Dev.cmdDo_mem r fun _ h => h.next Dev.resync_frame (by decide)

theorem Dev.cmdJudge_mem {d c o} : MemKept d (Dev.cmdJudge d c o) := by
  unfold Dev.cmdJudge
  refine MemKept.next ?_ Dev.settle_frame (by decide)
  refine MemKept.next ?_ Dev.cmdEnd_frame (by decide)
  cases d.cmdRefused c with
  | some r => exact MemKept.refl _
  | none => exact Dev.cmdOwn_mem

theorem Dev.cmdWrite_mem {d v} : MemKept d (Dev.cmdWrite d v) := by
  unfold Dev.cmdWrite
  refine Dev.guard_mem (MemKept.refl _) fun _ h => ?_
  refine MemKept.ite (h.next Dev.estop_frame (by decide)) (MemKept.ite (h.trans Dev.cmdJudge_mem) ?_)
  exact h.next Dev.cmdPut_frame (by decide)

theorem Dev.sysWrite_mem {d o v} : MemKept d (Dev.sysWrite d o v) := by
  unfold Dev.sysWrite
  have r := MemKept.refl d
  refine MemKept.ite (r.trans Dev.cmdWrite_mem) (MemKept.ite (r.next Dev.plainWrite_frame (by decide)) ?_)
  exact MemKept.ite (r.next Dev.irqmapWrite_frame (by decide)) (r.next Dev.reject_frame (by decide))

theorem Dev.checkRun_mem {d w units ream chan bad} : MemKept d (Dev.checkRun d w units ream chan bad) := by
  unfold Dev.checkRun
  refine MemKept.ite ?_ ?_
  refine MemKept.next ?_ Dev.suspect_frame (by decide)
  refine MemKept.foldl ?_ ?_
  refine MemKept.upd_hat ?_
  refine MemKept.upd_hat ?_
  refine MemKept.foldl ?_ ?_
  exact Dev.checksDone_mem
  intro _ _ _
  refine MemKept.upd_hat ?_
  assumption
  intro _ _ _
  refine MemKept.ite ?_ ?_
  refine MemKept.next ?_ Dev.compare_frame (by decide)
  assumption
  assumption
  refine MemKept.foldl ?_ ?_
  refine MemKept.upd_hat ?_
  refine MemKept.upd_hat ?_
  refine MemKept.foldl ?_ ?_
  exact Dev.checksDone_mem
  intro _ _ _
  refine MemKept.upd_hat ?_
  assumption
  intro _ _ _
  refine MemKept.ite ?_ ?_
  refine MemKept.next ?_ Dev.compare_frame (by decide)
  assumption
  assumption

theorem Dev.passRun_mem {d bad} : MemKept d (Dev.passRun d bad) := by
  unfold Dev.passRun
  refine MemKept.ite ?_ ?_
  exact MemKept.refl _
  (dsimp only; split)
  refine MemKept.next ?_ Dev.nextSheet_frame (by decide)
  exact MemKept.refl _
  refine MemKept.ite_of ?_ fun h => h.trans Dev.checksDone_mem
  refine MemKept.next ?_ Dev.nextSheet_frame (by decide)
  refine MemKept.next ?_ Dev.advance_frame (by decide)
  refine MemKept.trans ?_ Dev.checkRun_mem
  refine MemKept.ite ?_ ?_
  refine MemKept.next ?_ Dev.bump_frame (by decide)
  refine MemKept.next ?_ Dev.bump_frame (by decide)
  refine MemKept.foldl ?_ ?_
  refine MemKept.ite ?_ ?_
  refine MemKept.ite ?_ ?_
  refine MemKept.next ?_ Dev.bump_frame (by decide)
  refine MemKept.next ?_ Dev.bump_frame (by decide)
  refine MemKept.next ?_ Dev.panicCheck_frame (by decide)
  refine MemKept.upd_hat ?_
  refine MemKept.ite ?_ ?_
  refine MemKept.next ?_ Dev.markChan_frame (by decide)
  refine MemKept.next ?_ Dev.raise_frame (by decide)
  refine MemKept.next ?_ Dev.bump_frame (by decide)
  refine MemKept.ite ?_ ?_
  refine MemKept.next ?_ Dev.nextSheet_frame (by decide)
  exact MemKept.refl _
  refine MemKept.ite ?_ ?_
  refine MemKept.upd_hat ?_
  refine MemKept.trans ?_ Dev.expireHalf_mem
  refine MemKept.next ?_ Dev.nextSheet_frame (by decide)
  exact MemKept.refl _
  refine MemKept.upd_hat ?_
  refine MemKept.trans ?_ Dev.expireHalf_mem
  refine MemKept.next ?_ Dev.nextSheet_frame (by decide)
  exact MemKept.refl _
  refine MemKept.ite ?_ ?_
  refine MemKept.next ?_ Dev.nextSheet_frame (by decide)
  exact MemKept.refl _
  refine MemKept.ite ?_ ?_
  refine MemKept.upd_hat ?_
  refine MemKept.trans ?_ Dev.expireHalf_mem
  refine MemKept.next ?_ Dev.nextSheet_frame (by decide)
  exact MemKept.refl _
  refine MemKept.upd_hat ?_
  refine MemKept.trans ?_ Dev.expireHalf_mem
  refine MemKept.next ?_ Dev.nextSheet_frame (by decide)
  exact MemKept.refl _
  refine MemKept.next ?_ Dev.panicCheck_frame (by decide)
  refine MemKept.upd_hat ?_
  refine MemKept.ite ?_ ?_
  refine MemKept.next ?_ Dev.markChan_frame (by decide)
  refine MemKept.next ?_ Dev.raise_frame (by decide)
  refine MemKept.next ?_ Dev.bump_frame (by decide)
  refine MemKept.ite ?_ ?_
  refine MemKept.next ?_ Dev.nextSheet_frame (by decide)
  exact MemKept.refl _
  refine MemKept.ite ?_ ?_
  refine MemKept.upd_hat ?_
  refine MemKept.trans ?_ Dev.expireHalf_mem
  refine MemKept.next ?_ Dev.nextSheet_frame (by decide)
  exact MemKept.refl _
  refine MemKept.upd_hat ?_
  refine MemKept.trans ?_ Dev.expireHalf_mem
  refine MemKept.next ?_ Dev.nextSheet_frame (by decide)
  exact MemKept.refl _
  refine MemKept.ite ?_ ?_
  refine MemKept.next ?_ Dev.nextSheet_frame (by decide)
  exact MemKept.refl _
  refine MemKept.ite ?_ ?_
  refine MemKept.upd_hat ?_
  refine MemKept.trans ?_ Dev.expireHalf_mem
  refine MemKept.next ?_ Dev.nextSheet_frame (by decide)
  exact MemKept.refl _
  refine MemKept.upd_hat ?_
  refine MemKept.trans ?_ Dev.expireHalf_mem
  refine MemKept.next ?_ Dev.nextSheet_frame (by decide)
  exact MemKept.refl _
  refine MemKept.next ?_ Dev.bump_frame (by decide)
  refine MemKept.ite ?_ ?_
  refine MemKept.next ?_ Dev.bump_frame (by decide)
  refine MemKept.next ?_ Dev.bump_frame (by decide)
  refine MemKept.next ?_ Dev.panicCheck_frame (by decide)
  refine MemKept.upd_hat ?_
  refine MemKept.ite ?_ ?_
  refine MemKept.next ?_ Dev.markChan_frame (by decide)
  refine MemKept.next ?_ Dev.raise_frame (by decide)
  refine MemKept.next ?_ Dev.bump_frame (by decide)
  refine MemKept.ite ?_ ?_
  refine MemKept.next ?_ Dev.nextSheet_frame (by decide)
  exact MemKept.refl _
  refine MemKept.ite ?_ ?_
  refine MemKept.upd_hat ?_
  refine MemKept.trans ?_ Dev.expireHalf_mem
  refine MemKept.next ?_ Dev.nextSheet_frame (by decide)
  exact MemKept.refl _
  refine MemKept.upd_hat ?_
  refine MemKept.trans ?_ Dev.expireHalf_mem
  refine MemKept.next ?_ Dev.nextSheet_frame (by decide)
  exact MemKept.refl _
  refine MemKept.ite ?_ ?_
  refine MemKept.next ?_ Dev.nextSheet_frame (by decide)
  exact MemKept.refl _
  refine MemKept.ite ?_ ?_
  refine MemKept.upd_hat ?_
  refine MemKept.trans ?_ Dev.expireHalf_mem
  refine MemKept.next ?_ Dev.nextSheet_frame (by decide)
  exact MemKept.refl _
  refine MemKept.upd_hat ?_
  refine MemKept.trans ?_ Dev.expireHalf_mem
  refine MemKept.next ?_ Dev.nextSheet_frame (by decide)
  exact MemKept.refl _
  refine MemKept.next ?_ Dev.panicCheck_frame (by decide)
  refine MemKept.upd_hat ?_
  refine MemKept.ite ?_ ?_
  refine MemKept.next ?_ Dev.markChan_frame (by decide)
  refine MemKept.next ?_ Dev.raise_frame (by decide)
  refine MemKept.next ?_ Dev.bump_frame (by decide)
  refine MemKept.ite ?_ ?_
  refine MemKept.next ?_ Dev.nextSheet_frame (by decide)
  exact MemKept.refl _
  refine MemKept.ite ?_ ?_
  refine MemKept.upd_hat ?_
  refine MemKept.trans ?_ Dev.expireHalf_mem
  refine MemKept.next ?_ Dev.nextSheet_frame (by decide)
  exact MemKept.refl _
  refine MemKept.upd_hat ?_
  refine MemKept.trans ?_ Dev.expireHalf_mem
  refine MemKept.next ?_ Dev.nextSheet_frame (by decide)
  exact MemKept.refl _
  refine MemKept.ite ?_ ?_
  refine MemKept.next ?_ Dev.nextSheet_frame (by decide)
  exact MemKept.refl _
  refine MemKept.ite ?_ ?_
  refine MemKept.upd_hat ?_
  refine MemKept.trans ?_ Dev.expireHalf_mem
  refine MemKept.next ?_ Dev.nextSheet_frame (by decide)
  exact MemKept.refl _
  refine MemKept.upd_hat ?_
  refine MemKept.trans ?_ Dev.expireHalf_mem
  refine MemKept.next ?_ Dev.nextSheet_frame (by decide)
  exact MemKept.refl _
  intro _ _ _
  refine MemKept.next ?_ Dev.drainUnit_frame (by decide)
  assumption
  refine MemKept.next ?_ Dev.bump_frame (by decide)
  refine MemKept.foldl ?_ ?_
  refine MemKept.ite ?_ ?_
  refine MemKept.ite ?_ ?_
  refine MemKept.next ?_ Dev.bump_frame (by decide)
  refine MemKept.next ?_ Dev.bump_frame (by decide)
  refine MemKept.next ?_ Dev.panicCheck_frame (by decide)
  refine MemKept.upd_hat ?_
  refine MemKept.ite ?_ ?_
  refine MemKept.next ?_ Dev.markChan_frame (by decide)
  refine MemKept.next ?_ Dev.raise_frame (by decide)
  refine MemKept.next ?_ Dev.bump_frame (by decide)
  refine MemKept.ite ?_ ?_
  refine MemKept.next ?_ Dev.nextSheet_frame (by decide)
  exact MemKept.refl _
  refine MemKept.ite ?_ ?_
  refine MemKept.upd_hat ?_
  refine MemKept.trans ?_ Dev.expireHalf_mem
  refine MemKept.next ?_ Dev.nextSheet_frame (by decide)
  exact MemKept.refl _
  refine MemKept.upd_hat ?_
  refine MemKept.trans ?_ Dev.expireHalf_mem
  refine MemKept.next ?_ Dev.nextSheet_frame (by decide)
  exact MemKept.refl _
  refine MemKept.ite ?_ ?_
  refine MemKept.next ?_ Dev.nextSheet_frame (by decide)
  exact MemKept.refl _
  refine MemKept.ite ?_ ?_
  refine MemKept.upd_hat ?_
  refine MemKept.trans ?_ Dev.expireHalf_mem
  refine MemKept.next ?_ Dev.nextSheet_frame (by decide)
  exact MemKept.refl _
  refine MemKept.upd_hat ?_
  refine MemKept.trans ?_ Dev.expireHalf_mem
  refine MemKept.next ?_ Dev.nextSheet_frame (by decide)
  exact MemKept.refl _
  refine MemKept.next ?_ Dev.panicCheck_frame (by decide)
  refine MemKept.upd_hat ?_
  refine MemKept.ite ?_ ?_
  refine MemKept.next ?_ Dev.markChan_frame (by decide)
  refine MemKept.next ?_ Dev.raise_frame (by decide)
  refine MemKept.next ?_ Dev.bump_frame (by decide)
  refine MemKept.ite ?_ ?_
  refine MemKept.next ?_ Dev.nextSheet_frame (by decide)
  exact MemKept.refl _
  refine MemKept.ite ?_ ?_
  refine MemKept.upd_hat ?_
  refine MemKept.trans ?_ Dev.expireHalf_mem
  refine MemKept.next ?_ Dev.nextSheet_frame (by decide)
  exact MemKept.refl _
  refine MemKept.upd_hat ?_
  refine MemKept.trans ?_ Dev.expireHalf_mem
  refine MemKept.next ?_ Dev.nextSheet_frame (by decide)
  exact MemKept.refl _
  refine MemKept.ite ?_ ?_
  refine MemKept.next ?_ Dev.nextSheet_frame (by decide)
  exact MemKept.refl _
  refine MemKept.ite ?_ ?_
  refine MemKept.upd_hat ?_
  refine MemKept.trans ?_ Dev.expireHalf_mem
  refine MemKept.next ?_ Dev.nextSheet_frame (by decide)
  exact MemKept.refl _
  refine MemKept.upd_hat ?_
  refine MemKept.trans ?_ Dev.expireHalf_mem
  refine MemKept.next ?_ Dev.nextSheet_frame (by decide)
  exact MemKept.refl _
  refine MemKept.next ?_ Dev.bump_frame (by decide)
  refine MemKept.ite ?_ ?_
  refine MemKept.next ?_ Dev.bump_frame (by decide)
  refine MemKept.next ?_ Dev.bump_frame (by decide)
  refine MemKept.next ?_ Dev.panicCheck_frame (by decide)
  refine MemKept.upd_hat ?_
  refine MemKept.ite ?_ ?_
  refine MemKept.next ?_ Dev.markChan_frame (by decide)
  refine MemKept.next ?_ Dev.raise_frame (by decide)
  refine MemKept.next ?_ Dev.bump_frame (by decide)
  refine MemKept.ite ?_ ?_
  refine MemKept.next ?_ Dev.nextSheet_frame (by decide)
  exact MemKept.refl _
  refine MemKept.ite ?_ ?_
  refine MemKept.upd_hat ?_
  refine MemKept.trans ?_ Dev.expireHalf_mem
  refine MemKept.next ?_ Dev.nextSheet_frame (by decide)
  exact MemKept.refl _
  refine MemKept.upd_hat ?_
  refine MemKept.trans ?_ Dev.expireHalf_mem
  refine MemKept.next ?_ Dev.nextSheet_frame (by decide)
  exact MemKept.refl _
  refine MemKept.ite ?_ ?_
  refine MemKept.next ?_ Dev.nextSheet_frame (by decide)
  exact MemKept.refl _
  refine MemKept.ite ?_ ?_
  refine MemKept.upd_hat ?_
  refine MemKept.trans ?_ Dev.expireHalf_mem
  refine MemKept.next ?_ Dev.nextSheet_frame (by decide)
  exact MemKept.refl _
  refine MemKept.upd_hat ?_
  refine MemKept.trans ?_ Dev.expireHalf_mem
  refine MemKept.next ?_ Dev.nextSheet_frame (by decide)
  exact MemKept.refl _
  refine MemKept.next ?_ Dev.panicCheck_frame (by decide)
  refine MemKept.upd_hat ?_
  refine MemKept.ite ?_ ?_
  refine MemKept.next ?_ Dev.markChan_frame (by decide)
  refine MemKept.next ?_ Dev.raise_frame (by decide)
  refine MemKept.next ?_ Dev.bump_frame (by decide)
  refine MemKept.ite ?_ ?_
  refine MemKept.next ?_ Dev.nextSheet_frame (by decide)
  exact MemKept.refl _
  refine MemKept.ite ?_ ?_
  refine MemKept.upd_hat ?_
  refine MemKept.trans ?_ Dev.expireHalf_mem
  refine MemKept.next ?_ Dev.nextSheet_frame (by decide)
  exact MemKept.refl _
  refine MemKept.upd_hat ?_
  refine MemKept.trans ?_ Dev.expireHalf_mem
  refine MemKept.next ?_ Dev.nextSheet_frame (by decide)
  exact MemKept.refl _
  refine MemKept.ite ?_ ?_
  refine MemKept.next ?_ Dev.nextSheet_frame (by decide)
  exact MemKept.refl _
  refine MemKept.ite ?_ ?_
  refine MemKept.upd_hat ?_
  refine MemKept.trans ?_ Dev.expireHalf_mem
  refine MemKept.next ?_ Dev.nextSheet_frame (by decide)
  exact MemKept.refl _
  refine MemKept.upd_hat ?_
  refine MemKept.trans ?_ Dev.expireHalf_mem
  refine MemKept.next ?_ Dev.nextSheet_frame (by decide)
  exact MemKept.refl _
  intro _ _ _
  refine MemKept.next ?_ Dev.drainUnit_frame (by decide)
  assumption

theorem Dev.quireFails_mem {d q} : MemKept d (Dev.quireFails d q) := by
  unfold Dev.quireFails
  refine MemKept.ite ?_ ?_
  refine MemKept.next ?_ Dev.chkOff_frame (by decide)
  refine MemKept.upd_hat ?_
  exact Dev.qmaskSet_mem
  refine MemKept.upd_hat ?_
  exact Dev.qmaskSet_mem

theorem Dev.hatSelftest_mem {d fail} : MemKept d (Dev.hatSelftest d fail) := by
  unfold Dev.hatSelftest
  refine MemKept.ite ?_ ?_
  refine MemKept.next ?_ Dev.raise_frame (by decide)
  refine MemKept.foldl ?_ ?_
  exact MemKept.refl _
  intro _ _ _
  refine MemKept.ite ?_ ?_
  refine MemKept.trans ?_ Dev.quireFails_mem
  assumption
  refine MemKept.ite ?_ ?_
  refine MemKept.trans ?_ Dev.fmapChanged_mem
  refine MemKept.upd_hat ?_
  assumption
  assumption
  refine MemKept.foldl ?_ ?_
  exact MemKept.refl _
  intro _ _ _
  refine MemKept.ite ?_ ?_
  refine MemKept.trans ?_ Dev.quireFails_mem
  assumption
  refine MemKept.ite ?_ ?_
  refine MemKept.trans ?_ Dev.fmapChanged_mem
  refine MemKept.upd_hat ?_
  assumption
  assumption

/-! ### Bmf -/

theorem Dev.dmaBlock_mem {d r desc bytes} : MemKept d (Dev.dmaBlock d r desc bytes) := by
  unfold Dev.dmaBlock
  refine MemKept.ite ?_ ?_
  refine MemKept.next ?_ Dev.stgDrop_frame (by decide)
  exact MemKept.refl _
  refine MemKept.ite ?_ ?_
  refine MemKept.next ?_ Dev.raise_frame (by decide)
  refine MemKept.upd_bmf ?_
  refine MemKept.trans ?_ Dev.putBytes_mem
  refine MemKept.trans ?_ Dev.putBytes_mem
  exact MemKept.refl _
  refine MemKept.upd_bmf ?_
  refine MemKept.trans ?_ Dev.putBytes_mem
  refine MemKept.trans ?_ Dev.putBytes_mem
  exact MemKept.refl _

theorem Dev.beamOut_mem {d r o inv b} : MemKept d (Dev.beamOut d r o inv b) := by
  unfold Dev.beamOut
  refine MemKept.foldl ?_ ?_
  exact MemKept.refl _
  intro _ _ _
  dsimp only
  refine MemKept.ite ?_ ?_
  refine MemKept.ite ?_ ?_
  refine MemKept.next ?_ Dev.bump_frame (by decide)
  refine MemKept.next ?_ Dev.stgDrop_frame (by decide)
  refine MemKept.ite ?_ ?_
  refine MemKept.trans ?_ Dev.dmaBlock_mem
  refine MemKept.ite ?_ ?_
  assumption
  refine MemKept.next ?_ Dev.bump_frame (by decide)
  assumption
  refine MemKept.ite ?_ ?_
  assumption
  refine MemKept.next ?_ Dev.bump_frame (by decide)
  assumption
  split
  refine MemKept.upd_bmf ?_
  refine MemKept.ite ?_ ?_
  refine MemKept.trans ?_ Dev.dmaBlock_mem
  refine MemKept.ite ?_ ?_
  assumption
  refine MemKept.next ?_ Dev.bump_frame (by decide)
  assumption
  refine MemKept.ite ?_ ?_
  assumption
  refine MemKept.next ?_ Dev.bump_frame (by decide)
  assumption
  refine MemKept.ite ?_ ?_
  refine MemKept.trans ?_ Dev.dmaBlock_mem
  refine MemKept.ite ?_ ?_
  assumption
  refine MemKept.next ?_ Dev.bump_frame (by decide)
  assumption
  refine MemKept.ite ?_ ?_
  assumption
  refine MemKept.next ?_ Dev.bump_frame (by decide)
  assumption
  refine MemKept.ite ?_ ?_
  refine MemKept.trans ?_ Dev.dmaBlock_mem
  refine MemKept.ite ?_ ?_
  assumption
  refine MemKept.next ?_ Dev.bump_frame (by decide)
  assumption
  refine MemKept.ite ?_ ?_
  assumption
  refine MemKept.next ?_ Dev.bump_frame (by decide)
  assumption

theorem Dev.bmfClose_mem {d g f2 overrun lat} : MemKept d (Dev.bmfClose d g f2 overrun lat).2 := by
  unfold Dev.bmfClose
  refine MemKept.ite_snd ?_ ?_
  exact MemKept.refl _
  refine MemKept.ite_snd ?_ ?_
  refine MemKept.next ?_ Dev.rampClose_frame (by decide)
  refine MemKept.upd_bmf ?_
  exact MemKept.refl _
  refine MemKept.next ?_ Dev.rampClose_frame (by decide)
  refine MemKept.next ?_ Dev.peak_frame (by decide)
  refine MemKept.upd_bmf ?_
  refine MemKept.ite ?_ ?_
  refine MemKept.upd_acc ?_
  refine MemKept.next ?_ Dev.bump_frame (by decide)
  refine MemKept.ite ?_ ?_
  refine MemKept.foldl ?_ ?_
  refine MemKept.ite ?_ ?_
  refine MemKept.upd_bmf ?_
  exact MemKept.refl _
  refine MemKept.next ?_ Dev.bump_frame (by decide)
  refine MemKept.upd_bmf ?_
  exact MemKept.refl _
  intro _ _ _
  refine MemKept.trans ?_ Dev.beamOut_mem
  assumption
  refine MemKept.next ?_ Dev.bump_frame (by decide)
  refine MemKept.foldl ?_ ?_
  refine MemKept.ite ?_ ?_
  refine MemKept.upd_bmf ?_
  exact MemKept.refl _
  refine MemKept.next ?_ Dev.bump_frame (by decide)
  refine MemKept.upd_bmf ?_
  exact MemKept.refl _
  intro _ _ _
  refine MemKept.trans ?_ Dev.beamOut_mem
  assumption
  refine MemKept.ite ?_ ?_
  refine MemKept.next ?_ Dev.bump_frame (by decide)
  refine MemKept.next ?_ Dev.bump_frame (by decide)
  refine MemKept.ite ?_ ?_
  refine MemKept.foldl ?_ ?_
  refine MemKept.ite ?_ ?_
  refine MemKept.upd_bmf ?_
  exact MemKept.refl _
  refine MemKept.next ?_ Dev.bump_frame (by decide)
  refine MemKept.upd_bmf ?_
  exact MemKept.refl _
  intro _ _ _
  refine MemKept.trans ?_ Dev.beamOut_mem
  assumption
  refine MemKept.next ?_ Dev.bump_frame (by decide)
  refine MemKept.foldl ?_ ?_
  refine MemKept.ite ?_ ?_
  refine MemKept.upd_bmf ?_
  exact MemKept.refl _
  refine MemKept.next ?_ Dev.bump_frame (by decide)
  refine MemKept.upd_bmf ?_
  exact MemKept.refl _
  intro _ _ _
  refine MemKept.trans ?_ Dev.beamOut_mem
  assumption
  refine MemKept.next ?_ Dev.bump_frame (by decide)
  refine MemKept.ite ?_ ?_
  refine MemKept.foldl ?_ ?_
  refine MemKept.ite ?_ ?_
  refine MemKept.upd_bmf ?_
  exact MemKept.refl _
  refine MemKept.next ?_ Dev.bump_frame (by decide)
  refine MemKept.upd_bmf ?_
  exact MemKept.refl _
  intro _ _ _
  refine MemKept.trans ?_ Dev.beamOut_mem
  assumption
  refine MemKept.next ?_ Dev.bump_frame (by decide)
  refine MemKept.foldl ?_ ?_
  refine MemKept.ite ?_ ?_
  refine MemKept.upd_bmf ?_
  exact MemKept.refl _
  refine MemKept.next ?_ Dev.bump_frame (by decide)
  refine MemKept.upd_bmf ?_
  exact MemKept.refl _
  intro _ _ _
  refine MemKept.trans ?_ Dev.beamOut_mem
  assumption

/-! ### Trg -/

theorem Dev.logEntryWrite_mem {d} : MemKept d (Dev.logEntryWrite d) := by
  unfold Dev.logEntryWrite
  split
  exact MemKept.refl _
  refine MemKept.ite ?_ ?_
  exact MemKept.refl _
  refine MemKept.ite ?_ ?_
  refine MemKept.next ?_ Dev.raise_frame (by decide)
  refine MemKept.ite ?_ ?_
  refine MemKept.next ?_ Dev.raise_frame (by decide)
  refine MemKept.next ?_ Dev.bump_frame (by decide)
  refine MemKept.upd_trg ?_
  refine MemKept.trans ?_ Dev.putBytes_mem
  refine MemKept.upd_trg ?_
  exact MemKept.refl _
  refine MemKept.upd_trg ?_
  refine MemKept.trans ?_ Dev.putBytes_mem
  refine MemKept.upd_trg ?_
  exact MemKept.refl _
  refine MemKept.ite ?_ ?_
  refine MemKept.next ?_ Dev.raise_frame (by decide)
  refine MemKept.next ?_ Dev.bump_frame (by decide)
  refine MemKept.upd_trg ?_
  refine MemKept.trans ?_ Dev.putBytes_mem
  refine MemKept.upd_trg ?_
  exact MemKept.refl _
  refine MemKept.upd_trg ?_
  refine MemKept.trans ?_ Dev.putBytes_mem
  refine MemKept.upd_trg ?_
  exact MemKept.refl _

/-! ### Mem -/

theorem Dev.exclude_mem {d e1} : MemKept d (Dev.exclude d e1) := by
  unfold Dev.exclude
  refine MemKept.ite ?_ ?_
  exact MemKept.refl _
  refine MemKept.ite ?_ ?_
  refine MemKept.next ?_ Dev.raise_frame (by decide)
  refine MemKept.next ?_ Dev.logEvent_frame (by decide)
  refine MemKept.upd_mctl ?_
  exact MemKept.refl _
  refine MemKept.next ?_ Dev.raise_frame (by decide)
  refine MemKept.trans ?_ Dev.fmapChanged_mem
  refine MemKept.upd_plt ?_
  exact MemKept.refl _

theorem Dev.excludeAt_mem {d a} : MemKept d (Dev.excludeAt d a) := by
  unfold Dev.excludeAt
  refine MemKept.trans ?_ Dev.exclude_mem
  exact MemKept.refl _

theorem Dev.exclAddWrite_mem {d v} : MemKept d (Dev.exclAddWrite d v) := by
  unfold Dev.exclAddWrite
  split
  refine MemKept.next ?_ Dev.reject_frame (by decide)
  refine MemKept.ite ?_ ?_
  refine MemKept.trans ?_ Dev.exclude_mem
  exact MemKept.refl _
  exact MemKept.refl _
  refine MemKept.trans ?_ Dev.exclude_mem
  exact MemKept.refl _

theorem Dev.corrected_mem {d scrub a lost} : MemKept d (Dev.corrected d scrub a lost) := by
  unfold Dev.corrected
  refine MemKept.ite ?_ ?_
  refine MemKept.next ?_ Dev.bump_frame (by decide)
  refine MemKept.next ?_ Dev.raise_frame (by decide)
  refine MemKept.ite ?_ ?_
  refine MemKept.next ?_ Dev.logEvent_frame (by decide)
  refine MemKept.ite ?_ ?_
  refine MemKept.next ?_ Dev.bump_frame (by decide)
  refine MemKept.next ?_ Dev.bump_frame (by decide)
  refine MemKept.next ?_ Dev.bump_frame (by decide)
  refine MemKept.next ?_ Dev.setMchan_frame (by decide)
  exact MemKept.refl _
  refine MemKept.next ?_ Dev.bump_frame (by decide)
  refine MemKept.next ?_ Dev.bump_frame (by decide)
  refine MemKept.next ?_ Dev.setMchan_frame (by decide)
  exact MemKept.refl _
  refine MemKept.ite ?_ ?_
  refine MemKept.next ?_ Dev.bump_frame (by decide)
  refine MemKept.next ?_ Dev.bump_frame (by decide)
  refine MemKept.next ?_ Dev.bump_frame (by decide)
  refine MemKept.next ?_ Dev.setMchan_frame (by decide)
  exact MemKept.refl _
  refine MemKept.next ?_ Dev.bump_frame (by decide)
  refine MemKept.next ?_ Dev.bump_frame (by decide)
  refine MemKept.next ?_ Dev.setMchan_frame (by decide)
  exact MemKept.refl _
  refine MemKept.ite ?_ ?_
  refine MemKept.trans ?_ Dev.excludeAt_mem
  refine MemKept.upd_mctl ?_
  refine MemKept.next ?_ Dev.raise_frame (by decide)
  refine MemKept.ite ?_ ?_
  refine MemKept.next ?_ Dev.logEvent_frame (by decide)
  refine MemKept.ite ?_ ?_
  refine MemKept.next ?_ Dev.bump_frame (by decide)
  refine MemKept.next ?_ Dev.bump_frame (by decide)
  refine MemKept.next ?_ Dev.bump_frame (by decide)
  refine MemKept.next ?_ Dev.setMchan_frame (by decide)
  exact MemKept.refl _
  refine MemKept.next ?_ Dev.bump_frame (by decide)
  refine MemKept.next ?_ Dev.bump_frame (by decide)
  refine MemKept.next ?_ Dev.setMchan_frame (by decide)
  exact MemKept.refl _
  refine MemKept.ite ?_ ?_
  refine MemKept.next ?_ Dev.bump_frame (by decide)
  refine MemKept.next ?_ Dev.bump_frame (by decide)
  refine MemKept.next ?_ Dev.bump_frame (by decide)
  refine MemKept.next ?_ Dev.setMchan_frame (by decide)
  exact MemKept.refl _
  refine MemKept.next ?_ Dev.bump_frame (by decide)
  refine MemKept.next ?_ Dev.bump_frame (by decide)
  refine MemKept.next ?_ Dev.setMchan_frame (by decide)
  exact MemKept.refl _
  refine MemKept.upd_mctl ?_
  refine MemKept.next ?_ Dev.raise_frame (by decide)
  refine MemKept.ite ?_ ?_
  refine MemKept.next ?_ Dev.logEvent_frame (by decide)
  refine MemKept.ite ?_ ?_
  refine MemKept.next ?_ Dev.bump_frame (by decide)
  refine MemKept.next ?_ Dev.bump_frame (by decide)
  refine MemKept.next ?_ Dev.bump_frame (by decide)
  refine MemKept.next ?_ Dev.setMchan_frame (by decide)
  exact MemKept.refl _
  refine MemKept.next ?_ Dev.bump_frame (by decide)
  refine MemKept.next ?_ Dev.bump_frame (by decide)
  refine MemKept.next ?_ Dev.setMchan_frame (by decide)
  exact MemKept.refl _
  refine MemKept.ite ?_ ?_
  refine MemKept.next ?_ Dev.bump_frame (by decide)
  refine MemKept.next ?_ Dev.bump_frame (by decide)
  refine MemKept.next ?_ Dev.bump_frame (by decide)
  refine MemKept.next ?_ Dev.setMchan_frame (by decide)
  exact MemKept.refl _
  refine MemKept.next ?_ Dev.bump_frame (by decide)
  refine MemKept.next ?_ Dev.bump_frame (by decide)
  refine MemKept.next ?_ Dev.setMchan_frame (by decide)
  exact MemKept.refl _

theorem Dev.trained_mem {d failed} : MemKept d (Dev.trained d failed) := by
  unfold Dev.trained
  refine MemKept.upd_boot_mctl ?_
  refine MemKept.foldl ?_ ?_
  refine MemKept.foldl ?_ ?_
  exact MemKept.refl _
  intro _ _ _
  refine MemKept.ite ?_ ?_
  refine MemKept.foldl ?_ ?_
  refine MemKept.next ?_ Dev.setMchan_frame (by decide)
  assumption
  intro _ _ _
  refine MemKept.trans ?_ Dev.exclude_mem
  assumption
  refine MemKept.next ?_ Dev.setMchan_frame (by decide)
  assumption
  intro _ _ _
  refine MemKept.next ?_ Dev.modPage_frame (by decide)
  assumption

theorem Dev.trainingDone_mem {d failed bad} : MemKept d (Dev.trainingDone d failed bad) := by
  unfold Dev.trainingDone
  refine MemKept.ite ?_ ?_
  exact MemKept.refl _
  refine MemKept.upd_mctl ?_
  refine MemKept.foldl ?_ ?_
  refine MemKept.trans ?_ Dev.trained_mem
  exact MemKept.refl _
  intro _ _ _
  refine MemKept.trans ?_ Dev.excludeAt_mem
  assumption

theorem Dev.retrainDone_mem {d failed} : MemKept d (Dev.retrainDone d failed) := by
  unfold Dev.retrainDone
  refine MemKept.ite ?_ ?_
  exact MemKept.refl _
  refine MemKept.next ?_ Dev.raise_frame (by decide)
  refine MemKept.upd_mctl ?_
  refine MemKept.trans ?_ Dev.trained_mem
  exact MemKept.refl _

/-! ### Plt -/

theorem Dev.buildDone_mem {d} : MemKept d (Dev.buildDone d) := by
  unfold Dev.buildDone
  refine MemKept.ite ?_ ?_
  exact MemKept.refl _
  (dsimp only; split)
  refine MemKept.next ?_ Dev.pltEnd_frame (by decide)
  exact MemKept.refl _
  refine MemKept.upd_plt ?_
  refine MemKept.next ?_ Dev.pltEnd_frame (by decide)
  refine MemKept.trans ?_ Dev.putBytes_mem
  exact MemKept.refl _

theorem Dev.slotWrite_mem {d slot o l} : MemKept d (Dev.slotWrite d slot o l) := by
  unfold Dev.slotWrite
  refine MemKept.ite ?_ ?_
  refine MemKept.next ?_ Dev.reject_frame (by decide)
  exact MemKept.refl _
  split
  refine MemKept.upd_plt ?_
  refine MemKept.trans ?_ Dev.putBytes_mem
  exact MemKept.refl _
  refine MemKept.upd_plt ?_
  refine MemKept.trans ?_ Dev.putBytes_mem
  exact MemKept.refl _
  refine MemKept.upd_plt ?_
  refine MemKept.trans ?_ Dev.putBytes_mem
  exact MemKept.refl _
  refine MemKept.next ?_ Dev.reject_frame (by decide)
  exact MemKept.refl _

/-! ### Freeze -/

theorem Dev.thawCheckDone_mem {d recur addr syn still} : MemKept d (Dev.thawCheckDone d recur addr syn still) := by
  unfold Dev.thawCheckDone
  refine MemKept.ite ?_ ?_
  exact MemKept.refl _
  refine MemKept.ite ?_ ?_
  refine MemKept.next ?_ Dev.logErr_frame (by decide)
  refine MemKept.next ?_ Dev.perr_frame (by decide)
  refine MemKept.next ?_ Dev.freezeRecord_frame (by decide)
  exact MemKept.refl _
  refine MemKept.ite ?_ ?_
  refine MemKept.next ?_ Dev.accThaw_frame (by decide)
  refine MemKept.next ?_ Dev.egLost_frame (by decide)
  refine MemKept.next ?_ Dev.setState_frame (by decide)
  refine MemKept.ite ?_ ?_
  refine MemKept.next ?_ Dev.accFroze_frame (by decide)
  refine MemKept.upd_ing_acc_mctl ?_
  refine MemKept.ite ?_ ?_
  refine MemKept.trans ?_ Dev.excludeAt_mem
  exact MemKept.refl _
  exact MemKept.refl _
  refine MemKept.upd_ing_acc_mctl ?_
  refine MemKept.ite ?_ ?_
  refine MemKept.trans ?_ Dev.excludeAt_mem
  exact MemKept.refl _
  exact MemKept.refl _
  refine MemKept.next ?_ Dev.egLost_frame (by decide)
  refine MemKept.next ?_ Dev.setState_frame (by decide)
  refine MemKept.ite ?_ ?_
  refine MemKept.next ?_ Dev.accFroze_frame (by decide)
  refine MemKept.upd_ing_acc_mctl ?_
  refine MemKept.ite ?_ ?_
  refine MemKept.trans ?_ Dev.excludeAt_mem
  exact MemKept.refl _
  exact MemKept.refl _
  refine MemKept.upd_ing_acc_mctl ?_
  refine MemKept.ite ?_ ?_
  refine MemKept.trans ?_ Dev.excludeAt_mem
  exact MemKept.refl _
  exact MemKept.refl _

theorem Dev.scrubChan_mem {d c found} : MemKept d (Dev.scrubChan d c found) := by
  unfold Dev.scrubChan
  refine MemKept.ite ?_ ?_
  exact MemKept.refl _
  refine MemKept.ite ?_ ?_
  refine MemKept.upd_mctl ?_
  refine MemKept.trans ?_ Dev.corrected_mem
  exact MemKept.refl _
  refine MemKept.next ?_ Dev.freezeAt_frame (by decide)
  exact MemKept.refl _

theorem Dev.patrolScrub_mem {d found} : MemKept d (Dev.patrolScrub d found) := by
  unfold Dev.patrolScrub
  refine MemKept.ite ?_ ?_
  exact MemKept.refl _
  refine MemKept.ite ?_ ?_
  refine MemKept.foldl ?_ ?_
  exact MemKept.refl _
  intro _ _ _
  refine MemKept.trans ?_ Dev.scrubChan_mem
  assumption
  refine MemKept.ite ?_ ?_
  refine MemKept.upd_mctl ?_
  refine MemKept.ite ?_ ?_
  refine MemKept.next ?_ Dev.bump_frame (by decide)
  refine MemKept.foldl ?_ ?_
  exact MemKept.refl _
  intro _ _ _
  refine MemKept.trans ?_ Dev.scrubChan_mem
  assumption
  refine MemKept.foldl ?_ ?_
  exact MemKept.refl _
  intro _ _ _
  refine MemKept.trans ?_ Dev.scrubChan_mem
  assumption
  refine MemKept.upd_mctl ?_
  refine MemKept.ite ?_ ?_
  refine MemKept.next ?_ Dev.bump_frame (by decide)
  refine MemKept.foldl ?_ ?_
  exact MemKept.refl _
  intro _ _ _
  refine MemKept.trans ?_ Dev.scrubChan_mem
  assumption
  refine MemKept.foldl ?_ ?_
  exact MemKept.refl _
  intro _ _ _
  refine MemKept.trans ?_ Dev.scrubChan_mem
  assumption

/-! ### Fab -/

theorem Dev.memRead_mem {d a n ce ue} : MemKept d (Dev.memRead d a n ce ue).2.2 := by
  unfold Dev.memRead
  refine MemKept.foldl ?_ ?_
  refine MemKept.foldl ?_ ?_
  refine MemKept.foldl ?_ ?_
  refine MemKept.foldl ?_ ?_
  exact MemKept.refl _
  intro _ _ _
  refine MemKept.next ?_ Dev.bump_frame (by decide)
  assumption
  intro _ _ _
  refine MemKept.trans ?_ Dev.corrected_mem
  assumption
  intro _ _ _
  refine MemKept.trans ?_ Dev.corrected_mem
  assumption
  intro _ _ _
  refine MemKept.next ?_ Dev.freezeAt_frame (by decide)
  assumption

theorem Dev.memWrite_mem {d a l} : MemKept d (Dev.memWrite d a l) := by
  unfold Dev.memWrite
  refine MemKept.ite ?_ ?_
  refine MemKept.next ?_ Dev.memWritten_frame (by decide)
  refine MemKept.trans ?_ Dev.putBytes_mem
  refine MemKept.foldl ?_ ?_
  exact MemKept.refl _
  intro _ _ _
  refine MemKept.trans ?_ Dev.corrected_mem
  assumption
  refine MemKept.foldl ?_ ?_
  refine MemKept.next ?_ Dev.memWritten_frame (by decide)
  refine MemKept.foldl ?_ ?_
  refine MemKept.foldl ?_ ?_
  exact MemKept.refl _
  intro _ _ _
  refine MemKept.trans ?_ Dev.corrected_mem
  assumption
  intro _ _ _
  refine MemKept.ite ?_ ?_
  assumption
  refine MemKept.trans ?_ Dev.setByte_mem
  assumption
  intro _ _ _
  refine MemKept.next ?_ Dev.freezeAt_frame (by decide)
  assumption

theorem Dev.hostRead_mem {d a n ce ue} : MemKept d (Dev.hostRead d a n ce ue) := by
  unfold Dev.hostRead
  refine MemKept.ite ?_ ?_
  exact MemKept.refl _
  refine MemKept.ite ?_ ?_
  refine MemKept.ite ?_ ?_
  refine MemKept.next ?_ Dev.emit_frame (by decide)
  exact MemKept.refl _
  refine MemKept.next ?_ Dev.emit_frame (by decide)
  exact MemKept.refl _
  refine MemKept.ite ?_ ?_
  refine MemKept.next ?_ Dev.readFails_frame (by decide)
  exact MemKept.refl _
  split
  refine MemKept.next ?_ Dev.readFails_frame (by decide)
  refine MemKept.next ?_ Dev.fabAccept_frame (by decide)
  exact MemKept.refl _
  refine MemKept.ite ?_ ?_
  refine MemKept.next ?_ Dev.readFails_frame (by decide)
  refine MemKept.next ?_ Dev.fabAccept_frame (by decide)
  exact MemKept.refl _
  refine MemKept.ite ?_ ?_
  refine MemKept.next ?_ Dev.fabWait_frame (by decide)
  refine MemKept.next ?_ Dev.fabAccept_frame (by decide)
  exact MemKept.refl _
  dsimp only
  refine MemKept.next ?_ Dev.emit_frame (by decide)
  refine MemKept.ite ?_ ?_
  refine MemKept.next ?_ Dev.fabErr_frame (by decide)
  refine MemKept.next ?_ Dev.bump_frame (by decide)
  refine MemKept.trans ?_ Dev.memRead_mem
  refine MemKept.next ?_ Dev.fabAccept_frame (by decide)
  exact MemKept.refl _
  refine MemKept.trans ?_ Dev.memRead_mem
  refine MemKept.next ?_ Dev.fabAccept_frame (by decide)
  exact MemKept.refl _
  refine MemKept.ite ?_ ?_
  refine MemKept.next ?_ Dev.readFails_frame (by decide)
  refine MemKept.next ?_ Dev.fabAccept_frame (by decide)
  exact MemKept.refl _
  refine MemKept.ite ?_ ?_
  refine MemKept.next ?_ Dev.fabWait_frame (by decide)
  refine MemKept.next ?_ Dev.fabAccept_frame (by decide)
  exact MemKept.refl _
  dsimp only
  refine MemKept.next ?_ Dev.emit_frame (by decide)
  refine MemKept.ite ?_ ?_
  refine MemKept.next ?_ Dev.fabErr_frame (by decide)
  refine MemKept.next ?_ Dev.bump_frame (by decide)
  refine MemKept.trans ?_ Dev.memRead_mem
  refine MemKept.next ?_ Dev.fabAccept_frame (by decide)
  exact MemKept.refl _
  refine MemKept.trans ?_ Dev.memRead_mem
  refine MemKept.next ?_ Dev.fabAccept_frame (by decide)
  exact MemKept.refl _
  refine MemKept.next ?_ Dev.emit_frame (by decide)
  refine MemKept.next ?_ Dev.fabAccept_frame (by decide)
  exact MemKept.refl _

theorem Dev.hostWrite_mem {d a l ep} : MemKept d (Dev.hostWrite d a l ep) := by
  unfold Dev.hostWrite
  refine MemKept.ite ?_ ?_
  exact MemKept.refl _
  refine MemKept.ite ?_ ?_
  refine MemKept.ite ?_ ?_
  refine MemKept.ite ?_ ?_
  refine MemKept.next ?_ Dev.reject_frame (by decide)
  exact MemKept.refl _
  refine MemKept.ite ?_ ?_
  refine MemKept.upd_boot ?_
  exact MemKept.refl _
  refine MemKept.upd_boot ?_
  exact MemKept.refl _
  refine MemKept.next ?_ Dev.emit_frame (by decide)
  exact MemKept.refl _
  refine MemKept.ite ?_ ?_
  refine MemKept.next ?_ Dev.writeLost_frame (by decide)
  exact MemKept.refl _
  split
  split
  refine MemKept.next ?_ Dev.writeLost_frame (by decide)
  refine MemKept.next ?_ Dev.fabAccept_frame (by decide)
  refine MemKept.next ?_ Dev.bump_frame (by decide)
  exact MemKept.refl _
  refine MemKept.ite ?_ ?_
  refine MemKept.next ?_ Dev.writeLost_frame (by decide)
  refine MemKept.next ?_ Dev.fabAccept_frame (by decide)
  refine MemKept.next ?_ Dev.bump_frame (by decide)
  exact MemKept.refl _
  refine MemKept.next ?_ Dev.writeLost_frame (by decide)
  refine MemKept.next ?_ Dev.fabErr_frame (by decide)
  refine MemKept.next ?_ Dev.fabAccept_frame (by decide)
  refine MemKept.next ?_ Dev.bump_frame (by decide)
  exact MemKept.refl _
  refine MemKept.next ?_ Dev.writeLost_frame (by decide)
  refine MemKept.next ?_ Dev.fabErr_frame (by decide)
  refine MemKept.next ?_ Dev.fabAccept_frame (by decide)
  refine MemKept.next ?_ Dev.bump_frame (by decide)
  exact MemKept.refl _
  refine MemKept.next ?_ Dev.writeLost_frame (by decide)
  refine MemKept.next ?_ Dev.fabErr_frame (by decide)
  refine MemKept.next ?_ Dev.fabAccept_frame (by decide)
  refine MemKept.next ?_ Dev.bump_frame (by decide)
  exact MemKept.refl _
  refine MemKept.next ?_ Dev.writeLost_frame (by decide)
  refine MemKept.next ?_ Dev.fabErr_frame (by decide)
  refine MemKept.next ?_ Dev.fabAccept_frame (by decide)
  refine MemKept.next ?_ Dev.bump_frame (by decide)
  exact MemKept.refl _
  refine MemKept.next ?_ Dev.writeLost_frame (by decide)
  refine MemKept.next ?_ Dev.fabErr_frame (by decide)
  refine MemKept.next ?_ Dev.fabAccept_frame (by decide)
  refine MemKept.next ?_ Dev.bump_frame (by decide)
  exact MemKept.refl _
  refine MemKept.next ?_ Dev.writeLost_frame (by decide)
  refine MemKept.next ?_ Dev.fabErr_frame (by decide)
  refine MemKept.next ?_ Dev.fabAccept_frame (by decide)
  refine MemKept.next ?_ Dev.bump_frame (by decide)
  exact MemKept.refl _
  refine MemKept.next ?_ Dev.writeLost_frame (by decide)
  refine MemKept.next ?_ Dev.fabAccept_frame (by decide)
  refine MemKept.next ?_ Dev.bump_frame (by decide)
  exact MemKept.refl _
  split
  refine MemKept.next ?_ Dev.writeLost_frame (by decide)
  refine MemKept.next ?_ Dev.fabAccept_frame (by decide)
  exact MemKept.refl _
  refine MemKept.ite ?_ ?_
  refine MemKept.next ?_ Dev.writeLost_frame (by decide)
  refine MemKept.next ?_ Dev.fabAccept_frame (by decide)
  exact MemKept.refl _
  split
  refine MemKept.next ?_ Dev.reject_frame (by decide)
  refine MemKept.next ?_ Dev.writeLost_frame (by decide)
  refine MemKept.next ?_ Dev.fabErr_frame (by decide)
  refine MemKept.next ?_ Dev.fabAccept_frame (by decide)
  exact MemKept.refl _
  refine MemKept.ite ?_ ?_
  refine MemKept.next ?_ Dev.fabWait_frame (by decide)
  refine MemKept.next ?_ Dev.fabAccept_frame (by decide)
  exact MemKept.refl _
  refine MemKept.next ?_ Dev.injectAt_frame (by decide)
  refine MemKept.trans ?_ Dev.memWrite_mem
  refine MemKept.next ?_ Dev.fabAccept_frame (by decide)
  exact MemKept.refl _
  refine MemKept.ite ?_ ?_
  refine MemKept.next ?_ Dev.fabWait_frame (by decide)
  refine MemKept.next ?_ Dev.fabAccept_frame (by decide)
  exact MemKept.refl _
  refine MemKept.trans ?_ Dev.slotWrite_mem
  refine MemKept.next ?_ Dev.fabAccept_frame (by decide)
  exact MemKept.refl _
  refine MemKept.next ?_ Dev.bmfHostWrite_frame (by decide)
  refine MemKept.next ?_ Dev.fabAccept_frame (by decide)
  exact MemKept.refl _
  refine MemKept.next ?_ Dev.trgHostWrite_frame (by decide)
  refine MemKept.next ?_ Dev.fabAccept_frame (by decide)
  exact MemKept.refl _
  refine MemKept.next ?_ Dev.coreMemWrite_frame (by decide)
  refine MemKept.next ?_ Dev.fabAccept_frame (by decide)
  exact MemKept.refl _
  refine MemKept.next ?_ Dev.coreMemWrite_frame (by decide)
  refine MemKept.next ?_ Dev.fabAccept_frame (by decide)
  exact MemKept.refl _
  refine MemKept.next ?_ Dev.writeLost_frame (by decide)
  refine MemKept.next ?_ Dev.fabAccept_frame (by decide)
  exact MemKept.refl _

theorem Dev.atomic_mem {d a w f3} : MemKept d (Dev.atomic d a w f3) := by
  unfold Dev.atomic
  extract_lets d1 tgt l ue d2
  have e1 : MemKept d d1 := MemKept.next (MemKept.refl _) Dev.fabAccept_frame (by decide)
  have e2 : MemKept d d2 := MemKept.trans e1 Dev.memWrite_mem
  refine MemKept.ite (MemKept.next e1 Dev.fabErr_frame (by decide)) ?_
  split
  · exact MemKept.next (MemKept.next e1 Dev.fabErr_frame (by decide)) Dev.reject_frame (by decide)
  · refine MemKept.ite (MemKept.next e1 Dev.fabWait_frame (by decide)) ?_
    exact MemKept.ite (MemKept.next e2 Dev.fabErr_frame (by decide))
      (MemKept.next (MemKept.next e2 Dev.bump_frame (by decide)) Dev.emit_frame (by decide))

theorem Dev.atomicAdd_mem {d a wide v} : MemKept d (Dev.atomicAdd d a wide v) := by
  unfold Dev.atomicAdd
  refine MemKept.trans ?_ Dev.atomic_mem
  exact MemKept.refl _

theorem Dev.atomicSwap_mem {d a wide v} : MemKept d (Dev.atomicSwap d a wide v) := by
  unfold Dev.atomicSwap
  refine MemKept.trans ?_ Dev.atomic_mem
  exact MemKept.refl _

/-! ### Msp -/

theorem Dev.mspClose_mem {d n flags} : MemKept d (Dev.mspClose d n flags) := by
  unfold Dev.mspClose
  refine MemKept.ite ?_ ?_
  refine MemKept.next ?_ Dev.setMport_frame (by decide)
  exact MemKept.refl _
  refine MemKept.ite ?_ ?_
  refine MemKept.next ?_ Dev.raise_frame (by decide)
  refine MemKept.next ?_ Dev.bump_frame (by decide)
  refine MemKept.next ?_ Dev.raise_frame (by decide)
  refine MemKept.next ?_ Dev.bump_frame (by decide)
  refine MemKept.next ?_ Dev.setMport_frame (by decide)
  refine MemKept.ite ?_ ?_
  refine MemKept.foldl ?_ ?_
  exact MemKept.refl _
  intro _ _ _
  refine MemKept.trans ?_ Dev.putBytes_mem
  assumption
  exact MemKept.refl _
  refine MemKept.next ?_ Dev.raise_frame (by decide)
  refine MemKept.next ?_ Dev.bump_frame (by decide)
  refine MemKept.next ?_ Dev.setMport_frame (by decide)
  refine MemKept.ite ?_ ?_
  refine MemKept.foldl ?_ ?_
  exact MemKept.refl _
  intro _ _ _
  refine MemKept.trans ?_ Dev.putBytes_mem
  assumption
  exact MemKept.refl _

theorem Dev.mspAdopt_mem {d n} : MemKept d (Dev.mspAdopt d n) := by
  unfold Dev.mspAdopt
  (dsimp only; split)
  exact MemKept.refl _
  refine MemKept.ite ?_ ?_
  refine MemKept.next ?_ Dev.modPage_frame (by decide)
  refine MemKept.next ?_ Dev.setMport_frame (by decide)
  refine MemKept.trans ?_ Dev.mspClose_mem
  exact MemKept.refl _
  refine MemKept.next ?_ Dev.setMport_frame (by decide)
  refine MemKept.trans ?_ Dev.mspClose_mem
  exact MemKept.refl _

theorem Dev.mspFrameStart_mem {d n ws} : MemKept d (Dev.mspFrameStart d n ws) := by
  unfold Dev.mspFrameStart
  refine MemKept.ite (MemKept.refl _) ?_
  extract_lets d1 p0 d2 d3 d4 p1 p2 d5 m
  have e1 : MemKept d d1 := MemKept.ite (MemKept.next (MemKept.refl _) Dev.mspFrameEnd_frame (by decide)) (MemKept.refl _)
  have e2 : MemKept d d2 := MemKept.next e1 Dev.setMport_frame (by decide)
  have e3 : MemKept d d3 := MemKept.ite (MemKept.trans e2 Dev.mspClose_mem) e2
  have e4 : MemKept d d4 := MemKept.trans e3 Dev.mspAdopt_mem
  have e5 : MemKept d d5 := MemKept.next e4 Dev.setMport_frame (by decide)
  exact MemKept.ite e5 (MemKept.foldl e5 fun _ _ h => MemKept.next h Dev.emit_frame (by decide))

theorem Dev.mspClkloss_mem {d n} : MemKept d (Dev.mspClkloss d n) := by
  unfold Dev.mspClkloss
  refine MemKept.ite ?_ ?_
  exact MemKept.refl _
  refine MemKept.next ?_ Dev.raise_frame (by decide)
  refine MemKept.next ?_ Dev.bump_frame (by decide)
  refine MemKept.trans ?_ Dev.mspAdopt_mem
  refine MemKept.next ?_ Dev.setMport_frame (by decide)
  refine MemKept.trans ?_ Dev.mspClose_mem
  exact MemKept.refl _

theorem Dev.mspShed_mem {d} : MemKept d (Dev.mspShed d) := by
  unfold Dev.mspShed
  refine MemKept.foldl ?_ ?_
  exact MemKept.refl _
  intro _ _ _
  refine MemKept.ite ?_ ?_
  refine MemKept.next ?_ Dev.setMport_frame (by decide)
  refine MemKept.trans ?_ Dev.mspClose_mem
  assumption
  assumption

theorem Dev.mspRegWrite_mem {d n r v} : MemKept d (Dev.mspRegWrite d n r v) := by
  unfold Dev.mspRegWrite
  refine Dev.guard_mem ?_ ?_
  exact MemKept.refl _
  intro _ _
  split
  refine MemKept.ite ?_ ?_
  refine MemKept.next ?_ Dev.setMport_frame (by decide)
  assumption
  refine MemKept.ite ?_ ?_
  refine MemKept.trans ?_ Dev.mspAdopt_mem
  refine MemKept.next ?_ Dev.setMport_frame (by decide)
  refine MemKept.trans ?_ Dev.mspClose_mem
  assumption
  refine MemKept.next ?_ Dev.setMport_frame (by decide)
  assumption
  refine MemKept.next ?_ Dev.setMport_frame (by decide)
  assumption
  refine MemKept.next ?_ Dev.setMport_frame (by decide)
  assumption
  refine MemKept.next ?_ Dev.setMport_frame (by decide)
  assumption
  refine MemKept.next ?_ Dev.setMport_frame (by decide)
  assumption
  refine MemKept.next ?_ Dev.setMport_frame (by decide)
  assumption

theorem Dev.mspCommit_mem {d} : MemKept d (Dev.mspCommit d) := by
  unfold Dev.mspCommit
  refine MemKept.foldl ?_ ?_
  exact MemKept.refl _
  intro _ _ _
  refine MemKept.ite ?_ ?_
  refine MemKept.next ?_ Dev.setMport_frame (by decide)
  assumption
  refine MemKept.trans ?_ Dev.mspAdopt_mem
  refine MemKept.next ?_ Dev.setMport_frame (by decide)
  assumption

/-! ### BurQ -/

theorem Dev.burSheet_mem {d s} : MemKept d (Dev.burSheet d s) := by
  unfold Dev.burSheet
  refine MemKept.ite ?_ ?_
  refine MemKept.upd_trg ?_
  refine MemKept.ite ?_ ?_
  refine MemKept.foldl ?_ ?_
  exact MemKept.refl _
  intro _ _ _
  refine MemKept.foldl ?_ ?_
  assumption
  intro _ _ _
  refine MemKept.trans ?_ Dev.putBytes_mem
  assumption
  exact MemKept.refl _
  refine MemKept.next ?_ Dev.burEvent_frame (by decide)
  refine MemKept.next ?_ Dev.burEvent_frame (by decide)
  refine MemKept.upd_trg ?_
  refine MemKept.ite ?_ ?_
  refine MemKept.foldl ?_ ?_
  exact MemKept.refl _
  intro _ _ _
  refine MemKept.foldl ?_ ?_
  assumption
  intro _ _ _
  refine MemKept.trans ?_ Dev.putBytes_mem
  assumption
  exact MemKept.refl _

/-! ### Commit -/

theorem Dev.swap_mem {d p b now} : MemKept d (Dev.swap d p b now) := by
  unfold Dev.swap
  refine MemKept.ite ?_ ?_
  refine MemKept.next ?_ Dev.ingSwap_frame (by decide)
  exact MemKept.refl _
  refine MemKept.ite ?_ ?_
  refine MemKept.next ?_ Dev.lanesSwap_frame (by decide)
  exact MemKept.refl _
  refine MemKept.ite ?_ ?_
  refine MemKept.next ?_ Dev.setAct_frame (by decide)
  refine MemKept.next ?_ Dev.bmfCommit_frame (by decide)
  refine MemKept.next ?_ Dev.setAct_frame (by decide)
  exact MemKept.refl _
  refine MemKept.ite ?_ ?_
  refine MemKept.next ?_ Dev.trgCommit_frame (by decide)
  exact MemKept.refl _
  refine MemKept.ite ?_ ?_
  refine MemKept.next ?_ Dev.burCommit_frame (by decide)
  exact MemKept.refl _
  refine MemKept.ite ?_ ?_
  refine MemKept.trans ?_ Dev.mspCommit_mem
  exact MemKept.refl _
  exact MemKept.refl _

theorem Dev.applyTicket_mem {d p k} : MemKept d (Dev.applyTicket d p k) := by
  unfold Dev.applyTicket
  refine MemKept.next ?_ Dev.unlock_frame (by decide)
  refine MemKept.next ?_ Dev.listCommit_frame (by decide)
  refine MemKept.trans ?_ Dev.swap_mem
  refine MemKept.next ?_ Dev.modPage_frame (by decide)
  exact MemKept.refl _

theorem Dev.commitApply_mem {d p} : MemKept d (Dev.commitApply d p) := by
  unfold Dev.commitApply
  split
  exact MemKept.refl _
  refine MemKept.ite ?_ ?_
  exact MemKept.refl _
  refine MemKept.ite ?_ ?_
  refine MemKept.next ?_ Dev.cancelTicket_frame (by decide)
  exact MemKept.refl _
  refine MemKept.trans ?_ Dev.applyTicket_mem
  exact MemKept.refl _

theorem Dev.armTicket_mem {d p k} : MemKept d (Dev.armTicket d p k) := by
  unfold Dev.armTicket
  refine MemKept.ite ?_ ?_
  refine MemKept.trans ?_ Dev.applyTicket_mem
  refine MemKept.next ?_ Dev.modPage_frame (by decide)
  exact MemKept.refl _
  refine MemKept.ite ?_ ?_
  refine MemKept.foldl ?_ ?_
  refine MemKept.next ?_ Dev.modPage_frame (by decide)
  exact MemKept.refl _
  intro _ _ _
  refine MemKept.ite ?_ ?_
  refine MemKept.next ?_ Dev.laneOn_frame (by decide)
  assumption
  assumption
  refine MemKept.next ?_ Dev.modPage_frame (by decide)
  exact MemKept.refl _

/-! ### Pair -/

theorem Dev.ctrlRx_mem {d0 d l fr k act}
    (h : MemKept d0 d) (hf : ∀ e, MemKept d0 e → MemKept d0 (act e)) : MemKept d0 (Dev.ctrlRx d l fr k act) := by
  unfold Dev.ctrlRx
  refine MemKept.ite ?_ ?_
  assumption
  dsimp only
  refine MemKept.ite ?_ ?_
  refine MemKept.next ?_ Dev.ingest_frame (by decide)
  assumption
  refine MemKept.ite ?_ ?_
  refine hf _ ?_
  refine MemKept.upd_pair ?_
  refine MemKept.next ?_ Dev.ingest_frame (by decide)
  assumption
  refine MemKept.upd_pair ?_
  refine MemKept.next ?_ Dev.ingest_frame (by decide)
  assumption

theorem Dev.mirrorTicket_mem {d fr p num w t crc} : MemKept d (Dev.mirrorTicket d fr p num w t crc) := by
  unfold Dev.mirrorTicket
  split
  refine MemKept.next ?_ Dev.mirrorRefused_frame (by decide)
  exact MemKept.refl _
  refine MemKept.next ?_ Dev.ack_frame (by decide)
  refine MemKept.trans ?_ Dev.armTicket_mem
  exact MemKept.refl _

theorem Dev.ticketRx_mem {d l fr} : MemKept d (Dev.ticketRx d l fr) := by
  unfold Dev.ticketRx
  refine Dev.ctrlRx_mem ?_ ?_
  exact MemKept.refl _
  intro _ _
  refine MemKept.ite ?_ ?_
  refine MemKept.next ?_ Dev.ack_frame (by decide)
  refine MemKept.upd_pair ?_
  assumption
  refine MemKept.trans ?_ Dev.mirrorTicket_mem
  assumption

theorem Dev.threshRx_mem {d l fr} : MemKept d (Dev.threshRx d l fr) := by
  unfold Dev.threshRx
  refine Dev.ctrlRx_mem ?_ ?_
  exact MemKept.refl _
  intro _ _
  refine MemKept.ite ?_ ?_
  refine MemKept.next ?_ Dev.mirrorRefused_frame (by decide)
  assumption
  refine MemKept.ite ?_ ?_
  refine MemKept.next ?_ Dev.mirrorRefused_frame (by decide)
  assumption
  refine MemKept.ite ?_ ?_
  refine MemKept.next ?_ Dev.mirrorRefused_frame (by decide)
  assumption
  split
  (dsimp only; split)
  refine MemKept.ite ?_ ?_
  refine MemKept.trans ?_ Dev.mirrorTicket_mem
  refine MemKept.upd_trg_pair ?_
  assumption
  refine MemKept.next ?_ Dev.ack_frame (by decide)
  refine MemKept.upd_trg_pair ?_
  assumption
  refine MemKept.next ?_ Dev.ack_frame (by decide)
  refine MemKept.upd_trg_pair ?_
  assumption
  (dsimp only; split)
  refine MemKept.ite ?_ ?_
  refine MemKept.trans ?_ Dev.mirrorTicket_mem
  refine MemKept.upd_trg_pair ?_
  assumption
  refine MemKept.next ?_ Dev.ack_frame (by decide)
  refine MemKept.upd_trg_pair ?_
  assumption
  refine MemKept.next ?_ Dev.ack_frame (by decide)
  refine MemKept.upd_trg_pair ?_
  assumption

theorem Dev.pcommit_mem {d p v} : MemKept d (Dev.pcommit d p v) := by
  unfold Dev.pcommit
  refine Dev.guard_mem ?_ ?_
  exact MemKept.refl _
  intro _ _
  refine MemKept.trans ?_ Dev.armTicket_mem
  refine MemKept.next ?_ Dev.mirrorOut_frame (by decide)
  assumption

/-! ### Mmu -/

theorem Dev.walk_mem {d va lvl tbl} : MemKept d (Dev.walk d va lvl tbl).2 := by
  induction lvl generalizing d tbl with
  | zero =>
    unfold Dev.walk
    refine MemKept.ite_snd ?_ ?_
    exact MemKept.refl _
    dsimp only
    refine MemKept.ite_snd ?_ ?_
    refine MemKept.trans ?_ Dev.memRead_mem
    exact MemKept.refl _
    split
    refine MemKept.trans ?_ Dev.memRead_mem
    exact MemKept.refl _
    refine MemKept.ite_snd ?_ ?_
    refine MemKept.trans ?_ Dev.memRead_mem
    exact MemKept.refl _
    refine MemKept.trans ?_ Dev.memRead_mem
    exact MemKept.refl _
  | succ n ih =>
    unfold Dev.walk
    refine MemKept.ite_snd ?_ ?_
    exact MemKept.refl _
    dsimp only
    refine MemKept.ite_snd ?_ ?_
    refine MemKept.trans ?_ Dev.memRead_mem
    exact MemKept.refl _
    split
    refine MemKept.trans ?_ Dev.memRead_mem
    exact MemKept.refl _
    refine MemKept.ite_snd ?_ ?_
    refine MemKept.trans ?_ Dev.memRead_mem
    exact MemKept.refl _
    refine MemKept.trans ?_ ih
    refine MemKept.trans ?_ Dev.memRead_mem
    exact MemKept.refl _

theorem Dev.translate_mem {d eng chan ctx va write} : MemKept d (Dev.translate d eng chan ctx va write).2 := by
  unfold Dev.translate
  refine MemKept.ite_snd ?_ ?_
  refine MemKept.next ?_ Dev.mmuFault_frame (by decide)
  exact MemKept.refl _
  refine MemKept.ite_snd ?_ ?_
  refine MemKept.next ?_ Dev.mmuFault_frame (by decide)
  exact MemKept.refl _
  split
  split
  refine MemKept.next ?_ Dev.mmuFault_frame (by decide)
  exact MemKept.refl _
  exact MemKept.refl _
  dsimp only
  split
  refine MemKept.next ?_ Dev.mmuFault_frame (by decide)
  refine MemKept.trans ?_ Dev.walk_mem
  refine MemKept.next ?_ Dev.bump_frame (by decide)
  refine MemKept.next ?_ Dev.bump_frame (by decide)
  exact MemKept.refl _
  split
  refine MemKept.next ?_ Dev.mmuFault_frame (by decide)
  refine MemKept.trans ?_ Dev.walk_mem
  refine MemKept.next ?_ Dev.bump_frame (by decide)
  refine MemKept.next ?_ Dev.bump_frame (by decide)
  exact MemKept.refl _
  refine MemKept.upd_mmu ?_
  refine MemKept.trans ?_ Dev.walk_mem
  refine MemKept.next ?_ Dev.bump_frame (by decide)
  refine MemKept.next ?_ Dev.bump_frame (by decide)
  exact MemKept.refl _

/-! ### Dma -/

theorem Dev.physRead_mem {d host pois a n h5} : MemKept d (Dev.physRead d host pois a n h5).2.2 := by
  unfold Dev.physRead
  refine MemKept.ite_trd ?_ ?_
  exact MemKept.refl _
  split
  exact MemKept.refl _
  exact MemKept.refl _
  refine MemKept.ite_trd ?_ ?_
  exact MemKept.refl _
  refine MemKept.ite_trd ?_ ?_
  exact MemKept.refl _
  dsimp only
  refine MemKept.trans ?_ Dev.memRead_mem
  exact MemKept.refl _
  refine MemKept.ite_trd ?_ ?_
  exact MemKept.refl _
  refine MemKept.ite_trd ?_ ?_
  exact MemKept.refl _
  dsimp only
  refine MemKept.trans ?_ Dev.memRead_mem
  exact MemKept.refl _
  exact MemKept.refl _

theorem Dev.physWrite_mem {d k a l h4} : MemKept d (Dev.physWrite d k a l h4).2 := by
  unfold Dev.physWrite
  refine MemKept.ite_snd ?_ ?_
  refine MemKept.next ?_ Dev.emit_frame (by decide)
  exact MemKept.refl _
  split
  exact MemKept.refl _
  exact MemKept.refl _
  refine MemKept.ite_snd ?_ ?_
  exact MemKept.refl _
  split
  refine MemKept.next ?_ Dev.reject_frame (by decide)
  exact MemKept.refl _
  refine MemKept.ite_snd ?_ ?_
  exact MemKept.refl _
  refine MemKept.trans ?_ Dev.memWrite_mem
  exact MemKept.refl _
  refine MemKept.ite_snd ?_ ?_
  exact MemKept.refl _
  refine MemKept.trans ?_ Dev.slotWrite_mem
  exact MemKept.refl _
  refine MemKept.next ?_ Dev.bmfTableWrite_frame (by decide)
  exact MemKept.refl _
  refine MemKept.next ?_ Dev.trgTableWrite_frame (by decide)
  exact MemKept.refl _
  refine MemKept.next ?_ Dev.coreMemWrite_frame (by decide)
  exact MemKept.refl _
  refine MemKept.next ?_ Dev.coreMemWrite_frame (by decide)
  exact MemKept.refl _

theorem Dev.vread_mem {d k n host pois fuel va len acc ps} :
    MemKept d (Dev.vread d k n host pois fuel va len acc ps).2 := by
  induction fuel generalizing d va len acc ps with
  | zero => exact MemKept.refl _
  | succ fuel ih =>
    unfold Dev.vread
    refine MemKept.ite_snd ?_ ?_
    exact MemKept.refl _
    split
    refine MemKept.of_snd (by assumption) ?_
    refine MemKept.trans ?_ Dev.translate_mem
    exact MemKept.refl _
    split
    (dsimp only; split)
    refine MemKept.trans ?_ ih
    refine MemKept.next ?_ Dev.bump_frame (by decide)
    refine MemKept.of_trd (by assumption) ?_
    refine MemKept.trans ?_ Dev.physRead_mem
    refine MemKept.of_snd (by assumption) ?_
    refine MemKept.trans ?_ Dev.translate_mem
    exact MemKept.refl _
    refine MemKept.ite_snd ?_ ?_
    refine MemKept.next ?_ Dev.fabWait_frame (by decide)
    refine MemKept.of_trd (by assumption) ?_
    refine MemKept.trans ?_ Dev.physRead_mem
    refine MemKept.of_snd (by assumption) ?_
    refine MemKept.trans ?_ Dev.translate_mem
    exact MemKept.refl _
    refine MemKept.next ?_ Dev.norouteFault_frame (by decide)
    refine MemKept.of_trd (by assumption) ?_
    refine MemKept.trans ?_ Dev.physRead_mem
    refine MemKept.of_snd (by assumption) ?_
    refine MemKept.trans ?_ Dev.translate_mem
    exact MemKept.refl _
    (dsimp only; split)
    refine MemKept.trans ?_ ih
    refine MemKept.next ?_ Dev.bump_frame (by decide)
    refine MemKept.of_trd (by assumption) ?_
    refine MemKept.trans ?_ Dev.physRead_mem
    refine MemKept.next ?_ Dev.fabAccept_frame (by decide)
    refine MemKept.of_snd (by assumption) ?_
    refine MemKept.trans ?_ Dev.translate_mem
    exact MemKept.refl _
    refine MemKept.ite_snd ?_ ?_
    refine MemKept.next ?_ Dev.fabWait_frame (by decide)
    refine MemKept.of_trd (by assumption) ?_
    refine MemKept.trans ?_ Dev.physRead_mem
    refine MemKept.next ?_ Dev.fabAccept_frame (by decide)
    refine MemKept.of_snd (by assumption) ?_
    refine MemKept.trans ?_ Dev.translate_mem
    exact MemKept.refl _
    refine MemKept.next ?_ Dev.norouteFault_frame (by decide)
    refine MemKept.of_trd (by assumption) ?_
    refine MemKept.trans ?_ Dev.physRead_mem
    refine MemKept.next ?_ Dev.fabAccept_frame (by decide)
    refine MemKept.of_snd (by assumption) ?_
    refine MemKept.trans ?_ Dev.translate_mem
    exact MemKept.refl _

theorem Dev.vwrite_mem {d k n skip fuel va l done} : MemKept d (Dev.vwrite d k n skip fuel va l done).2 := by
  induction fuel generalizing d va l done with
  | zero => exact MemKept.refl _
  | succ fuel ih =>
    unfold Dev.vwrite
    refine MemKept.ite_snd ?_ ?_
    exact MemKept.refl _
    split
    refine MemKept.of_snd (by assumption) ?_
    refine MemKept.trans ?_ Dev.translate_mem
    exact MemKept.refl _
    dsimp only
    refine MemKept.ite_snd ?_ ?_
    refine MemKept.next ?_ Dev.fabWait_frame (by decide)
    refine MemKept.foldl_snd ?_ ?_
    refine MemKept.ite ?_ ?_
    refine MemKept.of_snd (by assumption) ?_
    refine MemKept.trans ?_ Dev.translate_mem
    exact MemKept.refl _
    refine MemKept.next ?_ Dev.fabAccept_frame (by decide)
    refine MemKept.of_snd (by assumption) ?_
    refine MemKept.trans ?_ Dev.translate_mem
    exact MemKept.refl _
    intro _ _ _
    refine MemKept.ite_snd ?_ ?_
    refine MemKept.trans ?_ Dev.physWrite_mem
    assumption
    assumption
    refine MemKept.ite_snd ?_ ?_
    refine MemKept.next ?_ Dev.norouteFault_frame (by decide)
    refine MemKept.foldl_snd ?_ ?_
    refine MemKept.ite ?_ ?_
    refine MemKept.of_snd (by assumption) ?_
    refine MemKept.trans ?_ Dev.translate_mem
    exact MemKept.refl _
    refine MemKept.next ?_ Dev.fabAccept_frame (by decide)
    refine MemKept.of_snd (by assumption) ?_
    refine MemKept.trans ?_ Dev.translate_mem
    exact MemKept.refl _
    intro _ _ _
    refine MemKept.ite_snd ?_ ?_
    refine MemKept.trans ?_ Dev.physWrite_mem
    assumption
    assumption
    refine MemKept.trans ?_ ih
    refine MemKept.next ?_ Dev.bump_frame (by decide)
    refine MemKept.foldl_snd ?_ ?_
    refine MemKept.ite ?_ ?_
    refine MemKept.of_snd (by assumption) ?_
    refine MemKept.trans ?_ Dev.translate_mem
    exact MemKept.refl _
    refine MemKept.next ?_ Dev.fabAccept_frame (by decide)
    refine MemKept.of_snd (by assumption) ?_
    refine MemKept.trans ?_ Dev.translate_mem
    exact MemKept.refl _
    intro _ _ _
    refine MemKept.ite_snd ?_ ?_
    refine MemKept.trans ?_ Dev.physWrite_mem
    assumption
    assumption

theorem Dev.cmpRecord_mem {d k n idx code rb df user off}
    : MemKept d (Dev.cmpRecord d k n idx code rb df user off) := by
  unfold Dev.cmpRecord
  refine MemKept.next ?_ Dev.raise_frame (by decide)
  split
  refine MemKept.next ?_ Dev.setDch_frame (by decide)
  refine MemKept.ite ?_ ?_
  refine MemKept.next ?_ Dev.bump_frame (by decide)
  refine MemKept.next ?_ Dev.setReg_frame (by decide)
  refine MemKept.of_snd (by assumption) ?_
  refine MemKept.trans ?_ Dev.vwrite_mem
  exact MemKept.refl _
  refine MemKept.of_snd (by assumption) ?_
  refine MemKept.trans ?_ Dev.vwrite_mem
  exact MemKept.refl _
  refine MemKept.next ?_ Dev.bump_frame (by decide)
  refine MemKept.of_snd (by assumption) ?_
  refine MemKept.trans ?_ Dev.vwrite_mem
  exact MemKept.refl _
  refine MemKept.next ?_ Dev.bump_frame (by decide)
  refine MemKept.of_snd (by assumption) ?_
  refine MemKept.trans ?_ Dev.vwrite_mem
  exact MemKept.refl _

theorem Dev.dmaHalt_mem {d k n code off} : MemKept d (Dev.dmaHalt d k n code off) := by
  unfold Dev.dmaHalt
  refine MemKept.next ?_ Dev.dmaPick_frame (by decide)
  refine MemKept.next ?_ Dev.setEng_frame (by decide)
  refine MemKept.next ?_ Dev.setDch_frame (by decide)
  refine MemKept.trans ?_ Dev.cmpRecord_mem
  exact MemKept.refl _

theorem Dev.dmaFault_mem {d k n va off rb df} : MemKept d (Dev.dmaFault d k n va off rb df) := by
  unfold Dev.dmaFault
  refine MemKept.next ?_ Dev.dmaPick_frame (by decide)
  refine MemKept.next ?_ Dev.setEng_frame (by decide)
  refine MemKept.next ?_ Dev.bump_frame (by decide)
  refine MemKept.next ?_ Dev.setDch_frame (by decide)
  refine MemKept.trans ?_ Dev.cmpRecord_mem
  exact MemKept.refl _

theorem Dev.dmaFetch_mem {d k n host pois} : MemKept d (Dev.dmaFetch d k n host pois).2 := by
  unfold Dev.dmaFetch
  (dsimp only; split)
  exact MemKept.refl _
  refine MemKept.ite_snd ?_ ?_
  refine MemKept.trans ?_ Dev.dmaHalt_mem
  exact MemKept.refl _
  split
  refine MemKept.trans ?_ Dev.dmaFault_mem
  refine MemKept.of_snd (by assumption) ?_
  refine MemKept.trans ?_ Dev.vread_mem
  exact MemKept.refl _
  refine MemKept.next ?_ Dev.setDch_frame (by decide)
  refine MemKept.of_snd (by assumption) ?_
  refine MemKept.trans ?_ Dev.vread_mem
  exact MemKept.refl _
  refine MemKept.ite_snd ?_ ?_
  refine MemKept.trans ?_ Dev.dmaHalt_mem
  refine MemKept.next ?_ Dev.bump_frame (by decide)
  refine MemKept.next ?_ Dev.fabErr_frame (by decide)
  refine MemKept.of_snd (by assumption) ?_
  refine MemKept.trans ?_ Dev.vread_mem
  exact MemKept.refl _
  refine MemKept.ite_snd ?_ ?_
  refine MemKept.trans ?_ Dev.dmaHalt_mem
  refine MemKept.next ?_ Dev.setDch_frame (by decide)
  refine MemKept.of_snd (by assumption) ?_
  refine MemKept.trans ?_ Dev.vread_mem
  exact MemKept.refl _
  refine MemKept.next ?_ Dev.setDch_frame (by decide)
  refine MemKept.of_snd (by assumption) ?_
  refine MemKept.trans ?_ Dev.vread_mem
  exact MemKept.refl _

theorem Dev.descOver_mem {d k n x} : MemKept d (Dev.descOver d k n x) := by
  unfold Dev.descOver
  split
  (dsimp only; split)
  refine MemKept.trans ?_ Dev.dmaHalt_mem
  refine MemKept.next ?_ Dev.setDch_frame (by decide)
  refine MemKept.next ?_ Dev.bump_frame (by decide)
  refine MemKept.next ?_ Dev.bump_frame (by decide)
  exact MemKept.refl _
  refine MemKept.ite ?_ ?_
  refine MemKept.next ?_ Dev.dmaPick_frame (by decide)
  refine MemKept.next ?_ Dev.setEng_frame (by decide)
  refine MemKept.next ?_ Dev.setDch_frame (by decide)
  refine MemKept.ite ?_ ?_
  refine MemKept.trans ?_ Dev.cmpRecord_mem
  refine MemKept.next ?_ Dev.setDch_frame (by decide)
  refine MemKept.next ?_ Dev.bump_frame (by decide)
  exact MemKept.refl _
  refine MemKept.next ?_ Dev.setDch_frame (by decide)
  refine MemKept.next ?_ Dev.bump_frame (by decide)
  exact MemKept.refl _
  refine MemKept.next ?_ Dev.dmaPick_frame (by decide)
  refine MemKept.next ?_ Dev.setEng_frame (by decide)
  refine MemKept.next ?_ Dev.setDch_frame (by decide)
  refine MemKept.ite ?_ ?_
  refine MemKept.trans ?_ Dev.cmpRecord_mem
  refine MemKept.next ?_ Dev.setDch_frame (by decide)
  refine MemKept.next ?_ Dev.bump_frame (by decide)
  exact MemKept.refl _
  refine MemKept.next ?_ Dev.setDch_frame (by decide)
  refine MemKept.next ?_ Dev.bump_frame (by decide)
  exact MemKept.refl _
  (dsimp only; split)
  refine MemKept.trans ?_ Dev.dmaHalt_mem
  refine MemKept.next ?_ Dev.setDch_frame (by decide)
  refine MemKept.next ?_ Dev.bump_frame (by decide)
  refine MemKept.next ?_ Dev.bump_frame (by decide)
  exact MemKept.refl _
  refine MemKept.ite ?_ ?_
  refine MemKept.next ?_ Dev.dmaPick_frame (by decide)
  refine MemKept.next ?_ Dev.setEng_frame (by decide)
  refine MemKept.next ?_ Dev.setDch_frame (by decide)
  refine MemKept.ite ?_ ?_
  refine MemKept.trans ?_ Dev.cmpRecord_mem
  refine MemKept.next ?_ Dev.setDch_frame (by decide)
  refine MemKept.next ?_ Dev.bump_frame (by decide)
  exact MemKept.refl _
  refine MemKept.next ?_ Dev.setDch_frame (by decide)
  refine MemKept.next ?_ Dev.bump_frame (by decide)
  exact MemKept.refl _
  refine MemKept.next ?_ Dev.setDch_frame (by decide)
  refine MemKept.ite ?_ ?_
  refine MemKept.trans ?_ Dev.cmpRecord_mem
  refine MemKept.next ?_ Dev.setDch_frame (by decide)
  refine MemKept.next ?_ Dev.bump_frame (by decide)
  exact MemKept.refl _
  refine MemKept.next ?_ Dev.setDch_frame (by decide)
  refine MemKept.next ?_ Dev.bump_frame (by decide)
  exact MemKept.refl _

theorem Dev.descDone_mem {d k n x} : MemKept d (Dev.descDone d k n x) := by
  unfold Dev.descDone
  refine MemKept.ite ?_ ?_
  refine MemKept.next ?_ Dev.setDch_frame (by decide)
  exact MemKept.refl _
  refine MemKept.trans ?_ Dev.descOver_mem
  exact MemKept.refl _

theorem Dev.descRun_mem {d k n x host pois len} : MemKept d (Dev.descRun d k n x host pois len) := by
  unfold Dev.descRun
  extract_lets c off len at' stop end_ put
  have hs {d0 d r} (h : MemKept d0 d) : MemKept d0 (stop r d) := by
    unfold stop
    split
    refine MemKept.trans ?_ Dev.dmaFault_mem
    assumption
    refine MemKept.next ?_ Dev.setDch_frame (by decide)
    assumption
    assumption
  have he {d0 d m p} (h : MemKept d0 d) : MemKept d0 (end_ d m p) := by
    unfold end_
    refine MemKept.ite ?_ ?_
    refine MemKept.next ?_ Dev.setDch_frame (by decide)
    assumption
    refine MemKept.trans ?_ Dev.descDone_mem
    refine MemKept.next ?_ Dev.setDch_frame (by decide)
    assumption
  have hp {d0 d l p} (h : MemKept d0 d) : MemKept d0 (put d l p) := by
    have h' := h.trans (Dev.vwrite_mem (k := k) (n := n) (skip := p) (fuel := vpages len) (va := at' x.dst) (l := l) (done := 0))
    unfold put
    split
    · next h2 => rw [h2] at h'; exact he h'
    · next h2 => rw [h2] at h'; exact hs h'
  have hr {d0 d a} (h : MemKept d0 d) : MemKept d0 (Dev.vread d k n host pois (vpages len) a len [] []).2 := by
    exact h.trans Dev.vread_mem
  have hf {d0 d} (h : MemKept d0 d) : MemKept d0 (d.fabErr (1 + k) 0 1) := by
    exact h.next Dev.fabErr_frame (by decide)
  have hq {d0 : Dev} {d : Dev} {ps : List Nat} (h : MemKept d0 d) : MemKept d0 (if ps.isEmpty then d else d.fabErr (1 + k) 0 1) :=
    MemKept.ite h (hf h)
  have h0 := MemKept.refl d
  refine MemKept.ite (hp h0) ?_
  have h1 := hr (a := at' x.src) h0
  split
  · next l ps d1 h2 =>
    rw [h2] at h1
    dsimp only
    refine MemKept.ite (hp (hq h1)) ?_
    have h3 := hr (a := at' x.dst) (hq (ps := ps) h1)
    split
    · next h4 => rw [h4] at h3; exact he (hq h3)
    · next h4 => rw [h4] at h3; exact hs h3
  · next v _ _ h2 => rw [h2] at h1; dsimp only at h1; exact hs (r := .fault v 0) h1
  · next t _ _ h2 => rw [h2] at h1; dsimp only at h1; exact hs (r := .wait t 0) h1

theorem Dev.descStep_mem {d k op len host pois} : MemKept d (Dev.descStep d k op len host pois) := by
  unfold Dev.descStep
  split
  exact MemKept.refl _
  split
  refine MemKept.of_snd (by assumption) ?_
  refine MemKept.trans ?_ Dev.dmaFetch_mem
  exact MemKept.refl _
  refine MemKept.ite ?_ ?_
  exact MemKept.refl _
  refine MemKept.ite ?_ ?_
  refine MemKept.of_snd (by assumption) ?_
  refine MemKept.trans ?_ Dev.dmaFetch_mem
  exact MemKept.refl _
  refine MemKept.trans ?_ Dev.descRun_mem
  refine MemKept.of_snd (by assumption) ?_
  refine MemKept.trans ?_ Dev.dmaFetch_mem
  exact MemKept.refl _

theorem Dev.chainPreempt_mem {d k host pois} : MemKept d (Dev.chainPreempt d k host pois) := by
  unfold Dev.chainPreempt
  split
  exact MemKept.refl _
  refine MemKept.ite ?_ ?_
  exact MemKept.refl _
  refine MemKept.ite ?_ ?_
  split
  refine MemKept.ite ?_ ?_
  exact MemKept.refl _
  refine MemKept.trans ?_ Dev.descRun_mem
  exact MemKept.refl _
  exact MemKept.refl _
  refine MemKept.next ?_ Dev.dmaPick_frame (by decide)
  refine MemKept.next ?_ Dev.bump_frame (by decide)
  refine MemKept.next ?_ Dev.setEng_frame (by decide)
  refine MemKept.next ?_ Dev.setDch_frame (by decide)
  split
  refine MemKept.ite ?_ ?_
  exact MemKept.refl _
  refine MemKept.trans ?_ Dev.descRun_mem
  exact MemKept.refl _
  exact MemKept.refl _

theorem Dev.readbackDone_mem {d k} : MemKept d (Dev.readbackDone d k) := by
  unfold Dev.readbackDone
  split
  exact MemKept.refl _
  (dsimp only; split)
  exact MemKept.refl _
  refine MemKept.ite ?_ ?_
  exact MemKept.refl _
  split
  refine MemKept.trans ?_ Dev.dmaFault_mem
  refine MemKept.of_snd (by assumption) ?_
  refine MemKept.trans ?_ Dev.vread_mem
  exact MemKept.refl _
  refine MemKept.next ?_ Dev.setDch_frame (by decide)
  refine MemKept.of_snd (by assumption) ?_
  refine MemKept.trans ?_ Dev.vread_mem
  exact MemKept.refl _
  refine MemKept.trans ?_ Dev.descOver_mem
  refine MemKept.next ?_ Dev.setDch_frame (by decide)
  refine MemKept.of_snd (by assumption) ?_
  refine MemKept.trans ?_ Dev.vread_mem
  exact MemKept.refl _

theorem Dev.dmaAbort_mem {d k n} : MemKept d (Dev.dmaAbort d k n) := by
  unfold Dev.dmaAbort
  refine Dev.guard_mem ?_ ?_
  exact MemKept.refl _
  intro _ _
  refine MemKept.trans ?_ Dev.dmaHalt_mem
  assumption

theorem Dev.dmaS6_mem {d} : MemKept d (Dev.dmaS6 d) := by
  unfold Dev.dmaS6
  refine MemKept.foldl ?_ ?_
  exact MemKept.refl _
  intro _ _ _
  refine MemKept.foldl ?_ ?_
  assumption
  intro _ _ _
  refine MemKept.ite ?_ ?_
  refine MemKept.trans ?_ Dev.dmaHalt_mem
  assumption
  assumption

theorem Dev.dmaNoResp_mem {d k} : MemKept d (Dev.dmaNoResp d k) := by
  unfold Dev.dmaNoResp
  split
  refine MemKept.trans ?_ Dev.dmaHalt_mem
  refine MemKept.next ?_ Dev.bump_frame (by decide)
  exact MemKept.refl _
  exact MemKept.refl _

theorem Dev.fabricTimeout_mem {d master} : MemKept d (Dev.fabricTimeout d master) := by
  unfold Dev.fabricTimeout
  dsimp only
  refine MemKept.ite ?_ ?_
  refine MemKept.trans ?_ Dev.dmaNoResp_mem
  refine MemKept.next ?_ Dev.fabTimeout_frame (by decide)
  exact MemKept.refl _
  refine MemKept.next ?_ Dev.fabTimeout_frame (by decide)
  exact MemKept.refl _

theorem Dev.pcieTimeout_mem {d k n} : MemKept d (Dev.pcieTimeout d k n) := by
  unfold Dev.pcieTimeout
  refine MemKept.ite ?_ ?_
  refine MemKept.trans ?_ Dev.dmaHalt_mem
  refine MemKept.next ?_ Dev.bump_frame (by decide)
  refine MemKept.next ?_ Dev.bump_frame (by decide)
  exact MemKept.refl _
  exact MemKept.refl _

/-! ### Aon -/

theorem Dev.aonOp_mem {d0 d i3c errs f3}
    (h : MemKept d0 d) (hf : ∀ e, MemKept d0 e → MemKept d0 (f3 e)) : MemKept d0 (Dev.aonOp d i3c errs f3) := by
  unfold Dev.aonOp
  split
  refine MemKept.next ?_ Dev.aonResult_frame (by decide)
  assumption
  refine MemKept.next ?_ Dev.aonResult_frame (by decide)
  refine hf _ ?_
  assumption

theorem Dev.aonStart_mem {d0 d i3c cmd addr f4}
    (h : MemKept d0 d) (hf : ∀ e, MemKept d0 e → MemKept d0 (f4 e)) : MemKept d0 (Dev.aonStart d i3c cmd addr f4) := by
  unfold Dev.aonStart
  refine MemKept.ite ?_ ?_
  refine hf _ ?_
  refine MemKept.next ?_ Dev.setAonPort_frame (by decide)
  assumption
  assumption

/-! ### Bur -/

theorem Dev.burDevRead_somem {d c a v bad e} (h : Dev.burDevRead d c a = some (v, bad, e)) :
    MemKept d e := by
  have key {b w e'} (h : some (b, w, e') = some (v, bad, e)) : e' = e := by
    injection h with h; injection h with _ h; injection h
  unfold Dev.burDevRead at h
  split at h
  · generalize halfOf _ _ = hw at h
    dsimp only at h
    split at h
    · rw [← key h]; exact MemKept.refl _
    · cases h
  · split at h
    · split at h
      · split at h
        · rw [← key h]; exact (MemKept.refl _).next Dev.fabErr_frame (by decide)
        · dsimp only at h
          split at h
          · rw [← key h]
            exact (((MemKept.refl _).next Dev.fabAccept_frame (by decide)).trans Dev.memRead_mem).next Dev.fabErr_frame
              (by decide)
          · rw [← key h]; exact ((MemKept.refl _).next Dev.fabAccept_frame (by decide)).trans Dev.memRead_mem
      · split at h
        · rw [← key h]; exact (MemKept.refl _).next Dev.fabErr_frame (by decide)
        · dsimp only at h
          split at h
          · rw [← key h]
            exact (((MemKept.refl _).next Dev.fabAccept_frame (by decide)).trans Dev.memRead_mem).next Dev.fabErr_frame
              (by decide)
          · rw [← key h]; exact ((MemKept.refl _).next Dev.fabAccept_frame (by decide)).trans Dev.memRead_mem
      · rw [← key h]; exact MemKept.refl _
    · cases h

theorem Dev.burDevWrite_somem {d c a v bad e} (h : Dev.burDevWrite d c a v = some (bad, e)) :
    MemKept d e := by
  have key {b e'} (h : some (b, e') = some (bad, e)) : e' = e := by injection h with h; injection h
  unfold Dev.burDevWrite at h
  dsimp only at h
  split at h
  · split at h
    · rw [← key h]; exact (MemKept.refl _).upd_monword
    · split at h
      · rw [← key h]; exact (MemKept.refl _).next Dev.bmfShadowWrite_frame (by decide)
      · cases h
  · split at h
    · split at h
      · rw [← key h]; exact (MemKept.refl _).next Dev.fabErr_frame (by decide)
      · rw [← key h]; exact ((MemKept.refl _).next Dev.fabAccept_frame (by decide)).trans Dev.memWrite_mem
    · split at h
      · split at h
        · rw [← key h]; exact (MemKept.refl _).next Dev.bmfTableWrite_frame (by decide)
        · cases h
      · split at h
        · rw [← key h]; exact (MemKept.refl _).next Dev.trgTableWrite_frame (by decide)
        · cases h
      · cases h

theorem Dev.cmtGo_mem {d c num} : MemKept d (Dev.cmtGo d c num) := by
  unfold Dev.cmtGo
  split
  refine MemKept.next ?_ Dev.raise_frame (by decide)
  refine MemKept.next ?_ Dev.burCnt_frame (by decide)
  refine MemKept.next ?_ Dev.setPorts_frame (by decide)
  exact MemKept.refl _
  refine MemKept.trans ?_ Dev.armTicket_mem
  refine MemKept.next ?_ Dev.burCnt_frame (by decide)
  refine MemKept.next ?_ Dev.setPorts_frame (by decide)
  exact MemKept.refl _

theorem Dev.xfWord_mem {d c i} : MemKept d (Dev.xfWord d c i) := by
  unfold Dev.xfWord
  refine MemKept.ite ?_ ?_
  split
  refine MemKept.ite ?_ ?_
  refine MemKept.next ?_ Dev.setPorts_frame (by decide)
  refine MemKept.trans ?_ (Dev.burDevWrite_somem (by assumption))
  exact MemKept.refl _
  refine MemKept.trans ?_ (Dev.burDevWrite_somem (by assumption))
  exact MemKept.refl _
  refine MemKept.next ?_ Dev.setPorts_frame (by decide)
  exact MemKept.refl _
  split
  refine MemKept.ite ?_ ?_
  refine MemKept.next ?_ Dev.setPorts_frame (by decide)
  refine MemKept.next ?_ Dev.setCore_frame (by decide)
  refine MemKept.trans ?_ (Dev.burDevRead_somem (by assumption))
  exact MemKept.refl _
  refine MemKept.next ?_ Dev.setCore_frame (by decide)
  refine MemKept.trans ?_ (Dev.burDevRead_somem (by assumption))
  exact MemKept.refl _
  refine MemKept.next ?_ Dev.setPorts_frame (by decide)
  refine MemKept.next ?_ Dev.setCore_frame (by decide)
  exact MemKept.refl _

theorem Dev.xfDone_mem {d c} : MemKept d (Dev.xfDone d c) := by
  unfold Dev.xfDone
  refine MemKept.ite ?_ ?_
  refine MemKept.next ?_ Dev.setFe_frame (by decide)
  refine MemKept.next ?_ Dev.setPorts_frame (by decide)
  refine MemKept.foldl ?_ ?_
  exact MemKept.refl _
  intro _ _ _
  refine MemKept.trans ?_ Dev.xfWord_mem
  assumption
  exact MemKept.refl _

theorem Dev.portWrite_mem {d c a v} : MemKept d (Dev.portWrite d c a v) := by
  unfold Dev.portWrite
  refine MemKept.ite ?_ ?_
  refine MemKept.next ?_ Dev.setPorts_frame (by decide)
  exact MemKept.refl _
  refine MemKept.ite ?_ ?_
  refine MemKept.next ?_ Dev.setPorts_frame (by decide)
  exact MemKept.refl _
  refine MemKept.ite ?_ ?_
  refine MemKept.next ?_ Dev.setPorts_frame (by decide)
  exact MemKept.refl _
  refine MemKept.ite ?_ ?_
  refine MemKept.trans ?_ Dev.cmtGo_mem
  exact MemKept.refl _
  refine MemKept.ite ?_ ?_
  refine MemKept.next ?_ Dev.setPorts_frame (by decide)
  exact MemKept.refl _
  refine MemKept.ite ?_ ?_
  refine MemKept.next ?_ Dev.setPorts_frame (by decide)
  exact MemKept.refl _
  refine MemKept.ite ?_ ?_
  refine MemKept.next ?_ Dev.swPost_frame (by decide)
  exact MemKept.refl _
  refine MemKept.ite ?_ ?_
  refine MemKept.next ?_ Dev.setPorts_frame (by decide)
  exact MemKept.refl _
  refine MemKept.ite ?_ ?_
  refine MemKept.next ?_ Dev.setPorts_frame (by decide)
  exact MemKept.refl _
  refine MemKept.ite ?_ ?_
  refine MemKept.next ?_ Dev.setPorts_frame (by decide)
  exact MemKept.refl _
  refine MemKept.ite ?_ ?_
  refine MemKept.next ?_ Dev.xfGo_frame (by decide)
  exact MemKept.refl _
  refine MemKept.ite ?_ ?_
  refine MemKept.next ?_ Dev.setPorts_frame (by decide)
  exact MemKept.refl _
  refine MemKept.ite ?_ ?_
  refine MemKept.next ?_ Dev.setCore_frame (by decide)
  refine MemKept.next ?_ Dev.setPorts_frame (by decide)
  exact MemKept.refl _
  exact MemKept.refl _

theorem Dev.burLoad_mem {d c a} : MemKept d (Dev.burLoad d c a).2 := by
  unfold Dev.burLoad
  refine MemKept.ite_snd ?_ ?_
  exact MemKept.refl _
  refine MemKept.ite_snd ?_ ?_
  dsimp only
  refine MemKept.next ?_ Dev.portRead_frame (by decide)
  exact MemKept.refl _
  refine MemKept.ite_snd ?_ ?_
  exact MemKept.refl _
  split
  refine MemKept.next ?_ Dev.setFe_frame (by decide)
  refine MemKept.trans ?_ (Dev.burDevRead_somem (by assumption))
  exact MemKept.refl _
  exact MemKept.refl _

theorem Dev.burStore_mem {d c a v} : MemKept d (Dev.burStore d c a v).2 := by
  unfold Dev.burStore
  refine MemKept.ite_snd ?_ ?_
  refine MemKept.next ?_ Dev.setCore_frame (by decide)
  exact MemKept.refl _
  refine MemKept.ite_snd ?_ ?_
  refine MemKept.trans ?_ Dev.portWrite_mem
  exact MemKept.refl _
  refine MemKept.ite_snd ?_ ?_
  exact MemKept.refl _
  split
  refine MemKept.next ?_ Dev.setFe_frame (by decide)
  refine MemKept.trans ?_ (Dev.burDevWrite_somem (by assumption))
  exact MemKept.refl _
  exact MemKept.refl _

theorem Dev.macLoad_mem {d c b l} : MemKept d (Dev.macLoad d c b l).2 := by
  unfold Dev.macLoad
  split
  exact MemKept.refl _
  dsimp only
  split
  refine MemKept.of_snd (by assumption) ?_
  refine MemKept.trans ?_ Dev.burLoad_mem
  refine MemKept.next ?_ Dev.rdM_frame (by decide)
  refine MemKept.next ?_ Dev.rdA_frame (by decide)
  exact MemKept.refl _
  refine MemKept.of_snd (by assumption) ?_
  refine MemKept.trans ?_ Dev.burLoad_mem
  refine MemKept.next ?_ Dev.rdM_frame (by decide)
  refine MemKept.next ?_ Dev.rdA_frame (by decide)
  exact MemKept.refl _

theorem Dev.macOp_mem {d c b one da db l f7} : MemKept d (Dev.macOp d c b one da db l f7).2 := by
  unfold Dev.macOp
  dsimp only
  split
  refine MemKept.of_snd (by assumption) ?_
  refine MemKept.trans ?_ Dev.macLoad_mem
  refine MemKept.next ?_ Dev.rdD_frame (by decide)
  refine MemKept.next ?_ Dev.rdD_frame (by decide)
  exact MemKept.refl _
  split
  refine MemKept.of_snd (by assumption) ?_
  refine MemKept.trans ?_ Dev.macLoad_mem
  refine MemKept.of_snd (by assumption) ?_
  refine MemKept.trans ?_ Dev.macLoad_mem
  refine MemKept.next ?_ Dev.rdD_frame (by decide)
  refine MemKept.next ?_ Dev.rdD_frame (by decide)
  exact MemKept.refl _
  split
  refine MemKept.ite_snd ?_ ?_
  refine MemKept.next ?_ Dev.free16_frame (by decide)
  refine MemKept.of_snd (by assumption) ?_
  refine MemKept.trans ?_ Dev.macLoad_mem
  refine MemKept.of_snd (by assumption) ?_
  refine MemKept.trans ?_ Dev.macLoad_mem
  refine MemKept.next ?_ Dev.rdD_frame (by decide)
  refine MemKept.next ?_ Dev.rdD_frame (by decide)
  exact MemKept.refl _
  refine MemKept.of_snd (by assumption) ?_
  refine MemKept.trans ?_ Dev.macLoad_mem
  refine MemKept.of_snd (by assumption) ?_
  refine MemKept.trans ?_ Dev.macLoad_mem
  refine MemKept.next ?_ Dev.rdD_frame (by decide)
  refine MemKept.next ?_ Dev.rdD_frame (by decide)
  exact MemKept.refl _
  refine MemKept.of_snd (by assumption) ?_
  refine MemKept.trans ?_ Dev.macLoad_mem
  refine MemKept.of_snd (by assumption) ?_
  refine MemKept.trans ?_ Dev.macLoad_mem
  refine MemKept.next ?_ Dev.rdD_frame (by decide)
  refine MemKept.next ?_ Dev.rdD_frame (by decide)
  exact MemKept.refl _

theorem Dev.burEffect_mem {d c op} : MemKept d (Dev.burEffect d c op).2 := by
  unfold Dev.burEffect
  split
  exact MemKept.refl _
  refine MemKept.next ?_ Dev.aluOp_frame (by decide)
  exact MemKept.refl _
  dsimp only
  refine MemKept.next ?_ Dev.rdS_frame (by decide)
  refine MemKept.next ?_ Dev.rdD_frame (by decide)
  exact MemKept.refl _
  refine MemKept.trans ?_ Dev.macOp_mem
  exact MemKept.refl _
  refine MemKept.trans ?_ Dev.macOp_mem
  exact MemKept.refl _
  exact MemKept.refl _
  exact MemKept.refl _
  exact MemKept.refl _
  exact MemKept.refl _
  dsimp only
  refine MemKept.next ?_ Dev.rdD_frame (by decide)
  exact MemKept.refl _
  dsimp only
  split
  refine MemKept.of_snd (by assumption) ?_
  refine MemKept.trans ?_ Dev.burLoad_mem
  refine MemKept.next ?_ Dev.memAddr_frame (by decide)
  exact MemKept.refl _
  refine MemKept.of_snd (by assumption) ?_
  refine MemKept.trans ?_ Dev.burLoad_mem
  refine MemKept.next ?_ Dev.memAddr_frame (by decide)
  exact MemKept.refl _
  dsimp only
  split
  refine MemKept.of_snd (by assumption) ?_
  refine MemKept.trans ?_ Dev.burStore_mem
  refine MemKept.next ?_ Dev.memAddr_frame (by decide)
  refine MemKept.next ?_ Dev.rdD_frame (by decide)
  exact MemKept.refl _
  refine MemKept.of_snd (by assumption) ?_
  refine MemKept.trans ?_ Dev.burStore_mem
  refine MemKept.next ?_ Dev.memAddr_frame (by decide)
  refine MemKept.next ?_ Dev.rdD_frame (by decide)
  exact MemKept.refl _
  exact MemKept.refl _
  refine MemKept.ite_snd ?_ ?_
  dsimp only
  refine MemKept.next ?_ Dev.wrSpec_frame (by decide)
  refine MemKept.next ?_ Dev.rdD_frame (by decide)
  exact MemKept.refl _
  dsimp only
  refine MemKept.next ?_ Dev.rdSpec_frame (by decide)
  exact MemKept.refl _
  exact MemKept.refl _
  exact MemKept.refl _
  exact MemKept.refl _
  refine MemKept.next ?_ Dev.loopOp_frame (by decide)
  exact MemKept.refl _
  exact MemKept.refl _
  exact MemKept.refl _
  dsimp only
  refine MemKept.next ?_ Dev.sigOp_frame (by decide)
  refine MemKept.next ?_ Dev.rdD_frame (by decide)
  exact MemKept.refl _
  refine MemKept.ite ?_ ?_
  refine MemKept.next ?_ Dev.setCore_frame (by decide)
  exact MemKept.refl _
  exact MemKept.refl _
  exact MemKept.refl _

theorem Dev.burRun_mem {d c op} : MemKept d (Dev.burRun d c op) := by
  unfold Dev.burRun
  dsimp only
  split
  refine MemKept.next ?_ Dev.burFault_frame (by decide)
  refine MemKept.trans ?_ Dev.burEffect_mem
  refine MemKept.next ?_ Dev.setCore_frame (by decide)
  exact MemKept.refl _
  refine MemKept.next ?_ Dev.burWait_frame (by decide)
  refine MemKept.trans ?_ Dev.burEffect_mem
  refine MemKept.next ?_ Dev.setCore_frame (by decide)
  exact MemKept.refl _
  refine MemKept.next ?_ Dev.burRti_frame (by decide)
  refine MemKept.trans ?_ Dev.burEffect_mem
  refine MemKept.next ?_ Dev.setCore_frame (by decide)
  exact MemKept.refl _
  refine MemKept.next ?_ Dev.setCore_frame (by decide)
  refine MemKept.trans ?_ Dev.burEffect_mem
  refine MemKept.next ?_ Dev.setCore_frame (by decide)
  exact MemKept.refl _

theorem Dev.burExec_mem {d c op} : MemKept d (Dev.burExec d c op) := by
  unfold Dev.burExec
  refine MemKept.ite ?_ ?_
  split
  refine MemKept.next ?_ Dev.burFault_frame (by decide)
  exact MemKept.refl _
  refine MemKept.ite ?_ ?_
  refine MemKept.trans ?_ Dev.burRun_mem
  exact MemKept.refl _
  exact MemKept.refl _
  exact MemKept.refl _

theorem Dev.burSingle_mem {d c} : MemKept d (Dev.burSingle d c) := by
  unfold Dev.burSingle
  refine MemKept.ite ?_ ?_
  refine MemKept.next ?_ Dev.setCore_frame (by decide)
  split
  refine MemKept.trans ?_ Dev.burRun_mem
  refine MemKept.next ?_ Dev.setCore_frame (by decide)
  exact MemKept.refl _
  refine MemKept.next ?_ Dev.burFault_frame (by decide)
  refine MemKept.next ?_ Dev.setCore_frame (by decide)
  exact MemKept.refl _
  exact MemKept.refl _

theorem Dev.cctlWrite_mem {d c v} : MemKept d (Dev.cctlWrite d c v) := by
  unfold Dev.cctlWrite
  refine Dev.guard_mem ?_ ?_
  exact MemKept.refl _
  intro _ _
  refine MemKept.ite ?_ ?_
  refine MemKept.trans ?_ Dev.burSingle_mem
  refine MemKept.ite ?_ ?_
  refine MemKept.next ?_ Dev.burCreset_frame (by decide)
  refine MemKept.ite ?_ ?_
  assumption
  refine MemKept.next ?_ Dev.setCore_frame (by decide)
  assumption
  refine MemKept.ite ?_ ?_
  assumption
  refine MemKept.next ?_ Dev.setCore_frame (by decide)
  assumption
  refine MemKept.ite ?_ ?_
  refine MemKept.next ?_ Dev.burCreset_frame (by decide)
  refine MemKept.ite ?_ ?_
  assumption
  refine MemKept.next ?_ Dev.setCore_frame (by decide)
  assumption
  refine MemKept.ite ?_ ?_
  assumption
  refine MemKept.next ?_ Dev.setCore_frame (by decide)
  assumption

/-! ### Shed -/

theorem Dev.enterS6_mem {d} : MemKept d (Dev.enterS6 d) := by
  unfold Dev.enterS6
  refine MemKept.next ?_ Dev.burLose_frame (by decide)
  refine MemKept.trans ?_ Dev.dmaS6_mem
  refine MemKept.next ?_ Dev.lanesS6_frame (by decide)
  exact MemKept.refl _

theorem Dev.enterLevels_mem {d a b} : MemKept d (Dev.enterLevels d a b) := by
  unfold Dev.enterLevels
  refine MemKept.ite ?_ ?_
  refine MemKept.next ?_ Dev.pairShed_frame (by decide)
  refine MemKept.ite ?_ ?_
  refine MemKept.trans ?_ Dev.enterS6_mem
  refine MemKept.ite ?_ ?_
  refine MemKept.next ?_ Dev.enterS5_frame (by decide)
  refine MemKept.ite ?_ ?_
  refine MemKept.next ?_ Dev.beamsS4_frame (by decide)
  refine MemKept.ite ?_ ?_
  refine MemKept.next ?_ Dev.hatS3_frame (by decide)
  refine MemKept.ite ?_ ?_
  refine MemKept.next ?_ Dev.burShed_frame (by decide)
  refine MemKept.trans ?_ Dev.mspShed_mem
  refine MemKept.upd_pwr ?_
  exact MemKept.refl _
  exact MemKept.refl _
  refine MemKept.ite ?_ ?_
  refine MemKept.next ?_ Dev.hatS2_frame (by decide)
  refine MemKept.ite ?_ ?_
  refine MemKept.next ?_ Dev.burShed_frame (by decide)
  refine MemKept.trans ?_ Dev.mspShed_mem
  refine MemKept.upd_pwr ?_
  exact MemKept.refl _
  exact MemKept.refl _
  refine MemKept.ite ?_ ?_
  refine MemKept.next ?_ Dev.burShed_frame (by decide)
  refine MemKept.trans ?_ Dev.mspShed_mem
  refine MemKept.upd_pwr ?_
  exact MemKept.refl _
  exact MemKept.refl _
  refine MemKept.ite ?_ ?_
  refine MemKept.next ?_ Dev.hatS3_frame (by decide)
  refine MemKept.ite ?_ ?_
  refine MemKept.next ?_ Dev.burShed_frame (by decide)
  refine MemKept.trans ?_ Dev.mspShed_mem
  refine MemKept.upd_pwr ?_
  exact MemKept.refl _
  exact MemKept.refl _
  refine MemKept.ite ?_ ?_
  refine MemKept.next ?_ Dev.hatS2_frame (by decide)
  refine MemKept.ite ?_ ?_
  refine MemKept.next ?_ Dev.burShed_frame (by decide)
  refine MemKept.trans ?_ Dev.mspShed_mem
  refine MemKept.upd_pwr ?_
  exact MemKept.refl _
  exact MemKept.refl _
  refine MemKept.ite ?_ ?_
  refine MemKept.next ?_ Dev.burShed_frame (by decide)
  refine MemKept.trans ?_ Dev.mspShed_mem
  refine MemKept.upd_pwr ?_
  exact MemKept.refl _
  exact MemKept.refl _
  refine MemKept.ite ?_ ?_
  refine MemKept.next ?_ Dev.beamsS4_frame (by decide)
  refine MemKept.ite ?_ ?_
  refine MemKept.next ?_ Dev.hatS3_frame (by decide)
  refine MemKept.ite ?_ ?_
  refine MemKept.next ?_ Dev.burShed_frame (by decide)
  refine MemKept.trans ?_ Dev.mspShed_mem
  refine MemKept.upd_pwr ?_
  exact MemKept.refl _
  exact MemKept.refl _
  refine MemKept.ite ?_ ?_
  refine MemKept.next ?_ Dev.hatS2_frame (by decide)
  refine MemKept.ite ?_ ?_
  refine MemKept.next ?_ Dev.burShed_frame (by decide)
  refine MemKept.trans ?_ Dev.mspShed_mem
  refine MemKept.upd_pwr ?_
  exact MemKept.refl _
  exact MemKept.refl _
  refine MemKept.ite ?_ ?_
  refine MemKept.next ?_ Dev.burShed_frame (by decide)
  refine MemKept.trans ?_ Dev.mspShed_mem
  refine MemKept.upd_pwr ?_
  exact MemKept.refl _
  exact MemKept.refl _
  refine MemKept.ite ?_ ?_
  refine MemKept.next ?_ Dev.hatS3_frame (by decide)
  refine MemKept.ite ?_ ?_
  refine MemKept.next ?_ Dev.burShed_frame (by decide)
  refine MemKept.trans ?_ Dev.mspShed_mem
  refine MemKept.upd_pwr ?_
  exact MemKept.refl _
  exact MemKept.refl _
  refine MemKept.ite ?_ ?_
  refine MemKept.next ?_ Dev.hatS2_frame (by decide)
  refine MemKept.ite ?_ ?_
  refine MemKept.next ?_ Dev.burShed_frame (by decide)
  refine MemKept.trans ?_ Dev.mspShed_mem
  refine MemKept.upd_pwr ?_
  exact MemKept.refl _
  exact MemKept.refl _
  refine MemKept.ite ?_ ?_
  refine MemKept.next ?_ Dev.burShed_frame (by decide)
  refine MemKept.trans ?_ Dev.mspShed_mem
  refine MemKept.upd_pwr ?_
  exact MemKept.refl _
  exact MemKept.refl _
  refine MemKept.ite ?_ ?_
  refine MemKept.next ?_ Dev.enterS5_frame (by decide)
  refine MemKept.ite ?_ ?_
  refine MemKept.next ?_ Dev.beamsS4_frame (by decide)
  refine MemKept.ite ?_ ?_
  refine MemKept.next ?_ Dev.hatS3_frame (by decide)
  refine MemKept.ite ?_ ?_
  refine MemKept.next ?_ Dev.burShed_frame (by decide)
  refine MemKept.trans ?_ Dev.mspShed_mem
  refine MemKept.upd_pwr ?_
  exact MemKept.refl _
  exact MemKept.refl _
  refine MemKept.ite ?_ ?_
  refine MemKept.next ?_ Dev.hatS2_frame (by decide)
  refine MemKept.ite ?_ ?_
  refine MemKept.next ?_ Dev.burShed_frame (by decide)
  refine MemKept.trans ?_ Dev.mspShed_mem
  refine MemKept.upd_pwr ?_
  exact MemKept.refl _
  exact MemKept.refl _
  refine MemKept.ite ?_ ?_
  refine MemKept.next ?_ Dev.burShed_frame (by decide)
  refine MemKept.trans ?_ Dev.mspShed_mem
  refine MemKept.upd_pwr ?_
  exact MemKept.refl _
  exact MemKept.refl _
  refine MemKept.ite ?_ ?_
  refine MemKept.next ?_ Dev.hatS3_frame (by decide)
  refine MemKept.ite ?_ ?_
  refine MemKept.next ?_ Dev.burShed_frame (by decide)
  refine MemKept.trans ?_ Dev.mspShed_mem
  refine MemKept.upd_pwr ?_
  exact MemKept.refl _
  exact MemKept.refl _
  refine MemKept.ite ?_ ?_
  refine MemKept.next ?_ Dev.hatS2_frame (by decide)
  refine MemKept.ite ?_ ?_
  refine MemKept.next ?_ Dev.burShed_frame (by decide)
  refine MemKept.trans ?_ Dev.mspShed_mem
  refine MemKept.upd_pwr ?_
  exact MemKept.refl _
  exact MemKept.refl _
  refine MemKept.ite ?_ ?_
  refine MemKept.next ?_ Dev.burShed_frame (by decide)
  refine MemKept.trans ?_ Dev.mspShed_mem
  refine MemKept.upd_pwr ?_
  exact MemKept.refl _
  exact MemKept.refl _
  refine MemKept.ite ?_ ?_
  refine MemKept.next ?_ Dev.beamsS4_frame (by decide)
  refine MemKept.ite ?_ ?_
  refine MemKept.next ?_ Dev.hatS3_frame (by decide)
  refine MemKept.ite ?_ ?_
  refine MemKept.next ?_ Dev.burShed_frame (by decide)
  refine MemKept.trans ?_ Dev.mspShed_mem
  refine MemKept.upd_pwr ?_
  exact MemKept.refl _
  exact MemKept.refl _
  refine MemKept.ite ?_ ?_
  refine MemKept.next ?_ Dev.hatS2_frame (by decide)
  refine MemKept.ite ?_ ?_
  refine MemKept.next ?_ Dev.burShed_frame (by decide)
  refine MemKept.trans ?_ Dev.mspShed_mem
  refine MemKept.upd_pwr ?_
  exact MemKept.refl _
  exact MemKept.refl _
  refine MemKept.ite ?_ ?_
  refine MemKept.next ?_ Dev.burShed_frame (by decide)
  refine MemKept.trans ?_ Dev.mspShed_mem
  refine MemKept.upd_pwr ?_
  exact MemKept.refl _
  exact MemKept.refl _
  refine MemKept.ite ?_ ?_
  refine MemKept.next ?_ Dev.hatS3_frame (by decide)
  refine MemKept.ite ?_ ?_
  refine MemKept.next ?_ Dev.burShed_frame (by decide)
  refine MemKept.trans ?_ Dev.mspShed_mem
  refine MemKept.upd_pwr ?_
  exact MemKept.refl _
  exact MemKept.refl _
  refine MemKept.ite ?_ ?_
  refine MemKept.next ?_ Dev.hatS2_frame (by decide)
  refine MemKept.ite ?_ ?_
  refine MemKept.next ?_ Dev.burShed_frame (by decide)
  refine MemKept.trans ?_ Dev.mspShed_mem
  refine MemKept.upd_pwr ?_
  exact MemKept.refl _
  exact MemKept.refl _
  refine MemKept.ite ?_ ?_
  refine MemKept.next ?_ Dev.burShed_frame (by decide)
  refine MemKept.trans ?_ Dev.mspShed_mem
  refine MemKept.upd_pwr ?_
  exact MemKept.refl _
  exact MemKept.refl _
  refine MemKept.ite ?_ ?_
  refine MemKept.trans ?_ Dev.enterS6_mem
  refine MemKept.ite ?_ ?_
  refine MemKept.next ?_ Dev.enterS5_frame (by decide)
  refine MemKept.ite ?_ ?_
  refine MemKept.next ?_ Dev.beamsS4_frame (by decide)
  refine MemKept.ite ?_ ?_
  refine MemKept.next ?_ Dev.hatS3_frame (by decide)
  refine MemKept.ite ?_ ?_
  refine MemKept.next ?_ Dev.burShed_frame (by decide)
  refine MemKept.trans ?_ Dev.mspShed_mem
  refine MemKept.upd_pwr ?_
  exact MemKept.refl _
  exact MemKept.refl _
  refine MemKept.ite ?_ ?_
  refine MemKept.next ?_ Dev.hatS2_frame (by decide)
  refine MemKept.ite ?_ ?_
  refine MemKept.next ?_ Dev.burShed_frame (by decide)
  refine MemKept.trans ?_ Dev.mspShed_mem
  refine MemKept.upd_pwr ?_
  exact MemKept.refl _
  exact MemKept.refl _
  refine MemKept.ite ?_ ?_
  refine MemKept.next ?_ Dev.burShed_frame (by decide)
  refine MemKept.trans ?_ Dev.mspShed_mem
  refine MemKept.upd_pwr ?_
  exact MemKept.refl _
  exact MemKept.refl _
  refine MemKept.ite ?_ ?_
  refine MemKept.next ?_ Dev.hatS3_frame (by decide)
  refine MemKept.ite ?_ ?_
  refine MemKept.next ?_ Dev.burShed_frame (by decide)
  refine MemKept.trans ?_ Dev.mspShed_mem
  refine MemKept.upd_pwr ?_
  exact MemKept.refl _
  exact MemKept.refl _
  refine MemKept.ite ?_ ?_
  refine MemKept.next ?_ Dev.hatS2_frame (by decide)
  refine MemKept.ite ?_ ?_
  refine MemKept.next ?_ Dev.burShed_frame (by decide)
  refine MemKept.trans ?_ Dev.mspShed_mem
  refine MemKept.upd_pwr ?_
  exact MemKept.refl _
  exact MemKept.refl _
  refine MemKept.ite ?_ ?_
  refine MemKept.next ?_ Dev.burShed_frame (by decide)
  refine MemKept.trans ?_ Dev.mspShed_mem
  refine MemKept.upd_pwr ?_
  exact MemKept.refl _
  exact MemKept.refl _
  refine MemKept.ite ?_ ?_
  refine MemKept.next ?_ Dev.beamsS4_frame (by decide)
  refine MemKept.ite ?_ ?_
  refine MemKept.next ?_ Dev.hatS3_frame (by decide)
  refine MemKept.ite ?_ ?_
  refine MemKept.next ?_ Dev.burShed_frame (by decide)
  refine MemKept.trans ?_ Dev.mspShed_mem
  refine MemKept.upd_pwr ?_
  exact MemKept.refl _
  exact MemKept.refl _
  refine MemKept.ite ?_ ?_
  refine MemKept.next ?_ Dev.hatS2_frame (by decide)
  refine MemKept.ite ?_ ?_
  refine MemKept.next ?_ Dev.burShed_frame (by decide)
  refine MemKept.trans ?_ Dev.mspShed_mem
  refine MemKept.upd_pwr ?_
  exact MemKept.refl _
  exact MemKept.refl _
  refine MemKept.ite ?_ ?_
  refine MemKept.next ?_ Dev.burShed_frame (by decide)
  refine MemKept.trans ?_ Dev.mspShed_mem
  refine MemKept.upd_pwr ?_
  exact MemKept.refl _
  exact MemKept.refl _
  refine MemKept.ite ?_ ?_
  refine MemKept.next ?_ Dev.hatS3_frame (by decide)
  refine MemKept.ite ?_ ?_
  refine MemKept.next ?_ Dev.burShed_frame (by decide)
  refine MemKept.trans ?_ Dev.mspShed_mem
  refine MemKept.upd_pwr ?_
  exact MemKept.refl _
  exact MemKept.refl _
  refine MemKept.ite ?_ ?_
  refine MemKept.next ?_ Dev.hatS2_frame (by decide)
  refine MemKept.ite ?_ ?_
  refine MemKept.next ?_ Dev.burShed_frame (by decide)
  refine MemKept.trans ?_ Dev.mspShed_mem
  refine MemKept.upd_pwr ?_
  exact MemKept.refl _
  exact MemKept.refl _
  refine MemKept.ite ?_ ?_
  refine MemKept.next ?_ Dev.burShed_frame (by decide)
  refine MemKept.trans ?_ Dev.mspShed_mem
  refine MemKept.upd_pwr ?_
  exact MemKept.refl _
  exact MemKept.refl _
  refine MemKept.ite ?_ ?_
  refine MemKept.next ?_ Dev.enterS5_frame (by decide)
  refine MemKept.ite ?_ ?_
  refine MemKept.next ?_ Dev.beamsS4_frame (by decide)
  refine MemKept.ite ?_ ?_
  refine MemKept.next ?_ Dev.hatS3_frame (by decide)
  refine MemKept.ite ?_ ?_
  refine MemKept.next ?_ Dev.burShed_frame (by decide)
  refine MemKept.trans ?_ Dev.mspShed_mem
  refine MemKept.upd_pwr ?_
  exact MemKept.refl _
  exact MemKept.refl _
  refine MemKept.ite ?_ ?_
  refine MemKept.next ?_ Dev.hatS2_frame (by decide)
  refine MemKept.ite ?_ ?_
  refine MemKept.next ?_ Dev.burShed_frame (by decide)
  refine MemKept.trans ?_ Dev.mspShed_mem
  refine MemKept.upd_pwr ?_
  exact MemKept.refl _
  exact MemKept.refl _
  refine MemKept.ite ?_ ?_
  refine MemKept.next ?_ Dev.burShed_frame (by decide)
  refine MemKept.trans ?_ Dev.mspShed_mem
  refine MemKept.upd_pwr ?_
  exact MemKept.refl _
  exact MemKept.refl _
  refine MemKept.ite ?_ ?_
  refine MemKept.next ?_ Dev.hatS3_frame (by decide)
  refine MemKept.ite ?_ ?_
  refine MemKept.next ?_ Dev.burShed_frame (by decide)
  refine MemKept.trans ?_ Dev.mspShed_mem
  refine MemKept.upd_pwr ?_
  exact MemKept.refl _
  exact MemKept.refl _
  refine MemKept.ite ?_ ?_
  refine MemKept.next ?_ Dev.hatS2_frame (by decide)
  refine MemKept.ite ?_ ?_
  refine MemKept.next ?_ Dev.burShed_frame (by decide)
  refine MemKept.trans ?_ Dev.mspShed_mem
  refine MemKept.upd_pwr ?_
  exact MemKept.refl _
  exact MemKept.refl _
  refine MemKept.ite ?_ ?_
  refine MemKept.next ?_ Dev.burShed_frame (by decide)
  refine MemKept.trans ?_ Dev.mspShed_mem
  refine MemKept.upd_pwr ?_
  exact MemKept.refl _
  exact MemKept.refl _
  refine MemKept.ite ?_ ?_
  refine MemKept.next ?_ Dev.beamsS4_frame (by decide)
  refine MemKept.ite ?_ ?_
  refine MemKept.next ?_ Dev.hatS3_frame (by decide)
  refine MemKept.ite ?_ ?_
  refine MemKept.next ?_ Dev.burShed_frame (by decide)
  refine MemKept.trans ?_ Dev.mspShed_mem
  refine MemKept.upd_pwr ?_
  exact MemKept.refl _
  exact MemKept.refl _
  refine MemKept.ite ?_ ?_
  refine MemKept.next ?_ Dev.hatS2_frame (by decide)
  refine MemKept.ite ?_ ?_
  refine MemKept.next ?_ Dev.burShed_frame (by decide)
  refine MemKept.trans ?_ Dev.mspShed_mem
  refine MemKept.upd_pwr ?_
  exact MemKept.refl _
  exact MemKept.refl _
  refine MemKept.ite ?_ ?_
  refine MemKept.next ?_ Dev.burShed_frame (by decide)
  refine MemKept.trans ?_ Dev.mspShed_mem
  refine MemKept.upd_pwr ?_
  exact MemKept.refl _
  exact MemKept.refl _
  refine MemKept.ite ?_ ?_
  refine MemKept.next ?_ Dev.hatS3_frame (by decide)
  refine MemKept.ite ?_ ?_
  refine MemKept.next ?_ Dev.burShed_frame (by decide)
  refine MemKept.trans ?_ Dev.mspShed_mem
  refine MemKept.upd_pwr ?_
  exact MemKept.refl _
  exact MemKept.refl _
  refine MemKept.ite ?_ ?_
  refine MemKept.next ?_ Dev.hatS2_frame (by decide)
  refine MemKept.ite ?_ ?_
  refine MemKept.next ?_ Dev.burShed_frame (by decide)
  refine MemKept.trans ?_ Dev.mspShed_mem
  refine MemKept.upd_pwr ?_
  exact MemKept.refl _
  exact MemKept.refl _
  refine MemKept.ite ?_ ?_
  refine MemKept.next ?_ Dev.burShed_frame (by decide)
  refine MemKept.trans ?_ Dev.mspShed_mem
  refine MemKept.upd_pwr ?_
  exact MemKept.refl _
  exact MemKept.refl _

theorem Dev.levelRise_mem {d k} : MemKept d (Dev.levelRise d k) := by
  unfold Dev.levelRise
  refine MemKept.next ?_ Dev.raise_frame (by decide)
  refine MemKept.upd_pwr ?_
  refine MemKept.trans ?_ Dev.enterLevels_mem
  refine MemKept.next ?_ Dev.bump_frame (by decide)
  refine MemKept.next ?_ Dev.setLevel_frame (by decide)
  exact MemKept.refl _

theorem Dev.levelNow_mem {d} : MemKept d (Dev.levelNow d) := by
  unfold Dev.levelNow
  refine MemKept.ite ?_ ?_
  refine MemKept.trans ?_ Dev.levelRise_mem
  exact MemKept.refl _
  refine MemKept.ite ?_ ?_
  refine MemKept.upd_pwr ?_
  exact MemKept.refl _
  refine MemKept.ite ?_ ?_
  refine MemKept.upd_pwr ?_
  exact MemKept.refl _
  exact MemKept.refl _

theorem Dev.supplySample_mem {d r mv power} : MemKept d (Dev.supplySample d r mv power) := by
  unfold Dev.supplySample
  refine MemKept.ite ?_ ?_
  exact MemKept.refl _
  refine MemKept.trans ?_ Dev.levelNow_mem
  refine MemKept.next ?_ Dev.peak_frame (by decide)
  refine MemKept.next ?_ Dev.setReg_frame (by decide)
  refine MemKept.upd_pwr ?_
  refine MemKept.upd_pwr ?_
  refine MemKept.upd_pwr ?_
  exact MemKept.refl _

theorem Dev.tempLevels_mem {d t sensor} : MemKept d (Dev.tempLevels d t sensor) := by
  unfold Dev.tempLevels
  refine MemKept.trans ?_ Dev.levelNow_mem
  refine MemKept.next ?_ Dev.clkTemp_frame (by decide)
  refine MemKept.next ?_ Dev.memTemps_frame (by decide)
  refine MemKept.ite ?_ ?_
  refine MemKept.next ?_ Dev.raise_frame (by decide)
  refine MemKept.ite ?_ ?_
  refine MemKept.next ?_ Dev.raise_frame (by decide)
  refine MemKept.next ?_ Dev.peak_frame (by decide)
  refine MemKept.upd_pwr ?_
  exact MemKept.refl _
  refine MemKept.next ?_ Dev.peak_frame (by decide)
  refine MemKept.upd_pwr ?_
  exact MemKept.refl _
  refine MemKept.ite ?_ ?_
  refine MemKept.next ?_ Dev.raise_frame (by decide)
  refine MemKept.next ?_ Dev.peak_frame (by decide)
  refine MemKept.upd_pwr ?_
  exact MemKept.refl _
  refine MemKept.next ?_ Dev.peak_frame (by decide)
  refine MemKept.upd_pwr ?_
  exact MemKept.refl _

theorem Dev.hostLevel_mem {d k} : MemKept d (Dev.hostLevel d k) := by
  unfold Dev.hostLevel
  refine MemKept.trans ?_ Dev.levelNow_mem
  refine MemKept.upd_pwr ?_
  exact MemKept.refl _

theorem Dev.shedreqWrite_mem {d v} : MemKept d (Dev.shedreqWrite d v) := by
  unfold Dev.shedreqWrite
  refine Dev.guard_mem ?_ ?_
  exact MemKept.refl _
  intro _ _
  refine MemKept.trans ?_ Dev.hostLevel_mem
  assumption

/-! ### Run -/

theorem MemKept.upd_clear {d0 d : Dev} {p} (h : MemKept d0 d) : MemKept d0 { d with mem := Tab.clear p d.mem } :=
  fun w => Tab.wf_clear _ p _ (h w)

theorem Dev.memSelftest_mem {d bad} : MemKept d (Dev.memSelftest d bad) := by
  unfold Dev.memSelftest
  refine MemKept.foldl ?_ ?_
  refine MemKept.ite ?_ ?_
  refine MemKept.upd_clear ?_
  exact MemKept.refl _
  refine MemKept.trans ?_ Dev.fmapChanged_mem
  refine MemKept.upd_plt ?_
  refine MemKept.upd_clear ?_
  exact MemKept.refl _
  intro _ _ _
  refine MemKept.trans ?_ Dev.excludeAt_mem
  assumption

theorem Dev.selftestDone_mem {d quires bad lanes} : MemKept d (Dev.selftestDone d quires bad lanes) := by
  unfold Dev.selftestDone
  refine MemKept.ite ?_ ?_
  exact MemKept.refl _
  refine MemKept.next ?_ Dev.setState_frame (by decide)
  refine MemKept.foldl ?_ ?_
  refine Dev.fmapStep_mem ?_
  refine MemKept.trans ?_ Dev.memSelftest_mem
  refine MemKept.trans ?_ Dev.hatSelftest_mem
  exact MemKept.refl _
  intro _ _ _
  refine MemKept.next ?_ Dev.laneTested_frame (by decide)
  assumption

theorem Dev.sampleFrame_mem {d l fr} : MemKept d (Dev.sampleFrame d l fr) := by
  unfold Dev.sampleFrame
  refine MemKept.ite ?_ ?_
  exact MemKept.refl _
  refine MemKept.ite ?_ ?_
  refine MemKept.ite ?_ ?_
  exact MemKept.refl _
  exact Dev.ctrlRx_mem (MemKept.refl _) fun _ h => h
  dsimp only
  refine MemKept.ite ?_ ?_
  refine MemKept.next ?_ Dev.ingest_frame (by decide)
  exact MemKept.refl _
  refine MemKept.ite ?_ ?_
  refine MemKept.upd_lnb ?_
  split
  refine MemKept.next ?_ Dev.admitSample_frame (by decide)
  refine MemKept.next ?_ Dev.ingest_frame (by decide)
  exact MemKept.refl _
  refine MemKept.next ?_ Dev.tapFrame_frame (by decide)
  refine MemKept.next ?_ Dev.bmfFrame_frame (by decide)
  refine MemKept.trans ?_ Dev.couch_mem
  refine MemKept.next ?_ Dev.admitSample_frame (by decide)
  refine MemKept.next ?_ Dev.ingest_frame (by decide)
  exact MemKept.refl _
  split
  refine MemKept.next ?_ Dev.admitSample_frame (by decide)
  refine MemKept.next ?_ Dev.ingest_frame (by decide)
  exact MemKept.refl _
  refine MemKept.next ?_ Dev.tapFrame_frame (by decide)
  refine MemKept.next ?_ Dev.bmfFrame_frame (by decide)
  refine MemKept.trans ?_ Dev.couch_mem
  refine MemKept.next ?_ Dev.admitSample_frame (by decide)
  refine MemKept.next ?_ Dev.ingest_frame (by decide)
  exact MemKept.refl _

theorem Dev.frameSetClose_mem {d g f2 overrun lat} : MemKept d (Dev.frameSetClose d g f2 overrun lat) := by
  unfold Dev.frameSetClose
  refine MemKept.ite ?_ ?_
  exact MemKept.refl _
  dsimp only
  refine MemKept.trans ?_ Dev.streamDue_mem
  split
  refine MemKept.next ?_ Dev.burFspow_frame (by decide)
  refine MemKept.next ?_ Dev.trgTake_frame (by decide)
  refine MemKept.trans ?_ Dev.bmfClose_mem
  refine MemKept.next ?_ Dev.closeSet_frame (by decide)
  exact MemKept.refl _
  refine MemKept.next ?_ Dev.burFspow_frame (by decide)
  refine MemKept.upd_bmf ?_
  refine MemKept.trans ?_ Dev.bmfClose_mem
  refine MemKept.next ?_ Dev.closeSet_frame (by decide)
  exact MemKept.refl _

theorem Dev.sheetComplete_mem {d} : MemKept d (Dev.sheetComplete d) := by
  unfold Dev.sheetComplete
  refine MemKept.ite ?_ ?_
  exact MemKept.refl _
  (dsimp only; split)
  refine MemKept.trans ?_ Dev.completeSheet_mem
  exact MemKept.refl _
  refine MemKept.trans ?_ Dev.streamDue_mem
  refine MemKept.trans ?_ Dev.burSheet_mem
  refine MemKept.next ?_ Dev.burCycles_frame (by decide)
  refine MemKept.next ?_ Dev.hatSheet_frame (by decide)
  refine MemKept.next ?_ Dev.accSheet_frame (by decide)
  refine MemKept.trans ?_ Dev.completeSheet_mem
  exact MemKept.refl _

theorem Dev.recordFinished_mem {d} : MemKept d (Dev.recordFinished d) := by
  unfold Dev.recordFinished
  split
  exact MemKept.refl _
  refine MemKept.ite ?_ ?_
  exact MemKept.refl _
  refine MemKept.ite ?_ ?_
  refine MemKept.next ?_ Dev.endRun_frame (by decide)
  refine MemKept.next ?_ Dev.closeWaiting_frame (by decide)
  refine MemKept.next ?_ Dev.wmOwn_frame (by decide)
  refine MemKept.trans ?_ Dev.finishRecord_mem
  refine MemKept.trans ?_ Dev.suspectFlagsClose_mem
  exact MemKept.refl _
  refine MemKept.next ?_ Dev.drainCheck_frame (by decide)
  refine MemKept.next ?_ Dev.closeWaiting_frame (by decide)
  refine MemKept.next ?_ Dev.wmOwn_frame (by decide)
  refine MemKept.trans ?_ Dev.finishRecord_mem
  refine MemKept.trans ?_ Dev.suspectFlagsClose_mem
  exact MemKept.refl _

theorem Dev.thawDone_mem {d recur addr syn still} : MemKept d (Dev.thawDone d recur addr syn still) := by
  unfold Dev.thawDone
  refine MemKept.ite ?_ ?_
  refine MemKept.next ?_ Dev.endRun_frame (by decide)
  split
  refine MemKept.ite ?_ ?_
  refine MemKept.next ?_ Dev.cutCaptures_frame (by decide)
  refine MemKept.trans ?_ Dev.thawCheckDone_mem
  exact MemKept.refl _
  refine MemKept.trans ?_ Dev.thawCheckDone_mem
  exact MemKept.refl _
  refine MemKept.trans ?_ Dev.thawCheckDone_mem
  exact MemKept.refl _
  refine MemKept.next ?_ Dev.drainCheck_frame (by decide)
  split
  refine MemKept.ite ?_ ?_
  refine MemKept.next ?_ Dev.cutCaptures_frame (by decide)
  refine MemKept.trans ?_ Dev.thawCheckDone_mem
  exact MemKept.refl _
  refine MemKept.trans ?_ Dev.thawCheckDone_mem
  exact MemKept.refl _
  refine MemKept.trans ?_ Dev.thawCheckDone_mem
  exact MemKept.refl _

/-! ### Reset -/

theorem Dev.islandsLost_mem {d cause rail k} : MemKept d (Dev.islandsLost d cause rail k) := by
  intro _
  unfold Dev.islandsLost
  exact Tab.wf_nil _

theorem Dev.moduleReset_mem {d cause} : MemKept d (Dev.moduleReset d cause) := by
  unfold Dev.moduleReset
  refine MemKept.next ?_ Dev.masters_frame (by decide)
  refine MemKept.next ?_ Dev.setState_frame (by decide)
  refine MemKept.trans ?_ Dev.islandsLost_mem
  exact MemKept.refl _

theorem Dev.linkReset_mem {d perst} : MemKept d (Dev.linkReset d perst) := by
  unfold Dev.linkReset
  refine MemKept.ite ?_ ?_
  refine MemKept.upd_boot ?_
  exact MemKept.refl _
  refine MemKept.trans ?_ Dev.moduleReset_mem
  refine MemKept.upd_boot ?_
  exact MemKept.refl _

theorem Dev.allLost_mem {d porst} : MemKept d (Dev.allLost d porst) := by
  intro _
  unfold Dev.allLost
  exact Tab.wf_nil _

theorem Dev.powerOnReset_mem {d} : MemKept d (Dev.powerOnReset d) := by
  unfold Dev.powerOnReset
  exact MemKept.trans (MemKept.ite (MemKept.next (MemKept.refl _) Dev.emit_frame (by decide)) (MemKept.refl _)) Dev.allLost_mem

theorem Dev.supplyReset_mem {d r} : MemKept d (Dev.supplyReset d r) := by
  unfold Dev.supplyReset
  refine MemKept.ite ?_ ?_
  exact MemKept.refl _
  refine MemKept.ite ?_ ?_
  refine MemKept.upd_pwr ?_
  refine MemKept.trans ?_ Dev.allLost_mem
  exact MemKept.refl _
  refine MemKept.ite (MemKept.refl _) ?_
  refine MemKept.next ?_ Dev.setState_frame (by decide)
  refine MemKept.trans ?_ Dev.islandsLost_mem
  refine MemKept.upd_boot ?_
  exact MemKept.refl _

theorem Dev.tempSample_mem {d t sensor} : MemKept d (Dev.tempSample d t sensor) := by
  unfold Dev.tempSample
  refine MemKept.ite ?_ ?_
  exact MemKept.refl _
  refine MemKept.ite ?_ ?_
  refine MemKept.next ?_ Dev.emit_frame (by decide)
  refine MemKept.upd_aon ?_
  refine MemKept.next ?_ Dev.setState_frame (by decide)
  refine MemKept.trans ?_ Dev.islandsLost_mem
  refine MemKept.upd_boot ?_
  exact MemKept.refl _
  refine MemKept.trans ?_ Dev.tempLevels_mem
  exact MemKept.refl _

theorem Dev.memoryTrainingDone_mem {d failed bad quires lanes sram}
    : MemKept d (Dev.memoryTrainingDone d failed bad quires lanes sram) := by
  unfold Dev.memoryTrainingDone
  refine MemKept.ite ?_ ?_
  exact MemKept.refl _
  refine MemKept.upd_boot ?_
  refine MemKept.foldl ?_ ?_
  refine MemKept.trans ?_ Dev.fmapOnce_mem
  refine MemKept.trans ?_ Dev.hatSelftest_mem
  refine MemKept.trans ?_ Dev.trainingDone_mem
  refine MemKept.foldl ?_ ?_
  exact MemKept.refl _
  intro _ _ _
  refine MemKept.ite ?_ ?_
  assumption
  refine MemKept.next ?_ Dev.startPage_frame (by decide)
  assumption
  intro _ _ _
  refine MemKept.next ?_ Dev.laneTested_frame (by decide)
  assumption

theorem Dev.recover_mem {d} : MemKept d (Dev.recover d) := by
  unfold Dev.recover
  refine MemKept.next ?_ Dev.pairSync_frame (by decide)
  refine MemKept.next ?_ Dev.setState_frame (by decide)
  refine MemKept.upd_boot ?_
  refine MemKept.next ?_ Dev.portReset_frame (by decide)
  refine MemKept.foldl ?_ ?_
  refine MemKept.foldl ?_ ?_
  refine MemKept.foldl ?_ ?_
  refine MemKept.ite ?_ ?_
  refine MemKept.next ?_ Dev.rolesNow_frame (by decide)
  refine MemKept.upd_plt ?_
  refine MemKept.next ?_ Dev.pltAbort_frame (by decide)
  refine MemKept.ite ?_ ?_
  refine MemKept.trans ?_ Dev.dataStop_mem
  exact MemKept.refl _
  exact MemKept.refl _
  refine MemKept.next ?_ Dev.pltAbort_frame (by decide)
  refine MemKept.ite ?_ ?_
  refine MemKept.trans ?_ Dev.dataStop_mem
  exact MemKept.refl _
  exact MemKept.refl _
  intro _ _ _
  refine MemKept.ite ?_ ?_
  assumption
  refine MemKept.next ?_ Dev.setCore_frame (by decide)
  assumption
  intro _ _ _
  refine MemKept.next ?_ Dev.setReg_frame (by decide)
  assumption
  intro _ _ _
  refine MemKept.next ?_ Dev.relight_frame (by decide)
  assumption

theorem Dev.mladefReset_mem {d cause} : MemKept d (Dev.mladefReset d cause) := by
  unfold Dev.mladefReset
  refine MemKept.ite ?_ ?_
  exact MemKept.refl _
  refine MemKept.ite ?_ ?_
  refine MemKept.trans ?_ Dev.moduleReset_mem
  exact MemKept.refl _
  refine MemKept.trans ?_ Dev.recover_mem
  refine MemKept.upd_boot ?_
  exact MemKept.refl _

theorem Dev.watchdogExpire_mem {d} : MemKept d (Dev.watchdogExpire d) := by
  unfold Dev.watchdogExpire
  refine MemKept.ite ?_ ?_
  exact MemKept.refl _
  refine MemKept.ite ?_ ?_
  refine MemKept.trans ?_ Dev.moduleReset_mem
  exact MemKept.refl _
  refine MemKept.trans ?_ Dev.mladefReset_mem
  refine MemKept.ite ?_ ?_
  refine MemKept.next ?_ Dev.snapTake_frame (by decide)
  exact MemKept.refl _
  exact MemKept.refl _

theorem Dev.wdogWrite_mem {d v} : MemKept d (Dev.wdogWrite d v) := by
  unfold Dev.wdogWrite
  refine Dev.guard_mem ?_ ?_
  exact MemKept.refl _
  intro _ _
  refine MemKept.ite ?_ ?_
  refine MemKept.trans ?_ Dev.moduleReset_mem
  refine MemKept.upd_boot ?_
  assumption
  refine MemKept.upd_boot ?_
  assumption

theorem Dev.aonWdReset_mem {d i3c confirm} : MemKept d (Dev.aonWdReset d i3c confirm) := by
  unfold Dev.aonWdReset
  refine Dev.aonOp_mem ?_ ?_
  exact MemKept.refl _
  intro _ _
  refine MemKept.trans ?_ Dev.moduleReset_mem
  assumption

theorem Dev.aonSetShed_mem {d i3c} : MemKept d (Dev.aonSetShed d i3c) := by
  unfold Dev.aonSetShed
  refine Dev.aonOp_mem ?_ ?_
  exact MemKept.refl _
  intro _ _
  refine MemKept.trans ?_ Dev.hostLevel_mem
  assumption

theorem Dev.aonCmd_mem {d i3c v} : MemKept d (Dev.aonCmd d i3c v) := by
  unfold Dev.aonCmd
  split
  refine Dev.aonOp_mem ?_ ?_
  refine MemKept.next ?_ Dev.setAonPort_frame (by decide)
  exact MemKept.refl _
  intro _ _
  assumption
  refine MemKept.next ?_ Dev.aonRead_frame (by decide)
  refine MemKept.next ?_ Dev.setAonPort_frame (by decide)
  exact MemKept.refl _
  refine MemKept.next ?_ Dev.aonEstop_frame (by decide)
  refine MemKept.next ?_ Dev.setAonPort_frame (by decide)
  exact MemKept.refl _
  refine MemKept.next ?_ Dev.aonRelease_frame (by decide)
  refine MemKept.next ?_ Dev.setAonPort_frame (by decide)
  exact MemKept.refl _
  refine MemKept.next ?_ Dev.aonSnapTake_frame (by decide)
  refine MemKept.next ?_ Dev.setAonPort_frame (by decide)
  exact MemKept.refl _
  refine MemKept.next ?_ Dev.aonSnapClear_frame (by decide)
  refine MemKept.next ?_ Dev.setAonPort_frame (by decide)
  exact MemKept.refl _
  refine MemKept.trans ?_ Dev.aonWdReset_mem
  refine MemKept.next ?_ Dev.setAonPort_frame (by decide)
  exact MemKept.refl _
  refine MemKept.trans ?_ Dev.aonSetShed_mem
  refine MemKept.next ?_ Dev.setAonPort_frame (by decide)
  exact MemKept.refl _
  refine MemKept.next ?_ Dev.aonReadSnap_frame (by decide)
  refine MemKept.next ?_ Dev.setAonPort_frame (by decide)
  exact MemKept.refl _
  refine Dev.aonOp_mem ?_ ?_
  refine MemKept.next ?_ Dev.setAonPort_frame (by decide)
  exact MemKept.refl _
  intro _ _
  assumption

theorem Dev.aonDo_mem {d i3c addr cmd} : MemKept d (Dev.aonDo d i3c addr cmd) := by
  unfold Dev.aonDo
  refine MemKept.ite ?_ ?_
  refine MemKept.trans ?_ Dev.aonCmd_mem
  refine MemKept.next ?_ Dev.setAonPort_frame (by decide)
  exact MemKept.refl _
  exact MemKept.refl _

theorem Dev.i3cWrite_mem {d idx v} : MemKept d (Dev.i3cWrite d idx v) := by
  unfold Dev.i3cWrite
  refine MemKept.ite ?_ ?_
  exact MemKept.refl _
  split
  refine MemKept.trans ?_ Dev.aonCmd_mem
  refine MemKept.upd_aon ?_
  exact MemKept.refl _
  refine MemKept.next ?_ Dev.setAonPort_frame (by decide)
  refine MemKept.upd_aon ?_
  exact MemKept.refl _
  refine MemKept.next ?_ Dev.imgData_frame (by decide)
  refine MemKept.upd_aon ?_
  exact MemKept.refl _
  refine MemKept.next ?_ Dev.imgLen_frame (by decide)
  refine MemKept.upd_aon ?_
  exact MemKept.refl _
  refine MemKept.next ?_ Dev.imgCtl_frame (by decide)
  refine MemKept.upd_aon ?_
  exact MemKept.refl _
  refine MemKept.upd_aon ?_
  exact MemKept.refl _

theorem Dev.blockReset_mem {d p} : MemKept d (Dev.blockReset d p) := by
  unfold Dev.blockReset
  refine MemKept.ite ?_ ?_
  refine MemKept.trans ?_ Dev.levelNow_mem
  refine MemKept.upd_pwr ?_
  exact MemKept.refl _
  refine MemKept.ite ?_ ?_
  refine MemKept.upd_pair ?_
  refine MemKept.ite ?_ ?_
  refine MemKept.next ?_ Dev.emit_frame (by decide)
  exact MemKept.refl _
  exact MemKept.refl _
  refine MemKept.ite ?_ ?_
  refine MemKept.next ?_ Dev.masters_frame (by decide)
  refine MemKept.upd_clk ?_
  exact MemKept.refl _
  refine MemKept.ite ?_ ?_
  refine MemKept.upd_time ?_
  exact MemKept.refl _
  refine MemKept.ite ?_ ?_
  refine MemKept.upd_msp_mspSh_monword ?_
  exact MemKept.refl _
  refine MemKept.ite ?_ ?_
  refine MemKept.upd_mmu ?_
  exact MemKept.refl _
  refine MemKept.ite ?_ ?_
  refine MemKept.next ?_ Dev.dmaReset_frame (by decide)
  exact MemKept.refl _
  refine MemKept.ite ?_ ?_
  refine MemKept.upd_fab ?_
  refine MemKept.foldl ?_ ?_
  exact MemKept.refl _
  intro _ _ _
  refine MemKept.next ?_ Dev.portReset_frame (by decide)
  assumption
  refine MemKept.ite ?_ ?_
  refine MemKept.upd_mctl ?_
  exact MemKept.refl _
  refine MemKept.ite ?_ ?_
  refine MemKept.foldl ?_ ?_
  exact MemKept.refl _
  intro _ _ _
  refine MemKept.next ?_ Dev.setMchan_frame (by decide)
  assumption
  refine MemKept.ite ?_ ?_
  refine MemKept.next ?_ Dev.lnbReset_frame (by decide)
  exact MemKept.refl _
  refine MemKept.ite ?_ ?_
  refine MemKept.upd_lnb_ing ?_
  exact MemKept.refl _
  refine MemKept.ite ?_ ?_
  refine MemKept.upd_dkl ?_
  exact MemKept.refl _
  refine MemKept.ite ?_ ?_
  refine MemKept.upd_hat ?_
  exact MemKept.refl _
  refine MemKept.ite ?_ ?_
  refine MemKept.upd_acc ?_
  exact MemKept.refl _
  refine MemKept.ite ?_ ?_
  refine MemKept.upd_bmf ?_
  exact MemKept.refl _
  refine MemKept.ite ?_ ?_
  refine MemKept.upd_trg ?_
  refine MemKept.next ?_ Dev.trigoutsLow_frame (by decide)
  exact MemKept.refl _
  refine MemKept.ite ?_ ?_
  refine MemKept.upd_plt ?_
  refine MemKept.next ?_ Dev.pltAbort_frame (by decide)
  exact MemKept.refl _
  refine MemKept.ite ?_ ?_
  refine MemKept.upd_bur ?_
  refine MemKept.foldl ?_ ?_
  refine MemKept.next ?_ Dev.portReset_frame (by decide)
  exact MemKept.refl _
  intro _ _ _
  refine MemKept.next ?_ Dev.setCore_frame (by decide)
  assumption
  refine MemKept.ite ?_ ?_
  refine MemKept.next ?_ Dev.masters_frame (by decide)
  refine MemKept.upd_eth ?_
  exact MemKept.refl _
  exact MemKept.refl _

theorem Dev.pctlWrite_mem {d p v} : MemKept d (Dev.pctlWrite d p v) := by
  unfold Dev.pctlWrite
  refine Dev.guard_mem ?_ ?_
  exact MemKept.refl _
  intro _ _
  refine MemKept.ite ?_ ?_
  refine MemKept.next ?_ Dev.modPage_frame (by decide)
  assumption
  refine MemKept.ite ?_ ?_
  refine MemKept.trans ?_ Dev.mladefReset_mem
  refine MemKept.next ?_ Dev.modPage_frame (by decide)
  assumption
  refine MemKept.trans ?_ Dev.blockReset_mem
  refine MemKept.next ?_ Dev.pageCleared_frame (by decide)
  refine MemKept.next ?_ Dev.modPage_frame (by decide)
  assumption

/-! ### Regs -/

theorem Dev.hostBar0_mem {d0 d p o write f4}
    (h : MemKept d0 d) (hf : ∀ e, MemKept d0 e → MemKept d0 (f4 e)) : MemKept d0 (Dev.hostBar0 d p o write f4) := by
  unfold Dev.hostBar0
  refine MemKept.ite ?_ ?_
  assumption
  refine MemKept.ite ?_ ?_
  refine MemKept.next ?_ Dev.emit_frame (by decide)
  assumption
  refine MemKept.ite ?_ ?_
  refine MemKept.next ?_ Dev.emit_frame (by decide)
  assumption
  refine MemKept.ite ?_ ?_
  refine MemKept.next ?_ Dev.emit_frame (by decide)
  assumption
  refine hf _ ?_
  assumption

theorem Dev.hostWr_mem {d0 d p o f3}
    (h : MemKept d0 d) (hf : ∀ e, MemKept d0 e → MemKept d0 (f3 e)) : MemKept d0 (Dev.hostWr d p o f3) := by
  unfold Dev.hostWr
  refine Dev.hostBar0_mem ?_ ?_
  assumption
  intro _ _
  refine MemKept.next ?_ Dev.settle_frame (by decide)
  refine MemKept.ite ?_ ?_
  refine MemKept.next ?_ Dev.reject_frame (by decide)
  assumption
  refine hf _ ?_
  assumption

theorem Dev.headerWrite_mem {d p o v} : MemKept d (Dev.headerWrite d p o v) := by
  unfold Dev.headerWrite
  split
  refine MemKept.trans ?_ Dev.pctlWrite_mem
  exact MemKept.refl _
  refine MemKept.next ?_ Dev.perrclr_frame (by decide)
  exact MemKept.refl _
  refine MemKept.next ?_ Dev.pirqClear_frame (by decide)
  exact MemKept.refl _
  refine MemKept.next ?_ Dev.pirqenWrite_frame (by decide)
  exact MemKept.refl _
  refine MemKept.next ?_ Dev.pirqsetWrite_frame (by decide)
  exact MemKept.refl _
  refine MemKept.trans ?_ Dev.pcommit_mem
  exact MemKept.refl _
  refine MemKept.next ?_ Dev.reject_frame (by decide)
  exact MemKept.refl _

theorem Dev.fieldWrite_mem {d0 d p o m errs v f6}
    (h : MemKept d0 d) (hf : ∀ e, MemKept d0 e → MemKept d0 (f6 e)) : MemKept d0 (Dev.fieldWrite d p o m errs v f6) := by
  unfold Dev.fieldWrite
  refine Dev.guard_mem ?_ ?_
  assumption
  intro _ _
  refine hf _ ?_
  assumption

theorem Dev.aonWrite_mem {d o v} : MemKept d (Dev.aonWrite d o v) := by
  unfold Dev.aonWrite
  split
  refine MemKept.next ?_ Dev.imgCtl_frame (by decide)
  exact MemKept.refl _
  refine MemKept.next ?_ Dev.imgLen_frame (by decide)
  exact MemKept.refl _
  refine MemKept.next ?_ Dev.imgData_frame (by decide)
  exact MemKept.refl _
  refine MemKept.trans ?_ Dev.wdogWrite_mem
  exact MemKept.refl _
  refine MemKept.next ?_ Dev.estopWrite_frame (by decide)
  exact MemKept.refl _
  refine MemKept.next ?_ Dev.snapctlWrite_frame (by decide)
  exact MemKept.refl _
  refine MemKept.next ?_ Dev.reject_frame (by decide)
  exact MemKept.refl _

theorem Dev.pwrWrite_mem {d o v} : MemKept d (Dev.pwrWrite d o v) := by
  unfold Dev.pwrWrite
  split
  refine MemKept.trans ?_ Dev.shedreqWrite_mem
  exact MemKept.refl _
  refine MemKept.next ?_ Dev.plainWrite_frame (by decide)
  exact MemKept.refl _
  refine MemKept.next ?_ Dev.thrWrite_frame (by decide)
  exact MemKept.refl _
  refine MemKept.next ?_ Dev.thrWrite_frame (by decide)
  exact MemKept.refl _
  refine MemKept.next ?_ Dev.plainWrite_frame (by decide)
  exact MemKept.refl _
  refine MemKept.next ?_ Dev.reject_frame (by decide)
  exact MemKept.refl _

theorem Dev.mspWrite_mem {d o v} : MemKept d (Dev.mspWrite d o v) := by
  unfold Dev.mspWrite
  refine MemKept.ite ?_ ?_
  refine MemKept.trans ?_ Dev.mspRegWrite_mem
  exact MemKept.refl _
  refine MemKept.ite ?_ ?_
  refine MemKept.next ?_ Dev.mspShadowWrite_frame (by decide)
  exact MemKept.refl _
  refine MemKept.ite ?_ ?_
  refine MemKept.next ?_ Dev.monwordWrite_frame (by decide)
  exact MemKept.refl _
  refine MemKept.next ?_ Dev.reject_frame (by decide)
  exact MemKept.refl _

theorem Dev.chCmdWrite_mem {d k n v} : MemKept d (Dev.chCmdWrite d k n v) := by
  unfold Dev.chCmdWrite
  refine MemKept.ite ?_ ?_
  refine MemKept.next ?_ Dev.reject_frame (by decide)
  exact MemKept.refl _
  refine MemKept.ite ?_ ?_
  refine MemKept.next ?_ Dev.dmaStart_frame (by decide)
  exact MemKept.refl _
  refine MemKept.ite ?_ ?_
  refine MemKept.next ?_ Dev.dmaResume_frame (by decide)
  exact MemKept.refl _
  refine MemKept.trans ?_ Dev.dmaAbort_mem
  exact MemKept.refl _

theorem Dev.dmaWrite_mem {d k o v} : MemKept d (Dev.dmaWrite d k o v) := by
  unfold Dev.dmaWrite
  refine MemKept.ite ?_ ?_
  refine MemKept.next ?_ Dev.reject_frame (by decide)
  exact MemKept.refl _
  refine MemKept.ite ?_ ?_
  refine MemKept.trans ?_ Dev.chCmdWrite_mem
  exact MemKept.refl _
  refine MemKept.ite ?_ ?_
  refine MemKept.next ?_ Dev.chRegWrite_frame (by decide)
  exact MemKept.refl _
  refine MemKept.next ?_ Dev.reject_frame (by decide)
  exact MemKept.refl _

theorem Dev.memcWrite_mem {d o v} : MemKept d (Dev.memcWrite d o v) := by
  unfold Dev.memcWrite
  split
  refine MemKept.next ?_ Dev.frzForce_frame (by decide)
  exact MemKept.refl _
  refine MemKept.next ?_ Dev.plainWrite_frame (by decide)
  exact MemKept.refl _
  refine MemKept.next ?_ Dev.plainWrite_frame (by decide)
  exact MemKept.refl _
  refine MemKept.next ?_ Dev.plainWrite_frame (by decide)
  exact MemKept.refl _
  refine MemKept.trans ?_ Dev.exclAddWrite_mem
  exact MemKept.refl _
  refine MemKept.next ?_ Dev.injWrite_frame (by decide)
  exact MemKept.refl _
  refine MemKept.next ?_ Dev.reject_frame (by decide)
  exact MemKept.refl _

theorem Dev.hatWrite_mem {d o v} : MemKept d (Dev.hatWrite d o v) := by
  unfold Dev.hatWrite
  refine MemKept.ite ?_ ?_
  refine MemKept.trans ?_ Dev.qmaskWrite_mem
  exact MemKept.refl _
  refine MemKept.ite ?_ ?_
  refine Dev.fieldWrite_mem ?_ ?_
  exact MemKept.refl _
  intro _ _
  refine MemKept.upd_hat ?_
  assumption
  refine MemKept.ite ?_ ?_
  refine Dev.fieldWrite_mem ?_ ?_
  exact MemKept.refl _
  intro _ _
  refine MemKept.upd_hat ?_
  assumption
  refine MemKept.next ?_ Dev.reject_frame (by decide)
  exact MemKept.refl _

theorem Dev.burWrite_mem {d k o v} : MemKept d (Dev.burWrite d k o v) := by
  unfold Dev.burWrite
  refine MemKept.ite ?_ ?_
  split
  refine MemKept.trans ?_ Dev.cctlWrite_mem
  exact MemKept.refl _
  refine MemKept.next ?_ Dev.coreRegWrite_frame (by decide)
  exact MemKept.refl _
  refine MemKept.next ?_ Dev.coreRegWrite_frame (by decide)
  exact MemKept.refl _
  refine MemKept.next ?_ Dev.coreRegWrite_frame (by decide)
  exact MemKept.refl _
  refine MemKept.next ?_ Dev.mbxinWrite_frame (by decide)
  exact MemKept.refl _
  refine MemKept.next ?_ Dev.reject_frame (by decide)
  exact MemKept.refl _
  refine MemKept.ite ?_ ?_
  refine MemKept.next ?_ Dev.paramWrite_frame (by decide)
  exact MemKept.refl _
  refine MemKept.next ?_ Dev.reject_frame (by decide)
  exact MemKept.refl _

theorem Dev.regWrite_mem {d p o v} : MemKept d (Dev.regWrite d p o v) := by
  unfold Dev.regWrite
  refine MemKept.ite ?_ ?_
  refine MemKept.trans ?_ Dev.headerWrite_mem
  exact MemKept.refl _
  refine MemKept.ite ?_ ?_
  refine MemKept.next ?_ Dev.reject_frame (by decide)
  exact MemKept.refl _
  refine MemKept.ite ?_ ?_
  refine MemKept.trans ?_ Dev.sysWrite_mem
  exact MemKept.refl _
  refine MemKept.ite ?_ ?_
  refine MemKept.trans ?_ Dev.aonWrite_mem
  exact MemKept.refl _
  refine MemKept.ite ?_ ?_
  refine MemKept.trans ?_ Dev.pwrWrite_mem
  exact MemKept.refl _
  refine MemKept.ite ?_ ?_
  refine MemKept.next ?_ Dev.pairWrite_frame (by decide)
  exact MemKept.refl _
  refine MemKept.ite ?_ ?_
  refine MemKept.next ?_ Dev.clkWrite_frame (by decide)
  exact MemKept.refl _
  refine MemKept.ite ?_ ?_
  refine MemKept.next ?_ Dev.timeWrite_frame (by decide)
  exact MemKept.refl _
  refine MemKept.ite ?_ ?_
  refine MemKept.trans ?_ Dev.mspWrite_mem
  exact MemKept.refl _
  refine MemKept.ite ?_ ?_
  refine MemKept.next ?_ Dev.hifWrite_frame (by decide)
  exact MemKept.refl _
  refine MemKept.ite ?_ ?_
  refine MemKept.next ?_ Dev.mmuWrite_frame (by decide)
  exact MemKept.refl _
  refine MemKept.ite ?_ ?_
  refine MemKept.trans ?_ Dev.dmaWrite_mem
  exact MemKept.refl _
  refine MemKept.ite ?_ ?_
  refine MemKept.next ?_ Dev.fabWrite_frame (by decide)
  exact MemKept.refl _
  refine MemKept.ite ?_ ?_
  refine MemKept.trans ?_ Dev.memcWrite_mem
  exact MemKept.refl _
  refine MemKept.ite ?_ ?_
  refine MemKept.next ?_ Dev.lnbWrite_frame (by decide)
  exact MemKept.refl _
  refine MemKept.ite ?_ ?_
  refine MemKept.next ?_ Dev.ingWrite_frame (by decide)
  exact MemKept.refl _
  refine MemKept.ite ?_ ?_
  refine MemKept.next ?_ Dev.dklWrite_frame (by decide)
  exact MemKept.refl _
  refine MemKept.ite ?_ ?_
  refine MemKept.trans ?_ Dev.hatWrite_mem
  exact MemKept.refl _
  refine MemKept.ite ?_ ?_
  refine MemKept.ite ?_ ?_
  refine MemKept.next ?_ Dev.accRelease_frame (by decide)
  exact MemKept.refl _
  refine MemKept.next ?_ Dev.reject_frame (by decide)
  exact MemKept.refl _
  refine MemKept.ite ?_ ?_
  refine MemKept.next ?_ Dev.bmfWrite_frame (by decide)
  exact MemKept.refl _
  refine MemKept.ite ?_ ?_
  refine MemKept.next ?_ Dev.trgWrite_frame (by decide)
  exact MemKept.refl _
  refine MemKept.ite ?_ ?_
  refine MemKept.next ?_ Dev.pltWrite_frame (by decide)
  exact MemKept.refl _
  refine MemKept.ite ?_ ?_
  refine MemKept.trans ?_ Dev.burWrite_mem
  exact MemKept.refl _
  refine MemKept.ite ?_ ?_
  refine MemKept.next ?_ Dev.ethWrite_frame (by decide)
  exact MemKept.refl _
  refine MemKept.next ?_ Dev.reject_frame (by decide)
  exact MemKept.refl _

theorem Dev.registerWrite_mem {d p o v} : MemKept d (Dev.registerWrite d p o v) := by
  unfold Dev.registerWrite
  refine MemKept.ite ?_ ?_
  refine Dev.hostWr_mem ?_ ?_
  exact MemKept.refl _
  intro _ _
  refine MemKept.trans ?_ Dev.regWrite_mem
  assumption
  refine MemKept.next ?_ Dev.misaligned_frame (by decide)
  exact MemKept.refl _

theorem Dev.hostPop_mem {d0 d p o f3}
    (h : MemKept d0 d) (hf : ∀ e, MemKept d0 e → MemKept d0 (f3 e)) : MemKept d0 (Dev.hostPop d p o f3) := by
  unfold Dev.hostPop
  refine Dev.hostBar0_mem ?_ ?_
  assumption
  intro _ _
  refine MemKept.ite ?_ ?_
  refine hf _ ?_
  assumption
  refine MemKept.next ?_ Dev.emit_frame (by decide)
  assumption

/-! ### CmdBase -/

theorem Dev.onPage_mem {d0 d p f2}
    (h : MemKept d0 d) (hf : ∀ e, MemKept d0 e → MemKept d0 (f2 e)) : MemKept d0 (Dev.onPage d p f2) := by
  unfold Dev.onPage
  refine MemKept.ite ?_ ?_
  refine hf _ ?_
  assumption
  assumption

theorem Dev.hostBar2_mem {d0 d o n f3}
    (h : MemKept d0 d) (hf : ∀ e, MemKept d0 e → MemKept d0 (f3 e)) : MemKept d0 (Dev.hostBar2 d o n f3) := by
  unfold Dev.hostBar2
  refine MemKept.ite ?_ ?_
  assumption
  refine MemKept.ite ?_ ?_
  refine MemKept.next ?_ Dev.emit_frame (by decide)
  assumption
  refine MemKept.ite ?_ ?_
  refine MemKept.next ?_ Dev.writeLost_frame (by decide)
  assumption
  refine hf _ ?_
  refine MemKept.next ?_ Dev.fabAccept_frame (by decide)
  assumption

/-! ### CmdBeam -/

theorem execLogEntryWrite_mem {s t} (h : (execLogEntryWrite s) = .next t) : MemKept s.dev t.dev := by
  unfold execLogEntryWrite at h
  refine State.kept_run h ?_
  refine Dev.onPage_mem ?_ ?_
  exact MemKept.refl _
  intro _ _
  refine MemKept.trans ?_ Dev.logEntryWrite_mem
  assumption

theorem execBuildDone_mem {s t} (h : (execBuildDone s) = .next t) : MemKept s.dev t.dev := by
  unfold execBuildDone at h
  refine State.kept_settled h ?_
  refine MemKept.next ?_ Dev.settle_frame (by decide)
  refine Dev.onPage_mem ?_ ?_
  exact MemKept.refl _
  intro _ _
  refine MemKept.trans ?_ Dev.buildDone_mem
  assumption

theorem execPlateSlotWrite_mem {slot off l s t}
    (h : (execPlateSlotWrite slot off l s) = .next t) : MemKept s.dev t.dev := by
  unfold execPlateSlotWrite at h
  refine State.kept_settled h ?_
  refine MemKept.next ?_ Dev.settle_frame (by decide)
  refine Dev.hostBar2_mem ?_ ?_
  exact MemKept.refl _
  intro _ _
  refine MemKept.ite ?_ ?_
  refine MemKept.trans ?_ Dev.slotWrite_mem
  assumption
  refine MemKept.next ?_ Dev.fabWait_frame (by decide)
  assumption

/-! ### CmdBoot -/

theorem execMladefIslandReset_mem {wdog s t} (h : (execMladefIslandReset wdog s) = .next t) : MemKept s.dev t.dev := by
  unfold execMladefIslandReset at h
  refine State.kept_settled h ?_
  refine MemKept.next ?_ Dev.settle_frame (by decide)
  refine MemKept.ite ?_ ?_
  refine MemKept.ite ?_ ?_
  exact MemKept.refl _
  refine MemKept.trans ?_ Dev.watchdogExpire_mem
  exact MemKept.refl _
  refine Dev.hostWr_mem ?_ ?_
  exact MemKept.refl _
  intro _ _
  refine MemKept.trans ?_ Dev.pctlWrite_mem
  assumption

theorem execWatchdogExpire_mem {s t} (h : (execWatchdogExpire s) = .next t) : MemKept s.dev t.dev := by
  unfold execWatchdogExpire at h
  refine State.kept_settled h ?_
  refine MemKept.next ?_ Dev.settle_frame (by decide)
  refine MemKept.trans ?_ Dev.watchdogExpire_mem
  exact MemKept.refl _

theorem execWdogFire_mem {s t} (h : (execWdogFire s) = .next t) : MemKept s.dev t.dev := by
  unfold execWdogFire at h
  refine State.kept_run h ?_
  refine Dev.hostWr_mem ?_ ?_
  exact MemKept.refl _
  intro _ _
  refine MemKept.trans ?_ Dev.wdogWrite_mem
  assumption

theorem execPowerOnReset_mem {s t} (h : (execPowerOnReset s) = .next t) : MemKept s.dev t.dev := by
  unfold execPowerOnReset at h
  refine State.kept_run h ?_
  refine MemKept.trans ?_ Dev.powerOnReset_mem
  exact MemKept.refl _

theorem execLinkReset_mem {perst s t} (h : (execLinkReset perst s) = .next t) : MemKept s.dev t.dev := by
  unfold execLinkReset at h
  refine State.kept_settled h ?_
  refine MemKept.next ?_ Dev.settle_frame (by decide)
  refine MemKept.trans ?_ Dev.linkReset_mem
  exact MemKept.refl _

theorem execAonWdreset_mem {i3c confirm s t} (h : (execAonWdreset i3c confirm s) = .next t) : MemKept s.dev t.dev := by
  unfold execAonWdreset at h
  refine State.kept_settled h ?_
  refine MemKept.next ?_ Dev.settle_frame (by decide)
  refine MemKept.trans ?_ Dev.aonDo_mem
  exact MemKept.refl _

theorem execAonSetshed_mem {i3c level s t} (h : (execAonSetshed i3c level s) = .next t) : MemKept s.dev t.dev := by
  unfold execAonSetshed at h
  refine State.kept_settled h ?_
  refine MemKept.next ?_ Dev.settle_frame (by decide)
  refine MemKept.trans ?_ Dev.aonDo_mem
  exact MemKept.refl _

theorem execI3cPrivateWrite_mem {idx v s t} (h : (execI3cPrivateWrite idx v s) = .next t) : MemKept s.dev t.dev := by
  unfold execI3cPrivateWrite at h
  refine State.kept_settled h ?_
  refine MemKept.next ?_ Dev.settle_frame (by decide)
  refine MemKept.trans ?_ Dev.i3cWrite_mem
  exact MemKept.refl _

theorem execMemoryTrainingDone_mem {failed bad quires lanes sram s t}
    (h : (execMemoryTrainingDone failed bad quires lanes sram s) = .next t) : MemKept s.dev t.dev := by
  unfold execMemoryTrainingDone at h
  refine State.kept_settled h ?_
  refine MemKept.next ?_ Dev.settle_frame (by decide)
  refine MemKept.trans ?_ Dev.memoryTrainingDone_mem
  exact MemKept.refl _

/-! ### CmdBur -/

theorem execCmtGo_mem {core num s t} (h : (execCmtGo core num s) = .next t) : MemKept s.dev t.dev := by
  unfold execCmtGo at h
  refine State.kept_run h ?_
  refine Dev.onPage_mem ?_ ?_
  exact MemKept.refl _
  intro _ _
  refine MemKept.trans ?_ Dev.cmtGo_mem
  assumption

theorem execXfDone_mem {core s t} (h : (execXfDone core s) = .next t) : MemKept s.dev t.dev := by
  unfold execXfDone at h
  refine State.kept_settled h ?_
  refine MemKept.next ?_ Dev.settle_frame (by decide)
  refine Dev.onPage_mem ?_ ?_
  exact MemKept.refl _
  intro _ _
  refine MemKept.trans ?_ Dev.xfDone_mem
  assumption

theorem execCctlHalt_mem {core halt s t} (h : (execCctlHalt core halt s) = .next t) : MemKept s.dev t.dev := by
  unfold execCctlHalt at h
  refine State.kept_run h ?_
  refine Dev.hostWr_mem ?_ ?_
  exact MemKept.refl _
  intro _ _
  refine MemKept.trans ?_ Dev.cctlWrite_mem
  assumption

theorem execCctlStep_mem {core s t} (h : (execCctlStep core s) = .next t) : MemKept s.dev t.dev := by
  unfold execCctlStep at h
  refine State.kept_run h ?_
  refine Dev.hostWr_mem ?_ ?_
  exact MemKept.refl _
  intro _ _
  refine MemKept.trans ?_ Dev.cctlWrite_mem
  assumption

theorem execCctlCreset_mem {core s t} (h : (execCctlCreset core s) = .next t) : MemKept s.dev t.dev := by
  unfold execCctlCreset at h
  refine State.kept_run h ?_
  refine Dev.hostWr_mem ?_ ?_
  exact MemKept.refl _
  intro _ _
  refine MemKept.trans ?_ Dev.cctlWrite_mem
  assumption

/-! ### CmdDkl -/

theorem execPageSlotAssign_mem {sfn input group s t}
    (h : (execPageSlotAssign sfn input group s) = .next t) : MemKept s.dev t.dev := by
  unfold execPageSlotAssign at h
  refine State.kept_run h ?_
  refine Dev.onPage_mem ?_ ?_
  exact MemKept.refl _
  intro _ _
  refine MemKept.trans ?_ Dev.streamDue_mem
  refine MemKept.next ?_ Dev.pageSlotAssign_frame (by decide)
  assumption

theorem execCornerTurnStage_mem {upto poison ces s t}
    (h : (execCornerTurnStage upto poison ces s) = .next t) : MemKept s.dev t.dev := by
  unfold execCornerTurnStage at h
  refine State.kept_run h ?_
  refine Dev.onPage_mem ?_ ?_
  exact MemKept.refl _
  intro _ _
  refine MemKept.foldl ?_ ?_
  refine MemKept.next ?_ Dev.cornerTurnStage_frame (by decide)
  assumption
  intro _ _ _
  refine MemKept.trans ?_ Dev.corrected_mem
  assumption

theorem execCaptureRecordWrite_mem {id s t} (h : (execCaptureRecordWrite id s) = .next t) : MemKept s.dev t.dev := by
  unfold execCaptureRecordWrite at h
  refine State.kept_run h ?_
  refine Dev.onPage_mem ?_ ?_
  exact MemKept.refl _
  intro _ _
  refine MemKept.trans ?_ Dev.captureRecordWrite_mem
  assumption

theorem execPassRun_mem {bad s t} (h : (execPassRun bad s) = .next t) : MemKept s.dev t.dev := by
  unfold execPassRun at h
  refine State.kept_run h ?_
  refine Dev.onPage_mem ?_ ?_
  exact MemKept.refl _
  intro _ _
  refine MemKept.trans ?_ Dev.passRun_mem
  assumption

theorem execQmaskSet_mem {k v s t} (h : (execQmaskSet k v s) = .next t) : MemKept s.dev t.dev := by
  unfold execQmaskSet at h
  refine State.kept_run h ?_
  refine Dev.hostWr_mem ?_ ?_
  exact MemKept.refl _
  intro _ _
  refine MemKept.trans ?_ Dev.qmaskWrite_mem
  assumption

theorem execChannelAdd_mem {poison s t} (h : (execChannelAdd poison s) = .next t) : MemKept s.dev t.dev := by
  unfold execChannelAdd at h
  refine State.kept_run h ?_
  refine Dev.onPage_mem ?_ ?_
  exact MemKept.refl _
  intro _ _
  refine MemKept.trans ?_ Dev.channelAdd_mem
  assumption

theorem execAddWindowExpire_mem {done s t} (h : (execAddWindowExpire done s) = .next t) : MemKept s.dev t.dev := by
  unfold execAddWindowExpire at h
  refine State.kept_run h ?_
  refine Dev.onPage_mem ?_ ?_
  exact MemKept.refl _
  intro _ _
  refine MemKept.trans ?_ Dev.addWindowExpire_mem
  assumption

theorem execRecordFinished_mem {s t} (h : (execRecordFinished s) = .next t) : MemKept s.dev t.dev := by
  unfold execRecordFinished at h
  refine State.kept_settled h ?_
  refine MemKept.next ?_ Dev.settle_frame (by decide)
  refine Dev.onPage_mem ?_ ?_
  exact MemKept.refl _
  intro _ _
  refine MemKept.trans ?_ Dev.recordFinished_mem
  assumption

/-! ### CmdHost -/

theorem execDmaAbort_mem {k n s t} (h : (execDmaAbort k n s) = .next t) : MemKept s.dev t.dev := by
  unfold execDmaAbort at h
  refine State.kept_run h ?_
  refine Dev.hostWr_mem ?_ ?_
  exact MemKept.refl _
  intro _ _
  refine MemKept.trans ?_ Dev.dmaAbort_mem
  assumption

theorem execDescCopy_mem {k len host pois s t}
    (h : (execDescCopy k len host pois s) = .next t) : MemKept s.dev t.dev := by
  unfold execDescCopy at h
  refine State.kept_settled h ?_
  refine MemKept.next ?_ Dev.settle_frame (by decide)
  refine Dev.onPage_mem ?_ ?_
  exact MemKept.refl _
  intro _ _
  refine MemKept.trans ?_ Dev.descStep_mem
  assumption

theorem execDescFill_mem {k len host pois s t}
    (h : (execDescFill k len host pois s) = .next t) : MemKept s.dev t.dev := by
  unfold execDescFill at h
  refine State.kept_settled h ?_
  refine MemKept.next ?_ Dev.settle_frame (by decide)
  refine Dev.onPage_mem ?_ ?_
  exact MemKept.refl _
  intro _ _
  refine MemKept.trans ?_ Dev.descStep_mem
  assumption

theorem execDescCompare_mem {k len host pois s t}
    (h : (execDescCompare k len host pois s) = .next t) : MemKept s.dev t.dev := by
  unfold execDescCompare at h
  refine State.kept_settled h ?_
  refine MemKept.next ?_ Dev.settle_frame (by decide)
  refine Dev.onPage_mem ?_ ?_
  exact MemKept.refl _
  intro _ _
  refine MemKept.trans ?_ Dev.descStep_mem
  assumption

theorem execReadbackDone_mem {k s t} (h : (execReadbackDone k s) = .next t) : MemKept s.dev t.dev := by
  unfold execReadbackDone at h
  refine State.kept_settled h ?_
  refine MemKept.next ?_ Dev.settle_frame (by decide)
  refine Dev.onPage_mem ?_ ?_
  exact MemKept.refl _
  intro _ _
  refine MemKept.trans ?_ Dev.readbackDone_mem
  assumption

theorem execChainPreempt_mem {k host pois s t}
    (h : (execChainPreempt k host pois s) = .next t) : MemKept s.dev t.dev := by
  unfold execChainPreempt at h
  refine State.kept_settled h ?_
  refine MemKept.next ?_ Dev.settle_frame (by decide)
  refine Dev.onPage_mem ?_ ?_
  exact MemKept.refl _
  intro _ _
  refine MemKept.trans ?_ Dev.chainPreempt_mem
  assumption

theorem execHostInboundRead_mem {a len ce ue s t}
    (h : (execHostInboundRead a len ce ue s) = .next t) : MemKept s.dev t.dev := by
  unfold execHostInboundRead at h
  refine State.kept_settled h ?_
  refine MemKept.next ?_ Dev.settle_frame (by decide)
  refine MemKept.trans ?_ Dev.hostRead_mem
  exact MemKept.refl _

theorem execHostInboundWrite_mem {a l ep s t}
    (h : (execHostInboundWrite a l ep s) = .next t) : MemKept s.dev t.dev := by
  unfold execHostInboundWrite at h
  refine State.kept_settled h ?_
  refine MemKept.next ?_ Dev.settle_frame (by decide)
  refine MemKept.trans ?_ Dev.hostWrite_mem
  exact MemKept.refl _

theorem execAtomicAdd_mem {a wide v s t} (h : (execAtomicAdd a wide v s) = .next t) : MemKept s.dev t.dev := by
  unfold execAtomicAdd at h
  refine State.kept_settled h ?_
  refine MemKept.next ?_ Dev.settle_frame (by decide)
  refine Dev.onPage_mem ?_ ?_
  exact MemKept.refl _
  intro _ _
  refine MemKept.trans ?_ Dev.atomicAdd_mem
  assumption

theorem execAtomicSwap_mem {a wide v s t} (h : (execAtomicSwap a wide v s) = .next t) : MemKept s.dev t.dev := by
  unfold execAtomicSwap at h
  refine State.kept_settled h ?_
  refine MemKept.next ?_ Dev.settle_frame (by decide)
  refine Dev.onPage_mem ?_ ?_
  exact MemKept.refl _
  intro _ _
  refine MemKept.trans ?_ Dev.atomicSwap_mem
  assumption

theorem execFabricTimeout_mem {master s t} (h : (execFabricTimeout master s) = .next t) : MemKept s.dev t.dev := by
  unfold execFabricTimeout at h
  refine State.kept_settled h ?_
  refine MemKept.next ?_ Dev.settle_frame (by decide)
  refine Dev.onPage_mem ?_ ?_
  exact MemKept.refl _
  intro _ _
  refine MemKept.trans ?_ Dev.fabricTimeout_mem
  assumption

theorem execPcieCompletionTimeout_mem {k n s t}
    (h : (execPcieCompletionTimeout k n s) = .next t) : MemKept s.dev t.dev := by
  unfold execPcieCompletionTimeout at h
  refine State.kept_settled h ?_
  refine MemKept.next ?_ Dev.settle_frame (by decide)
  refine Dev.onPage_mem ?_ ?_
  exact MemKept.refl _
  intro _ _
  refine MemKept.trans ?_ Dev.pcieTimeout_mem
  assumption

/-! ### CmdIng -/

theorem execSampleFrameRx_mem {lane fr s t} (h : (execSampleFrameRx lane fr s) = .next t) : MemKept s.dev t.dev := by
  unfold execSampleFrameRx at h
  refine State.kept_run h ?_
  refine Dev.onPage_mem ?_ ?_
  exact MemKept.refl _
  intro _ _
  refine MemKept.trans ?_ Dev.sampleFrame_mem
  assumption

theorem execFrameSetClose_mem {group sfn overrun lat s t}
    (h : (execFrameSetClose group sfn overrun lat s) = .next t) : MemKept s.dev t.dev := by
  unfold execFrameSetClose at h
  refine State.kept_run h ?_
  refine Dev.onPage_mem ?_ ?_
  exact MemKept.refl _
  intro _ _
  refine MemKept.trans ?_ Dev.frameSetClose_mem
  assumption

theorem execSheetComplete_mem {s t} (h : (execSheetComplete s) = .next t) : MemKept s.dev t.dev := by
  unfold execSheetComplete at h
  refine State.kept_run h ?_
  refine Dev.onPage_mem ?_ ?_
  exact MemKept.refl _
  intro _ _
  refine MemKept.trans ?_ Dev.sheetComplete_mem
  assumption

/-! ### CmdMem -/

theorem execThawCheckDone_mem {recur addr syn still s t}
    (h : (execThawCheckDone recur addr syn still s) = .next t) : MemKept s.dev t.dev := by
  unfold execThawCheckDone at h
  refine State.kept_settled h ?_
  refine MemKept.next ?_ Dev.settle_frame (by decide)
  refine Dev.onPage_mem ?_ ?_
  exact MemKept.refl _
  intro _ _
  refine MemKept.trans ?_ Dev.thawDone_mem
  assumption

theorem execPatrolScrub_mem {found s t} (h : (execPatrolScrub found s) = .next t) : MemKept s.dev t.dev := by
  unfold execPatrolScrub at h
  refine State.kept_settled h ?_
  refine MemKept.next ?_ Dev.settle_frame (by decide)
  refine Dev.onPage_mem ?_ ?_
  exact MemKept.refl _
  intro _ _
  refine MemKept.trans ?_ Dev.patrolScrub_mem
  assumption

theorem execRetrainDone_mem {failed s t} (h : (execRetrainDone failed s) = .next t) : MemKept s.dev t.dev := by
  unfold execRetrainDone at h
  refine State.kept_settled h ?_
  refine MemKept.next ?_ Dev.settle_frame (by decide)
  refine Dev.onPage_mem ?_ ?_
  exact MemKept.refl _
  intro _ _
  refine MemKept.trans ?_ Dev.retrainDone_mem
  assumption

theorem execExcladd_mem {v s t} (h : (execExcladd v s) = .next t) : MemKept s.dev t.dev := by
  unfold execExcladd at h
  refine State.kept_run h ?_
  refine Dev.hostWr_mem ?_ ?_
  exact MemKept.refl _
  intro _ _
  refine MemKept.trans ?_ Dev.exclAddWrite_mem
  assumption

theorem execSelftestDone_mem {quires bad lanes s t}
    (h : (execSelftestDone quires bad lanes s) = .next t) : MemKept s.dev t.dev := by
  unfold execSelftestDone at h
  refine State.kept_settled h ?_
  refine MemKept.next ?_ Dev.settle_frame (by decide)
  refine MemKept.trans ?_ Dev.selftestDone_mem
  exact MemKept.refl _

/-! ### CmdOp -/

theorem execMpyOp_mem {core ac da db l s t} (h : (execMpyOp core ac da db l s) = .next t) : MemKept s.dev t.dev := by
  unfold execMpyOp at h
  refine State.kept_settled h ?_
  refine MemKept.next ?_ Dev.settle_frame (by decide)
  refine Dev.onPage_mem ?_ ?_
  exact MemKept.refl _
  intro _ _
  refine MemKept.trans ?_ Dev.burExec_mem
  assumption

theorem execMacOp_mem {core ac neg da db l s t}
    (h : (execMacOp core ac neg da db l s) = .next t) : MemKept s.dev t.dev := by
  unfold execMacOp at h
  refine State.kept_settled h ?_
  refine MemKept.next ?_ Dev.settle_frame (by decide)
  refine Dev.onPage_mem ?_ ?_
  exact MemKept.refl _
  intro _ _
  refine MemKept.trans ?_ Dev.burExec_mem
  assumption

theorem execLdOp_mem {core dd ai pm ofs s t} (h : (execLdOp core dd ai pm ofs s) = .next t) : MemKept s.dev t.dev := by
  unfold execLdOp at h
  refine State.kept_settled h ?_
  refine MemKept.next ?_ Dev.settle_frame (by decide)
  refine Dev.onPage_mem ?_ ?_
  exact MemKept.refl _
  intro _ _
  refine MemKept.trans ?_ Dev.burExec_mem
  assumption

theorem execStOp_mem {core dd ai pm ofs s t} (h : (execStOp core dd ai pm ofs s) = .next t) : MemKept s.dev t.dev := by
  unfold execStOp at h
  refine State.kept_settled h ?_
  refine MemKept.next ?_ Dev.settle_frame (by decide)
  refine Dev.onPage_mem ?_ ?_
  exact MemKept.refl _
  intro _ _
  refine MemKept.trans ?_ Dev.burExec_mem
  assumption

/-! ### CmdPair -/

theorem execTicketRx_mem {lane fr s t} (h : (execTicketRx lane fr s) = .next t) : MemKept s.dev t.dev := by
  unfold execTicketRx at h
  refine State.kept_settled h ?_
  refine MemKept.next ?_ Dev.settle_frame (by decide)
  refine Dev.onPage_mem ?_ ?_
  exact MemKept.refl _
  intro _ _
  refine MemKept.trans ?_ Dev.ticketRx_mem
  assumption

theorem execThreshRx_mem {lane fr s t} (h : (execThreshRx lane fr s) = .next t) : MemKept s.dev t.dev := by
  unfold execThreshRx at h
  refine State.kept_settled h ?_
  refine MemKept.next ?_ Dev.settle_frame (by decide)
  refine Dev.onPage_mem ?_ ?_
  exact MemKept.refl _
  intro _ _
  refine MemKept.trans ?_ Dev.threshRx_mem
  assumption

/-! ### CmdPwr -/

theorem execSupplySample_mem {rail mv power s t}
    (h : (execSupplySample rail mv power s) = .next t) : MemKept s.dev t.dev := by
  unfold execSupplySample at h
  refine State.kept_settled h ?_
  refine MemKept.next ?_ Dev.settle_frame (by decide)
  refine MemKept.trans ?_ Dev.supplySample_mem
  exact MemKept.refl _

theorem execSupplyReset_mem {rail s t} (h : (execSupplyReset rail s) = .next t) : MemKept s.dev t.dev := by
  unfold execSupplyReset at h
  refine State.kept_settled h ?_
  refine MemKept.next ?_ Dev.settle_frame (by decide)
  refine MemKept.trans ?_ Dev.supplyReset_mem
  exact MemKept.refl _

theorem execTempSample_mem {t sensor s s'} (h : execTempSample t sensor s = .next s') : MemKept s.dev s'.dev := by
  unfold execTempSample at h
  exact State.kept_settled h (Dev.tempSample_mem.next Dev.settle_frame (by decide))

theorem execShedreqWrite_mem {v s t} (h : (execShedreqWrite v s) = .next t) : MemKept s.dev t.dev := by
  unfold execShedreqWrite at h
  refine State.kept_run h ?_
  refine Dev.hostWr_mem ?_ ?_
  exact MemKept.refl _
  intro _ _
  refine MemKept.trans ?_ Dev.shedreqWrite_mem
  assumption

/-! ### CmdReg -/

theorem execRegisterWrite_mem {page off v s t}
    (h : (execRegisterWrite page off v s) = .next t) : MemKept s.dev t.dev := by
  unfold execRegisterWrite at h
  refine State.kept_run h ?_
  refine MemKept.trans ?_ Dev.registerWrite_mem
  exact MemKept.refl _

theorem execPcommit_mem {page num when s t} (h : (execPcommit page num when s) = .next t) : MemKept s.dev t.dev := by
  unfold execPcommit at h
  refine State.kept_run h ?_
  refine Dev.hostWr_mem ?_ ?_
  exact MemKept.refl _
  intro _ _
  refine MemKept.trans ?_ Dev.pcommit_mem
  assumption

theorem execCommitApply_mem {page s t} (h : (execCommitApply page s) = .next t) : MemKept s.dev t.dev := by
  unfold execCommitApply at h
  refine State.kept_settled h ?_
  refine MemKept.next ?_ Dev.settle_frame (by decide)
  refine Dev.onPage_mem ?_ ?_
  exact MemKept.refl _
  intro _ _
  refine MemKept.trans ?_ Dev.commitApply_mem
  assumption

theorem execPctlEnWrite_mem {page en irqOnErr s t}
    (h : (execPctlEnWrite page en irqOnErr s) = .next t) : MemKept s.dev t.dev := by
  unfold execPctlEnWrite at h
  refine State.kept_run h ?_
  refine Dev.hostWr_mem ?_ ?_
  exact MemKept.refl _
  intro _ _
  refine MemKept.trans ?_ Dev.pctlWrite_mem
  assumption

theorem execPctlSrst_mem {page s t} (h : (execPctlSrst page s) = .next t) : MemKept s.dev t.dev := by
  unfold execPctlSrst at h
  refine State.kept_run h ?_
  refine Dev.hostWr_mem ?_ ?_
  exact MemKept.refl _
  intro _ _
  refine MemKept.trans ?_ Dev.pctlWrite_mem
  assumption

/-! ### CmdTime -/

theorem execMspFrameStart_mem {n words s t} (h : (execMspFrameStart n words s) = .next t) : MemKept s.dev t.dev := by
  unfold execMspFrameStart at h
  refine State.kept_run h ?_
  refine Dev.onPage_mem ?_ ?_
  exact MemKept.refl _
  intro _ _
  refine MemKept.trans ?_ Dev.mspFrameStart_mem
  assumption

theorem execMspClkloss_mem {n s t} (h : (execMspClkloss n s) = .next t) : MemKept s.dev t.dev := by
  unfold execMspClkloss at h
  refine State.kept_run h ?_
  refine Dev.onPage_mem ?_ ?_
  exact MemKept.refl _
  intro _ _
  refine MemKept.trans ?_ Dev.mspClkloss_mem
  assumption

end Sys2Proof.Machine
end

