-- ==== Sys2Proof/Laws/State.lean ====
section
/-! SUPPORT. The fields of the state after each primitive update: one lemma per field and update, true by `rfl`, and what
a read gives after a write. -/

namespace Sys2Proof.Machine

/-! ### `Dev.setReg` -/

@[simp] theorem Dev.regs_setReg (d : Dev) (a : Nat) (v : Word) : (d.setReg a v).regs = Tab.set (regDefault a) d.regs a v := rfl
@[simp] theorem Dev.act_setReg (d : Dev) (a : Nat) (v : Word) : (d.setReg a v).act = d.act := rfl
@[simp] theorem Dev.pages_setReg (d : Dev) (a : Nat) (v : Word) : (d.setReg a v).pages = d.pages := rfl
@[simp] theorem Dev.stats_setReg (d : Dev) (a : Nat) (v : Word) : (d.setReg a v).stats = d.stats := rfl
@[simp] theorem Dev.live_setReg (d : Dev) (a : Nat) (v : Word) : (d.setReg a v).live = d.live := rfl
@[simp] theorem Dev.nextc_setReg (d : Dev) (a : Nat) (v : Word) : (d.setReg a v).nextc = d.nextc := rfl
@[simp] theorem Dev.sys_setReg (d : Dev) (a : Nat) (v : Word) : (d.setReg a v).sys = d.sys := rfl
@[simp] theorem Dev.boot_setReg (d : Dev) (a : Nat) (v : Word) : (d.setReg a v).boot = d.boot := rfl
@[simp] theorem Dev.pwr_setReg (d : Dev) (a : Nat) (v : Word) : (d.setReg a v).pwr = d.pwr := rfl
@[simp] theorem Dev.aon_setReg (d : Dev) (a : Nat) (v : Word) : (d.setReg a v).aon = d.aon := rfl
@[simp] theorem Dev.time_setReg (d : Dev) (a : Nat) (v : Word) : (d.setReg a v).time = d.time := rfl
@[simp] theorem Dev.msp_setReg (d : Dev) (a : Nat) (v : Word) : (d.setReg a v).msp = d.msp := rfl
@[simp] theorem Dev.mspSh_setReg (d : Dev) (a : Nat) (v : Word) : (d.setReg a v).mspSh = d.mspSh := rfl
@[simp] theorem Dev.monword_setReg (d : Dev) (a : Nat) (v : Word) : (d.setReg a v).monword = d.monword := rfl
@[simp] theorem Dev.eth_setReg (d : Dev) (a : Nat) (v : Word) : (d.setReg a v).eth = d.eth := rfl
@[simp] theorem Dev.clk_setReg (d : Dev) (a : Nat) (v : Word) : (d.setReg a v).clk = d.clk := rfl
@[simp] theorem Dev.lnb_setReg (d : Dev) (a : Nat) (v : Word) : (d.setReg a v).lnb = d.lnb := rfl
@[simp] theorem Dev.plt_setReg (d : Dev) (a : Nat) (v : Word) : (d.setReg a v).plt = d.plt := rfl
@[simp] theorem Dev.run_setReg (d : Dev) (a : Nat) (v : Word) : (d.setReg a v).run = d.run := rfl
@[simp] theorem Dev.ing_setReg (d : Dev) (a : Nat) (v : Word) : (d.setReg a v).ing = d.ing := rfl
@[simp] theorem Dev.dkl_setReg (d : Dev) (a : Nat) (v : Word) : (d.setReg a v).dkl = d.dkl := rfl
@[simp] theorem Dev.hat_setReg (d : Dev) (a : Nat) (v : Word) : (d.setReg a v).hat = d.hat := rfl
@[simp] theorem Dev.acc_setReg (d : Dev) (a : Nat) (v : Word) : (d.setReg a v).acc = d.acc := rfl
@[simp] theorem Dev.bmf_setReg (d : Dev) (a : Nat) (v : Word) : (d.setReg a v).bmf = d.bmf := rfl
@[simp] theorem Dev.trg_setReg (d : Dev) (a : Nat) (v : Word) : (d.setReg a v).trg = d.trg := rfl
@[simp] theorem Dev.pair_setReg (d : Dev) (a : Nat) (v : Word) : (d.setReg a v).pair = d.pair := rfl
@[simp] theorem Dev.bur_setReg (d : Dev) (a : Nat) (v : Word) : (d.setReg a v).bur = d.bur := rfl
@[simp] theorem Dev.mctl_setReg (d : Dev) (a : Nat) (v : Word) : (d.setReg a v).mctl = d.mctl := rfl
@[simp] theorem Dev.fab_setReg (d : Dev) (a : Nat) (v : Word) : (d.setReg a v).fab = d.fab := rfl
@[simp] theorem Dev.hif_setReg (d : Dev) (a : Nat) (v : Word) : (d.setReg a v).hif = d.hif := rfl
@[simp] theorem Dev.dma_setReg (d : Dev) (a : Nat) (v : Word) : (d.setReg a v).dma = d.dma := rfl
@[simp] theorem Dev.mmu_setReg (d : Dev) (a : Nat) (v : Word) : (d.setReg a v).mmu = d.mmu := rfl
@[simp] theorem Dev.mem_setReg (d : Dev) (a : Nat) (v : Word) : (d.setReg a v).mem = d.mem := rfl
@[simp] theorem Dev.free_setReg (d : Dev) (a : Nat) (v : Word) : (d.setReg a v).free = d.free := rfl

/-! ### `Dev.setAct` -/

@[simp] theorem Dev.regs_setAct (d : Dev) (a : Nat) (v : Word) : (d.setAct a v).regs = d.regs := rfl
@[simp] theorem Dev.act_setAct (d : Dev) (a : Nat) (v : Word) : (d.setAct a v).act = Tab.set (regDefault a) d.act a v := rfl
@[simp] theorem Dev.pages_setAct (d : Dev) (a : Nat) (v : Word) : (d.setAct a v).pages = d.pages := rfl
@[simp] theorem Dev.stats_setAct (d : Dev) (a : Nat) (v : Word) : (d.setAct a v).stats = d.stats := rfl
@[simp] theorem Dev.live_setAct (d : Dev) (a : Nat) (v : Word) : (d.setAct a v).live = d.live := rfl
@[simp] theorem Dev.nextc_setAct (d : Dev) (a : Nat) (v : Word) : (d.setAct a v).nextc = d.nextc := rfl
@[simp] theorem Dev.sys_setAct (d : Dev) (a : Nat) (v : Word) : (d.setAct a v).sys = d.sys := rfl
@[simp] theorem Dev.boot_setAct (d : Dev) (a : Nat) (v : Word) : (d.setAct a v).boot = d.boot := rfl
@[simp] theorem Dev.pwr_setAct (d : Dev) (a : Nat) (v : Word) : (d.setAct a v).pwr = d.pwr := rfl
@[simp] theorem Dev.aon_setAct (d : Dev) (a : Nat) (v : Word) : (d.setAct a v).aon = d.aon := rfl
@[simp] theorem Dev.time_setAct (d : Dev) (a : Nat) (v : Word) : (d.setAct a v).time = d.time := rfl
@[simp] theorem Dev.msp_setAct (d : Dev) (a : Nat) (v : Word) : (d.setAct a v).msp = d.msp := rfl
@[simp] theorem Dev.mspSh_setAct (d : Dev) (a : Nat) (v : Word) : (d.setAct a v).mspSh = d.mspSh := rfl
@[simp] theorem Dev.monword_setAct (d : Dev) (a : Nat) (v : Word) : (d.setAct a v).monword = d.monword := rfl
@[simp] theorem Dev.eth_setAct (d : Dev) (a : Nat) (v : Word) : (d.setAct a v).eth = d.eth := rfl
@[simp] theorem Dev.clk_setAct (d : Dev) (a : Nat) (v : Word) : (d.setAct a v).clk = d.clk := rfl
@[simp] theorem Dev.lnb_setAct (d : Dev) (a : Nat) (v : Word) : (d.setAct a v).lnb = d.lnb := rfl
@[simp] theorem Dev.plt_setAct (d : Dev) (a : Nat) (v : Word) : (d.setAct a v).plt = d.plt := rfl
@[simp] theorem Dev.run_setAct (d : Dev) (a : Nat) (v : Word) : (d.setAct a v).run = d.run := rfl
@[simp] theorem Dev.ing_setAct (d : Dev) (a : Nat) (v : Word) : (d.setAct a v).ing = d.ing := rfl
@[simp] theorem Dev.dkl_setAct (d : Dev) (a : Nat) (v : Word) : (d.setAct a v).dkl = d.dkl := rfl
@[simp] theorem Dev.hat_setAct (d : Dev) (a : Nat) (v : Word) : (d.setAct a v).hat = d.hat := rfl
@[simp] theorem Dev.acc_setAct (d : Dev) (a : Nat) (v : Word) : (d.setAct a v).acc = d.acc := rfl
@[simp] theorem Dev.bmf_setAct (d : Dev) (a : Nat) (v : Word) : (d.setAct a v).bmf = d.bmf := rfl
@[simp] theorem Dev.trg_setAct (d : Dev) (a : Nat) (v : Word) : (d.setAct a v).trg = d.trg := rfl
@[simp] theorem Dev.pair_setAct (d : Dev) (a : Nat) (v : Word) : (d.setAct a v).pair = d.pair := rfl
@[simp] theorem Dev.bur_setAct (d : Dev) (a : Nat) (v : Word) : (d.setAct a v).bur = d.bur := rfl
@[simp] theorem Dev.mctl_setAct (d : Dev) (a : Nat) (v : Word) : (d.setAct a v).mctl = d.mctl := rfl
@[simp] theorem Dev.fab_setAct (d : Dev) (a : Nat) (v : Word) : (d.setAct a v).fab = d.fab := rfl
@[simp] theorem Dev.hif_setAct (d : Dev) (a : Nat) (v : Word) : (d.setAct a v).hif = d.hif := rfl
@[simp] theorem Dev.dma_setAct (d : Dev) (a : Nat) (v : Word) : (d.setAct a v).dma = d.dma := rfl
@[simp] theorem Dev.mmu_setAct (d : Dev) (a : Nat) (v : Word) : (d.setAct a v).mmu = d.mmu := rfl
@[simp] theorem Dev.mem_setAct (d : Dev) (a : Nat) (v : Word) : (d.setAct a v).mem = d.mem := rfl
@[simp] theorem Dev.free_setAct (d : Dev) (a : Nat) (v : Word) : (d.setAct a v).free = d.free := rfl

/-! ### `Dev.setPage` -/

@[simp] theorem Dev.regs_setPage (d : Dev) (p : Nat) (v : Page) : (d.setPage p v).regs = d.regs := rfl
@[simp] theorem Dev.act_setPage (d : Dev) (p : Nat) (v : Page) : (d.setPage p v).act = d.act := rfl
@[simp] theorem Dev.pages_setPage (d : Dev) (p : Nat) (v : Page) : (d.setPage p v).pages = Tab.set {} d.pages p v := rfl
@[simp] theorem Dev.stats_setPage (d : Dev) (p : Nat) (v : Page) : (d.setPage p v).stats = d.stats := rfl
@[simp] theorem Dev.live_setPage (d : Dev) (p : Nat) (v : Page) : (d.setPage p v).live = d.live := rfl
@[simp] theorem Dev.nextc_setPage (d : Dev) (p : Nat) (v : Page) : (d.setPage p v).nextc = d.nextc := rfl
@[simp] theorem Dev.sys_setPage (d : Dev) (p : Nat) (v : Page) : (d.setPage p v).sys = d.sys := rfl
@[simp] theorem Dev.boot_setPage (d : Dev) (p : Nat) (v : Page) : (d.setPage p v).boot = d.boot := rfl
@[simp] theorem Dev.pwr_setPage (d : Dev) (p : Nat) (v : Page) : (d.setPage p v).pwr = d.pwr := rfl
@[simp] theorem Dev.aon_setPage (d : Dev) (p : Nat) (v : Page) : (d.setPage p v).aon = d.aon := rfl
@[simp] theorem Dev.time_setPage (d : Dev) (p : Nat) (v : Page) : (d.setPage p v).time = d.time := rfl
@[simp] theorem Dev.msp_setPage (d : Dev) (p : Nat) (v : Page) : (d.setPage p v).msp = d.msp := rfl
@[simp] theorem Dev.mspSh_setPage (d : Dev) (p : Nat) (v : Page) : (d.setPage p v).mspSh = d.mspSh := rfl
@[simp] theorem Dev.monword_setPage (d : Dev) (p : Nat) (v : Page) : (d.setPage p v).monword = d.monword := rfl
@[simp] theorem Dev.eth_setPage (d : Dev) (p : Nat) (v : Page) : (d.setPage p v).eth = d.eth := rfl
@[simp] theorem Dev.clk_setPage (d : Dev) (p : Nat) (v : Page) : (d.setPage p v).clk = d.clk := rfl
@[simp] theorem Dev.lnb_setPage (d : Dev) (p : Nat) (v : Page) : (d.setPage p v).lnb = d.lnb := rfl
@[simp] theorem Dev.plt_setPage (d : Dev) (p : Nat) (v : Page) : (d.setPage p v).plt = d.plt := rfl
@[simp] theorem Dev.run_setPage (d : Dev) (p : Nat) (v : Page) : (d.setPage p v).run = d.run := rfl
@[simp] theorem Dev.ing_setPage (d : Dev) (p : Nat) (v : Page) : (d.setPage p v).ing = d.ing := rfl
@[simp] theorem Dev.dkl_setPage (d : Dev) (p : Nat) (v : Page) : (d.setPage p v).dkl = d.dkl := rfl
@[simp] theorem Dev.hat_setPage (d : Dev) (p : Nat) (v : Page) : (d.setPage p v).hat = d.hat := rfl
@[simp] theorem Dev.acc_setPage (d : Dev) (p : Nat) (v : Page) : (d.setPage p v).acc = d.acc := rfl
@[simp] theorem Dev.bmf_setPage (d : Dev) (p : Nat) (v : Page) : (d.setPage p v).bmf = d.bmf := rfl
@[simp] theorem Dev.trg_setPage (d : Dev) (p : Nat) (v : Page) : (d.setPage p v).trg = d.trg := rfl
@[simp] theorem Dev.pair_setPage (d : Dev) (p : Nat) (v : Page) : (d.setPage p v).pair = d.pair := rfl
@[simp] theorem Dev.bur_setPage (d : Dev) (p : Nat) (v : Page) : (d.setPage p v).bur = d.bur := rfl
@[simp] theorem Dev.mctl_setPage (d : Dev) (p : Nat) (v : Page) : (d.setPage p v).mctl = d.mctl := rfl
@[simp] theorem Dev.fab_setPage (d : Dev) (p : Nat) (v : Page) : (d.setPage p v).fab = d.fab := rfl
@[simp] theorem Dev.hif_setPage (d : Dev) (p : Nat) (v : Page) : (d.setPage p v).hif = d.hif := rfl
@[simp] theorem Dev.dma_setPage (d : Dev) (p : Nat) (v : Page) : (d.setPage p v).dma = d.dma := rfl
@[simp] theorem Dev.mmu_setPage (d : Dev) (p : Nat) (v : Page) : (d.setPage p v).mmu = d.mmu := rfl
@[simp] theorem Dev.mem_setPage (d : Dev) (p : Nat) (v : Page) : (d.setPage p v).mem = d.mem := rfl
@[simp] theorem Dev.free_setPage (d : Dev) (p : Nat) (v : Page) : (d.setPage p v).free = d.free := rfl

/-! ### `Dev.setByte` -/

@[simp] theorem Dev.regs_setByte (d : Dev) (a : Nat) (b : Byte) : (d.setByte a b).regs = d.regs := rfl
@[simp] theorem Dev.act_setByte (d : Dev) (a : Nat) (b : Byte) : (d.setByte a b).act = d.act := rfl
@[simp] theorem Dev.pages_setByte (d : Dev) (a : Nat) (b : Byte) : (d.setByte a b).pages = d.pages := rfl
@[simp] theorem Dev.stats_setByte (d : Dev) (a : Nat) (b : Byte) : (d.setByte a b).stats = d.stats := rfl
@[simp] theorem Dev.live_setByte (d : Dev) (a : Nat) (b : Byte) : (d.setByte a b).live = d.live := rfl
@[simp] theorem Dev.nextc_setByte (d : Dev) (a : Nat) (b : Byte) : (d.setByte a b).nextc = d.nextc := rfl
@[simp] theorem Dev.sys_setByte (d : Dev) (a : Nat) (b : Byte) : (d.setByte a b).sys = d.sys := rfl
@[simp] theorem Dev.boot_setByte (d : Dev) (a : Nat) (b : Byte) : (d.setByte a b).boot = d.boot := rfl
@[simp] theorem Dev.pwr_setByte (d : Dev) (a : Nat) (b : Byte) : (d.setByte a b).pwr = d.pwr := rfl
@[simp] theorem Dev.aon_setByte (d : Dev) (a : Nat) (b : Byte) : (d.setByte a b).aon = d.aon := rfl
@[simp] theorem Dev.time_setByte (d : Dev) (a : Nat) (b : Byte) : (d.setByte a b).time = d.time := rfl
@[simp] theorem Dev.msp_setByte (d : Dev) (a : Nat) (b : Byte) : (d.setByte a b).msp = d.msp := rfl
@[simp] theorem Dev.mspSh_setByte (d : Dev) (a : Nat) (b : Byte) : (d.setByte a b).mspSh = d.mspSh := rfl
@[simp] theorem Dev.monword_setByte (d : Dev) (a : Nat) (b : Byte) : (d.setByte a b).monword = d.monword := rfl
@[simp] theorem Dev.eth_setByte (d : Dev) (a : Nat) (b : Byte) : (d.setByte a b).eth = d.eth := rfl
@[simp] theorem Dev.clk_setByte (d : Dev) (a : Nat) (b : Byte) : (d.setByte a b).clk = d.clk := rfl
@[simp] theorem Dev.lnb_setByte (d : Dev) (a : Nat) (b : Byte) : (d.setByte a b).lnb = d.lnb := rfl
@[simp] theorem Dev.plt_setByte (d : Dev) (a : Nat) (b : Byte) : (d.setByte a b).plt = d.plt := rfl
@[simp] theorem Dev.run_setByte (d : Dev) (a : Nat) (b : Byte) : (d.setByte a b).run = d.run := rfl
@[simp] theorem Dev.ing_setByte (d : Dev) (a : Nat) (b : Byte) : (d.setByte a b).ing = d.ing := rfl
@[simp] theorem Dev.dkl_setByte (d : Dev) (a : Nat) (b : Byte) : (d.setByte a b).dkl = d.dkl := rfl
@[simp] theorem Dev.hat_setByte (d : Dev) (a : Nat) (b : Byte) : (d.setByte a b).hat = d.hat := rfl
@[simp] theorem Dev.acc_setByte (d : Dev) (a : Nat) (b : Byte) : (d.setByte a b).acc = d.acc := rfl
@[simp] theorem Dev.bmf_setByte (d : Dev) (a : Nat) (b : Byte) : (d.setByte a b).bmf = d.bmf := rfl
@[simp] theorem Dev.trg_setByte (d : Dev) (a : Nat) (b : Byte) : (d.setByte a b).trg = d.trg := rfl
@[simp] theorem Dev.pair_setByte (d : Dev) (a : Nat) (b : Byte) : (d.setByte a b).pair = d.pair := rfl
@[simp] theorem Dev.bur_setByte (d : Dev) (a : Nat) (b : Byte) : (d.setByte a b).bur = d.bur := rfl
@[simp] theorem Dev.mctl_setByte (d : Dev) (a : Nat) (b : Byte) : (d.setByte a b).mctl = d.mctl := rfl
@[simp] theorem Dev.fab_setByte (d : Dev) (a : Nat) (b : Byte) : (d.setByte a b).fab = d.fab := rfl
@[simp] theorem Dev.hif_setByte (d : Dev) (a : Nat) (b : Byte) : (d.setByte a b).hif = d.hif := rfl
@[simp] theorem Dev.dma_setByte (d : Dev) (a : Nat) (b : Byte) : (d.setByte a b).dma = d.dma := rfl
@[simp] theorem Dev.mmu_setByte (d : Dev) (a : Nat) (b : Byte) : (d.setByte a b).mmu = d.mmu := rfl
@[simp] theorem Dev.mem_setByte (d : Dev) (a : Nat) (b : Byte) : (d.setByte a b).mem = Tab.set 0 d.mem a b := rfl
@[simp] theorem Dev.free_setByte (d : Dev) (a : Nat) (b : Byte) : (d.setByte a b).free = d.free := rfl

/-! ### `Dev.putBytes` -/

@[simp] theorem Dev.regs_putBytes (d : Dev) (a : Nat) (l : List Byte) : (d.putBytes a l).regs = d.regs := rfl
@[simp] theorem Dev.act_putBytes (d : Dev) (a : Nat) (l : List Byte) : (d.putBytes a l).act = d.act := rfl
@[simp] theorem Dev.pages_putBytes (d : Dev) (a : Nat) (l : List Byte) : (d.putBytes a l).pages = d.pages := rfl
@[simp] theorem Dev.stats_putBytes (d : Dev) (a : Nat) (l : List Byte) : (d.putBytes a l).stats = d.stats := rfl
@[simp] theorem Dev.live_putBytes (d : Dev) (a : Nat) (l : List Byte) : (d.putBytes a l).live = d.live := rfl
@[simp] theorem Dev.nextc_putBytes (d : Dev) (a : Nat) (l : List Byte) : (d.putBytes a l).nextc = d.nextc := rfl
@[simp] theorem Dev.sys_putBytes (d : Dev) (a : Nat) (l : List Byte) : (d.putBytes a l).sys = d.sys := rfl
@[simp] theorem Dev.boot_putBytes (d : Dev) (a : Nat) (l : List Byte) : (d.putBytes a l).boot = d.boot := rfl
@[simp] theorem Dev.pwr_putBytes (d : Dev) (a : Nat) (l : List Byte) : (d.putBytes a l).pwr = d.pwr := rfl
@[simp] theorem Dev.aon_putBytes (d : Dev) (a : Nat) (l : List Byte) : (d.putBytes a l).aon = d.aon := rfl
@[simp] theorem Dev.time_putBytes (d : Dev) (a : Nat) (l : List Byte) : (d.putBytes a l).time = d.time := rfl
@[simp] theorem Dev.msp_putBytes (d : Dev) (a : Nat) (l : List Byte) : (d.putBytes a l).msp = d.msp := rfl
@[simp] theorem Dev.mspSh_putBytes (d : Dev) (a : Nat) (l : List Byte) : (d.putBytes a l).mspSh = d.mspSh := rfl
@[simp] theorem Dev.monword_putBytes (d : Dev) (a : Nat) (l : List Byte) : (d.putBytes a l).monword = d.monword := rfl
@[simp] theorem Dev.eth_putBytes (d : Dev) (a : Nat) (l : List Byte) : (d.putBytes a l).eth = d.eth := rfl
@[simp] theorem Dev.clk_putBytes (d : Dev) (a : Nat) (l : List Byte) : (d.putBytes a l).clk = d.clk := rfl
@[simp] theorem Dev.lnb_putBytes (d : Dev) (a : Nat) (l : List Byte) : (d.putBytes a l).lnb = d.lnb := rfl
@[simp] theorem Dev.plt_putBytes (d : Dev) (a : Nat) (l : List Byte) : (d.putBytes a l).plt = d.plt := rfl
@[simp] theorem Dev.run_putBytes (d : Dev) (a : Nat) (l : List Byte) : (d.putBytes a l).run = d.run := rfl
@[simp] theorem Dev.ing_putBytes (d : Dev) (a : Nat) (l : List Byte) : (d.putBytes a l).ing = d.ing := rfl
@[simp] theorem Dev.dkl_putBytes (d : Dev) (a : Nat) (l : List Byte) : (d.putBytes a l).dkl = d.dkl := rfl
@[simp] theorem Dev.hat_putBytes (d : Dev) (a : Nat) (l : List Byte) : (d.putBytes a l).hat = d.hat := rfl
@[simp] theorem Dev.acc_putBytes (d : Dev) (a : Nat) (l : List Byte) : (d.putBytes a l).acc = d.acc := rfl
@[simp] theorem Dev.bmf_putBytes (d : Dev) (a : Nat) (l : List Byte) : (d.putBytes a l).bmf = d.bmf := rfl
@[simp] theorem Dev.trg_putBytes (d : Dev) (a : Nat) (l : List Byte) : (d.putBytes a l).trg = d.trg := rfl
@[simp] theorem Dev.pair_putBytes (d : Dev) (a : Nat) (l : List Byte) : (d.putBytes a l).pair = d.pair := rfl
@[simp] theorem Dev.bur_putBytes (d : Dev) (a : Nat) (l : List Byte) : (d.putBytes a l).bur = d.bur := rfl
@[simp] theorem Dev.mctl_putBytes (d : Dev) (a : Nat) (l : List Byte) : (d.putBytes a l).mctl = d.mctl := rfl
@[simp] theorem Dev.fab_putBytes (d : Dev) (a : Nat) (l : List Byte) : (d.putBytes a l).fab = d.fab := rfl
@[simp] theorem Dev.hif_putBytes (d : Dev) (a : Nat) (l : List Byte) : (d.putBytes a l).hif = d.hif := rfl
@[simp] theorem Dev.dma_putBytes (d : Dev) (a : Nat) (l : List Byte) : (d.putBytes a l).dma = d.dma := rfl
@[simp] theorem Dev.mmu_putBytes (d : Dev) (a : Nat) (l : List Byte) : (d.putBytes a l).mmu = d.mmu := rfl
@[simp] theorem Dev.mem_putBytes (d : Dev) (a : Nat) (l : List Byte) : (d.putBytes a l).mem = memPut d.mem a l := rfl
@[simp] theorem Dev.free_putBytes (d : Dev) (a : Nat) (l : List Byte) : (d.putBytes a l).free = d.free := rfl

/-! ### `Dev.setMchan` -/

@[simp] theorem Dev.regs_setMchan (d : Dev) (c : Nat) (x : MemChan) : (d.setMchan c x).regs = d.regs := rfl
@[simp] theorem Dev.act_setMchan (d : Dev) (c : Nat) (x : MemChan) : (d.setMchan c x).act = d.act := rfl
@[simp] theorem Dev.pages_setMchan (d : Dev) (c : Nat) (x : MemChan) : (d.setMchan c x).pages = d.pages := rfl
@[simp] theorem Dev.stats_setMchan (d : Dev) (c : Nat) (x : MemChan) : (d.setMchan c x).stats = d.stats := rfl
@[simp] theorem Dev.live_setMchan (d : Dev) (c : Nat) (x : MemChan) : (d.setMchan c x).live = d.live := rfl
@[simp] theorem Dev.nextc_setMchan (d : Dev) (c : Nat) (x : MemChan) : (d.setMchan c x).nextc = d.nextc := rfl
@[simp] theorem Dev.sys_setMchan (d : Dev) (c : Nat) (x : MemChan) : (d.setMchan c x).sys = d.sys := rfl
@[simp] theorem Dev.boot_setMchan (d : Dev) (c : Nat) (x : MemChan) : (d.setMchan c x).boot = d.boot := rfl
@[simp] theorem Dev.pwr_setMchan (d : Dev) (c : Nat) (x : MemChan) : (d.setMchan c x).pwr = d.pwr := rfl
@[simp] theorem Dev.aon_setMchan (d : Dev) (c : Nat) (x : MemChan) : (d.setMchan c x).aon = d.aon := rfl
@[simp] theorem Dev.time_setMchan (d : Dev) (c : Nat) (x : MemChan) : (d.setMchan c x).time = d.time := rfl
@[simp] theorem Dev.msp_setMchan (d : Dev) (c : Nat) (x : MemChan) : (d.setMchan c x).msp = d.msp := rfl
@[simp] theorem Dev.mspSh_setMchan (d : Dev) (c : Nat) (x : MemChan) : (d.setMchan c x).mspSh = d.mspSh := rfl
@[simp] theorem Dev.monword_setMchan (d : Dev) (c : Nat) (x : MemChan) : (d.setMchan c x).monword = d.monword := rfl
@[simp] theorem Dev.eth_setMchan (d : Dev) (c : Nat) (x : MemChan) : (d.setMchan c x).eth = d.eth := rfl
@[simp] theorem Dev.clk_setMchan (d : Dev) (c : Nat) (x : MemChan) : (d.setMchan c x).clk = d.clk := rfl
@[simp] theorem Dev.lnb_setMchan (d : Dev) (c : Nat) (x : MemChan) : (d.setMchan c x).lnb = d.lnb := rfl
@[simp] theorem Dev.plt_setMchan (d : Dev) (c : Nat) (x : MemChan) : (d.setMchan c x).plt = d.plt := rfl
@[simp] theorem Dev.run_setMchan (d : Dev) (c : Nat) (x : MemChan) : (d.setMchan c x).run = d.run := rfl
@[simp] theorem Dev.ing_setMchan (d : Dev) (c : Nat) (x : MemChan) : (d.setMchan c x).ing = d.ing := rfl
@[simp] theorem Dev.dkl_setMchan (d : Dev) (c : Nat) (x : MemChan) : (d.setMchan c x).dkl = d.dkl := rfl
@[simp] theorem Dev.hat_setMchan (d : Dev) (c : Nat) (x : MemChan) : (d.setMchan c x).hat = d.hat := rfl
@[simp] theorem Dev.acc_setMchan (d : Dev) (c : Nat) (x : MemChan) : (d.setMchan c x).acc = d.acc := rfl
@[simp] theorem Dev.bmf_setMchan (d : Dev) (c : Nat) (x : MemChan) : (d.setMchan c x).bmf = d.bmf := rfl
@[simp] theorem Dev.trg_setMchan (d : Dev) (c : Nat) (x : MemChan) : (d.setMchan c x).trg = d.trg := rfl
@[simp] theorem Dev.pair_setMchan (d : Dev) (c : Nat) (x : MemChan) : (d.setMchan c x).pair = d.pair := rfl
@[simp] theorem Dev.bur_setMchan (d : Dev) (c : Nat) (x : MemChan) : (d.setMchan c x).bur = d.bur := rfl
@[simp] theorem Dev.mctl_setMchan (d : Dev) (c : Nat) (x : MemChan) : (d.setMchan c x).mctl = { d.mctl with chans := Tab.set {} d.mctl.chans c x } := rfl
@[simp] theorem Dev.fab_setMchan (d : Dev) (c : Nat) (x : MemChan) : (d.setMchan c x).fab = d.fab := rfl
@[simp] theorem Dev.hif_setMchan (d : Dev) (c : Nat) (x : MemChan) : (d.setMchan c x).hif = d.hif := rfl
@[simp] theorem Dev.dma_setMchan (d : Dev) (c : Nat) (x : MemChan) : (d.setMchan c x).dma = d.dma := rfl
@[simp] theorem Dev.mmu_setMchan (d : Dev) (c : Nat) (x : MemChan) : (d.setMchan c x).mmu = d.mmu := rfl
@[simp] theorem Dev.mem_setMchan (d : Dev) (c : Nat) (x : MemChan) : (d.setMchan c x).mem = d.mem := rfl
@[simp] theorem Dev.free_setMchan (d : Dev) (c : Nat) (x : MemChan) : (d.setMchan c x).free = d.free := rfl

/-! ### `Dev.setMport` -/

@[simp] theorem Dev.regs_setMport (d : Dev) (n : Nat) (p : MspPort) : (d.setMport n p).regs = d.regs := rfl
@[simp] theorem Dev.act_setMport (d : Dev) (n : Nat) (p : MspPort) : (d.setMport n p).act = d.act := rfl
@[simp] theorem Dev.pages_setMport (d : Dev) (n : Nat) (p : MspPort) : (d.setMport n p).pages = d.pages := rfl
@[simp] theorem Dev.stats_setMport (d : Dev) (n : Nat) (p : MspPort) : (d.setMport n p).stats = d.stats := rfl
@[simp] theorem Dev.live_setMport (d : Dev) (n : Nat) (p : MspPort) : (d.setMport n p).live = d.live := rfl
@[simp] theorem Dev.nextc_setMport (d : Dev) (n : Nat) (p : MspPort) : (d.setMport n p).nextc = d.nextc := rfl
@[simp] theorem Dev.sys_setMport (d : Dev) (n : Nat) (p : MspPort) : (d.setMport n p).sys = d.sys := rfl
@[simp] theorem Dev.boot_setMport (d : Dev) (n : Nat) (p : MspPort) : (d.setMport n p).boot = d.boot := rfl
@[simp] theorem Dev.pwr_setMport (d : Dev) (n : Nat) (p : MspPort) : (d.setMport n p).pwr = d.pwr := rfl
@[simp] theorem Dev.aon_setMport (d : Dev) (n : Nat) (p : MspPort) : (d.setMport n p).aon = d.aon := rfl
@[simp] theorem Dev.time_setMport (d : Dev) (n : Nat) (p : MspPort) : (d.setMport n p).time = d.time := rfl
@[simp] theorem Dev.msp_setMport (d : Dev) (n : Nat) (p : MspPort) : (d.setMport n p).msp = Tab.set {} d.msp n p := rfl
@[simp] theorem Dev.mspSh_setMport (d : Dev) (n : Nat) (p : MspPort) : (d.setMport n p).mspSh = d.mspSh := rfl
@[simp] theorem Dev.monword_setMport (d : Dev) (n : Nat) (p : MspPort) : (d.setMport n p).monword = d.monword := rfl
@[simp] theorem Dev.eth_setMport (d : Dev) (n : Nat) (p : MspPort) : (d.setMport n p).eth = d.eth := rfl
@[simp] theorem Dev.clk_setMport (d : Dev) (n : Nat) (p : MspPort) : (d.setMport n p).clk = d.clk := rfl
@[simp] theorem Dev.lnb_setMport (d : Dev) (n : Nat) (p : MspPort) : (d.setMport n p).lnb = d.lnb := rfl
@[simp] theorem Dev.plt_setMport (d : Dev) (n : Nat) (p : MspPort) : (d.setMport n p).plt = d.plt := rfl
@[simp] theorem Dev.run_setMport (d : Dev) (n : Nat) (p : MspPort) : (d.setMport n p).run = d.run := rfl
@[simp] theorem Dev.ing_setMport (d : Dev) (n : Nat) (p : MspPort) : (d.setMport n p).ing = d.ing := rfl
@[simp] theorem Dev.dkl_setMport (d : Dev) (n : Nat) (p : MspPort) : (d.setMport n p).dkl = d.dkl := rfl
@[simp] theorem Dev.hat_setMport (d : Dev) (n : Nat) (p : MspPort) : (d.setMport n p).hat = d.hat := rfl
@[simp] theorem Dev.acc_setMport (d : Dev) (n : Nat) (p : MspPort) : (d.setMport n p).acc = d.acc := rfl
@[simp] theorem Dev.bmf_setMport (d : Dev) (n : Nat) (p : MspPort) : (d.setMport n p).bmf = d.bmf := rfl
@[simp] theorem Dev.trg_setMport (d : Dev) (n : Nat) (p : MspPort) : (d.setMport n p).trg = d.trg := rfl
@[simp] theorem Dev.pair_setMport (d : Dev) (n : Nat) (p : MspPort) : (d.setMport n p).pair = d.pair := rfl
@[simp] theorem Dev.bur_setMport (d : Dev) (n : Nat) (p : MspPort) : (d.setMport n p).bur = d.bur := rfl
@[simp] theorem Dev.mctl_setMport (d : Dev) (n : Nat) (p : MspPort) : (d.setMport n p).mctl = d.mctl := rfl
@[simp] theorem Dev.fab_setMport (d : Dev) (n : Nat) (p : MspPort) : (d.setMport n p).fab = d.fab := rfl
@[simp] theorem Dev.hif_setMport (d : Dev) (n : Nat) (p : MspPort) : (d.setMport n p).hif = d.hif := rfl
@[simp] theorem Dev.dma_setMport (d : Dev) (n : Nat) (p : MspPort) : (d.setMport n p).dma = d.dma := rfl
@[simp] theorem Dev.mmu_setMport (d : Dev) (n : Nat) (p : MspPort) : (d.setMport n p).mmu = d.mmu := rfl
@[simp] theorem Dev.mem_setMport (d : Dev) (n : Nat) (p : MspPort) : (d.setMport n p).mem = d.mem := rfl
@[simp] theorem Dev.free_setMport (d : Dev) (n : Nat) (p : MspPort) : (d.setMport n p).free = d.free := rfl

/-! ### `Dev.setEport` -/

@[simp] theorem Dev.regs_setEport (d : Dev) (n : Nat) (p : EthPort) : (d.setEport n p).regs = d.regs := rfl
@[simp] theorem Dev.act_setEport (d : Dev) (n : Nat) (p : EthPort) : (d.setEport n p).act = d.act := rfl
@[simp] theorem Dev.pages_setEport (d : Dev) (n : Nat) (p : EthPort) : (d.setEport n p).pages = d.pages := rfl
@[simp] theorem Dev.stats_setEport (d : Dev) (n : Nat) (p : EthPort) : (d.setEport n p).stats = d.stats := rfl
@[simp] theorem Dev.live_setEport (d : Dev) (n : Nat) (p : EthPort) : (d.setEport n p).live = d.live := rfl
@[simp] theorem Dev.nextc_setEport (d : Dev) (n : Nat) (p : EthPort) : (d.setEport n p).nextc = d.nextc := rfl
@[simp] theorem Dev.sys_setEport (d : Dev) (n : Nat) (p : EthPort) : (d.setEport n p).sys = d.sys := rfl
@[simp] theorem Dev.boot_setEport (d : Dev) (n : Nat) (p : EthPort) : (d.setEport n p).boot = d.boot := rfl
@[simp] theorem Dev.pwr_setEport (d : Dev) (n : Nat) (p : EthPort) : (d.setEport n p).pwr = d.pwr := rfl
@[simp] theorem Dev.aon_setEport (d : Dev) (n : Nat) (p : EthPort) : (d.setEport n p).aon = d.aon := rfl
@[simp] theorem Dev.time_setEport (d : Dev) (n : Nat) (p : EthPort) : (d.setEport n p).time = d.time := rfl
@[simp] theorem Dev.msp_setEport (d : Dev) (n : Nat) (p : EthPort) : (d.setEport n p).msp = d.msp := rfl
@[simp] theorem Dev.mspSh_setEport (d : Dev) (n : Nat) (p : EthPort) : (d.setEport n p).mspSh = d.mspSh := rfl
@[simp] theorem Dev.monword_setEport (d : Dev) (n : Nat) (p : EthPort) : (d.setEport n p).monword = d.monword := rfl
@[simp] theorem Dev.eth_setEport (d : Dev) (n : Nat) (p : EthPort) : (d.setEport n p).eth = Tab.set {} d.eth n p := rfl
@[simp] theorem Dev.clk_setEport (d : Dev) (n : Nat) (p : EthPort) : (d.setEport n p).clk = d.clk := rfl
@[simp] theorem Dev.lnb_setEport (d : Dev) (n : Nat) (p : EthPort) : (d.setEport n p).lnb = d.lnb := rfl
@[simp] theorem Dev.plt_setEport (d : Dev) (n : Nat) (p : EthPort) : (d.setEport n p).plt = d.plt := rfl
@[simp] theorem Dev.run_setEport (d : Dev) (n : Nat) (p : EthPort) : (d.setEport n p).run = d.run := rfl
@[simp] theorem Dev.ing_setEport (d : Dev) (n : Nat) (p : EthPort) : (d.setEport n p).ing = d.ing := rfl
@[simp] theorem Dev.dkl_setEport (d : Dev) (n : Nat) (p : EthPort) : (d.setEport n p).dkl = d.dkl := rfl
@[simp] theorem Dev.hat_setEport (d : Dev) (n : Nat) (p : EthPort) : (d.setEport n p).hat = d.hat := rfl
@[simp] theorem Dev.acc_setEport (d : Dev) (n : Nat) (p : EthPort) : (d.setEport n p).acc = d.acc := rfl
@[simp] theorem Dev.bmf_setEport (d : Dev) (n : Nat) (p : EthPort) : (d.setEport n p).bmf = d.bmf := rfl
@[simp] theorem Dev.trg_setEport (d : Dev) (n : Nat) (p : EthPort) : (d.setEport n p).trg = d.trg := rfl
@[simp] theorem Dev.pair_setEport (d : Dev) (n : Nat) (p : EthPort) : (d.setEport n p).pair = d.pair := rfl
@[simp] theorem Dev.bur_setEport (d : Dev) (n : Nat) (p : EthPort) : (d.setEport n p).bur = d.bur := rfl
@[simp] theorem Dev.mctl_setEport (d : Dev) (n : Nat) (p : EthPort) : (d.setEport n p).mctl = d.mctl := rfl
@[simp] theorem Dev.fab_setEport (d : Dev) (n : Nat) (p : EthPort) : (d.setEport n p).fab = d.fab := rfl
@[simp] theorem Dev.hif_setEport (d : Dev) (n : Nat) (p : EthPort) : (d.setEport n p).hif = d.hif := rfl
@[simp] theorem Dev.dma_setEport (d : Dev) (n : Nat) (p : EthPort) : (d.setEport n p).dma = d.dma := rfl
@[simp] theorem Dev.mmu_setEport (d : Dev) (n : Nat) (p : EthPort) : (d.setEport n p).mmu = d.mmu := rfl
@[simp] theorem Dev.mem_setEport (d : Dev) (n : Nat) (p : EthPort) : (d.setEport n p).mem = d.mem := rfl
@[simp] theorem Dev.free_setEport (d : Dev) (n : Nat) (p : EthPort) : (d.setEport n p).free = d.free := rfl

/-! ### `Dev.setRef` -/

@[simp] theorem Dev.regs_setRef (d : Dev) (i : Nat) (r : Ref) : (d.setRef i r).regs = d.regs := rfl
@[simp] theorem Dev.act_setRef (d : Dev) (i : Nat) (r : Ref) : (d.setRef i r).act = d.act := rfl
@[simp] theorem Dev.pages_setRef (d : Dev) (i : Nat) (r : Ref) : (d.setRef i r).pages = d.pages := rfl
@[simp] theorem Dev.stats_setRef (d : Dev) (i : Nat) (r : Ref) : (d.setRef i r).stats = d.stats := rfl
@[simp] theorem Dev.live_setRef (d : Dev) (i : Nat) (r : Ref) : (d.setRef i r).live = d.live := rfl
@[simp] theorem Dev.nextc_setRef (d : Dev) (i : Nat) (r : Ref) : (d.setRef i r).nextc = d.nextc := rfl
@[simp] theorem Dev.sys_setRef (d : Dev) (i : Nat) (r : Ref) : (d.setRef i r).sys = d.sys := rfl
@[simp] theorem Dev.boot_setRef (d : Dev) (i : Nat) (r : Ref) : (d.setRef i r).boot = d.boot := rfl
@[simp] theorem Dev.pwr_setRef (d : Dev) (i : Nat) (r : Ref) : (d.setRef i r).pwr = d.pwr := rfl
@[simp] theorem Dev.aon_setRef (d : Dev) (i : Nat) (r : Ref) : (d.setRef i r).aon = d.aon := rfl
@[simp] theorem Dev.time_setRef (d : Dev) (i : Nat) (r : Ref) : (d.setRef i r).time = d.time := rfl
@[simp] theorem Dev.msp_setRef (d : Dev) (i : Nat) (r : Ref) : (d.setRef i r).msp = d.msp := rfl
@[simp] theorem Dev.mspSh_setRef (d : Dev) (i : Nat) (r : Ref) : (d.setRef i r).mspSh = d.mspSh := rfl
@[simp] theorem Dev.monword_setRef (d : Dev) (i : Nat) (r : Ref) : (d.setRef i r).monword = d.monword := rfl
@[simp] theorem Dev.eth_setRef (d : Dev) (i : Nat) (r : Ref) : (d.setRef i r).eth = d.eth := rfl
@[simp] theorem Dev.clk_setRef (d : Dev) (i : Nat) (r : Ref) : (d.setRef i r).clk = { d.clk with refs := Tab.set {} d.clk.refs i r } := rfl
@[simp] theorem Dev.lnb_setRef (d : Dev) (i : Nat) (r : Ref) : (d.setRef i r).lnb = d.lnb := rfl
@[simp] theorem Dev.plt_setRef (d : Dev) (i : Nat) (r : Ref) : (d.setRef i r).plt = d.plt := rfl
@[simp] theorem Dev.run_setRef (d : Dev) (i : Nat) (r : Ref) : (d.setRef i r).run = d.run := rfl
@[simp] theorem Dev.ing_setRef (d : Dev) (i : Nat) (r : Ref) : (d.setRef i r).ing = d.ing := rfl
@[simp] theorem Dev.dkl_setRef (d : Dev) (i : Nat) (r : Ref) : (d.setRef i r).dkl = d.dkl := rfl
@[simp] theorem Dev.hat_setRef (d : Dev) (i : Nat) (r : Ref) : (d.setRef i r).hat = d.hat := rfl
@[simp] theorem Dev.acc_setRef (d : Dev) (i : Nat) (r : Ref) : (d.setRef i r).acc = d.acc := rfl
@[simp] theorem Dev.bmf_setRef (d : Dev) (i : Nat) (r : Ref) : (d.setRef i r).bmf = d.bmf := rfl
@[simp] theorem Dev.trg_setRef (d : Dev) (i : Nat) (r : Ref) : (d.setRef i r).trg = d.trg := rfl
@[simp] theorem Dev.pair_setRef (d : Dev) (i : Nat) (r : Ref) : (d.setRef i r).pair = d.pair := rfl
@[simp] theorem Dev.bur_setRef (d : Dev) (i : Nat) (r : Ref) : (d.setRef i r).bur = d.bur := rfl
@[simp] theorem Dev.mctl_setRef (d : Dev) (i : Nat) (r : Ref) : (d.setRef i r).mctl = d.mctl := rfl
@[simp] theorem Dev.fab_setRef (d : Dev) (i : Nat) (r : Ref) : (d.setRef i r).fab = d.fab := rfl
@[simp] theorem Dev.hif_setRef (d : Dev) (i : Nat) (r : Ref) : (d.setRef i r).hif = d.hif := rfl
@[simp] theorem Dev.dma_setRef (d : Dev) (i : Nat) (r : Ref) : (d.setRef i r).dma = d.dma := rfl
@[simp] theorem Dev.mmu_setRef (d : Dev) (i : Nat) (r : Ref) : (d.setRef i r).mmu = d.mmu := rfl
@[simp] theorem Dev.mem_setRef (d : Dev) (i : Nat) (r : Ref) : (d.setRef i r).mem = d.mem := rfl
@[simp] theorem Dev.free_setRef (d : Dev) (i : Nat) (r : Ref) : (d.setRef i r).free = d.free := rfl

/-! ### `Dev.setOut` -/

@[simp] theorem Dev.regs_setOut (d : Dev) (i : Nat) (o : OutSt) : (d.setOut i o).regs = d.regs := rfl
@[simp] theorem Dev.act_setOut (d : Dev) (i : Nat) (o : OutSt) : (d.setOut i o).act = d.act := rfl
@[simp] theorem Dev.pages_setOut (d : Dev) (i : Nat) (o : OutSt) : (d.setOut i o).pages = d.pages := rfl
@[simp] theorem Dev.stats_setOut (d : Dev) (i : Nat) (o : OutSt) : (d.setOut i o).stats = d.stats := rfl
@[simp] theorem Dev.live_setOut (d : Dev) (i : Nat) (o : OutSt) : (d.setOut i o).live = d.live := rfl
@[simp] theorem Dev.nextc_setOut (d : Dev) (i : Nat) (o : OutSt) : (d.setOut i o).nextc = d.nextc := rfl
@[simp] theorem Dev.sys_setOut (d : Dev) (i : Nat) (o : OutSt) : (d.setOut i o).sys = d.sys := rfl
@[simp] theorem Dev.boot_setOut (d : Dev) (i : Nat) (o : OutSt) : (d.setOut i o).boot = d.boot := rfl
@[simp] theorem Dev.pwr_setOut (d : Dev) (i : Nat) (o : OutSt) : (d.setOut i o).pwr = d.pwr := rfl
@[simp] theorem Dev.aon_setOut (d : Dev) (i : Nat) (o : OutSt) : (d.setOut i o).aon = d.aon := rfl
@[simp] theorem Dev.time_setOut (d : Dev) (i : Nat) (o : OutSt) : (d.setOut i o).time = d.time := rfl
@[simp] theorem Dev.msp_setOut (d : Dev) (i : Nat) (o : OutSt) : (d.setOut i o).msp = d.msp := rfl
@[simp] theorem Dev.mspSh_setOut (d : Dev) (i : Nat) (o : OutSt) : (d.setOut i o).mspSh = d.mspSh := rfl
@[simp] theorem Dev.monword_setOut (d : Dev) (i : Nat) (o : OutSt) : (d.setOut i o).monword = d.monword := rfl
@[simp] theorem Dev.eth_setOut (d : Dev) (i : Nat) (o : OutSt) : (d.setOut i o).eth = d.eth := rfl
@[simp] theorem Dev.clk_setOut (d : Dev) (i : Nat) (o : OutSt) : (d.setOut i o).clk = { d.clk with outs := Tab.set {} d.clk.outs i o } := rfl
@[simp] theorem Dev.lnb_setOut (d : Dev) (i : Nat) (o : OutSt) : (d.setOut i o).lnb = d.lnb := rfl
@[simp] theorem Dev.plt_setOut (d : Dev) (i : Nat) (o : OutSt) : (d.setOut i o).plt = d.plt := rfl
@[simp] theorem Dev.run_setOut (d : Dev) (i : Nat) (o : OutSt) : (d.setOut i o).run = d.run := rfl
@[simp] theorem Dev.ing_setOut (d : Dev) (i : Nat) (o : OutSt) : (d.setOut i o).ing = d.ing := rfl
@[simp] theorem Dev.dkl_setOut (d : Dev) (i : Nat) (o : OutSt) : (d.setOut i o).dkl = d.dkl := rfl
@[simp] theorem Dev.hat_setOut (d : Dev) (i : Nat) (o : OutSt) : (d.setOut i o).hat = d.hat := rfl
@[simp] theorem Dev.acc_setOut (d : Dev) (i : Nat) (o : OutSt) : (d.setOut i o).acc = d.acc := rfl
@[simp] theorem Dev.bmf_setOut (d : Dev) (i : Nat) (o : OutSt) : (d.setOut i o).bmf = d.bmf := rfl
@[simp] theorem Dev.trg_setOut (d : Dev) (i : Nat) (o : OutSt) : (d.setOut i o).trg = d.trg := rfl
@[simp] theorem Dev.pair_setOut (d : Dev) (i : Nat) (o : OutSt) : (d.setOut i o).pair = d.pair := rfl
@[simp] theorem Dev.bur_setOut (d : Dev) (i : Nat) (o : OutSt) : (d.setOut i o).bur = d.bur := rfl
@[simp] theorem Dev.mctl_setOut (d : Dev) (i : Nat) (o : OutSt) : (d.setOut i o).mctl = d.mctl := rfl
@[simp] theorem Dev.fab_setOut (d : Dev) (i : Nat) (o : OutSt) : (d.setOut i o).fab = d.fab := rfl
@[simp] theorem Dev.hif_setOut (d : Dev) (i : Nat) (o : OutSt) : (d.setOut i o).hif = d.hif := rfl
@[simp] theorem Dev.dma_setOut (d : Dev) (i : Nat) (o : OutSt) : (d.setOut i o).dma = d.dma := rfl
@[simp] theorem Dev.mmu_setOut (d : Dev) (i : Nat) (o : OutSt) : (d.setOut i o).mmu = d.mmu := rfl
@[simp] theorem Dev.mem_setOut (d : Dev) (i : Nat) (o : OutSt) : (d.setOut i o).mem = d.mem := rfl
@[simp] theorem Dev.free_setOut (d : Dev) (i : Nat) (o : OutSt) : (d.setOut i o).free = d.free := rfl

/-! ### `Dev.setLane` -/

@[simp] theorem Dev.regs_setLane (d : Dev) (n : Nat) (v : Lane) : (d.setLane n v).regs = d.regs := rfl
@[simp] theorem Dev.act_setLane (d : Dev) (n : Nat) (v : Lane) : (d.setLane n v).act = d.act := rfl
@[simp] theorem Dev.pages_setLane (d : Dev) (n : Nat) (v : Lane) : (d.setLane n v).pages = d.pages := rfl
@[simp] theorem Dev.stats_setLane (d : Dev) (n : Nat) (v : Lane) : (d.setLane n v).stats = d.stats := rfl
@[simp] theorem Dev.live_setLane (d : Dev) (n : Nat) (v : Lane) : (d.setLane n v).live = d.live := rfl
@[simp] theorem Dev.nextc_setLane (d : Dev) (n : Nat) (v : Lane) : (d.setLane n v).nextc = d.nextc := rfl
@[simp] theorem Dev.sys_setLane (d : Dev) (n : Nat) (v : Lane) : (d.setLane n v).sys = d.sys := rfl
@[simp] theorem Dev.boot_setLane (d : Dev) (n : Nat) (v : Lane) : (d.setLane n v).boot = d.boot := rfl
@[simp] theorem Dev.pwr_setLane (d : Dev) (n : Nat) (v : Lane) : (d.setLane n v).pwr = d.pwr := rfl
@[simp] theorem Dev.aon_setLane (d : Dev) (n : Nat) (v : Lane) : (d.setLane n v).aon = d.aon := rfl
@[simp] theorem Dev.time_setLane (d : Dev) (n : Nat) (v : Lane) : (d.setLane n v).time = d.time := rfl
@[simp] theorem Dev.msp_setLane (d : Dev) (n : Nat) (v : Lane) : (d.setLane n v).msp = d.msp := rfl
@[simp] theorem Dev.mspSh_setLane (d : Dev) (n : Nat) (v : Lane) : (d.setLane n v).mspSh = d.mspSh := rfl
@[simp] theorem Dev.monword_setLane (d : Dev) (n : Nat) (v : Lane) : (d.setLane n v).monword = d.monword := rfl
@[simp] theorem Dev.eth_setLane (d : Dev) (n : Nat) (v : Lane) : (d.setLane n v).eth = d.eth := rfl
@[simp] theorem Dev.clk_setLane (d : Dev) (n : Nat) (v : Lane) : (d.setLane n v).clk = d.clk := rfl
@[simp] theorem Dev.lnb_setLane (d : Dev) (n : Nat) (v : Lane) : (d.setLane n v).lnb = { d.lnb with lanes := Tab.set {} d.lnb.lanes n v } := rfl
@[simp] theorem Dev.plt_setLane (d : Dev) (n : Nat) (v : Lane) : (d.setLane n v).plt = d.plt := rfl
@[simp] theorem Dev.run_setLane (d : Dev) (n : Nat) (v : Lane) : (d.setLane n v).run = d.run := rfl
@[simp] theorem Dev.ing_setLane (d : Dev) (n : Nat) (v : Lane) : (d.setLane n v).ing = d.ing := rfl
@[simp] theorem Dev.dkl_setLane (d : Dev) (n : Nat) (v : Lane) : (d.setLane n v).dkl = d.dkl := rfl
@[simp] theorem Dev.hat_setLane (d : Dev) (n : Nat) (v : Lane) : (d.setLane n v).hat = d.hat := rfl
@[simp] theorem Dev.acc_setLane (d : Dev) (n : Nat) (v : Lane) : (d.setLane n v).acc = d.acc := rfl
@[simp] theorem Dev.bmf_setLane (d : Dev) (n : Nat) (v : Lane) : (d.setLane n v).bmf = d.bmf := rfl
@[simp] theorem Dev.trg_setLane (d : Dev) (n : Nat) (v : Lane) : (d.setLane n v).trg = d.trg := rfl
@[simp] theorem Dev.pair_setLane (d : Dev) (n : Nat) (v : Lane) : (d.setLane n v).pair = d.pair := rfl
@[simp] theorem Dev.bur_setLane (d : Dev) (n : Nat) (v : Lane) : (d.setLane n v).bur = d.bur := rfl
@[simp] theorem Dev.mctl_setLane (d : Dev) (n : Nat) (v : Lane) : (d.setLane n v).mctl = d.mctl := rfl
@[simp] theorem Dev.fab_setLane (d : Dev) (n : Nat) (v : Lane) : (d.setLane n v).fab = d.fab := rfl
@[simp] theorem Dev.hif_setLane (d : Dev) (n : Nat) (v : Lane) : (d.setLane n v).hif = d.hif := rfl
@[simp] theorem Dev.dma_setLane (d : Dev) (n : Nat) (v : Lane) : (d.setLane n v).dma = d.dma := rfl
@[simp] theorem Dev.mmu_setLane (d : Dev) (n : Nat) (v : Lane) : (d.setLane n v).mmu = d.mmu := rfl
@[simp] theorem Dev.mem_setLane (d : Dev) (n : Nat) (v : Lane) : (d.setLane n v).mem = d.mem := rfl
@[simp] theorem Dev.free_setLane (d : Dev) (n : Nat) (v : Lane) : (d.setLane n v).free = d.free := rfl

/-! ### `Dev.setCore` -/

@[simp] theorem Dev.regs_setCore (d : Dev) (c : Nat) (x : Core) : (d.setCore c x).regs = d.regs := rfl
@[simp] theorem Dev.act_setCore (d : Dev) (c : Nat) (x : Core) : (d.setCore c x).act = d.act := rfl
@[simp] theorem Dev.pages_setCore (d : Dev) (c : Nat) (x : Core) : (d.setCore c x).pages = d.pages := rfl
@[simp] theorem Dev.stats_setCore (d : Dev) (c : Nat) (x : Core) : (d.setCore c x).stats = d.stats := rfl
@[simp] theorem Dev.live_setCore (d : Dev) (c : Nat) (x : Core) : (d.setCore c x).live = d.live := rfl
@[simp] theorem Dev.nextc_setCore (d : Dev) (c : Nat) (x : Core) : (d.setCore c x).nextc = d.nextc := rfl
@[simp] theorem Dev.sys_setCore (d : Dev) (c : Nat) (x : Core) : (d.setCore c x).sys = d.sys := rfl
@[simp] theorem Dev.boot_setCore (d : Dev) (c : Nat) (x : Core) : (d.setCore c x).boot = d.boot := rfl
@[simp] theorem Dev.pwr_setCore (d : Dev) (c : Nat) (x : Core) : (d.setCore c x).pwr = d.pwr := rfl
@[simp] theorem Dev.aon_setCore (d : Dev) (c : Nat) (x : Core) : (d.setCore c x).aon = d.aon := rfl
@[simp] theorem Dev.time_setCore (d : Dev) (c : Nat) (x : Core) : (d.setCore c x).time = d.time := rfl
@[simp] theorem Dev.msp_setCore (d : Dev) (c : Nat) (x : Core) : (d.setCore c x).msp = d.msp := rfl
@[simp] theorem Dev.mspSh_setCore (d : Dev) (c : Nat) (x : Core) : (d.setCore c x).mspSh = d.mspSh := rfl
@[simp] theorem Dev.monword_setCore (d : Dev) (c : Nat) (x : Core) : (d.setCore c x).monword = d.monword := rfl
@[simp] theorem Dev.eth_setCore (d : Dev) (c : Nat) (x : Core) : (d.setCore c x).eth = d.eth := rfl
@[simp] theorem Dev.clk_setCore (d : Dev) (c : Nat) (x : Core) : (d.setCore c x).clk = d.clk := rfl
@[simp] theorem Dev.lnb_setCore (d : Dev) (c : Nat) (x : Core) : (d.setCore c x).lnb = d.lnb := rfl
@[simp] theorem Dev.plt_setCore (d : Dev) (c : Nat) (x : Core) : (d.setCore c x).plt = d.plt := rfl
@[simp] theorem Dev.run_setCore (d : Dev) (c : Nat) (x : Core) : (d.setCore c x).run = d.run := rfl
@[simp] theorem Dev.ing_setCore (d : Dev) (c : Nat) (x : Core) : (d.setCore c x).ing = d.ing := rfl
@[simp] theorem Dev.dkl_setCore (d : Dev) (c : Nat) (x : Core) : (d.setCore c x).dkl = d.dkl := rfl
@[simp] theorem Dev.hat_setCore (d : Dev) (c : Nat) (x : Core) : (d.setCore c x).hat = d.hat := rfl
@[simp] theorem Dev.acc_setCore (d : Dev) (c : Nat) (x : Core) : (d.setCore c x).acc = d.acc := rfl
@[simp] theorem Dev.bmf_setCore (d : Dev) (c : Nat) (x : Core) : (d.setCore c x).bmf = d.bmf := rfl
@[simp] theorem Dev.trg_setCore (d : Dev) (c : Nat) (x : Core) : (d.setCore c x).trg = d.trg := rfl
@[simp] theorem Dev.pair_setCore (d : Dev) (c : Nat) (x : Core) : (d.setCore c x).pair = d.pair := rfl
@[simp] theorem Dev.bur_setCore (d : Dev) (c : Nat) (x : Core) : (d.setCore c x).bur = { d.bur with cores := Tab.set {} d.bur.cores c x } := rfl
@[simp] theorem Dev.mctl_setCore (d : Dev) (c : Nat) (x : Core) : (d.setCore c x).mctl = d.mctl := rfl
@[simp] theorem Dev.fab_setCore (d : Dev) (c : Nat) (x : Core) : (d.setCore c x).fab = d.fab := rfl
@[simp] theorem Dev.hif_setCore (d : Dev) (c : Nat) (x : Core) : (d.setCore c x).hif = d.hif := rfl
@[simp] theorem Dev.dma_setCore (d : Dev) (c : Nat) (x : Core) : (d.setCore c x).dma = d.dma := rfl
@[simp] theorem Dev.mmu_setCore (d : Dev) (c : Nat) (x : Core) : (d.setCore c x).mmu = d.mmu := rfl
@[simp] theorem Dev.mem_setCore (d : Dev) (c : Nat) (x : Core) : (d.setCore c x).mem = d.mem := rfl
@[simp] theorem Dev.free_setCore (d : Dev) (c : Nat) (x : Core) : (d.setCore c x).free = d.free := rfl

/-! ### `Dev.setEng` -/

@[simp] theorem Dev.regs_setEng (d : Dev) (k : Nat) (e : DmaEng) : (d.setEng k e).regs = d.regs := rfl
@[simp] theorem Dev.act_setEng (d : Dev) (k : Nat) (e : DmaEng) : (d.setEng k e).act = d.act := rfl
@[simp] theorem Dev.pages_setEng (d : Dev) (k : Nat) (e : DmaEng) : (d.setEng k e).pages = d.pages := rfl
@[simp] theorem Dev.stats_setEng (d : Dev) (k : Nat) (e : DmaEng) : (d.setEng k e).stats = d.stats := rfl
@[simp] theorem Dev.live_setEng (d : Dev) (k : Nat) (e : DmaEng) : (d.setEng k e).live = d.live := rfl
@[simp] theorem Dev.nextc_setEng (d : Dev) (k : Nat) (e : DmaEng) : (d.setEng k e).nextc = d.nextc := rfl
@[simp] theorem Dev.sys_setEng (d : Dev) (k : Nat) (e : DmaEng) : (d.setEng k e).sys = d.sys := rfl
@[simp] theorem Dev.boot_setEng (d : Dev) (k : Nat) (e : DmaEng) : (d.setEng k e).boot = d.boot := rfl
@[simp] theorem Dev.pwr_setEng (d : Dev) (k : Nat) (e : DmaEng) : (d.setEng k e).pwr = d.pwr := rfl
@[simp] theorem Dev.aon_setEng (d : Dev) (k : Nat) (e : DmaEng) : (d.setEng k e).aon = d.aon := rfl
@[simp] theorem Dev.time_setEng (d : Dev) (k : Nat) (e : DmaEng) : (d.setEng k e).time = d.time := rfl
@[simp] theorem Dev.msp_setEng (d : Dev) (k : Nat) (e : DmaEng) : (d.setEng k e).msp = d.msp := rfl
@[simp] theorem Dev.mspSh_setEng (d : Dev) (k : Nat) (e : DmaEng) : (d.setEng k e).mspSh = d.mspSh := rfl
@[simp] theorem Dev.monword_setEng (d : Dev) (k : Nat) (e : DmaEng) : (d.setEng k e).monword = d.monword := rfl
@[simp] theorem Dev.eth_setEng (d : Dev) (k : Nat) (e : DmaEng) : (d.setEng k e).eth = d.eth := rfl
@[simp] theorem Dev.clk_setEng (d : Dev) (k : Nat) (e : DmaEng) : (d.setEng k e).clk = d.clk := rfl
@[simp] theorem Dev.lnb_setEng (d : Dev) (k : Nat) (e : DmaEng) : (d.setEng k e).lnb = d.lnb := rfl
@[simp] theorem Dev.plt_setEng (d : Dev) (k : Nat) (e : DmaEng) : (d.setEng k e).plt = d.plt := rfl
@[simp] theorem Dev.run_setEng (d : Dev) (k : Nat) (e : DmaEng) : (d.setEng k e).run = d.run := rfl
@[simp] theorem Dev.ing_setEng (d : Dev) (k : Nat) (e : DmaEng) : (d.setEng k e).ing = d.ing := rfl
@[simp] theorem Dev.dkl_setEng (d : Dev) (k : Nat) (e : DmaEng) : (d.setEng k e).dkl = d.dkl := rfl
@[simp] theorem Dev.hat_setEng (d : Dev) (k : Nat) (e : DmaEng) : (d.setEng k e).hat = d.hat := rfl
@[simp] theorem Dev.acc_setEng (d : Dev) (k : Nat) (e : DmaEng) : (d.setEng k e).acc = d.acc := rfl
@[simp] theorem Dev.bmf_setEng (d : Dev) (k : Nat) (e : DmaEng) : (d.setEng k e).bmf = d.bmf := rfl
@[simp] theorem Dev.trg_setEng (d : Dev) (k : Nat) (e : DmaEng) : (d.setEng k e).trg = d.trg := rfl
@[simp] theorem Dev.pair_setEng (d : Dev) (k : Nat) (e : DmaEng) : (d.setEng k e).pair = d.pair := rfl
@[simp] theorem Dev.bur_setEng (d : Dev) (k : Nat) (e : DmaEng) : (d.setEng k e).bur = d.bur := rfl
@[simp] theorem Dev.mctl_setEng (d : Dev) (k : Nat) (e : DmaEng) : (d.setEng k e).mctl = d.mctl := rfl
@[simp] theorem Dev.fab_setEng (d : Dev) (k : Nat) (e : DmaEng) : (d.setEng k e).fab = d.fab := rfl
@[simp] theorem Dev.hif_setEng (d : Dev) (k : Nat) (e : DmaEng) : (d.setEng k e).hif = d.hif := rfl
@[simp] theorem Dev.dma_setEng (d : Dev) (k : Nat) (e : DmaEng) : (d.setEng k e).dma = Tab.set {} d.dma k e := rfl
@[simp] theorem Dev.mmu_setEng (d : Dev) (k : Nat) (e : DmaEng) : (d.setEng k e).mmu = d.mmu := rfl
@[simp] theorem Dev.mem_setEng (d : Dev) (k : Nat) (e : DmaEng) : (d.setEng k e).mem = d.mem := rfl
@[simp] theorem Dev.free_setEng (d : Dev) (k : Nat) (e : DmaEng) : (d.setEng k e).free = d.free := rfl

/-! ### `Dev.setDch` -/

@[simp] theorem Dev.regs_setDch (d : Dev) (k n : Nat) (c : DmaChan) : (d.setDch k n c).regs = d.regs := rfl
@[simp] theorem Dev.act_setDch (d : Dev) (k n : Nat) (c : DmaChan) : (d.setDch k n c).act = d.act := rfl
@[simp] theorem Dev.pages_setDch (d : Dev) (k n : Nat) (c : DmaChan) : (d.setDch k n c).pages = d.pages := rfl
@[simp] theorem Dev.stats_setDch (d : Dev) (k n : Nat) (c : DmaChan) : (d.setDch k n c).stats = d.stats := rfl
@[simp] theorem Dev.live_setDch (d : Dev) (k n : Nat) (c : DmaChan) : (d.setDch k n c).live = d.live := rfl
@[simp] theorem Dev.nextc_setDch (d : Dev) (k n : Nat) (c : DmaChan) : (d.setDch k n c).nextc = d.nextc := rfl
@[simp] theorem Dev.sys_setDch (d : Dev) (k n : Nat) (c : DmaChan) : (d.setDch k n c).sys = d.sys := rfl
@[simp] theorem Dev.boot_setDch (d : Dev) (k n : Nat) (c : DmaChan) : (d.setDch k n c).boot = d.boot := rfl
@[simp] theorem Dev.pwr_setDch (d : Dev) (k n : Nat) (c : DmaChan) : (d.setDch k n c).pwr = d.pwr := rfl
@[simp] theorem Dev.aon_setDch (d : Dev) (k n : Nat) (c : DmaChan) : (d.setDch k n c).aon = d.aon := rfl
@[simp] theorem Dev.time_setDch (d : Dev) (k n : Nat) (c : DmaChan) : (d.setDch k n c).time = d.time := rfl
@[simp] theorem Dev.msp_setDch (d : Dev) (k n : Nat) (c : DmaChan) : (d.setDch k n c).msp = d.msp := rfl
@[simp] theorem Dev.mspSh_setDch (d : Dev) (k n : Nat) (c : DmaChan) : (d.setDch k n c).mspSh = d.mspSh := rfl
@[simp] theorem Dev.monword_setDch (d : Dev) (k n : Nat) (c : DmaChan) : (d.setDch k n c).monword = d.monword := rfl
@[simp] theorem Dev.eth_setDch (d : Dev) (k n : Nat) (c : DmaChan) : (d.setDch k n c).eth = d.eth := rfl
@[simp] theorem Dev.clk_setDch (d : Dev) (k n : Nat) (c : DmaChan) : (d.setDch k n c).clk = d.clk := rfl
@[simp] theorem Dev.lnb_setDch (d : Dev) (k n : Nat) (c : DmaChan) : (d.setDch k n c).lnb = d.lnb := rfl
@[simp] theorem Dev.plt_setDch (d : Dev) (k n : Nat) (c : DmaChan) : (d.setDch k n c).plt = d.plt := rfl
@[simp] theorem Dev.run_setDch (d : Dev) (k n : Nat) (c : DmaChan) : (d.setDch k n c).run = d.run := rfl
@[simp] theorem Dev.ing_setDch (d : Dev) (k n : Nat) (c : DmaChan) : (d.setDch k n c).ing = d.ing := rfl
@[simp] theorem Dev.dkl_setDch (d : Dev) (k n : Nat) (c : DmaChan) : (d.setDch k n c).dkl = d.dkl := rfl
@[simp] theorem Dev.hat_setDch (d : Dev) (k n : Nat) (c : DmaChan) : (d.setDch k n c).hat = d.hat := rfl
@[simp] theorem Dev.acc_setDch (d : Dev) (k n : Nat) (c : DmaChan) : (d.setDch k n c).acc = d.acc := rfl
@[simp] theorem Dev.bmf_setDch (d : Dev) (k n : Nat) (c : DmaChan) : (d.setDch k n c).bmf = d.bmf := rfl
@[simp] theorem Dev.trg_setDch (d : Dev) (k n : Nat) (c : DmaChan) : (d.setDch k n c).trg = d.trg := rfl
@[simp] theorem Dev.pair_setDch (d : Dev) (k n : Nat) (c : DmaChan) : (d.setDch k n c).pair = d.pair := rfl
@[simp] theorem Dev.bur_setDch (d : Dev) (k n : Nat) (c : DmaChan) : (d.setDch k n c).bur = d.bur := rfl
@[simp] theorem Dev.mctl_setDch (d : Dev) (k n : Nat) (c : DmaChan) : (d.setDch k n c).mctl = d.mctl := rfl
@[simp] theorem Dev.fab_setDch (d : Dev) (k n : Nat) (c : DmaChan) : (d.setDch k n c).fab = d.fab := rfl
@[simp] theorem Dev.hif_setDch (d : Dev) (k n : Nat) (c : DmaChan) : (d.setDch k n c).hif = d.hif := rfl
@[simp] theorem Dev.dma_setDch (d : Dev) (k n : Nat) (c : DmaChan) : (d.setDch k n c).dma = Tab.set {} d.dma k { d.eng k with chans := Tab.set {} (d.eng k).chans n c } := rfl
@[simp] theorem Dev.mmu_setDch (d : Dev) (k n : Nat) (c : DmaChan) : (d.setDch k n c).mmu = d.mmu := rfl
@[simp] theorem Dev.mem_setDch (d : Dev) (k n : Nat) (c : DmaChan) : (d.setDch k n c).mem = d.mem := rfl
@[simp] theorem Dev.free_setDch (d : Dev) (k n : Nat) (c : DmaChan) : (d.setDch k n c).free = d.free := rfl

/-! ### `Dev.setSubst` -/

@[simp] theorem Dev.regs_setSubst (d : Dev) (c : Nat) (l : List Nat) : (d.setSubst c l).regs = d.regs := rfl
@[simp] theorem Dev.act_setSubst (d : Dev) (c : Nat) (l : List Nat) : (d.setSubst c l).act = d.act := rfl
@[simp] theorem Dev.pages_setSubst (d : Dev) (c : Nat) (l : List Nat) : (d.setSubst c l).pages = d.pages := rfl
@[simp] theorem Dev.stats_setSubst (d : Dev) (c : Nat) (l : List Nat) : (d.setSubst c l).stats = d.stats := rfl
@[simp] theorem Dev.live_setSubst (d : Dev) (c : Nat) (l : List Nat) : (d.setSubst c l).live = d.live := rfl
@[simp] theorem Dev.nextc_setSubst (d : Dev) (c : Nat) (l : List Nat) : (d.setSubst c l).nextc = d.nextc := rfl
@[simp] theorem Dev.sys_setSubst (d : Dev) (c : Nat) (l : List Nat) : (d.setSubst c l).sys = d.sys := rfl
@[simp] theorem Dev.boot_setSubst (d : Dev) (c : Nat) (l : List Nat) : (d.setSubst c l).boot = d.boot := rfl
@[simp] theorem Dev.pwr_setSubst (d : Dev) (c : Nat) (l : List Nat) : (d.setSubst c l).pwr = d.pwr := rfl
@[simp] theorem Dev.aon_setSubst (d : Dev) (c : Nat) (l : List Nat) : (d.setSubst c l).aon = d.aon := rfl
@[simp] theorem Dev.time_setSubst (d : Dev) (c : Nat) (l : List Nat) : (d.setSubst c l).time = d.time := rfl
@[simp] theorem Dev.msp_setSubst (d : Dev) (c : Nat) (l : List Nat) : (d.setSubst c l).msp = d.msp := rfl
@[simp] theorem Dev.mspSh_setSubst (d : Dev) (c : Nat) (l : List Nat) : (d.setSubst c l).mspSh = d.mspSh := rfl
@[simp] theorem Dev.monword_setSubst (d : Dev) (c : Nat) (l : List Nat) : (d.setSubst c l).monword = d.monword := rfl
@[simp] theorem Dev.eth_setSubst (d : Dev) (c : Nat) (l : List Nat) : (d.setSubst c l).eth = d.eth := rfl
@[simp] theorem Dev.clk_setSubst (d : Dev) (c : Nat) (l : List Nat) : (d.setSubst c l).clk = d.clk := rfl
@[simp] theorem Dev.lnb_setSubst (d : Dev) (c : Nat) (l : List Nat) : (d.setSubst c l).lnb = d.lnb := rfl
@[simp] theorem Dev.plt_setSubst (d : Dev) (c : Nat) (l : List Nat) : (d.setSubst c l).plt = d.plt := rfl
@[simp] theorem Dev.run_setSubst (d : Dev) (c : Nat) (l : List Nat) : (d.setSubst c l).run = d.run := rfl
@[simp] theorem Dev.ing_setSubst (d : Dev) (c : Nat) (l : List Nat) : (d.setSubst c l).ing = d.ing := rfl
@[simp] theorem Dev.dkl_setSubst (d : Dev) (c : Nat) (l : List Nat) : (d.setSubst c l).dkl = { d.dkl with subst := Tab.set none d.dkl.subst c (some l) } := rfl
@[simp] theorem Dev.hat_setSubst (d : Dev) (c : Nat) (l : List Nat) : (d.setSubst c l).hat = d.hat := rfl
@[simp] theorem Dev.acc_setSubst (d : Dev) (c : Nat) (l : List Nat) : (d.setSubst c l).acc = d.acc := rfl
@[simp] theorem Dev.bmf_setSubst (d : Dev) (c : Nat) (l : List Nat) : (d.setSubst c l).bmf = d.bmf := rfl
@[simp] theorem Dev.trg_setSubst (d : Dev) (c : Nat) (l : List Nat) : (d.setSubst c l).trg = d.trg := rfl
@[simp] theorem Dev.pair_setSubst (d : Dev) (c : Nat) (l : List Nat) : (d.setSubst c l).pair = d.pair := rfl
@[simp] theorem Dev.bur_setSubst (d : Dev) (c : Nat) (l : List Nat) : (d.setSubst c l).bur = d.bur := rfl
@[simp] theorem Dev.mctl_setSubst (d : Dev) (c : Nat) (l : List Nat) : (d.setSubst c l).mctl = d.mctl := rfl
@[simp] theorem Dev.fab_setSubst (d : Dev) (c : Nat) (l : List Nat) : (d.setSubst c l).fab = d.fab := rfl
@[simp] theorem Dev.hif_setSubst (d : Dev) (c : Nat) (l : List Nat) : (d.setSubst c l).hif = d.hif := rfl
@[simp] theorem Dev.dma_setSubst (d : Dev) (c : Nat) (l : List Nat) : (d.setSubst c l).dma = d.dma := rfl
@[simp] theorem Dev.mmu_setSubst (d : Dev) (c : Nat) (l : List Nat) : (d.setSubst c l).mmu = d.mmu := rfl
@[simp] theorem Dev.mem_setSubst (d : Dev) (c : Nat) (l : List Nat) : (d.setSubst c l).mem = d.mem := rfl
@[simp] theorem Dev.free_setSubst (d : Dev) (c : Nat) (l : List Nat) : (d.setSubst c l).free = d.free := rfl

/-! ### `Dev.setPageIn` -/

@[simp] theorem Dev.regs_setPageIn (d : Dev) (x : PageIn) : (d.setPageIn x).regs = d.regs := rfl
@[simp] theorem Dev.act_setPageIn (d : Dev) (x : PageIn) : (d.setPageIn x).act = d.act := rfl
@[simp] theorem Dev.pages_setPageIn (d : Dev) (x : PageIn) : (d.setPageIn x).pages = d.pages := rfl
@[simp] theorem Dev.stats_setPageIn (d : Dev) (x : PageIn) : (d.setPageIn x).stats = d.stats := rfl
@[simp] theorem Dev.live_setPageIn (d : Dev) (x : PageIn) : (d.setPageIn x).live = d.live := rfl
@[simp] theorem Dev.nextc_setPageIn (d : Dev) (x : PageIn) : (d.setPageIn x).nextc = d.nextc := rfl
@[simp] theorem Dev.sys_setPageIn (d : Dev) (x : PageIn) : (d.setPageIn x).sys = d.sys := rfl
@[simp] theorem Dev.boot_setPageIn (d : Dev) (x : PageIn) : (d.setPageIn x).boot = d.boot := rfl
@[simp] theorem Dev.pwr_setPageIn (d : Dev) (x : PageIn) : (d.setPageIn x).pwr = d.pwr := rfl
@[simp] theorem Dev.aon_setPageIn (d : Dev) (x : PageIn) : (d.setPageIn x).aon = d.aon := rfl
@[simp] theorem Dev.time_setPageIn (d : Dev) (x : PageIn) : (d.setPageIn x).time = d.time := rfl
@[simp] theorem Dev.msp_setPageIn (d : Dev) (x : PageIn) : (d.setPageIn x).msp = d.msp := rfl
@[simp] theorem Dev.mspSh_setPageIn (d : Dev) (x : PageIn) : (d.setPageIn x).mspSh = d.mspSh := rfl
@[simp] theorem Dev.monword_setPageIn (d : Dev) (x : PageIn) : (d.setPageIn x).monword = d.monword := rfl
@[simp] theorem Dev.eth_setPageIn (d : Dev) (x : PageIn) : (d.setPageIn x).eth = d.eth := rfl
@[simp] theorem Dev.clk_setPageIn (d : Dev) (x : PageIn) : (d.setPageIn x).clk = d.clk := rfl
@[simp] theorem Dev.lnb_setPageIn (d : Dev) (x : PageIn) : (d.setPageIn x).lnb = d.lnb := rfl
@[simp] theorem Dev.plt_setPageIn (d : Dev) (x : PageIn) : (d.setPageIn x).plt = d.plt := rfl
@[simp] theorem Dev.run_setPageIn (d : Dev) (x : PageIn) : (d.setPageIn x).run = d.run := rfl
@[simp] theorem Dev.ing_setPageIn (d : Dev) (x : PageIn) : (d.setPageIn x).ing = d.ing := rfl
@[simp] theorem Dev.dkl_setPageIn (d : Dev) (x : PageIn) : (d.setPageIn x).dkl = { d.dkl with pages := Tab.set none d.dkl.pages (pageKey x.at_ x.p x.g) (some x) } := rfl
@[simp] theorem Dev.hat_setPageIn (d : Dev) (x : PageIn) : (d.setPageIn x).hat = d.hat := rfl
@[simp] theorem Dev.acc_setPageIn (d : Dev) (x : PageIn) : (d.setPageIn x).acc = d.acc := rfl
@[simp] theorem Dev.bmf_setPageIn (d : Dev) (x : PageIn) : (d.setPageIn x).bmf = d.bmf := rfl
@[simp] theorem Dev.trg_setPageIn (d : Dev) (x : PageIn) : (d.setPageIn x).trg = d.trg := rfl
@[simp] theorem Dev.pair_setPageIn (d : Dev) (x : PageIn) : (d.setPageIn x).pair = d.pair := rfl
@[simp] theorem Dev.bur_setPageIn (d : Dev) (x : PageIn) : (d.setPageIn x).bur = d.bur := rfl
@[simp] theorem Dev.mctl_setPageIn (d : Dev) (x : PageIn) : (d.setPageIn x).mctl = d.mctl := rfl
@[simp] theorem Dev.fab_setPageIn (d : Dev) (x : PageIn) : (d.setPageIn x).fab = d.fab := rfl
@[simp] theorem Dev.hif_setPageIn (d : Dev) (x : PageIn) : (d.setPageIn x).hif = d.hif := rfl
@[simp] theorem Dev.dma_setPageIn (d : Dev) (x : PageIn) : (d.setPageIn x).dma = d.dma := rfl
@[simp] theorem Dev.mmu_setPageIn (d : Dev) (x : PageIn) : (d.setPageIn x).mmu = d.mmu := rfl
@[simp] theorem Dev.mem_setPageIn (d : Dev) (x : PageIn) : (d.setPageIn x).mem = d.mem := rfl
@[simp] theorem Dev.free_setPageIn (d : Dev) (x : PageIn) : (d.setPageIn x).free = d.free := rfl

/-! ### Reading after writing -/

@[simp] theorem Dev.mport_setMport (d : Dev) (c k : Nat) (x : MspPort) : (d.setMport c x).mport k = if k = c then x else d.mport k := by
  unfold Dev.mport Dev.setMport; exact Tab.get_set _ _ _ _ _
@[simp] theorem Dev.eport_setEport (d : Dev) (c k : Nat) (x : EthPort) : (d.setEport c x).eport k = if k = c then x else d.eport k := by
  unfold Dev.eport Dev.setEport; exact Tab.get_set _ _ _ _ _
@[simp] theorem Dev.ref_setRef (d : Dev) (c k : Nat) (x : Ref) : (d.setRef c x).ref k = if k = c then x else d.ref k := by
  unfold Dev.ref Dev.setRef; exact Tab.get_set _ _ _ _ _
@[simp] theorem Dev.outp_setOut (d : Dev) (c k : Nat) (x : OutSt) : (d.setOut c x).outp k = if k = c then x else d.outp k := by
  unfold Dev.outp Dev.setOut; exact Tab.get_set _ _ _ _ _
@[simp] theorem Dev.eng_setEng (d : Dev) (c k : Nat) (x : DmaEng) : (d.setEng c x).eng k = if k = c then x else d.eng k := by
  unfold Dev.eng Dev.setEng; exact Tab.get_set _ _ _ _ _

/-- A channel of an engine after a channel has taken a value. -/
@[simp] theorem Dev.dch_setDch (d : Dev) (k n : Nat) (c : DmaChan) : (d.setDch k n c).dch k n = c := by
  unfold Dev.dch Dev.eng Dev.setDch; simp

end Sys2Proof.Machine
end

