-- ==== Sys2Proof/WellFormed.lean ====
section
/-! DEFINITION. Which commands the outside can give: what the types of the operands do not say. `exec` is total, so an
ill-formed command has some effect; nothing is claimed of it. -/

namespace Sys2Proof

/-- A shift of ACCOP by at most 40 either way (R273). -/
def shiftOk : Machine.BAcc → Bool
  | .shift k => decide (-40 ≤ k ∧ k ≤ 40)
  | _ => true

/-- A LOOP with an immediate count has a body length of eight bits (R273). -/
def loopOk : Machine.BCount → BitVec 16 → Bool
  | .imm _, len => decide (len.toNat < 256)
  | .reg _, _ => true

/-- The command is one that can occur. -/
def Instr.wellFormed : Instr → Bool
  | .start _ => true
  | .stop => true
  | .quiesce => true
  | .estop => true
  | .latch => true
  | .build => true
  | .proof => true
  | .arm => true
  | .selftest => true
  | .retrainMem => true
  | .thaw => true
  | .handover => true
  | .resyncTime => true
  | .commandTimeout => true
  | .registerWrite _ off _ => decide (off.toNat % 4 = 0)
  | .misalignedAccess _ off len _ => !(off.toNat % 4 == 0 && len.val == 4) && decide (0 < len.val)
  | .reservedPageAccess page _ _ => !Machine.pageExists page
  | .errlogPop => true
  | .mbxoutPop _ => true
  | .faultlogPop => true
  | .sfnNowRead _ _ => true
  | .perrclrWrite _ => true
  | .pirqClear _ _ => true
  | .pirqsetWrite _ _ => true
  | .pcommit _ _ _ => true
  | .commitApply _ => true
  | .shadowUnlock _ => true
  | .pctlEnWrite _ _ _ => true
  | .pctlSrst _ => true
  | .mladefIslandReset _ => true
  | .watchdogExpire => true
  | .recoveryComplete => true
  | .wdogFire => true
  | .irqmapWrite _ _ => true
  | .powerOnReset => true
  | .porstRelease => true
  | .linkReset _ => true
  | .pcieLinkUp _ _ _ => true
  | .imgdataWrite _ => true
  | .imgctlClr _ => true
  | .imgctlGo _ => true
  | .imageVerifyDone _ _ => true
  | .bringupComplete => true
  | .bringupRefTimeout => true
  | .supplySample _ _ _ => true
  | .shedFall => true
  | .supplyReset _ => true
  | .supplyHoldRelease => true
  | .tempSample _ _ => true
  | .shedreqWrite _ => true
  | .estopNEdge => true
  | .estopAssert => true
  | .estopRelease => true
  | .aonNop _ => true
  | .aonRead _ _ _ => true
  | .aonEstop _ => true
  | .aonRelease _ => true
  | .aonSnaptake _ => true
  | .aonSnapclr _ => true
  | .aonWdreset _ _ => true
  | .aonSetshed _ _ => true
  | .aonReadsnap _ _ => true
  | .i3cPrivateWrite _ _ => true
  | .i3cPrivateRead => true
  | .i3cCcc _ => true
  | .snapTake => true
  | .snapClear => true
  | .snapshotDone => true
  | .memoryFreeze _ addr _ => decide (addr.toNat < Machine.memBytes)
  | .frzforce _ => true
  | .thawCheckDone _ _ _ _ => true
  | .patrolScrub _ => true
  | .refreshRatePoll temps => decide (temps.length = 10)
  | .memoryChannelStale _ _ _ => true
  | .memoryTrainingDone _ bad _ _ _ => bad.all fun a => decide (a.toNat < Machine.memBytes)
  | .retrainDone _ => true
  | .excladd _ => true
  | .injctlWrite _ => true
  | .selftestDone _ bad _ => bad.all fun a => decide (a.toNat < Machine.memBytes)
  | .quiesceDone => true
  | .signalDetect _ => true
  | .electricalIdle _ => true
  | .laneBringupTimeout _ => true
  | .adaptDone _ _ _ _ => true
  | .syncHeader _ _ => true
  | .markerRx _ _ payload => decide (payload.length = 8)
  | .frameDelineate _ blks => decide (blks.length ≤ 519)
  | .retune _ => true
  | .eyeRefresh _ _ _ _ _ => true
  | .markerSend _ => true
  | .idleFrameSend _ => true
  | .lanePowerDown _ => true
  | .sampleFrameRx _ fr => decide (fr.length ≤ 4144)
  | .trigFrameRx _ fr => decide (fr.length ≤ 4144)
  | .idleFrameRx _ fr => decide (fr.length ≤ 4144)
  | .laneqRelease _ _ => true
  | .bindhiWrite _ => true
  | .mackeyLoad _ => true
  | .mackeyClear _ => true
  | .frameSetClose _ _ _ _ => true
  | .sheetComplete => true
  | .statisticsLatch => true
  | .stopBoundary => true
  | .plateTakeover => true
  | .pageSlotAssign _ _ _ => true
  | .pageConsume _ _ _ => true
  | .cornerTurnStage _ _ _ => true
  | .captureRecordWrite _ => true
  | .dklRelease _ => true
  | .caprdWrite _ => true
  | .passRun _ => true
  | .qmaskSet _ _ => true
  | .channelAdd _ => true
  | .addWindowExpire _ => true
  | .suspectFlagsClose => true
  | .recordFinished => true
  | .accRelease _ => true
  | .beamFrameSend _ _ => true
  | .forwardFrame _ => true
  | .bmfTableWrite _ _ l => decide (0 < l.length ∧ l.length ≤ 4096)
  | .stgrdWrite _ => true
  | .triggerSampleEval _ => true
  | .swDeadline => true
  | .triginEdge _ _ => true
  | .trigoutPulseEnd _ => true
  | .logEntryWrite => true
  | .trgTableWrite _ _ l => decide (0 < l.length ∧ l.length ≤ 4096)
  | .logrdWrite _ => true
  | .buildDone => true
  | .proofDone => true
  | .disarm => true
  | .plateSlotWrite _ off l => decide (0 < l.length ∧ off.toNat + l.length ≤ 2 ^ 26)
  | .burinActivation _ => true
  | .burinTimer _ => true
  | .burinIrqTaken _ => true
  | .cmtGo _ _ => true
  | .swPost _ => true
  | .xfGo _ _ => true
  | .xfDone _ => true
  | .mbxinPortRead _ => true
  | .burinReloadDone => true
  | .cctlHalt _ _ => true
  | .cctlStep _ => true
  | .cctlCreset _ => true
  | .mbxinWrite _ _ => true
  | .nopOp _ => true
  | .addOp _ _ _ _ => true
  | .subOp _ _ _ _ => true
  | .addsOp _ _ _ _ => true
  | .subsOp _ _ _ _ => true
  | .andOp _ _ _ _ => true
  | .orOp _ _ _ _ => true
  | .xorOp _ _ _ _ => true
  | .shlOp _ _ _ _ => true
  | .shraOp _ _ _ _ => true
  | .shrlOp _ _ _ _ => true
  | .cmpOp _ _ _ => true
  | .minOp _ _ _ _ => true
  | .maxOp _ _ _ _ => true
  | .absOp _ _ _ _ => true
  | .mpyOp _ _ _ _ _ => true
  | .macOp _ _ _ _ _ _ => true
  | .accopOp _ _ op => shiftOk op
  | .mvaOp _ _ _ => true
  | .mvrOp _ _ _ _ => true
  | .getaOp _ _ _ _ => true
  | .putaOp _ _ _ _ => true
  | .ldOp _ _ _ _ _ => true
  | .stOp _ _ _ _ _ => true
  | .ldiOp _ _ _ => true
  | .mvxOp _ _ _ _ => true
  | .brOp _ _ _ => true
  | .callOp _ _ => true
  | .retOp _ => true
  | .loopOp _ n len => loopOk n len
  | .rtiOp _ => true
  | .waitOp _ => true
  | .sigOp _ _ => true
  | .flagOp _ _ _ _ => true
  | .brkOp _ => true
  | .dmaStart _ _ => true
  | .dmaResume _ _ => true
  | .dmaAbort _ _ => true
  | .descCopy _ _ host _ => Machine.Memory.wf host
  | .descFill _ _ host _ => Machine.Memory.wf host
  | .descCompare _ _ host _ => Machine.Memory.wf host
  | .readbackDone _ => true
  | .chainPreempt _ host _ => Machine.Memory.wf host
  | .invalidateContext _ => true
  | .invalidatePage _ => true
  | .invalidateAll => true
  | .invalidationDone => true
  | .hostInboundRead _ len _ _ => decide (0 < len.val)
  | .hostInboundWrite _ l _ => decide (0 < l.length ∧ l.length ≤ 4096)
  | .atomicAdd a wide _ => decide (a.toNat % (if wide then 8 else 4) = 0)
  | .atomicSwap a wide _ => decide (a.toNat % (if wide then 8 else 4) = 0)
  | .fabricTimeout _ => true
  | .lateResponse => true
  | .portDrainTimeout _ => true
  | .pcieCompletionTimeout _ _ => true
  | .referenceEdge _ _ _ _ _ => true
  | .referenceEdgeMissing _ => true
  | .referenceQualified _ => true
  | .switchComplete => true
  | .disagreeCheck _ _ _ _ => true
  | .loopctlSwWrite _ => true
  | .freqadjWrite _ => true
  | .phstepWrite _ => true
  | .outalignWrite _ => true
  | .alignmentEdge _ => true
  | .outcfgWrite _ _ => true
  | .syncoutPulse _ => true
  | .snap => true
  | .basecfgWrite _ => true
  | .masterMeasurement _ _ _ => true
  | .sampleSlewDone => true
  | .almctlWrite _ _ => true
  | .alarmFire _ => true
  | .ptpMessageRx _ _ _ => true
  | .ethFrameDrop _ => true
  | .ptpEventTx _ _ _ => true
  | .ethLinkChange _ _ => true
  | .mspFrameStart _ _ => true
  | .mspClkloss _ => true
  | .monwordWrite _ _ => true
  | .heartbeatSend => true
  | .grantSend => true
  | .digestSend => true
  | .ctrlRetransmit => true
  | .heartbeatRx _ fr => decide (fr.length = 128)
  | .grantRx _ fr => decide (fr.length = 128)
  | .handoffRx _ fr => decide (fr.length = 128)
  | .ticketRx _ fr => decide (fr.length = 128)
  | .commandRx _ fr => decide (fr.length = 128)
  | .threshRx _ fr => decide (fr.length = 128)
  | .watermarkRx _ fr => decide (fr.length = 128)
  | .ackRx _ fr => decide (fr.length = 128)
  | .digestRx _ fr => decide (fr.length = 128)
  | .watermarkCompareTimeout => true
  | .ownInChange _ => true
  | .handoffTimeout => true
  | .ownerSilenceTimeout => true
  | .pairLinkDown => true
  | .leaseExpire => true
  | .leaseSilenceTakeover => true
  | .interlockFault => true
  | .ilreset => true
  | .leaseModeExit => true
  | .perstNRelease => true
  | .trigFrameSend => true
  | .resumingBoundary => true
  | .handoffSend => true
  | .estopNRise => true

end Sys2Proof
end

