-- ==== Sys2Proof/Tests/Slice0.lean ====
section
/-! SUPPORT. A state that meets the hypotheses of each statement (`witness_<statement>`), a term that each check of
`WellFormed` refuses, and the spec's own check values and worked examples. -/

namespace Sys2Proof.Tests
open Machine
-- one theorem after another: each waits for the kernel, and many that wait at once need much memory
set_option Elab.async false

/-- A device whose pages are all started and enabled, with the host's link up and memory serving. -/
def up (s : DevState) : Dev :=
  { sys := { state := s }, boot := { linkUp := true, perstLow := false }, mctl := { mstat := .run }
    pages := pageList.map fun p => (p, { en := true, started := true }) }

/-- A state with nothing pending. -/
def st (d : Dev) : State := { dev := d }

theorem witness_EveryStepKeepsMemoryForm :
    (∃ t, step { dev := up .idle, pending := [.latch] } = .next t) ∧ Memory.wf (up .idle).mem = true := ⟨⟨_, rfl⟩, by decide⟩

theorem witness_EstopStaysInForce :
    (∃ t, exec .estopNRise (st { up .idle with aon.estop.active := true, aon.estop.landLow := true }) = .next t) ∧
      ({ up .idle with aon.estop.active := true, aon.estop.landLow := true } : Dev).aon.estop.active = true := ⟨⟨_, rfl⟩, by decide⟩

theorem witness_LocalTimeIsNeverStepped :
    (∃ t, exec .latch (st (up .idle)) = .next t) ∧ (∃ t, exec (.supplyReset 0) (st (up .idle)) = .next t) ∧
      ∃ t, step (st (up .idle)) = .next t := ⟨⟨_, rfl⟩, ⟨_, rfl⟩, ⟨_, rfl⟩⟩

/-- A device in IDLE with a plate, SAMPLE valid, and a START requested at SFN `a`. -/
def toStart (a : Word) : Dev := { up .idle with time.baseSmp.state := .tracking, plt.active := some {} }.setReg (bar pgSYS 0x100C) a

/-- The least start SFN that is not too near is W ahead. -/
theorem witness_StartEntersRunning :
    (toStart 0x800000).cmdPasses 0x10 ∧ (toStart 0x800000).startErrs false = [] ∧ (toStart 0x800000).startReq.kslog ≤ 48 := by
  unfold Dev.cmdPasses; decide +kernel

theorem witness_StopAndQuiesceEndTheRun :
    ((up .running).cmdPasses 0x11 ∧ (up .running).stopErrs = []) ∧ (up .running).cmdPasses 0x12 := by
  unfold Dev.cmdPasses; decide +kernel

theorem witness_LatchPerformsTheStatisticsLatch : (up .idle).cmdPasses 0x20 := by unfold Dev.cmdPasses; decide +kernel

/-- A device whose staged slot holds a plate in a state. -/
def staged (s : DevState) (k : SlotState) : Dev := { up s with plt.staged := k, plt.stagedP := some {} }

theorem witness_PlateCommandsMoveTheStagedSlot :
    ((up .idle).cmdPasses 0x30 ∧ (up .idle).buildErrs false = []) ∧
    ((staged .idle .loaded).cmdPasses 0x31 ∧ (staged .idle .loaded).buildErrs true = []) ∧
    ((staged .idle .proofed).cmdPasses 0x32 ∧ (staged .idle .proofed).pair.state.standby = false ∧
      ((staged .idle .proofed).armErrs ((staged .idle .proofed).cmdArg 0)).1 = [] ∧ (staged .idle .proofed).armRoleErrs = []) ∧
    ((staged .idle .armed).takes pgPLT 0x1028 = true ∧ (staged .idle .armed).plt.staged = .armed) := by
  unfold Dev.cmdPasses; decide +kernel

/-- The owner of a pair whose partner has shown itself eligible. -/
def owner : Dev := { up .running with pair.state := .owner, pair.ownOut := true, pair.linkUp := true, pair.hbAt := some 0, pair.peerP := 0x20 }


theorem witness_OtherSysCommandsTakeEffect :
    ((up .idle).cmdPasses 0x40 ∧ (up .idle).selftestErrs = []) ∧ ((up .idle).cmdPasses 0x50 ∧ (up .idle).retrainErrs = []) ∧
    ((up .frozen).cmdPasses 0x60 ∧ (up .frozen).thawErrs = []) ∧ (owner.cmdPasses 0x70 ∧ owner.handoverErrs = []) ∧
    let d := { up .idle with time.baseArr.cfg := 1 }
    d.cmdPasses 0x71 ∧ (d.cmdArg 0).toNat = 0 ∧ d.resyncErrs 0 = [] := by
  unfold Dev.cmdPasses; decide +kernel

theorem witness_RefusedAndTimedOutCommands :
    (sysCode .stop = some 0x11 ∧ (up .idle).sys.cmdPend = none ∧ (up .idle).takes pgSYS 0x1008 = true ∧
      (up .idle).cmdRefused 0x11 = some eSTATE ∧ eSTATE ≠ eOK) ∧
    let d := { up .idle with sys.cmdPend := some (0x20, 0), time.loc := 10000000 }
    d.sys.cmdPend = some (0x20, 0) ∧ 10 ^ 7 ≤ (d.time.loc - 0).toNat := by decide +kernel

theorem witness_EstopComesAndEnds :
    ((up .idle).cmdPasses 0x13 ∧ (up .idle).sys.state ≠ .off) ∧ (up .idle).takes pgAON 0x101C = true ∧
    ((up .idle).aonReach true = true ∧ (up .idle).aonReach false = true) ∧
    let d := { up .idle with aon.estop.active := true }
    d.takes pgAON 0x101C = true ∧ d.aon.estop.landLow = false ∧ d.aon.estop.active = true ∧ d.aonReach true = true ∧
      d.aonReach false = true := by
  unfold Dev.cmdPasses; decide +kernel

/-- A page that is not started. -/
def unstarted (p : Nat) : Dev := (up .idle).setPage p {}

theorem witness_RegisterWritesTakeOrAreRejected :
    ((up .idle).takes pgSYS 0x100C = true ∧ (up .idle).takes pgSYS (0x100C + 4 * 3) = true ∧
      (up .idle).sys.cmdstat.busy = false) ∧
    ((up .idle).takes pgING 0x1C = true ∧ (0xF : Word) &&& pirqRsvd pgING = 0) ∧
    ((0x1000 : BitVec 16).toNat % 4 = 0 ∧ 0x100 ≤ (0x1000 : BitVec 16).toNat ∧ (unstarted pgING).reaches pgING 0x1000 true = true ∧
      ((unstarted pgING).page pgING).started = false) ∧
    ((up .idle).takes pgING 0x100 = true ∧ (up .idle).takes pgING 0xFFC = true) := by decide +kernel

theorem witness_MisalignedAndReservedAccesses :
    (¬ ((0x1002 : BitVec 16).toNat % 4 = 0 ∧ 4 = 4) ∧ (up .idle).reaches pgSYS ((0x1002 : BitVec 16).toNat / 4 * 4) true = true) ∧
    (¬ ((0xFFFF : BitVec 16).toNat % 4 = 0 ∧ 64 = 4) ∧ (up .idle).reaches pgSYS ((0xFFFF : BitVec 16).toNat / 4 * 4) false = true) ∧
    (pageExists 0x0E = false ∧ pageExists 0xFF = false ∧ (up .idle).hostUp = true) := by decide +kernel

theorem witness_PopsAndSfnReads :
    (let d := { up .idle with sys.errlog := [{ page := 0, code := eSTATE, word := 0x402, event := false, time := 0 }] };
      d.reads pgSYS = true ∧ d.sys.errlog ≠ []) ∧
    ((up .idle).reads pgSYS = true ∧ (up .idle).sys.errlog = []) ∧
    (let d := (up .idle).setCore 63 { mbxOut := [7] };
      d.reads (burPage 63) = true ∧ (d.core 63).mbxOut = [7]) ∧
    (let d := { up .idle with mmu.log := [{ ctx := 1, chan := 2, eng := 3, cause := 7, write := true, va := 0 }] };
      d.reads pgMMU = true ∧ d.mmu.log ≠ []) ∧
    let d := { up .idle with sys.sfnLatch := [(2, some 9)] }
    d.reads pgSYS = true ∧ Tab.get none d.sys.sfnLatch 2 = some 9 := by decide +kernel

theorem witness_InterruptRegisterWrites :
    (up .idle).takes pgING 0x14 = true ∧
    ((up .idle).takes pgING 0x18 = true ∧ (up .idle).calm = true ∧ (0xF : Word) &&& pirqRsvd pgING = 0) ∧
    (up .idle).takes pgING 0x20 = true ∧
    let d := ((up .idle).setPage pgING { en := true, started := true, pirq := 1, pirqen := 1 }).setReg (bar pgHIF 0x405C) 0
    d.takes pgSYS (0x1800 + 4 * pgING) = true ∧ d.calm = true ∧ pageExists pgING = true ∧ 5 ≠ d.vector pgING ∧
      (d.page pgING).isPending = true ∧ d.canSend pgING = true ∧ bitAt 0 (d.reg (bar pgHIF (0x4000 + 16 * 5 + 12))) = false := by
  decide +kernel

/-- A device in a run that began at SFN 0 with the smallest plate. -/
def inRun : Dev :=
  { up .running with run.live := true, plt.active := some {}, time.baseSmp.state := .tracking }

theorem witness_TicketsArmApplyAndUnlock :
    ((up .idle).takes pgBMF 0x28 = true ∧ hasShadow pgBMF = true ∧ (up .idle).grantHeld 0 = false ∧
      (mirrors pgBMF && (up .idle).pair.state.standby) = false ∧
      (up .idle).ticketErrs pgBMF 1 0 ((up .idle).ticketTarget 0) = []) ∧
    (inRun.takes pgMSP 0x28 = true ∧ inRun.ticketErrs pgMSP 1 3 (inRun.ticketTarget 3) = []) ∧
    (let d := (up .idle).setPage pgBMF { en := true, started := true, armed := some { num := 1, when := 2, target := 0 }, locked := true };
      d.unitOn pgBMF = true ∧ (d.page pgBMF).armed.isSome = true ∧ atOrAfter d.time.sfn 0 = true) ∧
    let d := (up .idle).setPage pgBMF { en := true, started := true, locked := true, lastTicket := 1 }
    d.unitOn pgBMF = true ∧ (d.page pgBMF).locked = true ∧ (d.page pgBMF).armed = none ∧ d.switched pgBMF = true := by
  decide +kernel

theorem witness_PageControlEnablesAndResets :
    ((up .idle).takes pgING 8 = true ∧ (up .idle).pctlErrs pgING (bit 0 false ||| bit 2 true) = [] ∧
      (up .idle).pctlErrs pgSYS (bit 0 true ||| bit 2 true) = []) ∧
    [pgING, pgDKL, pgHAT, pgACC, pgBMF, pgMMU, pgMSP, pgTRG, pgSYS].all (fun p => (up .idle).takes p 8 &&
      ((up .idle).pctlErrs p (2 ||| bit 0 ((up .idle).page p).en ||| bit 2 ((up .idle).page p).irqOnErr)).isEmpty) = true ∧
    ((up .recovery).takes pgTIME 8 = true ∧
      (up .recovery).pctlErrs pgTIME (2 ||| bit 0 ((up .recovery).page pgTIME).en ||| bit 2 ((up .recovery).page pgTIME).irqOnErr) = []) ∧
    (up .idle).sys.state.booted = true := by decide +kernel

/-- A device that waits for its image, with the host's link up. -/
def waiting : Dev := up .imageWait

theorem witness_ModuleResetsKeepAonAndClk :
    (up .idle).sys.state ≠ .off ∧ (up .idle).aonReach true = true ∧ (up .idle).aonReach false = true ∧
    let d := { up .idle with boot.wdTimeout := 100 }
    d.takes pgAON 0x1018 = true ∧ 100 ≤ d.boot.wdTimeout.toNat ∧ d.boot.wdTimeout.toNat ≤ 60000 := by decide +kernel

theorem witness_PowerOnAndSupplyResets :
    ({ boot := { porstLow := true } } : Dev).boot.porstLow = true ∧
    (let d := { up .idle with pwr.lowNs := [(0, some 1001), (8, some 1001)] };
      d.sys.state ≠ .off ∧ d.boot.porstLow = false ∧ d.boot.thermtrip = false ∧
        Tab.get none d.pwr.lowNs 0 = some 1001 ∧ Tab.get none d.pwr.lowNs 8 = some 1001) ∧
    let d := { up .off with boot.hold := true }
    d.boot.hold = true ∧ d.boot.porstLow = false ∧ d.boot.thermtrip = false ∧ d.railsGood = true := by decide +kernel

/-- A device whose watchdog's period has just elapsed. -/
def wdLate (s : DevState) : Dev := { up s with boot.wdEn := true, boot.wdTimeout := 100, time.loc := 100000000 }

/-- No image is retained here; that some retained image passes rests on opaque predicates (log entry 80). -/
theorem witness_MladefResetsRecoverOrEscalate :
    ((up .idle).takes pgSYS 8 = true ∧ (up .idle).sys.state.booted = true ∧ (up .idle).retainedOk = false) ∧
    ((wdLate .idle).wdDue = true ∧ (wdLate .idle).sys.state.booted = true ∧ (wdLate .idle).sys.state ≠ .recovery) ∧
    ((wdLate .recovery).wdDue = true ∧ (wdLate .recovery).sys.state = .recovery) := by decide +kernel

/-- A device in step 5 of bring-up. -/
def step5 (s : DevState) : Dev := { up s with boot.step := 5 }

theorem witness_BringUpCompletes :
    (let d := { step5 .booting with boot.refto := true };
      d.sys.state = .booting ∧ d.inStep5 = true ∧ d.timeReady = true ∧ d.pwr.level < 5) ∧
    (let d := { step5 .recovery with boot.refto := true };
      d.sys.state = .recovery ∧ d.inStep5 = true ∧ d.timeReady = true) ∧
    (let d := { step5 .booting with time.loc := 30000000000 };
      d.inStep5 = true ∧ d.clk.sel = none ∧ 30 * 10 ^ 9 ≤ (d.time.loc - d.boot.step5At).toNat) ∧
    let d := { up .idle with boot.linkUp := false }
    d.boot.perstLow = false ∧ d.boot.porstLow = false ∧ d.boot.linkUp = false ∧ d.sys.state ≠ .off := by decide +kernel

theorem witness_ImagesAreDeliveredAndVerified :
    waiting.takes pgAON 0x100C = true ∧ waiting.takes pgAON 0x1004 = true ∧ waiting.imgErrs = [] ∧
    (let d := { waiting with boot.cause := 1 }; d.sys.state = .imageWait ∧ d.boot.cause = 1) := by decide +kernel

theorem witness_AccessPortsActAndAnswer :
    ((up .idle).aonReach true = true ∧ (up .idle).aonReach false = true ∧ (up .idle).calm = true) ∧
    (pageAlwaysOn 0 = true ∧ pageAlwaysOn 3 = false ∧ (6 : BitVec 3) ≠ 7) ∧
    (let d := { up .idle with aon.i3cIdx := 0x10 }; d.aonReach true = true ∧ d.aon.i3cIdx = 0x10) ∧
    (up .idle).aon.i3cDyn = none := by decide +kernel

theorem witness_SnapshotsAreTakenAndCleared :
    ((up .idle).aonReach true = true ∧ (up .idle).calm = true ∧ (up .idle).aon.valid = false ∧ (up .idle).aon.busy = false ∧
      (up .idle).takes pgAON 0x1020 = true) ∧
    (let d := { up .idle with aon.busy := true }; d.aon.busy = true ∧ d.takes pgAON 0x1020 = true) ∧
    (let d := { up .idle with aon.valid := true }; d.aon.valid = true ∧ d.takes pgAON 0x1020 = true) := by decide +kernel

theorem witness_PowerFollowsItsSamples :
    ((up .idle).boot.porstLow = false ∧ (up .idle).boot.thermtrip = false) ∧
    (let d := { up .idle with pwr.belowAt := some 0, pwr.level := 1, time.loc := 10000000 };
      d.pwr.belowAt = some 0 ∧ 10000000 ≤ (d.time.loc - 0).toNat ∧ d.pwr.level = 0 + 1) ∧
    ((115 : BitVec 8).toInt ≤ 115 ∧ 110 < (111 : BitVec 8).toInt ∧ 100 < (101 : BitVec 8).toInt ∧ (95 : BitVec 8).toInt ≤ 95) ∧
    ((up .idle).takes pgPWR 0x1008 = true ∧ (6 : Word).toNat < 7) ∧
    let d := { up .idle with bmf.stopped := true, bmf.resumeAt := some 0, pwr.portsAt := some 0 }
    d.bmf.stopped = true ∧ d.bmf.resumeAt = some 0 ∧ d.pwr.portsAt = some 0 ∧ atOrAfter d.time.sfn 0 = true := by decide +kernel

theorem witness_ThermalTripTurnsTheModuleOff :
    (up .idle).boot.porstLow = false ∧ (up .idle).boot.thermtrip = false ∧ 115 < (116 : BitVec 8).toInt := by decide +kernel

theorem witness_FreezesStopTheController :
    ((up .idle).unitOn pgMEMC = true ∧ freezeState (up .idle).sys.state = true ∧ (up .idle).mctl.mstat = .run ∧
      (up .idle).memPart = false) ∧
    ((up .recovery).unitOn pgMEMC = true ∧ freezeState (up .recovery).sys.state = true ∧ (up .recovery).memPart = false) ∧
    (let d := { up .frozen with mctl.mstat := .frozen }; d.unitOn pgMEMC = true ∧ d.mctl.mstat = .frozen) ∧
    ((up .idle).takes pgMEMC 0x102C = true ∧ (up .ready).takes pgMEMC 0x102C = true ∧ (up .ready).mctl.mstat = .run) := by
  decide +kernel

theorem witness_ThawEndsInRunOrFreezesAgain :
    (let d := { up .frozen with mctl.mstat := .thawing, mctl.frz.prev := .idle, pwr.level := 4 };
      d.unitOn pgMEMC = true ∧ d.mctl.mstat = .thawing ∧ d.pwr.level < 5 ∧ d.mctl.frz.prev = .idle ∧ d.run.live = false ∧
        d.sys.state = .frozen) := by decide +kernel

theorem witness_MemoryIsKeptUp :
    ((up .idle).unitOn pgMEMC = true ∧ (up .idle).mctl.mstat = .run ∧ bitAt 8 ((up .idle).reg (bar pgMEMC 0x1030)) = true ∧
      (up .idle).mctl.bad = [] ∧ (up .idle).mctl.scrub + 1 < scrubLen ∧ (up .idle).memPart = false) ∧
    (9 < 10 ∧ (List.replicate 10 ((85 : BitVec 8), (85 : BitVec 8)))[9]? = some (85, 85) ∧ 3 < 4 ∧
      (85 : BitVec 8).toInt ≤ (85 : BitVec 8).toInt ∧ (82 : BitVec 8).toInt ≤ (85 : BitVec 8).toInt - 3) ∧
    (let d := (up .idle).setMchan 39 { trained := true }; d.unitOn pgMEMC = true ∧ d.mctl.mstat = .run ∧
      (d.mchan 39).trained = true ∧ 16 ≤ (-16 : BitVec 8).toInt.natAbs) ∧
    ((up .idle).takes pgMEMC 0x1044 = true ∧ (up .idle).exclAddErrs 65536 = []) ∧
    ((up .idle).takes pgMEMC 0x1048 = true ∧ (up .idle).injErrs 0x00230002 = [] ∧ (up .idle).injErrs 0 = []) := by decide +kernel

theorem witness_LongOperationsComplete :
    (let d := { up .booting with boot.step := 2 }; d.sys.state = .booting ∧ d.boot.step = 2 ∧ d.boot.fatal = false ∧
      d.pwr.level < 5 ∧ d.boot.perstLow = false) ∧
    (let d := { up .idle with mctl.mstat := .retrain }; d.unitOn pgMEMC = true ∧ d.mctl.mstat = .retrain ∧ d.pwr.level < 5) ∧
    (up .selftest).sys.state = .selftest ∧ ((up .quiesced).sys.state = .quiesced ∧ (up .quiesced).dkl.caps = []) := by
  decide +kernel

/-- A device with one physical lane as given. -/
def withLane (n : Nat) (x : Lane) : Dev := (up .idle).setLane n x

/-- A marker's payload with QIDX `q` and MSEQ `m` (R319). -/
def marker (q m : Nat) : List Byte :=
  let b : List Byte := [0xD2, 0, 0, BitVec.ofNat 8 q, 0, BitVec.ofNat 8 m]
  b ++ leBytes 2 (crc16 b).toNat

theorem witness_LanesComeUp :
    ((withLane 255 { state := .detect, hasRec := true }).unitOn (lanePage 255) = true ∧
      ((withLane 255 { state := .detect, hasRec := true }).lane 255).state = .detect) ∧
    ((withLane 255 { state := .adapt }).lane 255).state = .adapt ∧
    (let d := withLane 0 { state := .blockhunt, validRun := 63 }; d.unitOn (lanePage 0) = true ∧ (d.lane 0).state = .blockhunt) ∧
    let d := withLane 0 { state := .markerhunt, good := 2, mseq := some 255 }
    d.unitOn (lanePage 0) = true ∧ (d.lane 0).state = .markerhunt ∧ (d.lane 0).invert = false ∧ (d.lane 0).good = 2 ∧
      goodMarker 2 (marker 3 0) (d.lane 0).mseq = true ∧ d.quadTaken 0 (leAt (marker 3 0) 3 1) = false := by decide +kernel

theorem witness_LanesGoDown :
    (let d := withLane 7 { state := .up }; d.unitOn (lanePage 7) = true ∧ (d.lane 7).powered = true) ∧
    (let d := { withLane 7 { state := .adapt } with time.loc := 2000001 };
      d.bringupBound 7 = some 2000000 ∧ 2000000 < (d.time.loc - (d.lane 7).t0).toNat) ∧
    (let d := withLane 7 { state := .up, history := 0x7FFF }; (d.lane 7).state = .up ∧
      16 ≤ popcount ((d.lane 7).history <<< 1 ||| 1)) ∧
    (let d := withLane 7 { state := .up, missed := 3 }; (d.lane 7).invert = false ∧ (d.lane 7).missed = 3 ∧
      goodMarker 1 (marker 0 0) (d.lane 7).mseq = false) ∧
    (let d := withLane 7 { state := .up }; d.takes (lanePage 7) (0x1100 + 0x40 * (7 % 16)) = true ∧ d.calm = true ∧
      d.reg (laneAddr 7 0) = 0 ∧ d.lctlErrs 7 1 = []) ∧
    let d := withLane 7 { state := .up, downAt := some 0 }
    (d.lane 7).downAt = some 0 ∧ atOrAfter d.time.sfn 0 = true ∧ (d.lane 7).state ≠ .failed := by decide +kernel

/-- Two received blocks: 8 data bytes of zero and a DELIM, scrambled after a block of zeros (R316, R318). -/
def shortRun : List (BitVec 2 × BitVec 64) := [(1, 0), (2, 0x1C00438000000087)]

theorem witness_LanesCarryFrames :
    (let d := withLane 7 { state := .up, logvalid := true, logic := 7 }; d.unitOn (lanePage 7) = true ∧ (d.lane 7).state = .up ∧
      (d.lane 7).resync = false ∧ bitAt 3 (d.reg (laneAddr 7 0)) = false ∧
      delineate (d.lane 7).invert 518 (d.lane 7).prev [] shortRun = (List.replicate 8 0, .delim, 0x1C00438000000087)) ∧
    16 ≤ (-16 : BitVec 8).toInt.natAbs ∧
    (let d := (withLane 7 { state := .up, tx := true }).setAct (lroleAddr 7) 1; d.unitOn (lanePage 7) = true ∧ d.txOn 7 = true ∧
      d.role 7 ≠ 0) ∧
    let d := { (withLane 7 { state := .up, tx := true }).setAct (lroleAddr 7) 1 with lnb.fwd := [(7, [])] }
    d.lnb.fwd = [(7, [])] ∧ d.role 7 = 1 ∧ d.mayPublish = true ∧ d.pwr.level < 5 ∧ d.sys.state ≠ .frozen ∧
      d.ing.laneq.getLsbD 7 = false ∧ d.txOn 7 = true := by decide +kernel

theorem slice_left (a b : List Byte) (o n : Nat) (h : o + n ≤ a.length) : slice (a ++ b) o n = slice a o n := by
  unfold slice
  rw [List.drop_append_of_le_length (by omega), List.take_append_of_le_length (by simp; omega)]

theorem slice_right (a b : List Byte) (n : Nat) : slice (a ++ b) a.length n = slice b 0 n := by
  simp [slice]

theorem leNat_leBytes (n v : Nat) : leNat (leBytes n v) = v % 256 ^ n := by
  induction n generalizing v with
  | zero => simp [leBytes, leNat, Nat.mod_one]
  | succ n ih =>
    simp only [leBytes, leNat, ih, BitVec.toNat_ofNat]
    have : (256 : Nat) ^ (n + 1) = 2 ^ 8 * 256 ^ n := Nat.pow_succ'
    rw [this, Nat.mod_mul]; rfl

theorem leBytes_length (n v : Nat) : (leBytes n v).length = n := by
  induction n generalizing v with
  | zero => rfl
  | succ n ih => simp [leBytes, ih]

/-- The CRC that a frame's trailer holds is the one `withTrailer` has computed. -/
theorem frCrc_withTrailer (b : List Byte) : frCrc (withTrailer b) = crc32c b ∧ (withTrailer b).take ((withTrailer b).length - 8) = b ∧
    leAt (withTrailer b) ((withTrailer b).length - 4) 4 = (lenchk (b.length + 8)).toNat ∧ (withTrailer b).length = b.length + 8 := by
  have hl : (withTrailer b).length = b.length + 8 := by simp [withTrailer, leBytes_length]
  refine ⟨?_, ?_, ?_, hl⟩
  · unfold frCrc leAt
    rw [hl, show b.length + 8 - 8 = b.length by omega, withTrailer, List.append_assoc, slice_right,
      slice_left _ _ _ _ (by simp [leBytes_length])]
    simp only [slice, List.drop_zero, List.take_of_length_le (Nat.le_of_eq (leBytes_length _ _)), leBytes_length, Nat.sub_self,
      List.replicate_zero, List.append_nil, leNat_leBytes]
    rw [show 256 ^ 4 = 2 ^ 32 by norm_num, Nat.mod_eq_of_lt (crc32c b).isLt, BitVec.ofNat_toNat, BitVec.setWidth_eq]
  · rw [hl, show b.length + 8 - 8 = b.length by omega, withTrailer, List.append_assoc]; simp
  · unfold leAt
    rw [hl, show b.length + 8 - 4 = (b ++ leBytes 4 (crc32c b).toNat).length by simp [leBytes_length], withTrailer, slice_right]
    simp only [slice, List.drop_zero, List.take_of_length_le (Nat.le_of_eq (leBytes_length _ _)), leBytes_length, Nat.sub_self,
      List.replicate_zero, List.append_nil, leNat_leBytes]
    exact Nat.mod_eq_of_lt (lenchk (b.length + 8)).isLt

/-- A device in a run at SFN 64 whose lane 0 (INGEST) is bound to input 1, and lane 4 (PEER) to peer 2, key slot 0 loaded. -/
def gate : Dev :=
  { inRun with
    ing.act.input := [(1, { lo := 0xFFFFFF00, valid := true, tag := 5 })]
    ing.act.peer := [(2, { lo := 0xFFFFFF04, valid := true, tag := 6 })]
    ing.act.depth := [(0, 1), (4, 1)]
    ing.keys0 := some (List.replicate 32 0)
    ing.buckets := [(0, { tok := tokenUnit }), (4, { tok := tokenUnit })]
    act := [(lroleAddr 0, 1), (lroleAddr 4, 3)]
    time.sfn := 64 }

/-- The header of a SAMPLE frame of input 1 for the first time block. -/
def sampleHdr : List Byte := ({ type := 1, src := 1, session := 5 } : FrameHdr).bytes

/-- A SAMPLE frame of that input with any payload is admitted. -/
theorem sample_admitted (p : List Byte) (hp : p.length = 4096) : (gate.ingest 0 (withTrailer (sampleHdr ++ p))).1 = 0 := by
  obtain ⟨hc, ht, hk, hl⟩ := frCrc_withTrailer (sampleHdr ++ p)
  have hh : sampleHdr.length = 32 := by decide
  have hx : ∀ o n, o + n ≤ 32 → leAt (withTrailer (sampleHdr ++ p)) o n = leAt sampleHdr o n := by
    intro o n h
    unfold leAt withTrailer
    rw [List.append_assoc, List.append_assoc, slice_left _ _ _ _ (by omega)]
  simp only [List.length_append, hh, hp] at hl hk
  generalize withTrailer (sampleHdr ++ p) = fr at *
  have h1 : (gate.ingest 0 fr).1 =
      (({ gate with lnb.inbox := gate.lnb.inbox.erase (0, fr) } : Dev).purgeDir.classify 0 fr
        (({ gate with lnb.inbox := gate.lnb.inbox.erase (0, fr) } : Dev).purgeDir.frameSfn fr)).1 := rfl
  rw [h1]
  have h2 : ({ gate with lnb.inbox := gate.lnb.inbox.erase (0, fr) } : Dev).purgeDir = gate := by
    have : gate.lnb.inbox.erase (0, fr) = [] := rfl
    rw [this]; decide +kernel
  rw [h2]
  have h3 : gate.frameSfn fr = 0 := by
    unfold Dev.frameSfn frSfn; rw [hx _ _ (by decide)]; decide +kernel
  rw [h3]
  have e1 : frType fr = 1 := by unfold frType; rw [hx _ _ (by decide)]; decide +kernel
  have e2 : frSrc fr = 1 := by unfold frSrc; rw [hx _ _ (by decide)]; decide +kernel
  have e3 : frChgrp fr = 0 := by unfold frChgrp; rw [hx _ _ (by decide)]; decide +kernel
  have e4 : frSession fr = 5 := by unfold frSession; rw [hx _ _ (by decide)]; decide +kernel
  have e5 : frReservedOk fr = true := by
    unfold frReservedOk; rw [e1]; simp only [hx _ _ (show 2 + 2 ≤ 32 by decide), hx _ _ (show 14 + 1 ≤ 32 by decide),
      hx _ _ (show 15 + 1 ≤ 32 by decide), hx _ _ (show 18 + 2 ≤ 32 by decide), hx _ _ (show 22 + 2 ≤ 32 by decide),
      hx _ _ (show 28 + 4 ≤ 32 by decide), hx _ _ (show 1 + 1 ≤ 32 by decide)]; decide +kernel
  let t : Dev := { gate with ing.buckets := Tab.set {} gate.ing.buckets 0 { gate.refill 0 with tok := (gate.refill 0).tok - tokenUnit } }
  have m : t.malformed fr 0 = false := by
    unfold Dev.malformed; simp only [e1, e3, e5, hl, hx _ _ (show 0 + 1 ≤ 32 by decide), hx _ _ (show 1 + 1 ≤ 32 by decide)]
    simp only [hl] at hk
    rw [hk]; decide +kernel
  have hcrc : crc32c (fr.take (fr.length - 8)) = frCrc fr := by rw [ht]; exact hc.symm
  have e8 : t.checkFrame 0 fr 0 = 0 := by
    unfold Dev.checkFrame
    rw [if_neg (not_not.2 hcrc), if_neg (by rw [e1]; decide), m, e1, e2, e4]
    have n : t.ing.dir.find? (·.same fr 0) = none := rfl
    rw [n]; dsimp only
    generalize t.macOk fr = q
    revert q; decide +kernel
  unfold Dev.classify
  rw [e1, hl, if_neg (by decide +kernel), if_neg (by decide +kernel), if_neg (by omega), if_pos (by decide +kernel)]
  dsimp only
  rw [if_neg (by decide +kernel)]
  exact e8

/-- A device whose lane 0 is bound and outside a run. -/
def idleGate : Dev := { gate with run.live := false }

/-- A TRIG frame of peer 2 for the first time block, signed with the key of slot 0. -/
def trigFrame : List Byte :=
  let b := ({ type := 3, src := 2, session := 6 } : FrameHdr).bytes ++ List.replicate 16 0
  withTrailer (b ++ mac8 (List.replicate 32 0) b)

/-- A frame of a header alone. -/
def bare (t : Nat) : List Byte := withTrailer ({ type := t } : FrameHdr).bytes

theorem witness_FramesAreJudgedByIngest :
    (gate.unitOn pgING = true ∧ gate.role 0 ≠ 0 ∧ ∃ fr, frType fr = 1 ∧ (gate.ingest 0 fr).1 = 0) ∧
    (gate.role 4 ≠ 0 ∧ frType trigFrame = 3 ∧ (gate.ingest 4 trigFrame).1 = 0) ∧
    (idleGate.unitOn pgING = true ∧ idleGate.role 0 ≠ 0 ∧ frType (bare 15) = 15 ∧ idleGate.ing.laneq.getLsbD 0 = false ∧
      idleGate.sys.state ≠ .frozen ∧ idleGate.pwr.level < 5 ∧ 40 ≤ (bare 15).length ∧
      crc32c ((bare 15).take ((bare 15).length - 8)) = frCrc (bare 15) ∧ idleGate.run.live = false) ∧
    let d := { idleGate with ing.laneq := 1 }
    d.unitOn pgING = true ∧ d.role 0 ≠ 0 ∧ frType (bare 1) = 1 ∧ d.ing.laneq.getLsbD 0 = true ∧ d.run.live = false := by
  refine ⟨⟨by decide +kernel, by decide +kernel, _, ?_, sample_admitted (List.replicate 4096 0) List.length_replicate⟩, by decide +kernel, by decide +kernel, by decide +kernel⟩
  unfold frType leAt withTrailer
  rw [List.append_assoc, List.append_assoc, slice_left _ _ _ _ (by decide)]; decide +kernel

theorem witness_IngestRegistersTakeEffect :
    ((up .idle).takes pgING 0x1020 = true ∧ (up .idle).takes pgING 0x103C = true) ∧
    (let d := { up .idle with ing.bindIdx := 0x2001, ing.bindLo := 0xFFFFFF05 };
      d.takes pgING 0x8008 = true ∧ d.bindHiErrs 0x80000005 = []) ∧
    (up .idle).takes pgING 0x10A0 = true := by decide +kernel

/-- A run of the smallest plate at an SFN, with its state. -/
def runAt (n : Sfn) : Dev := { inRun with time.sfn := n }

theorem witness_RunBoundariesTakeEffect :
    (let d := runAt 0x900000;
      d.unitOn pgING = true ∧ (d.setCloses 0 0 = true ∧ d.ing.closed = [] ∧ 0 = d.closedTo 0) ∧ d.tablesPending 0 = false ∧
        d.setCloses 0 64 = true ∧ d.tablesPending 64 = false ∧ d.ing.closed.contains (0, d.closedTo 0) = false ∧ 64 ≠ d.closedTo 0) ∧
    (let d := { runAt 0x900000 with plt.active := some { req := { reamLen := 2 } } };
      d.unitOn pgING = true ∧ d.sheetDue = true ∧ after d.run.sheetAt d.reamEnd = false) ∧
    (let d := { runAt 0x900000 with run.sheetAt := 8192 }; d.latchDue = true ∧ d.sys.state ≠ .draining) ∧
    (let d := { runAt 4096 with run.bLast := some 4096 };
      d.run.bLast = some 4096 ∧ d.sys.state = .running ∧ atOrAfter d.time.sfn 4096 = true ∧ d.acc.lastDone = false) ∧
    (let d := { runAt 0 with run.bLast := some 0 };
      d.run.bLast = some 0 ∧ d.sys.state = .running ∧ atOrAfter d.time.sfn 0 = true ∧ (0 : Sfn) = d.run.s0) ∧
    let d := { runAt 4096 with plt.staged := .armed, plt.armPend := true, plt.armSfn := 4096, plt.stagedP := some {} }
    d.takeoverAt = some 4096 ∧ d.plt.stagedP = some {} ∧ d.plt.active = some {} ∧ d.run.live = true ∧
      atOrAfter d.time.sfn 4096 = true := by decide +kernel

/-- A done sheet with no flags. -/
def sheet0 : DoneSheet := { at_ := 0, idx := 0, ream := 0 }
/-- A capture of the first page. -/
def cap0 : Cap := { id := 9, t := 0, pre := 0, post := 0, inputs := [0], groups := [0], first := 0, nspan := 1 }

theorem witness_SheetBufferServesPagesAndCaptures :
    (let d := runAt 0x900000; (d.unitOn pgDKL = true ∧ d.pageInRun 0 0 0 = true ∧
        atOrAfter d.time.sfn (0 - BitVec.ofNat 48 ((d.reqAt 0).earlyB * (d.reqAt 0).lf)) = true ∧ d.pageAt 0 0 0 = none ∧
        (∃ y, d.takeSlot (d.plateOf 0) ((d.plateOf 0).req.chanOf 0 0 0) = some y)) ∧ ∀ a, (d.reqAt a).mode ≠ 9) ∧
    (let d := (runAt 0x900000).setPageIn { at_ := 0, p := 0, g := 0, slot := 7 };
      d.unitOn pgDKL = true ∧ (d.pageAt 0 0 0).isSome = true ∧
        atOrAfter d.time.sfn ((d.plateOf 0).consumeAt ((d.plateOf 0).req.sheetOf 0) 0 ((d.plateOf 0).req.pageIdx 0)) = true) ∧
    (let d := { runAt 0x900000 with hat.queue := [(sheet0, [0, 1])] };
      d.unitOn pgDKL = true ∧ d.sys.state ≠ .frozen ∧ d.pwr.level < 3 ∧ d.stageTarget = some (false, (0, 0, 0, 0), sheet0) ∧
        (d.dkl.halfOf false).tag ≠ some (0, 0, 0, 0)) ∧
    (let d := { runAt 0x900000 with dkl.caps := [cap0] };
      d.unitOn pgDKL = true ∧ d.dkl.caps.find? (·.id == 9) = some cap0 ∧ d.sys.state ≠ .frozen ∧ d.pwr.level < 5 ∧
        d.capDue (d.reqAt cap0.first) cap0 = true) ∧
    (let d := { up .idle with dkl.pins := [(3, [9])] }; d.takes pgDKL 0x1050 = true ∧ d.dklReleaseErrs 9 = []) ∧
    let d := { up .idle with dkl.capwr := 5, dkl.caprd := 2 }
    d.takes pgDKL 0x1044 = true ∧ ((5 : BitVec 12) - d.dkl.caprd).toNat ≤ (d.dkl.capwr - d.dkl.caprd).toNat := by
  refine ⟨⟨⟨by decide +kernel, by decide +kernel, by decide +kernel, by decide +kernel, Option.isSome_iff_exists.1 (by decide +kernel)⟩, ?_⟩, by decide +kernel, ⟨by decide +kernel, by decide +kernel, by decide +kernel, by decide +kernel, by decide +kernel⟩, by decide +kernel, by decide +kernel, by decide +kernel⟩
  intro a
  have : (runAt 0x900000).reqAt a = {} := rfl
  rw [this]; decide

/-- A ream that closes, the first and last of its run. -/
def c0 : Closing :=
  { idx := 0, first := 0, last := true, delayed := false, buf := false, plate := {}, g := {}, lists := {}, closeTime := 0,
    pgen := 0, epoch := 0 }

theorem witness_HatchArrayRunsPasses :
    (let d := { runAt 0 with hat.sheet := some sheet0, hat.chans := [0, 1] };
      d.unitOn pgHAT = true ∧ d.hat.stopped = none ∧ d.pwr.level < 3 ∧ d.hat.sheet = some sheet0 ∧ d.hat.chans = [0, 1] ∧
        (d.plateOf sheet0.at_).passes ≤ d.hat.pass + 1 ∧ (d.plateOf sheet0.at_).req.subs ≤ d.hat.sub + 1) ∧
    (let d := { runAt 0 with plt.active := some { req := { kslog := 13 } }, hat.sheet := some sheet0, hat.chans := [0] };
      (d.plateOf sheet0.at_).passes ≤ d.hat.pass + 1 ∧ d.hat.sub + 1 < (d.plateOf sheet0.at_).req.subs) ∧
    (let d := { runAt 0 with plt.active := some { req := { ninput := 2048 } }, hat.sheet := some sheet0, hat.chans := [0] };
      d.hat.pass + 1 < (d.plateOf sheet0.at_).passes) ∧
    ((up .idle).takes pgHAT 0x1000 = true ∧ (up .idle).takes pgHAT 0x1010 = true ∧ (0xFFFFF : Word) >>> 20 = 0) ∧
    let d := { up .idle with acc.closing := some c0 }
    d.unitOn pgHAT = true ∧ d.acc.closing = some c0 := by decide +kernel

theorem witness_AccumulatorFinishesRecords :
    (let x : AddItem := { sheet := sheet0, chan := 0, store := some false };
      let d := { up .idle with acc.adds := [x] };
      d.unitOn pgACC = true ∧ d.acc.adds = x :: [] ∧ d.sys.state ≠ .frozen) ∧
    (let d := { up .idle with acc.closing := some c0 };
      d.unitOn pgACC = true ∧ d.acc.closing = some c0 ∧ d.acc.waits = none ∧ d.memServes = true) ∧
    let d := { up .idle with acc.recrdy := true }
    d.takes pgACC 0x100C = true ∧ d.accReleaseErrs 0 = [] := by decide +kernel

/-- A lane that sends, with a role. -/
def sender (n role : Nat) : Dev := (withLane n { state := .up, tx := true }).setAct (lroleAddr n) role

/-- A block of beam 0 for lane 0. -/
def block0 : EgBlock := { lane := 0, beam := 0, g := 0, f := 0, seq := 0, ndiode := false, osat := 0, session := 0, bytes := [] }

/-- A request of mode 3 with one beam, routed to TRIG, and a trigger section. -/
def trigReq : Req :=
  { mode := 3, nbeam := 1, beams := [0, 0, 0, 0, 1, 0, 0, 0, 0, 0, 0, 0, 0, 0, 0, 0, 0, 4]
    trigger := [0, 0, 0, 0, 1, 0, 0, 1, 1, 0, 0, 0, 0, 0, 1, 0] }

/-- A device in a run of that request. -/
def trigRun (n : Sfn) : Dev := { runAt n with plt.active := some { req := trigReq } }

theorem witness_BeamformerSendsAndTakesTables :
    (let d := { sender 0 2 with bmf.egress := [block0] };
      d.unitOn pgBMF = true ∧ d.bmf.egress.find? (·.lane == 0) = some block0 ∧ d.role 0 = 2 ∧ d.sys.state ≠ .frozen ∧
        d.mayPublish = true ∧ d.pwr.level < 4 ∧ d.txOn 0 = true) ∧
    (let d := trigRun 0;
      d.takes2 = true ∧ d.grantHeld 0 = false ∧ 272 + 1 ≤ d.req.bmTblSize ∧ bmByteErr d.req 272 5 = none ∧
        (d.page pgBMF).locked = false ∧ bmFixed d.req d.bmf.tbl 272 5 = false) ∧
    let d := { trigRun 0 with bmf.stgwr := 5, bmf.stgrd := 2 }
    d.takes pgBMF 0x1040 = true ∧ 5 < d.req.stgBlocks ∧ (5 + d.req.stgBlocks - d.bmf.stgrd) % d.req.stgBlocks ≤ d.stgOcc := by
  decide +kernel

theorem witness_TriggerEngineEvaluatesAndSignals :
    (let d := { trigRun 0 with ing.closedTo := [(0, some 64)] };
      d.unitOn pgTRG = true ∧ d.tickDue = true ∧ d.trg.geomAt = none) ∧
    (let d := { trigRun 0x900000 with trg.tbls := [(0, [(36, 1)])] };
      d.unitOn pgTRG = true ∧ d.run.live = true ∧
        trigReq = d.reqAt (d.run.s0 + BitVec.ofNat 48 (d.trg.next * 2 ^ d.trgA)) ∧ 0 = d.tickBlock trigReq d.trg.next ∧
        trigReq.trigMode = true ∧ usesSw (d.trgTblAt (d.run.s0 + BitVec.ofNat 48 (d.trg.next * 2 ^ d.trgA))) = true ∧
        d.trg.sw.any (·.1 == 0) = false ∧ d.trg.late.contains 0 = false ∧
        d.windowClosed trigReq (0 + BitVec.ofNat 48 ((1 + trigReq.tSwlag) * trigReq.lf)) = true) ∧
    (let d := { up .idle with trg.outEnd := [(3, some 5)], time.loc := 5 };
      d.unitOn pgTRG = true ∧ Tab.get none d.trg.outEnd 3 = some 5 ∧ 5 ≤ d.time.loc.toNat) ∧
    let d := { sender 4 3 with trg.txq := [{ seq := 0, sfn := 0, body := [] }] }
    d.unitOn pgTRG = true ∧ d.trg.txq = { seq := 0, sfn := 0, body := [] } :: [] ∧ d.lanesOf 3 = [4] ∧ d.txOn 4 = true ∧
      d.mayPublish = true := by decide +kernel

theorem witness_TriggerLogAndTables :
    (let d := { trigRun 0 with trg.fifo := [[1, 2]] };
      d.unitOn pgTRG = true ∧ d.trg.fifo = [1, 2] :: [] ∧ d.sys.state ≠ .frozen ∧ d.req.tLogEnts ≠ 0) ∧
    (let d := { trigRun 0 with trg.logwr := 5, trg.logrd := 2 };
      d.takes pgTRG 0x1048 = true ∧ 5 < d.req.tLogEnts ∧ (5 + d.req.tLogEnts - d.trg.logrd) % d.req.tLogEnts ≤ d.logOcc) ∧
    let d := trigRun 0
    d.takes2 = true ∧ d.grantHeld 1 = false ∧ 0 + 1 ≤ d.req.tTblSize ∧ trgFieldErr d.req (tblPut d.trg.sh 0 [1]) 0 = none ∧
      d.pair.state ≠ .matching ∧ d.pair.state ≠ .ready ∧ (d.page pgTRG).locked = false := by decide +kernel

/-- The build here is refused. That some build and some proof pass rests on the opaque power figures and sections of a
plate (log entries 27 and 29). -/
theorem witness_BuildAndProofEnd :
    (let d := { up .idle with plt.busy := true, plt.op := 1 };
      d.unitOn pgPLT = true ∧ d.plt.busy = true ∧ d.plt.op = 1 ∧
        (buildRefused d d.plt.snapReq (mkPlate (Req.parse d.plt.snapReq) d.plt.snapQ d.plt.snapExcl 0)).isSome = true) ∧
    let d := { up .idle with plt.busy := true, plt.op := 2 }
    d.unitOn pgPLT = true ∧ d.plt.busy = true ∧ d.plt.op = 2 := by decide +kernel

theorem witness_PlateSlotWrites :
    (up .idle).takes2 = true ∧ (up .idle).memServes = true ∧ true ≠ (up .idle).plt.actSlot ∧
      ((up .idle).plt.staged = .empty ∨ (up .idle).plt.staged = .loaded ∨ (up .idle).plt.staged = .proofed) := by decide +kernel

/-- A device whose core 0 is as given. -/
def cored (x : Core) : Dev := (up .idle).setCore 0 x

/-- A core that runs and has instruction `w` next. -/
def next (w : Word) : Core := { state := .run, pmem := [(0, w)] }

/-- Each word, written from R272 and R273, issues as the operation it stands for: D2 from D0 and D1, ABS from D0 alone. -/
theorem witness_BurinAluOperations :
    ([(0x04802000, .alu .add 2 0 (.reg 1)), (0x08802000, .alu .sub 2 0 (.reg 1)), (0x0C802000, .alu .adds 2 0 (.reg 1)),
      (0x10802000, .alu .subs 2 0 (.reg 1)), (0x14802000, .alu .and 2 0 (.reg 1)), (0x18802000, .alu .or 2 0 (.reg 1)),
      (0x1C802000, .alu .xor 2 0 (.reg 1)), (0x20802000, .alu .shl 2 0 (.reg 1)), (0x24802000, .alu .shra 2 0 (.reg 1)),
      (0x28802000, .alu .shrl 2 0 (.reg 1)), (0x2C002000, .cmp 0 (.reg 1)), (0x30802000, .alu .min 2 0 (.reg 1)),
      (0x34802000, .alu .max 2 0 (.reg 1)), (0x38800000, .alu .abs 2 0 (.reg 0)), (0x0582FFFF, .alu .add 6 0 (.imm 0xFFFF))]
      : List (Word × BOp)).all (fun e => (cored (next e.1)).issues 0 e.2) = true ∧
    ((cored (next 0x04802000)).core 0).bank.seesD 0 0 ∧ ((cored (next 0x04802000)).core 0).bank.seesS (.reg 1) 0 ∧
    ((cored (next 0x0582FFFF)).core 0).bank.seesS (.imm 0xFFFF) 0xFFFF := by
  unfold Bank.seesS Bank.seesD; decide +kernel

theorem witness_BurinAccumulators :
    (let l : BLoads := { l1 := some (2, 3), l2 := some (4, 5) }
     ([(0x4001A3C5, .mpy false 0 1 l), (0x4501A3C5, .mac false true 0 1 l), (0x4C000000, .accop false .clr),
       (0x4C040000, .accop false .neg), (0x4C080000, .accop false .add), (0x4C4C0000, .accop true .sub),
       (0x4C12FFD8, .accop false (.shift (-40))), (0x4C140000, .accop false .abs), (0x50C40000, .mva 3 true),
       (0x54C60005, .mvr 3 true 5), (0x58C60002, .geta 3 true 2), (0x5C4E0002, .puta true 3 2)]
       : List (Word × BOp)).all (fun e => (cored (next e.1)).issues 0 e.2) = true) ∧
    ((cored (next 0x4001A3C5)).core 0).bank.seesD 0 0 ∧ ((cored (next 0x4001A3C5)).core 0).bank.seesD 1 0 ∧
    ((cored (next 0x4001A3C5)).core 0).loadReady (some (2, 3)) ∧ ((cored (next 0x4001A3C5)).core 0).loadReady (some (4, 5)) ∧
    ((cored (next 0x5C4E0002)).core 0).bank.seesD 3 0 := by
  refine ⟨by decide +kernel, by unfold Bank.seesD; decide +kernel, by unfold Bank.seesD; decide +kernel, ?_, ?_,
    by unfold Bank.seesD; decide +kernel⟩ <;> (rintro i p ⟨⟩; decide +kernel)

/-- A running core with `w` next and an address in A2. -/
def nextAt (w : Word) (a : BitVec 16) : Core := { next w with b0.ar := [(2, a)], mbxIn := [7] }

theorem witness_BurinLoadsStoresAndMoves :
    ([(0x60500005, .ld 1 2 false 5), (0x64500005, .st 1 2 false 5), (0x60540000, .ld 1 2 true 0), (0x69021234, .ldi 4 0x1234),
      (0x6C4C0000, .mvx false 1 (.a 3)), (0x6C430000, .mvx true 1 .lk), (0x6C530000, .mvx true 1 .amode)]
      : List (Word × BOp)).all (fun e => (cored (next e.1)).issues 0 e.2) = true ∧
    ([(0x7FFF : BitVec 16), 0x8000, 0x8100, 0xBFFF].all fun a => (cored (nextAt 0x60540000 a)).issues 0 (.ld 1 2 true 0)) = true ∧
    ([(0x7FFF : BitVec 16), 0x8100, 0xBFFF].all fun a => (cored (nextAt 0x64540000 a)).issues 0 (.st 1 2 true 0)) = true ∧
    (let x := (cored (nextAt 0x60540000 0x8000)).core 0
     x.bank.seesA 2 0x8000 ∧ x.bank.seesM 2 0 ∧ x.mbxIn = 7 :: []) ∧
    ((cored (next 0x64500005)).core 0).bank.seesD 1 0 ∧ ((cored (next 0x6C4C0000)).core 0).bank.seesX (.a 3) 0 := by
  unfold Bank.seesX Bank.seesA Bank.seesM Bank.seesD; decide +kernel

theorem witness_BurinControlFlow :
    ([(0x00000000, .nop), (0x7040FFFE, .br .eq 0xFFFE), (0x74000010, .call 0x10), (0x78000000, .ret),
      (0x7C100302, .loop (.imm 3) 2), (0x7C050002, .loop (.reg 5) 2), (0x80000000, .rti), (0x84000000, .wait), (0x88060000, .sig 6),
      (0x8C070000, .flag true true true), (0xFC000000, .brk)]
      : List (Word × BOp)).all (fun e => (cored (next e.1)).issues 0 e.2) = true ∧
    (let d := cored { next 0 with b0.loop := true, b0.ls := 0, b0.le := 0, b0.lc := 2 };
      d.issues 0 .nop = true ∧ (d.core 0).bank.delay = none ∧ (d.core 0).bank.loop = true ∧
        (d.core 0).bank.pc.toNat = (d.core 0).bank.le.toNat ∧ 1 < (d.core 0).bank.lc.toNat) ∧
    (let d := cored { next 0 with b0.delay := some 9 }; d.issues 0 .nop = true ∧ (d.core 0).bank.delay = some 9) ∧
    (let d := cored { next 0x7C100302 with b0.loop := true };
      d.issues 0 (.loop (.imm 3) 2) = true ∧ (3 : BitVec 8).setWidth 16 = (3 : BitVec 16) ∧ (d.core 0).bank.loop = true) ∧
    (let d := cored { next 0x80000000 with bank1 := true, b1.pc := 0 };
      d.issues 0 .rti = true ∧ (d.core 0).bank1 = true ∧ (d.core 0).halt = false) ∧
    (let d := cored { next 0x84000000 with bank1 := true }; d.issues 0 .wait = true ∧ (d.core 0).bank1 = true) ∧
    (let d := cored { next 0x88060000 with mbxOut := List.replicate 16 7 };
      d.issues 0 (.sig 6) = true ∧ (d.core 0).bank.seesD 6 0 ∧ 16 ≤ (d.core 0).mbxOut.length) ∧
    let d := cored (next 0xF8000000)
    d.unitOn (burPage 0) = true ∧ (d.core 0).state = .run ∧ burDecode ((d.core 0).pWord (d.core 0).bank.pc.toNat) = none := by
  unfold Bank.seesD; decide +kernel

/-- A request of one task, on which every grant of R283 rests. -/
def taskReq : Req := { trigReq with burin := [1, 0] ++ List.replicate 14 0 ++ [0, 0, 0, 0x1F] ++ List.replicate 60 0 }

/-- A run of that request, whose core 0 runs the task. -/
def tasked (x : Core) : Dev :=
  { trigRun 0 with plt.active := some { req := taskReq } }.setCore 0
    { x with tasks := [{ entry := 0, prog := 0, data := 0x100 }], task := some 0 }

/-- The START event of task 0, with a record of one word. -/
def startEvent : BEvent := { task := 0, kind := evSTART, addr := 0x200, words := 1 }

/-- An event for a waiting core, a TIMER, an interrupt, a load that ends. -/
theorem witness_CoresTakeEventsAndUsePorts :
    (let d := tasked { state := .wait, queue := [startEvent] };
      d.unitOn (burPage 0) = true ∧ (d.core 0).state = .wait ∧ (d.core 0).bank1 = false ∧
        ((d.core 0).queue.find? fun q => d.evReady 0 q) = some startEvent ∧
        (d.core 0).tk startEvent.task = some { entry := 0, prog := 0, data := 0x100 } ∧ startEvent.words ≠ 0) ∧
    (let d := { cored { state := .halted, ports := { tmInterval := 5 } } with time.loc := 5000 };
      d.unitOn (burPage 0) = true ∧ (d.core 0).ports.tmInterval.toNat * 1000 = 5000 ∧ (d.core 0).clocked = true ∧
        5000 ≤ (d.time.loc - (d.core 0).timerAt).toNat) ∧
    (let d := cored { state := .wait, irqs := [(9, 0), (8, 0)] };
      d.unitOn (burPage 0) = true ∧ ((d.core 0).state = .run ∨ (d.core 0).state = .wait) ∧ (d.core 0).bank1 = false ∧
        (d.core 0).b0.delay = none ∧ (d.core 0).nextIrq = some (8, 0)) ∧
    (let d := cored { state := .loading };
      d.sys.state ≠ .off ∧ (d.core 0).state = .loading ∧ (d.core 0).resumeAt = none ∧ d.run.outgoing = none ∧
        d.pwr.level = 0) := by decide +kernel

/-- The ports: a commit that passes and one that does not, a post that TRG expects and one that it does not, transfers, the
mailbox. The place of BAR0 and of the named region are opaque (log entry 46), so where a transfer may go is a premise. -/
theorem witness_CoresTakeEventsAndUsePorts_ports :
    (let d := tasked { state := .run, ports := { cmtPage := 0x2C, cmtWhen := 1, cmtSfn := 0x800000 } };
      pgBMF = 0x2C ∧ d.unitOn (burPage 0) = true ∧ d.cmtErrs 0 1 = [] ∧ firstCode (d.cmtErrs 0 2) = some eSEQ) ∧
    (let d := { tasked { state := .run } with trg.tbls := [(0, [(36, 1)])] }
     let q := (d.core 0).ports;
      d.run.live = true ∧ (d.reqAt q.swSfn).trigMode = true ∧ usesSw (d.trgTblAt q.swSfn) = true ∧ d.hasGrant 0 2 = true ∧
        q.swSfn = d.swExpected ∧ (runAt 0).run.live = true ∧ (runAt 0).hasGrant 0 2 = false) ∧
    (let d := cored { state := .run, ports := { xfBusy := true }, mbxIn := [7] };
      d.unitOn (burPage 0) = true ∧ (d.core 0).ports.xfBusy = true ∧ (d.core 0).mbxIn = 7 :: []) ∧
    ∀ a : BitVec 48, a.toNat % 2 = 0 → inWin a.toNat Config.bar0At (2 ^ 24) = false →
      (up .idle).inNamed a.toNat = true → whereIs a.toNat = .mem →
      let d := cored { state := .run, ports := { xfDev := a, xfWords := 1 } }
      (d.core 0).ports.xfBusy = false ∧ d.xfOk 0 false = true := by
  refine ⟨by decide +kernel, by decide +kernel, by decide +kernel, ?_⟩
  intro a h0 h1 h2 h3
  have hp : ((cored { state := .run, ports := { xfDev := a, xfWords := 1 } }).core 0).ports = { xfDev := a, xfWords := 1 } := rfl
  have hn : (cored { state := .run, ports := { xfDev := a, xfWords := 1 } }).inNamed a.toNat = true := h2
  have hm : (cored { state := .run, ports := { xfDev := a, xfWords := 1 } }).memServes = true := rfl
  generalize cored { state := .run, ports := { xfDev := a, xfWords := 1 } } = d at *
  have hr : (d.burDevRead 0 a.toNat).isSome = true := by
    unfold Dev.burDevRead
    rw [h1, hn, h3, hm]
    rw [if_neg (by decide), if_pos (by rfl), if_neg (by decide)]
    dsimp only
    split <;> rfl
  dsimp only
  unfold Dev.xfOk
  rw [hp]
  simp [List.range_succ, h0, hr]

/-- A halted core with NOP next, and a core with a task, in and out of a run. -/
theorem witness_HostControlsTheCores :
    (let d := cored {};
      d.takes (burPage 0) 0x1100 = true ∧ ((d.core 0).tasks.isEmpty || !noStepState d.sys.state) = true ∧
        (d.core 0).halt = false ∧ (d.core 0).state = .off ∧ (d.core 0).tasks = []) ∧
    (let d := cored { state := .run }; (d.core 0).halt = false ∧ (d.core 0).bank1 = false ∧ (d.core 0).b0.delay = none) ∧
    (let d := cored { state := .halted, halt := true };
      (d.core 0).halt = true ∧ (d.core 0).state = .halted ∧ (d.core 0).bank1 = false ∧
        burDecode ((d.core 0).pWord (d.core 0).bank.pc.toNat) = some .nop) ∧
    (let d := tasked { state := .run };
      d.takes (burPage 0) 0x1100 = true ∧ d.takes (burPage 0) 0x1118 = true ∧ noStepState d.sys.state = true ∧
        (d.core 0).tasks ≠ [] ∧ ((d.core 0).tasks.isEmpty || !noStepState d.sys.state) = false) ∧
    (let d := cored {}; d.takes (burPage 0) 0x1118 = true ∧ (d.core 0).mbxIn.length < 16) ∧
    let d := cored { mbxIn := List.replicate 16 7 }
    d.takes (burPage 0) 0x1118 = true ∧ (d.core 0).mbxIn.length = 16 := by decide +kernel

/-- Wherever four protected regions lie, one of five places 128 MiB apart is outside them all. -/
theorem some_place (s t f v : Nat) : ∃ k < 5, ∀ n ≤ 4096, let a := k * 2 ^ 27
    (a < s ∨ s + 2 ^ 26 ≤ a) ∧ (a < t ∨ t + 2 ^ 26 ≤ a) ∧ (f + 17000 ≤ a ∨ a + n ≤ f) ∧ (v + 65536 ≤ a ∨ a + n ≤ v) := by
  have key : ∀ k, (∀ n ≤ 4096, let a := k * 2 ^ 27
      (a < s ∨ s + 2 ^ 26 ≤ a) ∧ (a < t ∨ t + 2 ^ 26 ≤ a) ∧ (f + 17000 ≤ a ∨ a + n ≤ f) ∧ (v + 65536 ≤ a ∨ a + n ≤ v)) ∨
      ((s ≤ k * 2 ^ 27 ∧ k * 2 ^ 27 < s + 2 ^ 26) ∨ (t ≤ k * 2 ^ 27 ∧ k * 2 ^ 27 < t + 2 ^ 26) ∨
        (k * 2 ^ 27 < f + 17000 ∧ f < k * 2 ^ 27 + 4096) ∨ (k * 2 ^ 27 < v + 65536 ∧ v < k * 2 ^ 27 + 4096)) := by
    intro k
    by_cases h : (s ≤ k * 2 ^ 27 ∧ k * 2 ^ 27 < s + 2 ^ 26) ∨ (t ≤ k * 2 ^ 27 ∧ k * 2 ^ 27 < t + 2 ^ 26) ∨
        (k * 2 ^ 27 < f + 17000 ∧ f < k * 2 ^ 27 + 4096) ∨ (k * 2 ^ 27 < v + 65536 ∧ v < k * 2 ^ 27 + 4096)
    · exact .inr h
    · left; intro n hn; dsimp only; omega
  by_contra no
  have bad : ∀ k < 5, (s ≤ k * 2 ^ 27 ∧ k * 2 ^ 27 < s + 2 ^ 26) ∨ (t ≤ k * 2 ^ 27 ∧ k * 2 ^ 27 < t + 2 ^ 26) ∨
        (k * 2 ^ 27 < f + 17000 ∧ f < k * 2 ^ 27 + 4096) ∨ (k * 2 ^ 27 < v + 65536 ∧ v < k * 2 ^ 27 + 4096) := fun k hk =>
    (key k).resolve_left fun h => no ⟨k, hk, h⟩
  have b0 := bad 0 (by decide)
  have b1 := bad 1 (by decide)
  have b2 := bad 2 (by decide)
  have b3 := bad 3 (by decide)
  have b4 := bad 4 (by decide)
  clear bad key no
  omega

/-- Some page of device memory is neither a plate slot nor protected from the writes of any master, outside a run. -/
theorem open_place : ∃ a, a % 4096 = 0 ∧ a + 4096 ≤ memBytes ∧ a < 2 ^ 32 ∧ (∀ o < 4096, whereIs (a + o) = .mem) ∧
    ∀ d : Dev, d.sys.state = .idle → d.plt.active = none → ∀ m o n, o + n ≤ 4096 → d.refusedAt m (a + o) n = none := by
  obtain ⟨k, hk, h⟩ := some_place (slotBase false) (slotBase true) fmapAddr (loadedAddr pgING 0x1050)
  have h0 := h 0 (by decide)
  have hb : memBytes = 160 * 2 ^ 30 := by decide
  have s0 : slotBase false % 4096 = 0 := by unfold slotBase; generalize BitVec.toNat _ = z; omega
  have s1 : slotBase true % 4096 = 0 := by unfold slotBase; generalize BitVec.toNat _ = z; omega
  refine ⟨k * 2 ^ 27, by omega, by omega, by omega, ?_, ?_⟩
  · intro o ho
    unfold whereIs inWin
    have hs : slotSize = 2 ^ 26 := by decide
    dsimp only at h0
    rw [if_pos (by omega), if_neg (by simp only [decide_eq_true_eq]; omega), if_neg (by simp only [decide_eq_true_eq]; omega)]
  · intro d hi ha m o n hn
    have hn := h 4096 (by omega)
    dsimp only at hn
    have hv : 2 * d.req.vbmSize = 8192 := by unfold Dev.req; rw [ha]; decide
    unfold Dev.refusedAt
    rw [hi, ha, hv]
    simp only [Option.isSome_none, Bool.and_false, Bool.false_and, Bool.false_eq_true, if_false]
    rw [if_neg (by simp only [decide_eq_true_eq]; omega), if_neg (by simp only [decide_eq_true_eq]; omega)]

/-- A device whose engine 0 has channel 0 ACTIVE on descriptor `x` and caches two pages of context 0: virtual page 1 at `a` of
device memory, virtual page 2 at 0 of host memory. -/
def dmaDev (a : Nat) (x : Desc) : Dev :=
  { up .idle with
    mmu.en := [(0, true)]
    mmu.tlb := [{ eng := 0, ctx := 0, vpn := 1, base := a, host := false, read := true, write := true },
                { eng := 0, ctx := 0, vpn := 2, base := 0, host := true, read := true, write := true }]
    dma := [(0, { active := some 0, chans := [(0, { state := .active, desc := some x })] })] }.setReg (chAddr 0 0 0x14) 1

/-- A descriptor of 64 bytes from device memory to device memory. -/
def desc0 (op : Nat) : Desc := { op := op, last := true, len := 64, src := 0x1000, dst := 0x1040 }

theorem witness_DmaEnginesRunChains_commands :
    ((up .idle).takes (pgDMA + 0) 0x1104 = true ∧ ((up .idle).dch 0 0).state = .idle ∧ (up .idle).pwr.level < 6 ∧
      ((up .idle).eng 0).active = none ∧ ((up .idle).eng 0).urgent = [] ∧ ((up .idle).eng 0).susp = none ∧ ((up .idle).eng 0).bulk = []) ∧
    (let d := dmaDev 0 (desc0 0);
      d.takes (pgDMA + 0) 0x1104 = true ∧ (d.dch 0 0).state ≠ .idle ∧ (d.dch 0 0).state ≠ .halted ∧ (d.dch 0 0).state ≠ .faulted ∧
        (d.dch 0 0).inUse = true ∧ d.unitOn (pgDMA + 0) = true) ∧
    (let d := { up .idle with dma := [(0, { chans := [(0, { state := .faulted })] })] };
      d.takes (pgDMA + 0) 0x1104 = true ∧ (d.dch 0 0).state = .faulted) ∧
    (let d := { up .idle with dma := [(0, { active := some 0, urgent := [1], chans := [(0, { state := .active })] })] };
      d.unitOn (pgDMA + 0) = true ∧ d.dmaActive 0 = some 0 ∧ (d.dch 0 0).state = .active ∧ d.chUrgent 0 0 = false ∧
        (d.eng 0).urgent = 1 :: [] ∧ (d.dch 0 0).desc = none) ∧
    (let q : FabReq := { master := 0, target := 0, write := false, at_ := 0 };
     let d := { up .idle with fab.waiting := [q], time.loc := 16000 };
      d.unitOn pgFAB = true ∧ (d.fab.waiting.find? fun q => q.master == 0 && d.fabLate q.at_) = some q) ∧
    let q : FabReq := { master := 1, target := 0, write := false, at_ := 0 }
    let d := { up .idle with fab.waiting := [q], time.loc := 16000, dma := [(0, { chans := [(2, { state := .active, stalled := true })] })] }
    d.unitOn pgFAB = true ∧ (d.fab.waiting.find? fun q => q.master == 1 && d.fabLate q.at_) = some q ∧
      ((List.range 4).find? fun n => (d.dch (1 - 1) n).stalled) = some 2 := by decide +kernel

/-- COPY, FILL and COMPARE in device memory and in host memory, and a read-back. -/
theorem witness_DmaEnginesRunChains :
    ∃ a, (∀ op, (dmaDev a (desc0 op)).executes 0 0 (desc0 op) 8 ∧ (dmaDev a (desc0 op)).chBudget 0 0 ≠ 0 ∧ 0 + 8 < (desc0 op).len ∧
      (desc0 op).op = op ∧
      (dmaDev a (desc0 op)).engReads 0 0 [] [] (desc0 op).src (List.replicate 8 0) ∧
      (dmaDev a (desc0 op)).engReads 0 0 [] [] (desc0 op).dst (List.replicate 8 0) ∧
      (dmaDev a (desc0 op)).engReads 0 0 [] [] 0x2000 (List.replicate 8 0) ∧
      (dmaDev a (desc0 op)).engWrites 0 0 (desc0 op).dst 8 (a + 0x40) false ∧
      (dmaDev a (desc0 op)).engWrites 0 0 0x2000 8 0 true) ∧
    let d := dmaDev a (desc0 0)
    let d := { d with dma := [(0, { active := some 0, chans := [(0, { state := .active, desc := some (desc0 0), reading := true })] })] }
    d.unitOn (pgDMA + 0) = true ∧ (d.eng 0).active = some 0 ∧ (d.dch 0 0).desc = some (desc0 0) ∧ (d.dch 0 0).reading = true ∧
      (d.dch 0 0).stalled = false ∧ d.fabDrains (1 + 0) = false ∧ (d.dch 0 0).pois = none ∧ (d.dch 0 0).mis = none ∧
      d.engReads 0 0 [] [] (((desc0 0).dst + BitVec.ofNat 64 ((desc0 0).len - 1)) &&& ~~~3) (List.replicate 4 0) := by
  obtain ⟨a, ha, hb, hc, hw, hr⟩ := open_place
  have ctx : ∀ x, (dmaDev a x).chCtx 0 0 = 0 := fun x => by
    have h : ∀ k, (dmaDev a x).reg k = (dmaDev 0 {}).reg k := fun k => rfl
    unfold Dev.chCtx; rw [h]; decide +kernel
  have dmap : ∀ x o (w : Bool), o < 4096 → (dmaDev a x).maps 0 0 (BitVec.ofNat 64 (0x1000 + o)) w (a + o) false := by
    intro x o w ho
    refine ⟨by rw [ctx]; rfl, by simp; omega, { eng := 0, ctx := 0, vpn := 1, base := a, host := false, read := true, write := true }, ?_,
      by cases w <;> rfl, by simp; omega, rfl⟩
    rw [ctx, show (BitVec.ofNat 64 (0x1000 + o)).toNat / 4096 = 1 by simp; omega]; rfl
  have hmap : ∀ x (w : Bool), (dmaDev a x).maps 0 0 0x2000 w 0 true := by
    intro x w
    refine ⟨by rw [ctx]; rfl, by decide, { eng := 0, ctx := 0, vpn := 2, base := 0, host := true, read := true, write := true }, ?_,
      by cases w <;> rfl, by decide, rfl⟩
    rw [ctx]; rfl
  have rd : ∀ x o n, o + n ≤ 4096 → o < 4096 → (dmaDev a x).engReads 0 0 [] [] (BitVec.ofNat 64 (0x1000 + o)) (List.replicate n 0) := by
    intro x o n h ho
    refine ⟨by simp; omega, a + o, false, dmap x o false ho, ?_, by simp, fun _ => ⟨hw o ho, by simp; omega, rfl, rfl⟩⟩
    intro i hi
    simp only [List.length_replicate] at hi
    rw [List.getElem?_replicate, if_pos hi]; rfl
  have bud : ∀ x, (dmaDev a x).chBudget 0 0 ≠ 0 := fun x => by
    have h : ∀ k, (dmaDev a x).reg k = (dmaDev 0 {}).reg k := fun k => rfl
    unfold Dev.chBudget; rw [h]; decide +kernel
  refine ⟨a, fun op => ⟨⟨rfl, rfl, rfl, .inr rfl, by decide, show 0 + 8 ≤ 64 by decide⟩, bud _, show 0 + 8 < 64 by decide, rfl, rd _ 0 8 (by decide) (by decide),
    rd _ 0x40 8 (by decide) (by decide), ?_, ⟨show 0x1040 % 4096 + 8 ≤ 4096 by decide, dmap _ 0x40 true (by decide), fun _ => ⟨hw _ (by decide), by omega, rfl, rfl,
      hr _ rfl rfl _ _ _ (by decide)⟩⟩, ?_⟩, ?_⟩
  · refine ⟨by decide, 0, true, hmap _ false, ?_, by simp, by simp⟩
    intro i hi
    simp only [List.length_replicate] at hi
    rw [List.getElem?_replicate, if_pos hi]; rfl
  · exact ⟨by decide, hmap _ true, by simp⟩
  · refine ⟨rfl, rfl, rfl, rfl, rfl, rfl, rfl, rfl, ?_⟩
    rw [show ((desc0 0).dst + BitVec.ofNat 64 ((desc0 0).len - 1)) &&& ~~~3 = BitVec.ofNat 64 (0x1000 + 0x7C) by decide]
    exact rd (desc0 0) 0x7C 4 (by decide) (by decide)

/-- Invalidation, host accesses, atomics, late responses and drains. -/
theorem witness_MmuAndFabricServe :
    ((up .idle).takes pgMMU 0x1010 = true ∧ (up .idle).mmu.inv = none) ∧
    (let d := { up .idle with mmu.inv := some (1, 2, 3) };
      d.takes pgMMU 0x1010 = true ∧ d.mmu.inv ≠ none ∧ d.unitOn pgMMU = true ∧ d.mmu.inv = some (1, 2, 3)) ∧
    (let d := { up .idle with fab.late := 1 }; d.unitOn pgFAB = true ∧ d.fab.late = 0 + 1) ∧
    (let d := { up .idle with fab.draining := [(3, some 0)], time.loc := 16000 };
      d.unitOn pgFAB = true ∧ Tab.get none d.fab.draining 3 = some 0 ∧ 16000 ≤ (d.time.loc - 0).toNat) ∧
    ∃ a : BitVec 38, (up .idle).takes2 = true ∧ (up .idle).unitOn pgFAB = true ∧ (up .idle).memServes = true ∧
      whereIs a.toNat = .mem ∧ a.toNat + 4096 ≤ memBytes ∧ a.toNat % 8 = 0 ∧ (∀ n, (up .idle).badIn a.toNat n = []) ∧
      (up .idle).refusedAt 0 a.toNat 4096 = none ∧ ∀ n ≤ 4096, (up .idle).refusedAt 5 a.toNat n = none := by
  refine ⟨by decide +kernel, by decide +kernel, by decide +kernel, by decide +kernel, ?_⟩
  obtain ⟨a, ha, hb, hc, hw, hr⟩ := open_place
  have e : (BitVec.ofNat 38 a).toNat = a := by simp; omega
  refine ⟨BitVec.ofNat 38 a, by decide +kernel, by decide +kernel, by decide +kernel, ?_⟩
  rw [e]
  exact ⟨hw 0 (by decide), hb, by omega, fun n => rfl, hr _ rfl rfl 0 0 4096 (by decide), fun n h => hr _ rfl rfl 5 0 n (by omega)⟩

/-- A device with references 0 and 1 as given. -/
def refd (a b : Ref) : Dev := ((up .idle).setRef 0 a).setRef 1 b

theorem witness_ClockUnitFollowsItsReferences :
    (let d := refd { cfg := 1, state := .disqualified } {};
      d.unitOn pgCLK = true ∧ (d.ref 0).en = true ∧ d.swStamped 0 = false ∧ 50000000 < (50000001 : Int).natAbs ∧
        20000 < (-20001 : Int).natAbs ∧ (2000000 : Int).natAbs ≤ 2000000 ∧ (d.ref 0).state = .disqualified ∧ (d.ref 0).missing = 0) ∧
    (let d := { refd { cfg := 1, state := .qualified, missing := 1 } {} with clk.sel := some 0 };
      d.unitOn pgCLK = true ∧ (d.ref 0).en = true ∧ (d.ref 0).state = .qualified ∧ d.clk.sel = some 0 ∧ 0 < (d.ref 0).missing) ∧
    (let d := { refd { state := .qualifying } {} with time.loc := 10000000000 };
      (d.ref 0).state = .qualifying ∧ 10 * 10 ^ 9 ≤ (d.time.loc - (d.ref 0).since).toNat) ∧
    (let d := { up .idle with clk.loop := .switching, clk.lowSince := some 0, time.loc := 1000000000 };
      d.unitOn pgCLK = true ∧ d.clk.loop = .switching ∧ d.clk.lowSince = some 0 ∧ 10 ^ 9 ≤ (d.time.loc - 0).toNat) ∧
    (let d := refd { cfg := 0x101, state := .qualified } { cfg := 0x101, state := .qualified };
      (d.ref 0).state = .qualified ∧ (d.ref 1).state = .qualified ∧ (d.ref 0).prio ≠ 0 ∧ (d.ref 0).prio = (d.ref 1).prio ∧
        (d.ref 0).ql = (d.ref 1).ql ∧ d.yardHox = false ∧ (d.setRef 7 { state := .qualified }).yardHox = true ∧
        2000000 < ((0 : Int) - 2000001).natAbs ∧ ((0 : Int) - 2000000).natAbs ≤ 2000000) ∧
    ((up .idle).takes pgCLK 0x1044 = true ∧ (up .idle).loopSw = false) ∧
    (let d := (up .idle).setReg (bar pgCLK 0x1044) 1;
      d.takes pgCLK 0x1044 = true ∧ d.loopSw = true ∧ d.clk.sel = none ∧ d.takes pgCLK 0x1048 = true ∧
        (219902325 : Word).toInt.natAbs ≤ 219902325 ∧ 219902325 < (219902326 : Word).toInt.natAbs) ∧
    (let d := { (up .idle).setReg (bar pgCLK 0x1044) 1 with clk.sel := some 0 }; d.loopSw = true ∧ d.clk.sel = some 0) ∧
    ((up .booting).takes pgCLK 0x104C = true ∧ (up .booting).sys.state = .booting ∧ (up .idle).takes pgCLK 0x104C = true ∧
      (up .idle).sys.state ≠ .booting ∧ (up .idle).sys.state ≠ .selftest ∧ (up .idle).sys.state ≠ .recovery) ∧
    (let d := { (up .idle).setOut 0 { cfg := 1 } with time.baseArr.state := .tracking };
      d.takes pgCLK 0x1050 = true ∧ (∀ i < 6, (1 : BitVec 6).getLsbD i = true → d.noAlign i = false) ∧ (d.outp 0).mode ≠ 0) ∧
    (let d := ((up .idle).setOut 0 { wait := some (.array 0) }).setOut 5 { wait := some (.sfn 0) };
      d.unitOn pgCLK = true ∧ (d.outp 0).wait = some (.array 0) ∧ 0 ≤ d.time.arr.toNat * 2 ^ 16 ∧ (d.outp 5).wait = some (.sfn 0) ∧
        atOrAfter d.time.sfn 0 = true) ∧
    ((up .idle).takes pgCLK 0x1074 = true ∧
      (up .idle).outErrs (up .idle).clk.outIdx { (up .idle).outp (up .idle).clk.outIdx with cfg := 0x101 } = []) ∧
    let d := (up .idle).setOut 3 { cfg := 0x101 }
    d.unitOn pgCLK = true ∧ (d.outp 3).mode ≠ 0 ∧ (d.outp 3).wait = none := by
  refine ⟨?_, ?_, ?_, ?_, ?_, ?_, ?_, ?_, ?_, ?_, ?_, ?_, ?_⟩ <;> decide +kernel

theorem witness_SnapLatchesTheTimeBases : (up .idle).takes pgTIME 0x1000 = true := by decide +kernel

theorem witness_TimeAndPortsAdvance :
    ((up .idle).takes pgTIME 0x1044 = true ∧ baseCfgErrs (up .idle) (up .idle).time.baseIdx 0x1000 = [] ∧ (up .idle).time.baseIdx < 4) ∧
    (let d := { up .running with time.baseIdx := 1 };
      d.takes pgTIME 0x1044 = true ∧ d.time.baseIdx = 1 ∧ noStepState d.sys.state = true ∧ (0x40001 : Word) &&& 0xFFF800F8 = 0 ∧
        fld 2 0 (0x40001 : Word) ≤ 1 ∧ 1 ≤ fld 18 8 (0x100 : Word) ∧ fld 18 8 (0x40001 : Word) ≤ 1024) ∧
    (let d := { up .idle with time.baseArr := { cfg := 0x1001, mvalid := true, stepPend := true } };
      d.unitOn pgTIME = true ∧ d.time.baseArr.mvalid = true ∧ d.time.baseArr.master = 1 ∧ d.time.baseArr.stepPend = true) ∧
    (let d := { up .idle with time.baseArr := { cfg := 0x1002, mvalid := true } };
      d.time.baseArr.mvalid = true ∧ d.time.baseArr.master = 2 ∧ d.time.baseArr.stepPend = false ∧ d.time.arr = 0) ∧
    (let d := { up .idle with time.baseSmp.state := .slewing };
      d.unitOn pgTIME = true ∧ d.time.baseSmp.state = .slewing ∧ (d.time.periodsNs d.time.sampleErr).natAbs < 1) ∧
    (let d := { up .idle with time.alarms := [(7, { val := 1 })] };
      d.takes pgTIME (0x1100 + 0x20 * 0) = true ∧ d.takes pgTIME (0x1100 + 0x20 * 7) = true ∧ (0x11 : Word) &&& ~~~(0x33 : Word) = 0 ∧
        bitAt 4 (0x11 : Word) = true ∧ bitAt 5 (0x11 : Word) = false ∧
        reached (fld 1 0 (0x11 : Word)) (d.time.now (fld 1 0 (0x11 : Word))) (Tab.get ({} : Alarm) d.time.alarms 7).val = false ∧
        reached (fld 1 0 (0x11 : Word)) (d.time.now (fld 1 0 (0x11 : Word))) (Tab.get ({} : Alarm) d.time.alarms 0).val = true) ∧
    (let d := { up .idle with time.alarms := [(7, { ctl := 0x30, per := 5 })] };
      d.unitOn pgTIME = true ∧ bitAt 4 (Tab.get ({} : Alarm) d.time.alarms 7).ctl = true ∧
        reached (fld 1 0 (Tab.get ({} : Alarm) d.time.alarms 7).ctl) (d.time.now 0) (Tab.get ({} : Alarm) d.time.alarms 7).val = true) ∧
    (let d := (up .idle).setEport 1 { ctl := 7, link := true, gmid := 1 };
      d.unitOn pgETH = true ∧ bitAt 0 (d.eport 1).ctl = true ∧ (d.eport 1).link = true ∧ d.swts 1 = false) ∧
    (let d := (up .idle).setMport 3 { cfg := 3, state := .run, frame := 1 };
      d.unitOn pgMSP = true ∧ (d.mport 3).en = true ∧ (d.mport 3).state = .run ∧ (d.mport 3).next = none ∧
        (d.mport 3).words.length < 255 ∧ 0 < (d.mport 3).frame ∧ bitAt 1 (d.mport 3).cfg = true) ∧
    (let d := (up .idle).setMport 3 { cfg := 3, state := .clkloss }; (d.mport 3).state = .clkloss ∧ (d.mport 3).words.length < 256) ∧
    ((up .idle).takes pgMSP (0xC000 + 4 * 223) = true ∧ (up .idle).takes pgMSP (0xC000 + 4 * 224) = true ∧
      (up .idle).takes pgMSP (0xC000 + 4 * 255) = true ∧ (up .idle).grantHeld 3 = false) := by
  refine ⟨?_, ?_, ?_, ?_, ?_, ?_, ?_, ?_, ?_, ?_, ?_⟩ <;> decide +kernel

theorem foldl_shaRound_length (l : List Word) (h : List Word) (hh : h.length = 8) : (l.foldl shaRound h).length = 8 := by
  induction l generalizing h with
  | nil => exact hh
  | cons a t ih => exact ih _ rfl

theorem shaBlocks_length (n : Nat) (h : List Word) (l : List Byte) (hh : h.length = 8) : (shaBlocks n h l).length = 8 := by
  induction n generalizing h l with
  | zero => exact hh
  | succ n ih =>
    apply ih
    unfold shaBlock
    simp [List.length_zipWith, foldl_shaRound_length _ _ hh, hh]

theorem flatMap_length (l : List Word) (h : ∀ w, (beBytes 4 w).length = 4) : (l.flatMap fun w => beBytes 4 w.toNat).length = 4 * l.length := by
  induction l with
  | nil => rfl
  | cons a t ih => simp [List.flatMap_cons, h, ih]; omega

theorem mac8_length (k m : List Byte) : (mac8 k m).length = 8 := by
  have h : ∀ w, (beBytes 4 w).length = 4 := fun w => rfl
  unfold mac8 hmac
  rw [List.length_take, sha256, flatMap_length _ h, shaBlocks_length _ _ _ rfl]; rfl

/-- A device in a run at SFN 64 with lane 8 in the PAIR role, bound to peer 3. -/
def pairBase : Dev :=
  { gate with
    ing.act.peer := [(3, { lo := 0xFFFFFF08, valid := true, tag := 7 })]
    ing.act.depth := [(8, 1)]
    ing.buckets := [(8, { tok := tokenUnit })]
    act := [(lroleAddr 8, 4)] }.setReg (bar pgPAIR 0x1000) 5

/-- That device with a state of the pair. -/
def pairGate (p : PairSt) : Dev := { pairBase with pair := p }

/-- What admission reads of a device is no part of its pair's state, nor of the fill of its buckets. -/
theorem gate_reads (d : Dev) (p : PairSt) (bs : List (Nat × Bucket)) :
    let t : Dev := { d with pair := p, ing.buckets := bs }
    t.reqAt = d.reqAt ∧ t.plateAt = d.plateAt ∧ t.roleAt = d.roleAt ∧ t.bankAt = d.bankAt ∧ t.windowClosed = d.windowClosed ∧
      t.frameSfn = d.frameSfn ∧ t.ing.key = d.ing.key :=
  ⟨rfl, rfl, rfl, rfl, rfl, rfl, rfl⟩

/-- The header of a CTRL frame of the partner. -/
def ctrlHdr : List Byte := ({ type := 4, src := 3, session := 7 } : FrameHdr).bytes

/-- A signed CTRL frame with a body. -/
def ctrlFrame (body : List Byte) : List Byte := withTrailer (ctrlHdr ++ body ++ mac8 (List.replicate 32 0) (ctrlHdr ++ body))

/-- A CTRL frame of the partner is admitted, whatever it says. -/
theorem ctrl_admitted (p : PairSt) (body : List Byte) (hp : body.length = 80) :
    ((pairGate p).ingest 8 (ctrlFrame body)).1 = 0 ∧ frType (ctrlFrame body) = 4 ∧
      ∀ o n, o + n ≤ 112 → leAt (ctrlFrame body) o n = leAt (ctrlHdr ++ body) o n := by
  unfold ctrlFrame
  set m := mac8 (List.replicate 32 0) (ctrlHdr ++ body) with hm
  have hml : m.length = 8 := mac8_length _ _
  obtain ⟨hc, ht, hk, hl⟩ := frCrc_withTrailer (ctrlHdr ++ body ++ m)
  have hh : ctrlHdr.length = 32 := by decide
  have hx : ∀ o n, o + n ≤ 112 → leAt (withTrailer (ctrlHdr ++ body ++ m)) o n = leAt (ctrlHdr ++ body) o n := by
    intro o n h
    unfold leAt withTrailer
    rw [List.append_assoc, List.append_assoc, slice_left _ _ _ _ (by rw [List.length_append]; omega)]
  have hy : ∀ o n, o + n ≤ 32 → leAt (withTrailer (ctrlHdr ++ body ++ m)) o n = leAt ctrlHdr o n := by
    intro o n h
    rw [hx o n (by omega)]; unfold leAt; rw [slice_left _ _ _ _ (by omega)]
  have hmac : (withTrailer (ctrlHdr ++ body ++ m)).take 112 = ctrlHdr ++ body ∧
      ((withTrailer (ctrlHdr ++ body ++ m)).drop 112).take 8 = m := by
    have e : (ctrlHdr ++ body).length = 112 := by rw [List.length_append]; omega
    unfold withTrailer
    rw [List.append_assoc, List.append_assoc]
    constructor
    · rw [← e, List.take_left]
    · rw [← e, List.drop_left, ← hml, List.take_left]
  simp only [List.length_append, hh, hp, hml] at hl hk
  generalize withTrailer (ctrlHdr ++ body ++ m) = fr at *
  have e1 : frType fr = 4 := by unfold frType; rw [hy _ _ (by decide)]; decide +kernel
  refine ⟨?_, e1, hx⟩
  have h1 : ((pairGate p).ingest 8 fr).1 =
      (({ pairGate p with lnb.inbox := (pairGate p).lnb.inbox.erase (8, fr) } : Dev).purgeDir.classify 8 fr
        (({ pairGate p with lnb.inbox := (pairGate p).lnb.inbox.erase (8, fr) } : Dev).purgeDir.frameSfn fr)).1 := rfl
  rw [h1]
  have h2 : ({ pairGate p with lnb.inbox := (pairGate p).lnb.inbox.erase (8, fr) } : Dev).purgeDir = pairGate p := by
    have : (pairGate p).lnb.inbox.erase (8, fr) = [] := rfl
    rw [this]; rfl
  rw [h2]
  have h3 : (pairGate p).frameSfn fr = 0 := by
    unfold Dev.frameSfn frSfn; rw [hy _ _ (by decide)]
    exact (show pairBase.frameSfn ctrlHdr = 0 by decide +kernel)
  rw [h3]
  have e2 : frSrc fr = 3 := by unfold frSrc; rw [hy _ _ (by decide)]; decide +kernel
  have e3 : frChgrp fr = 0 := by unfold frChgrp; rw [hy _ _ (by decide)]; decide +kernel
  have e4 : frSession fr = 7 := by unfold frSession; rw [hy _ _ (by decide)]; decide +kernel
  have e6 : frKeyId fr = 0 := by unfold frKeyId; rw [hy _ _ (by decide)]; decide +kernel
  have e5 : frReservedOk fr = true := by
    unfold frReservedOk; rw [e1]; simp only [hy _ _ (show 2 + 2 ≤ 32 by decide), hy _ _ (show 14 + 1 ≤ 32 by decide),
      hy _ _ (show 15 + 1 ≤ 32 by decide), hy _ _ (show 18 + 2 ≤ 32 by decide), hy _ _ (show 22 + 2 ≤ 32 by decide),
      hy _ _ (show 28 + 4 ≤ 32 by decide), hy _ _ (show 1 + 1 ≤ 32 by decide)]; decide +kernel
  obtain ⟨g1, g2, g3, g4, g5, g6, g7⟩ := gate_reads pairBase p
    (Tab.set {} pairBase.ing.buckets 8 { pairBase.refill 8 with tok := (pairBase.refill 8).tok - tokenUnit })
  set t : Dev := { pairBase with
    pair := p
    ing.buckets := Tab.set {} pairBase.ing.buckets 8 { pairBase.refill 8 with tok := (pairBase.refill 8).tok - tokenUnit } } with ht'
  have k : t.macOk fr = true := by
    unfold Dev.macOk
    rw [e6, g7, show pairBase.ing.key 0 = some (List.replicate 32 0) by decide +kernel]
    dsimp only
    rw [hl, show 32 + 80 + 8 + 8 - 16 = 112 by decide, hmac.1, hmac.2, hm]
    exact beq_self_eq_true _
  have mf : t.malformed fr 0 = false := by
    unfold Dev.malformed; simp only [e1, e3, e5, hl, hy _ _ (show 0 + 1 ≤ 32 by decide), hy _ _ (show 1 + 1 ≤ 32 by decide)]
    simp only [hl] at hk
    rw [hk, g1, g2, show t.run = pairBase.run from rfl]
    decide +kernel
  have hcrc : crc32c (fr.take (fr.length - 8)) = frCrc fr := by rw [ht]; exact hc.symm
  have e8 : t.checkFrame 8 fr 0 = 0 := by
    unfold Dev.checkFrame
    rw [if_neg (not_not.2 hcrc), if_neg (by rw [e1]; decide), mf, e1, e2, e4, k]
    rw [g1, g3, g4, g5, show t.run = pairBase.run from rfl, show t.sys = pairBase.sys from rfl,
      show t.time = pairBase.time from rfl, show t.ing.notBefore = pairBase.ing.notBefore from rfl]
    simp only [ne_eq, not_true_eq_false, decide_false, Bool.false_and, if_true]
    decide +kernel
  have h4 : (pairGate p).refill 8 = pairBase.refill 8 := rfl
  have h5 : (pairGate p).roleAt = pairBase.roleAt := rfl
  unfold Dev.classify
  rw [e1, hl, show (pairGate p).ing.laneq = pairBase.ing.laneq from rfl, show (pairGate p).sys = pairBase.sys from rfl,
    show (pairGate p).pwr = pairBase.pwr from rfl, h4, h5, if_neg (by decide +kernel), if_neg (by decide +kernel), if_neg (by omega),
    if_pos (by decide +kernel)]
  dsimp only
  rw [if_neg (by decide +kernel)]
  exact e8

/-- A body of a CTRL message: its kind, the header's other seven bytes 0, and what follows, padded to 80 bytes. -/
def ctrlBody (k : Nat) (rest : List Byte) : List Byte := padTo 80 (leBytes 1 k ++ List.replicate 7 0 ++ rest)

/-- A partner's message is heard as the first copy. -/
theorem pair_hears (p : PairSt) (hr : p.rxSeq = none) (k : Nat) (body : List Byte) (hp : body.length = 80)
    (hk : leAt (ctrlHdr ++ body) 32 1 = k) : (pairGate p).hearsCtrl 8 (ctrlFrame body) k := by
  obtain ⟨h1, h2, h3⟩ := ctrl_admitted p body hp
  refine ⟨?_, ?_, h2, ?_, h1, ?_⟩
  · exact (show pairBase.unitOn pgPAIR = true by decide +kernel)
  · exact (show pairBase.paired = true by decide +kernel)
  · exact (h3 (32 + 0) 1 (by decide)).trans hk
  · intro q hq
    have : p.rxSeq = some q := hq
    rw [hr] at this; cases this

/-- A field of a partner's message. -/
theorem ctrl_field (body : List Byte) (hp : body.length = 80) (o n : Nat) (h : o + n ≤ 80) :
    ctrlAt (ctrlFrame body) o n = leAt (ctrlHdr ++ body) (32 + o) n :=
  (ctrl_admitted {} body hp).2.2 (32 + o) n (by omega)

/-- A pair's state of a standby that is STANDBY_READY, and of an owner. -/
def standby : PairSt := { state := .ready, linkUp := true, streak := 3 }

/-- The start of the body of a mirrored ticket of BMF with a given boundary. -/
def ticketHead (t : Nat) : List Byte :=
  leBytes 1 4 ++ List.replicate 7 0 ++ ([BitVec.ofNat 8 pgBMF, 1] ++ leBytes 2 1 ++ leBytes 6 t ++ List.replicate 6 0)

/-- The body of that ticket with a shadow digest. -/
def ticketBody (t : Nat) (g : BitVec 64) : List Byte := ticketHead t ++ (leBytes 8 g.toNat ++ List.replicate 48 0)

/-- Its fields. -/
theorem ticket_fields (b : Bool) (g : BitVec 64) :
    let l := ctrlHdr ++ ticketBody (0x800000 + if b then 64 else 63) g
    leAt l 32 1 = 4 ∧ leAt l 40 1 = pgBMF ∧ leAt l 41 1 = 1 ∧ leAt l 42 2 = 1 ∧ leAt l 44 6 = 0x800000 + (if b then 64 else 63) ∧
      BitVec.ofNat 64 (leAt l 56 8) = g := by
  intro l
  have hl : (ctrlHdr ++ ticketHead (0x800000 + if b then 64 else 63)).length = 56 := by revert b; decide +kernel
  have hs : ∀ o n, o + n ≤ 56 → leAt l o n = leAt (ctrlHdr ++ ticketHead (0x800000 + if b then 64 else 63)) o n := by
    intro o n h
    unfold leAt
    rw [show l = (ctrlHdr ++ ticketHead (0x800000 + if b then 64 else 63)) ++ (leBytes 8 g.toNat ++ List.replicate 48 0) from
      (List.append_assoc _ _ _).symm, slice_left _ _ _ _ (by omega)]
  rw [hs _ _ (by decide), hs _ _ (by decide), hs _ _ (by decide), hs _ _ (by decide), hs _ _ (by decide)]
  refine ⟨?_, ?_, ?_, ?_, ?_, ?_⟩
  iterate 5 · clear hs hl l; revert b; decide +kernel
  have : slice l 56 8 = leBytes 8 g.toNat := by
    rw [show l = (ctrlHdr ++ ticketHead (0x800000 + if b then 64 else 63)) ++ (leBytes 8 g.toNat ++ List.replicate 48 0) from
      (List.append_assoc _ _ _).symm, ← hl, slice_right, slice_left _ _ _ _ (by rw [leBytes_length])]
    simp [slice, leBytes_length, List.take_of_length_le]
  rw [leAt, this, leNat_leBytes, Nat.mod_eq_of_lt (by have := g.isLt; omega), BitVec.ofNat_toNat, BitVec.setWidth_eq]

/-- What refuses it at a standby whose shadow bank is the owner's. -/
theorem ticket_errs (b : Bool) :
    ((pairGate standby).mirrorErrs pgBMF 1 1 (BitVec.ofNat 48 (0x800000 + if b then 64 else 63))
      ((pairGate standby).shadowDigest pgBMF)).isEmpty = b := by
  unfold Dev.mirrorErrs
  rw [bne_self_eq_false]
  revert b; decide +kernel

/-- The pair's module with physical lane 8 UP in both directions. -/
def linked (p : PairSt) : Dev :=
  { (pairGate p).setLane 8 { state := .up, tx := true, logvalid := true, logic := 8 } with time.loc := 2000000000 }

theorem witness_PairMessagesAreSentAndTaken :
    (let d := linked { standby with lease := true, hbAt := some 2000000000 };
      d.unitOn pgPAIR = true ∧ d.paired = true ∧ d.pairLanes = [8] ∧ d.txOn 8 = true ∧ d.pair.lease = true ∧
        d.pair.state.standby = true ∧ d.within d.pair.hbAt 1000000 = true) ∧
    (∀ t : Fin 2, let m : Unacked := { seq := 1, kind := 4, body := [], tries := 19 + t.val, at_ := 0 };
      let d := linked { standby with unacked := [m] };
      d.unitOn pgPAIR = true ∧ d.pair.unacked = [m] ∧ 50000 ≤ d.since m.at_ ∧ d.pairLanes = [8] ∧ d.txOn 8 = true ∧
        (m.tries < 20 ∨ 20 ≤ m.tries ∧ d.pair.state = .ready)) ∧
    ((pairGate {}).hearsCtrl 8 (ctrlFrame (ctrlBody 1 [])) 1 ∧ (pairGate {}).plt.active.isSome = true) ∧
    ((pairGate { state := .owner, lease := true }).hearsCtrl 8 (ctrlFrame (ctrlBody 2 [])) 2 ∧
      (pairGate { state := .owner, lease := true }).pair.state = .owner) ∧
    (∀ b : Bool, (pairGate { standby with ownIn := b }).hearsCtrl 8 (ctrlFrame (ctrlBody 3 [])) 3 ∧
      (pairGate { standby with ownIn := b }).eligibleNoLink = true ∧ (pairGate { standby with ownIn := b }).pair.ownIn = b ∧
        (pairGate { standby with ownIn := b }).pair.lease = false) ∧
    (∀ b : Bool, let t := 0x800000 + if b then 64 else 63; let d := pairGate standby;
      let fr := ctrlFrame (ticketBody t (d.shadowDigest pgBMF));
      d.hearsCtrl 8 fr 4 ∧ ctrlAt fr 8 1 = pgBMF ∧ ctrlAt fr 9 1 = 1 ∧ isLnb pgBMF = false ∧
        (d.mirrorErrs (ctrlAt fr 8 1) (BitVec.ofNat 16 (ctrlAt fr 10 2)) (ctrlAt fr 9 1) (BitVec.ofNat 48 (ctrlAt fr 12 6))
          (BitVec.ofNat 64 (ctrlAt fr 24 8))).isEmpty = b ∧ d.pair.state = .ready) ∧
    (let fr := ctrlFrame (ctrlBody 5 ([0x11, 0, 0, 0] ++ leBytes 4 65)); let d := pairGate standby;
      d.hearsCtrl 8 fr 5 ∧ ctrlAt fr 8 1 = 0x11 ∧ d.pair.state.standby = true ∧ d.sys.state = .running ∧ d.run.bLast = none ∧
        after (BitVec.ofNat 48 (ctrlAt fr 12 4 + 2 ^ 32 * (ctrlAt fr 16 4 % 65536))) d.time.sfn = true) ∧
    (let fr := ctrlFrame (ctrlBody 6 (leBytes 2 15)); let d := pairGate standby;
      d.hearsCtrl 8 fr 6 ∧ d.pair.state.standby = true ∧ (d.page pgTRG).locked = false ∧ ctrlAt fr 8 2 < 16 ∧ d.pair.thrWait = none) ∧
    (∀ b : Bool, let a : WmRec := { first := 64, wm := if b then 5 else 6, bad := false, at_ := 0 };
      let fr := ctrlFrame (ctrlBody 7 (leBytes 6 64 ++ [0, 0] ++ leBytes 8 5)); let d := pairGate { standby with own := [a] };
      d.hearsCtrl 8 fr 7 ∧ ctrlAt fr 14 1 % 2 = 0 ∧ a.bad = false ∧
        d.pair.own.find? (·.first == BitVec.ofNat 48 (ctrlAt fr 8 6)) = some a ∧ d.pair.peers = [] ∧
        decide (a.wm = BitVec.ofNat 64 (ctrlAt fr 16 8)) = b) ∧
    (pairGate standby).hearsCtrl 8 (ctrlFrame (ctrlBody 8 [])) 8 ∧
    (pairGate standby).hearsCtrl 8 (ctrlFrame (ctrlBody 9 [])) 9 ∧
    (let w : WmRec := { first := 64, wm := 5, bad := false, at_ := 0 }; let d := linked { standby with own := [w] };
      d.unitOn pgPAIR = true ∧ d.pair.own.find? (fun w => decide (1000000000 ≤ d.since w.at_)) = some w) := by
  have hf : ∀ body : List Byte, body.length = 80 → ∀ o n, o + n ≤ 80 →
    ctrlAt (ctrlFrame body) o n = leAt (ctrlHdr ++ body) (32 + o) n := ctrl_field
  refine ⟨by decide +kernel, by decide +kernel, ⟨pair_hears _ rfl _ _ (by decide) (by decide), by decide +kernel⟩,
    ⟨pair_hears _ rfl _ _ (by decide) (by decide), rfl⟩, fun b => ⟨pair_hears _ rfl _ _ (by decide) (by decide), ?_⟩, fun b => ?_,
    ⟨pair_hears _ rfl _ _ (by decide) (by decide), ?_⟩, ⟨pair_hears _ rfl _ _ (by decide) (by decide), ?_⟩, fun b => ?_,
    pair_hears _ rfl _ _ (by decide) (by decide), pair_hears _ rfl _ _ (by decide) (by decide), by decide +kernel⟩
  · revert b; decide +kernel
  · intro t d
    have hl : (ticketBody t (d.shadowDigest pgBMF)).length = 80 := by
      rw [ticketBody, List.length_append, List.length_append, leBytes_length]; revert b; decide +kernel
    obtain ⟨f0, f1, f2, f3, f4, f5⟩ := ticket_fields b (d.shadowDigest pgBMF)
    refine ⟨pair_hears _ rfl _ _ hl f0, ?_⟩
    rw [hf _ hl _ _ (show 8 + 1 ≤ 80 by decide), hf _ hl _ _ (show 9 + 1 ≤ 80 by decide), hf _ hl _ _ (show 10 + 2 ≤ 80 by decide),
      hf _ hl _ _ (show 12 + 6 ≤ 80 by decide), hf _ hl _ _ (show 24 + 8 ≤ 80 by decide), f1, f2, f3, f4, f5]
    exact ⟨rfl, rfl, by decide, ticket_errs b, rfl⟩
  · simp only [hf (ctrlBody 5 ([0x11, 0, 0, 0] ++ leBytes 4 65)) (by decide) _ _ (show 8 + 1 ≤ 80 by decide),
      hf (ctrlBody 5 ([0x11, 0, 0, 0] ++ leBytes 4 65)) (by decide) _ _ (show 12 + 4 ≤ 80 by decide),
      hf (ctrlBody 5 ([0x11, 0, 0, 0] ++ leBytes 4 65)) (by decide) _ _ (show 16 + 4 ≤ 80 by decide)]
    decide +kernel
  · rw [hf (ctrlBody 6 (leBytes 2 15)) (by decide) _ _ (show 8 + 2 ≤ 80 by decide)]
    decide +kernel
  · refine ⟨pair_hears _ rfl _ _ (by decide) (by decide), ?_⟩
    have hl : (ctrlBody 7 (leBytes 6 64 ++ [0, 0] ++ leBytes 8 5)).length = 80 := by decide
    rw [hf _ hl _ _ (show 14 + 1 ≤ 80 by decide), hf _ hl _ _ (show 8 + 6 ≤ 80 by decide), hf _ hl _ _ (show 16 + 8 ≤ 80 by decide)]
    revert b; decide +kernel

theorem witness_PairOwnershipMoves :
    (∀ b : Bool, let d := pairGate { state := .ready, ownIn := b };
      d.unitOn pgPAIR = true ∧ d.calm = true ∧ d.pair.ownIn = b ∧ d.pair.state.standby = true ∧ d.pair.handoffRx = false) ∧
    (let d := pairGate { standby with ownIn := true, handoffRx := true };
      d.unitOn pgPAIR = true ∧ d.calm = true ∧ d.pair.ownIn = true ∧ d.pair.handoffRx = true ∧ d.eligible = true) ∧
    (let d := linked { standby with fellAt := some 0 };
      d.unitOn pgPAIR = true ∧ d.calm = true ∧ d.pair.fellAt = some 0 ∧ d.pair.handoffRx = false ∧ 4000 ≤ d.since 0 ∧
        300000 ≤ d.since 0 ∧ d.within d.pair.ctrlAt 299999 = false ∧ d.eligible = true ∧ d.pairAuto = true ∧ d.pair.lease = false ∧
        d.pair.ownIn = false) ∧
    (let d := linked { standby with ctrlAt := some 0 };
      d.unitOn pgPAIR = true ∧ d.calm = true ∧ d.pair.linkUp = true ∧ d.within d.pair.ctrlAt 999999 = false ∧ d.pair.lease = false ∧
        d.pair.state = .ready) ∧
    (let d := linked { state := .owner, lease := true, leaseEnd := some 1, handing := true };
      d.unitOn pgPAIR = true ∧ d.calm = true ∧ d.paired = true ∧ d.pair.state = .owner ∧ d.pair.lease = true ∧
        d.leaseHeld = false ∧ d.pair.handing = true) ∧
    (let d := linked { standby with lease := true };
      d.unitOn pgPAIR = true ∧ d.pair.lease = true ∧ d.pairAuto = true ∧ d.eligibleNoLink = true ∧
        d.within d.pair.hbAt 999999 = false) ∧
    (let d := pairGate standby; d.unitOn pgPAIR = true ∧ d.calm = true ∧ d.paired = true ∧ d.pair.ilfault = false) ∧
    (let d := pairGate { standby with lease := true }; d.takes pgPAIR 0x1010 = true ∧ d.calm = true ∧ d.pair.lease = true) ∧
    (let d := linked { standby with lease := true, recheck := some 0 };
      d.unitOn pgPAIR = true ∧ d.calm = true ∧ d.pair.lease = true ∧ d.pair.recheck = some 0 ∧ 1000000000 ≤ d.since 0) := by
  refine ⟨?_, ?_, ?_, ?_, ?_, ?_, ?_, ?_, ?_⟩ <;> decide +kernel

/-! ### Ill-formed commands are refused by the check -/

theorem test_wf_offsets :
    [Instr.registerWrite 0 2 0, .misalignedAccess 0 4 4 true, .misalignedAccess 0 4 0 true, .reservedPageAccess 0x10 0 true,
      .atomicAdd 4 true 0, .atomicSwap 2 false 0].all (!·.wellFormed) = true := by decide +kernel

theorem test_wf_addresses :
    [Instr.memoryFreeze 0 (BitVec.ofNat 38 memBytes) 0, .memoryTrainingDone [] [BitVec.ofNat 38 memBytes] [] [] false,
      .selftestDone [] [BitVec.ofNat 38 memBytes] []].all (!·.wellFormed) = true := by decide +kernel

theorem test_wf_lengths :
    [Instr.refreshRatePoll [], .markerRx 0 0 [], .frameDelineate 0 (List.replicate 520 (0, 0)), .sampleFrameRx 0 (List.replicate 4145 0),
      .trigFrameRx 0 (List.replicate 4145 0), .idleFrameRx 0 (List.replicate 4145 0), .bmfTableWrite true 0 [], .trgTableWrite true 0 [],
      .plateSlotWrite true 0 [], .hostInboundRead 0 0 [] [], .hostInboundWrite 0 [] false].all (!·.wellFormed) = true := by decide +kernel

theorem test_wf_control_frames :
    [Instr.heartbeatRx 0 [], .grantRx 0 [], .handoffRx 0 [], .ticketRx 0 [], .commandRx 0 [], .threshRx 0 [], .watermarkRx 0 [],
      .ackRx 0 [], .digestRx 0 []].all (!·.wellFormed) = true := by decide

theorem test_wf_operands :
    [Instr.accopOp 0 false (.shift 41), .loopOp 0 (.imm 1) 256, .descCopy 0 0 [(1, 0), (0, 1)] [], .descFill 0 0 [(1, 0), (0, 1)] [],
      .descCompare 0 0 [(1, 0), (0, 1)] [], .chainPreempt 0 [(1, 0), (0, 1)] []].all (!·.wellFormed) = true := by decide

/-! ### The spec's check values and worked examples -/

/-- The nine ASCII bytes "123456789". -/
def nine : List Byte := [0x31, 0x32, 0x33, 0x34, 0x35, 0x36, 0x37, 0x38, 0x39]

/-- R42, R46 and R320. -/
theorem test_crc_check_values : crc16 nine = 0x29B1 ∧ crc32c nine = 0xE3069283 ∧ crc64 nine = 0x6C40DF5F0B497347 := by decide +kernel

/-- Chapter 2, "anchoring": START at 0x0123_4567_89AB with SHEET_OFFSET 0x1000 and K_s 0x8000. -/
theorem test_s0_worked_example : nextGrid 0x0123456789AB 0x1000 0 0x8000 = 0x012345679000 := by decide +kernel

/-- Chapter 5, "one 8+8 product", from four cells of 4+4. -/
theorem test_pooled_product : pooledSum (fun _ => (-93, 50)) (fun _ => (117, -8)) 1 = (-11281, 5106) := by decide +kernel

/-- Chapter 8, "one weight": φ, P(1,536) and W8. -/
theorem test_weight_worked_example :
    phase 1638400 1717986918 16384 1006766 = 1536 ∧ phasor 1536 = (-23170, 23170) ∧ weight (100, -20) 1536 = ((-57, 85), 0) := by
  decide +kernel

/-- Chapter 8, "a four-block ramp" (R221). -/
theorem test_ramp_worked_example : [1, 2, 3, 4].map (rampComp 40 (-57) 4) = [16, -8, -33, -57] := by decide +kernel

/-- Chapter 10, "guard bits, scaling and rounding" (R266). -/
theorem test_mva_worked_example :
    accMove 15 1207959552 = (32767, true) ∧ accMove 16 1207959552 = (18432, false) ∧ accMove 15 81920 = (2, false) ∧
      accMove 15 49152 = (2, false) := by decide +kernel

/-- Chapter 20, "a ramped weight change": PERR after E_LOCK at word 0x2000 and E_SEQ at word 0x000A (R524). -/
theorem test_perr_worked_example :
    (({} : Perr).record eLOCK 0x2000).word32 = 0x01200004 ∧ ((({} : Perr).record eLOCK 0x2000).record eSEQ 0xA).word32 = 0x82000A0A := by
  decide +kernel

/-- Chapter 21, "one lane register": PID of lane group 7, and E_PERM at word 0x491 for a write of LSTAT. -/
theorem test_lane_register_worked_example :
    (up .idle).readHeader 0x1F 0 = 0x01180701 ∧
      (∃ t, exec (.registerWrite 0x1F 0x1244 1) (st (up .idle)) = .next t ∧ (t.dev.page 0x1F).perr.word = 0x491 ∧
        (t.dev.page 0x1F).perr.code = ePERM) := ⟨by decide +kernel, _, rfl, by decide +kernel, by decide +kernel⟩

end Sys2Proof.Tests
end

/-! PROOFS. STOP and QUIESCE (R27, R513): what each does to the run, and that the end of the command keeps it. -/

namespace Sys2Proof.Machine

/-! ### What the end of a passed command leaves -/

theorem Dev.ended_run {e : Dev} {code r} : (e.cmdEnd code r).settle.settle.run = e.run :=
  Frame.run_eq Dev.ended_frame (by decide)

theorem Dev.ended_hat {e : Dev} {code r} : (e.cmdEnd code r).settle.settle.hat = e.hat :=
  Frame.hat_eq Dev.ended_frame (by decide)

theorem Dev.ended_state {e : Dev} {code r} : (e.cmdEnd code r).settle.settle.sys.state = e.sys.state :=
  Frame.state_eq Dev.ended_frame (by decide)

/-! ### STOP (R27) -/

/-- STOP writes B_last and nothing else of the run: the message to the partner touches no field of it. -/
theorem Dev.stop_run (d : Dev) : d.stop.run = { d.run with bLast := some d.reamBoundary } :=
  Frame.run_eq Dev.mirrorCmd_frame (by decide)

theorem Dev.stop_state (d : Dev) : d.stop.sys.state = d.sys.state := Frame.state_eq Dev.stop_frame (by decide)

/-- STOP is legal in RUNNING only (R537). -/
theorem Dev.running_of_stop_passes {d : Dev} (h : d.cmdPasses 0x11) : d.sys.state = .running := by
  obtain ⟨-, -, hc⟩ := h
  have hl : cmdLegal 0x11 d.sys.state = true := Dev.cmdRefused_legal hc
  simpa [cmdLegal] using hl

/-- An accepted STOP completes, fixes B_last and stays RUNNING. -/
theorem stop_completes {s : State} (h : s.dev.cmdPasses 0x11) (he : s.dev.stopErrs = []) :
    Completes .stop s fun e =>
      s.dev.cmdDone e 0x11 eOK ∧ e.run.bLast = some s.dev.reamBoundary ∧ e.sys.state = .running := by
  refine .of_cmd (o := false) rfl h (Dev.cmdDo_nil he) (congrArg _ (Frame.cmdstat_eq Dev.stop_frame (by decide))) ⟨?_, ?_⟩
  · rw [Dev.ended_run, Dev.stop_run]
  · rw [Dev.ended_state, Dev.stop_state, Dev.running_of_stop_passes h]

/-! ### QUIESCE (R513) -/

theorem Dev.runOver_run (d : Dev) : d.runOver.run = { d.run with live := false, bLast := none, outgoing := none } :=
  Frame.run_eq Dev.mergeNext_frame (by decide)

/-- The stop of the data path ends the run as its regular end does; cutting the open captures and flagging suspect channels touch no
field of it. -/
theorem Dev.dataStop_run (d : Dev) : d.dataStop.run = { d.run with live := false, bLast := none, outgoing := none } := by
  have hc : d.cutOpenCaptures.suspectFlagsClose.run = d.run :=
    (Frame.run_eq Dev.suspectFlagsClose_frame (by decide)).trans (Frame.run_eq Dev.cutOpenCaptures_frame (by decide))
  unfold Dev.dataStop
  rw [Dev.runOver_run, ← hc]

/-- The stop of the data path leaves the hatch array no sheet, neither in hand nor queued (R129). -/
theorem Dev.dataStop_hat (d : Dev) : d.dataStop.hat.sheet = none ∧ d.dataStop.hat.queue = [] := by
  unfold Dev.dataStop
  rw [Frame.hat_eq Dev.runOver_frame (by decide)]
  exact ⟨rfl, rfl⟩

/-- The state after QUIESCE, read off the stopped data path: the change of state and the pair's answer touch neither the run
nor the hatch array. -/
theorem Dev.quiesce_parts (d : Dev) :
    d.quiesce.sys.state = .quiesced ∧ d.quiesce.run = d.dataStop.run ∧ d.quiesce.hat = d.dataStop.hat := by
  have hs : Frame [.pba, .pirq, .state, .out] d.dataStop (d.dataStop.setState .quiesced) := Dev.setState_frame
  have hp : Frame [.pba, .pirq, .live, .out, .lnb, .pair] (d.dataStop.setState .quiesced) d.quiesce := Dev.pairSync_frame
  exact ⟨(Frame.state_eq hp (by decide)).trans (Dev.setState_state _ _),
    (Frame.run_eq hp (by decide)).trans (Frame.run_eq hs (by decide)),
    (Frame.hat_eq hp (by decide)).trans (Frame.hat_eq hs (by decide))⟩

/-- A QUIESCE that passes R536 completes: it has no check of its own. -/
theorem quiesce_completes {s : State} (h : s.dev.cmdPasses 0x12) :
    Completes .quiesce s fun e =>
      s.dev.cmdDone e 0x12 eOK ∧ e.sys.state = .quiesced ∧ e.run.live = false ∧ e.run.bLast = none ∧ e.hat.sheet = none ∧
        e.hat.queue = [] := by
  refine .of_cmd (o := false) rfl h (Dev.cmdDo_nil rfl) (congrArg _ (Frame.cmdstat_eq Dev.quiesce_frame (by decide))) ?_
  obtain ⟨hstate, hrun, hhat⟩ := s.dev.quiesce_parts
  rw [Dev.ended_state, Dev.ended_run, Dev.ended_hat, hstate, hrun, hhat, Dev.dataStop_run]
  exact ⟨rfl, rfl, rfl, s.dev.dataStop_hat⟩

/-- Settles O9: the frame of each command's end carries over what STOP and QUIESCE do to the run, the state and the hatch
array. -/
theorem stopAndQuiesceEndTheRun : Obligations.StopAndQuiesceEndTheRun :=
  ⟨fun _ h he => stop_completes h he, fun _ h => quiesce_completes h⟩

end Sys2Proof.Machine

/-! PROOFS. Ingest and the run's boundaries (chapters 02 and 03): what the checks of a frame leave of the duplicate directory, what
the ING registers hold after a write, and what happens at a boundary. -/

namespace Sys2Proof.Machine

/-! ### Events of a unit and host writes that reach it -/

/-- An event of a unit that serves has its effect. -/
theorem Completes.of_onPage {c : Instr} {s : State} {p : Nat} {f : Dev → Dev} {P : Dev → Prop}
    (h : exec c s = s.run fun d => d.onPage p f) (hu : s.dev.unitOn p = true) (hp : P (f s.dev)) : Completes c s P :=
  .of_run h ((Dev.onPage_on hu).symm ▸ hp)

/-- A host write that reaches its register has its effect, and the block settles. -/
theorem Completes.of_hostWr {c : Instr} {s : State} {p o : Nat} {f : Dev → Dev} {P : Dev → Prop}
    (h : exec c s = s.run fun d => d.hostWr p o f) (ht : s.dev.takes p o = true) (hp : P (f s.dev).settle) : Completes c s P :=
  .of_run h ((Dev.hostWr_takes ht).symm ▸ hp)

/-! ### The duplicate directory through the checks (R52, R54, R59)

Of the checks only the purge of the slots whose window has closed touches the directory: policing, accounting and quarantine write
other fields of the ingest unit. -/

@[simp] theorem Dev.ingCount_ing (d : Dev) (sh : Option Sfn) (o n : Nat) : (d.ingCount sh o n).ing = d.ing :=
  Frame.ing_eq Dev.ingCount_frame (by decide)

@[simp] theorem Dev.raise_ing (d : Dev) (p : Nat) (b : Word) : (d.raise p b).ing = d.ing :=
  Frame.ing_eq Dev.raise_frame (by decide)

@[simp] theorem Dev.bump_ing (d : Dev) (p o n : Nat) : (d.bump p o n).ing = d.ing := rfl

@[simp] theorem IngSt.setSheet_dir (g : IngSt) (a : SheetAcc) : (g.setSheet a).dir = g.dir := rfl

/-- Policing takes a token of the lane's bucket at most (R60): every outcome of the checks has the directory as it was. -/
theorem Dev.classify_dir (d : Dev) (l : Nat) (fr : List Byte) (f : Sfn) : (d.classify l fr f).2.ing.dir = d.ing.dir := by
  unfold Dev.classify
  simp only [apply_ite Prod.snd, apply_ite Dev.ing, apply_ite IngSt.dir, ite_self]

theorem Dev.account_dir (d : Dev) (l : Nat) (fr : List Byte) (f : Sfn) (c : Nat) : (d.account l fr f c).ing.dir = d.ing.dir := by
  unfold Dev.account
  dsimp only
  split <;> simp

theorem Dev.crcFail_dir (d : Dev) (l : Nat) : (d.crcFail l).ing.dir = d.ing.dir := by
  unfold Dev.crcFail
  extract_lets now old new
  split
  · rw [Dev.raise_ing, Dev.bump_ing]
  · rfl

theorem Dev.conflictMark_dir (d : Dev) (fr : List Byte) (f : Sfn) : (d.conflictMark fr f).ing.dir = d.ing.dir := by
  unfold Dev.conflictMark
  extract_lets r sh d1
  have h1 : d1.ing.dir = d.ing.dir := by
    simp only [d1]
    split <;> simp
  split
  · rw [Dev.raise_ing, h1]
  · exact h1

/-- What follows the class of a checked frame: counts of CRC failures, `MACFAIL`, the mark of a conflict (R61, R66). -/
def Dev.classEffect (d : Dev) (l : Nat) (fr : List Byte) (f : Sfn) (c : Nat) : Dev :=
  if c = 4 then d.crcFail l
  else if c = 9 then (if bitAt 3 (d.page pgING).pirq then d else d.raise pgING 0x8)
  else if c = 15 then d.conflictMark fr f
  else d

/-- The device whose checks judge a frame: the frame has left the inbox, and the directory is purged (R59). -/
def Dev.judging (d : Dev) (l : Nat) (fr : List Byte) : Dev :=
  ({ d with lnb.inbox := d.lnb.inbox.erase (l, fr) } : Dev).purgeDir

/-- The checks of R52 in order: the class, its counts, what follows it. -/
theorem Dev.ingest_eq (d : Dev) (l : Nat) (fr : List Byte) :
    d.ingest l fr =
      let x := (d.judging l fr).classify l fr (d.frameSfn fr)
      (x.1, d.frameSfn fr, (x.2.account l fr (d.frameSfn fr) x.1).classEffect l fr (d.frameSfn fr) x.1) := rfl

theorem Dev.ingest_sfn (d : Dev) (l : Nat) (fr : List Byte) : (d.ingest l fr).2.1 = d.frameSfn fr := rfl

theorem Dev.classEffect_dir (d : Dev) (l : Nat) (fr : List Byte) (f : Sfn) (c : Nat) :
    (d.classEffect l fr f c).ing.dir = d.ing.dir := by
  unfold Dev.classEffect
  split_ifs
  · exact d.crcFail_dir l
  · rfl
  · rw [Dev.raise_ing]
  · exact d.conflictMark_dir fr f
  · rfl

/-- The checks leave the slots whose window is open, and take none (R59). -/
theorem Dev.ingest_dir (d : Dev) (l : Nat) (fr : List Byte) : (d.ingest l fr).2.2.ing.dir = d.openDir := by
  rw [Dev.ingest_eq]
  dsimp only
  rw [Dev.classEffect_dir, Dev.account_dir, Dev.classify_dir]
  rfl

theorem Dev.ingest_dir_subset (d : Dev) (l : Nat) (fr : List Byte) : (d.ingest l fr).2.2.ing.dir ⊆ d.ing.dir := by
  rw [Dev.ingest_dir]
  exact List.filter_subset_self _

/-! ### Frames outside a run, and frames on a quarantined lane (R52, R61) -/

/-- Outside a run a frame counts in its class, and not in any sheet (R592). -/
theorem Dev.account_cnt {d : Dev} {l : Nat} {fr : List Byte} {f : Sfn} {c : Nat} (hrun : d.run.live = false) :
    (d.account l fr f c).cnt pgING (0x100 + 8 * c) = d.cnt pgING (0x100 + 8 * c) + 1 := by
  have hout : (!d.sheetRemains) = true := by simp [Dev.sheetRemains, hrun]
  have hne : bar pgING (0x100 + 8 * c) ≠ bar pgING (laneClassOff l c) := by unfold bar laneClassOff; omega
  unfold Dev.account
  dsimp only
  split
  case h_1 hnone =>
    rw [hnone]
    dsimp only [Dev.ingCount]
    rw [Dev.cnt_bump, if_neg hne, Dev.cnt_bump, if_pos rfl]
    rfl
  case h_2 sheet hsome => exact absurd ((if_pos hout).symm.trans hsome) (by simp)

/-- Check 1: a quarantined lane's frames are class 1 (R61). -/
theorem Dev.classify_quarantined {d : Dev} {l : Nat} {fr : List Byte} {f : Sfn} (h : d.ing.laneq.getLsbD l = true) :
    d.classify l fr f = (1, d) := if_pos h

/-- A frame on a quarantined lane counts in class 1. -/
theorem Dev.ingest_quarantined {d : Dev} {l : Nat} {fr : List Byte} (hq : d.ing.laneq.getLsbD l = true)
    (hrun : d.run.live = false) :
    (d.ingest l fr).1 = 1 ∧ (d.ingest l fr).2.2.cnt pgING 0x108 = d.cnt pgING 0x108 + 1 := by
  have hk : (d.judging l fr).classify l fr (d.frameSfn fr) = (1, d.judging l fr) := Dev.classify_quarantined hq
  rw [Dev.ingest_eq, hk]
  exact ⟨rfl, Dev.account_cnt (d := d.judging l fr) (c := 1) hrun⟩

/-- A SAMPLE frame that a check refuses has no effect but that of the checks. -/
theorem Dev.sampleFrame_refused {d : Dev} {l : Nat} {fr : List Byte} (hrole : d.role l ≠ 0) (ht : frType fr = 1)
    (hc : (d.ingest l fr).1 ≠ 0) : d.sampleFrame l fr = (d.ingest l fr).2.2 := by
  unfold Dev.sampleFrame
  rw [if_neg (by simp [hrole, ht]), if_neg (by simp [ht])]
  exact if_pos hc

/-- An IDLE frame has no effect but that of the checks. -/
theorem Dev.idleFrameRx_eq {d : Dev} {l : Nat} {fr : List Byte} (hrole : d.role l ≠ 0) (ht : frType fr = 15) :
    d.idleFrameRx l fr = (d.ingest l fr).2.2 :=
  if_neg (by simp [hrole, ht])

/-- Settles O37: the checks leave the open slots of the directory, and only an admitted frame adds its own. -/
theorem framesAreJudgedByIngest : Obligations.FramesAreJudgedByIngest := by
  refine ⟨?_, ?_, ?_, ?_⟩
  · intro s l fr hu hrole ht hc
    refine .of_onPage rfl hu ⟨_, ?_, s.dev.ingest_dir_subset l fr⟩
    rw [Dev.sampleFrame_facts hrole (by simp [ht]) (by simp [ht]) (by simp [ht]) hc, Dev.ingest_sfn, ht]
    rfl
  · intro s l fr hu hrole ht hc
    exact .of_onPage rfl hu ⟨_, Dev.trigFrameRx_facts hrole ht hc, s.dev.ingest_dir_subset l fr⟩
  · intro s l fr hu hrole ht hq hst hlev hlen hcrc hrun
    refine .of_onPage rfl hu ?_
    rw [Dev.idleFrameRx_eq hrole ht]
    exact (Dev.ingest_idle ht hq hst hlev hlen hcrc hrun).2
  · intro s l fr hu hrole ht hq hrun
    obtain ⟨hclass, hcnt⟩ := Dev.ingest_quarantined (fr := fr) hq hrun
    refine .of_onPage rfl hu ?_
    rw [Dev.sampleFrame_refused hrole ht (by simp [hclass])]
    exact ⟨hcnt, s.dev.ingest_dir_subset l fr⟩

/-! ### LANEQ (R61) -/

/-- Word `k` of a 256-bit register: bit `l` of the register is bit `l % 32` of word `l / 32`. -/
theorem getLsbD_wordAt (v : Word) (k : Nat) {l : Nat} (hl : l < 256) :
    ((v.setWidth 256) <<< (32 * k)).getLsbD l = (decide (l / 32 = k) && v.getLsbD (l % 32)) := by
  rw [BitVec.getLsbD_shiftLeft, BitVec.getLsbD_setWidth]
  rcases Nat.lt_trichotomy (l / 32) k with h | h | h
  · simp [show l < 32 * k by omega, Nat.ne_of_lt h]
  · simp [hl, h, show ¬ l < 32 * k by omega, show l - 32 * k = l % 32 by omega, show l % 32 < 256 by omega]
  · simp [BitVec.getLsbD_of_ge v (l - 32 * k) (by omega), Nat.ne_of_gt h]

theorem Dev.laneqRelease_laneq (d : Dev) (k : Nat) (v : Word) {l : Nat} (hl : l < 256) :
    (d.laneqRelease k v).ing.laneq.getLsbD l =
      (d.ing.laneq.getLsbD l && !(decide (l / 32 = k) && v.getLsbD (l % 32))) := by
  rw [← getLsbD_wordAt v k hl]
  unfold Dev.laneqRelease
  simp [hl]

/-! ### MACKEYCTL (R74, R76) -/

/-- A key slot takes a key, or none. -/
def IngSt.setKey (g : IngSt) (slot : Bool) (k : Option (List Byte)) : IngSt :=
  if slot then { g with keys1 := k } else { g with keys0 := k }

theorem IngSt.key_setKey_self (g : IngSt) (slot : Bool) (k : Option (List Byte)) : (g.setKey slot k).key (b2n slot) = k := by
  cases slot <;> rfl

theorem IngSt.key_setKey_other (g : IngSt) (slot : Bool) (k : Option (List Byte)) :
    (g.setKey slot k).key (b2n (!slot)) = g.key (b2n (!slot)) := by
  cases slot <;> rfl

/-- LOAD of a slot: it takes the staged key, and the staged words are given up. -/
theorem Dev.macKeyCtl_load (d : Dev) (slot : Bool) : d.macKeyCtl (0x100 ||| bit 0 slot) =
    { d with ing := { d.ing.setKey slot (some d.ing.stagedKey) with keyStage := [] } } := by
  unfold Dev.macKeyCtl
  cases slot <;> exact Dev.guard_of (by decide)

/-- CLEAR of a slot: it holds no key. -/
theorem Dev.macKeyCtl_clear (d : Dev) (slot : Bool) : d.macKeyCtl (0x200 ||| bit 0 slot) =
    { d with ing := d.ing.setKey slot none } := by
  unfold Dev.macKeyCtl
  cases slot <;> exact Dev.guard_of (by decide)

/-- Settles O38: each write reaches its register, and settling leaves the ingest unit as the write left it. -/
theorem ingestRegistersTakeEffect : Obligations.IngestRegistersTakeEffect := by
  refine ⟨?_, ?_, ?_, ?_⟩
  · intro s k v ht
    refine .of_hostWr rfl ht fun l hl => ?_
    rw [Dev.settle_ing]
    exact s.dev.laneqRelease_laneq k v hl
  · intro s v ht herr
    refine .of_hostWr rfl ht ?_
    rw [Dev.settle_ing]
    exact Dev.bindHi_facts herr
  · intro s slot ht
    refine .of_hostWr rfl ht ?_
    rw [Dev.settle_ing, Dev.macKeyCtl_load]
    exact ⟨IngSt.key_setKey_self .., IngSt.key_setKey_other .., rfl⟩
  · intro s slot ht
    refine .of_hostWr rfl ht ?_
    rw [Dev.settle_ing, Dev.macKeyCtl_clear]
    exact ⟨IngSt.key_setKey_self .., IngSt.key_setKey_other ..⟩

/-! ### Frame sets, sheets, reams, B_last and takeovers (R25, R27, R35, R65) -/

/-- A frame set that closes first joins those its group has closed without a gap; one that closes beyond a gap is kept apart. -/
theorem Dev.frameSetClose_facts {d : Dev} {g : Nat} {f : Sfn} {ov : Bool} {lat : Nat} (hc : d.setCloses g f = true)
    (ht : d.tablesPending f = false) :
    (d.ing.closed = [] → f = d.closedTo g → (d.frameSetClose g f ov lat).ing.closed = [] ∧
      (d.frameSetClose g f ov lat).closedTo g = f + BitVec.ofNat 48 (d.reqAt f).lf) ∧
    (d.ing.closed.contains (g, d.closedTo g) = false → f ≠ d.closedTo g →
      (d.frameSetClose g f ov lat).ing.closed = d.ing.closed ++ [(g, f)]) := by
  obtain ⟨hing, hrun⟩ := Dev.frameSetClose_closed (o := ov) (lat := lat) hc ht
  rw [hing, Dev.closedTo_of (congrArg _ hing) hrun]
  exact ⟨Dev.closeSet_next, Dev.closeSet_late⟩

/-- Settles O39: each event is due, its unit serves, and settling leaves the run, its counts and the plates. -/
theorem runBoundariesTakeEffect : Obligations.RunBoundariesTakeEffect := by
  refine ⟨?_, ?_, ?_, ?_, ?_⟩
  · intro s g f ov lat hu hc ht
    exact .of_onPage rfl hu (Dev.frameSetClose_facts hc ht)
  · intro s hu hdue hream
    exact .of_onPage rfl hu (Dev.sheetComplete_facts hdue hream)
  · intro s hdue hst
    refine .of_settled rfl ?_
    rw [Dev.settle_run, Dev.settle_reamcnt, Dev.settle_state]
    exact Dev.statisticsLatch_facts hdue hst
  · intro s b hb hst hat hlast
    refine .of_settled rfl ?_
    rw [Dev.settle_run, Dev.settle_state]
    split
    case isTrue h =>
      subst h
      exact Dev.stopBoundary_none hb hst hat
    case isFalse h => exact Dev.stopBoundary_drain hb hst hat h (hlast h)
  · intro s b q old hb hq hold hlive hat
    refine .of_settled rfl ?_
    rw [Dev.settle_plt, Dev.settle_run]
    exact Dev.plateTakeover_facts hb hq hold hlive hat

end Sys2Proof.Machine

/-! PROOFS. The hatch array (chapter 05): the place the next pass run takes in the plan, QMASK after a write of one of its words,
and the close of a ream's suspect flags. -/

namespace Sys2Proof.Machine

/-- Settles O41: each event comes while its unit serves; of a pass run's parts only the advance in the plan moves the
correlator's place (R122), and settling leaves QMASK as the write left it (R130). -/
theorem hatchArrayRunsPasses : Obligations.HatchArrayRunsPasses := by
  refine ⟨?_, ?_, ?_⟩
  · intro s bad h c rest hu hrun hlev hsheet hchans
    exact .of_onPage rfl hu (Dev.passRun_facts hrun hlev hsheet hchans)
  · intro s k v ht hrsvd
    refine .of_hostWr rfl ht fun j => ?_
    rw [Dev.settle_hat]
    exact Dev.qmaskWrite_facts k.isLt hrsvd j
  · intro s c hu hclosing
    obtain ⟨hunver, hrecord, -, -⟩ := Dev.suspectFlags_facts hclosing
    exact .of_onPage rfl hu ⟨hunver, hrecord⟩

end Sys2Proof.Machine

/-! PROOFS. The plates (chapter 07): the commands that move the staged slot, how a build or proof ends, and what a host write into
a slot window stores. -/

namespace Sys2Proof.Machine

/-! ### BUILD, PROOF and ARM (R187, R191, R196) -/

theorem Dev.ended_plt {e : Dev} {code r} : (e.cmdEnd code r).settle.settle.plt = e.plt :=
  Frame.plt_eq Dev.ended_frame (by decide)

/-- An ARM that no check refuses is ARM's effect and then the message to the partner. -/
theorem Dev.armCmd_accepted {d : Dev} {arg : Word} (hstandby : d.pair.state.standby = false) (he : (d.armErrs arg).1 = [])
    (hroles : d.armRoleErrs = []) : ∃ args, d.armCmd arg = (eOK, d.armAll.mirrorCmd 0x32 args) := by
  unfold Dev.armCmd
  dsimp only
  rw [hstandby, he, hroles]
  exact ⟨_, rfl⟩

/-- An accepted ARM completes with the staged plate ARMED; the message to the partner touches neither the plates nor the state. -/
theorem arm_completes {s : State} {q : Plate} (h : s.dev.cmdPasses 0x32) (hstandby : s.dev.pair.state.standby = false)
    (he : (s.dev.armErrs (s.dev.cmdArg 0)).1 = []) (hroles : s.dev.armRoleErrs = []) (hq : s.dev.plt.stagedP = some q) :
    Completes .arm s fun e => s.dev.cmdDone e 0x32 eOK ∧ e.plt.staged = .armed ∧ e.plt.stagedP = some q ∧
      (s.dev.sys.state = .ready ∨ s.dev.sys.state = .idle → e.sys.state = .idle) ∧
      (s.dev.sys.state = .running → e.sys.state = .running ∧ e.plt.armPend = true ∧ e.plt.armSfn = s.dev.reamBoundary) := by
  obtain ⟨args, hcmd⟩ := Dev.armCmd_accepted hstandby he hroles
  have hgen : (s.dev.armAll.mirrorCmd 0x32 args).sys.cmdstat = s.dev.sys.cmdstat :=
    (Frame.cmdstat_eq Dev.mirrorCmd_frame (by decide)).trans (Frame.cmdstat_eq Dev.armAll_frame (by decide))
  refine .of_cmd (o := false) rfl h hcmd (congrArg _ hgen) ?_
  rw [Dev.ended_plt, Dev.ended_state, Frame.plt_eq Dev.mirrorCmd_frame (by decide), Frame.state_eq Dev.mirrorCmd_frame (by decide)]
  obtain ⟨hstaged, hplate, hready, hidle, hrunning⟩ := s.dev.armAll_facts hq
  exact ⟨hstaged, hplate, fun hst => hst.elim hready hidle, hrunning⟩

/-! ### DISARM (R198) -/

/-- DISARM of an ARMED slot in READY or IDLE passes its checks, and the change of state touches no plate. -/
theorem Dev.disarm_plt {d : Dev} (hst : d.sys.state = .ready ∨ d.sys.state = .idle) (harmed : d.plt.staged = .armed) :
    (d.disarm 1).plt = { d.plt with staged := .proofed, armPend := false } := by
  have hlegal : (d.sys.state == .ready || d.sys.state == .idle) = true := by simpa using hst
  unfold Dev.disarm
  rw [Dev.guard_of (by simp [hlegal, harmed, when']), if_pos (by decide)]
  dsimp only
  split
  · exact Frame.plt_eq Dev.setState_frame (by decide)
  · rfl

/-- The roles that DISARM gives back (R315) touch no plate. -/
theorem Dev.slotCtlWrite_disarm {d : Dev} (hst : d.sys.state = .ready ∨ d.sys.state = .idle) (harmed : d.plt.staged = .armed) :
    (d.slotCtlWrite 1).plt = { d.plt with staged := .proofed, armPend := false } := by
  have hplt : (d.slotCtlWrite 1).plt = (d.disarm 1).plt := by
    unfold Dev.slotCtlWrite
    dsimp only
    split
    · exact Frame.plt_eq Dev.rolesNow_frame (by decide)
    · rfl
  exact hplt.trans (Dev.disarm_plt hst harmed)

/-- Settles O11: the end of a command and settling leave the plates as the command left them. -/
theorem plateCommandsMoveTheStagedSlot : Obligations.PlateCommandsMoveTheStagedSlot := by
  refine ⟨?_, ?_, ?_, ?_⟩
  · intro s h he
    refine .of_cmd (o := false) rfl h (Dev.cmdDo_nil he) rfl ?_
    rw [Dev.ended_plt]
    exact ⟨rfl, rfl, rfl, rfl, rfl, rfl⟩
  · intro s h he
    refine .of_cmd (o := false) rfl h (Dev.cmdDo_nil he) rfl ?_
    rw [Dev.ended_plt]
    exact ⟨rfl, rfl, rfl, rfl⟩
  · intro s q h hstandby he hroles hq
    exact arm_completes h hstandby he hroles hq
  · intro s ht hst harmed
    refine .of_hostWr rfl ht ?_
    rw [Dev.settle_plt, Dev.slotCtlWrite_disarm hst harmed]
    exact ⟨rfl, rfl⟩

/-! ### How a build or proof ends (R188 to R192) -/

/-- An event of a unit that serves has its effect, and the block settles. -/
theorem Completes.of_onPage_settled {c : Instr} {s : State} {p : Nat} {f : Dev → Dev} {P : Dev → Prop}
    (h : exec c s = s.settled fun d => d.onPage p f) (hu : s.dev.unitOn p = true) (hp : P (f s.dev).settle) : Completes c s P :=
  .of_settled h ((Dev.onPage_on hu).symm ▸ hp)

/-- The plate unit is `e` once the build or proof that `p` had in progress has ended with code `c`, its slot in state `st`. That no
operation then shows is log entry 30. -/
structure PltSt.Ended (p e : PltSt) (st : SlotState) (c : Code) : Prop where
  busy : e.busy = false
  ready : e.ready = true
  gen : e.gen = p.gen + 1
  op : e.op = 0
  staged : e.staged = st
  code : e.code = c

/-- Which plate the slot then holds, and whether its budget shows, is no part of the result. -/
theorem PltSt.Ended.withPlate {p e : PltSt} {st : SlotState} {c : Code} (h : p.Ended e st c) (q : Option Plate) (b : Bool) :
    p.Ended { e with stagedP := q, budValid := b } st c :=
  ⟨h.busy, h.ready, h.gen, h.op, h.staged, h.code⟩

theorem Dev.pltEnd_ended (d : Dev) (st : SlotState) (x : Refused) : d.plt.Ended (d.pltEnd st x).plt st x.code := by
  obtain ⟨v, o, h⟩ := d.pltEnd_plt st x
  rw [h]
  exact ⟨rfl, rfl, rfl, rfl, rfl, rfl⟩

theorem Dev.pltEnd_mem (d : Dev) (st : SlotState) (x : Refused) : (d.pltEnd st x).mem = d.mem :=
  Frame.mem_eq Dev.pltEnd_frame (by decide)

/-- The plate that a build in progress plans from its snapshots (R187). -/
def Dev.plannedPlate (d : Dev) : Plate := mkPlate (Req.parse d.plt.snapReq) d.plt.snapQ d.plt.snapExcl bldver

/-- The image of the planned plate. -/
def Dev.plannedImage (d : Dev) : List Byte :=
  buildImage d.plannedPlate d.plt.snapReq (fmapBytes d.plt.snapQ d.plt.snapExcl)

section
variable {d : Dev} (hbusy : d.plt.busy = true)
include hbusy

theorem Dev.buildDone_refused (hop : d.plt.op = 1) {x : Refused}
    (hx : buildRefused d d.plt.snapReq d.plannedPlate = some x) :
    d.plt.Ended d.buildDone.plt .empty x.code ∧ d.buildDone.mem = d.mem := by
  have hend : d.buildDone = d.pltEnd .empty x := by
    unfold Dev.plannedPlate at hx
    unfold Dev.buildDone
    rw [if_neg (by simp [hbusy, hop])]
    dsimp only
    rw [hx]
  rw [hend]
  exact ⟨d.pltEnd_ended .empty x, d.pltEnd_mem .empty x⟩

theorem Dev.buildDone_passed (hop : d.plt.op = 1) (hx : buildRefused d d.plt.snapReq d.plannedPlate = none) :
    d.plt.Ended d.buildDone.plt .loaded 0 ∧ d.buildDone.plt.stagedP ≠ none ∧
      d.buildDone.mem = memPut d.mem (slotBase d.plt.stagedSlot) d.plannedImage := by
  have hend : ∃ q, d.buildDone = { (d.putBytes (slotBase d.plt.stagedSlot) d.plannedImage).pltEnd .loaded { code := 0 } with
      plt.stagedP := some q, plt.budValid := true } := by
    unfold Dev.plannedPlate at hx
    unfold Dev.buildDone
    rw [if_neg (by simp [hbusy, hop])]
    dsimp only
    rw [hx]
    exact ⟨_, rfl⟩
  obtain ⟨q, hend⟩ := hend
  rw [hend]
  have ended := (d.putBytes (slotBase d.plt.stagedSlot) d.plannedImage).pltEnd_ended .loaded { code := 0 }
  exact ⟨ended.withPlate (some q) true, nofun, Dev.pltEnd_mem ..⟩

/-- A build in progress ends, whatever the checks find. -/
theorem Dev.buildDone_ended (hop : d.plt.op = 1) : ∃ st c, d.plt.Ended d.buildDone.plt st c := by
  cases hx : buildRefused d d.plt.snapReq d.plannedPlate with
  | some x => exact ⟨_, _, (Dev.buildDone_refused hbusy hop hx).1⟩
  | none => exact ⟨_, _, (Dev.buildDone_passed hbusy hop hx).1⟩

theorem Dev.proofDone_undecoded (hop : d.plt.op = 2) {x : Refused} (hx : d.decodeImage = .inr x) :
    d.plt.Ended d.proofDone.plt .loaded x.code := by
  unfold Dev.proofDone
  rw [if_neg (by simp [hbusy, hop]), hx]
  exact (d.pltEnd_ended .loaded x).withPlate _ false

theorem Dev.proofDone_refused (hop : d.plt.op = 2) {p : Plate} {req : List Byte} {x : Refused}
    (hdec : d.decodeImage = .inl (p, req)) (hx : d.proofRefused req p = some x) :
    d.plt.Ended d.proofDone.plt .loaded x.code := by
  unfold Dev.proofDone
  rw [if_neg (by simp [hbusy, hop]), hdec]
  dsimp only
  rw [hx]
  exact (d.pltEnd_ended .loaded x).withPlate _ false

theorem Dev.proofDone_passed (hop : d.plt.op = 2) {p : Plate} {req : List Byte}
    (hdec : d.decodeImage = .inl (p, req)) (hx : d.proofRefused req p = none) :
    d.plt.Ended d.proofDone.plt .proofed 0 ∧ d.proofDone.plt.stagedP = some p := by
  unfold Dev.proofDone
  rw [if_neg (by simp [hbusy, hop]), hdec]
  dsimp only
  rw [hx]
  exact ⟨(d.pltEnd_ended ..).withPlate _ _, rfl⟩

/-- A proof in progress ends, whatever the image holds and the checks find. -/
theorem Dev.proofDone_ended (hop : d.plt.op = 2) : ∃ st c, d.plt.Ended d.proofDone.plt st c := by
  rcases hdec : d.decodeImage with ⟨p, req⟩ | x
  · cases hx : d.proofRefused req p with
    | some x => exact ⟨_, _, Dev.proofDone_refused hbusy hop hdec hx⟩
    | none => exact ⟨_, _, (Dev.proofDone_passed hbusy hop hdec hx).1⟩
  · exact ⟨_, _, Dev.proofDone_undecoded hbusy hop hdec⟩

end

theorem Dev.proofDone_mem (d : Dev) : d.proofDone.mem = d.mem := Frame.mem_eq Dev.proofDone_frame (by decide)

/-- Settles O46, by the outcome of the checks: of a build, refused or passed; of a proof, an image that does not decode, a plate that
is refused, or one that passes. -/
theorem buildAndProofEnd : Obligations.BuildAndProofEnd := by
  refine ⟨?_, ?_⟩
  · intro s hu hbusy hop
    refine .of_onPage_settled rfl hu ?_
    rw [Dev.settle_plt, Dev.settle_mem]
    obtain ⟨st, c, ended⟩ := Dev.buildDone_ended hbusy hop
    refine ⟨ended.busy, ended.ready, ended.gen, ended.op, fun x hx => ?refused, fun hx => ?passed⟩
    case refused =>
      obtain ⟨ended, hmem⟩ := Dev.buildDone_refused hbusy hop hx
      exact ⟨ended.staged, ended.code, hmem⟩
    case passed =>
      obtain ⟨ended, hplate, hmem⟩ := Dev.buildDone_passed hbusy hop hx
      exact ⟨ended.staged, ended.code, hplate, hmem⟩
  · intro s hu hbusy hop
    refine .of_onPage_settled rfl hu ?_
    rw [Dev.settle_plt, Dev.settle_mem]
    obtain ⟨st, c, ended⟩ := Dev.proofDone_ended hbusy hop
    refine ⟨ended.busy, ended.ready, ended.gen, ended.op, s.dev.proofDone_mem, fun x hx => ?undecoded,
      fun p req hdec => ⟨fun x hx => ?refused, fun hx => ?passed⟩⟩
    case undecoded =>
      have ended := Dev.proofDone_undecoded hbusy hop hx
      exact ⟨ended.staged, ended.code⟩
    case refused =>
      have ended := Dev.proofDone_refused hbusy hop hdec hx
      exact ⟨ended.staged, ended.code⟩
    case passed =>
      obtain ⟨ended, hplate⟩ := Dev.proofDone_passed hbusy hop hdec hx
      exact ⟨ended.staged, ended.code, hplate⟩

/-! ### Host writes into a slot window (R194, R195) -/

/-- A host write into a slot window that the fabric accepts and memory serves is the slot write, and the block settles. -/
theorem Completes.of_slotWrite {s : State} {b : Bool} {o : BitVec 26} {l : List Byte} {P : Dev → Prop} {e : Dev}
    (ht : s.dev.takes2 = true) (hm : s.dev.memServes = true)
    (he : (s.dev.fabAccept o.toNat l.length).slotWrite b o.toNat l = e) (hp : P e.settle) :
    Completes (.plateSlotWrite b o l) s P := by
  have hexec : exec (.plateSlotWrite b o l) s = execPlateSlotWrite b o l s := rfl
  have hserves : (s.dev.fabAccept o.toNat l.length).memServes = true := hm
  refine .of_settled hexec ?_
  rw [Dev.hostBar2_takes ht, if_pos hserves, he]
  exact hp

/-- A write into a staged slot that is EMPTY, LOADED or PROOFED. -/
theorem Dev.slotWrite_staged {d : Dev} {b : Bool} {o : Nat} {l : List Byte} (hb : b ≠ d.plt.actSlot)
    (hst : d.plt.staged = .empty ∨ d.plt.staged = .loaded ∨ d.plt.staged = .proofed) :
    d.slotWrite b o l =
      { d.putBytes (slotBase b + o) l with plt.staged := .loaded, plt.stagedP := none, plt.budValid := false } := by
  unfold Dev.slotWrite
  rw [if_neg hb]
  rcases hst with h | h | h <;> rw [h]

theorem Dev.slotWrite_active (d : Dev) (o : Nat) (l : List Byte) :
    d.slotWrite d.plt.actSlot o l = d.reject pgPLT (if d.plt.actSlot then 0x1034 else 0x1030) ePERM := if_pos rfl

theorem Dev.settle_byte (d : Dev) (a : Nat) : d.settle.byte a = d.byte a := by unfold Dev.byte; rw [Dev.settle_mem]

theorem Dev.rejected_settle {d e : Dev} {p o : Nat} {c : Code} (h : d.rejected e p o c) : d.rejected e.settle p o c :=
  ⟨(e.settle_perr p).trans h.1, (congrArg List.getLast? e.settle_errlog).trans h.2⟩

/-- Settles O47: the write of the staged slot's bytes, read back address by address; the rejection of one into the active slot. -/
theorem plateSlotWrites : Obligations.PlateSlotWrites := by
  refine ⟨?_, ?_⟩
  · intro s b o l ht hm hb hst
    refine .of_slotWrite ht hm (Dev.slotWrite_staged hb hst) ?_
    rw [Dev.settle_plt]
    have hbyte := fun a => s.dev.byte_putBytes (slotBase b + o.toNat) a l
    refine ⟨rfl, rfl, rfl, fun i hi => ?_, fun a ha => ?_⟩
    · rw [Dev.settle_byte]
      exact (hbyte (slotBase b + o.toNat + i)).trans (by rw [if_pos (by omega), Nat.add_sub_cancel_left])
    · rw [Dev.settle_byte]
      exact (hbyte a).trans (if_neg (by omega))
  · intro s o l ht hm
    refine .of_slotWrite ht hm (Dev.slotWrite_active _ _ _) ?_
    rw [Dev.settle_mem, Dev.settle_plt, Frame.mem_eq Dev.reject_frame (by decide), Frame.plt_eq Dev.reject_frame (by decide)]
    exact ⟨rfl, rfl, Dev.rejected_settle (Dev.reject_rejected ..)⟩

end Sys2Proof.Machine

/-! PROOFS. The beam former (chapter 08): a block of the egress queue leaves on its lane, a legal write of the shadow table takes its
bytes, and STGRD takes an index within the filled part of the DMA ring. -/

namespace Sys2Proof.Machine

/-! ### Frames that leave on a lane (R216, R338) -/

/-- A lane's counters lie in the pages of LNB, below those of the data path. -/
theorem bar_laneCnt_lt {n off p o : Nat} (hn : n < 256) (hoff : off < 0x40) (hp : pgING ≤ p) :
    bar (lanePage n) (0x100 + 0x40 * (n % 16) + off) < bar p o := by
  have hp' : 0x28 ≤ p := hp
  unfold bar lanePage pgLNB
  omega

/-- Sending a frame counts on the lane's page, and leaves the counters of the data path as they are. -/
theorem Dev.sendFrame_cnt (d : Dev) {n : Nat} (f : List Byte) {p : Nat} (o : Nat) (hn : n < 256) (hp : pgING ≤ p) :
    (d.sendFrame n f).cnt p o = d.cnt p o := by
  unfold Dev.sendFrame
  split
  · have hne : bar p o ≠ bar (lanePage n) (0x100 + 0x40 * (n % 16) + 0x38) :=
      (bar_laneCnt_lt hn (by decide) hp).ne'
    unfold Dev.laneCnt
    rw [Dev.cnt_bump, if_neg hne]
    rfl
  · rfl

/-- The egress queue without a block. -/
def Dev.egressTaken (d : Dev) (x : EgBlock) : Dev := { d with bmf.egress := d.bmf.egress.erase x }

/-- A lane of role EGRESS whose block the module may publish sends that block's frame, and EGFRAMES counts it. -/
theorem Dev.beamFrameSend_sends {d : Dev} {n : Nat} {x : EgBlock} (hx : d.bmf.egress.find? (·.lane == n) = some x)
    (hrole : d.role n = 2) (hst : d.sys.state ≠ .frozen) (hpub : d.mayPublish = true) (hlev : d.pwr.level < 4) :
    d.beamFrameSend n false = ((d.egressTaken x).sendFrame n (d.beamFrame x)).bump pgBMF 0x138 := by
  have hread : ¬ (d.sys.state = .frozen ∨ false = true) := by simp [hst]
  have hsend : ¬ (!d.mayPublish || decide (4 ≤ d.pwr.level)) = true := by simp [hpub, hlev]
  unfold Dev.beamFrameSend
  rw [hx]
  dsimp only
  rw [if_neg (not_not_intro hrole), if_neg hread, if_neg hsend]
  rfl

/-! ### Host writes through BAR2 -/

/-- A host write through BAR2 that the fabric accepts has its effect. -/
theorem Completes.of_hostBar2 {c : Instr} {s : State} {o n : Nat} {f : Dev → Dev} {P : Dev → Prop}
    (h : exec c s = s.run fun d => d.hostBar2 o n f) (ht : s.dev.takes2 = true) (hp : P (f (s.dev.fabAccept o n))) :
    Completes c s P :=
  .of_run h ((Dev.hostBar2_takes ht).symm ▸ hp)

/-! ### STGRD (R218, R225) -/

theorem toNat_index (i : BitVec 24) : (i.setWidth 32).toNat % 2 ^ 24 = i.toNat := by
  rw [BitVec.toNat_setWidth_of_le (by decide), Nat.mod_eq_of_lt i.isLt]

theorem index_reservedBits (i : BitVec 24) : i.setWidth 32 >>> 24 = 0#32 := by bv_omega

/-- An index of the ring that is no further on than the unread blocks is taken. -/
theorem Dev.stgrdWrite_legal {d : Dev} {i : BitVec 24} (hi : i.toNat < d.req.stgBlocks)
    (hocc : (i.toNat + d.req.stgBlocks - d.bmf.stgrd) % d.req.stgBlocks ≤ d.stgOcc) :
    d.stgrdWrite (i.setWidth 32) = { d with bmf.stgrd := i.toNat } := by
  have hn : d.req.stgBlocks ≠ 0 := Nat.ne_zero_of_lt hi
  unfold Dev.stgrdWrite
  rw [toNat_index]
  exact Dev.guard_of (by simp [index_reservedBits, hn, hi, hocc, when'])

/-- Settles O43: the frame sent counts on BMF's page apart from the lane's counters, and settling and the fabric leave the beam
former as the writes left it. -/
theorem beamformerSendsAndTakesTables : Obligations.BeamformerSendsAndTakesTables := by
  refine ⟨?_, ?_, ?_⟩
  · intro s n x hu hx hrole hst hpub hlev htx
    refine .of_onPage rfl hu ?_
    rw [Dev.beamFrameSend_sends hx hrole hst hpub hlev]
    have htx' : (s.dev.egressTaken x).txOn n = true := htx
    have hbmf : ((s.dev.egressTaken x).sendFrame n (s.dev.beamFrame x)).bmf = (s.dev.egressTaken x).bmf :=
      Frame.bmf_eq Dev.sendFrame_frame (by decide)
    refine ⟨congrArg BmfSt.egress hbmf, (Dev.sendFrame_facts htx').1, ?_⟩
    rw [Dev.cnt_bump, if_pos rfl, Dev.sendFrame_cnt _ _ _ n.isLt (by decide)]
    rfl
  · intro s o l ht hgrant hsize hlegal hlock hfixed
    exact .of_hostBar2 rfl ht (Dev.bmfHostWrite_facts hgrant hsize hlegal hlock hfixed)
  · intro s i ht hi hocc
    refine .of_hostWr rfl ht ?_
    rw [Dev.settle_bmf, Dev.stgrdWrite_legal hi hocc]
    exact ⟨rfl, rfl⟩

end Sys2Proof.Machine

/-! PROOFS. The trigger unit (chapter 09): the samples it evaluates, the edges, pulses and TRIG frames through which it signals,
its log ring and its shadow table. -/

namespace Sys2Proof.Machine

/-! ### The deadline of the software values (R248) -/

/-- The first SFN of the trigger sample that is evaluated next (R241). -/
def Dev.nextSfn (d : Dev) : Sfn := d.run.s0 + BitVec.ofNat 48 (d.trg.next * 2 ^ d.trgA)

/-- A block whose deadline passes without its values is marked once, and SWLATE (bit 3) is raised. -/
theorem Dev.swDeadline_passed {d : Dev} {r : Req} {b : Sfn} (hlive : d.run.live = true) (hr : r = d.reqAt d.nextSfn)
    (hb : b = d.tickBlock r d.trg.next) (hmode : r.trigMode = true) (huses : usesSw (d.trgTblAt d.nextSfn) = true)
    (hsw : d.trg.sw.any (·.1 == b) = false) (hlate : d.trg.late.contains b = false)
    (hclosed : d.windowClosed r (b + BitVec.ofNat 48 ((1 + r.tSwlag) * r.lf)) = true) :
    d.swDeadline = (({ d with trg.late := d.trg.late ++ [b] } : Dev).bump pgTRG 0x150).raise pgTRG 0x8 := by
  subst hr hb
  unfold Dev.nextSfn at *
  unfold Dev.swDeadline
  exact if_pos (by simp only [hlive, hmode, huses, hsw, hlate, hclosed, Bool.not_false, Bool.and_self])

/-- Raising a cause sets its bit of PIRQ. -/
theorem Dev.raise_pirq_bit (d : Dev) (p : Nat) {i : Nat} {b : Word} (hb : bitAt i b = true) :
    bitAt i ((d.raise p b).page p).pirq = true := by
  unfold bitAt at *
  rw [Dev.raise_pirq, BitVec.getLsbD_or, hb, Bool.or_true]

/-! ### The lands TRIGIN and TRIGOUT (R246, R247) -/

/-- The levels of the TRIGIN lands with that of land `n` replaced. -/
def tinSet (t : BitVec 4) (n : Nat) (rise : Bool) : BitVec 4 :=
  if rise then t ||| BitVec.ofNat 4 (2 ^ n) else t &&& ~~~(BitVec.ofNat 4 (2 ^ n))

theorem getLsbD_tinSet (t : BitVec 4) {n : Nat} (hn : n < 4) (rise : Bool) (j : Nat) :
    (tinSet t n rise).getLsbD j = if j = n then rise else t.getLsbD j := by
  have hland : (BitVec.ofNat 4 (2 ^ n)).getLsbD j = decide (n = j) := by
    rw [BitVec.getLsbD_ofNat, Nat.testBit_two_pow]
    grind
  unfold tinSet
  cases rise with
  | true =>
    rw [if_pos rfl, BitVec.getLsbD_or, hland]
    grind
  | false =>
    rw [if_neg Bool.false_ne_true, BitVec.getLsbD_and, BitVec.getLsbD_not, hland]
    have hout : 4 ≤ j → t.getLsbD j = false := t.getLsbD_of_ge j
    grind

/-- The level of the land is taken in every case; beside it only events and counts change. -/
theorem Dev.triginEdge_tin (d : Dev) (n : Nat) (rise : Bool) : (d.triginEdge n rise).trg.tin = tinSet d.trg.tin n rise := by
  unfold Dev.triginEdge
  extract_lets old d1
  have hlevel : d1.trg.tin = tinSet d.trg.tin n rise := rfl
  clear_value d1
  split_ifs <;> exact hlevel

theorem Dev.triginAt_tin (d : Dev) (n : Nat) (rise : Bool) : (d.triginAt n rise).trg.tin = tinSet d.trg.tin n rise := by
  unfold Dev.triginAt
  split
  · exact d.triginEdge_tin n rise
  · rfl

theorem Dev.trigoutEnd_due {d : Dev} {n t : Nat} (hend : Tab.get none d.trg.outEnd n = some t) (ht : t ≤ d.time.loc.toNat) :
    d.trigoutEnd n =
      ({ d with trg.outEnd := Tab.set none d.trg.outEnd n none } : Dev).emit (.land ("TRIGOUT" ++ toString n) false) := by
  unfold Dev.trigoutEnd
  rw [hend]
  exact if_pos ht

/-! ### TRIG frames (R244, R247) -/

/-- The queue of TRIG frames once its first has been taken. -/
def Dev.trigTaken (d : Dev) (t : List TrigOut) : Dev := { d with trg.txq := t }

theorem Dev.trigFrameSend_suppressed {d : Dev} {x : TrigOut} {t : List TrigOut} (hq : d.trg.txq = x :: t)
    (hpub : d.mayPublish = false) : d.trigFrameSend = (d.trigTaken t).bump pgTRG 0x138 := by
  have hdrop : (!(d.trigTaken t).mayPublish) = true := (congrArg not hpub).trans Bool.not_false
  unfold Dev.trigFrameSend
  rw [hq]
  exact if_pos hdrop

/-- With one PEER lane, the frame goes out once. -/
theorem Dev.trigFrameSend_sends {d : Dev} {x : TrigOut} {t : List TrigOut} {n : Nat} (hq : d.trg.txq = x :: t)
    (hpub : d.mayPublish = true) (hpeer : d.lanesOf 3 = [n]) :
    d.trigFrameSend = ((d.trigTaken t).sendFrame n (d.trigFrame n x)).bump pgTRG 0x130 := by
  have hsend : ¬ (!(d.trigTaken t).mayPublish) = true := by rw [show (d.trigTaken t).mayPublish = true from hpub]; decide
  have hpeer' : (d.trigTaken t).lanesOf 3 = [n] := hpeer
  calc d.trigFrameSend
      = (((d.trigTaken t).lanesOf 3).foldl (fun e l => e.sendFrame l (e.trigFrame l x)) (d.trigTaken t)).bump pgTRG 0x130 := by
        unfold Dev.trigFrameSend
        rw [hq]
        exact if_neg hsend
    _ = ((d.trigTaken t).sendFrame n (d.trigFrame n x)).bump pgTRG 0x130 := by rw [hpeer']; rfl

/-- Settles O44: each event of the unit is its effect, and raising, counting and sending touch no other field that is claimed. -/
theorem triggerEngineEvaluatesAndSignals : Obligations.TriggerEngineEvaluatesAndSignals := by
  refine ⟨?sample, ?deadline, ?edge, ?pulse, ?frame⟩
  case sample =>
    intro s lat hu hdue hgeom
    exact .of_onPage rfl hu (Dev.triggerEval_facts hdue hgeom)
  case deadline =>
    intro s r b hu hlive hr hb hmode huses hsw hlate hclosed
    refine .of_onPage rfl hu ?_
    rw [Dev.swDeadline_passed hlive hr hb hmode huses hsw hlate hclosed]
    refine ⟨?_, Dev.raise_pirq_bit _ _ (by decide)⟩
    rw [Frame.trg_eq Dev.raise_frame (by decide)]
    rfl
  case edge =>
    intro s n rise
    refine .of_run (f := fun d => d.triginAt n rise) rfl ?_
    rw [Dev.triginAt_tin]
    have hbit := getLsbD_tinSet s.dev.trg.tin n.isLt rise
    exact ⟨(hbit n).trans (if_pos rfl), fun j hj => (hbit j).trans (if_neg hj)⟩
  case pulse =>
    intro s n t hu hend ht
    refine .of_onPage rfl hu ?_
    rw [Dev.trigoutEnd_due hend ht]
    exact ⟨Tab.get_set_self none s.dev.trg.outEnd n.val none, rfl⟩
  case frame =>
    intro s x t n hu hq hpeer htx
    refine .of_onPage rfl hu ?_
    cases hpub : s.dev.mayPublish with
    | false =>
      rw [Dev.trigFrameSend_suppressed hq hpub]
      exact ⟨rfl, rfl, (Dev.cnt_bump ..).trans (if_pos rfl)⟩
    | true =>
      rw [Dev.trigFrameSend_sends hq hpub hpeer]
      have htx' : (s.dev.trigTaken t).txOn n = true := htx
      have htrg : ((s.dev.trigTaken t).sendFrame n (s.dev.trigFrame n x)).trg = (s.dev.trigTaken t).trg :=
        Frame.trg_eq Dev.sendFrame_frame (by decide)
      exact ⟨congrArg TrgSt.txq htrg, (Dev.sendFrame_facts htx').1⟩

/-! ### The log ring (R252, R257) -/

/-- Memory that is `d`'s after a write of bytes has them stored, and every other byte as it was. -/
theorem Dev.stored_of_mem {d e : Dev} {a : Nat} {l : List Byte} (h : e.mem = (d.putBytes a l).mem) : d.stored e a l := by
  have hbyte (j : Nat) : e.byte j = if a ≤ j ∧ j < a + l.length then (l[j - a]?).getD 0 else d.byte j :=
    (congrArg (Tab.get 0 · j) h).trans (d.byte_putBytes a j l)
  refine ⟨fun i hi => ?_, fun x hx => ?_⟩
  · rw [hbyte, if_pos (by omega), Nat.add_sub_cancel_left]
  · rw [hbyte, if_neg (by omega)]

/-- An index of the log ring that is no further on than the unread entries is taken. -/
theorem Dev.logrdWrite_legal {d : Dev} {i : BitVec 24} (hi : i.toNat < d.req.tLogEnts)
    (hocc : (i.toNat + d.req.tLogEnts - d.trg.logrd) % d.req.tLogEnts ≤ d.logOcc) :
    d.logrdWrite (i.setWidth 32) = { d with trg.logrd := i.toNat } := by
  have hn : d.req.tLogEnts ≠ 0 := Nat.ne_zero_of_lt hi
  unfold Dev.logrdWrite
  rw [toNat_index]
  exact Dev.guard_of (by simp [index_reservedBits, hn, hi, hocc, when'])

/-- Settles O45: the entry's bytes read back address by address; settling and the fabric leave the trigger unit as
the writes left it. -/
theorem triggerLogAndTables : Obligations.TriggerLogAndTables := by
  refine ⟨?_, ?_, ?_⟩
  · intro s l t hu hfifo hst hents
    obtain ⟨hrest, hwr, hmem⟩ := Dev.logEntryWrite_facts hfifo hst hents
    exact .of_onPage rfl hu ⟨hrest, hwr, Dev.stored_of_mem hmem⟩
  · intro s i ht hi hocc
    refine .of_hostWr rfl ht ?_
    rw [Dev.settle_trg, Dev.logrdWrite_legal hi hocc]
    exact ⟨rfl, rfl⟩
  · intro s o l ht hgrant hsize hlegal hmatch hready hlock
    exact .of_hostBar2 rfl ht (Dev.trgHostWrite_facts hgrant hsize hlegal hmatch hready hlock)

end Sys2Proof.Machine

/-! PROOFS. The instructions of the burin cores (chapter 10): what each leaves of the core that issues it. -/

namespace Sys2Proof.Machine

/-! ### An instruction that issues -/

/-- An instruction that issues runs, and the block settles. -/
theorem Completes.of_issues {i : Instr} {s : State} {c : Nat} {op : BOp} {P : Dev → Prop}
    (h : exec i s = s.settled fun d => d.onPage (burPage c) fun d => d.burExec c op) (hi : s.dev.issues c op = true)
    (hp : P (s.dev.burRun c op).settle) : Completes i s P :=
  .of_settled h ((Dev.burExec_issues hi).symm ▸ hp)

/-- An instruction that leaves its bank as `b`: settling touches no core. -/
theorem Completes.of_ran {i : Instr} {s : State} {c n : Nat} {op : BOp} {b : Bank} {w : List BReg} {t j : Option (BitVec 13)}
    (h : exec i s = s.settled fun d => d.onPage (burPage c) fun d => d.burExec c op) (hi : s.dev.issues c op = true)
    (hr : s.dev.ran (s.dev.burRun c op) c n b w t j) : Completes i s fun e => s.dev.ran e c n b w t j :=
  .of_issues h hi (Dev.ran_settle hr)

/-- An instruction that faults with code `k` of R287. -/
theorem Completes.of_faulted {i : Instr} {s : State} {c n k : Nat} {op : BOp}
    (h : exec i s = s.settled fun d => d.onPage (burPage c) fun d => d.burExec c op) (hi : s.dev.issues c op = true)
    (hf : s.dev.faulted (s.dev.burRun c op) c n k) : Completes i s fun e => s.dev.faulted e c n k :=
  .of_issues h hi (Dev.faulted_settle hf)

/-- Settling changes no core. -/
theorem Dev.settle_core (d : Dev) (n : Nat) : d.settle.core n = d.core n := Dev.core_of (Dev.settle_bur d) n

theorem Dev.onlyCore_settle {d e : Dev} {c : Nat} (h : d.onlyCore e c) : d.onlyCore e.settle c :=
  fun n hn => (e.settle_core n).trans (h n hn)

/-- The cycle count of an instruction is no part of the bank it reads. -/
@[simp] theorem Dev.timed_bank (d : Dev) (c n : Nat) : ((d.timed c n).core c).bank = (d.core c).bank := by
  rw [Dev.timed_core, Core.bank_with_cyc]

/-- An instruction of one cycle that changes nothing but its bank. -/
theorem Dev.burRun_pure {d : Dev} {c : Nat} {op : BOp} {b : Bank} {w : List BReg} {t j : Option (BitVec 13)}
    (hn : (d.core c).cyclesOf op = 1) (he : (d.timed c 1).burEffect c op = (.done b w t j, d.timed c 1)) :
    d.ran (d.burRun c op) c 1 b w t j := Dev.burRun_ran hn he rfl

/-- An instruction of one cycle whose effect is a function `r` of its bank. -/
theorem Dev.burRun_bank {d : Dev} {c : Nat} {op : BOp} {b : Bank} {w : List BReg} {t j : Option (BitVec 13)} (r : Bank → BRes)
    (hn : (d.core c).cyclesOf op = 1) (he : ∀ e : Dev, e.burEffect c op = (r (e.core c).bank, e))
    (hr : r (d.core c).bank = .done b w t j) : d.ran (d.burRun c op) c 1 b w t j :=
  Dev.burRun_pure hn (by rw [he, Dev.timed_bank, hr])

/-! ### The 16-bit operations (R267) -/

/-- A 16-bit operation whose sources are visible: its result, and C as `C` says. -/
theorem Completes.of_alu {i : Instr} {s : State} {c : Nat} {op : BAlu} {dd da : Fin 16} {src : BSrc} {x y v : BitVec 16}
    {st : Bool} {cf : Option Bool} {C : Bool → Prop} (hx : (s.dev.core c).bank.seesD da x) (hy : (s.dev.core c).bank.seesS src y)
    (h : exec i s = s.settled fun d => d.onPage (burPage c) fun d => d.burExec c (.alu op dd da src))
    (ho : aluRun op x y = { val := v, sat := st, c := cf }) (hC : ∀ k, (∀ q, cf = some q → k = q) → C k)
    (hi : s.dev.issues c (.alu op dd da src) = true) : Completes i s fun e => s.dev.aluDone e c dd v st C := by
  obtain ⟨k, hk, hran⟩ := Dev.alu_ran hx hy ho
  exact .of_issues h hi ⟨k, hC k hk, Dev.ran_settle hran⟩

/-- A saturating result, in the terms of R267. -/
theorem satOut_eq (v : Int) : satOut v =
    { val := BitVec.ofInt 16 (max (-32768) (min 32767 v)), sat := decide (v < -32768 ∨ 32767 < v), c := none } := by
  unfold satOut
  rw [sat16_eq, satHits16_eq]

/-- The model's absolute value. -/
theorem ite_neg_eq_abs (v : Int) : (if v < 0 then -v else v) = |v| := by
  split
  case isTrue h => exact (abs_of_neg h).symm
  case isFalse h => exact (abs_of_nonneg (not_lt.1 h)).symm

/-- ABS: of the 16-bit values only −32,768 has an absolute value that saturates. -/
theorem aluRun_abs (x y : BitVec 16) : aluRun .abs x y =
    { val := BitVec.ofInt 16 (min 32767 |x.toInt|), sat := decide (x.toInt = -32768), c := none } := by
  have habs := ite_neg_eq_abs x.toInt
  have hlow := x.le_toInt
  have hhigh := x.toInt_lt
  calc aluRun .abs x y = satOut |x.toInt| := congrArg satOut habs
    _ = _ := by
      rw [satOut_eq, max_eq_right (by omega)]
      congr 1
      exact decide_eq_decide.2 (by omega)

theorem ofInt_min_toInt (x y : BitVec 16) : (if x.toInt ≤ y.toInt then x else y) = BitVec.ofInt 16 (min x.toInt y.toInt) := by
  rw [min_def]
  split <;> exact (BitVec.ofInt_toInt).symm

theorem ofInt_max_toInt (x y : BitVec 16) : (if x.toInt ≤ y.toInt then y else x) = BitVec.ofInt 16 (max x.toInt y.toInt) := by
  rw [max_def]
  split <;> exact (BitVec.ofInt_toInt).symm

/-- CMP: the flags of DA − source. -/
theorem Dev.cmp_ran {d : Dev} {c : Nat} {da : Fin 16} {src : BSrc} {x y : BitVec 16} (hx : (d.core c).bank.seesD da x)
    (hy : (d.core c).bank.seesS src y) : d.ran (d.burRun c (.cmp da src)) c 1
      { (d.core c).bank with z := x == y, n := (x - y).msb, c := subCarry x y } [] none none := by
  refine Dev.burRun_pure rfl ?_
  have hz : (x - y == 0) = (x == y) := by
    rw [Bool.eq_iff_iff, beq_iff_eq, beq_iff_eq]
    bv_omega
  unfold Dev.burEffect
  dsimp only
  rw [Dev.timed_bank, Dev.rdD_sees hx]
  dsimp only
  rw [Dev.rdS_sees hy]
  dsimp only [Bank.zn]
  rw [hz]

/-- Settles O48: each operation is its result on visible sources; where R267 does not say what C becomes, any C will do. -/
theorem burinAluOperations : Obligations.BurinAluOperations := by
  intro s c dd da src x y hx hy
  have anyC {cf : Option Bool} : ∀ k, (∀ q, cf = some q → k = q) → True := fun _ _ => trivial
  have saidC {q : Bool} : ∀ k, (∀ p, some q = some p → k = p) → k = q := fun k h => h q rfl
  refine ⟨?add, ?sub, ?adds, ?subs, ?and, ?or, ?xor, ?shl, ?shra, ?shrl, ?min, ?max, ?abs, ?cmp⟩
  case add => exact .of_alu hx hy rfl rfl saidC
  case sub => exact .of_alu hx hy rfl rfl saidC
  case adds => exact .of_alu hx hy rfl (satOut_eq _) anyC
  case subs => exact .of_alu hx hy rfl (satOut_eq _) anyC
  case and => exact .of_alu hx hy rfl rfl anyC
  case or => exact .of_alu hx hy rfl rfl anyC
  case xor => exact .of_alu hx hy rfl rfl anyC
  case shl => exact .of_alu hx hy rfl rfl anyC
  case shra => exact .of_alu hx hy rfl rfl anyC
  case shrl => exact .of_alu hx hy rfl rfl anyC
  case min => exact .of_alu hx hy rfl (congrArg (AluOut.mk · false none) (ofInt_min_toInt x y)) anyC
  case max => exact .of_alu hx hy rfl (congrArg (AluOut.mk · false none) (ofInt_max_toInt x y)) anyC
  case abs => exact .of_alu hx hy rfl (aluRun_abs x y) anyC
  case cmp => exact fun hi => .of_ran rfl hi (Dev.cmp_ran hx hy)

/-! ### The accumulators (R265, R266) -/

/-- An accumulator takes an exact result by R265. -/
theorem Bank.putAcc_done (b : Bank) (st ac : Bool) (v : Int) : b.putAcc st ac v = b.accDone st ac v := Bank.putAcc_eq b st ac v

/-- A scaled move by R266. -/
theorem movOp_done (b : Bank) (dd : Fin 16) (ac : Bool) (k : Nat) :
    movOp b dd ac k = .done (b.movDone dd (conv k (b.acc ac).toInt)) [.d dd] none none := movOp_eq b dd ac k

section
variable {d : Dev} {c : Nat} {ac : Bool} {da db : Fin 16} {l : BLoads} {x y : BitVec 16}
  (hx : (d.core c).bank.seesD da x) (hy : (d.core c).bank.seesD db y) (h1 : (d.core c).loadReady l.l1)
  (h2 : (d.core c).loadReady l.l2) (h3 : ∀ i p j q, l.l1 = some (i, p) → l.l2 = some (j, q) → p ≠ q)
include hx hy h1 h2 h3

/-- An instruction of the MAC format whose operands and loads are visible, its loads of two destinations: `f` of the product. -/
theorem Dev.macFormat_ran {op : BOp} {f : Int → Int} (he : (d.timed c ((d.core c).cyclesOf op)).burEffect c op =
      (d.timed c ((d.core c).cyclesOf op)).macOp c (d.core c).bank ac da db l f) :
    d.ran (d.burRun c op) c ((d.core c).cyclesOf op)
      ((d.core c).loadPut l.l2 ((d.core c).loadPut l.l1 ((d.core c).bank.accDone (d.core c).sat ac (f (x.toInt * y.toInt)))))
      (loadRegs l.l1 ++ loadRegs l.l2) none none := by
  rw [← Bank.putAcc_done]
  exact Dev.burRun_ran rfl (he.trans (Dev.macOp_data hx hy h1 h2 h3)) rfl

theorem Dev.mpy_ran : d.ran (d.burRun c (.mpy ac da db l)) c ((d.core c).cyclesOf (.mpy ac da db l))
    ((d.core c).loadPut l.l2 ((d.core c).loadPut l.l1 ((d.core c).bank.accDone (d.core c).sat ac (x.toInt * y.toInt))))
    (loadRegs l.l1 ++ loadRegs l.l2) none none := by
  refine Dev.macFormat_ran (f := fun p => p) hx hy h1 h2 h3 ?_
  unfold Dev.burEffect
  dsimp only
  rw [Dev.timed_bank]

theorem Dev.mac_ran {neg : Bool} : d.ran (d.burRun c (.mac ac neg da db l)) c ((d.core c).cyclesOf (.mac ac neg da db l))
    ((d.core c).loadPut l.l2 ((d.core c).loadPut l.l1 ((d.core c).bank.accDone (d.core c).sat ac
      (if neg then ((d.core c).bank.acc ac).toInt - x.toInt * y.toInt else ((d.core c).bank.acc ac).toInt + x.toInt * y.toInt))))
    (loadRegs l.l1 ++ loadRegs l.l2) none none := by
  have hsum (a p : Int) : (if neg then a - p else a + p) = a + if neg then -p else p := by cases neg <;> simp [sub_eq_add_neg]
  rw [hsum]
  refine Dev.macFormat_ran (f := fun p => ((d.core c).bank.acc ac).toInt + if neg then -p else p) hx hy h1 h2 h3 ?_
  unfold Dev.burEffect
  dsimp only
  rw [Dev.timed_bank]

end

/-- The exact result of ACCOP, with |a| for ABS. -/
theorem accRun_eq (op : BAcc) (a o : Int) : accRun op a o = match op with
    | .clr => 0
    | .neg => -a
    | .add => a + o
    | .sub => a - o
    | .abs => |a|
    | .shift k => if 0 ≤ k then a * 2 ^ k.toNat else conv (-k).toNat a := by
  cases op
  case abs => exact ite_neg_eq_abs a
  all_goals rfl

theorem Dev.accop_ran (d : Dev) (c : Nat) (ac : Bool) (op : BAcc) : d.ran (d.burRun c (.accop ac op)) c 1
    ((d.core c).bank.accDone (d.core c).sat ac (accRun op ((d.core c).bank.acc ac).toInt ((d.core c).bank.acc (!ac)).toInt))
    [] none none := by
  rw [← Bank.putAcc_done]
  refine Dev.burRun_pure rfl ?_
  unfold Dev.burEffect
  dsimp only
  rw [Dev.timed_core]
  rfl

theorem Dev.mva_ran (d : Dev) (c : Nat) (dd : Fin 16) (ac : Bool) : d.ran (d.burRun c (.mva dd ac)) c 1
    ((d.core c).bank.movDone dd (conv (15 - cmScale (d.core c).cmode).toNat ((d.core c).bank.acc ac).toInt)) [.d dd] none none := by
  refine Dev.burRun_pure rfl ?_
  unfold Dev.burEffect
  dsimp only
  rw [Dev.timed_core, movOp_done]
  rfl

theorem Dev.mvr_ran (d : Dev) (c : Nat) (dd : Fin 16) (ac : Bool) (k : BitVec 5) : d.ran (d.burRun c (.mvr dd ac k)) c 1
    ((d.core c).bank.movDone dd (conv k.toNat ((d.core c).bank.acc ac).toInt)) [.d dd] none none :=
  Dev.burRun_bank (movOp · dd ac k.toNat) rfl (fun _ => rfl) (movOp_done ..)

/-- Part `k` of an accumulator: 16 bits of it, the last part sign-extended from 8. -/
theorem accPart_bits (a : BitVec 40) (k : Fin 3) {j : Nat} (hj : j < 16) :
    (accPart a k).getLsbD j = if k = 2 ∧ 8 ≤ j then a.msb else a.getLsbD (16 * k.val + j) := by
  match k with
  | 0 => simp [accPart, hj]
  | 1 => simp [accPart, hj]
  | 2 =>
    show (((a >>> 32).setWidth 8 : BitVec 8).signExtend 16).getLsbD j = _
    rw [BitVec.getLsbD_signExtend, BitVec.msb_eq_getLsbD_last, BitVec.msb_eq_getLsbD_last]
    by_cases h8 : 8 ≤ j
    · simp [hj, h8, Nat.not_lt.2 h8]
    · simp [hj, h8, Nat.lt_of_not_le h8]

/-- The masks of PUTA clear the bits of their part. -/
theorem accMask_bits : ∀ j < 40, (0xFFFFFF0000 : BitVec 40).getLsbD j = decide (j / 16 ≠ 0) ∧
    (0xFF0000FFFF : BitVec 40).getLsbD j = decide (j / 16 ≠ 1) ∧ (0x00FFFFFFFF : BitVec 40).getLsbD j = decide (j / 16 ≠ 2) := by
  decide

/-- An accumulator with part `k` written keeps the bits of its other parts. -/
theorem accPut_bits (a : BitVec 40) (k : Fin 3) (v : BitVec 16) {j : Nat} (hj : j < 40) :
    (accPut a k v).getLsbD j = if j / 16 = k.val then v.getLsbD (j - 16 * k.val) else a.getLsbD j := by
  obtain ⟨h0, h1, h2⟩ := accMask_bits j hj
  match k with
  | 0 =>
    show ((a &&& 0xFFFFFF0000) ||| v.setWidth 40).getLsbD j = _
    rw [BitVec.getLsbD_or, BitVec.getLsbD_and, h0, BitVec.getLsbD_setWidth]
    by_cases h : j / 16 = 0
    · simp [h, hj]
    · simp [h, v.getLsbD_of_ge j (by omega)]
  | 1 =>
    show ((a &&& (0xFF0000FFFF : BitVec 40)) ||| (v.setWidth 40 <<< 16)).getLsbD j = _
    rw [BitVec.getLsbD_or, BitVec.getLsbD_and, h1, BitVec.getLsbD_shiftLeft, BitVec.getLsbD_setWidth]
    by_cases h : j / 16 = 1
    · simp [h, hj, show ¬ j < 16 by omega, show j - 16 < 40 by omega]
    · by_cases hlow : j < 16
      · simp [h, hlow]
      · simp [h, v.getLsbD_of_ge (j - 16) (by omega)]
  | 2 =>
    show ((a &&& (0x00FFFFFFFF : BitVec 40)) ||| ((v.setWidth 8 : BitVec 8).setWidth 40 <<< 32)).getLsbD j = _
    rw [BitVec.getLsbD_or, BitVec.getLsbD_and, h2, BitVec.getLsbD_shiftLeft, BitVec.getLsbD_setWidth, BitVec.getLsbD_setWidth]
    by_cases h : j / 16 = 2
    · simp [h, hj, show ¬ j < 32 by omega, show j - 32 < 8 by omega, show j - 32 < 40 by omega]
    · simp [h, show j < 32 by omega]

theorem Dev.geta_ran (d : Dev) (c : Nat) (dd : Fin 16) (ac : Bool) (k : Fin 3) : d.ran (d.burRun c (.geta dd ac k)) c 1
    ((d.core c).bank.wrD dd (accPart ((d.core c).bank.acc ac) k)) [.d dd] none none :=
  Dev.burRun_bank (fun b => .done (b.wrD dd (accPart (b.acc ac) k)) [.d dd] none none) rfl (fun _ => rfl) rfl

theorem Dev.puta_ran {d : Dev} {c : Nat} {ac : Bool} {da : Fin 16} {k : Fin 3} {x : BitVec 16}
    (hx : (d.core c).bank.seesD da x) : d.ran (d.burRun c (.puta ac da k)) c 1
    ((d.core c).bank.wrAcc ac (accPut ((d.core c).bank.acc ac) k x)) [] none none := by
  refine Dev.burRun_pure rfl ?_
  unfold Dev.burEffect
  dsimp only
  rw [Dev.timed_bank, Dev.rdD_sees hx]

/-- Settles O49: the accumulator's exact result, its scaled moves, and bit by bit the parts that GETA reads and PUTA writes. -/
theorem burinAccumulators : Obligations.BurinAccumulators := by
  refine ⟨?mac, ?accop, ?mva, ?mvr, ?geta, ?puta⟩
  case mac =>
    intro s c ac da db l x y hx hy h1 h2 h3
    exact ⟨fun hi => .of_ran rfl hi (Dev.mpy_ran hx hy h1 h2 h3), fun neg hi => .of_ran rfl hi (Dev.mac_ran hx hy h1 h2 h3)⟩
  case accop =>
    intro s c ac op hi
    have hr := s.dev.accop_ran c ac op
    rw [accRun_eq] at hr
    exact .of_ran rfl hi hr
  case mva => exact fun s c dd ac hi => .of_ran rfl hi (s.dev.mva_ran c dd ac)
  case mvr => exact fun s c dd ac k hi => .of_ran rfl hi (s.dev.mvr_ran c dd ac k)
  case geta =>
    exact fun s c dd ac k hi => .of_issues rfl hi
      ⟨_, fun j hj => accPart_bits _ k hj, Dev.ran_settle (s.dev.geta_ran c dd ac k)⟩
  case puta =>
    exact fun s c ac da k x hi hx => .of_issues rfl hi
      ⟨_, fun j hj => accPut_bits _ k x hj, Dev.ran_settle (Dev.puta_ran hx)⟩

/-! ### What moving the program counter on, and a halt that falls due, leave of a core -/

@[simp] theorem Core.bank_setBank (x : Core) (b : Bank) : (x.setBank b).bank = b := by
  unfold Core.bank Core.setBank
  cases x.bank1 <;> rfl

/-- A halt that falls due changes the state of a core, and no bank. -/
@[simp] theorem Core.bank_haltDue (x : Core) : x.haltDue.bank = x.bank := by
  unfold Core.haltDue
  split <;> rfl

/-- An instruction's end leaves the mailboxes and the data memory as its effect left them. -/
theorem Core.ended_kept (x : Core) (b : Bank) : (x.setBank b).haltDue.mbxIn = x.mbxIn ∧ (x.setBank b).haltDue.mbxOut = x.mbxOut ∧
    (x.setBank b).haltDue.dmem = x.dmem ∧ (x.setBank b).haltDue.lost = x.lost := by
  have hbank : (x.setBank b).mbxIn = x.mbxIn ∧ (x.setBank b).mbxOut = x.mbxOut ∧ (x.setBank b).dmem = x.dmem ∧
      (x.setBank b).lost = x.lost := by
    unfold Core.setBank
    split <;> exact ⟨rfl, rfl, rfl, rfl⟩
  unfold Core.haltDue
  split <;> exact hbank

theorem Core.ended_mbxIn (x : Core) (b : Bank) : (x.setBank b).haltDue.mbxIn = x.mbxIn := (x.ended_kept b).1

theorem Core.ended_mbxOut (x : Core) (b : Bank) : (x.setBank b).haltDue.mbxOut = x.mbxOut := by
  obtain ⟨-, hout, -⟩ := x.ended_kept b
  exact hout

/-- Moving the program counter on writes no data register. -/
theorem Bank.advance_dr (b : Bank) (w : List BReg) (t j : Option (BitVec 13)) : (b.advance w t j).dr = b.dr := by
  unfold Bank.advance
  dsimp only
  split
  · rfl
  · split
    · rfl
    · split_ifs <;> rfl

/-! ### Loads and stores (R268, R274) -/

/-- The address of a load or store (R268). -/
def memTarget (pm : Bool) (ofs a : BitVec 16) : Nat := (if pm then a else a + ofs).toNat

/-- The bank of a load or store, Ai post-modified where PM asks for it (R268). -/
def Bank.modded (b : Bank) (ai : Fin 8) (pm : Bool) (a m : BitVec 16) : Bank :=
  if pm then b.wrA ai (postMod (b.amodeOf ai) a m) else b

/-- Post-modification leaves `a + m` in the window of AMODE. -/
theorem Bank.postModded_postMod (b : Bank) (i : Fin 8) (a m : BitVec 16) : b.postModded i a m (postMod (b.amodeOf i) a m) :=
  postMod_bits _ a m (b.amodeOf_lt i)

/-- From 0x8100 to 0xBFFF there is nothing to load or to store to: ADDRESS. -/
theorem Dev.burLoad_address {d : Dev} {c a : Nat} (hlo : 0x8100 ≤ a) (hhi : a < 0xC000) : d.burLoad c a = (.inr 2, d) := by
  unfold Dev.burLoad
  rw [if_neg (by omega), if_neg (by omega), if_pos hhi]

theorem Dev.burStore_address {d : Dev} {c a : Nat} {v : BitVec 16} (hlo : 0x8100 ≤ a) (hhi : a < 0xC000) :
    d.burStore c a v = (some 2, d) := by
  unfold Dev.burStore
  rw [if_neg (by omega), if_neg (by omega), if_pos hhi]

theorem Dev.burStore_data {d : Dev} {c a : Nat} {v : BitVec 16} (h : a < 0x8000) :
    d.burStore c a v = (none, d.setCore c ((d.core c).setD a v)) := by
  unfold Dev.burStore
  rw [if_pos h]

theorem Dev.mbxPop_cons {d : Dev} {c : Nat} {w : BitVec 16} {t : List (BitVec 16)} (h : (d.core c).mbxIn = w :: t) :
    d.mbxPop c = (w, d.setCore c { d.core c with mbxIn := t }) := by
  unfold Dev.mbxPop
  dsimp only
  rw [h]

/-- A load of MBXIN takes the oldest inbound word (R275). -/
theorem Dev.burLoad_mbxIn {d : Dev} {c : Nat} {w : BitVec 16} {t : List (BitVec 16)} (h : (d.core c).mbxIn = w :: t) :
    d.burLoad c 0x8000 = (.inl w, d.setCore c { d.core c with mbxIn := t }) := by
  have hport : d.portRead c 0x8000 = d.mbxPop c := rfl
  unfold Dev.burLoad
  rw [if_neg (by decide), if_pos (by decide), hport, Dev.mbxPop_cons h]

section
variable {d : Dev} {c : Nat} {dd : Fin 16} {ai : Fin 8} {pm : Bool} {ofs a m : BitVec 16}
  (ha : (d.core c).bank.seesA ai a) (hm : (d.core c).bank.seesM ai m)
include ha hm

/-- A load puts the word at its address into DD of the post-modified bank. -/
theorem Dev.burEffect_ld {e : Dev} {v : BitVec 16} (hl : (d.timed c 1).burLoad c (memTarget pm ofs a) = (.inl v, e)) :
    (d.timed c 1).burEffect c (.ld dd ai pm ofs) =
      (.done (((d.core c).bank.modded ai pm a m).wrD dd v) (.d dd :: if pm then [.a ai] else []) none none, e) := by
  unfold memTarget at hl
  unfold Dev.burEffect
  dsimp only
  rw [Dev.timed_bank, Dev.memAddr_sees ha fun _ => hm]
  dsimp only
  rw [hl]
  rfl

theorem Dev.burEffect_ld_fault {k : Nat} (hl : (d.timed c 1).burLoad c (memTarget pm ofs a) = (.inr k, d.timed c 1)) :
    (d.timed c 1).burEffect c (.ld dd ai pm ofs) = (.fault k, d.timed c 1) := by
  unfold memTarget at hl
  unfold Dev.burEffect
  dsimp only
  rw [Dev.timed_bank, Dev.memAddr_sees ha fun _ => hm]
  dsimp only
  rw [hl]

/-- A load from data memory. -/
theorem Dev.ld_ran (hat : memTarget pm ofs a < 0x8000) : d.ran (d.burRun c (.ld dd ai pm ofs)) c 1
    (((d.core c).bank.modded ai pm a m).wrD dd ((d.core c).dWord (memTarget pm ofs a))) (.d dd :: if pm then [.a ai] else [])
    none none := by
  refine Dev.burRun_pure rfl (Dev.burEffect_ld ha hm ?_)
  rw [Dev.burLoad_data hat, Dev.timed_core]
  rfl

/-- A load of MBXIN. -/
theorem Dev.ld_mbxIn {w : BitVec 16} {t : List (BitVec 16)} (hat : memTarget pm ofs a = 0x8000)
    (hbox : (d.core c).mbxIn = w :: t) : ((d.burRun c (.ld dd ai pm ofs)).core c).mbxIn = t ∧
      Tab.get 0 ((d.burRun c (.ld dd ai pm ofs)).core c).bank.dr dd.val = w ∧ d.onlyCore (d.burRun c (.ld dd ai pm ofs)) c := by
  have hbox' : ((d.timed c 1).core c).mbxIn = w :: t := by rw [Dev.timed_core]; exact hbox
  have hload := hat ▸ Dev.burLoad_mbxIn hbox'
  rw [Dev.burRun_done (op := .ld dd ai pm ofs) rfl (Dev.burEffect_ld ha hm hload)]
  refine ⟨?_, ?_, fun n hn => ?_⟩
  · rw [Dev.core_setCore_self, Core.ended_mbxIn, Dev.core_setCore_self]
  · rw [Dev.core_setCore_self, Core.bank_haltDue, Core.bank_setBank, Bank.advance_dr]
    exact Tab.get_set_self ..
  · rw [Dev.core_setCore_ne _ _ hn, Dev.core_setCore_ne _ _ hn, Dev.timed_onlyCore _ _ _ _ hn]

theorem Dev.ld_faulted (hlo : 0x8100 ≤ memTarget pm ofs a) (hhi : memTarget pm ofs a < 0xC000) :
    d.faulted (d.burRun c (.ld dd ai pm ofs)) c 1 2 :=
  Dev.burRun_faulted rfl (Dev.burEffect_ld_fault ha hm (Dev.burLoad_address hlo hhi))

/-! A store. -/

section
variable {v : BitVec 16} (hv : (d.core c).bank.seesD dd v)
include hv

theorem Dev.burEffect_st {e : Dev} (hs : (d.timed c 1).burStore c (memTarget pm ofs a) v = (none, e)) :
    (d.timed c 1).burEffect c (.st dd ai pm ofs) =
      (.done ((d.core c).bank.modded ai pm a m) (if pm then [.a ai] else []) none none, e) := by
  unfold memTarget at hs
  unfold Dev.burEffect
  dsimp only
  rw [Dev.timed_bank, Dev.rdD_sees hv]
  dsimp only
  rw [Dev.memAddr_sees ha fun _ => hm]
  dsimp only
  rw [hs]
  rfl

theorem Dev.burEffect_st_fault {k : Nat} (hs : (d.timed c 1).burStore c (memTarget pm ofs a) v = (some k, d.timed c 1)) :
    (d.timed c 1).burEffect c (.st dd ai pm ofs) = (.fault k, d.timed c 1) := by
  unfold memTarget at hs
  unfold Dev.burEffect
  dsimp only
  rw [Dev.timed_bank, Dev.rdD_sees hv]
  dsimp only
  rw [Dev.memAddr_sees ha fun _ => hm]
  dsimp only
  rw [hs]

theorem Dev.st_faulted (hlo : 0x8100 ≤ memTarget pm ofs a) (hhi : memTarget pm ofs a < 0xC000) :
    d.faulted (d.burRun c (.st dd ai pm ofs)) c 1 2 :=
  Dev.burRun_faulted rfl (Dev.burEffect_st_fault ha hm hv (Dev.burStore_address hlo hhi))

/-- A store into data memory: its word there, and the rest of the core as after any instruction. -/
theorem Dev.st_core (hat : memTarget pm ofs a < 0x8000) : d.onlyCore (d.burRun c (.st dd ai pm ofs)) c ∧
    (d.burRun c (.st dd ai pm ofs)).core c =
      (({ d.core c with cyc := (d.core c).cyc + 1 }.setD (memTarget pm ofs a) v).setBank
        (((d.core c).bank.modded ai pm a m).advance (if pm then [.a ai] else []) none none)).haltDue := by
  rw [Dev.burRun_done (op := .st dd ai pm ofs) rfl (Dev.burEffect_st ha hm hv (Dev.burStore_data hat))]
  refine ⟨fun n hn => ?_, ?_⟩
  · rw [Dev.core_setCore_ne _ _ hn, Dev.core_setCore_ne _ _ hn, Dev.timed_onlyCore _ _ _ _ hn]
  · rw [Dev.core_setCore_self, Dev.core_setCore_self, Dev.timed_core]

end
end

/-- What a data memory reads as rests on its table, and on whether S6 has lost it (R286). -/
theorem Core.dWord_of {x y : Core} (hm : y.dmem = x.dmem) (hl : y.lost = x.lost) (k : Nat) : y.dWord k = x.dWord k := by
  unfold Core.dWord Core.dNone
  rw [hm, hl]

theorem Core.dWord_setD (x : Core) (a k : Nat) (v : BitVec 16) :
    (x.setD a v).dWord k = if k = a then v else x.dWord k := by
  show Tab.get (x.dNone k) (Tab.set (x.dNone a) x.dmem a v) k = if k = a then v else x.dWord k
  split
  case isTrue h => rw [h, Tab.get_set_self]
  case isFalse h => exact Tab.get_set_ne _ _ _ _ _ _ h

section
variable {x y : Core} {a : Nat} {v : BitVec 16} {b : Bank} (h : y = ((x.setD a v).setBank b).haltDue)
include h

theorem Core.stored_memory : y.dmem = (x.setD a v).dmem ∧ y.lost = x.lost := by
  obtain ⟨-, -, hmem, hlost⟩ := (x.setD a v).ended_kept b
  rw [h]
  exact ⟨hmem, hlost⟩

/-- The words of data memory after a store. -/
theorem Core.stored_dWord (k : Nat) : y.dWord k = if k = a then v else x.dWord k := by
  obtain ⟨hmem, hlost⟩ := Core.stored_memory h
  rw [Core.dWord_of (x := x.setD a v) hmem hlost, Core.dWord_setD]

/-- A store changes no more of the core than its data memory. -/
theorem Core.stored_eq : y = ({ x with dmem := y.dmem }.setBank b).haltDue := by
  have hset : { x with dmem := y.dmem } = x.setD a v := congrArg (fun m => { x with dmem := m }) (Core.stored_memory h).1
  rw [hset]
  exact h

end

/-! ### LDI and MVX (R273) -/

theorem Dev.ldi_ran (d : Dev) (c : Nat) (dd : Fin 16) (v : BitVec 16) :
    d.ran (d.burRun c (.ldi dd v)) c 1 ((d.core c).bank.wrD dd v) [.d dd] none none :=
  Dev.burRun_bank (fun b => .done (b.wrD dd v) [.d dd] none none) rfl (fun _ => rfl) rfl

theorem Dev.rdSpec_sees {d : Dev} {b : Bank} {x : BSpec} {v : BitVec 16} (h : b.seesX x v) : d.rdSpec b x = (v, d) := by
  cases x
  case a => exact Dev.rdA_sees h
  case m => exact Dev.rdM_sees h
  all_goals exact congrArg (·, d) h

theorem Dev.mvx_from_ran {d : Dev} {c : Nat} {dd : Fin 16} {x : BSpec} {v : BitVec 16} (hx : (d.core c).bank.seesX x v) :
    d.ran (d.burRun c (.mvx false dd x)) c 1 ((d.core c).bank.wrD dd v) [.d dd] none none := by
  refine Dev.burRun_pure rfl ?_
  unfold Dev.burEffect
  dsimp only
  rw [if_neg Bool.false_ne_true, Dev.timed_bank, Dev.rdSpec_sees hx]

/-- MVX to a special register: the write of that register; of AMODE the upper half is free (log entry 41). -/
theorem Dev.mvx_to_ran {d e : Dev} {c : Nat} {dd : Fin 16} {x : BSpec} {v : BitVec 16} {b : Bank} {w : List BReg}
    (hv : (d.core c).bank.seesD dd v) (hw : (d.timed c 1).wrSpec (d.core c).bank v x = (b, w, e))
    (he : e.bur = (d.timed c 1).bur) : d.ran (d.burRun c (.mvx true dd x)) c 1 b w none none := by
  refine Dev.burRun_ran rfl ?_ he
  unfold Dev.burEffect
  dsimp only
  rw [if_pos rfl, Dev.timed_bank, Dev.rdD_sees hv]
  dsimp only
  rw [hw]

/-- Settles O50: a load or store goes to its address, in data memory, in MBXIN or where ADDRESS faults; a move is its write. -/
theorem burinLoadsStoresAndMoves : Obligations.BurinLoadsStoresAndMoves := by
  refine ⟨?mem, ?ldi, ?fromSpec, ?toSpec⟩
  case mem =>
    intro s c dd ai pm ofs a m ha hm
    refine ⟨fun hi => ⟨fun hat => ?load, fun hat w t hbox => ?box, fun hlo hhi => ?loadFault⟩,
      fun v hi hv => ⟨fun hat => ?store, fun hlo hhi => ?storeFault⟩⟩
    case load =>
      exact .of_issues rfl hi ⟨_, Bank.postModded_postMod _ _ _ _, Dev.ran_settle (Dev.ld_ran ha hm hat)⟩
    case box =>
      obtain ⟨hin, hdr, honly⟩ := Dev.ld_mbxIn (dd := dd) ha hm hat hbox
      refine .of_issues rfl hi ?_
      rw [Dev.settle_core]
      exact ⟨hin, hdr, Dev.onlyCore_settle honly⟩
    case loadFault => exact .of_faulted rfl hi (Dev.ld_faulted ha hm hlo hhi)
    case store =>
      obtain ⟨honly, hst⟩ := Dev.st_core ha hm hv hat
      have hword := Core.stored_dWord hst
      refine .of_issues rfl hi ⟨_, Bank.postModded_postMod _ _ _ _, ?_⟩
      rw [Dev.settle_core]
      exact ⟨(hword _).trans (if_pos rfl), fun k hk => (hword k).trans (if_neg hk), Core.stored_eq hst, Dev.onlyCore_settle honly⟩
    case storeFault => exact .of_faulted rfl hi (Dev.st_faulted ha hm hv hlo hhi)
  case ldi => exact fun s c dd v hi => .of_ran rfl hi (s.dev.ldi_ran c dd v)
  case fromSpec => exact fun s c dd x v hi hx => .of_ran rfl hi (Dev.mvx_from_ran hx)
  case toSpec =>
    intro s c dd x v hi hv
    cases x
    case amode => exact .of_issues rfl hi ⟨_, Dev.ran_settle (Dev.mvx_to_ran hv rfl rfl)⟩
    all_goals exact .of_ran rfl hi (Dev.mvx_to_ran hv rfl rfl)

/-! ### Sequencing (R270) -/

/-- An instruction that has run leaves its bank where the program counter has moved on to. -/
theorem Dev.ran_bank {d e : Dev} {c n : Nat} {b : Bank} {w : List BReg} {t j : Option (BitVec 13)} (h : d.ran e c n b w t j) :
    (e.core c).bank = b.advance w t j := by
  rw [h.1, Core.bank_haltDue, Core.bank_setBank]

/-- In a delay slot the branch takes effect. -/
theorem Bank.advance_delayed {b : Bank} {w : List BReg} {tgt jump : Option (BitVec 13)} {t : BitVec 13} (h : b.delay = some t) :
    (b.advance w tgt jump).pc = t ∧ (b.advance w tgt jump).delay = tgt := by
  unfold Bank.advance
  dsimp only
  rw [h]
  exact ⟨rfl, rfl⟩

/-- Outside a delay slot and a loop the next instruction follows. -/
theorem Bank.step_next {b : Bank} (hd : b.delay = none) (hl : b.loop = false) : b.step.pc = b.pc + 1 := by
  unfold Bank.step Bank.advance
  dsimp only
  rw [hd, hl]
  rfl

/-- At LE an active loop with iterations left goes back to LS. -/
theorem Bank.step_loops {b : Bank} (hd : b.delay = none) (hl : b.loop = true) (hpc : b.pc.toNat = b.le.toNat) (hlc : 1 < b.lc.toNat) :
    b.step.pc = b.ls.setWidth 13 ∧ b.step.lc = b.lc - 1 := by
  unfold Bank.step Bank.advance
  dsimp only
  rw [hd]
  dsimp only
  rw [if_pos (by simp [hl, hpc]), if_neg (by omega)]
  exact ⟨rfl, rfl⟩

/-! ### Instructions that name the next one (R270, R273) -/

theorem Dev.nop_ran (d : Dev) (c : Nat) : d.ran (d.burRun c .nop) c 1 (d.core c).bank [] none none :=
  Dev.burRun_bank (fun b => .done b [] none none) rfl (fun _ => rfl) rfl

theorem Dev.br_ran (d : Dev) (c : Nat) (cond : BCond) (ofs : BitVec 16) : d.ran (d.burRun c (.br cond ofs)) c 1 (d.core c).bank []
    (if condHolds (d.core c).bank cond then some (branchTo (d.core c).bank ofs) else none) none :=
  Dev.burRun_bank (fun b => .done b [] (if condHolds b cond then some (branchTo b ofs) else none) none) rfl (fun _ => rfl) rfl

theorem Dev.call_ran (d : Dev) (c : Nat) (ofs : BitVec 16) : d.ran (d.burRun c (.call ofs)) c 1
    { (d.core c).bank with lk := ((d.core c).bank.pc + 2).setWidth 16 } [] (some (branchTo (d.core c).bank ofs)) none :=
  Dev.burRun_bank (fun b => .done { b with lk := (b.pc + 2).setWidth 16 } [] (some (branchTo b ofs)) none) rfl (fun _ => rfl) rfl

theorem Dev.ret_ran (d : Dev) (c : Nat) :
    d.ran (d.burRun c .ret) c 1 (d.core c).bank [] (some ((d.core c).bank.lk.setWidth 13)) none :=
  Dev.burRun_bank (fun b => .done b [] (some (b.lk.setWidth 13)) none) rfl (fun _ => rfl) rfl

/-- What a LOOP of `k` iterations leaves: LS after it, LE the end of its body. -/
def Bank.looping (b : Bank) (k len : BitVec 16) : Bank :=
  let ls : BitVec 13 := b.pc + 1
  { b with lc := k, ls := ls.setWidth 16, le := (ls + len.setWidth 13).setWidth 16, loop := k != 0 }

theorem Dev.loop_ran {d : Dev} {c : Nat} {n : BCount} {len k : BitVec 16}
    (hk : match n with | .reg i => (d.core c).bank.seesD i k | .imm v => v.setWidth 16 = k) (hl : (d.core c).bank.loop = false) :
    d.ran (d.burRun c (.loop n len)) c 1 ((d.core c).bank.looping k len) [] none
      (if k = 0 then some ((d.core c).bank.pc + 1 + len.setWidth 13 + 1) else none) := by
  refine Dev.burRun_pure rfl ?_
  unfold Dev.burEffect
  dsimp only
  rw [Dev.timed_bank]
  unfold Dev.loopOp
  rw [if_neg (by simp [hl])]
  cases n with
  | reg i => dsimp only at hk ⊢; rw [Dev.rdD_sees hk]; rfl
  | imm v => dsimp only at hk ⊢; rw [hk]; rfl

/-! ### Instructions that fault (R287) -/

theorem Dev.loop_faulted {d : Dev} {c : Nat} {n : BCount} {len : BitVec 16} (hl : (d.core c).bank.loop = true) :
    d.faulted (d.burRun c (.loop n len)) c 1 5 := by
  refine Dev.burRun_faulted rfl ?_
  unfold Dev.burEffect
  dsimp only
  rw [Dev.timed_bank]
  exact if_pos hl

theorem Dev.rti_faulted {d : Dev} {c : Nat} (h : (d.core c).bank1 = false) : d.faulted (d.burRun c .rti) c 1 6 := by
  refine Dev.burRun_faulted rfl ?_
  unfold Dev.burEffect
  dsimp only
  rw [Dev.timed_core]
  exact congrArg (·, d.timed c 1) (if_neg (by simp [h]))

theorem Dev.wait_faulted {d : Dev} {c : Nat} (h : (d.core c).bank1 = true) : d.faulted (d.burRun c .wait) c 1 6 := by
  refine Dev.burRun_faulted rfl ?_
  unfold Dev.burEffect
  dsimp only
  rw [Dev.timed_core]
  exact congrArg (·, d.timed c 1) (if_pos h)

theorem Dev.brk_faulted (d : Dev) (c : Nat) : d.faulted (d.burRun c .brk) c 1 7 := Dev.burRun_faulted rfl rfl

/-- A fault at an instruction that has taken no cycle. -/
theorem Dev.burFault_untimed (d : Dev) (c k : Nat) : d.faulted (d.burFault c k) c 0 k := by
  have hbur (e : Dev) : ((e.burCnt c 0x140).raise (burPage c) 0x1).bur = e.bur :=
    Frame.bur_eq (d := e.burCnt c 0x140) Dev.raise_frame (by decide)
  have hpc : (d.core c).bank.pc = if (d.core c).bank1 then (d.core c).b1.pc else (d.core c).b0.pc := by
    unfold Core.bank
    split <;> rfl
  unfold Dev.burFault
  refine ⟨?_, fun m hm => ?_⟩
  · rw [Dev.core_of (hbur _), Dev.core_setCore_self, hpc]
    rfl
  · rw [Dev.core_of (hbur _), Dev.core_setCore_ne _ _ hm]

/-- A reserved word at the program counter of a core that runs faults it with ILLEGAL. -/
theorem Dev.burExec_reserved {d : Dev} {c : Nat} {op : BOp} (hst : (d.core c).state = .run)
    (hw : burDecode ((d.core c).pWord (d.core c).bank.pc.toNat) = none) : d.burExec c op = d.burFault c 1 := by
  unfold Dev.burExec
  dsimp only
  rw [if_pos hst, hw]

/-! ### RTI and WAIT (R271, R278) -/

theorem Dev.burRun_rti {d : Dev} {c : Nat} (h : (d.core c).bank1 = true) : d.burRun c .rti = (d.timed c 1).burRti c := by
  have he : (d.timed c 1).burEffect c .rti = (.rti, d.timed c 1) := by
    unfold Dev.burEffect
    dsimp only
    rw [Dev.timed_core]
    exact congrArg (·, d.timed c 1) (if_pos h)
  have hn : (d.core c).cyclesOf .rti = 1 := rfl
  unfold Dev.burRun
  dsimp only
  rw [hn]
  unfold Dev.timed at he ⊢
  rw [he]

theorem Dev.burRun_wait {d : Dev} {c : Nat} (h : (d.core c).bank1 = false) : d.burRun c .wait = (d.timed c 1).burWait c := by
  have he : (d.timed c 1).burEffect c .wait = (.wait, d.timed c 1) := by
    unfold Dev.burEffect
    dsimp only
    rw [Dev.timed_core]
    exact congrArg (·, d.timed c 1) (if_neg (by simp [h]))
  have hn : (d.core c).cyclesOf .wait = 1 := rfl
  unfold Dev.burRun
  dsimp only
  rw [hn]
  unfold Dev.timed at he ⊢
  rw [he]

/-- RTI of a core that is not to halt goes back to bank 0, and to the state that the interrupt found. -/
theorem Dev.burRti_facts {d : Dev} {c : Nat} (hh : (d.core c).halt = false) : ((d.burRti c).core c).bank1 = false ∧
    ((d.burRti c).core c).state = (d.core c).irqFrom ∧ ((d.burRti c).core c).b0 = (d.core c).b0 ∧ d.onlyCore (d.burRti c) c := by
  unfold Dev.burRti
  dsimp only
  rw [hh, Bool.false_and, if_neg Bool.false_ne_true, Dev.core_setCore_self]
  unfold Core.haltDue
  rw [if_neg (by simp)]
  exact ⟨rfl, rfl, rfl, fun n hn => Dev.core_setCore_ne _ _ hn⟩

/-- WAIT of a core that is not to halt ends the activation. -/
theorem Dev.burWait_facts {d : Dev} {c : Nat} (hh : (d.core c).halt = false) : ((d.burWait c).core c).state = .wait ∧
    ((d.burWait c).core c).running = none ∧ ((d.burWait c).core c).task = none ∧ d.onlyCore (d.burWait c) c := by
  have hcnt (b : Bool) (e : Dev) (n : Nat) : (if b then e.burCnt c 0x100 else e).core n = e.core n := by cases b <;> rfl
  unfold Dev.burWait
  extract_lets x0 x done st d1
  have hx : x.halt = false := by
    simp only [x]
    split <;> exact hh
  have hst : st = { x with state := .wait } := if_neg (by simp [hx])
  refine ⟨?_, ?_, ?_, fun n hn => ?_⟩
  · rw [hcnt, Dev.core_setCore_self, hst]
  · rw [hcnt, Dev.core_setCore_self]
  · rw [hcnt, Dev.core_setCore_self]
  · rw [hcnt, Dev.core_setCore_ne _ _ hn]

theorem Dev.rti_facts {d : Dev} {c : Nat} (h1 : (d.core c).bank1 = true) (hh : (d.core c).halt = false) :
    ((d.burRun c .rti).core c).bank1 = false ∧ ((d.burRun c .rti).core c).state = (d.core c).irqFrom ∧
      ((d.burRun c .rti).core c).b0 = (d.core c).b0 ∧ d.onlyCore (d.burRun c .rti) c := by
  have htimed := d.timed_core c 1
  obtain ⟨hbank, hst, hb0, honly⟩ := Dev.burRti_facts (d := d.timed c 1) (c := c) (by rw [htimed]; exact hh)
  rw [htimed] at hst hb0
  rw [Dev.burRun_rti h1]
  exact ⟨hbank, hst, hb0, fun n hn => (honly n hn).trans (Dev.timed_onlyCore _ _ _ _ hn)⟩

theorem Dev.wait_facts {d : Dev} {c : Nat} (h1 : (d.core c).bank1 = false) (hh : (d.core c).halt = false) :
    ((d.burRun c .wait).core c).state = .wait ∧ ((d.burRun c .wait).core c).running = none ∧
      ((d.burRun c .wait).core c).task = none ∧ d.onlyCore (d.burRun c .wait) c := by
  obtain ⟨hst, hrun, htask, honly⟩ := Dev.burWait_facts (d := d.timed c 1) (c := c) (by rw [Dev.timed_core]; exact hh)
  rw [Dev.burRun_wait h1]
  exact ⟨hst, hrun, htask, fun n hn => (honly n hn).trans (Dev.timed_onlyCore _ _ _ _ hn)⟩

/-! ### What settling leaves of the pages of the data path

Of settling only the end of ownership (R460) raises and counts: on PAIR's page, and on the lanes that HANDOFF leaves by. -/

theorem Dev.raise_pirq_other (d : Dev) {p q : Nat} (b : Word) (h : q ≠ p) : ((d.raise p b).page q).pirq = (d.page q).pirq := by
  have hset (g : Page) : ((d.setPage p g).page q).pirq = (d.page q).pirq := by rw [Dev.page_setPage, if_neg h]
  have hibi (e : Dev) : ((e.ibi p).page q).pirq = (e.page q).pirq := by
    unfold Dev.ibi
    split <;> rfl
  unfold Dev.raise
  dsimp only
  split
  · rw [Dev.sendIrq_pirq, hibi, hset]
  · rw [hibi, hset]

theorem Dev.giveUp_pirq (d : Dev) (b : Bool) {q : Nat} (h : q ≠ pgPAIR) : ((d.giveUp b).page q).pirq = (d.page q).pirq := by
  unfold Dev.giveUp
  split
  · rfl
  · extract_lets d1 st ps d2
    have h1 : (d1.page q).pirq = (d.page q).pirq := by
      simp only [d1]
      split
      · exact Frame.pirq_eq Dev.ctrlSend_frame (by decide) q
      · rfl
    exact (Dev.raise_pirq_other (d2.bump pgPAIR 0x130) _ h).trans h1

theorem Dev.pairSync_pirq (d : Dev) {q : Nat} (h : q ≠ pgPAIR) : (d.pairSync.page q).pirq = (d.page q).pirq := by
  unfold Dev.pairSync
  split
  · rfl
  · split
    · split <;> rfl
    · exact d.giveUp_pirq _ h

theorem Dev.settle_pirq (d : Dev) {q : Nat} (h : q ≠ pgPAIR) : (d.settle.page q).pirq = (d.page q).pirq := by
  obtain ⟨e, hframe, hsettle⟩ := d.settle_pre
  rw [hsettle, e.pairSync_pirq h, hframe.pirq_eq (by decide)]

/-- A message to the partner counts on its lanes' pages only. -/
theorem Dev.ctrlSend_cnt (d : Dev) (kind ref : Nat) (rest : List Byte) {p : Nat} (o : Nat) (hp : pgING ≤ p) :
    (d.ctrlSend kind ref rest).cnt p o = d.cnt p o := by
  have hfold (f : Dev → Nat → List Byte) (l : List Nat) (hl : ∀ n ∈ l, n < 256) (e : Dev) :
      (l.foldl (fun e n => e.sendFrame n (f e n)) e).cnt p o = e.cnt p o := by
    induction l generalizing e with
    | nil => rfl
    | cons n l ih =>
      rw [List.foldl_cons, ih fun m hm => hl m (List.mem_cons_of_mem n hm)]
      exact e.sendFrame_cnt _ o (hl n List.mem_cons_self) hp
  have hlane (e : Dev) : ∀ n ∈ e.pairLanes, n < 256 := fun n hn => by
    unfold Dev.pairLanes Dev.lanesOf at hn
    exact List.mem_range.1 (List.mem_filter.1 (List.mem_filter.1 hn).1).1
  exact hfold _ _ (hlane _) _

theorem Dev.giveUp_cnt (d : Dev) (b : Bool) {p : Nat} (o : Nat) (hp : pgING ≤ p) :
    (d.giveUp b).cnt p o = d.cnt p o := by
  have hne : bar p o ≠ bar pgPAIR 0x130 := by
    have hp' : 0x28 ≤ p := hp
    unfold bar pgPAIR
    omega
  unfold Dev.giveUp
  split
  · rfl
  · extract_lets d1 st ps d2
    have h1 : d1.cnt p o = d.cnt p o := by
      simp only [d1]
      split
      · exact d.ctrlSend_cnt _ _ _ o hp
      · rfl
    have h2 : ((d2.bump pgPAIR 0x130).raise pgPAIR 0x1).live = (d2.bump pgPAIR 0x130).live :=
      Frame.live_eq (d := d2.bump pgPAIR 0x130) Dev.raise_frame (by decide)
    calc Tab.get 0 ((d2.bump pgPAIR 0x130).raise pgPAIR 0x1).live (bar p o)
        = (d2.bump pgPAIR 0x130).cnt p o := by rw [h2]; rfl
      _ = d1.cnt p o := by rw [Dev.cnt_bump, if_neg hne]; rfl
      _ = d.cnt p o := h1

theorem Dev.settle_cnt (d : Dev) {p : Nat} (o : Nat) (hp : pgING ≤ p) : d.settle.cnt p o = d.cnt p o := by
  have hsync (e : Dev) : e.pairSync.cnt p o = e.cnt p o := by
    unfold Dev.pairSync
    split
    · rfl
    · split
      · split <;> rfl
      · exact e.giveUp_cnt _ o hp
  obtain ⟨e, hframe, hsettle⟩ := d.settle_pre
  rw [hsettle, hsync]
  exact congrArg (Tab.get 0 · (bar p o)) (hframe.live_eq (by decide))

/-! ### SIG and FLAG (R273, R291, R292) -/

/-- The core's page is one of the data path's. -/
theorem burPage_ge (c : Nat) : pgING ≤ burPage c := by
  unfold burPage pgING pgBUR
  omega

theorem burPage_ne_pair (c : Nat) : burPage c ≠ pgPAIR := by
  unfold burPage pgPAIR pgBUR
  omega

theorem Dev.burRun_sig {d : Dev} {c : Nat} {i : Fin 16} {v : BitVec 16} (hv : (d.core c).bank.seesD i v) :
    d.burRun c (.sig i) = ((d.timed c 1).sigOp c v).setCore c
      ((((d.timed c 1).sigOp c v).core c).setBank ((d.core c).bank.advance [] none none)).haltDue := by
  refine Dev.burRun_done (op := .sig i) rfl ?_
  unfold Dev.burEffect
  dsimp only
  rw [Dev.timed_bank, Dev.rdD_sees hv]
  rfl

/-- A full outbound mailbox drops the word, and counts it. -/
theorem Dev.sigOp_full {d : Dev} {c : Nat} {v : BitVec 16} (h : 16 ≤ (d.core c).mbxOut.length) :
    d.sigOp c v = d.burCnt c 0x148 := if_pos h

/-- A word joins an outbound mailbox that has room, and MBX is raised where it is the first. -/
theorem Dev.sigOp_room {d : Dev} {c : Nat} {v : BitVec 16} (h : (d.core c).mbxOut.length < 16) :
    (d.sigOp c v).bur = (d.setCore c { d.core c with mbxOut := (d.core c).mbxOut ++ [v] }).bur ∧
      ((d.core c).mbxOut = [] → bitAt 3 ((d.sigOp c v).page (burPage c)).pirq = true) := by
  unfold Dev.sigOp
  dsimp only
  rw [if_neg (by omega)]
  split
  case isTrue => exact ⟨Frame.bur_eq Dev.raise_frame (by decide), fun _ => Dev.raise_pirq_bit _ _ (by decide)⟩
  case isFalse hne => exact ⟨rfl, fun h0 => absurd (List.isEmpty_iff.2 h0) hne⟩

theorem Dev.page_setCore (d : Dev) (c : Nat) (x : Core) (p : Nat) : (d.setCore c x).page p = d.page p := rfl

theorem Dev.timed_mbxOut (d : Dev) (c n : Nat) : ((d.timed c n).core c).mbxOut = (d.core c).mbxOut := by rw [Dev.timed_core]

theorem Dev.burRun_sig_full {d : Dev} {c : Nat} {i : Fin 16} {v : BitVec 16} (hv : (d.core c).bank.seesD i v)
    (h : 16 ≤ (d.core c).mbxOut.length) :
    d.onlyCore (d.burRun c (.sig i)) c ∧ ((d.burRun c (.sig i)).core c).mbxOut = (d.core c).mbxOut := by
  have h' : 16 ≤ ((d.timed c 1).core c).mbxOut.length := by rw [Dev.timed_mbxOut]; exact h
  rw [Dev.burRun_sig hv, Dev.sigOp_full h']
  refine ⟨fun n hn => ?_, ?_⟩
  · rw [Dev.core_setCore_ne _ _ hn]
    exact Dev.timed_onlyCore _ _ _ _ hn
  · rw [Dev.core_setCore_self, Core.ended_mbxOut]
    exact Dev.timed_mbxOut ..

theorem Dev.burRun_sig_room {d : Dev} {c : Nat} {i : Fin 16} {v : BitVec 16} (hv : (d.core c).bank.seesD i v)
    (h : (d.core c).mbxOut.length < 16) :
    d.onlyCore (d.burRun c (.sig i)) c ∧ ((d.burRun c (.sig i)).core c).mbxOut = (d.core c).mbxOut ++ [v] ∧
      ((d.core c).mbxOut = [] → bitAt 3 ((d.burRun c (.sig i)).page (burPage c)).pirq = true) := by
  have h' : ((d.timed c 1).core c).mbxOut.length < 16 := by rw [Dev.timed_mbxOut]; exact h
  obtain ⟨hbur, hirq⟩ := Dev.sigOp_room (v := v) h'
  rw [Dev.timed_mbxOut] at hbur hirq
  rw [Dev.burRun_sig hv, Dev.page_setCore]
  refine ⟨fun n hn => ?_, ?_, hirq⟩
  · rw [Dev.core_setCore_ne _ _ hn, Dev.core_of hbur, Dev.core_setCore_ne _ _ hn, Dev.timed_onlyCore _ _ _ _ hn]
  · rw [Dev.core_setCore_self, Core.ended_mbxOut, Dev.core_of hbur, Dev.core_setCore_self]

/-- FLAG clears the flags it names; FE is the core's, V and S are its bank's. -/
theorem Dev.flag_core (d : Dev) (c : Nat) (cv cs cf : Bool) : d.onlyCore (d.burRun c (.flag cv cs cf)) c ∧
    (d.burRun c (.flag cv cs cf)).core c =
      ({ d.core c with cyc := (d.core c).cyc + 1, fe := (d.core c).fe && !cf }.setBank
        ({ (d.core c).bank with v := (d.core c).bank.v && !cv, s := (d.core c).bank.s && !cs }.advance [] none none)).haltDue := by
  have he : (d.timed c 1).burEffect c (.flag cv cs cf) =
      (.done { (d.core c).bank with v := (d.core c).bank.v && !cv, s := (d.core c).bank.s && !cs } [] none none,
        if cf then (d.timed c 1).setCore c { (d.timed c 1).core c with fe := false } else d.timed c 1) := by
    unfold Dev.burEffect
    dsimp only
    rw [Dev.timed_bank]
  rw [Dev.burRun_done (op := .flag cv cs cf) rfl he]
  refine ⟨fun n hn => ?_, ?_⟩
  · rw [Dev.core_setCore_ne _ _ hn]
    cases cf with
    | false => exact Dev.timed_onlyCore _ _ _ _ hn
    | true =>
      rw [if_pos rfl, Dev.core_setCore_ne _ _ hn, Dev.timed_onlyCore _ _ _ _ hn]
  · rw [Dev.core_setCore_self]
    cases cf with
    | false => rw [if_neg Bool.false_ne_true, Dev.timed_core, Bool.not_false, Bool.and_true]
    | true => rw [if_pos rfl, Dev.core_setCore_self, Dev.timed_core, Bool.not_true, Bool.and_false]

/-- Settles O51: where the program counter goes on to by R270, what ends an activation or an interrupt, and what faults. -/
theorem burinControlFlow : Obligations.BurinControlFlow := by
  refine ⟨?nop, ?br, ?call, ?ret, ?loop, ?rti, ?wait, ?sig, ?flag, ?brk, ?reserved⟩
  case nop =>
    intro s c hi
    have hran := Dev.ran_settle (s.dev.nop_ran c)
    refine .of_issues rfl hi ⟨hran, ?_⟩
    rw [Dev.ran_bank hran]
    exact ⟨fun t ht => Bank.advance_delayed ht, Bank.step_next, Bank.step_loops⟩
  case br => exact fun s c cond ofs hi => .of_ran rfl hi (s.dev.br_ran c cond ofs)
  case call => exact fun s c ofs hi => .of_ran rfl hi (s.dev.call_ran c ofs)
  case ret => exact fun s c hi => .of_ran rfl hi (s.dev.ret_ran c)
  case loop =>
    exact fun s c n len k hi hk => ⟨fun hl => .of_ran rfl hi (Dev.loop_ran hk hl), fun hl => .of_faulted rfl hi (Dev.loop_faulted hl)⟩
  case rti =>
    refine fun s c hi => ⟨fun h1 hh => .of_issues rfl hi ?_, fun h1 => .of_faulted rfl hi (Dev.rti_faulted h1)⟩
    obtain ⟨hbank, hst, hb0, honly⟩ := Dev.rti_facts h1 hh
    rw [Dev.settle_core]
    exact ⟨hbank, hst, hb0, Dev.onlyCore_settle honly⟩
  case wait =>
    refine fun s c hi => ⟨fun h1 hh => .of_issues rfl hi ?_, fun h1 => .of_faulted rfl hi (Dev.wait_faulted h1)⟩
    obtain ⟨hst, hrun, htask, honly⟩ := Dev.wait_facts h1 hh
    rw [Dev.settle_core]
    exact ⟨hst, hrun, htask, Dev.onlyCore_settle honly⟩
  case sig =>
    intro s c i v hi hv
    refine .of_issues rfl hi ?_
    rw [Dev.settle_core, Dev.settle_pirq _ (burPage_ne_pair c)]
    rcases Nat.lt_or_ge (s.dev.core c).mbxOut.length 16 with h | h
    · obtain ⟨honly, hbox, hirq⟩ := Dev.burRun_sig_room hv h
      exact ⟨Dev.onlyCore_settle honly, fun _ => hbox, hirq, fun h' => absurd h (Nat.not_lt.2 h')⟩
    · obtain ⟨honly, hbox⟩ := Dev.burRun_sig_full hv h
      exact ⟨Dev.onlyCore_settle honly, fun h' => absurd h' (Nat.not_lt.2 h), fun h0 => by simp [h0] at h, fun _ => hbox⟩
  case flag =>
    intro s c cv cs cf hi
    obtain ⟨honly, hcore⟩ := s.dev.flag_core c cv cs cf
    exact .of_issues rfl hi ⟨(Dev.settle_core ..).trans hcore, Dev.onlyCore_settle honly⟩
  case brk => exact fun s c hi => .of_faulted rfl hi (s.dev.brk_faulted c)
  case reserved =>
    intro s c hu hst hw
    refine .of_onPage_settled rfl hu ?_
    rw [Dev.burExec_reserved hst hw]
    exact Dev.faulted_settle (s.dev.burFault_untimed c 1)

end Sys2Proof.Machine

/-! PROOFS. The burin cores' events and ports (chapter 10), and the code of a rejected write of MBXIN. -/

namespace Sys2Proof.Machine

/-! ### Activations (R278) -/

/-- The bank of a core that begins an event: kind and flags, task, record and data base, from instruction `pc` on. -/
def Bank.activated (b : Bank) (q : BEvent) (p : Placed) (pc : BitVec 13) : Bank :=
  { (((b.wrD 0 (BitVec.ofNat 16 (q.kind + q.flags * 256))).wrD 1 (BitVec.ofNat 16 q.task)).wrA 0
      (BitVec.ofNat 16 q.addr)).wrA 7 (BitVec.ofNat 16 p.data) with
    pc := pc, delay := none, fresh := [], loop := false }

theorem Bank.activated_dr (b : Bank) (q : BEvent) (p : Placed) (pc : BitVec 13) (j : Nat) :
    Tab.get 0 (b.activated q p pc).dr j =
      if j = 1 then BitVec.ofNat 16 q.task else if j = 0 then BitVec.ofNat 16 (q.kind + q.flags * 256) else Tab.get 0 b.dr j := by
  show Tab.get 0 (Tab.set 0 (Tab.set 0 b.dr 0 _) 1 _) j = _
  rw [Tab.get_set, Tab.get_set]

theorem Bank.activated_ar (b : Bank) (q : BEvent) (p : Placed) (pc : BitVec 13) (j : Nat) :
    Tab.get 0 (b.activated q p pc).ar j =
      if j = 7 then BitVec.ofNat 16 p.data else if j = 0 then BitVec.ofNat 16 q.addr else Tab.get 0 b.ar j := by
  show Tab.get 0 (Tab.set 0 (Tab.set 0 b.ar 0 _) 7 _) j = _
  rw [Tab.get_set, Tab.get_set]

/-- A core in WAIT begins the first event that may be delivered. -/
theorem Dev.burActivate_begins {d : Dev} {c : Nat} {q : BEvent} {p : Placed} (hst : (d.core c).state = .wait)
    (hb : (d.core c).bank1 = false) (hq : ((d.core c).queue.find? fun q => d.evReady c q) = some q)
    (hp : (d.core c).tk q.task = some p) (hw : q.words ≠ 0) : ∃ pc, d.burActivate c = d.setCore c
      { d.core c with b0 := (d.core c).b0.activated q p pc, queue := (d.core c).queue.erase q, running := some q
                      task := some q.task, state := .run, loss := false } := by
  unfold Dev.burActivate
  dsimp only
  rw [if_neg (by simp [hst, hb]), hq]
  dsimp only
  rw [hp]
  dsimp only
  rw [if_neg hw]
  exact ⟨_, rfl⟩

/-! ### Interrupts (R271) -/

/-- A pending interrupt is taken in bank 1, and counted. -/
theorem Dev.burIrq_taken {d : Dev} {c : Nat} {q : Nat × Nat} (hst : (d.core c).state = .run ∨ (d.core c).state = .wait)
    (hb : (d.core c).bank1 = false) (hd : (d.core c).b0.delay = none) (hq : (d.core c).nextIrq = some q) :
    ∃ pc t, d.burIrq c = (d.setCore c { d.core c with
      irqs := (d.core c).irqs.erase q, bank1 := true, irqFrom := (d.core c).state, state := .run
      b0 := { (d.core c).b0 with fresh := [] }, b1 := { (d.core c).b1 with pc := pc, delay := none, fresh := [] }
      task := t }).burCnt c 0x108 := by
  have hruns : ((d.core c).state == .run || (d.core c).state == .wait) = true := by simpa using hst
  unfold Dev.burIrq
  dsimp only
  rw [if_neg (by simp [hb, hd, hruns]), hq]
  exact ⟨_, _, rfl⟩

/-! ### The ports (R275, R280, R281) -/

/-- A counter of a core's page that has gone on. -/
theorem Dev.cnt_burCnt (d : Dev) (c o : Nat) : (d.burCnt c o).cnt (burPage c) o = d.cnt (burPage c) o + 1 :=
  (d.cnt_bump _ _ _ _ 1).trans (if_pos rfl)

theorem Dev.core_burCnt (d : Dev) (c o n k : Nat) : (d.burCnt c o n).core k = d.core k := rfl

/-- A commit that passes every check arms its ticket (R280). -/
theorem Dev.cmtGo_arms {d : Dev} {c : Nat} {num : BitVec 16} (h : d.cmtErrs c num = []) :
    d.cmtGo c num = ((d.setPorts c { (d.core c).ports with cmtStat := 0x100 }).burCnt c 0x120).armTicket
      (d.core c).ports.cmtPage.toNat
      { num := num, when := (d.core c).ports.cmtWhen.toNat, target := (d.core c).ports.cmtSfn } := by
  unfold Dev.cmtGo
  rw [h]
  rfl

/-- A commit that a check refuses leaves the code and raises MISS (R280). -/
theorem Dev.cmtGo_refused {d : Dev} {c : Nat} {num : BitVec 16} {x : Code} (h : firstCode (d.cmtErrs c num) = some x) :
    d.cmtGo c num =
      ((d.setPorts c { (d.core c).ports with cmtStat := x.setWidth 16 ||| 0x100 }).burCnt c 0x128).raise (burPage c) 0x2 := by
  unfold Dev.cmtGo
  dsimp only
  rw [h]

/-- A ticket for a boundary on a page that is none of LNB's moves no core. -/
theorem Dev.armTicket_bur {d : Dev} {p : Nat} {k : Ticket} (hw : k.when ≠ 0) (hl : isLnb p = false) :
    (d.armTicket p k).bur = d.bur := by
  unfold Dev.armTicket
  dsimp only
  rw [if_neg hw, if_neg (by simp [hl])]
  rfl

theorem Dev.setPorts_ports (d : Dev) (c : Nat) (p : Ports) : ((d.setPorts c p).core c).ports = p := by
  unfold Dev.setPorts
  rw [Dev.core_setCore_self]

section
variable {d : Dev} {c : Nat} {num : BitVec 16}

theorem Dev.cmtGo_arms_facts (h : d.cmtErrs c num = []) (hp : (d.core c).ports.cmtPage.toNat ∈ [pgBMF, pgTRG])
    (hw : (d.core c).ports.cmtWhen ≠ 0) :
    ((d.cmtGo c num).page (d.core c).ports.cmtPage.toNat).armed =
        some { num := num, when := (d.core c).ports.cmtWhen.toNat, target := (d.core c).ports.cmtSfn } ∧
      ((d.cmtGo c num).page (d.core c).ports.cmtPage.toNat).locked = true ∧
      ((d.cmtGo c num).core c).ports.cmtStat = 0x100 := by
  have hwhen : (d.core c).ports.cmtWhen.toNat ≠ 0 := fun h0 => hw (BitVec.eq_of_toNat_eq h0)
  have hlnb : isLnb (d.core c).ports.cmtPage.toNat = false := by
    simp only [List.mem_cons, List.not_mem_nil, or_false] at hp
    rcases hp with hp | hp <;> rw [hp] <;> decide
  rw [Dev.cmtGo_arms h]
  obtain ⟨harmed, hlocked⟩ := Dev.armTicket_armed
    (d := (d.setPorts c { (d.core c).ports with cmtStat := 0x100 }).burCnt c 0x120)
    (k := { num := num, when := (d.core c).ports.cmtWhen.toNat, target := (d.core c).ports.cmtSfn }) hwhen hlnb
  refine ⟨harmed, hlocked, ?_⟩
  rw [Dev.core_of (Dev.armTicket_bur hwhen hlnb)]
  exact congrArg Ports.cmtStat (d.setPorts_ports c _)

theorem Dev.cmtGo_refused_facts {x : Code} (h : firstCode (d.cmtErrs c num) = some x) :
    ((d.cmtGo c num).core c).ports.cmtStat = x.setWidth 16 ||| 0x100 ∧
      bitAt 1 ((d.cmtGo c num).page (burPage c)).pirq = true ∧
      (d.cmtGo c num).cnt (burPage c) 0x128 = d.cnt (burPage c) 0x128 + 1 ∧
      ∀ p, ((d.cmtGo c num).page p).armed = (d.page p).armed ∧ ((d.cmtGo c num).page p).locked = (d.page p).locked := by
  rw [Dev.cmtGo_refused h]
  generalize hd1 : d.setPorts c { (d.core c).ports with cmtStat := x.setWidth 16 ||| 0x100 } = d1
  have hports : (d1.core c).ports.cmtStat = x.setWidth 16 ||| 0x100 := by rw [← hd1, d.setPorts_ports]
  have hframe : Frame [.bur] d d1 := hd1 ▸ Dev.setPorts_frame
  have hraise : Frame [.pba, .pirq, .out] (d1.burCnt c 0x128) ((d1.burCnt c 0x128).raise (burPage c) 0x2) := Dev.raise_frame
  refine ⟨?_, Dev.raise_pirq_bit _ _ (by decide), ?_, fun p => ?_⟩
  · rw [Dev.core_of (hraise.bur_eq (by decide))]
    exact hports
  · calc Tab.get 0 ((d1.burCnt c 0x128).raise (burPage c) 0x2).live (bar (burPage c) 0x128)
        = (d1.burCnt c 0x128).cnt (burPage c) 0x128 := by rw [hraise.live_eq (by decide)]; rfl
      _ = d1.cnt (burPage c) 0x128 + 1 := d1.cnt_burCnt c 0x128
      _ = d.cnt (burPage c) 0x128 + 1 := by
        unfold Dev.cnt
        rw [hframe.live_eq (by decide)]
  · exact ⟨(hraise.armed_eq (by decide) p).trans (hframe.armed_eq (by decide) p),
      (hraise.locked_eq (by decide) p).trans (hframe.locked_eq (by decide) p)⟩

end

/-- The post is of the block that TRG expects, of a task that may deliver it in a run that uses it (R281). -/
def Dev.swTaken (d : Dev) (c : Nat) : Prop :=
  let q := (d.core c).ports
  d.run.live = true ∧ (d.reqAt q.swSfn).trigMode = true ∧ usesSw (d.trgTblAt q.swSfn) = true ∧
    d.hasGrant c 2 = true ∧ q.swSfn = d.swExpected

/-- The samples of a post, four bits each. -/
def Dev.swSamples (d : Dev) (c : Nat) : List Nat :=
  let q := (d.core c).ports
  (List.range ((d.reqAt q.swSfn).lf / 2 ^ (d.reqAt q.swSfn).tA)).map fun j =>
    (Tab.get (0 : BitVec 16) q.swBits (j / 4)).toNat / 16 ^ (j % 4) % 16

theorem Dev.swSamples_get {d : Dev} {c j : Nat}
    (hj : j < (d.reqAt (d.core c).ports.swSfn).lf / 2 ^ (d.reqAt (d.core c).ports.swSfn).tA) :
    (d.swSamples c)[j]? = some ((Tab.get (0 : BitVec 16) (d.core c).ports.swBits (j / 4)).toNat / 16 ^ (j % 4) % 16) := by
  unfold Dev.swSamples
  rw [List.getElem?_map, List.getElem?_range hj]
  rfl

theorem Dev.swPost_taken {d : Dev} {c : Nat} (h : d.swTaken c) :
    d.swPost c = ({ d with trg.sw := d.trg.sw ++ [((d.core c).ports.swSfn, d.swSamples c)] } : Dev).burCnt c 0x130 := by
  obtain ⟨hlive, hmode, huses, hgrant, hsfn⟩ := h
  unfold Dev.swPost
  exact if_pos (by simp only [hlive, hmode, huses, hgrant, Bool.and_self, Bool.true_and]; exact beq_iff_eq.2 hsfn)

theorem Dev.swPost_discarded {d : Dev} {c : Nat} (h : ¬ d.swTaken c) : d.swPost c = d.burCnt c 0x138 := by
  unfold Dev.swPost
  refine if_neg fun hall => h ?_
  simp only [Bool.and_eq_true, beq_iff_eq] at hall
  obtain ⟨⟨⟨⟨hlive, hmode⟩, huses⟩, hgrant⟩, hsfn⟩ := hall
  exact ⟨hlive, hmode, huses, hgrant, hsfn⟩

/-! ### Transfers (R275) -/

theorem Dev.xfGo_starts {d : Dev} {c : Nat} {dir : Bool} (hb : (d.core c).ports.xfBusy = false) (hok : d.xfOk c dir = true) :
    d.xfGo c dir = d.setPorts c { (d.core c).ports with xfDir := dir, xfBusy := true, xfFe := false } := by
  unfold Dev.xfGo
  exact if_neg (by simp [hb, hok])

theorem Dev.xfGo_ignored {d : Dev} {c : Nat} {dir : Bool} (hb : (d.core c).ports.xfBusy = true) :
    d.xfGo c dir = d.burCnt c 0x138 := by
  unfold Dev.xfGo
  exact if_pos (by simp [hb])

theorem Dev.setFe_ports (d : Dev) (c : Nat) (b : Bool) : ((d.setFe c b).core c).ports = (d.core c).ports := by
  unfold Dev.setFe
  split
  · rw [Dev.core_setCore_self]
  · rfl

/-- A transfer that is done is no longer busy, whatever its words have met. -/
theorem Dev.xfDone_idle {d : Dev} {c : Nat} (hb : (d.core c).ports.xfBusy = true) :
    ((d.xfDone c).core c).ports.xfBusy = false := by
  unfold Dev.xfDone
  rw [if_pos hb, Dev.setFe_ports, Dev.setPorts_ports]

/-- Settles O52: each event finds its unit serving; of what settling follows, no core and no count of a core's page is
touched. -/
theorem coresTakeEventsAndUsePorts : Obligations.CoresTakeEventsAndUsePorts := by
  refine ⟨?activation, ?timer, ?irq, ?reload, ?commit, ?post, ?xfGo, ?xfDone, ?mailbox⟩
  case activation =>
    intro s c q p hu hst hb hq hp hw
    obtain ⟨pc, hbegins⟩ := Dev.burActivate_begins hst hb hq hp hw
    refine .of_onPage rfl hu ?_
    rw [hbegins, Dev.core_setCore_self]
    have hdr := (s.dev.core c).b0.activated_dr q p pc
    have har := (s.dev.core c).b0.activated_ar q p pc
    exact ⟨rfl, rfl, rfl, rfl, (hdr 0).trans rfl, (hdr 1).trans rfl, (har 0).trans rfl, (har 7).trans rfl,
      fun j h0 h1 => by rw [hdr, if_neg h1, if_neg h0], fun j h0 h7 => by rw [har, if_neg h7, if_neg h0],
      rfl, rfl, rfl, rfl, rfl, rfl, fun n hn => Dev.core_setCore_ne _ _ hn⟩
  case timer =>
    intro s c n hu hn h0 hclk hdue
    exact .of_onPage rfl hu (Dev.burTimer_facts hn h0 hclk hdue)
  case irq =>
    intro s c q hu hst hb hd hq
    obtain ⟨pc, t, htaken⟩ := Dev.burIrq_taken hst hb hd hq
    refine .of_onPage rfl hu ?_
    rw [htaken, Dev.cnt_burCnt, Dev.core_burCnt, Dev.core_setCore_self]
    exact ⟨rfl, rfl, rfl, rfl, rfl, rfl, rfl, rfl, rfl, rfl, rfl, fun n hn => Dev.core_setCore_ne _ _ hn⟩
  case reload =>
    intro s c hoff hst hres hout hlev
    refine .of_run (f := fun d => if d.sys.state = .off then d else d.burReloadDone) rfl ?_
    rw [if_neg hoff]
    exact Dev.burReloadDone_facts c.isLt hst hres hout hlev
  case commit =>
    intro s c num hu
    exact ⟨fun h hp hw => .of_onPage rfl hu (Dev.cmtGo_arms_facts h hp hw),
      fun x hx => .of_onPage rfl hu (Dev.cmtGo_refused_facts hx)⟩
  case post =>
    intro s c hu
    refine ⟨fun h => .of_onPage rfl hu ?_, fun h => .of_onPage rfl hu ?_⟩
    · rw [Dev.swPost_taken h]
      exact ⟨_, rfl, fun j hj => Dev.swSamples_get hj⟩
    · rw [Dev.swPost_discarded h]
      exact ⟨rfl, Dev.cnt_burCnt ..⟩
  case xfGo =>
    intro s c dir hu
    refine ⟨fun hb hok => .of_onPage_settled rfl hu ?_, fun hb => .of_onPage_settled rfl hu ?_⟩
    · rw [Dev.settle_core, Dev.xfGo_starts hb hok]
      exact Dev.core_setCore_self ..
    · rw [Dev.settle_core, Dev.settle_cnt _ _ (burPage_ge c), Dev.xfGo_ignored hb]
      exact ⟨rfl, Dev.cnt_burCnt ..⟩
  case xfDone =>
    intro s c hu hb
    refine .of_onPage_settled rfl hu ?_
    rw [Dev.settle_core]
    exact Dev.xfDone_idle hb
  case mailbox =>
    intro s c w t hu hbox
    refine .of_onPage rfl hu ?_
    rw [Dev.mbxPop_cons hbox]
    exact ⟨congrArg Core.mbxIn (Dev.core_setCore_self ..), rfl, fun n hn => Dev.core_setCore_ne _ _ hn⟩

/-! ### A word for a full inbound mailbox of a core with a task (R290, R528) -/

/-- Both rejections of R290 apply, and R528 ranks E_BUSY before the block's own E_TASKCORE. -/
theorem Dev.mbxinWrite_busy {d : Dev} {c : Nat} {v : Word} (hv : v >>> 16 = 0) (ht : (d.core c).tasks.isEmpty = false)
    (hst : noStepState d.sys.state = true) (hfull : 16 ≤ (d.core c).mbxIn.length) :
    d.mbxinWrite c v = d.reject (burPage c) (0x1118 + 0x40 * (c % 16)) eBUSY := by
  have herrs : when' (v >>> 16 ≠ 0) eRSVD ++ when' (!(d.core c).tasks.isEmpty && noStepState d.sys.state) 0x10
      ++ when' (16 ≤ (d.core c).mbxIn.length) eBUSY = [0x10, eBUSY] := by
    simp [hv, ht, hst, hfull, when']
  unfold Dev.mbxinWrite
  dsimp only
  rw [herrs]
  rfl

/-- A running device whose core 0 holds a task and has a full inbound mailbox. -/
def fullBoxed : Dev :=
  { sys := { state := .running }, boot := { linkUp := true, perstLow := false }
    pages := [(pgBUR, { en := true, started := true })]
    bur := { cores := [(0, { tasks := [{ entry := 0, prog := 0, data := 0 }], mbxIn := List.replicate 16 0 })] } }

/-- Refutes O53: while the device is RUNNING, a write to the full mailbox of a core with a task records E_BUSY and not
E_TASKCORE. -/
theorem not_hostControlsTheCores : ¬ Obligations.HostControlsTheCores := by
  intro h
  obtain ⟨-, -, -, -, hbox⟩ := h { dev := fullBoxed } 0
  have htakes : fullBoxed.takes (burPage 0) 0x1118 = true := by decide
  obtain ⟨-, -, hrefused⟩ := hbox 0 htakes
  obtain ⟨t, hexec, -, ⟨hperr, -⟩, -⟩ := hrefused (by decide)
  have hrun : fullBoxed.hostWr (burPage 0) 0x1118 (fun d => d.mbxinWrite 0 0) = t.dev :=
    congrArg State.dev (Host.Outcome.next.inj hexec)
  rw [Dev.hostWr_takes htakes, Dev.mbxinWrite_busy (by decide) (by decide) (by decide) (by decide)] at hrun
  obtain ⟨hbusy, -⟩ := Dev.rejected_settle (Dev.reject_rejected fullBoxed (burPage 0) 0x1118 eBUSY)
  have hcode : eBUSY = 0x10 := congrArg Perr.code (hbusy.symm.trans ((congrArg (fun d => (Dev.page d (burPage 0)).perr) hrun).trans hperr))
  exact absurd hcode (by decide)

end Sys2Proof.Machine

/-! PROOFS. The serial lanes (chapter 12): how a lane comes up from signal detect to marker lock, and what an UP lane receives and
sends. -/

namespace Sys2Proof.Machine

/-! ### Signal detect, adaptation and block lock (R325, R326) -/

theorem Dev.signalDetect_detect {d : Dev} {n : Nat} (hst : (d.lane n).state = .detect) :
    d.signalDetect n = d.setLane n { d.lane n with
      sigdet := true, state := .adapt, t0 := d.time.loc
      ctle := if (d.lane n).hasRec then (d.lane n).recCtle else 8 } :=
  if_pos hst

@[simp] theorem Dev.modPage_lane (d : Dev) (p : Nat) (f : Page → Page) (n : Nat) : (d.modPage p f).lane n = d.lane n := rfl

/-- The end of ADAPT stores the record on the lane; what the page then shows of STALE is no part of the lane. -/
theorem Dev.adaptDone_lane {d : Dev} {n : Nat} {ctle : BitVec 4} {dfe0 dfe1 : Word} (hst : (d.lane n).state = .adapt) :
    (d.adaptDone n ctle dfe0 dfe1).lane n = { d.lane n with
      state := .blockhunt, validRun := 0, ctle := ctle, dfe0 := dfe0, dfe1 := dfe1, hasRec := true, recCtle := ctle
      recTemp := d.pwr.tj, recLoad := d.loadPct, recVcal := d.railDev 3 850, stale := false, eyeOff := 0 } := by
  unfold Dev.adaptDone
  dsimp only
  rw [if_pos hst, Dev.modPage_lane, Dev.lane_set]

section
variable {d : Dev} {n : Nat} {hdr : BitVec 2} (hst : (d.lane n).state = .blockhunt)
include hst

theorem Dev.syncHeader_blockhunt : d.syncHeader n hdr =
    if hdr == 1 || hdr == 2 then
      if (d.lane n).validRun + 1 < 64 then d.setLane n { d.lane n with validRun := (d.lane n).validRun + 1 }
      else d.setLane n { d.lane n with
        state := .markerhunt, validRun := 0, history := 0, good := 0, mseq := none, invert := false }
    else d.setLane n { d.lane n with validRun := 0, slips := ((d.lane n).slips + 1) % 66 } := by
  unfold Dev.syncHeader
  dsimp only
  rw [hst]

theorem Dev.syncHeader_counts (hok : hdr = 1 ∨ hdr = 2) (hrun : (d.lane n).validRun + 1 < 64) :
    d.syncHeader n hdr = d.setLane n { d.lane n with validRun := (d.lane n).validRun + 1 } := by
  rw [Dev.syncHeader_blockhunt hst, if_pos (by simpa using hok), if_pos hrun]

theorem Dev.syncHeader_locks (hok : hdr = 1 ∨ hdr = 2) (hrun : ¬ (d.lane n).validRun + 1 < 64) :
    d.syncHeader n hdr = d.setLane n { d.lane n with
      state := .markerhunt, validRun := 0, history := 0, good := 0, mseq := none, invert := false } := by
  rw [Dev.syncHeader_blockhunt hst, if_pos (by simpa using hok), if_neg hrun]

theorem Dev.syncHeader_slips (hbad : ¬ (hdr = 1 ∨ hdr = 2)) :
    d.syncHeader n hdr = d.setLane n { d.lane n with validRun := 0, slips := ((d.lane n).slips + 1) % 66 } := by
  rw [Dev.syncHeader_blockhunt hst, if_neg (by simpa using hbad)]

end

/-! ### Marker lock (R327, R328) -/

/-- A good marker's reserved bits are zero, so its QIDX names a lane of the quad (R320). -/
theorem goodMarker_qidx_lt {h : BitVec 2} {p : List Byte} {last : Option (BitVec 8)} (hg : goodMarker h p last = true) :
    leAt p 3 1 < 4 := by
  have hbody : markerBody p = true := by
    simp only [goodMarker, Bool.and_eq_true] at hg
    obtain ⟨⟨_, hbody⟩, _⟩ := hg
    exact hbody
  simp only [markerBody, Bool.and_eq_true, decide_eq_true_eq] at hbody
  obtain ⟨⟨⟨_, hqidx⟩, _⟩, _⟩ := hbody
  exact hqidx

theorem Lane.marked_qidx {x : Lane} {p : List Byte} (hq : leAt p 3 1 < 4) : (x.marked p).qidx.toNat = leAt p 3 1 :=
  (BitVec.toNat_ofNat _ _).trans (Nat.mod_eq_of_lt hq)

theorem Dev.markerRx_third {d : Dev} {n : Nat} {p : List Byte} (hst : (d.lane n).state = .markerhunt)
    (hinv : (d.lane n).invert = false) (htwo : (d.lane n).good = 2) (hg : goodMarker 2 p (d.lane n).mseq = true) :
    d.markerRx n 2 p = (d.markerLock n { (d.lane n).marked p with good := 3 }).offerQl n := by
  unfold Dev.markerRx
  simp only [hinv, hst, hg, htwo, if_true, Bool.false_eq_true, if_false]
  exact if_neg (by decide)

/-- The third good marker locks the lane onto the index its markers name. -/
theorem Dev.markerRx_third_lane {d : Dev} {n : Nat} {p : List Byte} (hst : (d.lane n).state = .markerhunt)
    (hinv : (d.lane n).invert = false) (htwo : (d.lane n).good = 2) (hg : goodMarker 2 p (d.lane n).mseq = true)
    (hfree : d.quadTaken n (leAt p 3 1) = false) :
    (d.markerRx n 2 p).lane n = { (d.lane n).marked p with
      good := 3, state := .up, logvalid := true, logic := BitVec.ofNat 8 (n / 4 * 4 + leAt p 3 1)
      remap := decide (leAt p 3 1 ≠ n % 4), maperr := false, missed := 0, resync := false } := by
  have hqidx := Lane.marked_qidx (x := d.lane n) (goodMarker_qidx_lt hg)
  rw [Dev.markerRx_third hst hinv htwo hg, Frame.lane_eq Dev.offerQl_frame (by decide),
    Dev.markerLock_lane (by rw [hqidx]; exact hfree), hqidx]

/-- Settles O34: each event sets its own lane; the page's header, the masters and the clock unit's references are no part of it. -/
theorem lanesComeUp : Obligations.LanesComeUp := by
  refine ⟨?detect, ?adapted, ?header, ?marker⟩
  case detect =>
    intro s n hu hst
    refine .of_onPage rfl hu ?_
    rw [Dev.signalDetect_detect hst, Dev.lane_set]
    exact ⟨rfl, rfl, rfl, fun hrec => if_pos hrec⟩
  case adapted =>
    intro s n ctle f0 f1 hu hst
    refine .of_onPage rfl hu ?_
    rw [Dev.adaptDone_lane hst]
    exact ⟨rfl, rfl, rfl, rfl, rfl, rfl, rfl, rfl⟩
  case header =>
    intro s n hdr hu hst
    refine .of_onPage rfl hu ?_
    split_ifs with hok hrun
    · rw [Dev.syncHeader_counts hst hok hrun, Dev.lane_set]
      exact ⟨hst, rfl⟩
    · rw [Dev.syncHeader_locks hst hok hrun, Dev.lane_set]
      exact ⟨rfl, rfl⟩
    · rw [Dev.syncHeader_slips hst hok, Dev.lane_set]
      exact ⟨hst, rfl, rfl⟩
  case marker =>
    intro s n p hu hst hinv htwo hg hfree
    refine .of_onPage rfl hu ?_
    rw [Dev.markerRx_third_lane hst hinv htwo hg hfree]
    exact ⟨rfl, rfl, rfl, rfl, rfl⟩

/-! ### Frames received, and markers and IDLE frames sent (R318, R321, R330) -/

/-- A run that ends with a DELIM, outside resynchronisation, is passed on as a frame. -/
theorem Dev.delineateRun_delim {d : Dev} {n : Nat} {blks : List Blk} {f : List Byte} {w : BitVec 64}
    (hst : (d.lane n).state = .up) (hres : (d.lane n).resync = false)
    (hrun : delineate (d.lane n).invert 518 (d.lane n).prev [] blks = (f, .delim, w)) (hf : f ≠ []) :
    d.delineateRun n blks = (d.setLane n { d.lane n with prev := w, resync := false }).passFrame n f := by
  unfold Dev.delineateRun
  dsimp only
  rw [if_neg (not_not_intro hst), hrun]
  dsimp only
  rw [hres, if_neg (by simpa using hf)]
  rfl

theorem Dev.markerSend_on {d : Dev} {n : Nat} (htx : d.txOn n = true) :
    d.markerSend n =
      (d.setLane n { d.lane n with txMseq := (d.lane n).txMseq + 1 }).emit (.marker n (d.markerBytes n)) :=
  if_pos htx

theorem Dev.idleSend_role {d : Dev} {n : Nat} (hrole : d.role n ≠ 0) : d.idleSend n = d.sendFrame n (d.idleFrame n) :=
  if_neg hrole

@[simp] theorem Dev.emit_lane (d : Dev) (o : Out) (n : Nat) : (d.emit o).lane n = d.lane n := rfl

/-- Settles O36: each event comes while its lane's page serves; the run's frame is passed on by the lane as the run has left its
descrambler, which the role that judges the frame does not read. -/
theorem lanesCarryFrames : Obligations.LanesCarryFrames := by
  refine ⟨?delineated, ?eye, ?marker, ?idle, ?forwarded⟩
  case delineated =>
    intro s n l f w hu hst hres hecho hrun hf
    refine .of_onPage rfl hu ?_
    rw [Dev.delineateRun_delim hst hres hrun hf]
    obtain ⟨hlane, hinbox⟩ := Dev.passFrame_facts
      (d := s.dev.setLane n { s.dev.lane n with prev := w, resync := false }) (f := f) hecho
    rw [hlane, hinbox, Dev.lane_set]
    exact ⟨rfl, rfl⟩
  case eye =>
    intro s n h v off ctle hu hst
    exact .of_onPage rfl hu (Dev.eyeRefresh_facts hst)
  case marker =>
    intro s n hu htx
    refine .of_onPage rfl hu ?_
    rw [Dev.markerSend_on htx, Dev.emit_lane, Dev.lane_set]
    exact ⟨rfl, rfl⟩
  case idle =>
    intro s n hu htx hrole
    refine .of_onPage rfl hu ?_
    obtain ⟨hout, hlane, -⟩ := Dev.sendFrame_facts (f := s.dev.idleFrame n) htx
    rw [Dev.idleSend_role hrole, hlane]
    exact ⟨hout, rfl⟩
  case forwarded =>
    intro s n fr rest hu hfwd hrole hpub hlev hst hlaneq htx
    exact .of_onPage rfl hu (Dev.forwardFrame_facts hfwd hrole hpub hlev hst hlaneq htx)

end Sys2Proof.Machine

/-! PROOFS. The memory controller (chapter 13): how a freeze begins and ends, what keeps memory up in RUN, and how training, retraining,
self-test and a quiesce complete. -/

namespace Sys2Proof.Machine

/-! ### Freezes (R357) -/

/-- A further error of a frozen controller sets FRZMULTI and no more. -/
theorem Dev.freeze_again {d : Dev} {c : Nat} {a : BitVec 38} {l y : Word} {m : Bool} (h : d.mctl.mstat = .frozen) :
    d.freeze c a l y m = { d with mctl.frz.multi := true } := if_pos h

/-- The place that a freeze at a device address reports is that address. -/
theorem Dev.freezeAt_toNat (d : Dev) (c : Nat) (a : BitVec 38) (y : Word) :
    d.freezeAt c a.toNat y = d.freeze c a (memLoc a.toNat) y := by
  unfold Dev.freezeAt
  rw [BitVec.ofNat_toNat, BitVec.setWidth_eq]

/-- A legal FRZFORCE is a freeze with cause FORCE, at a place and with a syndrome that no access gives. -/
theorem Dev.frzForce_freezes {d : Dev} (h : d.sys.state = .ready ∨ d.sys.state = .idle) :
    ∃ a l y, d.frzForce 1 = Dev.freeze { d with free := d.free + 3 } 5 a l y := by
  refine ⟨_, _, _, Dev.guard_of ?_⟩
  rcases h with h | h <;> rw [h] <;> rfl

/-- Settles O30: settling keeps the state, and of the controller clears only the snapshot that the freeze owes. -/
theorem freezesStopTheController : Obligations.FreezesStopTheController := by
  refine ⟨?first, ?further, ?forced⟩
  case first =>
    intro s c a y hu hst hrun hpart
    refine .of_onPage_settled rfl hu ?_
    rw [Dev.settle_state, Dev.settle_mctl, Dev.freezeAt_toNat]
    obtain ⟨hstate, hmctl⟩ := Dev.freeze_facts (c := c.val + 1) (a := a) (l := memLoc a.toNat) (y := y) (m := false) hst hrun
      (by rw [hpart, Bool.false_and])
    rw [hmctl]
    exact ⟨hstate, rfl, rfl⟩
  case further =>
    intro s c a y hu hfrozen
    refine .of_onPage_settled rfl hu ?_
    rw [Dev.settle_state, Dev.settle_mctl, Dev.freezeAt_toNat, Dev.freeze_again hfrozen]
    exact ⟨rfl, hfrozen, rfl⟩
  case forced =>
    intro s ht hst hrun
    refine .of_hostWr rfl ht ?_
    obtain ⟨a, l, y, hforce⟩ := Dev.frzForce_freezes hst
    have hfreezes : freezeState s.dev.sys.state = true := by rcases hst with h | h <;> rw [h] <;> rfl
    have hnot : s.dev.sys.state ≠ .recovery := by rcases hst with h | h <;> rw [h] <;> decide
    obtain ⟨hstate, hmctl⟩ := Dev.freeze_facts (d := { s.dev with free := s.dev.free + 3 }) (c := 5) (a := a) (l := l) (y := y)
      (m := false) hfreezes hrun (Bool.and_false _)
    rw [if_neg hnot] at hstate
    rw [Dev.settle_state, Dev.settle_mctl, hforce, hmctl]
    exact ⟨hstate, rfl, rfl, rfl, rfl, rfl⟩

/-! ### The check after THAW (R359, R360) -/

/-- Settles O31: each outcome of the check is its effect, and settling keeps the state, the controller's registers and PERR. -/
theorem thawEndsInRunOrFreezesAgain : Obligations.ThawEndsInRunOrFreezesAgain := by
  refine ⟨?serves, ?recurs⟩
  case serves =>
    intro s a y still hu hthaw hlev hprev hlive
    refine .of_onPage_settled rfl hu ?_
    rw [Dev.settle_state, Dev.settle_mctl]
    exact Dev.thawDone_idle hthaw hlev hprev hlive
  case recurs =>
    intro s a y still hu hthaw hlev hst
    refine .of_onPage_settled rfl hu ?_
    rw [Dev.settle_state, Dev.settle_mctl, Dev.settle_perr]
    exact Dev.thawDone_recur hthaw hlev hst

/-! ### The patrol scrubber (R348) -/

theorem Dev.scrubChan_clean {d : Dev} (h : d.mctl.bad = []) (c : Nat) : d.scrubChan c 0 = d := by
  have hacc : ∀ k, d.badAcc k = {} := fun k => by unfold Dev.badAcc; rw [h]; rfl
  unfold Dev.scrubChan
  dsimp only
  rw [hacc]
  rfl

/-- A scrubber that finds nothing counts its accesses and moves on; it touches nothing else. -/
theorem Dev.patrolScrub_clean_frame {d : Dev} (h : d.mctl.bad = []) : Frame [.live, .mctl] d (d.patrolScrub []) := by
  have hwalk : ∀ l : List Nat, l.foldl (fun d c => d.scrubChan c 0) d = d := List.foldl_fixed' (Dev.scrubChan_clean h)
  unfold Dev.patrolScrub
  simp only [List.find?_nil, Option.map_none, Option.getD_none, hwalk]
  have hcount : Frame [.live, .mctl] d (if (d.mctl.scrub + 1) % 2048 = 0 then d.bump pgMEMC 0x110 1280 else d) :=
    .ite_of (.refl _ _) fun k => k.next Dev.bump_frame (by decide)
  exact .ite (.refl _ _) (.ite (.refl _ _) (.ite (.upd_mctl hcount (by decide)) (.upd_mctl hcount (by decide))))

/-! ### Exclusions (R349) -/

/-- An exclusion that the list has room for is merged into it. -/
theorem Dev.exclude_excl {d : Dev} {x : Excl} (h : (mergeExcl d.plt.excl x).length ≤ 1024) :
    (d.exclude x).plt.excl = mergeExcl d.plt.excl x := by
  unfold Dev.exclude
  extract_lets l
  split
  case isTrue hsame => exact hsame.symm
  case isFalse hnew =>
    rw [if_neg (Nat.not_lt.mpr h), Frame.plt_eq Dev.raise_frame (by decide)]
    exact congrArg PltSt.excl (Frame.plt_eq Dev.putBytes_frame (by decide))

theorem eq_false_of_when'_eq_nil {b : Bool} {c : Code} (h : when' b c = []) : b = false := by
  cases b
  · rfl
  · exact absurd h (List.cons_ne_nil _ _)

/-- The row exclusion that EXCLADD describes with the place in EXCLLOC and a count of rows. -/
def Dev.exclAsked (d : Dev) (v : Word) : Excl :=
  let loc := d.reg (bar pgMEMC 0x1040)
  { chan := fld 5 0 loc, bank := fld 12 8 loc, row := fld 31 16 loc, count := v.toNat }

/-- What a legal EXCLADD asks for is excluded, and the list has room for it. -/
theorem Dev.exclAddWrite_legal {d : Dev} {v : Word} (h : d.exclAddErrs v = []) :
    d.exclAddWrite v = d.exclude (d.exclAsked v) ∧ (mergeExcl d.plt.excl (d.exclAsked v)).length ≤ 1024 := by
  constructor
  · unfold Dev.exclAddWrite
    rw [h]
    rfl
  · unfold Dev.exclAddErrs at h
    obtain ⟨-, hfull⟩ := List.append_eq_nil_iff.mp h
    exact Nat.not_lt.mp (of_decide_eq_false (eq_false_of_when'_eq_nil hfull))

/-! ### Error injection (R361) -/

theorem Dev.injWrite_legal {d : Dev} {v : Word} (h : d.injErrs v = []) :
    d.injWrite v = { d with mctl.inj := v &&& 0x003F3F03, mctl.armed := fld 1 0 v != 0 } := Dev.guard_of h

/-- Settles O32: a clean scrub leaves memory and plates by its frame, polls and tracked phases are read back channel by channel,
and settling keeps what each write leaves. -/
theorem memoryIsKeptUp : Obligations.MemoryIsKeptUp := by
  refine ⟨?scrub, ?poll, ?track, ?exclusion, ?injection⟩
  case scrub =>
    intro s hu hrun hen hbad hwalk hpart
    refine .of_onPage_settled rfl hu ?_
    rw [Dev.settle_mctl, Dev.settle_mem, Dev.settle_plt, List.map_nil, Dev.patrolScrub_clean hrun hen hbad hwalk hpart]
    have hframe := Dev.patrolScrub_clean_frame hbad
    exact ⟨rfl, hrun, hframe.mem_eq (by decide), hframe.plt_eq (by decide)⟩
  case poll =>
    intro s l n t h k hu hrun hn hl hk
    exact .of_onPage rfl hu (Dev.refreshPoll_facts hrun hn hl hk)
  case track =>
    intro s c t0 t1 hu hrun
    exact .of_onPage rfl hu (Dev.memTrack_facts hrun)
  case exclusion =>
    intro s v ht hlegal
    refine .of_hostWr rfl ht ?_
    obtain ⟨hwrite, hroom⟩ := Dev.exclAddWrite_legal hlegal
    rw [Dev.settle_plt, hwrite]
    exact Dev.exclude_excl hroom
  case injection =>
    intro s v ht hlegal
    refine .of_hostWr rfl ht ?_
    rw [Dev.settle_mctl, Dev.settle_mem, Dev.injWrite_legal hlegal]
    exact ⟨rfl, bne_iff_ne, rfl⟩

/-! ### Retraining (R356) -/

/-- Training in which no channel fails excludes nothing: memory and plates are no part of it. -/
theorem Dev.trained_none_frame (d : Dev) : Frame [.hdr, .boot, .mctl] d (d.trained []) := by
  unfold Dev.trained
  refine .upd_boot_mctl (.foldl (.foldl (.refl _ _) fun e c k => ?channel) fun e c k => ?page) (by decide) (by decide)
  case channel =>
    exact k.next Dev.setMchan_frame (by decide)
  case page =>
    exact .modPage k (.inr (by decide)) (.inl fun _ => rfl) (.inl fun _ => ⟨rfl, rfl⟩)

/-- A retrain ends with the training of every channel, and, below S5, in RUN. -/
theorem Dev.retrainDone_below {d : Dev} {failed : List Nat} (h : d.mctl.mstat = .retrain) (hlev : d.pwr.level < 5) :
    d.retrainDone failed = Dev.raise { d.trained failed with mctl.mstat := .run } pgMEMC 0x10 := by
  have hlow : ¬ 5 ≤ (d.trained failed).pwr.level := by
    rw [Frame.pwr_eq Dev.trained_frame (by decide)]
    exact Nat.not_le.mpr hlev
  have hretrain : ¬ (!(d.mctl.mstat == .retrain)) = true := by rw [h]; decide
  unfold Dev.retrainDone
  rw [if_neg hretrain]
  dsimp only
  rw [if_neg hlow]

/-- A retrain that no channel fails ends, below S5, with the controller in RUN. -/
theorem Dev.retrainDone_none {d : Dev} (h : d.mctl.mstat = .retrain) (hlev : d.pwr.level < 5) :
    (d.retrainDone []).mctl.mstat = .run ∧ (d.retrainDone []).boot.memFail = 0 ∧ (d.retrainDone []).mem = d.mem := by
  obtain ⟨hfail, -, -⟩ := d.trained_none
  have hmem : (d.trained []).mem = d.mem := d.trained_none_frame.mem_eq (by decide)
  rw [Dev.retrainDone_below h hlev, Frame.mctl_eq Dev.raise_frame (by decide), Frame.boot_eq Dev.raise_frame (by decide),
    Frame.mem_eq Dev.raise_frame (by decide)]
  generalize d.trained [] = e at hfail hmem ⊢
  exact ⟨rfl, hfail, hmem⟩

/-! ### Self-test (R514) and the end of a quiesce (R511, R513) -/

/-- SELFTEST returns to the state before it. -/
theorem Dev.selftestDone_state {d : Dev} {quires bad lanes : List Nat} (h : d.sys.state = .selftest) :
    (d.selftestDone quires bad lanes).sys.state = d.sys.before := by
  have hparts : Frame [.pba, .pirq, .errlog, .out, .plt, .hat, .mctl, .mem] d
      (d.fmapStep fun d => (d.hatSelftest quires).memSelftest bad) :=
    Dev.fmapStep_frame (((Frame.refl _ d).next Dev.hatSelftest_frame (by decide)).next Dev.memSelftest_frame (by decide)) (by decide)
  unfold Dev.selftestDone
  rw [if_neg (not_not_intro h), Dev.setState_state, Dev.laneTested_before, hparts.before_eq (by decide)]

theorem Dev.quiesceDone_state {d : Dev} (h : d.sys.state = .quiesced) (hcaps : d.dkl.caps = []) :
    d.quiesceDone.sys.state = .idle := by
  unfold Dev.quiesceDone
  rw [if_pos ⟨h, hcaps⟩, Frame.state_eq Dev.pairSync_frame (by decide), Dev.setState_state]

/-- Settles O33: each operation ends as its own lemma says, and settling keeps what bring-up, the controller, memory and the state
then are. -/
theorem longOperationsComplete : Obligations.LongOperationsComplete := by
  refine ⟨?training, ?retrain, ?selftest, ?quiesce⟩
  case training =>
    intro s failed bad quires lanes sram hst hstep hfatal hlev hperst
    refine .of_settled
      (f := fun d => d.memoryTrainingDone (vals failed) (bad.map BitVec.toNat) (vals quires) (vals lanes) sram) rfl ?_
    rw [Dev.settle_boot]
    refine Dev.memoryTrainingDone_facts ?_
    rw [hst, hstep, hfatal, hperst]
    simp [hlev]
  case retrain =>
    intro s hu hst hlev
    refine .of_onPage_settled rfl hu ?_
    rw [Dev.settle_mctl, Dev.settle_boot, Dev.settle_mem]
    exact Dev.retrainDone_none hst hlev
  case selftest =>
    intro s quires bad lanes hst
    refine .of_settled (f := fun d => d.selftestDone (vals quires) (bad.map BitVec.toNat) (vals lanes)) rfl ?_
    rw [Dev.settle_state]
    exact Dev.selftestDone_state hst
  case quiesce =>
    intro s hst hcaps
    refine .of_settled rfl ?_
    rw [Dev.settle_state]
    exact Dev.quiesceDone_state hst hcaps

end Sys2Proof.Machine

/-! PROOFS. Device memory keeps its canonical form (R383): a command that does not write memory leaves it by its frame, one that
does writes it through the operations that keep the form. -/

namespace Sys2Proof.Machine

/-! ### What a command leaves alone -/

theorem Frame.within {T U : List Part} {d e : Dev} (h : Frame T d e) (hT : (T.all fun p => U.contains p) = true) : Frame U d e :=
  h.mono fun p hp => List.contains_iff_mem.1 (List.all_eq_true.1 hT p hp)

/-- No command changes a piece of state outside its footprint: its own frame, command by command. -/
theorem exec_frame {c : Instr} {s t : State} (h : exec c s = .next t) : Frame (footprint c) s.dev t.dev := by
  cases c with
  | start => exact (execStart_frame h).within rfl
  | stop => exact (execStop_frame h).within rfl
  | quiesce => exact (execQuiesce_frame h).within rfl
  | estop => exact (execEstop_frame h).within rfl
  | latch => exact (execLatch_frame h).within rfl
  | build => exact (execBuild_frame h).within rfl
  | proof => exact (execProof_frame h).within rfl
  | arm => exact (execArm_frame h).within rfl
  | selftest => exact (execSelftest_frame h).within rfl
  | retrainMem => exact (execRetrainMem_frame h).within rfl
  | thaw => exact (execThaw_frame h).within rfl
  | handover => exact (execHandover_frame h).within rfl
  | resyncTime => exact (execResyncTime_frame h).within rfl
  | commandTimeout => exact (execCommandTimeout_frame h).within rfl
  | registerWrite => exact (execRegisterWrite_frame h).within rfl
  | misalignedAccess => exact (execMisalignedAccess_frame h).within rfl
  | reservedPageAccess => exact (execReservedPageAccess_frame h).within rfl
  | errlogPop => exact (execErrlogPop_frame h).within rfl
  | mbxoutPop => exact (execMbxoutPop_frame h).within rfl
  | faultlogPop => exact (execFaultlogPop_frame h).within rfl
  | sfnNowRead => exact (execSfnNowRead_frame h).within rfl
  | perrclrWrite => exact (execPerrclrWrite_frame h).within rfl
  | pirqClear => exact (execPirqClear_frame h).within rfl
  | pirqsetWrite => exact (execPirqsetWrite_frame h).within rfl
  | pcommit => exact (execPcommit_frame h).within rfl
  | commitApply => exact (execCommitApply_frame h).within rfl
  | shadowUnlock => exact (execShadowUnlock_frame h).within rfl
  | pctlEnWrite => exact (execPctlEnWrite_frame h).within rfl
  | pctlSrst => exact (execPctlSrst_frame h).within rfl
  | mladefIslandReset => exact (execMladefIslandReset_frame h).within rfl
  | watchdogExpire => exact (execWatchdogExpire_frame h).within rfl
  | recoveryComplete => exact (execRecoveryComplete_frame h).within rfl
  | wdogFire => exact (execWdogFire_frame h).within rfl
  | irqmapWrite => exact (execIrqmapWrite_frame h).within rfl
  | powerOnReset => exact (execPowerOnReset_frame h).within rfl
  | porstRelease => exact (execPorstRelease_frame h).within rfl
  | linkReset => exact (execLinkReset_frame h).within rfl
  | pcieLinkUp => exact (execPcieLinkUp_frame h).within rfl
  | imgdataWrite => exact (execImgdataWrite_frame h).within rfl
  | imgctlClr => exact (execImgctlClr_frame h).within rfl
  | imgctlGo => exact (execImgctlGo_frame h).within rfl
  | imageVerifyDone => exact (execImageVerifyDone_frame h).within rfl
  | bringupComplete => exact (execBringupComplete_frame h).within rfl
  | bringupRefTimeout => exact (execBringupRefTimeout_frame h).within rfl
  | supplySample => exact (execSupplySample_frame h).within rfl
  | shedFall => exact (execShedFall_frame h).within rfl
  | supplyReset => exact (execSupplyReset_frame h).within rfl
  | supplyHoldRelease => exact (execSupplyHoldRelease_frame h).within rfl
  | tempSample => exact (execTempSample_frame h).within rfl
  | shedreqWrite => exact (execShedreqWrite_frame h).within rfl
  | estopNEdge => exact (execEstopNEdge_frame h).within rfl
  | estopAssert => exact (execEstopAssert_frame h).within rfl
  | estopRelease => exact (execEstopRelease_frame h).within rfl
  | aonNop => exact (execAonNop_frame h).within rfl
  | aonRead => exact (execAonRead_frame h).within rfl
  | aonEstop => exact (execAonEstop_frame h).within rfl
  | aonRelease => exact (execAonRelease_frame h).within rfl
  | aonSnaptake => exact (execAonSnaptake_frame h).within rfl
  | aonSnapclr => exact (execAonSnapclr_frame h).within rfl
  | aonWdreset => exact (execAonWdreset_frame h).within rfl
  | aonSetshed => exact (execAonSetshed_frame h).within rfl
  | aonReadsnap => exact (execAonReadsnap_frame h).within rfl
  | i3cPrivateWrite => exact (execI3cPrivateWrite_frame h).within rfl
  | i3cPrivateRead => exact (execI3cPrivateRead_frame h).within rfl
  | i3cCcc => exact (execI3cCcc_frame h).within rfl
  | snapTake => exact (execSnapTake_frame h).within rfl
  | snapClear => exact (execSnapClear_frame h).within rfl
  | snapshotDone => exact (execSnapshotDone_frame h).within rfl
  | memoryFreeze => exact (execMemoryFreeze_frame h).within rfl
  | frzforce => exact (execFrzforce_frame h).within rfl
  | thawCheckDone => exact (execThawCheckDone_frame h).within rfl
  | patrolScrub => exact (execPatrolScrub_frame h).within rfl
  | refreshRatePoll => exact (execRefreshRatePoll_frame h).within rfl
  | memoryChannelStale => exact (execMemoryChannelStale_frame h).within rfl
  | memoryTrainingDone => exact (execMemoryTrainingDone_frame h).within rfl
  | retrainDone => exact (execRetrainDone_frame h).within rfl
  | excladd => exact (execExcladd_frame h).within rfl
  | injctlWrite => exact (execInjctlWrite_frame h).within rfl
  | selftestDone => exact (execSelftestDone_frame h).within rfl
  | quiesceDone => exact (execQuiesceDone_frame h).within rfl
  | signalDetect => exact (execSignalDetect_frame h).within rfl
  | electricalIdle => exact (execElectricalIdle_frame h).within rfl
  | laneBringupTimeout => exact (execLaneBringupTimeout_frame h).within rfl
  | adaptDone => exact (execAdaptDone_frame h).within rfl
  | syncHeader => exact (execSyncHeader_frame h).within rfl
  | markerRx => exact (execMarkerRx_frame h).within rfl
  | frameDelineate => exact (execFrameDelineate_frame h).within rfl
  | retune => exact (execRetune_frame h).within rfl
  | eyeRefresh => exact (execEyeRefresh_frame h).within rfl
  | markerSend => exact (execMarkerSend_frame h).within rfl
  | idleFrameSend => exact (execIdleFrameSend_frame h).within rfl
  | lanePowerDown => exact (execLanePowerDown_frame h).within rfl
  | sampleFrameRx => exact (execSampleFrameRx_frame h).within rfl
  | trigFrameRx => exact (execTrigFrameRx_frame h).within rfl
  | idleFrameRx => exact (execIdleFrameRx_frame h).within rfl
  | laneqRelease => exact (execLaneqRelease_frame h).within rfl
  | bindhiWrite => exact (execBindhiWrite_frame h).within rfl
  | mackeyLoad => exact (execMackeyLoad_frame h).within rfl
  | mackeyClear => exact (execMackeyClear_frame h).within rfl
  | frameSetClose => exact (execFrameSetClose_frame h).within rfl
  | sheetComplete => exact (execSheetComplete_frame h).within rfl
  | statisticsLatch => exact (execStatisticsLatch_frame h).within rfl
  | stopBoundary => exact (execStopBoundary_frame h).within rfl
  | plateTakeover => exact (execPlateTakeover_frame h).within rfl
  | pageSlotAssign => exact (execPageSlotAssign_frame h).within rfl
  | pageConsume => exact (execPageConsume_frame h).within rfl
  | cornerTurnStage => exact (execCornerTurnStage_frame h).within rfl
  | captureRecordWrite => exact (execCaptureRecordWrite_frame h).within rfl
  | dklRelease => exact (execDklRelease_frame h).within rfl
  | caprdWrite => exact (execCaprdWrite_frame h).within rfl
  | passRun => exact (execPassRun_frame h).within rfl
  | qmaskSet => exact (execQmaskSet_frame h).within rfl
  | channelAdd => exact (execChannelAdd_frame h).within rfl
  | addWindowExpire => exact (execAddWindowExpire_frame h).within rfl
  | suspectFlagsClose => exact (execSuspectFlagsClose_frame h).within rfl
  | recordFinished => exact (execRecordFinished_frame h).within rfl
  | accRelease => exact (execAccRelease_frame h).within rfl
  | beamFrameSend => exact (execBeamFrameSend_frame h).within rfl
  | forwardFrame => exact (execForwardFrame_frame h).within rfl
  | bmfTableWrite => exact (execBmfTableWrite_frame h).within rfl
  | stgrdWrite => exact (execStgrdWrite_frame h).within rfl
  | triggerSampleEval => exact (execTriggerSampleEval_frame h).within rfl
  | swDeadline => exact (execSwDeadline_frame h).within rfl
  | triginEdge => exact (execTriginEdge_frame h).within rfl
  | trigoutPulseEnd => exact (execTrigoutPulseEnd_frame h).within rfl
  | logEntryWrite => exact (execLogEntryWrite_frame h).within rfl
  | trgTableWrite => exact (execTrgTableWrite_frame h).within rfl
  | logrdWrite => exact (execLogrdWrite_frame h).within rfl
  | buildDone => exact (execBuildDone_frame h).within rfl
  | proofDone => exact (execProofDone_frame h).within rfl
  | disarm => exact (execDisarm_frame h).within rfl
  | plateSlotWrite => exact (execPlateSlotWrite_frame h).within rfl
  | burinActivation => exact (execBurinActivation_frame h).within rfl
  | burinTimer => exact (execBurinTimer_frame h).within rfl
  | burinIrqTaken => exact (execBurinIrqTaken_frame h).within rfl
  | cmtGo => exact (execCmtGo_frame h).within rfl
  | swPost => exact (execSwPost_frame h).within rfl
  | xfGo => exact (execXfGo_frame h).within rfl
  | xfDone => exact (execXfDone_frame h).within rfl
  | mbxinPortRead => exact (execMbxinPortRead_frame h).within rfl
  | burinReloadDone => exact (execBurinReloadDone_frame h).within rfl
  | cctlHalt => exact (execCctlHalt_frame h).within rfl
  | cctlStep => exact (execCctlStep_frame h).within rfl
  | cctlCreset => exact (execCctlCreset_frame h).within rfl
  | mbxinWrite => exact (execMbxinWrite_frame h).within rfl
  | nopOp => exact (execNopOp_frame h).within rfl
  | addOp => exact (execAddOp_frame h).within rfl
  | subOp => exact (execSubOp_frame h).within rfl
  | addsOp => exact (execAddsOp_frame h).within rfl
  | subsOp => exact (execSubsOp_frame h).within rfl
  | andOp => exact (execAndOp_frame h).within rfl
  | orOp => exact (execOrOp_frame h).within rfl
  | xorOp => exact (execXorOp_frame h).within rfl
  | shlOp => exact (execShlOp_frame h).within rfl
  | shraOp => exact (execShraOp_frame h).within rfl
  | shrlOp => exact (execShrlOp_frame h).within rfl
  | cmpOp => exact (execCmpOp_frame h).within rfl
  | minOp => exact (execMinOp_frame h).within rfl
  | maxOp => exact (execMaxOp_frame h).within rfl
  | absOp => exact (execAbsOp_frame h).within rfl
  | mpyOp => exact (execMpyOp_frame h).within rfl
  | macOp => exact (execMacOp_frame h).within rfl
  | accopOp => exact (execAccopOp_frame h).within rfl
  | mvaOp => exact (execMvaOp_frame h).within rfl
  | mvrOp => exact (execMvrOp_frame h).within rfl
  | getaOp => exact (execGetaOp_frame h).within rfl
  | putaOp => exact (execPutaOp_frame h).within rfl
  | ldOp => exact (execLdOp_frame h).within rfl
  | stOp => exact (execStOp_frame h).within rfl
  | ldiOp => exact (execLdiOp_frame h).within rfl
  | mvxOp => exact (execMvxOp_frame h).within rfl
  | brOp => exact (execBrOp_frame h).within rfl
  | callOp => exact (execCallOp_frame h).within rfl
  | retOp => exact (execRetOp_frame h).within rfl
  | loopOp => exact (execLoopOp_frame h).within rfl
  | rtiOp => exact (execRtiOp_frame h).within rfl
  | waitOp => exact (execWaitOp_frame h).within rfl
  | sigOp => exact (execSigOp_frame h).within rfl
  | flagOp => exact (execFlagOp_frame h).within rfl
  | brkOp => exact (execBrkOp_frame h).within rfl
  | dmaStart => exact (execDmaStart_frame h).within rfl
  | dmaResume => exact (execDmaResume_frame h).within rfl
  | dmaAbort => exact (execDmaAbort_frame h).within rfl
  | descCopy => exact (execDescCopy_frame h).within rfl
  | descFill => exact (execDescFill_frame h).within rfl
  | descCompare => exact (execDescCompare_frame h).within rfl
  | readbackDone => exact (execReadbackDone_frame h).within rfl
  | chainPreempt => exact (execChainPreempt_frame h).within rfl
  | invalidateContext => exact (execInvalidateContext_frame h).within rfl
  | invalidatePage => exact (execInvalidatePage_frame h).within rfl
  | invalidateAll => exact (execInvalidateAll_frame h).within rfl
  | invalidationDone => exact (execInvalidationDone_frame h).within rfl
  | hostInboundRead => exact (execHostInboundRead_frame h).within rfl
  | hostInboundWrite => exact (execHostInboundWrite_frame h).within rfl
  | atomicAdd => exact (execAtomicAdd_frame h).within rfl
  | atomicSwap => exact (execAtomicSwap_frame h).within rfl
  | fabricTimeout => exact (execFabricTimeout_frame h).within rfl
  | lateResponse => exact (execLateResponse_frame h).within rfl
  | portDrainTimeout => exact (execPortDrainTimeout_frame h).within rfl
  | pcieCompletionTimeout => exact (execPcieCompletionTimeout_frame h).within rfl
  | referenceEdge => exact (execReferenceEdge_frame h).within rfl
  | referenceEdgeMissing => exact (execReferenceEdgeMissing_frame h).within rfl
  | referenceQualified => exact (execReferenceQualified_frame h).within rfl
  | switchComplete => exact (execSwitchComplete_frame h).within rfl
  | disagreeCheck => exact (execDisagreeCheck_frame h).within rfl
  | loopctlSwWrite => exact (execLoopctlSwWrite_frame h).within rfl
  | freqadjWrite => exact (execFreqadjWrite_frame h).within rfl
  | phstepWrite => exact (execPhstepWrite_frame h).within rfl
  | outalignWrite => exact (execOutalignWrite_frame h).within rfl
  | alignmentEdge => exact (execAlignmentEdge_frame h).within rfl
  | outcfgWrite => exact (execOutcfgWrite_frame h).within rfl
  | syncoutPulse => exact (execSyncoutPulse_frame h).within rfl
  | snap => exact (execSnap_frame h).within rfl
  | basecfgWrite => exact (execBasecfgWrite_frame h).within rfl
  | masterMeasurement => exact (execMasterMeasurement_frame h).within rfl
  | sampleSlewDone => exact (execSampleSlewDone_frame h).within rfl
  | almctlWrite => exact (execAlmctlWrite_frame h).within rfl
  | alarmFire => exact (execAlarmFire_frame h).within rfl
  | ptpMessageRx => exact (execPtpMessageRx_frame h).within rfl
  | ethFrameDrop => exact (execEthFrameDrop_frame h).within rfl
  | ptpEventTx => exact (execPtpEventTx_frame h).within rfl
  | ethLinkChange => exact (execEthLinkChange_frame h).within rfl
  | mspFrameStart => exact (execMspFrameStart_frame h).within rfl
  | mspClkloss => exact (execMspClkloss_frame h).within rfl
  | monwordWrite => exact (execMonwordWrite_frame h).within rfl
  | heartbeatSend => exact (execHeartbeatSend_frame h).within rfl
  | grantSend => exact (execGrantSend_frame h).within rfl
  | digestSend => exact (execDigestSend_frame h).within rfl
  | ctrlRetransmit => exact (execCtrlRetransmit_frame h).within rfl
  | heartbeatRx => exact (execHeartbeatRx_frame h).within rfl
  | grantRx => exact (execGrantRx_frame h).within rfl
  | handoffRx => exact (execHandoffRx_frame h).within rfl
  | ticketRx => exact (execTicketRx_frame h).within rfl
  | commandRx => exact (execCommandRx_frame h).within rfl
  | threshRx => exact (execThreshRx_frame h).within rfl
  | watermarkRx => exact (execWatermarkRx_frame h).within rfl
  | ackRx => exact (execAckRx_frame h).within rfl
  | digestRx => exact (execDigestRx_frame h).within rfl
  | watermarkCompareTimeout => exact (execWatermarkCompareTimeout_frame h).within rfl
  | ownInChange => exact (execOwnInChange_frame h).within rfl
  | handoffTimeout => exact (execHandoffTimeout_frame h).within rfl
  | ownerSilenceTimeout => exact (execOwnerSilenceTimeout_frame h).within rfl
  | pairLinkDown => exact (execPairLinkDown_frame h).within rfl
  | leaseExpire => exact (execLeaseExpire_frame h).within rfl
  | leaseSilenceTakeover => exact (execLeaseSilenceTakeover_frame h).within rfl
  | interlockFault => exact (execInterlockFault_frame h).within rfl
  | ilreset => exact (execIlreset_frame h).within rfl
  | leaseModeExit => exact (execLeaseModeExit_frame h).within rfl
  | perstNRelease => exact (execPerstNRelease_frame h).within rfl
  | trigFrameSend => exact (execTrigFrameSend_frame h).within rfl
  | resumingBoundary => exact (execResumingBoundary_frame h).within rfl
  | handoffSend => exact (execHandoffSend_frame h).within rfl
  | estopNRise => exact (execEstopNRise_frame h).within rfl

/-! ### Commands that write device memory -/

theorem Dev.cmdRow_mem (d : Dev) (code : Nat) (o : Bool) : MemKept d (d.cmdRow code o) := by
  unfold Dev.cmdRow
  split
  · split
    · exact Dev.cmdJudge_mem
    · exact Dev.hostWr_mem (MemKept.refl d) fun _ h => h.trans Dev.cmdWrite_mem
  · exact Dev.hostWr_mem (MemKept.refl d) fun _ h => h.trans Dev.cmdJudge_mem

theorem execQuiesce_mem {s t : State} (h : execQuiesce s = .next t) : MemKept s.dev t.dev :=
  State.kept_run h (Dev.cmdRow_mem _ _ _)

theorem execSuspectFlagsClose_mem {s t : State} (h : execSuspectFlagsClose s = .next t) : MemKept s.dev t.dev :=
  State.kept_run h (Dev.onPage_mem (MemKept.refl _) fun _ h => h.trans Dev.suspectFlagsClose_mem)

/-- Every command keeps the canonical form: one without memory in its footprint by its frame, every other by its own lemma. -/
theorem exec_keepsMem {c : Instr} {s t : State} (h : exec c s = .next t) : MemKept s.dev t.dev := by
  by_cases hm : Part.mem ∈ footprint c
  case neg => exact (MemKept.refl _).next (exec_frame h) hm
  cases c with
  | quiesce => exact execQuiesce_mem h
  | registerWrite => exact execRegisterWrite_mem h
  | pcommit => exact execPcommit_mem h
  | commitApply => exact execCommitApply_mem h
  | pctlEnWrite => exact execPctlEnWrite_mem h
  | pctlSrst => exact execPctlSrst_mem h
  | mladefIslandReset => exact execMladefIslandReset_mem h
  | watchdogExpire => exact execWatchdogExpire_mem h
  | wdogFire => exact execWdogFire_mem h
  | powerOnReset => exact execPowerOnReset_mem h
  | linkReset => exact execLinkReset_mem h
  | supplySample => exact execSupplySample_mem h
  | supplyReset => exact execSupplyReset_mem h
  | tempSample => exact execTempSample_mem h
  | shedreqWrite => exact execShedreqWrite_mem h
  | aonWdreset => exact execAonWdreset_mem h
  | aonSetshed => exact execAonSetshed_mem h
  | i3cPrivateWrite => exact execI3cPrivateWrite_mem h
  | thawCheckDone => exact execThawCheckDone_mem h
  | patrolScrub => exact execPatrolScrub_mem h
  | memoryTrainingDone => exact execMemoryTrainingDone_mem h
  | retrainDone => exact execRetrainDone_mem h
  | excladd => exact execExcladd_mem h
  | selftestDone => exact execSelftestDone_mem h
  | sampleFrameRx => exact execSampleFrameRx_mem h
  | frameSetClose => exact execFrameSetClose_mem h
  | sheetComplete => exact execSheetComplete_mem h
  | pageSlotAssign => exact execPageSlotAssign_mem h
  | cornerTurnStage => exact execCornerTurnStage_mem h
  | captureRecordWrite => exact execCaptureRecordWrite_mem h
  | passRun => exact execPassRun_mem h
  | qmaskSet => exact execQmaskSet_mem h
  | channelAdd => exact execChannelAdd_mem h
  | addWindowExpire => exact execAddWindowExpire_mem h
  | suspectFlagsClose => exact execSuspectFlagsClose_mem h
  | recordFinished => exact execRecordFinished_mem h
  | logEntryWrite => exact execLogEntryWrite_mem h
  | buildDone => exact execBuildDone_mem h
  | plateSlotWrite => exact execPlateSlotWrite_mem h
  | cmtGo => exact execCmtGo_mem h
  | xfDone => exact execXfDone_mem h
  | cctlHalt => exact execCctlHalt_mem h
  | cctlStep => exact execCctlStep_mem h
  | cctlCreset => exact execCctlCreset_mem h
  | mpyOp => exact execMpyOp_mem h
  | macOp => exact execMacOp_mem h
  | ldOp => exact execLdOp_mem h
  | stOp => exact execStOp_mem h
  | dmaAbort => exact execDmaAbort_mem h
  | descCopy => exact execDescCopy_mem h
  | descFill => exact execDescFill_mem h
  | descCompare => exact execDescCompare_mem h
  | readbackDone => exact execReadbackDone_mem h
  | chainPreempt => exact execChainPreempt_mem h
  | hostInboundRead => exact execHostInboundRead_mem h
  | hostInboundWrite => exact execHostInboundWrite_mem h
  | atomicAdd => exact execAtomicAdd_mem h
  | atomicSwap => exact execAtomicSwap_mem h
  | fabricTimeout => exact execFabricTimeout_mem h
  | pcieCompletionTimeout => exact execPcieCompletionTimeout_mem h
  | mspFrameStart => exact execMspFrameStart_mem h
  | mspClkloss => exact execMspClkloss_mem h
  | ticketRx => exact execTicketRx_mem h
  | threshRx => exact execThreshRx_mem h
  | _ => exact absurd (List.contains_iff_mem.2 hm) (Bool.eq_false_iff.1 rfl)

/-- Settles O3: a command at the front of the queue keeps the form, and a tick does not touch memory. -/
theorem everyStepKeepsMemoryForm : Obligations.EveryStepKeepsMemoryForm := by
  intro s t h
  unfold step at h
  split at h
  case h_1 =>
    cases h
    exact (MemKept.refl s.dev).next Dev.tick_frame (by decide)
  case h_2 c rest hq => exact exec_keepsMem (s := { s with pending := rest }) h

/-- Settles O4: memory lists no byte at reset (log entry 6). -/
theorem memoryFormHoldsAtReset : Obligations.MemoryFormHoldsAtReset := Tab.wf_nil _

end Sys2Proof.Machine
/-! PROOFS. The fabric and the MMU (chapter 14): reads and writes of device memory without code errors, what the end of a command
leaves of what has left the block, and the obligation on the host's accesses, atomics and invalidations. -/

namespace Sys2Proof.Machine

/-! ### What has left the block stays recorded -/

theorem Dev.sendVector_out (d : Dev) (v : Nat) : d.sys.out ⊆ (d.sendVector v).sys.out := by
  unfold Dev.sendVector
  dsimp only
  split
  · exact List.Subset.refl _
  · exact List.subset_cons_self ..

theorem Dev.raise_out (d : Dev) (p : Nat) (b : Word) : d.sys.out ⊆ (d.raise p b).sys.out := by
  have hirq (e : Dev) : e.sys.out ⊆ (e.sendIrq p).sys.out := by
    unfold Dev.sendIrq
    split
    · exact e.sendVector_out _
    · exact List.Subset.refl _
  have hibi (e : Dev) : e.sys.out ⊆ (e.ibi p).sys.out := by
    unfold Dev.ibi
    split
    · exact List.subset_cons_self ..
    · exact List.Subset.refl _
  unfold Dev.raise
  extract_lets g g' d1
  have h1 : d.sys.out ⊆ d1.sys.out := hibi (d.setPage p g')
  split
  · exact List.Subset.trans h1 (hirq d1)
  · exact h1

theorem Dev.sendFrame_out (d : Dev) (n : Nat) (f : List Byte) : d.sys.out ⊆ (d.sendFrame n f).sys.out := by
  by_cases h : d.txOn n = true
  · rw [(Dev.sendFrame_facts h).1]
    exact List.subset_cons_self ..
  · unfold Dev.sendFrame
    rw [if_neg h]
    exact List.Subset.refl _

theorem Dev.ctrlOut_out (d : Dev) (q : BitVec 16) (body : List Byte) : d.sys.out ⊆ (d.ctrlOut q body).sys.out :=
  List.foldlRecOn (motive := fun e : Dev => d.sys.out ⊆ e.sys.out) _ _ (List.Subset.refl _)
    fun e h n _ => List.Subset.trans h (e.sendFrame_out n _)

theorem Dev.ctrlSend_out (d : Dev) (kind ref : Nat) (rest : List Byte) : d.sys.out ⊆ (d.ctrlSend kind ref rest).sys.out :=
  Dev.ctrlOut_out { d with pair.txSeq := d.pair.txSeq + 1 } d.pair.txSeq _

theorem Dev.giveUp_out (d : Dev) (b : Bool) : d.sys.out ⊆ (d.giveUp b).sys.out := by
  unfold Dev.giveUp
  split
  · exact List.Subset.refl _
  · extract_lets d1 st ps d2
    have h1 : d.sys.out ⊆ d1.sys.out := by
      simp only [d1]
      split
      · exact d.ctrlSend_out _ _ _
      · exact List.Subset.refl _
    exact List.Subset.trans h1 (List.Subset.trans ((d2.bump pgPAIR 0x130).raise_out pgPAIR 0x1) (List.subset_cons_self ..))

theorem Dev.pairSync_out (d : Dev) : d.sys.out ⊆ d.pairSync.sys.out := by
  unfold Dev.pairSync
  split
  · exact List.Subset.refl _
  · split
    · split <;> exact List.Subset.refl _
    · exact d.giveUp_out _

theorem Dev.settle_out (d : Dev) : d.sys.out ⊆ d.settle.sys.out := by
  obtain ⟨e, hframe, hsettle⟩ := d.settle_pre
  rw [hsettle, ← hframe.out_eq (by decide)]
  exact e.pairSync_out

/-! ### Device memory without code errors (R345, R346) -/

/-- The fold of counts that a read makes changes live counters only. -/
theorem Dev.foldl_bump (d : Dev) (p o : Nat → Nat) (l : List Nat) :
    ∃ v, l.foldl (fun d k => d.bump (p k) (o k)) d = { d with live := v } := by
  induction l generalizing d with
  | nil => exact ⟨d.live, rfl⟩
  | cons k l ih => exact ih (d.bump (p k) (o k))

theorem Dev.memRead_clean {d : Dev} {a n : Nat} (hb : d.badIn a n = []) :
    ∃ v, d.memRead a n [] [] = (d.bytes a n, false, { d with live := v }) := by
  obtain ⟨v, hv⟩ := d.foldl_bump (fun k => pgMEMG + memChan (32 * k) / 10)
    (fun k => 0x100 + 0x20 * (memChan (32 * k) % 10)) (accesses a n)
  refine ⟨v, ?_⟩
  unfold Dev.memRead
  rw [hb, ← hv]
  rfl

theorem Dev.memWrite_clean {d : Dev} {a : Nat} {l : List Byte} (hb : d.badIn a l.length = []) :
    d.memWrite a l = (d.putBytes a l).memWritten a l.length [] := by
  unfold Dev.memWrite
  dsimp only
  rw [hb]
  rfl

/-- A write without code errors stores its bytes, and beside them changes counters and the marks of injected errors only. -/
theorem Dev.memWrite_frame_clean {d : Dev} {a : Nat} {l : List Byte} (hb : d.badIn a l.length = []) :
    Frame [.live, .mctl] (d.putBytes a l) (d.memWrite a l) := by
  rw [Dev.memWrite_clean hb]
  exact Dev.memWritten_frame

/-- Stored bytes stay stored where memory does not change. -/
theorem Dev.stored_mem {d e e' : Dev} {a : Nat} {l : List Byte} (h : d.stored e a l) (hm : e'.mem = e.mem) :
    d.stored e' a l := by
  have hbyte (x : Nat) : e'.byte x = e.byte x := by unfold Dev.byte; rw [hm]
  exact ⟨fun i hi => (hbyte _).trans (h.1 i hi), fun x hx => (hbyte x).trans (h.2 x hx)⟩

/-! ### Invalidation (R398, R404) -/

theorem Dev.invalidate_free {d : Dev} (h : d.mmu.inv = none) (cmd ctx : Nat) : (d.invalidate cmd ctx).mmu =
    { d.mmu with inv := some (cmd, ctx, cat64 (d.reg (bar pgMMU 0x1018)) (d.reg (bar pgMMU 0x1014))) } := by
  unfold Dev.invalidate
  rw [Dev.guard_of (by rw [h]; rfl)]

theorem Dev.guard_reject {d : Dev} {p o : Nat} {errs : List Code} {c : Code} {f : Dev → Dev} (h : firstCode errs = some c) :
    d.guard p o errs f = d.reject p o c := by
  unfold Dev.guard
  rw [h]

theorem Dev.invalidate_busy {d : Dev} (h : d.mmu.inv ≠ none) (cmd ctx : Nat) :
    d.invalidate cmd ctx = d.reject pgMMU 0x1010 eBUSY :=
  Dev.guard_reject (by rw [Option.isSome_iff_ne_none.2 h]; rfl)

/-- A rejected write records its code, and beside that touches only what settling may. -/
theorem Completes.of_rejected {c : Instr} {s : State} {p o : Nat} {f : Dev → Dev} {x : Code} {P : Dev → Prop}
    (h : exec c s = s.run fun d => d.hostWr p o f) (ht : s.dev.takes p o = true) (hf : f s.dev = s.dev.reject p o x)
    (hp : ∀ e, s.dev.rejected e p o x → Frame hostWrites s.dev e → P e) : Completes c s P := by
  refine .of_hostWr h ht ?_
  rw [hf]
  exact hp _ (Dev.rejected_settle (Dev.reject_rejected ..))
    ((Dev.reject_frame.within rfl).next Dev.settle_frame (by decide))

/-- An invalidation covers a translation: all of them, those of a context, or that of one page of a context (R398). -/
def TlbEnt.covered (cmd ctx : Nat) (va : BitVec 64) (t : TlbEnt) : Bool :=
  if cmd = 3 then true else if cmd = 1 then t.ctx == ctx else t.ctx == ctx && t.vpn == va.toNat / 4096

theorem Dev.invalidationDone_eq {d : Dev} {cmd ctx : Nat} {va : BitVec 64} (h : d.mmu.inv = some (cmd, ctx, va)) :
    d.invalidationDone = (({ d with
      mmu.tlb := d.mmu.tlb.filter fun t => !t.covered cmd ctx va, mmu.inv := none, mmu.done := d.mmu.done + 1 } : Dev).bump
        pgMMU 0x120).raise pgMMU 0x2 := by
  unfold Dev.invalidationDone
  rw [h]
  rfl

/-- What an invalidation does not cover. -/
theorem TlbEnt.covered_eq_false {cmd ctx : Nat} {va : BitVec 64} {t : TlbEnt} (h : t.covered cmd ctx va = false) :
    cmd ≠ 3 ∧ ¬ (cmd = 1 ∧ t.ctx = ctx) ∧ ¬ (t.ctx = ctx ∧ t.vpn = va.toNat / 4096) := by
  unfold TlbEnt.covered at h
  split_ifs at h with h3 h1
  · refine ⟨h3, ?_, ?_⟩ <;> simp_all
  · refine ⟨h3, ?_, ?_⟩ <;> simp_all

theorem TlbEnt.covered_otherContext {cmd ctx : Nat} {va : BitVec 64} {t : TlbEnt} (h3 : cmd ≠ 3) (hc : t.ctx ≠ ctx) :
    t.covered cmd ctx va = false := by
  simp [TlbEnt.covered, h3, hc]

/-! ### The host's accesses through BAR2 (R383) -/

/-- What lets a host access through BAR2 past its first checks. -/
theorem Dev.takes2_checks {d : Dev} (h : d.takes2 = true) :
    (!d.boot.linkUp || d.sys.state == .off) = false ∧ d.sys.state ≠ .imageWait ∧ ¬ 6 ≤ d.pwr.level := by
  simp only [Dev.takes2, Dev.hostUp, Bool.and_eq_true, bne_iff_ne, ne_eq, decide_eq_true_eq] at h
  obtain ⟨⟨⟨hlink, hoff⟩, himage⟩, hlevel⟩ := h
  exact ⟨by simp [hlink, hoff], himage, by omega⟩

theorem Dev.hostRead_clean {d : Dev} {a n : Nat} (ht : d.takes2 = true) (hw : whereIs a = .mem) (ha : a + n ≤ memBytes)
    (hm : d.memServes = true) (hb : d.badIn a n = []) :
    ∃ v, d.hostRead a n [] [] = ({ d with live := v } : Dev).emit (.bytes (d.bytes a n) false) := by
  obtain ⟨hup, himage, hlevel⟩ := Dev.takes2_checks ht
  obtain ⟨v, hv⟩ := Dev.memRead_clean (d := d.fabAccept a n) hb
  have hserves : ¬ (!(d.fabAccept a n).memServes) = true := by rw [show (d.fabAccept a n).memServes = true from hm]; decide
  refine ⟨v, ?_⟩
  unfold Dev.hostRead
  rw [if_neg (by rw [hup]; decide), if_neg himage, if_neg hlevel]
  dsimp only
  rw [hw]
  dsimp only
  rw [if_neg (Nat.not_lt.2 ha), if_neg hserves, hv]
  rfl

theorem Dev.hostWrite_clean {d : Dev} {a : Nat} {l : List Byte} (ht : d.takes2 = true) (hl : l ≠ [])
    (hw : whereIs a = .mem) (ha : a + l.length ≤ memBytes) (hm : d.memServes = true)
    (hr : d.refusedAt 0 a l.length = none) :
    d.hostWrite a l false = ((d.fabAccept a l.length).memWrite a l).injectAt a := by
  obtain ⟨hup, himage, hlevel⟩ := Dev.takes2_checks ht
  have hserves : ¬ (!(d.fabAccept a l.length).memServes) = true := by
    rw [show (d.fabAccept a l.length).memServes = true from hm]; decide
  have hgrant : (d.fabAccept a l.length).refusedAt 0 a l.length = none := hr
  unfold Dev.hostWrite
  dsimp only
  rw [if_neg (by rw [hup]; simp [hl]), if_neg himage, if_neg hlevel, if_neg Bool.false_ne_true, hw]
  dsimp only
  rw [if_neg (Nat.not_lt.2 ha), if_neg Bool.false_ne_true, hgrant]
  exact if_neg hserves

/-! ### Atomics (R376) -/

theorem length_leBytes (n v : Nat) : (leBytes n v).length = n := by
  induction n generalizing v with
  | zero => rfl
  | succ n ih => exact congrArg (· + 1) (ih _)

/-- An aligned atomic on memory that serves, is not refused and has no code error. -/
theorem Dev.atomic_clean {d : Dev} {a w : Nat} {f : Nat → Nat} (hal : a % w = 0) (ha : a + w ≤ memBytes)
    (hm : d.memServes = true) (hb : d.badIn a w = []) (hr : d.refusedAt 5 a w = none) :
    d.atomic a w f = (((d.fabAccept a w).memWrite a (leBytes w (f (leNat (d.bytes a w))))).bump pgFAB 0x130).emit
      (.bytes (d.bytes a w) false) := by
  have hserves : ¬ (!(d.fabAccept a w).memServes) = true := by rw [show (d.fabAccept a w).memServes = true from hm]; decide
  have hgrant : (d.fabAccept a w).refusedAt 5 a w = none := hr
  have hbad : (d.fabAccept a w).badIn a w = [] := hb
  unfold Dev.atomic
  dsimp only
  rw [if_neg (by omega), hgrant]
  dsimp only
  rw [if_neg hserves, hbad]
  rfl

/-- Such an atomic stores the new value and returns the old bytes. -/
theorem Dev.atomic_facts {d : Dev} {a w : Nat} {f : Nat → Nat} (hal : a % w = 0) (ha : a + w ≤ memBytes)
    (hm : d.memServes = true) (hb : d.badIn a w = []) (hr : d.refusedAt 5 a w = none) :
    d.stored (d.atomic a w f).settle a (leBytes w (f (leNat (d.bytes a w)))) ∧
      .bytes (d.bytes a w) false ∈ (d.atomic a w f).settle.sys.out := by
  rw [Dev.atomic_clean hal ha hm hb hr]
  generalize hl : leBytes w (f (leNat (d.bytes a w))) = l
  have hbad : (d.fabAccept a w).badIn a l.length = [] := by rw [← hl, length_leBytes]; exact hb
  refine ⟨Dev.stored_of_mem ?_, Dev.settle_out _ List.mem_cons_self⟩
  rw [Dev.settle_mem]
  exact (Dev.memWrite_frame_clean hbad).mem_eq (by decide)

/-! ### Late responses and drains (R379, R381) -/

theorem Dev.lateResponse_eq {d : Dev} {k : Nat} (h : d.fab.late = k + 1) :
    d.lateResponse = ({ d with fab.late := k } : Dev).bump pgFAB 0x110 := by
  unfold Dev.lateResponse
  rw [if_neg (by omega), h]
  rfl

theorem Dev.drainTimeout_late {d : Dev} {m : Nat} {t : BitVec 64} (h : Tab.get none d.fab.draining m = some t)
    (ht : 16000 ≤ (d.time.loc - t).toNat) :
    d.drainTimeout m = (({ d with fab.draining := Tab.set none d.fab.draining m none
                                  fab.waiting := d.fab.waiting.filter (·.master != m) } : Dev).bump pgFAB 0x118
      (d.fab.waiting.filter (·.master == m)).length).raise pgFAB 0x8 := by
  unfold Dev.drainTimeout
  rw [h]
  exact if_pos (decide_eq_true ht)

/-- Settles O55: each access is its effect on memory without code errors; raising and counting touch no other field, and
settling keeps memory and what has left the block. That a translation stays until an invalidation covers it is log entry 63. -/
theorem mmuAndFabricServe : Obligations.MmuAndFabricServe := by
  refine ⟨?invalidate, ?done, ?read, ?write, ?atomic, ?late, ?drain⟩
  case invalidate =>
    intro s ht
    refine ⟨fun hfree ctx => ⟨.of_hostWr rfl ht ?_, .of_hostWr rfl ht ?_, .of_hostWr rfl ht ?_⟩, fun hbusy => ?_⟩
    · exact (Dev.settle_mmu _).trans (Dev.invalidate_free hfree ..)
    · exact (Dev.settle_mmu _).trans (Dev.invalidate_free hfree ..)
    · exact (Dev.settle_mmu _).trans (Dev.invalidate_free hfree ..)
    · exact .of_rejected rfl ht (Dev.invalidate_busy hbusy ..) fun e hrej hframe => ⟨hrej, hframe.mmu_eq (by decide)⟩
  case done =>
    intro s cmd ctx va hu hinv
    refine .of_onPage rfl hu ?_
    rw [Dev.invalidationDone_eq hinv, Frame.mmu_eq Dev.raise_frame (by decide)]
    refine ⟨rfl, rfl, Dev.raise_pirq_bit _ _ (by decide), fun t ht => ?_, fun t ht h3 hc => ?_⟩
    · exact TlbEnt.covered_eq_false (Bool.not_eq_true' _ ▸ (List.mem_filter.1 ht).2)
    · exact List.mem_filter.2 ⟨ht, by rw [TlbEnt.covered_otherContext h3 hc]; rfl⟩
  case read =>
    intro s a len ht hw ha hm hb
    refine .of_settled (f := fun d => d.hostRead a.toNat len [] []) rfl ?_
    obtain ⟨v, hv⟩ := Dev.hostRead_clean ht hw ha hm hb
    rw [hv, Dev.settle_mem]
    exact ⟨Dev.settle_out _ List.mem_cons_self, rfl⟩
  case write =>
    intro s a l ht hl hw ha hm hb hr
    refine .of_settled (f := fun d => d.hostWrite a.toNat l false) rfl (Dev.stored_of_mem ?_)
    rw [Dev.settle_mem, Dev.hostWrite_clean ht hl hw ha hm hr, Frame.mem_eq Dev.injectAt_frame (by decide)]
    exact (Dev.memWrite_frame_clean (d := s.dev.fabAccept _ _) hb).mem_eq (by decide)
  case atomic =>
    intro s a wide v hu w old hal ha hm hb hr
    exact ⟨.of_onPage_settled (f := fun d => d.atomicAdd a.toNat wide v) rfl hu
        (Dev.atomic_facts (f := fun old => (old + v.toNat) % 2 ^ (8 * w)) hal ha hm hb hr),
      .of_onPage_settled (f := fun d => d.atomicSwap a.toNat wide v) rfl hu
        (Dev.atomic_facts (f := fun _ => v.toNat % 2 ^ (8 * w)) hal ha hm hb hr)⟩
  case late =>
    intro s k hu hlate
    refine .of_onPage rfl hu ?_
    rw [Dev.lateResponse_eq hlate]
    exact ⟨rfl, (Dev.cnt_bump ..).trans (if_pos rfl)⟩
  case drain =>
    intro s m t hu hdrain ht
    refine .of_onPage rfl hu ?_
    rw [Dev.drainTimeout_late hdrain ht, Frame.fab_eq Dev.raise_frame (by decide)]
    exact ⟨Tab.get_set_self none s.dev.fab.draining m.val none, Dev.raise_pirq_bit _ _ (by decide), rfl⟩

end Sys2Proof.Machine
/-! PROOFS. The DMA engines (chapter 14): what choosing the next chain and writing a completion record leave of an engine's channels,
the commands, the execution of a descriptor's bytes, and how a chain goes on, gives way or ends. -/

namespace Sys2Proof.Machine

/-! ### Engines and channels -/

theorem Dev.eng_of {d e : Dev} (h : e.dma = d.dma) (k : Nat) : e.eng k = d.eng k := by unfold Dev.eng; rw [h]

theorem Dev.dch_of {d e : Dev} (h : e.dma = d.dma) (k n : Nat) : e.dch k n = d.dch k n := by unfold Dev.dch; rw [Dev.eng_of h]

theorem Dev.eng_setEng_self (d : Dev) (k : Nat) (x : DmaEng) : (d.setEng k x).eng k = x := by
  rw [Dev.eng_setEng, if_pos rfl]

theorem Dev.dch_setEng (d : Dev) (k n : Nat) (x : DmaEng) : (d.setEng k x).dch k n = Tab.get {} x.chans n := by
  unfold Dev.dch
  rw [Dev.eng_setEng_self]

theorem Dev.eng_setDch (d : Dev) (k n : Nat) (c : DmaChan) :
    (d.setDch k n c).eng k = { d.eng k with chans := Tab.set {} (d.eng k).chans n c } :=
  Tab.get_set_self ..

/-! ### The choice of the next chain (R385) -/

/-- An engine whose chain `n` becomes ACTIVE. -/
def DmaEng.chosen (e : DmaEng) (n : Nat) : DmaEng :=
  { e with active := some n
           chans := Tab.set {} e.chans n { (Tab.get {} e.chans n : DmaChan) with state := .active, stalled := false } }

theorem DmaEng.chosen_self (e : DmaEng) (n : Nat) :
    Tab.get {} (e.chosen n).chans n = { (Tab.get {} e.chans n : DmaChan) with state := .active, stalled := false } := by
  simp [DmaEng.chosen]

theorem DmaEng.chosen_other (e : DmaEng) {n m : Nat} (h : m ≠ n) :
    Tab.get ({} : DmaChan) (e.chosen n).chans m = Tab.get {} e.chans m := by
  simp [DmaEng.chosen, Tab.get_set_ne, h]

/-- A chain waits in an engine: in one of its queues, or SUSPENDED. -/
def DmaEng.waits (e : DmaEng) (n : Nat) : Prop := n ∈ e.urgent ∨ e.susp = some n ∨ n ∈ e.bulk

section
variable {d : Dev} {k : Nat} (ha : (d.eng k).active = none)
include ha

theorem Dev.dmaPick_urgent {n : Nat} {t : List Nat} (hu : (d.eng k).urgent = n :: t) :
    d.dmaPick k = d.setEng k (({ d.eng k with urgent := t } : DmaEng).chosen n) := by
  unfold Dev.dmaPick
  dsimp only
  rw [ha, hu]
  rfl

theorem Dev.dmaPick_susp {n : Nat} (hu : (d.eng k).urgent = []) (hs : (d.eng k).susp = some n) :
    d.dmaPick k = d.setEng k (({ d.eng k with susp := none } : DmaEng).chosen n) := by
  unfold Dev.dmaPick
  dsimp only
  rw [ha, hu, hs]
  rfl

theorem Dev.dmaPick_bulk {n : Nat} {t : List Nat} (hu : (d.eng k).urgent = []) (hs : (d.eng k).susp = none)
    (hb : (d.eng k).bulk = n :: t) : d.dmaPick k = d.setEng k (({ d.eng k with bulk := t } : DmaEng).chosen n) := by
  unfold Dev.dmaPick
  dsimp only
  rw [ha, hu, hs, hb]
  rfl

theorem Dev.dmaPick_nothing (hu : (d.eng k).urgent = []) (hs : (d.eng k).susp = none) (hb : (d.eng k).bulk = []) :
    d.dmaPick k = d := by
  unfold Dev.dmaPick
  dsimp only
  rw [ha, hu, hs, hb]
  rfl

end

/-- What the choice of the next chain can do: nothing, or a chain that waits becomes ACTIVE where none was. -/
theorem Dev.dmaPick_cases (d : Dev) (k : Nat) : d.dmaPick k = d ∨ ∃ (m : Nat) (e : DmaEng), (d.eng k).active = none ∧ (d.eng k).waits m ∧
    e.chans = (d.eng k).chans ∧ d.dmaPick k = d.setEng k (e.chosen m) := by
  cases ha : (d.eng k).active with
  | some n =>
    left
    unfold Dev.dmaPick
    dsimp only
    rw [ha]
    rfl
  | none =>
    cases hu : (d.eng k).urgent with
    | cons n t => exact .inr ⟨n, { d.eng k with urgent := t }, rfl, .inl (hu ▸ List.mem_cons_self), rfl, Dev.dmaPick_urgent ha hu⟩
    | nil =>
      cases hs : (d.eng k).susp with
      | some n => exact .inr ⟨n, { d.eng k with susp := none }, rfl, .inr (.inl hs), rfl, Dev.dmaPick_susp ha hu hs⟩
      | none =>
        cases hb : (d.eng k).bulk with
        | cons n t => exact .inr ⟨n, { d.eng k with bulk := t }, rfl, .inr (.inr (hb ▸ List.mem_cons_self)), rfl, Dev.dmaPick_bulk ha hu hs hb⟩
        | nil => exact .inl (Dev.dmaPick_nothing ha hu hs hb)

/-- A channel after the choice is as it was, or has become ACTIVE. -/
theorem Dev.dmaPick_dch (d : Dev) (k n : Nat) : (d.dmaPick k).dch k n = d.dch k n ∨
    (d.dmaPick k).dch k n = { d.dch k n with state := .active, stalled := false } := by
  rcases d.dmaPick_cases k with h | ⟨m, e, -, -, hchans, h⟩
  · exact .inl (by rw [h])
  · rw [h, Dev.dch_setEng]
    have hdch : Tab.get ({} : DmaChan) e.chans n = d.dch k n := by rw [hchans]; rfl
    by_cases hm : n = m
    · subst hm
      exact .inr (by rw [DmaEng.chosen_self, hdch])
    · exact .inl (by rw [DmaEng.chosen_other e hm, hdch])

/-- A channel that does not wait is not chosen. -/
theorem Dev.dmaPick_notWaiting {d : Dev} {k n : Nat} (hw : ¬ (d.eng k).waits n) (ha : (d.eng k).active ≠ some n) :
    (d.dmaPick k).dch k n = d.dch k n ∧ ((d.dmaPick k).eng k).active ≠ some n := by
  rcases d.dmaPick_cases k with h | ⟨m, e, -, hm, hchans, h⟩
  · rw [h]
    exact ⟨rfl, ha⟩
  · have hne : n ≠ m := fun heq => hw (heq ▸ hm)
    rw [h, Dev.dch_setEng, Dev.eng_setEng_self, DmaEng.chosen_other e hne, hchans]
    exact ⟨rfl, fun hact => hne (Option.some.inj hact).symm⟩

theorem DmaEng.release_waits (e : DmaEng) (n : Nat) : ¬ (e.release n).waits n := by
  rintro (h | h | h)
  · simp [DmaEng.release] at h
  · simp only [DmaEng.release] at h
    split at h
    · simp at h
    · contradiction
  · simp [DmaEng.release] at h

theorem DmaEng.release_active (e : DmaEng) (n : Nat) : (e.release n).active ≠ some n := by
  simp only [DmaEng.release]
  split
  · simp
  · assumption

/-! ### START, RESUME and ABORT (R385, R392, R402) -/

/-- A channel that is queued is QUEUED, or ACTIVE where the engine takes it at once; it keeps its place in the chain. -/
theorem Dev.dmaQueue_dch {d : Dev} {k n : Nat} {c : DmaChan} (h : d.dch k n = c) (hst : c.state = .queued) :
    ∃ st b, (st = .queued ∨ st = .active) ∧ (d.dmaQueue k n).dch k n = { c with state := st, stalled := b } := by
  unfold Dev.dmaQueue
  dsimp only
  generalize hx : (if d.chUrgent k n then { d.eng k with urgent := (d.eng k).urgent ++ [n] }
    else { d.eng k with bulk := (d.eng k).bulk ++ [n] } : DmaEng) = x
  have hdch : (d.setEng k x).dch k n = c := by
    rw [Dev.dch_setEng, ← h, ← hx, apply_ite DmaEng.chans, ite_self]
    rfl
  rcases (d.setEng k x).dmaPick_dch k n with hp | hp
  · exact ⟨.queued, c.stalled, .inl rfl, by rw [hp, hdch, ← hst]⟩
  · exact ⟨.active, false, .inr rfl, by rw [hp, hdch]⟩

/-- Where the engine has nothing else, a channel that is queued becomes ACTIVE. -/
theorem Dev.dmaQueue_alone {d : Dev} {k n : Nat} (ha : (d.eng k).active = none) (hu : (d.eng k).urgent = [])
    (hs : (d.eng k).susp = none) (hb : (d.eng k).bulk = []) :
    ((d.dmaQueue k n).dch k n).state = .active ∧ ((d.dmaQueue k n).eng k).active = some n := by
  have hpick : ∃ (x y : DmaEng), d.dmaQueue k n = (d.setEng k x).setEng k (y.chosen n) := by
    unfold Dev.dmaQueue
    dsimp only
    split
    · refine ⟨_, _, Dev.dmaPick_urgent (t := []) ?_ ?_⟩ <;> rw [Dev.eng_setEng_self]
      · exact ha
      · exact congrArg (· ++ [n]) hu
    · refine ⟨_, _, Dev.dmaPick_bulk (t := []) ?_ ?_ ?_ ?_⟩ <;> rw [Dev.eng_setEng_self]
      · exact ha
      · exact hu
      · exact hs
      · exact congrArg (· ++ [n]) hb
  obtain ⟨x, y, hpick⟩ := hpick
  rw [hpick, Dev.dch_setEng, Dev.eng_setEng_self, DmaEng.chosen_self]
  exact ⟨rfl, rfl⟩

/-- A START that R402 accepts queues the channel from its first descriptor. -/
theorem Dev.dmaStart_taken {d : Dev} {k n : Nat} (hst : (d.dch k n).state = .idle ∨ (d.dch k n).state = .halted)
    (hlev : d.pwr.level < 6) : ∃ c : DmaChan, c.state = .queued ∧ c.idx = 0 ∧ c.off = 0 ∧ c.desc = none ∧
      c.cur = cat64 (d.reg (chAddr k n 0x10)) (d.reg (chAddr k n 0x0C)) ∧ d.dmaStart k n = (d.setDch k n c).dmaQueue k n := by
  have hok : (!((d.dch k n).state == .idle || (d.dch k n).state == .halted)) = false := by
    rcases hst with h | h <;> rw [h] <;> rfl
  unfold Dev.dmaStart
  dsimp only
  rw [Dev.guard_ok hok (by simpa using hlev)]
  exact ⟨_, rfl, rfl, rfl, rfl, rfl, rfl⟩

theorem Dev.dmaStart_busy {d : Dev} {k n : Nat} (hidle : (d.dch k n).state ≠ .idle) (hhalted : (d.dch k n).state ≠ .halted)
    (hlev : d.pwr.level < 6) : d.dmaStart k n = d.reject (pgDMA + k) (0x1104 + 0x80 * n) eBUSY := by
  unfold Dev.dmaStart
  exact Dev.guard_reject (by simp [hidle, hhalted, Nat.not_le.2 hlev, when', firstCode])

theorem Dev.dmaResume_taken {d : Dev} {k n : Nat} (hst : (d.dch k n).state = .faulted) : d.dmaResume k n =
    (d.setDch k n { d.dch k n with state := .queued, stalled := false }).dmaQueue k n := by
  unfold Dev.dmaResume
  exact Dev.guard_one (by rw [hst]; rfl)

theorem Dev.dmaResume_refused {d : Dev} {k n : Nat} (hst : (d.dch k n).state ≠ .faulted) :
    d.dmaResume k n = d.reject (pgDMA + k) (0x1104 + 0x80 * n) eSTATE := by
  unfold Dev.dmaResume
  exact Dev.guard_reject (by simp [hst, when', firstCode])

theorem Dev.dmaAbort_taken {d : Dev} {k n : Nat} (hst : (d.dch k n).inUse = true ∨ (d.dch k n).state = .faulted) :
    d.dmaAbort k n = d.dmaHalt k n 0x24 (d.dch k n).off := by
  unfold Dev.dmaAbort
  exact Dev.guard_one (by rcases hst with h | h <;> simp [h])

theorem Dev.dmaAbort_refused {d : Dev} {k n : Nat} (hst : (d.dch k n).state = .idle ∨ (d.dch k n).state = .halted) :
    d.dmaAbort k n = d.reject (pgDMA + k) (0x1104 + 0x80 * n) eSTATE := by
  unfold Dev.dmaAbort
  exact Dev.guard_reject (by rcases hst with h | h <;> simp [DmaChan.inUse, h, when', firstCode])

/-! ### The end of a chain (R390 to R394) -/

/-- Of engine `k` only channel `n`'s place in its completion ring has changed, and possibly other channels. -/
def Dev.recordedOnly (d e : Dev) (k n : Nat) : Prop := ∃ w u chans,
  e.eng k = { d.eng k with chans := chans } ∧ e.dch k n = { d.dch k n with cmpwr := w, unread := u }

theorem Dev.recordedOnly_of_dma {d e : Dev} {k n : Nat} (h : e.dma = d.dma) : d.recordedOnly e k n :=
  ⟨_, _, _, Dev.eng_of h k, Dev.dch_of h k n⟩

theorem Dev.recordedOnly_setDch {d e : Dev} {k n : Nat} (h : e.dma = d.dma) (w u : Nat) :
    d.recordedOnly (e.setDch k n { e.dch k n with cmpwr := w, unread := u }) k n :=
  ⟨w, u, _, by rw [Dev.eng_setDch, Dev.eng_of h], by rw [Dev.dch_setDch, Dev.dch_of h]⟩

theorem Dev.cmpRecord_recordedOnly (d : Dev) (k n idx : Nat) (code : Code) (rb df : Bool) (user : BitVec 64) (off : Nat) :
    d.recordedOnly (d.cmpRecord k n idx code rb df user off) k n := by
  unfold Dev.cmpRecord
  extract_lets c size base src rec_ d1 bit
  have hwrite {r : VRes} {e : Dev} (h : d.vwrite k n [] 3 (base + BitVec.ofNat 64 (32 * c.cmpwr)) rec_ 0 = (r, e)) :
      e.dma = d.dma := Frame.dma_eq (Frame.of_snd h Dev.vwrite_frame) (by decide)
  have h1 : d.recordedOnly d1 k n := by
    simp -zeta only [d1]
    split
    case h_1 e hv =>
      extract_lets c2 full e2
      refine Dev.recordedOnly_setDch ?_ _ _
      have he : e.dma = d.dma := hwrite hv
      simp only [e2]
      split <;> exact he
    case h_2 e hv => exact Dev.recordedOnly_of_dma (show e.dma = d.dma from hwrite hv)
    case h_3 e hv => exact Dev.recordedOnly_of_dma (show e.dma = d.dma from hwrite hv)
  have hraise : (d1.raise (pgDMA + k) (at_ bit 1)).dma = d1.dma := Frame.dma_eq Dev.raise_frame (by decide)
  unfold Dev.recordedOnly
  rw [Dev.eng_of hraise, Dev.dch_of hraise]
  exact h1

/-- An engine lets a channel go and chooses its next chain. -/
def Dev.letGo (d : Dev) (k n : Nat) : Dev := (d.setEng k ((d.eng k).release n)).dmaPick k

/-- The channel let go stays as it is. -/
theorem Dev.letGo_facts (d : Dev) (k n : Nat) :
    (d.letGo k n).dch k n = d.dch k n ∧ ((d.letGo k n).eng k).active ≠ some n := by
  have hself : (d.setEng k ((d.eng k).release n)).eng k = (d.eng k).release n := d.eng_setEng_self ..
  obtain ⟨hdch, hact⟩ := Dev.dmaPick_notWaiting (by rw [hself]; exact (d.eng k).release_waits n)
    (by rw [hself]; exact (d.eng k).release_active n)
  exact ⟨hdch.trans (d.dch_setEng ..), hact⟩

/-- Where no other chain waits, the engine then has none. -/
theorem Dev.letGo_alone {d : Dev} {k n : Nat} (ha : (d.eng k).active = some n) (hu : (d.eng k).urgent = [])
    (hs : (d.eng k).susp = none) (hb : (d.eng k).bulk = []) : ((d.letGo k n).eng k).active = none := by
  have hnone : ((d.eng k).release n).active = none := if_pos ha
  unfold Dev.letGo
  rw [Dev.dmaPick_nothing, Dev.eng_setEng_self, hnone] <;> rw [Dev.eng_setEng_self]
  · exact hnone
  · simp [DmaEng.release, hu]
  · simp [DmaEng.release, hs]
  · simp [DmaEng.release, hb]

/-- A chain that ends with a code other than OK is HALTED with it, and its engine goes on without it. -/
theorem Dev.dmaHalt_facts (d : Dev) (k n : Nat) (code : Code) (off : Nat) :
    ((d.dmaHalt k n code off).dch k n).state = .halted ∧ ((d.dmaHalt k n code off).dch k n).code = code ∧
      ((d.dmaHalt k n code off).eng k).active ≠ some n := by
  have hhalt : ∃ (e : Dev) (c : DmaChan), c.state = .halted ∧ c.code = code ∧ d.dmaHalt k n code off = (e.setDch k n c).letGo k n :=
    ⟨_, _, rfl, rfl, rfl⟩
  obtain ⟨e, c, hst, hcode, hhalt⟩ := hhalt
  obtain ⟨hdch, hact⟩ := (e.setDch k n c).letGo_facts k n
  rw [hhalt, hdch, Dev.dch_setDch]
  exact ⟨hst, hcode, hact⟩

/-- The chain goes on with the next descriptor. -/
def Dev.nextDesc (d : Dev) (k n : Nat) (x : Desc) : Dev :=
  d.setDch k n { d.dch k n with idx := (d.dch k n).idx + 1, off := 0, cur := x.next, desc := none, mis := none, pois := none }

/-- The chain has executed its last descriptor. -/
def Dev.chainOver (d : Dev) (k n : Nat) : Dev := (d.setDch k n { d.dch k n with state := .idle, desc := none }).letGo k n

/-- The end of a descriptor without poison or mismatch is recorded where the descriptor asks for a record (R390). -/
def Dev.descRecorded (d : Dev) (k n : Nat) (x : Desc) : Dev :=
  let c := d.dch k n
  let d := (d.bump (pgDMA + k) 0x110).setDch k n { c with reading := false, code := 0, missSeen := c.missSeen || c.mis.isSome }
  if x.complete then d.cmpRecord k n c.idx 0 false false x.user (c.mis.getD 0) else d

theorem Dev.descRecorded_facts (d : Dev) (k n : Nat) (x : Desc) : ∃ w u s chans,
    (d.descRecorded k n x).dch k n = { d.dch k n with reading := false, code := 0, cmpwr := w, unread := u, missSeen := s } ∧
      (d.descRecorded k n x).eng k = { d.eng k with chans := chans } := by
  unfold Dev.descRecorded
  extract_lets c d1
  have hdch : d1.dch k n = { c with reading := false, code := 0, missSeen := c.missSeen || c.mis.isSome } := Dev.dch_setDch ..
  have heng : ∃ chans, d1.eng k = { d.eng k with chans := chans } := ⟨_, Dev.eng_setDch ..⟩
  clear_value d1
  obtain ⟨chans1, heng⟩ := heng
  have hrec : d1.recordedOnly (if x.complete then d1.cmpRecord k n c.idx 0 false false x.user (c.mis.getD 0) else d1) k n := by
    split
    · exact Dev.cmpRecord_recordedOnly ..
    · exact Dev.recordedOnly_of_dma rfl
  obtain ⟨w, u, chans, heng', hdch'⟩ := hrec
  exact ⟨w, u, _, chans, by rw [hdch', hdch], by rw [heng', heng]⟩

/-- A descriptor that ended without poison or mismatch is followed by the next one, or by the end of the chain. -/
theorem Dev.descOver_clean {d : Dev} {k n : Nat} {x : Desc} (hp : (d.dch k n).pois = none) (hm : (d.dch k n).mis = none) :
    d.descOver k n x = if x.last then (d.descRecorded k n x).chainOver k n else (d.descRecorded k n x).nextDesc k n x := by
  unfold Dev.descOver
  extract_lets c d0 code d1 d2 c2 d3
  split
  case h_1 o h => exact absurd (hp.symm.trans h) nofun
  case h_2 h =>
    have hcode : code = 0 := if_neg (by rw [show c.mis = none from hm]; decide)
    clear_value code
    subst hcode
    have hrec : d2 = d.descRecorded k n x := by
      unfold Dev.descRecorded
      simp only [d2, ne_eq, not_true_eq_false, decide_false, Bool.or_false]
      rfl
    rw [if_neg (fun hstop => hstop.1 rfl), ← hrec]
    rfl

/-! ### Virtual accesses within one page (R388, R396) -/

/-- A translation that the engine holds is used. -/
theorem Dev.translate_maps {d : Dev} {k n a : Nat} {va : BitVec 64} {write host : Bool} (h : d.maps k n va write a host) :
    d.translate k n (d.chCtx k n) va write = (.ok a host, d) := by
  obtain ⟨hen, hva, t, hfind, hperm, rfl, rfl⟩ := h
  unfold Dev.translate
  extract_lets v flt
  rw [if_neg (by simp [hen]), if_neg (Nat.not_le.2 hva), hfind]
  dsimp only
  rw [hperm]

/-- Bytes that a physical read finds: in flits of host memory that are not poisoned, or in device memory without code errors. -/
def Dev.physHolds (d : Dev) (host : Tab Byte) (pois : List Nat) (a : Nat) (l : List Byte) (h : Bool) : Prop :=
  (∀ i < l.length, l[i]? = some (if h then Tab.get 0 host (a + i) else d.byte (a + i))) ∧
    (h = true → ∀ i < l.length, (a + i) / 64 * 64 ∉ pois) ∧
    (h = false → whereIs a = .mem ∧ a + l.length ≤ memBytes ∧ d.memServes = true ∧ d.badIn a l.length = [])

theorem map_range_eq {l : List Byte} {f : Nat → Byte} (h : ∀ i < l.length, l[i]? = some (f i)) :
    (List.range l.length).map f = l := by
  refine List.ext_getElem (by simp) fun i _ hi => ?_
  have hl := h i hi
  rw [List.getElem?_eq_getElem hi] at hl
  simpa using (Option.some.inj hl).symm

theorem Dev.physRead_holds {d : Dev} {host : Tab Byte} {pois : List Nat} {a : Nat} {l : List Byte} {h : Bool}
    (hl : d.physHolds host pois a l h) :
    ∃ v, d.physRead host pois a l.length h = (some (l, []), 0, { d with live := v }) := by
  obtain ⟨hbytes, hhost, hmem⟩ := hl
  unfold Dev.physRead
  cases h with
  | true =>
    refine ⟨d.live, ?_⟩
    have hl : ((List.range l.length).map fun i => Tab.get 0 host (a + i)) = l := map_range_eq hbytes
    rw [if_pos rfl, hl, List.filter_eq_nil_iff.2 fun i hi => ?_]
    simpa using hhost rfl i (List.mem_range.1 hi)
  | false =>
    obtain ⟨hw, ha, hm, hb⟩ := hmem rfl
    obtain ⟨v, hv⟩ := Dev.memRead_clean hb
    refine ⟨v, ?_⟩
    have hl : d.bytes a l.length = l := map_range_eq hbytes
    rw [if_neg Bool.false_ne_true, hw]
    dsimp only
    rw [if_neg (Nat.not_lt.2 ha), if_neg (by rw [hm]; decide), hv, hb, hl]
    simp

theorem Dev.vread_nil (d : Dev) (k n : Nat) (host : Tab Byte) (pois : List Nat) (fuel : Nat) (va : BitVec 64) (acc : List Byte)
    (ps : List Nat) : d.vread k n host pois fuel va 0 acc ps = (.data acc ps, d) := by
  cases fuel <;> rfl

/-- A read within one page returns its bytes, and changes live counters only. -/
theorem Dev.vread_reads {d : Dev} {k n : Nat} {host : Tab Byte} {pois : List Nat} {va : BitVec 64} {l : List Byte}
    (h : d.engReads k n host pois va l) (hl : l ≠ []) (fuel : Nat) :
    ∃ v, d.vread k n host pois (fuel + 1) va l.length [] [] = (.data l [], { d with live := v }) := by
  obtain ⟨hpage, a, host', hmaps, hholds⟩ := h
  have hm : min l.length (pageRoom va.toNat) = l.length := by unfold pageRoom; omega
  have hacc : ∃ v, (if host' then d else d.fabAccept a l.length) = { d with live := v } := by
    cases host' with
    | true => exact ⟨d.live, rfl⟩
    | false => exact ⟨_, rfl⟩
  obtain ⟨v, hacc⟩ := hacc
  obtain ⟨w, hw⟩ := Dev.physRead_holds (d := { d with live := v }) (h := host') hholds
  unfold Dev.vread
  rw [if_neg (by simpa using hl)]
  dsimp only
  rw [Dev.translate_maps hmaps, hm]
  dsimp only
  rw [hacc, hw]
  dsimp only
  rw [Nat.sub_self, Dev.vread_nil]
  exact ⟨_, rfl⟩

/-- The bytes `l` are written at `a`: they have left for host memory, or are in device memory and no other byte has changed. -/
def Dev.wrote (d e : Dev) (a : Nat) (l : List Byte) (h : Bool) : Prop :=
  if h then .hostWr a l ∈ e.sys.out ∧ e.mem = d.mem else d.stored e a l

theorem Dev.wrote_next {d e e' : Dev} {a : Nat} {l : List Byte} {h : Bool} (hw : d.wrote e a l h) (hm : e'.mem = e.mem)
    (ho : e.sys.out ⊆ e'.sys.out) : d.wrote e' a l h := by
  cases h with
  | true => exact ⟨ho hw.1, hm.trans hw.2⟩
  | false => exact Dev.stored_mem hw hm

theorem Dev.physWrite_wrote {d : Dev} {k a : Nat} {l : List Byte} {h : Bool} (hmem : h = false →
      whereIs a = .mem ∧ a + l.length ≤ memBytes ∧ d.memServes = true ∧ d.badIn a l.length = [] ∧
        d.refusedAt (1 + k) a l.length = none) :
    ∃ e, d.physWrite k a l h = (0, e) ∧ e.dma = d.dma ∧ d.wrote e a l h := by
  unfold Dev.physWrite
  cases h with
  | true => exact ⟨d.emit (.hostWr a l), rfl, rfl, List.mem_cons_self, rfl⟩
  | false =>
    obtain ⟨hw, ha, hm, hb, hr⟩ := hmem rfl
    have hframe := Dev.memWrite_frame_clean hb
    refine ⟨d.memWrite a l, ?_, ?_, Dev.stored_of_mem (hframe.mem_eq (by decide))⟩
    · rw [if_neg Bool.false_ne_true, hw]
      dsimp only
      rw [if_neg (Nat.not_lt.2 ha), hr]
      dsimp only
      rw [if_neg (by rw [hm]; decide)]
    · exact hframe.dma_eq (by decide)

theorem Dev.vwrite_nil (d : Dev) (k n : Nat) (skip : List Nat) (fuel : Nat) (va : BitVec 64) (done : Nat) :
    d.vwrite k n skip fuel va [] done = (.data [] [], d) := by
  cases fuel <;> rfl

/-- A write within one page stores its bytes and leaves the engines as they were. -/
theorem Dev.vwrite_writes {d : Dev} {k n a : Nat} {va : BitVec 64} {l : List Byte} {h : Bool}
    (hw : d.engWrites k n va l.length a h) (hl : l ≠ []) (fuel : Nat) :
    ∃ e, d.vwrite k n [] (fuel + 1) va l 0 = (.data [] [], e) ∧ e.dma = d.dma ∧ d.wrote e a l h := by
  obtain ⟨hpage, hmaps, hmem⟩ := hw
  have hm : min l.length (pageRoom va.toNat) = l.length := by unfold pageRoom; omega
  have hacc : ∃ v, (if h then d else d.fabAccept a l.length) = { d with live := v } := by
    cases h with
    | true => exact ⟨d.live, rfl⟩
    | false => exact ⟨_, rfl⟩
  obtain ⟨v, hacc⟩ := hacc
  obtain ⟨e, he, hdma, hwrote⟩ := Dev.physWrite_wrote (d := { d with live := v }) (k := k) hmem
  refine ⟨e.bump (pgDMA + k) 0x108 l.length, ?_, hdma, Dev.wrote_next hwrote rfl (List.Subset.refl _)⟩
  unfold Dev.vwrite
  rw [if_neg (by simpa using hl)]
  dsimp only
  rw [Dev.translate_maps hmaps, hm]
  dsimp only
  rw [hacc]
  simp only [List.any_nil, Bool.false_eq_true, if_false, List.foldl_cons, List.foldl_nil, if_true, List.take_length, Nat.add_zero]
  rw [he, if_neg (by simp), if_neg (by simp), List.drop_length, Dev.vwrite_nil]

/-! ### The execution of a descriptor's bytes (R387, R388) -/

/-- `len` bytes of the descriptor are done from offset `off`, and its bytes are not all done. -/
def Dev.advanced (d : Dev) (k n off len : Nat) (mis : Option Nat) : Dev :=
  let c := d.dch k n
  d.setDch k n { c with off := off + len, mis := c.mis.or (mis.map (off + ·)), pois := c.pois.or none }

/-- The bytes go on from the saved offset, and the channel keeps its state. -/
theorem Dev.advanced_facts {d e : Dev} (h : e.dma = d.dma) (k n off len : Nat) (mis : Option Nat) :
    ((e.advanced k n off len mis).dch k n).off = off + len ∧
      ((e.advanced k n off len mis).dch k n).state = (d.dch k n).state ∧
        ((e.advanced k n off len mis).dch k n).mis = (d.dch k n).mis.or (mis.map (off + ·)) := by
  unfold Dev.advanced
  rw [Dev.dch_setDch, Dev.dch_of h]
  exact ⟨rfl, rfl, rfl⟩

theorem length_fillBytes (x : Desc) (off len : Nat) : (fillBytes x off len).length = len := by simp [fillBytes]

theorem fillBytes_getElem? (x : Desc) (off : Nat) {len i : Nat} (hi : i < len) :
    (fillBytes x off len)[i]? = some (BitVec.ofNat 8 (x.pattern.toNat / 2 ^ (8 * ((x.dst.toNat + off + i) % 8)))) := by
  simp only [fillBytes, List.getElem?_map, List.getElem?_range hi, Option.map_some, Option.some.injEq]
  exact BitVec.eq_of_toNat_eq (by simp [BitVec.toNat_setWidth, BitVec.toNat_ushiftRight, Nat.shiftRight_eq_div_pow])

section
variable {d : Dev} {k n len : Nat} {x : Desc} {host : Tab Byte} {pois : List Nat}
  (hlen : (d.dch k n).off + len < x.len) (hpos : 0 < len)
include hlen hpos

/-- FILL writes the pattern's bytes. -/
theorem Dev.descRun_fill {a : Nat} {h : Bool} (hop : x.op = 1)
    (hw : d.engWrites k n (x.dst + BitVec.ofNat 64 (d.dch k n).off) len a h) :
    ∃ e : Dev, d.descRun k n x host pois len = e.advanced k n (d.dch k n).off len none ∧ e.dma = d.dma ∧
      d.wrote e a (fillBytes x (d.dch k n).off len) h := by
  have hl : (fillBytes x (d.dch k n).off len).length = len := length_fillBytes ..
  obtain ⟨e, he, hdma, hwrote⟩ := Dev.vwrite_writes (l := fillBytes x (d.dch k n).off len) (by rw [hl]; exact hw)
    (List.ne_nil_of_length_pos (by rw [hl]; exact hpos)) (len / 4096 + 1)
  refine ⟨e, ?_, hdma, hwrote⟩
  unfold Dev.descRun
  extract_lets c off m at' stop end_ put
  have hm : m = len := Nat.min_eq_left (Nat.le_sub_of_add_le' hlen.le)
  rw [if_pos hop]
  simp only [put, end_, hm, at', vpages]
  rw [he]
  exact if_pos hlen

/-- COPY writes the bytes that it reads. -/
theorem Dev.descRun_copy {a : Nat} {h : Bool} {l : List Byte} (hop : x.op = 0) (hl : l.length = len)
    (hr : d.engReads k n host pois (x.src + BitVec.ofNat 64 (d.dch k n).off) l)
    (hw : d.engWrites k n (x.dst + BitVec.ofNat 64 (d.dch k n).off) len a h) :
    ∃ e : Dev, d.descRun k n x host pois len = e.advanced k n (d.dch k n).off len none ∧ e.dma = d.dma ∧ d.wrote e a l h := by
  subst hl
  have hne : l ≠ [] := List.ne_nil_of_length_pos hpos
  obtain ⟨v, hv⟩ := Dev.vread_reads hr hne (l.length / 4096 + 1)
  obtain ⟨e, he, hdma, hwrote⟩ := Dev.vwrite_writes (d := { d with live := v }) hw hne (l.length / 4096 + 1)
  refine ⟨e, ?_, hdma, hwrote⟩
  unfold Dev.descRun
  extract_lets c off m at' stop end_ put
  have hm : m = l.length := Nat.min_eq_left (Nat.le_sub_of_add_le' hlen.le)
  rw [if_neg (by omega)]
  simp only [hm, at', vpages]
  rw [hv]
  dsimp only
  rw [if_pos hop]
  simp only [put, end_, hm, at', vpages, List.isEmpty_nil, if_true]
  rw [he]
  exact if_pos hlen

/-- The first offset at which two blocks of bytes differ. -/
def firstDiff (l m : List Byte) : Option Nat := (List.range l.length).find? fun i => l[i]? != m[i]?

/-- COMPARE keeps the first offset that differs. -/
theorem Dev.descRun_compare {l m : List Byte} (hop : x.op = 2) (hl : l.length = len) (hm : m.length = len)
    (hr : d.engReads k n host pois (x.src + BitVec.ofNat 64 (d.dch k n).off) l)
    (hr' : d.engReads k n host pois (x.dst + BitVec.ofNat 64 (d.dch k n).off) m) :
    ∃ v, d.descRun k n x host pois len = ({ d with live := v } : Dev).advanced k n (d.dch k n).off len (firstDiff l m) := by
  subst hl
  obtain ⟨v, hv⟩ := Dev.vread_reads hr (List.ne_nil_of_length_pos hpos) (l.length / 4096 + 1)
  obtain ⟨w, hw⟩ := Dev.vread_reads (d := { d with live := v }) hr' (List.ne_nil_of_length_pos (hm ▸ hpos)) (l.length / 4096 + 1)
  rw [hm] at hw
  refine ⟨w, ?_⟩
  unfold Dev.descRun
  extract_lets c off m' at' stop end_ put
  have hm' : m' = l.length := Nat.min_eq_left (Nat.le_sub_of_add_le' hlen.le)
  rw [if_neg (by omega)]
  simp only [hm', at', vpages]
  rw [hv]
  dsimp only
  rw [if_neg (by omega)]
  simp only [List.isEmpty_nil, if_true]
  rw [hw]
  simp only [end_, hm', List.isEmpty_nil, if_true]
  exact if_pos hlen

end

theorem firstDiff_self (l : List Byte) : firstDiff l l = none := by simp [firstDiff]

theorem firstDiff_of_take_eq {l m : List Byte} {i : Nat} (hi : i < l.length) (ht : l.take i = m.take i) (hne : l[i]? ≠ m[i]?) :
    firstDiff l m = some i := by
  refine List.find?_range_eq_some.2 ⟨by simpa using hne, List.mem_range.2 hi, fun j hj => ?_⟩
  have hj' := congrArg (·[j]?) ht
  simpa [List.getElem?_take, hj] using hj'

/-- The ACTIVE chain's descriptor, held and of the command's kind, is executed. -/
theorem Dev.descStep_executes {d : Dev} {k n len : Nat} {x : Desc} (h : d.executes k n x len) (host : Tab Byte) (pois : List Nat) :
    d.descStep k x.op len host pois = d.descRun k n x host pois len := by
  obtain ⟨-, hact, hdesc, hurgent, hpos, -⟩ := h
  have hfetch : d.dmaFetch k n host pois = (some x, d) := by
    unfold Dev.dmaFetch
    dsimp only
    rw [hdesc]
  unfold Dev.descStep
  rw [hact]
  dsimp only
  rw [hfetch]
  dsimp only
  rw [if_neg (by simp), if_neg (c := (!d.chUrgent k n && !(d.eng k).urgent.isEmpty) = true), if_neg (by omega)]
  rcases hurgent with hu | hu <;> simp [hu]

/-! ### The end of a read-back (R389) -/

/-- The read-back of channel `n` has completed. -/
def Dev.backRead (d : Dev) (k n : Nat) : Dev := d.setDch k n { d.dch k n with readback := false }

theorem Dev.readbackDone_read {d : Dev} {k n : Nat} {x : Desc} {l : List Byte} (hact : (d.eng k).active = some n)
    (hdesc : (d.dch k n).desc = some x) (hreading : (d.dch k n).reading = true) (hstalled : (d.dch k n).stalled = false)
    (hdrain : d.fabDrains (1 + k) = false) (hl : l.length = 4)
    (hr : d.engReads k n [] [] ((x.dst + BitVec.ofNat 64 (x.len - 1)) &&& ~~~3) l) :
    ∃ v, d.readbackDone k = (({ d with live := v } : Dev).backRead k n).descOver k n x := by
  obtain ⟨v, hv⟩ := Dev.vread_reads hr (List.ne_nil_of_length_pos (by omega)) 1
  rw [hl] at hv
  refine ⟨v, ?_⟩
  unfold Dev.readbackDone
  rw [hact]
  dsimp only
  rw [hdesc]
  dsimp only
  rw [if_neg (by simp [hreading, hstalled, hdrain]), hv]
  rfl

/-- After a descriptor that is not the last the chain goes on with the next one. -/
theorem Dev.descOver_next {d : Dev} {k n : Nat} {x : Desc} (hp : (d.dch k n).pois = none) (hm : (d.dch k n).mis = none)
    (hlast : x.last = false) : ∃ c, (d.descOver k n x).dch k n = c ∧ c.idx = (d.dch k n).idx + 1 ∧ c.cur = x.next ∧ c.off = 0 ∧
      c.desc = none ∧ c.reading = false := by
  obtain ⟨w, u, s, chans, hdch, -⟩ := d.descRecorded_facts k n x
  rw [Dev.descOver_clean hp hm, if_neg (by simp [hlast]), Dev.nextDesc, Dev.dch_setDch, hdch]
  exact ⟨_, rfl, rfl, rfl, rfl, rfl, rfl⟩

/-- After the last descriptor the chain is IDLE, and an engine in which no other chain waits has none. -/
theorem Dev.descOver_last {d : Dev} {k n : Nat} {x : Desc} (hp : (d.dch k n).pois = none) (hm : (d.dch k n).mis = none)
    (hlast : x.last = true) (ha : (d.eng k).active = some n) (hu : (d.eng k).urgent = []) (hs : (d.eng k).susp = none)
    (hb : (d.eng k).bulk = []) : ((d.descOver k n x).dch k n).state = .idle ∧ ((d.descOver k n x).dch k n).code = 0 ∧
      ((d.descOver k n x).eng k).active = none := by
  obtain ⟨w, u, s, chans, hdch, heng⟩ := d.descRecorded_facts k n x
  rw [Dev.descOver_clean hp hm, if_pos hlast, Dev.chainOver, (Dev.letGo_facts ..).1, Dev.dch_setDch, hdch]
  refine ⟨rfl, rfl, Dev.letGo_alone ?_ ?_ ?_ ?_⟩ <;> rw [Dev.eng_setDch, heng] <;> assumption

/-! ### Pre-emption and missing responses (R386, R393) -/

/-- Channel `n` is SUSPENDED, and its engine has no ACTIVE chain. -/
def Dev.suspend (d : Dev) (k n : Nat) : Dev :=
  let d := d.setDch k n { d.dch k n with state := .suspended }
  d.setEng k { d.eng k with active := none, susp := some n }

theorem Dev.suspend_eng (d : Dev) (k n : Nat) : (d.suspend k n).eng k =
    { d.eng k with active := none, susp := some n
                   chans := Tab.set {} (d.eng k).chans n { d.dch k n with state := .suspended } } := by
  unfold Dev.suspend
  rw [Dev.eng_setEng_self, Dev.eng_setDch]

theorem Dev.dmaActive_notStalled {d : Dev} {k n : Nat} (h : d.dmaActive k = some n) : (d.dch k n).stalled = false := by
  unfold Dev.dmaActive at h
  split at h
  case h_1 m hm =>
    extract_lets c at h
    split at h
    case isTrue => exact absurd h nofun
    case isFalse hfree =>
      cases h
      simp only [Bool.or_eq_true, not_or, Bool.not_eq_true] at hfree
      exact hfree.1.1.1
  case h_2 => exact absurd h nofun

/-- A BULK chain at a 4 KiB boundary is SUSPENDED where an URGENT chain waits, and the engine chooses again. -/
theorem Dev.chainPreempt_boundary {d : Dev} {k n : Nat} {host : Tab Byte} {pois : List Nat} (hact : d.dmaActive k = some n)
    (hst : (d.dch k n).state = .active) (hbulk : d.chUrgent k n = false) (hu : (d.eng k).urgent ≠ [])
    (hb : ∀ x, (d.dch k n).desc = some x → toBoundary x (d.dch k n).off = 0) :
    d.chainPreempt k host pois = ((d.suspend k n).bump (pgDMA + k) 0x118).dmaPick k := by
  unfold Dev.chainPreempt
  rw [hact]
  dsimp -zeta only
  rw [if_neg (by simp [hbulk, hu])]
  extract_lets d0 c d1 d2
  have h0 : d0 = d := by
    simp only [d0]
    split
    case h_1 x hx => exact if_pos (hb x hx)
    case h_2 => rfl
  clear_value d0
  subst h0
  rw [if_neg (by simp [c, hst, Dev.dmaActive_notStalled hact])]
  rfl

/-- A code in LASTERR (R377). -/
theorem Dev.fabErr_fab (d : Dev) (m t code : Nat) :
    (d.fabErr m t code).fab = { d.fab with lasterr := at_ 0 m ||| at_ 4 t ||| at_ 6 code } := by
  unfold Dev.fabErr
  rw [Frame.fab_eq Dev.raise_frame (by decide)]
  dsimp only
  split_ifs <;> rfl

theorem Dev.fabRetired_keeps (d : Dev) (m : Nat) :
    (d.fabRetired m).fab.waiting = d.fab.waiting ∧ (d.fabRetired m).fab.lasterr = d.fab.lasterr := by
  unfold Dev.fabRetired
  dsimp only
  split_ifs <;> exact ⟨rfl, rfl⟩

/-- A late request of master `m` is given up. -/
def Dev.gaveUp (d : Dev) (m : Nat) (q : FabReq) : Dev :=
  (({ d with fab.waiting := d.fab.waiting.erase q } : Dev).fabErr m q.target 3).fabRetired m

theorem Dev.gaveUp_fab (d : Dev) (m : Nat) (q : FabReq) : (d.gaveUp m q).fab.waiting = d.fab.waiting.erase q ∧
    (d.gaveUp m q).fab.lasterr = at_ 0 m ||| at_ 4 q.target ||| at_ 6 3 := by
  obtain ⟨hwaiting, hlasterr⟩ := (({ d with fab.waiting := d.fab.waiting.erase q } : Dev).fabErr m q.target 3).fabRetired_keeps m
  rw [Dev.fabErr_fab] at hwaiting hlasterr
  exact ⟨hwaiting, hlasterr⟩

/-- A late request is given up, and LASTERR tells of it. -/
theorem Dev.fabTimeout_late {d : Dev} {m : Nat} {q : FabReq}
    (h : (d.fab.waiting.find? fun q => q.master == m && d.fabLate q.at_) = some q) :
    ∃ e : Dev, d.fabTimeout m = (some q, e) ∧ e.dma = d.dma ∧ e.fab.waiting = d.fab.waiting.erase q ∧
      e.fab.lasterr = at_ 0 m ||| at_ 4 q.target ||| at_ 6 3 := by
  have htimeout : d.fabTimeout m = (some q, if m ≠ 0 then d.gaveUp m q else
      if q.write then (d.gaveUp m q).writeLost else (d.gaveUp m q).readFails false) := by
    unfold Dev.fabTimeout
    rw [h]
    rfl
  refine ⟨_, htimeout, (Frame.of_snd htimeout Dev.fabTimeout_frame).dma_eq (by decide), ?_⟩
  have hfab : (if m ≠ 0 then d.gaveUp m q else
      if q.write then (d.gaveUp m q).writeLost else (d.gaveUp m q).readFails false).fab = (d.gaveUp m q).fab := by
    split_ifs
    · rfl
    · exact Dev.writeLost_frame.fab_eq (by decide)
    · exact Dev.readFails_frame.fab_eq (by decide)
  rw [hfab]
  exact d.gaveUp_fab m q

theorem Dev.fabricTimeout_other {d e : Dev} {m : Nat} {q : FabReq} (h : d.fabTimeout m = (some q, e)) (hm : m = 0 ∨ 4 < m) :
    d.fabricTimeout m = e := by
  unfold Dev.fabricTimeout
  rw [h]
  exact if_neg (by simp; omega)

theorem Dev.fabricTimeout_engine {d e : Dev} {m n : Nat} {q : FabReq} (h : d.fabTimeout m = (some q, e)) (h1 : 1 ≤ m) (h4 : m ≤ 4)
    (hn : ((List.range 4).find? fun n => (e.dch (m - 1) n).stalled) = some n) : d.fabricTimeout m =
      (e.bump (pgDMA + (m - 1)) 0x128).dmaHalt (m - 1) n 0x21 (e.dch (m - 1) n).off := by
  have hnoResp : e.dmaNoResp (m - 1) = (e.bump (pgDMA + (m - 1)) 0x128).dmaHalt (m - 1) n 0x21 (e.dch (m - 1) n).off := by
    unfold Dev.dmaNoResp
    rw [hn]
  unfold Dev.fabricTimeout
  rw [h, ← hnoResp]
  exact if_pos (by simp [h1, h4])

theorem Dev.pcieTimeout_inUse {d : Dev} {k n : Nat} (h : (d.dch k n).state = .active ∨ (d.dch k n).state = .suspended) :
    d.pcieTimeout k n = ((d.bump pgHIF 0x120).bump (pgDMA + k) 0x128).dmaHalt k n 0x21 (d.dch k n).off := by
  unfold Dev.pcieTimeout
  exact if_pos h

/-! ### The obligation -/

theorem Dev.settle_eng (d : Dev) (k : Nat) : d.settle.eng k = d.eng k := Dev.eng_of d.settle_dma k

theorem Dev.settle_dch (d : Dev) (k n : Nat) : d.settle.dch k n = d.dch k n := Dev.dch_of d.settle_dma k n

/-- A row of a page whose unit is on has its effect `e`, and the block settles. -/
theorem Completes.of_onPage_effect {c : Instr} {s : State} {p : Nat} {e : Dev} {P : Dev → Prop} (f : Dev → Dev)
    (h : exec c s = s.settled fun d => d.onPage p f) (hu : s.dev.unitOn p = true) (he : f s.dev = e) (hp : P e.settle) :
    Completes c s P :=
  .of_onPage_settled h hu (he ▸ hp)

/-- Once `len` bytes are written and the block has settled, the channel is further on and the bytes stay written. -/
theorem Dev.advanced_settled {d e : Dev} {a len : Nat} {l : List Byte} {h : Bool} (hdma : e.dma = d.dma) (hw : d.wrote e a l h)
    (k n off : Nat) : ((e.advanced k n off len none).settle.dch k n).off = off + len ∧
      ((e.advanced k n off len none).settle.dch k n).state = (d.dch k n).state ∧ d.wrote (e.advanced k n off len none).settle a l h := by
  obtain ⟨hoff, hst, -⟩ := Dev.advanced_facts hdma k n off len none
  have hmem : (e.advanced k n off len none).settle.mem = e.mem := by
    rw [Dev.settle_mem]
    rfl
  rw [Dev.settle_dch]
  exact ⟨hoff, hst, Dev.wrote_next hw hmem (e.advanced k n off len none).settle_out⟩

/-- Settles O54: each row is its effect on one channel and its engine; an access within one page that the engine has a
translation for succeeds, writing a completion record leaves the chains, and an engine that lets a chain go does not choose it. -/
theorem dmaEnginesRunChains : Obligations.DmaEnginesRunChains := by
  refine ⟨?commands, ?bytes, ?readback, ?preempt, ?pcie, ?fabric⟩
  case commands =>
    intro s k n ht c o
    refine ⟨fun hst hlev => ?start, fun hidle hhalted hlev => ?busy, fun hst => ?resume, fun hst => ?notFaulted,
      fun hst => ?abort, fun hst => ?notInUse⟩
    case start =>
      obtain ⟨c', hqueued, hidx, hoff, hdesc, hcur, hstart⟩ := Dev.dmaStart_taken hst hlev
      obtain ⟨st, b, hst', hdch⟩ := Dev.dmaQueue_dch (Dev.dch_setDch s.dev k n c') hqueued
      refine .of_hostWr rfl ht ?_
      rw [hstart, Dev.settle_dch, Dev.settle_eng]
      refine ⟨?_, ?_, ?_, ?_, ?_, fun ha hu hs hb => ?_⟩
      · rw [hdch]; exact hst'
      · rw [hdch]; exact hidx
      · rw [hdch]; exact hoff
      · rw [hdch]; exact hdesc
      · rw [hdch]; exact hcur
      · refine Dev.dmaQueue_alone ?_ ?_ ?_ ?_ <;> rw [Dev.eng_setDch] <;> assumption
    case busy => exact .of_rejected rfl ht (Dev.dmaStart_busy hidle hhalted hlev) fun e hrej hframe => ⟨hrej, hframe.dma_eq (by decide)⟩
    case resume =>
      obtain ⟨st, b, hst', hdch⟩ := Dev.dmaQueue_dch (Dev.dch_setDch s.dev k n { c with state := .queued, stalled := false }) rfl
      refine .of_hostWr rfl ht ?_
      rw [Dev.dmaResume_taken hst, Dev.settle_dch, hdch]
      exact ⟨hst', rfl, rfl, rfl, rfl⟩
    case notFaulted => exact .of_rejected rfl ht (Dev.dmaResume_refused hst) fun e hrej hframe => ⟨hrej, hframe.dma_eq (by decide)⟩
    case abort =>
      refine .of_hostWr rfl ht ?_
      rw [Dev.dmaAbort_taken hst, Dev.settle_dch, Dev.settle_eng]
      exact Dev.dmaHalt_facts ..
    case notInUse => exact .of_rejected rfl ht (Dev.dmaAbort_refused hst) fun e hrej hframe => ⟨hrej, hframe.dma_eq (by decide)⟩
  case bytes =>
    intro s k n len x host pois a h hexec _ hlen c va
    have hstep := Dev.descStep_executes hexec host pois
    obtain ⟨hu, -, -, -, hpos, -⟩ := hexec
    refine ⟨fun l hop hl hr hw => ?copy, fun hop hw => ?fill, fun l m hop hl hm hr hr' => ?compare⟩
    case copy =>
      obtain ⟨e, hrun, hdma, hwrote⟩ := Dev.descRun_copy hlen hpos hop hl hr hw
      rw [hop, hrun] at hstep
      exact .of_onPage_effect (fun d => d.descStep k 0 len host pois) rfl hu hstep (Dev.advanced_settled hdma hwrote ..)
    case fill =>
      obtain ⟨e, hrun, hdma, hwrote⟩ := Dev.descRun_fill (host := host) (pois := pois) hlen hpos hop hw
      rw [hop, hrun] at hstep
      exact .of_onPage_effect (fun d => d.descStep k 1 len host pois) rfl hu hstep
        ⟨fillBytes x c.off len, length_fillBytes .., fun i hi => fillBytes_getElem? x c.off hi, Dev.advanced_settled hdma hwrote ..⟩
    case compare =>
      obtain ⟨v, hrun⟩ := Dev.descRun_compare hlen hpos hop hl hm hr hr'
      rw [hop, hrun] at hstep
      obtain ⟨hoff, -, hmis⟩ := Dev.advanced_facts (d := s.dev) (e := { s.dev with live := v }) rfl k n c.off len (firstDiff l m)
      refine .of_onPage_effect (fun d => d.descStep k 2 len host pois) rfl hu hstep ?_
      rw [Dev.settle_dch]
      refine ⟨hoff, Dev.settle_mem _, fun heq => ?_, fun i hi ht hne hnone => ?_⟩
      · rw [hmis, heq, firstDiff_self]
        exact Option.or_none
      · rw [hmis, hnone, firstDiff_of_take_eq (hl ▸ hi) ht hne]
        rfl
  case readback =>
    intro s k n x l hu hact hdesc hreading hstalled hdrain hp hm hl hr
    obtain ⟨v, hread⟩ := Dev.readbackDone_read hact hdesc hreading hstalled hdrain hl hr
    generalize hd : ({ s.dev with live := v } : Dev).backRead k n = d at hread
    have hdch : d.dch k n = { s.dev.dch k n with readback := false } := by rw [← hd]; exact Dev.dch_setDch ..
    have heng : ∃ chans, d.eng k = { s.dev.eng k with chans := chans } := ⟨_, by rw [← hd]; exact Dev.eng_setDch ..⟩
    obtain ⟨chans, heng⟩ := heng
    have hp' : (d.dch k n).pois = none := by rw [hdch]; exact hp
    have hm' : (d.dch k n).mis = none := by rw [hdch]; exact hm
    refine .of_onPage_effect (fun d => d.readbackDone k) rfl hu hread ?_
    rw [Dev.settle_dch, Dev.settle_eng]
    refine ⟨fun hlast => ?_, fun hlast hurgent hsusp hbulk => Dev.descOver_last hp' hm' hlast ?_ ?_ ?_ ?_⟩
    · obtain ⟨c, hc, hidx, hnext⟩ := Dev.descOver_next hp' hm' hlast
      rw [hc]
      exact ⟨by rw [hidx, hdch], hnext⟩
    all_goals
      rw [heng]
      assumption
  case preempt =>
    intro s k n u t host pois hu hact hst hbulk hurgent hne hb
    have heng : ((s.dev.suspend k n).bump (pgDMA + k) 0x118).eng k = (s.dev.suspend k n).eng k := rfl
    rw [Dev.suspend_eng] at heng
    refine .of_onPage_effect (fun d => d.chainPreempt k host pois) rfl hu
      (Dev.chainPreempt_boundary hact hst hbulk (by rw [hurgent]; exact List.cons_ne_nil u t) hb) ?_
    rw [Dev.settle_dch, Dev.settle_dch, Dev.settle_eng, Dev.dmaPick_urgent (by rw [heng]) (by rw [heng]; exact hurgent), Dev.dch_setEng,
      Dev.dch_setEng, Dev.eng_setEng_self, DmaEng.chosen_self, DmaEng.chosen_other _ hne.symm, heng]
    exact ⟨by rw [Tab.get_set_self], rfl, rfl, rfl, rfl⟩
  case pcie =>
    intro s k n hu hst
    refine .of_onPage_effect (fun d => d.pcieTimeout k n) rfl hu (Dev.pcieTimeout_inUse hst) ?_
    rw [Dev.settle_dch]
    obtain ⟨hhalted, hcode, -⟩ := Dev.dmaHalt_facts ((s.dev.bump pgHIF 0x120).bump (pgDMA + k) 0x128) k n 0x21 (s.dev.dch k n).off
    exact ⟨hhalted, hcode⟩
  case fabric =>
    intro s m q hu hq
    obtain ⟨e, htimeout, hdma, hwaiting, hlasterr⟩ := Dev.fabTimeout_late hq
    refine ⟨fun hm => ?_, fun n h1 h4 hn => ?_⟩
    · refine .of_onPage_effect (fun d => d.fabricTimeout m) rfl hu (Dev.fabricTimeout_other htimeout hm) ?_
      rw [Dev.settle_fab]
      exact ⟨hwaiting, hlasterr⟩
    · have hn' : ((List.range 4).find? fun n => (e.dch (m.val - 1) n).stalled) = some n := by
        simp only [Dev.dch_of hdma]
        exact hn
      refine .of_onPage_effect (fun d => d.fabricTimeout m) rfl hu (Dev.fabricTimeout_engine htimeout h1 h4 hn') ?_
      rw [Dev.settle_dch]
      obtain ⟨hhalted, hcode, -⟩ := Dev.dmaHalt_facts (e.bump (pgDMA + (m.val - 1)) 0x128) (m.val - 1) n 0x21
        (e.dch (m.val - 1) n).off
      exact ⟨hhalted, hcode⟩

end Sys2Proof.Machine

/-! PROOFS. The clock unit (chapter 15): what selection and the loop leave of the references, what an edge of a reference and a
comparison of two make of their states, and what the registers of the loop and of the outputs do. -/

namespace Sys2Proof.Machine

/-! ### Selection and the loop leave the references (R412, R415 to R418) -/

@[simp] theorem Dev.raise_clk (d : Dev) (p : Nat) (b : Word) : (d.raise p b).clk = d.clk :=
  Frame.clk_eq Dev.raise_frame (by decide)

@[simp] theorem Dev.masters_clk (d : Dev) : d.masters.clk = d.clk := Frame.clk_eq Dev.masters_frame (by decide)

theorem Dev.ref_of {d e : Dev} (h : e.clk.refs = d.clk.refs) (i : Nat) : e.ref i = d.ref i := by unfold Dev.ref; rw [h]

theorem Dev.outp_of {d e : Dev} (h : e.clk.outs = d.clk.outs) (i : Nat) : e.outp i = d.outp i := by unfold Dev.outp; rw [h]

theorem Dev.ref_setRef_self (d : Dev) (i : Nat) (r : Ref) : (d.setRef i r).ref i = r := by rw [Dev.ref_setRef, if_pos rfl]

theorem Dev.outp_setOut_self (d : Dev) (i : Nat) (o : OutSt) : (d.setOut i o).outp i = o := by rw [Dev.outp_setOut, if_pos rfl]

theorem Dev.leaveHoldover_clk (d : Dev) : d.leaveHoldover.clk = { d.clk with holdAt := none } := by
  unfold Dev.leaveHoldover
  split
  next h => exact congrArg (fun a => { d.clk with holdAt := a }) h
  next => rfl

theorem Dev.enterHoldover_clk (d : Dev) : d.enterHoldover.clk =
    { d.clk with loop := .holdover, freq := d.clk.average, holdFreq := d.clk.average, sel := none, lowSince := none,
                 holdAt := some d.time.arr } :=
  Dev.raise_clk ..

theorem Dev.leaveHoldover_ref (d : Dev) (i : Nat) : d.leaveHoldover.ref i = d.ref i :=
  Dev.ref_of (by rw [Dev.leaveHoldover_clk]) i

theorem Dev.startSwitch_clk (d : Dev) (i : Nat) : (d.startSwitch i).clk =
    { d.clk with loop := .switching, sel := some i, lowSince := none, err := -(d.ref i).phase, holdAt := none } := by
  unfold Dev.startSwitch
  dsimp only
  rw [Dev.leaveHoldover_ref, Dev.leaveHoldover_clk]
  split <;> rfl

/-- Two states of the clock unit agree on the references and on whether an exclusion is in force. -/
def ClkSt.SameRefs (a b : ClkSt) : Prop := b.refs = a.refs ∧ b.disagree = a.disagree

theorem Dev.startSwitch_sameRefs (d : Dev) (i : Nat) : d.clk.SameRefs (d.startSwitch i).clk := by
  rw [Dev.startSwitch_clk]
  exact ⟨rfl, rfl⟩

theorem Dev.acquire_sameRefs (d : Dev) (i : Nat) : d.clk.SameRefs (d.acquire i).clk := by
  unfold Dev.acquire
  split
  · exact d.startSwitch_sameRefs i
  · exact d.startSwitch_sameRefs i

theorem Dev.enterHoldover_sameRefs (d : Dev) : d.clk.SameRefs d.enterHoldover.clk := by
  rw [Dev.enterHoldover_clk]
  exact ⟨rfl, rfl⟩

/-- Selection moves the loop and leaves the references. -/
theorem Dev.select_sameRefs (d : Dev) : d.clk.SameRefs d.select.clk := by
  unfold Dev.select
  extract_lets c d1
  have h1 : d1.clk = d.clk := d.raise_clk ..
  rw [← h1]
  clear_value c d1
  split
  · rw [h1]
    exact ⟨rfl, rfl⟩
  · split
    · exact ⟨rfl, rfl⟩
    · cases c with
      | some i => exact d1.acquire_sameRefs i
      | none =>
        dsimp only
        split
        · exact ⟨rfl, rfl⟩
        · exact d1.enterHoldover_sameRefs

@[simp] theorem Dev.select_ref (d : Dev) (i : Nat) : d.select.ref i = d.ref i := Dev.ref_of d.select_sameRefs.1 i

@[simp] theorem Dev.masters_ref (d : Dev) (i : Nat) : d.masters.ref i = d.ref i := Dev.ref_of (by rw [Dev.masters_clk]) i

/-! ### Monitors and edges (R407, R409, R410) -/

theorem Dev.disqualify_ref (d : Dev) (i cause : Nat) :
    (d.disqualify i cause).ref i = { d.ref i with state := .disqualified, cause := cause, since := d.time.loc } := by
  unfold Dev.disqualify
  extract_lets r was d1 d2
  have h2 : d2.clk = d1.clk := by
    simp only [d2]
    split
    · exact Dev.raise_clk ..
    · rfl
  rw [Dev.select_ref, Dev.masters_ref, Dev.ref_of (congrArg ClkSt.refs h2)]
  exact Dev.ref_setRef_self ..

theorem Dev.monitor_gross (d : Dev) (i : Nat) (f j : Int) {x : Int} (hx : 50000000 < x.natAbs) : d.monitor i f x j ≠ 0 := by
  unfold Dev.monitor
  dsimp only
  rw [if_pos hx]
  split_ifs <;> decide

theorem Dev.monitor_jump (d : Dev) {i : Nat} (f x : Int) {j : Int} (hi : i ≠ 7) (hj : 20000 < j.natAbs) : d.monitor i f x j ≠ 0 := by
  unfold Dev.monitor
  dsimp only
  rw [if_neg hi, if_pos hj]
  split_ifs <;> decide

theorem Dev.monitor_passes (d : Dev) (i : Nat) {f x j : Int} (hf : f.natAbs ≤ 2000000) (hx : x.natAbs ≤ 50000000)
    (hj : j.natAbs ≤ 20000) : d.monitor i f x j = 0 := by
  have hfreq : decide (f.natAbs > 2000000) = false := decide_eq_false (Nat.not_lt.2 hf)
  unfold Dev.monitor
  dsimp only
  rw [if_neg (Nat.not_lt.2 hx), if_neg (Nat.not_lt.2 hj), hfreq, Bool.and_false, if_neg Bool.false_ne_true, ite_self]

/-- The device once reference `i` has been measured: its edge is no longer missing, its frequency and phase are the measured ones. -/
def Dev.measured (d : Dev) (i : Nat) (f p : Int) : Dev := d.setRef i { d.ref i with missing := 0, foffs := f, phase := p }

theorem Dev.measured_ref (d : Dev) (i : Nat) (f p : Int) :
    (d.measured i f p).ref i = { d.ref i with missing := 0, foffs := f, phase := p } :=
  Dev.ref_setRef_self ..

section
variable {d : Dev} {i : Nat} {f x j p : Int} (hen : (d.ref i).en = true) (h6 : i ≠ 6) (hsw : d.swStamped i = false)
include hen h6 hsw

/-- An edge of an enabled reference is judged by the monitors: a failing one disqualifies; else a DISQUALIFIED reference becomes
QUALIFYING, and any other enters the loop. -/
theorem Dev.refEdge_judged : ∃ e : Dev, d.refEdge i f x j p =
    if (d.measured i f p).monitor i f x j ≠ 0 then e.disqualify i ((d.measured i f p).monitor i f x j)
    else if ((d.measured i f p).ref i).state = .disqualified then
      (d.measured i f p).setRef i { (d.measured i f p).ref i with state := .qualifying, since := d.time.loc }
    else (d.measured i f p).loopInput i f p := by
  unfold Dev.refEdge
  extract_lets r d1 m d2 r1
  have hm : m = d1.monitor i f x j := if_neg (by rw [show d1.swStamped i = d.swStamped i from rfl, hsw]; decide)
  rw [if_neg (by simp [r, hen, h6]), hm]
  exact ⟨d2, rfl⟩

/-- An edge of an enabled reference that fails a monitor disqualifies it. -/
theorem Dev.refEdge_fails (hm : (d.measured i f p).monitor i f x j ≠ 0) : ((d.refEdge i f x j p).ref i).state = .disqualified := by
  obtain ⟨e, he⟩ := Dev.refEdge_judged (f := f) (x := x) (j := j) (p := p) hen h6 hsw
  rw [he, if_pos hm, Dev.disqualify_ref]

/-- An edge of an enabled reference that passes every monitor requalifies a DISQUALIFIED one and else enters the loop. -/
theorem Dev.refEdge_passes (hm : (d.measured i f p).monitor i f x j = 0) : d.refEdge i f x j p =
    if (d.ref i).state = .disqualified then
      (d.measured i f p).setRef i { (d.measured i f p).ref i with state := .qualifying, since := d.time.loc }
    else (d.measured i f p).loopInput i f p := by
  obtain ⟨e, he⟩ := Dev.refEdge_judged (f := f) (x := x) (j := j) (p := p) hen h6 hsw
  rw [he, if_neg (not_not.2 hm), Dev.measured_ref]

end

theorem Dev.loopInput_refs (d : Dev) (i : Nat) (f p : Int) : (d.loopInput i f p).clk.refs = d.clk.refs := by
  unfold Dev.loopInput
  split_ifs <;> rfl

/-- A measurement of the selected reference makes e the negative of the measured phase, which is log entry 64's reading of R414. -/
theorem Dev.loopInput_err {d : Dev} {i : Nat} (h : d.clk.sel = some i) (f p : Int) : (d.loopInput i f p).clk.err = -p := by
  unfold Dev.loopInput
  rw [if_neg (not_not.2 h)]
  split_ifs <;> rfl

/-- A missing edge counts, and the second in a row disqualifies with cause 1. -/
theorem Dev.refMissing_ref {d : Dev} {i : Nat} (hen : (d.ref i).en = true) : (d.refMissing i).ref i =
    if 2 ≤ (d.ref i).missing + 1 then
      { d.ref i with missing := (d.ref i).missing + 1, state := .disqualified, cause := 1, since := d.time.loc }
    else { d.ref i with missing := (d.ref i).missing + 1 } := by
  unfold Dev.refMissing
  extract_lets r d1 d2
  have hloc : d2.time = d.time := by
    simp only [d2, d1]
    split <;> rfl
  have href : d2.ref i = { d.ref i with missing := (d.ref i).missing + 1 } := Dev.ref_setRef_self ..
  rw [if_neg (by simp [r, hen])]
  split
  · rw [Dev.disqualify_ref, href, hloc]
  · exact href

theorem Dev.refQualified_state {d : Dev} {i : Nat} (hst : (d.ref i).state = .qualifying)
    (ht : 10 * 10 ^ 9 ≤ (d.time.loc - (d.ref i).since).toNat) : ((d.refQualified i).ref i).state = .qualified := by
  unfold Dev.refQualified
  dsimp only
  rw [if_pos ⟨hst, ht⟩, Dev.select_ref, Dev.masters_ref, Dev.ref_setRef_self]

/-! ### The end of a switch (R415) -/

theorem Dev.switchComplete_facts {d : Dev} {t : BitVec 64} (hloop : d.clk.loop = .switching) (hlow : d.clk.lowSince = some t)
    (ht : 10 ^ 9 ≤ (d.time.loc - t).toNat) : d.switchComplete.clk.loop = .locked ∧
      bitAt 4 (d.switchComplete.page pgCLK).pirq = true ∧ d.switchComplete.clk.recTemp = d.pwr.tj := by
  unfold Dev.switchComplete
  rw [hloop, hlow]
  dsimp only
  rw [if_pos ht, Dev.raise_clk]
  exact ⟨rfl, Dev.raise_pirq_bit _ _ (by decide), rfl⟩

/-! ### Candidates that disagree (R413) -/

/-- References `i` and `j` are QUALIFIED candidates of equal quality level and priority, which R413 compares. -/
structure Dev.Equals (d : Dev) (i j : Nat) : Prop where
  ne : i ≠ j
  iLt : i < 7
  jLt : j < 7
  iQualified : (d.ref i).state = .qualified
  jQualified : (d.ref j).state = .qualified
  prio : (d.ref i).prio ≠ 0
  samePrio : (d.ref i).prio = (d.ref j).prio
  sameQl : (d.ref i).ql = (d.ref j).ql

/-- A reference that reference `k` excludes or, where `ex` is false, no longer excludes. -/
def Ref.marked (r : Ref) (ex : Bool) (k : Nat) : Ref :=
  { r with excl := if ex then k :: r.excl.filter (· != k) else r.excl.filter (· != k) }

theorem Ref.mem_marked (r : Ref) (ex : Bool) (k : Nat) : k ∈ (r.marked ex k).excl ↔ ex = true := by
  cases ex <;> simp [Ref.marked]

/-- The device once `i` and `j` have been compared: `exI` says whether `i` is excluded by `j`, `exJ` whether `j` is by `i`. -/
def Dev.compared (d : Dev) (i j : Nat) (exI exJ : Bool) : Dev :=
  (d.setRef i ((d.ref i).marked exI j)).setRef j ((d.ref j).marked exJ i)

/-- A device with the references of the comparison says which of the two is excluded. -/
theorem Dev.compared_excl {d e : Dev} {i j : Nat} {exI exJ : Bool} (hne : i ≠ j) (h : e.clk.refs = (d.compared i j exI exJ).clk.refs) :
    (j ∈ (e.select.ref i).excl ↔ exI = true) ∧ (i ∈ (e.select.ref j).excl ↔ exJ = true) := by
  rw [Dev.select_ref, Dev.select_ref, Dev.ref_of h, Dev.ref_of h, Dev.compared, Dev.ref_setRef_self, Dev.ref_setRef, if_neg hne,
    Dev.ref_setRef_self]
  exact ⟨Ref.mem_marked .., Ref.mem_marked ..⟩

/-- The yardstick tells `i` and `j` apart: it is HOX, and one of the two lies within 2 ppm of it and the other does not. -/
def Dev.tellsApart (d : Dev) (fi fj : Int) : Bool := d.yardHox && (decide (fi.natAbs ≤ 2000000) != decide (fj.natAbs ≤ 2000000))

section
variable {d : Dev} {i j : Nat} {fi fj : Int} (h : d.Equals i j)
include h

/-- What `DISAGREE_CHECK` asks of the two before it compares them. -/
theorem Dev.Equals.checked : ¬ (i = j ∨ 7 ≤ i ∨ 7 ≤ j ∨ (!((d.ref i).state == .qualified && (d.ref i).prio != 0)) = true ∨
    (!((d.ref j).state == .qualified && (d.ref j).prio != 0)) = true ∨ (d.ref i).ql ≠ (d.ref j).ql ∨
    (d.ref i).prio ≠ (d.ref j).prio) := by
  obtain ⟨hne, hi, hj, hqi, hqj, hp, hpp, hql⟩ := h
  simp [hne, Nat.not_le.2 hi, Nat.not_le.2 hj, hqi, hqj, hp, hql, ← hpp]

/-- Two that disagree are both excluded, but for the one that the yardstick holds good. -/
theorem Dev.disagreeCheck_apart (hf : 2000000 < (fi - fj).natAbs) : ∃ e : Dev, d.disagreeCheck i j fi fj = e.select ∧
    e.clk.refs = (d.compared i j (!(d.tellsApart fi fj && decide (fi.natAbs ≤ 2000000)))
      (!(d.tellsApart fi fj && decide (fj.natAbs ≤ 2000000)))).clk.refs ∧ (d.tellsApart fi fj = false → e.clk.disagree = true) := by
  unfold Dev.disagreeCheck
  extract_lets a b ok inI inJ one exI exJ newI newJ mark d1 d2 clk d3 d4
  rw [if_neg h.checked, if_pos hf]
  have h2 : d2.clk.refs = d1.clk.refs := by
    simp only [d2]
    split <;> rfl
  have h4 : d4.clk = if one = true then d2.clk else d3.clk := by
    simp only [d4]
    split
    · rfl
    · split
      · exact Dev.raise_clk ..
      · rfl
  refine ⟨d4, rfl, ?_, fun hone => ?_⟩
  · rw [h4]
    split
    · exact h2
    · exact h2
  · rw [h4, if_neg (by rw [show one = d.tellsApart fi fj from rfl, hone]; decide)]

/-- Two that agree exclude each other no longer. -/
theorem Dev.disagreeCheck_agree (hf : (fi - fj).natAbs ≤ 2000000) : ∃ e : Dev, d.disagreeCheck i j fi fj = e.select ∧
    e.clk.refs = (d.compared i j false false).clk.refs := by
  unfold Dev.disagreeCheck
  rw [if_neg h.checked, if_neg (Nat.not_lt.2 hf)]
  exact ⟨_, rfl, rfl⟩

end

/-! ### The registers of the loop (R419, R420) -/

/-- LOOPCTL.SW opens a closed loop at the frequency in force. -/
theorem Dev.loopCtlWrite_open {d : Dev} (h : d.loopSw = false) :
    (d.loopCtlWrite 1).clk.loop = .software ∧ (d.loopCtlWrite 1).clk.freq = d.clk.freq := by
  unfold Dev.loopCtlWrite
  rw [Dev.guard_one (by decide)]
  dsimp only
  rw [h, if_pos (by decide), Dev.leaveHoldover_clk]
  exact ⟨rfl, rfl⟩

/-- Closing an open loop starts a switch to the selected reference, or holdover where none is selected. -/
theorem Dev.loopCtlWrite_close {d : Dev} (h : d.loopSw = true) : (d.loopCtlWrite 0).clk.sel = d.clk.sel ∧
    (d.loopCtlWrite 0).clk.loop = if d.clk.sel = none then .holdover else .switching := by
  unfold Dev.loopCtlWrite
  rw [Dev.guard_one (by decide)]
  dsimp only
  rw [h, if_neg (by decide), if_pos (by decide), Dev.clk_setReg]
  cases hsel : d.clk.sel with
  | none =>
    dsimp only
    rw [Dev.enterHoldover_clk]
    exact ⟨rfl, rfl⟩
  | some i =>
    dsimp only
    rw [Dev.startSwitch_clk]
    exact ⟨rfl, rfl⟩

theorem Dev.freqAdjWrite_freq {d : Dev} {v : Word} (h : d.loopSw = true) (hv : v.toInt.natAbs ≤ 219902325) :
    (d.freqAdjWrite v).clk.freq = v.toInt := by
  unfold Dev.freqAdjWrite
  rw [Dev.guard_ok (decide_eq_false (Nat.not_lt.2 hv)) (by rw [h]; rfl)]

/-- A frequency beyond ±50 ppm is refused with E_RANGE, which comes before a closed loop's code (R528). -/
theorem Dev.freqAdjWrite_refused {d : Dev} {v : Word} (hv : 219902325 < v.toInt.natAbs) :
    d.freqAdjWrite v = d.reject pgCLK 0x1048 eRANGE := by
  refine Dev.guard_reject ?_
  rw [decide_eq_true hv]
  cases d.loopSw <;> decide

theorem Dev.phStepWrite_refused {d : Dev} {v : Word} (h : phStepState d.sys.state = false) :
    d.phStepWrite v = d.reject pgCLK 0x104C eSTATE :=
  Dev.guard_reject (by rw [h]; rfl)

/-! ### The outputs one after the other -/

/-- A device that differs in its outputs. -/
def Dev.withOuts (d : Dev) (os : Tab OutSt) : Dev := { d with clk.outs := os }

/-- Updates of the outputs 0 to `n - 1`, each of one output, give each its value. -/
theorem Dev.foldl_outs {d : Dev} {g : Dev → Nat → Dev} {val : Nat → OutSt}
    (hg : ∀ os n, Tab.get {} os n = d.outp n → ∃ os', g (d.withOuts os) n = d.withOuts os' ∧
      ∀ k, Tab.get {} os' k = if k = n then val n else Tab.get {} os k) (n : Nat) :
    ∃ os, (List.range n).foldl g d = d.withOuts os ∧ ∀ k, Tab.get {} os k = if k < n then val k else d.outp k := by
  induction n with
  | zero => exact ⟨d.clk.outs, rfl, fun k => rfl⟩
  | succ n ih =>
    obtain ⟨os, hfold, hos⟩ := ih
    obtain ⟨os', hstep, hos'⟩ := hg os n (by rw [hos, if_neg (Nat.lt_irrefl n)])
    refine ⟨os', by rw [List.range_succ, List.foldl_concat, hfold, hstep], fun k => ?_⟩
    rw [hos']
    split_ifs with hk hlt hlt
    · rw [hk]
    · omega
    · rw [hos, if_pos (by omega)]
    · rw [hos, if_neg (by omega)]

/-- An output whose error is moved by `q`. -/
def OutSt.moved (o : OutSt) (q : Int) : OutSt := { o with err := o.err + q }

/-- PHSTEP moves e and the error of every SYNCOUT by the step, in units of 0.25 ns (R420). -/
theorem Dev.phStepWrite_moves {d : Dev} (v : Word) (h : phStepState d.sys.state = true) :
    (d.phStepWrite v).clk.err = d.clk.err + 4 * v.toInt ∧ (d.phStepWrite v).clk.loop = d.clk.loop ∧
      ∀ n, n < 4 → ((d.phStepWrite v).outp n).err = (d.outp n).err + 4 * v.toInt := by
  unfold Dev.phStepWrite
  rw [Dev.guard_one (by rw [h]; rfl)]
  extract_lets q clk d1 d2
  obtain ⟨os, hfold, hos⟩ := Dev.foldl_outs (d := d1) (g := fun e n => e.setOut n ((e.outp n).moved q))
    (val := fun n => (d1.outp n).moved q)
    (fun os n hn => ⟨_, rfl, fun k => (Tab.get_set ..).trans (by rw [show (d1.withOuts os).outp n = d1.outp n from hn]; rfl)⟩) 4
  have hd2 : d2 = d1.withOuts os := hfold
  rw [hd2]
  exact ⟨rfl, rfl, fun n hn => congrArg OutSt.err ((hos n).trans (if_pos hn))⟩

/-! ### The registers of the outputs and their edges (R423, R424) -/

theorem Dev.alignEdge_withOuts {d : Dev} {os : Tab OutSt} {i : Nat} (h : Tab.get {} os i = d.outp i) :
    (d.withOuts os).alignEdge i = d.alignEdge i := by
  have hout : (d.withOuts os).outp i = d.outp i := h
  unfold Dev.alignEdge
  rw [hout]
  rfl

/-- An output that waits for its alignment edge. -/
def Dev.awaiting (d : Dev) (i : Nat) : OutSt := { d.outp i with aligned := false, wait := some (d.alignEdge i) }

/-- What OUTALIGN makes of output `i`: one that the word names and that is on waits for its edge. -/
def Dev.requested (d : Dev) (v : Word) (i : Nat) : OutSt :=
  if bitAt i v = true ∧ (d.outp i).mode ≠ 0 then d.awaiting i else d.outp i

/-- OUTALIGN's step for output `i`. -/
def Dev.alignOut (v : Word) (d : Dev) (i : Nat) : Dev :=
  if bitAt i v = true ∧ (d.outp i).mode ≠ 0 then d.setOut i (d.awaiting i) else d

theorem Dev.alignOut_withOuts {d : Dev} (v : Word) (os : Tab OutSt) (n : Nat) (hn : Tab.get {} os n = d.outp n) :
    ∃ os', (d.withOuts os).alignOut v n = d.withOuts os' ∧
      ∀ k, Tab.get {} os' k = if k = n then d.requested v n else Tab.get {} os k := by
  have hout : (d.withOuts os).outp n = d.outp n := hn
  have hawait : (d.withOuts os).awaiting n = d.awaiting n := by unfold Dev.awaiting; rw [hout, Dev.alignEdge_withOuts hn]
  unfold Dev.alignOut Dev.requested
  rw [hout, hawait]
  split
  · exact ⟨_, rfl, fun k => Tab.get_set ..⟩
  · refine ⟨os, rfl, fun k => ?_⟩
    split
    next hk => rw [hk, hn]
    next => rfl

/-- OUTALIGN makes each output that it names and that is on wait for its edge, and leaves the others. -/
theorem Dev.outAlignWrite_outp {d : Dev} {v : Word} (hv : v &&& 0xFFFFFFC0 = 0)
    (hno : ∀ i, i < 6 → bitAt i v = true → d.noAlign i = false) {i : Nat} (hi : i < 6) :
    (d.outAlignWrite v).outp i = d.requested v i := by
  have hany : ((List.range 6).any fun i => bitAt i v && d.noAlign i) = false := by
    rw [List.any_eq_false]
    intro k hk hbad
    obtain ⟨hnamed, hbad⟩ := Bool.and_eq_true_iff.1 hbad
    exact Bool.false_ne_true ((hno k (List.mem_range.1 hk) hnamed).symm.trans hbad)
  obtain ⟨os, hfold, hos⟩ := Dev.foldl_outs (Dev.alignOut_withOuts (d := d) v) 6
  unfold Dev.outAlignWrite
  rw [Dev.guard_ok (decide_eq_false (not_not.2 hv)) hany]
  exact (congrArg (fun e : Dev => e.outp i) hfold).trans ((hos i).trans (if_pos hi))

theorem Dev.pulse_outp (d : Dev) (i : Nat) :
    (d.pulse i).outp i = { d.outp i with pulses := (d.outp i).pulses + 1, err := d.outOffset i } :=
  Dev.outp_setOut_self ..

theorem Dev.pulse_out (d : Dev) (i : Nat) :
    (d.pulse i).sys.out = .land (outName i) false :: .land (outName i) true :: d.sys.out := rfl

/-- A SYNCOUT that is on and does not wait for its edge emits a pulse when its period has elapsed. -/
theorem Dev.syncPulse_due {d : Dev} {i : Nat} (hi : i < 4) (hmode : (d.outp i).mode ≠ 0) (hwait : (d.outp i).wait = none) :
    d.syncPulse i = d.pulse i :=
  if_pos ⟨hi, hmode, hwait⟩

/-- The output's alignment edge has been reached. -/
def Dev.atEdge (d : Dev) (i : Nat) : Prop :=
  (∃ t, (d.outp i).wait = some (.array t) ∧ t ≤ d.time.arr.toNat * 2 ^ 16) ∨
    ∃ f, (d.outp i).wait = some (.sfn f) ∧ atOrAfter d.time.sfn f = true

/-- The device with output `i` aligned at its edge. -/
def Dev.aligned (d : Dev) (i : Nat) : Dev := d.setOut i { d.outp i with aligned := true, wait := none, err := 0 }

/-- At its edge an output is aligned, and a SYNCOUT emits its first pulse. -/
theorem Dev.alignReached_atEdge {d : Dev} {i : Nat} (h : d.atEdge i) :
    d.alignReached i = if i < 4 then (d.aligned i).pulse i else d.aligned i := by
  unfold Dev.alignReached
  obtain ⟨t, hw, ht⟩ | ⟨f, hw, hf⟩ := h
  · dsimp only
    rw [hw]
    exact if_pos ht
  · dsimp only
    rw [hw]
    exact if_pos hf

theorem Dev.alignReached_outp {d : Dev} {i : Nat} (h : d.atEdge i) :
    ((d.alignReached i).outp i).aligned = true ∧ ((d.alignReached i).outp i).wait = none ∧
      (i < 4 → ((d.alignReached i).outp i).pulses = (d.outp i).pulses + 1) := by
  have haligned : (d.aligned i).outp i = { d.outp i with aligned := true, wait := none, err := 0 } := Dev.outp_setOut_self ..
  rw [Dev.alignReached_atEdge h]
  split
  next hi =>
    rw [Dev.pulse_outp, haligned]
    exact ⟨rfl, rfl, fun _ => rfl⟩
  next hi =>
    rw [haligned]
    exact ⟨rfl, rfl, fun h4 => absurd h4 hi⟩

theorem Dev.outCfgWrite_cfg {d : Dev} {v : Word} (h : d.outErrs d.clk.outIdx { d.outp d.clk.outIdx with cfg := v } = []) :
    d.outCfgWrite 0 v = d.setOut d.clk.outIdx { d.outp d.clk.outIdx with cfg := v, aligned := false, wait := none } := by
  unfold Dev.outCfgWrite
  dsimp only
  rw [if_pos rfl, Dev.guard_of h]

/-! ### The obligation -/

/-- Settles O56: an edge is the monitors' verdict on the measurement, after which selection moves the loop and leaves the
references; a comparison marks who excludes whom; each register is its effect on the loop or on the outputs it names. That e
is the negative of the measured phase is log entry 64. -/
theorem clockUnitFollowsItsReferences : Obligations.ClockUnitFollowsItsReferences := by
  refine ⟨?edge, ?missing, ?qualified, ?switch, ?disagree, ?loopctl, ?freqadj, ?phstep, ?outalign, ?atEdge, ?outcfg, ?pulse⟩
  case edge =>
    intro s i f x j p hu hen h6 hsw r
    have h6' : i.val ≠ 6 := fun h => h6 (Fin.ext h)
    refine ⟨fun hx => .of_onPage rfl hu ?_, fun h7 hj => .of_onPage rfl hu ?_, fun hf hx hj => ⟨fun hst => .of_onPage rfl hu ?_,
      fun hst hsel => .of_onPage rfl hu ?_⟩⟩
    · exact Dev.refEdge_fails hen h6' hsw (Dev.monitor_gross _ _ f j hx)
    · exact Dev.refEdge_fails hen h6' hsw (Dev.monitor_jump _ f x (fun h => h7 (Fin.ext h)) hj)
    · rw [Dev.refEdge_passes hen h6' hsw (Dev.monitor_passes _ _ hf hx hj), if_pos hst, Dev.ref_setRef_self, Dev.measured_ref]
      exact ⟨rfl, rfl, rfl⟩
    · rw [Dev.refEdge_passes hen h6' hsw (Dev.monitor_passes _ _ hf hx hj), if_neg (by rw [hst]; decide),
        Dev.ref_of (Dev.loopInput_refs ..), Dev.measured_ref]
      exact ⟨Dev.loopInput_err (d := s.dev.measured i f p) hsel f p, hst⟩
  case missing =>
    intro s i hu hen
    refine ⟨fun hm => .of_onPage rfl hu ?_, fun hm => .of_onPage rfl hu ?_⟩
    · rw [Dev.refMissing_ref hen, if_neg (by omega), hm]
      exact ⟨rfl, rfl⟩
    · rw [Dev.refMissing_ref hen, if_pos (by omega)]
      exact ⟨rfl, rfl⟩
  case qualified =>
    intro s i hu hst ht
    exact .of_onPage rfl hu (Dev.refQualified_state hst ht)
  case switch =>
    intro s t hu hloop hlow ht
    exact .of_onPage rfl hu (Dev.switchComplete_facts hloop hlow ht)
  case disagree =>
    intro s i j fi fj hu hne hi hj hqi hqj hp hpp hql
    have hne' : i.val ≠ j.val := fun h => hne (Fin.ext h)
    have heq : s.dev.Equals i j := ⟨hne', by omega, by omega, hqi, hqj, hp, hpp, hql⟩
    refine ⟨fun hf hy => .of_onPage rfl hu ?_, fun hf hy hin hout => .of_onPage rfl hu ?_, fun hf => .of_onPage rfl hu ?_⟩
    · obtain ⟨e, hcheck, hrefs, hdis⟩ := Dev.disagreeCheck_apart heq hf
      have hone : s.dev.tellsApart fi fj = false := by rw [Dev.tellsApart, hy]; rfl
      rw [hone] at hrefs
      obtain ⟨hexI, hexJ⟩ := Dev.compared_excl hne' hrefs
      rw [hcheck]
      exact ⟨hexI.2 rfl, hexJ.2 rfl, e.select_sameRefs.2.trans (hdis hone)⟩
    · obtain ⟨e, hcheck, hrefs, -⟩ := Dev.disagreeCheck_apart heq hf
      have hin' : decide (fi.natAbs ≤ 2000000) = true := decide_eq_true hin
      have hout' : decide (fj.natAbs ≤ 2000000) = false := decide_eq_false (Nat.not_le.2 hout)
      rw [Dev.tellsApart, hy, hin', hout'] at hrefs
      obtain ⟨hexI, hexJ⟩ := Dev.compared_excl hne' hrefs
      rw [hcheck]
      exact ⟨fun h => Bool.false_ne_true (hexI.1 h), hexJ.2 rfl⟩
    · obtain ⟨e, hcheck, hrefs⟩ := Dev.disagreeCheck_agree heq hf
      obtain ⟨hexI, hexJ⟩ := Dev.compared_excl hne' hrefs
      rw [hcheck]
      exact ⟨fun h => Bool.false_ne_true (hexI.1 h), fun h => Bool.false_ne_true (hexJ.1 h)⟩
  case loopctl =>
    intro s ht
    refine ⟨fun hsw => .of_hostWr rfl ht ?_, fun hsw hsel => .of_hostWr rfl ht ?_, fun i hsw hsel => .of_hostWr rfl ht ?_⟩
    · rw [Dev.settle_clk]
      exact Dev.loopCtlWrite_open hsw
    · rw [Dev.settle_clk, (Dev.loopCtlWrite_close hsw).2, if_pos hsel]
    · obtain ⟨hkeeps, hloop⟩ := Dev.loopCtlWrite_close hsw
      rw [Dev.settle_clk, hloop, hkeeps, hsel]
      exact ⟨rfl, rfl⟩
  case freqadj =>
    intro s v ht
    refine ⟨fun hsw hv => .of_hostWr rfl ht ?_, fun hv => .of_rejected rfl ht (Dev.freqAdjWrite_refused hv) fun e hrej hframe =>
      ⟨hrej, hframe.clk_eq (by decide)⟩⟩
    rw [Dev.settle_clk]
    exact Dev.freqAdjWrite_freq hsw hv
  case phstep =>
    intro s v ht
    refine ⟨fun hst => .of_hostWr rfl ht ?_, fun hb ht' hr => .of_rejected rfl ht (Dev.phStepWrite_refused ?_) fun e hrej hframe =>
      ⟨hrej, hframe.clk_eq (by decide)⟩⟩
    · simp only [Dev.settle_clk, Dev.outp_of (congrArg ClkSt.outs (Dev.settle_clk _))]
      exact Dev.phStepWrite_moves v (by obtain h | h | h := hst <;> rw [h] <;> rfl)
    · simp [phStepState, hb, ht', hr]
  case outalign =>
    intro s v ht hno
    refine .of_hostWr rfl ht fun i hi => ?_
    have hreserved : v.setWidth 32 &&& 0xFFFFFFC0 = (0 : Word) := by
      clear ht hno
      revert v
      decide
    have hbit : ∀ k, k < 6 → bitAt k (v.setWidth 32) = v.getLsbD k := fun k hk => by
      rw [bitAt, BitVec.getLsbD_setWidth, decide_eq_true (by omega), Bool.true_and]
    rw [Dev.outp_of (congrArg ClkSt.outs (Dev.settle_clk _)), Dev.outAlignWrite_outp hreserved
      (fun k hk h => hno k hk (hbit k hk ▸ h)) hi, Dev.requested, hbit i hi]
    split
    · exact ⟨rfl, rfl⟩
    · rfl
  case atEdge =>
    intro s i hu hw
    exact .of_onPage rfl hu (Dev.alignReached_outp hw)
  case outcfg =>
    intro s v ht herrs
    have hwrite : s.dev.outCfgWrite ((0 : Fin 3) : Nat) v = _ := Dev.outCfgWrite_cfg herrs
    refine .of_hostWr rfl ht ?_
    simp only [Dev.outp_of (congrArg ClkSt.outs (Dev.settle_clk _)), hwrite]
    rw [Dev.outp_setOut_self]
    exact ⟨rfl, rfl, fun i hi => (Dev.outp_setOut ..).trans (if_neg hi)⟩
  case pulse =>
    intro s i hu hi hmode hwait
    refine .of_onPage rfl hu ?_
    rw [Dev.syncPulse_due hi hmode hwait, Dev.pulse_outp]
    exact ⟨rfl, Dev.pulse_out ..⟩

end Sys2Proof.Machine
/-! PROOFS. What holds of every step: the command at the front of the queue runs, its footprint holds, LOCAL is never stepped, and
ESTOP stays in force (R431, R566, R567). -/

namespace Sys2Proof.Machine

/-! ### Steps and footprints -/

/-- Settles O1: both parts are how a step is defined. -/
theorem stepRunsTheFrontCommand : Obligations.StepRunsTheFrontCommand := by
  unfold Obligations.StepRunsTheFrontCommand
  exact ⟨fun _ _ _ => rfl, fun _ => ⟨_, rfl, rfl, rfl⟩⟩

/-- Settles O2: a command's meaning is an update of the device, and its frame is its footprint. -/
theorem everyCommandKeepsItsFrame : Obligations.EveryCommandKeepsItsFrame := by
  unfold Obligations.EveryCommandKeepsItsFrame
  intro c s
  have hnext : ∃ t, exec c s = .next t ∧ t.pending = s.pending := by cases c <;> exact ⟨_, rfl, rfl⟩
  obtain ⟨t, ht, hpending⟩ := hnext
  exact ⟨t, ht, hpending, exec_frame ht⟩

/-! ### LOCAL -/

theorem Dev.supplyReset_loc {d : Dev} {r : Nat} (hr : r ≠ 8) : (d.supplyReset r).time.loc = d.time.loc := by
  rw [Dev.supplyReset, if_neg hr]
  split
  · rfl
  · split
    · rfl
    · rw [Frame.loc_eq Dev.setState_frame (by decide), Frame.loc_eq Dev.islandsLost_frame (by decide)]

/-- Settles O7: only the two resets have LOCAL in their footprint, and the loss of a rail but VAON leaves it. -/
theorem localTimeIsNeverStepped : Obligations.LocalTimeIsNeverStepped := by
  unfold Obligations.LocalTimeIsNeverStepped
  refine ⟨fun c s t h hporst hsupply => ?_, fun s t r h hr => ?_, fun d t h => ?_⟩
  · by_cases hm : Part.loc ∈ footprint c
    case neg => exact Frame.loc_eq (exec_frame h) hm
    cases c with
    | powerOnReset => exact absurd rfl hporst
    | supplyReset r => exact absurd rfl (hsupply r)
    | _ => exact absurd (List.contains_iff_mem.2 hm) (Bool.eq_false_iff.1 rfl)
  · cases h
    exact (Frame.loc_eq Dev.settle_frame (by decide)).trans (Dev.supplyReset_loc fun k => hr (Fin.ext k))
  · cases h
    rfl

/-! ### ESTOP in force -/

/-- ESTOP is in force after, if it was before. -/
def EstopKept (d e : Dev) : Prop := d.aon.estop.active = true → e.aon.estop.active = true

section
variable {d e d0 : Dev} {T : List Part}

theorem EstopKept.refl (d : Dev) : EstopKept d d := id

theorem EstopKept.trans (h : EstopKept d0 d) (k : EstopKept d e) : EstopKept d0 e := k ∘ h

theorem EstopKept.of_frame (h : Frame T d e) (hT : Part.estop ∉ T) : EstopKept d e := fun k => by
  rwa [h.estop_eq hT]

theorem EstopKept.ite {c : Prop} [Decidable c] (h : EstopKept d0 d) (k : EstopKept d0 e) :
    EstopKept d0 (if c then d else e) := by
  split <;> assumption

theorem EstopKept.settle (h : EstopKept d0 d) : EstopKept d0 d.settle := h.trans (.of_frame Dev.settle_frame (by decide))

theorem EstopKept.guard {p o : Nat} {errs : List Code} {f : Dev → Dev} (h : EstopKept d (f d)) :
    EstopKept d (d.guard p o errs f) := by
  unfold Dev.guard
  split
  · exact .of_frame Dev.reject_frame (by decide)
  · exact h

theorem EstopKept.hostWr {p o : Nat} {f : Dev → Dev} (h : EstopKept d (f d)) : EstopKept d (d.hostWr p o f) := by
  unfold Dev.hostWr Dev.hostBar0
  have hemit (o : Out) : EstopKept d (d.emit o) := .of_frame Dev.emit_frame (by decide)
  exact .ite (.refl d) (.ite (hemit _) (.ite (hemit _) (.ite (hemit _)
    (.settle (.ite (.of_frame Dev.reject_frame (by decide)) h)))))

theorem Dev.estop_keepsEstop (d : Dev) (src : EstopSrc) : EstopKept d (d.estop src) := by
  by_cases h : d.sys.state = .off
  · rw [Dev.estop, if_pos h]
    exact .refl d
  · intro _
    rw [Dev.estop_estop h]

/-- A command that is judged as it is written, ESTOP or an unlisted code, ends no ESTOP. -/
theorem Dev.cmdJudge_keepsEstop {c : Nat} {o : Bool} (h : c = 0x13 ∨ cmdListed c = false) : EstopKept d (d.cmdJudge c o) := by
  unfold Dev.cmdJudge
  refine .settle (.trans ?_ (.of_frame Dev.cmdEnd_frame (by decide)))
  split
  · exact .refl d
  next hpass =>
    obtain rfl | hun := h
    · exact d.estop_keepsEstop .cmd
    · simp [Dev.cmdRefused, hun] at hpass

theorem Dev.cmdWrite_keepsEstop (v : Word) : EstopKept d (d.cmdWrite v) := by
  refine .guard ?_
  split
  · exact d.estop_keepsEstop _
  · split
    next h => exact Dev.cmdJudge_keepsEstop (h.imp_right fun hun => by simpa using hun)
    · exact .of_frame Dev.cmdPut_frame (by decide)

theorem Dev.sysWrite_keepsEstop (o : Nat) (v : Word) : EstopKept d (d.sysWrite o v) :=
  .ite (Dev.cmdWrite_keepsEstop v) <| .ite (.of_frame Dev.plainWrite_frame (by decide)) <|
    .ite (.of_frame Dev.irqmapWrite_frame (by decide)) (.of_frame Dev.reject_frame (by decide))

theorem Dev.aonWrite_keepsEstop {o : Nat} (ho : o ≠ 0x101C) (v : Word) : EstopKept d (d.aonWrite o v) := by
  unfold Dev.aonWrite
  split
  · exact .of_frame Dev.imgCtl_frame (by decide)
  · exact .of_frame Dev.imgLen_frame (by decide)
  · exact .of_frame Dev.imgData_frame (by decide)
  · exact .of_frame Dev.wdogWrite_frame (by decide)
  · exact absurd rfl ho
  · exact .of_frame Dev.snapctlWrite_frame (by decide)
  · exact .of_frame Dev.reject_frame (by decide)

/-- Of the registers, only `CMD` and `AON.ESTOP` reach ESTOP. -/
theorem Dev.regWrite_keepsEstop {p o : Nat} (h : ¬ (p = pgAON ∧ o = 0x101C)) (v : Word) : EstopKept d (d.regWrite p o v) := by
  unfold Dev.regWrite
  refine .ite (.of_frame Dev.headerWrite_frame (by decide)) (.ite (.of_frame Dev.reject_frame (by decide)) ?_)
  refine .ite (Dev.sysWrite_keepsEstop o v) ?_
  by_cases hp : p = pgAON
  · rw [if_pos hp]
    exact Dev.aonWrite_keepsEstop (fun ho => h ⟨hp, ho⟩) v
  rw [if_neg hp]
  exact .ite (.of_frame Dev.pwrWrite_frame (by decide)) <| .ite (.of_frame Dev.pairWrite_frame (by decide)) <|
    .ite (.of_frame Dev.clkWrite_frame (by decide)) <| .ite (.of_frame Dev.timeWrite_frame (by decide)) <|
    .ite (.of_frame Dev.mspWrite_frame (by decide)) <| .ite (.of_frame Dev.hifWrite_frame (by decide)) <|
    .ite (.of_frame Dev.mmuWrite_frame (by decide)) <| .ite (.of_frame Dev.dmaWrite_frame (by decide)) <|
    .ite (.of_frame Dev.fabWrite_frame (by decide)) <| .ite (.of_frame Dev.memcWrite_frame (by decide)) <|
    .ite (.of_frame Dev.lnbWrite_frame (by decide)) <| .ite (.of_frame Dev.ingWrite_frame (by decide)) <|
    .ite (.of_frame Dev.dklWrite_frame (by decide)) <| .ite (.of_frame Dev.hatWrite_frame (by decide)) <|
    .ite (.ite (.of_frame Dev.accRelease_frame (by decide)) (.of_frame Dev.reject_frame (by decide))) <|
    .ite (.of_frame Dev.bmfWrite_frame (by decide)) <| .ite (.of_frame Dev.trgWrite_frame (by decide)) <|
    .ite (.of_frame Dev.pltWrite_frame (by decide)) <| .ite (.of_frame Dev.burWrite_frame (by decide)) <|
    .ite (.of_frame Dev.ethWrite_frame (by decide)) (.of_frame Dev.reject_frame (by decide))

theorem Dev.registerWrite_keepsEstop {p o : Nat} (h : ¬ (p = pgAON ∧ o = 0x101C)) (v : Word) :
    EstopKept d (d.registerWrite p o v) :=
  .ite (.hostWr (Dev.regWrite_keepsEstop h v)) (.of_frame Dev.misaligned_frame (by decide))

/-- An operation of an access port but RELEASE ends no ESTOP. -/
theorem Dev.aonDo_keepsEstop {i : Bool} {a : Option (BitVec 14)} {c : Word} (h : fld 3 0 c ≠ 3) : EstopKept d (d.aonDo i a c) := by
  by_cases hr : d.aonReach i = true
  case neg => rw [Dev.aonDo, if_neg hr]; exact .refl d
  obtain ⟨e, he, -, -, -, -, -, -, -, hdo⟩ := Dev.aonDo_port (a := a) (c := c) hr
  refine (EstopKept.of_frame he (by decide)).trans (hdo ▸ ?_)
  have hport (f : Dev) (r : Code) : EstopKept f (f.aonResult i r) := .of_frame Dev.setAonPort_frame (by decide)
  split
  · exact hport _ _
  · exact .of_frame Dev.aonRead_frame (by decide)
  · exact (e.estop_keepsEstop _).trans (hport _ _)
  next h3 => exact absurd h3 h
  · exact .of_frame Dev.aonSnapTake_frame (by decide)
  · exact .of_frame Dev.aonSnapClear_frame (by decide)
  · exact .of_frame Dev.aonWdReset_frame (by decide)
  · exact .of_frame Dev.aonSetShed_frame (by decide)
  · exact .of_frame Dev.aonReadSnap_frame (by decide)
  · exact hport _ _

theorem Dev.i3cWrite_keepsEstop {idx : Byte} (h : idx ≠ 8) (v : Word) : EstopKept d (d.i3cWrite idx v) := by
  unfold Dev.i3cWrite
  refine .ite (.refl d) ?_
  dsimp only
  split
  next h8 => exact absurd (BitVec.eq_of_toNat_eq h8) h
  · exact EstopKept.of_frame (d := { d with aon.i3cIdx := idx }) Dev.setAonPort_frame (by decide)
  · exact EstopKept.of_frame (d := { d with aon.i3cIdx := idx }) Dev.imgData_frame (by decide)
  · exact EstopKept.of_frame (d := { d with aon.i3cIdx := idx }) Dev.imgLen_frame (by decide)
  · exact EstopKept.of_frame (d := { d with aon.i3cIdx := idx }) Dev.imgCtl_frame (by decide)
  · exact id

theorem Dev.romStart_keepsEstop (d : Dev) : EstopKept d d.romStart :=
  .ite (Dev.estop_keepsEstop { d with boot.porstLow := false, boot.hold := false, sys.state := .imageWait } .land) id

theorem Dev.holdRelease_keepsEstop (d : Dev) : EstopKept d d.holdRelease :=
  .ite (.refl d) <| .ite d.romStart_keepsEstop <|
    EstopKept.of_frame (d := { d with boot.hold := false }) Dev.setState_frame (by decide)

theorem Dev.supplyReset_keepsEstop {r : Nat} (h : r ≠ 8) : EstopKept d (d.supplyReset r) := by
  unfold Dev.supplyReset
  rw [if_neg h]
  exact .ite (.refl d) <| .ite (.refl d) <|
    (EstopKept.of_frame (d := { d with boot.hold := true }) Dev.islandsLost_frame (by decide)).trans
      (.of_frame Dev.setState_frame (by decide))

end

theorem Dev.cmdRow_keepsEstop (d : Dev) (o : Bool) : EstopKept d (d.cmdRow 0x13 o) := by
  unfold Dev.cmdRow
  split
  · exact .ite (Dev.cmdJudge_keepsEstop (.inl rfl)) (.hostWr (Dev.cmdWrite_keepsEstop _))
  · exact .hostWr (Dev.cmdJudge_keepsEstop (.inl rfl))

/-- Settles O6: by its frame where a command cannot reach ESTOP; else by what it does to it. -/
theorem estopStaysInForce : Obligations.EstopStaysInForce := by
  unfold Obligations.EstopStaysInForce
  intro c s t h hactive
  by_cases hm : Part.estop ∈ footprint c
  case neg => exact .inr (EstopKept.of_frame (exec_frame h) hm hactive)
  suffices hkept : (c = .estopRelease ∨ (∃ i, c = .aonRelease i) ∨ c = .powerOnReset ∨ c = .supplyReset 8 ∨
      (∃ v, c = .registerWrite 1 0x101C v) ∨ (∃ v, c = .i3cPrivateWrite 8 v)) ∨ EstopKept s.dev t.dev from
    hkept.imp_right fun hk => hk hactive
  cases c with
  | estop =>
    have ht : t.dev = s.dev.cmdRow 0x13 false := by cases h; rfl
    exact .inr (ht ▸ Dev.cmdRow_keepsEstop _ _)
  | registerWrite p o v =>
    have ht : t.dev = s.dev.registerWrite p o.toNat v := by cases h; rfl
    by_cases hp : p.val = pgAON ∧ o.toNat = 0x101C
    · obtain rfl : p = 1 := Fin.ext hp.1
      obtain rfl : o = 0x101C := BitVec.eq_of_toNat_eq hp.2
      exact .inl (by simp)
    · exact .inr (ht ▸ Dev.registerWrite_keepsEstop hp v)
  | powerOnReset => exact .inl (by simp)
  | porstRelease =>
    have ht : t.dev = s.dev.porstRelease := by cases h; rfl
    exact .inr (ht ▸ .ite s.dev.romStart_keepsEstop (.refl _))
  | supplyReset r =>
    have ht : t.dev = (s.dev.supplyReset r).settle := by cases h; rfl
    by_cases hr : r = 8
    · exact .inl (by simp [hr])
    · exact .inr (ht ▸ .settle (Dev.supplyReset_keepsEstop fun k => hr (Fin.ext k)))
  | supplyHoldRelease =>
    have ht : t.dev = s.dev.holdRelease := by cases h; rfl
    exact .inr (ht ▸ s.dev.holdRelease_keepsEstop)
  | estopNEdge =>
    have ht : t.dev = s.dev.estopNFall.settle := by cases h; rfl
    exact .inr (ht ▸ .settle (Dev.estop_keepsEstop { s.dev with aon.estop.landLow := true } .land))
  | estopAssert =>
    have ht : t.dev = s.dev.hostWr pgAON 0x101C fun d => d.estopWrite 1 := by cases h; rfl
    exact .inr (ht ▸ .hostWr (.guard (s.dev.estop_keepsEstop .reg)))
  | estopRelease => exact .inl (by simp)
  | aonEstop i =>
    have ht : t.dev = (s.dev.aonDo i none 2).settle := by cases h; rfl
    exact .inr (ht ▸ .settle (Dev.aonDo_keepsEstop (by decide)))
  | aonRelease i => exact .inl (by simp)
  | aonWdreset i confirm =>
    have ht : t.dev = (s.dev.aonDo i none (6 ||| confirm.setWidth 32 <<< 16)).settle := by cases h; rfl
    have hop : fld 3 0 (6 ||| confirm.setWidth 32 <<< 16 : Word) = 6 := fld_low confirm 16 (by decide) 6 (by decide)
    exact .inr (ht ▸ .settle (Dev.aonDo_keepsEstop (by rw [hop]; decide)))
  | aonSetshed i level =>
    have ht : t.dev = (s.dev.aonDo i (some (level.setWidth 14)) 7).settle := by cases h; rfl
    exact .inr (ht ▸ .settle (Dev.aonDo_keepsEstop (by decide)))
  | i3cPrivateWrite idx v =>
    have ht : t.dev = (s.dev.i3cWrite idx v).settle := by cases h; rfl
    by_cases hi : idx = 8
    · exact .inl (by simp [hi])
    · exact .inr (ht ▸ .settle (Dev.i3cWrite_keepsEstop hi v))
  | estopNRise =>
    have ht : t.dev = s.dev.estopNRise := by cases h; rfl
    exact .inr (ht ▸ .refl s.dev)
  | _ => exact absurd (List.contains_iff_mem.2 hm) (Bool.eq_false_iff.1 rfl)

end Sys2Proof.Machine
/-! PROOFS. Resets, the image, bring-up and recovery (chapters 18, 19): what a module reset, a supply reset, a Mladef island reset
and a thermal trip leave, and where each ends. -/

namespace Sys2Proof.Machine

/-! ### What a reset of the islands leaves -/

/-- The device after a module reset with its cause: IMAGE_WAIT, with AON and CLK/TIME kept and the rest lost (R516). -/
structure ModuleResetFrom (d e : Dev) (cause : Nat) : Prop where
  state : e.sys.state = .imageWait
  boot : e.boot = d.boot.afterReset cause 0
  mem : e.mem = []
  plt : e.plt = {}
  mctl : e.mctl = {}
  clk : e.clk = d.clk
  loc : e.time.loc = d.time.loc
  aon : e.aon = d.aon

theorem Dev.moduleReset_from (d : Dev) (c : Nat) : ModuleResetFrom d (d.moduleReset c) c := by
  obtain ⟨hstate, -, -, hmem, hplt, hmctl, hclk, hloc, haon⟩ := d.moduleReset_facts c
  refine ⟨hstate, ?_, hmem, hplt, hmctl, hclk, hloc, haon⟩
  unfold Dev.moduleReset
  rw [Frame.boot_eq Dev.masters_frame (by decide), Frame.boot_eq Dev.setState_frame (by decide)]
  exact (d.islandsLost_facts c 0 true).1

/-- Of what a module reset leaves nothing is left to settle but the pair. -/
theorem ModuleResetFrom.settle {d e : Dev} {c : Nat} (h : ModuleResetFrom d e c) : ModuleResetFrom d e.settle c where
  state := e.settle_state.trans h.state
  boot := e.settle_boot.trans h.boot
  mem := e.settle_mem.trans h.mem
  plt := e.settle_plt.trans h.plt
  mctl := by rw [Dev.settle_mctl, h.mctl]
  clk := e.settle_clk.trans h.clk
  loc := (congrArg TimeSt.loc e.settle_time).trans h.loc
  aon := (Dev.settle_aon (by rw [h.mctl])).trans h.aon

theorem keepPages_get {α : Type} {ps : List Nat} {a : Nat} (x : α) (t : Tab α) (h : ps.contains (a / 0x10000) = false) :
    Tab.get x (keepPages ps t) a = x := by
  by_contra hne
  have hmem := (List.mem_filter.1 (Tab.get_mem x _ a hne)).2
  rw [h] at hmem
  exact Bool.false_ne_true hmem

/-- A reset of the islands takes the pair's role with it. -/
theorem Dev.islandsLost_alone (d : Dev) (c r : Nat) (k : Bool) : (d.islandsLost c r k).paired = false := by
  have hrole : (d.islandsLost c r k).pairRole = regDefault (bar pgPAIR 0x1000) := keepPages_get _ _ (by cases k <;> decide)
  rw [Dev.paired, hrole]
  decide

/-! ### Module resets -/

/-- The fields of the statement, read off a module reset that has been settled. -/
theorem ModuleResetFrom.after {d e : Dev} {c : Nat} (h : ModuleResetFrom d e c) :
    e.sys.state = .imageWait ∧ e.boot.rstCause = c ∧ e.boot.linkUp = false ∧ e.mem = [] ∧ e.plt = {} ∧ e.mctl = {} ∧
      e.clk = d.clk ∧ e.time.loc = d.time.loc ∧ e.aon.estop = d.aon.estop ∧ e.aon.sram = d.aon.sram := by
  obtain ⟨hstate, hboot, hmem, hplt, hmctl, hclk, hloc, haon⟩ := h
  rw [hboot, haon]
  exact ⟨hstate, rfl, rfl, hmem, hplt, hmctl, hclk, hloc, rfl, rfl⟩

/-- The same where the reset leaves its result in an access port (R561). -/
theorem ModuleResetFrom.aonResult_settle {d e : Dev} {c : Nat} (h : ModuleResetFrom d e c) (i : Bool) :
    let x := (e.aonResult i eOK).settle
    x.sys.state = .imageWait ∧ x.boot.rstCause = c ∧ x.boot.linkUp = false ∧ x.mem = [] ∧ x.plt = {} ∧ x.mctl = {} ∧
      x.clk = d.clk ∧ x.time.loc = d.time.loc ∧ x.aon.estop = d.aon.estop ∧ x.aon.sram = d.aon.sram := by
  have hport : Frame [.aon] e (e.aonResult i eOK) := Dev.setAonPort_frame
  have hsram : (e.aonResult i eOK).aon.sram = e.aon.sram := by cases i <;> rfl
  generalize e.aonResult i eOK = x at *
  have hmctl : x.mctl = {} := (hport.mctl_eq (by decide)).trans h.mctl
  have hboot : x.boot = d.boot.afterReset c 0 := (hport.boot_eq (by decide)).trans h.boot
  dsimp only
  rw [Dev.settle_state, Dev.settle_boot, Dev.settle_mem, Dev.settle_plt, Dev.settle_mctl, Dev.settle_clk, Dev.settle_time,
    Dev.settle_aon (by rw [hmctl]), hboot, hmctl, hsram, hport.estop_eq (by decide), h.aon]
  exact ⟨(hport.state_eq (by decide)).trans h.state, rfl, rfl, (hport.mem_eq (by decide)).trans h.mem,
    (hport.plt_eq (by decide)).trans h.plt, rfl, (hport.clk_eq (by decide)).trans h.clk, (hport.loc_eq (by decide)).trans h.loc, rfl, rfl⟩

/-- A link reset is a module reset of the device with its link down. -/
theorem Dev.linkReset_from {d : Dev} (perst : Bool) (h : d.sys.state ≠ .off) :
    ModuleResetFrom { d with boot.perstLow := d.boot.perstLow || perst, boot.linkUp := false } (d.linkReset perst)
      (if perst then 4 else 5) := by
  rw [Dev.linkReset, if_neg h]
  exact Dev.moduleReset_from _ _

/-- WDRESET with its confirmation is a module reset that leaves its RESULT in the port. -/
theorem Dev.aonDo_wdReset {d : Dev} {i : Bool} (h : d.aonReach i = true) : ∃ e, Frame [.aon] d e ∧ e.aon.sram = d.aon.sram ∧
    d.aonDo i none (6 ||| (0xA5 : Byte).setWidth 32 <<< 16) = (e.moduleReset 8).aonResult i eOK := by
  obtain ⟨e, he, -, -, -, -, -, -, hsram, hdo⟩ := Dev.aonDo_port (a := none) (c := 6 ||| (0xA5 : Byte).setWidth 32 <<< 16) h
  exact ⟨e, he, hsram, hdo⟩

/-- WDOG_FIRE writes the time-out that is set. -/
theorem wdogFire_timeout (x : BitVec 16) : (bit 31 true ||| x.setWidth 32 : Word).setWidth 16 = x := by
  apply BitVec.eq_of_toNat_eq
  rw [BitVec.toNat_setWidth, wdogFire_word]
  omega

theorem Dev.wdogFire_reset {d : Dev} (hlo : 100 ≤ d.boot.wdTimeout.toNat) (hhi : d.boot.wdTimeout.toNat ≤ 60000) :
    d.wdogWrite (bit 31 true ||| d.boot.wdTimeout.setWidth 32) = d.moduleReset 8 := by
  rw [Dev.wdogFire_write hlo hhi, wdogFire_timeout]

/-- Settles O21: each of the three is the module reset, from the device with the pin, the time-out or the port written. -/
theorem moduleResetsKeepAonAndClk : Obligations.ModuleResetsKeepAonAndClk := by
  unfold Obligations.ModuleResetsKeepAonAndClk
  intro after
  refine ⟨fun s perst hs => ?link, fun s ht hlo hhi => ?fire, fun s i hr => ?wdreset⟩
  case link =>
    have h := (s.dev.linkReset_from perst hs).settle
    refine .of_settled (f := fun d => d.linkReset perst) rfl ⟨h.after, fun hp => ?_⟩
    rw [h.boot, hp]
    exact Bool.or_true _
  case fire =>
    refine .of_hostWr rfl ht ?_
    rw [Dev.wdogFire_reset hlo hhi]
    have h := (s.dev.moduleReset_from 8).settle
    refine ⟨h.after, ?_⟩
    rw [h.boot, BootSt.afterReset]
  case wdreset =>
    obtain ⟨e, he, hsram, hdo⟩ := Dev.aonDo_wdReset hr
    refine .of_settled (f := fun d => d.aonDo i none (6 ||| (0xA5 : Byte).setWidth 32 <<< 16)) rfl ?_
    rw [hdo]
    have h := (e.moduleReset_from 8).aonResult_settle i
    obtain ⟨hstate, hcause, hlink, hmem, hplt, hmctl, hclk, hloc, hestop, hsram'⟩ := h
    exact ⟨hstate, hcause, hlink, hmem, hplt, hmctl, hclk.trans (he.clk_eq (by decide)), hloc.trans (he.loc_eq (by decide)),
      hestop.trans (he.estop_eq (by decide)), hsram'.trans hsram⟩

/-! ### Power-on and supply resets -/

/-- The device as IMAGE_WAIT begins at the end of a power-on reset, before the level of ESTOP_N is looked at. -/
def Dev.released (d : Dev) : Dev := { d with boot.porstLow := false, boot.hold := false, sys.state := .imageWait }

theorem Dev.romStart_eq (d : Dev) :
    d.romStart = if d.aon.estop.landLow then d.released.estop .land else d.released := rfl

theorem Dev.romStart_facts (d : Dev) : d.romStart.sys.state = .imageWait ∧ d.romStart.boot.porstLow = false ∧
    d.romStart.boot.hold = false ∧ (d.aon.estop.landLow = true → d.romStart.aon.estop.active = true) := by
  rw [Dev.romStart_eq]
  have hoff : d.released.sys.state ≠ .off := DevState.noConfusion
  split
  · rw [Frame.state_eq Dev.estop_frame (by decide), Frame.boot_eq Dev.estop_frame (by decide), Dev.estop_estop hoff]
    exact ⟨rfl, rfl, rfl, fun _ => rfl⟩
  next hlow => exact ⟨rfl, rfl, rfl, fun h => absurd h hlow⟩

/-- A rail has been more than 10 % low for too long, and no reset has come before (R482). -/
theorem Dev.supplyReset_due {d : Dev} {r t : Nat} (hporst : d.boot.porstLow = false) (htrip : d.boot.thermtrip = false)
    (ht : Tab.get none d.pwr.lowNs r = some t) (hlong : 1000 < t) : d.supplyReset r =
      if r = 8 then { (d.allLost false) with pwr.mv := d.pwr.mv }
      else if d.sys.state = .off then d
      else (({ d with boot.hold := true } : Dev).islandsLost 2 r false).setState .off := by
  unfold Dev.supplyReset
  rw [hporst, htrip, ht]
  exact if_neg (by simpa using hlong)

theorem Dev.supplyReset_rail {d : Dev} {r t : Nat} (hr : r ≠ 8) (hs : d.sys.state ≠ .off) (hporst : d.boot.porstLow = false)
    (htrip : d.boot.thermtrip = false) (ht : Tab.get none d.pwr.lowNs r = some t) (hlong : 1000 < t) :
    (d.supplyReset r).sys.state = .off ∧ (d.supplyReset r).boot = { d.boot with hold := true }.afterReset 2 r ∧
      (d.supplyReset r).mem = [] ∧ (d.supplyReset r).clk = {} := by
  rw [Dev.supplyReset_due hporst htrip ht hlong, if_neg hr, if_neg hs, Dev.setState_state,
    Frame.boot_eq Dev.setState_frame (by decide), Frame.mem_eq Dev.setState_frame (by decide),
    Frame.clk_eq Dev.setState_frame (by decide)]
  exact ⟨rfl, (Dev.islandsLost_facts _ 2 r false).1, rfl, rfl⟩

theorem Dev.supplyReset_vaon {d : Dev} {t : Nat} (hporst : d.boot.porstLow = false)
    (htrip : d.boot.thermtrip = false) (ht : Tab.get none d.pwr.lowNs 8 = some t) (hlong : 1000 < t) :
    d.supplyReset 8 = { (d.allLost false) with pwr.mv := d.pwr.mv } :=
  (Dev.supplyReset_due hporst htrip ht hlong).trans (if_pos rfl)

theorem Dev.holdRelease_facts {d : Dev} (hhold : d.boot.hold = true) (hporst : d.boot.porstLow = false)
    (htrip : d.boot.thermtrip = false) (hgood : d.railsGood = true) :
    d.holdRelease.sys.state = .imageWait ∧ d.holdRelease.boot.hold = false := by
  have hdue : (!d.boot.hold || d.boot.porstLow || d.boot.thermtrip || !d.railsGood) = false := by
    rw [hhold, hporst, htrip, hgood]; rfl
  unfold Dev.holdRelease
  rw [hdue, if_neg Bool.false_ne_true]
  split
  · obtain ⟨hstate, -, hheld, -⟩ := d.romStart_facts
    exact ⟨hstate, hheld⟩
  · rw [Dev.setState_state, Frame.boot_eq Dev.setState_frame (by decide)]
    exact ⟨rfl, rfl⟩

/-- Settles O22: what each reset is defined to leave, and what the loss of the islands leaves (R516). -/
theorem powerOnAndSupplyResets : Obligations.PowerOnAndSupplyResets := by
  unfold Obligations.PowerOnAndSupplyResets
  refine ⟨fun s => ?porst, fun s hlow => ?release, ?rail, ?vaon, fun s hhold hporst htrip hgood => ?hold, fun s => ?perst⟩
  case porst => exact .of_run (f := Dev.powerOnReset) rfl ⟨rfl, rfl, rfl, rfl, rfl, rfl, rfl, rfl, rfl, rfl⟩
  case release =>
    refine .of_run (f := Dev.porstRelease) rfl ?_
    rw [Dev.porstRelease, if_pos hlow]
    obtain ⟨hstate, hporst, -, hestop⟩ := s.dev.romStart_facts
    exact ⟨hstate, hporst, hestop⟩
  case rail =>
    rintro s r hr hs hporst htrip ⟨t, ht, hlong⟩
    obtain ⟨hstate, hboot, hmem, hclk⟩ := Dev.supplyReset_rail hr hs hporst htrip ht hlong
    refine .of_settled (f := fun d => d.supplyReset r) rfl ?_
    rw [Dev.settle_state, Dev.settle_boot, Dev.settle_mem, Dev.settle_clk, Dev.settle_time, hboot]
    exact ⟨hstate, rfl, rfl, rfl, hmem, hclk, Dev.supplyReset_loc hr⟩
  case vaon =>
    rintro s hporst htrip ⟨t, ht, hlong⟩
    refine .of_settled (f := fun d => d.supplyReset 8) rfl ?_
    rw [Dev.settle_state, Dev.settle_boot, Dev.settle_mem, Dev.settle_estop, Dev.supplyReset_vaon hporst htrip ht hlong]
    exact ⟨rfl, rfl, rfl, rfl⟩
  case hold => exact .of_run (f := Dev.holdRelease) rfl (Dev.holdRelease_facts hhold hporst htrip hgood)
  case perst => exact .of_run (f := Dev.perstRelease) rfl ⟨rfl, Dev.perstRelease_frame⟩

/-! ### The thermal trip -/

/-- The device as the trip is latched, before the islands are lost (R493). -/
def Dev.tripLatched (d : Dev) : Dev := { d with boot.thermtrip := true, boot.hold := false }

/-- The device that a thermal trip leaves but for its land: the islands lost, and with them the freeze snapshot (R493). -/
def Dev.tripped (d : Dev) : Dev :=
  let x := (d.tripLatched.islandsLost 3 0 false).setState .off
  { x with aon := { x.aon with valid := false, busy := false, cause := 0, missed := 0, sram := [] } }

theorem Dev.tempSample_trip {d : Dev} {t : BitVec 8} {n : BitVec 5} (hporst : d.boot.porstLow = false)
    (htrip : d.boot.thermtrip = false) (ht : 115 < t.toInt) :
    d.tempSample t n = d.tripped.emit (.land "THERMTRIP_N" false) := by
  unfold Dev.tempSample
  rw [hporst, htrip]
  exact if_pos ht

theorem Dev.tripped_frame {d : Dev} :
    Frame [.pba, .pirq, .state, .out, .aon] (d.tripLatched.islandsLost 3 0 false) d.tripped :=
  Frame.upd_aon (Dev.setState_frame.mono (by decide)) (.inl rfl) (.inr (by decide))

theorem Dev.tripped_facts (d : Dev) : d.tripped.sys.state = .off ∧ d.tripped.boot = d.tripLatched.boot.afterReset 3 0 ∧
    d.tripped.mem = [] ∧ d.tripped.aon.valid = false ∧ d.tripped.mctl = {} ∧ d.tripped.paired = false := by
  have f := d.tripped_frame
  rw [f.boot_eq (by decide), f.mem_eq (by decide), f.mctl_eq (by decide), Dev.paired_of (f.reg_eq (by decide) (by decide)),
    (d.tripLatched.islandsLost_facts 3 0 false).1, d.tripLatched.islandsLost_alone]
  exact ⟨Dev.setState_state _ _, rfl, rfl, rfl, rfl, rfl⟩

theorem Dev.tripped_settle (d : Dev) (o : Out) : (d.tripped.emit o).settle = d.tripped.emit o := by
  obtain ⟨-, -, -, -, hmctl, halone⟩ := d.tripped_facts
  have hcalm : d.tripped.calm = true := by rw [Dev.calm, hmctl, halone]; rfl
  exact Dev.settle_calm (Dev.calm_of Dev.emit_frame hcalm (by decide) (by decide) (by decide) (by decide))

/-- Settles O29: the trip is the loss of every island but AON, and leaves nothing to settle. -/
theorem thermalTripTurnsTheModuleOff : Obligations.ThermalTripTurnsTheModuleOff := by
  unfold Obligations.ThermalTripTurnsTheModuleOff
  intro s t n hporst htrip ht
  refine .of_settled (f := fun d => d.tempSample t n) rfl ?_
  have htripped : (s.dev.tempSample t n).settle = s.dev.tripped.emit (.land "THERMTRIP_N" false) := by
    rw [Dev.tempSample_trip hporst htrip ht, Dev.tripped_settle]
  obtain ⟨hstate, hboot, hmem, hvalid, -, -⟩ := s.dev.tripped_facts
  rw [htripped]
  generalize s.dev.tripped = x at *
  refine ⟨hstate, ?_, ?_, hmem, hvalid, rfl⟩
  · exact congrArg BootSt.thermtrip hboot
  · exact congrArg BootSt.rstCause hboot

/-! ### Mladef island resets -/

/-- The outcomes of a Mladef island reset with its cause, by whether the retained image verifies (R515). -/
def Dev.recoversOr (d e : Dev) (cause : Nat) : Prop :=
  (d.retainedOk = true → e.sys.state = .recovery ∧ e.boot.rstCause = cause ∧ (d.hat.due = [] → e.mem = d.mem)) ∧
  (d.retainedOk = false → e.sys.state = .imageWait ∧ e.boot.rstCause = 7 ∧ e.mem = [] ∧ e.clk = d.clk)

theorem Dev.recoversOr.settle {d e : Dev} {c : Nat} (h : d.recoversOr e c) : d.recoversOr e.settle c := by
  unfold Dev.recoversOr at *
  rw [Dev.settle_state, Dev.settle_boot, Dev.settle_mem, Dev.settle_clk]
  exact h

/-- A Mladef island reset from a device that differs in AON and page headers alone. -/
theorem Dev.mladefReset_recoversOr {d x : Dev} {c : Nat} (f : Frame [.aon, .free, .hdr] d x) (h : d.sys.state.booted = true) :
    d.recoversOr (x.mladefReset c) c := by
  have hbooted : x.sys.state.booted = true := by rw [f.state_eq (by decide)]; exact h
  have hok : x.retainedOk = d.retainedOk := by
    unfold Dev.retainedOk Dev.memServes
    rw [f.mctl_eq (by decide), f.boot_eq (by decide)]
  refine ⟨fun hverified => ?_, fun hfails => ?_⟩
  · obtain ⟨hstate, hcause, hmem⟩ := Dev.mladefReset_facts (c := c) hbooted (hok.trans hverified)
    exact ⟨hstate, hcause, fun hdue => (hmem ((congrArg HatSt.due (f.hat_eq (by decide))).trans hdue)).trans (f.mem_eq (by decide))⟩
  · have hreset : x.mladefReset c = x.moduleReset 7 := by
      unfold Dev.mladefReset
      rw [hbooted, hok, hfails]
      rfl
    rw [hreset]
    have hr := x.moduleReset_from 7
    exact ⟨hr.state, congrArg BootSt.rstCause hr.boot, hr.mem, hr.clk.trans (f.clk_eq (by decide))⟩

/-- A write of PCTL.SRST of the SYS page passes every check (R523). -/
theorem Dev.pctlErrs_srst (d : Dev) (b : Bool) : d.pctlErrs pgSYS (3 ||| bit 2 b) = [] := by
  cases b <;> rfl

theorem Dev.watchdogExpire_eq {d : Dev} (hdue : d.wdDue = true) (hb : d.sys.state.booted = true) : d.watchdogExpire =
    if d.sys.state = .recovery then d.moduleReset 7 else (if d.aon.autoWdog then d.snapTake 2 else d).mladefReset 6 := by
  unfold Dev.watchdogExpire
  rw [hdue, hb]
  rfl

/-- The watchdog's stage 1 outside RECOVERY is a Mladef island reset, after its snapshot. -/
theorem Dev.watchdogExpire_recoversOr {d : Dev} (hdue : d.wdDue = true) (hb : d.sys.state.booted = true)
    (hr : d.sys.state ≠ .recovery) : d.recoversOr d.watchdogExpire 6 := by
  rw [Dev.watchdogExpire_eq hdue hb, if_neg hr]
  exact Dev.mladefReset_recoversOr (Frame.ite (Dev.snapTake_frame.mono (by decide)) (Frame.refl _ _)) hb

/-- Settles O23: each is a Mladef island reset of the device with a header written or a snapshot begun, or a module reset. -/
theorem mladefResetsRecoverOrEscalate : Obligations.MladefResetsRecoverOrEscalate := by
  unfold Obligations.MladefResetsRecoverOrEscalate
  refine ⟨fun s ht hb => ?srst, fun s hdue hb hr => ⟨?_, ?_⟩, fun s hdue hr => ?stage2⟩
  case srst =>
    refine .of_settled (f := fun d => d.hostWr pgSYS 0x08 fun d => d.pctlWrite pgSYS (3 ||| bit 2 (d.page pgSYS).irqOnErr)) rfl ?_
    have hwrite : s.dev.recoversOr (s.dev.pctlWrite pgSYS (3 ||| bit 2 (s.dev.page pgSYS).irqOnErr)) 9 := by
      unfold Dev.pctlWrite
      have hsrst : bitAt 1 (3 ||| bit 2 (s.dev.page pgSYS).irqOnErr) = true := by
        cases (s.dev.page pgSYS).irqOnErr <;> rfl
      rw [Dev.guard_of (Dev.pctlErrs_srst ..), hsrst, if_neg (by decide), if_pos rfl]
      exact Dev.mladefReset_recoversOr (Frame.modPage (Frame.refl _ _) (.inr (by decide)) (.inl fun _ => rfl) (.inl fun _ => ⟨rfl, rfl⟩)) hb
    rw [Dev.hostWr_takes ht]
    exact hwrite.settle.settle
  case stage2 =>
    refine .of_settled (f := Dev.watchdogExpire) rfl ?_
    rw [Dev.watchdogExpire_eq hdue (by rw [hr]; rfl), if_pos hr]
    have h := (s.dev.moduleReset_from 7).settle
    exact ⟨h.state, congrArg BootSt.rstCause h.boot⟩
  · refine .of_settled (f := fun d => if d.sys.state = .recovery then d else d.watchdogExpire) rfl ?_
    dsimp only
    rw [if_neg hr]
    exact (Dev.watchdogExpire_recoversOr hdue hb hr).settle
  · exact .of_settled (f := Dev.watchdogExpire) rfl (Dev.watchdogExpire_recoversOr hdue hb hr).settle

/-! ### Bring-up -/

theorem Dev.refTimeout_due {d : Dev} (hstep : d.inStep5 = true) (hsel : d.clk.sel = none)
    (ht : 30 * 10 ^ 9 ≤ (d.time.loc - d.boot.step5At).toNat) :
    d.refTimeout = { d with boot.refto := true, boot.stepFail := d.boot.stepFail ||| 0x10 } :=
  if_pos ⟨hstep, by rw [hsel]; rfl, ht⟩

theorem Dev.linkUp_up {d : Dev} {v : BitVec 4} {w : BitVec 6} {f : Bool} (hperst : d.boot.perstLow = false)
    (hporst : d.boot.porstLow = false) (hdown : d.boot.linkUp = false) (hs : d.sys.state ≠ .off) : d.linkUp v w f =
      ({ d with boot.linkUp := true, hif := { speed := v, width := w, flit := f } } : Dev).raise pgHIF 0x1 := by
  unfold Dev.linkUp
  rw [hperst, hporst, hdown]
  exact if_neg (by simpa using hs)

/-- Settles O24: where step 5 can end, it is brought up; the other two are what the unit does. -/
theorem bringUpCompletes : Obligations.BringUpCompletes := by
  unfold Obligations.BringUpCompletes
  refine ⟨fun s hs h5 ht hlevel => ?booting, fun s hs h5 ht => ?recovery, fun s h5 hsel ht => ?reference,
    fun s v w f hperst hporst hdown hs => ?link⟩
  case booting =>
    obtain ⟨hstate, hstep, -⟩ := s.dev.broughtUp_facts
    refine .of_settled (f := Dev.bringupComplete) rfl ?_
    rw [Dev.bringupComplete, if_pos ⟨hs, h5, ht, hlevel⟩, Dev.settle_state, Dev.settle_boot]
    exact ⟨hstate, hstep⟩
  case recovery =>
    obtain ⟨hstate, hstep, hstage⟩ := s.dev.broughtUp_facts
    refine .of_settled (f := Dev.recoveryComplete) rfl ?_
    rw [Dev.recoveryComplete, if_pos ⟨hs, h5, ht⟩, Dev.settle_state, Dev.settle_boot]
    exact ⟨hstate, hstep, hstage⟩
  case reference =>
    refine .of_run (f := Dev.refTimeout) rfl ?_
    rw [Dev.refTimeout_due h5 hsel ht]
    exact ⟨rfl, rfl, rfl⟩
  case link =>
    refine .of_run (f := fun d => d.linkUp v w f) rfl ?_
    rw [Dev.linkUp_up hperst hporst hdown hs]
    have hraise : Frame [.pba, .pirq, .out] _ (({ s.dev with
      boot.linkUp := true, hif := { speed := v, width := w, flit := f } } : Dev).raise pgHIF 0x1) := Dev.raise_frame
    rw [hraise.boot_eq (by decide), hraise.hif_eq (by decide)]
    exact ⟨rfl, rfl, rfl, rfl, Dev.raise_pirq_bit _ _ (by decide)⟩

/-! ### The image -/

/-- The writes of `IMGCTL` that CLR and GO make, with the path. -/
theorem Dev.imgCtl_clr {d : Dev} (p : Bool) (h : d.imgErrs = []) :
    d.imgCtl (4 ||| bit 1 p) = { d with boot.path := p, boot.stream := [] } := by
  unfold Dev.imgCtl
  rw [h]
  cases p <;> rfl

theorem Dev.imgCtl_go {d : Dev} (p : Bool) (h : d.imgErrs = []) :
    d.imgCtl (1 ||| bit 1 p) = { d with boot.path := p, boot.cause := 1, boot.tries := d.boot.tries + 1 } := by
  unfold Dev.imgCtl
  rw [h]
  cases p <;> rfl

/-- The device once verification has left its cause. -/
def Dev.verified (d : Dev) (c : Nat) : Dev := { d with boot.cause := c, boot.imgSvn := BitVec.ofNat 8 (leAt d.boot.image 12 1) }

theorem Dev.imageVerifyDone_eq {d : Dev} {poison pll : Bool} (hs : d.sys.state = .imageWait) (hc : d.boot.cause = 1) {c : Nat}
    (h : c = imageCause d.boot.image d.boot.imglen.toNat ((poison || d.boot.winPoison) && !d.boot.path)) :
    d.imageVerifyDone poison pll =
      if c ≠ 0 then (d.verified c).perr pgAON eAUTH 0x1004 else (d.verified c).booting pll := by
  subst h
  exact if_neg (by simp [hs, hc])

/-- Settles O25: what each write does, and the verification's two ends. -/
theorem imagesAreDeliveredAndVerified : Obligations.ImagesAreDeliveredAndVerified := by
  unfold Obligations.ImagesAreDeliveredAndVerified
  refine ⟨fun s v ht he => .of_hostWr rfl ht ?_, fun s p ht he => .of_hostWr rfl ht ?_, fun s p ht he => .of_hostWr rfl ht ?_,
    fun s poison pll hs hc => ?verify⟩
  · rw [Dev.settle_boot, Dev.imgData, Dev.guard_of he]
  · rw [Dev.settle_boot, Dev.imgCtl_clr p he]
    exact ⟨rfl, rfl, rfl⟩
  · rw [Dev.settle_boot, Dev.imgCtl_go p he]
    exact ⟨rfl, rfl, rfl, rfl⟩
  case verify =>
    refine .of_settled (f := fun d => d.imageVerifyDone poison pll) rfl ?_
    obtain ⟨c, h⟩ : ∃ c, c = imageCause s.dev.boot.image s.dev.boot.imglen.toNat
      ((poison || s.dev.boot.winPoison) && !s.dev.boot.path) := ⟨_, rfl⟩
    rw [Dev.imageVerifyDone_eq hs hc h, Dev.settle_state, Dev.settle_boot, Dev.settle_perr, ← h]
    by_cases h0 : c = 0
    · obtain ⟨hstate, hcause, hen, hstart, -⟩ := (s.dev.verified c).booting_facts pll
      rw [if_neg (not_not.2 h0)]
      exact ⟨hcause, fun _ => ⟨hstate, hen, hstart⟩, fun hne => absurd (hcause.trans h0) hne⟩
    · rw [if_pos h0]
      have hperr : Frame [.perr, .pba, .pirq, .out] (s.dev.verified c) ((s.dev.verified c).perr pgAON eAUTH 0x1004) :=
        Dev.perr_frame.mono (by decide)
      rw [hperr.state_eq (by decide), hperr.boot_eq (by decide), Dev.perr_page]
      exact ⟨rfl, fun hz => absurd hz h0, fun _ => ⟨hs, rfl⟩⟩

end Sys2Proof.Machine
/-! PROOFS. The AON island (chapter 22): ESTOP by its sources and its releases, the freeze snapshot, the access ports' operations,
and the I3C port. -/

namespace Sys2Proof.Machine

/-! ### Operations of an access port -/

/-- The fields of an operation's word: OP in its low bits, and a byte above it. -/
theorem fld_byte (p : Byte) (c : Nat) (hc : c < 16) : fld 15 8 (BitVec.ofNat 32 c ||| p.setWidth 32 <<< 8 : Word) = p.toNat := by
  have hp : (p.setWidth 32 <<< 8 : Word).toNat = 2 ^ 8 * p.toNat := by
    simp [Nat.shiftLeft_eq]
    omega
  have hc' : (BitVec.ofNat 32 c).toNat = c := by simp; omega
  rw [fld, BitVec.or_comm, BitVec.toNat_or, hp, hc', ← Nat.two_pow_add_eq_or_of_lt (by omega), Nat.shiftRight_eq_div_pow]
  omega

/-- What an operation's RESULT leaves of the AON island. -/
theorem Dev.aonResult_aon (d : Dev) (i : Bool) (c : Code) : (d.aonResult i c).aon =
    { d.aon with cap := (d.aonResult i c).aon.cap, i3c := (d.aonResult i c).aon.i3c } := by
  cases i <;> rfl

/-- Where nothing is left to settle, nothing is after a command that touches AON alone. -/
theorem Dev.settle_calm_aon {d e : Dev} (hcalm : d.calm = true) (h : Frame [.aon, .free] d e) : e.settle = e :=
  Dev.settle_calm (Dev.calm_of h hcalm (by decide) (by decide) (by decide) (by decide))

/-! ### ESTOP -/

theorem Dev.estopWrite_assert (d : Dev) : d.estopWrite 1 = d.estop .reg := rfl

theorem Dev.estopWrite_release {d : Dev} (h : d.aon.estop.landLow = false) : d.estopWrite 2 = d.estopEnd := by
  unfold Dev.estopWrite Dev.estopErrs
  rw [h]
  rfl

theorem Dev.aonDo_estop {d : Dev} {i : Bool} (h : d.aonReach i = true) : ∃ e, Frame [.aon] d e ∧
    d.aonDo i none 2 = (e.estop (if i then .i3c else .reg)).aonResult i eOK := by
  obtain ⟨e, he, -, -, -, -, -, -, -, hdo⟩ := Dev.aonDo_port (a := none) (c := 2) h
  exact ⟨e, he, hdo⟩

theorem Dev.aonDo_release {d : Dev} {i : Bool} (h : d.aonReach i = true) (hland : d.aon.estop.landLow = false) :
    ∃ e, Frame [.aon] d e ∧ d.aonDo i none 3 = e.estopEnd.aonResult i eOK := by
  obtain ⟨e, he, -, -, -, -, -, -, -, hdo⟩ := Dev.aonDo_port (a := none) (c := 3) h
  have hop : d.aonDo i none 3 = e.aonRelease i := hdo
  refine ⟨e, he, hop.trans (Dev.aonOp_ok ?_)⟩
  rw [he.estop_eq (by decide), hland]
  rfl

/-- Settles O14: a source puts ESTOP in force with its bit, and the releases end it. -/
theorem estopComesAndEnds : Obligations.EstopComesAndEnds := by
  unfold Obligations.EstopComesAndEnds
  have hstate (d : Dev) (src : EstopSrc) : (d.estop src).sys.state = d.sys.state := Frame.state_eq Dev.estop_frame (by decide)
  refine ⟨fun s h hs => ?command, fun s hs => ?land, fun s ht hs => .of_hostWr rfl ht ?register, fun s i hr hs => ?port,
    fun s ht hlow hact => .of_hostWr rfl ht ?release, fun s i hr hlow hact => ?portRelease, fun s => ?rise⟩
  case command =>
    refine .of_cmd (o := false) (e := s.dev.estop .cmd) rfl h rfl
      (congrArg CmdStat.gen (Frame.cmdstat_eq Dev.estop_frame (by decide))) ?_
    rw [Frame.estop_eq Dev.ended_frame (by decide), Frame.state_eq Dev.ended_frame (by decide), Dev.estop_estop hs, hstate]
    exact ⟨rfl, rfl, rfl⟩
  case land =>
    refine .of_settled (f := Dev.estopNFall) rfl ?_
    rw [Dev.settle_estop, Dev.settle_state, Dev.estopNFall,
      Dev.estop_estop (d := { s.dev with aon.estop.landLow := true }) hs, hstate]
    exact ⟨rfl, rfl, rfl, rfl⟩
  case register =>
    rw [Dev.settle_estop, Dev.settle_state, Dev.estopWrite_assert, Dev.estop_estop hs, hstate]
    exact ⟨rfl, rfl, rfl⟩
  case port =>
    refine .of_settled (f := fun d => d.aonDo i none 2) rfl ?_
    obtain ⟨e, he, hdo⟩ := Dev.aonDo_estop hr
    have hoff : e.sys.state ≠ .off := by rw [he.state_eq (by decide)]; exact hs
    rw [Dev.settle_estop, Dev.settle_state, hdo, Dev.aonResult_frame.estop_eq (by decide),
      Dev.aonResult_frame.state_eq (by decide), Dev.estop_estop hoff, hstate]
    exact ⟨rfl, by cases i <;> rfl, he.state_eq (by decide)⟩
  case release =>
    rw [Dev.settle_estop, Dev.estopWrite_release hlow]
    exact Dev.estopEnd_facts hlow hact
  case portRelease =>
    refine .of_settled (f := fun d => d.aonDo i none 3) rfl ?_
    obtain ⟨e, he, hdo⟩ := Dev.aonDo_release hr hlow
    have hestop : e.aon.estop = s.dev.aon.estop := he.estop_eq (by decide)
    rw [Dev.settle_estop, hdo, Dev.aonResult_frame.estop_eq (by decide)]
    exact Dev.estopEnd_facts (by rw [hestop]; exact hlow) (by rw [hestop]; exact hact)
  case rise => exact .of_run (f := Dev.estopNRise) rfl ⟨rfl, rfl⟩

/-! ### The freeze snapshot -/

theorem Dev.aonDo_snapTake {d : Dev} {i : Bool} (h : d.aonReach i = true) (hvalid : d.aon.valid = false)
    (hbusy : d.aon.busy = false) : ∃ e, Frame [.aon] d e ∧ e.aon.valid = false ∧ e.aon.busy = false ∧
      e.aon.taken = d.aon.taken ∧ d.aonDo i none 4 = (e.snapTake 3).aonResult i eOK := by
  obtain ⟨e, he, -, -, -, hv, hb, ht, -, hdo⟩ := Dev.aonDo_port (a := none) (c := 4) h
  have hop : d.aonDo i none 4 = e.aonSnapTake i := hdo
  refine ⟨e, he, hv.trans hvalid, hb.trans hbusy, ht, hop.trans (Dev.aonOp_ok ?_)⟩
  rw [Dev.snapErrs, hv, hb, hvalid, hbusy]
  rfl

theorem Dev.aonDo_snapClear {d : Dev} {i : Bool} (h : d.aonReach i = true) (hbusy : d.aon.busy = false) :
    ∃ e, Frame [.aon] d e ∧ d.aonDo i none 5 = e.snapClear.aonResult i eOK := by
  obtain ⟨e, he, -, -, -, -, hb, -, -, hdo⟩ := Dev.aonDo_port (a := none) (c := 5) h
  have hop : d.aonDo i none 5 = e.aonSnapClear i := hdo
  refine ⟨e, he, hop.trans (Dev.aonOp_ok ?_)⟩
  rw [Dev.snapErrs, hb, hbusy]
  rfl

theorem Dev.snapctlWrite_take {d : Dev} (hvalid : d.aon.valid = false) (hbusy : d.aon.busy = false) :
    d.snapctlWrite (1 ||| bit 2 d.aon.autoFrz ||| bit 3 d.aon.autoWdog) = d.snapTake 3 := by
  unfold Dev.snapctlWrite Dev.snapErrs
  rw [hvalid, hbusy]
  have hself : ({ d with aon.autoFrz := d.aon.autoFrz, aon.autoWdog := d.aon.autoWdog } : Dev) = d := rfl
  cases hfrz : d.aon.autoFrz <;> cases hdog : d.aon.autoWdog <;> rw [hfrz, hdog] at hself <;>
    exact congrArg (fun d : Dev => d.snapTake 3) hself

theorem Dev.snapctlWrite_clear {d : Dev} (hbusy : d.aon.busy = false) :
    d.snapctlWrite (2 ||| bit 2 d.aon.autoFrz ||| bit 3 d.aon.autoWdog) = d.snapClear := by
  unfold Dev.snapctlWrite Dev.snapErrs
  rw [hbusy]
  have hself : ({ d with aon.autoFrz := d.aon.autoFrz, aon.autoWdog := d.aon.autoWdog } : Dev) = d := rfl
  cases hfrz : d.aon.autoFrz <;> cases hdog : d.aon.autoWdog <;> rw [hfrz, hdog] at hself <;>
    exact congrArg Dev.snapClear hself

theorem Dev.snapctlWrite_busy {d : Dev} (h : d.aon.valid = true ∨ d.aon.busy = true) :
    d.snapctlWrite (1 ||| bit 2 d.aon.autoFrz ||| bit 3 d.aon.autoWdog) = d.reject pgAON 0x1020 eBUSY := by
  have hheld : (d.aon.valid || d.aon.busy) = true := by simpa using h
  refine Dev.guard_reject ?_
  unfold Dev.snapErrs
  rw [hheld]
  cases d.aon.autoFrz <;> cases d.aon.autoWdog <;> rfl

/-- What a snapshot that is begun leaves of its settings. -/
theorem Dev.snapTake_auto (d : Dev) (c : Nat) : (d.snapTake c).aon.autoFrz = d.aon.autoFrz ∧
    (d.snapTake c).aon.autoWdog = d.aon.autoWdog := by
  unfold Dev.snapTake
  split
  · exact ⟨rfl, rfl⟩
  · have haon : (d.freshWords 8).2.aon = d.aon := Frame.aon_eq Dev.freshWords_frame (by decide) (by decide)
    generalize d.freshWords 8 = r at *
    obtain ⟨fw, e⟩ := r
    have haon : e.aon = d.aon := haon
    exact ⟨show e.aon.autoFrz = d.aon.autoFrz by rw [haon], show e.aon.autoWdog = d.aon.autoWdog by rw [haon]⟩

/-- Settles O27: TAKE and CLEAR by either way are one operation each, and leave nothing to settle. -/
theorem snapshotsAreTakenAndCleared : Obligations.SnapshotsAreTakenAndCleared := by
  unfold Obligations.SnapshotsAreTakenAndCleared
  refine ⟨fun s i hr hcalm hvalid hbusy => ?portTake, fun s i hr hcalm hbusy => ?portClear,
    fun s ht hcalm hvalid hbusy => .of_hostWr rfl ht ?take, fun s ht hcalm hbusy => .of_hostWr rfl ht ?clear,
    fun s hbusy => ?done, fun s ht hheld => .of_rejected rfl ht (Dev.snapctlWrite_busy hheld) fun e hrej _ => hrej⟩
  case portTake =>
    refine .of_settled (f := fun d => d.aonDo i none 4) rfl ?_
    obtain ⟨e, he, hv, hb, htaken, hdo⟩ := Dev.aonDo_snapTake hr hvalid hbusy
    obtain ⟨hbusy', hvalid', hcause, htaken', -, -⟩ := Dev.snapTake_facts (c := 3) hv hb
    rw [hdo, Dev.settle_calm_aon hcalm
      (((he.mono (by decide)).trans (Dev.snapTake_frame.mono (by decide))).trans (Dev.aonResult_frame.mono (by decide))),
      Dev.aonResult_port, Dev.aonResult_aon]
    exact ⟨hbusy', hvalid', hcause, htaken'.trans (by rw [htaken]), rfl⟩
  case portClear =>
    refine .of_settled (f := fun d => d.aonDo i none 5) rfl ?_
    obtain ⟨e, he, hdo⟩ := Dev.aonDo_snapClear hr hbusy
    rw [hdo, Dev.settle_calm_aon hcalm
      (((he.mono (by decide)).trans (Dev.snapClear_frame.mono (by decide))).trans (Dev.aonResult_frame.mono (by decide))),
      Dev.aonResult_port, Dev.aonResult_aon]
    exact ⟨rfl, rfl, rfl, rfl⟩
  case take =>
    obtain ⟨hbusy', -, hcause, htaken, -, -⟩ := Dev.snapTake_facts (c := 3) hvalid hbusy
    obtain ⟨hfrz, hdog⟩ := s.dev.snapTake_auto 3
    rw [Dev.snapctlWrite_take hvalid hbusy, Dev.settle_calm_aon hcalm (Dev.snapTake_frame.mono (by decide))]
    exact ⟨hbusy', hcause, htaken, hfrz, hdog⟩
  case clear =>
    rw [Dev.snapctlWrite_clear hbusy, Dev.settle_calm_aon hcalm (Dev.snapClear_frame.mono (by decide))]
    exact ⟨rfl, rfl, rfl, rfl⟩
  case done =>
    refine .of_run (f := Dev.snapDone) rfl ?_
    rw [Dev.snapDone, if_pos hbusy, Frame.aon_eq Dev.raise_frame (by decide) (by decide)]
    exact ⟨rfl, rfl, Dev.raise_pirq_bit _ _ (by decide), rfl⟩

end Sys2Proof.Machine
/-! PROOFS. The access ports' operations and I3C (R560 to R563), and the interrupt registers (R522, R525, R556). -/

namespace Sys2Proof.Machine

/-! ### The access ports answer -/

theorem Dev.aonDo_nop {d : Dev} {i : Bool} (h : d.aonReach i = true) : d.aonDo i none 0 =
    (d.setAonPort i { d.aonPort i with cmd := 0 }).aonResult i eOK := by
  rw [Dev.aonDo_reach h]
  cases i <;> rfl

theorem Dev.aonRead_refused {d : Dev} {i : Bool} {p : Nat} (h : pageAlwaysOn p = false) : d.aonRead i p = d.aonResult i ePERM := by
  unfold Dev.aonRead
  rw [h]
  rfl

theorem Dev.aonDo_read {d : Dev} {i : Bool} (p : Byte) (w : BitVec 14) (h : d.aonReach i = true) : ∃ e, Frame [.aon] d e ∧
    (e.aonPort i).addr.toNat = w.toNat ∧ d.aonDo i (some w) (1 ||| p.setWidth 32 <<< 8) = e.aonRead i p.toNat := by
  obtain ⟨e, he, -, haddr, -, -, -, -, -, hdo⟩ := Dev.aonDo_port (a := some w) (c := 1 ||| p.setWidth 32 <<< 8) h
  have hop : fld 3 0 (1 ||| p.setWidth 32 <<< 8 : Word) = 1 := fld_low p 8 (by decide) 1 (by decide)
  have hpage : fld 15 8 (1 ||| p.setWidth 32 <<< 8 : Word) = p.toNat := fld_byte p 1 (by decide)
  rw [hop, hpage] at hdo
  refine ⟨e, he, ?_, hdo⟩
  rw [haddr w rfl, BitVec.toNat_setWidth]
  omega

theorem Dev.aonDo_setShed {d : Dev} {i : Bool} {k : BitVec 3} (h : d.aonReach i = true) (hk : k ≠ 7) : ∃ e : Dev,
    d.aonDo i (some (k.setWidth 14)) 7 = (e.hostLevel k.toNat).aonResult i eOK := by
  obtain ⟨e, -, -, haddr, -, -, -, -, -, hdo⟩ := Dev.aonDo_port (a := some (k.setWidth 14)) (c := 7) h
  have hlevel : fld 2 0 (e.aonPort i).addr = k.toNat := by
    rw [haddr _ rfl, fld, BitVec.toNat_setWidth, BitVec.toNat_setWidth]
    simp
    omega
  have hseven : (k.toNat == 7) = false := beq_false_of_ne fun h7 => hk (BitVec.eq_of_toNat_eq h7)
  have hop : d.aonDo i (some (k.setWidth 14)) 7 = e.aonSetShed i := hdo
  refine ⟨e, hop.trans ?_⟩
  unfold Dev.aonSetShed
  rw [hlevel]
  exact Dev.aonOp_ok (by rw [hseven]; rfl)

theorem Dev.aonDo_readSnap {d : Dev} {i : Bool} (w : BitVec 14) (h : d.aonReach i = true) : ∃ e, Frame [.aon] d e ∧
    d.aonDo i (some w) 8 = (e.setAonPort i { e.aonPort i with data := Tab.get 0 d.aon.sram w.toNat }).aonResult i eOK := by
  obtain ⟨e, he, -, haddr, -, -, -, -, hsram, hdo⟩ := Dev.aonDo_port (a := some w) (c := 8) h
  have hw : (e.aonPort i).addr.toNat = w.toNat := by
    rw [haddr w rfl, BitVec.toNat_setWidth]
    omega
  refine ⟨e, he, ?_⟩
  rw [← hsram, ← hw]
  exact hdo

theorem Dev.i3cWrite_addr {d : Dev} (v : Word) (h : d.aonReach true = true) : d.i3cWrite 0x0C v =
    { d with aon.i3cIdx := 0x0C, aon.i3c := { d.aon.i3c with addr := v &&& 0x3FFF } } := by
  unfold Dev.i3cWrite
  rw [h]
  rfl

theorem Dev.i3cRead_data {d : Dev} (h : d.aonReach true = true) (hidx : d.aon.i3cIdx = 0x10) :
    d.i3cRead = d.emit (.data d.aon.i3c.data) := by
  unfold Dev.i3cRead
  rw [h, hidx]
  rfl

theorem Dev.i3cCcc_assign {d : Dev} (a : BitVec 7) (h : d.aonReach true = true) (hdyn : d.aon.i3cDyn = none) :
    d.i3cCcc (.setdasa a) = { d with aon.i3cDyn := some a } ∧ d.i3cCcc (.entdaa a) = { d with aon.i3cDyn := some a } := by
  unfold Dev.i3cCcc
  rw [h, hdyn]
  exact ⟨rfl, rfl⟩

theorem Dev.i3cCcc_drop {d : Dev} (h : d.aonReach true = true) : d.i3cCcc .rstdaa = { d with aon.i3cDyn := none } := by
  unfold Dev.i3cCcc
  rw [h]
  rfl

/-- Settles O26: each operation, from the port with its word and address written. -/
theorem accessPortsActAndAnswer : Obligations.AccessPortsActAndAnswer := by
  unfold Obligations.AccessPortsActAndAnswer
  refine ⟨fun s i hr hcalm => ?nop, fun s i p w hr hp => ?read, fun s i p w hr hp => ?refused, fun s i k hr hk => ?setshed,
    fun s i w hr => ?readsnap, fun s v hr hcalm => ?address, fun s hr hidx => ?privateRead, fun s a hr hdyn => ?assign, fun s hr => ?drop⟩
  case nop =>
    refine .of_settled (f := fun d => d.aonDo i none 0) rfl ?_
    have f : Frame [.aon] s.dev ((s.dev.setAonPort i { s.dev.aonPort i with cmd := 0 }).aonResult i eOK) :=
      Dev.setAonPort_frame.trans Dev.aonResult_frame
    rw [Dev.aonDo_nop hr, Dev.settle_calm_aon hcalm (f.mono (by decide)), Dev.aonResult_port, Dev.aonPort_setAonPort]
    exact ⟨rfl, rfl, rfl, f⟩
  case read =>
    refine .of_run (f := fun d => d.aonDo i (some w) (1 ||| p.setWidth 32 <<< 8)) rfl ?_
    obtain ⟨e, he, haddr, hdo⟩ := Dev.aonDo_read p w hr
    obtain ⟨hresult, -, hdata⟩ := Dev.aonRead_facts (d := e) (i := i) hp
    rw [hdo]
    exact ⟨hresult, e, he, haddr ▸ hdata⟩
  case refused =>
    refine .of_run (f := fun d => d.aonDo i (some w) (1 ||| p.setWidth 32 <<< 8)) rfl ?_
    obtain ⟨e, he, -, hdo⟩ := Dev.aonDo_read p w hr
    rw [hdo, Dev.aonRead_refused hp, Dev.aonResult_port]
    exact ⟨rfl, he.trans Dev.aonResult_frame⟩
  case setshed =>
    refine .of_settled (f := fun d => d.aonDo i (some (k.setWidth 14)) 7) rfl ?_
    obtain ⟨e, hdo⟩ := Dev.aonDo_setShed hr hk
    rw [Dev.settle_pwr, hdo, Dev.aonResult_frame.pwr_eq (by decide)]
    exact e.hostLevel_facts _
  case readsnap =>
    refine .of_run (f := fun d => d.aonDo i (some w) 8) rfl ?_
    obtain ⟨e, he, hdo⟩ := Dev.aonDo_readSnap w hr
    rw [hdo, Dev.aonResult_port, Dev.aonPort_setAonPort]
    exact ⟨rfl, rfl, (he.trans Dev.setAonPort_frame).trans Dev.aonResult_frame⟩
  case address =>
    refine .of_settled (f := fun d => d.i3cWrite 0x0C v) rfl ?_
    have f : Frame [.aon] s.dev { s.dev with aon.i3cIdx := 0x0C, aon.i3c := { s.dev.aon.i3c with addr := v &&& 0x3FFF } } :=
      Frame.upd_aon (Frame.refl _ _) (.inl rfl) (.inr (by decide))
    rw [Dev.i3cWrite_addr v hr, Dev.settle_calm_aon hcalm (f.mono (by decide))]
    exact ⟨rfl, rfl, f⟩
  case privateRead => exact .of_run (f := Dev.i3cRead) rfl (Dev.i3cRead_data hr hidx)
  case assign =>
    obtain ⟨hset, hent⟩ := Dev.i3cCcc_assign a hr hdyn
    exact ⟨.of_run (f := fun d => d.i3cCcc (.setdasa a)) rfl (by rw [hset]),
      .of_run (f := fun d => d.i3cCcc (.entdaa a)) rfl (by rw [hent])⟩
  case drop => exact .of_run (f := fun d => d.i3cCcc .rstdaa) rfl (by rw [Dev.i3cCcc_drop hr])

/-! ### The interrupt registers -/

theorem Dev.pirqClear_pirq {d : Dev} {p : Nat} {v : Word} (hv : v &&& pirqRsvd p = 0) :
    ((d.pirqClear p v).page p).pirq = (d.page p).pirq &&& ~~~v := by
  unfold Dev.pirqClear
  rw [Dev.guard_of (by rw [hv]; rfl)]
  have hclear : ((d.modPage p fun g => { g with pirq := g.pirq &&& ~~~v }).page p).pirq = (d.page p).pirq &&& ~~~v := by
    rw [Dev.modPage, Dev.page_setPage, if_pos rfl]
  dsimp only
  split
  · rw [Dev.sendIrq_pirq, hclear]
  · exact hclear

theorem Dev.pirqsetWrite_raise {d : Dev} {p : Nat} {v : Word} (hv : v &&& pirqRsvd p = 0) : d.pirqsetWrite p v = d.raise p v :=
  Dev.guard_of (by rw [hv]; rfl)

/-- An address of `IRQMAP` is neither in the pending array, nor the pair's role, nor a vector's mask. -/
theorem irqmap_apart {q : Nat} (hq : q < 256) : isPba (bar pgSYS (0x1800 + 4 * q)) = false ∧
    bar pgPAIR 0x1000 ≠ bar pgSYS (0x1800 + 4 * q) ∧ ∀ o, bar pgHIF o ≠ bar pgSYS (0x1800 + 4 * q) := by
  have hsys : bar pgSYS (0x1800 + 4 * q) < 0x10000 := by simp [bar, pgSYS]; omega
  refine ⟨?_, ?_, fun o => ?_⟩
  · have hbelow : ¬ bar pgHIF 0x5000 ≤ bar pgSYS (0x1800 + 4 * q) := by simp only [bar, pgHIF, pgSYS] at *; omega
    rw [isPba, decide_eq_false hbelow]
    rfl
  · simp only [bar, pgPAIR, pgSYS] at *
    omega
  · simp only [bar, pgHIF, pgSYS] at *
    omega

/-- The device with entry `q` of `IRQMAP` written. -/
def Dev.mapped (d : Dev) (q : Nat) (v : Word) : Dev := d.setReg (bar pgSYS (0x1800 + 4 * q)) v

theorem Dev.mapped_vector (d : Dev) {q v : Nat} (hv : v < 256) : (d.mapped q (BitVec.ofNat 32 v)).vector q = v := by
  rw [Dev.vector, Dev.mapped, Dev.reg_setReg, if_pos rfl]
  simp
  omega

theorem Dev.irqmapWrite_eq {d : Dev} {q v : Nat} (hq : pageExists q = true) (hv : v < 256) : d.irqmapWrite q (BitVec.ofNat 32 v) =
    if v ≠ d.vector q ∧ (d.page q).isPending = true then (d.mapped q (BitVec.ofNat 32 v)).sendIrq q
    else d.mapped q (BitVec.ofNat 32 v) := by
  have hnat : (BitVec.ofNat 32 v).toNat = v := by simp; omega
  have hhigh : BitVec.ofNat 32 v >>> 8 = 0 := by
    apply BitVec.eq_of_toNat_eq
    rw [BitVec.toNat_ushiftRight, hnat, Nat.shiftRight_eq_div_pow]
    simp
    omega
  have herrs : when' (!pageExists q) ePERM ++ when' (BitVec.ofNat 32 v >>> 8 ≠ 0) eRSVD = [] := by
    rw [hq, hhigh]
    rfl
  have hcond : ((BitVec.ofNat 32 v).toNat % 256 != d.vector q && ((d.mapped q (BitVec.ofNat 32 v)).page q).isPending) = true ↔
      v ≠ d.vector q ∧ (d.page q).isPending = true := by
    rw [hnat, Nat.mod_eq_of_lt hv, Bool.and_eq_true, bne_iff_ne]
    exact Iff.rfl
  unfold Dev.irqmapWrite
  refine (Dev.guard_of herrs).trans ?_
  exact if_congr hcond rfl rfl

/-- Writing an entry of `IRQMAP` leaves nothing to settle where nothing was. -/
theorem Dev.irqmapWrite_calm {d : Dev} {q v : Nat} (hcalm : d.calm = true) (hq : pageExists q = true) (hq' : q < 256) (hv : v < 256) :
    (d.irqmapWrite q (BitVec.ofNat 32 v)).calm = true := by
  obtain ⟨-, hrole, -⟩ := irqmap_apart hq'
  have hmapped : (d.mapped q (BitVec.ofNat 32 v)).calm = true := by
    have hpaired : (d.mapped q (BitVec.ofNat 32 v)).paired = d.paired := Dev.paired_of (by rw [Dev.mapped, Dev.reg_setReg, if_neg hrole])
    unfold Dev.calm at *
    rw [hpaired]
    exact hcalm
  rw [Dev.irqmapWrite_eq hq hv]
  split
  · exact Dev.calm_of Dev.sendIrq_frame hmapped (by decide) (by decide) (by decide) (by decide)
  · exact hmapped

/-- Settles O18: what each write does to the page, with nothing left to settle. -/
theorem interruptRegisterWrites : Obligations.InterruptRegisterWrites := by
  unfold Obligations.InterruptRegisterWrites
  refine ⟨fun s p ht => .of_hostWr rfl ht ?perr, fun s p v ht hcalm hv => .of_hostWr rfl ht ?clear,
    fun s p v ht hcalm hv => .of_hostWr rfl ht ?set, fun s q v ht hcalm hq => .of_hostWr rfl ht ?map⟩
  case perr => rw [Dev.settle_perr, Dev.perrclr, Dev.modPage, Dev.page_setPage, if_pos rfl]
  case clear =>
    rw [Dev.settle_calm (Dev.calm_of Dev.pirqClear_frame hcalm (by decide) (by decide) (by decide) (by decide))]
    exact Dev.pirqClear_pirq hv
  case set =>
    rw [Dev.settle_calm (Dev.calm_of Dev.pirqsetWrite_frame hcalm (by decide) (by decide) (by decide) (by decide)),
      Dev.pirqsetWrite_raise hv, Dev.raise_pirq]
  case map =>
    obtain ⟨hpba, -, hmask⟩ := irqmap_apart q.isLt
    rw [Dev.settle_calm (Dev.irqmapWrite_calm hcalm hq q.isLt v.isLt), Dev.irqmapWrite_eq hq v.isLt]
    refine ⟨?_, fun hnew hpending hsend hunmasked => ?_⟩
    · split
      · rw [Dev.vector, Frame.reg_eq Dev.sendIrq_frame (by decide) hpba]
        exact Dev.mapped_vector _ v.isLt
      · exact Dev.mapped_vector _ v.isLt
    · have hmasked : bitAt 0 ((s.dev.mapped q (BitVec.ofNat 32 v)).reg (bar pgHIF (0x4000 + 16 * v.val + 12))) = false := by
        rw [Dev.mapped, Dev.reg_setReg, if_neg (hmask _)]
        exact hunmasked
      have hcan : (s.dev.mapped q (BitVec.ofNat 32 v)).canSend q = true := hsend
      rw [if_pos ⟨hnew, hpending⟩, Dev.sendIrq, if_pos hcan, Dev.mapped_vector _ v.isLt, Dev.sendVector, hmasked]
      rfl

end Sys2Proof.Machine
/-! PROOFS. Supply, temperature and shedding (chapter 18): the effective level follows its samples (R480 to R486, R492). -/

namespace Sys2Proof.Machine

/-! ### The effective level -/

/-- The level takes a value and what was sampled stays. -/
theorem Dev.setLevel_sensor (d : Dev) (k : Nat) : (d.setLevel k).pwr.sensor = d.pwr.sensor := by
  unfold Dev.setLevel Dev.usLevel
  dsimp only
  split <;> rfl

theorem Dev.levelNow_sensor (d : Dev) : d.levelNow.pwr.sensor = d.pwr.sensor := by
  unfold Dev.levelNow
  extract_lets h
  split
  · unfold Dev.levelRise
    obtain ⟨x, hx⟩ := ((d.setLevel h).bump pgPWR 0x100).enterLevels_pwr d.pwr.level h
    rw [Frame.pwr_eq Dev.raise_frame (by decide)]
    dsimp only
    rw [hx]
    exact d.setLevel_sensor h
  · split
    · rfl
    · split <;> rfl

/-- The highest of the three levels rests on the rails' levels, the thermal and the host level. -/
theorem PwrSt.highest_congr {p q : PwrSt} (hr : p.reached = q.reached) (ht : p.thermal = q.thermal) (hh : p.host = q.host) :
    p.highest = q.highest := by
  unfold PwrSt.highest PwrSt.supply
  rw [hr, ht, hh]

/-- The effective level is at least the highest level, and does not fall (R483). -/
theorem Dev.levelNow_highest (d : Dev) : d.levelNow.pwr.highest ≤ d.levelNow.pwr.level ∧ d.pwr.level ≤ d.levelNow.pwr.level := by
  obtain ⟨hlevel, hhost, hthermal, hreached, -⟩ := d.levelNow_facts
  rw [PwrSt.highest_congr hreached hthermal hhost, hlevel]
  exact ⟨Nat.le_max_right .., Nat.le_max_left ..⟩

/-! ### Samples -/

/-- A rail's sample before the levels are looked at. -/
def Dev.railSampled (d : Dev) (r mv : Nat) : Dev :=
  let d := { d with pwr.mv := Tab.set none d.pwr.mv r (some mv) }
  let d := { d with pwr.reached := Tab.set 0 d.pwr.reached r (d.railLevels r) }
  let low := if d.marginAbove r 100 then some ((Tab.get none d.pwr.lowNs r).elim 0 (· + 200)) else none
  { d with pwr.lowNs := Tab.set none d.pwr.lowNs r low }

theorem Dev.supplySample_eq {d : Dev} (r mv power : Nat) (hporst : d.boot.porstLow = false) (htrip : d.boot.thermtrip = false) :
    d.supplySample r mv power = (((d.railSampled r mv).setReg (bar pgPWR 0x1024) (BitVec.ofNat 32 (power % 65536))).peak pgPWR 0x148
      (power % 65536)).levelNow := by
  unfold Dev.supplySample Dev.railSampled
  rw [hporst, htrip, if_neg (by decide)]

theorem Dev.railSampled_pwr (d : Dev) (r mv : Nat) : (d.railSampled r mv).pwr.mv = Tab.set none d.pwr.mv r (some mv) ∧
    (d.railSampled r mv).pwr.host = d.pwr.host ∧ (d.railSampled r mv).pwr.thermal = d.pwr.thermal ∧
    (d.railSampled r mv).pwr.level = d.pwr.level :=
  ⟨rfl, rfl, rfl, rfl⟩

theorem thermalLevel_bounds (was : Nat) (t : Int) : (110 < t → thermalLevel was t = 5) ∧ (100 < t → 2 ≤ thermalLevel was t) ∧
    (t ≤ 95 → thermalLevel was t = 0) := by
  unfold thermalLevel
  refine ⟨fun h => if_pos h, fun h => ?_, fun h => ?_⟩
  · split
    · decide
    · split
      · decide
      · exact Nat.le_refl 2
  · rw [if_neg (by omega), if_neg (by omega), if_neg (by omega), if_neg (by omega)]

/-- A temperature sample before the levels are looked at. -/
theorem Dev.tempSample_eq {d : Dev} {t : BitVec 8} (n : BitVec 5) (hporst : d.boot.porstLow = false)
    (htrip : d.boot.thermtrip = false) (ht : t.toInt ≤ 115) : ∃ (e : Dev) (w : Bool), d.tempSample t n = e.levelNow ∧
      e.pwr = { d.pwr with tj := t, sensor := n, thermal := thermalLevel d.pwr.thermal t.toInt, warn := w } := by
  unfold Dev.tempSample Dev.tempLevels
  rw [hporst, htrip, if_neg (by decide), if_neg (by omega)]
  extract_lets th w rise cross src x y z v
  refine ⟨_, w, rfl, ?_⟩
  have hy : y.pwr = x.pwr := rfl
  have hz : Frame [.pba, .pirq, .out] y z := .ite Dev.raise_frame (.refl _ _)
  have hv : Frame [.pba, .pirq, .out] z v := .ite Dev.raise_frame (.refl _ _)
  rw [Frame.pwr_eq Dev.clkTemp_frame (by decide), Frame.pwr_eq Dev.memTemps_frame (by decide), hv.pwr_eq (by decide),
    hz.pwr_eq (by decide), hy]

/-! ### The host's level -/

theorem Dev.shedreqWrite_level {d : Dev} {v : Word} (h : v.toNat < 7) : d.shedreqWrite v = d.hostLevel v.toNat := by
  have hhigh : v >>> 3 = 0 := by
    apply BitVec.eq_of_toNat_eq
    rw [BitVec.toNat_ushiftRight, Nat.shiftRight_eq_div_pow]
    simp
    omega
  have hseven : v &&& 7 ≠ 7 := by
    intro h7
    have hnat : v.toNat % 2 ^ 3 = 7 := by
      rw [← Nat.and_two_pow_sub_one_eq_mod]
      exact (BitVec.toNat_and ..).symm.trans (congrArg BitVec.toNat h7)
    omega
  refine Dev.guard_of ?_
  rw [hhigh, when', if_neg (by decide), when', if_neg (by simpa using hseven), List.append_nil]

theorem Dev.shedreqWrite_seven (d : Dev) : d.shedreqWrite 7 = d.reject pgPWR 0x1008 eRANGE := rfl

/-- Settles O28: a sample, a request or a fall moves its own level, and the effective one follows it. -/
theorem powerFollowsItsSamples : Obligations.PowerFollowsItsSamples := by
  unfold Obligations.PowerFollowsItsSamples
  refine ⟨fun s r mv power hporst htrip => ?supply, fun s t k hbelow ht hk => ?fall, fun s t n hporst htrip ht => ?temp,
    fun s v ht hv => .of_hostWr rfl ht ?host,
    fun s ht => .of_rejected rfl ht s.dev.shedreqWrite_seven fun e hrej hframe => ⟨hrej, hframe.pwr_eq (by decide)⟩,
    fun s b hstopped hresume hports hb => ?boundary⟩
  case supply =>
    refine .of_settled (f := fun d => d.supplySample r mv power) rfl ?_
    obtain ⟨hmv, hhost, hthermal, hlevel⟩ := s.dev.railSampled_pwr r mv
    rw [Dev.settle_pwr, Dev.supplySample_eq r mv power hporst htrip]
    generalize s.dev.railSampled r mv = x at *
    have hpwr : ((x.setReg (bar pgPWR 0x1024) (BitVec.ofNat 32 (power % 65536))).peak pgPWR 0x148 (power % 65536)).pwr = x.pwr := rfl
    generalize (x.setReg (bar pgPWR 0x1024) (BitVec.ofNat 32 (power % 65536))).peak pgPWR 0x148 (power % 65536) = e at *
    obtain ⟨-, hhost', hthermal', -, hmv', -, -⟩ := e.levelNow_facts
    obtain ⟨hhigh, hrise⟩ := e.levelNow_highest
    rw [hmv', hhost', hthermal', hpwr, hmv, hhost, hthermal]
    rw [hpwr, hlevel] at hrise
    exact ⟨Tab.get_set_self .., hhigh, hrise, rfl, rfl⟩
  case fall =>
    refine .of_settled (f := Dev.shedFallAll) rfl ?_
    rw [Dev.settle_pwr]
    exact Dev.shedFallAll_facts hbelow ht hk
  case temp =>
    refine .of_settled (f := fun d => d.tempSample t n) rfl ?_
    obtain ⟨e, w, heq, hpwr⟩ := Dev.tempSample_eq n hporst htrip ht
    obtain ⟨-, -, hthermal, -, -, htj, -⟩ := e.levelNow_facts
    obtain ⟨hhigh, -⟩ := e.levelNow_highest
    obtain ⟨h5, h2, h0⟩ := thermalLevel_bounds s.dev.pwr.thermal t.toInt
    rw [Dev.settle_pwr, heq, htj, e.levelNow_sensor, hthermal, hpwr]
    exact ⟨rfl, rfl, h5, h2, h0, hhigh⟩
  case host =>
    rw [Dev.settle_pwr, Dev.shedreqWrite_level hv]
    exact s.dev.hostLevel_facts _
  case boundary =>
    refine .of_settled (f := Dev.resumingBoundary) rfl ?_
    rw [Dev.settle_bmf, Dev.settle_pwr]
    exact Dev.resumingBoundary_facts hstopped hresume hb hports

end Sys2Proof.Machine
/-! PROOFS. START (chapter 02): S0 lies on the plate's sheet grid (R23), and CMDARG0 and CMDARG1 read it once the units have
started. -/

namespace Sys2Proof.Machine

/-! ### The sheet grid -/

theorem Req.ks_pos (r : Req) : 0 < r.ks := Nat.pow_pos (by decide)

/-- The first SFN of a grid whose step divides the range of SFN lies on it, and less than a step ahead. -/
theorem nextGrid_aligned (s a : Sfn) {m : Nat} (hm : 0 < m) (hdvd : m ∣ 2 ^ 48) :
    (nextGrid s a 0 m - a).toNat % m = 0 ∧ (nextGrid s a 0 m - s).toNat < m := by
  have hs : s + BitVec.ofNat 48 0 = s := by simp
  unfold nextGrid
  rw [hs]
  by_cases hr : (s - a).toNat % m = 0
  · rw [if_pos hr, BitVec.sub_self]
    exact ⟨hr, hm⟩
  · rw [if_neg hr]
    have hlt : (s - a).toNat % m < m := Nat.mod_lt _ hm
    generalize hk : m - (s - a).toNat % m = k
    have hshift : s + BitVec.ofNat 48 k - a = s - a + BitVec.ofNat 48 k := by
      rw [BitVec.sub_eq_add_neg, BitVec.sub_eq_add_neg, BitVec.add_assoc, BitVec.add_comm (BitVec.ofNat 48 k), ← BitVec.add_assoc]
    have hgap : s + BitVec.ofNat 48 k - s = BitVec.ofNat 48 k := by
      rw [BitVec.add_comm, BitVec.add_sub_cancel]
    rw [hshift, hgap, BitVec.toNat_add, BitVec.toNat_ofNat, Nat.add_mod_mod, Nat.mod_mod_of_dvd _ hdvd]
    refine ⟨?_, Nat.lt_of_le_of_lt (Nat.mod_le _ _) (by omega)⟩
    have hsum : (s - a).toNat + k = m * ((s - a).toNat / m + 1) := by
      have := Nat.div_add_mod (s - a).toNat m
      rw [Nat.mul_add, Nat.mul_one]
      omega
    rw [hsum]
    exact Nat.mul_mod_right ..

theorem Dev.startS0_aligned {d : Dev} (h : d.startReq.kslog ≤ 48) :
    (d.startS0 - BitVec.ofNat 48 d.startReq.sheetOff).toNat % d.startReq.ks = 0 ∧
      (d.startS0 - d.startArg).toNat < d.startReq.ks :=
  nextGrid_aligned _ _ (Req.ks_pos _) (Nat.pow_dvd_pow 2 h)

/-! ### The words of the SYS page -/

/-- The stored words of the SYS page are as they were. -/
def SysWords (d e : Dev) : Prop := ∀ a, a < 0x10000 → e.reg a = d.reg a

section
variable {d e d0 : Dev} {T : List Part}

theorem SysWords.refl (d : Dev) : SysWords d d := fun _ _ => rfl

theorem SysWords.trans (h : SysWords d0 d) (k : SysWords d e) : SysWords d0 e := fun a ha => (k a ha).trans (h a ha)

theorem SysWords.of_frame (h : Frame T d e) (hT : Part.regs ∉ T) : SysWords d e := fun a ha => by
  have hbelow : ¬ bar pgHIF 0x5000 ≤ a := by simp only [bar, pgHIF]; omega
  exact h.reg_eq hT (by rw [isPba, decide_eq_false hbelow]; rfl)

theorem SysWords.ite {c : Prop} [Decidable c] (h : SysWords d0 d) (k : SysWords d0 e) : SysWords d0 (if c then d else e) := by
  split <;> assumption

/-- A word of another page is written. -/
theorem SysWords.setReg {b : Nat} {v : Word} (hb : 0x10000 ≤ b) : SysWords d (d.setReg b v) := fun a ha => by
  rw [Dev.reg_setReg, if_neg (by omega)]

theorem SysWords.foldl {α : Type} {f : Dev → α → Dev} (l : List α) (k : ∀ e a, SysWords e (f e a)) : SysWords d (l.foldl f d) := by
  induction l generalizing d with
  | nil => exact .refl d
  | cons a l ih => exact (k d a).trans ih

end

theorem Dev.clearLoopbacks_sysWords (d : Dev) : SysWords d d.clearLoopbacks := by
  refine .foldl _ fun e n => .ite (.refl e) ?_
  have hlane : 0x10000 ≤ laneAddr n 0 := by simp only [laneAddr, bar, pgLNB]; omega
  have hset : SysWords e (e.setReg (laneAddr n 0) (e.reg (laneAddr n 0) &&& 0x2)) := .setReg hlane
  exact .ite (hset.trans (.of_frame Dev.setLane_frame (by decide))) hset

theorem Dev.startUnits_sysWords (d : Dev) (took same : Bool) : SysWords d (d.startUnits took same) := by
  unfold Dev.startUnits
  extract_lets lnb ing acc x y z
  have hx : Frame [.lnb, .ing, .acc] d x := Frame.upd_lnb_ing_acc (Frame.refl _ _) (by decide) (by decide) (by decide)
  have hy : Frame [.ing, .dkl, .hat] x y :=
    ((Dev.fillBuckets_frame.mono (by decide)).trans (Dev.dklStart_frame.mono (by decide))).trans (Dev.hatStart_frame.mono (by decide))
  have hz : Frame [.hat] y z := .ite Dev.hatTakeover_frame (.refl _ _)
  have hunits : Frame [.bmf, .trg, .bur] z z.bmfStart.trgStart.burStart :=
    ((Dev.bmfStart_frame.mono (by decide)).trans (Dev.trgStart_frame.mono (by decide))).trans (Dev.burStart_frame.mono (by decide))
  exact (SysWords.of_frame hx (by decide)).trans <| (SysWords.of_frame hy (by decide)).trans <|
    (SysWords.of_frame hz (by decide)).trans <| (SysWords.of_frame hunits (by decide)).trans (Dev.clearLoopbacks_sysWords _)

theorem Dev.takeOwn_sysWords (d : Dev) (o : Option Nat) (silence : Bool) : SysWords d (d.takeOwn o silence) := by
  unfold Dev.takeOwn
  extract_lets n x pair y z
  have hx : SysWords d x := .setReg (by decide)
  have hy : SysWords x y := fun _ _ => rfl
  have hz : SysWords y z := by cases o <;> exact fun _ _ => rfl
  exact hx.trans <| hy.trans <| hz.trans <| (SysWords.of_frame Dev.egClear_frame (by decide)).trans <|
    (SysWords.of_frame Dev.raise_frame (by decide)).trans (SysWords.of_frame Dev.emit_frame (by decide))

/-! ### START -/

theorem Dev.start_words (d : Dev) : d.start.reg (bar pgSYS 0x100C) = d.startS0.setWidth 32 ∧
    d.start.reg (bar pgSYS 0x1010) = (d.startS0 >>> 32).setWidth 32 := by
  unfold Dev.start
  extract_lets s0 join took old x same src y z u p
  have hz : z.reg (bar pgSYS 0x100C) = d.startS0.setWidth 32 ∧ z.reg (bar pgSYS 0x1010) = (d.startS0 >>> 32).setWidth 32 := by
    simp only [z, Dev.reg_setReg]
    exact ⟨rfl, rfl⟩
  have hu : SysWords z u := (z.startUnits_sysWords took same).trans (.of_frame Dev.setState_frame (by decide))
  clear_value u z
  have hend (q : PairSt) : SysWords u (if !u.paired then u else if join then { u with pair := q } else u.takeOwn none false) :=
    .ite (.refl u) (.ite (fun _ _ => rfl) (u.takeOwn_sysWords none false))
  exact ⟨((hu.trans (hend _)) _ (by decide)).trans hz.1, ((hu.trans (hend _)) _ (by decide)).trans hz.2⟩

/-- Settles O8: what START does, and what the end of the command leaves of it. -/
theorem startEntersRunning : Obligations.StartEntersRunning := by
  unfold Obligations.StartEntersRunning
  intro own s hpass herrs
  refine .of_cmd (o := own) (e := s.dev.start) rfl hpass (Dev.cmdDo_nil herrs)
    (congrArg CmdStat.gen (Frame.cmdstat_eq Dev.start_frame (by decide))) ?_
  obtain ⟨hstate, hrun, hsheets, hreams⟩ := s.dev.start_facts
  obtain ⟨hlo, hhi⟩ := s.dev.start_words
  rw [Frame.state_eq Dev.ended_frame (by decide), Frame.sheetcnt_eq Dev.ended_frame (by decide),
    Frame.reamcnt_eq Dev.ended_frame (by decide), Frame.run_eq Dev.ended_frame (by decide),
    Frame.reg_eq Dev.ended_frame (by decide) (by decide), Frame.reg_eq Dev.ended_frame (by decide) (by decide), hrun]
  exact ⟨hstate, hsheets, hreams, rfl, rfl, rfl, rfl, hlo, hhi, Dev.startS0_aligned⟩

end Sys2Proof.Machine
/-! PROOFS. Ownership of the pair (chapter 17): what taking and giving up ownership leave, and the events that bring either
(R458 to R462, R465, R468 to R471). -/

namespace Sys2Proof.Machine

/-! ### What taking ownership leaves -/

/-- The pair's state of a module that has become OWNER (R457). -/
def PairSt.taken (p : PairSt) (silence : Bool) : PairSt :=
  { p with state := .owner, ownOut := true, bySilence := silence, handing := false, fellAt := none, handoffTimeout := false
           handoffRx := false, leaseEnd := none }

/-- The device as ownership is taken, before it is told: the pair's state and EPOCH. -/
def Dev.tookOwn (d : Dev) (silence : Bool) : Dev :=
  { d.setReg (bar pgPAIR 0x100C) (BitVec.ofNat 32 (max d.epoch d.pair.peerEpoch.toNat + 1)) with pair := d.pair.taken silence }

theorem Dev.takeOwn_eq (d : Dev) (o : Nat) (silence : Bool) : d.takeOwn (some o) silence =
    ((((d.tookOwn silence).bump pgPAIR o).egClear.raise pgPAIR 0x1).emit (.land "OWN_OUT" true)) := rfl

/-- What is told of a new owner leaves its state and its counters. -/
theorem Dev.tookOwn_told {d : Dev} {o : Nat} {silence : Bool} :
    Frame [.pba, .pirq, .out, .bmf] ((d.tookOwn silence).bump pgPAIR o) (d.takeOwn (some o) silence) := by
  rw [Dev.takeOwn_eq]
  exact ((Dev.egClear_frame.mono (by decide)).trans (Dev.raise_frame.mono (by decide))).trans (Dev.emit_frame.mono (by decide))

theorem Dev.takeOwn_pair (d : Dev) (o : Nat) (silence : Bool) : (d.takeOwn (some o) silence).pair = d.pair.taken silence :=
  Dev.tookOwn_told.pair_eq (by decide)

theorem Dev.takeOwn_state (d : Dev) (o : Nat) (silence : Bool) : (d.takeOwn (some o) silence).sys.state = d.sys.state :=
  Dev.takeOwn_frame.state_eq (by decide)

theorem Dev.takeOwn_cnt (d : Dev) (o : Nat) (silence : Bool) : (d.takeOwn (some o) silence).cnt pgPAIR o = d.cnt pgPAIR o + 1 := by
  have hlive : (d.takeOwn (some o) silence).cnt pgPAIR o = ((d.tookOwn silence).bump pgPAIR o).cnt pgPAIR o :=
    congrArg (Tab.get 0 · (bar pgPAIR o)) (Dev.tookOwn_told.live_eq (by decide))
  rw [hlive, Dev.cnt_bump, if_pos rfl]
  rfl

theorem Dev.takeOwn_epoch (d : Dev) (o : Nat) (silence : Bool) :
    (d.takeOwn (some o) silence).epoch = (max d.epoch d.pair.peerEpoch.toNat + 1) % 2 ^ 32 := by
  have hreg : (d.takeOwn (some o) silence).reg (bar pgPAIR 0x100C) = (d.tookOwn silence).reg (bar pgPAIR 0x100C) :=
    Dev.tookOwn_told.reg_eq (by decide) (by decide)
  have htook : (d.tookOwn silence).reg (bar pgPAIR 0x100C) = BitVec.ofNat 32 (max d.epoch d.pair.peerEpoch.toNat + 1) :=
    (Dev.reg_setReg ..).trans (if_pos rfl)
  rw [Dev.epoch, hreg, htook, BitVec.toNat_ofNat]

/-- In a run a new owner stays one when the block settles. -/
theorem Dev.takeOwn_settle_pair {d : Dev} (o : Nat) (silence : Bool) (h : noStepState d.sys.state = true) :
    (d.takeOwn (some o) silence).settle.pair = d.pair.taken silence := by
  rw [Dev.settle_pair_inRun (by rw [Dev.takeOwn_state]; exact h) (by rw [Dev.takeOwn_pair]; exact PairState.noConfusion), Dev.takeOwn_pair]

theorem Dev.takeOwn_owns {d : Dev} (o : Nat) (silence : Bool) (h : noStepState d.sys.state = true) :
    (d.takeOwn (some o) silence).settle.owns (max d.epoch d.pair.peerEpoch.toNat + 1) := by
  refine ⟨?_, ?_, ?_⟩
  · rw [Dev.takeOwn_settle_pair o silence h]; rfl
  · rw [Dev.takeOwn_settle_pair o silence h]; rfl
  · exact (congrArg BitVec.toNat (Dev.settle_reg _ (by decide))).trans (d.takeOwn_epoch o silence)

theorem Dev.eligibleNoLink_running {d : Dev} (h : d.eligibleNoLink = true) : d.pair.state = .ready ∧ d.sys.state = .running := by
  simp only [Dev.eligibleNoLink, Bool.and_eq_true, beq_iff_eq] at h
  obtain ⟨⟨⟨⟨hready, hrunning⟩, -⟩, -⟩, -⟩ := h
  exact ⟨hready, hrunning⟩

theorem Dev.eligible_running {d : Dev} (h : d.eligible = true) : d.pair.state = .ready ∧ d.sys.state = .running :=
  Dev.eligibleNoLink_running (Bool.and_eq_true_iff.1 h).1

theorem Dev.eligibleNoLink_inRun {d : Dev} (h : d.eligibleNoLink = true) : noStepState d.sys.state = true := by
  rw [(Dev.eligibleNoLink_running h).2]; rfl

/-! ### What giving ownership up leaves -/

/-- A page below those of the lanes keeps its counters when a frame leaves. -/
theorem Dev.sendFrame_cnt_low (d : Dev) (n : Nat) (f : List Byte) {p o : Nat} (hp : p < pgLNB) (ho : o < 0x10000) :
    (d.sendFrame n f).cnt p o = d.cnt p o := by
  unfold Dev.sendFrame
  split
  · have hne : bar p o ≠ bar (lanePage n) (0x100 + 0x40 * (n % 16) + 0x38) := by
      unfold lanePage bar
      have : (p + 1) * 0x10000 ≤ (pgLNB + n / 16) * 0x10000 := Nat.mul_le_mul_right _ (by omega)
      omega
    unfold Dev.laneCnt
    rw [Dev.cnt_bump, if_neg hne]
    rfl
  · rfl

theorem Dev.ctrlSend_cnt_low (d : Dev) (kind ref : Nat) (rest : List Byte) {p o : Nat} (hp : p < pgLNB) (ho : o < 0x10000) :
    (d.ctrlSend kind ref rest).cnt p o = d.cnt p o := by
  have hfold (f : Dev → Nat → List Byte) (l : List Nat) (e : Dev) :
      (l.foldl (fun e n => e.sendFrame n (f e n)) e).cnt p o = e.cnt p o := by
    induction l generalizing e with
    | nil => rfl
    | cons n l ih => rw [List.foldl_cons, ih, Dev.sendFrame_cnt_low _ _ _ hp ho]
  exact hfold _ _ _

/-- The pair's state of an owner that has yielded in a run (R455, R460). -/
def PairSt.yielded (p : PairSt) : PairSt :=
  { p with state := .ready, ownOut := false, handing := false, bySilence := false, leaseEnd := none }

/-- An owner that yields in a run becomes STANDBY_READY, and its land falls. -/
theorem Dev.giveUp_owner {d : Dev} (hown : d.pair.state = .owner) (hrun : noStepState d.sys.state = true) : ∃ x : Dev,
    (d.giveUp true).pair = x.pair.yielded ∧ (d.giveUp true).sys.state = d.sys.state ∧
      .land "OWN_OUT" false ∈ (d.giveUp true).sys.out ∧ ∀ o, o < 0x10000 → o ≠ 0x130 →
        (d.giveUp true).cnt pgPAIR o = d.cnt pgPAIR o := by
  have hstate : (d.giveUp true).sys.state = d.sys.state := Dev.giveUp_frame.state_eq (by decide)
  revert hstate
  unfold Dev.giveUp
  rw [if_neg (not_not.2 hown)]
  extract_lets x st src y
  intro hstate
  have hsent : x = d.ctrlSend 3 0 (leBytes 4 d.epoch) := if_pos rfl
  have hxcnt (o : Nat) (ho : o < 0x10000) : x.cnt pgPAIR o = d.cnt pgPAIR o := by
    rw [hsent]; exact d.ctrlSend_cnt_low _ _ _ (by decide) ho
  have hready : st = .ready := by
    simp only [st]
    rw [hsent, Frame.state_eq Dev.ctrlSend_frame (by decide), hrun, if_pos rfl]
  have hy : y.pair = x.pair.yielded := by simp only [y, hready]; rfl
  have hycnt (o : Nat) : y.cnt pgPAIR o = x.cnt pgPAIR o := rfl
  clear_value y x
  have hraised : Frame [.pba, .pirq, .out] (y.bump pgPAIR 0x130) ((y.bump pgPAIR 0x130).raise pgPAIR 0x1) := Dev.raise_frame
  refine ⟨x, (hraised.pair_eq (by decide)).trans hy, hstate, List.mem_cons_self, fun o ho hne => ?_⟩
  have hbar : bar pgPAIR o ≠ bar pgPAIR 0x130 := by unfold bar; omega
  calc Tab.get 0 ((y.bump pgPAIR 0x130).raise pgPAIR 0x1).live (bar pgPAIR o)
      = (y.bump pgPAIR 0x130).cnt pgPAIR o := congrArg (Tab.get 0 · (bar pgPAIR o)) (hraised.live_eq (by decide))
    _ = x.cnt pgPAIR o := by rw [Dev.cnt_bump, if_neg hbar, hycnt]
    _ = d.cnt pgPAIR o := hxcnt o ho

/-! ### Calm through a change of the pair's state -/

/-- Nothing is left to settle after a step that leaves this module offline exactly where it was. -/
theorem Dev.calm_congr {d e : Dev} (hcalm : d.calm = true) (hmctl : e.mctl = d.mctl) (hpaired : e.paired = d.paired)
    (hpair : (e.pair.state == .offline) = (d.pair.state == .offline)) (hstate : e.sys.state = d.sys.state) : e.calm = true := by
  unfold Dev.calm at *
  rw [hmctl, hpaired, hpair, hstate]
  exact hcalm

/-- Nor after one that in a run leaves this module in the pair. -/
theorem Dev.calm_inRun {d e : Dev} (hcalm : d.calm = true) (hmctl : e.mctl = d.mctl) (hrun : noStepState e.sys.state = true)
    (hpair : e.pair.state ≠ .offline) : e.calm = true := by
  unfold Dev.calm at *
  have hdue : d.mctl.snapDue = false := by
    rw [Bool.and_eq_true, Bool.not_eq_true'] at hcalm
    exact hcalm.1
  rw [hmctl, hdue, hrun, beq_false_of_ne hpair]
  simp

/-- An owner is in a run. -/
theorem Dev.owner_inRun {d : Dev} (hcalm : d.calm = true) (hpaired : d.paired = true) (hown : d.pair.state = .owner) :
    noStepState d.sys.state = true := by
  unfold Dev.calm at hcalm
  rw [hpaired, hown] at hcalm
  cases hs : noStepState d.sys.state
  · rw [hs] at hcalm
    simp at hcalm
  · rfl

theorem Dev.giveUp_settle {d : Dev} (hcalm : d.calm = true) (hown : d.pair.state = .owner)
    (hrun : noStepState d.sys.state = true) : (d.giveUp true).settle = d.giveUp true := by
  obtain ⟨x, hpair, hstate, -, -⟩ := Dev.giveUp_owner hown hrun
  refine Dev.settle_calm (Dev.calm_inRun hcalm (Dev.giveUp_frame.mctl_eq (by decide)) (by rw [hstate]; exact hrun) ?_)
  rw [hpair]
  exact PairState.noConfusion

/-! ### The interlock and the lease (R469 to R471) -/

theorem Dev.enterLease_pair (d : Dev) : d.enterLease.pair.lease = true ∧ d.enterLease.pair.state = d.pair.state ∧
    d.enterLease.pair.ilfault = d.pair.ilfault := by
  unfold Dev.enterLease
  split
  · exact ⟨‹_›, rfl, rfl⟩
  · exact ⟨rfl, rfl, rfl⟩

/-- The device once a disagreement is flagged. -/
def Dev.ilFlagged (d : Dev) : Dev :=
  if d.pair.ilfault then d else ({ d with pair.ilfault := true } : Dev).raise pgPAIR 0x4

theorem Dev.ilFlagged_pair (d : Dev) : d.ilFlagged.pair.ilfault = true ∧ d.ilFlagged.pair.state = d.pair.state := by
  unfold Dev.ilFlagged
  split
  · exact ⟨‹_›, rfl⟩
  · rw [Frame.pair_eq Dev.raise_frame (by decide)]
    exact ⟨rfl, rfl⟩

theorem Dev.ilFault_pair (d : Dev) : d.ilFault.pair.ilfault = true ∧ d.ilFault.pair.lease = true ∧
    d.ilFault.pair.state = d.pair.state := by
  obtain ⟨hflag, hkeeps⟩ := d.ilFlagged_pair
  obtain ⟨hlease, hstate, hil⟩ := d.ilFlagged.enterLease_pair
  exact ⟨hil.trans hflag, hlease, hstate.trans hkeeps⟩

theorem Dev.ilFault_raises {d : Dev} (h : d.pair.ilfault = false) : bitAt 2 (d.ilFault.page pgPAIR).pirq = true := by
  have hpirq : (d.ilFault.page pgPAIR).pirq = (d.ilFlagged.page pgPAIR).pirq :=
    Frame.pirq_eq (d := d.ilFlagged) (e := d.ilFlagged.enterLease) Dev.enterLease_frame (by decide) pgPAIR
  rw [hpirq, Dev.ilFlagged, h, if_neg Bool.false_ne_true]
  exact Dev.raise_pirq_bit _ _ (by decide)

/-! ### Silence of the link (R465, R468) -/

theorem Dev.leaseSilence_of_noLease {d : Dev} (h : d.pair.lease = false) : d.leaseSilence = d := by
  rw [Dev.leaseSilence, h]
  rfl

/-- The device once the loss of the link is reported. -/
def Dev.linkLost (d : Dev) : Dev := ({ d with pair.linkUp := false } : Dev).raise pgPAIR 0x8

theorem Dev.linkLost_pair (d : Dev) : d.linkLost.pair = { d.pair with linkUp := false } :=
  Frame.pair_eq (d := { d with pair.linkUp := false }) Dev.raise_frame (by decide)

theorem Dev.linkDown_eq {d : Dev} (hup : d.pair.linkUp = true) (hquiet : d.within d.pair.ctrlAt 999999 = false)
    (hlease : d.pair.lease = false) : d.linkDown = d.linkLost.rematch := by
  rw [Dev.linkDown, hup, hquiet, Dev.leaseSilence_of_noLease hlease]
  rfl

/-- What a rematch leaves of the pair's state. -/
theorem Dev.rematch_pair (d : Dev) : d.rematch.pair.linkUp = d.pair.linkUp ∧
    (d.rematch.pair.state == .offline) = (d.pair.state == .offline) ∧
    (d.pair.state = .ready → d.rematch.pair.state = .matching ∧ d.rematch.pair.streak = 0) := by
  unfold Dev.rematch
  split
  next h => exact ⟨rfl, by rw [h]; rfl, fun _ => ⟨rfl, rfl⟩⟩
  next h => exact ⟨rfl, rfl, fun hr => absurd hr h⟩

/-! ### The events -/

/-- The device with another state of the pair. -/
def Dev.setPair (d : Dev) (p : PairSt) : Dev := { d with pair := p }

theorem Dev.settle_eq_setPair {d e : Dev} {p : PairSt} (he : e = d.setPair p) (hcalm : d.calm = true)
    (hstate : p.state = d.pair.state) : e.settle = d.setPair p := by
  rw [he]
  exact Dev.settle_calm (Dev.calm_congr hcalm rfl rfl (congrArg (· == .offline) hstate) rfl)

theorem Dev.takeAfterHandoff_owns {d : Dev} (hrx : d.pair.handoffRx = true) (he : d.eligible = true)
    (hin : d.pair.lease = true ∨ d.pair.ownIn = false) :
    d.takeAfterHandoff.settle.owns (max d.epoch d.pair.peerEpoch.toNat + 1) := by
  have htake : d.takeAfterHandoff = d.takeOwn (some 0x130) false := by
    rw [Dev.takeAfterHandoff, hrx, he, if_pos]
    rcases hin with h | h <;> simp [h]
  rw [htake]
  exact Dev.takeOwn_owns _ _ (Dev.eligibleNoLink_inRun (Bool.and_eq_true_iff.1 he).1)

/-- OWN_IN is seen, and in a standby its fall is timed or, after a HANDOFF, answered (R458, R460). -/
theorem ownInChange_moves {s : State} (hon : s.dev.unitOn pgPAIR = true) (hcalm : s.dev.calm = true) :
    (s.dev.pair.ownIn = false → Completes (.ownInChange true) s fun e => e.pair.ownIn = true ∧ e.pair.fellAt = none) ∧
    (s.dev.pair.ownIn = true → s.dev.pair.state.standby = true → s.dev.pair.handoffRx = false →
      Completes (.ownInChange false) s fun e => e.pair.ownIn = false ∧ e.pair.fellAt = some s.dev.time.loc ∧
        e.pair.state = s.dev.pair.state) ∧
    (s.dev.pair.ownIn = true → s.dev.pair.handoffRx = true → s.dev.eligible = true → Completes (.ownInChange false) s fun e =>
      e.owns (max s.dev.epoch s.dev.pair.peerEpoch.toNat + 1)) := by
  have hat (level : Bool) : s.dev.ownInAt level = (s.dev.ownInChange level).settle := if_pos hon
  refine ⟨fun hin => .of_run (f := fun d => d.ownInAt true) rfl ?_,
    fun hin hstandby hrx => .of_run (f := fun d => d.ownInAt false) rfl ?_,
    fun hin hrx he => .of_run (f := fun d => d.ownInAt false) rfl ?_⟩
  · have hsee : s.dev.ownInChange true = s.dev.setPair { s.dev.pair with
        ownIn := true, fellAt := none, handoffTimeout := false, handoffRx := false } := by
      rw [Dev.ownInChange, hin]
      rfl
    rw [hat, Dev.settle_eq_setPair hsee hcalm rfl]
    exact ⟨rfl, rfl⟩
  · have hsee : s.dev.ownInChange false = s.dev.setPair { s.dev.pair with
        ownIn := false, fellAt := some s.dev.time.loc, handoffTimeout := false } := by
      rw [Dev.ownInChange, hin, Dev.setPair]
      simp only [Bool.true_eq_false, if_false, Bool.false_eq_true, hstandby, if_true, Dev.takeAfterHandoff, hrx, Bool.false_and]
    rw [hat, Dev.settle_eq_setPair hsee hcalm rfl]
    exact ⟨rfl, rfl, rfl⟩
  · have hsee : s.dev.ownInChange false = Dev.takeAfterHandoff { s.dev with pair := { s.dev.pair with
        ownIn := false, fellAt := some s.dev.time.loc, handoffTimeout := false } } := by
      rw [Dev.ownInChange, hin]
      simp only [Bool.true_eq_false, if_false, Bool.false_eq_true, (Dev.eligible_running he).1, PairState.standby, beq_self_eq_true,
        Bool.or_true, if_true]
    rw [hat, hsee]
    exact Dev.takeAfterHandoff_owns hrx he (.inr rfl)

/-- An owner that stays silent after its land has fallen is lost (R460), and is taken over from (R462). -/
theorem ownerLost_moves {s : State} {t : BitVec 64} (hon : s.dev.unitOn pgPAIR = true) (hcalm : s.dev.calm = true)
    (hfell : s.dev.pair.fellAt = some t) (hrx : s.dev.pair.handoffRx = false) :
    (4000 ≤ s.dev.since t → Completes .handoffTimeout s fun e => e.pair = { s.dev.pair with handoffTimeout := true }) ∧
    (300000 ≤ s.dev.since t → s.dev.within s.dev.pair.ctrlAt 299999 = false → s.dev.eligible = true → s.dev.pairAuto = true →
      s.dev.pair.lease = false → s.dev.pair.ownIn = false → Completes .ownerSilenceTimeout s fun e =>
        e.owns (max s.dev.epoch s.dev.pair.peerEpoch.toNat + 1) ∧ e.cnt pgPAIR 0x138 = s.dev.cnt pgPAIR 0x138 + 1) := by
  refine ⟨fun hlate => .of_onPage_settled (f := fun d => d.handoffLate) rfl hon ?_,
    fun hlate hquiet he hauto hlease hin => .of_onPage_settled (f := fun d => d.ownerSilence) rfl hon ?_⟩
  · have hmark : s.dev.handoffLate = s.dev.setPair { s.dev.pair with handoffTimeout := true } := by
      rw [Dev.handoffLate, hfell, Dev.setPair]
      simp [hlate, hrx]
    rw [Dev.settle_eq_setPair hmark hcalm rfl]
    rfl
  · have hrun := Dev.eligibleNoLink_inRun (Bool.and_eq_true_iff.1 he).1
    have htake : s.dev.ownerSilence = s.dev.takeOwn (some 0x138) false := by
      rw [Dev.ownerSilence, hfell]
      simp [hlate, hquiet, hrx, Dev.takeLost, he, hauto, hlease, hin]
    have hsettle : (s.dev.takeOwn (some 0x138) false).settle = s.dev.takeOwn (some 0x138) false :=
      Dev.settle_calm (Dev.calm_inRun hcalm (Dev.takeOwn_frame.mctl_eq (by decide)) (by rw [Dev.takeOwn_state]; exact hrun)
        (by rw [Dev.takeOwn_pair]; exact PairState.noConfusion))
    have howns := Dev.takeOwn_owns 0x138 false hrun
    rw [htake]
    refine ⟨howns, ?_⟩
    rw [hsettle, Dev.takeOwn_cnt]

/-- A link without CTRL frames goes down, and a standby starts matching again (R465, R468). -/
theorem pairLinkDown_moves {s : State} (hon : s.dev.unitOn pgPAIR = true) (hcalm : s.dev.calm = true)
    (hup : s.dev.pair.linkUp = true) (hquiet : s.dev.within s.dev.pair.ctrlAt 999999 = false) (hlease : s.dev.pair.lease = false) :
    Completes .pairLinkDown s fun e => e.pair.linkUp = false ∧ bitAt 3 (e.page pgPAIR).pirq = true ∧
      (s.dev.pair.state = .ready → e.pair.state = .matching ∧ e.pair.streak = 0) := by
  refine .of_onPage_settled (f := fun d => d.linkDown) rfl hon ?_
  obtain ⟨hlink, hoff, hready⟩ := s.dev.linkLost.rematch_pair
  rw [Dev.linkLost_pair] at hlink hoff hready
  have hframe : Frame [.pba, .pirq, .out] { s.dev with pair.linkUp := false } s.dev.linkLost := Dev.raise_frame
  have hstep : Frame [.pba, .pirq, .out, .pair] { s.dev with pair.linkUp := false } s.dev.linkLost.rematch :=
    (hframe.mono (by decide)).trans (Dev.rematch_frame.mono (by decide))
  have hcalm' : s.dev.linkLost.rematch.calm = true :=
    Dev.calm_congr hcalm (hstep.mctl_eq (by decide)) (congrArg (bitAt 0) (hstep.reg_eq (by decide) (by decide))) hoff
      (hstep.state_eq (by decide))
  rw [Dev.linkDown_eq hup hquiet hlease, Dev.settle_calm hcalm']
  refine ⟨hlink, ?_, hready⟩
  rw [Frame.pirq_eq (d := s.dev.linkLost) Dev.rematch_frame (by decide) pgPAIR]
  exact Dev.raise_pirq_bit _ _ (by decide)

/-- An owner yields when its lease ends (R470) and when it hands over (R460). -/
theorem ownerYields_moves {s : State} (hon : s.dev.unitOn pgPAIR = true) (hcalm : s.dev.calm = true)
    (hpaired : s.dev.paired = true) (hown : s.dev.pair.state = .owner) :
    (s.dev.pair.lease = true → s.dev.leaseHeld = false → Completes .leaseExpire s fun e =>
      e.pair.state = .ready ∧ e.pair.ownOut = false ∧ e.cnt pgPAIR 0x140 = s.dev.cnt pgPAIR 0x140 + 1 ∧ e.mayPublish = false) ∧
    (s.dev.pair.handing = true → Completes .handoffSend s fun e =>
      e.pair.state = .ready ∧ e.pair.ownOut = false ∧ e.pair.handing = false ∧ .land "OWN_OUT" false ∈ e.sys.out) := by
  have hrun := Dev.owner_inRun hcalm hpaired hown
  refine ⟨fun hlease hheld => .of_onPage_settled (f := fun d => d.leaseExpire) rfl hon ?_,
    fun hhand => .of_onPage_settled (f := fun d => d.handoffSend) rfl hon ?_⟩
  · have hyield : s.dev.leaseExpire = (s.dev.bump pgPAIR 0x140).giveUp true := by
      rw [Dev.leaseExpire, hown, hlease, hheld]
      rfl
    have hcalm' : (s.dev.bump pgPAIR 0x140).calm = true := Dev.calm_congr hcalm rfl rfl rfl rfl
    obtain ⟨x, hpair, -, -, hcnt⟩ := Dev.giveUp_owner (d := s.dev.bump pgPAIR 0x140) hown hrun
    rw [hyield, Dev.giveUp_settle hcalm' hown hrun]
    refine ⟨by rw [hpair]; rfl, by rw [hpair]; rfl, ?_, ?_⟩
    · rw [hcnt 0x140 (by decide) (by decide), Dev.cnt_bump, if_pos rfl]
      rfl
    · rw [Dev.mayPublish, hpair, PairSt.yielded]
      exact Bool.and_false _
  · have hyield : s.dev.handoffSend = s.dev.giveUp true := if_pos hhand
    obtain ⟨x, hpair, -, hout, -⟩ := Dev.giveUp_owner hown hrun
    rw [hyield, Dev.giveUp_settle hcalm hown hrun]
    exact ⟨by rw [hpair]; rfl, by rw [hpair]; rfl, by rw [hpair]; rfl, hout⟩

/-- An interlock fault enters lease mode, ILRESET starts a recheck, and a clean second ends it (R469, R471). -/
theorem interlock_moves (s : State) :
    (s.dev.unitOn pgPAIR = true → s.dev.calm = true → s.dev.paired = true → Completes .interlockFault s fun e =>
      e.pair.ilfault = true ∧ e.pair.lease = true ∧ e.pair.state = s.dev.pair.state ∧
        (s.dev.pair.ilfault = false → bitAt 2 (e.page pgPAIR).pirq = true)) ∧
    (s.dev.takes pgPAIR 0x1010 = true → s.dev.calm = true → s.dev.pair.lease = true → Completes .ilreset s fun e =>
      e.pair = { s.dev.pair with recheck := some s.dev.time.loc }) ∧
    ∀ t : BitVec 64, s.dev.unitOn pgPAIR = true → s.dev.calm = true → s.dev.pair.lease = true →
      s.dev.pair.recheck = some t → 1000000000 ≤ s.dev.since t → Completes .leaseModeExit s fun e =>
        e.pair.lease = false ∧ e.pair.ilfault = false ∧ e.pair.recheck = none := by
  refine ⟨fun hon hcalm hpaired => .of_onPage_settled (f := fun d => d.interlockFault) rfl hon ?_,
    fun ht hcalm hlease => .of_hostWr (f := fun d => d.ilReset 1) rfl ht ?_,
    fun t hon hcalm hlease hre hclean => .of_onPage_settled (f := fun d => d.leaseExit) rfl hon ?_⟩
  · have hfault : s.dev.interlockFault = s.dev.ilFault := if_pos hpaired
    obtain ⟨hil, hlease, hstate⟩ := s.dev.ilFault_pair
    have hframe : Frame [.pba, .pirq, .out, .pair] s.dev s.dev.ilFault := Dev.ilFault_frame
    have hcalm' : s.dev.ilFault.calm = true :=
      Dev.calm_congr hcalm (hframe.mctl_eq (by decide)) (congrArg (bitAt 0) (hframe.reg_eq (by decide) (by decide)))
        (by rw [hstate]) (hframe.state_eq (by decide))
    rw [hfault, Dev.settle_calm hcalm']
    exact ⟨hil, hlease, hstate, Dev.ilFault_raises⟩
  · have hstart : s.dev.ilReset 1 = s.dev.setPair { s.dev.pair with recheck := some s.dev.time.loc } := by
      show (if bitAt 0 (1 : Word) && s.dev.pair.lease then _ else _) = _
      rw [hlease]
      rfl
    rw [Dev.settle_eq_setPair hstart hcalm rfl]
    rfl
  · have hexit : s.dev.leaseExit = s.dev.setPair { s.dev.pair with
        lease := false, ilfault := false, recheck := none, leaseEnd := none, ilRun := 0 } := by
      rw [Dev.leaseExit, hre, Dev.setPair]
      simp [hlease, hclean]
    rw [Dev.settle_eq_setPair hexit hcalm rfl]
    exact ⟨rfl, rfl, rfl⟩

/-- Settles O60: each move of ownership is `takeOwn` in a run or `giveUp` of an owner, and nothing is left to settle after it. -/
theorem pairOwnershipMoves : Obligations.PairOwnershipMoves := by
  unfold Obligations.PairOwnershipMoves
  refine ⟨fun s hon hcalm => ownInChange_moves hon hcalm, fun s t hon hcalm hfell hrx => ownerLost_moves hon hcalm hfell hrx,
    fun s hon hcalm hup hquiet hlease => pairLinkDown_moves hon hcalm hup hquiet hlease,
    fun s hon hcalm hpaired hown => ownerYields_moves hon hcalm hpaired hown, fun s hon hlease hauto he hquiet => ?_,
    fun s => (interlock_moves s).1, fun s => (interlock_moves s).2.1, fun s t hon hcalm => (interlock_moves s).2.2 t hon hcalm⟩
  refine .of_onPage_settled (f := fun d => d.leaseSilence) rfl hon ?_
  have hrun := Dev.eligibleNoLink_inRun he
  have htake : s.dev.leaseSilence = s.dev.takeOwn (some 0x138) true := by
    rw [Dev.leaseSilence, hlease, hauto, he, hquiet]
    rfl
  rw [htake]
  exact ⟨Dev.takeOwn_owns _ _ hrun, by rw [Dev.takeOwn_settle_pair _ _ hrun]; rfl⟩

end Sys2Proof.Machine
/-! PROOFS. The time bases and the alarms (R431 to R438): what a step of a base and an alarm leave, and the commands upon them. -/

namespace Sys2Proof.Machine

/-- Settles O57: the write passes its check, and settling leaves the time bases. -/
theorem snapLatchesTheTimeBases : Obligations.SnapLatchesTheTimeBases := by
  unfold Obligations.SnapLatchesTheTimeBases
  intro s ht
  refine .of_hostWr (f := fun d => d.snapWrite 1) rfl ht ?_
  rw [Dev.settle_time]
  rfl

/-! ### Alarms and steps -/

/-- A firing alarm changes the alarms of the time state only. -/
theorem Dev.alarmFire_time (d : Dev) (n : Nat) (step late : Bool) : (d.alarmFire n step late).time =
    { d.time with
      alarms := Tab.set {} d.time.alarms n ((Tab.get ({} : Alarm) d.time.alarms n).fire
        (d.time.now (fld 1 0 (Tab.get ({} : Alarm) d.time.alarms n).ctl)) step late) } := by
  unfold Dev.alarmFire
  extract_lets a i src e
  rw [Frame.time_eq Dev.raise_frame (by decide) (by decide)]
  rfl

theorem Dev.alarmsOnStep_time (d : Dev) (i : Nat) (old : BitVec 64) :
    ∃ al, (d.alarmsOnStep i old).time = { d.time with alarms := al } := by
  unfold Dev.alarmsOnStep
  generalize List.range 8 = l
  induction l generalizing d with
  | nil => exact ⟨_, rfl⟩
  | cons n l ih =>
    rw [List.foldl_cons]
    extract_lets a
    split
    · obtain ⟨al, hal⟩ := ih (d.alarmFire n true false)
      exact ⟨al, by rw [hal, Dev.alarmFire_time]⟩
    · exact ih d

/-- A base once it has stepped by `ns` nanoseconds as base `i`. -/
def Base.stepped (b : Base) (i : Nat) (ns : Int) : Base :=
  { b with stepPend := false, steps := b.steps + 1, stepLast := BitVec.ofInt 64 ns, state := .tracking
           rate := if (i = 0 ∧ b.master = 5) ∨ (i = 3 ∧ b.master = 2) then 0 else b.rate, edges := 0 }

/-- Beside the base that steps, a step changes only alarms. -/
theorem Dev.stepped_time (d : Dev) (i : Nat) (old : BitVec 64) (ns : Int) : ∃ al,
    (d.stepped i old ns).time = { d.time.setBase i ((d.time.base i).stepped i ns) with alarms := al } := by
  unfold Dev.stepped
  extract_lets b b' e
  obtain ⟨al, hal⟩ := ((e.bump pgTIME 0x100).raise pgTIME 0x1).alarmsOnStep_time i old
  refine ⟨al, ?_⟩
  rw [hal, Frame.time_eq Dev.raise_frame (by decide) (by decide)]
  rfl

theorem TimeSt.base_alarms (t : TimeSt) (al : Tab Alarm) (i : Nat) : ({ t with alarms := al } : TimeSt).base i = t.base i := by
  unfold TimeSt.base
  split <;> rfl

theorem Dev.stepped_base (d : Dev) (i : Nat) (old : BitVec 64) (ns : Int) :
    (d.stepped i old ns).time.base i = (d.time.base i).stepped i ns := by
  obtain ⟨al, htime⟩ := d.stepped_time i old ns
  rw [htime, TimeSt.base_alarms, TimeSt.base_setBase]

theorem TimeSt.arr_setBase (t : TimeSt) (i : Nat) (b : Base) : (t.setBase i b).arr = t.arr := by
  unfold TimeSt.setBase
  split <;> rfl

theorem Dev.stepped_arr (d : Dev) (i : Nat) (old : BitVec 64) (ns : Int) : (d.stepped i old ns).time.arr = d.time.arr := by
  obtain ⟨al, htime⟩ := d.stepped_time i old ns
  rw [htime]
  exact TimeSt.arr_setBase ..

theorem Dev.sampleStep_arr (d : Dev) : d.sampleStep.time.arr = d.time.arr := Dev.stepped_arr _ _ _ _

theorem Dev.sampleFollow_arr (d : Dev) : d.sampleFollow.time.arr = d.time.arr := by
  unfold Dev.sampleFollow
  extract_lets b e
  split
  · rfl
  · split
    · rfl
    · exact Dev.sampleStep_arr _

/-- ARRAY takes the value that it steps to, and its base has stepped. -/
theorem Dev.arrayStep_time (d : Dev) (v : BitVec 64) : (d.arrayStep v).time.arr = v ∧
    (d.arrayStep v).time.baseArr = d.time.baseArr.stepped 0 (v - d.time.arr).toInt := by
  unfold Dev.arrayStep
  extract_lets old ns
  refine ⟨?_, ?_⟩
  · rw [Dev.sampleFollow_arr, Dev.stepped_arr]
  · exact (Dev.sampleFollow_base0 _).trans (Dev.stepped_base _ 0 _ _)

/-! ### Selection of a master (R432) -/

theorem Dev.stepped_cfg (d : Dev) (i : Nat) (old : BitVec 64) (ns : Int) :
    ((d.stepped i old ns).time.base i).cfg = (d.time.base i).cfg := by
  rw [Dev.stepped_base]
  rfl

/-- A base that is reselected keeps its BASECFG. -/
theorem Dev.baseReselect_cfg (d : Dev) (i : Nat) (ok : Bool) :
    ((d.baseReselect i ok).time.base i).cfg = (d.time.base i).cfg := by
  unfold Dev.baseReselect
  extract_lets b e off
  have hsel : (e.time.base i).cfg = (d.time.base i).cfg := by
    simp only [e, TimeSt.base_setBase, b]
  have hoff : ((e.time.setBase i off).base i).cfg = (d.time.base i).cfg := by
    rw [TimeSt.base_setBase]
  clear_value e off
  split_ifs with _ _ h0 _ h1 _ h3
  · exact hoff
  · exact hsel
  · subst h0
    refine Eq.trans ?_ hsel
    calc (e.arrayStep b.setval).time.baseArr.cfg
        = (e.time.baseArr.stepped 0 (b.setval - e.time.arr).toInt).cfg := congrArg Base.cfg (e.arrayStep_time b.setval).2
      _ = (e.time.base 0).cfg := rfl
  · exact hsel
  · subst h1
    exact hsel
  · subst h1
    exact (Dev.stepped_cfg _ 1 _ _).trans hsel
  · subst h3
    exact (Dev.stepped_cfg _ 3 _ _).trans hsel
  · exact hsel

theorem Dev.baseCfgWrite_of_legal {d : Dev} {v : Word} {ok : Dev → Nat → Bool} (h : baseCfgErrs d d.time.baseIdx v = []) :
    ((d.baseCfgWrite v ok).time.base d.time.baseIdx).cfg = v := by
  unfold Dev.baseCfgWrite
  rw [Dev.guard_of h]
  extract_lets b e
  have hcfg : (e.time.base d.time.baseIdx).cfg = v := by
    simp only [e, TimeSt.base_setBase]
  clear_value e
  split
  · exact hcfg
  · exact (Dev.baseReselect_cfg ..).trans hcfg

/-- In a run a write of SAMPLE's BASECFG meets only the refusal of R434. -/
theorem baseCfgErrs_sample_inRun {d : Dev} {v : Word} (hi : d.time.baseIdx = 1) (hrun : noStepState d.sys.state = true)
    (hrsvd : v &&& 0xFFF800F8 = 0) (hmaster : fld 2 0 v ≤ 1) (hlo : 1 ≤ fld 18 8 v) (hhi : fld 18 8 v ≤ 1024) :
    firstCode (baseCfgErrs d d.time.baseIdx v) = some eSTATE := by
  have hlow : v &&& 0x00F800F8 = 0 := by
    calc v &&& 0x00F800F8 = v &&& 0xFFF800F8 &&& 0x00F800F8 := by rw [BitVec.and_assoc]; rfl
      _ = 0 := by rw [hrsvd]; rfl
  have hlane : fld 31 24 v = 0 := by
    have hnat : v.toNat &&& 0xFFF800F8 = 0 := congrArg BitVec.toNat hrsvd
    calc v.toNat >>> 24 % 2 ^ 8 = v.toNat >>> 24 &&& 0xFFF800F8 >>> 24 := (Nat.and_two_pow_sub_one_eq_mod _ 8).symm
      _ = 0 := by rw [← Nat.shiftRight_and_distrib, hnat]; rfl
  have hlo' : ¬ fld 18 8 v < 1 := by omega
  have hhi' : ¬ fld 18 8 v > 1024 := by omega
  rw [hi]
  simp only [baseCfgErrs, when', masterOkFor, hlow, hlane, hmaster, hlo', hhi', hrun]
  rfl

/-! ### Measurements of ARRAY's master (R432) -/

/-- A rate within the limits is kept, and every rate is brought within them. -/
theorem clampRate_within (r : Int) : -219902325 ≤ clampRate r ∧ clampRate r ≤ 219902325 ∧
    (-219902325 ≤ r → r ≤ 219902325 → clampRate r = r) := by
  unfold clampRate rateLimit
  omega

/-- A present PTP master takes the permitted step. -/
theorem Dev.measure_step {d : Dev} {v : BitVec 64} {f : Int} (hvalid : d.time.baseArr.mvalid = true)
    (hmaster : d.time.baseArr.master = 1 ∨ d.time.baseArr.master = 2) (hpend : d.time.baseArr.stepPend = true) :
    d.measure 0 v f = d.arrayStep v := by
  unfold Dev.measure
  extract_lets b tau pps w set
  have hb : b = d.time.baseArr := rfl
  have hpps : pps = false := by rcases hmaster with h | h <;> simp [pps, hb, h]
  have hw : w = v := by simp [w, hpps]
  have hno : ¬ (!b.mvalid || decide (b.master = 0)) = true := by rcases hmaster with h | h <;> simp [hb, h, hvalid]
  have hne : b.master ≠ 5 := by rw [hb]; omega
  rw [if_neg hno, if_pos rfl, if_neg hne, if_pos (show b.stepPend = true from hpend), if_neg (by rw [hpps]; decide)]
  exact congrArg d.arrayStep hw

/-- Without one it sets the rate only. -/
theorem Dev.measure_rate {d : Dev} {v : BitVec 64} {f : Int} (hvalid : d.time.baseArr.mvalid = true)
    (hmaster : d.time.baseArr.master = 1 ∨ d.time.baseArr.master = 2) (hpend : d.time.baseArr.stepPend = false) :
    ∃ tau : Int, (d.measure 0 v f).time.arr = d.time.arr ∧ (d.measure 0 v f).time.baseArr.rate =
      clampRate (f + (v - d.time.arr).toInt * 2 ^ 40 / (tau * 10 ^ 9)) := by
  unfold Dev.measure
  extract_lets b tau pps w set
  have hb : b = d.time.baseArr := rfl
  have hpps : pps = false := by rcases hmaster with h | h <;> simp [pps, hb, h]
  have hw : w = v := by simp [w, hpps]
  have hno : ¬ (!b.mvalid || decide (b.master = 0)) = true := by rcases hmaster with h | h <;> simp [hb, h, hvalid]
  have hne : b.master ≠ 5 := by rw [hb]; omega
  have hpend' : ¬ b.stepPend = true := by rw [hb, hpend]; decide
  rw [if_neg hno, if_pos rfl, if_neg hne, if_neg hpend', hw]
  exact ⟨tau, rfl, rfl⟩

theorem masterMeasurement_acts (s : State) (v : BitVec 64) (f : Int) (hon : s.dev.unitOn pgTIME = true)
    (hvalid : s.dev.time.baseArr.mvalid = true)
    (hmaster : s.dev.time.baseArr.master = 1 ∨ s.dev.time.baseArr.master = 2) :
    (s.dev.time.baseArr.stepPend = true → Completes (.masterMeasurement 0 v f) s fun e =>
      e.time.arr = v ∧ e.time.baseArr.stepPend = false ∧ e.time.baseArr.steps = s.dev.time.baseArr.steps + 1 ∧
        e.time.baseArr.state = .tracking) ∧
    (s.dev.time.baseArr.stepPend = false → Completes (.masterMeasurement 0 v f) s fun e =>
      e.time.arr = s.dev.time.arr ∧ -219902325 ≤ e.time.baseArr.rate ∧ e.time.baseArr.rate ≤ 219902325 ∧
        (v = s.dev.time.arr → -219902325 ≤ f → f ≤ 219902325 → e.time.baseArr.rate = f)) := by
  refine ⟨fun hpend => .of_onPage (f := fun d => d.measure 0 v f) rfl hon ?_,
    fun hpend => .of_onPage (f := fun d => d.measure 0 v f) rfl hon ?_⟩
  · obtain ⟨harr, hbase⟩ := s.dev.arrayStep_time v
    rw [Dev.measure_step hvalid hmaster hpend, hbase]
    exact ⟨harr, rfl, rfl, rfl⟩
  · obtain ⟨tau, harr, hrate⟩ := Dev.measure_rate (v := v) (f := f) hvalid hmaster hpend
    rw [hrate]
    obtain ⟨hlo, hhi, hkeeps⟩ := clampRate_within (f + (v - s.dev.time.arr).toInt * 2 ^ 40 / (tau * 10 ^ 9))
    refine ⟨harr, hlo, hhi, fun hv hflo hfhi => ?_⟩
    have hf : f + (v - s.dev.time.arr).toInt * 2 ^ 40 / (tau * 10 ^ 9) = f := by simp [hv]
    rw [hf] at hkeeps ⊢
    exact hkeeps hflo hfhi

/-! ### SAMPLE and the alarms (R434, R437) -/

theorem sampleSlewDone_acts (s : State) (hon : s.dev.unitOn pgTIME = true) (hslew : s.dev.time.baseSmp.state = .slewing)
    (hnear : (s.dev.time.periodsNs s.dev.time.sampleErr).natAbs < 1) : Completes .sampleSlewDone s fun e =>
      e.time.baseSmp.state = .tracking ∧ bitAt 3 (e.page pgTIME).pirq = true ∧ e.time.sfn = s.dev.time.sfn := by
  refine .of_onPage (f := fun d => d.slewDone) rfl hon ?_
  rw [Dev.slewDone, if_pos ⟨hslew, hnear⟩]
  refine ⟨?_, Dev.raise_pirq_bit _ _ (by decide), ?_⟩
  · rw [Frame.time_eq Dev.raise_frame (by decide) (by decide)]
  · rw [Frame.time_eq Dev.raise_frame (by decide) (by decide)]

theorem TimeSt.now_alarms (t : TimeSt) (al : Tab Alarm) (i : Nat) : ({ t with alarms := al } : TimeSt).now i = t.now i := by
  unfold TimeSt.now
  split <;> rfl

/-- The unit as a write of ALMCTL with EN leaves it. -/
def Alarm.armed (a : Alarm) (v : Word) : Alarm := { a with ctl := v, fired := false, stepped := false, late := false, missed := 0 }

/-- A device with alarm unit `n` at `a`. -/
def Dev.setAlarm (d : Dev) (n : Nat) (a : Alarm) : Dev := { d with time.alarms := Tab.set {} d.time.alarms n a }

theorem Dev.alarm_setAlarm (d : Dev) (n : Nat) (a : Alarm) : Tab.get ({} : Alarm) (d.setAlarm n a).time.alarms n = a :=
  Tab.get_set_self ..

theorem Dev.now_setAlarm (d : Dev) (n : Nat) (a : Alarm) (i : Nat) : (d.setAlarm n a).time.now i = d.time.now i :=
  TimeSt.now_alarms ..

/-- A legal write with EN arms the unit, and a late unit fires at once. -/
theorem Dev.almCtlWrite_arms {d : Dev} {n : Nat} {v : Word} (hrsvd : v &&& ~~~(0x33 : Word) = 0) (hen : bitAt 4 v = true)
    (hper : bitAt 5 v = false ∨ (Tab.get ({} : Alarm) d.time.alarms n).per ≠ 0) : d.almCtlWrite n v =
      let a := Tab.get ({} : Alarm) d.time.alarms n
      if reached (fld 1 0 v) (d.time.now (fld 1 0 v)) a.val then (d.setAlarm n (a.armed v)).alarmFire n false true
      else d.setAlarm n (a.armed v) := by
  have hcombo : (bitAt 5 v && (Tab.get ({} : Alarm) d.time.alarms n).per == 0) = false := by
    rcases hper with h | h
    · rw [h]; rfl
    · rw [beq_false_of_ne h, Bool.and_false]
  unfold Dev.almCtlWrite
  extract_lets a
  rw [Dev.guard_ok (by simpa using hrsvd) hcombo, if_pos hen]
  show (if reached _ ((d.setAlarm n (a.armed v)).time.now _) _ then _ else _) = _
  rw [Dev.now_setAlarm]
  rfl

/-- A late firing shows as one. -/
theorem Alarm.fire_late (a : Alarm) (now : BitVec 64) : (a.fire now false true).fired = true ∧ (a.fire now false true).late = true := by
  unfold Alarm.fire
  extract_lets i b
  have hlate : b.late = true := Bool.or_true _
  split
  · exact ⟨rfl, hlate⟩
  · exact ⟨rfl, hlate⟩

theorem almctlWrite_acts (s : State) (n : Fin 8) (v : Word) (ht : s.dev.takes pgTIME (0x1100 + 0x20 * n.val) = true)
    (hrsvd : v &&& ~~~(0x33 : Word) = 0) (hen : bitAt 4 v = true) :
    let a := Tab.get ({} : Alarm) s.dev.time.alarms n
    let late := reached (fld 1 0 v) (s.dev.time.now (fld 1 0 v)) a.val
    (late = false → bitAt 5 v = false ∨ a.per ≠ 0 → Completes (.almctlWrite n v) s fun e =>
      Tab.get {} e.time.alarms n = { a with ctl := v, fired := false, stepped := false, late := false, missed := 0 }) ∧
    (late = true → bitAt 5 v = false → Completes (.almctlWrite n v) s fun e =>
      (Tab.get ({} : Alarm) e.time.alarms n).fired = true ∧ (Tab.get ({} : Alarm) e.time.alarms n).late = true ∧
        bitAt 2 (e.page pgTIME).pirq = true) := by
  intro a late
  refine ⟨fun hlate hper => .of_hostWr (f := fun d => d.almCtlWrite n v) rfl ht ?_,
    fun hlate hone => .of_hostWr (f := fun d => d.almCtlWrite n v) rfl ht ?_⟩
  · have harm : s.dev.almCtlWrite n v = s.dev.setAlarm n (a.armed v) :=
      (Dev.almCtlWrite_arms hrsvd hen hper).trans (if_neg (show ¬ late = true by rw [hlate]; decide))
    rw [harm, Dev.settle_time, Dev.alarm_setAlarm]
    rfl
  · have harm : s.dev.almCtlWrite n v = (s.dev.setAlarm n (a.armed v)).alarmFire n false true :=
      (Dev.almCtlWrite_arms hrsvd hen (.inl hone)).trans (if_pos hlate)
    rw [harm, Dev.settle_time, Dev.settle_pirq _ (by decide), Dev.alarmFire_time]
    dsimp only
    rw [Tab.get_set_self]
    obtain ⟨hfired, hshown⟩ := Alarm.fire_late (Tab.get ({} : Alarm) (s.dev.setAlarm n (a.armed v)).time.alarms n)
      ((s.dev.setAlarm n (a.armed v)).time.now
        (fld 1 0 (Tab.get ({} : Alarm) (s.dev.setAlarm n (a.armed v)).time.alarms n).ctl))
    exact ⟨hfired, hshown, Dev.raise_pirq_bit _ _ (by decide)⟩

/-- A firing that no step forces: a periodic unit goes on to its next value. -/
theorem Alarm.fire_due (a : Alarm) (now : BitVec 64) : (a.fire now false false).fired = true ∧
    (bitAt 5 a.ctl = true → (a.fire now false false).val = a.val + a.per ∧ (a.fire now false false).ctl = a.ctl) := by
  unfold Alarm.fire
  extract_lets i b
  by_cases hp : bitAt 5 b.ctl = true
  · rw [if_pos hp]
    exact ⟨rfl, fun _ => ⟨rfl, rfl⟩⟩
  · rw [if_neg hp]
    exact ⟨rfl, fun h => absurd h hp⟩

theorem alarmFire_acts (s : State) (n : Fin 8) (hon : s.dev.unitOn pgTIME = true) :
    let a := Tab.get ({} : Alarm) s.dev.time.alarms n
    bitAt 4 a.ctl = true → reached (fld 1 0 a.ctl) (s.dev.time.now (fld 1 0 a.ctl)) a.val = true → Completes (.alarmFire n) s fun e =>
      let b := Tab.get ({} : Alarm) e.time.alarms n
      b.fired = true ∧ bitAt 2 (e.page pgTIME).pirq = true ∧ (bitAt 5 a.ctl = true → b.val = a.val + a.per ∧ b.ctl = a.ctl) ∧
        ∀ k, k ≠ n.val → Tab.get ({} : Alarm) e.time.alarms k = Tab.get {} s.dev.time.alarms k := by
  intro a hen hdue
  refine .of_onPage (f := fun d => d.alarmDue n) rfl hon ?_
  have hfire : s.dev.alarmDue n = s.dev.alarmFire n false false := if_pos (by rw [hen, hdue]; rfl)
  obtain ⟨hfired, hnext⟩ := a.fire_due (s.dev.time.now (fld 1 0 a.ctl))
  rw [hfire, Dev.alarmFire_time]
  dsimp only
  rw [Tab.get_set_self]
  exact ⟨hfired, Dev.raise_pirq_bit _ _ (by decide), hnext, fun k hk => Tab.get_set_ne _ _ _ _ _ _ hk⟩

/-- A legal write of BASECFG takes its value (R432), and one of SAMPLE's in a run is rejected (R434). -/
theorem basecfgWrite_acts (s : State) (v : Word) (ht : s.dev.takes pgTIME 0x1044 = true) :
    (baseCfgErrs s.dev s.dev.time.baseIdx v = [] → s.dev.time.baseIdx < 4 → Completes (.basecfgWrite v) s fun e =>
      (e.time.base s.dev.time.baseIdx).cfg = v ∧ e.time.loc = s.dev.time.loc) ∧
    (s.dev.time.baseIdx = 1 → noStepState s.dev.sys.state = true → v &&& 0xFFF800F8 = 0 → fld 2 0 v ≤ 1 → 1 ≤ fld 18 8 v →
      fld 18 8 v ≤ 1024 → Completes (.basecfgWrite v) s fun e => s.dev.rejected e pgTIME 0x1044 eSTATE ∧ e.time = s.dev.time) := by
  constructor
  · intro hlegal _
    refine .of_hostWr (f := fun d => d.baseCfgWrite v Dev.masterPresent) rfl ht ?_
    rw [Dev.settle_time]
    exact ⟨Dev.baseCfgWrite_of_legal hlegal, Dev.baseCfgWrite_frame.loc_eq (by decide)⟩
  · intro hi hrun hrsvd hmaster hlo hhi
    have hreject : s.dev.baseCfgWrite v Dev.masterPresent = s.dev.reject pgTIME 0x1044 eSTATE := by
      unfold Dev.baseCfgWrite
      exact Dev.guard_reject (baseCfgErrs_sample_inRun hi hrun hrsvd hmaster hlo hhi)
    exact .of_rejected (f := fun d => d.baseCfgWrite v Dev.masterPresent) rfl ht hreject fun e hrej hframe =>
      ⟨hrej, hframe.time_eq (by decide) (by decide)⟩

end Sys2Proof.Machine
/-! PROOFS. The timing ports (R439 to R442, R453) and the monitor slot ports (R443 to R448). -/

namespace Sys2Proof.Machine

/-! ### Measurements raise nothing on a timing port's page -/

theorem Dev.alarmFire_pirq (d : Dev) (n : Nat) (step late : Bool) {q : Nat} (hq : q ≠ pgTIME) :
    ((d.alarmFire n step late).page q).pirq = (d.page q).pirq := by
  unfold Dev.alarmFire
  extract_lets a i src e
  have he : ((e.bump pgTIME 0x108).page q).pirq = (d.page q).pirq := rfl
  clear_value e
  rw [Dev.raise_pirq_other _ _ hq, he]

theorem Dev.alarmsOnStep_pirq (d : Dev) (i : Nat) (old : BitVec 64) {q : Nat} (hq : q ≠ pgTIME) :
    ((d.alarmsOnStep i old).page q).pirq = (d.page q).pirq := by
  unfold Dev.alarmsOnStep
  generalize List.range 8 = l
  induction l generalizing d with
  | nil => rfl
  | cons n l ih =>
    rw [List.foldl_cons, ih]
    extract_lets a
    split
    · exact Dev.alarmFire_pirq _ _ _ _ hq
    · rfl

theorem Dev.stepped_pirq (d : Dev) (i : Nat) (old : BitVec 64) (ns : Int) {q : Nat} (hq : q ≠ pgTIME) :
    ((d.stepped i old ns).page q).pirq = (d.page q).pirq := by
  unfold Dev.stepped
  extract_lets b b' e
  have he : ((e.bump pgTIME 0x100).page q).pirq = (d.page q).pirq := rfl
  clear_value e
  rw [Dev.alarmsOnStep_pirq _ _ _ hq, Dev.raise_pirq_other _ _ hq, he]

theorem Dev.sampleFollow_pirq (d : Dev) {q : Nat} (hq : q ≠ pgTIME) : (d.sampleFollow.page q).pirq = (d.page q).pirq := by
  unfold Dev.sampleFollow
  extract_lets b e
  split
  · rfl
  · split
    · rfl
    · exact Dev.stepped_pirq _ _ _ _ hq

theorem Dev.arrayStep_pirq (d : Dev) (v : BitVec 64) {q : Nat} (hq : q ≠ pgTIME) :
    ((d.arrayStep v).page q).pirq = (d.page q).pirq := by
  unfold Dev.arrayStep
  extract_lets old ns
  rw [Dev.sampleFollow_pirq _ hq]
  exact Dev.stepped_pirq _ _ _ _ hq

theorem Dev.measure_array_pirq (d : Dev) (v : BitVec 64) (f : Int) {q : Nat} (hq : q ≠ pgTIME) :
    ((d.measure 0 v f).page q).pirq = (d.page q).pirq := by
  unfold Dev.measure
  extract_lets b tau pps w set
  split
  · rfl
  · rw [if_pos rfl]
    split
    · rfl
    · split
      · split
        · exact Dev.arrayStep_pirq _ _ hq
        · exact Dev.arrayStep_pirq _ _ hq
      · rfl

/-! ### The timing ports -/

/-- The port's state once a message at raw stamp `raw` has given the result `x`. -/
def Dev.portAfter (d : Dev) (p raw : Nat) (x : PtpResult) : EthPort :=
  let e := d.eport p
  { e with rxStamp := if d.swts p then raw else raw - e.rxcorr, offset := BitVec.ofInt 32 (x.offset - e.asym.toInt / 250)
           delay := x.delay, gmid := x.gmid, gmqual := x.gmqual, ptpState := x.state, foreign_ := x.foreign_, sync := e.sync + 1 }

/-- The bit of PIRQ that tells a new grandmaster of port `p`. -/
theorem gmBit (p : Fin 2) : bitAt (2 + p.val) (BitVec.ofNat 32 (2 ^ (2 + p.val))) = true := by
  revert p
  decide

theorem linkBit (p : Fin 2) : bitAt p.val (BitVec.ofNat 32 (2 ^ p.val)) = true := by
  revert p
  decide

/-- What the servo makes of a message is kept, and a new grandmaster is told. -/
theorem Dev.ptpRx_good {d : Dev} (p : Fin 2) (raw : Nat) (x : PtpResult) (hen : bitAt 0 (d.eport p).ctl = true)
    (hlink : (d.eport p).link = true) : (d.ptpRx p raw (some x)).eport p = d.portAfter p raw x ∧
      ((d.eport p).gmid ≠ x.gmid → bitAt (2 + p.val) ((d.ptpRx p raw (some x)).page pgETH).pirq = true) := by
  unfold Dev.ptpRx
  extract_lets e base e1 d1
  have hon : ¬ (!bitAt 0 e.ctl || !e.link) = true := by simp [e, hen, hlink]
  rw [if_neg hon]
  dsimp -zeta only
  extract_lets off moved e2 d2 d3
  have hport : d2.eport p = d.portAfter p raw x := by
    have hql : d2.eth = (d1.setEport p e2).eth := Frame.eth_eq Dev.ptpQl_frame (by decide)
    rw [Dev.eport, hql]
    exact Tab.get_set_self ..
  have htold : d3.eth = d2.eth := by
    simp only [d3]
    split
    · exact Frame.eth_eq (d := d2.bump pgETH (base + 0x20)) Dev.raise_frame (by decide)
    · rfl
  have hraised (hm : moved) : bitAt (2 + p.val) (d3.page pgETH).pirq = true := by
    simp only [d3]
    rw [if_pos hm]
    exact Dev.raise_pirq_bit _ _ (gmBit p)
  have heport (g : Dev) (hg : g.eth = d3.eth) : g.eport p = d.portAfter p raw x := by
    rw [← hport, Dev.eport, hg, htold]
    rfl
  clear_value d3
  split
  · refine ⟨heport _ (Dev.measure_frame.eth_eq (by decide)), fun hm => ?_⟩
    rw [Dev.measure_array_pirq _ _ _ (by decide)]
    exact hraised hm
  · exact ⟨heport _ rfl, hraised⟩

/-- A bad message is counted, and the servo keeps what it had. -/
theorem Dev.ptpRx_bad {d : Dev} (p : Fin 2) (raw : Nat) (hen : bitAt 0 (d.eport p).ctl = true)
    (hlink : (d.eport p).link = true) : ((d.ptpRx p raw none).eport p).offset = (d.eport p).offset ∧
      ((d.ptpRx p raw none).eport p).gmid = (d.eport p).gmid ∧
      (d.ptpRx p raw none).cnt pgETH (0x118 + 0x40 * p.val) = d.cnt pgETH (0x118 + 0x40 * p.val) + 1 := by
  unfold Dev.ptpRx
  extract_lets e base e1 d1
  have hon : ¬ (!bitAt 0 e.ctl || !e.link) = true := by simp [e, hen, hlink]
  rw [if_neg hon]
  dsimp -zeta only
  have hport : (d1.bump pgETH (base + 0x18)).eport p = e1 := Tab.get_set_self ..
  have hbar : bar pgETH (0x118 + 0x40 * p.val) = bar pgETH (base + 0x18) := by
    simp only [bar, base]
    omega
  have hne : bar pgETH (base + 0x18) ≠ bar pgETH base := by
    simp only [bar]
    omega
  rw [hport]
  refine ⟨rfl, rfl, ?_⟩
  rw [Dev.cnt_bump, if_pos hbar, Dev.cnt_bump, if_neg hne]
  exact congrArg (Tab.get 0 d.live · + 1) hbar.symm

theorem timingPorts_act (s : State) (p : Fin 2) (raw : Nat) (hon : s.dev.unitOn pgETH = true)
    (hen : bitAt 0 (s.dev.eport p).ctl = true) (hlink : (s.dev.eport p).link = true) :
    (∀ x : PtpResult, Completes (.ptpMessageRx p raw (some x)) s fun e =>
      (e.eport p).delay = x.delay ∧ (e.eport p).gmid = x.gmid ∧ (e.eport p).gmqual = x.gmqual ∧
        (e.eport p).offset = BitVec.ofInt 32 (x.offset - (s.dev.eport p).asym.toInt / 250) ∧
        ((s.dev.eport p).gmid ≠ x.gmid → bitAt (2 + p.val) (e.page pgETH).pirq = true)) ∧
    Completes (.ptpMessageRx p raw none) s (fun e => (e.eport p).offset = (s.dev.eport p).offset ∧ (e.eport p).gmid = (s.dev.eport p).gmid ∧
      e.cnt pgETH (0x118 + 0x40 * p.val) = s.dev.cnt pgETH (0x118 + 0x40 * p.val) + 1) ∧
    Completes (.ethFrameDrop p) s (fun e => e.eth = s.dev.eth ∧
      e.cnt pgETH (0x110 + 0x40 * p.val) = s.dev.cnt pgETH (0x110 + 0x40 * p.val) + 1) ∧
    (∀ l, Completes (.ptpEventTx p raw l) s fun e => e.sys.out = .eth p l :: s.dev.sys.out ∧
      (s.dev.swts p = false → (e.eport p).txStamp = raw + (if bitAt 1 (s.dev.eport p).ctl then 24600 else 58200))) ∧
    Completes (.ethLinkChange p false) s fun e => (e.eport p).link = false ∧ bitAt p.val (e.page pgETH).pirq = true := by
  refine ⟨fun x => .of_onPage (f := fun d => d.ptpRx p raw (some x)) rfl hon ?_,
    .of_onPage (f := fun d => d.ptpRx p raw none) rfl hon (Dev.ptpRx_bad p raw hen hlink),
    .of_onPage (f := fun d => d.ethDrop p) rfl hon ?_, fun l => .of_onPage (f := fun d => d.ptpTx p raw l) rfl hon ?_,
    .of_onPage (f := fun d => d.ethLink p false) rfl hon ?_⟩
  · obtain ⟨hport, htold⟩ := Dev.ptpRx_good p raw x hen hlink
    rw [hport]
    exact ⟨rfl, rfl, rfl, rfl, htold⟩
  · rw [Dev.ethDrop, if_pos (by rw [hen, hlink]; rfl)]
    exact ⟨rfl, (Dev.cnt_bump ..).trans (if_pos rfl)⟩
  · have hsent : s.dev.ptpTx p raw l = ((s.dev.setEport p { s.dev.eport p with
        txStamp := if s.dev.swts p then raw else raw + (s.dev.eport p).txcorr }).bump pgETH (0x108 + 0x40 * p)).emit (.eth p l) :=
      if_neg (by rw [hen, hlink]; decide)
    rw [hsent]
    refine ⟨rfl, fun hhard => ?_⟩
    have hport (x : EthPort) : (((s.dev.setEport p x).bump pgETH (0x108 + 0x40 * p)).emit (.eth p l)).eport p = x :=
      Tab.get_set_self ..
    rw [hport, hhard]
    rfl
  · have hfall : s.dev.ethLink p false =
        (s.dev.setEport p { s.dev.eport p with link := false }).raise pgETH (BitVec.ofNat 32 (2 ^ p.val)) :=
      if_neg (by rw [hen, hlink]; decide)
    have hport (x : EthPort) : ((s.dev.setEport p x).raise pgETH (BitVec.ofNat 32 (2 ^ p.val))).eport p = x := by
      rw [Dev.eport, Frame.eth_eq Dev.raise_frame (by decide)]
      exact Tab.get_set_self ..
    rw [hfall, hport]
    exact ⟨rfl, Dev.raise_pirq_bit _ _ (linkBit p)⟩

/-! ### The monitor slot ports -/

/-- A block that closes leaves its port with no frame and no words, in the state it had. -/
theorem Dev.mspClose_port (d : Dev) (n flags : Nat) : ((d.mspClose n flags).mport n).words = [] ∧
    ((d.mspClose n flags).mport n).state = (d.mport n).state := by
  unfold Dev.mspClose
  extract_lets p shut fl full e q g
  split
  · rw [Dev.mport_setMport, if_pos rfl]
    exact ⟨rfl, rfl⟩
  · have hset : g.mport n = q := by
      have hraise : g.msp = (e.setMport n q).msp :=
        Frame.msp_eq (d := (e.setMport n q).bump pgMSP (0x108 + 0x20 * n)) Dev.raise_frame (by decide)
      rw [Dev.mport, hraise]
      exact Tab.get_set_self ..
    have hend (k : Dev) (hk : k.msp = g.msp) : (k.mport n).words = [] ∧ (k.mport n).state = (d.mport n).state := by
      have hkq : k.mport n = q := by rw [← hset, Dev.mport, hk]; rfl
      rw [hkq]
      exact ⟨rfl, rfl⟩
    split
    · exact hend _ (Frame.msp_eq (d := g.bump pgMSP (0x118 + 0x20 * n)) Dev.raise_frame (by decide))
    · exact hend _ rfl

/-- A port that adopts a bank keeps its state, and one with no words has none after. -/
theorem Dev.mspAdopt_port (d : Dev) (n : Nat) : ((d.mspAdopt n).mport n).state = (d.mport n).state ∧
    ((d.mport n).words = [] → ((d.mspAdopt n).mport n).words = []) := by
  unfold Dev.mspAdopt
  extract_lets p
  split
  · exact ⟨rfl, id⟩
  next b _ =>
    obtain ⟨hwords, hstate⟩ := d.mspClose_port n 1
    extract_lets g
    have hg : g.mport n = { (d.mspClose n 1).mport n with
        bank := b, next := none, maskgen := ((d.mspClose n 1).mport n).maskgen + 1 } := Tab.get_set_self ..
    have hend (k : Dev) (hk : k.msp = g.msp) : (k.mport n).state = (d.mport n).state ∧
        ((d.mport n).words = [] → (k.mport n).words = []) := by
      have hkg : k.mport n = g.mport n := by rw [Dev.mport, hk]; rfl
      rw [hkg, hg]
      exact ⟨hstate, fun _ => hwords⟩
    split
    · exact hend _ (Frame.msp_eq Dev.modPage_frame (by decide))
    · exact hend _ rfl

/-- Sending a frame's words changes no port. -/
theorem Dev.emitSlots_msp (l : List Nat) (f : Dev → Nat → Out) (d : Dev) :
    (l.foldl (fun d s => d.emit (f d s)) d).msp = d.msp := by
  induction l generalizing d with
  | nil => rfl
  | cons s l ih => exact ih _

/-- The port with the stamp of the frame that starts (R448). -/
def Dev.frameBegun (d : Dev) (p : MspPort) : MspPort :=
  if p.frame = 0 then
    { p with frame := 1, stampArr := d.time.arr, stampFrac := d.time.arrFrac, stampSfn := d.time.sfn.setWidth 32
             stampInv := d.time.baseArr.state != .tracking }
  else { p with frame := p.frame + 1 }

theorem Dev.frameBegun_keeps (d : Dev) (p : MspPort) : (d.frameBegun p).state = p.state ∧ (d.frameBegun p).words = p.words := by
  unfold Dev.frameBegun
  split
  · exact ⟨rfl, rfl⟩
  · exact ⟨rfl, rfl⟩

/-- The device once the frame that runs has ended, and the block that is full. -/
def Dev.frameEnded (d : Dev) (n : Nat) (ws : List Word) : Dev :=
  let d := if (d.mport n).state = .run then d.mspFrameEnd n ws else d
  let d := d.setMport n { d.mport n with state := .run }
  if (d.mport n).words.length = 256 then d.mspClose n 0 else d

/-- At an FS edge of a port that is on, a waiting bank is adopted after the frame's end, and the next frame begins. -/
theorem Dev.mspFrameStart_port {d : Dev} {n : Nat} {ws : List Word} (hen : (d.mport n).en = true)
    (hoff : (d.mport n).state ≠ .off) (hshed : (d.mport n).state ≠ .shed) : (d.mspFrameStart n ws).mport n =
      ((d.frameEnded n ws).mspAdopt n).frameBegun (((d.frameEnded n ws).mspAdopt n).mport n) := by
  have hon : ¬ (!(d.mport n).en || (d.mport n).state == .off || (d.mport n).state == .shed) = true := by
    simp [hen, hoff, hshed]
  unfold Dev.mspFrameStart
  extract_lets p e1 src e2 e3 e4 q q' e5 m
  have hended : e3 = d.frameEnded n ws := rfl
  have hbegun : q' = e4.frameBegun (e4.mport n) := rfl
  have hport : e5.mport n = q' := (Dev.mport_setMport e4 n n q').trans (if_pos rfl)
  have hadopted : e4 = e3.mspAdopt n := rfl
  clear_value e5 q' q e4 e3 e2 src e1
  rw [← hended, ← hadopted, ← hbegun, ← hport, if_neg hon]
  split
  · rfl
  · rw [Dev.mport, Dev.emitSlots_msp]
    rfl

/-- A frame in progress that ends adds its words to the block. -/
theorem Dev.mspFrameEnd_port {d : Dev} {n : Nat} (hframe : 0 < (d.mport n).frame) (ws : List Word) : ∃ w aux,
    (d.mspFrameEnd n ws).mport n = { d.mport n with words := (d.mport n).words ++ [w], aux := aux } := by
  unfold Dev.mspFrameEnd
  extract_lets p m slots w aux
  have hrun : ¬ p.frame = 0 := Nat.ne_of_gt hframe
  rw [if_neg hrun]
  exact ⟨w, aux, (Dev.mport_setMport d n n _).trans (if_pos rfl)⟩

/-- A port with a started clock. -/
def MspPort.clocked (p : MspPort) : MspPort := { p with state := .run }

/-- The end of a frame in a block with room. -/
theorem Dev.frameEnded_run {d : Dev} {n : Nat} {ws : List Word} (hrun : (d.mport n).state = .run)
    (hroom : (d.mport n).words.length < 255) (hframe : 0 < (d.mport n).frame) : ∃ w aux,
    (d.frameEnded n ws).mport n = { d.mport n with words := (d.mport n).words ++ [w], aux := aux } := by
  obtain ⟨w, aux, hend⟩ := Dev.mspFrameEnd_port hframe ws
  refine ⟨w, aux, ?_⟩
  have hclock : ((d.mspFrameEnd n ws).setMport n ((d.mspFrameEnd n ws).mport n).clocked).mport n =
      ({ d.mport n with words := (d.mport n).words ++ [w], aux := aux } : MspPort).clocked :=
    (Dev.mport_setMport _ n n _).trans ((if_pos rfl).trans (congrArg MspPort.clocked hend))
  have hfull : ¬ (((d.mspFrameEnd n ws).setMport n ((d.mspFrameEnd n ws).mport n).clocked).mport n).words.length = 256 := by
    rw [hclock, MspPort.clocked]
    simp only [List.length_append, List.length_singleton]
    omega
  unfold Dev.frameEnded
  rw [if_pos hrun]
  refine Eq.trans (congrArg (Dev.mport · n) (if_neg hfull)) (hclock.trans ?_)
  rw [MspPort.clocked, ← hrun]

/-- A slave that waits for its clock starts on the edge. -/
theorem Dev.frameEnded_clkloss {d : Dev} {n : Nat} {ws : List Word} (hwait : (d.mport n).state = .clkloss)
    (hroom : (d.mport n).words.length < 256) : ((d.frameEnded n ws).mport n).state = .run := by
  have hclock : (d.setMport n (d.mport n).clocked).mport n = (d.mport n).clocked :=
    (Dev.mport_setMport _ n n _).trans (if_pos rfl)
  have hfull : ¬ ((d.setMport n (d.mport n).clocked).mport n).words.length = 256 := by
    rw [hclock]
    exact Nat.ne_of_lt hroom
  have hstopped : ¬ (d.mport n).state = .run := by
    rw [hwait]
    exact MspState.noConfusion
  unfold Dev.frameEnded
  rw [if_neg hstopped]
  exact (congrArg (fun e => (Dev.mport e n).state) (if_neg hfull)).trans (congrArg MspPort.state hclock)

theorem slotBit (n : Fin 4) : bitAt (4 + n.val) (BitVec.ofNat 32 (2 ^ (4 + n.val))) = true := by
  revert n
  decide

/-- A slave without its clock closes its block and waits (R444). -/
theorem Dev.mspClkloss_facts {d : Dev} (n : Fin 4) (hen : (d.mport n).en = true) (hslave : bitAt 1 (d.mport n).cfg = true)
    (hrun : (d.mport n).state = .run) : ((d.mspClkloss n).mport n).state = .clkloss ∧
      bitAt (4 + n.val) ((d.mspClkloss n).page pgMSP).pirq = true ∧ ((d.mspClkloss n).mport n).words = [] := by
  have hon : ¬ (!(d.mport n).en || !bitAt 1 (d.mport n).cfg || (d.mport n).state != .run) = true := by
    rw [hen, hslave, hrun]
    decide
  obtain ⟨hwords, -⟩ := d.mspClose_port n 3
  unfold Dev.mspClkloss
  extract_lets p e src g
  have hwait : g.mport n = { e.mport n with state := .clkloss } := (Dev.mport_setMport e n n _).trans (if_pos rfl)
  obtain ⟨hstate, hempty⟩ := g.mspAdopt_port n
  have hport : ((((g.mspAdopt n).bump pgMSP (0x110 + 0x20 * n.val)).raise pgMSP (BitVec.ofNat 32 (2 ^ (4 + n.val)))).mport n) =
      (g.mspAdopt n).mport n := by
    rw [Dev.mport, Frame.msp_eq Dev.raise_frame (by decide)]
    rfl
  have hclosed : (g.mport n).words = [] := by
    rw [hwait]
    exact hwords
  rw [if_neg hon, hport]
  refine ⟨?_, Dev.raise_pirq_bit _ _ (slotBit n), hempty hclosed⟩
  rw [hstate, hwait]

theorem slotPorts_act (s : State) (n : Fin 4) (ws : List Word) (hon : s.dev.unitOn pgMSP = true)
    (hen : (s.dev.mport n).en = true) :
    ((s.dev.mport n).state = .run → (s.dev.mport n).next = none → (s.dev.mport n).words.length < 255 → 0 < (s.dev.mport n).frame →
      Completes (.mspFrameStart n ws) s fun e => (e.mport n).state = .run ∧ (e.mport n).frame = (s.dev.mport n).frame + 1 ∧
        (e.mport n).words.length = (s.dev.mport n).words.length + 1) ∧
    ((s.dev.mport n).state = .clkloss → (s.dev.mport n).words.length < 256 →
      Completes (.mspFrameStart n ws) s fun e => (e.mport n).state = .run) ∧
    (bitAt 1 (s.dev.mport n).cfg = true → (s.dev.mport n).state = .run → Completes (.mspClkloss n) s fun e =>
      (e.mport n).state = .clkloss ∧ bitAt (4 + n.val) (e.page pgMSP).pirq = true ∧ (e.mport n).words = []) := by
  refine ⟨fun hrun hnext hroom hframe => .of_onPage (f := fun d => d.mspFrameStart n ws) rfl hon ?_,
    fun hwait hroom => .of_onPage (f := fun d => d.mspFrameStart n ws) rfl hon ?_,
    fun hslave hrun => .of_onPage (f := fun d => d.mspClkloss n) rfl hon (Dev.mspClkloss_facts n hen hslave hrun)⟩
  · obtain ⟨w, aux, hended⟩ := Dev.frameEnded_run (ws := ws) hrun hroom hframe
    have hnone : ((s.dev.frameEnded n ws).mport n).next = none := by
      rw [hended]
      exact hnext
    have hadopt : (s.dev.frameEnded n ws).mspAdopt n = s.dev.frameEnded n ws := by
      rw [Dev.mspAdopt, hnone]
    have hgoes : ¬ ((s.dev.frameEnded n ws).mport n).frame = 0 := by
      rw [hended]
      exact Nat.ne_of_gt hframe
    rw [Dev.mspFrameStart_port hen (by rw [hrun]; exact MspState.noConfusion) (by rw [hrun]; exact MspState.noConfusion), hadopt,
      Dev.frameBegun, if_neg hgoes, hended]
    exact ⟨hrun, rfl, List.length_append⟩
  · rw [Dev.mspFrameStart_port hen (by rw [hwait]; exact MspState.noConfusion) (by rw [hwait]; exact MspState.noConfusion),
      (Dev.frameBegun_keeps _ _).1, (Dev.mspAdopt_port _ n).1]
    exact Dev.frameEnded_clkloss hwait hroom

/-- A monitor word takes the host's value; a read-only one rejects it (R445). -/
theorem monwordWrite_acts (s : State) (w : Fin 256) (v : Word) (ht : s.dev.takes pgMSP (0xC000 + 4 * w.val) = true) :
    (w.val < 224 → s.dev.grantHeld 3 = false → Completes (.monwordWrite w v) s fun e => Tab.get 0 e.monword w = v ∧
      ∀ k, k ≠ w.val → Tab.get 0 e.monword k = Tab.get 0 s.dev.monword k) ∧
    (224 ≤ w.val → Completes (.monwordWrite w v) s fun e =>
      s.dev.rejected e pgMSP (0xC000 + 4 * w.val) ePERM ∧ e.monword = s.dev.monword) := by
  constructor
  · intro hw hgrant
    refine .of_hostWr (f := fun d => d.monwordWrite w v) rfl ht ?_
    rw [Dev.settle_monword, Dev.monwordWrite, Dev.guard_one (by rw [hgrant, decide_eq_false (by omega)]; rfl)]
    exact ⟨Tab.get_set_self .., fun k hk => Tab.get_set_ne _ _ _ _ _ _ hk⟩
  · intro hw
    have hreject : s.dev.monwordWrite w v = s.dev.reject pgMSP (0xC000 + 4 * w.val) ePERM :=
      Dev.guard_reject (by rw [decide_eq_true hw]; rfl)
    exact .of_rejected (f := fun d => d.monwordWrite w v) rfl ht hreject fun e hrej hframe =>
      ⟨hrej, hframe.monword_eq (by decide)⟩

/-- Settles O58: each command by what it does to its base, alarm or port. -/
theorem timeAndPortsAdvance : Obligations.TimeAndPortsAdvance := by
  unfold Obligations.TimeAndPortsAdvance
  exact ⟨basecfgWrite_acts, fun s v f hon hvalid hmaster => masterMeasurement_acts s v f hon hvalid hmaster,
    sampleSlewDone_acts, almctlWrite_acts, alarmFire_acts, timingPorts_act, slotPorts_act, monwordWrite_acts⟩

end Sys2Proof.Machine
/-! PROOFS. Messages of the pair that leave (R463, R464), and what a message that is admitted finds when it acts (R52, R465). -/

namespace Sys2Proof.Machine

/-! ### Messages that leave -/

/-- On the one PAIR lane that is UP a message leaves as one frame. -/
theorem Dev.ctrlOut_one {d : Dev} {l : Nat} (q : BitVec 16) (body : List Byte) (hlane : d.pairLanes = [l])
    (hon : d.txOn l = true) : (d.ctrlOut q body).sys.out = .frame l (d.ctrlFrame l q body) :: d.sys.out := by
  have hone : d.ctrlOut q body = d.sendFrame l (d.ctrlFrame l q body) := by
    unfold Dev.ctrlOut
    rw [hlane]
    rfl
  obtain ⟨hout, -, -⟩ := Dev.sendFrame_facts (f := d.ctrlFrame l q body) hon
  rw [hone, hout]

/-- The device as a message takes its SEQ. -/
def Dev.seqTaken (d : Dev) : Dev := { d with pair.txSeq := d.pair.txSeq + 1 }

theorem Dev.ctrlSend_eq (d : Dev) (kind ref : Nat) (rest : List Byte) :
    d.ctrlSend kind ref rest = d.seqTaken.ctrlOut d.pair.txSeq (d.ctrlHead kind ref ++ rest) := rfl

/-- Of the pair's state a message takes a SEQ only. -/
theorem Dev.ctrlSend_pair (d : Dev) (kind ref : Nat) (rest : List Byte) :
    (d.ctrlSend kind ref rest).pair = { d.pair with txSeq := d.pair.txSeq + 1 } := by
  rw [Dev.ctrlSend_eq, Frame.pair_eq Dev.ctrlOut_frame (by decide)]
  rfl

theorem Dev.ctrlSend_sends (d : Dev) (kind ref : Nat) (rest : List Byte) :
    d.sendsCtrl (d.ctrlSend kind ref rest) kind ref rest := by
  refine ⟨by rw [Dev.ctrlSend_pair], fun l hlane hon => ?_⟩
  rw [Dev.ctrlSend_eq, Dev.ctrlOut_one (d := d.seqTaken) _ _ hlane hon]
  rfl

/-- One message that is due is repeated. -/
theorem Dev.ctrlRetransmit_repeats {d : Dev} {m : Unacked} (hone : d.pair.unacked = [m]) (hdue : 50000 ≤ d.since m.at_)
    (htries : m.tries < 20) : (d.ctrlRetransmit).pair.unacked = [{ m with tries := m.tries + 1, at_ := d.time.loc }] ∧
      ∀ l, d.pairLanes = [l] → d.txOn l = true →
        d.ctrlRetransmit.sys.out = .frame l (d.ctrlFrame l m.seq m.body) :: d.sys.out := by
  unfold Dev.ctrlRetransmit
  rw [hone, List.foldl_cons, List.foldl_nil, if_neg (Nat.not_lt.2 hdue), if_pos htries]
  have hpair : (d.ctrlOut m.seq m.body).pair = d.pair := Frame.pair_eq Dev.ctrlOut_frame (by decide)
  have htime : (d.ctrlOut m.seq m.body).time = d.time := Frame.time_eq Dev.ctrlOut_frame (by decide) (by decide)
  have hout (l : Nat) (hlane : d.pairLanes = [l]) (hon : d.txOn l = true) :=
    Dev.ctrlOut_one (d := d) m.seq m.body hlane hon
  generalize d.ctrlOut m.seq m.body = e at *
  refine ⟨?_, fun l hlane hon => hout l hlane hon⟩
  show e.pair.unacked.map _ = _
  rw [hpair, hone, htime]
  exact congrArg (· :: []) (if_pos rfl)

/-- One that was repeated 20 times is given up. -/
theorem Dev.ctrlRetransmit_gives_up {d : Dev} {m : Unacked} (hone : d.pair.unacked = [m]) (hdue : 50000 ≤ d.since m.at_)
    (htries : 20 ≤ m.tries) : d.ctrlRetransmit.pair.unacked = [] ∧ d.ctrlRetransmit.sys.out = d.sys.out ∧
      (d.pair.state = .ready → d.ctrlRetransmit.pair.state = .matching ∧ d.ctrlRetransmit.pair.streak = 0) := by
  have hgiven : d.ctrlRetransmit = (({ d with pair.unacked := [] } : Dev).bump pgPAIR 0x110).rematch := by
    unfold Dev.ctrlRetransmit
    rw [hone, List.foldl_cons, List.foldl_nil, if_neg (Nat.not_lt.2 hdue), if_neg (Nat.not_lt.2 htries), hone]
    simp only [List.filter_cons, bne_self_eq_false, Bool.false_eq_true, if_false, List.filter_nil]
  have hkeeps (e : Dev) : e.rematch.pair.unacked = e.pair.unacked := by
    unfold Dev.rematch
    split
    · rfl
    · rfl
  obtain ⟨-, -, hready⟩ := (({ d with pair.unacked := [] } : Dev).bump pgPAIR 0x110).rematch_pair
  rw [hgiven]
  exact ⟨(hkeeps _).trans rfl, Frame.out_eq (d := ({ d with pair.unacked := [] } : Dev).bump pgPAIR 0x110) Dev.rematch_frame (by decide),
    hready⟩

theorem pairMessages_leave (s : State) (hon : s.dev.unitOn pgPAIR = true) :
    (s.dev.paired = true → Completes .heartbeatSend s (fun e => s.dev.sendsCtrl e 1 0 s.dev.hbBody) ∧
      Completes .digestSend s fun e => s.dev.sendsCtrl e 9 0
        ((List.range 5).flatMap fun i => leBytes 2 (s.dev.cfgTicket i).toNat ++ leBytes 8 (s.dev.cfgCrc i).toNat)) ∧
    (s.dev.pair.lease = true → s.dev.pair.state.standby = true → s.dev.within s.dev.pair.hbAt 1000000 = true →
      Completes .grantSend s fun e => s.dev.sendsCtrl e 2 s.dev.pair.hbSeq.toNat []) ∧
    ∀ m : Unacked, s.dev.pair.unacked = [m] → 50000 ≤ s.dev.since m.at_ →
      (m.tries < 20 → Completes .ctrlRetransmit s fun e =>
        e.pair.unacked = [{ m with tries := m.tries + 1, at_ := s.dev.time.loc }] ∧
          ∀ l, s.dev.pairLanes = [l] → s.dev.txOn l = true → e.sys.out = .frame l (s.dev.ctrlFrame l m.seq m.body) :: s.dev.sys.out) ∧
      (20 ≤ m.tries → Completes .ctrlRetransmit s fun e => e.pair.unacked = [] ∧ e.sys.out = s.dev.sys.out ∧
        (s.dev.pair.state = .ready → e.pair.state = .matching ∧ e.pair.streak = 0)) := by
  refine ⟨fun hpaired => ⟨.of_onPage (f := fun d => d.heartbeatSend) rfl hon ?_, .of_onPage (f := fun d => d.digestSend) rfl hon ?_⟩,
    fun hlease hstandby hrecent => .of_onPage (f := fun d => d.grantSend) rfl hon ?_, fun m hone hdue =>
    ⟨fun htries => .of_onPage (f := fun d => d.ctrlRetransmit) rfl hon (Dev.ctrlRetransmit_repeats hone hdue htries),
      fun htries => .of_onPage (f := fun d => d.ctrlRetransmit) rfl hon (Dev.ctrlRetransmit_gives_up hone hdue htries)⟩⟩
  · rw [Dev.heartbeatSend, if_pos hpaired]
    exact Dev.ctrlSend_sends ..
  · rw [Dev.digestSend, if_pos hpaired]
    exact Dev.ctrlSend_sends ..
  · rw [Dev.grantSend, if_pos (by rw [hlease, hstandby, hrecent]; rfl)]
    exact Dev.ctrlSend_sends ..

/-! ### What an admitted frame's checks leave (R52, R59) -/

/-- What the checks of an admitted frame may change: counters, the inbox, the directory, the buckets and the sheets. -/
structure Judgement where
  live    : Tab (BitVec 64)
  nextc   : Tab (BitVec 64)
  inbox   : List (Nat × List Byte)
  dir     : List DirEnt
  buckets : Tab Bucket
  sheets  : List SheetAcc

/-- The device after the checks of an admitted frame. -/
def Dev.judged (d : Dev) (j : Judgement) : Dev :=
  { d with live := j.live, nextc := j.nextc, lnb.inbox := j.inbox, ing.dir := j.dir, ing.buckets := j.buckets, ing.sheets := j.sheets }

theorem Dev.ingCount_judged (d : Dev) (sheet : Option Sfn) (off : Nat) :
    ∃ live nextc, d.ingCount sheet off = { d with live := live, nextc := nextc } := by
  unfold Dev.ingCount
  split
  · split
    · exact ⟨_, _, rfl⟩
    · exact ⟨_, _, rfl⟩
  · exact ⟨_, _, rfl⟩

/-- An admitted frame is counted, and its class in its sheet. -/
theorem Dev.account_admitted (d : Dev) (l : Nat) (fr : List Byte) (f : Sfn) : ∃ live nextc sheets,
    d.account l fr f 0 = { d with live := live, nextc := nextc, ing.sheets := sheets } := by
  unfold Dev.account
  extract_lets sample sh e
  have hcounts : ∃ live nextc, e = { d with live := live, nextc := nextc } := by
    obtain ⟨live, nextc, h1⟩ := d.ingCount_judged sh (0x100 + 8 * 0)
    obtain ⟨live', nextc', h2⟩ := (d.ingCount sh (0x100 + 8 * 0)).ingCount_judged sh (laneClassOff l 0)
    refine ⟨live', nextc', ?_⟩
    simp only [e]
    rw [h2, h1]
  obtain ⟨live, nextc, he⟩ := hcounts
  clear_value e sh
  subst he
  cases sh with
  | none => exact ⟨live, nextc, d.ing.sheets, rfl⟩
  | some s => exact ⟨live, nextc, _, rfl⟩

/-- The device with other buckets. -/
def Dev.setBuckets (d : Dev) (b : Tab Bucket) : Dev := { d with ing.buckets := b }

theorem Dev.setBuckets_sys (d : Dev) (b : Tab Bucket) : (d.setBuckets b).sys = d.sys := rfl

/-- A check that fails lets no frame in. -/
theorem admits_of_ite {c : Prop} [Decidable c] {n k : Nat} (h : (if c then n else k) = 0) (hn : n ≠ 0 := by decide) :
    ¬ c ∧ k = 0 := by
  by_cases hc : c
  · rw [if_pos hc] at h
    exact absurd h hn
  · rw [if_neg hc] at h
    exact ⟨hc, h⟩

theorem admits_of_ite_fst {c : Prop} [Decidable c] {n : Nat} {e : Dev} {k : Nat × Dev}
    (h : (if c then (n, e) else k).1 = 0) (hn : n ≠ 0 := by decide) : ¬ c ∧ k.1 = 0 :=
  admits_of_ite ((apply_ite Prod.fst c _ _).symm.trans h) hn

theorem admits_of_pair {m : Nat} {e : Dev} (h : (m, e).1 = 0) : m = 0 := h

/-- Check 10 of R52: outside a run no frame is admitted. -/
theorem Dev.checkFrame_admits {d : Dev} {l : Nat} {fr : List Byte} {f : Sfn} (h : d.checkFrame l fr f = 0) :
    noStepState d.sys.state = true := by
  unfold Dev.checkFrame at h
  extract_lets t r role ent e at h
  obtain ⟨-, hcrc⟩ := admits_of_ite h
  obtain ⟨-, hidle⟩ := admits_of_ite hcrc
  obtain ⟨-, hform⟩ := admits_of_ite hidle
  obtain ⟨-, hrole⟩ := admits_of_ite hform
  obtain ⟨-, hbound⟩ := admits_of_ite hrole
  obtain ⟨-, htag⟩ := admits_of_ite hbound
  obtain ⟨-, hmac⟩ := admits_of_ite htag
  obtain ⟨hrun, -⟩ := admits_of_ite hmac
  cases hs : noStepState d.sys.state
  · exact absurd (by rw [hs]; rfl) hrun
  · rfl

/-- The device once lane `l` has paid for a frame. -/
def Dev.paid (d : Dev) (l : Nat) : Dev :=
  d.setBuckets (Tab.set {} d.ing.buckets l { d.refill l with tok := (d.refill l).tok - tokenUnit })

/-- Check 3: a frame on a lane with a bucket is judged further once it is paid for. -/
theorem Dev.classify_paid {d : Dev} {l : Nat} {fr : List Byte} {f : Sfn} (hlaneq : ¬ d.ing.laneq.getLsbD l = true)
    (hoff : ¬ (d.sys.state = .frozen ∨ 5 ≤ d.pwr.level)) (hshort : ¬ fr.length < 40)
    (hbucket : frType fr ≠ 15 ∧ hasBucket (d.roleAt l f)) : d.classify l fr f =
      if (d.refill l).tok < tokenUnit then (3, d.setBuckets (Tab.set {} d.ing.buckets l (d.refill l)))
      else ((d.paid l).checkFrame l fr f, d.paid l) := by
  unfold Dev.classify
  rw [if_neg hlaneq, if_neg hoff, if_neg hshort, if_pos hbucket]
  rfl

/-- A frame of class 0 was admitted by the checks from 4 on, and the checks before it changed the buckets only. -/
theorem Dev.classify_admits {d : Dev} {l : Nat} {fr : List Byte} {f : Sfn} (h : (d.classify l fr f).1 = 0) :
    noStepState d.sys.state = true ∧ ∃ b, (d.classify l fr f).2 = d.setBuckets b := by
  have hchecks := h
  unfold Dev.classify at hchecks
  obtain ⟨hlaneq, hchecks⟩ := admits_of_ite_fst hchecks
  obtain ⟨hoff, hchecks⟩ := admits_of_ite_fst hchecks
  obtain ⟨hshort, hchecks⟩ := admits_of_ite_fst hchecks
  by_cases hbucket : frType fr ≠ 15 ∧ hasBucket (d.roleAt l f)
  · rw [Dev.classify_paid hlaneq hoff hshort hbucket] at h ⊢
    obtain ⟨htok, hpaid⟩ := admits_of_ite_fst h
    rw [if_neg htok]
    have hrun := Dev.checkFrame_admits (d := d.paid l) (admits_of_pair hpaid)
    rw [Dev.paid, Dev.setBuckets_sys] at hrun
    exact ⟨hrun, _, rfl⟩
  · have hfree : d.classify l fr f = (d.checkFrame l fr f, d) := by
      unfold Dev.classify
      rw [if_neg hlaneq, if_neg hoff, if_neg hshort, if_neg hbucket]
    rw [hfree] at h ⊢
    exact ⟨Dev.checkFrame_admits (admits_of_pair h), d.ing.buckets, rfl⟩

theorem Dev.ingest_admits {d : Dev} {l : Nat} {fr : List Byte} (h : (d.ingest l fr).1 = 0) :
    noStepState d.sys.state = true ∧ ∃ j, (d.ingest l fr).2.2 = d.judged j := by
  have hclass : ((d.judging l fr).classify l fr (d.frameSfn fr)).1 = 0 := h
  obtain ⟨hrun, b, hleft⟩ := Dev.classify_admits hclass
  obtain ⟨live, nextc, sheets, hacc⟩ := ((d.judging l fr).setBuckets b).account_admitted l fr (d.frameSfn fr)
  refine ⟨hrun, ⟨live, nextc, d.lnb.inbox.erase (l, fr), (d.judging l fr).ing.dir, b, sheets⟩, ?_⟩
  rw [Dev.ingest_eq]
  dsimp only
  rw [hclass, hleft, hacc]
  rfl

end Sys2Proof.Machine
/-! PROOFS. Messages of the pair that are admitted, and what their first copy does (R460, R464, R467, R470, R472). -/

namespace Sys2Proof.Machine

/-! ### The first copy of an admitted message -/

/-- The pair's state as a message is admitted at `now` (R465). -/
def PairSt.heard (p : PairSt) (now : BitVec 64) (fr : List Byte) : PairSt :=
  { p with ctrlAt := some now, linkUp := true
           peerEpoch := if p.peerEpoch.toNat < (frEpoch fr).toNat then frEpoch fr else p.peerEpoch
           rxSeq := some (frSeq fr) }

/-- The device on which the first copy of a message acts. -/
def Dev.heard (d : Dev) (fr : List Byte) (j : Judgement) : Dev := { d.judged j with pair := d.pair.heard d.time.loc fr }

/-- The first copy of an admitted message acts, in a run. -/
theorem Dev.ctrlRx_hears {d : Dev} {l : Nat} {fr : List Byte} {k : Nat} (h : d.hearsCtrl l fr k) :
    noStepState d.sys.state = true ∧ ∃ j, ∀ act, d.ctrlRx l fr k act = act (d.heard fr j) := by
  obtain ⟨-, hpaired, htype, hkind, hclass, hfirst⟩ := h
  obtain ⟨hrun, j, hleft⟩ := Dev.ingest_admits hclass
  refine ⟨hrun, j, fun act => ?_⟩
  have hctrl : ¬ (frType fr ≠ 4 ∨ ctrlAt fr 0 1 ≠ k) := by
    rw [htype, hkind]
    simp
  unfold Dev.ctrlRx
  rw [if_neg hctrl]
  generalize d.ingest l fr = x at hclass hleft
  obtain ⟨c, f, e⟩ := x
  have hc : c = 0 := hclass
  have he : e = d.judged j := hleft
  subst hc he
  have hin : ¬ ((0 : Nat) ≠ 0 ∨ (!(d.judged j).paired) = true) := by
    rw [show (d.judged j).paired = d.paired from rfl, hpaired]
    simp
  dsimp only
  rw [if_neg hin]
  have hnew : (match d.pair.rxSeq with | some q => after (frSeq fr) q | none => true) = true := by
    cases hq : d.pair.rxSeq with
    | none => rfl
    | some q => exact hfirst q hq
  exact if_pos hnew

/-! ### What settling leaves in a run -/

theorem Dev.pairSync_inRun {d : Dev} (h : noStepState d.sys.state = true) :
    (∃ st, d.pairSync.pair = { d.pair with state := st }) ∧ d.pairSync.pages = d.pages := by
  unfold Dev.pairSync
  by_cases halone : (!d.paired) = true
  · rw [if_pos halone]
    exact ⟨⟨d.pair.state, rfl⟩, rfl⟩
  · rw [if_neg halone, if_pos h]
    split
    · exact ⟨⟨_, rfl⟩, rfl⟩
    · exact ⟨⟨d.pair.state, rfl⟩, rfl⟩

/-- In a run settling changes the pair's state at most from offline. -/
theorem Dev.settle_inRun {d : Dev} (h : noStepState d.sys.state = true) :
    (∃ st, d.settle.pair = { d.pair with state := st }) ∧ ∀ q, (d.settle.page q).pirq = (d.page q).pirq := by
  obtain ⟨e, hframe, hsettle⟩ := d.settle_pre
  obtain ⟨⟨st, hpair⟩, hpages⟩ := Dev.pairSync_inRun (d := e) (by rw [hframe.state_eq (by decide)]; exact h)
  rw [hsettle]
  refine ⟨⟨st, by rw [hpair, hframe.pair_eq (by decide)]⟩, fun q => ?_⟩
  have hpage : e.pairSync.page q = e.page q := congrArg (fun g => Tab.get ({} : Page) g q) hpages
  rw [hpage, hframe.pirq_eq (by decide)]

theorem PairState.standby_ne_offline {p : PairState} (h : p.standby = true) : p ≠ .offline := by
  rintro rfl
  exact Bool.false_ne_true h

/-! ### A heartbeat (R467) -/

/-- What a heartbeat tells, as the pair's state keeps it. -/
def PairSt.said (p : PairSt) : Option (BitVec 64) × BitVec 16 × Bool × BitVec 8 × BitVec 8 × Bool :=
  (p.hbAt, p.hbSeq, p.linkUp, p.peerP, p.peerS, p.platediff)

theorem Dev.rematch_said (d : Dev) : d.rematch.pair.said = d.pair.said := by
  unfold Dev.rematch
  split
  · rfl
  · rfl

theorem Dev.promote_said (d : Dev) : d.promote.pair.said = d.pair.said := by
  unfold Dev.promote
  split
  · rw [Frame.pair_eq Dev.raise_frame (by decide)]
    rfl
  · rfl

theorem Dev.enterLease_said (d : Dev) : d.enterLease.pair.said = d.pair.said := by
  unfold Dev.enterLease
  split
  · rfl
  · rfl

theorem Dev.ilFlagged_said (d : Dev) : d.ilFlagged.pair.said = d.pair.said := by
  unfold Dev.ilFlagged
  split
  · rfl
  · rw [Frame.pair_eq Dev.raise_frame (by decide)]
    rfl

theorem Dev.ilFault_said (d : Dev) : d.ilFault.pair.said = d.pair.said :=
  (d.ilFlagged.enterLease_said).trans d.ilFlagged_said

theorem Dev.hbInterlock_said (d : Dev) (ps : Nat) : (d.hbInterlock ps).pair.said = d.pair.said := by
  unfold Dev.hbInterlock
  extract_lets p differ run src e g
  have he : e.pair.said = d.pair.said := rfl
  have hg : g.pair.said = d.pair.said := by
    simp only [g]
    split
    · exact (Dev.ilFault_said e).trans he
    · exact he
  clear_value g
  split
  · exact (Dev.enterLease_said g).trans hg
  · split
    · exact hg
    · exact hg

theorem Dev.giveUp_said (d : Dev) (handoff : Bool) : (d.giveUp handoff).pair.said = d.pair.said := by
  unfold Dev.giveUp
  split
  · rfl
  · extract_lets e st src g
    have he : e.pair.said = d.pair.said := by
      simp only [e]
      split
      · rw [Dev.ctrlSend_pair]
        rfl
      · rfl
    have hg : g.pair.said = e.pair.said := rfl
    clear_value g e
    show ((g.bump pgPAIR 0x130).raise pgPAIR 0x1).pair.said = _
    rw [Frame.pair_eq Dev.raise_frame (by decide)]
    exact hg.trans he

theorem Dev.takeLost_said (d : Dev) : d.takeLost.pair.said = d.pair.said := by
  unfold Dev.takeLost
  split
  · rw [Dev.takeOwn_pair]
    rfl
  · rfl

theorem Dev.pairShed_said (d : Dev) : d.pairShed.pair.said = d.pair.said := by
  unfold Dev.pairShed
  split
  · exact d.giveUp_said true
  · rfl

/-- PLATEDIFF as a heartbeat decides it. -/
def Dev.plateDiffers (d : Dev) (fr : List Byte) : Bool :=
  decide ((match d.plt.active with | some p => p.hash.toNat | none => 0) ≠ beNat (slice fr 40 32))

/-- The comparison of plate and time leaves what was told, and sets PLATEDIFF. -/
theorem Dev.hbCompare_said (d : Dev) (fr : List Byte) :
    (d.hbCompare fr).pair.said = ({ d.pair with platediff := d.plateDiffers fr } : PairSt).said := by
  unfold Dev.hbCompare
  extract_lets hash pd far run td was src e g
  have he : e.pair.said = ({ d.pair with platediff := d.plateDiffers fr } : PairSt).said := rfl
  have hg : g.pair.said = e.pair.said := by
    simp only [g]
    split
    · rw [Frame.pair_eq Dev.raise_frame (by decide)]
    · rfl
  clear_value g e
  split
  · rw [Dev.rematch_said, hg, he]
  · rw [Dev.promote_said, hg, he]

/-- The pair's state with what a heartbeat tells. -/
def Dev.told (d : Dev) (fr : List Byte) : Dev :=
  { d with pair := { d.pair with
      hbAt := some d.time.loc, hbSeq := frSeq fr, peerP := BitVec.ofNat 8 (ctrlAt fr 1 1), peerS := BitVec.ofNat 8 (ctrlAt fr 2 1)
      peerAnchor := some (BitVec.ofNat 48 (ctrlAt fr 50 6)), bySilence := false } }

/-- What a heartbeat does, on the device that hears it. -/
def Dev.heartbeatActs (fr : List Byte) (d : Dev) : Dev :=
  let e := (((d.told fr).bump pgPAIR 0x100).hbCompare fr).hbInterlock (ctrlAt fr 1 1)
  let peerOwner := ctrlAt fr 1 1 % 8 == 4
  let n := (frEpoch fr).toNat
  if e.pair.state == .owner && peerOwner && (decide (e.epoch < n) || (e.epoch == n && !bitAt 1 e.pairRole)) then e.giveUp true
  else if !peerOwner && e.pair.handoffTimeout then e.takeLost
  else e.pairShed

theorem Dev.heartbeatRx_eq (d : Dev) (l : Nat) (fr : List Byte) :
    d.heartbeatRx l fr = d.ctrlRx l fr 1 (Dev.heartbeatActs fr) := rfl

theorem Dev.heartbeatActs_said (fr : List Byte) (d : Dev) : (Dev.heartbeatActs fr d).pair.said =
    ({ (d.told fr).pair with platediff := d.plateDiffers fr } : PairSt).said := by
  have hcompared : ((((d.told fr).bump pgPAIR 0x100).hbCompare fr).hbInterlock (ctrlAt fr 1 1)).pair.said =
      ({ (d.told fr).pair with platediff := d.plateDiffers fr } : PairSt).said :=
    (Dev.hbInterlock_said _ _).trans (Dev.hbCompare_said _ _)
  unfold Dev.heartbeatActs
  extract_lets e peerOwner n
  rw [← hcompared]
  show _ = e.pair.said
  clear_value e
  split
  · exact e.giveUp_said true
  · split
    · exact e.takeLost_said
    · exact e.pairShed_said

theorem heartbeatRx_tells (s : State) (l : Fin 256) (fr : List Byte) (hears : s.dev.hearsCtrl l fr 1) :
    Completes (.heartbeatRx l fr) s fun e =>
      e.pair.hbAt = some s.dev.time.loc ∧ e.pair.hbSeq = frSeq fr ∧ e.pair.linkUp = true ∧
        e.pair.peerP = BitVec.ofNat 8 (ctrlAt fr 1 1) ∧ e.pair.peerS = BitVec.ofNat 8 (ctrlAt fr 2 1) ∧
        (∀ p, s.dev.plt.active = some p → e.pair.platediff = decide (p.hash.toNat ≠ beNat (slice fr 40 32))) := by
  obtain ⟨hrun, j, hact⟩ := Dev.ctrlRx_hears hears
  have hrx : s.dev.heartbeatRx l fr = Dev.heartbeatActs fr (s.dev.heard fr j) :=
    (Dev.heartbeatRx_eq ..).trans (hact _)
  refine .of_onPage_settled (f := fun d => d.heartbeatRx l fr) rfl hears.1 ?_
  obtain ⟨⟨st, hpair⟩, -⟩ := Dev.settle_inRun (d := s.dev.heartbeatRx l fr)
    (by rw [Dev.heartbeatRx_frame.state_eq (by decide)]; exact hrun)
  have hsaid : (s.dev.heartbeatRx l fr).settle.pair.said =
      (some s.dev.time.loc, frSeq fr, true, BitVec.ofNat 8 (ctrlAt fr 1 1), BitVec.ofNat 8 (ctrlAt fr 2 1), s.dev.plateDiffers fr) := by
    rw [hpair, hrx]
    exact Dev.heartbeatActs_said fr (s.dev.heard fr j)
  obtain ⟨hat, hseq, hlink, hpeerP, hpeerS, hplate⟩ := by simpa only [PairSt.said, Prod.mk.injEq] using hsaid
  refine ⟨hat, hseq, hlink, hpeerP, hpeerS, fun p hp => ?_⟩
  rw [hplate, Dev.plateDiffers, hp]

/-! ### Grants, hand-overs, acknowledgements and digests (R460, R464, R467, R470) -/

theorem grantRx_extends (s : State) (l : Fin 256) (fr : List Byte) (hears : s.dev.hearsCtrl l fr 2)
    (hown : s.dev.pair.state = .owner) (hlease : s.dev.pair.lease = true) :
    Completes (.grantRx l fr) s fun e => e.pair.leaseEnd = some (s.dev.time.loc + 1000000) ∧ e.pair.state = .owner := by
  obtain ⟨hrun, j, hact⟩ := Dev.ctrlRx_hears hears
  have howns : ((s.dev.heard fr j).pair.state == .owner && (s.dev.heard fr j).pair.lease) = true := by
    rw [show (s.dev.heard fr j).pair.state = s.dev.pair.state from rfl, hown]
    exact hlease
  let e := (s.dev.heard fr j).setPair { (s.dev.heard fr j).pair with leaseEnd := some (s.dev.time.loc + 1000000) }
  have hrx : s.dev.grantRx l fr = e := (hact _).trans (if_pos howns)
  have hstays : e.pair.state = .owner := hown
  refine .of_onPage_settled (f := fun d => d.grantRx l fr) rfl hears.1 ?_
  rw [hrx, Dev.settle_pair_inRun (d := e) hrun (by rw [hstays]; exact PairState.noConfusion)]
  exact ⟨rfl, hstays⟩

/-- EPOCH of the partner after a message: the greater one. -/
theorem PairSt.heard_peerEpoch (p : PairSt) (now : BitVec 64) (fr : List Byte) :
    (p.heard now fr).peerEpoch.toNat = max p.peerEpoch.toNat (frEpoch fr).toNat := by
  unfold PairSt.heard
  dsimp only
  split
  · omega
  · omega

theorem handoffRx_acts (s : State) (l : Fin 256) (fr : List Byte) (hears : s.dev.hearsCtrl l fr 3)
    (he : s.dev.eligibleNoLink = true) :
    (s.dev.pair.ownIn = false → Completes (.handoffRx l fr) s fun e =>
      e.owns (max (max s.dev.epoch s.dev.pair.peerEpoch.toNat) (frEpoch fr).toNat + 1)) ∧
    (s.dev.pair.ownIn = true → s.dev.pair.lease = false → Completes (.handoffRx l fr) s fun e =>
      e.pair.state = .ready ∧ e.pair.handoffRx = true) := by
  obtain ⟨hrun, j, hact⟩ := Dev.ctrlRx_hears hears
  obtain ⟨hready, -⟩ := Dev.eligibleNoLink_running he
  let e := (s.dev.heard fr j).setPair { (s.dev.heard fr j).pair with handoffRx := true }
  have hstandby : (s.dev.heard fr j).pair.state.standby = true := by
    rw [show (s.dev.heard fr j).pair.state = s.dev.pair.state from rfl, hready]
    rfl
  have hrx : s.dev.handoffArrives l fr = e.takeAfterHandoff := (hact _).trans (if_pos hstandby)
  have heligible : e.eligible = true := by
    rw [Dev.eligible, show e.eligibleNoLink = s.dev.eligibleNoLink from rfl, he]
    rfl
  refine ⟨fun hin => .of_onPage_settled (f := fun d => d.handoffArrives l fr) rfl hears.1 ?_,
    fun hin hlease => .of_onPage_settled (f := fun d => d.handoffArrives l fr) rfl hears.1 ?_⟩
  · have howns := Dev.takeAfterHandoff_owns (d := e) rfl heligible (.inr hin)
    have hpeer : e.pair.peerEpoch.toNat = max s.dev.pair.peerEpoch.toNat (frEpoch fr).toNat := PairSt.heard_peerEpoch s.dev.pair s.dev.time.loc fr
    rw [hrx, max_assoc, ← hpeer]
    exact howns
  · have hwaits : e.takeAfterHandoff = e := by
      unfold Dev.takeAfterHandoff
      rw [show e.pair.lease = s.dev.pair.lease from rfl, show e.pair.ownIn = s.dev.pair.ownIn from rfl, hlease, hin]
      simp
    have hstate : e.pair.state = .ready := hready
    rw [hrx, hwaits, Dev.settle_pair_inRun (d := e) hrun (by rw [hstate]; exact PairState.noConfusion)]
    exact ⟨hstate, rfl⟩

theorem ackRx_ends (s : State) (l : Fin 256) (fr : List Byte) (hears : s.dev.hearsCtrl l fr 8) :
    Completes (.ackRx l fr) s fun e => e.pair.unacked = s.dev.pair.unacked.filter fun m => m.seq.toNat != ctrlAt fr 4 2 := by
  obtain ⟨hrun, j, hact⟩ := Dev.ctrlRx_hears hears
  have hrx : s.dev.ackRx l fr = (s.dev.heard fr j).setPair { (s.dev.heard fr j).pair with
      unacked := s.dev.pair.unacked.filter fun m => m.seq.toNat != ctrlAt fr 4 2 } := hact _
  refine .of_onPage_settled (f := fun d => d.ackRx l fr) rfl hears.1 ?_
  obtain ⟨⟨st, hpair⟩, -⟩ := Dev.settle_inRun (d := s.dev.ackRx l fr)
    (by rw [Dev.ackRx_frame.state_eq (by decide)]; exact hrun)
  rw [hpair, hrx]
  rfl

/-- A sum of distinct powers of two below `2 ^ n` has the bits that it was built of. -/
theorem bits_of_fold (P : Nat → Prop) [DecidablePred P] (n : Nat) :
    (List.range n).foldl (fun v i => if P i then v + 2 ^ i else v) 0 < 2 ^ n ∧
      ∀ i, i < n → ((List.range n).foldl (fun v i => if P i then v + 2 ^ i else v) 0).testBit i = decide (P i) := by
  induction n with
  | zero => exact ⟨Nat.one_pos, fun i hi => absurd hi (Nat.not_lt_zero i)⟩
  | succ n ih =>
    obtain ⟨hlt, hbits⟩ := ih
    rw [List.range_succ, List.foldl_append, List.foldl_cons, List.foldl_nil]
    generalize (List.range n).foldl (fun v i => if P i then v + 2 ^ i else v) 0 = v at hlt hbits
    by_cases hn : P n
    · rw [if_pos hn, Nat.add_comm v]
      refine ⟨by rw [Nat.pow_succ]; omega, fun i hi => ?_⟩
      rcases Nat.lt_succ_iff_lt_or_eq.1 hi with hlow | rfl
      · rw [Nat.testBit_two_pow_add_gt hlow, hbits i hlow]
      · rw [Nat.testBit_two_pow_add_eq, Nat.testBit_lt_two_pow hlt, decide_eq_true hn]
        rfl
    · rw [if_neg hn]
      refine ⟨by rw [Nat.pow_succ]; omega, fun i hi => ?_⟩
      rcases Nat.lt_succ_iff_lt_or_eq.1 hi with hlow | rfl
      · exact hbits i hlow
      · rw [Nat.testBit_lt_two_pow hlt, decide_eq_false hn]

/-! ### Digests -/

theorem Dev.cfgdiff_rematch (d : Dev) : d.rematch.pair.cfgdiff = d.pair.cfgdiff := by
  unfold Dev.rematch
  split
  · rfl
  · rfl

theorem Dev.cfgdiff_promote (d : Dev) : d.promote.pair.cfgdiff = d.pair.cfgdiff := by
  unfold Dev.promote
  split
  · rw [Frame.pair_eq Dev.raise_frame (by decide)]
  · rfl

theorem digestRx_compares (s : State) (l : Fin 256) (fr : List Byte) (hears : s.dev.hearsCtrl l fr 9) :
    Completes (.digestRx l fr) s fun e => ∀ i, i < 5 → e.pair.cfgdiff.getLsbD i =
      (decide ((s.dev.cfgTicket i).toNat = ctrlAt fr (8 + 10 * i) 2) &&
        decide ((s.dev.cfgCrc i).toNat ≠ ctrlAt fr (10 + 10 * i) 8)) := by
  obtain ⟨hrun, j, hact⟩ := Dev.ctrlRx_hears hears
  refine .of_onPage_settled (f := fun d => d.digestRx l fr) rfl hears.1 ?_
  obtain ⟨⟨st, hpair⟩, -⟩ := Dev.settle_inRun (d := s.dev.digestRx l fr)
    (by rw [Dev.digestRx_frame.state_eq (by decide)]; exact hrun)
  have hdiff : (s.dev.digestRx l fr).pair.cfgdiff = BitVec.ofNat 5 ((List.range 5).foldl (fun v i =>
      if (s.dev.cfgTicket i).toNat = ctrlAt fr (8 + 10 * i) 2 ∧ (s.dev.cfgCrc i).toNat ≠ ctrlAt fr (10 + 10 * i) 8
      then v + 2 ^ i else v) 0) := by
    unfold Dev.digestRx
    rw [hact]
    dsimp only
    split
    · rw [Dev.cfgdiff_rematch]
      rfl
    · rw [Dev.cfgdiff_promote]
      rfl
  intro i hi
  obtain ⟨-, hbits⟩ := bits_of_fold (fun i =>
    (s.dev.cfgTicket i).toNat = ctrlAt fr (8 + 10 * i) 2 ∧ (s.dev.cfgCrc i).toNat ≠ ctrlAt fr (10 + 10 * i) 8) 5
  rw [hpair]
  show (s.dev.digestRx l fr).pair.cfgdiff.getLsbD i = _
  rw [hdiff, BitVec.getLsbD_ofNat, hbits i hi, decide_eq_true hi, Bool.true_and, Bool.decide_and]

end Sys2Proof.Machine
/-! PROOFS. Mirrored tickets, commands and thresholds, and watermarks (R467, R468, R472). -/

namespace Sys2Proof.Machine

/-! ### Mirrored items -/

theorem Dev.heard_shadowDigest (d : Dev) (fr : List Byte) (j : Judgement) (p : Nat) :
    (d.heard fr j).shadowDigest p = d.shadowDigest p := rfl

theorem Dev.heard_ticketErrs (d : Dev) (fr : List Byte) (j : Judgement) (p : Nat) (num : BitVec 16) (w : Nat) (t : Sfn) :
    (d.heard fr j).ticketErrs p num w t = d.ticketErrs p num w t := rfl

/-- What refuses a mirrored ticket is as it was before the message. -/
theorem Dev.heard_mirrorErrs (d : Dev) (fr : List Byte) (j : Judgement) (p : Nat) (num : BitVec 16) (w : Nat) (t : Sfn)
    (crc : BitVec 64) : (d.heard fr j).mirrorErrs p num w t crc = d.mirrorErrs p num w t crc := by
  unfold Dev.mirrorErrs
  rw [Dev.heard_shadowDigest, Dev.heard_ticketErrs]
  rfl

/-- Only a standby is sent mirrored tickets, and none for NOW. -/
theorem Dev.mirrorErrs_nil {d : Dev} {p : Nat} {num : BitVec 16} {w : Nat} {t : Sfn} {crc : BitVec 64}
    (h : d.mirrorErrs p num w t crc = []) : w ≠ 0 ∧ d.pair.state.standby = true := by
  unfold Dev.mirrorErrs at h
  obtain ⟨hhead, hstandby⟩ := List.append_eq_nil_iff.1 h
  obtain ⟨hperm, -⟩ := List.append_eq_nil_iff.1 hhead
  constructor
  · rintro rfl
    simp [when'] at hperm
  · cases hs : d.pair.state.standby
    · rw [hs] at hstandby
      cases hstandby
    · rfl

/-- A refused mirrored item is reported, raises MIRROR, and makes a ready standby match again. -/
theorem Dev.mirrorRefused_facts (d : Dev) (fr : List Byte) (c : Code) :
    bitAt 5 ((d.mirrorRefused fr c).page pgPAIR).pirq = true ∧
      (d.pair.state = .ready → (d.mirrorRefused fr c).pair.state = .matching) := by
  have hraised : bitAt 5 ((((d.ack fr c).bump pgPAIR 0x148).raise pgPAIR 0x20).page pgPAIR).pirq = true :=
    Dev.raise_pirq_bit _ _ (by decide)
  have hpair : (((d.ack fr c).bump pgPAIR 0x148).raise pgPAIR 0x20).pair.state = d.pair.state := by
    have hack : (d.ack fr c).pair.state = d.pair.state := by
      rw [Dev.ack, Dev.ctrlSend_pair]
    rw [Frame.pair_eq Dev.raise_frame (by decide)]
    exact hack
  unfold Dev.mirrorRefused
  generalize ((d.ack fr c).bump pgPAIR 0x148).raise pgPAIR 0x20 = e at hraised hpair
  obtain ⟨-, -, hready⟩ := e.rematch_pair
  rw [Frame.pirq_eq Dev.rematch_frame (by decide)]
  exact ⟨hraised, fun h => (hready (hpair.trans h)).1⟩

theorem firstCode_of_ne_nil {errs : List Code} (h : errs ≠ []) : ∃ c, firstCode errs = some c := by
  cases errs with
  | nil => exact absurd rfl h
  | cons c errs =>
    unfold firstCode
    split
    · exact ⟨_, rfl⟩
    · split
      · exact ⟨_, rfl⟩
      · exact ⟨_, rfl⟩

theorem ticketRx_mirrors (s : State) (l : Fin 256) (fr : List Byte) (hears : s.dev.hearsCtrl l fr 4) :
    let p := ctrlAt fr 8 1
    let w := ctrlAt fr 9 1
    let num := BitVec.ofNat 16 (ctrlAt fr 10 2)
    let t := BitVec.ofNat 48 (ctrlAt fr 12 6)
    let errs := s.dev.mirrorErrs p num w t (BitVec.ofNat 64 (ctrlAt fr 24 8))
    ¬ (p = pgTRG ∧ w = 1) → isLnb p = false →
    (errs = [] → Completes (.ticketRx l fr) s fun e =>
      (e.page p).armed = some { num := num, when := w, target := t, mirrored := true } ∧ e.pair.txSeq = s.dev.pair.txSeq + 1) ∧
    (errs ≠ [] → Completes (.ticketRx l fr) s fun e => (e.page p).armed = (s.dev.page p).armed ∧ bitAt 5 (e.page pgPAIR).pirq = true ∧
      (s.dev.pair.state = .ready → e.pair.state = .matching)) := by
  intro p w num t errs hplain hlnb
  obtain ⟨hrun, j, hact⟩ := Dev.ctrlRx_hears hears
  have hmirror : s.dev.ticketRx l fr = (s.dev.heard fr j).mirrorTicket fr p num w t (BitVec.ofNat 64 (ctrlAt fr 24 8)) :=
    (hact _).trans (if_neg fun h => hplain ⟨h.1, h.2.1⟩)
  have herrs : (s.dev.heard fr j).mirrorErrs p num w t (BitVec.ofNat 64 (ctrlAt fr 24 8)) = errs := Dev.heard_mirrorErrs ..
  refine ⟨fun hnone => .of_onPage_settled (f := fun d => d.ticketRx l fr) rfl hears.1 ?_,
    fun hsome => .of_onPage_settled (f := fun d => d.ticketRx l fr) rfl hears.1 ?_⟩
  · obtain ⟨hwhen, hstandby⟩ := Dev.mirrorErrs_nil hnone
    have harm : s.dev.ticketRx l fr =
        ((s.dev.heard fr j).armTicket p { num := num, when := w, target := t, mirrored := true }).ack fr 0 := by
      rw [hmirror, Dev.mirrorTicket, herrs, hnone]
      rfl
    obtain ⟨harmed, -⟩ := Dev.armTicket_armed (d := s.dev.heard fr j)
      (k := { num := num, when := w, target := t, mirrored := true }) hwhen hlnb
    have hpair : ((s.dev.heard fr j).armTicket p { num := num, when := w, target := t, mirrored := true }).pair =
        (s.dev.heard fr j).pair := Dev.armTicket_frame.pair_eq (by decide)
    have hstate : (s.dev.ticketRx l fr).sys.state = s.dev.sys.state := Dev.ticketRx_frame.state_eq (by decide)
    have hsent : (s.dev.ticketRx l fr).pair = { (s.dev.heard fr j).pair with txSeq := s.dev.pair.txSeq + 1 } := by
      rw [harm, Dev.ack, Dev.ctrlSend_pair, hpair]
      rfl
    constructor
    · rw [Frame.armed_eq Dev.settle_frame (by decide), harm, Frame.armed_eq Dev.ack_frame (by decide), harmed]
    · rw [Dev.settle_pair_inRun (by rw [hstate]; exact hrun)
        (by rw [hsent]; exact PairState.standby_ne_offline hstandby), hsent]
  · obtain ⟨c, hc⟩ := firstCode_of_ne_nil hsome
    have hrefused : s.dev.ticketRx l fr = (s.dev.heard fr j).mirrorRefused fr c := by
      rw [hmirror, Dev.mirrorTicket, herrs, hc]
    have hstate : (s.dev.ticketRx l fr).sys.state = s.dev.sys.state := Dev.ticketRx_frame.state_eq (by decide)
    have hinRun : noStepState (s.dev.ticketRx l fr).sys.state = true := by rw [hstate]; exact hrun
    obtain ⟨hraised, hready⟩ := (s.dev.heard fr j).mirrorRefused_facts fr c
    rw [← hrefused] at hraised hready
    obtain ⟨-, hpirq⟩ := Dev.settle_inRun hinRun
    refine ⟨?_, ?_, fun h => ?_⟩
    · rw [Frame.armed_eq Dev.settle_frame (by decide), hrefused, Frame.armed_eq Dev.mirrorRefused_frame (by decide)]
      rfl
    · rw [hpirq]
      exact hraised
    · rw [Dev.settle_pair_inRun hinRun (by rw [hready h]; exact PairState.noConfusion)]
      exact hready h

/-- A STOP that the owner mirrors fixes B_last (R467). -/
theorem commandRx_stops (s : State) (l : Fin 256) (fr : List Byte) (hears : s.dev.hearsCtrl l fr 5)
    (hcode : ctrlAt fr 8 1 = 0x11) (hstandby : s.dev.pair.state.standby = true) (hrun : s.dev.sys.state = .running)
    (hopen : s.dev.run.bLast = none) :
    let b := BitVec.ofNat 48 (ctrlAt fr 12 4 + 2 ^ 32 * (ctrlAt fr 16 4 % 65536))
    after b s.dev.time.sfn = true → Completes (.commandRx l fr) s fun e => e.run.bLast = some b := by
  intro b hafter
  obtain ⟨-, j, hact⟩ := Dev.ctrlRx_hears hears
  have hsome : ¬ s.dev.run.bLast.isSome = true := by
    rw [hopen]
    decide
  have hstop : s.dev.commandRx l fr = ((s.dev.heard fr j).stopAt b).ack fr 0 := by
    refine (hact _).trans ?_
    dsimp only
    rw [if_neg (show ¬ (!(s.dev.heard fr j).pair.state.standby) = true by
        rw [show (s.dev.heard fr j).pair.state = s.dev.pair.state from rfl, hstandby]; decide),
      if_pos hcode, if_neg (not_not.2 (show (s.dev.heard fr j).sys.state = .running from hrun)),
      if_neg (show ¬ (s.dev.heard fr j).run.bLast.isSome = true from hsome)]
    exact if_neg (show ¬ (!after b s.dev.time.sfn) = true by rw [hafter]; decide)
  refine .of_onPage_settled (f := fun d => d.commandRx l fr) rfl hears.1 ?_
  rw [hstop, Dev.settle_run, Frame.run_eq Dev.ack_frame (by decide)]
  rfl

/-- A fragment of the thresholds goes into the shadow (R467). -/
theorem threshRx_writes (s : State) (l : Fin 256) (fr : List Byte) (hears : s.dev.hearsCtrl l fr 6)
    (hstandby : s.dev.pair.state.standby = true) (hopen : (s.dev.page pgTRG).locked = false) (hindex : ctrlAt fr 8 2 < 16)
    (hwait : s.dev.pair.thrWait = none) : Completes (.threshRx l fr) s fun e =>
      e.trg.sh = tblPut s.dev.trg.sh (s.dev.req.oThr + 64 * ctrlAt fr 8 2) (slice fr 48 64) ∧ e.trg.tbls = s.dev.trg.tbls := by
  obtain ⟨-, j, hact⟩ := Dev.ctrlRx_hears hears
  have hunlocked : ¬ ((s.dev.heard fr j).page pgTRG).locked = true := by
    rw [show ((s.dev.heard fr j).page pgTRG).locked = (s.dev.page pgTRG).locked from rfl, hopen]
    decide
  have hwrite : ∃ e : Dev, s.dev.threshRx l fr = e.ack fr 0 ∧
      e.trg = { s.dev.trg with sh := tblPut s.dev.trg.sh (s.dev.req.oThr + 64 * ctrlAt fr 8 2) (slice fr 48 64) } := by
    unfold Dev.threshRx
    rw [hact]
    dsimp only
    rw [if_neg (show ¬ (!(s.dev.heard fr j).pair.state.standby) = true by
        rw [show (s.dev.heard fr j).pair.state = s.dev.pair.state from rfl, hstandby]; decide),
      if_neg hunlocked, if_neg (Nat.not_le.2 hindex), show (s.dev.heard fr j).pair.thrWait = none from hwait]
    exact ⟨_, rfl, rfl⟩
  obtain ⟨e, hrx, htrg⟩ := hwrite
  refine .of_onPage_settled (f := fun d => d.threshRx l fr) rfl hears.1 ?_
  rw [hrx, Dev.settle_trg, Frame.trg_eq Dev.ack_frame (by decide), htrg]
  exact ⟨rfl, rfl⟩

/-! ### Watermarks (R472) -/

theorem Dev.promote_pair (d : Dev) : ∃ st, d.promote.pair = { d.pair with state := st } := by
  unfold Dev.promote
  split
  · exact ⟨.ready, by rw [Frame.pair_eq Dev.raise_frame (by decide)]⟩
  · exact ⟨d.pair.state, rfl⟩

theorem Dev.rematch_changes (d : Dev) : ∃ st streak, d.rematch.pair = { d.pair with state := st, streak := streak } := by
  unfold Dev.rematch
  split
  · exact ⟨_, _, rfl⟩
  · exact ⟨d.pair.state, d.pair.streak, rfl⟩

/-- The pair's state once a comparison has the outcome `o`. -/
def PairSt.wmCounted (p : PairSt) (o : Nat) : PairSt := { p with wmOutcome := o, wmCount := p.wmCount + 1 }

/-- The device as it is counted. -/
def Dev.wmCounted (d : Dev) (o : Nat) : Dev := d.setPair (d.pair.wmCounted o)

/-- MATCH lengthens the streak. -/
theorem Dev.wmOutcome_match (d : Dev) (ours : Bool) : ∃ st, (d.wmOutcome 0 ours).pair =
    { d.pair.wmCounted 0 with streak := min 3 (d.pair.streak + 1), state := st } := by
  have hmatch : d.wmOutcome 0 ours =
      (((d.wmCounted 0).setPair { d.pair.wmCounted 0 with streak := min 3 (d.pair.streak + 1) }).bump pgPAIR 0x118).promote := rfl
  obtain ⟨st, hpair⟩ :=
    (((d.wmCounted 0).setPair { d.pair.wmCounted 0 with streak := min 3 (d.pair.streak + 1) }).bump pgPAIR 0x118).promote_pair
  exact ⟨st, by rw [hmatch, hpair]; rfl⟩

/-- MISMATCH ends the streak and is raised. -/
theorem Dev.wmOutcome_mismatch (d : Dev) (ours : Bool) : (∃ st, (d.wmOutcome 1 ours).pair =
    { d.pair.wmCounted 1 with streak := 0, state := st }) ∧ bitAt 1 ((d.wmOutcome 1 ours).page pgPAIR).pirq = true := by
  have hmismatch : d.wmOutcome 1 ours =
      (((d.wmCounted 1).rematch.setPair { (d.wmCounted 1).rematch.pair with streak := 0 }).bump pgPAIR 0x120).raise pgPAIR 0x2 := rfl
  obtain ⟨st, streak, hpair⟩ := (d.wmCounted 1).rematch_changes
  rw [hmismatch]
  refine ⟨⟨st, ?_⟩, Dev.raise_pirq_bit _ _ (by decide)⟩
  rw [Frame.pair_eq Dev.raise_frame (by decide)]
  show ({ (d.wmCounted 1).rematch.pair with streak := 0 } : PairSt) = _
  rw [hpair]
  rfl

/-- NOCOMPARE is counted, and leaves the records. -/
theorem Dev.wmOutcome_none (d : Dev) (ours : Bool) : (d.wmOutcome 2 ours).pair.wmOutcome = 2 ∧
    (d.wmOutcome 2 ours).pair.own = d.pair.own ∧ (d.wmOutcome 2 ours).cnt pgPAIR 0x128 = d.cnt pgPAIR 0x128 + 1 := by
  have hcnt : ((d.wmCounted 2).bump pgPAIR 0x128).cnt pgPAIR 0x128 = d.cnt pgPAIR 0x128 + 1 :=
    (Dev.cnt_bump ..).trans (if_pos rfl)
  have hleft (e : Dev) (st : PairState) (streak : Nat) (hpair : e.pair = { d.pair.wmCounted 2 with state := st, streak := streak })
      (hlive : e.live = ((d.wmCounted 2).bump pgPAIR 0x128).live) : e.pair.wmOutcome = 2 ∧ e.pair.own = d.pair.own ∧
        e.cnt pgPAIR 0x128 = d.cnt pgPAIR 0x128 + 1 := by
    refine ⟨by rw [hpair]; rfl, by rw [hpair]; rfl, ?_⟩
    rw [← hcnt]
    exact congrArg (Tab.get 0 · (bar pgPAIR 0x128)) hlive
  obtain ⟨st, streak, hpair⟩ := ((d.wmCounted 2).bump pgPAIR 0x128).rematch_changes
  have hlive : ((d.wmCounted 2).bump pgPAIR 0x128).rematch.live = ((d.wmCounted 2).bump pgPAIR 0x128).live :=
    Frame.live_eq Dev.rematch_frame (by decide)
  have hnone : d.wmOutcome 2 ours = (if (!((d.wmCounted 2).bump pgPAIR 0x128).pair.state.standby) = true then
      (d.wmCounted 2).bump pgPAIR 0x128 else
      let e := if ours then ((d.wmCounted 2).bump pgPAIR 0x128).rematch else (d.wmCounted 2).bump pgPAIR 0x128
      e.setPair { e.pair with streak := 0 }) := rfl
  rw [hnone]
  split
  · exact hleft _ d.pair.state d.pair.streak rfl rfl
  · cases ours
    · exact hleft _ d.pair.state 0 rfl rfl
    · refine hleft _ st 0 ?_ hlive
      show ({ ((d.wmCounted 2).bump pgPAIR 0x128).rematch.pair with streak := 0 } : PairSt) = _
      rw [hpair]
      rfl

/-- Two valid records of one FIRSTSFN are compared by their watermarks. -/
theorem Dev.wmCompare_both {d : Dev} {first : Sfn} {a b : WmRec} (hown : d.pair.own.find? (·.first == first) = some a)
    (hpeer : d.pair.peers.find? (·.first == first) = some b) (ha : a.bad = false) (hb : b.bad = false) :
    let e := d.setPair { d.pair with own := d.pair.own.filter (·.first != first), peers := d.pair.peers.filter (·.first != first) }
    d.wmCompare first = if a.wm = b.wm then e.wmOutcome 0 false else e.wmOutcome 1 false := by
  intro e
  unfold Dev.wmCompare
  rw [hown, hpeer]
  dsimp only
  rw [ha, hb]
  rfl

/-- The record that a WATERMARK message carries. -/
def wmOf (fr : List Byte) (now : BitVec 64) : WmRec :=
  { first := BitVec.ofNat 48 (ctrlAt fr 8 6), wm := BitVec.ofNat 64 (ctrlAt fr 16 8), bad := ctrlAt fr 14 1 % 2 == 1, at_ := now }

theorem watermarkRx_compares (s : State) (l : Fin 256) (fr : List Byte) (a : WmRec) (hears : s.dev.hearsCtrl l fr 7)
    (hvalid : ctrlAt fr 14 1 % 2 = 0) (ha : a.bad = false)
    (hown : s.dev.pair.own.find? (·.first == BitVec.ofNat 48 (ctrlAt fr 8 6)) = some a) (hpeers : s.dev.pair.peers = []) :
    Completes (.watermarkRx l fr) s fun e => e.pair.wmCount = s.dev.pair.wmCount + 1 ∧ e.pair.peers = [] ∧
      if a.wm = BitVec.ofNat 64 (ctrlAt fr 16 8) then e.pair.wmOutcome = 0 ∧ e.pair.streak = min 3 (s.dev.pair.streak + 1)
      else e.pair.wmOutcome = 1 ∧ e.pair.streak = 0 ∧ bitAt 1 (e.page pgPAIR).pirq = true := by
  obtain ⟨hrun, j, hact⟩ := Dev.ctrlRx_hears hears
  let h := (s.dev.heard fr j).setPair { (s.dev.heard fr j).pair with peers := s.dev.pair.peers ++ [wmOf fr s.dev.time.loc] }
  have hrx : s.dev.watermarkRx l fr = (h.ack fr 0).wmCompare (BitVec.ofNat 48 (ctrlAt fr 8 6)) := hact _
  have hpair : (h.ack fr 0).pair = { h.pair with txSeq := h.pair.txSeq + 1 } := by
    rw [Dev.ack, Dev.ctrlSend_pair]
  have hpeer : (h.ack fr 0).pair.peers = [wmOf fr s.dev.time.loc] := by
    rw [hpair]
    exact congrArg (· ++ [wmOf fr s.dev.time.loc]) hpeers
  have hmine : (h.ack fr 0).pair.own.find? (·.first == BitVec.ofNat 48 (ctrlAt fr 8 6)) = some a := by
    rw [hpair]
    exact hown
  have htheirs : (h.ack fr 0).pair.peers.find? (·.first == BitVec.ofNat 48 (ctrlAt fr 8 6)) = some (wmOf fr s.dev.time.loc) := by
    rw [hpeer, List.find?_cons_of_pos (by simp [wmOf])]
  have hgone : (h.ack fr 0).pair.peers.filter (·.first != BitVec.ofNat 48 (ctrlAt fr 8 6)) = [] := by
    rw [hpeer, List.filter_cons_of_neg (by simp [wmOf]), List.filter_nil]
  have hgood : (wmOf fr s.dev.time.loc).bad = false := by
    simp [wmOf, hvalid]
  have hcount : (h.ack fr 0).pair.wmCount = s.dev.pair.wmCount := by
    rw [hpair]
    rfl
  have hstreak : (h.ack fr 0).pair.streak = s.dev.pair.streak := by
    rw [hpair]
    rfl
  have hcompare := Dev.wmCompare_both hmine htheirs ha hgood
  rw [hgone, ← hrx] at hcompare
  refine .of_onPage_settled (f := fun d => d.watermarkRx l fr) rfl hears.1 ?_
  obtain ⟨⟨st, hsettled⟩, hpirq⟩ := Dev.settle_inRun (d := s.dev.watermarkRx l fr)
    (by rw [Dev.watermarkRx_frame.state_eq (by decide)]; exact hrun)
  rw [hsettled, hpirq]
  dsimp only at hcompare ⊢
  by_cases hsame : a.wm = BitVec.ofNat 64 (ctrlAt fr 16 8)
  · rw [if_pos (show a.wm = (wmOf fr s.dev.time.loc).wm from hsame)] at hcompare
    obtain ⟨st', hout⟩ := Dev.wmOutcome_match ((h.ack fr 0).setPair { (h.ack fr 0).pair with
      own := (h.ack fr 0).pair.own.filter (·.first != BitVec.ofNat 48 (ctrlAt fr 8 6)), peers := [] }) false
    rw [if_pos hsame, hcompare, hout, ← hcount, ← hstreak]
    exact ⟨rfl, rfl, rfl, rfl⟩
  · rw [if_neg (show ¬ a.wm = (wmOf fr s.dev.time.loc).wm from hsame)] at hcompare
    obtain ⟨⟨st', hout⟩, hraised⟩ := Dev.wmOutcome_mismatch ((h.ack fr 0).setPair { (h.ack fr 0).pair with
      own := (h.ack fr 0).pair.own.filter (·.first != BitVec.ofNat 48 (ctrlAt fr 8 6)), peers := [] }) false
    rw [← hcompare] at hraised hout
    rw [if_neg hsame, hout, ← hcount]
    exact ⟨rfl, rfl, rfl, rfl, hraised⟩

theorem watermarkCompareTimeout_gives_up (s : State) (w : WmRec) (hon : s.dev.unitOn pgPAIR = true)
    (hold : s.dev.pair.own.find? (fun w => decide (1000000000 ≤ s.dev.since w.at_)) = some w) :
    Completes .watermarkCompareTimeout s fun e => e.pair.wmOutcome = 2 ∧
      e.pair.own = s.dev.pair.own.filter (·.first != w.first) ∧ e.cnt pgPAIR 0x128 = s.dev.cnt pgPAIR 0x128 + 1 := by
  refine .of_onPage (f := fun d => d.wmTimeout) rfl hon ?_
  have hgiven : s.dev.wmTimeout =
      (s.dev.setPair { s.dev.pair with own := s.dev.pair.own.filter (·.first != w.first) }).wmOutcome 2 w.bad := by
    unfold Dev.wmTimeout
    dsimp only
    rw [hold]
    rfl
  rw [hgiven]
  exact Dev.wmOutcome_none _ _

/-- Settles O59: a message leaves by `ctrlSend`; the first copy of an admitted one acts in a run, where settling leaves what it
did. -/
theorem pairMessagesAreSentAndTaken : Obligations.PairMessagesAreSentAndTaken := by
  unfold Obligations.PairMessagesAreSentAndTaken
  exact ⟨pairMessages_leave, heartbeatRx_tells, grantRx_extends, handoffRx_acts, ticketRx_mirrors, commandRx_stops,
    threshRx_writes, watermarkRx_compares, ackRx_ends, digestRx_compares, watermarkCompareTimeout_gives_up⟩

end Sys2Proof.Machine
